-- ==== Sys2Proof/Word.lean ====
section
/-!
DEFINITION. The word types of the PZ9 and the record of a lane instruction's fields (R9, R14, R169).
-/
namespace Sys2Proof

/-- One byte of memory. -/
abbrev Byte := BitVec 8

/-- A 64-bit register, address or memory word. -/
abbrev Word := BitVec 64

/-- A 32-bit scalar word of code, lane element or mask of 32 slots. -/
abbrev W32 := BitVec 32

/-- The number of a scalar register. -/
abbrev SReg := BitVec 6

/-- One 128-byte line, byte 0 of the line in bits [7:0]. -/
abbrev LineData := BitVec 1024

/-- The fields of a lane instruction other than OP, in the order of R169. -/
structure LaneFields where
  gn  : BitVec 1
  gp  : BitVec 3
  dst : BitVec 8
  sa  : BitVec 10
  sb  : BitVec 10
  sc  : BitVec 10
  ty  : BitVec 4
  i   : BitVec 1
  rnd : BitVec 2
  ftz : BitVec 1
  fam : BitVec 3
  t   : BitVec 1
  imm : BitVec 32
  deriving DecidableEq, Repr

end Sys2Proof
end

