-- ==== Sys2Proof/Config.lean ====
section
/-!
DEFINITION. What one implementation fixes, and the free values: constants without a body, so that nothing can be
proved about what the manual leaves open.
-/
namespace Sys2Proof.Config

/-- A value the manual leaves undefined (assumption 2). The first argument is the step's counter, the second tells
apart the values one step draws. -/
opaque freeBits : Nat → Nat → Word

/-- What a read of a byte yields when it was written under another key or generation of a key slot (R393).
Arguments: the byte stored, the generation it was written under, the generation in force, the address. -/
opaque decryptOther : Byte → Nat → Nat → Nat → Byte

/-- Which enabled choice is taken when the environment's agenda is empty (assumption 3). -/
opaque pick : Nat → Nat

/-- SHA-256 of a sequence of bytes (R381, R398); the standard is not part of the spec (assumption 15). -/
opaque sha256 : List Byte → BitVec 256

/-- Whether an SLH-DSA-SHA2-256s signature of an image verifies under the key whose hash is given
(R381; assumption 15). Arguments: the image, its signature, the hash of the public key. -/
opaque signatureVerifies : List Byte → List Byte → BitVec 256 → Bool

/-- The SLH-DSA signature of the module's identity key over the evidence (R398; assumption 15). -/
opaque sign : List Byte → List Byte

/-- Ticks of the model's clock in one nanosecond of `rt`; every P-state's cycle is a whole number of them. -/
def ticksPerNs : Nat := 342

/-- Ticks of one core cycle in each P-state, coded as DIEPS.TARGET (R7, R395). -/
def cycleTicks (ps : BitVec 2) : Nat :=
  if ps = 0 then 285 else if ps = 1 then 228 else if ps = 2 then 190 else 180

/-- The frequency of each P-state in MHz (R7). -/
def mhz (ps : BitVec 2) : Nat :=
  if ps = 0 then 1200 else if ps = 1 then 1500 else if ps = 2 then 1800 else 1900

/-- The relock gap of every P-state change, in ns (R50). -/
def relockNs : Nat := 3000

/-- Live regions one die holds (R123). -/
def regionsPerDie : Nat := 4096

end Sys2Proof.Config
end

