-- ==== Sys2Proof/Machine/Bits.lean ====
section
/-!
DEFINITION. Bit fields, sign extension and byte order (R9, R13): the helpers the decoder and the meanings share.
-/
namespace Sys2Proof

/-- `bits(x,hi,lo)` of R13, for a natural number: `n` bits from bit `lo` up. -/
def bitsAt (x lo n : Nat) : Nat := x / 2 ^ lo % 2 ^ n

/-- The low `n` bits of a natural number read as a two's-complement integer: `Sext(x,n)` of R13. -/
def sext (n x : Nat) : Int :=
  if x % 2 ^ n < 2 ^ (n - 1) then (x % 2 ^ n : Nat) else ((x % 2 ^ n : Nat) : Int) - (2 ^ n : Nat)

/-- An integer kept to its low 64 bits (R12: assigning to a register keeps its low bits). -/
def toWord (x : Int) : Word := BitVec.ofInt 64 x

/-- The `n` bytes of a number, least significant first (R9). -/
def leBytes : Nat → Nat → List Byte
  | 0, _ => []
  | n + 1, x => BitVec.ofNat 8 x :: leBytes n (x / 256)

/-- The number whose bytes, least significant first, are given (R9). -/
def ofLeBytes : List Byte → Nat
  | [] => 0
  | b :: bs => b.toNat + 256 * ofLeBytes bs

/-- One bit as a truth value. -/
def bit (x : BitVec 1) : Bool := x == 1#1

/-- Bit `k` of a mask of 32 slots. -/
def laneIn (m : W32) (L : Nat) : Bool := m.getLsbD L

/-- The mask of 32 slots whose members satisfy `p`. -/
def maskOf (p : Nat → Bool) : W32 :=
  BitVec.ofNat 32 ((List.range 32).foldl (fun acc L => if p L then acc + 2 ^ L else acc) 0)

/-- The slots of a mask, lowest first. -/
def lanesOf (m : W32) : List Nat := (List.range 32).filter (laneIn m)

/-- The number of slots in a mask. -/
def popMask (m : W32) : Nat := (lanesOf m).length

/-- The first `some` of a list. -/
def firstSome {α : Type} : List (Option α) → Option α
  | [] => none
  | some a :: _ => some a
  | none :: rest => firstSome rest

/-- The least of the defects found, when there is one (R187: the lowest sub-cause applies). -/
def leastDefect : List (Option Nat) → Option Nat
  | [] => none
  | none :: rest => leastDefect rest
  | some a :: rest =>
    match leastDefect rest with
    | none => some a
    | some b => some (if a ≤ b then a else b)

/-- A defect when the condition holds. -/
def defect (b : Bool) (sub : Nat) : Option Nat := if b then some sub else none

end Sys2Proof
end

