-- ==== Sys2Proof/Machine/Flags.lean ====
section
/-!
DEFINITION. The sticky arithmetic flags of `aflags` (R160, R161).
-/
namespace Sys2Proof

/-- A set of arithmetic flags, laid out as `aflags` [5:0]. -/
abbrev AFlags := BitVec 6

/-- Invalid. -/
def fNV : AFlags := 0x01
/-- Divide by zero. -/
def fDZ : AFlags := 0x02
/-- Overflow. -/
def fOF : AFlags := 0x04
/-- Underflow. -/
def fUF : AFlags := 0x08
/-- Inexact. -/
def fNX : AFlags := 0x10
/-- Integer overflow in a `.chk` form. -/
def fIOV : AFlags := 0x20

/-- A flag when the condition holds. -/
def flagIf (b : Bool) (f : AFlags) : AFlags := if b then f else 0

/-- Every flag of a list of results (R161). -/
def orFlags (l : List AFlags) : AFlags := l.foldl (· ||| ·) 0

/-- Flags without NX, for the instructions that never set it (R161, R234). -/
def noNX (f : AFlags) : AFlags := f &&& 0x2F

end Sys2Proof
end

