-- ==== Sys2Proof/Machine/Numbers.lean ====
section
/-!
DEFINITION. Number formats and rounding (R142 to R159): exact values, the four rounding modes, the IEEE and bf16
operations, the tapered formats, and drains.
-/
namespace Sys2Proof

/-- An IEEE-shaped format: exponent bits and fraction bits (R145). -/
structure Fmt where
  e : Nat
  m : Nat
  deriving DecidableEq, Repr

def F32 : Fmt := ⟨8, 23⟩
def F64 : Fmt := ⟨11, 52⟩
def F16 : Fmt := ⟨5, 10⟩
def BF16 : Fmt := ⟨8, 7⟩

/-- Width in bits. -/
def Fmt.bits (f : Fmt) : Nat := 1 + f.e + f.m

/-- Exponent bias. -/
def Fmt.bias (f : Fmt) : Nat := 2 ^ (f.e - 1) - 1

/-- Exponent of the smallest normal value. -/
def Fmt.emin (f : Fmt) : Int := 1 - (f.bias : Int)

/-- Exponent of the largest finite value. -/
def Fmt.emax (f : Fmt) : Int := f.bias

/-- The scalar element format of a float TY code (R169); a packed type gives its elements' format. -/
def fmtOfTy (ty : Nat) : Fmt :=
  if ty = 3 then F32 else if ty = 6 then F64 else if ty = 7 ∨ ty = 9 then F16 else BF16

/-- A value of a float format: a NaN, an infinity, or ± `man` · 2^`exp`. -/
inductive FVal where
  | nan (sig : Bool)
  | inf (neg : Bool)
  | fin (neg : Bool) (man : Nat) (exp : Int)
  deriving DecidableEq, Repr

/-- The value of the bits of a format (R145, R146). -/
def fdecode (f : Fmt) (w : Nat) : FVal :=
  let neg := bitsAt w (f.e + f.m) 1 = 1
  let ex := bitsAt w f.m f.e
  let fr := bitsAt w 0 f.m
  if ex = 2 ^ f.e - 1 then
    if fr = 0 then .inf neg else .nan (bitsAt w (f.m - 1) 1 = 0)
  else if ex = 0 then .fin neg fr (f.emin - f.m)
  else .fin neg (2 ^ f.m + fr) ((ex : Int) - f.bias - f.m)

/-- The bits of the canonical NaN (R146). -/
def canonNaN (f : Fmt) : Nat := (2 ^ f.e - 1) * 2 ^ f.m + 2 ^ (f.m - 1)

/-- The bits of a signed infinity. -/
def infBits (f : Fmt) (neg : Bool) : Nat := (if neg then 2 ^ (f.e + f.m) else 0) + (2 ^ f.e - 1) * 2 ^ f.m

/-- The bits of a signed zero. -/
def zeroBits (f : Fmt) (neg : Bool) : Nat := if neg then 2 ^ (f.e + f.m) else 0

/-- The bits of the largest finite value of a sign. -/
def maxBits (f : Fmt) (neg : Bool) : Nat := infBits f neg - 1

/-- A rounding mode, coded as MD[38:37] (R150): 0 nearest-even, 1 toward zero, 2 down, 3 up. -/
abbrev RMode := Nat

/-- Whether a discarded part makes the magnitude round up: `q` kept, `rem` of `2^sh` discarded (R149). -/
def roundsUp (mode : RMode) (neg : Bool) (q rem sh : Nat) : Bool :=
  if rem = 0 then false
  else if mode = 0 then
    let half := 2 ^ (sh - 1)
    half < rem || (rem == half && q % 2 == 1)
  else if mode = 1 then false
  else if mode = 2 then neg
  else !neg

/-- `man` with its low `sh` bits rounded off, and whether that was inexact. The shift is bounded by the length, beyond
which nothing changes. -/
def roundShift (mode : RMode) (neg : Bool) (man sh : Nat) : Nat × Bool :=
  let sh' := min sh (Nat.log2 man + 3)
  let q := man / 2 ^ sh'
  let rem := man % 2 ^ sh'
  (if roundsUp mode neg q rem sh' then q + 1 else q, rem != 0)

/-- ± `man` · 2^`exp`, `man` not zero, rounded into a format (R149, R147): bits and flags. -/
def roundFin (f : Fmt) (mode : RMode) (ftz : Bool) (neg : Bool) (man : Nat) (exp : Int) : Nat × AFlags :=
  let p := f.m + 1
  let len := Nat.log2 man + 1
  let top : Int := exp + len - p
  let ovf : Nat × AFlags :=
    (if mode = 0 ∨ (mode = 2 ∧ neg) ∨ (mode = 3 ∧ !neg) then infBits f neg else maxBits f neg, fOF ||| fNX)
  if f.emax + 1 < exp + len - 1 then ovf
  else
    -- the rounding as if the exponent range were unbounded decides tininess
    let un := if p < len then (roundShift mode neg man (len - p)).1 else man
    let unTop : Int := (if p < len then exp + (len - p : Nat) else exp) + Nat.log2 un
    let tiny : Bool := unTop < f.emin
    if tiny && ftz then (zeroBits f neg, fUF ||| fNX)
    else
      let qe : Int := max top (f.emin - f.m)
      let r := if exp < qe then roundShift mode neg man (qe - exp).toNat else (man * 2 ^ (exp - qe).toNat, false)
      let q := if r.1 = 2 ^ p then 2 ^ (p - 1) else r.1
      let qx : Int := if r.1 = 2 ^ p then qe + 1 else qe
      if q = 0 then (zeroBits f neg, flagIf (tiny && r.2) fUF ||| flagIf r.2 fNX)
      else if f.emax < qx + Nat.log2 q then ovf
      else
        let body := if q < 2 ^ f.m then q else ((qx + f.m + f.bias).toNat) * 2 ^ f.m + (q - 2 ^ f.m)
        (zeroBits f neg + body, flagIf (tiny && r.2) fUF ||| flagIf r.2 fNX)

/-- An exact value rounded into a format; a zero keeps its sign, infinities pass, NaNs become canonical (R149). -/
def roundVal (f : Fmt) (mode : RMode) (ftz : Bool) (v : FVal) : Nat × AFlags :=
  match v with
  | .nan _ => (canonNaN f, 0)
  | .inf neg => (infBits f neg, 0)
  | .fin neg man exp => if man = 0 then (zeroBits f neg, 0) else roundFin f mode ftz neg man exp

/-- Reads an operand; under FTZ a subnormal reads as zero of its sign (R147). -/
def fread (f : Fmt) (ftz : Bool) (w : Nat) : FVal :=
  match fdecode f w with
  | .fin neg man exp => if ftz && man < 2 ^ f.m then .fin neg 0 exp else .fin neg man exp
  | v => v

/-- Whether a value is a signalling NaN. -/
def isSNaN : FVal → Bool
  | .nan sig => sig
  | _ => false

/-- Whether a value is a NaN. -/
def isNaN : FVal → Bool
  | .nan _ => true
  | _ => false

/-- NV for signalling operands (R146). -/
def snanFlag (l : List FVal) : AFlags := flagIf (l.any isSNaN) fNV

/-- The sign bit of a value that is not a NaN. -/
def signOf : FVal → Bool
  | .nan _ => false
  | .inf neg => neg
  | .fin neg _ _ => neg

/-- A finite value as an integer at exponent `e`, which must not exceed its own. -/
def atExp (neg : Bool) (man : Nat) (exp e : Int) : Int :=
  let n : Int := man * 2 ^ (exp - e).toNat
  if neg then -n else n

/-- The exact sum of two values under a mode, which decides the sign of an exact zero (R149). -/
def addExact (mode : RMode) (a b : FVal) : FVal × AFlags :=
  match a, b with
  | .nan _, _ => (.nan false, 0)
  | _, .nan _ => (.nan false, 0)
  | .inf x, .inf y => if x = y then (.inf x, 0) else (.nan false, fNV)
  | .inf x, _ => (.inf x, 0)
  | _, .inf y => (.inf y, 0)
  | .fin na ma ea, .fin nb mb eb =>
    let e := min ea eb
    let s := atExp na ma ea e + atExp nb mb eb e
    if s = 0 then (.fin (if na = nb then na else mode = 2) 0 e, 0)
    else (.fin (s < 0) s.natAbs e, 0)

/-- The exact product of two values. -/
def mulExact (a b : FVal) : FVal × AFlags :=
  match a, b with
  | .nan _, _ => (.nan false, 0)
  | _, .nan _ => (.nan false, 0)
  | .inf x, .inf y => (.inf (x != y), 0)
  | .inf x, .fin y m _ => if m = 0 then (.nan false, fNV) else (.inf (x != y), 0)
  | .fin x m _, .inf y => if m = 0 then (.nan false, fNV) else (.inf (x != y), 0)
  | .fin x m e, .fin y n g => (.fin (x != y) (m * n) (e + g), 0)

/-- A value with its sign inverted. -/
def negVal : FVal → FVal
  | .nan s => .nan s
  | .inf n => .inf (!n)
  | .fin n m e => .fin (!n) m e

/-- Rounds the exact result of an operation, with the flags raised before. -/
def finishOp (f : Fmt) (mode : RMode) (ftz : Bool) (ops : List FVal) (r : FVal × AFlags) : Nat × AFlags :=
  let x := roundVal f mode ftz r.1
  (x.1, x.2 ||| r.2 ||| snanFlag ops)

/-- `fadd` (R232). -/
def opAdd (f : Fmt) (mode : RMode) (ftz : Bool) (a b : Nat) : Nat × AFlags :=
  let x := fread f ftz a
  let y := fread f ftz b
  finishOp f mode ftz [x, y] (addExact mode x y)

/-- `fsub` (R232). -/
def opSub (f : Fmt) (mode : RMode) (ftz : Bool) (a b : Nat) : Nat × AFlags :=
  let x := fread f ftz a
  let y := fread f ftz b
  finishOp f mode ftz [x, y] (addExact mode x (negVal y))

/-- `fmul` (R232). -/
def opMul (f : Fmt) (mode : RMode) (ftz : Bool) (a b : Nat) : Nat × AFlags :=
  let x := fread f ftz a
  let y := fread f ftz b
  finishOp f mode ftz [x, y] (mulExact x y)

/-- `ffma`: one rounding; 0 · ∞ + c is NaN with NV for any c (R232). -/
def opFma (f : Fmt) (mode : RMode) (ftz : Bool) (a b c : Nat) : Nat × AFlags :=
  let x := fread f ftz a
  let y := fread f ftz b
  let z := fread f ftz c
  let p := mulExact x y
  let r := addExact mode p.1 z
  finishOp f mode ftz [x, y, z] (r.1, r.2 ||| p.2)

/-- The quotient of two positive integers to at least `bits` bits, its last bit set when it is inexact: mantissa and
exponent. -/
def quotSticky (bits n d : Nat) : Nat × Int :=
  let k := bits + (Nat.log2 d + 1)
  let q := n * 2 ^ k / d
  let r := n * 2 ^ k % d
  (2 * q + (if r = 0 then 0 else 1), -((k : Int) + 1))

/-- `fdiv` (R232). -/
def opDiv (f : Fmt) (mode : RMode) (ftz : Bool) (a b : Nat) : Nat × AFlags :=
  let x := fread f ftz a
  let y := fread f ftz b
  let r : FVal × AFlags :=
    match x, y with
    | .nan _, _ => (.nan false, 0)
    | _, .nan _ => (.nan false, 0)
    | .inf _, .inf _ => (.nan false, fNV)
    | .inf n, .fin m _ _ => (.inf (n != m), 0)
    | .fin n _ e, .inf m => (.fin (n != m) 0 e, 0)
    | .fin n mx ex, .fin m my ey =>
      if my = 0 then
        if mx = 0 then (.nan false, fNV) else (.inf (n != m), fDZ)
      else if mx = 0 then (.fin (n != m) 0 ex, 0)
      else
        let q := quotSticky (f.m + 4) mx my
        (.fin (n != m) q.1 (q.2 + ex - ey), 0)
  finishOp f mode ftz [x, y] r

/-- One step of the integer square root: bit `k` of the root is set if the square still fits. -/
def isqrtGo (n : Nat) : Nat → Nat → Nat
  | 0, r => r
  | k + 1, r => isqrtGo n k (if (r + 2 ^ k) * (r + 2 ^ k) ≤ n then r + 2 ^ k else r)

/-- The integer square root, rounded down. -/
def isqrt (n : Nat) : Nat := isqrtGo n (Nat.log2 n / 2 + 1) 0

/-- The square root of `man` · 2^`exp` to at least `bits` bits, its last bit set when inexact. -/
def sqrtSticky (bits man : Nat) (exp : Int) : Nat × Int :=
  let k := 2 * bits + (if exp % 2 = 0 then 0 else 1)
  let n := man * 2 ^ k
  let r := isqrt n
  (2 * r + (if r * r = n then 0 else 1), (exp - k) / 2 - 1)

/-- `fsqrt`: correctly rounded, √−0 = −0 (R232). It never sets NX: R232 leaves flags to R161, which says so of `fsqrt` by name
(assumption 17). -/
def opSqrt (f : Fmt) (mode : RMode) (ftz : Bool) (a : Nat) : Nat × AFlags :=
  let x := fread f ftz a
  let r : FVal × AFlags :=
    match x with
    | .nan _ => (.nan false, 0)
    | .inf neg => if neg then (.nan false, fNV) else (.inf false, 0)
    | .fin neg man exp =>
      if man = 0 then (.fin neg 0 exp, 0)
      else if neg then (.nan false, fNV)
      else
        let q := sqrtSticky (f.m + 4) man exp
        (.fin false q.1 q.2, 0)
  let y := finishOp f mode ftz [x] r
  (y.1, noNX y.2)

/-- Order of two values that are not NaN, with −0 below +0: negative, zero or positive. -/
def cmpVal (a b : FVal) : Int :=
  match a, b with
  | .inf x, .inf y => if x = y then 0 else if x then -1 else 1
  | .inf x, _ => if x then -1 else 1
  | _, .inf y => if y then 1 else -1
  | .fin na ma ea, .fin nb mb eb =>
    let e := min ea eb
    let d := atExp na ma ea e - atExp nb mb eb e
    if d < 0 then -1 else if 0 < d then 1
    else if ma = 0 ∧ mb = 0 ∧ na ≠ nb then (if na then -1 else 1)
    else 0
  | _, _ => 0

/-- `fmin` (`wantMax` false) and `fmax` (R148): IEEE minimumNumber and maximumNumber, or with `nanForm` any NaN gives
the canonical NaN. -/
def opMinMax (f : Fmt) (ftz wantMax nanForm : Bool) (a b : Nat) : Nat × AFlags :=
  let x := fread f ftz a
  let y := fread f ftz b
  let fl := snanFlag [x, y]
  let out (v : FVal) : Nat × AFlags := ((roundVal f 0 false v).1, fl)
  if isNaN x ∧ isNaN y then (canonNaN f, fl)
  else if isNaN x then if nanForm then (canonNaN f, fl) else out y
  else if isNaN y then if nanForm then (canonNaN f, fl) else out x
  else if (cmpVal x y < 0) != wantMax then out x else out y

/-- `fcmp` (R233): FAM selects the comparison. -/
def opCmp (f : Fmt) (ftz : Bool) (fam : Nat) (a b : Nat) : Bool × AFlags :=
  let x := fread f ftz a
  let y := fread f ftz b
  let un := isNaN x || isNaN y
  let z : Bool := match x, y with
    | .fin _ 0 _, .fin _ 0 _ => true
    | _, _ => false
  let c : Int := if z then 0 else cmpVal x y
  let ordered (p : Bool) : Bool := !un && p
  let r : Bool :=
    if fam = 0 then ordered (c == 0)
    else if fam = 1 then un || c != 0
    else if fam = 2 then ordered (c < 0)
    else if fam = 3 then ordered (c ≤ 0)
    else if fam = 4 then ordered (0 < c)
    else if fam = 5 then ordered (0 ≤ c)
    else if fam = 6 then !un
    else un
  (r, flagIf (isSNaN x || isSNaN y || (un && 2 ≤ fam && fam ≤ 5)) fNV)

/-- `fclass` (R235). -/
def opClass (f : Fmt) (ftz : Bool) (a : Nat) : Nat :=
  match fread f ftz a with
  | .nan sig => if sig then 2 ^ 8 else 2 ^ 9
  | .inf neg => if neg then 2 ^ 0 else 2 ^ 7
  | .fin neg man _ =>
    if man = 0 then (if neg then 2 ^ 3 else 2 ^ 4)
    else if man < 2 ^ f.m then (if neg then 2 ^ 2 else 2 ^ 5)
    else (if neg then 2 ^ 1 else 2 ^ 6)

/-- A finite value rounded to an integer by a mode: the magnitude, and whether that was inexact. -/
def toIntegral (mode : RMode) (neg : Bool) (man : Nat) (exp : Int) : Nat × Bool :=
  if 0 ≤ exp then (man * 2 ^ exp.toNat, false) else roundShift mode neg man (-exp).toNat

/-- `ftrunc` (R232): an integral value in its own format; no NX. -/
def opTrunc (f : Fmt) (mode : RMode) (ftz : Bool) (a : Nat) : Nat × AFlags :=
  let x := fread f ftz a
  match x with
  | .nan sig => (canonNaN f, flagIf sig fNV)
  | .inf neg => (infBits f neg, 0)
  | .fin neg man exp =>
    let r := toIntegral mode neg man exp
    ((roundVal f 1 false (.fin neg r.1 0)).1, 0)

/-- `fldx` (R232): a · 2^b rounded once. -/
def opLdx (f : Fmt) (mode : RMode) (ftz : Bool) (a : Nat) (b : Int) : Nat × AFlags :=
  let x := fread f ftz a
  let r : FVal := match x with
    | .fin neg man exp => .fin neg man (exp + b)
    | v => v
  finishOp f mode ftz [x] (r, 0)

/-! ### Conversions (R150, R237) -/

/-- Float to float. -/
def cvtFF (src dst : Fmt) (mode : RMode) (ftz : Bool) (a : Nat) : Nat × AFlags :=
  let x := fread src ftz a
  finishOp dst mode ftz [x] (x, 0)

/-- Integer to float. -/
def cvtIF (dst : Fmt) (mode : RMode) (ftz : Bool) (v : Int) : Nat × AFlags :=
  roundVal dst mode ftz (.fin (v < 0) v.natAbs 0)

/-- Smallest value of an integer type of `w` bits. -/
def intMin (w : Nat) (signed : Bool) : Int := if signed then -(2 ^ (w - 1) : Nat) else 0

/-- Largest value of an integer type of `w` bits. -/
def intMax (w : Nat) (signed : Bool) : Int := if signed then (2 ^ (w - 1) : Nat) - 1 else (2 ^ w : Nat) - 1

/-- Float to integer: rounded, the nearest bound with NV out of range, 0 with NV for a NaN. -/
def cvtFI (src : Fmt) (mode : RMode) (ftz : Bool) (w : Nat) (signed : Bool) (a : Nat) : Int × AFlags :=
  match fread src ftz a with
  | .nan _ => (0, fNV)
  | .inf neg => (if neg then intMin w signed else intMax w signed, fNV)
  | .fin neg man exp =>
    let r := toIntegral mode neg man exp
    let v : Int := if neg then -(r.1 : Int) else r.1
    if v < intMin w signed then (intMin w signed, fNV)
    else if intMax w signed < v then (intMax w signed, fNV)
    else (v, flagIf r.2 fNX)

/-! ### Tapered formats (R151 to R156, R159) -/

/-- A tapered value: NaR, or ± `man` · 2^`exp`. -/
inductive TVal where
  | nar
  | val (neg : Bool) (man : Nat) (exp : Int)
  deriving DecidableEq, Repr

/-- Length of the run of bits equal to `b` from bit `i` downward. -/
def tapRun (w b : Nat) : Nat → Nat
  | 0 => if bitsAt w 0 1 = b then 1 else 0
  | i + 1 => if bitsAt w (i + 1) 1 = b then 1 + tapRun w b i else 0

/-- Decodes a tapered word of `n` bits with `es` exponent bits (R151): tap8 is 8 and 1, tap6 is 6 and 0. -/
def tapDecode (n es w : Nat) : TVal :=
  if w = 0 then .val false 0 0
  else if w = 2 ^ (n - 1) then .nar
  else
    let neg := decide (bitsAt w (n - 1) 1 = 1)
    let v := if neg then 2 ^ n - w else w
    let b := bitsAt v (n - 2) 1
    let k := tapRun v b (n - 2)
    let reg : Int := if b = 1 then (k : Int) - 1 else -(k : Int)
    -- bits left below the terminating bit
    let left := n - 2 - k
    let e := if es = 1 ∧ 0 < left then bitsAt v (left - 1) 1 else 0
    let fl := if es = 1 then left - 1 else left
    .val neg (2 ^ fl + bitsAt v 0 fl) ((1 + es : Nat) * reg + e - fl)

/-- Whether ± `m` · 2^`e` is below `n` · 2^`g`, both magnitudes. -/
def magLt (m : Nat) (e : Int) (n : Nat) (g : Int) : Bool :=
  let x := min e g
  m * 2 ^ (e - x).toNat < n * 2 ^ (g - x).toNat

/-- The positive tapered words below the largest, in order, whose value does not exceed the magnitude: the largest such
word, 0 when none. -/
def tapFloor (n es : Nat) (man : Nat) (exp : Int) : Nat → Nat
  | 0 => 0
  | w + 1 =>
    match tapDecode n es (w + 1) with
    | .val _ m e => if magLt man exp m e then tapFloor n es man exp w else w + 1
    | .nar => 0

/-- A tapered word of a magnitude's word and a sign: the two's complement of the whole word when negative. -/
def tapSign (n : Nat) (neg : Bool) (w : Nat) : Nat := if neg ∧ w ≠ 0 then 2 ^ n - w else w

/-- Encodes a value into a tapered format, nearest-even (R153). -/
def tapEncode (n es : Nat) (v : FVal) : Nat × AFlags :=
  let top := 2 ^ (n - 1) - 1
  match v with
  | .nan _ => (2 ^ (n - 1), fNV)
  | .inf _ => (2 ^ (n - 1), fNV)
  | .fin neg man exp =>
    if man = 0 then (0, 0)
    else
      let lo := tapFloor n es man exp top
      match tapDecode n es lo with
      | .nar => (0, 0)
      | .val _ ml el =>
        if lo = 0 then (tapSign n neg 1, fUF ||| fNX)
        else if lo = top then
          (tapSign n neg top, flagIf (magLt ml el man exp) (fOF ||| fNX))
        else if !magLt ml el man exp then (tapSign n neg lo, 0)
        else
          match tapDecode n es (lo + 1) with
          | .nar => (0, 0)
          | .val _ mh eh =>
            -- compare 2·x with lo + hi
            let x := min exp (min el eh)
            let twice := 2 * (man * 2 ^ (exp - x).toNat)
            let sum := ml * 2 ^ (el - x).toNat + mh * 2 ^ (eh - x).toNat
            let pick := if twice < sum then lo else if sum < twice then lo + 1 else if lo % 2 = 0 then lo else lo + 1
            (tapSign n neg pick, fNX)

/-- The drain of a value into a tapered format (R159): the largest magnitude not above |x|, at least the smallest. -/
def tapDrain (n es : Nat) (v : FVal) : Nat :=
  match v with
  | .nan _ => 2 ^ (n - 1)
  | .inf _ => 2 ^ (n - 1)
  | .fin neg man exp =>
    if man = 0 then 0
    else
      let lo := tapFloor n es man exp (2 ^ (n - 1) - 1)
      tapSign n neg (if lo = 0 then 1 else lo)

/-- A tapered value as a float value; NaR becomes a NaN. -/
def tapVal (t : TVal) (scale : Int) : FVal :=
  match t with
  | .nar => .nan false
  | .val neg man exp => .fin neg man (exp + scale)

/-! ### Matrix sums (R157, R158) -/

/-- The exact sum of a group of products: NaN, infinity or exact value. The sum starts from +0, so that a group whose products are
all −0 sums to +0: the spec gives an exact sum no sign, and this one is the model's choice (assumption 57). -/
def groupSum : List (FVal × FVal) → FVal
  | [] => .fin false 0 0
  | (a, b) :: rest => (addExact 0 (mulExact a b).1 (groupSum rest)).1

/-- One accumulation step: c + the group's sum, rounded to nearest-even; no flag. -/
def accumulate (f : Fmt) (c : Nat) (g : FVal) : Nat :=
  (roundVal f 0 false (addExact 0 (fdecode f c) g).1).1

/-- f32 bits as f64 bits, exactly; a NaN keeps its leading fraction bits (R176). -/
def widen32 (w : Nat) : Nat :=
  match fdecode F32 w with
  | .nan _ => bitsAt w 31 1 * 2 ^ 63 + (2 ^ 11 - 1) * 2 ^ 52 + bitsAt w 0 23 * 2 ^ 29
  | v => (roundVal F64 0 false v).1

end Sys2Proof
end

