-- ==== Sys2Proof/Machine/Tab.lean ====
section
/-!
DEFINITION. Sparse tables: lists of (number, value) pairs with rising numbers. Register files, memories and the
machine's records are held in them. `find?`, `put` and `del` treat an unlisted number as absent; `get` and `set` treat
it as a default value and list no entry equal to that default, so equal tables are equal data.
-/
namespace Sys2Proof

/-- A sparse table. -/
abbrev Tab (α : Type) := List (Nat × α)

/-- The entry listed under `k`. -/
def tabFind {α : Type} : Tab α → Nat → Option α
  | [], _ => none
  | (k', v) :: t, k => if k' = k then some v else tabFind t k

/-- Lists `v` under `k`, in place of any entry there. -/
def tabPut {α : Type} : Tab α → Nat → α → Tab α
  | [], k, v => [(k, v)]
  | (k', v') :: t, k, v =>
    if k < k' then (k, v) :: (k', v') :: t
    else if k' = k then (k, v) :: t
    else (k', v') :: tabPut t k v

/-- Removes every entry listed under `k`. -/
def tabDel {α : Type} (t : Tab α) (k : Nat) : Tab α := t.filter (fun p => p.1 != k)

/-- The value under `k`, the default where nothing is listed. -/
def tabGet {α : Type} (d : α) (t : Tab α) (k : Nat) : α := (tabFind t k).getD d

/-- Sets the value under `k`; a value equal to the default is not listed. -/
def tabSet {α : Type} [DecidableEq α] (d : α) (t : Tab α) (k : Nat) (v : α) : Tab α :=
  if v = d then tabDel t k else tabPut t k v

/-- Applies `f` to the entry under `k`, if there is one. -/
def tabMod {α : Type} (t : Tab α) (k : Nat) (f : α → α) : Tab α :=
  t.map (fun p => if p.1 = k then (p.1, f p.2) else p)

/-- The entries as values. -/
def tabVals {α : Type} (t : Tab α) : List α := t.map (·.2)

/-- Two tables of stamps joined by the greater. -/
def maxTab (a b : Tab Nat) : Tab Nat := b.foldl (fun acc p => tabPut acc p.1 (max p.2 (tabGet 0 acc p.1))) a

/-- Two tables of tables of stamps joined by the greater. -/
def maxTab2 (a b : Tab (Tab Nat)) : Tab (Tab Nat) :=
  b.foldl (fun acc p => tabPut acc p.1 (maxTab (tabGet [] acc p.1) p.2)) a

/-- Puts one stamp under each of `n` numbers from `off` up. -/
def stampTab (m : Tab Nat) (off n v : Nat) : Tab Nat := (List.range n).foldl (fun acc k => tabPut acc (off + k) v) m

/-- Whether the stamps of one table reach those of another under each of `n` numbers from `off` up. -/
def reaches (have_ want : Tab Nat) (off n : Nat) : Bool :=
  (List.range n).all fun k => tabGet 0 want (off + k) ≤ tabGet 0 have_ (off + k)

/-- The part of a table of stamps under `n` numbers from `off` up. -/
def stampPart (m : Tab Nat) (off n : Nat) : Tab Nat := m.filter fun p => off ≤ p.1 && p.1 < off + n

/-- Whether the numbers rise strictly. -/
def tabSorted {α : Type} : Tab α → Bool
  | [] => true
  | [_] => true
  | (k, _) :: (k', v') :: t => decide (k < k') && tabSorted ((k', v') :: t)

/-- The canonical form against a default: numbers rise strictly, and no entry equals the default. -/
def tabWf {α : Type} [DecidableEq α] (d : α) (t : Tab α) : Bool := tabSorted t && t.all (fun p => p.2 != d)

end Sys2Proof
end

