-- ==== Sys2Proof/Syntax.lean ====
section
/-!
DEFINITION. The instructions of the PZ9, one constructor for each row of spec/opcode_table.json: scalar words (R188),
lane instructions (R190), and the hardware events the table lists (95_what_each_step_holds.md), whose operands name
the thread, operation, line or register they act on.
-/
namespace Sys2Proof

/-- One instruction or hardware event. Operand fields are raw: a field value the manual reserves is a value here,
and `WellFormed` refuses it. -/
inductive Instr where
  -- scalar instructions (R188)
  /-- SADD (R196). Adds two scalar registers per item, wrapping modulo 2^64, with the result form chosen by R20. -/
  | sadd (d : BitVec 6) (a : BitVec 6) (b : BitVec 6)
  /-- SSUB (R196). Subtracts sB from sA per item, wrapping modulo 2^64. -/
  | ssub (d : BitVec 6) (a : BitVec 6) (b : BitVec 6)
  /-- SMUL (R196). Multiplies two scalars per item and keeps the low 64 bits. -/
  | smul (d : BitVec 6) (a : BitVec 6) (b : BitVec 6)
  /-- SMULH (R196). Writes the high 64 bits of the signed product. -/
  | smulh (d : BitVec 6) (a : BitVec 6) (b : BitVec 6)
  /-- SMULHN (R196). Writes the high 64 bits of the unsigned product. -/
  | smulhn (d : BitVec 6) (a : BitVec 6) (b : BitVec 6)
  /-- SAND (R196). Bitwise AND of two scalars. -/
  | sand (d : BitVec 6) (a : BitVec 6) (b : BitVec 6)
  /-- SOR (R196). Bitwise OR of two scalars. -/
  | sor (d : BitVec 6) (a : BitVec 6) (b : BitVec 6)
  /-- SXOR (R196). Bitwise XOR of two scalars. -/
  | sxor (d : BitVec 6) (a : BitVec 6) (b : BitVec 6)
  /-- SSHL (R196). Shifts sA left by bits [5:0] of sB. -/
  | sshl (d : BitVec 6) (a : BitVec 6) (b : BitVec 6)
  /-- SSHR (R196). Logical right shift of sA by bits [5:0] of sB. -/
  | sshr (d : BitVec 6) (a : BitVec 6) (b : BitVec 6)
  /-- SSRA (R196). Arithmetic right shift of sA by bits [5:0] of sB. -/
  | ssra (d : BitVec 6) (a : BitVec 6) (b : BitVec 6)
  /-- SMIN (R196). Signed minimum of two scalars. -/
  | smin (d : BitVec 6) (a : BitVec 6) (b : BitVec 6)
  /-- SMAX (R196). Signed maximum of two scalars. -/
  | smax (d : BitVec 6) (a : BitVec 6) (b : BitVec 6)
  /-- SMINN (R196). Unsigned minimum of two scalars. -/
  | sminn (d : BitVec 6) (a : BitVec 6) (b : BitVec 6)
  /-- SMAXN (R196). Unsigned maximum of two scalars. -/
  | smaxn (d : BitVec 6) (a : BitVec 6) (b : BitVec 6)
  /-- SDIV (R196). Signed division truncating toward zero, giving 0 for a zero divisor. -/
  | sdiv (d : BitVec 6) (a : BitVec 6) (b : BitVec 6)
  /-- SDIVN (R196). Unsigned division, giving 0 for a zero divisor. -/
  | sdivn (d : BitVec 6) (a : BitVec 6) (b : BitVec 6)
  /-- SREM (R196). Signed remainder, giving sA for a zero divisor. -/
  | srem (d : BitVec 6) (a : BitVec 6) (b : BitVec 6)
  /-- SREMN (R196). Unsigned remainder, giving sA for a zero divisor. -/
  | sremn (d : BitVec 6) (a : BitVec 6) (b : BitVec 6)
  /-- SCLZ (R196). Counts the leading zero bits of sA over 64 bits. -/
  | sclz (d : BitVec 6) (a : BitVec 6)
  /-- SPOP (R196). Counts the one bits of sA. -/
  | spop (d : BitVec 6) (a : BitVec 6)
  /-- SAFFX (R196). Adds sB times ix, adding sB to the x stride of an affine result. -/
  | saffx (d : BitVec 6) (a : BitVec 6) (b : BitVec 6)
  /-- SAFFY (R196). Adds sB times iy, adding sB to the y stride of an affine result. -/
  | saffy (d : BitVec 6) (a : BitVec 6) (b : BitVec 6)
  /-- SAFFZ (R196). Adds sB times iz, adding sB to the z stride of an affine result. -/
  | saffz (d : BitVec 6) (a : BitVec 6) (b : BitVec 6)
  /-- SADDI (R197). Adds a sign-extended 14-bit immediate to sA. -/
  | saddi (d : BitVec 6) (a : BitVec 6) (i : BitVec 14)
  /-- SANDI (R197). ANDs sA with a sign-extended immediate. -/
  | sandi (d : BitVec 6) (a : BitVec 6) (i : BitVec 14)
  /-- SORI (R197). ORs sA with a sign-extended immediate. -/
  | sori (d : BitVec 6) (a : BitVec 6) (i : BitVec 14)
  /-- SXORI (R197). XORs sA with a sign-extended immediate. -/
  | sxori (d : BitVec 6) (a : BitVec 6) (i : BitVec 14)
  /-- SSHLI (R197). Shifts sA left by an immediate of 0 to 63. -/
  | sshli (d : BitVec 6) (a : BitVec 6) (i : BitVec 6)
  /-- SSHRI (R197). Logical right shift of sA by an immediate. -/
  | sshri (d : BitVec 6) (a : BitVec 6) (i : BitVec 6)
  /-- SSRAI (R197). Arithmetic right shift of sA by an immediate. -/
  | ssrai (d : BitVec 6) (a : BitVec 6) (i : BitVec 6)
  /-- SMULI (R197). Multiplies sA by a sign-extended immediate. -/
  | smuli (d : BitVec 6) (a : BitVec 6) (i : BitVec 14)
  /-- SLI (R198). Loads the sign-extended 32-bit immediate word into sD as U. -/
  | sli (d : BitVec 6) (w : BitVec 32)
  /-- SLI_HI (R198). Replaces bits [63:32] of sD with the immediate word. -/
  | sliHi (d : BitVec 6) (w : BitVec 32)
  /-- SCMP (R199). Compares two scalars into a condition register, producing U, threshold or M form. -/
  | scmp (d : BitVec 3) (a : BitVec 6) (b : BitVec 6) (c : BitVec 4)
  /-- SCMPI (R200). Compares a scalar with a sign-extended immediate into a condition register. -/
  | scmpi (c : BitVec 3) (d : BitVec 3) (a : BitVec 6) (i : BitVec 14)
  /-- SSEL (R201). Selects sA or sB per item by condition cN. -/
  | ssel (d : BitVec 6) (a : BitVec 6) (b : BitVec 6) (n : BitVec 3)
  /-- COP_AND (R202). Writes the AND of two conditions. -/
  | copAnd (d : BitVec 3) (a : BitVec 3) (b : BitVec 3)
  /-- COP_OR (R202). Writes the OR of two conditions. -/
  | copOr (d : BitVec 3) (a : BitVec 3) (b : BitVec 3)
  /-- COP_XOR (R202). Writes the XOR of two conditions. -/
  | copXor (d : BitVec 3) (a : BitVec 3) (b : BitVec 3)
  /-- COP_ANDN (R202). Writes cA AND NOT cB. -/
  | copAndn (d : BitVec 3) (a : BitVec 3) (b : BitVec 3)
  /-- COP_NOT (R202). Writes the negation of a condition. -/
  | copNot (d : BitVec 3) (a : BitVec 3)
  /-- COP_SET (R202). Sets a condition to U true. -/
  | copSet (d : BitVec 3)
  /-- COP_CLR (R202). Sets a condition to U false. -/
  | copClr (d : BitVec 3)
  /-- COP_MOV (R202). Copies one condition to another. -/
  | copMov (d : BitVec 3) (a : BitVec 3)
  /-- SFORM (R204). Reads the form tag, a stride or the base of a scalar register without seating. -/
  | sform (d : BitVec 6) (a : BitVec 6) (f : BitVec 8)
  /-- SLD (R257). Scalar load at .die scope from the space that SP selects, with sign or zero extension. -/
  | sld (d : BitVec 6) (a : BitVec 6) (z : BitVec 2) (g : BitVec 1) (p : BitVec 2) (o : BitVec 9)
  /-- SST (R257). Scalar store at .die scope to the space that SP selects. -/
  | sst (d : BitVec 6) (a : BitVec 6) (z : BitVec 2) (p : BitVec 2) (o : BitVec 9)
  /-- SATOM (R263). Scalar atomic of the selected operation and scope, once for a one-item U address or per item otherwise. -/
  | satom (d : BitVec 6) (a : BitVec 6) (b : BitVec 6) (w : BitVec 1) (s : BitVec 3) (o : BitVec 4)
  /-- CMO (R264). Cache maintenance of the selected kind and level over a byte range. -/
  | cmo (a : BitVec 6) (b : BitVec 6) (l : BitVec 3) (k : BitVec 2)
  /-- KSET (R266). Checks a reader-set descriptor and loads it into kN, raising RSD on failure. -/
  | kset (n : BitVec 3) (a : BitVec 6)
  /-- KGET (R267). Returns the locket location of the line holding an address, snapshotted at the hub. -/
  | kget (d : BitVec 6) (a : BitVec 6)
  /-- KGET_SET (R267). Returns the canonical reader set of a line as an RSD, or 0 when not parked. -/
  | kgetSet (d : BitVec 6) (a : BitVec 6)
  /-- KREV (R268). Gives every locket in a range the set of kN and re-parks each line. -/
  | krev (n : BitVec 3) (a : BitVec 6) (b : BitVec 6)
  /-- KDROP (R268). Unparks every parked line in a range. -/
  | kdrop (a : BitVec 6) (b : BitVec 6)
  /-- BAR_ARV (R271). Arrives on a barrier word and returns the generation before the arrival. -/
  | barArv (d : BitVec 6) (a : BitVec 6) (b : BitVec 6)
  /-- BAR_WT (R271). Waits until the barrier word's generation differs from G. -/
  | barWt (a : BitVec 6) (b : BitVec 6)
  /-- BAR_ARW (R271). Arrives on a barrier word and waits for its release. -/
  | barArw (a : BitVec 6) (b : BitVec 6)
  /-- BAR_INIT (R271). Initialises a scratch barrier word with MAGIC, GEN 0 and the expected count. -/
  | barInit (a : BitVec 6) (b : BitVec 6)
  /-- HBAR_ARV (R272). Arrives at a hierarchical barrier of the named level and returns the generation. -/
  | hbarArv (d : BitVec 6) (l : BitVec 3)
  /-- HBAR_WT (R272). Waits until the given hierarchical barrier generation is released. -/
  | hbarWt (a : BitVec 6) (l : BitVec 3)
  /-- HBAR_ARW (R272). Arrives at a hierarchical barrier and waits for its release. -/
  | hbarArw (l : BitVec 3)
  /-- FENCE (R104). Applies the release and/or acquire part of the selected kind at the selected scope. -/
  | fence (k : BitVec 2) (s : BitVec 3)
  /-- BR (R205). Branches on a condition, splitting a span on a threshold condition. -/
  | br (c : BitVec 3) (n : BitVec 1) (o : BitVec 22)
  /-- CALL (R206). Conditionally pushes a CALL token and jumps to the target. -/
  | call (c : BitVec 3) (n : BitVec 1) (o : BitVec 22)
  /-- JMP (R208). Jumps to the U address in sA. -/
  | jmp (a : BitVec 6)
  /-- RET (R207). Pops a CALL token, restores its mask and returns to its PC. -/
  | ret
  /-- LX (R211). Seats a span if needed, captures am, scalars and k registers, and queues a lane block. -/
  | lx (w : BitVec 32)
  /-- EXIT (R210). Retires a span or the lanes in am of a strand, then resumes. -/
  | exit
  /-- WAIT (R274). Stalls until the in-flight counter of a path is at most sA. -/
  | wait (a : BitVec 6) (p : BitVec 2)
  /-- TRAPF (R275). After queued blocks finish, traps ARITH if aflags & aenable is non-zero. -/
  | trapf
  /-- JTOK (R212). Pushes a JOIN token holding its target and am. -/
  | jtok (o : BitVec 21)
  /-- DVG (R212). Divides lanes by a condition, pushing an ELSE token, or splits a span. -/
  | dvg (k : BitVec 3) (s : BitVec 1) (n : BitVec 1) (o : BitVec 21)
  /-- NXT (R212). Pops the top token and jumps to its PC with its mask. -/
  | nxt
  /-- LPB (R212). Pushes a LOOP token holding the exit target. -/
  | lpb (o : BitVec 21)
  /-- LPE (R212). Ends a loop iteration, branching back for true lanes and exiting for false ones. -/
  | lpe (k : BitVec 3) (s : BitVec 1) (n : BitVec 1) (o : BitVec 21)
  /-- BRK (R212). Moves lanes with a true condition to the exit mask of the nearest LOOP token. -/
  | brk (k : BitVec 3) (s : BitVec 1) (n : BitVec 1)
  /-- SEAT (R214). Seats a span into strands; has no effect in a strand. -/
  | seat
  /-- UNSEAT (R215). Waits for outstanding work, checks legality and turns a strand into spans. -/
  | unseat
  /-- SJOIN (R216). Unseats if legal and holds the resulting spans for a join window so they can merge. -/
  | sjoin (w : BitVec 11)
  /-- QFENCE (R117). Places an ordering entry in each named engine queue. -/
  | qfence (q : BitVec 3)
  /-- SNOOZE (R217). Waits a relative number of ns, at most 1 ms. -/
  | snooze (a : BitVec 6)
  /-- SNOOZE_ABS (R217). Waits until an absolute rt, or at most 1 ms. -/
  | snoozeAbs (a : BitVec 6)
  /-- MMA (R289). Team-issued matrix multiply of A and B descriptors into an accumulator or shadow slot. -/
  | mma (d : BitVec 6) (a : BitVec 6) (b : BitVec 6) (f : BitVec 7)
  /-- MGATH (R289). Team-issued matrix multiply whose A rows come from a scratch list. -/
  | mgath (d : BitVec 6) (a : BitVec 6) (b : BitVec 6) (f : BitVec 7)
  /-- MZERO (R295). Clears an accumulator slot or pair to +0 with its format tag. -/
  | mzero (d : BitVec 3) (f : BitVec 1)
  /-- MDRAIN (R297). Drains an accumulator slot to memory or scratch, rounding toward zero, optionally scattered and cleared. -/
  | mdrain (d : BitVec 3) (a : BitVec 6) (f : BitVec 6)
  /-- MCOMMIT (R299). Adds a tied shadow slot into an accumulator if its condition is true, then empties the shadow. -/
  | mcommit (d : BitVec 3) (n : BitVec 1)
  /-- MFENCE (R300). Closes a batch of MX and CL operations, optionally with a completion barrier word. -/
  | mfence (a : BitVec 6)
  /-- MWAIT (R301). Waits for batches up to a number and writes their failure status. -/
  | mwait (d : BitVec 6) (a : BitVec 6)
  /-- CPY (R304). Queues a 1-D or 2-D block copy on the copy engine, optionally as stk writes. -/
  | cpy (n : BitVec 3) (a : BitVec 6) (b : BitVec 6) (f : BitVec 4)
  /-- COLL (R307). Queues a collective sum, max or broadcast across a role group. -/
  | coll (a : BitVec 6) (s : BitVec 2) (t : BitVec 3) (o : BitVec 2)
  /-- RBEG (R276). Opens an elastic region with an abort target. -/
  | rbeg (o : BitVec 18)
  /-- RBEG_STRICT (R276). Opens a strict region with a single position. -/
  | rbegStrict (o : BitVec 18)
  /-- REND (R277). Commits the live region. -/
  | rend
  /-- RABT (R277). Aborts the live region with cause USER and a code. -/
  | rabt (u : BitVec 8)
  /-- RNAR_LO (R278). Waits for pending narrowing and returns the region's lower bound. -/
  | rnarLo (d : BitVec 6)
  /-- RNAR_HI (R278). Waits for pending narrowing and returns the region's upper bound. -/
  | rnarHi (d : BitVec 6)
  /-- RNAR_NARROW (R278). Raises lo and lowers hi of the live region. -/
  | rnarNarrow (a : BitVec 6) (b : BitVec 6)
  /-- NOP (R218). Does nothing for one cycle. -/
  | nop
  /-- TRAP (R219). Takes a software trap SWTRAP with code n. -/
  | trap (n : BitVec 6)
  /-- SRD (R220). Reads a special register, seating a span where R185 requires. -/
  | srd (d : BitVec 6) (r : BitVec 6)
  /-- SWR (R221). Writes a special register with privilege and form checks. -/
  | swr (r : BitVec 6) (b : BitVec 6)
  /-- DLAUNCH (R223). Releases at .pkg and submits a launch record to a device-enabled queue from a one-item context. -/
  | dlaunch (d : BitVec 6) (a : BitVec 6) (b : BitVec 6)
  -- lane instructions (R190)
  /-- IADD (R228). Lane integer add, wrapping or saturating. -/
  | iadd (f : LaneFields)
  /-- ISUB (R228). Lane integer subtract. -/
  | isub (f : LaneFields)
  /-- IMUL (R228). Lane integer multiply. -/
  | imul (f : LaneFields)
  /-- IMULH (R228). Lane high half of an integer product. -/
  | imulh (f : LaneFields)
  /-- IMAD (R228). Lane integer multiply-add, wrapped or saturated once. -/
  | imad (f : LaneFields)
  /-- IABS (R228). Lane integer absolute value. -/
  | iabs (f : LaneFields)
  /-- INEG (R228). Lane integer negation. -/
  | ineg (f : LaneFields)
  /-- IMIN (R228). Lane integer minimum. -/
  | imin (f : LaneFields)
  /-- IMAX (R228). Lane integer maximum. -/
  | imax (f : LaneFields)
  /-- AND (R228). Lane bitwise AND. -/
  | land (f : LaneFields)
  /-- OR (R228). Lane bitwise OR. -/
  | lor (f : LaneFields)
  /-- XOR (R228). Lane bitwise XOR. -/
  | lxor (f : LaneFields)
  /-- NOT (R228). Lane bitwise complement. -/
  | lnot (f : LaneFields)
  /-- ANDN (R228). Lane AND with the complement of vB. -/
  | andn (f : LaneFields)
  /-- SHL (R228). Lane shift left. -/
  | shl (f : LaneFields)
  /-- SHR (R228). Lane logical shift right. -/
  | shr (f : LaneFields)
  /-- SRA (R228). Lane arithmetic shift right. -/
  | sra (f : LaneFields)
  /-- ROTL (R228). Lane rotate left. -/
  | rotl (f : LaneFields)
  /-- BFX (R229). Lane bit-field extract by position and length. -/
  | bfx (f : LaneFields)
  /-- BFI (R229). Lane bit-field insert into vC. -/
  | bfi (f : LaneFields)
  /-- CLZ (R228). Lane count of leading zero bits. -/
  | clz (f : LaneFields)
  /-- POPC (R228). Lane population count. -/
  | popc (f : LaneFields)
  /-- BREV (R228). Lane bit reversal. -/
  | brev (f : LaneFields)
  /-- ICMP (R230). Lane integer compare into a predicate. -/
  | icmp (f : LaneFields)
  /-- SEL (R230). Lane select of vA or vB by a predicate operand. -/
  | sel (f : LaneFields)
  /-- DOT4 (R231). Lane four-way byte dot product accumulated into a 32-bit integer. -/
  | dot4 (f : LaneFields)
  /-- FADD (R232). Lane float add with selected rounding. -/
  | fadd (f : LaneFields)
  /-- FSUB (R232). Lane float subtract. -/
  | fsub (f : LaneFields)
  /-- FMUL (R232). Lane float multiply. -/
  | fmul (f : LaneFields)
  /-- FFMA (R232). Lane fused multiply-add rounded once. -/
  | ffma (f : LaneFields)
  /-- FMIN (R232). Lane IEEE minimumNumber, or NaN-propagating with .nan. -/
  | fmin (f : LaneFields)
  /-- FMAX (R232). Lane IEEE maximumNumber, or NaN-propagating with .nan. -/
  | fmax (f : LaneFields)
  /-- FABS (R232). Lane clear of the sign bit. -/
  | fabs (f : LaneFields)
  /-- FNEG (R232). Lane inversion of the sign bit. -/
  | fneg (f : LaneFields)
  /-- FCMP (R233). Lane float compare into a predicate. -/
  | fcmp (f : LaneFields)
  /-- FRCP (R234). Lane reciprocal, correctly rounded to f32. -/
  | frcp (f : LaneFields)
  /-- FRSQ (R234). Lane reciprocal square root. -/
  | frsq (f : LaneFields)
  /-- FSQRT (R232). Lane correctly rounded square root. -/
  | fsqrt (f : LaneFields)
  /-- FDIV (R232). Lane correctly rounded division. -/
  | fdiv (f : LaneFields)
  /-- FEX2 (R234). Lane base-2 exponential. -/
  | fex2 (f : LaneFields)
  /-- FLG2 (R234). Lane base-2 logarithm. -/
  | flg2 (f : LaneFields)
  /-- FSIN (R234). Lane sin(π·a). -/
  | fsin (f : LaneFields)
  /-- FCOS (R234). Lane cos(π·a). -/
  | fcos (f : LaneFields)
  /-- FCLASS (R235). Lane classification of a float into a one-hot mask. -/
  | fclass (f : LaneFields)
  /-- FCPSGN (R232). Lane copy of vB's sign onto vA's magnitude. -/
  | fcpsgn (f : LaneFields)
  /-- FTRUNC (R232). Lane rounding to an integral value in the same format. -/
  | ftrunc (f : LaneFields)
  /-- FLDX (R232). Lane scaling of a float by 2^b. -/
  | fldx (f : LaneFields)
  /-- MOV (R236). Lane bit copy, materialising a scalar per lane when read through code 255. -/
  | mov (f : LaneFields)
  /-- MOVI (R236). Lane move of the immediate, zero- or sign-extended for b64. -/
  | movi (f : LaneFields)
  /-- CVT (R237). Lane conversion between numeric types. -/
  | cvt (f : LaneFields)
  /-- PACK2 (R238). Lane rounding of two f32 values into a packed pair. -/
  | pack2 (f : LaneFields)
  /-- UNPK (R238). Lane unpacking of a packed pair into two f32 registers. -/
  | unpk (f : LaneFields)
  /-- TDEC (R239). Lane exact decode of a tap8 or tap6 element to f32. -/
  | tdec (f : LaneFields)
  /-- TENC (R239). Lane encode of f32 into a tapered element inserted into vC. -/
  | tenc (f : LaneFields)
  /-- LEA (R240). Lane computation of the global alias of a generic, scratch or private address. -/
  | lea (f : LaneFields)
  /-- PSET (R242). Sets a predicate from a register or an immediate lane mask. -/
  | pset (f : LaneFields)
  /-- PMOV (R242). Combines or copies predicates. -/
  | pmov (f : LaneFields)
  /-- SHFL (R243). Lane shuffle by index, up, down or xor within ex. -/
  | shfl (f : LaneFields)
  /-- BCAST (R243). Broadcasts one lane's value to all executing lanes. -/
  | bcast (f : LaneFields)
  /-- VOTE (R244). Ballot, all, any or uniform vote of a predicate into a U scalar. -/
  | vote (f : LaneFields)
  /-- REDX (R245). Fixed-tree reduction across executing lanes into a U scalar. -/
  | redx (f : LaneFields)
  /-- SCAN (R246). Inclusive or exclusive prefix scan across executing lanes. -/
  | scan (f : LaneFields)
  /-- FIRST (R244). Writes the lowest executing lane with a true predicate, or 32. -/
  | firstLane (f : LaneFields)
  /-- PERM (R243). Lane permutation from vA or vB by a selector. -/
  | perm (f : LaneFields)
  /-- CMPX (R247). One compare-exchange step of a sorting network between partner lanes. -/
  | cmpx (f : LaneFields)
  /-- LD (R253). Lane load, optionally acquiring, LX or no-allocate. -/
  | ld (f : LaneFields)
  /-- ST (R254). Lane store performed at the coherence point of its scope. -/
  | st (f : LaneFields)
  /-- STK (R255). Lane store that parks its line by the reader set in kN. -/
  | stk (f : LaneFields)
  /-- PRF (R256). Lane prefetch of a leased copy at a level; never faults. -/
  | prf (f : LaneFields)
  /-- ATOM (R259). Lane value-returning atomic at its execution point. -/
  | atom (f : LaneFields)
  /-- RED (R259). Lane atomic reduction without a result. -/
  | red (f : LaneFields)
  /-- CAS (R259). Lane compare-and-swap returning the old value. -/
  | cas (f : LaneFields)
  /-- CACC (R262). Lane contribution to a commutative range partial. -/
  | cacc (f : LaneFields)
  /-- XSET (R248). Sets an index register per lane. -/
  | xset (f : LaneFields)
  /-- XADD (R248). Adds to an index register per lane. -/
  | xadd (f : LaneFields)
  /-- XGET (R248). Reads an index register into a lane register. -/
  | xget (f : LaneFields)
  -- hardware events and driver actions
  /-- LOCATE_FAULT (R71). A load from outside a parked line's set reaches the parking point and faults. -/
  | locateFault (op : Nat) (lane : Nat)
  /-- LOCATE_RESOLVE (R73). In hardware mode the locate unit adds the core to the set, re-parks the line and replays. -/
  | locateResolve (op : Nat)
  /-- PARTIAL_HANDOVER (R89). A core needing L1 room hands a commutative partial to the combining slice. -/
  | partialHandover (k : Nat)
  /-- TILE_SEAT (R32). Once carve-out and strand slots allow, a tile is seated on its chosen core. -/
  | tileSeat (th : Nat) (tile : Nat)
  /-- PLACEMENT_TIMEOUT (R30). A tile unseated after 10 µs moves to the lowest virtual die that can take it. -/
  | placementTimeout (th : Nat) (tile : Nat)
  /-- WORKGROUP_END (R28). When all items retired and engine operations completed, the workgroup frees its resources. -/
  | workgroupEnd (wg : Nat)
  /-- STRAND_SLOT_FREE (R210). A retired strand frees its slot once its loads and atomics have returned. -/
  | strandSlotFree (th : Nat)
  /-- AGING_SWAP (R45). A pending strand ready for 4,096 cycles swaps with the longest-active strand at its window boundary. -/
  | agingSwap (core : Nat) (part : Nat)
  /-- STALL_SWAP (R45). A strand stalling on a long-latency dependence swaps with the oldest ready pending strand. -/
  | stallSwap (th : Nat)
  /-- HANG_DETECTED (R48). The hang count reaches the threshold, the wait-for graph is written and HANG is raised. -/
  | hangDetected (ctx : Nat)
  /-- SJOIN_WINDOW_EXPIRY (R39). A held span's join window expires and it leaves sjoin. -/
  | sjoinWindowExpiry (th : Nat)
  /-- SNOOZE_EXPIRY (R217). A snoozing context's deadline passes and it resumes. -/
  | snoozeExpiry (th : Nat)
  /-- FENCE_COMPLETE (R104). A stalled fence's conditions are met, including rt ≥ wct, and it completes. -/
  | fenceComplete (th : Nat)
  /-- WAIT_COMPLETE (R274). A path counter falls to the wait value, WCTs are folded and the wait ends. -/
  | waitComplete (th : Nat)
  /-- MWAIT_COMPLETE (R301). The awaited batches complete, the status is written and a BARINV mark traps. -/
  | mwaitComplete (th : Nat)
  /-- BAR_RELEASE_WAKE (R271). Waiters on a released barrier word are freed 24 cycles after the emptying arrival. -/
  | barReleaseWake (th : Nat)
  /-- HBAR_RELEASE (R273). A hierarchical barrier release reaches the members of its level. -/
  | hbarRelease (th : Nat)
  /-- DLAUNCH_STATUS (R223). The launch submission finishes and its status is written to sD. -/
  | dlaunchStatus (th : Nat)
  /-- RBEG_OPEN (R123). After earlier accesses complete and a record is free, the region opens with its interval. -/
  | rbegOpen (th : Nat)
  /-- LOAD_RETURN (R79). A load's data is written to its registers and fcld drops. -/
  | loadReturn (op : Nat)
  /-- STORE_ACK (R79). A write is acknowledged at its scope's coherence point with its WCT and fcst drops. -/
  | storeAck (op : Nat)
  /-- ATOMIC_RETURN (R109). A value-returning atomic's result is written and fcat drops. -/
  | atomicReturn (op : Nat)
  /-- LEASE_EXPIRY (R93). A leased copy's lease runs out and it can no longer serve loads. -/
  | leaseExpiry (k : Nat)
  /-- STREAM_TIMEOUT (R81). A stream detector ends after 4,096 cycles without access. -/
  | streamTimeout (k : Nat)
  /-- REGION_SLICE_ACCESS (R130). A slice handles a region access, raising bounds and ordering against other tags. -/
  | regionSliceAccess (op : Nat) (lane : Nat)
  /-- NONREGION_SLICE_ACCESS (R131). A slice handles a non-region access as a committed access at a position. -/
  | nonregionSliceAccess (op : Nat) (lane : Nat) (src : Nat)
  /-- CROSS_DIE_REGION_HOLD (R132). A region access from another die to a tagged line is held, then released when tags clear. -/
  | crossDieRegionHold (op : Nat) (lane : Nat)
  /-- REGION_RAISE_LO (R134). A raise message sets lo to the maximum and may abort the region with EMPTY. -/
  | regionRaiseLo (k : Nat)
  /-- REGION_LOWER_HI (R134). A lower message sets hi to the minimum and may abort the region with EMPTY. -/
  | regionLowerHi (k : Nat)
  /-- REGION_ABORT_MESSAGE (R139). A slice discards the region's tentative copies and tags and acknowledges. -/
  | regionAbortMessage (rg : Nat) (line : Nat)
  /-- REGION_ABORT_DONE (R139). All abort acknowledgements arrive; am, token stack, rstat and PC are restored to the abort target. -/
  | regionAbortDone (rg : Nat)
  /-- REGION_FREEZE (R135). A slice receives a freeze and answers once it has sent its owed messages. -/
  | regionFreeze (rg : Nat) (line : Nat)
  /-- REGION_FREEZE_DONE (R135). All freezes answered; f := lo and the final position is broadcast. -/
  | regionFreezeDone (rg : Nat)
  /-- REGION_FINAL_POSITION (R135). A slice installs tentative copies, updates wpos and rpos, clears tags and acknowledges. -/
  | regionFinalPosition (rg : Nat) (line : Nat)
  /-- REGION_COMMIT_DONE (R135). All final acknowledgements arrive and rend completes with its WCT. -/
  | regionCommitDone (rg : Nat)
  /-- DIR_EVICTION (R368). A die reports an L2 eviction, with write-back for dirty lines, and the directory updates. -/
  | dirEviction (die : Nat) (line : Nat)
  /-- HOME_RECALL (R370). The home recalls a remotely owned line before a .pod or .sys access. -/
  | homeRecall (line : Nat)
  /-- TRANSLATION_INVALIDATION (R347). A core drops translations from a changed page-table line and acknowledges once affected accesses finish. -/
  | translationInvalidation (k : Nat)
  /-- DIR_REBUILD (R375). Probe answers arrive and the hub sets the line's directory state. -/
  | dirRebuild (line : Nat)
  /-- DIE_PROBE_TIMEOUT (R375). A die silent for 100 µs is declared failed and its dirty lines poisoned. -/
  | dieProbeTimeout (die : Nat)
  /-- REMOTE_PACKAGE_TIMEOUT (R378). A package unreachable for 1 ms is declared failed. -/
  | remotePackageTimeout (pkg : Nat)
  /-- HELD_ACCESS_TIMEOUT (R387). An access held for a resetting pair over 50 ms takes POISON or an error. -/
  | heldAccessTimeout (op : Nat) (lane : Nat)
  /-- RELOCK_END (R50). After 3.0 µs the die restarts at the new frequency and may start another relock. -/
  | relockEnd (die : Nat)
  /-- FAULT_RECORD_WRITE (R357). The hub writes a fault record to the ring, advances FQTAIL and signals MSI-X. -/
  | faultRecordWrite (ctx : Nat)
  /-- PREEMPT_START (R361). A higher-priority queue needs the cores and the context enters drain. -/
  | preemptStart (ctx : Nat)
  /-- DRAIN_COMPLETE (R361). No workgroup remains resident and the context is saved. -/
  | drainComplete (ctx : Nat)
  /-- DRAIN_DEADLINE (R361). DRAINDL expires and the context freezes, aborting live regions. -/
  | drainDeadline (ctx : Nat)
  /-- RESET_DEADLINE (R361). RESETDL expires before the context is saved and it is reset. -/
  | resetDeadline (ctx : Nat)
  /-- SCAN_OUT (R363). A unit of a frozen context claimed by another is scanned out to the save area. -/
  | scanOut (ctx : Nat) (core : Nat)
  /-- CONTEXT_RESUME (R365). A saved or frozen context is reseated and its strands continue from their images. -/
  | contextResume (ctx : Nat)
  /-- LAUNCH_ENTRY (R340). The command processor reads a launch record, checks it and starts the launch. -/
  | launchEntry (ctx : Nat) (q : Nat)
  /-- KREV_ENTRY (R339). A queue entry revises the reader sets of lockets in a range. -/
  | krevEntry (ctx : Nat) (q : Nat)
  /-- KDROP_ENTRY (R339). A queue entry unparks every line in a range. -/
  | kdropEntry (ctx : Nat) (q : Nat)
  /-- WAIT_ENTRY (R338). A queue entry holds its queue until a memory word reaches a value. -/
  | waitEntry (ctx : Nat) (q : Nat)
  /-- QUEUE_ENTRY_COMPLETE (R338). An entry completes and SIGVAL is stored at SIGADDR as a .sys release. -/
  | queueEntryComplete (entry : Nat)
  /-- LAUNCH_COMPLETE (R341). After all items retire and writes are performed, the completion record is written. -/
  | launchComplete (la : Nat)
  /-- ENGINE_OP_START (R289). An engine operation reaches the head of its queue and begins. -/
  | engineOpStart (eop : Nat)
  /-- ENGINE_OP_COMPLETE (R116). An engine operation's writes are performed at .die and it completes. -/
  | engineOpComplete (eop : Nat)
  /-- CHUNK_END (R310). In chunked mode a chunk ends and the engine writes a resume cursor. -/
  | chunkEnd (eop : Nat)
  /-- BATCH_COMPLETE (R300). A batch completes and the engine arrives on its barrier word after checking it. -/
  | batchComplete (th : Nat) (num : Nat)
  /-- COPY_COMPLETE (R305). A copy completes or fails, counts off CP and arrives on its barrier word. -/
  | copyComplete (eop : Nat)
  /-- COLL_COMPLETE (R308). A collective's members join, the result is computed and destinations written. -/
  | collComplete (eop : Nat)
  -- actions from outside (the host, the driver, other packages, failures), and events of the whole package
  /-- RESUME_REPLAY (R357). RESUME action 0 replays a replayable stopped strand. -/
  | resumeReplay (ctx : Nat) (v : BitVec 64)
  /-- RESUME_CONTINUE (R357). RESUME action 1 continues a trapped strand at its next instruction. -/
  | resumeContinue (ctx : Nat) (v : BitVec 64)
  /-- RESUME_END (R357). RESUME action 2 ends the context with status 2. -/
  | resumeEnd (ctx : Nat) (v : BitVec 64)
  /-- FQHEAD (R357). The driver advances FQHEAD, freeing ring places for held records. -/
  | fqhead (ctx : Nat) (v : BitVec 64)
  /-- PREQ_DRAIN (R361). PREQ 1 starts the drain step. -/
  | preqDrain (ctx : Nat)
  /-- PREQ_FREEZE (R361). PREQ 2 freezes the context. -/
  | preqFreeze (ctx : Nat)
  /-- PREQ_RESET (R362). PREQ 3 forces a context reset. -/
  | preqReset (ctx : Nat)
  /-- SAVE_AREA (R364). Writing SAVEBASE or SAVELEN retries a scan-out that lacked room. -/
  | saveArea (ctx : Nat) (base : BitVec 64) (len : BitVec 64)
  /-- DOORBELL (R337). A store of a queue number to DOORBELL wakes that command queue. -/
  | doorbell (ctx : Nat) (v : BitVec 64)
  /-- KEY_SLOT_LOAD (R392). Umush loads a key into a slot of the key store. -/
  | keySlotLoad (k : Nat)
  /-- KEY_SLOT_ERASE (R392). Umush erases a key slot. -/
  | keySlotErase (k : Nat)
  /-- ATTESTATION_REQUEST (R398). Umush returns signed evidence for a 32-byte nonce. -/
  | attestationRequest (nonce : BitVec 256)
  /-- REGISTER_WRITE (R11). A write to a register with no behaviour of its own updates its fields. -/
  | registerWrite (reg : Nat) (v : BitVec 256)
  /-- HOST_ACCESS (R111). A load or store from the host arrives through the host port and is served, on a parked line, as an LX load, or otherwise as a committed non-region access at the slice. -/
  | hostAccess (wr : BitVec 1) (addr : Nat) (n : Nat) (v : BitVec 64)
  /-- REMOTE_PACKAGE_REQUEST (R370). A read or ownership request from another package of the pod reaches the home package over Filuth, which grants a leased copy or ownership and records the holder. -/
  | remotePackageRequest (pkg : Nat) (line : Nat) (own : BitVec 1)
  /-- REPLAY_TIMER_EXPIRY (R372). A link's replay timer runs out, and the sender replays its unacknowledged flits from the replay buffer. -/
  | replayTimerExpiry (link : Nat)
  /-- FLIT_CRC_FAIL (R372). A receiver finds a failed CRC and the sender replays from that flit. -/
  | flitCrcFail (link : Nat)
  /-- LINK_DOWN (R373). After eight failed replays the link goes down, in-flight work errors and traffic detours. -/
  | linkDown (link : Nat)
  /-- LINK_RETRAIN (R373). A down link is retrained under the negotiated protocol revision. -/
  | linkRetrain (link : Nat)
  /-- RECOVER_GO (R375). Writing GO starts the probes that rebuild directory lines in U. -/
  | recoverGo (v : BitVec 1)
  /-- RASFAIL (R397). Writing a memory die number declares that die failed. -/
  | rasfail (v : BitVec 64)
  /-- SALVCTL (R379). A write to SALVCTL sets capacity and enable, clearing USED when EN is set. -/
  | salvctl (v : BitVec 64)
  /-- PARTRST (R385). A write to MASK starts a reset of the named die pairs, or sets ERR while BUSY. -/
  | partrst (v : BitVec 64)
  /-- DIEPS_TARGET (R395). Writing TARGET requests a P-state change, stopping the die's clock for relock or holding the request while busy. -/
  | diepsTarget (die : Nat) (v : BitVec 2)
  /-- RECOVERY_IMAGE (R381). Umush receives a recovery image over Ethernet and checks it. -/
  | recoveryImage (k : Nat)
  /-- MEMORY_DIE_FAILED (R378). A memory die failure is declared, lines are salvaged and the failed range is poisoned. -/
  | memoryDieFailed (m : Nat)
  /-- DIR_READ_REQUEST (R368). The directory serves a read from another die by memory or forward to the owner. -/
  | dirReadRequest (die : Nat) (line : Nat)
  /-- DIR_OWNERSHIP_REQUEST (R369). An ownership request invalidates other holders, collects horizons and makes the line M. -/
  | dirOwnershipRequest (die : Nat) (line : Nat)
  /-- REMOTE_OWNERSHIP (R370). A package obtains ownership of a remotely homed line over Filuth. -/
  | remoteOwnership (die : Nat) (line : Nat)
  /-- POWER_ON (R380). Power-on releases the hub and Umush from reset and boot begins. -/
  | powerOn
  /-- BOOT_STAGE (R380). Each boot stage starts once the previous one has succeeded. -/
  | bootStage
  /-- PAIR_RESET_DONE (R386). The reset pairs finish stages 3–5, DONE bits are set and held accesses are served. -/
  | pairResetDone
  deriving DecidableEq, Repr

end Sys2Proof
end

