-- ==== Sys2Proof/Machine/State.lean ====
section
/-!
DEFINITION. The state of one PZ9 package, as plain data, and the state after reset. Every register number, die, quad
and core is a number; `core` numbers are physical, (die·32 + quad)·4 + core; a `line` is a physical address over 128.
-/
namespace Sys2Proof.Machine
open Sys2Proof

/-! ### Register forms (R19, R21) -/

/-- The value of a scalar register: one of the three forms of R19. -/
inductive SVal where
  /-- Uniform. -/
  | u (v : Word)
  /-- Affine: base and three strides. -/
  | a (base : Word) (sx sy sz : W32)
  /-- Materialised: one value for each of the 32 slots. -/
  | m (vals : List Word)
  deriving DecidableEq, Repr

/-- An axis of the index space. -/
inductive Axis where
  | x | y | z
  deriving DecidableEq, Repr

/-- The value of a condition register (R21). -/
inductive CVal where
  /-- Uniform. -/
  | u (b : Bool)
  /-- Threshold: true where the coordinate is below `t` (`below`), or at least `t`. -/
  | t (axis : Axis) (t : Nat) (below : Bool)
  /-- Materialised: one bit for each slot. -/
  | m (mask : W32)
  deriving DecidableEq, Repr

/-- An axis-aligned box of items, upper ends excluded (R17). -/
structure Box where
  x0 : Nat
  x1 : Nat
  y0 : Nat
  y1 : Nat
  z0 : Nat
  z1 : Nat
  deriving DecidableEq, Repr

/-- The coordinates of an item. -/
structure Item where
  x : Nat
  y : Nat
  z : Nat
  deriving DecidableEq, Repr

/-- The kinds of token (R41). -/
inductive TokKind where
  | join | els | loop | call
  deriving DecidableEq, Repr

/-- A token: its PC, its mask, and a LOOP token's exit mask (R41). A span's tokens carry only PCs (R24). -/
structure Token where
  kind : TokKind
  pc   : Word
  mask : W32
  exit : W32
  deriving DecidableEq, Repr

/-! ### Accesses in flight (R79) -/

/-- The in-flight paths. -/
inductive Path where
  | ld | st | atm | cp
  deriving DecidableEq, Repr

/-- What an access does. -/
inductive AccKind where
  | load | store | stk | atomic | cas | cacc | kget | kgetSet | cmo | krev | kdrop
  deriving DecidableEq, Repr

/-- Where an access of one lane stands. -/
inductive LanePhase where
  /-- Not yet performed. -/
  | todo
  /-- Held at a slice: a write behind the writer region given (R130), an access from another die behind the answered freeze of the
  region given (R136), or, with 0, one behind that die's live tags (R132); and the step in which it came there. -/
  | held (rg stamp : Nat)
  /-- A store of `.core` or `.quad` scope performed at its own coherence point and still on its way to the home slice (R100,
  R101): 0 at the core's L1, 1 at the quad store; and the stamp it holds in the copies there meanwhile. -/
  | near (level stamp : Nat)
  /-- Performed. -/
  | done
  /-- Failed with the cause, sub-cause and words 6 and 7 of R351. -/
  | failed (cause sub w6 w7 : Nat)
  deriving DecidableEq, Repr

/-- One lane's (or item's) part of an access. -/
structure LaneAcc where
  lane  : Nat
  /-- `ilin` of the item, the order of R258. -/
  item  : Nat
  va    : Word
  pa    : Nat
  /-- Width in bytes. -/
  n     : Nat
  /-- Stored value, operand or compare value. -/
  val   : Word
  /-- The new value of `cas`. -/
  val2  : Word
  /-- Memory type of the page (R345). -/
  mt    : Nat
  /-- No-park bit of the page (R345). -/
  np    : Bool
  /-- Key index of the page (R345). -/
  key   : Nat
  /-- The workgroup whose scratch banks serve it, with `pa` the offset there (R57). -/
  scr   : Option Nat
  phase : LanePhase
  /-- The value returned. -/
  res   : Word
  deriving DecidableEq, Repr

/-- Where a result goes. -/
inductive Dest where
  | none
  /-- A scalar register, as U from the first lane's result or as M (R20), sign-extended from `n` bytes if `sx`. -/
  | sreg (d : SReg) (mform sx : Bool) (n : Nat)
  /-- Lane registers: for each lane the register, and the type (R253). -/
  | vreg (regs : List (Nat × Nat)) (ty : Nat)
  deriving DecidableEq, Repr

/-- A write completion time in ns: at the write's own scope, and as a later fence of each wider scope must see it, the own
value where the scope is no wider (R101, R104). -/
structure Wct where
  own  : Nat
  quad : Nat
  die  : Nat
  pkg  : Nat
  pod  : Nat
  deriving DecidableEq, Repr

/-- A write completion time that is the same at every scope. -/
def Wct.flat (w : Nat) : Wct := ⟨w, w, w, w, w⟩

/-- The later of two write completion times, scope by scope. -/
def Wct.join (a b : Wct) : Wct :=
  ⟨max a.own b.own, max a.quad b.quad, max a.die b.die, max a.pkg b.pkg, max a.pod b.pod⟩

/-- The write completion time a fence of a scope waits for. -/
def Wct.at (w : Wct) (scope : Nat) : Nat :=
  match scope with
  | 0 => w.own
  | 1 => w.quad
  | 2 => w.die
  | 3 => w.pkg
  | _ => w.pod

/-- An access issued and not yet returned. -/
structure Op where
  thread : Nat
  /-- The order in which the thread's operations issued. -/
  seq    : Nat
  /-- Operations of the thread's other stream up to this number precede it in program order (R96). -/
  after  : Nat
  /-- Sequence number of the lane block it belongs to, 0 for the scalar stream. -/
  block  : Nat
  path   : Path
  kind   : AccKind
  /-- Operation of an atomic (R260); kind and level of a `cmo`. -/
  aop    : Nat
  ty     : Nat
  scope  : Nat
  acq    : Bool
  lx     : Bool
  na     : Bool
  /-- The captured reader-set descriptor (R180). -/
  rsd    : Word
  /-- The region it belongs to, 0 for none (R126). -/
  region : Nat
  lanes  : List LaneAcc
  dst    : Dest
  /-- Range of a `cmo`, `krev` or `kdrop`: the next address to act on, and the end. -/
  next   : Nat
  last   : Nat
  /-- The write completion time gathered so far, in ns (R101). -/
  wct    : Wct
  /-- The data has been written or the acknowledgement sent; it waits for earlier ones (R79). -/
  back   : Bool
  /-- The physical core it issued from, none for a span, and the die whose home slices serve it. -/
  core   : Option Nat
  die    : Nat
  ctx    : Nat
  launch : Nat
  /-- The scalar PC and lane PC of the instruction, for the fault record. -/
  pc     : Word
  lpc    : Option Nat
  deriving DecidableEq, Repr

/-! ### Waits and stops -/

/-- Whether a stop is a fault or a trap (R351). -/
inductive StopKind where
  | fault | trap
  deriving DecidableEq, Repr

/-- A fault or trap taken, with the fields of its record (R353). -/
structure Stop where
  kind   : StopKind
  cause  : Nat
  sub    : Nat
  host   : Bool
  replay : Bool
  write  : Bool
  region : Bool
  va     : Word
  pc     : Word
  lpc    : Option Nat
  mask   : W32
  rt     : Nat
  w6     : Word
  w7     : Word
  /-- Program order number of the access that failed; 0 when the instruction did not issue. -/
  seq    : Nat
  deriving DecidableEq, Repr

/-- What a context waits for after its instruction has issued. -/
inductive Wait where
  | none
  /-- A fence of kind acq-rel (0), acq (2) or seq (3) at a scope (R104). -/
  | fence (kind scope : Nat)
  /-- `wait` (R274). -/
  | path (p : Path) (n : Nat)
  /-- `mwait` (R301): destination and the last batch waited for. -/
  | mwait (d : SReg) (upto : Nat)
  /-- A barrier word, at a scratch offset or the workgroup's own, until its generation differs (R271). -/
  | bar (off : Option Nat) (g : BitVec 8)
  /-- A hierarchical barrier (R272). -/
  | hbar (lev : Nat) (g : BitVec 8)
  /-- `snooze` until a time in ns (R217). -/
  | snooze (deadline : Nat)
  /-- A span held by `sjoin` until a cycle of its home die (R216). -/
  | sjoin (expiry : Nat)
  /-- A member waiting for its team (R282). -/
  | team
  /-- A span whose tiles still wait to seat (R32): tile, time in ns it first waited on its die, 1 once moved; and the
  fault that each strand takes as it is seated (R186). -/
  | seating (tiles : List (Nat × Nat × Nat)) (pend : Option Stop)
  /-- `rbeg` before its region opens (R123). -/
  | rbeg (strict : Bool) (target : Word)
  /-- `rend` (R135). -/
  | rend
  /-- A region abort under way (R139). -/
  | abort
  /-- `dlaunch` until its status is written (R223): destination, record address, queue. -/
  | dlaunch (d : SReg) (rec q : Word)
  deriving DecidableEq, Repr

/-! ### Strands -/

/-- A latch entry (R177): the executing lanes' results, the block and position of its producer, and whether a
long-latency consumer has come since (R316). -/
structure Latch where
  vals   : Tab Word
  mask   : W32
  block  : Nat
  pos    : Nat
  broken : Bool
  /-- The access whose result it is to hold, by its number in the thread's issue order, until that result comes (R177). -/
  pend   : Option Nat
  deriving DecidableEq, Repr

/-- A queued lane block and its captures (R180). -/
structure Block where
  seq   : Nat
  /-- Scalar operations up to this number precede the block's `lx` (R96). -/
  lxSeq : Nat
  lpc   : Nat
  /-- Position of the next instruction, from 0 (R179). -/
  pos   : Nat
  am    : W32
  sregs : Tab SVal
  kregs : Tab Word
  deriving DecidableEq, Repr

/-- What a strand goes back to when one of its loads or atomics faults after later instructions of its lane stream have issued
(R181): its lane state as it was behind that access, whose number in the thread's issue order it has. -/
structure Undo where
  seq     : Nat
  vregs   : Tab W32
  zeroV   : BitVec 248
  live    : BitVec 248
  longRegs : BitVec 248
  preds   : Tab W32
  xregs   : Tab W32
  latches : List Latch
  /-- The blocks that were queued then, the access's own among them unless it ended there. -/
  blocks  : List Block
  aflags  : BitVec 6
  deriving DecidableEq, Repr

/-- The seat of a strand: its place, its masks and its lane state. -/
structure Seat where
  wg      : Nat
  six     : Nat
  core    : Nat
  part    : Nat
  slot    : Nat
  am      : W32
  seated  : W32
  /-- Lane registers, register·32 + lane. -/
  vregs   : Tab W32
  /-- The registers whose unlisted lanes hold 0, as a new context finds its rows (R394); those of the others hold no stated value. -/
  zeroV   : BitVec 248
  /-- The live-register map (R38). -/
  live    : BitVec 248
  /-- Registers written by a long-latency producer and not yet read (R316). -/
  longRegs : BitVec 248
  /-- Lane registers written since the region opened (R139). -/
  dirtyV  : BitVec 248
  /-- p0–p6 (R167). -/
  preds   : Tab W32
  /-- x0–x3, register·32 + lane (R174). -/
  xregs   : Tab W32
  /-- k0–k7 (R65). -/
  kregs   : Tab Word
  /-- l0 first (R177). -/
  latches : List Latch
  /-- Oldest first (R180). -/
  blocks  : List Block
  /-- What to go back to, oldest first, while accesses of the lane stream may still fault (R181); and the blocks that have ended
  meanwhile, as they were queued. -/
  undos   : List Undo
  past    : List Block
  blo     : Word
  bhi     : Word
  rstat   : Word
  /-- The live region, 0 for none (R123). -/
  region  : Nat
  /-- In the active set (R44), and the time in ticks it entered it. -/
  active  : Bool
  since   : Nat
  /-- Ready without a break since this cycle of its die (R45). -/
  readyAt : Option Nat
  /-- The cycle of its die in which an aging swap moved it out (R45). -/
  aged    : Option Nat
  /-- Every lane has retired; the slot is not yet free (R210). -/
  retired : Bool
  deriving DecidableEq, Repr

/-- One context: a span when it has no seat, otherwise a strand (R17). -/
structure Thread where
  ctx     : Nat
  launch  : Nat
  box     : Box
  /-- A span's home die, virtual. -/
  home    : Nat
  pc      : Word
  sregs   : Tab SVal
  conds   : Tab CVal
  toks    : List Token
  wct     : Word
  /-- The write completion times a release at a wider scope waits for (R104). -/
  wide    : Wct
  aflags  : BitVec 6
  aenable : BitVec 6
  pkdem   : Word
  batch   : Word
  ctxid   : Word
  wait    : Wait
  /-- The oldest fault or trap that the driver has not resolved; the scalar stream does not issue meanwhile (R181, R357). -/
  stop    : Option Stop
  /-- Later ones of the same strand, oldest first: its blocks and accesses go on after a stop (R358). -/
  more    : List Stop
  /-- The scope of a release fence not yet complete (R104), with the program order number it stands at. -/
  rel     : Option (Nat × Nat)
  /-- The fill stamp before which a copy may not serve, after `fence.seq` (R104), and the fence's scope. -/
  seqAt   : Nat
  seqNo   : Nat
  /-- Sequence number of the last block queued. -/
  blockNo : Nat
  /-- A range instruction that faulted part way goes on from this address when it issues again (R265). -/
  resumeAt : Option Word
  /-- A failed barrier arrival of an engine marks the strand (R303); the word as read. -/
  mark    : Option Word
  /-- Lane operations up to this number stand before the thread's latest fence (R96). -/
  fencedAt : Nat
  /-- By line and offset, the place in coherence order of the latest value of a byte that the thread has seen or written
  (R97). -/
  seen    : Tab (Tab Nat)
  /-- Scalar registers written since the region opened (R139). -/
  dirtyS  : BitVec 64
  /-- The cycle of its die at which the value of a timer comes to a scalar register (R195). -/
  due     : Tab Nat
  /-- The time in ticks at which it was made, seated, unseated or moved: it issues from the next cycle of its die on (R220). -/
  movedAt : Nat
  seat    : Option Seat
  deriving DecidableEq, Repr

/-! ### Workgroups and engines -/

/-- An accumulator or shadow store: elements by row·128 + column, as bits of the tag's format; +0 where unlisted. -/
structure Slot where
  f64  : Bool
  vals : Tab Word
  deriving DecidableEq, Repr

/-- A shadow slot that is not empty: the condition it is tied to, and its elements (R298). -/
structure Shadow where
  cond : Nat
  vals : Tab Word
  deriving DecidableEq, Repr

/-- A workgroup (R28). -/
structure Wg where
  launch  : Nat
  tile    : Nat
  core    : Nat
  scratch : Tab Byte
  /-- The workgroup's own barrier word (R270). -/
  word    : Word
  /-- Tile positions that have arrived in the current generation of that word. -/
  arrived : List Nat
  /-- What engines that arrived on a barrier word had written, by line and offset: under 0 for the workgroup's own word,
  under 1 + offset for one in scratch (R118). -/
  barAcq  : Tab (Tab (Tab Nat))
  acc     : Tab Slot
  shadow  : Tab Shadow
  /-- Tile positions that have retired. -/
  retired : List Nat
  /-- Its part of the core's SRAM, and of the core's matrix engine, have been scanned out (R363). -/
  sramOut : Bool
  engOut  : Bool
  deriving DecidableEq, Repr

/-- One line as an engine reads it: its data, its format window and its physical line (R290, R350). -/
structure ELine where
  data : LineData
  tag  : Option (Nat × Nat)
  line : Nat
  deriving DecidableEq, Repr

/-- An operation in an engine queue (R280), or the entry of a `qfence` (R117). -/
structure EngOp where
  /-- 0 MX, 1 CP, 2 CL. -/
  queue   : Nat
  core    : Nat
  wg      : Nat
  launch  : Nat
  ctx     : Nat
  /-- The members, the first to issue first. -/
  members : List Nat
  instr   : Instr
  pc      : Word
  /-- Captured operand registers, in register order (R310). -/
  opnds   : List Word
  /-- The captured condition of `mcommit`. -/
  cond    : Bool
  /-- The captured descriptor of `cpy.stk`. -/
  rsd     : Word
  /-- The completion barrier: offset and generation read at issue (R303). -/
  bar     : Option (Nat × BitVec 8)
  /-- Batch of each member, 0 while not closed (R300). -/
  batch   : Tab Nat
  started : Bool
  /-- The row list read when the operation began (R293). -/
  rows    : List Nat
  /-- Progress: K positions, rows, bytes or elements (R310). -/
  progress : Nat
  /-- Running sums of a chunked matrix operation, row·128 + column (R310). -/
  partialSum : Tab Word
  /-- The lines fetched ahead and not yet consumed, by virtual line (R290). -/
  fetched : Tab ELine
  /-- The elements of A that an operation with `.hold` has read so far (R291). -/
  avals   : Tab Word
  status  : Nat
  /-- Row at which a failed drain stopped (R302), the address that failed, and for a copy the destination of the first
  byte not written (R306). -/
  frow    : Nat
  failVa  : Word
  failDst : Word
  /-- The access that failed writes (R353). -/
  failWrite : Bool
  /-- It has failed, and waits for its record to be written to the ring (R357). -/
  failing : Bool
  /-- It has come to the end of a chunk while its context freezes, and goes no further (R310, R361). -/
  halted  : Bool
  finished : Bool
  /-- Write completion time in ns (R116). -/
  wct     : Wct
  /-- The bytes it has written, by line and offset, with their places in coherence order (R116). -/
  wrote   : Tab (Tab Nat)
  /-- Program order number of the issuing thread. -/
  seq     : Nat
  deriving DecidableEq, Repr

/-- A closed batch of a thread that no `mwait` has reported (R300, R302). -/
structure Batch where
  thread  : Nat
  wg      : Nat
  num     : Nat
  bar     : Option (Nat × BitVec 8)
  complete : Bool
  barFailed : Bool
  deriving DecidableEq, Repr

/-- A team-issued command held for its members (R282). -/
structure TeamHold where
  wg      : Nat
  team    : Nat
  instr   : Instr
  opnds   : List Word
  cond    : Bool
  waiting : List Nat
  deriving DecidableEq, Repr

/-- The A-hold buffer of a core (R291): the operation it may serve, and A's elements by row·65536 + k. -/
structure AHold where
  core   : Nat
  wg     : Nat
  key    : List Word
  rows   : List Nat
  vals   : Tab Word
  deriving DecidableEq, Repr

/-! ### Launches, contexts and queues -/

/-- A launch record as the command processor read it (R340). -/
structure LaunchRec where
  ent     : Word
  laneBase : Word
  laneLen : Nat
  grid    : Bool
  chunked : Bool
  anchorOn : Bool
  /-- Host-assisted for this launch: XLAT, LOCATE, HANG, POISON. -/
  hostFor : BitVec 4
  ex      : Nat
  ey      : Nat
  ez      : Nat
  wx      : Nat
  wy      : Nat
  wz      : Nat
  team    : Nat
  regs    : Nat
  fall    : Nat
  carve   : Nat
  scratch : Nat
  acc     : Nat
  shadow  : Nat
  /-- First and count of each index window, count 0 for none. -/
  windows : List (Nat × Nat)
  anchor  : Word
  asx     : W32
  asy     : W32
  asz     : W32
  vd      : Nat
  vq      : Nat
  vc      : Nat
  roles   : Word
  roleCnt : Nat
  cranges : Word
  crCnt   : Nat
  l1q     : Nat
  qsq     : Nat
  l2q     : Nat
  pbase   : Word
  ps      : Nat
  sbase   : Word
  cursor  : Word
  compl   : Word
  pdest   : Word
  plen    : Nat
  param   : List Byte
  deriving DecidableEq, Repr

/-- An entry of the role binding table (R343): role, group, virtual die, quad, core. -/
structure Role where
  role  : Nat
  group : Nat
  die   : Nat
  quad  : Nat
  core  : Nat
  deriving DecidableEq, Repr

/-- A commutative range (R87, R343). -/
structure CRange where
  base : Nat
  len  : Nat
  /-- 0 f32, 1 f64, 2 s64, 3 n64. -/
  fmt  : Nat
  /-- 0 add, 1 min, 2 max. -/
  op   : Nat
  deriving DecidableEq, Repr

/-- A hierarchical barrier of one instance of a level (R272): generation, and the boxes of items that have arrived in
it. -/
structure HBar where
  level : Nat
  inst  : Nat
  gen   : BitVec 8
  arrived : List Box
  deriving DecidableEq, Repr

/-- A launch (R340). -/
structure Launch where
  ctx     : Nat
  lrec    : LaunchRec
  roleTab : List Role
  ranges  : List CRange
  /-- Physical die of each virtual die (R31). -/
  dmap    : List Nat
  /-- The cores that were fused off or defective when it was mapped (R31). -/
  off     : List Nat
  /-- Boxes of items that have retired (R270). -/
  retired : List Box
  records : Nat
  firstFault : Nat
  hbars   : List HBar
  /-- 0 completed, 2 final fault, 3 forced reset (R341). -/
  status  : Nat
  finished : Bool
  /-- Cores of the grid whose places are reserved (R344). -/
  reserved : Bool
  /-- A launch submitted by `dlaunch` and not yet taken: its queue and entry index (R340). -/
  slot    : Option (Nat × Nat)
  /-- The greatest write completion time of the launch's writes, in ns (R119, R341). -/
  wct     : Nat
  /-- The time in ns at which the store of PARAM is complete: no instruction issues before it (R340). -/
  startAt : Nat
  deriving DecidableEq, Repr

/-- The fault control block of a context (R356). -/
structure Fcb where
  err      : BitVec 8
  state    : Nat
  hangLen  : Nat
  msix     : Nat
  hangBuf  : Word
  saveLen  : Word
  saveBase : Word
  fqHead   : Word
  fqTail   : Word
  fqLog2   : Nat
  fqBase   : Word
  deriving DecidableEq, Repr

/-- A fault record on its way to the ring: its eight words, the thread it names, if any, and the engine operation that waits
for it, if any (R353, R357). -/
structure Rec where
  words  : List Word
  thread : Option Nat
  eng    : Option Nat
  deriving DecidableEq, Repr

/-- A context the hub knows (R336, R356): one that the driver has registered, or one whose fault control block it has written. -/
structure Ctx where
  /-- Only its fault control block has been written: it is not in the hub's table yet. -/
  fcbOnly : Bool
  /-- CTXID of the descriptor, as `ctxid` reads it. -/
  ctxid   : Nat
  root    : Word
  lease   : Nat
  l1q     : Nat
  qsq     : Nat
  l2q     : Nat
  qtable  : Word
  priv    : Bool
  fcb     : Fcb
  recs    : List Rec
  /-- Queues woken by the doorbell (R337). -/
  woken   : List Nat
  /-- The queues served in the current turn (R338). -/
  served  : List Nat
  /-- A descriptor written and not yet in force; its fields but ROOT come into force at the next launch (R336). -/
  desc    : Option (BitVec 256)
  /-- Ticks counted toward HANG (R48). -/
  hang    : Nat
  /-- When pre-emption started, in ns, if it has; and whether its clocks are gated. -/
  preAt   : Option Nat
  frozen  : Bool
  /-- Units claimed by a context of higher priority, and those already scanned out (R363), by core·6 + the unit: partitions 0
  to 3, 4 the SRAM, 5 the matrix engine. -/
  claims  : List Nat
  saved   : List Nat
  /-- Bytes of the save area in use, and whether a scan-out waits for room there (R364). -/
  saveUsed : Nat
  saveShort : Bool
  /-- Deadlines of the ladder signalled to the driver in host-assisted mode (R354, R361). -/
  told    : Nat
  /-- The context's latest launch, 0 for none (R339). -/
  latest  : Nat
  /-- The partitions, core·4 + partition, where strands of it have given up register rows since it was registered (R394). -/
  rows    : List Nat
  deriving DecidableEq, Repr

/-- A queue entry taken and not yet complete (R338). -/
structure Entry where
  ctx    : Nat
  queue  : Nat
  kind   : Nat
  sigAddr : Word
  sigVal : Word
  /-- The launch it started, 0 for none. -/
  launch : Nat
  /-- Ready to complete: its condition or its write completion time (ns) has been reached. -/
  ready  : Bool
  wct    : Nat
  deriving DecidableEq, Repr

/-! ### Memory system -/

/-- MOESI states of a line in a die's L2 (R368). -/
inductive LineSt where
  | s | e | m | o
  deriving DecidableEq, Repr

/-- A line held in a die's L2 (R62, R350). -/
structure L2Line where
  die  : Nat
  line : Nat
  /-- 0 for a line of this package, otherwise 1 + the home package (R370). -/
  home : Nat
  st   : LineSt
  data : LineData
  key  : Nat
  /-- Element base and scale base of the format window the line left the controller under (R349). -/
  tag  : Option (Nat × Nat)
  /-- A read-only copy of a failed range (R378). -/
  ro   : Bool
  /-- The quad whose store holds the line exclusively for an atomic of `.core` or `.quad` scope (R108). -/
  excl : Option Nat
  /-- The time in ns at which a copy leased from another package expires here (R103, R370). -/
  lease : Option Nat
  deriving DecidableEq, Repr

/-- A dirty line that a die has evicted and whose write-back has not reached its home: it stands in the die's write-back buffer,
and the directory keeps the die as its owner (R376, R377). -/
structure WBack where
  /-- The line as the L2 held it. -/
  held : L2Line
  /-- A forward has been served from the buffer (R377). -/
  fwd  : Bool
  deriving DecidableEq, Repr

/-- Where a leased copy lies (R93). -/
inductive Place where
  | l1 (core : Nat)
  | quad (q : Nat)
  /-- The staging buffer of a core, for the stream of a thread (R81). -/
  | stage (core thread : Nat)
  deriving DecidableEq, Repr

/-- A copy of a line: a leased one is valid while `rt` is below `expiry` (R93), a parked one until it is revoked (R112). -/
structure Copy where
  place  : Place
  line   : Nat
  ctx    : Nat
  data   : LineData
  /-- When it was filled, by the step counter (R104). -/
  filled : Nat
  /-- By offset, the places in coherence order of its bytes (R97); 0 where nothing is listed. -/
  stamps : Tab Nat
  /-- A parked copy (R112), which has no lease. -/
  parked : Bool
  expiry : Nat
  /-- For a quad store, the latest lease it has granted on the line (R101). -/
  granted : Nat
  deriving DecidableEq, Repr

/-- A reader set in virtual numbers (R67). -/
inductive RSet where
  | cores (die quad : Nat) (mask : BitVec 4)
  | quads (die : Nat) (mask : W32)
  | dies (mask : BitVec 8)
  | all
  deriving DecidableEq, Repr

/-- Where a line is parked (R68), in physical numbers. -/
inductive Level where
  | l1 (core : Nat)
  | quad (q : Nat)
  | slice (die : Nat)
  | repl (dies : BitVec 8)
  | comb (die : Nat)
  deriving DecidableEq, Repr

/-- The park directory's record of one parked line, with the line's data (R69). -/
structure Locket where
  line   : Nat
  rset   : RSet
  force  : Nat
  level  : Level
  data   : LineData
  key    : Nat
  ctx    : Nat
  launch : Nat
  /-- Order of parking: the step at which the line was first parked; a later `stk` of it does not renew the order
  (R76; assumption 57). -/
  ord    : Nat
  /-- The format-window tag the line left its controller with (R350). -/
  tag    : Option (Nat × Nat)
  deriving DecidableEq, Repr

/-- A core's partial of a commutative line, or, once handed over, its entry at the combining slice (R88, R89). -/
structure Partial where
  core   : Nat
  launch : Nat
  line   : Nat
  /-- Key index of its page (R345). -/
  key    : Nat
  /-- The range the line belongs to (R87). -/
  range  : CRange
  elems  : Tab Word
  handed : Bool
  deriving DecidableEq, Repr

/-- A directory line whose state is not known (R375). -/
structure ULine where
  line    : Nat
  probing : Bool
  /-- When the probes were sent, in ns. -/
  since   : Nat
  deriving DecidableEq, Repr

/-- A region's live tag on a line, with the bounds the slice knows (R129). -/
structure Tag where
  rg : Nat
  lo : Nat
  hi : Nat
  deriving DecidableEq, Repr

/-- What a slice keeps for a line it holds for regions (R129). -/
structure LineTag where
  die     : Nat
  line    : Nat
  wpos    : Nat
  rpos    : Nat
  readers : List Tag
  writer  : Option Tag
  /-- Regions whose freeze the slice has answered (R136). -/
  answered : List Nat
  deriving DecidableEq, Repr

/-- The tentative copy of a line: the bytes a region has written (R127). -/
structure Tentative where
  rg    : Nat
  die   : Nat
  line  : Nat
  bytes : Tab Byte
  deriving DecidableEq, Repr

/-- The phase of a region. -/
inductive RPhase where
  | live
  /-- `rend` has sent freezes; the lines whose slices have not answered (R135 step 2). -/
  | freezing (left : List (Nat × Nat))
  /-- The final position is broadcast; the lines not yet acknowledged (R135 step 4). -/
  | committing (left : List (Nat × Nat))
  /-- An abort is broadcast; cause, fault cause, user code, and the lines not yet acknowledged (R139). -/
  | aborting (cause fcause ucode : Nat) (left : List (Nat × Nat))
  deriving DecidableEq, Repr

/-- A region record (R123). -/
structure Region where
  thread : Nat
  die    : Nat
  strict : Bool
  lo     : Nat
  hi     : Nat
  target : Word
  mask   : W32
  depth  : Nat
  phase  : RPhase
  /-- Forms of the scalar registers at `rbeg`: U 0, A 1, M 2 (R139). -/
  forms  : Tab Nat
  /-- The fault to take after the abort (R139). -/
  pend   : Option Stop
  wct    : Wct
  deriving DecidableEq, Repr

/-- A region message on its way (R133). -/
structure RMsg where
  rg    : Nat
  raise : Bool
  value : Nat
  /-- The slice that sent it. -/
  die   : Nat
  line  : Nat
  deriving DecidableEq, Repr

/-- A cached translation (R347): context, 4 KiB page, the entry, its level, and the page-table lines read for it. -/
structure Tlb where
  /-- The cache that holds it: a core's micro cache by the core's number, a die's by 1,024 + the die, and 1,032 for the spans,
  which run on the hub. -/
  unit  : Nat
  ctx   : Nat
  page  : Nat
  pte   : Word
  level : Nat
  lines : List Nat
  /-- The step in which a store has changed one of those lines, so that the translation is to be dropped. -/
  stale : Option Nat
  /-- It has been dropped; its core has yet to acknowledge. -/
  dropped : Bool
  deriving DecidableEq, Repr

/-- A line of this package that another package holds (R370): leased until a time in ns, or owned. -/
structure RemoteHold where
  pkg   : Nat
  line  : Nat
  /-- The key the line is written home under (R393). -/
  key   : Nat
  owned : Bool
  expiry : Nat
  deriving DecidableEq, Repr

/-- Memory behind the L2s. -/
structure Mem where
  /-- Physical bytes, canonical: addresses rising, no entry that holds 0. -/
  bytes   : List Host.Cell
  /-- Poisoned lines (R374). -/
  poison  : List Nat
  /-- Key slot generation each line was last written under (R393). -/
  written : Tab Nat
  deriving DecidableEq, Repr

/-- A stream detector (R81): the line it expects next, consecutive misses so far, and its last access in cycles of its die. It
is armed at eight. -/
structure Stream where
  core   : Nat
  thread : Nat
  next   : Nat
  count  : Nat
  last   : Nat
  deriving DecidableEq, Repr

/-- The latest writes that have passed through a core's L1 or a quad store, by offset: a load through it never returns an
older value (R100, R122). -/
structure Floor where
  place  : Place
  line   : Nat
  stamps : Tab Nat
  deriving DecidableEq, Repr

/-- Lines and copies on chip. -/
structure Coh where
  l2      : List L2Line
  wbacks  : List WBack
  copies  : List Copy
  lockets : List Locket
  partials : List Partial
  ulines  : List ULine
  remote  : List RemoteHold
  tlb     : List Tlb
  /-- Lines an engine holds pinned: core, line (R290). -/
  pins    : List (Nat × Nat)
  streams : List Stream
  /-- The coherence order (R97): by line and offset, the step at which the byte was last written. -/
  wstamp  : Tab (Tab Nat)
  floors  : List Floor
  deriving DecidableEq, Repr

/-- The regions' side of the slices. -/
structure Reg where
  regions : Tab Region
  tags    : List LineTag
  tent    : List Tentative
  msgs    : List RMsg
  deriving DecidableEq, Repr

/-! ### Dies, hub and boot -/

/-- The clock of a compute die and its DIEPS register (R49, R50, R395). -/
structure Die where
  cur     : BitVec 2
  target  : BitVec 2
  ccStep  : Nat
  sccStep : Nat
  /-- Time in ticks of the step point. -/
  stepAt  : Nat
  /-- While relocking: the time in ticks at which the clock stopped, and `cc` and `scc` there; and the P-state it comes
  back in. -/
  stopped : Option (Nat × Nat × Nat)
  next    : BitVec 2
  relocks : Nat
  failed  : Bool
  resetting : Bool
  /-- The last carve-out setting applied by each core of the die, in KiB (R61). -/
  carves  : Tab Nat
  deriving DecidableEq, Repr

/-- A format window (R349). -/
structure Window where
  en     : Bool
  ctx    : Nat
  pcBase : Nat
  len    : Nat
  peBase : Nat
  deriving DecidableEq, Repr

/-- A memory die (R349, R378, R384). -/
structure MDie where
  windows : Tab Window
  trained : Bool
  failed  : Bool
  keysIn  : Bool
  deriving DecidableEq, Repr

/-- A link (R5, R372, R373): 0–7 hub to compute die, 8–15 hub to memory die, 16–23 side bridges, 24–47 Filuth ports. -/
structure Link where
  down    : Bool
  /-- Consecutive failed replays of the flit at the head. -/
  fails   : Nat
  replays : Nat
  downs   : Nat
  /-- The negotiated protocol revision plus one; 0 while none is (R383). -/
  rev     : Nat
  deriving DecidableEq, Repr

/-- Whose access the hub holds. -/
inductive Holder where
  /-- One lane's part of an operation, by its thread and the order of issue. -/
  | lane (thread seq lane : Nat)
  /-- An engine operation that has come so far. -/
  | engine (core queue seq progress : Nat)
  /-- An access of the host: a store or a load of `n` bytes. -/
  | host (write : Bool) (pa n : Nat) (v : Word)
  deriving DecidableEq, Repr

/-- An access that the hub holds for a resetting pair (R387) or for a line whose directory entry is being rebuilt (R375): its line,
whether it is held for the pair, since when in ns, and whether it has been held for longer than an engine's access may be. They are
listed in the order of arrival. -/
structure HeldAcc where
  who   : Holder
  line  : Nat
  pair  : Bool
  since : Nat
  late  : Bool
  deriving DecidableEq, Repr

/-- The hub's registers and its own queues. -/
structure Hub where
  fmode    : BitVec 7
  resetDl  : W32
  drainDl  : W32
  hangThr  : BitVec 48
  salvBase : Word
  salvUsed : W32
  salvCap  : BitVec 30
  salvOvf  : Bool
  salvEn   : Bool
  partBusy : Bool
  partErr  : Bool
  partDone : BitVec 8
  partMask : BitVec 8
  /-- CTXPART where it differs from 0xFF (R389). -/
  ctxPart  : Tab (BitVec 8)
  /-- MSI-X vectors signalled, oldest first (R357). -/
  msix     : List Nat
  held     : List HeldAcc
  pix      : Nat
  podSize  : Nat
  /-- Remote packages with the time in ns since no port has reached them, and those declared failed (R378). -/
  silent   : Tab Nat
  deadPkgs : List Nat
  deriving DecidableEq, Repr

/-- A report in the RAS log (R378, R379). -/
inductive RasReport where
  /-- A line of a failed range that an L2 held M, O or P, with the die that held it. -/
  | held (line die : Nat)
  /-- USED once the salvage of a failure has finished. -/
  | salvaged (used : Nat)
  deriving DecidableEq, Repr

/-- RAS counters of the package (R397), and its log. -/
structure Ras where
  log      : List RasReport
  lostSt   : Word
  poisonRd : Word
  salv     : Word
  eccCor   : Tab Word
  eccUnc   : Tab Word
  power    : Tab Word
  temp     : Tab Word
  deriving DecidableEq, Repr

/-- A firmware image offered at boot (R381): for unit 0–7 compute dies, 8–15 memory dies, 16 hub, 17 Umush. -/
structure Image where
  unit   : Nat
  bytes  : List Byte
  sig    : List Byte
  keyHash : BitVec 256
  version : W32
  target : Nat
  commit : Bool
  /-- The protocol revisions it supports on die links, on side bridges and on Filuth ports (R382). -/
  revDie : BitVec 16
  revSide : BitVec 16
  revPort : BitVec 16
  deriving DecidableEq, Repr

/-- The Umush controller and the boot chain (R2, R380, R384, R398). -/
structure Boot where
  powered  : Bool
  stage    : Nat
  failCode : Nat
  failDie  : Nat
  mTrain   : BitVec 8
  rollback : BitVec 8
  /-- The four fused key slots: hash and revoked. -/
  fuses    : List (BitVec 256 × Bool)
  /-- Images offered, and those accepted by unit. -/
  offered  : List Image
  accepted : List Image
  /-- What the training of each link and stack will find: failing links and stacks (inputs). -/
  badLinks : List Nat
  badStacks : List Nat
  /-- Which path to boot storage the fuses select: the host port, or CXL port 0 (R380). -/
  viaCxl   : Bool
  /-- The revisions that the far end of each Filuth port advertises as it trains (an input, R383). -/
  portRevs : Tab (BitVec 16)
  /-- The cores that are fused off or defective (an input, R31). -/
  badCores : List Nat
  /-- The unit for whose recovery image Umush waits, while boot has stopped (R381, R384). -/
  waiting  : Option Nat
  evidence : List Byte
  /-- The CTXPART table as it was returned beside the evidence (R398). -/
  evTable  : List Byte
  /-- The controller's four cores, which execute the scalar subset of Kieri (R2): each a context of one item. -/
  cores    : List Thread
  deriving DecidableEq, Repr

/-! ### The environment's choices -/

/-- What the next step does. -/
inductive Choice where
  /-- The scalar stream of a thread issues its next instruction. -/
  | run (th : Nat)
  /-- The lane stream of a strand issues its next instruction. -/
  | lane (th : Nat)
  /-- A hardware event or an action from outside. -/
  | event (i : Instr)
  /-- A core of Umush executes an instruction that its program has next. -/
  | umush (core : Nat) (i : Instr)
  /-- Time passes, in ticks. -/
  | pass (ticks : Nat)
  /-- A soft error in the SRAM of a compute die (units 0 to 7) or in a memory die (8 to 15), corrected or not (R397). -/
  | softError (unit : Nat) (corrected : Bool)
  /-- The sensors of a die report its mean power in mW over the last 1 ms and its hottest point in 0.01 °C (R397). -/
  | sensors (die : Nat) (power temp : Word)
  deriving DecidableEq, Repr

end Sys2Proof.Machine

namespace Sys2Proof.Machine
open Sys2Proof

/-- The state of the package. -/
structure State where
  mem      : Mem
  coh      : Coh
  reg      : Reg
  threads  : Tab Thread
  wgs      : Tab Wg
  launches : Tab Launch
  ctxs     : Tab Ctx
  ops      : Tab Op
  engq     : Tab EngOp
  batches  : List Batch
  teams    : List TeamHold
  aholds   : List AHold
  entries  : Tab Entry
  dies     : Tab Die
  mdies    : Tab MDie
  links    : Tab Link
  hub      : Hub
  ras      : Ras
  keys     : Tab Nat
  keyGen   : Nat
  boot     : Boot
  time     : Nat
  agenda   : List Choice
  cur      : Nat
  freeCtr  : Nat
  nextId   : Nat
  deriving DecidableEq, Repr

/-- Why the machine stops with a fault. -/
inductive Fault where
  /-- Raised by the hub's own reads and writes of physical memory, on an address R348 leaves unbacked. Safe: the
  manual gives no effect for it, and the machine goes no further. -/
  | unbacked (pa : Nat)
  deriving DecidableEq, Repr

/-- Why a step has no meaning. -/
inductive Refusal where
  /-- Raised by the dispatcher for an instruction whose meaning is not written. Safe: nothing follows from it. -/
  | notModelled (mnemonic : String)
  /-- Raised by an event's meaning when the state is not one in which the event can come. Safe: the event did not
  happen. -/
  | notEnabled (event : String)
  /-- Raised by a scalar or lane instruction's meaning when the acting thread does not exist, or has no lane state for
  a lane instruction. Safe: no such instruction issues. -/
  | noThread
  /-- Raised by the step when a core of Umush comes to an instruction that reaches memory, another agent or a die's clocks: what
  they are to it the manual does not say (R2; assumption 62). Safe: it did not execute. -/
  | umushReach
  deriving DecidableEq, Repr

/-- Compute die `d` at reset (R49, R380): held in reset, counters zero; the P-state is the model's choice (assumption 7). -/
def Die.atReset : Die :=
  { cur := 3, target := 3, ccStep := 0, sccStep := 0, stepAt := 0, stopped := none, next := 3, relocks := 0, failed := false,
    resetting := true, carves := [] }

/-- A memory die before its first training (R384). -/
def MDie.atReset : MDie := { windows := [], trained := false, failed := false, keysIn := false }

/-- A link before any traffic (R373, R397). -/
def Link.atReset : Link := { down := false, fails := 0, replays := 0, downs := 0, rev := 0 }

/-- The hub's registers at reset (R354, R355, R375, R379, R385; assumptions 8 and 10). -/
def Hub.atReset : Hub :=
  { fmode := 0x45, resetDl := 10000, drainDl := 200, hangThr := 0x80000000, salvBase := 0, salvUsed := 0, salvCap := 0,
    salvOvf := false, salvEn := false, partBusy := false, partErr := false, partDone := 0, partMask := 0, ctxPart := [],
    msix := [], held := [], pix := 0, podSize := 1, silent := [], deadPkgs := [] }

/-- A core of Umush before power-on: the spec gives no reset value of its registers (assumption 9). -/
def Thread.umush : Thread :=
  { ctx := 0, launch := 0, box := ⟨0, 1, 0, 1, 0, 1⟩, home := 0, pc := 0, sregs := [], conds := [], toks := [], wct := 0,
    wide := Wct.flat 0, aflags := 0, aenable := 0, pkdem := 0, batch := 0, ctxid := 0, wait := .none, stop := none, more := [],
    rel := none, seqAt := 0, seqNo := 0, blockNo := 0, resumeAt := none, mark := none, fencedAt := 0, seen := [], dirtyS := 0,
    due := [], movedAt := 0, seat := none }

/-- The boot chain before power-on (R380, R384; assumption 9). -/
def Boot.atReset : Boot :=
  { powered := false, stage := 0, failCode := 0, failDie := 0, mTrain := 0, rollback := 0,
    fuses := [], offered := [], accepted := [], badLinks := [], badStacks := [], viaCxl := false, portRevs := [], badCores := [],
    waiting := none, evidence := [], evTable := [], cores := List.replicate 4 Thread.umush }

/-- The package right after reset: nothing launched, nothing cached, no context registered. -/
def State.reset : State :=
  { mem := { bytes := [], poison := [], written := [] },
    coh := { l2 := [], wbacks := [], copies := [], lockets := [], partials := [], ulines := [], remote := [], tlb := [], pins := [],
             streams := [], wstamp := [], floors := [] },
    reg := { regions := [], tags := [], tent := [], msgs := [] },
    threads := [], wgs := [], launches := [], ctxs := [], ops := [], engq := [], batches := [], teams := [],
    aholds := [], entries := [], dies := [], mdies := [], links := [],
    hub := Hub.atReset,
    ras := { log := [], lostSt := 0, poisonRd := 0, salv := 0, eccCor := [], eccUnc := [], power := [], temp := [] },
    keys := [], keyGen := 0, boot := Boot.atReset,
    time := 0, agenda := [], cur := 0, freeCtr := 0, nextId := 1 }

end Sys2Proof.Machine
end

