-- ==== Sys2Proof/WellFormed.lean ====
section
/-!
DEFINITION. Which instructions are well formed: the encoding defects of R166, R172, R187 to R193 and R226 that the
operand fields alone decide. The limits that a launch sets (`.regs`, `.acc`, `.shadow`) are checked when the
instruction issues.
-/
namespace Sys2Proof

/-- How a lane instruction reads a source field (R171, R225, R226). -/
inductive SrcKind where
  /-- The field is not read: its contents are ignored (R15). -/
  | unread
  /-- A register whose width is that of the type. -/
  | typed
  /-- A 32-bit register whatever the type. -/
  | w32
  /-- A 64-bit position whatever the type. -/
  | w64
  /-- A predicate operand (R226). -/
  | pred
  /-- A reader-set register in CODE[2:0] (R255). -/
  | rset
  /-- An index register in CODE[1:0] (R248). -/
  | xreg
  deriving DecidableEq, Repr

/-- What a lane instruction's DST field names (R226, R253, R254). -/
inductive DstKind where
  /-- A lane register of the given number of bits, or a latch only (code 255). -/
  | reg (w : Nat)
  /-- A lane register of the given number of bits; code 255 is refused (R253, R259). -/
  | loadReg (w : Nat)
  /-- A predicate. -/
  | pred
  /-- A scalar register. -/
  | sreg
  /-- An index register. -/
  | xreg
  /-- DST must be zero. -/
  | zero
  /-- The field is not used. -/
  | unused
  deriving DecidableEq, Repr

/-- What one lane instruction requires of its fields. -/
structure LaneShape where
  /-- OP: group base plus position (R190). -/
  op  : Nat
  /-- The accepted TY codes (R191). -/
  tys : List Nat
  dst : DstKind
  a   : SrcKind
  b   : SrcKind
  c   : SrcKind
  /-- Whether I = 1 may replace SB by IMM (R176, R192, R226). -/
  imm : Bool
  /-- Defects of RND, FTZ, FAM, IMM and of their combination with TY, with their sub-causes. -/
  extra : List (Option Nat)

/-- Width in bits of a TY code's elements (R142, R145, R169); a packed pair counts 32. -/
def tyBits (ty : Nat) : Nat :=
  if ty = 4 ∨ ty = 5 ∨ ty = 6 ∨ ty = 15 then 64
  else if ty = 7 ∨ ty = 8 ∨ ty = 11 ∨ ty = 12 then 16
  else if ty = 13 ∨ ty = 14 then 8
  else 32

/-- Bits a value of the type occupies in lane registers: 64 for a pair, otherwise one register (R142). -/
def regBits (ty : Nat) : Nat := if tyBits ty = 64 then 64 else 32

/-- The float types, packed pairs included. -/
def isFloatTy (ty : Nat) : Bool := ty == 3 || (6 ≤ ty && ty ≤ 10)

/-- The packed types 2×f16 and 2×bf16. -/
def isPackedTy (ty : Nat) : Bool := ty == 9 || ty == 10

/-- The signed integer types. -/
def isSignedTy (ty : Nat) : Bool := ty == 1 || ty == 4 || ty == 11 || ty == 13

/-- The integer types, signed or unsigned. -/
def isIntTy (ty : Nat) : Bool := isSignedTy ty || ty == 2 || ty == 5 || ty == 12 || ty == 14

/-- `CODE` of a source field. -/
def srcCode (s : BitVec 10) : Nat := (s.extractLsb' 0 8).toNat

/-- `KL` of a source field. -/
def srcKL (s : BitVec 10) : Bool := s.getLsbD 8

/-- `LU` of a source field. -/
def srcLU (s : BitVec 10) : Bool := s.getLsbD 9

/-- Defects of a source field read as a register of `w` bits; `no255` where code 255 is refused (R172, R175). -/
def regSrcDefect (s : BitVec 10) (w : Nat) (no255 : Bool) : Option Nat :=
  leastDefect [
    defect (srcKL s && 4 ≤ srcCode s) 0x03,
    defect (srcLU s && (srcKL s || 248 ≤ srcCode s)) 0x05,
    defect (!srcKL s && w == 64 && srcCode s < 248 && (srcCode s % 2 == 1 || srcCode s == 247)) 0x05,
    defect (!srcKL s && no255 && srcCode s == 255) 0x05]

/-- Defects of one source field (R172, R226, R248, R255). -/
def srcDefect (k : SrcKind) (s : BitVec 10) (ty : Nat) (no255 : Bool) : Option Nat :=
  match k with
  | .unread => none
  | .typed => regSrcDefect s (regBits ty) no255
  | .w32 => regSrcDefect s 32 no255
  | .w64 => regSrcDefect s 64 no255
  | .pred => defect (16 ≤ s.toNat) 0x03
  | .rset => defect (8 ≤ s.toNat) 0x03
  | .xreg => defect (4 ≤ s.toNat) 0x03

/-- Defects of the DST field (R171, R172, R226). -/
def dstDefect (k : DstKind) (d : BitVec 8) : Option Nat :=
  let n := d.toNat
  let regD (w : Nat) : Option Nat :=
    defect ((252 ≤ n && n ≤ 254) || (w == 64 && n < 248 && (n % 2 == 1 || n == 247))) 0x05
  match k with
  | .reg w => regD w
  | .loadReg w => leastDefect [regD w, defect (n == 255) 0x05]
  | .pred => leastDefect [defect (8 ≤ n) 0x03, defect (n % 8 == 7) 0x02]
  | .sreg => leastDefect [defect (64 ≤ n) 0x03, defect (n % 64 == 0) 0x05]
  | .xreg => defect (4 ≤ n) 0x03
  | .zero => defect (n != 0) 0x03
  | .unused => none

/-- Whether a source kind is a register read, for which code 255 names a scalar register. -/
def isRegSrc : SrcKind → Bool
  | .typed => true
  | .w32 => true
  | .w64 => true
  | _ => false

/-- Whether a read source is code 255 (R172: not together with I = 1). -/
def reads255 (k : SrcKind) (s : BitVec 10) : Bool := isRegSrc k && !srcKL s && srcCode s == 255

/-- The least encoding defect of a lane instruction of the given shape. `mem` marks the Memory and Atomic groups,
where a source of code 255 is refused (R175, R250). -/
def laneDefect (sh : LaneShape) (mem : Bool) (f : LaneFields) : Option Nat :=
  let ty := f.ty.toNat
  leastDefect ([
    defect (!sh.tys.contains ty) 0x04,
    dstDefect sh.dst f.dst,
    srcDefect sh.a f.sa ty mem,
    if bit f.i then none else srcDefect sh.b f.sb ty mem,
    srcDefect sh.c f.sc ty mem,
    defect (bit f.i && !sh.imm) 0x03,
    defect (bit f.i && sh.imm && (reads255 sh.a f.sa || reads255 sh.c f.sc)) 0x05] ++ sh.extra)

/-- An entry that requires RND, FTZ and FAM to be zero (R228, R248). -/
def plainMd (f : LaneFields) : List (Option Nat) :=
  [defect (f.rnd != 0) 0x03, defect (f.ftz != 0) 0x03, defect (f.fam != 0) 0x03]

/-- An entry that assigns FAM 0 alone: the other values are reserved (R192). RND and FTZ must be zero (R172). -/
def dataMd (f : LaneFields) : List (Option Nat) :=
  [defect (f.rnd != 0) 0x03, defect (f.ftz != 0) 0x03, defect (f.fam != 0) 0x02]

/-- The modifiers of R228: `.sat` in RND[38], RND[37] zero, FTZ zero, `.chk` in FAM[0]. -/
def satMd (f : LaneFields) : List (Option Nat) :=
  [defect (f.rnd.getLsbD 0) 0x03, defect (f.ftz != 0) 0x03, defect (2 ≤ f.fam.toNat) 0x02]

/-- RND and FTZ of a float instruction: RND where it takes a rounding mode, FTZ where it flushes, and neither with an integer or bit
type (R172, R232). -/
def roundMd (rnd ftz : Bool) (f : LaneFields) : List (Option Nat) :=
  [defect (!(rnd && isFloatTy f.ty.toNat) && f.rnd != 0) 0x03, defect (!(ftz && isFloatTy f.ty.toNat) && f.ftz != 0) 0x03]

/-- A float instruction: any RND if `rnd`, FTZ if `ftz`, and FAM zero (R232). -/
def floatMd (rnd ftz : Bool) (f : LaneFields) : List (Option Nat) :=
  roundMd rnd ftz f ++ [defect (f.fam != 0) 0x03]

def tyInt : List Nat := [1, 2, 4, 5, 11, 12, 13, 14]
def tyBit : List Nat := [0, 15]
def tyFloat : List Nat := [3, 6, 7, 8, 9, 10]
def tyRed : List Nat := [1, 2, 3, 4, 5, 6]
def tyAll : List Nat := [0, 1, 2, 3, 4, 5, 6, 7, 8, 9, 10, 11, 12, 13, 14, 15]

/-- Shape of an integer or bit instruction with sources of the type's width (R228). -/
def intShape (op : Nat) (tys : List Nat) (b c : SrcKind) (md : LaneFields → List (Option Nat)) (f : LaneFields) :
    LaneShape :=
  { op := op, tys := tys, dst := .reg (regBits f.ty.toNat), a := .typed, b := b, c := c, imm := b != .unread,
    extra := md f }

/-- Shape of a float instruction whose sources and result have the type's width (R232). -/
def floatShape (op : Nat) (tys : List Nat) (b c : SrcKind) (rnd ftz : Bool) (f : LaneFields) : LaneShape :=
  { op := op, tys := tys, dst := .reg (regBits f.ty.toNat), a := .typed, b := b, c := c, imm := b != .unread,
    extra := floatMd rnd ftz f }

/-- FAM of a field record as a number. -/
def famOf (f : LaneFields) : Nat := f.fam.toNat

/-- `cvt` (R237): the source type is IMM[3:0]. -/
def cvtSrcTy (f : LaneFields) : Nat := (f.imm.extractLsb' 0 4).toNat

/-- Shape of `cvt` (R150, R237): between a float and an integer, RND and FTZ act for the float side. -/
def cvtShape (f : LaneFields) : LaneShape :=
  let d := f.ty.toNat
  let s := cvtSrcTy f
  let fl := isFloatTy d || isFloatTy s
  { op := 0x082, tys := [1, 2, 3, 4, 5, 6, 7, 8, 9, 10, 11, 12, 13, 14],
    dst := .reg (regBits d), a := if regBits s = 64 then .w64 else .w32, b := .unread, c := .unread, imm := false,
    extra := [
      defect (s == 0 || s == 15) 0x04,
      defect (isPackedTy d != isPackedTy s) 0x04,
      defect (f.imm.extractLsb' 4 28 != 0) 0x03,
      defect (!fl && f.rnd.getLsbD 0) 0x03,
      defect (!fl && f.ftz != 0) 0x03,
      defect (fl && f.fam != 0) 0x02,
      defect (!fl && 2 ≤ famOf f) 0x02] }

/-- Shape of a cross-lane reduction over TY 1–6 (R245 to R247): RND and FTZ with a float type only. A `cmpx` rounds nothing and requires
RND zero (DESIGN CHOICE, assumption 63). -/
def redShape (op : Nat) (dst : DstKind) (b : SrcKind) (extra : List (Option Nat)) (f : LaneFields) : LaneShape :=
  { op := op, tys := tyRed, dst := dst, a := .typed, b := b, c := .unread, imm := b != .unread,
    extra := roundMd true true f ++ extra }

/-- `SrcKind` of an address operand in the space FAM names (R251). -/
def addrKind (f : LaneFields) : SrcKind := if famOf f = 2 ∨ famOf f = 3 then .w32 else .w64

/-- Scope or level field IMM[27:25]. -/
def immScope (f : LaneFields) : Nat := (f.imm.extractLsb' 25 3).toNat

/-- Operation field IMM[31:28] of an atomic. -/
def immOp (f : LaneFields) : Nat := (f.imm.extractLsb' 28 4).toNat

/-- Defects common to the lane accesses of R250. -/
def accessMd (f : LaneFields) : List (Option Nat) :=
  [defect (f.ftz != 0) 0x03, defect (f.imm.extractLsb' 29 3 != 0) 0x03]

/-- Defects of `st` and `stk`: MD[38:37] and ACQ zero, a scope of R250, a space of R192. -/
def storeMd (f : LaneFields) : List (Option Nat) :=
  accessMd f ++ [defect (f.rnd != 0) 0x03, defect (f.imm.getLsbD 28) 0x03, defect (6 ≤ immScope f) 0x02,
    defect (5 ≤ famOf f) 0x02]

/-- Whether the operation and TY of an atomic go together (R191, R260). -/
def atomTyOk (op ty : Nat) : Bool :=
  if op ≤ 4 then [1, 2, 4, 5].contains ty
  else if op ≤ 8 then [0, 15].contains ty
  else [3, 6, 9, 10].contains ty

/-- Defects of `atom` and `red` (R192, R259, R260). -/
def atomMd (f : LaneFields) : List (Option Nat) :=
  [defect (f.rnd != 0) 0x03, defect (f.ftz != 0) 0x03, defect (f.fam != 0) 0x03,
   defect (6 ≤ immScope f) 0x02, defect (12 ≤ immOp f) 0x02,
   defect (immOp f < 12 && !atomTyOk (immOp f) f.ty.toNat) 0x04]

/-- The shape of each lane instruction, and whether it belongs to the Memory or Atomic group; none for the others. -/
def laneShape : Instr → Option (LaneShape × Bool × LaneFields)
  | .iadd f => some (intShape 0x000 tyInt .typed .unread satMd f, false, f)
  | .isub f => some (intShape 0x001 tyInt .typed .unread satMd f, false, f)
  | .imul f => some (intShape 0x002 tyInt .typed .unread satMd f, false, f)
  | .imulh f => some (intShape 0x003 [1, 2, 4, 5] .typed .unread plainMd f, false, f)
  | .imad f => some (intShape 0x004 tyInt .typed .typed satMd f, false, f)
  | .iabs f => some (intShape 0x005 [1, 4, 11, 13] .unread .unread satMd f, false, f)
  | .ineg f => some (intShape 0x006 [1, 4, 11, 13] .unread .unread satMd f, false, f)
  | .imin f => some (intShape 0x007 tyInt .typed .unread plainMd f, false, f)
  | .imax f => some (intShape 0x008 tyInt .typed .unread plainMd f, false, f)
  | .land f => some (intShape 0x009 tyBit .typed .unread plainMd f, false, f)
  | .lor f => some (intShape 0x00A tyBit .typed .unread plainMd f, false, f)
  | .lxor f => some (intShape 0x00B tyBit .typed .unread plainMd f, false, f)
  | .lnot f => some (intShape 0x00C tyBit .unread .unread plainMd f, false, f)
  | .andn f => some (intShape 0x00D tyBit .typed .unread plainMd f, false, f)
  | .shl f => some (intShape 0x00E tyBit .w32 .unread plainMd f, false, f)
  | .shr f => some (intShape 0x00F [0, 2, 5, 15] .w32 .unread plainMd f, false, f)
  | .sra f => some (intShape 0x010 [1, 4] .w32 .unread plainMd f, false, f)
  | .rotl f => some (intShape 0x011 tyBit .w32 .unread plainMd f, false, f)
  | .bfx f => some (intShape 0x012 [1, 2, 4, 5] .w32 .unread plainMd f, false, f)
  | .bfi f => some (intShape 0x013 tyBit .w32 .typed plainMd f, false, f)
  | .clz f => some (intShape 0x014 tyBit .unread .unread plainMd f, false, f)
  | .popc f => some (intShape 0x015 tyBit .unread .unread plainMd f, false, f)
  | .brev f => some (intShape 0x016 tyBit .unread .unread plainMd f, false, f)
  | .icmp f => some (⟨0x017, tyInt, .pred, .typed, .typed, .unread, true,
      [defect (f.rnd != 0) 0x03, defect (f.ftz != 0) 0x03, defect (6 ≤ famOf f) 0x02]⟩, false, f)
  | .sel f => some (intShape 0x018 tyBit .typed .pred plainMd f, false, f)
  | .dot4 f => some (intShape 0x019 [1, 2] .typed .typed satMd f, false, f)
  | .fadd f => some (floatShape 0x040 tyFloat .typed .unread true true f, false, f)
  | .fsub f => some (floatShape 0x041 tyFloat .typed .unread true true f, false, f)
  | .fmul f => some (floatShape 0x042 tyFloat .typed .unread true true f, false, f)
  | .ffma f => some (floatShape 0x043 tyFloat .typed .typed true true f, false, f)
  | .fmin f => some ({ floatShape 0x044 tyFloat .typed .unread false true f with
      extra := roundMd false true f ++ [defect (2 ≤ famOf f) 0x02] }, false, f)
  | .fmax f => some ({ floatShape 0x045 tyFloat .typed .unread false true f with
      extra := roundMd false true f ++ [defect (2 ≤ famOf f) 0x02] }, false, f)
  | .fabs f => some (floatShape 0x046 tyFloat .unread .unread false false f, false, f)
  | .fneg f => some (floatShape 0x047 tyFloat .unread .unread false false f, false, f)
  | .fcmp f => some (⟨0x048, tyFloat, .pred, .typed, .typed, .unread, true,
      roundMd false true f⟩, false, f)
  | .frcp f => some (floatShape 0x049 [3] .unread .unread false true f, false, f)
  | .frsq f => some (floatShape 0x04A [3] .unread .unread false true f, false, f)
  | .fsqrt f => some (floatShape 0x04B [3, 6] .unread .unread true true f, false, f)
  | .fdiv f => some (floatShape 0x04C [3, 6] .typed .unread true true f, false, f)
  | .fex2 f => some (floatShape 0x04D [3] .unread .unread false true f, false, f)
  | .flg2 f => some (floatShape 0x04E [3] .unread .unread false true f, false, f)
  | .fsin f => some (floatShape 0x04F [3] .unread .unread false true f, false, f)
  | .fcos f => some (floatShape 0x050 [3] .unread .unread false true f, false, f)
  | .fclass f => some ({ floatShape 0x051 [3, 6, 7, 8] .unread .unread false true f with
      dst := .reg 32 }, false, f)
  | .fcpsgn f => some (floatShape 0x052 tyFloat .typed .unread false false f, false, f)
  | .ftrunc f => some (floatShape 0x053 [3, 6] .unread .unread true true f, false, f)
  | .fldx f => some (floatShape 0x054 [3, 6] .w32 .unread true true f, false, f)
  | .mov f => some (intShape 0x080 tyBit .unread .unread dataMd f, false, f)
  | .movi f => some (⟨0x081, tyBit, .reg (regBits f.ty.toNat), .unread, .unread, .unread, false,
      [defect (f.rnd != 0) 0x03, defect (f.ftz != 0) 0x03,
        defect (2 ≤ famOf f || (famOf f == 1 && f.ty == 0)) 0x02]⟩, false, f)
  | .cvt f => some (cvtShape f, false, f)
  | .pack2 f => some (⟨0x083, [9, 10], .reg 32, .w32, .w32, .unread, true,
      roundMd true true f ++ [defect (f.fam != 0) 0x02]⟩, false, f)
  | .unpk f => some (⟨0x084, [9, 10], .reg 64, .w32, .unread, .unread, false,
      roundMd false true f ++ [defect (f.fam != 0) 0x02]⟩, false, f)
  | .tdec f => some (⟨0x085, [3], .reg 32, .w32, .unread, .unread, false,
      [defect (f.rnd != 0) 0x03, defect (f.ftz != 0) 0x03, defect (2 ≤ famOf f) 0x03,
        defect (f.imm.extractLsb' 2 30 != 0) 0x03]⟩, false, f)
  | .tenc f => some (⟨0x086, [3], .reg 32, .w32, .unread, .w32, false,
      roundMd false true f ++ [defect (2 ≤ famOf f) 0x03,
        defect (f.imm.extractLsb' 2 30 != 0) 0x03]⟩, false, f)
  | .lea f => some (⟨0x087, [15], .reg 64, .w64, .unread, .unread, false,
      [defect (f.rnd != 0) 0x03, defect (f.ftz != 0) 0x03,
        defect (famOf f == 1 || 4 ≤ famOf f) 0x02]⟩, false, f)
  | .pset f => some (⟨0x0C0, [0], .pred, .unread, .w32, .unread, true,
      dataMd f⟩, false, f)
  | .pmov f => some (⟨0x0C1, [0], .pred, .pred, (if famOf f = 4 then .unread else .pred), .unread, false,
      [defect (f.rnd != 0) 0x03, defect (f.ftz != 0) 0x03, defect (5 ≤ famOf f) 0x02]⟩, false, f)
  | .shfl f => some ({ intShape 0x0C2 tyBit .w32 .unread plainMd f with
      extra := [defect (f.rnd != 0) 0x03, defect (f.ftz != 0) 0x03, defect (4 ≤ famOf f) 0x02] }, false, f)
  | .bcast f => some (intShape 0x0C3 tyBit .w32 .unread dataMd f, false, f)
  | .vote f => some (⟨0x0C4, [0], .sreg, .pred, .unread, .unread, false,
      [defect (f.rnd != 0) 0x03, defect (f.ftz != 0) 0x03, defect (4 ≤ famOf f) 0x02]⟩, false, f)
  | .redx f => some (redShape 0x0C5 .sreg .unread
      [defect (6 ≤ famOf f) 0x02, defect (isFloatTy f.ty.toNat && 3 ≤ famOf f && famOf f ≤ 5) 0x04] f, false, f)
  | .scan f => some (redShape 0x0C6 (.reg (regBits f.ty.toNat)) .unread
      [defect (famOf f % 4 == 3) 0x02] f, false, f)
  | .firstLane f => some (⟨0x0C7, [0], .sreg, .pred, .unread, .unread, false,
      dataMd f⟩, false, f)
  | .perm f => some (intShape 0x0C8 tyBit .typed .w32 dataMd f, false, f)
  | .cmpx f => some (redShape 0x0C9 (.reg (regBits f.ty.toNat)) .w32
      [defect (2 ≤ famOf f) 0x03, defect (f.rnd != 0) 0x03] f, false, f)
  | .ld f => some (⟨0x100, tyAll, .loadReg (regBits f.ty.toNat), addrKind f, .unread, .unread, false,
      accessMd f ++ [defect (6 ≤ immScope f) 0x02, defect (5 ≤ famOf f) 0x02]⟩, true, f)
  | .st f => some (⟨0x101, tyAll, .zero, addrKind f, .typed, .unread, false,
      storeMd f⟩, true, f)
  | .stk f => some (⟨0x102, tyAll, .zero, addrKind f, .typed, .rset, false,
      storeMd f⟩, true, f)
  | .prf f => some (⟨0x103, [0], .unused, .w64, .unread, .unread, false,
      accessMd f ++ [defect (f.rnd != 0) 0x03, defect (f.imm.getLsbD 28) 0x03, defect (3 ≤ immScope f) 0x02,
        defect (f.fam != 0) 0x03]⟩, true, f)
  | .atom f => some (⟨0x140, tyAll, .loadReg (regBits f.ty.toNat), .w64, .typed, .unread, false,
      atomMd f⟩, true, f)
  | .red f => some (⟨0x141, tyAll, .zero, .w64, .typed, .unread, false,
      atomMd f ++ [defect (immOp f == 8) 0x02]⟩, true, f)
  | .cas f => some (⟨0x142, tyBit, .loadReg (regBits f.ty.toNat), .w64, .typed, .typed, false,
      [defect (f.rnd != 0) 0x03, defect (f.ftz != 0) 0x03, defect (f.fam != 0) 0x03,
        defect (6 ≤ immScope f) 0x02, defect (immOp f != 0) 0x03]⟩, true, f)
  | .cacc f => some (⟨0x143, [3, 4, 5, 6], .zero, .w64, .typed, .unread, false,
      [defect (f.rnd != 0) 0x03, defect (f.ftz != 0) 0x03, defect (f.fam != 0) 0x03,
        defect (f.imm.extractLsb' 25 7 != 0) 0x03]⟩, true, f)
  | .xset f => some (⟨0x180, [2], .xreg, .unread, .w32, .unread, true,
      plainMd f⟩, false, f)
  | .xadd f => some (⟨0x181, [2], .xreg, .unread, .w32, .unread, true,
      plainMd f⟩, false, f)
  | .xget f => some (⟨0x182, [2], .reg 32, .xreg, .unread, .unread, false,
      plainMd f⟩, false, f)
  | _ => none

/-- A destination field that names s0 (R166). -/
def zeroDst (d : BitVec 6) : Option Nat := defect (d == 0) 0x05

/-- The field defects of a scalar instruction. -/
def scalarDefect : Instr → Option Nat
  | .sadd d _ _ => zeroDst d
  | .ssub d _ _ => zeroDst d
  | .smul d _ _ => zeroDst d
  | .smulh d _ _ => zeroDst d
  | .smulhn d _ _ => zeroDst d
  | .sand d _ _ => zeroDst d
  | .sor d _ _ => zeroDst d
  | .sxor d _ _ => zeroDst d
  | .sshl d _ _ => zeroDst d
  | .sshr d _ _ => zeroDst d
  | .ssra d _ _ => zeroDst d
  | .smin d _ _ => zeroDst d
  | .smax d _ _ => zeroDst d
  | .sminn d _ _ => zeroDst d
  | .smaxn d _ _ => zeroDst d
  | .sdiv d _ _ => zeroDst d
  | .sdivn d _ _ => zeroDst d
  | .srem d _ _ => zeroDst d
  | .sremn d _ _ => zeroDst d
  | .sclz d _ => zeroDst d
  | .spop d _ => zeroDst d
  | .saffx d _ _ => zeroDst d
  | .saffy d _ _ => zeroDst d
  | .saffz d _ _ => zeroDst d
  | .saddi d _ _ => zeroDst d
  | .sandi d _ _ => zeroDst d
  | .sori d _ _ => zeroDst d
  | .sxori d _ _ => zeroDst d
  | .sshli d _ _ => zeroDst d
  | .sshri d _ _ => zeroDst d
  | .ssrai d _ _ => zeroDst d
  | .smuli d _ _ => zeroDst d
  | .sli d _ => zeroDst d
  | .sliHi d _ => zeroDst d
  | .scmp d _ _ c => leastDefect [defect (d == 7) 0x02, defect (10 ≤ c.toNat) 0x02]
  | .scmpi _ d _ _ => defect (d == 7) 0x02
  | .ssel d _ _ _ => zeroDst d
  | .copAnd d _ _ => defect (d == 7) 0x02
  | .copOr d _ _ => defect (d == 7) 0x02
  | .copXor d _ _ => defect (d == 7) 0x02
  | .copAndn d _ _ => defect (d == 7) 0x02
  | .copNot d _ => defect (d == 7) 0x02
  | .copSet d => defect (d == 7) 0x02
  | .copClr d => defect (d == 7) 0x02
  | .copMov d _ => defect (d == 7) 0x02
  | .sform d _ f => leastDefect [zeroDst d, defect (5 ≤ f.toNat) 0x02]
  | .sld d _ z g _ _ => leastDefect [zeroDst d, defect (z == 3 && g == 1) 0x03]
  | .satom d _ _ _ s o => leastDefect [zeroDst d, defect (6 ≤ s.toNat) 0x02, defect (10 ≤ o.toNat) 0x02]
  | .cmo _ _ l _ => defect (5 ≤ l.toNat) 0x02
  | .kget d _ => zeroDst d
  | .kgetSet d _ => zeroDst d
  | .barArv d a b => leastDefect [zeroDst d, defect (a == 0 && b != 0) 0x03]
  | .barArw a b => defect (a == 0 && b != 0) 0x03
  | .barInit a _ => defect (a == 0) 0x02
  | .hbarArv d l => leastDefect [zeroDst d, defect (l == 0 || 5 ≤ l.toNat) 0x02]
  | .hbarWt _ l => defect (l == 0 || 5 ≤ l.toNat) 0x02
  | .hbarArw l => defect (l == 0 || 5 ≤ l.toNat) 0x02
  | .fence _ s => defect (6 ≤ s.toNat) 0x02
  | .lx w => defect (w.toNat % 3 != 0) 0x06
  | .qfence q => defect (q == 0) 0x02
  | .mma d a b f => leastDefect [
      defect (!d.getLsbD 5 && d.extractLsb' 3 2 != 0) 0x03, defect (d.getLsbD 5 && d.getLsbD 1) 0x03,
      defect (a == 0 || a == 63) 0x05, defect (b == 0 || b == 63) 0x05,
      defect (5 ≤ (f.extractLsb' 0 3).toNat) 0x02,
      defect (f.extractLsb' 0 3 == 4 && d.getLsbD 5) 0x04,
      defect (f.extractLsb' 0 3 == 4 && !d.getLsbD 5 && d.getLsbD 0) 0x05]
  | .mgath d a b f => leastDefect [
      defect (!d.getLsbD 5 && d.extractLsb' 3 2 != 0) 0x03, defect (d.getLsbD 5 && d.getLsbD 1) 0x03,
      defect (a == 0 || 62 ≤ a.toNat) 0x05, defect (b == 0 || b == 63) 0x05,
      defect (5 ≤ (f.extractLsb' 0 3).toNat) 0x02,
      defect (f.extractLsb' 0 3 == 4 && d.getLsbD 5) 0x04,
      defect (f.extractLsb' 0 3 == 4 && !d.getLsbD 5 && d.getLsbD 0) 0x05]
  | .mzero d f => defect (f == 1 && d.getLsbD 0) 0x05
  | .mdrain _ a f => leastDefect [
      defect (5 ≤ (f.extractLsb' 0 3).toNat) 0x02,
      defect (a == 0 || a == 63 || (f.getLsbD 3 && a == 62)) 0x05]
  | .mwait d _ => zeroDst d
  | .cpy n a _ f => leastDefect [
      defect (f.extractLsb' 0 2 == 3) 0x02, defect (f.getLsbD 3 && f.extractLsb' 0 2 == 0) 0x02,
      defect (!f.getLsbD 3 && n != 0) 0x03, defect (a == 0 || 61 ≤ a.toNat) 0x05]
  | .coll a s t o => leastDefect [
      defect (o == 3) 0x02, defect (5 ≤ t.toNat) 0x02, defect (s == 3) 0x02,
      defect (a == 0 || 62 ≤ a.toNat) 0x05]
  | .rnarLo d => zeroDst d
  | .rnarHi d => zeroDst d
  | .srd d r => leastDefect [zeroDst d, defect (29 ≤ r.toNat) 0x07]
  | .swr r _ => defect (29 ≤ r.toNat) 0x07
  | .dlaunch d _ _ => zeroDst d
  | _ => none

/-- The ILL sub-cause of an instruction's own fields (R187), or none when it has no defect. -/
def illSub (i : Instr) : Option Nat :=
  match laneShape i with
  | some (sh, mem, f) => laneDefect sh mem f
  | none => scalarDefect i

/-- An instruction whose operand fields have no defect. -/
abbrev WellFormed (i : Instr) : Prop := illSub i = none

end Sys2Proof
end

