-- ==== Sys2Proof/Machine/Ops.lean ====
section
/-!
DEFINITION. The named operations over the machine's threads: looking one up and putting it back, the geometry of a
launch (R18, R27), scalar and condition registers (R19, R21), time and the die counters (R49, R50), taking a fault or a
trap (R13, R351 to R358), starting a region abort (R139), and beginning to seat a span (R25).
-/
namespace Sys2Proof.Machine
open Sys2Proof

/-- The outcome of one instruction or step. -/
abbrev Out := Host.Outcome State Fault Refusal

/-! ### Time -/

/-- `rt` in ns (R7). -/
def rtNs (s : State) : Nat := s.time / Config.ticksPerNs


/-- The memory die with a number. -/
def mdieOf (s : State) (m : Nat) : MDie := tabGet MDie.atReset s.mdies m

/-- The link with a number. -/
def linkOf (s : State) (l : Nat) : Link := tabGet Link.atReset s.links l

/-- `cc` of a die at a time in ticks (R49, R50); a die in reset counts nothing. -/
def dieCc (d : Die) (now : Nat) : Nat :=
  let run := if d.resetting then d.ccStep else d.ccStep + (now - d.stepAt) / Config.cycleTicks d.cur
  match d.stopped with
  | some (at0, cc, _) => if now < at0 then run else cc
  | none => run

/-- `scc` of a die at a time in ticks (R50). -/
def dieScc (d : Die) (now : Nat) : Nat :=
  let run := d.sccStep + (dieCc d now - d.ccStep) * 1900 / Config.mhz d.cur
  match d.stopped with
  | some (at0, _, scc) => if now < at0 then run else scc + (now - at0) * 19 / (Config.ticksPerNs * 10)
  | none => run

/-- A running die's clock stops at a time in ticks to relock to a P-state (R50 step 1). -/
def stopClock (d : Die) (at0 : Nat) (ps : BitVec 2) : Die := { d with stopped := some (at0, dieCc d at0, dieScc d at0), next := ps }

/-- The length of every relock gap in ticks (R50). -/
def gapTicks : Nat := Config.relockNs * Config.ticksPerNs

/-- A die as it restarts when its relock gap has passed (R50 step 3, R396): it relocks again if its target has changed
meanwhile. -/
def restart (d : Die) : Die :=
  match d.stopped with
  | some (at0, cc, scc) =>
    let up := at0 + gapTicks
    let d1 : Die := { d with
      cur := d.next, ccStep := cc, sccStep := scc + Config.relockNs * 19 / 10, stepAt := up, stopped := none,
      relocks := d.relocks + 1 }
    if d1.target = d1.cur then d1 else stopClock d1 up d1.target
  | none => d

/-- A die as it is at a time, its gaps that have passed behind it: two at most, since the second ends at its target. -/
def dieAt : Nat → Die → Nat → Die
  | 0, d, _ => d
  | n + 1, d, now =>
    match d.stopped with
    | some (at0, _, _) => if at0 + gapTicks ≤ now then dieAt n (restart d) now else d
    | none => d

/-- The die with a number as last written, as at reset where nothing has changed it. -/
def dieRaw (s : State) (d : Nat) : Die := tabGet Die.atReset s.dies d

/-- The die with a number as it is now. -/
def dieOf (s : State) (d : Nat) : Die := dieAt 2 (dieRaw s d) s.time

/-- The time in ticks at which the present cycle of a die began (R334); with its clock stopped, now. -/
def cycleStart (d : Die) (now : Nat) : Nat :=
  let c := Config.cycleTicks d.cur
  match d.stopped with
  | some (at0, _, _) => if now < at0 then d.stepAt + (now - d.stepAt) / c * c else now
  | none => d.stepAt + (now - d.stepAt) / c * c

/-- `rt` as a core of a die reads it now (R334). -/
def rtOn (s : State) (die : Nat) : Nat := cycleStart (dieOf s die) s.time / Config.ticksPerNs

/-- `cc` of a core's die now: cycles are counted by it, so that a stopped clock and a change of P-state count as they should
(R49, R50). -/
def coreCc (s : State) (core : Nat) : Nat := dieCc (dieOf s (core / 128)) s.time

/-- Whether a die's clock is stopped (R50). -/
def dieStopped (d : Die) (now : Nat) : Bool :=
  match d.stopped with
  | some (at0, _, _) => decide (at0 ≤ now)
  | none => false

/-! ### Threads, launches and contexts -/

/-- Lists a thread under its number. -/
def putThr (s : State) (id : Nat) (t : Thread) : State := { s with threads := tabPut s.threads id t }

/-- Changes the thread listed under a number. -/
def modThr (s : State) (id : Nat) (f : Thread → Thread) : State := { s with threads := tabMod s.threads id f }

/-- Runs `k` on the acting thread; without one there is no instruction to issue. -/
def withThr (s : State) (k : Thread → Out) : Out :=
  match tabFind s.threads s.cur with
  | some t => k t
  | none => .refused .noThread

/-- A launch record with every field zero. -/
def LaunchRec.blank : LaunchRec :=
  { ent := 0, laneBase := 0, laneLen := 0, grid := false, chunked := false, anchorOn := false, hostFor := 0,
    ex := 1, ey := 1, ez := 1, wx := 1, wy := 1, wz := 1, team := 1, regs := 0, fall := 0, carve := 0, scratch := 0,
    acc := 0, shadow := 0, windows := [], anchor := 0, asx := 0, asy := 0, asz := 0, vd := 1, vq := 1, vc := 1,
    roles := 0, roleCnt := 0, cranges := 0, crCnt := 0, l1q := 0, qsq := 0, l2q := 0, pbase := 0, ps := 0, sbase := 0,
    cursor := 0, compl := 0, pdest := 0, plen := 0, param := [] }

/-- A launch that names nothing: what a lookup yields for a number no launch has. -/
def Launch.blank : Launch :=
  { ctx := 0, lrec := LaunchRec.blank, roleTab := [], ranges := [], dmap := [], off := [], retired := [], records := 0,
    firstFault := 0, hbars := [], status := 0, finished := false, reserved := false, slot := none, wct := 0, startAt := 0 }

/-- A fault control block at reset (R356; assumption 12). -/
def Fcb.blank : Fcb :=
  { err := 0, state := 0, hangLen := 0, msix := 0, hangBuf := 0, saveLen := 0, saveBase := 0, fqHead := 0, fqTail := 0,
    fqLog2 := 0, fqBase := 0 }

/-- A context descriptor at reset (R336; assumptions 11 and 12). -/
def Ctx.blank : Ctx :=
  { fcbOnly := false, ctxid := 0, root := 0, lease := 400, l1q := 0, qsq := 0, l2q := 0, qtable := 0, priv := false, fcb := Fcb.blank, recs := [],
    woken := [], served := [], desc := none, hang := 0, preAt := none, frozen := false, claims := [], saved := [], saveUsed := 0, saveShort := false, told := 0,
    latest := 0, rows := [] }

/-- A workgroup with nothing in it: what a lookup yields for a number no workgroup has. -/
def Wg.blank : Wg :=
  { launch := 0, tile := 0, core := 0, scratch := [], word := 0, arrived := [], barAcq := [], acc := [], shadow := [], retired := [], sramOut := false,
    engOut := false }

/-- The launch with a number. -/
def launchOf (s : State) (l : Nat) : Launch := (tabFind s.launches l).getD Launch.blank

/-- The context with an id. -/
def ctxOf (s : State) (c : Nat) : Ctx := (tabFind s.ctxs c).getD Ctx.blank

/-- The launch record a thread runs under. -/
def lrecOf (s : State) (t : Thread) : LaunchRec := (launchOf s t.launch).lrec

/-- Changes a launch. -/
def modLaunch (s : State) (l : Nat) (f : Launch → Launch) : State := { s with launches := tabMod s.launches l f }

/-- The list with an element, which it holds once. -/
def insertNat (l : List Nat) (x : Nat) : List Nat := if l.contains x then l else l ++ [x]

/-- Changes a context. -/
def modCtx (s : State) (c : Nat) (f : Ctx → Ctx) : State := { s with ctxs := tabMod s.ctxs c f }

/-- Changes a workgroup. -/
def modWg (s : State) (w : Nat) (f : Wg → Wg) : State := { s with wgs := tabMod s.wgs w f }

/-- Whether a function is handled host-assisted for a launch: FMODE, or the launch's FLAGS bit (R340, R354). -/
def hostAssisted (s : State) (l fmodeBit : Nat) (flag : Option Nat) : Bool :=
  s.hub.fmode.getLsbD fmodeBit ||
    match flag with
    | some b => (launchOf s l).lrec.hostFor.getLsbD b
    | none => false

/-! ### Geometry of a launch -/

/-- The number of tiles along an axis (R27). -/
def tilesAlong (e w : Nat) : Nat := (e + w - 1) / w

/-- Nx of R27. -/
def tilesX (r : LaunchRec) : Nat := tilesAlong r.ex r.wx

/-- Ny of R27. -/
def tilesY (r : LaunchRec) : Nat := tilesAlong r.ey r.wy

/-- The number of tiles of a launch. -/
def tileCount (r : LaunchRec) : Nat := tilesX r * tilesY r * tilesAlong r.ez r.wz

/-- The number of items of a launch (R18). -/
def itemCount (r : LaunchRec) : Nat := r.ex * r.ey * r.ez

/-- Strand positions of a workgroup (R29). -/
def strandPositions (r : LaunchRec) : Nat := (r.wx * r.wy * r.wz + 31) / 32

/-- The item at a position of a tile, x fastest (R27). -/
def posItem (r : LaunchRec) (tile pos : Nat) : Item :=
  { x := tile % tilesX r * r.wx + pos % r.wx
    y := tile / tilesX r % tilesY r * r.wy + pos / r.wx % r.wy
    z := tile / (tilesX r * tilesY r) * r.wz + pos / (r.wx * r.wy) }

/-- Whether an item lies in the launch range (R18). -/
def inRange (r : LaunchRec) (i : Item) : Bool := i.x < r.ex && i.y < r.ey && i.z < r.ez

/-- Whether an item lies in a box. -/
def inBox (b : Box) (i : Item) : Bool :=
  b.x0 ≤ i.x && i.x < b.x1 && b.y0 ≤ i.y && i.y < b.y1 && b.z0 ≤ i.z && i.z < b.z1

/-- The number of items in a box. -/
def boxVolume (b : Box) : Nat := (b.x1 - b.x0) * (b.y1 - b.y0) * (b.z1 - b.z0)

/-- The box of a whole launch (R17). -/
def wholeBox (r : LaunchRec) : Box := { x0 := 0, x1 := r.ex, y0 := 0, y1 := r.ey, z0 := 0, z1 := r.ez }

/-- The box of one item. -/
def itemBox (i : Item) : Box := { x0 := i.x, x1 := i.x + 1, y0 := i.y, y1 := i.y + 1, z0 := i.z, z1 := i.z + 1 }

/-- The linear index of an item (R18). -/
def ilin (r : LaunchRec) (i : Item) : Nat := i.x + r.ex * i.y + r.ex * r.ey * i.z

/-- The items of a box, x fastest. -/
def boxItems (b : Box) : List Item :=
  (List.range' b.z0 (b.z1 - b.z0)).flatMap fun z =>
    (List.range' b.y0 (b.y1 - b.y0)).flatMap fun y =>
      (List.range' b.x0 (b.x1 - b.x0)).map fun x => { x := x, y := y, z := z }

/-- The tiles that a box intersects, lowest first (R27). -/
def boxTiles (r : LaunchRec) (b : Box) : List Nat :=
  (List.range' (b.z0 / r.wz) ((b.z1 + r.wz - 1) / r.wz - b.z0 / r.wz)).flatMap fun tz =>
    (List.range' (b.y0 / r.wy) ((b.y1 + r.wy - 1) / r.wy - b.y0 / r.wy)).flatMap fun ty =>
      (List.range' (b.x0 / r.wx) ((b.x1 + r.wx - 1) / r.wx - b.x0 / r.wx)).map fun tx =>
        tx + tilesX r * ty + tilesX r * tilesY r * tz

/-- The tile a seat belongs to. -/
def tileOf (s : State) (st : Seat) : Nat := ((tabFind s.wgs st.wg).map (·.tile)).getD 0

/-- The item of a slot of a strand. -/
def slotItem (s : State) (t : Thread) (st : Seat) (L : Nat) : Item :=
  posItem (lrecOf s t) (tileOf s st) (32 * st.six + L)

/-- The slot numbers and items of a context: a strand's seated slots, or a span's items in order. -/
def threadItems (s : State) (t : Thread) : List (Nat × Item) :=
  match t.seat with
  | some st => (lanesOf st.seated).map fun L => (L, slotItem s t st L)
  | none => (List.range (boxVolume t.box)).zip (boxItems t.box)

/-- The slots or items a scalar instruction acts for: a strand's `am`, or every item of a span (R194). -/
def activeItems (s : State) (t : Thread) : List (Nat × Item) :=
  match t.seat with
  | some st => (lanesOf st.am).map fun L => (L, slotItem s t st L)
  | none => (List.range (boxVolume t.box)).zip (boxItems t.box)

/-- The number of unretired items a context holds (R37). -/
def threadCount (t : Thread) : Nat :=
  match t.seat with
  | some st => popMask st.seated
  | none => boxVolume t.box

/-- The physical die a context stands on: a strand's core's, or a span's home die mapped by the loader (R31). -/
def physDie (s : State) (t : Thread) : Nat :=
  match t.seat with
  | some st => st.core / 128
  | none => (launchOf s t.launch).dmap.getD t.home 0

/-- `rt` as a context reads it now (R7, R334). -/
def rtOf (s : State) (t : Thread) : Nat := rtOn s (physDie s t)

/-- Numbers in use in their order, and after them the other numbers below `n`, lowest first: every unit has a place. -/
def orderOf (used : List Nat) (n : Nat) : List Nat := used ++ (List.range n).filter fun x => !used.contains x

/-- The virtual number of a physical die in a launch, if it has one (R31). -/
def virtDie? (l : Launch) (d : Nat) : Option Nat :=
  ((List.range l.dmap.length).filter fun v => l.dmap.getD v 0 == d).head?

/-- The number of a physical die in a launch, where one that the launch is not mapped onto comes after its own, so that a set of
dies may name it (R73; assumption 20). -/
def anyDie (l : Launch) (d : Nat) : Nat := (orderOf l.dmap 8).idxOf d

/-- The virtual number of a physical die a launch is mapped onto (R31). -/
def virtDie (l : Launch) (d : Nat) : Nat := (virtDie? l d).getD 0

/-- The working cores of a quad, by their numbers in it, lowest first. -/
def quadCores (off : List Nat) (quad : Nat) : List Nat := (List.range 4).filter fun c => !off.contains (quad * 4 + c)

/-- The quads of a die that have so many working cores, lowest first. -/
def dieQuads (off : List Nat) (die cores : Nat) : List Nat :=
  (List.range 32).filter fun q => cores ≤ (quadCores off (die * 32 + q)).length

/-- The quad, numbered in the package, that a launch's virtual quad is mapped onto on a die: of the quads with enough working cores
the one in its place (R31, assumption 20). -/
def quadOn (l : Launch) (die q : Nat) : Nat := die * 32 + (orderOf (dieQuads l.off die l.lrec.vc) 32).getD q q

/-- The core, numbered in the package, that a launch's virtual core is mapped onto in a quad. -/
def coreIn (l : Launch) (quad c : Nat) : Nat := quad * 4 + (orderOf (quadCores l.off quad) 4).getD c c

/-- The virtual quad of a quad of the package in a launch (R31); one that no virtual quad can be mapped onto comes after the others. -/
def virtQuad (l : Launch) (quad : Nat) : Nat := (orderOf (dieQuads l.off (quad / 32) l.lrec.vc) 32).idxOf (quad % 32)

/-- The virtual number of a core within its quad in a launch (R31); one that does not work comes after the others. -/
def virtCore (l : Launch) (core : Nat) : Nat := (orderOf (quadCores l.off (core / 4)) 4).idxOf (core % 4)

/-! ### Register access -/

/-- The value of a scalar register; s0 reads U zero (R166). -/
def getS (t : Thread) (r : SReg) : SVal := if r = 0 then .u 0 else tabGet (.u 0) t.sregs r.toNat

/-- Whether a value is held as M. -/
def isM : SVal → Bool
  | .m _ => true
  | _ => false

/-- An affine value; with three zero strides it is held as U (R19). -/
def mkA (b : Word) (sx sy sz : W32) : SVal := if sx = 0 ∧ sy = 0 ∧ sz = 0 then .u b else .a b sx sy sz

/-- Writes a scalar register; a write to s0 has no effect (R166). -/
def setS (t : Thread) (r : SReg) (v : SVal) : Thread :=
  if r = 0 then t
  else { t with sregs := tabSet (.u 0) t.sregs r.toNat v, dirtyS := t.dirtyS ||| (1#64 <<< r.toNat) }

/-- The value of a condition register; c7 is U true (R21, R203). -/
def getC (t : Thread) (k : BitVec 3) : CVal := if k = 7 then .u true else tabGet (.u false) t.conds k.toNat

/-- Writes a condition register; c7 keeps its value (R21). -/
def setC (t : Thread) (k : BitVec 3) (v : CVal) : Thread :=
  if k = 7 then t else { t with conds := tabSet (.u false) t.conds k.toNat v }

/-- The value of an affine register at an item (R19). -/
def affAt (b : Word) (sx sy sz : W32) (i : Item) : Word :=
  b + (sx.signExtend 64) * BitVec.ofNat 64 i.x + (sy.signExtend 64) * BitVec.ofNat 64 i.y
    + (sz.signExtend 64) * BitVec.ofNat 64 i.z

/-- The value of a scalar register at a slot whose item is `i` (R19, R34). -/
def svalAt (v : SVal) (L : Nat) (i : Item) : Word :=
  match v with
  | .u w => w
  | .a b sx sy sz => affAt b sx sy sz i
  | .m vs => vs.getD L 0

/-- The coordinate of an item on an axis. -/
def coordOf (ax : Axis) (i : Item) : Nat :=
  match ax with
  | .x => i.x
  | .y => i.y
  | .z => i.z

/-- The value of a condition at a slot whose item is `i` (R21). -/
def cvalAt (v : CVal) (L : Nat) (i : Item) : Bool :=
  match v with
  | .u b => b
  | .t ax t below => if below then coordOf ax i < t else t ≤ coordOf ax i
  | .m mask => laneIn mask L

/-- Every slot's value of a register, materialised (R34). -/
def materialise (s : State) (t : Thread) (st : Seat) (v : SVal) : List Word :=
  (List.range 32).map fun L => svalAt v L (slotItem s t st L)

/-- Every slot's value of a condition, materialised (R203). -/
def materialiseC (s : State) (t : Thread) (st : Seat) (v : CVal) : W32 :=
  maskOf fun L => cvalAt v L (slotItem s t st L)

/-- The scalar PC of the first instruction a context has not issued (R181): beyond one that has issued and waits. -/
def nextPc (t : Thread) : Word :=
  match t.wait with
  | .none => t.pc
  | .seating _ _ => t.pc
  | .abort => t.pc
  | _ => t.pc + 4

/-- Moves the scalar PC past an instruction of `n` bytes. -/
def advance (t : Thread) (n : Nat) : Thread := { t with pc := t.pc + BitVec.ofNat 64 n }

/-! ### Region aborts -/

/-- The lines on whose slices a region has tags or tentative bytes: die and line. -/
def regionLines (s : State) (rg : Nat) : List (Nat × Nat) :=
  (s.reg.tags.filter fun l => (l.readers.any (·.rg == rg)) || (l.writer.any (·.rg == rg))).map fun l => (l.die, l.line)

/-- Codes of the abort causes (R125, R138). -/
def causeEmpty : Nat := 1
def causeCap : Nat := 2
def causeFault : Nat := 3
def causePreempt : Nat := 4
def causeEngine : Nat := 5
def causeUser : Nat := 6

/-- Registers of a destination, for the long-latency mark. -/
def dstRegs : Dest → List Nat
  | .vreg regs ty => regs.flatMap fun r => if regBits ty = 64 then [r.2, r.2 + 1] else [r.2]
  | _ => []

/-- Marks lane registers as written in the region (R139). -/
def markDirty (st : Seat) (rs : List Nat) : Seat := { st with dirtyV := rs.foldl (fun m r => m ||| (1#248 <<< r)) st.dirtyV }

/-- A strand whose access is discarded by an abort: the registers it was to write hold undefined values (R139), and the latch entry that
waited for it will never hold a value. -/
def loseDest (t : Thread) (o : Op) : Thread :=
  { t with
    dirtyS := match o.dst with
      | .sreg d _ _ _ => t.dirtyS ||| (1#64 <<< d.toNat)
      | _ => t.dirtyS
    seat := t.seat.map fun st =>
      let st1 := markDirty st (dstRegs o.dst)
      { st1 with latches := st1.latches.map fun l => if l.pend = some o.seq then { l with pend := none, broken := true } else l } }

/-- Whether a region's final position has been broadcast (R135 step 4). -/
def committing (s : State) (rg : Nat) : Bool :=
  (tabFind s.reg.regions rg).any fun r => match r.phase with
    | .committing _ => true
    | _ => false

/-- Broadcasts the abort of a region (R139 step 1): its accesses in flight and its messages are discarded, and its
strand waits for the acknowledgements. A region already aborting keeps its first cause; one whose final position has been broadcast
commits. -/
def startAbort (s : State) (rg cause fcause ucode : Nat) (pend : Option Stop) : State :=
  match tabFind s.reg.regions rg with
  | none => s
  | some r =>
    match r.phase with
    | .aborting _ _ _ _ => s
    | .committing _ => s
    | _ =>
      let mine := s.ops.filter fun p => p.2.region == rg
      let s1 : State := { s with
        reg := { s.reg with
          regions := tabPut s.reg.regions rg
            { r with phase := .aborting cause fcause ucode (regionLines s rg), pend := pend }
          msgs := s.reg.msgs.filter fun m => m.rg != rg }
        ops := s.ops.filter fun p => p.2.region != rg }
      modThr s1 r.thread fun t => { mine.foldl (fun acc p => loseDest acc p.2) t with wait := .abort }

/-- Whether a strand waits for the abort of a region that a fault of its scalar stream ended: the lane blocks queued before the
fault complete (R358). -/
def abortDrains (s : State) (t : Thread) : Bool :=
  (t.seat.bind fun st => (tabFind s.reg.regions st.region).bind (·.pend)).any fun p => p.lpc.isNone

/-- Whether a region is being aborted: its accesses are discarded (R139). -/
def aborting (s : State) (rg : Nat) : Bool :=
  (tabFind s.reg.regions rg).any fun r => match r.phase with
    | .aborting _ _ _ _ => true
    | _ => false

/-! ### Faults and traps -/

/-- Causes of R351 by code. -/
def cILL : Nat := 0x01
def cCONV : Nat := 0x02
def cTEAM : Nat := 0x03
def cIDX : Nat := 0x04
def cFALL : Nat := 0x05
def cTOK : Nat := 0x06
def cXLAT : Nat := 0x10
def cPROT : Nat := 0x11
def cALIGN : Nat := 0x12
def cLOCATE : Nat := 0x13
def cRSD : Nat := 0x14
def cPOISON : Nat := 0x15
def cWINDOW : Nat := 0x16
def cARITH : Nat := 0x20
def cSWTRAP : Nat := 0x21
def cHANG : Nat := 0x30
def cENGINE : Nat := 0x31
def cBARINV : Nat := 0x32

/-- Whether a record of a cause is replayable under the modes of FMODE and the launch (R351, R354). -/
def replayable (s : State) (l cause sub : Nat) : Bool :=
  if cause = cXLAT then sub == 1 && hostAssisted s l 0 (some 0)
  else if cause = cLOCATE then true
  else if cause = cPOISON then hostAssisted s l 6 (some 3)
  else false

/-- A stop of a thread with the given cause; the fields of its record that the cause does not set are zero. -/
def mkStop (s : State) (t : Thread) (kind : StopKind) (cause sub : Nat) (pc : Word) : Stop :=
  { kind := kind, cause := cause, sub := sub, host := true, replay := replayable s t.launch cause sub, write := false,
    region := false, va := 0, pc := pc, lpc := none, mask := (t.seat.map (·.am)).getD 0, rt := rtNs s, w6 := 0, w7 := 0, seq := 0 }

/-- Word 0 of a fault record (R353). -/
def recWord0 (ctxid : Word) (slot core quad die : Nat) (eng region host write replay : Bool) (sub cause : Nat) : Word :=
  BitVec.ofNat 64 (cause % 256 + sub % 256 * 2 ^ 8 + (if replay then 2 ^ 16 else 0) + (if write then 2 ^ 17 else 0)
    + (if host then 2 ^ 18 else 0) + (if region then 2 ^ 19 else 0) + (if eng then 2 ^ 20 else 0)
    + die % 256 * 2 ^ 24 + quad % 256 * 2 ^ 32 + core % 4 * 2 ^ 40 + slot % 64 * 2 ^ 42
    + ctxid.toNat % 65536 * 2 ^ 48)

/-- The bits [47:24] of a record's word 0 that name a strand (R353, R356). -/
def strandBits (s : State) (t : Thread) : Nat :=
  match t.seat with
  | some st =>
    let l := launchOf s t.launch
    virtDie l (st.core / 128) % 256 + virtQuad l (st.core / 4) * 2 ^ 8 + virtCore l st.core * 2 ^ 16 + st.slot % 64 * 2 ^ 18
  | none => 0

/-- Where a strand, workgroup or operation is that has been saved: at this and the core it came from, which is none (R363). -/
def savedCore : Nat := 1024

/-- The eight words of the record of a thread's stop (R353); ENG is set for the trap of R306. -/
def stopWords (s : State) (t : Thread) (p : Stop) : List Word :=
  let eng := p.kind == .trap && p.cause == cENGINE
  let w0 : Word :=
    match t.seat with
    | some st =>
      let l := launchOf s t.launch
      let core := st.core % savedCore
      recWord0 t.ctxid st.slot (virtCore l core) (virtQuad l (core / 4)) (virtDie l (core / 128)) eng p.region p.host p.write p.replay p.sub p.cause
    | none => recWord0 t.ctxid 0 0 0 0 eng p.region p.host p.write p.replay p.sub p.cause
  [w0, p.va, p.pc, (match p.lpc with | some l => BitVec.ofNat 64 l | none => BitVec.allOnes 64),
   p.mask.setWidth 64, BitVec.ofNat 64 p.rt, p.w6, p.w7]

/-- Queues a record of a context for its fault ring (R357) and counts it for the launch (R341). -/
def queueRec (s : State) (ctx launch : Nat) (r : Rec) : State :=
  modLaunch (modCtx s ctx fun c => { c with recs := c.recs ++ [r] }) launch fun l => { l with records := l.records + 1 }

/-- A thread after its oldest stop has been resolved: the next one, if any, stands (R357). -/
def clearStop (t : Thread) : Thread := { t with stop := t.more.head?, more := t.more.tail }

/-- Stops a thread on a fault or trap, behind those not yet resolved: the stop is recorded and its record queued (R353, R357). A wait that the scalar
stream has already issued stands. -/
def haltThr (s : State) (id : Nat) (p : Stop) : State :=
  match tabFind s.threads id with
  | none => s
  | some t =>
    let s1 := putThr s id (match t.stop with
      | none => { t with stop := some p }
      | some _ => { t with more := t.more ++ [p] })
    queueRec s1 t.ctx t.launch { words := stopWords s t p, thread := some id, eng := none }

/-- Takes a fault or trap of a thread: in a live region the region aborts first with FAULT (R128, R139), otherwise the
thread stops. A lane fault met while the region aborts ends its blocks with no record of its own (assumption 60). -/
def takeStop (s : State) (id : Nat) (p : Stop) : State :=
  match tabFind s.threads id with
  | none => s
  | some t =>
    match t.seat with
    | some st =>
      if st.region = 0 ∨ committing s st.region then haltThr s id p
      else if aborting s st.region then putThr s id { t with seat := some { st with blocks := [] } }
      else startAbort s st.region causeFault p.cause 0 (some { p with region := true, replay := p.replay })
    | none => haltThr s id p

/-- Begins to seat a span: every tile its box intersects waits for its core (R25, R27, R30). The instruction that
caused it issues again in each strand, or `pend` is taken in each (R186). -/
def seatSpan (s : State) (id : Nat) (t : Thread) (pend : Option Stop) : State :=
  putThr s id { t with wait := .seating ((boxTiles (lrecOf s t) t.box).map fun tile => (tile, rtNs s, 0)) pend }

/-- Runs `k` on the seat of a strand; a span seats first (R25). -/
def inStrand (s : State) (t : Thread) (k : Seat → Out) : Out :=
  match t.seat with
  | some st => k st
  | none => .next (seatSpan s s.cur t none)

/-- Takes a fault at the acting thread's scalar instruction; a span seats first, and the fault is taken in each strand
(R186, R353). `f` completes the stop's record. -/
def faultWith (s : State) (t : Thread) (cause sub : Nat) (f : Stop → Stop) : Out :=
  let p := f (mkStop s t .fault cause sub t.pc)
  match t.seat with
  | some _ => .next (takeStop s s.cur p)
  | none => .next (seatSpan s s.cur t (some p))

/-- Takes a fault whose record has no further fields (R351). -/
def fault (s : State) (t : Thread) (cause sub : Nat) : Out := faultWith s t cause sub id

/-- Takes a trap after an instruction of `n` bytes whose effects are in `t'` (R13): word 2 of the record is the next
instruction. -/
def trap (s : State) (t' : Thread) (cause sub : Nat) (w6 w7 : Word) : State :=
  takeStop (putThr s s.cur t') s.cur { mkStop s t' .trap cause sub t'.pc with w6 := w6, w7 := w7 }

/-- The acting thread's instruction has completed: `t'` is the thread after it. -/
def done (s : State) (t' : Thread) : Out := .next (putThr s s.cur t')

/-- The acting thread's instruction of one word has completed. -/
def done4 (s : State) (t' : Thread) : Out := done s (advance t' 4)

/-- Issues a scalar instruction of the acting thread: a defect of its fields raises ILL (R186, R187), otherwise `k`
gives its effect. -/
def scalar (i : Instr) (s : State) (k : Thread → Out) : Out :=
  withThr s fun t =>
    match illSub i with
    | some sub => fault s t cILL sub
    | none => k t

/-- Whether a strand's region is live (R128). -/
def inRegion (t : Thread) : Bool :=
  match t.seat with
  | some st => st.region != 0
  | none => false

/-- Issues an instruction that may not stand in a region: inside one it ends the region with FAULT and CONV sub-cause
0x06 (R128). -/
def scalarOutside (i : Instr) (s : State) (k : Thread → Out) : Out :=
  scalar i s fun t => if inRegion t then fault s t cCONV 0x06 else k t

/-- The value of a U register; any other form raises CONV with sub-cause 0x04 (R352). -/
def needU (s : State) (t : Thread) (v : SVal) (k : Word → Out) : Out :=
  match v with
  | .u w => k w
  | _ => fault s t cCONV 0x04

/-- The number of M registers other than `d` (R33). -/
def fallRowsUsed (t : Thread) (d : SReg) : Nat :=
  (t.sregs.filter fun p => p.1 != d.toNat && isM p.2).length

/-- Writes an M result: in a span the span seats first; the slots of lanes in `am` take `f`, the others keep what they
held, materialised; without a free fall row the instruction faults with FALL (R33, R34). `n` is the instruction's
length. -/
def writeM (s : State) (t : Thread) (d : SReg) (n : Nat) (f : Nat → Item → Word) : Out :=
  inStrand s t fun st =>
    if !isM (getS t d) && (lrecOf s t).fall ≤ fallRowsUsed t d then fault s t cFALL 0
    else
      let old := materialise s t st (getS t d)
      let vals := (List.range 32).map fun L =>
        if laneIn st.am L then f L (slotItem s t st L) else old.getD L 0
      done s (advance (setS t d (.m vals)) n)

/-- Writes an M condition: the bits of lanes in `am` take `f`, the others keep what they held (R203). -/
def writeMC (s : State) (t : Thread) (d : BitVec 3) (f : Nat → Item → Bool) : Out :=
  inStrand s t fun st =>
    let old := materialiseC s t st (getC t d)
    let mask := maskOf fun L => if laneIn st.am L then f L (slotItem s t st L) else laneIn old L
    done4 s (setC t d (.m mask))

end Sys2Proof.Machine
end

