-- ==== Sys2Proof/Machine/Operands.lean ====
section
/-!
DEFINITION. Operand forms. Scalar operands: the form of a result (R20, R22). Lane operands: register codes, index
registers, latches, scalars and immediates (R171 to R178), the executing lanes (R173), and what a lane instruction
does with its results (R224, R226, R227).
-/
namespace Sys2Proof.Machine
open Sys2Proof

/-! ### Scalar forms (R20) -/

/-- Whether a stride fits 32 signed bits. -/
def fits32 (x : Int) : Bool := -(2 ^ 31 : Int) ≤ x && x < (2 ^ 31 : Int)

/-- An affine result with exact strides; a stride that does not fit produces M, here none (R20). -/
def affine (b : Word) (x y z : Int) : Option SVal :=
  if fits32 x && fits32 y && fits32 z then some (mkA b (BitVec.ofInt 32 x) (BitVec.ofInt 32 y) (BitVec.ofInt 32 z))
  else none

/-- A + U, U + A, A + A and U + U; none is M (R20). -/
def formAdd (p q : SVal) : Option SVal :=
  match p, q with
  | .u v, .u w => some (.u (v + w))
  | .u v, .a b x y z => some (mkA (v + b) x y z)
  | .a b x y z, .u v => some (mkA (b + v) x y z)
  | .a b x y z, .a c x' y' z' => affine (b + c) (x.toInt + x'.toInt) (y.toInt + y'.toInt) (z.toInt + z'.toInt)
  | _, _ => none

/-- The same for subtraction (R20). -/
def formSub (p q : SVal) : Option SVal :=
  match p, q with
  | .u v, .u w => some (.u (v - w))
  | .u v, .a b x y z => affine (v - b) (-x.toInt) (-y.toInt) (-z.toInt)
  | .a b x y z, .u v => some (mkA (b - v) x y z)
  | .a b x y z, .a c x' y' z' => affine (b - c) (x.toInt - x'.toInt) (y.toInt - y'.toInt) (z.toInt - z'.toInt)
  | _, _ => none

/-- A × U and U × U (R20); the U factor of a stride is read signed (assumption 18). -/
def formMul (p q : SVal) : Option SVal :=
  match p, q with
  | .u v, .u w => some (.u (v * w))
  | .u v, .a b x y z => affine (b * v) (x.toInt * v.toInt) (y.toInt * v.toInt) (z.toInt * v.toInt)
  | .a b x y z, .u v => affine (b * v) (x.toInt * v.toInt) (y.toInt * v.toInt) (z.toInt * v.toInt)
  | _, _ => none

/-- A << U and U << U (R20). A U value shifted by an A amount has no row in the table of R20: that it gives M is the model's choice
(assumption 18). -/
def formShl (p q : SVal) : Option SVal :=
  match p, q with
  | .u v, .u w => some (.u (v <<< (w.toNat % 64)))
  | .a b x y z, .u w =>
    let k : Int := (2 ^ (w.toNat % 64) : Nat)
    affine (b <<< (w.toNat % 64)) (x.toInt * k) (y.toInt * k) (z.toInt * k)
  | _, _ => none

/-- `saffx`, `saffy`, `saffz`: sB in U form is added to the stride of the named axis (R20). That its 64 bits are read as a signed
number there is the model's choice (assumption 18). -/
def formAff (ax : Axis) (p q : SVal) : Option SVal :=
  match p, q with
  | .u v, .u w =>
    match ax with
    | .x => affine v w.toInt 0 0
    | .y => affine v 0 w.toInt 0
    | .z => affine v 0 0 w.toInt
  | .a b x y z, .u w =>
    match ax with
    | .x => affine b (x.toInt + w.toInt) y.toInt z.toInt
    | .y => affine b x.toInt (y.toInt + w.toInt) z.toInt
    | .z => affine b x.toInt y.toInt (z.toInt + w.toInt)
  | _, _ => none

/-- Operations that give U from U operands only, and M with any A operand (R20). -/
def formU (f : Word → Word → Word) (p q : SVal) : Option SVal :=
  match p, q with
  | .u v, .u w => some (.u (f v w))
  | _, _ => none

/-- Writes the result of a scalar operation of `n` bytes: the form given, or M with `f` per item (R20, R34, R194). -/
def writeForm (s : State) (t : Thread) (d : SReg) (n : Nat) (form : Option SVal) (f : Nat → Item → Word) : Out :=
  match form with
  | some v => done s (advance (setS t d v) n)
  | none => writeM s t d n f

/-- A scalar operation on two operand values: its form, or M per item. -/
def scalarOp (s : State) (t : Thread) (d : SReg) (n : Nat) (form : SVal → SVal → Option SVal) (p q : SVal)
    (f : Word → Word → Item → Word) : Out :=
  writeForm s t d n (form p q) fun L i => f (svalAt p L i) (svalAt q L i) i

/-! ### Comparison forms (R22) -/

/-- The ten comparisons of R199 by FN. -/
def cmpWords (cc : Nat) (a b : Word) : Bool :=
  if cc = 0 then a == b
  else if cc = 1 then a != b
  else if cc = 2 then a.toInt < b.toInt
  else if cc = 3 then a.toInt ≤ b.toInt
  else if cc = 4 then b.toInt < a.toInt
  else if cc = 5 then b.toInt ≤ a.toInt
  else if cc = 6 then a.toNat < b.toNat
  else if cc = 7 then a.toNat ≤ b.toNat
  else if cc = 8 then b.toNat < a.toNat
  else b.toNat ≤ a.toNat

/-- A comparison of exact integers by the code of `cmpWords`. -/
def cmpInts (cc : Nat) (d : Int) : Bool :=
  if cc = 2 ∨ cc = 6 then d < 0
  else if cc = 3 ∨ cc = 7 then d ≤ 0
  else if cc = 4 ∨ cc = 8 then 0 < d
  else 0 ≤ d

/-- A word read signed or unsigned. -/
def readAs (signed : Bool) (v : Word) : Int := if signed then v.toInt else v.toNat

/-- Base and strides of a U or A value. -/
def affParts : SVal → Option (Word × Int × Int × Int)
  | .u v => some (v, 0, 0, 0)
  | .a b x y z => some (b, x.toInt, y.toInt, z.toInt)
  | .m _ => none

/-- The extent of a launch along an axis. -/
def extOf (r : LaunchRec) (ax : Axis) : Nat :=
  match ax with
  | .x => r.ex
  | .y => r.ey
  | .z => r.ez

/-- Whether an affine value stays in the 64-bit range of its signedness over the whole index space (R22). -/
def staysInRange (r : LaunchRec) (signed : Bool) (b : Word) (x y z : Int) : Bool :=
  let lo (st : Int) (e : Nat) : Int := min 0 (st * ((e : Int) - 1))
  let hi (st : Int) (e : Nat) : Int := max 0 (st * ((e : Int) - 1))
  let base := readAs signed b
  let low := base + lo x r.ex + lo y r.ey + lo z r.ez
  let high := base + hi x r.ex + hi y r.ey + hi z r.ez
  if signed then -(2 ^ 63 : Int) ≤ low && high < (2 ^ 63 : Int) else 0 ≤ low && high < (2 ^ 64 : Int)

/-- The first coordinate from 1 at which a comparison of `d0 + s·x` differs from its value at 0, given that it differs at
`e − 1` (R22): for a difference moving away from zero, a quotient. -/
def firstChange (cc : Nat) (d0 st : Int) : Nat :=
  -- the comparison changes value once along the axis: at the least x with d0 + st·x on the other side
  let up := decide (0 < st)
  -- a strict comparison with zero from below, or a non-strict one, shifts the side zero belongs to
  let zeroHigh := cc == 2 || cc == 6 || cc == 5 || cc == 9
  if up then
    -- from low to high: least x with d0 + st·x ≥ 0 (zero counts high) or > 0
    let need : Int := if zeroHigh then -d0 else -d0 + 1
    ((need + st - 1) / st).toNat
  else
    let need : Int := if zeroHigh then d0 + 1 else d0
    ((need + (-st) - 1) / (-st)).toNat

/-- The form of a comparison's result: U, a threshold, or M as none (R22). -/
def formCmp (r : LaunchRec) (cc : Nat) (p q : SVal) : Option CVal :=
  match p, q with
  | .u v, .u w => some (.u (cmpWords cc v w))
  | _, _ =>
    match affParts p, affParts q, formSub p q with
    | some (bp, px, py, pz), some (bq, qx, qy, qz), some (.a _ dx dy dz) =>
      let signed := decide (cc ≤ 5)
      if cc < 2 then none
      else if !(staysInRange r signed bp px py pz && staysInRange r signed bq qx qy qz) then none
      else
        let axis : Option (Axis × Int) :=
          if dy = 0 ∧ dz = 0 then some (.x, dx.toInt)
          else if dx = 0 ∧ dz = 0 then some (.y, dy.toInt)
          else if dx = 0 ∧ dy = 0 then some (.z, dz.toInt)
          else none
        match axis with
        | none => none
        | some (ax, st) =>
          let d0 := readAs signed bp - readAs signed bq
          let v0 := cmpInts cc d0
          if cmpInts cc (d0 + st * ((extOf r ax : Int) - 1)) = v0 then some (.u v0)
          else some (.t ax (firstChange cc d0 st) v0)
    | _, _, _ => none

/-- Whether a threshold's boundary falls inside the index space; one outside is uniform over it (R22). -/
def innerThreshold (r : LaunchRec) : CVal → Option (Axis × Nat)
  | .t ax b _ => if 0 < b ∧ b < extOf r ax then some (ax, b) else none
  | _ => none

/-- The item at coordinate `x` of an axis and 0 on the others. -/
def axisItem (ax : Axis) (x : Nat) : Item :=
  match ax with
  | .x => { x := x, y := 0, z := 0 }
  | .y => { x := 0, y := x, z := 0 }
  | .z => { x := 0, y := 0, z := x }

/-- The form of `cop` on two operands: U or a threshold when the result over the index space is one, else M as none
(R22, R202). A function of one operand takes it twice. -/
def formCop (r : LaunchRec) (f : Bool → Bool → Bool) (p q : CVal) : Option CVal :=
  match p, q with
  | .m _, _ => none
  | _, .m _ => none
  | _, _ =>
    let at0 (ax : Axis) (x : Nat) : Bool := f (cvalAt p 0 (axisItem ax x)) (cvalAt q 0 (axisItem ax x))
    let along (ax : Axis) (pts : List Nat) : Option CVal :=
      let vals := pts.map (at0 ax)
      let v0 := at0 ax 0
      match (pts.zip vals).filter (fun x => x.2 != v0), pts with
      | [], _ => some (.u v0)
      | (b, _) :: _, _ =>
        if (pts.zip vals).all (fun x => (x.2 == v0) == decide (x.1 < b)) then some (.t ax b v0) else none
    match innerThreshold r p, innerThreshold r q with
    | none, none => some (.u (at0 .x 0))
    | some (ax, b), none => along ax [b]
    | none, some (ax, b) => along ax [b]
    | some (ax, b), some (ax', b') =>
      if ax = ax' then along ax (if b < b' then [b, b'] else if b' < b then [b', b] else [b]) else none

/-! ### Lane operands -/

/-- What a lane instruction acts in: the strand, its oldest block, the fields and the executing lanes. -/
structure LaneEnv where
  s  : State
  t  : Thread
  st : Seat
  b  : Block
  f  : LaneFields
  ex : W32
  /-- The instruction is a long-latency consumer (R316). -/
  cons : Bool

/-- The mask of a predicate; p7 is true in every lane (R167). -/
def predOf (st : Seat) (k : Nat) : W32 := if k = 7 then BitVec.allOnes 32 else tabGet 0 st.preds k

/-- The executing lanes: in `am`, with the guard true (R173). -/
def execMask (st : Seat) (b : Block) (f : LaneFields) : W32 :=
  let g := predOf st f.gp.toNat
  b.am &&& (if bit f.gn then ~~~g else g)

/-- The index register xN of a lane (R174). -/
def xOf (st : Seat) (n L : Nat) : W32 := tabGet 0 st.xregs (n * 32 + L)

/-- The window declared for xN: first and count, count 0 for none (R174). -/
def windowOf (s : State) (t : Thread) (n : Nat) : Nat × Nat := (lrecOf s t).windows.getD n (0, 0)

/-- The register a code names in a lane: direct, or through an index register (R171, R174). -/
def regOf (s : State) (t : Thread) (st : Seat) (code L : Nat) : Nat :=
  if code < 248 then code else (windowOf s t (code - 248)).1 + (xOf st (code - 248) L).toNat

/-- A lane register in one lane; where it has not been written it is 0 in a row that came to a new context (R394), and otherwise,
without a stated value, a free value (R178, R320; assumption 2). -/
def readV (s : State) (st : Seat) (r L : Nat) : W32 :=
  match tabFind st.vregs (r * 32 + L) with
  | some v => v
  | none => if st.zeroV.getLsbD r then 0 else (Config.freeBits s.freeCtr (r * 32 + L)).setWidth 32

/-- A register or pair of `w` bits in one lane (R142). -/
def readReg (s : State) (st : Seat) (r w L : Nat) : Nat :=
  if w = 64 then (readV s st r L).toNat + (readV s st (r + 1) L).toNat * 2 ^ 32 else (readV s st r L).toNat

/-- The latch at a distance, when the read lies in the latch window (R316). -/
def latchInWindow (e : LaneEnv) (d : Nat) : Option Latch :=
  match e.st.latches[d]? with
  | some l =>
    if l.block = e.b.seq ∧ l.pos / 16 = e.b.pos / 16 ∧ l.broken = false ∧ e.cons = false ∧ e.ex &&& ~~~l.mask = 0
    then some l else none
  | none => none

/-- A latch read in one lane: outside the window a free value (R177, R318; assumption 2). -/
def readLatch (e : LaneEnv) (d w L : Nat) : Nat :=
  let v : Word := match latchInWindow e d with
    | some l => tabGet 0 l.vals L
    | none => Config.freeBits e.s.freeCtr (20000 + d * 32 + L)
  if w = 64 then v.toNat else v.toNat % 2 ^ 32

/-- A source field read as `w` bits in one lane (R171, R174, R175, R177). -/
def readSrc (e : LaneEnv) (fld : BitVec 10) (w L : Nat) : Nat :=
  let code := srcCode fld
  if srcKL fld then readLatch e (code % 4) w L
  else if code < 252 then readReg e.s e.st (regOf e.s e.t e.st code L) w L
  else if code = 252 then 0
  else if code = 253 then L
  else if code = 254 then ilin (lrecOf e.s e.t) (slotItem e.s e.t e.st L) % 2 ^ 32
  else
    let v := svalAt (if e.f.imm.extractLsb' 0 6 = 0 then .u 0
      else tabGet (.u 0) e.b.sregs (e.f.imm.extractLsb' 0 6).toNat) L (slotItem e.s e.t e.st L)
    if w = 64 then v.toNat else v.toNat % 2 ^ 32

/-- IMM as the operand in place of SB, by type (R176). -/
def immVal (ty : Nat) (imm : W32) : Nat :=
  if ty = 4 then (imm.signExtend 64).toNat
  else if ty = 6 then widen32 imm.toNat
  else if tyBits ty = 16 then imm.toNat % 2 ^ 16
  else if tyBits ty = 8 then imm.toNat % 2 ^ 8
  else imm.toNat

/-- Source A as `w` bits. -/
def srcA (e : LaneEnv) (w L : Nat) : Nat := readSrc e e.f.sa w L

/-- Source B, or IMM in its place, in a position of the type's width. -/
def srcB (e : LaneEnv) (w L : Nat) : Nat := if bit e.f.i then immVal e.f.ty.toNat e.f.imm else readSrc e e.f.sb w L

/-- Source B in a position that is always 32 bits wide (R225). -/
def srcB32 (e : LaneEnv) (L : Nat) : Nat := if bit e.f.i then e.f.imm.toNat else readSrc e e.f.sb 32 L

/-- Source C as `w` bits. -/
def srcC (e : LaneEnv) (w L : Nat) : Nat := readSrc e e.f.sc w L

/-- A predicate operand in one lane (R226). -/
def predSrc (e : LaneEnv) (fld : BitVec 10) (L : Nat) : Bool :=
  laneIn (predOf e.st (srcCode fld % 8)) L != fld.getLsbD 3

/-- The registers a source field reads directly, for the live map and the long-latency test: register and width. -/
def srcRegs (k : SrcKind) (fld : BitVec 10) (ty : Nat) : List Nat :=
  let w := match k with
    | .typed => regBits ty
    | .w32 => 32
    | .w64 => 64
    | _ => 0
  if w = 0 ∨ srcKL fld ∨ 248 ≤ srcCode fld then []
  else if w = 64 then [srcCode fld, srcCode fld + 1] else [srcCode fld]

/-- The source fields an instruction reads: kind and field (R15). -/
def readFields (sh : LaneShape) (f : LaneFields) : List (SrcKind × BitVec 10) :=
  [(sh.a, f.sa), (if bit f.i then .unread else sh.b, f.sb), (sh.c, f.sc)]

/-- The index registers the read sources go through: N and the width of the position. -/
def indexReads (sh : LaneShape) (f : LaneFields) : List (Nat × Nat) :=
  (readFields sh f).filterMap fun p =>
    if isRegSrc p.1 ∧ srcKL p.2 = false ∧ 248 ≤ srcCode p.2 ∧ srcCode p.2 < 252 then
      some (srcCode p.2 - 248, match p.1 with
        | .typed => regBits f.ty.toNat
        | .w64 => 64
        | _ => 32)
    else none

/-- The index registers a read source or the destination goes through: N and the width of the position. -/
def indexUses (sh : LaneShape) (f : LaneFields) : List (Nat × Nat) :=
  let dst := match sh.dst with
    | .reg w => if 248 ≤ f.dst.toNat ∧ f.dst.toNat < 252 then [(f.dst.toNat - 248, w)] else []
    | .loadReg w => if 248 ≤ f.dst.toNat ∧ f.dst.toNat < 252 then [(f.dst.toNat - 248, w)] else []
    | _ => []
  indexReads sh f ++ dst

/-- The registers that uses of index registers name in the executing lanes, the odd halves of pairs among them. -/
def indexedRegs (s : State) (t : Thread) (st : Seat) (ex : W32) (us : List (Nat × Nat)) : List Nat :=
  us.flatMap fun u => (lanesOf ex).flatMap fun L =>
    let r := (windowOf s t u.1).1 + (xOf st u.1 L).toNat
    if u.2 = 64 then [r, r + 1] else [r]

/-- The registers an instruction reads in its executing lanes, directly and through index registers (R316). -/
def regReads (s : State) (t : Thread) (st : Seat) (ex : W32) (sh : LaneShape) (f : LaneFields) : List Nat :=
  ((readFields sh f).flatMap fun p => srcRegs p.1 p.2 f.ty.toNat) ++ indexedRegs s t st ex (indexReads sh f)

/-- Whether a lane's index lies outside its window, or starts a pair at an odd register (R174). -/
def indexBad (s : State) (t : Thread) (st : Seat) (n w L : Nat) : Bool :=
  let win := windowOf s t n
  win.2 ≤ (xOf st n L).toNat || (w == 64 && (win.1 + (xOf st n L).toNat) % 2 == 1)

/-- Whether a pair that a lane names through an index register, within its window and from an even register, has its odd half
at or beyond `.regs` (R172, R174). -/
def pairBeyond (s : State) (t : Thread) (st : Seat) (ex : W32) (sh : LaneShape) (f : LaneFields) : Bool :=
  (indexUses sh f).any fun u => u.2 == 64 && (lanesOf ex).any fun L =>
    !(indexBad s t st u.1 u.2 L) && (lrecOf s t).regs ≤ (windowOf s t u.1).1 + (xOf st u.1 L).toNat + 1

/-- Whether a direct register of a read source or the destination lies at or beyond `.regs` (R172). -/
def beyondRegs (regs : Nat) (sh : LaneShape) (f : LaneFields) : Bool :=
  let src := (readFields sh f).any fun p => (srcRegs p.1 p.2 f.ty.toNat).any (regs ≤ ·)
  let dst (w : Nat) : Bool := f.dst.toNat < 248 && regs ≤ f.dst.toNat + (if w = 64 then 1 else 0)
  src || match sh.dst with
    | .reg w => dst w
    | .loadReg w => dst w
    | _ => false

/-- The lane PC of the next instruction of a block (R179). -/
def blockPc (b : Block) : Nat := b.lpc + 3 * b.pos

/-- Takes a fault at a lane instruction, precisely at its lane PC (R181). -/
def laneStop (s : State) (t : Thread) (b : Block) (cause sub : Nat) (mask : W32) (f : Stop → Stop) : Out :=
  .next (takeStop s s.cur (f { mkStop s t .fault cause sub (nextPc t) with lpc := some (blockPc b), mask := mask }))

/-- The defects of a lane instruction: its fields', `.regs` (R172), and the 1,024th without T (R179). -/
def laneIll (i : Instr) (s : State) (t : Thread) (b : Block) (sh : LaneShape) (f : LaneFields) : Option Nat :=
  leastDefect [illSub i, defect (beyondRegs (lrecOf s t).regs sh f) 0x05,
    defect (b.pos == 1023 && !bit f.t) 0x06]

/-- What a lane instruction of a strand's block acts in. -/
def laneEnv (s : State) (t : Thread) (st : Seat) (b : Block) (sh : LaneShape) (f : LaneFields) : LaneEnv :=
  let ex := execMask st b f
  { s := s, t := t, st := st, b := b, f := f, ex := ex,
    cons := (regReads s t st ex sh f).any fun r => st.longRegs.getLsbD r }

/-- Issues a lane instruction of the acting strand: ILL and IDX are checked, then `k` gives its effect. -/
def laneInstr (i : Instr) (s : State) (k : LaneEnv → Out) : Out :=
  match tabFind s.threads s.cur, laneShape i with
  | some t, some (sh, _, f) =>
    match t.seat with
    | some st =>
      match st.blocks with
      | b :: _ =>
        match laneIll i s t b sh f with
        | some sub => laneStop s t b cILL sub b.am id
        | none =>
          let ex := execMask st b f
          if pairBeyond s t st ex sh f then laneStop s t b cILL 0x05 b.am id
          else
            let bad := maskOf fun L => laneIn ex L && (indexUses sh f).any fun u => indexBad s t st u.1 u.2 L
            let L0 := (lanesOf bad).headD 0
            match (indexUses sh f).find? fun u => laneIn bad L0 && indexBad s t st u.1 u.2 L0 with
            | some u => laneStop s t b cIDX u.1 bad fun p =>
                { p with w6 := (xOf st u.1 L0).setWidth 64, w7 := BitVec.ofNat 64 (windowOf s t u.1).2 }
            | none => k (laneEnv s t st b sh f)
      | [] => .refused .noThread
    | none => .refused .noThread
  | _, _ => .refused .noThread

/-! ### Results -/

/-- Frees registers: their values are no longer stated (R178, R320). -/
def freeRegs (st : Seat) (rs : List Nat) : Seat :=
  { st with
    vregs := st.vregs.filter fun p => !rs.contains (p.1 / 32)
    zeroV := rs.foldl (fun m r => m &&& ~~~(1#248 <<< r)) st.zeroV
    live := rs.foldl (fun m r => m &&& ~~~(1#248 <<< r)) st.live }

/-- Writes a register of 32 bits in one lane, and marks it live (R38). -/
def writeV (st : Seat) (r L : Nat) (v : W32) : Seat :=
  { st with
    vregs := tabPut st.vregs (r * 32 + L) v
    live := st.live ||| (1#248 <<< r)
    dirtyV := st.dirtyV ||| (1#248 <<< r) }

/-- Writes a register or pair in one lane. -/
def writeReg (st : Seat) (r w L v : Nat) : Seat :=
  let st1 := writeV st r L (BitVec.ofNat 32 v)
  if w = 64 then writeV st1 (r + 1) L (BitVec.ofNat 32 (v / 2 ^ 32)) else st1

/-- The registers that carry a last-use bit on a read source (R178). -/
def lastUses (sh : LaneShape) (f : LaneFields) : List Nat :=
  (readFields sh f).flatMap fun p => if srcLU p.2 then srcRegs p.1 p.2 f.ty.toNat else []

/-- Registers read, whatever the form, lose their long-latency mark (R316). -/
def readClears (i : Instr) (e : LaneEnv) : List Nat :=
  match laneShape i with
  | some (sh, _, f) => regReads e.s e.t e.st e.ex sh f
  | none => []

/-- A block as it was queued. -/
def Block.fresh (b : Block) : Block := { b with pos := 0 }

/-- A seat whose oldest block has ended: it is kept while an access of the lane stream may still fault (R181). -/
def blockEnds (st : Seat) : Seat :=
  { st with
    blocks := st.blocks.tail
    past := (if st.undos.isEmpty then [] else st.past ++ (st.blocks.take 1).map Block.fresh) }

/-- The seat after an instruction's reads: last uses free their registers, a long-latency consumer breaks the latches
before it, and the block moves to its next instruction or finishes at the tail (R178, R179, R316). -/
def afterReads (i : Instr) (e : LaneEnv) : Seat :=
  let lu := match laneShape i with
    | some (sh, _, f) => lastUses sh f
    | none => []
  let st1 := freeRegs e.st lu
  let st2 : Seat := { st1 with
    longRegs := (readClears i e).foldl (fun m r => m &&& ~~~(1#248 <<< r)) st1.longRegs
    latches := if e.cons then st1.latches.map fun l => { l with broken := true } else st1.latches }
  let on : List Block := match st2.blocks with
    | b :: rest => { b with pos := b.pos + 1 } :: rest
    | [] => []
  if bit e.f.t then blockEnds st2 else { st2 with blocks := on }

/-! ### Going back behind a fault (R181) -/

/-- What a strand goes back to behind an access, as it stands after its instruction. -/
def undoOf (st : Seat) (seq : Nat) (aflags : BitVec 6) : Undo :=
  { seq := seq, vregs := st.vregs, zeroV := st.zeroV, live := st.live, longRegs := st.longRegs, preds := st.preds,
    xregs := st.xregs, latches := st.latches, blocks := st.blocks, aflags := aflags }

/-- A thread put back to where it stood behind an access of a block: what its lane stream did after that has no effect; the blocks
queued after the access's own issue again from their captures (R181). -/
def undoTo (t : Thread) (st : Seat) (block : Nat) (u : Undo) : Thread :=
  let last := (u.blocks.map (·.seq)).foldl max block
  let later := (st.past ++ st.blocks.map Block.fresh).filter fun b => last < b.seq
  { t with
    aflags := u.aflags
    seat := some { st with
      vregs := u.vregs, zeroV := u.zeroV, live := u.live, longRegs := u.longRegs, preds := u.preds, xregs := u.xregs,
      latches := u.latches, blocks := u.blocks ++ later, undos := st.undos.filter (·.seq ≤ u.seq), past := [] } }

/-- A seat without what it could go back to behind an access that has returned. -/
def dropUndo (st : Seat) (seq : Nat) : Seat :=
  let us := st.undos.filter (·.seq != seq)
  { st with undos := us, past := (if us.isEmpty then [] else st.past) }

/-- Pushes a result into l0 (R177). -/
def pushLatch (st : Seat) (e : LaneEnv) (vals : Tab Word) : Seat :=
  { st with latches := ({ vals := vals, mask := e.ex, block := e.b.seq, pos := e.b.pos, broken := false, pend := none } : Latch) ::
      st.latches.take 3 }

/-- The state after a lane instruction of the acting strand that leaves the seat and sets the flags given (R224). -/
def afterLane (e : LaneEnv) (st : Seat) (fl : AFlags) : State :=
  putThr e.s e.s.cur { e.t with seat := some st, aflags := e.t.aflags ||| fl }

/-- The state after a lane-register result of `w` bits: written to DST in the executing lanes, and pushed into l0 (R177,
R224). -/
def afterResult (i : Instr) (e : LaneEnv) (w : Nat) (r : Nat → Nat) (fl : AFlags) : State :=
  let st0 := afterReads i e
  let st1 := if e.f.dst = 255 then st0
    else (lanesOf e.ex).foldl (fun st L => writeReg st (regOf e.s e.t e.st e.f.dst.toNat L) w L (r L)) st0
  afterLane e (pushLatch st1 e ((lanesOf e.ex).map fun L => (L, BitVec.ofNat 64 (r L % 2 ^ w)))) fl

/-- A lane-register result. -/
def laneResult (i : Instr) (e : LaneEnv) (w : Nat) (r : Nat → Nat) (fl : AFlags) : Out := .next (afterResult i e w r fl)

/-- A result with flags per lane (R161). -/
def laneResultF (i : Instr) (e : LaneEnv) (w : Nat) (r : Nat → Nat × AFlags) : Out :=
  laneResult i e w (fun L => (r L).1) (orFlags ((lanesOf e.ex).map fun L => (r L).2))

/-- The state after a predicate result: written in the executing lanes only; no latch is pushed (R173, R226). -/
def afterPred (i : Instr) (e : LaneEnv) (r : Nat → Bool) (fl : AFlags) : State :=
  let st := afterReads i e
  let k := e.f.dst.toNat % 8
  let old := predOf st k
  let new := maskOf fun L => if laneIn e.ex L then r L else laneIn old L
  afterLane e { st with preds := tabSet 0 st.preds k new } fl

/-- A predicate result. -/
def lanePred (i : Instr) (e : LaneEnv) (r : Nat → Bool) (fl : AFlags) : Out := .next (afterPred i e r fl)

/-- The state after a scalar result: written as U (R227). -/
def afterScalar (i : Instr) (e : LaneEnv) (v : Word) (fl : AFlags) : State :=
  let t1 := setS e.t (e.f.dst.setWidth 6) (.u v)
  putThr e.s e.s.cur { t1 with seat := some (afterReads i e), aflags := e.t.aflags ||| fl }

/-- A scalar result. -/
def laneScalar (i : Instr) (e : LaneEnv) (v : Word) (fl : AFlags) : Out := .next (afterScalar i e v fl)

/-- The state after an index-register result in the executing lanes (R248). -/
def afterIndex (i : Instr) (e : LaneEnv) (r : Nat → W32) : State :=
  let st := afterReads i e
  let xs := (lanesOf e.ex).foldl (fun x L => tabSet 0 x (e.f.dst.toNat % 4 * 32 + L) (r L)) st.xregs
  afterLane e { st with xregs := xs } 0

/-- An index-register result. -/
def laneIndex (i : Instr) (e : LaneEnv) (r : Nat → W32) : Out := .next (afterIndex i e r)

end Sys2Proof.Machine
end

