-- ==== Sys2Proof/Machine/Scalar.lean ====
section
/-!
DEFINITION. The scalar ALU family (R196), the immediate forms (R197, R198), compares, selects and condition operations
(R199 to R202) and `sform` (R204).
-/
namespace Sys2Proof.Machine
open Sys2Proof

/-! ### Results of the ALU table (R196), on 64-bit patterns -/

/-- `smulh`: the high half of the signed product. -/
def mulhS (a b : Word) : Word := toWord (a.toInt * b.toInt / 2 ^ 64)

/-- `smulhn`: the high half of the unsigned product. -/
def mulhU (a b : Word) : Word := BitVec.ofNat 64 (a.toNat * b.toNat / 2 ^ 64)

/-- Shift amounts use bits [5:0] of b. -/
def shAmt (b : Word) : Nat := b.toNat % 64

/-- `sshl`. -/
def shlW (a b : Word) : Word := a <<< shAmt b

/-- `sshr`. -/
def shrW (a b : Word) : Word := a >>> shAmt b

/-- `ssra`. -/
def sraW (a b : Word) : Word := a.sshiftRight (shAmt b)

/-- `smin`. -/
def minS (a b : Word) : Word := if a.toInt ≤ b.toInt then a else b

/-- `smax`. -/
def maxS (a b : Word) : Word := if a.toInt ≤ b.toInt then b else a

/-- `sminn`. -/
def minU (a b : Word) : Word := if a.toNat ≤ b.toNat then a else b

/-- `smaxn`. -/
def maxU (a b : Word) : Word := if a.toNat ≤ b.toNat then b else a

/-- `sdiv`: 0 for a zero divisor, otherwise truncating. -/
def divS (a b : Word) : Word := if b = 0 then 0 else toWord (Int.tdiv a.toInt b.toInt)

/-- `sdivn`. -/
def divU (a b : Word) : Word := if b = 0 then 0 else BitVec.ofNat 64 (a.toNat / b.toNat)

/-- `srem`: a for a zero divisor. -/
def remS (a b : Word) : Word := if b = 0 then a else toWord (a.toInt - b.toInt * Int.tdiv a.toInt b.toInt)

/-- `sremn`. -/
def remU (a b : Word) : Word := if b = 0 then a else BitVec.ofNat 64 (a.toNat % b.toNat)

/-- Leading zero bits of a number over `w` bits. -/
def clzN (w x : Nat) : Nat := if x = 0 then w else w - 1 - Nat.log2 x

/-- One bits of a number over `w` bits. -/
def popN (w x : Nat) : Nat := ((List.range w).filter fun k => x.testBit k).length

/-- `sclz`. -/
def clzW (a : Word) : Word := BitVec.ofNat 64 (clzN 64 a.toNat)

/-- `spop`. -/
def popW (a : Word) : Word := BitVec.ofNat 64 (popN 64 a.toNat)

/-- The sign-extended 14-bit immediate, as a U value (R197). -/
def immS (i : BitVec 14) : SVal := .u (i.signExtend 64)

/-- A 6-bit shift amount, as a U value (R197). -/
def immSh (i : BitVec 6) : SVal := .u (i.setWidth 64)

/-- One ALU instruction: its form function and its result per item (R196). -/
def alu (i : Instr) (s : State) (d : SReg) (form : SVal → SVal → Option SVal) (p q : Thread → SVal)
    (f : Word → Word → Item → Word) : Out :=
  scalar i s fun t => scalarOp s t d 4 form (p t) (q t) f

/-- `sadd` (R196). -/
def execSadd (d a b : SReg) (s : State) : Out :=
  alu (.sadd d a b) s d (formAdd) (getS · a) (getS · b) fun a b _ => a + b

/-- `ssub` (R196). -/
def execSsub (d a b : SReg) (s : State) : Out :=
  alu (.ssub d a b) s d (formSub) (getS · a) (getS · b) fun a b _ => a - b

/-- `smul` (R196). -/
def execSmul (d a b : SReg) (s : State) : Out :=
  alu (.smul d a b) s d (formMul) (getS · a) (getS · b) fun a b _ => a * b

/-- `smulh` (R196). -/
def execSmulh (d a b : SReg) (s : State) : Out :=
  alu (.smulh d a b) s d (formU mulhS) (getS · a) (getS · b) fun a b _ => mulhS a b

/-- `smulhn` (R196). -/
def execSmulhn (d a b : SReg) (s : State) : Out :=
  alu (.smulhn d a b) s d (formU mulhU) (getS · a) (getS · b) fun a b _ => mulhU a b

/-- `sand` (R196). -/
def execSand (d a b : SReg) (s : State) : Out :=
  alu (.sand d a b) s d (formU (· &&& ·)) (getS · a) (getS · b) fun a b _ => a &&& b

/-- `sor` (R196). -/
def execSor (d a b : SReg) (s : State) : Out :=
  alu (.sor d a b) s d (formU (· ||| ·)) (getS · a) (getS · b) fun a b _ => a ||| b

/-- `sxor` (R196). -/
def execSxor (d a b : SReg) (s : State) : Out :=
  alu (.sxor d a b) s d (formU (· ^^^ ·)) (getS · a) (getS · b) fun a b _ => a ^^^ b

/-- `sshl` (R196). -/
def execSshl (d a b : SReg) (s : State) : Out :=
  alu (.sshl d a b) s d (formShl) (getS · a) (getS · b) fun a b _ => shlW a b

/-- `sshr` (R196). -/
def execSshr (d a b : SReg) (s : State) : Out :=
  alu (.sshr d a b) s d (formU shrW) (getS · a) (getS · b) fun a b _ => shrW a b

/-- `ssra` (R196). -/
def execSsra (d a b : SReg) (s : State) : Out :=
  alu (.ssra d a b) s d (formU sraW) (getS · a) (getS · b) fun a b _ => sraW a b

/-- `smin` (R196). -/
def execSmin (d a b : SReg) (s : State) : Out :=
  alu (.smin d a b) s d (formU minS) (getS · a) (getS · b) fun a b _ => minS a b

/-- `smax` (R196). -/
def execSmax (d a b : SReg) (s : State) : Out :=
  alu (.smax d a b) s d (formU maxS) (getS · a) (getS · b) fun a b _ => maxS a b

/-- `sminn` (R196). -/
def execSminn (d a b : SReg) (s : State) : Out :=
  alu (.sminn d a b) s d (formU minU) (getS · a) (getS · b) fun a b _ => minU a b

/-- `smaxn` (R196). -/
def execSmaxn (d a b : SReg) (s : State) : Out :=
  alu (.smaxn d a b) s d (formU maxU) (getS · a) (getS · b) fun a b _ => maxU a b

/-- `sdiv` (R196). -/
def execSdiv (d a b : SReg) (s : State) : Out :=
  alu (.sdiv d a b) s d (formU divS) (getS · a) (getS · b) fun a b _ => divS a b

/-- `sdivn` (R196). -/
def execSdivn (d a b : SReg) (s : State) : Out :=
  alu (.sdivn d a b) s d (formU divU) (getS · a) (getS · b) fun a b _ => divU a b

/-- `srem` (R196). -/
def execSrem (d a b : SReg) (s : State) : Out :=
  alu (.srem d a b) s d (formU remS) (getS · a) (getS · b) fun a b _ => remS a b

/-- `sremn` (R196). -/
def execSremn (d a b : SReg) (s : State) : Out :=
  alu (.sremn d a b) s d (formU remU) (getS · a) (getS · b) fun a b _ => remU a b

/-- `sclz` (R196). -/
def execSclz (d a : SReg) (s : State) : Out :=
  alu (.sclz d a) s d (formU fun a _ => clzW a) (getS · a) (getS · a) fun a _ _ => clzW a

/-- `spop` (R196). -/
def execSpop (d a : SReg) (s : State) : Out :=
  alu (.spop d a) s d (formU fun a _ => popW a) (getS · a) (getS · a) fun a _ _ => popW a

/-- `saffx` (R196). -/
def execSaffx (d a b : SReg) (s : State) : Out :=
  alu (.saffx d a b) s d (formAff .x) (getS · a) (getS · b) fun a b i => a + b * BitVec.ofNat 64 i.x

/-- `saffy` (R196). -/
def execSaffy (d a b : SReg) (s : State) : Out :=
  alu (.saffy d a b) s d (formAff .y) (getS · a) (getS · b) fun a b i => a + b * BitVec.ofNat 64 i.y

/-- `saffz` (R196). -/
def execSaffz (d a b : SReg) (s : State) : Out :=
  alu (.saffz d a b) s d (formAff .z) (getS · a) (getS · b) fun a b i => a + b * BitVec.ofNat 64 i.z

/-- `saddi` (R197). -/
def execSaddi (d a : SReg) (i : BitVec 14) (s : State) : Out :=
  alu (.saddi d a i) s d (formAdd) (getS · a) (fun _ => immS i) fun a b _ => a + b

/-- `sandi` (R197). -/
def execSandi (d a : SReg) (i : BitVec 14) (s : State) : Out :=
  alu (.sandi d a i) s d (formU (· &&& ·)) (getS · a) (fun _ => immS i) fun a b _ => a &&& b

/-- `sori` (R197). -/
def execSori (d a : SReg) (i : BitVec 14) (s : State) : Out :=
  alu (.sori d a i) s d (formU (· ||| ·)) (getS · a) (fun _ => immS i) fun a b _ => a ||| b

/-- `sxori` (R197). -/
def execSxori (d a : SReg) (i : BitVec 14) (s : State) : Out :=
  alu (.sxori d a i) s d (formU (· ^^^ ·)) (getS · a) (fun _ => immS i) fun a b _ => a ^^^ b

/-- `smuli` (R197). -/
def execSmuli (d a : SReg) (i : BitVec 14) (s : State) : Out :=
  alu (.smuli d a i) s d (formMul) (getS · a) (fun _ => immS i) fun a b _ => a * b

/-- `sshli` (R197). -/
def execSshli (d a : SReg) (i : BitVec 6) (s : State) : Out :=
  alu (.sshli d a i) s d (formShl) (getS · a) (fun _ => immSh i) fun a b _ => shlW a b

/-- `sshri` (R197). -/
def execSshri (d a : SReg) (i : BitVec 6) (s : State) : Out :=
  alu (.sshri d a i) s d (formU shrW) (getS · a) (fun _ => immSh i) fun a b _ => shrW a b

/-- `ssrai` (R197). -/
def execSsrai (d a : SReg) (i : BitVec 6) (s : State) : Out :=
  alu (.ssrai d a i) s d (formU sraW) (getS · a) (fun _ => immSh i) fun a b _ => sraW a b

/-- `sli` (R198): a word of eight bytes. -/
def execSli (d : SReg) (w : BitVec 32) (s : State) : Out :=
  scalar (.sli d w) s fun t => done s (advance (setS t d (.u (w.signExtend 64))) 8)

/-- The value of `sli.hi` on an old value. -/
def sliHiW (w : BitVec 32) (old : Word) : Word := (w ++ old.setWidth 32 : BitVec 64)

/-- `sli.hi` (R198): U if the register was U, otherwise M. -/
def execSliHi (d : SReg) (w : BitVec 32) (s : State) : Out :=
  scalar (.sliHi d w) s fun t =>
    scalarOp s t d 8 (formU fun v _ => sliHiW w v) (getS t d) (getS t d) fun v _ _ => sliHiW w v

/-! ### Compares and conditions -/

/-- Writes a condition: its form, or M with `f` per item (R22, R203). -/
def writeCond (s : State) (t : Thread) (d : BitVec 3) (form : Option CVal) (f : Nat → Item → Bool) : Out :=
  match form with
  | some v => done4 s (setC t d v)
  | none => writeMC s t d f

/-- A comparison of two values by code into a condition (R199). -/
def compare (s : State) (t : Thread) (d : BitVec 3) (cc : Nat) (p q : SVal) : Out :=
  writeCond s t d (formCmp (lrecOf s t) cc p q) fun L i => cmpWords cc (svalAt p L i) (svalAt q L i)

/-- `scmp` (R199). -/
def execScmp (d : BitVec 3) (a b : SReg) (c : BitVec 4) (s : State) : Out :=
  scalar (.scmp d a b c) s fun t => compare s t d c.toNat (getS t a) (getS t b)

/-- The code of a `scmpi` comparison: 7 is `gen` (R200). -/
def scmpiCc (c : BitVec 3) : Nat := if c = 7 then 9 else c.toNat

/-- `scmpi` (R200). -/
def execScmpi (c d : BitVec 3) (a : SReg) (i : BitVec 14) (s : State) : Out :=
  scalar (.scmpi c d a i) s fun t => compare s t d (scmpiCc c) (getS t a) (immS i)

/-- The form of `ssel`: U when the condition and both operands are U, otherwise M (R20, R201). -/
def formSel (c : CVal) (p q : SVal) : Option SVal :=
  match c, p, q with
  | .u b, .u v, .u w => some (.u (if b then v else w))
  | _, _, _ => none

/-- `ssel` (R201). -/
def execSsel (d a b : SReg) (n : BitVec 3) (s : State) : Out :=
  scalar (.ssel d a b n) s fun t =>
    writeForm s t d 4 (formSel (getC t n) (getS t a) (getS t b)) fun L i =>
      if cvalAt (getC t n) L i then svalAt (getS t a) L i else svalAt (getS t b) L i

/-- A condition function of two conditions (R202). -/
def cop (i : Instr) (s : State) (d a b : BitVec 3) (f : Bool → Bool → Bool) : Out :=
  scalar i s fun t =>
    writeCond s t d (formCop (lrecOf s t) f (getC t a) (getC t b)) fun L it =>
      f (cvalAt (getC t a) L it) (cvalAt (getC t b) L it)

/-- `cop.and` (R202). -/
def execCopAnd (d a b : BitVec 3) (s : State) : Out := cop (.copAnd d a b) s d a b fun x y => x && y

/-- `cop.or` (R202). -/
def execCopOr (d a b : BitVec 3) (s : State) : Out := cop (.copOr d a b) s d a b fun x y => x || y

/-- `cop.xor` (R202). -/
def execCopXor (d a b : BitVec 3) (s : State) : Out := cop (.copXor d a b) s d a b fun x y => x != y

/-- `cop.andn` (R202). -/
def execCopAndn (d a b : BitVec 3) (s : State) : Out := cop (.copAndn d a b) s d a b fun x y => x && !y

/-- `cop.not` (R202). -/
def execCopNot (d a : BitVec 3) (s : State) : Out := cop (.copNot d a) s d a a fun x _ => !x

/-- `cop.mov` (R202). -/
def execCopMov (d a : BitVec 3) (s : State) : Out := cop (.copMov d a) s d a a fun x _ => x

/-- `cop.set` (R202). -/
def execCopSet (d : BitVec 3) (s : State) : Out := scalar (.copSet d) s fun t => done4 s (setC t d (.u true))

/-- `cop.clr` (R202). -/
def execCopClr (d : BitVec 3) (s : State) : Out := scalar (.copClr d) s fun t => done4 s (setC t d (.u false))

/-- What `sform` reads of a value that is not M: form tag, strides, base (R204). -/
def formField (fn : Nat) (v : SVal) : Word :=
  match v with
  | .u w => if fn = 4 then w else 0
  | .a b x y z =>
    if fn = 0 then 1 else if fn = 1 then x.signExtend 64 else if fn = 2 then y.signExtend 64
    else if fn = 3 then z.signExtend 64 else b
  | .m _ => if fn = 0 then 2 else 0

/-- `sform` (R204): U, but for the base of an M register, which is the register in M form. -/
def execSform (d a : SReg) (f : BitVec 8) (s : State) : Out :=
  scalar (.sform d a f) s fun t =>
    if isM (getS t a) && f.toNat == 4 then writeM s t d 4 fun L i => svalAt (getS t a) L i
    else done4 s (setS t d (.u (formField f.toNat (getS t a))))

end Sys2Proof.Machine
end

