-- ==== Sys2Proof/Machine/LaneInt.lean ====
section
/-!
DEFINITION. The integer group of lane instructions (R228 to R231).
-/
namespace Sys2Proof.Machine
open Sys2Proof

/-- TY of an instruction as a number. -/
def LaneEnv.ty (e : LaneEnv) : Nat := e.f.ty.toNat

/-- Bits of a result of the type in lane registers. -/
def LaneEnv.rb (e : LaneEnv) : Nat := regBits e.ty

/-- An operand read as an integer of the type (R143, R228). -/
def rdInt (ty x : Nat) : Int := if isSignedTy ty then sext (tyBits ty) x else (x % 2 ^ tyBits ty : Nat)

/-- The low bits of an integer, as a natural number. -/
def lowBits (n : Nat) (v : Int) : Nat := (BitVec.ofInt n v).toNat

/-- An integer of the type as register bits: wrapped to the type, and 8- and 16-bit results extended to 32 bits (R143). -/
def wrInt (ty : Nat) (v : Int) : Nat := lowBits (regBits ty) (rdInt ty (lowBits (tyBits ty) v))

/-- An exact result wrapped, or saturated under `.sat`; `.chk` sets IOV when it does not fit (R144). -/
def fitInt (f : LaneFields) (ty : Nat) (v : Int) : Nat × AFlags :=
  let lo := intMin (tyBits ty) (isSignedTy ty)
  let hi := intMax (tyBits ty) (isSignedTy ty)
  let fits := decide (lo ≤ v) && decide (v ≤ hi)
  let r := if f.rnd.getLsbD 1 then (if v < lo then lo else if hi < v then hi else v) else v
  (wrInt ty r, flagIf (f.fam.getLsbD 0 && !fits) fIOV)

/-- An integer instruction whose exact result is `g a b c` (R228). -/
def intExact (i : Instr) (s : State) (g : Int → Int → Int → Nat → Int) : Out :=
  laneInstr i s fun e =>
    laneResultF i e e.rb fun L =>
      fitInt e.f e.ty (g (rdInt e.ty (srcA e e.rb L)) (rdInt e.ty (srcB e e.rb L)) (rdInt e.ty (srcC e e.rb L)) (tyBits e.ty))

/-- A bit instruction on `w` bits with sources of that width: `g w a b`. -/
def bitOp (i : Instr) (s : State) (g : Nat → Nat → Nat → Nat) : Out :=
  laneInstr i s fun e =>
    laneResult i e e.rb (fun L => g e.rb (srcA e e.rb L) (srcB e e.rb L) % 2 ^ e.rb) 0

/-- An instruction whose second operand is a 32-bit position (R225): `g e a b`. -/
def shiftOp (i : Instr) (s : State) (g : LaneEnv → Nat → Nat → Nat) : Out :=
  laneInstr i s fun e =>
    laneResult i e e.rb (fun L => g e (srcA e e.rb L) (srcB32 e L) % 2 ^ e.rb) 0

/-- `iadd` (R228). -/
def execIadd (f : LaneFields) (s : State) : Out := intExact (.iadd f) s fun a b c w => a + b

/-- `isub` (R228). -/
def execIsub (f : LaneFields) (s : State) : Out := intExact (.isub f) s fun a b c w => a - b

/-- `imul` (R228). -/
def execImul (f : LaneFields) (s : State) : Out := intExact (.imul f) s fun a b c w => a * b

/-- `imulh` (R228). -/
def execImulh (f : LaneFields) (s : State) : Out := intExact (.imulh f) s fun a b c w => a * b / 2 ^ w

/-- `imad` (R228). -/
def execImad (f : LaneFields) (s : State) : Out := intExact (.imad f) s fun a b c w => a * b + c

/-- `iabs` (R228). -/
def execIabs (f : LaneFields) (s : State) : Out := intExact (.iabs f) s fun a b c w => (a.natAbs : Int)

/-- `ineg` (R228). -/
def execIneg (f : LaneFields) (s : State) : Out := intExact (.ineg f) s fun a b c w => -a

/-- `imin` (R228). -/
def execImin (f : LaneFields) (s : State) : Out := intExact (.imin f) s fun a b c w => min a b

/-- `imax` (R228). -/
def execImax (f : LaneFields) (s : State) : Out := intExact (.imax f) s fun a b c w => max a b

/-- `and` (R228). -/
def execLand (f : LaneFields) (s : State) : Out := bitOp (.land f) s fun w a b => a &&& b

/-- `or` (R228). -/
def execLor (f : LaneFields) (s : State) : Out := bitOp (.lor f) s fun w a b => a ||| b

/-- `xor` (R228). -/
def execLxor (f : LaneFields) (s : State) : Out := bitOp (.lxor f) s fun w a b => a ^^^ b

/-- `not` (R228). -/
def execLnot (f : LaneFields) (s : State) : Out := bitOp (.lnot f) s fun w a b => 2 ^ w - 1 - a

/-- `andn` (R228). -/
def execAndn (f : LaneFields) (s : State) : Out := bitOp (.andn f) s fun w a b => a &&& (2 ^ w - 1 - b)

/-- `clz` (R228). -/
def execClz (f : LaneFields) (s : State) : Out := bitOp (.clz f) s fun w a b => clzN w a

/-- `popc` (R228). -/
def execPopc (f : LaneFields) (s : State) : Out := bitOp (.popc f) s fun w a b => popN w a

/-- A number of `w` bits with its bits in reverse order. -/
def reverseBits (w a : Nat) : Nat :=
  (List.range w).foldl (fun r k => if a.testBit (w - 1 - k) then r + 2 ^ k else r) 0

/-- `brev` (R228). -/
def execBrev (f : LaneFields) (s : State) : Out := bitOp (.brev f) s fun w a _ => reverseBits w a

/-- `shl` (R228). -/
def execShl (f : LaneFields) (s : State) : Out := shiftOp (.shl f) s fun e a b => a * 2 ^ (b % e.rb)

/-- `shr` (R228). -/
def execShr (f : LaneFields) (s : State) : Out := shiftOp (.shr f) s fun e a b => a / 2 ^ (b % e.rb)

/-- `sra` (R228). -/
def execSra (f : LaneFields) (s : State) : Out :=
  shiftOp (.sra f) s fun e a b => lowBits e.rb (sext e.rb a / 2 ^ (b % e.rb))

/-- `rotl` (R228). -/
def execRotl (f : LaneFields) (s : State) : Out :=
  shiftOp (.rotl f) s fun e a b => a * 2 ^ (b % e.rb) + a / 2 ^ (e.rb - b % e.rb)

/-- The position and length of `bfx` and `bfi`, and the end of the field cut off at w (R229). -/
def fieldPos (w b : Nat) : Nat × Nat × Nat :=
  let pos := b % 256
  let len := b / 256 % 256
  (pos, len, min (pos + len) w)

/-- `bfx` of `a` (R229). -/
def bfxN (signed : Bool) (w a b : Nat) : Nat :=
  let p := fieldPos w b
  if p.2.1 = 0 ∨ w ≤ p.1 then 0
  else
    let n := p.2.2 - p.1
    if signed then lowBits w (sext n (bitsAt a p.1 n)) else bitsAt a p.1 n

/-- `bfi` of `a` into `c` (R229). -/
def bfiN (w a b c : Nat) : Nat :=
  let p := fieldPos w b
  if p.2.1 = 0 ∨ w ≤ p.1 then c
  else c % 2 ^ p.1 + bitsAt a 0 (p.2.2 - p.1) * 2 ^ p.1 + c / 2 ^ p.2.2 * 2 ^ p.2.2

/-- `bfx` (R229). -/
def execBfx (f : LaneFields) (s : State) : Out :=
  shiftOp (.bfx f) s fun e a b => bfxN (isSignedTy e.ty) e.rb a b

/-- `bfi` (R229). -/
def execBfi (f : LaneFields) (s : State) : Out :=
  laneInstr (.bfi f) s fun e =>
    laneResult (.bfi f) e e.rb (fun L => bfiN e.rb (srcA e e.rb L) (srcB32 e L) (srcC e e.rb L)) 0

/-- The comparison of `icmp` by FAM (R230). -/
def icmpOp (fam : Nat) (a b : Int) : Bool :=
  if fam = 0 then a == b
  else if fam = 1 then a != b
  else if fam = 2 then a < b
  else if fam = 3 then a ≤ b
  else if fam = 4 then b < a
  else b ≤ a

/-- `icmp` (R230). -/
def execIcmp (f : LaneFields) (s : State) : Out :=
  laneInstr (.icmp f) s fun e =>
    lanePred (.icmp f) e (fun L => icmpOp (famOf f) (rdInt e.ty (srcA e e.rb L)) (rdInt e.ty (srcB e e.rb L))) 0

/-- `sel` (R230). -/
def execSel (f : LaneFields) (s : State) : Out :=
  laneInstr (.sel f) s fun e =>
    laneResult (.sel f) e e.rb (fun L => if predSrc e f.sc L then srcA e e.rb L else srcB e e.rb L) 0

/-- Byte `k` of a register, signed or not. -/
def byteOf (signed : Bool) (x k : Nat) : Int :=
  if signed then sext 8 (bitsAt x (8 * k) 8) else (bitsAt x (8 * k) 8 : Nat)

/-- `dot4` (R231). -/
def execDot4 (f : LaneFields) (s : State) : Out :=
  laneInstr (.dot4 f) s fun e =>
    laneResultF (.dot4 f) e 32 fun L =>
      let a := srcA e 32 L
      let b := srcB e 32 L
      let sg := isSignedTy e.ty
      fitInt f e.ty (rdInt e.ty (srcC e 32 L) + byteOf sg a 0 * byteOf sg b 0 + byteOf sg a 1 * byteOf sg b 1
        + byteOf sg a 2 * byteOf sg b 2 + byteOf sg a 3 * byteOf sg b 3)

end Sys2Proof.Machine
end

