-- ==== Sys2Proof/Machine/Trans.lean ====
section
/-!
DEFINITION. `frcp`, `frsq`, `fex2`, `flg2`, `fsin` and `fcos` (R234): the exact mathematical value rounded once to f32.
A value that no f32 can equal is computed in fixed point to 448 fraction bits and rounded with its last bit set, so that
no tie can arise; the values an f32 can equal are taken exactly.
-/
namespace Sys2Proof

/-- Fraction bits of the fixed-point computations. -/
def fxBits : Nat := 448

/-- One in fixed point. -/
def fxOne : Nat := 2 ^ fxBits

/-- Product in fixed point. -/
def fxMul (a b : Int) : Int := a * b / (fxOne : Nat)

/-- Sum of z + z^3/3 + z^5/5 …: `pow` is the current odd power, `zz` the square, `k` the odd divisor. -/
def atanhGo (zz : Int) : Nat → Nat → Int → Int → Int
  | 0, _, _, acc => acc
  | n + 1, k, pow, acc => atanhGo zz n (k + 2) (fxMul pow zz) (acc + pow / (k : Int))

/-- atanh of a fixed-point number of magnitude at most 1/3. -/
def fxAtanh (z : Int) : Int := atanhGo (fxMul z z) 150 1 z 0

/-- ln 2 = 2·atanh(1/3). -/
def fxLn2 : Int := 2 * fxAtanh ((fxOne : Int) / 3)

/-- Sum of z − z^3/3 + z^5/5 …. -/
def atanGo (zz : Int) : Nat → Nat → Int → Int → Int
  | 0, _, _, acc => acc
  | n + 1, k, pow, acc => atanGo zz n (k + 2) (-(fxMul pow zz)) (acc + pow / (k : Int))

/-- atan of 1/n. -/
def fxAtanInv (n : Nat) : Int :=
  let z : Int := (fxOne : Int) / (n : Int)
  atanGo (fxMul z z) 110 1 z 0

/-- π by Machin's formula. -/
def fxPi : Int := 4 * (4 * fxAtanInv 5 - fxAtanInv 239)

/-- Sum of the exponential series: `term` is x^k/k!. -/
def expGo (x : Int) : Nat → Nat → Int → Int → Int
  | 0, _, _, acc => acc
  | n + 1, k, term, acc => expGo x n (k + 1) (fxMul term x / (k : Int)) (acc + term)

/-- e^x of a fixed-point number in [0, 1). -/
def fxExp (x : Int) : Int := expGo x 110 1 (fxOne : Int) 0

/-- Sum of the sine series: `term` is ±x^k/k!, k odd. -/
def sinGo (xx : Int) : Nat → Nat → Int → Int → Int
  | 0, _, _, acc => acc
  | n + 1, k, term, acc =>
    sinGo xx n (k + 2) (-(fxMul term xx) / (((k + 1) * (k + 2) : Nat) : Int)) (acc + term)

/-- sin of a fixed-point number in [0, π/2]. -/
def fxSin (x : Int) : Int := sinGo (fxMul x x) 60 1 x 0

/-- A positive fixed-point approximation of an irrational value, as an exact value with its last bit set. -/
def fxVal (neg : Bool) (v : Int) : FVal := .fin neg (2 * v.natAbs + 1) (-((fxBits : Int) + 1))

/-- A dyadic number in [0, 2^0) at fixed point, from mantissa and exponent. -/
def fxOf (man : Nat) (exp : Int) : Int :=
  if 0 ≤ exp + fxBits then (man : Int) * 2 ^ (exp + fxBits).toNat else (man : Int) / 2 ^ (-(exp + fxBits)).toNat

/-- Rounds the value of one of these instructions to f32 by RoundNE, without NX (R149, R161, R234). -/
def finishT (ftz : Bool) (x : FVal) (r : FVal × AFlags) : Nat × AFlags :=
  let y := finishOp F32 0 ftz [x] r
  (y.1, noNX y.2)

/-- `frcp`. -/
def opRcp (ftz : Bool) (a : Nat) : Nat × AFlags :=
  let x := fread F32 ftz a
  finishT ftz x <|
    match x with
    | .nan _ => (.nan false, 0)
    | .inf n => (.fin n 0 0, 0)
    | .fin n man exp =>
      if man = 0 then (.inf n, fDZ)
      else
        let q := quotSticky 30 1 man
        (.fin n q.1 (q.2 - exp), 0)

/-- A mantissa with its trailing zero bits moved to the exponent. -/
def oddPart : Nat → Nat → Int → Nat × Int
  | 0, m, e => (m, e)
  | k + 1, m, e => if m % 2 = 0 then oddPart k (m / 2) (e + 1) else (m, e)

/-- `frsq`. -/
def opRsq (ftz : Bool) (a : Nat) : Nat × AFlags :=
  let x := fread F32 ftz a
  finishT ftz x <|
    match x with
    | .nan _ => (.nan false, 0)
    | .inf n => if n then (.nan false, fNV) else (.fin false 0 0, 0)
    | .fin n man exp =>
      if man = 0 then (.inf n, fDZ)
      else if n then (.nan false, fNV)
      else
        let o := oddPart 32 man exp
        if o.1 = 1 ∧ o.2 % 2 = 0 then (.fin false 1 (-(o.2 / 2)), 0)
        else
          -- with an even exponent g, 1/√(m·2^g) = √(2^320/m) · 2^(−160 − g/2)
          let m := if o.2 % 2 = 0 then o.1 else 2 * o.1
          let g := if o.2 % 2 = 0 then o.2 else o.2 - 1
          (.fin false (2 * isqrt (2 ^ 320 / m) + 1) (-161 - g / 2), 0)

/-- `fex2`. -/
def opEx2 (ftz : Bool) (a : Nat) : Nat × AFlags :=
  let x := fread F32 ftz a
  finishT ftz x <|
    match x with
    | .nan _ => (.nan false, 0)
    | .inf n => (if n then .fin false 0 0 else .inf false, 0)
    | .fin n man exp =>
      let whole := if 0 ≤ exp then man * 2 ^ (min exp 40).toNat else man / 2 ^ (-exp).toNat
      if 300 < whole then (.fin false 1 (if n then -300 else 300), 0)
      else if 0 ≤ exp then (.fin false 1 (if n then -(whole : Int) else whole), 0)
      else
        let fr := man % 2 ^ (-exp).toNat
        if fr = 0 then (.fin false 1 (if n then -(whole : Int) else whole), 0)
        else
          -- a = i + g with 0 < g < 1
          let i : Int := if n then -(whole : Int) - 1 else whole
          let g := if n then 2 ^ (-exp).toNat - fr else fr
          match fxVal false (fxExp (fxMul (fxOf g exp) fxLn2)) with
          | .fin s m e => (.fin s m (e + i), 0)
          | v => (v, 0)

/-- `flg2`. -/
def opLg2 (ftz : Bool) (a : Nat) : Nat × AFlags :=
  let x := fread F32 ftz a
  finishT ftz x <|
    match x with
    | .nan _ => (.nan false, 0)
    | .inf n => if n then (.nan false, fNV) else (.inf false, 0)
    | .fin n man exp =>
      if man = 0 then (.inf true, fDZ)
      else if n then (.nan false, fNV)
      else
        let k := Nat.log2 man
        let whole : Int := exp + k
        if man = 2 ^ k then (.fin (whole < 0) whole.natAbs 0, 0)
        else
          let m := fxOf man (-(k : Int))
          let z := (m - (fxOne : Int)) * (fxOne : Int) / (m + (fxOne : Int))
          let v := whole * (fxOne : Int) + 2 * fxAtanh z * (fxOne : Int) / fxLn2
          (fxVal (v < 0) v, 0)

/-- sin(π·r) for a dyadic r = num / 2^den in [0, 1/2]: exact at the ends. -/
def sinPi (neg : Bool) (num den : Nat) : FVal :=
  if num = 0 then .fin neg 0 0
  else if 2 * num = 2 ^ den then .fin neg 1 0
  else fxVal neg (fxSin (fxMul (fxOf num (-(den : Int))) fxPi))

/-- sin(π·a) when `cosine` is false, cos(π·a) otherwise, for a finite a, with π·a taken exactly. -/
def sinCos (cosine neg : Bool) (man : Nat) (exp : Int) : FVal :=
  let den := if 0 ≤ exp then 1 else (-exp).toNat + 1
  -- a in units of 2^−den, the sign applied, modulo 2
  let mag := if 0 ≤ exp then 2 * man * 2 ^ (min exp 2).toNat else 2 * man
  let two := 2 * 2 ^ den
  let r0 : Nat := if neg then (two - mag % two) % two else mag % two
  let r := if cosine then (r0 + 2 ^ den / 2) % two else r0
  let half := if 2 ^ den ≤ r then r - 2 ^ den else r
  let flip := decide (2 ^ den ≤ r)
  let q := if 2 ^ den < 2 * half then 2 ^ den - half else half
  if q = 0 then .fin (if cosine then false else neg) 0 0 else sinPi flip q den

/-- `fsin` and `fcos`. -/
def opSinCos (cosine ftz : Bool) (a : Nat) : Nat × AFlags :=
  let x := fread F32 ftz a
  finishT ftz x <|
    match x with
    | .nan _ => (.nan false, 0)
    | .inf _ => (.nan false, fNV)
    | .fin n man exp => (sinCos cosine n man exp, 0)

end Sys2Proof
end

