-- ==== Sys2Proof/Machine/LaneFloat.lean ====
section
/-!
DEFINITION. The float group (R232 to R235), and conversion and moves (R236 to R239). `lea` is with the memory
instructions.
-/
namespace Sys2Proof.Machine
open Sys2Proof

/-- An operation on one element, done on both halves of a packed pair (R145): `g` takes the operands' element bits. -/
def perElem (ty : Nat) (g : Fmt → Nat → Nat → Nat → Nat × AFlags) (a b c : Nat) : Nat × AFlags :=
  let f := fmtOfTy ty
  if isPackedTy ty then
    let x := g f (bitsAt a 0 16) (bitsAt b 0 16) (bitsAt c 0 16)
    let y := g f (bitsAt a 16 16) (bitsAt b 16 16) (bitsAt c 16 16)
    (x.1 + y.1 * 2 ^ 16, x.2 ||| y.2)
  else g f (a % 2 ^ f.bits) (b % 2 ^ f.bits) (c % 2 ^ f.bits)

/-- A float instruction with up to three operands of the type (R232). -/
def floatOp (i : Instr) (s : State) (g : LaneFields → Fmt → Nat → Nat → Nat → Nat × AFlags) : Out :=
  laneInstr i s fun e =>
    laneResultF i e e.rb fun L => perElem e.ty (g e.f) (srcA e e.rb L) (srcB e e.rb L) (srcC e e.rb L)

/-- The rounding mode of an instruction (R150). -/
def rndOf (f : LaneFields) : RMode := f.rnd.toNat

/-- FTZ of an instruction (R147). -/
def ftzOf (f : LaneFields) : Bool := bit f.ftz

/-- The sign bit of a format's element. -/
def signBit (f : Fmt) (a : Nat) : Nat := a / 2 ^ (f.e + f.m) % 2

/-- An element with the sign bit given. -/
def withSign (f : Fmt) (a sg : Nat) : Nat := a % 2 ^ (f.e + f.m) + sg * 2 ^ (f.e + f.m)

/-- `fadd` (R232). -/
def execFadd (f : LaneFields) (s : State) : Out := floatOp (.fadd f) s fun f m a b c => opAdd m (rndOf f) (ftzOf f) a b

/-- `fsub` (R232). -/
def execFsub (f : LaneFields) (s : State) : Out := floatOp (.fsub f) s fun f m a b c => opSub m (rndOf f) (ftzOf f) a b

/-- `fmul` (R232). -/
def execFmul (f : LaneFields) (s : State) : Out := floatOp (.fmul f) s fun f m a b c => opMul m (rndOf f) (ftzOf f) a b

/-- `ffma` (R232). -/
def execFfma (f : LaneFields) (s : State) : Out := floatOp (.ffma f) s fun f m a b c => opFma m (rndOf f) (ftzOf f) a b c

/-- `fmin` (R232). -/
def execFmin (f : LaneFields) (s : State) : Out := floatOp (.fmin f) s fun f m a b c => opMinMax m (ftzOf f) false (f.fam.getLsbD 0) a b

/-- `fmax` (R232). -/
def execFmax (f : LaneFields) (s : State) : Out := floatOp (.fmax f) s fun f m a b c => opMinMax m (ftzOf f) true (f.fam.getLsbD 0) a b

/-- `fabs` (R232). -/
def execFabs (f : LaneFields) (s : State) : Out := floatOp (.fabs f) s fun f m a b c => (withSign m a 0, 0)

/-- `fneg` (R232). -/
def execFneg (f : LaneFields) (s : State) : Out := floatOp (.fneg f) s fun f m a b c => (withSign m a (1 - signBit m a), 0)

/-- `fcpsgn` (R232). -/
def execFcpsgn (f : LaneFields) (s : State) : Out := floatOp (.fcpsgn f) s fun f m a b c => (withSign m a (signBit m b), 0)

/-- `frcp` (R234). -/
def execFrcp (f : LaneFields) (s : State) : Out := floatOp (.frcp f) s fun f m a b c => opRcp (ftzOf f) a

/-- `frsq` (R234). -/
def execFrsq (f : LaneFields) (s : State) : Out := floatOp (.frsq f) s fun f m a b c => opRsq (ftzOf f) a

/-- `fsqrt` (R232). -/
def execFsqrt (f : LaneFields) (s : State) : Out := floatOp (.fsqrt f) s fun f m a b c => opSqrt m (rndOf f) (ftzOf f) a

/-- `fdiv` (R232). -/
def execFdiv (f : LaneFields) (s : State) : Out := floatOp (.fdiv f) s fun f m a b c => opDiv m (rndOf f) (ftzOf f) a b

/-- `fex2` (R234). -/
def execFex2 (f : LaneFields) (s : State) : Out := floatOp (.fex2 f) s fun f m a b c => opEx2 (ftzOf f) a

/-- `flg2` (R234). -/
def execFlg2 (f : LaneFields) (s : State) : Out := floatOp (.flg2 f) s fun f m a b c => opLg2 (ftzOf f) a

/-- `fsin` (R234). -/
def execFsin (f : LaneFields) (s : State) : Out := floatOp (.fsin f) s fun f m a b c => opSinCos false (ftzOf f) a

/-- `fcos` (R234). -/
def execFcos (f : LaneFields) (s : State) : Out := floatOp (.fcos f) s fun f m a b c => opSinCos true (ftzOf f) a

/-- `ftrunc` (R232). -/
def execFtrunc (f : LaneFields) (s : State) : Out := floatOp (.ftrunc f) s fun f m a b c => opTrunc m (rndOf f) (ftzOf f) a

/-- `fcmp` (R233): for a packed type both elements must compare true. -/
def execFcmp (f : LaneFields) (s : State) : Out :=
  laneInstr (.fcmp f) s fun e =>
    let r (L : Nat) : Bool × AFlags :=
      let a := srcA e e.rb L
      let b := srcB e e.rb L
      let m := fmtOfTy e.ty
      if isPackedTy e.ty then
        let x := opCmp m (ftzOf f) (famOf f) (bitsAt a 0 16) (bitsAt b 0 16)
        let y := opCmp m (ftzOf f) (famOf f) (bitsAt a 16 16) (bitsAt b 16 16)
        (x.1 && y.1, x.2 ||| y.2)
      else opCmp m (ftzOf f) (famOf f) (a % 2 ^ m.bits) (b % 2 ^ m.bits)
    lanePred (.fcmp f) e (fun L => (r L).1) (orFlags ((lanesOf e.ex).map fun L => (r L).2))

/-- `fclass` (R235): a 32-bit mask for every type. -/
def execFclass (f : LaneFields) (s : State) : Out :=
  laneInstr (.fclass f) s fun e =>
    let m := fmtOfTy e.ty
    laneResult (.fclass f) e 32 (fun L => opClass m (ftzOf f) (srcA e e.rb L % 2 ^ m.bits)) 0

/-- `fldx` (R232): the exponent is a 32-bit signed operand. -/
def execFldx (f : LaneFields) (s : State) : Out :=
  laneInstr (.fldx f) s fun e =>
    laneResultF (.fldx f) e e.rb fun L =>
      opLdx (fmtOfTy e.ty) (rndOf f) (ftzOf f) (srcA e e.rb L) (sext 32 (srcB32 e L))

/-! ### Conversion and moves -/

/-- `mov` (R236). -/
def execMov (f : LaneFields) (s : State) : Out :=
  laneInstr (.mov f) s fun e => laneResult (.mov f) e e.rb (fun L => srcA e e.rb L) 0

/-- `movi` (R236). -/
def execMovi (f : LaneFields) (s : State) : Out :=
  laneInstr (.movi f) s fun e =>
    laneResult (.movi f) e e.rb (fun _ => if f.fam.getLsbD 0 then lowBits e.rb f.imm.toInt else f.imm.toNat) 0

/-- One element of `cvt` from type `src` to type `dst` (R150, R237): register bits of the result. -/
def cvtElem (f : LaneFields) (dst src a : Nat) : Nat × AFlags :=
  match isFloatTy dst, isFloatTy src with
  | true, true => cvtFF (fmtOfTy src) (fmtOfTy dst) (rndOf f) (ftzOf f) a
  | true, false => cvtIF (fmtOfTy dst) (rndOf f) (ftzOf f) (rdInt src a)
  | false, true =>
    let r := cvtFI (fmtOfTy src) (rndOf f) (ftzOf f) (tyBits dst) (isSignedTy dst) a
    (wrInt dst r.1, r.2)
  | false, false => fitInt f dst (rdInt src a)

/-- `cvt` (R237). -/
def execCvt (f : LaneFields) (s : State) : Out :=
  laneInstr (.cvt f) s fun e =>
    let src := cvtSrcTy f
    laneResultF (.cvt f) e e.rb fun L =>
      let a := srcA e (regBits src) L
      if isPackedTy src then
        let x := cvtElem f e.ty src (bitsAt a 0 16)
        let y := cvtElem f e.ty src (bitsAt a 16 16)
        (x.1 + y.1 * 2 ^ 16, x.2 ||| y.2)
      else cvtElem f e.ty src (a % 2 ^ tyBits src)

/-- `pack2` (R238). -/
def execPack2 (f : LaneFields) (s : State) : Out :=
  laneInstr (.pack2 f) s fun e =>
    laneResultF (.pack2 f) e 32 fun L =>
      let x := cvtFF F32 (fmtOfTy e.ty) (rndOf f) (ftzOf f) (srcA e 32 L)
      let y := cvtFF F32 (fmtOfTy e.ty) (rndOf f) (ftzOf f) (srcB32 e L)
      (x.1 + y.1 * 2 ^ 16, x.2 ||| y.2)

/-- `unpk` (R238). -/
def execUnpk (f : LaneFields) (s : State) : Out :=
  laneInstr (.unpk f) s fun e =>
    laneResultF (.unpk f) e 64 fun L =>
      let a := srcA e 32 L
      let x := cvtFF (fmtOfTy e.ty) F32 0 (ftzOf f) (bitsAt a 0 16)
      let y := cvtFF (fmtOfTy e.ty) F32 0 (ftzOf f) (bitsAt a 16 16)
      (x.1 + y.1 * 2 ^ 32, x.2 ||| y.2)

/-- Width and exponent bits of the tapered format FAM[0] selects (R239). -/
def tapOf (f : LaneFields) : Nat × Nat := if f.fam.getLsbD 0 then (6, 0) else (8, 1)

/-- The element that IMM[1:0] selects (R239). -/
def tapIdx (f : LaneFields) : Nat := f.imm.toNat % 4

/-- `tdec` (R239). -/
def execTdec (f : LaneFields) (s : State) : Out :=
  laneInstr (.tdec f) s fun e =>
    let n := (tapOf f).1
    laneResult (.tdec f) e 32 (fun L =>
      (roundVal F32 0 false (tapVal (tapDecode n (tapOf f).2 (bitsAt (srcA e 32 L) (n * tapIdx f) n)) 0)).1) 0

/-- `tenc` (R239). -/
def execTenc (f : LaneFields) (s : State) : Out :=
  laneInstr (.tenc f) s fun e =>
    let n := (tapOf f).1
    let lo := n * tapIdx f
    laneResultF (.tenc f) e 32 fun L =>
      let c := srcC e 32 L
      let r := tapEncode n (tapOf f).2 (fread F32 (ftzOf f) (srcA e 32 L))
      (c % 2 ^ lo + r.1 % 2 ^ n * 2 ^ lo + c / 2 ^ (lo + n) * 2 ^ (lo + n), r.2)

end Sys2Proof.Machine
end

