-- ==== Sys2Proof/Machine/LaneCross.lean ====
section
/-!
DEFINITION. The cross-lane group (R241 to R247) and the index registers (R248).
-/
namespace Sys2Proof.Machine
open Sys2Proof

/-- `pset` (R242). -/
def execPset (f : LaneFields) (s : State) : Out :=
  laneInstr (.pset f) s fun e =>
    lanePred (.pset f) e (fun L => if bit f.i then f.imm.getLsbD L else srcB32 e L != 0) 0

/-- `pmov` (R242). -/
def execPmov (f : LaneFields) (s : State) : Out :=
  laneInstr (.pmov f) s fun e =>
    lanePred (.pmov f) e (fun L =>
      let a := predSrc e f.sa L
      let b := predSrc e f.sb L
      if famOf f = 0 then a && b else if famOf f = 1 then a || b else if famOf f = 2 then a != b
      else if famOf f = 3 then a && !b else a) 0

/-- The source lane of `shfl` (R243), 32 when there is none. -/
def shflSrc (fam L n : Nat) : Nat :=
  if fam = 0 then n % 32
  else if fam = 1 then if n ≤ L then L - n else 32
  else if fam = 2 then if L + n ≤ 31 then L + n else 32
  else L ^^^ (n % 32)

/-- `shfl` (R243). -/
def execShfl (f : LaneFields) (s : State) : Out :=
  laneInstr (.shfl f) s fun e =>
    laneResult (.shfl f) e e.rb (fun L =>
      let src := shflSrc (famOf f) L (srcB32 e L)
      srcA e e.rb (if src < 32 && laneIn e.ex src then src else L)) 0

/-- `bcast` (R243). -/
def execBcast (f : LaneFields) (s : State) : Out :=
  laneInstr (.bcast f) s fun e =>
    let m := (lanesOf e.ex).headD 0
    let src := srcB32 e m % 32
    laneResult (.bcast f) e e.rb (fun _ => srcA e e.rb (if laneIn e.ex src then src else m)) 0

/-- `perm` (R243). -/
def execPerm (f : LaneFields) (s : State) : Out :=
  laneInstr (.perm f) s fun e =>
    laneResult (.perm f) e e.rb (fun L =>
      let c := srcC e 32 L
      let q := c % 32
      if !laneIn e.ex q then 0 else if c.testBit 5 then srcB e e.rb q else srcA e e.rb q) 0

/-- The executing lanes in which the predicate operand is true. -/
def trueLanes (e : LaneEnv) : W32 := maskOf fun L => laneIn e.ex L && predSrc e e.f.sa L

/-- `vote` (R244). -/
def execVote (f : LaneFields) (s : State) : Out :=
  laneInstr (.vote f) s fun e =>
    let b := trueLanes e
    let v : Word := if famOf f = 0 then b.setWidth 64
      else if famOf f = 1 then (if b = e.ex then 1 else 0)
      else if famOf f = 2 then (if b = 0 then 0 else 1)
      else (if b = e.ex ∨ b = 0 then 1 else 0)
    laneScalar (.vote f) e v 0

/-- `first` (R244). -/
def execFirstLane (f : LaneFields) (s : State) : Out :=
  laneInstr (.firstLane f) s fun e =>
    laneScalar (.firstLane f) e (BitVec.ofNat 64 ((lanesOf (trueLanes e)).headD 32)) 0

/-! ### Reductions (R245, R246) -/

/-- Op of R245 on two values of the type, as register bits. -/
def redOp (f : LaneFields) (ty op x y : Nat) : Nat × AFlags :=
  if isFloatTy ty then
    if op = 0 then opAdd (fmtOfTy ty) (rndOf f) (ftzOf f) x y
    else opMinMax (fmtOfTy ty) (ftzOf f) (op == 2) false x y
  else
    let r : Int := if op = 0 then rdInt ty x + rdInt ty y
      else if op = 1 then min (rdInt ty x) (rdInt ty y)
      else if op = 2 then max (rdInt ty x) (rdInt ty y)
      else if op = 3 then ((x &&& y : Nat) : Int)
      else if op = 4 then ((x ||| y : Nat) : Int)
      else ((x ^^^ y : Nat) : Int)
    (wrInt ty r, 0)

/-- The identity of an operation (R245), as register bits. -/
def redId (ty op : Nat) : Nat :=
  if isFloatTy ty then
    if op = 0 then 0 else infBits (fmtOfTy ty) (op == 2)
  else
    let w := tyBits ty
    if op = 1 then wrInt ty (intMax w (isSignedTy ty))
    else if op = 2 then wrInt ty (intMin w (isSignedTy ty))
    else if op = 3 then 2 ^ w - 1
    else 0

/-- A value that reaches a result without any Op: a float's NaN becomes canonical, and FTZ is applied (R245). -/
def redLone (f : LaneFields) (ty x : Nat) : Nat × AFlags :=
  if isFloatTy ty then
    let v := fread (fmtOfTy ty) (ftzOf f) x
    ((roundVal (fmtOfTy ty) 0 false v).1, snanFlag [v])
  else (x, 0)

/-- One level of the tree of R245. -/
def redLevel (f : LaneFields) (ty op : Nat) : List (Option Nat) → List (Option Nat) × AFlags
  | x :: y :: rest =>
    let r := redLevel f ty op rest
    match x, y with
    | some a, some b =>
      let o := redOp f ty op a b
      (some o.1 :: r.1, o.2 ||| r.2)
    | some a, none => (some a :: r.1, r.2)
    | none, b => (b :: r.1, r.2)
  | l => (l, 0)

/-- The levels of the tree. -/
def redTree (f : LaneFields) (ty op : Nat) : Nat → List (Option Nat) → AFlags → Option Nat × AFlags
  | 0, l, fl => (l.headD none, fl)
  | n + 1, l, fl =>
    let r := redLevel f ty op l
    redTree f ty op n r.1 (fl ||| r.2)

/-- `redx` (R245): the operands enter the tree as values that R245 has read. -/
def execRedx (f : LaneFields) (s : State) : Out :=
  laneInstr (.redx f) s fun e =>
    let ty := e.ty
    let leaf (L : Nat) : Option (Nat × AFlags) := if laneIn e.ex L then some (redLone f ty (srcA e e.rb L)) else none
    let leaves := (List.range 32).map leaf
    let r := redTree f ty (famOf f) 5 (leaves.map (·.map (·.1))) (orFlags (leaves.map fun x => (x.map (·.2)).getD 0))
    let v := r.1.getD (redId ty (famOf f))
    let w : Word := if ty = 1 then toWord (sext 32 v) else BitVec.ofNat 64 v
    laneScalar (.redx f) e w r.2

/-- The prefix results of R246 over the executing lanes: lane, result and flags. -/
def scanGo (f : LaneFields) (ty op : Nat) (excl : Bool) : Option Nat → List (Nat × Nat × AFlags) → List (Nat × Nat × AFlags)
  | _, [] => []
  | acc, (L, a, fa) :: rest =>
    let next : Nat × AFlags := match acc with
      | none => (a, fa)
      | some x => ((redOp f ty op x a).1, (redOp f ty op x a).2 ||| fa)
    let r := if excl then acc.getD (redId ty op) else next.1
    (L, r, next.2) :: scanGo f ty op excl (some next.1) rest

/-- `scan` (R246). -/
def execScan (f : LaneFields) (s : State) : Out :=
  laneInstr (.scan f) s fun e =>
    let ty := e.ty
    let ins := (lanesOf e.ex).map fun L => (L, redLone f ty (srcA e e.rb L))
    let outs := scanGo f ty (famOf f % 4) (f.fam.getLsbD 2) none ins
    laneResultF (.scan f) e e.rb fun L =>
      match outs.find? (·.1 == L) with
      | some r => r.2
      | none => (0, 0)

/-- Order of two register values for `cmpx` (R247): floats order −∞ … −0, +0 … +∞, NaN. -/
def cmpxLe (ty a b : Nat) : Bool :=
  if isFloatTy ty then
    let x := fdecode (fmtOfTy ty) a
    let y := fdecode (fmtOfTy ty) b
    if isNaN y then true else if isNaN x then false else cmpVal x y ≤ 0
  else rdInt ty a ≤ rdInt ty b

/-- `cmpx` (R247). -/
def execCmpx (f : LaneFields) (s : State) : Out :=
  laneInstr (.cmpx f) s fun e =>
    let ty := e.ty
    laneResultF (.cmpx f) e e.rb fun L =>
      let q := L ^^^ (srcB32 e L % 32)
      let a := redLone f ty (srcA e e.rb L)
      if q = L ∨ laneIn e.ex q = false then a
      else
        let b := redLone f ty (srcA e e.rb q)
        let lo := if cmpxLe ty a.1 b.1 then a.1 else b.1
        let hi := if cmpxLe ty a.1 b.1 then b.1 else a.1
        (if decide (L < q) != f.fam.getLsbD 0 then lo else hi, a.2 ||| b.2)

/-! ### Index registers (R248) -/

/-- `xset` (R248). -/
def execXset (f : LaneFields) (s : State) : Out :=
  laneInstr (.xset f) s fun e => laneIndex (.xset f) e fun L => BitVec.ofNat 32 (srcB32 e L)

/-- `xadd` (R248). -/
def execXadd (f : LaneFields) (s : State) : Out :=
  laneInstr (.xadd f) s fun e =>
    laneIndex (.xadd f) e fun L => xOf e.st (f.dst.toNat % 4) L + BitVec.ofNat 32 (srcB32 e L)

/-- `xget` (R248). -/
def execXget (f : LaneFields) (s : State) : Out :=
  laneInstr (.xget f) s fun e => laneResult (.xget f) e 32 (fun L => (xOf e.st (srcCode f.sa % 4) L).toNat) 0

end Sys2Proof.Machine
end

