-- ==== Sys2Proof/Decode.lean ====
section
/-!
DEFINITION. The decoder of scalar words and lane instructions, total on any bytes and rejecting with the ILL sub-cause
of R187, and the encoder written from the same formats (R14, R165, R169, R188, R190).
-/
namespace Sys2Proof

/-- The field of `n` bits from bit `lo` up. -/
def fld (w : W32) (lo n : Nat) : BitVec n := w.extractLsb' lo n

/-- An instruction whose must-be-zero bits are given: sub-cause 0x03, or a lower one of its own fields, when they are
not zero (R187). -/
def accept (mbz : W32) (i : Instr) : Except Nat Instr :=
  if mbz = 0#32 then .ok i
  else match illSub i with
    | some k => .error (if k ≤ 0x03 then k else 0x03)
    | none => .error 0x03

/-- The scalar instruction of word `w0`, with `w1` the word at the next address, read by an SX instruction only
(R14, R188). The error is the sub-cause of ILL. -/
def decodeScalar (w0 w1 : W32) : Except Nat Instr :=
  match (fld w0 26 6).toNat with
  | 0x01 =>
    match (fld w0 0 8).toNat with
    | 0 => .ok (.sadd (fld w0 20 6) (fld w0 14 6) (fld w0 8 6))
    | 1 => .ok (.ssub (fld w0 20 6) (fld w0 14 6) (fld w0 8 6))
    | 2 => .ok (.smul (fld w0 20 6) (fld w0 14 6) (fld w0 8 6))
    | 3 => .ok (.smulh (fld w0 20 6) (fld w0 14 6) (fld w0 8 6))
    | 4 => .ok (.smulhn (fld w0 20 6) (fld w0 14 6) (fld w0 8 6))
    | 5 => .ok (.sand (fld w0 20 6) (fld w0 14 6) (fld w0 8 6))
    | 6 => .ok (.sor (fld w0 20 6) (fld w0 14 6) (fld w0 8 6))
    | 7 => .ok (.sxor (fld w0 20 6) (fld w0 14 6) (fld w0 8 6))
    | 8 => .ok (.sshl (fld w0 20 6) (fld w0 14 6) (fld w0 8 6))
    | 9 => .ok (.sshr (fld w0 20 6) (fld w0 14 6) (fld w0 8 6))
    | 10 => .ok (.ssra (fld w0 20 6) (fld w0 14 6) (fld w0 8 6))
    | 11 => .ok (.smin (fld w0 20 6) (fld w0 14 6) (fld w0 8 6))
    | 12 => .ok (.smax (fld w0 20 6) (fld w0 14 6) (fld w0 8 6))
    | 13 => .ok (.sminn (fld w0 20 6) (fld w0 14 6) (fld w0 8 6))
    | 14 => .ok (.smaxn (fld w0 20 6) (fld w0 14 6) (fld w0 8 6))
    | 15 => .ok (.sdiv (fld w0 20 6) (fld w0 14 6) (fld w0 8 6))
    | 16 => .ok (.sdivn (fld w0 20 6) (fld w0 14 6) (fld w0 8 6))
    | 17 => .ok (.srem (fld w0 20 6) (fld w0 14 6) (fld w0 8 6))
    | 18 => .ok (.sremn (fld w0 20 6) (fld w0 14 6) (fld w0 8 6))
    | 19 => accept (w0 &&& 0x00003F00#32) (.sclz (fld w0 20 6) (fld w0 14 6))
    | 20 => accept (w0 &&& 0x00003F00#32) (.spop (fld w0 20 6) (fld w0 14 6))
    | 21 => .ok (.saffx (fld w0 20 6) (fld w0 14 6) (fld w0 8 6))
    | 22 => .ok (.saffy (fld w0 20 6) (fld w0 14 6) (fld w0 8 6))
    | 23 => .ok (.saffz (fld w0 20 6) (fld w0 14 6) (fld w0 8 6))
    | _ => .error 0x02
  | 0x02 => .ok (.saddi (fld w0 20 6) (fld w0 14 6) (fld w0 0 14))
  | 0x03 => .ok (.sandi (fld w0 20 6) (fld w0 14 6) (fld w0 0 14))
  | 0x04 => .ok (.sori (fld w0 20 6) (fld w0 14 6) (fld w0 0 14))
  | 0x05 => .ok (.sxori (fld w0 20 6) (fld w0 14 6) (fld w0 0 14))
  | 0x06 => accept (w0 &&& 0x00003FC0#32) (.sshli (fld w0 20 6) (fld w0 14 6) (fld w0 0 6))
  | 0x07 => accept (w0 &&& 0x00003FC0#32) (.sshri (fld w0 20 6) (fld w0 14 6) (fld w0 0 6))
  | 0x08 => accept (w0 &&& 0x00003FC0#32) (.ssrai (fld w0 20 6) (fld w0 14 6) (fld w0 0 6))
  | 0x09 => .ok (.smuli (fld w0 20 6) (fld w0 14 6) (fld w0 0 14))
  | 0x0A =>
    if w0.getLsbD 0 then accept (w0 &&& 0x000FFFFE#32) (.sliHi (fld w0 20 6) w1)
    else accept (w0 &&& 0x000FFFFE#32) (.sli (fld w0 20 6) w1)
  | 0x0B => accept (w0 &&& 0x038000F0#32) (.scmp (fld w0 20 3) (fld w0 14 6) (fld w0 8 6) (fld w0 0 4))
  | 0x0C => .ok (.scmpi (fld w0 23 3) (fld w0 20 3) (fld w0 14 6) (fld w0 0 14))
  | 0x0D => accept (w0 &&& 0x000000F8#32) (.ssel (fld w0 20 6) (fld w0 14 6) (fld w0 8 6) (fld w0 0 3))
  | 0x0E =>
    match (fld w0 0 8).toNat with
    | 0 => accept (w0 &&& 0x038E3800#32) (.copAnd (fld w0 20 3) (fld w0 14 3) (fld w0 8 3))
    | 1 => accept (w0 &&& 0x038E3800#32) (.copOr (fld w0 20 3) (fld w0 14 3) (fld w0 8 3))
    | 2 => accept (w0 &&& 0x038E3800#32) (.copXor (fld w0 20 3) (fld w0 14 3) (fld w0 8 3))
    | 3 => accept (w0 &&& 0x038E3800#32) (.copAndn (fld w0 20 3) (fld w0 14 3) (fld w0 8 3))
    | 4 => accept (w0 &&& 0x038E3F00#32) (.copNot (fld w0 20 3) (fld w0 14 3))
    | 5 => accept (w0 &&& 0x038FFF00#32) (.copSet (fld w0 20 3))
    | 6 => accept (w0 &&& 0x038FFF00#32) (.copClr (fld w0 20 3))
    | 7 => accept (w0 &&& 0x038E3F00#32) (.copMov (fld w0 20 3) (fld w0 14 3))
    | _ => .error 0x02
  | 0x0F => accept (w0 &&& 0x00003F00#32) (.sform (fld w0 20 6) (fld w0 14 6) (fld w0 0 8))
  | 0x10 => .ok (.sld (fld w0 20 6) (fld w0 14 6) (fld w0 12 2) (fld w0 11 1) (fld w0 9 2) (fld w0 0 9))
  | 0x11 => accept (w0 &&& 0x00000800#32) (.sst (fld w0 20 6) (fld w0 14 6) (fld w0 12 2) (fld w0 9 2) (fld w0 0 9))
  | 0x12 => .ok (.satom (fld w0 20 6) (fld w0 14 6) (fld w0 8 6) (fld w0 7 1) (fld w0 4 3) (fld w0 0 4))
  | 0x13 => accept (w0 &&& 0x03F000E0#32) (.cmo (fld w0 14 6) (fld w0 8 6) (fld w0 2 3) (fld w0 0 2))
  | 0x14 =>
    match (fld w0 0 8).toNat with
    | 0 => accept (w0 &&& 0x03803F00#32) (.kset (fld w0 20 3) (fld w0 14 6))
    | 1 =>
      if w0.getLsbD 8 then accept (w0 &&& 0x00003E00#32) (.kgetSet (fld w0 20 6) (fld w0 14 6))
      else accept (w0 &&& 0x00003E00#32) (.kget (fld w0 20 6) (fld w0 14 6))
    | 2 => accept (w0 &&& 0x03800000#32) (.krev (fld w0 20 3) (fld w0 14 6) (fld w0 8 6))
    | 3 => accept (w0 &&& 0x03F00000#32) (.kdrop (fld w0 14 6) (fld w0 8 6))
    | _ => .error 0x02
  | 0x15 =>
    match (fld w0 0 8).toNat with
    | 0 => .ok (.barArv (fld w0 20 6) (fld w0 14 6) (fld w0 8 6))
    | 1 => accept (w0 &&& 0x03F00000#32) (.barWt (fld w0 14 6) (fld w0 8 6))
    | 2 => accept (w0 &&& 0x03F00000#32) (.barArw (fld w0 14 6) (fld w0 8 6))
    | 3 => accept (w0 &&& 0x03F00000#32) (.barInit (fld w0 14 6) (fld w0 8 6))
    | _ => .error 0x02
  | 0x16 =>
    match (fld w0 0 2).toNat with
    | 0 => accept (w0 &&& 0x000FFFE0#32) (.hbarArv (fld w0 20 6) (fld w0 2 3))
    | 1 => accept (w0 &&& 0x03F03FE0#32) (.hbarWt (fld w0 14 6) (fld w0 2 3))
    | 2 => accept (w0 &&& 0x03FFFFE0#32) (.hbarArw (fld w0 2 3))
    | _ => .error 0x02
  | 0x17 => accept (w0 &&& 0x03FFFFE0#32) (.fence (fld w0 3 2) (fld w0 0 3))
  | 0x18 => .ok (.br (fld w0 23 3) (fld w0 22 1) (fld w0 0 22))
  | 0x19 => .ok (.call (fld w0 23 3) (fld w0 22 1) (fld w0 0 22))
  | 0x1A => accept (w0 &&& 0x03F03FFF#32) (.jmp (fld w0 14 6))
  | 0x1B => accept (w0 &&& 0x03FFFFFF#32) (.ret)
  | 0x1C => accept (w0 &&& 0x03FFFFFF#32) (.lx w1)
  | 0x1D => accept (w0 &&& 0x03FFFFFF#32) (.exit)
  | 0x1E => if (fld w0 2 6) != 0#6 then .error 0x02 else accept (w0 &&& 0x03F03F00#32) (.wait (fld w0 14 6) (fld w0 0 2))
  | 0x1F => accept (w0 &&& 0x03FFFFFF#32) (.trapf)
  | 0x20 => accept (w0 &&& 0x03E00000#32) (.jtok (fld w0 0 21))
  | 0x21 => .ok (.dvg (fld w0 23 3) (fld w0 22 1) (fld w0 21 1) (fld w0 0 21))
  | 0x22 => accept (w0 &&& 0x03FFFFFF#32) (.nxt)
  | 0x23 => accept (w0 &&& 0x03E00000#32) (.lpb (fld w0 0 21))
  | 0x24 => .ok (.lpe (fld w0 23 3) (fld w0 22 1) (fld w0 21 1) (fld w0 0 21))
  | 0x25 => accept (w0 &&& 0x001FFFFF#32) (.brk (fld w0 23 3) (fld w0 22 1) (fld w0 21 1))
  | 0x26 => accept (w0 &&& 0x03FFFFFF#32) (.seat)
  | 0x27 => accept (w0 &&& 0x03FFFFFF#32) (.unseat)
  | 0x28 => accept (w0 &&& 0x03FFF800#32) (.sjoin (fld w0 0 11))
  | 0x29 => accept (w0 &&& 0x03FFFFF8#32) (.qfence (fld w0 0 3))
  | 0x2A =>
    if w0.getLsbD 0 then accept (w0 &&& 0x03F03FFE#32) (.snoozeAbs (fld w0 14 6))
    else accept (w0 &&& 0x03F03FFE#32) (.snooze (fld w0 14 6))
  | 0x30 => accept (w0 &&& 0x00000080#32) (.mma (fld w0 20 6) (fld w0 14 6) (fld w0 8 6) (fld w0 0 7))
  | 0x31 => accept (w0 &&& 0x00000080#32) (.mgath (fld w0 20 6) (fld w0 14 6) (fld w0 8 6) (fld w0 0 7))
  | 0x32 => accept (w0 &&& 0x038FFFFE#32) (.mzero (fld w0 20 3) (fld w0 0 1))
  | 0x33 => accept (w0 &&& 0x03803FC0#32) (.mdrain (fld w0 20 3) (fld w0 14 6) (fld w0 0 6))
  | 0x34 => accept (w0 &&& 0x038FFFFE#32) (.mcommit (fld w0 20 3) (fld w0 0 1))
  | 0x35 => accept (w0 &&& 0x03F03FFF#32) (.mfence (fld w0 14 6))
  | 0x36 => accept (w0 &&& 0x00003FFF#32) (.mwait (fld w0 20 6) (fld w0 14 6))
  | 0x37 => accept (w0 &&& 0x038000F0#32) (.cpy (fld w0 20 3) (fld w0 14 6) (fld w0 8 6) (fld w0 0 4))
  | 0x38 => accept (w0 &&& 0x03F03F80#32) (.coll (fld w0 14 6) (fld w0 5 2) (fld w0 2 3) (fld w0 0 2))
  | 0x39 =>
    if w0.getLsbD 0 then accept (w0 &&& 0x000000FE#32) (.rbegStrict (fld w0 8 18))
    else accept (w0 &&& 0x000000FE#32) (.rbeg (fld w0 8 18))
  | 0x3A => accept (w0 &&& 0x03FFFFFF#32) (.rend)
  | 0x3B => accept (w0 &&& 0x03FFFF00#32) (.rabt (fld w0 0 8))
  | 0x3C =>
    match (fld w0 0 8).toNat with
    | 0 => accept (w0 &&& 0x000FFF00#32) (.rnarLo (fld w0 20 6))
    | 1 => accept (w0 &&& 0x000FFF00#32) (.rnarHi (fld w0 20 6))
    | 2 => accept (w0 &&& 0x03F00000#32) (.rnarNarrow (fld w0 14 6) (fld w0 8 6))
    | _ => .error 0x02
  | 0x3E =>
    match (fld w0 0 8).toNat with
    | 0 => accept (w0 &&& 0x03FFFF00#32) (.nop)
    | 1 => accept (w0 &&& 0x000FFF00#32) (.trap (fld w0 20 6))
    | 2 => accept (w0 &&& 0x00003F00#32) (.srd (fld w0 20 6) (fld w0 14 6))
    | 3 => accept (w0 &&& 0x03F00000#32) (.swr (fld w0 14 6) (fld w0 8 6))
    | 4 => .ok (.dlaunch (fld w0 20 6) (fld w0 14 6) (fld w0 8 6))
    | _ => .error 0x02
  | _ => .error 0x01

/-- Whether a scalar word is the first of an SX instruction, which has an immediate word (R165). -/
def isSX (w0 : W32) : Bool := (fld w0 26 6).toNat == 0x0A || (fld w0 26 6).toNat == 0x1C

/-- The fields of a 96-bit lane instruction (R169). -/
def laneFieldsOf (w : BitVec 96) : LaneFields :=
  { gn := w.extractLsb' 85 1
    gp := w.extractLsb' 82 3
    dst := w.extractLsb' 74 8
    sa := w.extractLsb' 64 10
    sb := w.extractLsb' 54 10
    sc := w.extractLsb' 44 10
    ty := w.extractLsb' 40 4
    i := w.extractLsb' 39 1
    rnd := w.extractLsb' 37 2
    ftz := w.extractLsb' 36 1
    fam := w.extractLsb' 33 3
    t := w.extractLsb' 32 1
    imm := w.extractLsb' 0 32 }

/-- The lane instruction whose OP is given (R190). -/
def laneOfOp (op : Nat) (f : LaneFields) : Except Nat Instr :=
  match op with
  | 0x000 => .ok (.iadd f)
  | 0x001 => .ok (.isub f)
  | 0x002 => .ok (.imul f)
  | 0x003 => .ok (.imulh f)
  | 0x004 => .ok (.imad f)
  | 0x005 => .ok (.iabs f)
  | 0x006 => .ok (.ineg f)
  | 0x007 => .ok (.imin f)
  | 0x008 => .ok (.imax f)
  | 0x009 => .ok (.land f)
  | 0x00A => .ok (.lor f)
  | 0x00B => .ok (.lxor f)
  | 0x00C => .ok (.lnot f)
  | 0x00D => .ok (.andn f)
  | 0x00E => .ok (.shl f)
  | 0x00F => .ok (.shr f)
  | 0x010 => .ok (.sra f)
  | 0x011 => .ok (.rotl f)
  | 0x012 => .ok (.bfx f)
  | 0x013 => .ok (.bfi f)
  | 0x014 => .ok (.clz f)
  | 0x015 => .ok (.popc f)
  | 0x016 => .ok (.brev f)
  | 0x017 => .ok (.icmp f)
  | 0x018 => .ok (.sel f)
  | 0x019 => .ok (.dot4 f)
  | 0x040 => .ok (.fadd f)
  | 0x041 => .ok (.fsub f)
  | 0x042 => .ok (.fmul f)
  | 0x043 => .ok (.ffma f)
  | 0x044 => .ok (.fmin f)
  | 0x045 => .ok (.fmax f)
  | 0x046 => .ok (.fabs f)
  | 0x047 => .ok (.fneg f)
  | 0x048 => .ok (.fcmp f)
  | 0x049 => .ok (.frcp f)
  | 0x04A => .ok (.frsq f)
  | 0x04B => .ok (.fsqrt f)
  | 0x04C => .ok (.fdiv f)
  | 0x04D => .ok (.fex2 f)
  | 0x04E => .ok (.flg2 f)
  | 0x04F => .ok (.fsin f)
  | 0x050 => .ok (.fcos f)
  | 0x051 => .ok (.fclass f)
  | 0x052 => .ok (.fcpsgn f)
  | 0x053 => .ok (.ftrunc f)
  | 0x054 => .ok (.fldx f)
  | 0x080 => .ok (.mov f)
  | 0x081 => .ok (.movi f)
  | 0x082 => .ok (.cvt f)
  | 0x083 => .ok (.pack2 f)
  | 0x084 => .ok (.unpk f)
  | 0x085 => .ok (.tdec f)
  | 0x086 => .ok (.tenc f)
  | 0x087 => .ok (.lea f)
  | 0x0C0 => .ok (.pset f)
  | 0x0C1 => .ok (.pmov f)
  | 0x0C2 => .ok (.shfl f)
  | 0x0C3 => .ok (.bcast f)
  | 0x0C4 => .ok (.vote f)
  | 0x0C5 => .ok (.redx f)
  | 0x0C6 => .ok (.scan f)
  | 0x0C7 => .ok (.firstLane f)
  | 0x0C8 => .ok (.perm f)
  | 0x0C9 => .ok (.cmpx f)
  | 0x100 => .ok (.ld f)
  | 0x101 => .ok (.st f)
  | 0x102 => .ok (.stk f)
  | 0x103 => .ok (.prf f)
  | 0x140 => .ok (.atom f)
  | 0x141 => .ok (.red f)
  | 0x142 => .ok (.cas f)
  | 0x143 => .ok (.cacc f)
  | 0x180 => .ok (.xset f)
  | 0x181 => .ok (.xadd f)
  | 0x182 => .ok (.xget f)
  | _ => .error 0x01

/-- The lane instruction of 96 bits (R169, R190). -/
def decodeLane (w : BitVec 96) : Except Nat Instr :=
  laneOfOp (w.extractLsb' 86 10).toNat (laneFieldsOf w)

/-- The 32-bit word at the head of a list of bytes, least significant byte first (R9). -/
def wordOfBytes (bs : List Byte) : W32 := BitVec.ofNat 32 (ofLeBytes (bs.take 4))

/-- The scalar instruction whose bytes stand at ascending addresses (R14). -/
def decodeScalarBytes (bs : List Byte) : Except Nat Instr :=
  decodeScalar (wordOfBytes bs) (wordOfBytes (bs.drop 4))

/-- The lane instruction whose twelve bytes stand at ascending addresses (R14). -/
def decodeLaneBytes (bs : List Byte) : Except Nat Instr :=
  decodeLane (wordOfBytes (bs.drop 8) ++ wordOfBytes (bs.drop 4) ++ wordOfBytes bs)

/-- The instruction the decoder reads from `nbits` bits numbered as the opcode table numbers them. -/
def decodeTableWord (nbits w : Nat) : Option Instr :=
  if nbits ≤ 64 then (decodeScalarBytes (leBytes 8 (w % 2 ^ nbits))).toOption
  else (decodeLaneBytes (leBytes 12 (w % 2 ^ nbits))).toOption

/-- The 96 bits of a lane instruction (R169). -/
def laneBits (op : BitVec 10) (f : LaneFields) : BitVec 96 :=
  op ++ f.gn ++ f.gp ++ f.dst ++ f.sa ++ f.sb ++ f.sc ++ f.ty ++ f.i ++ f.rnd ++ f.ftz ++ f.fam ++ f.t ++ f.imm

/-- The three words of a lane instruction in address order (R14). -/
def laneWords (op : BitVec 10) (f : LaneFields) : List W32 :=
  let b := laneBits op f
  [b.extractLsb' 0 32, b.extractLsb' 32 32, b.extractLsb' 64 32]

/-- The words of an instruction in address order, from the formats of R165 and R169; a hardware event has none. -/
def encode : Instr → Option (List W32)
  | .sadd d a b => some [0x01#6 ++ d ++ a ++ b ++ 0#8]
  | .ssub d a b => some [0x01#6 ++ d ++ a ++ b ++ 1#8]
  | .smul d a b => some [0x01#6 ++ d ++ a ++ b ++ 2#8]
  | .smulh d a b => some [0x01#6 ++ d ++ a ++ b ++ 3#8]
  | .smulhn d a b => some [0x01#6 ++ d ++ a ++ b ++ 4#8]
  | .sand d a b => some [0x01#6 ++ d ++ a ++ b ++ 5#8]
  | .sor d a b => some [0x01#6 ++ d ++ a ++ b ++ 6#8]
  | .sxor d a b => some [0x01#6 ++ d ++ a ++ b ++ 7#8]
  | .sshl d a b => some [0x01#6 ++ d ++ a ++ b ++ 8#8]
  | .sshr d a b => some [0x01#6 ++ d ++ a ++ b ++ 9#8]
  | .ssra d a b => some [0x01#6 ++ d ++ a ++ b ++ 10#8]
  | .smin d a b => some [0x01#6 ++ d ++ a ++ b ++ 11#8]
  | .smax d a b => some [0x01#6 ++ d ++ a ++ b ++ 12#8]
  | .sminn d a b => some [0x01#6 ++ d ++ a ++ b ++ 13#8]
  | .smaxn d a b => some [0x01#6 ++ d ++ a ++ b ++ 14#8]
  | .sdiv d a b => some [0x01#6 ++ d ++ a ++ b ++ 15#8]
  | .sdivn d a b => some [0x01#6 ++ d ++ a ++ b ++ 16#8]
  | .srem d a b => some [0x01#6 ++ d ++ a ++ b ++ 17#8]
  | .sremn d a b => some [0x01#6 ++ d ++ a ++ b ++ 18#8]
  | .sclz d a => some [0x01#6 ++ d ++ a ++ 19#14]
  | .spop d a => some [0x01#6 ++ d ++ a ++ 20#14]
  | .saffx d a b => some [0x01#6 ++ d ++ a ++ b ++ 21#8]
  | .saffy d a b => some [0x01#6 ++ d ++ a ++ b ++ 22#8]
  | .saffz d a b => some [0x01#6 ++ d ++ a ++ b ++ 23#8]
  | .saddi d a i => some [0x02#6 ++ d ++ a ++ i]
  | .sandi d a i => some [0x03#6 ++ d ++ a ++ i]
  | .sori d a i => some [0x04#6 ++ d ++ a ++ i]
  | .sxori d a i => some [0x05#6 ++ d ++ a ++ i]
  | .sshli d a i => some [0x06#6 ++ d ++ a ++ 0#8 ++ i]
  | .sshri d a i => some [0x07#6 ++ d ++ a ++ 0#8 ++ i]
  | .ssrai d a i => some [0x08#6 ++ d ++ a ++ 0#8 ++ i]
  | .smuli d a i => some [0x09#6 ++ d ++ a ++ i]
  | .sli d w => some [0x0A#6 ++ d ++ 0#6 ++ 0#14, w]
  | .sliHi d w => some [0x0A#6 ++ d ++ 0#6 ++ 1#14, w]
  | .scmp d a b c => some [0x0B#6 ++ 0#3 ++ d ++ a ++ b ++ 0#4 ++ c]
  | .scmpi c d a i => some [0x0C#6 ++ c ++ d ++ a ++ i]
  | .ssel d a b n => some [0x0D#6 ++ d ++ a ++ b ++ 0#5 ++ n]
  | .copAnd d a b => some [0x0E#6 ++ 0#3 ++ d ++ 0#3 ++ a ++ 0#3 ++ b ++ 0#8]
  | .copOr d a b => some [0x0E#6 ++ 0#3 ++ d ++ 0#3 ++ a ++ 0#3 ++ b ++ 1#8]
  | .copXor d a b => some [0x0E#6 ++ 0#3 ++ d ++ 0#3 ++ a ++ 0#3 ++ b ++ 2#8]
  | .copAndn d a b => some [0x0E#6 ++ 0#3 ++ d ++ 0#3 ++ a ++ 0#3 ++ b ++ 3#8]
  | .copNot d a => some [0x0E#6 ++ 0#3 ++ d ++ 0#3 ++ a ++ 4#14]
  | .copSet d => some [0x0E#6 ++ 0#3 ++ d ++ 5#20]
  | .copClr d => some [0x0E#6 ++ 0#3 ++ d ++ 6#20]
  | .copMov d a => some [0x0E#6 ++ 0#3 ++ d ++ 0#3 ++ a ++ 7#14]
  | .sform d a f => some [0x0F#6 ++ d ++ a ++ 0#6 ++ f]
  | .sld d a z g p o => some [0x10#6 ++ d ++ a ++ z ++ g ++ p ++ o]
  | .sst d a z p o => some [0x11#6 ++ d ++ a ++ z ++ 0#1 ++ p ++ o]
  | .satom d a b w s o => some [0x12#6 ++ d ++ a ++ b ++ w ++ s ++ o]
  | .cmo a b l k => some [0x13#6 ++ 0#6 ++ a ++ b ++ 0#3 ++ l ++ k]
  | .kset n a => some [0x14#6 ++ 0#3 ++ n ++ a ++ 0#14]
  | .kget d a => some [0x14#6 ++ d ++ a ++ 1#14]
  | .kgetSet d a => some [0x14#6 ++ d ++ a ++ 257#14]
  | .krev n a b => some [0x14#6 ++ 0#3 ++ n ++ a ++ b ++ 2#8]
  | .kdrop a b => some [0x14#6 ++ 0#6 ++ a ++ b ++ 3#8]
  | .barArv d a b => some [0x15#6 ++ d ++ a ++ b ++ 0#8]
  | .barWt a b => some [0x15#6 ++ 0#6 ++ a ++ b ++ 1#8]
  | .barArw a b => some [0x15#6 ++ 0#6 ++ a ++ b ++ 2#8]
  | .barInit a b => some [0x15#6 ++ 0#6 ++ a ++ b ++ 3#8]
  | .hbarArv d l => some [0x16#6 ++ d ++ 0#15 ++ l ++ 0#2]
  | .hbarWt a l => some [0x16#6 ++ 0#6 ++ a ++ 0#9 ++ l ++ 1#2]
  | .hbarArw l => some [0x16#6 ++ 0#21 ++ l ++ 2#2]
  | .fence k s => some [0x17#6 ++ 0#21 ++ k ++ s]
  | .br c n o => some [0x18#6 ++ c ++ n ++ o]
  | .call c n o => some [0x19#6 ++ c ++ n ++ o]
  | .jmp a => some [0x1A#6 ++ 0#6 ++ a ++ 0#14]
  | .ret => some [0x1B#6 ++ 0#26]
  | .lx w => some [0x1C#6 ++ 0#26, w]
  | .exit => some [0x1D#6 ++ 0#26]
  | .wait a p => some [0x1E#6 ++ 0#6 ++ a ++ 0#12 ++ p]
  | .trapf => some [0x1F#6 ++ 0#26]
  | .jtok o => some [0x20#6 ++ 0#5 ++ o]
  | .dvg k s n o => some [0x21#6 ++ k ++ s ++ n ++ o]
  | .nxt => some [0x22#6 ++ 0#26]
  | .lpb o => some [0x23#6 ++ 0#5 ++ o]
  | .lpe k s n o => some [0x24#6 ++ k ++ s ++ n ++ o]
  | .brk k s n => some [0x25#6 ++ k ++ s ++ n ++ 0#21]
  | .seat => some [0x26#6 ++ 0#26]
  | .unseat => some [0x27#6 ++ 0#26]
  | .sjoin w => some [0x28#6 ++ 0#15 ++ w]
  | .qfence q => some [0x29#6 ++ 0#23 ++ q]
  | .snooze a => some [0x2A#6 ++ 0#6 ++ a ++ 0#14]
  | .snoozeAbs a => some [0x2A#6 ++ 0#6 ++ a ++ 1#14]
  | .mma d a b f => some [0x30#6 ++ d ++ a ++ b ++ 0#1 ++ f]
  | .mgath d a b f => some [0x31#6 ++ d ++ a ++ b ++ 0#1 ++ f]
  | .mzero d f => some [0x32#6 ++ 0#3 ++ d ++ 0#19 ++ f]
  | .mdrain d a f => some [0x33#6 ++ 0#3 ++ d ++ a ++ 0#8 ++ f]
  | .mcommit d n => some [0x34#6 ++ 0#3 ++ d ++ 0#19 ++ n]
  | .mfence a => some [0x35#6 ++ 0#6 ++ a ++ 0#14]
  | .mwait d a => some [0x36#6 ++ d ++ a ++ 0#14]
  | .cpy n a b f => some [0x37#6 ++ 0#3 ++ n ++ a ++ b ++ 0#4 ++ f]
  | .coll a s t o => some [0x38#6 ++ 0#6 ++ a ++ 0#7 ++ s ++ t ++ o]
  | .rbeg o => some [0x39#6 ++ o ++ 0#8]
  | .rbegStrict o => some [0x39#6 ++ o ++ 1#8]
  | .rend => some [0x3A#6 ++ 0#26]
  | .rabt u => some [0x3B#6 ++ 0#18 ++ u]
  | .rnarLo d => some [0x3C#6 ++ d ++ 0#20]
  | .rnarHi d => some [0x3C#6 ++ d ++ 1#20]
  | .rnarNarrow a b => some [0x3C#6 ++ 0#6 ++ a ++ b ++ 2#8]
  | .nop => some [0x3E#6 ++ 0#26]
  | .trap n => some [0x3E#6 ++ n ++ 1#20]
  | .srd d r => some [0x3E#6 ++ d ++ r ++ 2#14]
  | .swr r b => some [0x3E#6 ++ 0#6 ++ r ++ b ++ 3#8]
  | .dlaunch d a b => some [0x3E#6 ++ d ++ a ++ b ++ 4#8]
  | .iadd f => some (laneWords 0x000#10 f)
  | .isub f => some (laneWords 0x001#10 f)
  | .imul f => some (laneWords 0x002#10 f)
  | .imulh f => some (laneWords 0x003#10 f)
  | .imad f => some (laneWords 0x004#10 f)
  | .iabs f => some (laneWords 0x005#10 f)
  | .ineg f => some (laneWords 0x006#10 f)
  | .imin f => some (laneWords 0x007#10 f)
  | .imax f => some (laneWords 0x008#10 f)
  | .land f => some (laneWords 0x009#10 f)
  | .lor f => some (laneWords 0x00A#10 f)
  | .lxor f => some (laneWords 0x00B#10 f)
  | .lnot f => some (laneWords 0x00C#10 f)
  | .andn f => some (laneWords 0x00D#10 f)
  | .shl f => some (laneWords 0x00E#10 f)
  | .shr f => some (laneWords 0x00F#10 f)
  | .sra f => some (laneWords 0x010#10 f)
  | .rotl f => some (laneWords 0x011#10 f)
  | .bfx f => some (laneWords 0x012#10 f)
  | .bfi f => some (laneWords 0x013#10 f)
  | .clz f => some (laneWords 0x014#10 f)
  | .popc f => some (laneWords 0x015#10 f)
  | .brev f => some (laneWords 0x016#10 f)
  | .icmp f => some (laneWords 0x017#10 f)
  | .sel f => some (laneWords 0x018#10 f)
  | .dot4 f => some (laneWords 0x019#10 f)
  | .fadd f => some (laneWords 0x040#10 f)
  | .fsub f => some (laneWords 0x041#10 f)
  | .fmul f => some (laneWords 0x042#10 f)
  | .ffma f => some (laneWords 0x043#10 f)
  | .fmin f => some (laneWords 0x044#10 f)
  | .fmax f => some (laneWords 0x045#10 f)
  | .fabs f => some (laneWords 0x046#10 f)
  | .fneg f => some (laneWords 0x047#10 f)
  | .fcmp f => some (laneWords 0x048#10 f)
  | .frcp f => some (laneWords 0x049#10 f)
  | .frsq f => some (laneWords 0x04A#10 f)
  | .fsqrt f => some (laneWords 0x04B#10 f)
  | .fdiv f => some (laneWords 0x04C#10 f)
  | .fex2 f => some (laneWords 0x04D#10 f)
  | .flg2 f => some (laneWords 0x04E#10 f)
  | .fsin f => some (laneWords 0x04F#10 f)
  | .fcos f => some (laneWords 0x050#10 f)
  | .fclass f => some (laneWords 0x051#10 f)
  | .fcpsgn f => some (laneWords 0x052#10 f)
  | .ftrunc f => some (laneWords 0x053#10 f)
  | .fldx f => some (laneWords 0x054#10 f)
  | .mov f => some (laneWords 0x080#10 f)
  | .movi f => some (laneWords 0x081#10 f)
  | .cvt f => some (laneWords 0x082#10 f)
  | .pack2 f => some (laneWords 0x083#10 f)
  | .unpk f => some (laneWords 0x084#10 f)
  | .tdec f => some (laneWords 0x085#10 f)
  | .tenc f => some (laneWords 0x086#10 f)
  | .lea f => some (laneWords 0x087#10 f)
  | .pset f => some (laneWords 0x0C0#10 f)
  | .pmov f => some (laneWords 0x0C1#10 f)
  | .shfl f => some (laneWords 0x0C2#10 f)
  | .bcast f => some (laneWords 0x0C3#10 f)
  | .vote f => some (laneWords 0x0C4#10 f)
  | .redx f => some (laneWords 0x0C5#10 f)
  | .scan f => some (laneWords 0x0C6#10 f)
  | .firstLane f => some (laneWords 0x0C7#10 f)
  | .perm f => some (laneWords 0x0C8#10 f)
  | .cmpx f => some (laneWords 0x0C9#10 f)
  | .ld f => some (laneWords 0x100#10 f)
  | .st f => some (laneWords 0x101#10 f)
  | .stk f => some (laneWords 0x102#10 f)
  | .prf f => some (laneWords 0x103#10 f)
  | .atom f => some (laneWords 0x140#10 f)
  | .red f => some (laneWords 0x141#10 f)
  | .cas f => some (laneWords 0x142#10 f)
  | .cacc f => some (laneWords 0x143#10 f)
  | .xset f => some (laneWords 0x180#10 f)
  | .xadd f => some (laneWords 0x181#10 f)
  | .xget f => some (laneWords 0x182#10 f)
  | _ => none

/-- The instruction the decoder reads from words in address order: three words are a lane instruction, one or two a
scalar one. -/
def decodeWords : List W32 → Option Instr
  | [w0] => (decodeScalar w0 0).toOption
  | [w0, w1] => (decodeScalar w0 w1).toOption
  | [w0, w1, w2] => (decodeLane (w2 ++ w1 ++ w0)).toOption
  | _ => none

end Sys2Proof
end

