-- ==== Sys2Proof/Machine/Coherence.lean ====
section
/-!
DEFINITION. Memory, the L2 lines and the hub directory: the physical map (R348), the hash (R64), the bytes of memory
under their keys (R392, R393), the coherent value of a line (R97, R368), reads and ownership (R368, R369), evictions
(R368, R377), poison (R374), and the hub's own physical accesses.
-/
namespace Sys2Proof.Machine
open Sys2Proof

/-! ### The physical map (R348) -/

/-- The line of a physical address. -/
def lineOf (pa : Nat) : Nat := pa / 128

/-- First address beyond HBM. -/
def hbmEnd : Nat := 0xC000000000

/-- Bytes of HBM behind one memory die. -/
def hbmDie : Nat := 0x1800000000

/-- The home die of a physical address (R63, R348). -/
def homeDie (pa : Nat) : Nat :=
  if pa < hbmEnd then pa / hbmDie
  else if 2 ^ 46 ≤ pa ∧ pa < 2 ^ 47 then pa / 2 ^ 43 % 8
  else 0

/-- Whether an address lies in HBM. -/
def isHbm (pa : Nat) : Bool := pa < hbmEnd

/-- Whether an address lies in second-tier memory. -/
def isTier2 (pa : Nat) : Bool := 2 ^ 46 ≤ pa && pa < 2 ^ 47

/-- Whether an address lies in the host window. -/
def isHostWin (pa : Nat) : Bool := 2 ^ 47 ≤ pa && pa < 2 ^ 48

/-- Bytes of second-tier memory behind one CXL port: an eighth of the 12,288 GB of R4, all of them populated (assumption 61). -/
def tier2Port : Nat := 1536 * 10 ^ 9

/-- Whether an address is backed: in a range of R348, for HBM behind a memory die whose stacks have trained (R384), for second-tier
memory within what stands behind its port (R4). -/
def backed (s : State) (pa : Nat) : Bool :=
  if isHbm pa then (mdieOf s (pa / hbmDie)).trained else (isTier2 pa && decide (pa % 2 ^ 43 < tier2Port)) || isHostWin pa

/-- Whether an address lies in the failed range of a memory die (R378). -/
def inFailedRange (s : State) (pa : Nat) : Bool := isHbm pa && (mdieOf s (pa / hbmDie)).failed

/-! ### The L2 hash (R64) -/

/-- The slice a physical address selects on a die. -/
def l2Slice (pa : Nat) : Nat :=
  bitsAt pa 7 5 ^^^ bitsAt pa 12 5 ^^^ bitsAt pa 17 5 ^^^ bitsAt pa 22 5 ^^^ bitsAt pa 27 5 ^^^ bitsAt pa 32 5
    ^^^ bitsAt pa 37 5 ^^^ bitsAt pa 42 5

/-- The set a physical address selects, the colour of its page (R391). -/
def l2Set (pa : Nat) : Nat := bitsAt pa 12 12 ^^^ bitsAt pa 24 12 ^^^ bitsAt pa 36 12

/-- The park directory's set of a line's address (R69). -/
def parkSet (pa : Nat) : Nat := bitsAt pa 7 20 ^^^ bitsAt pa 27 20 ^^^ bitsAt pa 47 1

/-! ### Bytes of memory -/

/-- One byte of memory; what nothing has written reads 0 (assumption 5). -/
def memByte (s : State) (a : Nat) : Byte := tabGet 0 s.mem.bytes a

/-- Writes bytes of memory from an address up, keeping the canonical form. -/
def putBytes : List Host.Cell → Nat → List Byte → List Host.Cell
  | m, _, [] => m
  | m, a, b :: bs => putBytes (tabSet 0 m a b) (a + 1) bs

/-- Whether a memory is in canonical form: addresses rise, and no entry holds what an unlisted address reads. -/
abbrev memWf (m : List Host.Cell) : Bool := tabWf (0 : Byte) m

/-- The bytes of memory of one line as stored. -/
def rawLine (s : State) (line : Nat) : LineData :=
  (s.mem.bytes.filter fun p => p.1 / 128 == line).foldl
    (fun (acc : LineData) p => acc ||| (p.2.setWidth 1024).shiftLeft (8 * (p.1 % 128))) (0 : LineData)

/-! ### The coherence order (R97) -/

/-- The place in coherence order that a write performed by this step takes: one more than the step counter. -/
def stampNow (s : State) : Nat := s.freeCtr + 1

/-- The places in coherence order of the bytes of a line. -/
def stampsOf (s : State) (line : Nat) : Tab Nat := tabGet [] s.coh.wstamp line

/-- Notes that `n` bytes of a line from an offset are written now. -/
def stampWrite (s : State) (line off n : Nat) : State :=
  { s with coh := { s.coh with wstamp := tabSet [] s.coh.wstamp line (stampTab (stampsOf s line) off n (stampNow s)) } }

/-- `n` bytes of a line from an offset, as a number. -/
def lineGet (d : LineData) (off n : Nat) : Nat := d.toNat / 2 ^ (8 * off) % 2 ^ (8 * n)

/-- A line with `n` bytes from an offset replaced. -/
def linePut (d : LineData) (off n v : Nat) : LineData :=
  let x := d.toNat
  BitVec.ofNat 1024 (x % 2 ^ (8 * off) + v % 2 ^ (8 * n) * 2 ^ (8 * off) + x / 2 ^ (8 * (off + n)) * 2 ^ (8 * (off + n)))

/-- Stores a whole line in memory, and notes the generation of the key it is written under (R393). -/
def memPutLine (s : State) (line : Nat) (d : LineData) (gen : Nat) : State :=
  { s with mem := { s.mem with
      bytes := putBytes s.mem.bytes (128 * line) (leBytes 128 d.toNat)
      written := tabSet 0 s.mem.written line gen } }

/-- The generation loaded in a key slot; 0 when it is empty (R392). -/
def keyGenOf (s : State) (key : Nat) : Nat := tabGet 0 s.keys key

/-- Whether a line is marked poisoned in memory (R374, R375): whatever holds it, no access gets its data, until a store of the host
repairs it (R354; assumption 47). -/
def poisoned (s : State) (line : Nat) : Bool := s.mem.poison.contains line

/-- What a read of a line yields: its data, or poison with the sub-cause of R351. -/
inductive LineRes where
  | data (d : LineData)
  | poison (sub : Nat)
  deriving DecidableEq, Repr

/-- Whether an access under a key meets an empty slot, whatever holds the line (R392): the host window has no key, and a failed range
answers for itself (R378; assumption 52). -/
def slotEmpty (s : State) (pa key : Nat) : Bool := keyGenOf s key == 0 && !isHostWin pa && !inFailedRange s pa

/-- A line of memory read under a key: poisoned lines, failed ranges and empty slots give poison (R374, R378, R392); a
line written under another generation reads as a free value (R393). -/
def memLine (s : State) (line key : Nat) : LineRes :=
  if inFailedRange s (128 * line) then .poison 0x03
  else if poisoned s line then .poison 0x01
  else if isHostWin (128 * line) then .data (rawLine s line)
  else if keyGenOf s key = 0 then .poison 0x01
  else
    let g := tabGet 0 s.mem.written line
    if g = 0 ∨ g = keyGenOf s key then .data (rawLine s line)
    else .data (BitVec.ofNat 1024 (ofLeBytes ((List.range 128).map fun k =>
      Config.decryptOther (memByte s (128 * line + k)) g (keyGenOf s key) (128 * line + k))))

/-! ### L2 lines and the directory -/

/-- The line a die's L2 holds. -/
def l2At (s : State) (die line : Nat) : Option L2Line := s.coh.l2.find? fun l => l.die == die && l.line == line

/-- The dirty holder of a line, if a die has it M or O (R368). -/
def l2Owner (s : State) (line : Nat) : Option L2Line :=
  s.coh.l2.find? fun l => l.line == line && (l.st == .m || l.st == .o)

/-- The home package of a line plus one: lines from 2^41 up are other packages' (assumption 22). -/
def lineHome (line : Nat) : Nat := line / 2 ^ 41

/-- Any holder of a line. -/
def l2Any (s : State) (line : Nat) : Option L2Line := s.coh.l2.find? fun l => l.line == line

/-- The locket of a line. -/
def locketAt (s : State) (line : Nat) : Option Locket := s.coh.lockets.find? fun l => l.line == line

/-- Whether the directory does not know a line (R375). -/
def lineUnknown (s : State) (line : Nat) : Bool := s.coh.ulines.any fun u => u.line == line

/-- The write-back of a line that has not reached its home (R376, R377). -/
def wbAt (s : State) (line : Nat) : Option WBack := s.coh.wbacks.find? fun w => w.held.line == line

/-- A line without its write-back. -/
def dropWb (s : State) (line : Nat) : State :=
  { s with coh := { s.coh with wbacks := s.coh.wbacks.filter fun w => w.held.line != line } }

/-- Whether an L2 keeps a line as a read-only copy of a failed range (R378). -/
def roLine (s : State) (line : Nat) : Bool := s.coh.l2.any fun l => l.line == line && l.ro

/-- Whether another package owns a line of this one (R370). -/
def remoteOwned (s : State) (line : Nat) : Bool := s.coh.remote.any fun r => r.line == line && r.owned

/-- The key of a line that the host or another package asks for: that of the slice, the parking point or the write-back buffer that
holds it, otherwise a slot of the generation it was last written under, and 0 where none holds that (R392; assumption 19). -/
def lineKey (s : State) (line : Nat) : Nat :=
  match locketAt s line, l2Any s line, wbAt s line with
  | some k, _, _ => k.key
  | _, some l, _ => l.key
  | _, _, some w => w.held.key
  | _, _, _ =>
    let g := tabGet 0 s.mem.written line
    if g = 0 then 0 else ((s.keys.find? fun p => p.2 == g).map (·.1)).getD 0

/-- The directory's view of a line (R368): the state letter's position in I S E M O P U, the owner die, and the mask of
dies that hold copies. The die of a write-back under way is still the owner (R377). -/
def dirView (s : State) (line : Nat) : Nat × Nat × BitVec 8 :=
  let holders := s.coh.l2.filter fun l => l.line == line
  let mask : BitVec 8 := BitVec.ofNat 8 ((List.range 8).foldl
    (fun m d => if holders.any (·.die == d) then m + 2 ^ d else m) 0)
  if lineUnknown s line then (6, 0, mask)
  else if (locketAt s line).isSome then (5, 0, mask)
  else
    match l2Owner s line, wbAt s line, holders with
    | some o, _, _ => (if o.st = .o then 4 else 3, o.die, mask)
    | none, some w, [] => (3, w.held.die, mask)
    | none, some w, _ => (4, w.held.die, mask)
    | none, none, [] => (0, 0, mask)
    | none, none, h :: _ => (if h.st = .e then 2 else 1, h.die, mask)

/-- The data of a line that something on chip has newer than memory or as memory has it: the parking point, the dirty holder, a
write-back under way, or the die that holds it alone (R97, R368, R377). -/
def chipLine (s : State) (line : Nat) : Option LineData :=
  match locketAt s line, l2Owner s line, wbAt s line, l2Any s line with
  | some k, _, _, _ => some k.data
  | _, some l, _, _ => some l.data
  | _, _, some w, _ => some w.held.data
  | _, _, _, some l => some l.data
  | _, _, _, _ => none

/-- The coherent value of a line: what the chip has of it, or memory's (R97, R368). -/
def coherentLine (s : State) (line key : Nat) : LineRes :=
  if poisoned s line then .poison 0x01
  else
    match chipLine s line with
    | some d => .data d
    | none => memLine s line key

/-- The format window that tags a line leaving its controller: the lowest-numbered enabled one of the reading context
whose range holds the line's first byte (R349); a window's CTX is the CTXID of the context's descriptor (R336). -/
def windowTag (s : State) (line ctx : Nat) : Option (Nat × Nat) :=
  if isHbm (128 * line) then
    let md := mdieOf s (homeDie (128 * line))
    (md.windows.find? fun w => w.2.en && w.2.ctx == (ctxOf s ctx).ctxid && w.2.peBase ≤ 128 * line && 128 * line < w.2.peBase + w.2.len).map
      fun w => (w.2.peBase, w.2.pcBase)
  else none

/-- Puts a line in a die's L2 in place of any there. -/
def putL2 (s : State) (l : L2Line) : State :=
  { s with coh := { s.coh with
      l2 := l :: s.coh.l2.filter fun x => !(x.die == l.die && x.line == l.line) } }

/-- A line of this package as it enters a die's L2: no quad holds it exclusively, and it has no lease. -/
def L2Line.mk0 (die line : Nat) (st : LineSt) (data : LineData) (key : Nat) (tag : Option (Nat × Nat)) : L2Line :=
  ⟨die, line, 0, st, data, key, tag, false, none, none⟩

/-- A quad store that holds a line exclusively gives it back to the slice (R108); the model keeps the data there. -/
def recallExcl (s : State) (line : Nat) : State :=
  { s with coh := { s.coh with
      l2 := s.coh.l2.map fun x => if x.line = line then { x with excl := none } else x } }

/-- Removes a line from a die's L2. -/
def dropL2 (s : State) (die line : Nat) : State :=
  { s with coh := { s.coh with l2 := s.coh.l2.filter fun x => !(x.die == die && x.line == line) } }

/-- Changes the state of a line in one die. -/
def setL2St (s : State) (die line : Nat) (st : LineSt) : State :=
  { s with coh := { s.coh with
      l2 := s.coh.l2.map fun x => if x.die = die ∧ x.line = line then { x with st := st } else x } }

/-- Writes a dirty line back to its home (R368, R369, R393): under the key in force; a failed range or an empty slot
drops it (R378, R392); a line of another package leaves this one (R370). -/
def writeBack (s : State) (l : L2Line) : State :=
  if l.home ≠ 0 then s
  else if inFailedRange s (128 * l.line) then s
  else if isHostWin (128 * l.line) then memPutLine s l.line l.data 0
  else if keyGenOf s l.key = 0 then s
  else memPutLine s l.line l.data (keyGenOf s l.key)

/-- The write-back of a line, if one is under way, reaches its home: memory takes it, and a forward from the buffer has been
acknowledged (R376, R377). -/
def landLine (s : State) (line : Nat) : State :=
  match wbAt s line with
  | some w => writeBack (dropWb s line) w.held
  | none => s

/-- A read from a die that does not hold the line, as memory or the die that holds it alone serves it: from E it is forwarded, from
S it comes from memory (R368); a copy of another package's line passes among the dies here (R370). -/
def cleanFill (s : State) (die line key ctx : Nat) : State × LineRes :=
  match l2Any s line with
  | some h =>
    if h.st = .e ∨ h.home ≠ 0 then
      (putL2 (setL2St s h.die line .s) { h with die := die, st := .s, excl := none }, .data h.data)
    else
      match memLine s line key with
      | .data d => (putL2 s (L2Line.mk0 die line .s d key (windowTag s line ctx)), .data d)
      | .poison sub => (s, .poison sub)
  | none =>
    match memLine s line key with
    | .data d => (putL2 s (L2Line.mk0 die line .e d key (windowTag s line ctx)), .data d)
    | .poison sub => (s, .poison sub)

/-- A read from a die at its slice: of a line it does not hold, the directory has the owner forward it, from its L2, or, once, from
its write-back buffer, whose home then waits for the forward's acknowledgement (R377); otherwise `cleanFill` serves it. A read-only
copy of a failed range is read where it lies (R378). A locket's line is not filled. -/
def fillLine (s : State) (die line key ctx : Nat) : State × LineRes :=
  if poisoned s line then (s, .poison 0x01)
  else
    match l2At s die line, l2Owner s line, wbAt s line with
    | some l, _, _ => (s, .data l.data)
    | none, some o, _ =>
      if o.ro then (s, .data o.data)
      else (putL2 (setL2St s o.die line .o) { o with die := die, st := .s, excl := none }, .data o.data)
    | none, none, some w =>
      if w.fwd then cleanFill (landLine s line) die line key ctx
      else
        let s1 : State := { s with coh := { s.coh with
          wbacks := s.coh.wbacks.map fun x => if x.held.line = line then { x with fwd := true } else x } }
        (putL2 s1 { w.held with die := die, st := .s, excl := none }, .data w.held.data)
    | none, none, none => cleanFill s die line key ctx

/-- Takes ownership of a line for a die: a write-back under way lands first, every other holder is invalidated and the line becomes M
there (R369). -/
def takeOwnership (s : State) (die line key ctx : Nat) : State × LineRes :=
  match fillLine (landLine s line) die line key ctx with
  | (s1, .data d) =>
    let s2 : State := { s1 with coh := { s1.coh with
      l2 := s1.coh.l2.filter fun x => !(x.line == line && x.die != die) } }
    (setL2St s2 die line .m, .data d)
  | r => r

/-- An eviction from a die's L2 (R368, R369): the directory forgets a clean holder; a dirty line goes to the die's write-back buffer,
where an older write-back of the line has landed before it, and sharers of an O line become S. A read-only copy is dropped
(R378), and a line of another package leaves this one (R370). -/
def evictLine (s : State) (die line : Nat) : State :=
  match l2At s die line with
  | none => s
  | some l =>
    let s1 := dropL2 s die line
    if (l.st = .m ∨ l.st = .o) ∧ l.home = 0 ∧ l.ro = false then
      let s2 := landLine s1 line
      { s2 with coh := { s2.coh with wbacks := ⟨l, false⟩ :: s2.coh.wbacks } }
    else s1

/-- Marks a line poisoned in memory (R374, R375). -/
def poisonLine (s : State) (line : Nat) : State :=
  if poisoned s line then s else { s with mem := { s.mem with poison := line :: s.mem.poison } }

/-- Marks every cached translation made from a line as to be dropped (R347). -/
def staleTlb (s : State) (line : Nat) : State :=
  { s with coh := { s.coh with
      tlb := s.coh.tlb.map fun t =>
        if t.lines.contains line ∧ t.stale = none then { t with stale := some (stampNow s) } else t } }

/-! ### Line tags (R129) -/

/-- What a die's slice keeps for a line for regions; zero positions and no tags where nothing is kept. -/
def lineTag (s : State) (die line : Nat) : LineTag :=
  match s.reg.tags.find? fun l => l.die == die && l.line == line with
  | some l => l
  | none => { die := die, line := line, wpos := 0, rpos := 0, readers := [], writer := none, answered := [] }

/-- Lists a line tag in place of any for its die and line. -/
def putTag (s : State) (l : LineTag) : State :=
  { s with reg := { s.reg with tags := l :: s.reg.tags.filter fun x => !(x.die == l.die && x.line == l.line) } }

/-- Whether a line tag carries live tags. -/
def tagLive (l : LineTag) : Bool := !l.readers.isEmpty || l.writer.isSome

/-- The die whose slice holds live tags on a line. -/
def taggedDie (s : State) (line : Nat) : Option Nat :=
  (s.reg.tags.find? fun l => l.line == line && tagLive l).map (·.die)

/-- Forgets the positions of a line that has left a slice. -/
def dropTag (s : State) (die line : Nat) : State :=
  { s with reg := { s.reg with tags := s.reg.tags.filter fun x => !(x.die == die && x.line == line && !tagLive x) } }

/-- A line that enters a slice again starts with both positions zero (R129). -/
def enterSlice (s : State) (die line : Nat) : State := if (l2At s die line).isNone then dropTag s die line else s

/-- A raise or lower of a region by a slice: the tag's bounds change, and a message goes to the record when they do
(R130, R133). -/
def sendBound (s : State) (die line rg : Nat) (raise : Bool) (v : Nat) : State :=
  let l := lineTag s die line
  let upd (t : Tag) : Tag :=
    if t.rg = rg then (if raise then { t with lo := max t.lo v } else { t with hi := min t.hi v }) else t
  let moves (t : Tag) : Bool := t.rg == rg && (if raise then t.lo < v else v < t.hi)
  if l.readers.any moves || l.writer.any moves then
    let s1 := putTag s { l with readers := l.readers.map upd, writer := l.writer.map upd }
    { s1 with reg := { s1.reg with msgs := s1.reg.msgs ++ [⟨rg, raise, v, die, line⟩] } }
  else s

/-- The bound sent to the region of a live tag, if there is one. -/
def sendTag (s : State) (die line : Nat) (t : Option Tag) (raise : Bool) (v : Nat) : State :=
  match t with
  | some w => sendBound s die line w.rg raise v
  | none => s

/-- The upper bound sent to the region of each of some tags. -/
def lowerTags (s : State) (die line : Nat) (ts : List Tag) (v : Nat) : State :=
  ts.foldl (fun acc t => sendBound acc die line t.rg false v) s

/-- A committed access at position p (R131): the access is ordered against the live tags as a region frozen at p, and the line's
positions move. An atomic both reads and writes: it goes ahead of the live writer as a read, and behind it as a write, so that
the writer has no position left. -/
def commitPos (s : State) (die line : Nat) (reads writes : Bool) : State :=
  let l := lineTag s die line
  let rt := rtNs s * 16
  let p := if writes then max rt (max (l.wpos + 1) (l.rpos + 1)) else max rt (l.wpos + 1)
  let s1 := if reads then sendTag s die line l.writer true (p + 1) else s
  let s2 := if writes then sendTag (lowerTags s1 die line l.readers (p - 1)) die line l.writer false (p - 1) else s1
  let l1 := lineTag s2 die line
  putTag s2 { l1 with wpos := if writes then p else l1.wpos, rpos := if reads then max l1.rpos p else l1.rpos }

/-- Whether a slice holds an access back because a region it conflicts with has answered its freeze (R136). -/
def heldByFreeze (s : State) (die line : Nat) (write : Bool) (rg : Nat) : Bool :=
  let l := lineTag s die line
  l.answered.any fun a => a != rg &&
    (l.writer.any (fun w => w.rg == a) || (write && l.readers.any fun r => r.rg == a))

/-- A write by an access outside the region is laid over the live writer's tentative copy, on the bytes it changes
(R131). -/
def overTentative (s : State) (die line off n v : Nat) : State :=
  { s with reg := { s.reg with
      tent := s.reg.tent.map fun t =>
        if t.die = die ∧ t.line = line then
          { t with bytes := (List.range n).foldl (fun b k =>
              match tabFind b (off + k) with
              | some _ => tabPut b (off + k) (BitVec.ofNat 8 (v / 2 ^ (8 * k)))
              | none => b) t.bytes }
        else t } }

/-! ### The hub's own accesses -/

/-- `n` bytes at a physical address, coherently, as the hub reads its tables: without a key (assumption 19). The bytes
must lie in one line. -/
def hubRead (s : State) (pa n : Nat) : Nat :=
  match chipLine s (lineOf pa) with
  | some d => lineGet d (pa % 128) n
  | none => ofLeBytes ((List.range n).map fun k => memByte s (pa + k))

/-- What the hub gets of bytes that poison hides: free values, since the manual gives none (assumption 19). -/
def poisonBytes (s : State) (pa n : Nat) : Nat :=
  ofLeBytes ((List.range n).map fun k => (Config.freeBits s.freeCtr (2 ^ 50 + pa + k)).setWidth 8)

/-- The same under the key of a page: a poisoned line, or an empty slot, gives none of its bytes (R374, R392). -/
def hubGet (s : State) (key pa n : Nat) : Nat :=
  if slotEmpty s pa key then poisonBytes s pa n
  else
    match coherentLine s (lineOf pa) key with
    | .data d => lineGet d (pa % 128) n
    | .poison _ => poisonBytes s pa n

/-- The die whose slice serves an access of the hub, of the host or of another package to a line: the one that holds its live tags,
otherwise its home (R132). -/
def sliceOf (s : State) (line : Nat) : Nat := (taggedDie s line).getD (homeDie (128 * line))

/-- A read of a line that the hub, the host or another package makes at its slice takes its position there (R131); one of a parked
line is made at the parking point (R72). -/
def commitRead (s : State) (line : Nat) : State :=
  if (locketAt s line).isSome then s else commitPos (enterSlice s (sliceOf s line) line) (sliceOf s line) line true false

/-- Stores `n` bytes of a line that is nowhere on chip: under a page's key the whole line is written again (R393), and a store to a
poisoned one is lost (R374, R392); the hub's own tables have no key (assumption 19). -/
def memPut (s : State) (key : Option Nat) (pa n v : Nat) : State :=
  match key with
  | none => { s with mem := { s.mem with bytes := putBytes s.mem.bytes pa (leBytes n v) } }
  | some k =>
    match memLine s (lineOf pa) k with
    | .data d => memPutLine s (lineOf pa) (linePut d (pa % 128) n v) (if isHostWin pa then 0 else keyGenOf s k)
    | .poison _ => { s with ras := { s.ras with lostSt := s.ras.lostSt + 1 } }

/-- A write of the hub is lost where the line's key slot is empty, the line is poisoned, or its home has failed and an L2 keeps a
read-only copy (R374, R378, R392). -/
def hubLost (s : State) (key : Option Nat) (pa : Nat) : Bool :=
  key.any (slotEmpty s pa) || poisoned s (lineOf pa) || roLine s (lineOf pa)

/-- Writes `n` bytes at a physical address coherently, as the hub does: at the parking point, in an L2 that holds the line (R131,
R369), or in memory; `reads` says that the access is an atomic, which reads too. A lost store poisons nothing that is not poisoned
but a line whose slot is empty (R374, R392). A write of the whole line puts it under the key given. The bytes must lie in one line. -/
def hubPutAs (s0 : State) (reads : Bool) (key : Option Nat) (pa n v : Nat) : State :=
  let line := lineOf pa
  let s := landLine (stampWrite s0 line (pa % 128) n) line
  let whole (k0 : Nat) : Nat := if n = 128 then key.getD k0 else k0
  if hubLost s0 key pa then
    let lost : State := { s0 with ras := { s0.ras with lostSt := s0.ras.lostSt + 1 } }
    if key.any (slotEmpty s0 pa) then poisonLine lost line else lost
  else
    match locketAt s line with
    | some _ =>
      { s with coh := { s.coh with
          lockets := s.coh.lockets.map (fun k =>
            if k.line = line then { k with data := linePut k.data (pa % 128) n v, key := whole k.key } else k)
          copies := s.coh.copies.map fun x => if x.parked ∧ x.line = line then
              { x with data := linePut x.data (pa % 128) n v, stamps := stampTab x.stamps (pa % 128) n (stampNow s0) }
            else x } }
    | none =>
      match l2Any s line with
      | some h =>
        let die := (taggedDie s line).getD (match l2Owner s line with
          | some o => o.die
          | none => h.die)
        let d := match l2Owner s line with
          | some l => l.data
          | none => h.data
        let s1 : State := { s with coh := { s.coh with l2 := s.coh.l2.filter fun x => x.line != line } }
        let s2 := putL2 s1 { h with die := die, st := .m, excl := none, key := whole h.key, data := linePut d (pa % 128) n v }
        overTentative (commitPos s2 die line reads true) die line (pa % 128) n v
      | none => memPut s key pa n v

/-- The same for a plain store. -/
def hubPut (s : State) (key : Option Nat) (pa n v : Nat) : State := hubPutAs s false key pa n v

end Sys2Proof.Machine
end

