-- ==== Sys2Proof/Machine/Barrier.lean ====
section
/-!
DEFINITION. Barrier words (R269, R270), hierarchical barriers (R272), retirement of items (R37, R42, R43, R210), and the
resume rule.
-/
namespace Sys2Proof.Machine
open Sys2Proof

/-! ### Barrier words (R269) -/

/-- MAGIC of a barrier word. -/
def barMagic (w : Word) : Nat := bitsAt w.toNat 48 8

/-- GEN. -/
def barGen (w : Word) : BitVec 8 := w.extractLsb' 40 8

/-- EXPECTED. -/
def barExp (w : Word) : Nat := bitsAt w.toNat 20 20

/-- PENDING. -/
def barPend (w : Word) : Nat := bitsAt w.toNat 0 20

/-- A barrier word with GEN, EXPECTED and PENDING replaced, and OVF set if `ovf`. -/
def barSet (w : Word) (gen : BitVec 8) (exp pend : Nat) (ovf : Bool) : Word :=
  let hi : BitVec 6 := w.extractLsb' 58 6
  let o : BitVec 1 := if ovf then 1 else w.extractLsb' 57 1
  let mid : BitVec 9 := w.extractLsb' 48 9
  hi ++ o ++ mid ++ gen ++ BitVec.ofNat 20 exp ++ BitVec.ofNat 20 pend

/-- An arrival of count `k`: the word after it, and whether it released (R269). -/
def barArrive (w : Word) (k : Nat) : Word × Bool :=
  if barPend w ≤ k then (barSet w (barGen w + 1) (barExp w) (barExp w) (barPend w < k), true)
  else (barSet w (barGen w) (barExp w) (barPend w - k) false, false)

/-- A word made by `bar.init`, or, with `wg`, the workgroup's own (R270, R271). -/
def barInitWord (wg : Bool) (exp : Nat) : Word :=
  BitVec.ofNat 64 ((if wg then 2 ^ 56 else 0) + 0xB7 * 2 ^ 48 + exp % 2 ^ 20 * 2 ^ 20 + exp % 2 ^ 20)

/-- A word of a workgroup's scratch, as `n` bytes from an offset. -/
def scrGet (w : Wg) (off n : Nat) : Nat := ofLeBytes ((List.range n).map fun k => tabGet 0 w.scratch (off + k))

/-- Scratch with `n` bytes from an offset replaced. -/
def scrPut (w : Wg) (off n v : Nat) : Wg := { w with scratch := putBytes w.scratch off (leBytes n v) }

/-- Retirement of items of a tile: EXPECTED falls by their number, PENDING by those that have not arrived; at zero the
word releases (R270). -/
def barRetire (w : Wg) (positions : List Nat) : Wg :=
  let late := (positions.filter fun p => !(w.arrived.contains p)).length
  let exp := barExp w.word - positions.length
  let pend := barPend w.word - late
  let w1 : Wg := { w with retired := positions ++ w.retired }
  if late ≠ 0 ∧ pend = 0 then { w1 with word := barSet w.word (barGen w.word + 1) exp exp false, arrived := [] }
  else { w1 with word := barSet w.word (barGen w.word) exp pend false }

/-! ### Boxes -/

/-- Whether a box has no item. -/
def boxEmpty (b : Box) : Bool := b.x1 ≤ b.x0 || b.y1 ≤ b.y0 || b.z1 ≤ b.z0

/-- The common part of two boxes. -/
def boxMeet (a b : Box) : Box :=
  ⟨max a.x0 b.x0, min a.x1 b.x1, max a.y0 b.y0, min a.y1 b.y1, max a.z0 b.z0, min a.z1 b.z1⟩

/-- The parts of a box outside another, as disjoint boxes. -/
def boxMinus (a b : Box) : List Box :=
  let m := boxMeet a b
  if boxEmpty m then [a]
  else
    ([{ a with x1 := m.x0 }, { a with x0 := m.x1 },
      { m with y0 := a.y0, y1 := m.y0, z0 := a.z0, z1 := a.z1 }, { m with y0 := m.y1, y1 := a.y1, z0 := a.z0, z1 := a.z1 },
      { m with z0 := a.z0, z1 := m.z0 }, { m with z0 := m.z1, z1 := a.z1 }] : List Box).filter fun x => !boxEmpty x

/-- The parts of a box outside every box of a list. -/
def boxRest (b : Box) (l : List Box) : List Box := l.foldl (fun acc x => acc.flatMap fun a => boxMinus a x) [b]

/-- Whether a list of boxes covers a box. -/
def boxCovered (b : Box) (l : List Box) : Bool := (boxRest b l).isEmpty

/-- The box of a tile (R27). -/
def tileBox (r : LaunchRec) (tile : Nat) : Box :=
  let o := posItem r tile 0
  { x0 := o.x, x1 := o.x + r.wx, y0 := o.y, y1 := o.y + r.wy, z0 := o.z, z1 := o.z + r.wz }

/-- The boxes of a context's unretired items; a span that is being seated holds those of the tiles still waiting. -/
def threadBoxes (s : State) (t : Thread) : List Box :=
  match t.seat with
  | some st => (lanesOf st.seated).map fun L => itemBox (slotItem s t st L)
  | none =>
    let bs := match t.wait with
      | .seating tiles _ => tiles.map (fun (x : Nat × Nat × Nat) => boxMeet t.box (tileBox (lrecOf s t) x.1))
      | _ => [t.box]
    bs.filter fun b => !boxEmpty b

/-- The number of unretired items of a launch. -/
def liveItems (s : State) (l : Nat) : Nat :=
  itemCount (launchOf s l).lrec - ((launchOf s l).retired.map boxVolume).foldl (· + ·) 0

/-! ### Hierarchical barriers (R272) -/

/-- The instance of a level a context belongs to: its quad, its die, or the package. -/
def hbarInst (s : State) (t : Thread) (lev : Nat) : Option Nat :=
  if lev = 1 then t.seat.map fun st => st.core / 4
  else if lev = 2 then some (physDie s t)
  else some 0

/-- The barrier of a level's instance; generation 0 before any release (assumption 13). -/
def hbarAt (l : Launch) (lev inst : Nat) : HBar :=
  match l.hbars.find? (fun h => h.level == lev && h.inst == inst) with
  | some h => h
  | none => { level := lev, inst := inst, gen := 0, arrived := [] }

/-- Lists a barrier in place of any of its instance. -/
def putHbar (l : Launch) (h : HBar) : Launch :=
  { l with hbars := h :: l.hbars.filter fun x => !(x.level == h.level && x.inst == h.inst) }

/-- Whether every unretired item of an instance has arrived. -/
def hbarFull (s : State) (launch : Nat) (h : HBar) : Bool :=
  s.threads.all fun p =>
    p.2.launch != launch || hbarInst s p.2 h.level != some h.inst ||
      (threadBoxes s p.2).all fun b => boxCovered b h.arrived

/-- Releases every hierarchical barrier of a launch whose members have all arrived. -/
def hbarAdvance (s : State) (launch : Nat) : State :=
  modLaunch s launch fun l =>
    { l with hbars := l.hbars.map fun h =>
        if !h.arrived.isEmpty && hbarFull s launch h then { h with gen := h.gen + 1, arrived := [] } else h }

/-- A context's arrival at a level. -/
def hbarArrive (s : State) (t : Thread) (lev inst : Nat) : State :=
  let s1 := modLaunch s t.launch fun l =>
    let h := hbarAt l lev inst
    putHbar l { h with arrived := (threadBoxes s t).foldl (fun acc b => boxRest b acc ++ acc) h.arrived }
  hbarAdvance s1 t.launch

/-! ### Retirement -/

/-- The tile an item lies in, and its position there (R27). -/
def itemTile (r : LaunchRec) (i : Item) : Nat × Nat :=
  (i.x / r.wx + tilesX r * (i.y / r.wy) + tilesX r * tilesY r * (i.z / r.wz),
   i.x % r.wx + r.wx * (i.y % r.wy) + r.wx * r.wy * (i.z % r.wz))

/-- The positions of a tile whose items lie in a box and in the launch range. -/
def tilePositions (r : LaunchRec) (tile : Nat) (b : Box) : List Nat :=
  (List.range (r.wx * r.wy * r.wz)).filter fun p => inRange r (posItem r tile p) && inBox b (posItem r tile p)

/-- Retires boxes of items of a launch: the launch's count, the words of the tiles' workgroups and the hierarchical
barriers follow (R37, R270, R272). -/
def retireBoxes (s : State) (launch : Nat) (bs : List Box) : State :=
  let r := (launchOf s launch).lrec
  let s1 := modLaunch s launch fun l => { l with retired := bs ++ l.retired }
  let ret (w : Wg) : Wg :=
    if w.launch = launch then
      match bs.flatMap (fun b => tilePositions r w.tile b) with
      | [] => w
      | ps => barRetire w ps
    else w
  let s2 : State := { s1 with wgs := s1.wgs.map fun p => (p.1, ret p.2) }
  hbarAdvance s2 launch

/-- A member position ceases to be held while members wait for their team: each waiting member takes CONV (R282). -/
def vacateTeams (s : State) (wg team : Nat) : State :=
  let gone := s.teams.filter fun h => h.wg == wg && h.team == team
  let s1 : State := { s with teams := s.teams.filter fun h => !(h.wg == wg && h.team == team) }
  (gone.flatMap (·.waiting)).foldl (fun acc id =>
    match tabFind acc.threads id with
    | some t => takeStop (putThr acc id { t with wait := .none }) id (mkStop acc t .fault cCONV 0x03 t.pc)
    | none => acc) s1

/-- The team of a strand (R29). -/
def teamOf (s : State) (t : Thread) (st : Seat) : Nat := st.six / (lrecOf s t).team

/-- Retires slots of a strand: they leave `am` and every token's masks (R42). -/
def retireSlots (s : State) (id : Nat) (t : Thread) (st : Seat) (m : W32) : State :=
  let st1 := { st with am := st.am &&& ~~~m, seated := st.seated &&& ~~~m }
  let t1 := { t with
    seat := some st1
    toks := t.toks.map fun k => { k with mask := k.mask &&& ~~~m, exit := k.exit &&& ~~~m } }
  retireBoxes (putThr s id t1) t.launch ((lanesOf (m &&& st.seated)).map fun L => itemBox (slotItem s t st L))

/-- The strand has retired: it is never ready again, and its slot frees once its loads and atomics have returned
(R210). -/
def strandRetire (s : State) (id : Nat) : State :=
  match tabFind s.threads id with
  | some t =>
    match t.seat with
    | some st =>
      let s1 := retireSlots s id t st st.seated
      let s2 := modThr s1 id fun t1 =>
        { t1 with toks := [], seat := t1.seat.map fun st1 => { st1 with am := 0, retired := true } }
      vacateTeams s2 st.wg (teamOf s t st)
    | none => s
  | none => s

/-- Resume (R43): pops tokens until one with a mask is taken; none when the stack empties. -/
def resumeToks : List Token → Option (Token × List Token)
  | [] => none
  | k :: rest => if k.mask = 0 then resumeToks rest else some (k, rest)

/-- A strand with `am` zero resumes, or retires when its stack is empty (R43). -/
def resumeStrand (s : State) (id : Nat) : State :=
  match tabFind s.threads id with
  | some t =>
    match resumeToks t.toks, t.seat with
    | some (k, rest), some st => putThr s id { t with toks := rest, pc := k.pc, seat := some { st with am := k.mask } }
    | none, some _ => strandRetire s id
    | _, none => s
  | none => s

/-- Puts the acting strand back with a new `am`, PC and stack, and resumes it if the mask is zero. -/
def withMask (s : State) (t : Thread) (st : Seat) (am : W32) (pc : Word) (toks : List Token) : Out :=
  let s1 := putThr s s.cur { t with pc := pc, toks := toks, seat := some { st with am := am } }
  .next (if am = 0 then resumeStrand s1 s.cur else s1)

end Sys2Proof.Machine
end

