-- ==== Sys2Proof/Machine/Park.lean ====
section
/-!
DEFINITION. Reader sets and parking: the checks and the resolution of a descriptor (R65 to R67), where a line parks and
how it moves outward (R68, R69, R77), unparking and writing home (R70, R76), locate resolution (R73), and locations
(R74).
-/
namespace Sys2Proof.Machine
open Sys2Proof

/-! ### Descriptors -/

/-- KIND of a descriptor (R65). -/
def rsdKind (r : Word) : Nat := bitsAt r.toNat 60 4

/-- FORCE of a descriptor. -/
def rsdForce (r : Word) : Nat := bitsAt r.toNat 57 3

/-- The set bits of a mask of `n` bits. -/
def setBits (n m : Nat) : List Nat := (List.range n).filter fun k => m.testBit k

/-- The roles of a launch in a range. -/
def rolesIn (l : Launch) (a b : Nat) : List Role := l.roleTab.filter fun r => a ≤ r.role && r.role ≤ b

/-- A core in virtual numbers: die, quad, core. -/
abbrev VCore := Nat × Nat × Nat

/-- The canonical form of a list of cores (R67). -/
def canonCores (cs : List VCore) : RSet :=
  match cs with
  | [] => .dies 0
  | (d, q, _) :: _ =>
    if cs.all fun c => c.1 == d then
      if cs.all fun c => c.2.1 == q then
        .cores d q (BitVec.ofNat 4 ((List.range 4).foldl (fun m k => if cs.any fun c => c.2.2 == k then m + 2 ^ k else m) 0))
      else .quads d (maskOf fun k => cs.any fun c => c.2.1 == k)
    else .dies (BitVec.ofNat 8 ((List.range 8).foldl (fun m k => if cs.any fun c => c.1 == k then m + 2 ^ k else m) 0))

/-- The canonical form of quads of one die: the cores of a single quad are held as KIND 2 (R67). -/
def canonQuads (l : Launch) (d : Nat) (m : W32) : RSet :=
  match lanesOf m with
  | [q] => .cores d q (BitVec.ofNat 4 (2 ^ l.lrec.vc - 1))
  | _ => .quads d m

/-- The canonical form of dies: the quads of a single die are held as KIND 3 (R67). -/
def canonDies (l : Launch) (m : BitVec 8) : RSet :=
  match setBits 8 m.toNat with
  | [d] => canonQuads l d (BitVec.ofNat 32 (2 ^ l.lrec.vq - 1))
  | _ => .dies m

/-- The canonical set a descriptor resolves to on a core (R67); none for KIND 0. -/
def resolveRsd (l : Launch) (r : Word) (core : Nat) : Option RSet :=
  let p := r.toNat
  let k := rsdKind r
  if k = 1 then some (.cores (virtDie l (core / 128)) (virtQuad l (core / 4)) (BitVec.ofNat 4 (2 ^ virtCore l core)))
  else if k = 2 then some (.cores (bitsAt p 13 3) (bitsAt p 8 5) (BitVec.ofNat 4 (bitsAt p 0 4)))
  else if k = 3 then some (canonQuads l (bitsAt p 32 3) (BitVec.ofNat 32 (bitsAt p 0 32)))
  else if k = 4 then some (canonDies l (BitVec.ofNat 8 (bitsAt p 0 8)))
  else if k = 5 then some (canonCores ((rolesIn l (bitsAt p 0 16) (bitsAt p 16 16)).map fun x => (x.die, x.quad, x.core)))
  else if k = 6 then some .all
  else none

/-- A canonical set as a descriptor (R73, R267). -/
def rsdOf (s : RSet) (force : Nat) : Word :=
  let base := force % 8 * 2 ^ 57
  match s with
  | .cores d q m => BitVec.ofNat 64 (2 * 2 ^ 60 + base + d % 8 * 2 ^ 13 + q % 32 * 2 ^ 8 + m.toNat)
  | .quads d m => BitVec.ofNat 64 (3 * 2 ^ 60 + base + d % 8 * 2 ^ 32 + m.toNat)
  | .dies m => BitVec.ofNat 64 (4 * 2 ^ 60 + base + m.toNat)
  | .all => BitVec.ofNat 64 (6 * 2 ^ 60 + base)

/-- How many cores, quads and dies a set spans, for the levels of R68: 0 one core, 1 one quad, 2 one die, 3 more. -/
def setSpan : RSet → Nat
  | .cores _ _ m => if (setBits 4 m.toNat).length = 1 then 0 else 1
  | .quads _ m => if popMask m = 1 then 1 else 2
  | .dies m => if (setBits 8 m.toNat).length = 1 then 2 else 3
  | .all => 3

/-- Whether FORCE names a level no nearer than the set needs (R66). -/
def forceOk (s : RSet) (force : Nat) : Bool :=
  if force = 1 then setSpan s == 0
  else if force = 2 then setSpan s ≤ 1
  else if force = 3 then setSpan s ≤ 2
  else force == 0 || force == 4

/-- The first condition of R66 a descriptor breaks, numbered from 1; none when it passes. -/
def rsdFault (l : Launch) (r : Word) (core : Nat) : Option Nat :=
  let p := r.toNat
  let k := rsdKind r
  let mbz : Bool :=
    bitsAt p 35 22 != 0 ||
      (if k = 0 ∨ k = 1 ∨ k = 6 then bitsAt p 0 35 != 0
       else if k = 2 then bitsAt p 16 19 != 0 || bitsAt p 4 4 != 0
       else if k = 4 then bitsAt p 8 27 != 0
       else if k = 5 then bitsAt p 32 3 != 0
       else false)
  let maskZero : Bool :=
    if k = 2 then bitsAt p 0 4 == 0 else if k = 3 then bitsAt p 0 32 == 0 else if k = 4 then bitsAt p 0 8 == 0 else false
  let outside : Bool :=
    if k = 2 then l.lrec.vd ≤ bitsAt p 13 3 || l.lrec.vq ≤ bitsAt p 8 5 || (setBits 4 (bitsAt p 0 4)).any (l.lrec.vc ≤ ·)
    else if k = 3 then l.lrec.vd ≤ bitsAt p 32 3 || (setBits 32 (bitsAt p 0 32)).any (l.lrec.vq ≤ ·)
    else if k = 4 then (setBits 8 (bitsAt p 0 8)).any (l.lrec.vd ≤ ·)
    else false
  let first := bitsAt p 0 16
  let last := bitsAt p 16 16
  let roleBad : Bool := k == 5 &&
    (last < first || (List.range' first (last + 1 - first)).any fun x => !(l.roleTab.any (·.role == x)))
  let forceBad : Bool :=
    match resolveRsd l r core with
    | some s => !(forceOk s (rsdForce r)) || (k == 6 && 1 ≤ rsdForce r && rsdForce r ≤ 3)
    | none => false
  if 7 ≤ k ∨ 5 ≤ rsdForce r then some 1
  else if mbz then some 2
  else if maskZero then some 3
  else if outside then some 4
  else if roleBad then some 5
  else if forceBad then some 6
  else none

/-- Whether a core, by virtual numbers, is a reader of a canonical set (R67). -/
def readerOf (l : Launch) (s : RSet) (c : VCore) : Bool :=
  match s with
  | .cores d q m => c.1 == d && c.2.1 == q && m.getLsbD c.2.2
  | .quads d m => c.1 == d && m.getLsbD c.2.1
  | .dies m => m.getLsbD c.1
  | .all => c.1 < l.lrec.vd && c.2.1 < l.lrec.vq && c.2.2 < l.lrec.vc

/-- The virtual numbers of a physical core in a launch. -/
def vcoreOf (l : Launch) (core : Nat) : VCore := (virtDie l (core / 128), virtQuad l (core / 4), virtCore l core)

/-- Whether a physical core is a declared reader of a parked line: the set's numbers are those of the launch that stored it (R67). -/
def declared (s : State) (k : Locket) (core : Nat) : Bool :=
  let l := launchOf s k.launch
  readerOf l k.rset (anyDie l (core / 128), virtQuad l (core / 4), virtCore l core)

/-- Whether a load of a context on a physical core takes a LOCATE fault at a parked line (R71): only one of the owning context
outside the set does. -/
def locates (s : State) (k : Locket) (ctx core : Nat) : Bool := k.ctx == ctx && !(declared s k core)

/-! ### Levels (R68) -/

/-- The physical die of a number in a launch (R31, R73). -/
def physOf (l : Launch) (v : Nat) : Nat := (orderOf l.dmap 8).getD v 0

/-- The physical dies of a mask of virtual dies. -/
def physMask (l : Launch) (m : BitVec 8) : BitVec 8 :=
  BitVec.ofNat 8 ((List.range 8).foldl
    (fun acc d => if (setBits 8 m.toNat).any fun v => physOf l v == d then acc + 2 ^ d else acc) 0)

/-- The mask of every virtual die of a launch's grid. -/
def gridMask (l : Launch) : BitVec 8 := BitVec.ofNat 8 (2 ^ l.lrec.vd - 1)

/-- The level a line with a canonical set and a FORCE parks at (R68). -/
def levelFor (l : Launch) (s : RSet) (force line : Nat) : Level :=
  let comb := Level.comb (homeDie (128 * line))
  if force = 4 then comb
  else
    match s with
    | .cores d q m =>
      let die := physOf l d
      let quad := quadOn l die q
      if force = 3 then .slice die
      else if (setBits 4 m.toNat).length = 1 ∧ force ≤ 1 then .l1 (coreIn l quad ((setBits 4 m.toNat).headD 0))
      else .quad quad
    | .quads d m =>
      let die := physOf l d
      if force = 2 then .quad (quadOn l die ((lanesOf m).headD 0)) else .slice die
    | .dies m =>
      if (setBits 8 m.toNat).length = 1 ∧ force = 3 then .slice (physOf l ((setBits 8 m.toNat).headD 0))
      else .repl (physMask l m)
    | .all => .repl (physMask l (gridMask l))

/-- The dies whose slice holds a level's line. -/
def levelDies : Level → List Nat
  | .slice d => [d]
  | .repl m => setBits 8 m.toNat
  | .comb d => [d]
  | _ => []

/-- Whether a level's line lies on a die of a mask. -/
def levelOn (mask : BitVec 8) (lv : Level) : Bool :=
  match lv with
  | .l1 c => mask.getLsbD (c / 128)
  | .quad q => mask.getLsbD (q / 32)
  | _ => (levelDies lv).any fun d => mask.getLsbD d

/-- The quotas in force for a launch: the launch's, capped by the context's (R77, R340). -/
def quotas (s : State) (ctx launch : Nat) : Nat × Nat × Nat :=
  let c := ctxOf s ctx
  let r := (launchOf s launch).lrec
  (min r.l1q c.l1q, min r.qsq c.qsq, min r.l2q c.l2q)

/-! ### Ways of the slices (R3, R64) -/

/-- Whether two lines share a slice and a set. -/
def sameSet (a b : Nat) : Bool := l2Slice (128 * a) == l2Slice (128 * b) && l2Set (128 * a) == l2Set (128 * b)

/-- The lines of a line's set that lie in a die's slice, itself not among them. -/
def setLines (s : State) (die line : Nat) : List L2Line :=
  s.coh.l2.filter fun x => x.die == die && x.line != line && sameSet x.line line

/-- The other lines of a line's set that are parked in a die's slice. -/
def setParked (s : State) (die line : Nat) : List Locket :=
  s.coh.lockets.filter fun k => (levelDies k.level).contains die && k.line != line && sameSet k.line line

/-- Whether a line may not be evicted from a die's slice: it carries live tags (R129), or an engine has pinned it (R290). -/
def pinned (s : State) (die line : Nat) : Bool :=
  (s.reg.tags.any fun l => l.die == die && l.line == line && (!l.readers.isEmpty || l.writer.isSome))
    || s.coh.pins.any fun p => p.1 / 128 == die && p.2 == line

/-- Whether a die's slice has one of its 16 ways for a line: it holds the line, or a way is free (R3). An eviction frees
one. -/
def wayFree (s : State) (die line : Nat) : Bool :=
  (l2At s die line).isSome || (setLines s die line).length + (setParked s die line).length < 16

/-- Whether a slice's set has all of its 16 ways pinned or parked, for a line it does not hold (R138, R290). -/
def setPinned (s : State) (die line : Nat) : Bool :=
  (l2At s die line).isNone &&
    16 ≤ ((setLines s die line).filter fun x => pinned s die x.line).length + (setParked s die line).length

/-- The lines of a line's set in a die's slice that may be evicted. -/
def evictable (s : State) (die line : Nat) : List L2Line :=
  (setLines s die line).filter fun x => !(pinned s die x.line) && !(lineUnknown s x.line)

/-- Whether a die's slice has a way for a line, or can make one. -/
def wayMade (s : State) (die line : Nat) : Bool := wayFree s die line || !(evictable s die line).isEmpty

/-- Makes a way for a line in a die's slice: where none is free, one of the set's lines that may be evicted is. Which one is
left open (assumption 2). -/
def makeWay (s : State) (die line : Nat) : State :=
  if wayFree s die line then s
  else
    let vs := evictable s die line
    match vs[(Config.freeBits s.freeCtr (60000 + die)).toNat % vs.length]? with
    | some v => evictLine s die v.line
    | none => s

/-- Whether a context that parks a line at a level stays within quotas of the L1s, the quad stores and the L2 sets (R77); the
line's own locket does not count. -/
def withinQuota (s : State) (q : Nat × Nat × Nat) (ctx line : Nat) (lv : Level) : Bool :=
  let mine := s.coh.lockets.filter fun k => k.ctx == ctx && k.line != line
  match lv with
  | .l1 c => ((mine.filter fun k => k.level == .l1 c).length + 1) * 128 ≤ q.1 * 1024
  | .quad d => ((mine.filter fun k => k.level == .quad d).length + 1) * 128 ≤ q.2.1 * 1024
  | _ =>
    (levelDies lv).all fun d =>
      (mine.filter fun k => (levelDies k.level).contains d && sameSet k.line line).length + 1 ≤ q.2.2

/-! ### L1s, quad stores and staging buffers (R3, R60, R61) -/

/-- Whether two lines compete for room at a place: a quad store has 1,024 sets of 16 ways, by the low bits of the line (R3;
assumption 47); the others have no stated sets. -/
def sharesSet (p : Place) (a b : Nat) : Bool :=
  match p with
  | .quad _ => a % 1024 == b % 1024
  | _ => true

/-- The carve-out a core last applied, in KiB (R61). -/
def carveOf (s : State) (core : Nat) : Nat := tabGet 0 (dieOf s (core / 128)).carves core

/-- The copies a place has room for where a line lies, beside what is parked there and a core's own partials (R3, R60, R81, R88). -/
def placeRoom (s : State) (p : Place) (line : Nat) : Nat :=
  match p with
  | .l1 c => (512 - carveOf s c) * 8 - (s.coh.lockets.filter fun k => k.level == .l1 c).length
      - (s.coh.partials.filter fun x => x.core == c && !x.handed).length
  | .quad q => 16 - (s.coh.lockets.filter fun k => k.level == .quad q && sharesSet p k.line line).length
  | .stage _ _ => 16

/-- The copies at a place that compete with a line for room, its own not among them. -/
def rivals (s : State) (p : Place) (line : Nat) : List Copy :=
  s.coh.copies.filter fun x => x.place == p && x.line != line && sharesSet p x.line line

/-- A place without room for one more line gives up one of its copies, which one is left open (assumption 2). -/
def trimPlace (s : State) (p : Place) (line : Nat) : State :=
  let here := rivals s p line
  if here.length < placeRoom s p line then s
  else
    match here[(Config.freeBits s.freeCtr 61000).toNat % here.length]? with
    | some v => { s with coh := { s.coh with copies := s.coh.copies.filter fun x => !(x.place == v.place && x.line == v.line) } }
    | none => s

/-- Removes a copy. -/
def dropCopy (s : State) (p : Place) (line : Nat) : State :=
  { s with coh := { s.coh with copies := s.coh.copies.filter fun x => !(x.place == p && x.line == line) } }

/-- Puts a copy in place of any of its line there; one without room takes none. -/
def putCopy (s : State) (c : Copy) : State :=
  let s1 := trimPlace (dropCopy s c.place c.line) c.place c.line
  if placeRoom s c.place c.line = 0 then s1 else { s1 with coh := { s1.coh with copies := c :: s1.coh.copies } }

/-- Whether the lines parked in a quad store leave a way of a line's set (R3). -/
def quadSetOpen (s : State) (line : Nat) (lv : Level) : Bool :=
  match lv with
  | .quad q => (s.coh.lockets.filter fun k => k.level == .quad q && k.line != line && sharesSet (.quad q) k.line line).length < 16
  | _ => true

/-- Makes room for a line that is to be parked at a level: a way of each slice, or the room of a copy. -/
def makeRoom (s : State) (lv : Level) (line : Nat) : State :=
  match lv with
  | .l1 c => trimPlace s (.l1 c) line
  | .quad q => trimPlace s (.quad q) line
  | _ => (levelDies lv).foldl (fun acc d => makeWay acc d line) s

/-- Whether a level has room for a line: within the quotas, and in a set that is not full of pinned or parked lines (R77). -/
def hasRoom (s : State) (ctx launch line : Nat) (lv : Level) : Bool :=
  withinQuota s (quotas s ctx launch) ctx line lv && quadSetOpen s line lv && (levelDies lv).all fun d => !(setPinned s d line)

/-- Whether the park directory's set for a new locket is full (R69). -/
def locketSetFull (s : State) (line : Nat) : Bool :=
  16 ≤ (s.coh.lockets.filter fun k => k.line != line && parkSet (128 * k.line) == parkSet (128 * line)).length

/-- The distance of a level from a home write, in levels (R77). -/
def levelDist : Level → Nat
  | .l1 _ => 3
  | .quad _ => 2
  | _ => 1

/-- The next level outward from a level with a slice further out. -/
def outward : Level → Option Level
  | .l1 c => some (.quad (c / 4))
  | .quad q => some (.slice (q / 32))
  | _ => none

/-- Where a line parks, moving outward for want of room, and how many levels it moved (R77); none is a home write. -/
def findLevel (s : State) (ctx launch line : Nat) : Nat → Level → Nat → Option Level × Nat
  | 0, lv, n => (none, n + levelDist lv)
  | fuel + 1, lv, n =>
    if hasRoom s ctx launch line lv then (some lv, n)
    else
      match outward lv with
      | some l => findLevel s ctx launch line fuel l (n + 1)
      | none => (none, n + 1)

/-- The placement of a line: the level, or none for a home write, and the levels it moves outward (R69, R77). -/
def placeLine (s : State) (ctx launch line : Nat) (target : Level) : Option Level × Nat :=
  if locketSetFull s line && (locketAt s line).isNone then (none, levelDist target)
  else findLevel s ctx launch line 3 target 0

/-! ### Lockets -/

/-- Revokes the parked copies of a line (R112). -/
def revokeParked (s : State) (line : Nat) : State :=
  { s with coh := { s.coh with copies := s.coh.copies.filter fun c => !(c.parked && c.line == line) } }

/-- Removes a locket; the parked copies of its line are revoked. -/
def dropLocket (s : State) (line : Nat) : State :=
  revokeParked { s with coh := { s.coh with lockets := s.coh.lockets.filter fun k => k.line != line } } line

/-- Lists a locket in place of any for its line. -/
def putLocket (s : State) (k : Locket) : State :=
  { s with coh := { s.coh with lockets := k :: s.coh.lockets.filter fun x => x.line != k.line } }

/-- The die to whose slice an unparked line returns (R70): the rule says its die slice, and does not say which of several replicas'; the
model takes the lowest-numbered die of them (assumption 57). -/
def unparkDie (k : Locket) : Nat :=
  match k.level with
  | .l1 c => c / 128
  | .quad q => q / 32
  | .slice d => d
  | .comb d => d
  | .repl m => (setBits 8 m.toNat).headD 0

/-- A parked line as it lies once unparked: dirty, in its die slice. -/
def unparked (k : Locket) : L2Line := L2Line.mk0 (unparkDie k) k.line .m k.data k.key k.tag

/-- Unparks a line: the locket goes, and the line returns dirty to its die slice (R70), which writes it back at once when no
way of its set is free. -/
def unpark (s : State) (line : Nat) : State :=
  match locketAt s line with
  | none => s
  | some k =>
    let s1 := dropLocket s line
    if wayFree s1 (unparkDie k) line then putL2 s1 (unparked k) else writeBack s1 (unparked k)

/-- Writes a parked line home and frees its locket (R76). -/
def parkedHome (s : State) (line : Nat) : State :=
  match locketAt s line with
  | none => s
  | some k => writeBack (dropLocket s line) (unparked k)

/-- Parks a line that is not on its way anywhere: the L2s give it up and a locket is made (R68, R69). -/
def makeLocket (s : State) (line : Nat) (set : RSet) (force : Nat) (lv : Level) (data : LineData) (key ctx launch : Nat) :
    State :=
  let tag := match l2Any s line with
    | some h => h.tag
    | none => windowTag s line ctx
  let s0 := landLine s line
  let s1 := makeRoom { s0 with coh := { s0.coh with l2 := s0.coh.l2.filter fun x => x.line != line } } lv line
  putLocket { s1 with nextId := s1.nextId + 1 } ⟨line, set, force, lv, data, key, ctx, launch, s.nextId, tag⟩

/-- Gives a locket a new set and re-parks its line, moving outward for want of room; without any room it is written home
(R73, R75, R77). The levels moved are returned. -/
def rePark (s : State) (k : Locket) (set : RSet) (force launch : Nat) : State × Nat :=
  let l := launchOf s launch
  let p := placeLine s k.ctx launch k.line (levelFor l set force k.line)
  match p.1 with
  | some lv => (putLocket (makeRoom (revokeParked s k.line) lv k.line) { k with rset := set, force := force, level := lv, launch := launch },
      p.2)
  | none => (parkedHome s k.line, p.2)

/-- Moves a line parked in a core's L1 to its quad store, or home if the quad store has no room (R61, R363). -/
def quadOrHome (s : State) (k : Locket) (core : Nat) : State :=
  if hasRoom s k.ctx k.launch k.line (.quad (core / 4)) then
    putLocket (makeRoom (revokeParked s k.line) (.quad (core / 4)) k.line) { k with level := .quad (core / 4) }
  else parkedHome s k.line

/-- Re-parks every line parked in a core's L1. -/
def clearL1Parked (s : State) (core : Nat) : State :=
  (s.coh.lockets.filter fun k => k.level == .l1 core).foldl (fun acc k => quadOrHome acc k core) s

/-- The union of a set with a core, as the locate unit forms it (R73). -/
def unionCore (l : Launch) (s : RSet) (c : VCore) : RSet :=
  match s with
  | .cores d q m =>
    if c.1 = d then
      if c.2.1 = q then .cores d q (m ||| BitVec.ofNat 4 (2 ^ c.2.2))
      else .quads d (BitVec.ofNat 32 (2 ^ q) ||| BitVec.ofNat 32 (2 ^ c.2.1))
    else .dies (BitVec.ofNat 8 (2 ^ d) ||| BitVec.ofNat 8 (2 ^ c.1))
  | .quads d m =>
    if c.1 = d then .quads d (m ||| BitVec.ofNat 32 (2 ^ c.2.1))
    else .dies (BitVec.ofNat 8 (2 ^ d) ||| BitVec.ofNat 8 (2 ^ c.1))
  | .dies m => .dies (m ||| BitVec.ofNat 8 (2 ^ c.1))
  | .all => .dies (gridMask l ||| BitVec.ofNat 8 (2 ^ c.1))

/-- Adds a core to a parked line's set and re-parks it (R73): FORCE is kept if the new set allows it. The set stays in the numbers of
the launch that stored it, where every die has one; for KIND 6 the dies of that launch's grid are joined. -/
def locateResolve (s : State) (k : Locket) (core : Nat) : State :=
  let l := launchOf s k.launch
  let set := unionCore l k.rset (anyDie l (core / 128), virtQuad l (core / 4), virtCore l core)
  (rePark s k set (if forceOk set k.force then k.force else 0) k.launch).1

/-- A set without the dies of a mask of physical dies (R386); none when no die is left in it. -/
def setWithout (l : Launch) (set : RSet) (mask : BitVec 8) : Option RSet :=
  let keep (m : BitVec 8) : BitVec 8 :=
    BitVec.ofNat 8 ((setBits 8 m.toNat).foldl (fun acc v => if mask.getLsbD (physOf l v) then acc else acc + 2 ^ v) 0)
  let dies (m : BitVec 8) : Option RSet := if keep m = 0 then none else some (if keep m = m then set else canonDies l (keep m))
  match set with
  | .cores d _ _ => if mask.getLsbD (physOf l d) then none else some set
  | .quads d _ => if mask.getLsbD (physOf l d) then none else some set
  | .dies m => dies m
  | .all => dies (gridMask l)

/-- The location word of R74 for a line, in the virtual numbers of a launch. -/
def locationWord (s : State) (launch line : Nat) : Word :=
  match locketAt s line with
  | none => 0
  | some k =>
    let l := launchOf s launch
    let dieBits (d : Nat) : Nat := match virtDie? l d with
      | some v => v % 8 * 2 ^ 8
      | none => d % 8 * 2 ^ 8 + 2 ^ 11
    match k.level with
    | .l1 c => BitVec.ofNat 64 (1 + dieBits (c / 128) + virtQuad l (c / 4) * 2 ^ 16 + virtCore l c * 2 ^ 24)
    | .quad q => BitVec.ofNat 64 (2 + dieBits (q / 32) + virtQuad l q * 2 ^ 16)
    | .slice d => BitVec.ofNat 64 (3 + dieBits d)
    | .repl m => BitVec.ofNat 64 (4 + (setBits 8 m.toNat).foldl
        (fun acc d => acc + (match virtDie? l d with
          | some v => 2 ^ (32 + v % 8)
          | none => 0)) 0)
    | .comb d => BitVec.ofNat 64 (5 + dieBits d)

/-! ### Links (R1, R372, R373) -/

/-- Links: 0–7 hub to compute die, 8–15 hub to memory die, 16–23 side bridges, 24–47 Filuth ports. -/
def linkCount : Nat := 48

/-- Whether a link carries traffic: it has been trained (R383) and is not down. -/
def linkUp (s : State) (l : Nat) : Bool := !(linkOf s l).down && (linkOf s l).rev != 0

/-- The links between the hub and a compute die, on the detour while its own is not up (R1, R373). -/
def linksToDie (s : State) (d : Nat) : List Nat := if linkUp s d then [d] else [16 + d, 8 + d]

/-- The links between the hub and a memory die. -/
def linksToMem (s : State) (m : Nat) : List Nat := if linkUp s (8 + m) then [8 + m] else [16 + m, m]

/-- The links between a compute die and a memory die: the side bridge to its own, the hub to the others (R1). -/
def linksBetween (s : State) (d m : Nat) : List Nat :=
  if d = m then (if linkUp s (16 + m) then [16 + m] else [d, 8 + m]) else linksToDie s d ++ linksToMem s m

/-- Whether a compute die is reached, by its hub link or by its side bridge and memory die (R31, R373). -/
def dieReachable (s : State) (d : Nat) : Bool := (linksToDie s d).all (linkUp s)

/-- The dies on which a parked line lies. -/
def parkDies (lv : Level) : List Nat := (List.range 8).filter fun d => levelOn (BitVec.ofNat 8 (2 ^ d)) lv

/-- The links that an access at the slice of a die uses when it is served: from the hub, where spans run; to the hub, which keeps
the directory and the park directory, unless the die has the line as the access needs it; and to the holder or the memory that
the line comes from. -/
def accessLinks (s : State) (fromHub : Bool) (die pa : Nat) (write : Bool) : List Nat :=
  let line := lineOf pa
  let own := if fromHub then linksToDie s die else []
  let held (d : Nat) : List Nat := if d = die then [] else linksToDie s d
  match locketAt s line with
  | some k => if parkDies k.level = [die] then own else linksToDie s die ++ (parkDies k.level).flatMap held
  | none =>
    match l2At s die line with
    | some l => if write = true ∧ (l.st = .s ∨ l.st = .o) then linksToDie s die else own
    | none =>
      linksToDie s die ++
        match l2Owner s line, wbAt s line, s.coh.l2.find? (fun l => l.line == line && l.st == .e) with
        | some o, _, _ => held o.die
        | _, some w, _ => held w.held.die
        | _, _, some h => held h.die
        | _, _, _ => if isHbm pa then linksBetween s die (homeDie pa) else []

/-- Whether the links that an access uses are up. -/
def linksReady (s : State) (fromHub : Bool) (die pa : Nat) (write : Bool) : Bool :=
  (accessLinks s fromHub die pa write).all (linkUp s)

/-! ### Accesses held at the hub (R375, R387) -/

/-- Whether a die pair behind an access is being reset, so that the hub holds it (R387). -/
def heldAtHub (s : State) (pa : Nat) : Bool := s.hub.partBusy && isHbm pa && s.hub.partMask.getLsbD (homeDie pa)

/-- Whether the encryption engines of a memory die have been trained and have yet to get their keys: its range is not served (R384). -/
def keyless (m : MDie) : Bool := m.trained && !m.keysIn

/-- Whether the hub holds every request for a line now: its entry is not known, its home is being reset, or its home has no keys yet
(R375, R384, R387). -/
def lineHeld (s : State) (line : Nat) : Bool :=
  lineUnknown s line || heldAtHub s (128 * line) || (isHbm (128 * line) && keyless (mdieOf s (homeDie (128 * line))))

/-- Whether the hub holds no request of any line. -/
def hubFree (s : State) : Bool := s.coh.ulines.isEmpty && !s.hub.partBusy && s.mdies.all fun p => !keyless p.2

/-- Whether a held access is still to be performed. -/
def heldLive (s : State) (h : HeldAcc) : Bool :=
  match h.who with
  | .lane th seq lane => s.ops.any fun p => p.2.thread == th && p.2.seq == seq && p.2.lanes.any fun a =>
      a.lane == lane && (match a.phase with
        | .done => false
        | .failed _ _ _ _ => false
        | _ => true)
  | .engine core queue seq progress => s.engq.any fun p => p.2.core == core && p.2.queue == queue && p.2.seq == seq
      && p.2.progress == progress && !p.2.finished && !p.2.failing
  | .host _ _ _ _ => true

/-- Whether an access to a line may go: accesses that the hub held before it have gone, those for the same line, and for one held
for a pair those for the pair (R375, R387). -/
def heldTurn (s : State) (who : Holder) (line : Nat) : Bool :=
  let q := s.hub.held.filter (heldLive s)
  match q.find? fun h => h.who == who && h.line == line with
  | some me =>
    ((q.takeWhile fun h => h != me).all fun h =>
      h.line != line && !(me.pair && h.pair && homeDie (128 * h.line) == homeDie (128 * line)))
  | none => q.all fun h => h.line != line

end Sys2Proof.Machine
end

