-- ==== Sys2Proof/Machine/Sched.lean ====
section
/-!
DEFINITION. The active and pending sets of an issue partition (R44, R45), splitting, unseating and merging of contexts
(R23, R38 to R40), and the in-flight counters (R79).
-/
namespace Sys2Proof.Machine
open Sys2Proof

/-! ### Partitions (R44) -/

/-- The strands resident on a partition, with their threads. -/
def partStrands (s : State) (core part : Nat) : List (Nat × Thread × Seat) :=
  s.threads.filterMap fun p =>
    match p.2.seat with
    | some st => if st.core = core ∧ st.part = part then some (p.1, p.2, st) else none
    | none => none

/-- The number of active strands of a partition. -/
def activeCount (s : State) (core part : Nat) : Nat := ((partStrands s core part).filter fun p => p.2.2.active).length

/-- Changes the seat of a strand. -/
def modSeat (s : State) (id : Nat) (f : Seat → Seat) : State := modThr s id fun t => { t with seat := t.seat.map f }

/-- The pending strand that has been ready longest, if one is ready (R44). Of several ready equally long, the lowest thread number
goes first: the model's choice (assumption 57). -/
def oldestReady (s : State) (core part : Nat) : Option (Nat × Nat) :=
  ((partStrands s core part).filterMap fun p =>
    match p.2.2.active, p.2.2.readyAt with
    | false, some at0 => some (p.1, at0)
    | _, _ => none).foldl
    (fun (best : Option (Nat × Nat)) c => match best with
      | none => some c
      | some b => if c.2 < b.2 then some c else some b) none

/-- Fills a free place in an active set: by the oldest ready pending strand, or else the earliest resident (R44). -/
def fillActive (s : State) (core part : Nat) : State :=
  if 8 ≤ activeCount s core part then s
  else
    let enter (id : Nat) : State := modSeat s id fun st => { st with active := true, since := s.time, readyAt := none, aged := none }
    match oldestReady s core part with
    | some (id, _) => enter id
    | none =>
      match (partStrands s core part).filter fun p => !p.2.2.active with
      | p :: _ => enter p.1
      | [] => s

/-- Swaps an active strand with a pending one: the one that leaves loses its latches (R45), unless it stands descheduled on a
stop, whose latches are saved (R318). -/
def swapStrands (s : State) (out inn : Nat) : State :=
  let leave (t : Thread) : Thread := { t with seat := t.seat.map fun st => { st with
    active := false, latches := if t.stop.isSome then st.latches else [], readyAt := none } }
  modSeat (modThr s out leave) inn fun st => { st with active := true, since := s.time, readyAt := none, aged := none }

/-- Whether the queued blocks of a context have finished; a span has none. -/
def noBlocks (t : Thread) : Bool := t.seat.all fun st => st.blocks.isEmpty

/-- Whether an operation is a load or an atomic of a lane block that may still end in a fault, on which the instructions after it are
undone (R181); one of a region ends the region instead. -/
def unsure (o : Op) : Bool :=
  o.block != 0 && o.region == 0 && (o.path == .ld || o.path == .atm) && !o.back && o.lanes.any fun a => a.phase != .done

/-- Whether no load or atomic of a thread's lane stream, up to a number in its issue order, may still fault. -/
def sureTo (s : State) (id upto : Nat) : Bool := s.ops.all fun o => o.2.thread != id || upto < o.2.seq || !unsure o.2

/-- Whether nothing that the lane stream of a thread has done can be undone. -/
def lanesSure (s : State) (id : Nat) : Bool := s.ops.all fun o => o.2.thread != id || !unsure o.2

/-- Whether the queued blocks of a context have finished for good. -/
def lanesDone (s : State) (id : Nat) (t : Thread) : Bool := noBlocks t && lanesSure s id

/-! ### In-flight counters (R79) -/

/-- The operations of a thread on a path. -/
def pathOps (s : State) (id : Nat) (p : Path) : List (Nat × Op) :=
  s.ops.filter fun o => o.2.thread == id && o.2.path == p

/-- Whether an operation of the list, no later than `seq`, has not returned. -/
def olderOut (l : List (Nat × Op)) (seq : Nat) : Bool := l.any fun o => !o.2.back && o.2.seq ≤ seq

/-- The in-flight count of a path: an operation counts until it and every earlier one have returned. -/
def inFlight (s : State) (id : Nat) (p : Path) : Nat :=
  if p = .cp then (s.engq.filter fun o => o.2.queue == 1 && o.2.members == [id] && !o.2.finished).length
  else ((pathOps s id p).filter fun o => olderOut (pathOps s id p) o.2.seq).length

/-- Whether an operation wrote a line that a translation still to be dropped, or whose drop is still to be acknowledged, was made
from (R347). -/
def waitsTlb (s : State) (o : Op) : Bool :=
  s.coh.tlb.any fun t => t.stale.isSome && o.lanes.any fun a => t.lines.contains (lineOf a.pa)

/-- Removes the operations that have returned, whose lanes are all performed, which wait for no translation to be dropped, and
before which none is outstanding. -/
def purgeOps (s : State) (id : Nat) (p : Path) : State :=
  let l := pathOps s id p
  let gone (o : Nat × Op) : Bool :=
    o.2.thread == id && o.2.path == p && !(olderOut l o.2.seq) && !(o.2.path == .st && waitsTlb s o.2) &&
      o.2.lanes.all fun a => match a.phase with
        | .done => true
        | .failed _ _ _ _ => true
        | _ => false
  { s with ops := s.ops.filter fun o => !(gone o) }

/-- Folds a write completion time into a thread's `wct` (R102). -/
def foldWct (t : Thread) (w : Wct) : Thread :=
  { t with wct := if t.wct.toNat < w.own then BitVec.ofNat 64 w.own else t.wct, wide := t.wide.join w }

/-- The write completion time that a release at a scope waits for (R104). -/
def releaseAt (t : Thread) (scope : Nat) : Nat := if scope = 0 then t.wct.toNat else max t.wct.toNat (t.wide.at scope)

/-- A completed release at a scope folds into `wct` what its writes took at that scope (R104). -/
def foldRelease (t : Thread) (scope : Nat) : Thread := { t with wct := BitVec.ofNat 64 (releaseAt t scope) }

/-! ### Splitting (R23) -/

/-- A box cut at a boundary of an axis: below, and at or above. -/
def cutBox (b : Box) (ax : Axis) (t : Nat) : Box × Box :=
  match ax with
  | .x => ({ b with x1 := t }, { b with x0 := t })
  | .y => ({ b with y1 := t }, { b with y0 := t })
  | .z => ({ b with z1 := t }, { b with z0 := t })

/-- Whether a boundary falls strictly inside a box. -/
def cutsBox (b : Box) (ax : Axis) (t : Nat) : Bool :=
  match ax with
  | .x => b.x0 < t && t < b.x1
  | .y => b.y0 < t && t < b.y1
  | .z => b.z0 < t && t < b.z1

/-- Acts on a span by the value of a condition: the whole span, or each part of a split (R23). -/
def onSpan (s : State) (t : Thread) (v : CVal) (neg : Bool) (act : State → Nat → Thread → Bool → State) : State :=
  match v with
  | .u b => act s s.cur t (b != neg)
  | .t ax tt below =>
    if cutsBox t.box ax tt then
      let lo := { t with box := (cutBox t.box ax tt).1 }
      let hi := { t with box := (cutBox t.box ax tt).2 }
      let id := s.nextId
      let s1 : State := { putThr (putThr s s.cur lo) id hi with nextId := id + 1 }
      act (act s1 s.cur lo (below != neg)) id hi ((!below) != neg)
    else act s s.cur t (cvalAt v 0 { x := t.box.x0, y := t.box.y0, z := t.box.z0 } != neg)
  | .m _ => act s s.cur t neg

/-- The cycles in which timer values come to registers, counted from `to0` on another die as they were from `now` (R195). -/
def rebase (due : Tab Nat) (now to0 : Nat) : Tab Nat :=
  due.filterMap fun p => if now < p.2 then some (p.1, to0 + (p.2 - now)) else none

/-! ### Unseating (R38) -/

/-- A run continued by an item that follows it in its row. -/
def runOn (b i : Box) : Option Box :=
  if b.x1 = i.x0 ∧ b.y0 = i.y0 ∧ b.z0 = i.z0 then some { b with x1 := i.x1 } else none

/-- A box of one layer continued by an equal run of the next row. -/
def rowOn (b r : Box) : Option Box :=
  if b.x0 = r.x0 ∧ b.x1 = r.x1 ∧ b.z0 = r.z0 ∧ b.y1 = r.y0 then some { b with y1 := r.y1 } else none

/-- A box continued by an equal box of the next layer. -/
def layerOn (b r : Box) : Option Box :=
  if b.x0 = r.x0 ∧ b.x1 = r.x1 ∧ b.y0 = r.y0 ∧ b.y1 = r.y1 ∧ b.z1 = r.z0 then some { b with z1 := r.z1 } else none

/-- Adds a box to a list: it continues the first that it may, or stands by itself behind them. -/
def joinRun (on : Box → Box → Option Box) : List Box → Box → List Box
  | [], r => [r]
  | b :: rest, r =>
    match on b r with
    | some u => u :: rest
    | none => b :: joinRun on rest r

/-- The maximal runs of consecutive live slots in one row, as boxes, joined with those of adjacent rows that make a box with
them (R38). -/
def runBoxes (items : List Item) : List Box :=
  let runs := items.foldl (fun acc i => joinRun runOn acc (itemBox i)) []
  (runs.foldl (joinRun rowOn) []).foldl (joinRun layerOn) []

/-- Whether `unseat` is legal for a strand (R38, R215). -/
def unseatOk (s : State) (id : Nat) (t : Thread) (st : Seat) : Bool :=
  st.live == 0 && !(t.sregs.any fun p => isM p.2)
    && !(t.conds.any fun p => match p.2 with
      | .m _ => true
      | _ => false)
    && st.am == st.seated
    && !(s.engq.any fun o => o.2.queue != 1 && o.2.members.contains id && tabGet 0 o.2.batch id == 0)

/-- Lists threads under new numbers. -/
def addThreads (s : State) : List Thread → State
  | [] => s
  | t :: rest => addThreads { putThr s s.nextId t with nextId := s.nextId + 1 } rest

/-- A strand has left its partition: the rows it gives up may come to another of its context as it leaves them (R394). -/
def leaveRows (s : State) (ctx core part : Nat) : State :=
  modCtx s ctx fun c => { c with rows := insertNat c.rows (core * 4 + part) }

/-- Turns a strand into spans that continue with the PC and wait given (R38, R215); the WCTs of its returned copies fold. -/
def unseatStrand (s : State) (id : Nat) (t : Thread) (st : Seat) (pc : Word) (w : Wait) : State :=
  let boxes := runBoxes ((lanesOf st.seated).map fun L => slotItem s t st L)
  let copies := s.engq.filter fun o => o.2.queue == 1 && o.2.members == [id] && o.2.finished
  let t0 := copies.foldl (fun acc o => foldWct acc o.2.wct) t
  let span (b : Box) : Thread :=
    { t0 with box := b, home := virtDie (launchOf s t.launch) (st.core / 128), pc := pc, wait := w, seat := none, blockNo := 0,
              pkdem := 0, batch := 0, mark := none, dirtyS := 0, movedAt := s.time,
              toks := t.toks.map fun k => { k with mask := 0, exit := 0 } }
  let s1 : State := { s with
    threads := tabDel s.threads id
    engq := s.engq.filter fun o => !(copies.any fun c => c.1 == o.1) }
  let s2 := leaveRows (vacateTeams (addThreads s1 (boxes.map span)) st.wg (teamOf s t st)) t.ctx st.core st.part
  hbarAdvance s2 t.launch

/-! ### Merging (R40) -/

/-- The union of two adjacent boxes, when it is a box. -/
def joinBoxes (a b : Box) : Option Box :=
  let ex := decide (a.x0 = b.x0 ∧ a.x1 = b.x1)
  let ey := decide (a.y0 = b.y0 ∧ a.y1 = b.y1)
  let ez := decide (a.z0 = b.z0 ∧ a.z1 = b.z1)
  let un : Box := ⟨min a.x0 b.x0, max a.x1 b.x1, min a.y0 b.y0, max a.y1 b.y1, min a.z0 b.z0, max a.z1 b.z1⟩
  if ey && ez && (a.x1 == b.x0 || b.x1 == a.x0) then some un
  else if ex && ez && (a.y1 == b.y0 || b.y1 == a.y0) then some un
  else if ex && ey && (a.z1 == b.z0 || b.z1 == a.z0) then some un
  else none

/-- Whether a result of an access of a thread is still to come. -/
def resultDue (s : State) (id : Nat) : Bool := s.ops.any fun o => o.2.thread == id && !o.2.back && o.2.dst != .none

/-- A pending release part of either of two threads, over the operations of both (R104). -/
def mergeRel (a b : Thread) : Option (Nat × Nat) :=
  match a.rel, b.rel with
  | none, none => none
  | some (x, _), none => some (x, a.seqNo + b.seqNo)
  | none, some (y, _) => some (y, a.seqNo + b.seqNo)
  | some (x, _), some (y, _) => some (max x y, a.seqNo + b.seqNo)

/-- The merge of two spans held at one `sjoin`, when they qualify before either window has expired at `now`, in cycles of their
home die (R39, R40, R162, R328). R40 and R162 do not name `pkdem`, `ctxid` and the kinds of the tokens; the model asks that they be equal
too. Nor do they say whose `batch` the merged span keeps: it is that of the lower-numbered thread (the model's choices, assumption 57). -/
def mergeThr (now : Nat) (a b : Thread) : Option Thread :=
  match a.wait, b.wait with
  | .sjoin ea, .sjoin eb =>
    if now < ea ∧ now < eb ∧ a.launch = b.launch ∧ a.pc = b.pc ∧ a.home = b.home ∧ a.sregs = b.sregs ∧ a.conds = b.conds ∧
        a.toks.map (fun k => (k.kind, k.pc)) = b.toks.map (fun k => (k.kind, k.pc)) ∧ a.aflags = b.aflags ∧
        a.aenable = b.aenable ∧ a.ctxid = b.ctxid ∧ a.pkdem = b.pkdem then
      (joinBoxes a.box b.box).map fun un =>
        { a with box := un, wct := if a.wct.toNat < b.wct.toNat then b.wct else a.wct, wide := a.wide.join b.wide, wait := .sjoin (min ea eb),
                 seen := maxTab2 a.seen b.seen, seqAt := max a.seqAt b.seqAt, rel := mergeRel a b, seqNo := a.seqNo + b.seqNo }
    else none
  | _, _ => none

/-- The first pair of threads that merges. Where several pairs qualify, that of the lowest thread numbers goes first: the
model's choice (assumption 57). -/
def findMerge (now : Thread → Nat) : List (Nat × Thread) → Option (Nat × Nat × Thread)
  | [] => none
  | p :: rest =>
    match firstSome (rest.map fun q => (mergeThr (now p.2) p.2 q.2).map fun m => (q.1, m)) with
    | some (j, m) => some (p.1, j, m)
    | none => findMerge now rest

/-- The cycle count of a span's home die, by which its join window runs (R39). -/
def homeCc (s : State) (t : Thread) : Nat := dieCc (dieOf s (physDie s t)) s.time

/-- The operations of thread `j`, still to be performed or acknowledged, become thread `i`'s, behind its own. -/
def moveOps (s : State) (i j : Nat) : State :=
  let base := ((tabFind s.threads i).map (·.seqNo)).getD 0
  { s with ops := s.ops.map fun o =>
      (o.1, if o.2.thread = j then { o.2 with thread := i, seq := o.2.seq + base, after := o.2.after + base } else o.2) }

/-- Merges held spans until no pair qualifies; each merge removes a thread. A span whose registers still wait for a result merges
when it has come. -/
def mergeAll : Nat → State → State
  | 0, s => s
  | n + 1, s =>
    match findMerge (homeCc s) (s.threads.filter fun p => !(resultDue s p.1)) with
    | some (i, j, m) =>
      let s1 := moveOps s i j
      mergeAll n { s1 with threads := tabDel (tabPut s1.threads i m) j }
    | none => s

/-- Merging among the spans held at any `sjoin` (R40). -/
def mergeHeld (s : State) : State := mergeAll s.threads.length s

/-- Merging after a result has come to a thread, if it is held. -/
def mergeAfter (s : State) (id : Nat) : State :=
  match tabFind s.threads id with
  | some t => match t.wait with
    | .sjoin _ => mergeHeld s
    | _ => s
  | none => s

end Sys2Proof.Machine
end

