-- ==== Sys2Proof/Machine/Commute.lean ====
section
/-!
DEFINITION. Commutative ranges at the combining slice (R87 to R90), and the hub's accesses, which combine a line first and
bring one that another package owns home (R370).
-/
namespace Sys2Proof.Machine
open Sys2Proof

/-! ### Commutative ranges (R87 to R90) -/

/-- The commutative range of a launch that holds a virtual address, and its position in the range. -/
def crangeOf (s : State) (launch va : Nat) : Option CRange :=
  (launchOf s launch).ranges.find? fun c => c.base ≤ va && va < c.base + c.len

/-- Bytes of an element of a format: 0 f32, 1 f64, 2 s64, 3 n64. -/
def crBytes (fmt : Nat) : Nat := if fmt = 0 then 4 else 8

/-- The range's operation on two elements (R88). -/
def crOp (c : CRange) (x y : Nat) : Nat :=
  if c.fmt ≤ 1 then
    let f := if c.fmt = 0 then F32 else F64
    if c.op = 0 then (opAdd f 0 false x y).1 else (opMinMax f false (c.op == 2) false x y).1
  else if c.op = 0 then (x + y) % 2 ^ 64
  else if c.fmt = 2 then
    if c.op = 1 then (if sext 64 x ≤ sext 64 y then x else y) else (if sext 64 x ≤ sext 64 y then y else x)
  else if c.op = 1 then min x y else max x y

/-- The partials of a line, in ascending order of virtual die, quad and core (R90). -/
def linePartials (s : State) (line : Nat) : List Partial :=
  let key (p : Partial) : Nat := let l := launchOf s p.launch
    virtDie l (p.core / 128) * 128 + virtQuad l (p.core / 4) * 4 + virtCore l p.core
  (s.coh.partials.filter fun p => p.line == line).mergeSort fun a b => key a ≤ key b

/-- Folds one partial into a line. -/
def foldPartial (c : CRange) (d : LineData) (p : Partial) : LineData :=
  let n := crBytes c.fmt
  p.elems.foldl (fun acc e => linePut acc (e.1 * n) n (crOp c (lineGet acc (e.1 * n) n) e.2.toNat)) d

/-- Combines a line: every contributor's partial is folded into the combining slice's value, and the contributors are
cleared (R90). It is a committed write (R131); a line with live tags stays in the slice that holds it (R132). Where that value is
poisoned, which the manual does not speak of, the partials are lost with it and the contributors are cleared, as they are where the
line's home has failed (R378; assumption 47). -/
def combine (s : State) (line : Nat) : State :=
  match linePartials s line with
  | [] => s
  | p0 :: rest =>
    let ps := p0 :: rest
    let die := sliceOf s line
    let cleared (x : State) : State :=
      { x with coh := { x.coh with partials := x.coh.partials.filter fun p => p.line != line } }
    if roLine s line ∨ inFailedRange s (128 * line) then cleared s
    else
      match takeOwnership (makeWay (recallExcl (unpark s line) line) die line) die line p0.key (launchOf s p0.launch).ctx with
      | (s1, .data d) =>
        let d' := ps.foldl (fun acc p => foldPartial p.range acc p) d
        let s2 : State := { s1 with coh := { s1.coh with
          l2 := s1.coh.l2.map fun x => if x.die = die ∧ x.line = line then { x with data := d' } else x } }
        let s3 := commitPos (cleared s2) die line true true
        let put (acc : State) (n e : Nat) : State :=
          overTentative (stampWrite acc line (e * n) n) die line (e * n) n (lineGet d' (e * n) n)
        ps.foldl (fun acc p => p.elems.foldl (fun acc2 e => put acc2 (crBytes p.range.fmt) e.1) acc) s3
      | (s1, .poison _) => cleared s1

/-! ### The hub's accesses through the whole order (R90, R370) -/

/-- The data with which a line comes home that another package has owned: what that package has written there, which this one does
not know (assumption 2). -/
def recalledData (s : State) : LineData :=
  BitVec.ofNat 1024 (ofLeBytes ((List.range 128).map fun k => (Config.freeBits s.freeCtr (300000 + k)).setWidth 8))

/-- A line that another package owns comes home (R370): memory takes its data under the key in force, as a write-back does (R393). -/
def recallHome (s : State) (line : Nat) : State :=
  match s.coh.remote.find? fun r => r.line == line && r.owned with
  | some r =>
    writeBack { s with coh := { s.coh with remote := s.coh.remote.filter fun x => !(x.line == line && x.owned) } }
      (L2Line.mk0 0 line .m (recalledData s) r.key none)
  | none => s

/-- A line made ready for an access of the hub: it comes home, and its partials are combined first. -/
def hubReady (s : State) (line : Nat) : State := combine (recallHome s line) line

/-- A store of the hub to `n` bytes of one line, under the key of a page or, to its own tables, none. -/
def hubStore (s : State) (key : Option Nat) (pa n v : Nat) : State := hubPut (hubReady s (lineOf pa)) key pa n v

/-- A write of the hub to one of its own tables. -/
def hubWrite (s : State) (pa n v : Nat) : State := hubStore s none pa n v

/-- Reads of more than one line: `n` bytes as a list. -/
def hubReadBytes (s : State) (pa n : Nat) : List Byte := (List.range n).map fun k => BitVec.ofNat 8 (hubRead s (pa + k) 1)

/-- Writes of 64-bit words at ascending addresses. -/
def hubWriteWords (s : State) (pa : Nat) : List Word → State
  | [] => s
  | w :: ws => hubWriteWords (hubWrite s pa 8 w.toNat) (pa + 8) ws

end Sys2Proof.Machine
end

