-- ==== Sys2Proof/Machine/Translate.lean ====
section
/-!
DEFINITION. Translation: page table entries and the walk (R345, R346), accessed and dirty bits, cached translations
(R347), and permissions (R252, R352).
-/
namespace Sys2Proof.Machine
open Sys2Proof

/-- V of an entry (R345). -/
def pteV (e : Nat) : Bool := e.testBit 0
/-- W. -/
def pteW (e : Nat) : Bool := e.testBit 1
/-- X. -/
def pteX (e : Nat) : Bool := e.testBit 2
/-- U. -/
def pteU (e : Nat) : Bool := e.testBit 3
/-- LEAF. -/
def pteLeaf (e : Nat) : Bool := e.testBit 4
/-- C64. -/
def pteC64 (e : Nat) : Bool := e.testBit 5
/-- MT. -/
def pteMt (e : Nat) : Nat := bitsAt e 9 3
/-- FRAME as a physical address. -/
def pteFrame (e : Nat) : Nat := bitsAt e 12 36 * 4096
/-- KEY. -/
def pteKey (e : Nat) : Nat := bitsAt e 48 9
/-- ST. -/
def pteSt (e : Nat) : Bool := e.testBit 57
/-- NP. -/
def pteNp (e : Nat) : Bool := e.testBit 58

/-- Bytes a leaf of a level maps. -/
def leafSize (level : Nat) : Nat := if level = 3 then 2 ^ 30 else if level = 2 then 2 ^ 21 else 2 ^ 12

/-- Index of an address into a table of a level. -/
def walkIndex (level va : Nat) : Nat := if level = 4 then bitsAt va 39 18 else bitsAt va (12 + 9 * (level - 1)) 9

/-- Whether the 16 entries of a C64 group agree: equal attributes, A and D apart, consecutive frames, and a first frame
aligned to 64 KiB (R345). -/
def c64Ok (s : State) (addr : Nat) : Bool :=
  let base := addr / 128 * 128
  let attr (e : Nat) : Nat := e % 64 + bitsAt e 8 4 * 2 ^ 8 + bitsAt e 48 16 * 2 ^ 48
  let e0 := hubRead s base 8
  pteFrame e0 % 2 ^ 16 == 0 &&
    (List.range 16).all fun k =>
      let e := hubRead s (base + 8 * k) 8
      attr e == attr e0 && pteFrame e == pteFrame e0 + 4096 * k

/-- Whether a leaf entry breaks a rule of its own (R345, sub-cause 0x03). -/
def leafBad (s : State) (level addr e : Nat) : Bool :=
  bitsAt e 59 5 != 0 || e.testBit 8 || pteFrame e % leafSize level != 0 || (level != 1 && pteC64 e) || 3 ≤ pteMt e
    || pteSt e != isTier2 (pteFrame e) || (pteMt e == 2 && !isHostWin (pteFrame e)) || (level == 1 && pteC64 e && !c64Ok s addr)

/-- What a walk finds. -/
inductive Walk where
  /-- A leaf: the entry, its level and address, and the lines read. -/
  | leaf (pte level addr : Nat) (lines : List Nat)
  /-- A failure: sub-cause, entry and level (R346, R351). -/
  | bad (sub pte level : Nat)
  deriving DecidableEq, Repr

/-- The walk from a table of a level down (R345). -/
def walkFrom (s : State) (va : Nat) : Nat → Nat → List Nat → Walk
  | 0, _, _ => .bad 0x03 0 0
  | level + 1, table, lines =>
    let lv := level + 1
    let addr := table + 8 * walkIndex lv va
    let e := hubRead s addr 8
    let ls := lineOf addr :: lines
    if !pteV e then .bad 0x01 e lv
    else if lv == 1 || (pteLeaf e && lv != 4) then
      if !pteLeaf e || leafBad s lv addr e then .bad 0x03 e lv
      else if !backed s (pteFrame e) then .bad 0x04 e lv
      else .leaf e lv addr ls
    else if bitsAt e 59 5 != 0 || e.testBit 8 || pteC64 e || pteLeaf e then .bad 0x03 e lv
    else if !backed s (pteFrame e) then .bad 0x04 e lv
    else walkFrom s va level (pteFrame e) ls

/-- The walk of an address in a context, from its level-4 table (R345); a non-canonical address has no entry (R54). -/
def walk (s : State) (ctx va : Nat) : Walk :=
  if va / 2 ^ 57 ≠ 0 then .bad 0x02 0 0 else walkFrom s va 4 (ctxOf s ctx).root.toNat []

/-- The page-table lines that a walk from a table of a level down reads (R345). -/
def walkLines (s : State) (va : Nat) : Nat → Nat → List Nat
  | 0, _ => []
  | level + 1, table =>
    let addr := table + 8 * walkIndex (level + 1) va
    let e := hubRead s addr 8
    let leaf := level == 0 || (pteLeaf e && level != 3)
    lineOf addr :: (if !pteV e || leaf || !backed s (pteFrame e) then [] else walkLines s va level (pteFrame e))

/-- A translation in use: physical address, entry and its address. -/
structure Xl where
  pa   : Nat
  pte  : Nat
  addr : Nat
  deriving DecidableEq, Repr

/-- The number of a die's translation cache among the caches, beside its cores' own (R347). -/
def dieUnit (die : Nat) : Nat := 1024 + die

/-- The cache that spans translate through: they run on the hub. -/
def hubUnit : Nat := 1032

/-- Entries a die's cache holds (R347). -/
def dieTlbRoom : Nat := 65536

/-- The translation of a page that a cache holds (R347). -/
def tlbIn (s : State) (unit ctx page : Nat) : Option Tlb :=
  s.coh.tlb.find? fun t => t.unit == unit && t.ctx == ctx && t.page == page && !t.dropped

/-- The cached translation of a page for accesses through a cache: its own, or for a core its die's (R347). -/
def tlbAt (s : State) (unit ctx page : Nat) : Option Tlb :=
  match tlbIn s unit ctx page with
  | some t => some t
  | none => if unit < 1024 then tlbIn s (dieUnit (unit / 128)) ctx page else none

/-- Translates an address for an access through a cache: by the cached translation if there is one, otherwise by a
walk (R347). -/
def translate (s : State) (unit ctx va : Nat) : Except (Nat × Nat × Nat) Xl :=
  if va / 2 ^ 57 ≠ 0 then .error (0x02, 0, 0)
  else
    match tlbAt s unit ctx (va / 4096) with
    | some t => .ok ⟨pteFrame t.pte.toNat + va % leafSize t.level, t.pte.toNat, 0⟩
    | none =>
      match walk s ctx va with
      | .leaf e lv addr _ => .ok ⟨pteFrame e + va % leafSize lv, e, addr⟩
      | .bad sub e lv => .error (sub, e, lv)

/-- Whether nothing in the machine makes an access of the hub wait: it holds no line's requests, and no region has tags. -/
def nothingHeld (s : State) : Bool := hubFree s && s.reg.tags.isEmpty

/-- Whether a read or write of a line by the hub or a walker waits: the hub holds every request for it (R375, R387), or a region that
has answered its freeze has it held at its slice (R136). -/
def lineWaits (s : State) (write : Bool) (line : Nat) : Bool := lineHeld s line || heldByFreeze s (sliceOf s line) line write 0

/-- Whether an access to an address through a cache waits for its translation: for a line that its walk reads, or for the line of the
leaf entry that is to be marked (R345). -/
def xlWaits (s : State) (unit ctx va : Nat) (write : Bool) : Bool :=
  !nothingHeld s && va / 2 ^ 57 == 0 &&
    (((tlbAt s unit ctx (va / 4096)).isNone && (walkLines s va 4 (ctxOf s ctx).root.toNat).any (lineWaits s false)) ||
      match walk s ctx va with
      | .leaf e _ addr _ => (e ||| 0x40 ||| (if write then 0x80 else 0)) != e && lineWaits s true (lineOf addr)
      | .bad _ _ _ => false)

/-- Whether an access to `n` bytes at a physical address waits: one of its lines does. -/
def physWaits (s : State) (pa n : Nat) (write : Bool) : Bool :=
  !nothingHeld s && n != 0 && (List.range ((pa + n - 1) / 128 - pa / 128 + 1)).any fun k => lineWaits s write (lineOf pa + k)

/-- Lists a translation in a cache. A die's cache that is full gives up its oldest entry first (assumption 31). -/
def addTlb (s : State) (t : Tlb) : State :=
  let mine := s.coh.tlb.filter fun x => x.unit == t.unit
  let tlb := match mine.head? with
    | some v => if 1024 ≤ t.unit ∧ t.unit < 1032 ∧ dieTlbRoom ≤ mine.length ∧ v.stale = none then s.coh.tlb.erase v else s.coh.tlb
    | none => s.coh.tlb
  { s with coh := { s.coh with tlb := tlb ++ [t] } }

/-- The walker's reads of the lines of its entries, in its order: each is a read at the line's slice (R131, R345). -/
def walkReads (s : State) (lines : List Nat) : State := lines.reverse.foldl commitRead s

/-- Caches the translation an access has used: a core takes it from its die's cache, which a walk fills with it (R347). -/
def cacheXl (s : State) (unit ctx va : Nat) : State :=
  match tlbIn s unit ctx (va / 4096) with
  | some _ => s
  | none =>
    match tlbAt s unit ctx (va / 4096), walk s ctx va with
    | some t, _ => addTlb s { t with unit := unit }
    | none, .leaf e lv _ lines =>
      let t : Tlb := ⟨unit, ctx, va / 4096, BitVec.ofNat 64 e, lv, lines, none, false⟩
      let s1 := walkReads s lines
      if unit < 1024 then addTlb (addTlb s1 { t with unit := dieUnit (unit / 128) }) t else addTlb s1 t
    | none, .bad _ _ _ => s

/-- The walker's atomic `or` of A, and of D for a write, into the leaf entry, where they are not set (R345): an atomic, so
a parked line is unparked first (R70), and at the slice it reads and writes (R131). -/
def setAD (s : State) (ctx va : Nat) (write : Bool) : State :=
  match walk s ctx va with
  | .leaf e _ addr _ =>
    let e' := e ||| 0x40 ||| (if write then 0x80 else 0)
    if e' = e then s else hubPutAs (unpark (hubReady s (lineOf addr)) (lineOf addr)) true none addr 8 e'
  | .bad _ _ _ => s

/-- Marks an access's translation used: A and D are set and the translation cached (R345, R347). -/
def noteAccess (s : State) (unit ctx va : Nat) (write : Bool) : State := cacheXl (setAD s ctx va write) unit ctx va

/-- The least PROT sub-cause of a data access to a page (R252, R352). -/
def protSub (priv : Bool) (pte : Nat) (write : Bool) : Option Nat :=
  if write && !pteW pte then some 0x01 else if !priv && !pteU pte then some 0x02 else none

/-- The least PROT sub-cause of an instruction fetch (R209, R352). -/
def fetchSub (priv : Bool) (pte : Nat) : Option Nat :=
  if !priv && !pteU pte then some 0x02 else if !pteX pte then some 0x03 else none

/-- Whether every byte of a range translates and may be accessed by the command processor for a context (R342). -/
def rangeOk (s : State) (ctx va n : Nat) (write : Bool) : Bool :=
  if n = 0 then true
  else
    (List.range ((va + n - 1) / 4096 - va / 4096 + 1)).all fun k =>
      match walk s ctx (max va ((va / 4096 + k) * 4096)) with
      | .leaf e _ _ _ => (protSub (ctxOf s ctx).priv e write).isNone
      | .bad _ _ _ => false

/-- The physical address and the key the hub uses for a virtual address, if it translates and allows the access. -/
def hubXl (s : State) (ctx va : Nat) (write : Bool) : Except (Nat × Nat) (Nat × Nat) :=
  match walk s ctx va with
  | .leaf e lv _ _ =>
    match protSub (ctxOf s ctx).priv e write with
    | none => .ok (pteFrame e + va % leafSize lv, pteKey e)
    | some sub => .error (cPROT, sub)
  | .bad sub _ _ => .error (cXLAT, sub)

/-- The number of no translation cache: the hub's own accesses walk. -/
def noUnit : Nat := 1033

/-- Whether an access of the hub to `n` bytes at virtual addresses waits, for a line of a walk or for one of the bytes' own. -/
def rangeWaits (s : State) (ctx va n : Nat) (write : Bool) : Bool :=
  !nothingHeld s && n != 0 && (List.range ((va + n - 1) / 128 - va / 128 + 1)).any fun k =>
    let a := max va ((va / 128 + k) * 128)
    xlWaits s noUnit ctx a write || match hubXl s ctx a write with
      | .ok (pa, _) => lineWaits s write (lineOf pa)
      | .error _ => false

/-- Reads bytes line by line; the first number bounds the lines. -/
def hubReadGo (s : State) (ctx : Nat) : Nat → Nat → Nat → List Byte
  | 0, _, _ => []
  | fuel + 1, va, n =>
    let m := min (128 - va % 128) n
    let here := match hubXl s ctx va false with
      | .ok (pa, key) => leBytes m (hubGet s key pa m)
      | .error _ => List.replicate m 0
    if n = 0 then [] else here ++ hubReadGo s ctx fuel (va + m) (n - m)

/-- Reads `n` bytes at virtual addresses for the hub, under the keys of their pages; a byte that does not translate reads 0. -/
def hubReadVa (s : State) (ctx va n : Nat) : List Byte := hubReadGo s ctx (n / 128 + 2) va n

/-- A read of `n` bytes at virtual addresses by the hub marks their pages accessed (R345). -/
def hubTouch (s : State) (ctx va n : Nat) : State :=
  if n = 0 then s
  else (List.range ((va + n - 1) / 4096 - va / 4096 + 1)).foldl (fun acc k =>
    setAD acc ctx (max va ((va / 4096 + k) * 4096)) false) s

/-- Writes bytes line by line; the first number bounds the lines. -/
def hubWriteGo (s : State) (ctx : Nat) : Nat → Nat → List Byte → State
  | 0, _, _ => s
  | fuel + 1, va, bs =>
    let m := min (128 - va % 128) bs.length
    let s1 := match hubXl s ctx va true with
      | .ok (pa, key) => staleTlb (hubStore (setAD s ctx va true) (some key) pa m (ofLeBytes (bs.take m))) (lineOf pa)
      | .error _ => s
    if bs.isEmpty then s else hubWriteGo s1 ctx fuel (va + m) (bs.drop m)

/-- Writes bytes at virtual addresses for the hub: each page is marked accessed and dirty (R345), and its key encrypts. -/
def hubWriteVa (s : State) (ctx va : Nat) (bs : List Byte) : State := hubWriteGo s ctx (bs.length / 128 + 2) va bs

end Sys2Proof.Machine
end

