-- ==== Sys2Proof/Machine/Control.lean ====
section
/-!
DEFINITION. Control flow of the scalar stream: branches, calls, jumps and exit (R205 to R210), lane blocks (R211), token
instructions (R212, R213), seating and joining (R214 to R216), `snooze` (R217) and the system group (R218 to R223).
-/
namespace Sys2Proof.Machine
open Sys2Proof

/-- A word offset from the PC. -/
def target (t : Thread) {n : Nat} (off : BitVec n) : Word := t.pc + off.signExtend 64 * 4

/-- A stop of a thread that is not the acting one alone: a strand takes it, a span seats and takes it in each strand
(R186). -/
def stopThr (s : State) (id : Nat) (t : Thread) (p : Stop) : State :=
  match t.seat with
  | some _ => takeStop s id p
  | none => seatSpan s id t (some p)

/-- A TOK fault: word 6 is the depth of the stack (R351, R352). -/
def tokStop (s : State) (t : Thread) (sub : Nat) : Stop :=
  { mkStop s t .fault cTOK sub t.pc with w6 := BitVec.ofNat 64 t.toks.length }

/-- Takes a TOK fault at the acting thread. -/
def tokFault (s : State) (t : Thread) (sub : Nat) : Out := .next (stopThr s s.cur t (tokStop s t sub))

/-- The `am` a token pushed by a context holds; a span's tokens carry no mask (R24). -/
def amOf (t : Thread) : W32 := (t.seat.map (·.am)).getD 0

/-- Decides a branch condition: a span by its form, a strand only by U (R205). -/
def branchOn (s : State) (t : Thread) (c : BitVec 3) (neg : Bool) (act : State → Nat → Thread → Bool → State) : Out :=
  match t.seat with
  | none => .next (onSpan s t (getC t c) neg act)
  | some _ =>
    match getC t c with
    | .u b => .next (act s s.cur t (b != neg))
    | _ => fault s t cCONV 0x01

/-- `br` (R205). -/
def execBr (c : BitVec 3) (n : BitVec 1) (o : BitVec 22) (s : State) : Out :=
  scalar (.br c n o) s fun t =>
    branchOn s t c (bit n) fun s1 id t1 take =>
      putThr s1 id { t1 with pc := if take then target t1 o else t1.pc + 4 }

/-- `call` (R206): a full stack raises TOK and the call has no effect. -/
def execCall (c : BitVec 3) (n : BitVec 1) (o : BitVec 22) (s : State) : Out :=
  scalar (.call c n o) s fun t =>
    branchOn s t c (bit n) fun s1 id t1 take =>
      if !take then putThr s1 id (advance t1 4)
      else if 32 ≤ t1.toks.length then stopThr s1 id t1 (tokStop s1 t1 0x01)
      else putThr s1 id { t1 with pc := target t1 o, toks := ⟨.call, t1.pc + 4, amOf t1, 0⟩ :: t1.toks }

/-- `jmp` (R208). The address that a misaligned one names is no access: word 1 of the record of ALIGN is 0 (R353). -/
def execJmp (a : SReg) (s : State) : Out :=
  scalar (.jmp a) s fun t =>
    match getS t a with
    | .u v => if v.toNat % 4 ≠ 0 then fault s t cALIGN 0 else done s { t with pc := v }
    | _ => fault s t cCONV 0x01

/-- `ret` (R207). -/
def execRet (s : State) : Out :=
  scalar .ret s fun t =>
    match t.toks with
    | k :: rest =>
      if k.kind = .call then
        match t.seat with
        | none => done s { t with pc := k.pc, toks := rest }
        | some st => withMask s t st k.mask k.pc rest
      else tokFault s t 0x07
    | [] => tokFault s t 0x07

/-- `exit` (R210): a span retires whole; a strand retires the lanes in `am` and resumes. -/
def execExit (s : State) : Out :=
  scalarOutside .exit s fun t =>
    match t.seat with
    | none => .next (retireBoxes { s with threads := tabDel s.threads s.cur } t.launch (threadBoxes s t))
    | some st => .next (resumeStrand (retireSlots s s.cur t st st.am) s.cur)

/-- `lx` (R211): captures and queues a lane block (R180). -/
def execLx (w : BitVec 32) (s : State) : Out :=
  scalar (.lx w) s fun t =>
    inStrand s t fun st =>
      let b : Block :=
        { seq := t.blockNo + 1, lxSeq := t.seqNo, lpc := w.toNat, pos := 0, am := st.am, sregs := t.sregs, kregs := st.kregs }
      done s (advance { t with blockNo := t.blockNo + 1, seat := some { st with blocks := st.blocks ++ [b] } } 8)

/-! ### Token instructions -/

/-- Pushes a token; a full stack raises TOK (R41). -/
def pushTok (s : State) (t : Thread) (k : TokKind) (o : BitVec 21) : Out :=
  if 32 ≤ t.toks.length then tokFault s t 0x01
  else done4 s { t with toks := ⟨k, target t o, amOf t, 0⟩ :: t.toks }

/-- `jtok` (R212). -/
def execJtok (o : BitVec 21) (s : State) : Out := scalar (.jtok o) s fun t => pushTok s t .join o

/-- `lpb` (R212). -/
def execLpb (o : BitVec 21) (s : State) : Out := scalar (.lpb o) s fun t => pushTok s t .loop o

/-- The slots in which a token instruction's condition is true (R42, R212). -/
def condMask (s : State) (t : Thread) (st : Seat) (k : BitVec 3) (ks neg : BitVec 1) : W32 :=
  let m := if bit ks then materialiseC s t st (getC t k) else predOf st k.toNat
  if bit neg then ~~~m else m

/-- Runs a token instruction with a condition: a span with KS = 0 seats first (R167, R212). -/
def tokOn (s : State) (t : Thread) (ks : BitVec 1) (span : Out) (strand : Seat → Out) : Out :=
  match t.seat with
  | some st => strand st
  | none => if bit ks then span else .next (seatSpan s s.cur t none)

/-- The depth of the token stack at the `rbeg` of the live region, 0 outside one (R123, R128). -/
def regionDepth (s : State) (st : Seat) : Nat :=
  if st.region = 0 then 0 else ((tabFind s.reg.regions st.region).map (·.depth)).getD 0

/-- `dvg` (R212, R42, R23). -/
def execDvg (k : BitVec 3) (ks neg : BitVec 1) (o : BitVec 21) (s : State) : Out :=
  scalar (.dvg k ks neg o) s fun t =>
    tokOn s t ks
      (.next (onSpan s t (getC t k) (bit neg) fun s1 id t1 v =>
        putThr s1 id { t1 with pc := if v then t1.pc + 4 else target t1 o }))
      fun st =>
        let m := condMask s t st k ks neg
        let f := st.am &&& ~~~m
        if f ≠ 0 ∧ 32 ≤ t.toks.length then tokFault s t 0x01
        else withMask s t st (st.am &&& m) (t.pc + 4) (if f = 0 then t.toks else ⟨.els, target t o, f, 0⟩ :: t.toks)

/-- `nxt` (R212, R213). -/
def execNxt (s : State) : Out :=
  scalar .nxt s fun t =>
    match t.toks with
    | [] => tokFault s t 0x02
    | k :: rest =>
      if k.kind = .loop then tokFault s t 0x04
      else if k.kind = .call then tokFault s t 0x05
      else
        match t.seat with
        | none => done s { t with pc := k.pc, toks := rest }
        | some st =>
          if st.region ≠ 0 ∧ t.toks.length ≤ regionDepth s st then fault s t cCONV 0x06
          else withMask s t st k.mask k.pc rest

/-- The tokens above the nearest LOOP token, and the rest from it; none when there is none, or when a CALL lies above it
(R41, R213). -/
def findLoop : List Token → Except Nat (List Token × Token × List Token)
  | [] => .error 0x03
  | k :: rest =>
    if k.kind = .loop then .ok ([], k, rest)
    else
      match findLoop rest with
      | .ok (above, l, below) => if k.kind = .call then .error 0x06 else .ok (k :: above, l, below)
      | .error e => .error e

/-- `brk` (R212, R42, R24). -/
def execBrk (k : BitVec 3) (ks neg : BitVec 1) (s : State) : Out :=
  scalar (.brk k ks neg) s fun t =>
    tokOn s t ks
      (match findLoop t.toks with
        | .error e => tokFault s t e
        | .ok (_, l, below) =>
          .next (onSpan s t (getC t k) (bit neg) fun s1 id t1 v =>
            putThr s1 id (if v then { t1 with pc := l.pc, toks := below } else advance t1 4)))
      fun st =>
        match findLoop t.toks with
        | .error e => tokFault s t e
        | .ok (above, l, below) =>
          let b := st.am &&& condMask s t st k ks neg
          if st.region ≠ 0 ∧ b ≠ 0 ∧ below.length < regionDepth s st then fault s t cCONV 0x06
          else
            withMask s t st (st.am &&& ~~~b) (t.pc + 4)
              (above.map (fun x => { x with mask := x.mask &&& ~~~b }) ++ { l with exit := l.exit ||| b } :: below)

/-- `lpe` (R212, R42, R24). -/
def execLpe (k : BitVec 3) (ks neg : BitVec 1) (o : BitVec 21) (s : State) : Out :=
  scalar (.lpe k ks neg o) s fun t =>
    tokOn s t ks
      (match t.toks with
        | l :: below =>
          if l.kind ≠ .loop then tokFault s t 0x03
          else
            .next (onSpan s t (getC t k) (bit neg) fun s1 id t1 v =>
              putThr s1 id (if v then { t1 with pc := target t1 o } else { t1 with pc := l.pc, toks := below }))
        | [] => tokFault s t 0x03)
      fun st =>
        match t.toks with
        | l :: below =>
          let m := condMask s t st k ks neg
          let stay := st.am &&& m
          let out := st.am &&& ~~~m
          if l.kind ≠ .loop then tokFault s t 0x03
          else if st.region ≠ 0 ∧ (out ≠ 0 ∨ stay = 0) ∧ t.toks.length ≤ regionDepth s st then fault s t cCONV 0x06
          else if stay ≠ 0 then withMask s t st stay (target t o) ({ l with exit := l.exit ||| out } :: below)
          else withMask s t st l.mask l.pc below
        | [] => tokFault s t 0x03

/-! ### Seating and joining -/

/-- `seat` (R214). -/
def execSeat (s : State) : Out := scalarOutside .seat s fun t => inStrand s t fun _ => done4 s t

/-- `unseat` (R215): the first step's waits come before issue. -/
def execUnseat (s : State) : Out :=
  scalarOutside .unseat s fun t =>
    match t.seat with
    | none => done4 s t
    | some st =>
      if unseatOk s s.cur t st then .next (unseatStrand s s.cur t st (t.pc + 4) .none) else fault s t cCONV 0x02

/-- `sjoin` (R216): W − 1 is the operand; a strand that may not unseat goes on. -/
def execSjoin (w : BitVec 11) (s : State) : Out :=
  scalarOutside (.sjoin w) s fun t =>
    let expiry (die : Nat) : Nat := dieCc (dieOf s die) s.time + w.toNat + 1
    match t.seat with
    | none => .next (mergeHeld (putThr s s.cur { t with wait := .sjoin (expiry (physDie s t)) }))
    | some st =>
      if unseatOk s s.cur t st then
        .next (mergeHeld (unseatStrand s s.cur t st t.pc (.sjoin (expiry (st.core / 128)))))
      else done4 s t

/-- Begins a snooze until a deadline in ns, at most 1 ms away, by `rt` as the context reads it (R217, R334). -/
def snoozeTo (s : State) (t : Thread) (deadline : Nat) : Out :=
  if deadline ≤ rtOf s t then done4 s t else .next (putThr s s.cur { t with wait := .snooze deadline })

/-- `snooze` (R217). -/
def execSnooze (a : SReg) (s : State) : Out :=
  scalar (.snooze a) s fun t => needU s t (getS t a) fun v => snoozeTo s t (rtOf s t + min v.toNat 1000000)

/-- `snooze.abs` (R217). -/
def execSnoozeAbs (a : SReg) (s : State) : Out :=
  scalar (.snoozeAbs a) s fun t => needU s t (getS t a) fun v => snoozeTo s t (min v.toNat (rtOf s t + 1000000))

/-! ### The system group -/

/-- `nop` (R218). -/
def execNop (s : State) : Out := scalar .nop s fun t => done4 s t

/-- `trap` (R219): a span seats first, and each strand takes the trap. -/
def execTrap (n : BitVec 6) (s : State) : Out :=
  scalar (.trap n) s fun t => inStrand s t fun _ => .next (trap s (advance t 4) cSWTRAP n.toNat 0 0)

/-- The coordinate registers `ix`, `iy`, `iz` (R19). -/
def coordReg (ax : Axis) : SVal :=
  match ax with
  | .x => .a 0 1 0 0
  | .y => .a 0 0 1 0
  | .z => .a 0 0 0 1

/-- `ilin` in A form, when its strides fit (R19). -/
def ilinForm (r : LaunchRec) : Option SVal := affine 0 1 (r.ex : Int) ((r.ex * r.ey : Nat) : Int)

/-- Cycles in which the value of a timer comes to its register (R195). -/
def timerCycles : Nat := 12

/-- A thread after `srd` of a timer: the value comes 12 cycles of its die later (R195). -/
def timerRead (s : State) (t : Thread) (d : SReg) (v : Word) : Thread :=
  { setS t d (.u v) with
    due := if d = 0 then t.due else tabPut t.due d.toNat (dieCc (dieOf s (physDie s t)) s.time + timerCycles) }

/-- The value of a special register that reads U, in a strand or a span (R184, R185); a timer is sampled at the start of the
cycle (R334). -/
def srdU (s : State) (id : Nat) (t : Thread) (r : Nat) : Word :=
  let die := physDie s t
  let n (x : Nat) : Word := BitVec.ofNat 64 x
  let seatW (f : Seat → Word) : Word := (t.seat.map f).getD 0
  let region := (t.seat.bind fun st => tabFind s.reg.regions st.region)
  if r = 0 then n (rtOf s t)
  else if r = 1 then n (dieCc (dieOf s die) s.time)
  else if r = 2 then n (dieScc (dieOf s die) s.time)
  else if r = 3 then n (match t.seat with
    | some _ => virtDie (launchOf s t.launch) die
    | none => t.home)
  else if r = 4 then n s.hub.pix
  else if r = 5 then seatW fun st => n (virtQuad (launchOf s t.launch) (st.core / 4))
  else if r = 6 then seatW fun st => n (virtCore (launchOf s t.launch) st.core)
  else if r = 7 then seatW fun st => n (tileOf s st)
  else if r = 8 then seatW fun st => n st.six
  else if r = 13 then seatW fun st => st.am.setWidth 64
  else if r = 14 then t.wct
  else if r = 15 then match region with
    | some g => n g.lo
    | none => seatW (·.blo)
  else if r = 16 then match region with
    | some g => n g.hi
    | none => seatW (·.bhi)
  else if r = 17 then seatW (·.rstat)
  else if r = 18 then t.aflags.setWidth 64
  else if r = 19 then t.aenable.setWidth 64
  else if r = 20 then n (inFlight s id .ld)
  else if r = 21 then n (inFlight s id .st)
  else if r = 22 then n (inFlight s id .atm)
  else if r = 23 then n (inFlight s id .cp)
  else if r = 24 then t.pkdem
  else if r = 25 then t.batch
  else if r = 26 then n (ctxOf s t.ctx).lease
  else if r = 27 then t.ctxid
  else seatW fun st => st.seated.setWidth 64

/-- Special registers whose read seats a span (R185). -/
def seatsRead (r : Nat) : Bool := (5 ≤ r && r ≤ 8) || r == 13 || r == 28

/-- `srd` (R220, R184, R185). -/
def execSrd (d r : BitVec 6) (s : State) : Out :=
  scalar (.srd d r) s fun t =>
    if seatsRead r.toNat && t.seat.isNone then .next (seatSpan s s.cur t none)
    else if r = 9 then done4 s (setS t d (coordReg .x))
    else if r = 10 then done4 s (setS t d (coordReg .y))
    else if r = 11 then done4 s (setS t d (coordReg .z))
    else if r = 12 then
      writeForm s t d 4 (ilinForm (lrecOf s t)) fun _ i => BitVec.ofNat 64 (ilin (lrecOf s t) i)
    else if r.toNat < 3 then done4 s (timerRead s t d (srdU s s.cur t r.toNat))
    else done4 s (setS t d (.u (srdU s s.cur t r.toNat)))

/-- Special registers a user context may write, or whose writes it has ignored (R184). -/
def userWrites (r : Nat) : Bool := (15 ≤ r && r ≤ 19) || r == 24

/-- The effect of `swr` (R184, R221); `lease` is clamped to 64 to 4,096 (R93). -/
def swrEffect (s : State) (t : Thread) (r : Nat) (v : Word) : Out :=
  if r = 14 then done4 s { t with wct := v }
  else if r = 18 then done4 s { t with aflags := v.setWidth 6 }
  else if r = 19 then done4 s { t with aenable := v.setWidth 6 }
  else if r = 24 then done4 s { t with pkdem := v }
  else if r = 25 then done4 s { t with batch := v }
  else if r = 26 then done4 (modCtx s t.ctx fun c => { c with lease := max 64 (min 4096 v.toNat) }) t
  else if r = 27 then done4 s { t with ctxid := (v.setWidth 16).setWidth 64 }
  else done4 s t

/-- `swr` (R221): the permission check comes before the form check. -/
def execSwr (r b : BitVec 6) (s : State) : Out :=
  scalar (.swr r b) s fun t =>
    if !(ctxOf s t.ctx).priv && !userWrites r.toNat then fault s t cPROT 0x04
    else needU s t (getS t b) fun v => swrEffect s t r.toNat v

/-- `dlaunch` (R223): a queue number out of range answers 3; otherwise the context waits for its status. The record is no access of the
context: word 1 of the record of ALIGN is 0 (R353). -/
def execDlaunch (d a b : SReg) (s : State) : Out :=
  scalarOutside (.dlaunch d a b) s fun t =>
    needU s t (getS t a) fun rec =>
      needU s t (getS t b) fun q =>
        if 1 < threadCount t then fault s t cCONV 0x08
        else if rec.toNat % 256 ≠ 0 then fault s t cALIGN 0
        else if q.toNat / 64 ≠ 0 then done4 s (setS t d (.u 3))
        else .next (putThr s s.cur { t with wait := .dlaunch d rec q })

end Sys2Proof.Machine
end

