-- ==== Sys2Proof/Machine/Sync.lean ====
section
/-!
DEFINITION. Fences (R104), waits and `trapf` (R274, R275), barriers (R271) and hierarchical barriers (R272), with the
events that end their waits.
-/
namespace Sys2Proof.Machine
open Sys2Proof

/-- An event whose time has not come. -/
def notEnabled (name : String) : Out := .refused (.notEnabled name)

/-- Runs an event on a thread; nothing happens to those of a frozen context (R361). -/
def onThr (s : State) (name : String) (id : Nat) (k : Thread → Out) : Out :=
  match tabFind s.threads id with
  | some t => if (ctxOf s t.ctx).frozen then notEnabled name else k t
  | none => notEnabled name

/-! ### Fences (R104) -/

/-- Whether a lane's access has ended, or has been performed at a level of its quad (R100): 0 the L1, 1 the quad store. -/
def lanePerformed (level : Nat) (a : LaneAcc) : Bool :=
  match a.phase with
  | .done => true
  | .failed _ _ _ _ => true
  | .near lv _ => level ≤ lv
  | _ => false

/-- Whether every lane of an operation has been performed at a scope's coherence point (R101): `.core` and `.quad` have
nearer ones. -/
def performedAt (o : Op) (scope : Nat) : Bool := o.lanes.all (lanePerformed scope)

/-- Whether a fence of a thread has nothing to do with an operation: it is another thread's, or a region's access while its region
is live, which the commit orders (R128). -/
def fencePasses (id : Nat) (t : Thread) (o : Op) : Bool := o.thread != id || (inRegion t && o.region != 0)

/-- Whether the thread's operations up to a number in its issue order have returned, and its writes among them are performed at a
scope's coherence point; from `.pkg` out, with the translations made from their lines dropped (R347). -/
def earlierDone (s : State) (id : Nat) (t : Thread) (scope upto : Nat) : Bool :=
  s.ops.all fun o => fencePasses id t o.2 || upto < o.2.seq ||
    (o.2.back && performedAt o.2 scope && !(decide (3 ≤ scope) && o.2.path == .st && waitsTlb s o.2))

/-- Whether the thread's operations up to a number allow a release at a scope to complete: loads and atomics have returned; writes
are performed at the scope's coherence point and acknowledged; and `rt` has reached `wct`, in which the writes' completion times
at the fence's scope count. -/
def released (s : State) (id : Nat) (t : Thread) (scope upto : Nat) : Bool :=
  earlierDone s id t scope upto && releaseAt t scope ≤ rtNs s

/-- Whether every load and atomic of a thread has returned: the acquire part. -/
def acquired (s : State) (id : Nat) (t : Thread) : Bool :=
  s.ops.all fun o => fencePasses id t o.2 || o.2.back || o.2.kind == .store || o.2.kind == .stk || o.2.kind == .cacc
    || o.2.kind == .cmo || o.2.kind == .krev || o.2.kind == .kdrop

/-- Whether a stalled fence's conditions are met. -/
def fenceDone (s : State) (id : Nat) (t : Thread) (kind scope : Nat) : Bool :=
  if kind = 2 then acquired s id t else released s id t scope t.seqNo && acquired s id t

/-- A thread after its fence: `fence.seq` bars copies filled before it. -/
def afterFence (s : State) (t : Thread) (kind scope : Nat) : Thread :=
  let t1 := if kind = 2 then t else foldRelease t scope
  advance (if kind = 3 then { t1 with seqAt := s.freeCtr } else t1) 4

/-- `fence` (R104): it stands between the lane operations issued before it and the scalar ones after it (R96). In a live region it
has nothing to do with the region's own accesses (R128). -/
def execFence (k : BitVec 2) (sc : BitVec 3) (s : State) : Out :=
  scalar (.fence k sc) s fun t0 =>
    let t := { t0 with fencedAt := t0.seqNo }
    if k = 1 then
      done4 s (if released s s.cur t sc.toNat t.seqNo then foldRelease t sc.toNat else { t with rel := some (sc.toNat, t.seqNo) })
    else if fenceDone s s.cur t k.toNat sc.toNat then done s (afterFence s t k.toNat sc.toNat)
    else .next (putThr s s.cur { t with wait := .fence k.toNat sc.toNat })

/-- Whether a thread's pending release part may complete. -/
def relDone (s : State) (id : Nat) (t : Thread) : Bool := t.rel.any fun r => released s id t r.1 r.2

/-- FENCE_COMPLETE (R104): a pending release part completes, or a stalled fence does. -/
def execFenceComplete (id : Nat) (s : State) : Out :=
  onThr s "FENCE_COMPLETE" id fun t =>
    if relDone s id t then .next (putThr s id { foldRelease t ((t.rel.map (·.1)).getD 0) with rel := none })
    else
      match t.wait with
      | .fence kind scope =>
        if t.stop.isNone && fenceDone s id t kind scope then
          .next (putThr s id { afterFence s t kind scope with wait := .none })
        else notEnabled "FENCE_COMPLETE"
      | _ => notEnabled "FENCE_COMPLETE"

/-- A thread acquires writes (R116, R118): it never reads an older value of those bytes again. -/
def acquireThr (t : Thread) (w : Tab (Tab Nat)) : Thread := { t with seen := maxTab2 t.seen w }

/-! ### `wait` (R274) -/

/-- The path a `wait` names by FN. -/
def pathOf (p : BitVec 2) : Path := if p = 0 then .ld else if p = 1 then .st else if p = 2 then .atm else .cp

/-- The finished copies of a thread, oldest first. -/
def doneCopies (s : State) (id : Nat) : List (Nat × EngOp) :=
  s.engq.filter fun o => o.2.queue == 1 && o.2.members == [id] && o.2.finished

/-- The command word of an instruction (R351). -/
def cmdWord (i : Instr) : Word := (((encode i).bind List.head?).getD 0).setWidth 64

/-- Whether a copy failed in itself; a failed barrier arrival of one is reported by the strand's mark (R303, R306). -/
def copyFailed (o : EngOp) : Bool := o.status != 0 && o.status != 0x09

/-- A mark of a thread traps BARINV and is cleared (R303). -/
def trapMark (s : State) (id : Nat) (t : Thread) : State :=
  match t.mark with
  | some w =>
    let s1 := putThr s id { t with mark := none }
    takeStop s1 id { mkStop s1 t .trap cBARINV 0x01 t.pc with w6 := w }
  | none => putThr s id t

/-- The end of a wait on CP: WCTs fold and results are acquired, copies counted off are reported, the first that failed traps
ENGINE, and a mark traps BARINV (R116, R274, R303, R306). `t` is the thread after its instruction; where both traps are due,
BARINV comes first and ENGINE stands behind it (assumption 58). The record of ENGINE names the command (R353). -/
def endCpWait (s : State) (id : Nat) (t : Thread) : State :=
  let cs := doneCopies s id
  let t1 := cs.foldl (fun acc o => acquireThr (foldWct acc o.2.wct) o.2.wrote) t
  match cs.find? fun o => copyFailed o.2 with
  | some (k, o) =>
    let s1 := trapMark { s with engq := s.engq.filter fun x => !(x.1 == k || cs.any fun c => c.1 == x.1 && !copyFailed c.2) } id t1
    takeStop s1 id { mkStop s1 t1 .trap cENGINE o.status o.pc with
      va := o.failVa
      write := o.failWrite
      w6 := cmdWord o.instr + BitVec.ofNat 64 (o.queue * 2 ^ 40)
      w7 := o.failDst }
  | none => trapMark { s with engq := s.engq.filter fun x => !(cs.any fun c => c.1 == x.1) } id t1

/-- A wait on a path ends. -/
def endWait (s : State) (id : Nat) (t : Thread) (p : Path) : State :=
  let t1 := advance { t with wait := .none } 4
  if p = .cp then endCpWait s id t1 else putThr s id t1

/-- What a `wait` counts on a path: in a live region only what is not the region's own, on which it completes at once (R128). -/
def waitCount (s : State) (id : Nat) (t : Thread) (p : Path) : Nat :=
  if inRegion t && p != .cp then ((pathOps s id p).filter fun o => o.2.region == 0 && olderOut (pathOps s id p) o.2.seq).length
  else inFlight s id p

/-- `wait` (R274). -/
def execWait (a : SReg) (p : BitVec 2) (s : State) : Out :=
  scalar (.wait a p) s fun t =>
    needU s t (getS t a) fun v =>
      if waitCount s s.cur t (pathOf p) ≤ v.toNat then .next (endWait s s.cur t (pathOf p))
      else .next (putThr s s.cur { t with wait := .path (pathOf p) v.toNat })

/-- WAIT_COMPLETE (R274). -/
def execWaitComplete (id : Nat) (s : State) : Out :=
  onThr s "WAIT_COMPLETE" id fun t =>
    match t.wait with
    | .path p n =>
      if t.stop.isNone && waitCount s id t p ≤ n then .next (endWait s id t p) else notEnabled "WAIT_COMPLETE"
    | _ => notEnabled "WAIT_COMPLETE"

/-- `trapf` (R275): its wait comes before issue. -/
def execTrapf (s : State) : Out :=
  scalar .trapf s fun t =>
    let m := t.aflags &&& t.aenable
    if m = 0 then done4 s t
    else inStrand s t fun _ =>
      .next (trap s (advance t 4) cARITH m.toNat (t.aflags.setWidth 64) (t.aenable.setWidth 64))

/-! ### Barriers (R271) -/

/-- The barrier word a field names: the workgroup's own, or one in scratch, checked in the order of R252; BARINV when
MAGIC is wrong, unless the word is being made. -/
def barWord (s : State) (t : Thread) (st : Seat) (a : SReg) (init : Bool) (k : Option Nat → Wg → Word → Out) : Out :=
  let w := (tabFind s.wgs st.wg).getD Wg.blank
  if a = 0 then k none w w.word
  else
    needU s t (getS t a) fun off =>
      let size := (lrecOf s t).scratch
      if off.toNat % 8 ≠ 0 then faultWith s t cALIGN 0 fun p => { p with va := off }
      else if size < off.toNat + 8 then
        faultWith s t cWINDOW 0x01 fun p => { p with va := off, w6 := BitVec.ofNat 64 size }
      else
        let word : Word := BitVec.ofNat 64 (scrGet w off.toNat 8)
        if !init && barMagic word != 0xB7 then faultWith s t cBARINV 0x02 fun p => { p with w6 := word }
        else k (some off.toNat) w word

/-- Stores a barrier word of a workgroup after an arrival; a release of its own word begins a new generation. -/
def putBar (s : State) (wg : Nat) (off : Option Nat) (r : Word × Bool) (arrivals : List Nat) : State :=
  modWg s wg fun w =>
    match off with
    | some o => scrPut w o 8 r.1.toNat
    | none => { w with word := r.1, arrived := if r.2 then [] else arrivals ++ w.arrived }

/-- An arrival of a strand on a word: the count of R271, then `k` on the state after it, the word before, and whether it
released. -/
def barArrival (s : State) (t : Thread) (a b : SReg) (k : State → Option Nat → Word → Bool → Out) : Out :=
  inStrand s t fun st =>
    barWord s t st a false fun off _ word =>
      let go (n : Nat) : Out :=
        let r := barArrive word n
        k (putBar s st.wg off r ((lanesOf st.seated).map fun L => 32 * st.six + L)) off word r.2
      if a = 0 then (if st.am ≠ st.seated then fault s t cCONV 0x05 else go (popMask st.seated))
      else if b = 0 then go 1
      else needU s t (getS t b) fun v => go v.toNat

/-- `bar.arv` (R271). -/
def execBarArv (d a b : SReg) (s : State) : Out :=
  scalarOutside (.barArv d a b) s fun t =>
    barArrival s t a b fun s1 _ word _ => done4 s1 (setS t d (.u ((barGen word).setWidth 64)))

/-- A strand passes a barrier word: it acquires what engines that arrived on the word had written (R118). -/
def passBar (s : State) (st : Seat) (off : Option Nat) (t : Thread) : Thread :=
  acquireThr t (match tabFind s.wgs st.wg with
    | some w => tabGet [] w.barAcq (off.elim 0 (· + 1))
    | none => [])

/-- `bar.arw` (R271). -/
def execBarArw (a b : SReg) (s : State) : Out :=
  scalarOutside (.barArw a b) s fun t =>
    barArrival s t a b fun s1 off word rel =>
      if rel then done4 s1 (t.seat.elim t fun st => passBar s1 st off t)
      else .next (putThr s1 s1.cur { t with wait := .bar off (barGen word) })

/-- `bar.wt` (R271). -/
def execBarWt (a b : SReg) (s : State) : Out :=
  scalarOutside (.barWt a b) s fun t =>
    inStrand s t fun st =>
      needU s t (getS t b) fun g =>
        barWord s t st a false fun off _ word =>
          if barGen word ≠ g.setWidth 8 then done4 s (passBar s st off t)
          else .next (putThr s s.cur { t with wait := .bar off (g.setWidth 8) })

/-- `bar.init` (R271). -/
def execBarInit (a b : SReg) (s : State) : Out :=
  scalarOutside (.barInit a b) s fun t =>
    inStrand s t fun st =>
      needU s t (getS t b) fun n =>
        barWord s t st a true fun off _ _ =>
          if n = 0 ∨ 2 ^ 20 ≤ n.toNat then fault s t cCONV 0x04
          else
            done4 (modWg (putBar s st.wg off (barInitWord false n.toNat, false) []) st.wg fun w =>
              { w with barAcq := tabDel w.barAcq (off.elim 0 (· + 1)) }) t

/-- The word a strand waits on. -/
def waitedWord (s : State) (st : Seat) (off : Option Nat) : Word :=
  match tabFind s.wgs st.wg, off with
  | some w, none => w.word
  | some w, some o => BitVec.ofNat 64 (scrGet w o 8)
  | none, _ => 0

/-- BAR_RELEASE_WAKE (R271): the generation has moved on from the one waited for. -/
def execBarReleaseWake (id : Nat) (s : State) : Out :=
  onThr s "BAR_RELEASE_WAKE" id fun t =>
    match t.wait, t.seat with
    | .bar off g, some st =>
      if t.stop.isNone && barGen (waitedWord s st off) != g then
        .next (putThr s id (advance (passBar s st off { t with wait := .none }) 4))
      else notEnabled "BAR_RELEASE_WAKE"
    | _, _ => notEnabled "BAR_RELEASE_WAKE"

/-! ### Hierarchical barriers (R272) -/

/-- Checks an `hbar` and runs `k` on the instance: CONV without the grid-barrier flag, at quad level in a span, and for an
arrival with `am` ≠ `seated`. -/
def hbarOn (i : Instr) (s : State) (lev : Nat) (arrives : Bool) (k : Thread → Nat → Out) : Out :=
  scalarOutside i s fun t =>
    if 2 ≤ lev && !(lrecOf s t).grid then fault s t cCONV 0x07
    else
      match hbarInst s t lev with
      | none => fault s t cCONV 0x07
      | some inst =>
        if arrives && t.seat.any fun st => st.am != st.seated then fault s t cCONV 0x05
        else k (if arrives then foldRelease t lev else t) inst

/-- `hbar.arv` (R272). -/
def execHbarArv (d : SReg) (l : BitVec 3) (s : State) : Out :=
  hbarOn (.hbarArv d l) s l.toNat true fun t inst =>
    let g := (hbarAt (launchOf s t.launch) l.toNat inst).gen
    done4 (hbarArrive s t l.toNat inst) (setS t d (.u (g.setWidth 64)))

/-- `hbar.arw` (R272). -/
def execHbarArw (l : BitVec 3) (s : State) : Out :=
  hbarOn (.hbarArw l) s l.toNat true fun t inst =>
    let g := (hbarAt (launchOf s t.launch) l.toNat inst).gen
    .next (putThr (hbarArrive s t l.toNat inst) s.cur { t with wait := .hbar l.toNat g })

/-- `hbar.wt` (R272). -/
def execHbarWt (a : SReg) (l : BitVec 3) (s : State) : Out :=
  hbarOn (.hbarWt a l) s l.toNat false fun t inst =>
    needU s t (getS t a) fun v =>
      if (hbarAt (launchOf s t.launch) l.toNat inst).gen ≠ v.setWidth 8 then done4 s t
      else .next (putThr s s.cur { t with wait := .hbar l.toNat (v.setWidth 8) })

/-- HBAR_RELEASE (R273): the release reaches a member. -/
def execHbarRelease (id : Nat) (s : State) : Out :=
  onThr s "HBAR_RELEASE" id fun t =>
    match t.wait with
    | .hbar lev g =>
      match hbarInst s t lev with
      | some inst =>
        if t.stop.isNone && (hbarAt (launchOf s t.launch) lev inst).gen != g then
          .next (putThr s id (advance { t with wait := .none } 4))
        else notEnabled "HBAR_RELEASE"
      | none => notEnabled "HBAR_RELEASE"
    | _ => notEnabled "HBAR_RELEASE"

/-! ### Other waits -/

/-- SNOOZE_EXPIRY (R217). -/
def execSnoozeExpiry (id : Nat) (s : State) : Out :=
  onThr s "SNOOZE_EXPIRY" id fun t =>
    match t.wait with
    | .snooze d =>
      if t.stop.isNone && decide (d ≤ rtOf s t) then .next (putThr s id (advance { t with wait := .none } 4))
      else notEnabled "SNOOZE_EXPIRY"
    | _ => notEnabled "SNOOZE_EXPIRY"

/-- SJOIN_WINDOW_EXPIRY (R39): the window has expired, or the box holds every unretired item of the launch. -/
def execSjoinWindowExpiry (id : Nat) (s : State) : Out :=
  onThr s "SJOIN_WINDOW_EXPIRY" id fun t =>
    match t.wait with
    | .sjoin e =>
      if t.stop.isNone && (decide (e ≤ homeCc s t) || boxVolume t.box == liveItems s t.launch) then
        .next (putThr s id (advance { t with wait := .none } 4))
      else notEnabled "SJOIN_WINDOW_EXPIRY"
    | _ => notEnabled "SJOIN_WINDOW_EXPIRY"

end Sys2Proof.Machine
end

