-- ==== Sys2Proof/Machine/Access.lean ====
section
/-!
DEFINITION. Issuing memory accesses: addresses and windows (R53 to R58, R251), the checks of R252, scratch accesses, the
operations put in flight (R79), and the delivery of their results.
-/
namespace Sys2Proof.Machine
open Sys2Proof

/-! ### Addresses -/

/-- The address spaces: 0 generic, 1 global, 2 scratch, 3 private, 4 constant (R192). -/
abbrev Space := Nat

/-- One lane's request. -/
structure Req where
  lane : Nat
  item : Item
  /-- The address: 64 bits in the generic, global and constant spaces, an exact offset in the others (R251). -/
  addr : Int
  val  : Word
  val2 : Word

/-- A failed check: cause, sub-cause, address, words 6 and 7 (R351). -/
structure Fail where
  cause : Nat
  sub   : Nat
  va    : Word
  w6    : Nat
  w7    : Nat
  deriving DecidableEq, Repr

/-- Where an access goes. -/
inductive Tgt where
  | mem (va : Nat)
  | scr (wg off : Nat)
  deriving DecidableEq, Repr

/-- The live workgroup of a tile of a launch. -/
def wgOfTile (s : State) (launch tile : Nat) : Option (Nat × Wg) :=
  s.wgs.find? fun p => p.2.launch == launch && p.2.tile == tile

/-- Whether an address lies in the launch's scratch aliases (R57). -/
def isAlias (r : LaunchRec) (va : Nat) : Bool :=
  r.scratch != 0 && r.sbase.toNat ≤ va && va < r.sbase.toNat + tileCount r * 524288

/-- The global address of a byte of an item's private slot (R55). -/
def privVa (r : LaunchRec) (i : Item) (o : Nat) : Nat := (r.pbase.toNat + ilin r i * r.ps + o) % 2 ^ 64

/-- Resolves an address of `n` bytes: ALIGN, then WINDOW (R53 to R59, R252). -/
def resolve (s : State) (t : Thread) (space : Space) (i : Item) (addr : Int) (n : Nat) : Except Fail Tgt :=
  let r := lrecOf s t
  let va : Word := toWord addr
  let scr (off : Int) : Except Fail Tgt :=
    if off < 0 ∨ (r.scratch : Int) < off + n then .error ⟨cWINDOW, 0x01, va, r.scratch, 0⟩
    else .ok (.scr ((t.seat.map (·.wg)).getD 0) off.toNat)
  let prv (off : Int) : Except Fail Tgt :=
    if off < 0 ∨ (r.ps : Int) < off + n then .error ⟨cWINDOW, 0x02, va, r.ps, 0⟩
    else .ok (.mem (privVa r i off.toNat))
  if addr % (n : Int) ≠ 0 then .error ⟨cALIGN, 0, va, 0, 0⟩
  else if space = 2 then scr addr
  else if space = 3 then prv addr
  else
    let top := bitsAt va.toNat 56 8
    if space = 0 ∧ top = 0xFF then scr (bitsAt va.toNat 0 56 : Nat)
    else if space = 0 ∧ top = 0xFE then prv (bitsAt va.toNat 0 56 : Nat)
    else if isAlias r va.toNat then
      let o := (va.toNat - r.sbase.toNat) % 524288
      match wgOfTile s t.launch ((va.toNat - r.sbase.toNat) / 524288) with
      | some (w, _) => if r.scratch < o + n then .error ⟨cWINDOW, 0x03, va, r.scratch, 0⟩ else .ok (.scr w o)
      | none => .error ⟨cWINDOW, 0x03, va, r.scratch, 0⟩
    else .ok (.mem va.toNat)

/-- The cache a thread translates through: its core's, or for a span the hub's (R347). -/
def xlUnit (t : Thread) : Nat :=
  match t.seat with
  | some st => st.core
  | none => hubUnit

/-- Checks one lane's access (R252), and gives what is put in flight: the lane's access, and the scratch place it goes
to. `window` refuses the scratch and private windows with the sub-cause given. -/
def checkLane (s : State) (t : Thread) (space : Space) (n : Nat) (write : Bool) (q : Req) :
    Except Fail (LaneAcc × Option (Nat × Nat)) :=
  let acc (va pa mt key : Nat) (np : Bool) (ph : LanePhase) : LaneAcc :=
    { lane := q.lane, item := ilin (lrecOf s t) q.item, va := BitVec.ofNat 64 va, pa := pa, n := n, val := q.val,
      val2 := q.val2, mt := mt, np := np, key := key, scr := none, phase := ph, res := 0 }
  match resolve s t space q.item q.addr n with
  | .error f => .error f
  | .ok (.scr w o) =>
    if space = 4 && write then .error ⟨cPROT, 0x01, toWord q.addr, 0, 0⟩
    else .ok ({ acc o o 0 0 true .done with scr := some w }, some (w, o))
  | .ok (.mem va) =>
    match translate s (xlUnit t) t.ctx va with
    | .error (sub, e, lv) => .error ⟨cXLAT, sub, BitVec.ofNat 64 va, e, lv⟩
    | .ok x =>
      if space = 4 && write then .error ⟨cPROT, 0x01, BitVec.ofNat 64 va, 0, 0⟩
      else
        match protSub (ctxOf s t.ctx).priv x.pte write with
        | some sub => .error ⟨cPROT, sub, BitVec.ofNat 64 va, 0, 0⟩
        | none =>
          if inRegion t && pteMt x.pte == 2 then .error ⟨cCONV, 0x06, BitVec.ofNat 64 va, 0, 0⟩
          else .ok (acc va x.pa (pteMt x.pte) (pteKey x.pte) (pteNp x.pte) .todo, none)

/-- The result of checking every lane by `chk`: the fault of the lowest failing lane with the mask of lanes that fail for the
same cause, or the accesses (R252). -/
def checkEach (chk : Req → Except Fail (LaneAcc × Option (Nat × Nat))) (qs : List Req) :
    Except (Fail × W32) (List (LaneAcc × Option (Nat × Nat))) :=
  let rs := qs.map fun q => (q.lane, chk q)
  let fails := rs.filterMap fun r => match r.2 with
    | .error f => some (r.1, f)
    | .ok _ => none
  match fails with
  | (_, f) :: _ => .error (f, maskOf fun L => fails.any fun x => x.1 == L && x.2.cause == f.cause)
  | [] => .ok (rs.filterMap fun r => r.2.toOption)

/-- The same by the checks of R252. -/
def checkAll (s : State) (t : Thread) (space : Space) (n : Nat) (write : Bool) (qs : List Req) :
    Except (Fail × W32) (List (LaneAcc × Option (Nat × Nat))) := checkEach (checkLane s t space n write) qs

/-- Completes a stop with the fields of a failed check. -/
def failStop (f : Fail) (write : Bool) (p : Stop) : Stop :=
  { p with va := f.va, w6 := BitVec.ofNat 64 f.w6, w7 := BitVec.ofNat 64 f.w7, write := write }

/-! ### Atomics (R260, R110) -/

/-- Bytes an access of a type moves (R251). -/
def accessBytes (ty : Nat) : Nat :=
  if ty = 13 ∨ ty = 14 then 1
  else if ty = 7 ∨ ty = 8 ∨ ty = 11 ∨ ty = 12 then 2
  else if ty = 4 ∨ ty = 5 ∨ ty = 6 ∨ ty = 15 then 8
  else 4

/-- A float atomic on one element: op 9 `fadd`, 10 `fmin`, 11 `fmax` (R110). -/
def floatAtomic (f : Fmt) (op m b : Nat) : Nat :=
  if op = 9 then (opAdd f 0 false m b).1 else (opMinMax f false (op == 11) false m b).1

/-- The new value of an atomic of `8·n` bits (R260). -/
def atomicNew (op ty n m b : Nat) : Nat :=
  let w := 8 * n
  if op = 0 then (m + b) % 2 ^ w
  else if op = 1 then (if sext w m ≤ sext w b then m else b)
  else if op = 2 then (if sext w m ≤ sext w b then b else m)
  else if op = 3 then min m b
  else if op = 4 then max m b
  else if op = 5 then m &&& b
  else if op = 6 then m ||| b
  else if op = 7 then m ^^^ b
  else if op = 8 then b
  else if isPackedTy ty then
    floatAtomic (fmtOfTy ty) op (bitsAt m 0 16) (bitsAt b 0 16) + floatAtomic (fmtOfTy ty) op (bitsAt m 16 16) (bitsAt b 16 16) * 2 ^ 16
  else floatAtomic (fmtOfTy ty) op m b

/-- What an access writes at its location when it holds `m`, if it writes. -/
def newValue (o : Op) (a : LaneAcc) (m : Nat) : Option Nat :=
  match o.kind with
  | .store => some (a.val.toNat % 2 ^ (8 * a.n))
  | .stk => some (a.val.toNat % 2 ^ (8 * a.n))
  | .atomic => some (atomicNew o.aop o.ty a.n m (a.val.toNat % 2 ^ (8 * a.n)))
  | .cas => if m = a.val.toNat % 2 ^ (8 * a.n) then some (a.val2.toNat % 2 ^ (8 * a.n)) else none
  | _ => none

/-- Whether an access kind writes memory, for its checks. -/
def kindWrites : AccKind → Bool
  | .load => false
  | .kget => false
  | .kgetSet => false
  | .krev => false
  | .kdrop => false
  | .cmo => false
  | _ => true

/-- Whether an access kind reads its line: every one but a store (R130). -/
def kindReads : AccKind → Bool
  | .store => false
  | .stk => false
  | _ => true

/-- Performs one lane's access at the scratch banks (R57). -/
def scratchLane (s : State) (o : Op) (a : LaneAcc) (w off : Nat) : State × LaneAcc :=
  match tabFind s.wgs w with
  | none => (s, a)
  | some g =>
    let m := scrGet g off a.n
    let s1 := match newValue o a m with
      | some v => modWg s w fun x => scrPut x off a.n v
      | none => s
    let kget := o.kind == .kget || o.kind == .kgetSet
    (s1, { a with res := if kget then 0 else BitVec.ofNat 64 m, phase := .done })

/-! ### Issuing a failed operation again (R252, R357) -/

/-- Whether a lane has failed. -/
def hasFailed (a : LaneAcc) : Bool :=
  match a.phase with
  | .failed _ _ _ _ => true
  | _ => false

/-- A lane's access checked as it issues again: translated afresh (R347), with its new failure if it has one. -/
def recheckLane (s : State) (o : Op) (a : LaneAcc) : LaneAcc :=
  match a.scr with
  | some w =>
    -- a scratch alias whose workgroup has ended (R57)
    if (tabFind s.wgs w).isNone then { a with phase := .failed cWINDOW 0x03 (launchOf s o.launch).lrec.scratch 0, res := 0 }
    else { a with phase := .todo, res := 0 }
  | none =>
    match translate s (o.core.getD hubUnit) o.ctx a.va.toNat with
    | .error (sub, e, lv) => { a with phase := .failed cXLAT sub e lv, res := 0 }
    | .ok x =>
      match protSub (ctxOf s o.ctx).priv x.pte (kindWrites o.kind) with
      | some sub => { a with phase := .failed cPROT sub 0 0, res := 0 }
      | none => { a with pa := x.pa, mt := pteMt x.pte, np := pteNp x.pte, key := pteKey x.pte, phase := .todo, res := 0 }

/-- A checked lane issues: a scratch lane is performed at once, another marks its page used. -/
def relaunchLane (s : State) (o : Op) (a : LaneAcc) : State × LaneAcc :=
  match a.phase, a.scr with
  | .todo, some w => scratchLane s o a w a.pa
  | .todo, none => (noteAccess s (o.core.getD hubUnit) o.ctx a.va.toNat (kindWrites o.kind), a)
  | _, _ => (s, a)

/-- Issues the lanes of an operation that satisfy a condition again. Where one of them fails its checks none of them goes: the
failure stands, with what a lane of an atomic had failed with before (R252). -/
def reissueOp (s : State) (op : Nat) (o : Op) (which : LaneAcc → Bool) : State :=
  let checked := o.lanes.map fun a => if which a then recheckLane s o a else a
  let bad := (o.lanes.zip checked).any fun p => which p.1 && hasFailed p.2
  let r := (o.lanes.zip checked).foldl (fun (acc : State × List LaneAcc) p =>
    if !which p.1 then (acc.1, acc.2 ++ [p.1])
    else if !bad then
      let x := relaunchLane acc.1 o p.2
      (x.1, acc.2 ++ [x.2])
    else if hasFailed p.2 then (acc.1, acc.2 ++ [p.2])
    else (acc.1, acc.2 ++ [if o.path == .ld then { p.1 with phase := .done, res := 0 } else p.1])) (s, [])
  { r.1 with ops := tabPut r.1.ops op { o with lanes := r.2 } }

/-! ### Delivery of results -/

/-- A loaded value as register bits of a type (R143, R225). -/
def loadBits (ty v : Nat) : Nat := if isIntTy ty then wrInt ty v else v

/-- Lane results written to a seat: the registers of the lanes that have them, and the latch entry that waits for them (R177). -/
def takeResults (o : Op) (regs : List (Nat × Nat)) (ty : Nat) (st : Seat) : Seat :=
  let good := o.lanes.filter fun a => a.phase == .done
  let st1 := good.foldl (fun acc a =>
    match regs.find? fun r => r.1 == a.lane with
    | some r => writeReg acc r.2 (regBits ty) a.lane (loadBits ty a.res.toNat)
    | none => acc) st
  let vals : Tab Word := good.map fun a => (a.lane, BitVec.ofNat 64 (loadBits ty a.res.toNat % 2 ^ regBits ty))
  { st1 with latches := st1.latches.map fun l => if l.pend = some o.seq then { l with vals := vals, pend := none } else l }

/-- Results that have come to a seat have come to what it may go back to, where the access came before (R181). -/
def takeUndo (o : Op) (regs : List (Nat × Nat)) (ty : Nat) (st : Seat) (u : Undo) : Undo :=
  if u.seq ≤ o.seq then u
  else
    let then_ : Seat := { st with
      vregs := u.vregs, zeroV := u.zeroV, live := u.live, longRegs := u.longRegs, preds := u.preds, xregs := u.xregs,
      latches := u.latches, blocks := u.blocks }
    let x := takeResults o regs ty then_
    undoOf x u.seq u.aflags

/-- Writes an operation's results to its destination; a strand that has retired discards them (R210). -/
def deliver (s : State) (o : Op) : State :=
  match tabFind s.threads o.thread with
  | none => s
  | some t =>
    let good := o.lanes.filter fun a => a.phase == .done
    match o.dst with
    | .none => s
    | .sreg d m sx n =>
      let v (a : LaneAcc) : Word := if sx then toWord (sext (8 * n) a.res.toNat) else a.res
      if m then
        match t.sregs.find? (fun p => p.1 == d.toNat), good with
        | some (_, .m vs), _ =>
          let vs' := (List.range 32).map fun L =>
            match good.find? fun a => a.lane == L with
            | some a => v a
            | none => vs.getD L 0
          putThr s o.thread (setS t d (.m vs'))
        | _, _ => s
      else
        match good with
        | a :: _ => putThr s o.thread (setS t d (.u (v a)))
        | [] => s
    | .vreg regs ty =>
      match t.seat with
      | none => s
      | some st =>
        if st.retired then s
        else putThr s o.thread { t with seat := some { takeResults o regs ty st with
          undos := st.undos.map (takeUndo o regs ty st) } }

/-- An operation of a thread has returned, and cannot fault any more (R181). -/
def settleUndo (t : Thread) (o : Op) : Thread := { t with seat := t.seat.map fun st => dropUndo st o.seq }

/-! ### Issue -/

/-- What kind of access an instruction makes. -/
structure AccSpec where
  path  : Path
  kind  : AccKind
  aop   : Nat
  ty    : Nat
  scope : Nat
  acq   : Bool
  lx    : Bool
  na    : Bool
  rsd   : Word
  dst   : Dest

/-- The operation an access puts in flight. A lane access follows the scalar ones before its block's `lx`; a scalar one
follows the lane ones before the latest fence (R96). -/
def mkOp (s : State) (id : Nat) (t : Thread) (block : Nat) (lpc : Option Nat) (a : AccSpec) (lanes : List LaneAcc) : Op :=
  let rg := (t.seat.map (·.region)).getD 0
  let regional : Bool := match a.kind with
    | .load => true
    | .store => true
    | .stk => true
    | .atomic => true
    | .cas => true
    | _ => false
  let after := match t.seat.bind fun st => st.blocks.find? (·.seq == block) with
    | some b => b.lxSeq
    | none => t.fencedAt
  { thread := id, seq := t.seqNo + 1, after := after, block := block, path := a.path,
    kind := if rg ≠ 0 ∧ a.kind = .stk then .store else a.kind,
    aop := a.aop, ty := a.ty, scope := a.scope, acq := a.acq, lx := a.lx, na := a.na, rsd := a.rsd,
    region := if regional then rg else 0, lanes := lanes, dst := a.dst, next := 0, last := 0, wct := Wct.flat 0, back := false,
    core := t.seat.map (·.core), die := physDie s t, ctx := t.ctx, launch := t.launch, pc := t.pc, lpc := lpc }

/-- Puts a checked access in flight for the thread `t`, which is the thread after its instruction: scratch lanes are
performed at once, in the order of the lanes where several reach one location, which the spec leaves to the PZ9 (R261; the model's choice,
assumption 54), and an access with no other lane delivers its results at once (R57, R79). -/
def launchOp (s : State) (t : Thread) (o : Op) (accs : List (LaneAcc × Option (Nat × Nat))) : State :=
  let step (acc : State × List LaneAcc) (x : LaneAcc × Option (Nat × Nat)) : State × List LaneAcc :=
    match x.2 with
    | some (w, off) => ((scratchLane acc.1 o x.1 w off).1, acc.2 ++ [(scratchLane acc.1 o x.1 w off).2])
    | none => (noteAccess acc.1 (xlUnit t) t.ctx x.1.va.toNat (kindWrites o.kind), acc.2 ++ [x.1])
  -- of the lanes of one store that write the same bytes, only the highest writes (R97, R258)
  let shadowed (x : LaneAcc) : Bool :=
    (o.kind == .store || o.kind == .stk) && x.phase == .todo &&
      accs.any fun y => y.2.isNone && y.1.pa == x.pa && (x.item < y.1.item)
  let r0 := accs.foldl step (s, [])
  let r := (r0.1, r0.2.map fun x => if shadowed x then { x with phase := .done } else x)
  let o1 := { o with lanes := r.2 }
  if aborting s o.region then
    -- an access of a region under abort is discarded: its destination holds an undefined value (R139)
    putThr r.1 s.cur (loseDest { t with seat := t.seat.map fun st => freeRegs st (dstRegs o.dst) } o)
  else if r.2.all fun a => a.phase == .done then
    deliver (putThr r.1 s.cur (settleUndo t o)) o1
  else
    let s1 := putThr r.1 s.cur { t with seqNo := o.seq }
    { s1 with ops := tabPut s1.ops s1.nextId o1, nextId := s1.nextId + 1 }

/-- Whether a lane access is a long-latency producer (R316): a load of a space other than scratch, an atomic or a `cas`. -/
def longProducer (kind : AccKind) (space : Space) : Bool :=
  match kind with
  | .load => space != 2
  | .atomic => true
  | .cas => true
  | _ => false

/-- A lane access (R252): checked in every executing lane, then issued. A result goes into l0 when it comes (R177); that of a
load no instruction may read there (R253). -/
def laneAccess (i : Instr) (e : LaneEnv) (space : Space) (n : Nat) (a : AccSpec) (reqs : List Req) : Out :=
  match checkAll e.s e.t space n (kindWrites a.kind) reqs with
  | .error (f, m) => laneStop e.s e.t e.b f.cause f.sub m (failStop f (kindWrites a.kind))
  | .ok accs =>
    let st0 := afterReads i e
    let long := (dstRegs a.dst).foldl (fun (m : BitVec 248) k => m ||| (1#248 <<< k)) 0
    let entry : Latch :=
      { vals := [], mask := e.ex, block := e.b.seq, pos := e.b.pos, broken := a.kind == .load, pend := some (e.t.seqNo + 1) }
    let st1 : Seat := match a.dst with
      | .none => st0
      | _ => { st0 with
          longRegs := if longProducer a.kind space then st0.longRegs ||| long else st0.longRegs
          latches := entry :: st0.latches.take 3 }
    -- outside a region a load or an atomic may still fault, and the strand then goes back to here (R181)
    let st2 : Seat := match a.dst with
      | .none => st1
      | _ => if st1.region = 0 then { st1 with undos := st1.undos ++ [undoOf st1 (e.t.seqNo + 1) e.t.aflags] } else st1
    .next (launchOp e.s { e.t with seat := some st2 } (mkOp e.s e.s.cur e.t e.b.seq (some (blockPc e.b)) a []) accs)

/-- Whether an address lies in the scratch or private window (R53). -/
def inWindow (a : Nat) : Bool := 0xFE ≤ bitsAt a 56 8

/-- Checks made for an instruction that takes no window address: one raises WINDOW with sub-cause 0x04 (R262, R267). -/
def outsideWindows (chk : Req → Except Fail (LaneAcc × Option (Nat × Nat))) (q : Req) : Except Fail (LaneAcc × Option (Nat × Nat)) :=
  if inWindow (toWord q.addr).toNat then .error ⟨cWINDOW, 0x04, toWord q.addr, 0, 0⟩ else chk q

/-- A scalar access for its items, checked: those that `keep` retains go in flight. A span whose access fails seats first and
takes the fault in its strands (R257). `t'` is the thread after the instruction. -/
def scalarAccess (s : State) (t t' : Thread) (a : AccSpec) (r : Except (Fail × W32) (List (LaneAcc × Option (Nat × Nat))))
    (keep : List (LaneAcc × Option (Nat × Nat)) → List (LaneAcc × Option (Nat × Nat))) : Out :=
  match r with
  | .error (f, m) =>
    match t.seat with
    | none => .next (seatSpan s s.cur t none)
    | some _ => .next (takeStop s s.cur (failStop f (kindWrites a.kind) { mkStop s t .fault f.cause f.sub t.pc with mask := m }))
  | .ok accs => .next (launchOp s t' (mkOp s s.cur t 0 none a []) (keep accs))

end Sys2Proof.Machine
end

