-- ==== Sys2Proof/Machine/Perform.lean ====
section
/-!
DEFINITION. Accesses at the slices: positions and live tags (R129 to R132), leased copies (R93 to R95), write completion
times (R101), commutative ranges (R87 to R90), reader-set stores (R111), non-region accesses (R131), returns (R79), and
the events that carry them out.
-/
namespace Sys2Proof.Machine
open Sys2Proof

/-! ### Copies (R93 to R95, R112) -/

/-- The die a copy lies on. -/
def placeDie : Place → Nat
  | .l1 c => c / 128
  | .quad q => q / 32
  | .stage c _ => c / 128

/-- The quad a copy lies in. -/
def placeQuad : Place → Nat
  | .l1 c => c / 4
  | .quad q => q
  | .stage c _ => c / 4

/-- The copy of a line at a place. -/
def copyAt (s : State) (p : Place) (line : Nat) : Option Copy := s.coh.copies.find? fun c => c.place == p && c.line == line

/-- The latest lease on a line among the copies that satisfy a condition, at least `base` (R101). -/
def horizon (s : State) (line base : Nat) (p : Place → Bool) : Nat :=
  (s.coh.copies.filter fun c => c.line == line && !c.parked && p c.place).foldl (fun m c => max m c.expiry) base

/-- The latest lease that a quad store has granted on a line, at least `base` (R101). -/
def quadHorizon (s : State) (line base q : Nat) : Nat :=
  match copyAt s (.quad q) line with
  | some c => max c.granted (horizon s line base fun p => placeQuad p == q && p != .quad q)
  | none => horizon s line base fun p => placeQuad p == q

/-- The latest lease of a line held by another package, with the margin of R101. -/
def remoteHorizon (s : State) (line base : Nat) : Nat :=
  (s.coh.remote.filter fun r => r.line == line && !r.owned).foldl (fun m r => max m (r.expiry + 40)) base

/-- The write completion time of a store performed now at a scope, from a core and its die, at the slice or parking point of a die
`owner`: leases of the other dies count with the margin of R103 (R101). -/
def wctOf (s : State) (scope line die owner : Nat) (core : Option Nat) : Nat :=
  let now := rtNs s
  if scope = 0 then now
  else if scope = 1 then
    match core with
    | some c => quadHorizon s line now (c / 4)
    | none => now
  else
    if scope = 2 then horizon s line now fun p => placeDie p == die
    else
      let others := (s.coh.copies.filter fun c => c.line == line && !c.parked && placeDie c.place != owner).foldl
        (fun m c => max m (c.expiry + 2)) (horizon s line now fun p => placeDie p == owner)
      if scope = 3 then others else remoteHorizon s line others

/-- The write completion time of such a store at its own scope and, for later fences, at each wider one (R104). -/
def wctOfAll (s : State) (scope line die owner : Nat) (core : Option Nat) : Wct :=
  let own := wctOf s scope line die owner core
  let at_ (k : Nat) : Nat := if k ≤ scope then own else max own (wctOf s k line die owner core)
  ⟨own, at_ 1, at_ 2, at_ 3, at_ 4⟩

/-- Records the places in coherence order of `n` bytes of a line that a thread has seen or written (R97). -/
def noteSeen (s : State) (id line off n : Nat) (stamps : Tab Nat) : State :=
  match stampPart stamps off n with
  | [] => s
  | new => modThr s id fun t => { t with seen := tabPut t.seen line (maxTab (tabGet [] t.seen line) new) }

/-- The floor of a place for a line: the latest writes that have passed through it. -/
def floorAt (s : State) (p : Place) (line : Nat) : Tab Nat :=
  match s.coh.floors.find? fun f => f.place == p && f.line == line with
  | some f => f.stamps
  | none => []

/-- Raises the floor of a place on `n` bytes of a line to a write performed now. -/
def raiseFloor (s : State) (p : Place) (line off n : Nat) : State :=
  { s with coh := { s.coh with
      floors := ⟨p, line, stampTab (floorAt s p line) off n (stampNow s)⟩ ::
        s.coh.floors.filter fun f => !(f.place == p && f.line == line) } }

/-- A write of `n` bytes passes through the L1 of a core and, with `quad`, its quad store (R95): the copies there take it,
under the stamp given. -/
def patchCopies (s : State) (core : Option Nat) (l1 quad : Bool) (line off n v stamp : Nat) : State :=
  match core with
  | none => s
  | some c =>
    let hit (x : Copy) : Bool := x.line == line && ((l1 && x.place != .quad (c / 4) && (match x.place with
        | .l1 k => k == c
        | .stage k _ => k == c
        | .quad _ => false)) || (quad && x.place == .quad (c / 4)))
    { s with coh := { s.coh with
        copies := s.coh.copies.map fun x =>
          if hit x then { x with data := linePut x.data off n v, stamps := stampTab x.stamps off n stamp } else x } }

/-- A write performed now at the home slice or the parking point by a core has passed through its L1 and quad store. -/
def passThrough (s : State) (core : Option Nat) (line off n v : Nat) : State :=
  match core with
  | none => s
  | some c =>
    raiseFloor (raiseFloor (patchCopies s core true true line off n v (stampNow s)) (.l1 c) line off n) (.quad (c / 4)) line off n

/-- Parked copies of a line take a write performed at the parking point (R112). -/
def patchParked (s : State) (line off n v : Nat) : State :=
  { s with coh := { s.coh with
      copies := s.coh.copies.map fun x =>
        if x.parked && x.line == line then
          { x with data := linePut x.data off n v, stamps := stampTab x.stamps off n (stampNow s) }
        else x } }

/-- Bytes of a line written now at the slice of a die that holds it in M: the line there takes them, and the live writer's
tentative copy (R131). `d` is the line's data before. -/
def sliceWrite (s : State) (die line off n : Nat) (d : LineData) (v : Nat) : State :=
  let s1 : State := { s with coh := { s.coh with
    l2 := s.coh.l2.map fun x => if x.die = die ∧ x.line = line then { x with data := linePut d off n v } else x } }
  overTentative (stampWrite s1 line off n) die line off n v

/-- Bytes of a parked line written now at its parking point (R70): the parked copies take them (R112). -/
def parkedWrite (s : State) (k : Locket) (off n v : Nat) : State :=
  patchParked (stampWrite (putLocket s { k with data := linePut k.data off n v }) k.line off n) k.line off n v

/-- A store that was on its way from the L1 or the quad store has reached its home: what has seen or holds it under the stamp it
had meanwhile holds it under its place in coherence order. -/
def settleStamp (s : State) (line old : Nat) : State :=
  let f (m : Tab Nat) : Tab Nat := m.map fun p => if p.2 = old then (p.1, stampNow s) else p
  { s with
    coh := { s.coh with copies := s.coh.copies.map fun x => if x.line = line then { x with stamps := f x.stamps } else x }
    threads := s.threads.map fun p =>
      (p.1, { p.2 with seen := p.2.seen.map fun q => if q.1 = line then (q.1, f q.2) else q }) }

/-- Whether a value may leave copies below its slice: normal memory, not parked (R72, R345), and no read-only copy of a failed range,
which is read only where it lies (R378). -/
def leasable (s : State) (o : Op) (a : LaneAcc) : Bool := a.mt == 0 && o.region == 0 && !roLine s (lineOf a.pa)

/-! ### Streams (R81) -/

/-- Stream detection on an L1 read miss (R81): the detector of the thread moves on, or starts again, and a stream that ends
gives up its lines. Another lane's miss to the line just missed leaves it. At most four streams of a core are staged. -/
def noteMiss (s : State) (o : Op) (line : Nat) : State :=
  match o.core with
  | none => s
  | some c =>
    let rest := s.coh.streams.filter fun x => !(x.core == c && x.thread == o.thread)
    let armed := (rest.filter fun x => x.core == c && 8 ≤ x.count).length
    let fresh : Stream := ⟨c, o.thread, line + 1, 1, coreCc s c⟩
    let n : Stream := match s.coh.streams.find? fun x => x.core == c && x.thread == o.thread with
      | some x =>
        if x.next = line + 1 then { x with last := coreCc s c }
        else if x.next = line then
          { x with next := line + 1, count := if x.count = 7 ∧ 4 ≤ armed then 7 else x.count + 1, last := coreCc s c }
        else fresh
      | none => fresh
    let copies := if n.count < 8 then s.coh.copies.filter fun x => x.place != .stage c o.thread else s.coh.copies
    { s with coh := { s.coh with streams := n :: rest, copies := copies } }

/-- Whether a thread's stream is armed, so that its reads bypass the L1 and go through the staging buffer (R81). -/
def streamArmed (s : State) (o : Op) : Bool :=
  s.coh.streams.any fun x => some x.core == o.core && x.thread == o.thread && 8 ≤ x.count

/-- An access of an armed stream renews its time (R81). -/
def noteStream (s : State) (o : Op) : State :=
  { s with coh := { s.coh with streams := s.coh.streams.map fun x =>
      if (some x.core = o.core ∧ x.thread = o.thread ∧ 8 ≤ x.count) then { x with last := (coreCc s x.core) } else x } }

/-- Where a thread's read puts a copy below the quad store: the L1, or the staging buffer of an armed stream (R81). -/
def nearPlace (s : State) (o : Op) (core : Nat) : Place := if streamArmed s o then .stage core o.thread else .l1 core

/-- When a lease that a die's slice grants now on a line ends: no later than the slice's own (R93, R94). -/
def leaseEnd (s : State) (ctx die line : Nat) : Nat :=
  let e := rtNs s + (ctxOf s ctx).lease
  match (l2At s die line).bind (·.lease) with
  | some x => min e x
  | none => e

/-- A leased copy of a line, as its die's slice gives it to a place now (R93). A quad store notes the lease as granted. -/
def leaseCopy (s : State) (ctx die line : Nat) (d : LineData) (p : Place) : Copy :=
  let e := leaseEnd s ctx die line
  ⟨p, line, ctx, d, stampNow s, stampsOf s line, false, e, match p with
    | .quad _ => max (((copyAt s p line).map (·.granted)).getD 0) e
    | _ => 0⟩

/-- After a read at the home slice: the core's own copies are refreshed, and a load without `.na` makes them (R93, R94,
R253); `near` is the place below the quad store. -/
def refreshCopies (s : State) (o : Op) (a : LaneAcc) (die line : Nat) (d : LineData) (near : Place) : State :=
  match o.core with
  | none => s
  | some c =>
    let put (acc : State) (p : Place) : State :=
      if (leasable s o a && !o.na) || (copyAt acc p line).isSome then putCopy acc (leaseCopy s o.ctx die line d p) else acc
    put (put s (.quad (c / 4))) near

/-- Whether two cores are peers for a probe: one quad or neighbouring quads of one die (R82). -/
def peers (a b : Nat) : Bool :=
  a != b && a / 128 == b / 128 && (a / 4 == b / 4 || a / 4 + 1 == b / 4 || b / 4 + 1 == a / 4)

/-- Whether a store to a line that has been performed at a level of the quad of a core is still on its way home (R100): of the
core itself at its L1, or of any core of the quad at the quad store. -/
def nearPending (s : State) (core line : Nat) : Bool :=
  s.ops.any fun p => match p.2.core with
    | some k => p.2.lanes.any fun a => lineOf a.pa == line && (match a.phase with
        | .near lv _ => k == core || (k / 4 == core / 4 && lv == 1)
        | _ => false)
    | none => false

/-- Whether a store of a core to a line has been performed at its L1 and has not reached the quad store. -/
def nearAtL1 (s : State) (core line : Nat) : Bool :=
  s.ops.any fun p => p.2.core == some core && p.2.lanes.any fun a => lineOf a.pa == line && (match a.phase with
    | .near 0 _ => true
    | _ => false)

/-- Whether a peer's L1 answers a probe of a core for `n` bytes of a copy (R82): from a clean leased copy, where neither a parked
line nor a partial of the peer lies, and with nothing older than what has passed through the core's own L1 or, for a peer of
another quad, its quad store (R84, R122). -/
def peerAnswers (s : State) (core x : Nat) (c : Copy) (off n : Nat) : Bool :=
  peers core x && !c.parked && !(nearPending s x c.line) && !(nearPending s core c.line)
    && !((locketAt s c.line).any fun k => k.level == .l1 x)
    && !(s.coh.partials.any fun p => p.core == x && p.line == c.line)
    && reaches c.stamps (floorAt s (.l1 core) c.line) off n
    && (core / 4 == x / 4 || reaches c.stamps (floorAt s (.quad (core / 4)) c.line) off n)

/-- Whether a load may be served from a copy (R72, R81, R82, R94, R95, R97, R104, R105, R112, R392). -/
def mayServe (s : State) (o : Op) (a : LaneAcc) (c : Copy) : Bool :=
  match o.core, tabFind s.threads o.thread with
  | some k, some t =>
    let off := a.pa % 128
    o.kind == .load && !o.acq && o.region == 0 && a.mt == 0 && c.line == lineOf a.pa && !slotEmpty s a.pa a.key
      && !poisoned s c.line && t.seqAt ≤ c.filled
      && (if c.parked then !o.lx else rtNs s < c.expiry) && reaches c.stamps (tabGet [] t.seen c.line) off a.n &&
      (match c.place with
        | .l1 x => (x == k && !(streamArmed s o)) || (!o.lx && !(streamArmed s o) && peerAnswers s k x c off a.n)
        | .quad q => q == k / 4 && !(nearAtL1 s k c.line)
        | .stage x th => x == k && th == o.thread)
  | _, _ => false

/-- Serves a load from a copy: an L1 or staging fill from the quad store or a peer takes a lease no longer than its source's,
and the quad store notes what it has granted (R82, R94, R101). -/
def serveCopy (s : State) (o : Op) (a : LaneAcc) (c : Copy) : State × Word :=
  let v : Word := BitVec.ofNat 64 (lineGet c.data (a.pa % 128) a.n)
  let s1 := noteSeen (noteStream s o) o.thread c.line (a.pa % 128) a.n c.stamps
  match o.core with
  | none => (s1, v)
  | some k =>
    if c.place = .l1 k ∨ c.place = .stage k o.thread then (s1, v)
    else
      let near := nearPlace s1 o k
      let s2 := noteMiss s1 o c.line
      let e := min c.expiry (rtNs s + (ctxOf s o.ctx).lease)
      let s3 : State := match c.place with
        | .quad q => { s2 with coh := { s2.coh with copies := s2.coh.copies.map fun x =>
            if (x.place = .quad q ∧ x.line = c.line) then { x with granted := (max x.granted e) } else x } }
        | _ => s2
      if o.na && (copyAt s3 near c.line).isNone then (s3, v)
      else (putCopy s3 { c with place := near, ctx := o.ctx, expiry := e, granted := 0 }, v)

/-! ### Commutative ranges (R87 to R89) -/

/-- A contribution to the core's partial of an element, or to its entry at the combining slice (R88, R89). -/
def contribute (s : State) (o : Op) (a : LaneAcc) (c : CRange) : State :=
  let line := lineOf a.pa
  let s1 := unpark s line
  let n := crBytes c.fmt
  let e := a.pa % 128 / n
  let core := o.core.getD 0
  let mine (p : Partial) : Bool := p.core == core && p.line == line
  let v := a.val.toNat % 2 ^ (8 * n)
  let add (p : Partial) : Partial :=
    { p with elems := tabPut p.elems e (match tabFind p.elems e with
        | some x => BitVec.ofNat 64 (crOp c x.toNat v)
        | none => BitVec.ofNat 64 v) }
  { s1 with coh := { s1.coh with
      partials := if s1.coh.partials.any mine then s1.coh.partials.map fun p => if mine p then add p else p
        else s1.coh.partials ++ [add ⟨core, o.launch, line, a.key, c, [], false⟩] } }

/-- PARTIAL_HANDOVER (R89): a partial becomes the core's entry at the combining slice. -/
def execPartialHandover (k : Nat) (s : State) : Out :=
  match s.coh.partials[k]? with
  | some p =>
    if p.handed then notEnabled "PARTIAL_HANDOVER"
    else .next { s with coh := { s.coh with partials := s.coh.partials.set k { p with handed := true } } }
  | none => notEnabled "PARTIAL_HANDOVER"

/-! ### Operations in flight -/

/-- Changes one lane of an operation. -/
def modLane (s : State) (op lane : Nat) (f : LaneAcc → LaneAcc) : State :=
  { s with ops := tabMod s.ops op fun o => { o with lanes := o.lanes.map fun a => if a.lane = lane then f a else a } }

/-- Whether a lane's access has ended. -/
def laneEnded (a : LaneAcc) : Bool :=
  match a.phase with
  | .done => true
  | .failed _ _ _ _ => true
  | _ => false

/-- Whether every lane of an operation has ended. -/
def opPerformed (o : Op) : Bool := o.lanes.all laneEnded

/-- Whether an operation precedes another of its thread in program order (R96): one of the same stream by issue, one of the other
stream only where an `lx` or a fence orders them. -/
def precedes (p o : Op) : Bool := p.seq < o.seq && ((p.block == 0) == (o.block == 0) || p.seq ≤ o.after)

/-- Whether two accesses to memory share a byte. -/
def overlaps (a b : LaneAcc) : Bool := a.scr.isNone && b.scr.isNone && a.pa < b.pa + b.n && b.pa < a.pa + a.n

/-- Whether an access of the thread that precedes this one in program order has yet to be performed on a byte of it (R96, R97,
R99). -/
def blockedByEarlier (s : State) (o : Op) (a : LaneAcc) : Bool :=
  s.ops.any fun p => p.2.thread == o.thread && precedes p.2 o &&
    p.2.lanes.any fun x => !lanePerformed 0 x && overlaps x a

/-- Whether a pending release part holds a write back (R104). -/
def heldByRelease (s : State) (o : Op) : Bool :=
  match tabFind s.threads o.thread with
  | some t => match t.rel with
    | some (_, upto) => kindWrites o.kind && upto < o.seq
    | none => false
  | none => false

/-- Whether a write of a lane block, not yet performed, stands behind a load or an atomic of its lane stream that may still fault:
it is to have no effect then (R181; assumption 60). -/
def behindUnsure (s : State) (o : Op) : Bool :=
  o.block != 0 && o.region == 0 && kindWrites o.kind && !sureTo s o.thread (o.seq - 1)

/-- Device accesses of a thread are performed in program order (R345). -/
def deviceBlocked (s : State) (o : Op) (a : LaneAcc) : Bool :=
  a.mt == 2 && s.ops.any fun p => p.2.thread == o.thread && p.2.seq < o.seq && p.2.lanes.any fun x => x.mt == 2 && !laneEnded x

/-- Ends a lane of an operation with a result. -/
def laneDoneWith (s : State) (op lane : Nat) (res : Word) (wct : Wct) : State :=
  let s1 := modLane s op lane fun a => { a with phase := .done, res := res }
  { s1 with ops := tabMod s1.ops op fun o => { o with wct := o.wct.join wct } }

/-- A lane that meets poison: a load or value-returning atomic fails; another write is acknowledged and its effect lost, and its line
is poisoned in memory unless its home has failed (R374, R378, R392). -/
def lanePoison (s : State) (op : Nat) (o : Op) (a : LaneAcc) (sub : Nat) : State :=
  if o.path = .ld ∨ o.path = .atm then
    let s1 := modLane s op a.lane fun x => { x with phase := .failed cPOISON sub (lineOf a.pa * 128) 0 }
    if o.path = .ld then { s1 with ras := { s1.ras with poisonRd := s1.ras.poisonRd + 1 } } else s1
  else
    let s1 := laneDoneWith s op a.lane 0 (Wct.flat (rtNs s))
    let s2 : State := { s1 with ras := { s1.ras with lostSt := s1.ras.lostSt + 1 } }
    if sub = 0x03 then s2 else poisonLine s2 (lineOf a.pa)

/-- Whether a `stk` lane acts as `st` (R255). -/
def stkPlain (s : State) (o : Op) (a : LaneAcc) : Bool :=
  rsdKind o.rsd == 0 || a.np || a.mt != 0 || (crangeOf s o.launch a.va.toNat).isSome || (taggedDie s (lineOf a.pa)).isSome

/-! ### The path of narrow stores (R100, R101) -/

/-- The stamp a store has in the copies of its quad while it is on its way home. -/
def nearStamp (a : LaneAcc) : Option Nat :=
  match a.phase with
  | .near _ st => some st
  | _ => none

/-- Whether a store that has been performed at a level of the quad of core `c`, under a stamp, is ahead of a lane's access of core `k`
on its path to the slice (R115): at the core's own L1 behind nothing of that L1, or at the quad store of its quad. -/
def aheadOf (k c lv st : Nat) (a : LaneAcc) : Bool :=
  match a.phase with
  | .near 0 mine => (lv == 0 && c == k && st < mine) || (lv == 1 && c / 4 == k / 4)
  | .near _ mine => lv == 1 && c / 4 == k / 4 && st < mine
  | _ => if lv = 0 then c == k else c / 4 == k / 4

/-- Whether no store to an access's line, up to a level of the quad, is ahead of it on the path of its core (R115). -/
def pathClearTo (s : State) (o : Op) (a : LaneAcc) (level : Nat) : Bool :=
  match o.core with
  | none => true
  | some k => s.ops.all fun p => match p.2.core with
    | none => true
    | some c => p.2.lanes.all fun x =>
        lineOf x.pa != lineOf a.pa || (match x.phase with
          | .near lv st => level < lv || !aheadOf k c lv st a
          | _ => true)

/-- Whether the in-order path of a core to a line's slice is clear for an access (R115). -/
def pathClear (s : State) (o : Op) (a : LaneAcc) : Bool := pathClearTo s o a 1

/-- Whether a store of `.core` or `.quad` scope may be performed at a level of its quad now: 0 the L1, 1 the quad store. Its line
is ordinary memory that is not parked, its key slot holds a key, and stores of the core before it have passed. -/
def nearReady (s : State) (o : Op) (a : LaneAcc) (level : Nat) : Bool :=
  o.region == 0 && o.kind == .store && o.core.isSome && o.scope ≤ level && level ≤ 1 && a.mt == 0 && !slotEmpty s a.pa a.key
    && (match a.phase with
      | .todo => true
      | .near lv _ => lv < level
      | _ => false)
    && !blockedByEarlier s o a && !heldByRelease s o && !behindUnsure s o && (locketAt s (lineOf a.pa)).isNone
    && (level == 0 || pathClearTo s o a 0)

/-- The value of a byte of a line that a store performed at a level of a core's quad has left there and that is still on its way home,
with its stamp: the latest one, if there is any (R100). -/
def nearByte (s : State) (core level line off : Nat) : Option (Nat × Nat) :=
  s.ops.foldl (fun acc p => p.2.lanes.foldl (fun acc1 x =>
    match x.phase with
    | .near lv st =>
      if lv = level ∧ lineOf x.pa = line ∧ x.pa % 128 ≤ off ∧ off < x.pa % 128 + x.n
          ∧ (p.2.core.any fun c => if level = 0 then c == core else c / 4 == core / 4) ∧ acc1.all (·.1 < st) then
        some (st, x.val.toNat / 2 ^ (8 * (off - x.pa % 128)) % 256)
      else acc1
    | _ => acc1) acc) none

/-- What an acquiring load of `.core` or `.quad` scope reads at its coherence point, the L1 or the quad store: the bytes of stores
performed there that are still on their way home, if they cover it. It is never served from a leased copy there, so it goes on to
the home slice otherwise (R100, R105; assumption 43). -/
def nearBytes (s : State) (o : Op) (a : LaneAcc) : Option (Tab Nat × Word) :=
  match o.core with
  | none => none
  | some k =>
    let bs := (List.range a.n).filterMap fun j => nearByte s k o.scope (lineOf a.pa) (a.pa % 128 + j)
    if bs.length < a.n then none
    else some ((List.range a.n).zip bs |>.map (fun x => (a.pa % 128 + x.1, x.2.1)),
      BitVec.ofNat 64 (ofLeBytes (bs.map fun b => BitVec.ofNat 8 b.2)))

/-- Whether an acquiring load may be served at its narrow coherence point now: at the quad store, what its L1 has before is there. -/
def nearServes (s : State) (o : Op) (a : LaneAcc) : Bool :=
  o.region == 0 && o.kind == .load && o.acq && o.scope ≤ 1 && a.mt == 0 && !laneEnded a && !slotEmpty s a.pa a.key
    && !poisoned s (lineOf a.pa) && !blockedByEarlier s o a && (locketAt s (lineOf a.pa)).isNone
    && (o.scope == 0 || pathClearTo s o a 0)

/-- Performs a store of one lane at a level of its quad: the copies there take it, and it goes on to its home slice (R100, R101). -/
def nearLane (s : State) (op : Nat) (o : Op) (a : LaneAcc) (level : Nat) : State :=
  let line := lineOf a.pa
  let v := a.val.toNat % 2 ^ (8 * a.n)
  let w := wctOf s level line o.die o.die o.core
  let s0 := match nearStamp a with
    | some st => settleStamp s line st
    | none => s
  let s1 := patchCopies s0 o.core (nearStamp a).isNone (level == 1) line (a.pa % 128) a.n v (stampNow s)
  let s2 := modLane (noteSeen s1 o.thread line (a.pa % 128) a.n (stampTab [] (a.pa % 128) a.n (stampNow s))) op a.lane fun x =>
    { x with phase := .near level (stampNow s) }
  { s2 with ops := tabMod s2.ops op fun x => { x with
      wct := x.wct.join (if o.scope = level then Wct.flat w else ⟨0, w, w, w, w⟩) } }

/-- What a store of one lane that has been performed at home does nearer to its core: copies there take it unless they have it
already, under its place in coherence order (R95, R97). -/
def arriveHome (s : State) (o : Op) (a : LaneAcc) (v : Nat) : State :=
  let line := lineOf a.pa
  let off := a.pa % 128
  match a.phase, o.core with
  | .near lv st, some c =>
    let s1 := patchCopies (settleStamp s line st) o.core false (lv == 0) line off a.n v (stampNow s)
    raiseFloor (raiseFloor s1 (.l1 c) line off a.n) (.quad (c / 4)) line off a.n
  | _, _ => passThrough s o.core line off a.n v

/-- The write completion time of a lane's write as it reaches home: what its own scope, and the quad's, took before then
stands (R101, R104). -/
def homeWct (s : State) (o : Op) (a : LaneAcc) (line owner : Nat) : Wct :=
  let w := wctOfAll s o.scope line o.die owner o.core
  match a.phase with
  | .near 0 _ => { w with own := 0 }
  | .near _ _ => { w with own := 0, quad := 0 }
  | _ => w

/-- The places in coherence order of the bytes an access covers. -/
def laneStamps (s : State) (a : LaneAcc) : Tab Nat := stampPart (stampsOf s (lineOf a.pa)) (a.pa % 128) a.n

/-- Marks the quad whose unit executes an atomic of `.core` or `.quad` scope as holding the line exclusively (R108). -/
def holdExcl (s : State) (o : Op) (die line : Nat) : State :=
  match o.kind, o.core with
  | .store, _ => s
  | .stk, _ => s
  | _, some c =>
    if o.scope ≤ 1 then
      { s with coh := { s.coh with
          l2 := s.coh.l2.map fun x => if x.die = die ∧ x.line = line then { x with excl := some (c / 4) } else x } }
    else s
  | _, none => s

/-- An atomic of `.pod` or `.sys` scope executes at a port of the hub, which recalls the line from the slice that held it (R108):
written back, it is left with no L2. -/
def portRecall (s : State) (o : Op) (die line : Nat) : State :=
  match o.kind with
  | .store => s
  | .stk => s
  | _ => if 4 ≤ o.scope ∧ (taggedDie s line).isNone then landLine (evictLine s die line) line else s

/-- The bytes a write of one lane covers have been written at a slice now: the line there, the live writer's tentative copy, and
the copies nearer to the core. -/
def putLane (s : State) (o : Op) (a : LaneAcc) (die : Nat) (d : LineData) (v : Nat) : State :=
  let line := lineOf a.pa
  let off := a.pa % 128
  staleTlb (arriveHome (sliceWrite s die line off a.n d v) o a v) line

/-- A write of one lane to the line its slice holds in M (R131, R369). An atomic is a read and a write there. A store that reaches a
read-only copy of a failed range is lost (R378). -/
def writeLane (s : State) (op : Nat) (o : Op) (a : LaneAcc) (die : Nat) : State :=
  let line := lineOf a.pa
  if roLine s line then lanePoison s op o a 0x03
  else
    match takeOwnership (recallExcl s line) die line a.key o.ctx with
    | (s1, .poison sub) => lanePoison s1 op o a sub
    | (s1, .data d) =>
      let m := lineGet d (a.pa % 128) a.n
      let w := homeWct s o a line die
      let s2 := commitPos s1 die line (kindReads o.kind) true
      let s3 := match newValue o a m with
        | none => s2
        | some v => putLane s2 o a die d v
      let s4 := portRecall (holdExcl s3 o die line) o die line
      laneDoneWith (noteSeen s4 o.thread line (a.pa % 128) a.n (laneStamps s4 a)) op a.lane (BitVec.ofNat 64 m) w

/-- A store to a parked line, performed at the parking point (R70): the parked copies take it (R112). Its completion time is composed
at its own scope, with the parking point's die as the owner (R101). -/
def writeParked (s : State) (op : Nat) (o : Op) (a : LaneAcc) (k : Locket) : State :=
  let line := lineOf a.pa
  let off := a.pa % 128
  let v := a.val.toNat % 2 ^ (8 * a.n)
  let w := homeWct s o a line (unparkDie k)
  let s2 := staleTlb (arriveHome (parkedWrite s k off a.n v) o a v) line
  laneDoneWith (noteSeen s2 o.thread line off a.n (laneStamps s2 a)) op a.lane 0 w

/-- Adds to the park demotions of a thread (R77). -/
def addPkdem (s : State) (id n : Nat) : State := modThr s id fun t => { t with pkdem := t.pkdem + BitVec.ofNat 64 n }

/-- The lanes of a `stk` that store to the line of one of them: the line parks once for all of them (R255). -/
def stkLanes (o : Op) (a : LaneAcc) : List LaneAcc :=
  o.lanes.filter fun x => !laneEnded x && x.scr.isNone && lineOf x.pa == lineOf a.pa

/-- A `stk` to a line (R68, R69, R77, R111): the line is gathered with the new values of every lane that stores to it and parks by
its new set, or is written home; one that an L2 keeps as a read-only copy of a failed range loses the stores (R378). -/
def parkLane (s : State) (op : Nat) (o : Op) (a : LaneAcc) (set : RSet) : State :=
  let line := lineOf a.pa
  let l := launchOf s o.launch
  let force := rsdForce o.rsd
  let place := placeLine s o.ctx o.launch line (levelFor l set force line)
  let s0 := addPkdem s o.thread place.2
  let lanes := stkLanes o a
  match place.1, roLine s line with
  | _, true => lanes.foldl (fun acc x => lanePoison acc op o x 0x03) s
  | none, false => lanes.foldl (fun acc x => writeLane acc op o x o.die) (unpark s0 line)
  | some lv, false =>
    match coherentLine s0 line a.key with
    | .poison sub => lanes.foldl (fun acc x => lanePoison acc op o x sub) s0
    | .data d =>
      let val (x : LaneAcc) : Nat := x.val.toNat % 2 ^ (8 * x.n)
      let d' := lanes.foldl (fun acc x => linePut acc (x.pa % 128) x.n (val x)) d
      let w := wctOfAll s 3 line o.die o.die o.core
      let s1 := match locketAt s0 line with
        | some k => putLocket (makeRoom (revokeParked s0 line) lv line)
            { k with rset := set, force := force, level := lv, data := d', ctx := o.ctx, launch := o.launch }
        | none => makeLocket s0 line set force lv d' a.key o.ctx o.launch
      let s2 := lanes.foldl (fun acc x =>
        let acc1 := stampWrite acc line (x.pa % 128) x.n
        let acc2 := arriveHome acc1 o x (val x)
        laneDoneWith (noteSeen acc2 o.thread line (x.pa % 128) x.n (laneStamps acc2 x)) op x.lane 0 w) s1
      staleTlb s2 line

/-- A read of one lane at the slice of a die (R131, R368). -/
def readLane (s : State) (op : Nat) (o : Op) (a : LaneAcc) (die : Nat) : State :=
  let line := lineOf a.pa
  match fillLine (recallExcl s line) die line a.key o.ctx with
  | (s1, .poison sub) => lanePoison s1 op o a sub
  | (s1, .data d) =>
    let near := nearPlace s o (o.core.getD 0)
    let s2 := noteStream (noteMiss (commitPos s1 die line true false) o line) o
    let s3 := refreshCopies s2 o a die line d near
    laneDoneWith (noteSeen s3 o.thread line (a.pa % 128) a.n (laneStamps s3 a)) op a.lane
      (BitVec.ofNat 64 (lineGet d (a.pa % 128) a.n)) (Wct.flat (rtNs s))

/-- Whether a load at the parking point leaves a parked copy in its core's L1 (R112): a declared reader's of a line parked in a
quad store or a die slice, without LX and without `.na`. -/
def leavesParked (s : State) (o : Op) (a : LaneAcc) (k : Locket) : Bool :=
  leasable s o a && !o.lx && !o.na && !(streamArmed s o) && k.ctx == o.ctx && o.core.any (declared s k) &&
    (match k.level with
      | .l1 _ => false
      | _ => true)

/-- A read of one lane at the parking point (R71, R72, R112); from any but the core's own L1 it is an L1 read miss (R81). -/
def readParked (s : State) (op : Nat) (o : Op) (a : LaneAcc) (k : Locket) : State :=
  let s0 := if o.core.any fun c => k.level == .l1 c then s else noteStream (noteMiss s o k.line) o
  let s1 := match o.core with
    | some c =>
      if leavesParked s o a k then
        putCopy s0 ⟨.l1 c, k.line, o.ctx, k.data, stampNow s, stampsOf s k.line, true, 0, 0⟩
      else s0
    | none => s0
  laneDoneWith (noteSeen s1 o.thread k.line (a.pa % 128) a.n (laneStamps s a)) op a.lane
    (BitVec.ofNat 64 (lineGet k.data (a.pa % 128) a.n)) (Wct.flat (rtNs s))

/-- Whether a load of an operation takes LOCATE at a parked line (R71). -/
def opLocates (s : State) (o : Op) (k : Locket) : Bool :=
  match o.core with
  | some c => o.kind == .load && !o.lx && locates s k o.ctx c
  | none => false

/-- A non-region access of one lane, performed at its point (R70, R90, R108, R131), where its key slot holds a key (R392) and its line is
not poisoned (R374). -/
def performLane (s : State) (op : Nat) (o : Op) (a : LaneAcc) : State :=
  let line := lineOf a.pa
  if slotEmpty s a.pa a.key ∨ poisoned s line then lanePoison s op o a 0x01
  else
    match o.kind, crangeOf s o.launch a.va.toNat with
    | .cacc, some c =>
      if roLine s line ∨ inFailedRange s a.pa then lanePoison s op o a 0x03
      else laneDoneWith (contribute s o a c) op a.lane 0 (Wct.flat (rtNs s))
    | _, _ =>
      let die := (taggedDie s line).getD o.die
      let s0 := enterSlice (combine s line) die line
      match o.kind, locketAt s0 line with
      | .load, some k => readParked s0 op o a k
      | .load, none => readLane s0 op o a die
      | .store, some k => writeParked s0 op o a k
      | .stk, k? =>
        if stkPlain s0 o a then
          match k? with
          | some k => writeParked s0 op o a k
          | none => writeLane s0 op o a die
        else
          match resolveRsd (launchOf s0 o.launch) o.rsd (o.core.getD 0) with
          | some set => parkLane s0 op o a set
          | none => writeLane s0 op o a die
      | _, _ => writeLane (unpark s0 line) op o a die

/-- Whether the slices have the ways an access needs (R3): a load or store at a parking point needs none; a combine needs one at
the combining slice (R90). -/
def wayReady (s : State) (kind : AccKind) (die line : Nat) : Bool :=
  ((linePartials s line).isEmpty || wayFree s ((taggedDie s line).getD (homeDie (128 * line))) line) &&
    (((locketAt s line).isSome && (kind == .load || kind == .store)) || kind == .cacc || wayFree s die line)

/-- Whether an access writes its line at the slice, or has its partials combined into it (R90), for the regions that have answered
their freezes (R136). -/
def writesLine (s : State) (o : Op) (line : Nat) : Bool := kindWrites o.kind || !(linePartials s line).isEmpty

/-- Whether the lanes that a `stk` parks with one lane may all go (R97, R255). -/
def stkReady (s : State) (o : Op) (a : LaneAcc) : Bool :=
  o.kind != .stk || stkPlain s o a || (stkLanes o a).all fun x => !blockedByEarlier s o x

/-- Whether a lane's non-region access may be performed at its slice now; a `kget` is handled at the hub as it returns. -/
def sliceReady (s : State) (o : Op) (a : LaneAcc) : Bool :=
  let line := lineOf a.pa
  let die := (taggedDie s line).getD o.die
  o.region == 0 && o.kind != .kget && o.kind != .kgetSet && !laneEnded a && !blockedByEarlier s o a && !heldByRelease s o && !behindUnsure s o
    && !deviceBlocked s o a
    && stkReady s o a && !lineHeld s line && heldTurn s (.lane o.thread o.seq a.lane) line && pathClear s o a
    && linksReady s o.core.isNone die a.pa (kindWrites o.kind) && !(dieOf s die).resetting && wayReady s o.kind die line
    && !heldByFreeze s die line (writesLine s o line) 0 && !remoteOwned s line

/-- Runs an event on a lane of an operation. -/
def onLane (s : State) (name : String) (op lane : Nat) (k : Op → LaneAcc → Out) : Out :=
  match tabFind s.ops op with
  | some o =>
    match o.lanes.find? fun a => a.lane == lane with
    | some a => k o a
    | none => notEnabled name
  | none => notEnabled name

/-- A write acknowledged at a narrow scope has reached home: its completion times at the wider scopes reach its thread (R104),
and it leaves the machine. -/
def settleOp (s : State) (op : Nat) : State :=
  match tabFind s.ops op with
  | some o =>
    if o.back && opPerformed o then
      purgeOps (modThr s o.thread fun t => { t with wide := t.wide.join o.wct }) o.thread o.path
    else s
  | none => s

/-- NONREGION_SLICE_ACCESS (R131): a lane's access is performed, at its home slice or parking point (`src` 0); a load is
served from copy `src` − 1; a store of `.core` or `.quad` scope is performed, and an acquiring load of that scope served, at its L1
(`src` 1) or quad store (`src` 2). -/
def execNonregionSliceAccess (op lane src : Nat) (s : State) : Out :=
  onLane s "NONREGION_SLICE_ACCESS" op lane fun o a =>
    match src with
    | 0 =>
      if !sliceReady s o a || (locketAt s (lineOf a.pa)).any (opLocates s o) then notEnabled "NONREGION_SLICE_ACCESS"
      else .next (settleOp (performLane s op o a) op)
    | k + 1 =>
      if o.kind == .store then
        if nearReady s o a k then .next (nearLane s op o a k) else notEnabled "NONREGION_SLICE_ACCESS"
      else if o.acq then
        match nearBytes s o a with
        | some (stamps, v) =>
          if k == o.scope && nearServes s o a then
            .next (laneDoneWith (noteSeen s o.thread (lineOf a.pa) (a.pa % 128) a.n stamps) op lane v (Wct.flat (rtNs s)))
          else notEnabled "NONREGION_SLICE_ACCESS"
        | none => notEnabled "NONREGION_SLICE_ACCESS"
      else
        match s.coh.copies[k]? with
        | some c =>
          if o.region == 0 && !laneEnded a && !blockedByEarlier s o a && mayServe s o a c then
            let r := serveCopy s o a c
            .next (laneDoneWith r.1 op lane r.2 (Wct.flat (rtNs s)))
          else notEnabled "NONREGION_SLICE_ACCESS"
        | none => notEnabled "NONREGION_SLICE_ACCESS"

/-! ### Locate faults (R71, R73) -/

/-- LOCATE_FAULT (R71): a load reaches a parked line from outside its set; the lane fails with the set and the location. -/
def execLocateFault (op lane : Nat) (s : State) : Out :=
  onLane s "LOCATE_FAULT" op lane fun o a =>
    match locketAt s (lineOf a.pa) with
    | some k =>
      if sliceReady s o a && opLocates s o k then
        .next (modLane s op lane fun x => { x with
          phase := .failed cLOCATE 0 (rsdOf k.rset k.force).toNat (locationWord s o.launch k.line).toNat })
      else notEnabled "LOCATE_FAULT"
    | none => notEnabled "LOCATE_FAULT"

/-- Whether a lane failed with a cause. -/
def laneFailed (cause : Nat) (a : LaneAcc) : Bool :=
  match a.phase with
  | .failed c _ _ _ => c == cause
  | _ => false

/-- LOCATE_RESOLVE (R73): in hardware mode the locate unit adds the core to the set of each line an operation was refused,
and replays the operation in every lane. -/
def execLocateResolve (op : Nat) (s : State) : Out :=
  match tabFind s.ops op with
  | some o =>
    if o.lanes.any (laneFailed cLOCATE) && !hostAssisted s o.launch 1 (some 1) then
      let s1 := o.lanes.foldl (fun acc a =>
        if laneFailed cLOCATE a then
          match locketAt acc (lineOf a.pa), o.core with
          | some k, some c => if locates acc k o.ctx c then locateResolve acc k c else acc
          | _, _ => acc
        else acc) s
      .next (reissueOp s1 op o fun _ => true)
    else notEnabled "LOCATE_RESOLVE"
  | none => notEnabled "LOCATE_RESOLVE"

/-! ### Returns (R79) -/

/-- The stop of an operation whose lanes have failed: the cause of the lowest failing lane, and its lanes (R252). -/
def opStop (s : State) (t : Thread) (o : Op) : Option Stop :=
  match o.lanes.find? fun a => match a.phase with
    | .failed _ _ _ _ => true
    | _ => false with
  | some a =>
    match a.phase with
    | .failed c sub w6 w7 =>
      some { mkStop s t .fault c sub (if o.lpc.isSome then nextPc t else o.pc) with
        lpc := o.lpc
        va := a.va
        mask := maskOf fun L => o.lanes.any fun x => x.lane == L && laneFailed c x
        w6 := BitVec.ofNat 64 w6
        w7 := BitVec.ofNat 64 w7
        write := kindWrites o.kind
        seq := o.seq }
    | _ => none
  | none => none

/-- Keeps the greatest write completion time of a launch, at the widest scope (R119, R341). -/
def noteWct (s : State) (launch : Nat) (w : Wct) : State := modLaunch s launch fun l => { l with wct := max l.wct w.pod }

/-- Marks an operation returned, folds its write completion time, and removes what has returned in order (R79, R102). -/
def opBack (s : State) (op : Nat) (o : Op) (fold : Bool) : State :=
  let s1 : State := noteWct { s with ops := tabMod s.ops op fun x => { x with back := true } } o.launch o.wct
  let s2 := modThr s1 o.thread fun t => settleUndo t o
  purgeOps (if fold then modThr s2 o.thread fun t => foldWct t o.wct else s2) o.thread o.path

/-- The lane instructions of a strand after a faulting access of its lane stream have no effect: the strand stands behind the access
again, and the later accesses of its blocks, of which no write has been performed, are gone (R181). -/
def goBack (s : State) (o : Op) (t : Thread) (st : Seat) : State :=
  match st.undos.find? fun u => u.seq == o.seq with
  | some u =>
    let s1 : State := { s with
      ops := s.ops.filter fun p => p.2.thread != o.thread || p.2.block == 0 || p.2.seq ≤ o.seq }
    putThr s1 o.thread (undoTo t st o.block u)
  | none => s

/-- An operation whose lanes failed ends in a fault: it stays in flight with no result delivered, and a replay issues
every lane again (R252). A span seats, and its strands take the fault, each with the operation (R257). -/
def opFault (s : State) (o : Op) (t : Thread) (p : Stop) : State :=
  match t.seat, t.wait with
  | some st, _ => takeStop (goBack s o t st) o.thread p
  | none, .seating tiles p0 => putThr s o.thread { t with wait := .seating tiles (some (p0.getD p)) }
  | none, _ => seatSpan s o.thread t (some p)

/-- Whether a wait of a span may be given up to seat it: its instruction issues again in each strand. -/
def waitYields : Wait → Bool
  | .none => true
  | .fence _ _ => true
  | .path _ _ => true
  | .snooze _ => true
  | .sjoin _ => true
  | .seating _ _ => true
  | _ => false

/-- Whether a failed operation may take its fault now: it has not taken it already, no access before it in its lane stream may still
fault (R181), and a span can seat. -/
def mayFault (s : State) (o : Op) : Bool :=
  match tabFind s.threads o.thread with
  | some t => (opStop s t o).isNone || ((o.block == 0 || sureTo s o.thread (o.seq - 1)) && (t.stop.toList ++ t.more).all (·.seq != o.seq) && (t.seat.isSome || waitYields t.wait))
  | none => true

/-- A load-path or atomic-path operation returns. -/
def opReturn (s : State) (op : Nat) (o : Op) (fold : Bool) : State :=
  match tabFind s.threads o.thread with
  | none => opBack s op o fold
  | some t =>
    match opStop s t o with
    | some p => if t.seat.any (·.retired) then opBack s op o fold else opFault s o t p
    | none => opBack (deliver s o) op o fold

/-- The results of `kget` and `kget.set`, read at the hub when the request is handled (R267, R75). -/
def kgetResults (s : State) (o : Op) : Op :=
  { o with lanes := o.lanes.map fun a =>
      if laneEnded a then a
      else
        let v : Word := if o.kind = .kget then locationWord s o.launch (lineOf a.pa)
          else match locketAt s (lineOf a.pa) with
            | some k => rsdOf k.rset k.force
            | none => 0
        { a with phase := .done, res := v } }

/-- LOAD_RETURN (R79). What `kget` asks of a line comes when the hub no longer holds the line's requests (R375, R387). -/
def execLoadReturn (op : Nat) (s : State) : Out :=
  match tabFind s.ops op with
  | some o0 =>
    let asks := o0.kind == .kget || o0.kind == .kgetSet
    let o := if asks then kgetResults s o0 else o0
    if o.path == .ld && !(asks && o.lanes.any fun a => lineHeld s (lineOf a.pa)) && !o.back && opPerformed o && mayFault s o && !(o.lanes.any (laneFailed cLOCATE) && !hostAssisted s o.launch 1 (some 1)) then
      .next (mergeAfter (opReturn { s with ops := tabPut s.ops op o } op o false) o.thread)
    else notEnabled "LOAD_RETURN"
  | none => notEnabled "LOAD_RETURN"

/-- ATOMIC_RETURN (R109). -/
def execAtomicReturn (op : Nat) (s : State) : Out :=
  match tabFind s.ops op with
  | some o =>
    if o.path == .atm && !o.back && opPerformed o && mayFault s o then
      .next (mergeAfter (opReturn s op o true) o.thread)
    else notEnabled "ATOMIC_RETURN"
  | none => notEnabled "ATOMIC_RETURN"

/-- STORE_ACK (R79): a write that has been performed at its own scope is acknowledged with its write completion time. One of
`.pkg` or wider waits for the translations made from its lines to be dropped, since its completion time includes that (R347). -/
def execStoreAck (op : Nat) (s : State) : Out :=
  match tabFind s.ops op with
  | some o =>
    if o.path == .st && !o.back && performedAt o o.scope && !(3 ≤ o.scope && waitsTlb s o) then .next (opBack s op o true)
    else notEnabled "STORE_ACK"
  | none => notEnabled "STORE_ACK"

/-! ### Leases, streams and translations -/

/-- LEASE_EXPIRY (R93): copy `k` has expired. -/
def execLeaseExpiry (k : Nat) (s : State) : Out :=
  match s.coh.copies[k]? with
  | some c =>
    if !c.parked && c.expiry ≤ rtNs s then .next { s with coh := { s.coh with copies := s.coh.copies.eraseIdx k } }
    else notEnabled "LEASE_EXPIRY"
  | none => notEnabled "LEASE_EXPIRY"

/-- STREAM_TIMEOUT (R81): 4,096 cycles without access. -/
def execStreamTimeout (k : Nat) (s : State) : Out :=
  match s.coh.streams[k]? with
  | some x =>
    if x.last + 4096 ≤ coreCc s x.core then
      .next { s with coh := { s.coh with
        streams := s.coh.streams.eraseIdx k
        copies := s.coh.copies.filter fun c => c.place != .stage x.core x.thread } }
    else notEnabled "STREAM_TIMEOUT"
  | none => notEnabled "STREAM_TIMEOUT"

/-- Whether an access through a cache that used a translation is still in flight (R347): a load or atomic until it has returned,
another write until it has been performed; one that has failed issues anew. A die's cache serves its cores, which answer for their
accesses themselves. -/
def tlbInUse (s : State) (t : Tlb) : Bool :=
  s.ops.any fun o => o.2.ctx == t.ctx && o.2.core.getD hubUnit == t.unit && !o.2.back &&
    o.2.lanes.any fun a => a.scr.isNone && a.va.toNat / 4096 == t.page
      && (!laneEnded a || ((o.2.path == .ld || o.2.path == .atm) && !(o.2.lanes.any hasFailed)))
      && a.pa / 4096 == (pteFrame t.pte.toNat + t.page * 4096 % leafSize t.level) / 4096

/-- The drop of a translation has been acknowledged now: a write whose line it was made from counts that in its completion times
from `.pkg` out, and one that waited for nothing else leaves the machine (R101, R347). -/
def ackTlb (s : State) (t : Tlb) : State :=
  let mine (o : Op) : Bool := o.lanes.any fun a => kindWrites o.kind && t.lines.contains (lineOf a.pa)
  let now := rtNs s
  let more (o : Op) : Op := { o with wct := o.wct.join ⟨(if 3 ≤ o.scope then now else 0), 0, 0, now, now⟩ }
  let s1 : State := { s with ops := s.ops.map fun p => (p.1, if mine p.2 then more p.2 else p.2) }
  (s.ops.filter fun p => mine p.2).foldl (fun acc p => settleOp acc p.1) s1

/-- Whether an invalidation that was sent earlier to the same cache has yet to reach it: they come in the order sent (R371). -/
def earlierStale (s : State) (t : Tlb) : Bool :=
  s.coh.tlb.any fun x => x.unit == t.unit && !x.dropped && x.stale.any fun n => t.stale.any (n < ·)

/-- TRANSLATION_INVALIDATION (R347): a translation made from a changed line is dropped; the drop is acknowledged once the accesses
that used it have returned or been performed. -/
def execTranslationInvalidation (k : Nat) (s : State) : Out :=
  match s.coh.tlb[k]? with
  | some t =>
    if t.stale.isNone || (!t.dropped && earlierStale s t) then notEnabled "TRANSLATION_INVALIDATION"
    else if !tlbInUse s t then .next (ackTlb { s with coh := { s.coh with tlb := s.coh.tlb.eraseIdx k } } t)
    else if t.dropped then notEnabled "TRANSLATION_INVALIDATION"
    else .next { s with coh := { s.coh with tlb := s.coh.tlb.set k { t with dropped := true } } }
  | none => notEnabled "TRANSLATION_INVALIDATION"

end Sys2Proof.Machine
end

