-- ==== Sys2Proof/Machine/MemInstr.lean ====
section
/-!
DEFINITION. The memory instructions: lane accesses (R250 to R256), lane atomics (R259 to R262), `lea` (R240), scalar
accesses and atomics (R257, R258, R263), cache maintenance (R264, R265, R85, R86) and the reader-set instructions
(R266 to R268).
-/
namespace Sys2Proof.Machine
open Sys2Proof

/-! ### Lane accesses -/

/-- The address of a lane: exact in the scratch and private spaces, otherwise mod 2^64 (R251). -/
def laneAddr (e : LaneEnv) (space L : Nat) : Int :=
  let off := sext 25 e.f.imm.toNat
  if space = 2 ∨ space = 3 then (srcA e 32 L : Nat) + off else (toWord ((srcA e 64 L : Nat) + off)).toNat

/-- The requests of the executing lanes. -/
def laneReqs (e : LaneEnv) (space : Space) (v v2 : Nat → Nat) : List Req :=
  (lanesOf e.ex).map fun L =>
    { lane := L, item := slotItem e.s e.t e.st L, addr := laneAddr e space L, val := BitVec.ofNat 64 (v L),
      val2 := BitVec.ofNat 64 (v2 L) }

/-- The destination registers of the executing lanes. -/
def laneDest (e : LaneEnv) : Dest :=
  .vreg ((lanesOf e.ex).map fun L => (L, regOf e.s e.t e.st e.f.dst.toNat L)) e.ty

/-- `ld` (R253). -/
def execLd (f : LaneFields) (s : State) : Out :=
  laneInstr (.ld f) s fun e =>
    laneAccess (.ld f) e (famOf f) (accessBytes e.ty)
      ⟨.ld, .load, 0, e.ty, immScope f, f.imm.getLsbD 28, f.rnd.getLsbD 1, f.rnd.getLsbD 0, 0, laneDest e⟩
      (laneReqs e (famOf f) (fun _ => 0) fun _ => 0)

/-- `st` (R254). -/
def execSt (f : LaneFields) (s : State) : Out :=
  laneInstr (.st f) s fun e =>
    laneAccess (.st f) e (famOf f) (accessBytes e.ty) ⟨.st, .store, 0, e.ty, immScope f, false, false, false, 0, .none⟩
      (laneReqs e (famOf f) (srcB e e.rb) fun _ => 0)

/-- `stk` (R255): the descriptor is the one its block captured. -/
def execStk (f : LaneFields) (s : State) : Out :=
  laneInstr (.stk f) s fun e =>
    laneAccess (.stk f) e (famOf f) (accessBytes e.ty)
      ⟨.st, .stk, 0, e.ty, immScope f, false, false, false, tabGet 0 e.b.kregs (f.sc.toNat % 8), .none⟩
      (laneReqs e (famOf f) (srcB e e.rb) fun _ => 0)

/-- The leased copy of its line that one lane of a `prf` requests at a level (R256): 0 the L1, 1 the quad store, 2 the slice. A
line that is parked, that holds partials, or that its slice cannot serve now, is left as it is (assumption 53). -/
def prefetchLine (s : State) (o : Op) (a : LaneAcc) (level : Nat) : State :=
  let line := lineOf a.pa
  let die := (taggedDie s line).getD o.die
  if (locketAt s line).isSome || !(linePartials s line).isEmpty || !sliceReady s o a || !leasable s o a || slotEmpty s a.pa a.key then s
  else
    match fillLine (recallExcl (enterSlice s die line) line) die line a.key o.ctx, o.core with
    | (s1, .data d), some c =>
      let s2 := commitPos s1 die line true false
      let copy (acc : State) (p : Place) : State := putCopy acc (leaseCopy s2 o.ctx die line d p)
      if level = 0 then copy (copy s2 (.quad (c / 4))) (nearPlace s2 o c)
      else if level = 1 then copy s2 (.quad (c / 4))
      else s2
    | _, _ => s

/-- One lane of a `prf` (R256): dropped when its address fails R252; otherwise its page is used and its line requested. -/
def prefetchLane (e : LaneEnv) (s : State) (q : Req) : State :=
  match checkLane e.s e.t 0 (accessBytes 0) false q with
  | .ok (a, none) =>
    let o := { mkOp e.s e.s.cur e.t e.b.seq none ⟨.ld, .load, 0, e.ty, 2, false, false, false, 0, .none⟩ [a] with region := 0 }
    prefetchLine (noteAccess s (xlUnit e.t) e.t.ctx a.va.toNat false) o a (immScope e.f)
  | _ => s

/-- `prf` (R256): it never faults, and nothing waits for the copies it requests. -/
def execPrf (f : LaneFields) (s : State) : Out :=
  laneInstr (.prf f) s fun e =>
    let s1 := (laneReqs e 0 (fun _ => 0) fun _ => 0).foldl (prefetchLane e) e.s
    .next (putThr s1 e.s.cur { e.t with seat := some (afterReads (.prf f) e) })

/-- `atom` (R259, R260). -/
def execAtom (f : LaneFields) (s : State) : Out :=
  laneInstr (.atom f) s fun e =>
    laneAccess (.atom f) e 0 (accessBytes e.ty) ⟨.atm, .atomic, immOp f, e.ty, immScope f, false, false, false, 0, laneDest e⟩
      (laneReqs e 0 (srcB e e.rb) fun _ => 0)

/-- `red` (R259, R260). -/
def execRed (f : LaneFields) (s : State) : Out :=
  laneInstr (.red f) s fun e =>
    laneAccess (.red f) e 0 (accessBytes e.ty) ⟨.st, .atomic, immOp f, e.ty, immScope f, false, false, false, 0, .none⟩
      (laneReqs e 0 (srcB e e.rb) fun _ => 0)

/-- `cas` (R259). -/
def execCas (f : LaneFields) (s : State) : Out :=
  laneInstr (.cas f) s fun e =>
    laneAccess (.cas f) e 0 (accessBytes e.ty) ⟨.atm, .cas, 0, e.ty, immScope f, false, false, false, 0, laneDest e⟩
      (laneReqs e 0 (srcB e e.rb) (srcC e e.rb))

/-- The element format of a commutative range that a TY matches (R87, R262). -/
def crTy (fmt : Nat) : Nat := if fmt = 0 then 3 else if fmt = 1 then 6 else if fmt = 2 then 4 else 5

/-- Checks one lane of `cacc`: the checks of R252, a window address, and the range and its format (R262). -/
def caccCheck (s : State) (t : Thread) (ty n : Nat) (q : Req) : Except Fail (LaneAcc × Option (Nat × Nat)) :=
  let va : Word := toWord q.addr
  if q.addr % (n : Int) ≠ 0 then .error ⟨cALIGN, 0, va, 0, 0⟩
  else
    match outsideWindows (checkLane s t 0 n true) q with
    | .error f => .error f
    | .ok (_, some _) => .error ⟨cWINDOW, 0x04, va, 0, 0⟩
    | .ok (a, none) =>
      match crangeOf s t.launch va.toNat with
      | some c => if crTy c.fmt = ty then .ok (a, none) else .error ⟨cPROT, 0x05, va, 0, 0⟩
      | none => .error ⟨cPROT, 0x05, va, 0, 0⟩

/-- `cacc` (R262): inside a region it ends the region (R128). -/
def execCacc (f : LaneFields) (s : State) : Out :=
  laneInstr (.cacc f) s fun e =>
    if inRegion e.t then laneStop s e.t e.b cCONV 0x06 e.ex id
    else
      match checkEach (caccCheck s e.t e.ty (accessBytes e.ty)) (laneReqs e 0 (srcB e e.rb) fun _ => 0) with
      | .error (g, m) => laneStop s e.t e.b g.cause g.sub m (failStop g true)
      | .ok accs =>
        .next (launchOp s { e.t with seat := some (afterReads (.cacc f) e) }
          (mkOp s s.cur e.t e.b.seq (some (blockPc e.b)) ⟨.st, .cacc, 0, e.ty, 2, false, false, false, 0, .none⟩ []) accs)

/-! ### `lea` (R240) -/

/-- The global address a lane's address denotes, or the failed check. -/
def leaOf (e : LaneEnv) (L : Nat) : Except Fail Nat :=
  let r := lrecOf e.s e.t
  let a := srcA e 64 L
  let top := bitsAt a 56 8
  let off := bitsAt a 0 56
  let va : Word := BitVec.ofNat 64 a
  let scr (o : Nat) : Except Fail Nat :=
    if r.scratch < o then .error ⟨cWINDOW, 0x01, va, r.scratch, 0⟩
    else .ok ((r.sbase.toNat + tileOf e.s e.st * 524288 + o) % 2 ^ 64)
  let prv (o : Nat) : Except Fail Nat :=
    if r.ps < o then .error ⟨cWINDOW, 0x02, va, r.ps, 0⟩ else .ok (privVa r (slotItem e.s e.t e.st L) o)
  if famOf e.f = 2 then scr a
  else if famOf e.f = 3 then prv a
  else if top = 0xFF then scr off
  else if top = 0xFE then prv off
  else .ok a

/-- `lea` (R240). -/
def execLea (f : LaneFields) (s : State) : Out :=
  laneInstr (.lea f) s fun e =>
    let fails := (lanesOf e.ex).filterMap fun L => match leaOf e L with
      | .error g => some (L, g)
      | .ok _ => none
    match fails with
    | (_, g) :: _ =>
      laneStop s e.t e.b g.cause g.sub (maskOf fun L => fails.any fun x => x.1 == L && x.2.cause == g.cause)
        (failStop g false)
    | [] => laneResult (.lea f) e 64 (fun L => ((leaOf e L).toOption).getD 0) 0

/-! ### Scalar accesses (R257, R258) -/

/-- The space SP names (R257). -/
def spaceOf (p : BitVec 2) : Space := if p = 0 then 0 else if p = 1 then 4 else if p = 2 then 2 else 3

/-- The address of an item from a register, with a byte offset: mod 2^64 in spaces 0 and 4. -/
def itemAddr (v : SVal) (space : Space) (off : Int) (L : Nat) (i : Item) : Int :=
  let a : Int := (svalAt v L i).toNat + off
  if space = 2 ∨ space = 3 then a else (toWord a).toNat

/-- Whether a space and the addresses of a context's items name the window of the given top byte, or that space. -/
def namesWindow (s : State) (t : Thread) (v : SVal) (space : Space) (off : Int) (sp top : Nat) : Bool :=
  space == sp || (space == 0 && (activeItems s t).any fun x => bitsAt (itemAddr v 0 off x.1 x.2).toNat 56 8 == top)

/-- The requests of a context's items. -/
def itemReqs (s : State) (t : Thread) (v : SVal) (space : Space) (off : Int) (val val2 : Nat → Item → Word) : List Req :=
  (activeItems s t).map fun x =>
    { lane := x.1, item := x.2, addr := itemAddr v space off x.1 x.2, val := val x.1 x.2, val2 := val2 x.1 x.2 }

/-- A scalar load or atomic that may be given an M result: the fall row is checked and the destination is materialised
first (R33, R34). `k` runs on the thread after it. -/
def mDest (s : State) (t : Thread) (d : SReg) (k : Thread → Out) : Out :=
  inStrand s t fun st =>
    if !isM (getS t d) && (lrecOf s t).fall ≤ fallRowsUsed t d then fault s t cFALL 0
    else k (setS t d (.m (materialise s t st (getS t d))))

/-- A scalar access by the checks of R252, for the items that `keep` retains (R257, R258). -/
def itemsAccess (s : State) (t t' : Thread) (space : Space) (n : Nat) (a : AccSpec) (reqs : List Req)
    (keep : List (LaneAcc × Option (Nat × Nat)) → List (LaneAcc × Option (Nat × Nat))) : Out :=
  scalarAccess s t t' a (checkAll s t space n (kindWrites a.kind) reqs) keep

/-- `sld` (R257, R58). -/
def execSld (d a : SReg) (z : BitVec 2) (g : BitVec 1) (p : BitVec 2) (o : BitVec 9) (s : State) : Out :=
  scalar (.sld d a z g p o) s fun t =>
    let n : Nat := 2 ^ z.toNat
    let v := getS t a
    let space := spaceOf p
    let off := sext 9 o.toNat * (n : Int)
    let uAddr : Bool := match v with
      | .u _ => true
      | _ => false
    let prv := namesWindow s t v space off 3 0xFE
    let m := !uAddr || prv
    let spec : AccSpec := ⟨.ld, .load, 0, 0, 2, false, t.seat.isNone, false, 0, .sreg d m (bit g) n⟩
    let reqs := itemReqs s t v space off (fun _ _ => 0) fun _ _ => 0
    if t.seat.isNone && (m || namesWindow s t v space off 2 0xFF) then .next (seatSpan s s.cur t none)
    else if m then mDest s t d fun t1 => itemsAccess s t (advance t1 4) space n spec reqs id
    else itemsAccess s t (advance t 4) space n spec reqs (·.take 1)

/-- `sst` (R257, R258): one location takes the value of the item with the highest `ilin`. -/
def execSst (d a : SReg) (z p : BitVec 2) (o : BitVec 9) (s : State) : Out :=
  scalar (.sst d a z p o) s fun t =>
    let n : Nat := 2 ^ z.toNat
    let v := getS t a
    let space := spaceOf p
    let off := sext 9 o.toNat * (n : Int)
    let uAddr : Bool := match v with
      | .u _ => true
      | _ => false
    let prv := namesWindow s t v space off 3 0xFE
    let spec : AccSpec := ⟨.st, .store, 0, 0, 2, false, false, false, 0, .none⟩
    let reqs := itemReqs s t v space off (fun L i => svalAt (getS t d) L i) fun _ _ => 0
    if t.seat.isNone && (prv || namesWindow s t v space off 2 0xFF) then .next (seatSpan s s.cur t none)
    else itemsAccess s t (advance t 4) space n spec reqs
      fun accs => if uAddr && !prv then accs.drop (accs.length - 1) else accs

/-- `satom` (R263). -/
def execSatom (d a b : SReg) (w : BitVec 1) (sc : BitVec 3) (o : BitVec 4) (s : State) : Out :=
  scalar (.satom d a b w sc o) s fun t =>
    let n := if bit w then 8 else 4
    let v := getS t a
    let uAddr : Bool := match v with
      | .u _ => true
      | _ => false
    let kind : AccKind := if o = 9 then .cas else .atomic
    let spec : AccSpec := ⟨.atm, kind, o.toNat, 0, sc.toNat, false, false, false, 0, .sreg d (!uAddr) false n⟩
    let reqs := itemReqs s t v 0 0 (fun L i => svalAt (getS t b) L i) fun L i => svalAt (getS t d) L i
    if uAddr then
      if 1 < threadCount t then fault s t cCONV 0x08
      else if t.seat.isNone && namesWindow s t v 0 0 2 0xFF then .next (seatSpan s s.cur t none)
      else itemsAccess s t (advance t 4) 0 n spec reqs id
    else mDest s t d fun t1 => itemsAccess s t (advance t1 4) 0 n spec reqs id

/-! ### Cache maintenance (R85, R86, R264, R265) -/

/-- Which places a `cmo` of a level acts on, for an issuing core (none for a span) and die. -/
def cmoPlace (level : Nat) (core : Option Nat) (die : Nat) (p : Place) : Bool :=
  let c := core.getD 0
  if level = 0 then core.isSome && (match p with
    | .l1 x => x == c
    | .stage x _ => x == c
    | .quad _ => false)
  else if level = 1 then core.isSome && placeQuad p == c / 4
  else if level = 2 then placeDie p == die
  else true

/-- Whether a level reaches the L2 of a die. -/
def cmoL2 (level die d : Nat) : Bool := (level == 2 && d == die) || 3 ≤ level

/-- Whether a parking point lies within a level: a replicated line's, where every die that holds a replica does. For a line with
replicas on some of the dies only the spec does not say; the `cmo` then leaves it parked (assumption 57). -/
def cmoPark (level : Nat) (core : Option Nat) (die : Nat) (lv : Level) : Bool :=
  match lv with
  | .l1 c => cmoPlace level core die (.l1 c)
  | .quad q => cmoPlace level core die (.quad q)
  | _ => (levelDies lv).all (cmoL2 level die)

/-- A dirty line's data goes to memory and the line is kept as clean (R85). -/
def cleanLine (s : State) (die line : Nat) : State :=
  match l2At s die line with
  | some l =>
    if l.st = .m ∨ l.st = .o then setL2St (writeBack s l) die line (if l.st = .m then .e else .s) else s
  | none => s

/-- Drops a line from a die's L2 without writing it; one that live tags pin there stays, with memory's value (R129). -/
def discardLine (s : State) (die line : Nat) : State :=
  if tagLive (lineTag s die line) then
    match (l2At s die line).map fun l => memLine s line l.key with
    | some (.data d) => { s with coh := { s.coh with
        l2 := s.coh.l2.map fun x => if x.die = die ∧ x.line = line then { x with data := d, st := .e } else x } }
    | _ => s
  else dropTag (dropL2 s die line) die line

/-- What a `cmo` does to a write-back of its line (R85, R376): one that cleans a level it comes from has it land; a discard that
reaches the L2s waits for every die's, which lands or is dropped at the home as it comes there before or after the invalidation, left
open (assumption 2), but lands where a forward has been served from it (R377). -/
def cmoBacks (s : State) (kind level die line : Nat) : State :=
  match wbAt s line with
  | none => s
  | some w =>
    if kind = 3 ∧ 2 ≤ level then
      if w.fwd = true ∨ (Config.freeBits s.freeCtr (400000 + line)).getLsbD 0 = true then landLine s line else dropWb s line
    else if (kind = 0 ∨ kind = 2) ∧ cmoL2 level die w.held.die = true then landLine s line
    else s

/-- A `cmo` of a kind (0 clean, 1 invalidate, 2 clean-and-invalidate, 3 discard) and level on one line. -/
def cmoLine (s : State) (kind level : Nat) (core : Option Nat) (die line : Nat) : State :=
  let s0 := cmoBacks (if level = 0 then combine s line else recallExcl (combine s line) line) kind level die line
  let s1 := match locketAt s0 line with
    | some k =>
      if cmoPark level core die k.level then
        if kind = 0 ∨ kind = 2 then unpark s0 line else if kind = 3 then dropLocket s0 line else s0
      else s0
    | none => s0
  let s2 : State := if kind = 0 then s1 else { s1 with coh := { s1.coh with
    copies := s1.coh.copies.filter fun c => !(c.line == line && cmoPlace level core die c.place) } }
  (List.range 8).foldl (fun acc d =>
    if cmoL2 level die d then
      match l2At acc d line with
      | none => acc
      | some l =>
        let dirty := l.st == .m || l.st == .o
        if kind = 0 then cleanLine acc d line
        else if kind = 1 then (if dirty then acc else discardLine acc d line)
        else if kind = 2 then discardLine (cleanLine acc d line) d line
        else discardLine acc d line
    else acc) s2

/-- Acts on `n` lines from a virtual address up (R265): the state, and the first line that does not translate with its
sub-cause, if the range meets one. -/
def cmoRange (kind level base last : Nat) (t : Thread) : Nat → Nat → State → State × Option (Nat × Nat × Nat × Nat)
  | 0, _, s => (s, none)
  | n + 1, va, s =>
    if isAlias (lrecOf s t) va then cmoRange kind level base last t n (va + 128) s
    else
      match translate s (xlUnit t) t.ctx va with
      | .error (sub, e, lv) => (s, some (va, sub, e, lv))
      | .ok x =>
        let whole := decide (base ≤ va) && decide (va + 128 ≤ last)
        let k := if kind = 3 ∧ !whole then 2 else kind
        cmoRange kind level base last t n (va + 128)
          (cmoLine (noteAccess s (xlUnit t) t.ctx va false) k level (t.seat.map (·.core)) (physDie s t) (lineOf x.pa))

/-- An operation of the ST path with no lanes: it has been performed, and awaits its acknowledgement. -/
def pathOp (s : State) (id : Nat) (t t' : Thread) (kind : AccKind) : State :=
  let o := { mkOp s id t 0 none ⟨.st, kind, 0, 0, 3, false, false, false, 0, .none⟩ [] with wct := Wct.flat (rtNs s) }
  let s1 := putThr s id { t' with seqNo := o.seq }
  { s1 with ops := tabPut s1.ops s1.nextId o, nextId := s1.nextId + 1 }

/-- The two U operands of a range instruction and its window check; with `wraps` a range past 2^64 fails it too: that of a `cmo` (R264),
while `krev` and `kdrop` come to a line that is not canonical first (R268). -/
def rangeOperands (s : State) (t : Thread) (a b : SReg) (wraps : Bool) (k : Nat → Nat → Out) : Out :=
  needU s t (getS t a) fun base =>
    needU s t (getS t b) fun len =>
      if inWindow base.toNat = true ∨ (wraps = true ∧ 2 ^ 64 < base.toNat + len.toNat) then
        faultWith s t cWINDOW 0x04 fun p => { p with va := base }
      else k base.toNat len.toNat

/-- The number of lines that a range from a line boundary `first` up to `last` overlaps. -/
def lineSpan (first last : Nat) : Nat := (last - first + 127) / 128

/-- `cmo` (R264, R265). -/
def execCmo (a b : SReg) (l : BitVec 3) (k : BitVec 2) (s : State) : Out :=
  scalarOutside (.cmo a b l k) s fun t =>
    rangeOperands s t a b true fun base len =>
      let last := base + len
      let start := match t.resumeAt with
        | some r => r.toNat
        | none => base / 128 * 128
      let r := if len = 0 then (s, none) else cmoRange k.toNat l.toNat base last t (lineSpan start last) start s
      match r.2 with
      | none => .next (pathOp r.1 s.cur t (advance { t with resumeAt := none } 4) .cmo)
      | some (va, sub, e, lv) =>
        let t1 := { t with resumeAt := some (BitVec.ofNat 64 va) }
        faultWith (putThr r.1 s.cur t1) t1 cXLAT sub fun p =>
          { p with va := BitVec.ofNat 64 va, w6 := BitVec.ofNat 64 e, w7 := BitVec.ofNat 64 lv }

/-! ### Reader sets (R266 to R268) -/

/-- `kset` (R266). -/
def execKset (n : BitVec 3) (a : SReg) (s : State) : Out :=
  scalar (.kset n a) s fun t =>
    inStrand s t fun st =>
      needU s t (getS t a) fun v =>
        match rsdFault (launchOf s t.launch) v st.core with
        | some sub => faultWith s t cRSD sub fun p => { p with w6 := v }
        | none => done4 s { t with seat := some { st with kregs := tabSet 0 st.kregs n.toNat v } }

/-- A `kget` of either form: an item whose address lies in a window raises WINDOW (R267). -/
def kgetWith (i : Instr) (kind : AccKind) (d a : SReg) (s : State) : Out :=
  scalar i s fun t =>
    let v := getS t a
    let uAddr : Bool := match v with
      | .u _ => true
      | _ => false
    let spec : AccSpec := ⟨.ld, kind, 0, 0, 2, false, true, false, 0, .sreg d (!uAddr) false 8⟩
    let reqs := itemReqs s t v 0 0 (fun _ _ => 0) fun _ _ => 0
    let r := checkEach (outsideWindows (checkLane s t 0 1 false)) reqs
    if uAddr then scalarAccess s t (advance t 4) spec r (·.take 1)
    else mDest s t d fun t1 => scalarAccess s t (advance t1 4) spec r id

/-- `kget` (R267). -/
def execKget (d a : SReg) (s : State) : Out := kgetWith (.kget d a) .kget d a s

/-- `kget.set` (R267). -/
def execKgetSet (d a : SReg) (s : State) : Out := kgetWith (.kgetSet d a) .kgetSet d a s

/-- Acts on the locket of every line of a range that translates, lowest first; a line on a page that does not is skipped,
and the first non-canonical one ends it (R268). `f` gives the state and the levels a re-park moved. -/
def lockRange (unit ctx : Nat) (f : State → Locket → State × Nat) : Nat → Nat → State → Nat → State × Nat × Option Nat
  | 0, _, s, moved => (s, moved, none)
  | n + 1, va, s, moved =>
    if va / 2 ^ 57 ≠ 0 then (s, moved, some va)
    else
      match translate s unit ctx va with
      | .error _ => lockRange unit ctx f n (va + 128) s moved
      | .ok x =>
        let s1 := noteAccess s unit ctx va false
        match locketAt s1 (lineOf x.pa) with
        | some k => lockRange unit ctx f n (va + 128) (f s1 k).1 (moved + (f s1 k).2)
        | none => lockRange unit ctx f n (va + 128) s1 moved

/-- `krev` and `kdrop` after their operands. -/
def lockInstr (s : State) (t : Thread) (kind : AccKind) (base len : Nat) (f : State → Locket → State × Nat) : Out :=
  let start := base / 128 * 128
  let r := if len = 0 then (s, 0, none) else lockRange (xlUnit t) t.ctx f (lineSpan start (base + len)) start s 0
  let t1 := { t with pkdem := t.pkdem + BitVec.ofNat 64 r.2.1 }
  match r.2.2 with
  | none => .next (pathOp r.1 s.cur t (advance t1 4) kind)
  | some va => faultWith (putThr r.1 s.cur t1) t1 cXLAT 0x02 fun p => { p with va := BitVec.ofNat 64 va }

/-- What `krev` does to one locket: KIND 0 unparks the line (R75, R268). -/
def revise (launch core : Nat) (rsd : Word) (s : State) (k : Locket) : State × Nat :=
  match resolveRsd (launchOf s launch) rsd core with
  | some set => rePark s k set (rsdForce rsd) launch
  | none => (unpark s k.line, 0)

/-- `krev` (R268). -/
def execKrev (n : BitVec 3) (a b : SReg) (s : State) : Out :=
  scalar (.krev n a b) s fun t =>
    inStrand s t fun st =>
      rangeOperands s t a b false fun base len =>
        lockInstr s t .krev base len (revise t.launch st.core (tabGet 0 st.kregs n.toNat))

/-- `kdrop` (R268). -/
def execKdrop (a b : SReg) (s : State) : Out :=
  scalar (.kdrop a b) s fun t =>
    rangeOperands s t a b false fun base len => lockInstr s t .kdrop base len fun s1 k => (unpark s1 k.line, 0)

end Sys2Proof.Machine
end

