-- ==== Sys2Proof/Machine/EngIssue.lean ====
section
/-!
DEFINITION. Issuing engine commands (R280 to R283): the checks of R281, the team rule of R282, the capture of operands,
and each command's entry into its queue; batches (R300 to R302) and `qfence` (R117, R309).
-/
namespace Sys2Proof.Machine
open Sys2Proof

/-! ### Checks at issue (R281) -/

/-- Issues an engine command: a span seats, a defect of its fields or a slot out of range raises ILL, and a live region
ends with ENGINE (R280, R281, R128). -/
def engIssue (i : Instr) (s : State) (slotBad : LaunchRec → Bool) (k : Thread → Seat → Out) : Out :=
  scalar i s fun t =>
    inStrand s t fun st =>
      if slotBad (lrecOf s t) then fault s t cILL 0x05
      else if st.region ≠ 0 then .next (startAbort s st.region causeEngine 0 0 none)
      else k t st

/-- The values of the registers named, all U (R281 check 3). -/
def engOperands (s : State) (t : Thread) (rs : List SReg) (k : List Word → Out) : Out :=
  let vs := rs.map (getS t)
  let us := vs.filterMap fun v => match v with
    | .u w => some w
    | _ => none
  if us.length = rs.length then k us else fault s t cCONV 0x04

/-- ENGINE with DESC (R281 check 4, R351). -/
def descFault (s : State) (t : Thread) (i : Instr) (queue : Nat) : Out :=
  faultWith s t cENGINE 0x06 fun p => { p with w6 := cmdWord i + BitVec.ofNat 64 (queue * 2 ^ 40) }

/-- ALIGN at issue (R281 check 5). -/
def alignFault (s : State) (t : Thread) (va : Word) : Out := faultWith s t cALIGN 0 fun p => { p with va := va }

/-- WINDOW at issue (R281 check 6). -/
def windowFault (s : State) (t : Thread) (va : Word) : Out :=
  faultWith s t cWINDOW 0x01 fun p => { p with va := va, w6 := BitVec.ofNat 64 (lrecOf s t).scratch }

/-! ### Teams (R29, R282) -/

/-- The strands that hold a position of a workgroup. -/
def posHolders (s : State) (wg pos : Nat) : List (Nat × Thread × Seat) :=
  s.threads.filterMap fun p => p.2.seat.bind fun st =>
    if st.wg = wg ∧ st.six = pos ∧ st.retired = false then some (p.1, p.2, st) else none

/-- The slots of a position whose items lie in the launch range and have not retired. -/
def neededMask (s : State) (r : LaunchRec) (wg pos : Nat) : W32 :=
  match tabFind s.wgs wg with
  | some g => maskOf fun L => inRange r (posItem r g.tile (32 * pos + L)) && 32 * pos + L < r.wx * r.wy * r.wz
      && !g.retired.contains (32 * pos + L)
  | none => 0

/-- The full-mask rule (R282): each member position is held by exactly one strand, whose `am` holds every slot it needs. -/
def fullMask (s : State) (t : Thread) (st : Seat) : Bool :=
  let r := lrecOf s t
  (List.range' (teamOf s t st * r.team) r.team).all fun pos =>
    match posHolders s st.wg pos with
    | [(_, _, x)] => neededMask s r st.wg pos &&& ~~~x.am == 0
    | _ => false

/-- What a command puts in its queue. -/
structure Cmd where
  instr : Instr
  queue : Nat
  opnds : List Word
  cond  : Bool
  rsd   : Word
  bar   : Option (Nat × BitVec 8)

/-- An operation for its members (R280). -/
def mkEng (t : Thread) (st : Seat) (c : Cmd) (members : List Nat) : EngOp :=
  { queue := c.queue, core := st.core, wg := st.wg, launch := t.launch, ctx := t.ctx, members := members,
    instr := c.instr, pc := t.pc, opnds := c.opnds, cond := c.cond, rsd := c.rsd, bar := c.bar, batch := [],
    started := false, rows := [], progress := 0, partialSum := [], fetched := [], avals := [], status := 0, frow := 0,
    failVa := 0, failDst := 0, failWrite := false, failing := false, halted := false, finished := false, wct := Wct.flat 0, wrote := [],
    seq := t.seqNo }

/-- An operation enters its queue. -/
def enqueue (s : State) (o : EngOp) : State :=
  { s with engq := tabPut s.engq s.nextId o, nextId := s.nextId + 1 }

/-- A member's instruction has issued: it goes on. -/
def memberGoes (s : State) (id : Nat) : State := modThr s id fun t => advance { t with wait := .none } 4

/-- The TEAM fault of a member (R282, R351). -/
def teamStop (s : State) (held mine : Instr) (id : Nat) : State :=
  match tabFind s.threads id with
  | some t => takeStop (putThr s id { t with wait := .none }) id
      { mkStop s t .fault cTEAM 0 t.pc with w6 := cmdWord held, w7 := cmdWord mine }
  | none => s

/-- A team-issued command after its checks: the first member's command is held, a differing member raises TEAM in all,
and the last one queues the operation (R282). -/
def teamIssue (s : State) (t : Thread) (st : Seat) (c : Cmd) : Out :=
  let team := teamOf s t st
  let size := (lrecOf s t).team
  let rest := s.teams.filter fun h => !(h.wg == st.wg && h.team == team)
  let go (members : List Nat) : Out :=
    .next (members.foldl memberGoes (enqueue { s with teams := rest } (mkEng t st c members)))
  match s.teams.find? fun h => h.wg == st.wg && h.team == team with
  | none =>
    if size = 1 then go [s.cur]
    else
      let h : TeamHold := { wg := st.wg, team := team, instr := c.instr, opnds := c.opnds, cond := c.cond, waiting := [s.cur] }
      .next (putThr { s with teams := h :: rest } s.cur { t with wait := .team })
  | some h =>
    if h.instr = c.instr ∧ h.opnds = c.opnds ∧ h.cond = c.cond then
      if h.waiting.length + 1 = size then go (h.waiting ++ [s.cur])
      else
        .next (putThr { s with teams := { h with waiting := h.waiting ++ [s.cur] } :: rest } s.cur { t with wait := .team })
    else
      .next (h.waiting.foldl (fun acc m => teamStop acc h.instr h.instr m)
        (teamStop { s with teams := rest } h.instr c.instr s.cur))

/-- A team-issued command: the full-mask rule, then its operands (R281 checks 2 and 3). -/
def teamCmd (i : Instr) (s : State) (slotBad : LaunchRec → Bool) (rs : List SReg) (k : Thread → Seat → List Word → Out) :
    Out :=
  engIssue i s slotBad fun t st =>
    if fullMask s t st then engOperands s t rs (k t st) else fault s t cCONV 0x03

/-! ### The slots as the queue will leave them (R283, R298) -/

/-- The unfinished operations of a core's queue, oldest first. -/
def queueOf (s : State) (core queue : Nat) : List (Nat × EngOp) :=
  s.engq.filter fun o => o.2.core == core && o.2.queue == queue && !o.2.finished

/-- The tag (true for f64) that slot `d` has after an MX operation that overwrites or clears its pair or a slot of it (R283): one
that writes one slot of an f64 pair splits it, and leaves both slots f32. -/
def setsTag (o : EngOp) (d : Nat) : Option Bool :=
  let pair (x : Nat) (f64 : Bool) : Option Bool := if d / 2 = x / 2 then some f64 else none
  let mx (x : BitVec 6) (f : BitVec 7) : Option Bool :=
    if x.getLsbD 5 ∨ f.getLsbD 3 then none else pair (x.toNat % 8) (f.toNat % 8 == 4)
  match o.instr with
  | .mma x _ _ f => mx x f
  | .mgath x _ _ f => mx x f
  | .mzero x f => pair x.toNat (f == 1)
  | .mdrain x _ f => if f.getLsbD 5 then pair x.toNat false else none
  | _ => none

/-- An accumulator slot of a workgroup; +0 with the tag f32 where nothing has been written (R283). -/
def accSlot (g : Wg) (d : Nat) : Slot := (tabFind g.acc d).getD { f64 := false, vals := [] }

/-- Whether slot `d` will hold an f64 tag when the operations now queued have completed. -/
def tagAhead (s : State) (core wg d : Nat) : Bool :=
  let now := ((tabFind s.wgs wg).map fun g => (accSlot g d).f64).getD false
  (queueOf s core 0).foldl (fun acc o => if o.2.wg = wg then (setsTag o.2 d).getD acc else acc) now

/-- The condition that shadow `h` will be tied to when the operations now queued have completed (R298, R299). -/
def tieAhead (s : State) (core wg h : Nat) : Option Nat :=
  let now := ((tabFind s.wgs wg).bind fun g => tabFind g.shadow h).map (·.cond)
  (queueOf s core 0).foldl (fun acc o =>
    if o.2.wg ≠ wg then acc
    else
      let tie (x : BitVec 6) : Option Nat :=
        if x.getLsbD 5 ∧ x.toNat % 2 = h then some (acc.getD (x.toNat / 4 % 8)) else acc
      match o.2.instr with
      | .mma x _ _ _ => tie x
      | .mgath x _ _ _ => tie x
      | .mcommit _ n => if n.toNat = h then none else acc
      | _ => acc) now

/-! ### `mma` and `mgath` (R286, R288) -/

/-- Element width in bits of a matrix format (R287). -/
def mxWidth (fmt : Nat) : Nat := if fmt = 0 then 6 else if fmt = 1 then 8 else if fmt = 4 then 64 else 16

/-- A base must be a multiple of this many bytes (R286). -/
def mxAlign (fmt : Nat) : Nat := if fmt = 4 then 8 else if fmt = 2 ∨ fmt = 3 then 2 else 1

/-- Elements of a row that are stored, of K positions (R291, R292). -/
def storedK (sp dens : Bool) (k : Nat) : Nat := if sp then (if dens then k / 4 else k / 2) else k

/-- Whether the descriptors of `mma` and `mgath` are in order (R286). -/
def mxDescOk (a b : Word) (f : BitVec 7) : Bool :=
  let fmt := f.toNat % 8
  let sp := f.getLsbD 5
  let tb := f.getLsbD 6
  let k := bitsAt a.toNat 24 16
  let lda := bitsAt a.toNat 0 16
  let ldb := bitsAt b.toNat 0 16
  let dens := a.getLsbD 40
  bitsAt a.toNat 41 23 == 0 && !a.getLsbD 23 && bitsAt b.toNat 23 41 == 0 && k != 0 && (sp || !dens)
    && storedK sp dens k ≤ lda && (if tb then k else bitsAt b.toNat 16 7 + 1) ≤ ldb
    && (!sp || k % 48 == 0) && (fmt != 0 || (lda % 4 == 0 && ldb % 4 == 0))

/-- Whether `mma` or `mgath` names a slot at or above the launch's counts (R183, R288). -/
def mxSlotBad (d : BitVec 6) (f : BitVec 7) (r : LaunchRec) : Bool :=
  if d.getLsbD 5 then r.shadow ≤ d.toNat % 2
  else if f.toNat % 8 = 4 then r.acc ≤ d.toNat % 8 + 1 else r.acc ≤ d.toNat % 8

/-- Whether a shadow form names a condition other than the one its slot is tied to (R298). -/
def tieBad (s : State) (st : Seat) (d : BitVec 6) : Bool :=
  d.getLsbD 5 && match tieAhead s st.core st.wg (d.toNat % 2) with
    | some c => c != d.toNat / 4 % 8
    | none => false

/-- The checks of `mma` and `mgath` after their operands, in the order of R281. `list` is the offset of the row list. -/
def mxChecks (i : Instr) (s : State) (t : Thread) (st : Seat) (d : BitVec 6) (f : BitVec 7) (vs : List Word)
    (list : Option Word) : Out :=
  let a := vs.getD 0 0
  let a2 := vs.getD 1 0
  let b := vs.getD 2 0
  let al := mxAlign (f.toNat % 8)
  if !mxDescOk a2 (vs.getD 3 0) f || tieBad s st d then descFault s t i 0
  else if a.toNat % al ≠ 0 then alignFault s t a
  else if b.toNat % al ≠ 0 then alignFault s t b
  else
    let nr := bitsAt a2.toNat 16 7 + 1
    let run : Out := teamIssue s t st ⟨i, 0, vs, false, 0, none⟩
    match list with
    | some off =>
      if off.toNat % 4 ≠ 0 then alignFault s t off
      else if (lrecOf s t).scratch < off.toNat + 4 * nr then windowFault s t off
      else run
    | none => run

/-- `mma` (R288). -/
def execMma (d : BitVec 6) (a b : SReg) (f : BitVec 7) (s : State) : Out :=
  teamCmd (.mma d a b f) s (mxSlotBad d f) [a, a + 1, b, b + 1] fun t st vs =>
    mxChecks (.mma d a b f) s t st d f vs none

/-- `mgath` (R288, R293): its fifth operand is the list offset. -/
def execMgath (d : BitVec 6) (a b : SReg) (f : BitVec 7) (s : State) : Out :=
  teamCmd (.mgath d a b f) s (mxSlotBad d f) [a, a + 1, b, b + 1, a + 2] fun t st vs =>
    mxChecks (.mgath d a b f) s t st d f vs vs[4]?

/-! ### `mzero`, `mdrain`, `mcommit` -/

/-- `mzero` (R295). -/
def execMzero (d : BitVec 3) (f : BitVec 1) (s : State) : Out :=
  teamCmd (.mzero d f) s (fun r => r.acc ≤ d.toNat + f.toNat) [] fun t st vs =>
    teamIssue s t st ⟨.mzero d f, 0, vs, false, 0, none⟩

/-- Element width in bits of a drain's destination (R296). -/
def drainWidth (fmt : Nat) (f64 : Bool) : Nat :=
  if fmt = 0 then (if f64 then 64 else 32) else if fmt = 3 then 8 else if fmt = 4 then 6 else 16

/-- Whether a destination descriptor is in order (R296). -/
def drainDescOk (w : Word) (fmt : Nat) : Bool :=
  bitsAt w.toNat 31 33 == 0 && !w.getLsbD 23 && bitsAt w.toNat 24 7 + 1 ≤ bitsAt w.toNat 0 16
    && (fmt != 4 || bitsAt w.toNat 0 16 % 4 == 0)

/-- Bytes that a drain row occupies past its base, for row `row` of a destination. -/
def drainRowEnd (w : Word) (width row : Nat) : Nat :=
  (row * bitsAt w.toNat 0 16 * width + (bitsAt w.toNat 24 7 + 1) * width + 7) / 8

/-- `mdrain` (R296). -/
def execMdrain (d : BitVec 3) (a : SReg) (f : BitVec 6) (s : State) : Out :=
  let i : Instr := .mdrain d a f
  let sc := f.getLsbD 3
  teamCmd i s (fun r => r.acc ≤ d.toNat) (if sc then [a, a + 1, a + 2] else [a, a + 1]) fun t st vs =>
    let fmt := f.toNat % 8
    let base := vs.getD 0 0
    let w := vs.getD 1 0
    let width := drainWidth fmt (tagAhead s st.core st.wg d.toNat)
    let nr := bitsAt w.toNat 16 7 + 1
    let size := (lrecOf s t).scratch
    if !drainDescOk w fmt then descFault s t i 0
    else if base.toNat % (if width = 6 then 1 else width / 8) ≠ 0 then alignFault s t base
    else if sc && (vs.getD 2 0).toNat % 4 != 0 then alignFault s t (vs.getD 2 0)
    else if sc && size < (vs.getD 2 0).toNat + 4 * nr then windowFault s t (vs.getD 2 0)
    else if f.getLsbD 4 && !sc && size < base.toNat + drainRowEnd w width (nr - 1) then windowFault s t base
    else teamIssue s t st ⟨i, 0, vs, false, 0, none⟩

/-- `mcommit` (R299): each member reads the condition the shadow is tied to. -/
def execMcommit (d : BitVec 3) (n : BitVec 1) (s : State) : Out :=
  let i : Instr := .mcommit d n
  teamCmd i s (fun r => r.acc ≤ d.toNat || r.shadow ≤ n.toNat) [] fun t st vs =>
    match tieAhead s st.core st.wg n.toNat with
    | none => teamIssue s t st ⟨i, 0, vs, false, 0, none⟩
    | some c =>
      match getC t (BitVec.ofNat 3 c) with
      | .u b => teamIssue s t st ⟨i, 0, vs, b, 0, none⟩
      | _ => fault s t cCONV 0x04

/-! ### Completion barriers and batches (R300 to R303) -/

/-- A completion barrier named by a register, 0 for none: its offset is checked, and its GEN is read as the command issues
(R300, R303). -/
def withBar (s : State) (t : Thread) (st : Seat) (b : SReg) (k : Option (Nat × BitVec 8) → Out) : Out :=
  if b = 0 then k none
  else
    needU s t (getS t b) fun off =>
      if off.toNat % 8 ≠ 0 then alignFault s t off
      else if (lrecOf s t).scratch < off.toNat + 8 then windowFault s t off
      else
        let word : Word := BitVec.ofNat 64 (((tabFind s.wgs st.wg).map fun g => scrGet g off.toNat 8).getD 0)
        k (some (off.toNat, barGen word))

/-- `mfence` (R300). -/
def execMfence (a : SReg) (s : State) : Out :=
  engIssue (.mfence a) s (fun _ => false) fun t st =>
    withBar s t st a fun bar =>
      let b := t.batch.toNat + 1
      let id := s.cur
      let mine (o : EngOp) : Bool := o.queue != 1 && o.members.contains id && tabGet 0 o.batch id == 0
      let s1 : State := { s with
        engq := s.engq.map fun p => if mine p.2 then (p.1, { p.2 with batch := tabPut p.2.batch id b }) else p
        batches := s.batches ++ [{ thread := id, wg := st.wg, num := b, bar := bar, complete := false, barFailed := false }] }
      done4 s1 { t with batch := BitVec.ofNat 64 b }

/-- Whether every batch of a thread up to a number has completed. -/
def batchesDone (s : State) (id upto : Nat) : Bool :=
  s.batches.all fun b => b.thread != id || upto < b.num || b.complete

/-- The position of an operation within its batch, among the operations of its queue (R302). -/
def batchPos (s : State) (id op : Nat) (o : EngOp) : Nat :=
  (s.engq.filter fun p => p.1 < op && p.2.queue == o.queue && p.2.members.contains id
    && tabGet 0 p.2.batch id == tabGet 0 o.batch id).length

/-- The status `mwait` writes for the batches of a thread it reports (R302). -/
def mwaitStatus (s : State) (id : Nat) (bs : List Batch) : Word :=
  let ops := s.engq.filter fun p => p.2.members.contains id && bs.any fun b => b.num == tabGet 0 p.2.batch id
  let failed := ops.filter fun p => p.2.status != 0
  let nbar := (bs.filter (·.barFailed)).length
  let first := bs.find? fun b => b.barFailed || failed.any fun p => tabGet 0 p.2.batch id == b.num
  let mx := failed.find? fun p => p.2.queue == 0
  let cl := failed.find? fun p => p.2.queue == 2
  let fld (x : Option (Nat × EngOp)) (g : Nat × EngOp → Nat) (lo : Nat) : Nat := ((x.map g).getD 0) * 2 ^ lo
  BitVec.ofNat 64 (min 255 (failed.length + nbar) + fld mx (·.2.status) 8 + fld cl (·.2.status) 16
    + ((first.map fun b => b.num % 256).getD 0) * 2 ^ 24 + fld cl (fun p => min 255 (batchPos s id p.1 p.2)) 32
    + fld mx (fun p => min 255 (batchPos s id p.1 p.2)) 40 + min 255 nbar * 2 ^ 48 + fld mx (·.2.frow) 56)

/-- A member has had an operation reported; an operation that no member still awaits is forgotten. -/
def unmember (s : State) (id : Nat) (p : EngOp → Bool) : State :=
  { s with
    engq := (s.engq.map fun o => if p o.2 then (o.1, { o.2 with members := o.2.members.filter (· != id) }) else o).filter
      fun o => !(o.2.finished && o.2.members.isEmpty) }

/-- `mwait` ends: the status is written, results are acquired and WCTs fold, and a mark traps BARINV (R116, R301, R303). -/
def endMwait (s : State) (id : Nat) (t : Thread) (d : SReg) (upto : Nat) : State :=
  let bs := s.batches.filter fun b => b.thread == id && b.num ≤ upto
  let covered (o : EngOp) : Bool := o.members.contains id && bs.any fun b => b.num == tabGet 0 o.batch id
  let t0 := setS { t with wait := .none } d (.u (mwaitStatus s id bs))
  let t1 := (s.engq.filter fun p => covered p.2).foldl (fun acc p => acquireThr (foldWct acc p.2.wct) p.2.wrote) t0
  let s1 := unmember { s with batches := s.batches.filter fun b => !(b.thread == id && b.num ≤ upto) } id covered
  trapMark s1 id (advance t1 4)

/-- `mwait` (R301). -/
def execMwait (d a : SReg) (s : State) : Out :=
  engIssue (.mwait d a) s (fun _ => false) fun t _ =>
    needU s t (getS t a) fun v =>
      let upto := min v.toNat t.batch.toNat
      if batchesDone s s.cur upto then .next (endMwait s s.cur t d upto)
      else .next (putThr s s.cur { t with wait := .mwait d upto })

/-- MWAIT_COMPLETE (R301). -/
def execMwaitComplete (id : Nat) (s : State) : Out :=
  onThr s "MWAIT_COMPLETE" id fun t =>
    match t.wait with
    | .mwait d upto =>
      if t.stop.isNone && batchesDone s id upto then .next (endMwait s id t d upto) else notEnabled "MWAIT_COMPLETE"
    | _ => notEnabled "MWAIT_COMPLETE"

/-! ### `cpy`, `coll`, `qfence` -/

/-- Rows, row bytes, source pitch and destination pitch of a copy (R304). -/
def cpyShape (f : BitVec 4) (vs : List Word) : Nat × Nat × Nat × Nat :=
  let w := (vs.getD 2 0).toNat
  let p := (vs.getD 3 0).toNat
  if f.getLsbD 2 then (bitsAt w 32 16 + 1, bitsAt w 0 32, bitsAt p 0 32, bitsAt p 32 32) else (1, bitsAt w 0 32, 0, 0)

/-- Bytes from the first to the last that rows with a pitch cover. -/
def cpyExtent (rows rb pitch : Nat) : Nat := (rows - 1) * pitch + rb

/-- Whether a copy's fields are in order (R304). -/
def cpyDescOk (f : BitVec 4) (vs : List Word) : Bool :=
  let w := (vs.getD 2 0).toNat
  let (rows, rb, sp, dp) := cpyShape f vs
  let a := (vs.getD 0 0).toNat
  let b := (vs.getD 1 0).toNat
  let same := f.toNat % 4 == 2
  rb != 0 && bitsAt w 48 16 == 0 && (f.getLsbD 2 || bitsAt w 32 16 == 0) && (!f.getLsbD 2 || rb ≤ dp)
    && !(same && a < b + cpyExtent rows rb dp && b < a + cpyExtent rows rb sp)

/-- `cpy` (R304). -/
def execCpy (n : BitVec 3) (a b : SReg) (f : BitVec 4) (s : State) : Out :=
  let i : Instr := .cpy n a b f
  engIssue i s (fun _ => false) fun t st =>
    engOperands s t (if b = 0 then [a, a + 1, a + 2, a + 3] else [a, a + 1, a + 2, a + 3, b]) fun vs =>
      let (rows, rb, sp, dp) := cpyShape f vs
      let size := (lrecOf s t).scratch
      let off := (vs.getD 4 0).toNat
      if !cpyDescOk f vs then descFault s t i 1
      else if b ≠ 0 ∧ off % 8 ≠ 0 then alignFault s t (vs.getD 4 0)
      else if f.toNat % 4 = 1 ∧ size < (vs.getD 0 0).toNat + cpyExtent rows rb sp then windowFault s t (vs.getD 0 0)
      else if f.toNat % 4 = 0 ∧ size < (vs.getD 1 0).toNat + cpyExtent rows rb dp then windowFault s t (vs.getD 1 0)
      else
        withBar s t st b fun bar =>
          done4 (enqueue s (mkEng t st ⟨i, 1, vs.take 4, false, if f.getLsbD 3 then tabGet 0 st.kregs n.toNat else 0, bar⟩
            [s.cur])) t

/-- Element bytes of a collective's type: f32, f64, s32, s64, n64 (R307). -/
def collBytes (ty : Nat) : Nat := if ty = 0 ∨ ty = 2 then 4 else 8

/-- The role of a core in a group of a launch, if it has one (R307). -/
def roleIn (l : Launch) (group core : Nat) : Option Role :=
  l.roleTab.find? fun r => r.group == group && coreIn l (quadOn l (physOf l r.die) r.quad) r.core == core

/-- `coll` (R307). -/
def execColl (a : SReg) (sc : BitVec 2) (ty : BitVec 3) (o : BitVec 2) (s : State) : Out :=
  let i : Instr := .coll a sc ty o
  engIssue i s (fun _ => false) fun t st =>
    engOperands s t [a, a + 1, a + 2] fun vs =>
      let w := (vs.getD 2 0).toNat
      let count := bitsAt w 0 32
      if count = 0 ∨ 16777216 < count ∨ (o ≠ 2 ∧ bitsAt w 48 16 ≠ 0) ∨ (roleIn (launchOf s t.launch) (bitsAt w 32 16) st.core).isNone
      then descFault s t i 2
      else if (vs.getD 0 0).toNat % collBytes ty.toNat ≠ 0 then alignFault s t (vs.getD 0 0)
      else if (vs.getD 1 0).toNat % collBytes ty.toNat ≠ 0 then alignFault s t (vs.getD 1 0)
      else done4 (enqueue s (mkEng t st ⟨i, 2, vs, false, 0, none⟩ [s.cur])) t

/-- `qfence` (R117, R309): one entry in each queue named. The entries of one `qfence` carry one number in `seq`. -/
def execQfence (q : BitVec 3) (s : State) : Out :=
  scalar (.qfence q) s fun t =>
    inStrand s t fun st =>
      let entry (k : Nat) : EngOp := { mkEng t st ⟨.qfence q, k, [], false, 0, none⟩ [] with seq := s.freeCtr }
      done4 ((setBits 3 q.toNat).foldl (fun acc k => enqueue acc (entry k)) s) t

end Sys2Proof.Machine
end

