-- ==== Sys2Proof/Machine/Matrix.lean ====
section
/-!
DEFINITION. What engines read, write and compute: accesses of the tile fetch unit and the copy engine (R285, R290, R305),
tapered elements and their scales (R154 to R156, R287), matrix operands (R289 to R293), accumulator slots (R283) and
drains (R297, R159).
-/
namespace Sys2Proof.Machine
open Sys2Proof

/-- An engine step that met a failure: a status of R284 and the address, or that must wait at a line. -/
inductive Meet where
  | fail (status : Nat) (va : Nat)
  | wait (line : Nat)
  deriving DecidableEq, Repr

/-- What an engine step gives: a value with the state after it, or what it met. -/
abbrev Eng (α : Type) := Except Meet (State × α)

/-! ### Engine accesses -/

/-- The die an operation's core lies on. -/
def engDie (o : EngOp) : Nat := o.core / 128

/-- Translates an engine access through its core's cache and checks the page; XLAT and PROT as R285 states. -/
def engXl (s : State) (o : EngOp) (va : Nat) (write : Bool) : Eng Xl :=
  if xlWaits s o.core o.ctx va write then .error (.wait (lineOf ((ctxOf s o.ctx).root.toNat)))
  else
    match translate s o.core o.ctx va with
    | .error _ => .error (.fail 0x01 va)
    | .ok x =>
      match protSub (ctxOf s o.ctx).priv x.pte write with
      | some _ => .error (.fail 0x02 va)
      | none => .ok (noteAccess s o.core o.ctx va write, x)

/-- Whether a store to a line that a core's strands have made before is still on the core's in-order path to the slices
(R115). -/
def nearPath (s : State) (core line : Nat) : Bool :=
  s.ops.any fun p => p.2.core.any (fun c => c / 4 == core / 4) && p.2.lanes.any fun x =>
    lineOf x.pa == line && match x.phase with
      | .near lv _ => p.2.core == some core || lv == 1
      | _ => false

/-- An engine operation as the hub holds its access. -/
def engHolder (o : EngOp) : Holder := .engine o.core o.queue o.seq o.progress

/-- Whether an engine's access to a line has been held at the hub for too long: its read takes POISON, and its write is lost (R387). -/
def engLate (s : State) (o : EngOp) (line : Nat) : Bool := s.hub.held.any fun h => h.late && h.who == engHolder o && h.line == line

/-- Whether a slice cannot take an engine's access to a line now (R115, R136, R290, R373, R375, R387): the hub holds requests for it
or serves others first, an earlier store is still on its way, a region has answered its freeze, its set is full of pinned or parked lines,
its die is not reached or is in reset, or the line is away. -/
def engBlocked (s : State) (o : EngOp) (pa die : Nat) (write : Bool) : Bool :=
  let line := lineOf pa
  !engLate s o line && (
    lineHeld s line || !heldTurn s (engHolder o) line || heldByFreeze s die line (write || !(linePartials s line).isEmpty) 0
      || nearPath s o.core line || ((locketAt s line).isNone && !wayMade s die line)
      || (!(linePartials s line).isEmpty && !wayMade s (sliceOf s line) line)
      || !linksReady s false die pa write || (dieOf s die).resetting || remoteOwned s line)

/-- An engine's write that is lost (R374, R378, R387, R392): it is counted, and its line is poisoned in memory unless its home has
failed. -/
def engLost (s : State) (pa : Nat) : State :=
  let s1 : State := { s with ras := { s.ras with lostSt := s.ras.lostSt + 1 } }
  if roLine s (lineOf pa) ∨ inFailedRange s pa then s1 else poisonLine s1 (lineOf pa)

/-- Where an engine's access of `n` bytes goes when its address is a scratch alias (R57): the workgroup and offset, or WINDOW with
the alias of the first byte beyond the declared scratch (R285). -/
def engAlias (s : State) (o : EngOp) (va n : Nat) : Option (Except Meet (Nat × Nat)) :=
  let r := (launchOf s o.launch).lrec
  let off := (va - r.sbase.toNat) % 524288
  if !isAlias r va then none
  else
    match wgOfTile s o.launch ((va - r.sbase.toNat) / 524288) with
    | some (w, _) => some (if off + n ≤ r.scratch then .ok (w, off) else .error (.fail 0x0B (max va (va - off + r.scratch))))
    | none => some (.error (.fail 0x0B va))

/-- Reads a line, given by the `n` bytes of it at `va` that are wanted, at the home slice or parking point (R290): a parked line
outside the set is re-parked by the locate unit or fails with LOCATE (R285). -/
def engLine (s : State) (o : EngOp) (va n : Nat) : Eng ELine :=
  match engAlias s o va n with
  | some (.error m) => .error m
  | some (.ok (w, off)) =>
    .ok (s, ⟨BitVec.ofNat 1024 (scrGet ((tabFind s.wgs w).getD Wg.blank) (off / 128 * 128) 128), none, 0⟩)
  | none =>
    match engXl s o va false with
    | .error m => .error m
    | .ok (s0, x) =>
      let line := lineOf x.pa
      let die := (taggedDie s0 line).getD (engDie o)
      if engBlocked s0 o x.pa die false then .error (.wait line)
      else if slotEmpty s0 x.pa (pteKey x.pte) || poisoned s0 line || engLate s0 o line then .error (.fail 0x04 va)
      else
        let s1 := enterSlice (combine s0 line) die line
        let away := (locketAt s1 line).any fun k => locates s1 k o.ctx o.core
        if away && hostAssisted s1 o.launch 1 (some 1) then .error (.fail 0x03 va)
        else
          let s2 := match away, locketAt s1 line with
            | true, some k => locateResolve s1 k o.core
            | _, _ => s1
          match locketAt s2 line with
          | some k => .ok (s2, ⟨k.data, k.tag, line⟩)
          | none =>
            match fillLine (makeWay (recallExcl s2 line) die line) die line (pteKey x.pte) o.ctx with
            | (_, .poison _) => .error (.fail 0x04 va)
            | (s3, .data d) => .ok (commitPos s3 die line true false, ⟨d, (l2At s3 die line).bind (·.tag), line⟩)

/-- Lines read, by virtual line. -/
abbrev Fetched := Tab ELine

/-- Reads the lines of the pieces listed that have not been read yet, in order; a piece of a scratch alias is checked each time. -/
def engFetch (s : State) (o : EngOp) : List (Nat × Nat) → Fetched → Eng Fetched
  | [], f => .ok (s, f)
  | (va, n) :: ps, f =>
    if (tabFind f (va / 128)).isSome && (engAlias s o va n).isNone then engFetch s o ps f
    else
      match engLine s o va n with
      | .error m => .error m
      | .ok (s1, e) => engFetch s1 o ps (tabPut f (va / 128) e)

/-- The bytes that `len` bits from a bit of the address space touch, as pieces within one line: address and length. -/
def bitSpans (bit len : Nat) : List (Nat × Nat) :=
  if len = 0 then []
  else (List.range' (bit / 1024) ((bit + len - 1) / 1024 - bit / 1024 + 1)).map fun l =>
    (max (bit / 8) (128 * l), min ((bit + len + 7) / 8) (128 * (l + 1)) - max (bit / 8) (128 * l))

/-- `n` bits of the lines read, from a bit of the address space; they may straddle two lines. -/
def bitsFrom (f : Fetched) (bit n : Nat) : Nat :=
  let line (l : Nat) : Nat := ((tabFind f l).map (·.data.toNat)).getD 0
  (line (bit / 1024) + line (bit / 1024 + 1) * 2 ^ 1024) / 2 ^ (bit % 1024) % 2 ^ n

/-- What an engine has written: its write completion time, and the bytes with their places in coherence order (R116). -/
structure Wrote where
  wct   : Wct
  bytes : Tab (Tab Nat)
  deriving DecidableEq, Repr

/-- Nothing written in memory yet, as of now. -/
def Wrote.none (s : State) : Wrote := ⟨Wct.flat (rtNs s), []⟩

/-- Two writings together. -/
def Wrote.join (a b : Wrote) : Wrote := ⟨a.wct.join b.wct, maxTab2 a.bytes b.bytes⟩

/-- What a write of `n` bytes of a line, performed now, adds. -/
def Wrote.now (s : State) (w : Wct) (line off n : Nat) : Wrote := ⟨w, [(line, stampTab [] off n (stampNow s))]⟩

/-- Writes bytes within one line at virtual address `va` as a store of scope `.die`, at the parking point of a parked line
(R297, R305, R70), or at the scratch banks through an alias (R57). -/
def engWrite (s : State) (o : EngOp) (va : Nat) (bytes : List Byte) : Eng Wrote :=
  let n := bytes.length
  let v := ofLeBytes bytes
  match engAlias s o va n with
  | some (.error m) => .error m
  | some (.ok (w, off)) => .ok (modWg s w fun g => scrPut g off n v, Wrote.none s)
  | none =>
    match engXl s o va true with
    | .error m => .error m
    | .ok (s0, x) =>
      let line := lineOf x.pa
      let off := x.pa % 128
      let die := (taggedDie s0 line).getD (engDie o)
      let lost (s1 : State) : Eng Wrote := .ok (engLost s1 x.pa, Wrote.none s)
      if engBlocked s0 o x.pa die true then .error (.wait line)
      else if slotEmpty s0 x.pa (pteKey x.pte) || poisoned s0 line || roLine s0 line || engLate s0 o line then lost s0
      else
        let s1 := enterSlice (combine s0 line) die line
        match locketAt s1 line with
        | some k =>
          .ok (staleTlb (parkedWrite s1 k off n v) line, Wrote.now s (wctOfAll s1 2 line (engDie o) (unparkDie k) none) line off n)
        | none =>
          match takeOwnership (makeWay (recallExcl s1 line) die line) die line (pteKey x.pte) o.ctx with
          | (s2, .poison _) => lost s2
          | (s2, .data d) =>
            let w := wctOfAll s2 2 line (engDie o) die none
            .ok (staleTlb (sliceWrite (commitPos s2 die line false true) die line off n d v) line, Wrote.now s w line off n)

/-- A `stk`-mode write of a copy within one line (R305, R111): it acts as a store where R255 says a `stk` does. -/
def engStk (s : State) (o : EngOp) (va : Nat) (bytes : List Byte) : Eng Wrote :=
  if (engAlias s o va bytes.length).isSome then engWrite s o va bytes
  else
    match engXl s o va true with
    | .error m => .error m
    | .ok (s0, x) =>
      let line := lineOf x.pa
      let l := launchOf s0 o.launch
      let plain := pteNp x.pte || pteMt x.pte != 0 || (crangeOf s0 o.launch va).isSome || (taggedDie s0 line).isSome
        || slotEmpty s0 x.pa (pteKey x.pte) || poisoned s0 line || roLine s0 line || engLate s0 o line
      match (if plain then none else resolveRsd l o.rsd o.core) with
      | none => engWrite s o va bytes
      | some set =>
        if engBlocked s0 o x.pa (engDie o) true then .error (.wait line)
        else
          let force := rsdForce o.rsd
          let place := placeLine s0 o.ctx o.launch line (levelFor l set force line)
          let s1 := o.members.foldl (fun acc m => addPkdem acc m place.2) (combine s0 line)
          match place.1, coherentLine s1 line (pteKey x.pte) with
          | none, _ => engWrite (unpark s1 line) o va bytes
          | some _, .poison _ => engWrite s1 o va bytes
          | some lv, .data d =>
            let off := x.pa % 128
            let n := bytes.length
            let d' := linePut d off n (ofLeBytes bytes)
            let w := wctOfAll s1 3 line (engDie o) (engDie o) none
            let s2 := match locketAt s1 line with
              | some k => putLocket (makeRoom (revokeParked s1 line) lv line)
                  { k with rset := set, force := force, level := lv, data := d', ctx := o.ctx, launch := o.launch }
              | none => makeLocket s1 line set force lv d' (pteKey x.pte) o.ctx o.launch
            .ok (staleTlb (stampWrite s2 line off n) line, Wrote.now s w line off n)

/-- How many of `n` bytes from a virtual address make one piece of an engine's write: those within its line, on one side of the bounds of
the scratch aliases and of the scratch declared (R57, R306). -/
def pieceLen (s : State) (o : EngOp) (va n : Nat) : Nat :=
  let r := (launchOf s o.launch).lrec
  let sb := r.sbase.toNat
  let off := (va - sb) % 524288
  let k := min n (128 - va % 128)
  if isAlias r va then (if off < r.scratch then min k (r.scratch - off) else k)
  else if va < sb then min k (sb - va) else k

/-- Writes bytes from a virtual address up, piece by piece: the bytes written, what they add, and what stopped it. The first argument
bounds the number of pieces. -/
def engWriteRun (o : EngOp) : Nat → State → Nat → List Byte → Nat → Wrote → State × Nat × Wrote × Option Meet
  | 0, s, _, _, n, w => (s, n, w, none)
  | fuel + 1, s, va, bytes, n, w =>
    match bytes with
    | [] => (s, n, w, none)
    | _ =>
      let k := pieceLen s o va bytes.length
      match engWrite s o va (bytes.take k) with
      | .error m => (s, n, w, some m)
      | .ok (s1, w1) => engWriteRun o fuel s1 (va + k) (bytes.drop k) (n + k) (w.join w1)

/-! ### Elements (R154 to R156, R287) -/

/-- The block exponent of the element whose first bit is at `bit` of the address space (R154, R155). An operand may begin at any byte
(R286); where its elements are not those of the window, R154 gives them no index: the model takes the window's element in which the first
bit lies. Nor does the spec say how the byte at C + j is read: the model reads its coherent value as it stands, with no key, and neither
poison nor an empty slot stops it (the model's choices, assumption 19). -/
def scaleOf (s : State) (f : Fetched) (bit width : Nat) : Nat :=
  match tabFind f (bit / 1024) with
  | some e =>
    match e.tag with
    | some (b, c) =>
      let i := (e.line * 1024 + bit % 1024 - 8 * b) / width
      hubRead s (c + i / 64) 1
    | none => 0
  | none => 0

/-- An element as read: its bits, and for a tapered format its block exponent above them. -/
def elemCode (s : State) (f : Fetched) (fmt bit : Nat) : Word :=
  let w := mxWidth fmt
  BitVec.ofNat 64 (if fmt < 2 then bitsFrom f bit w + 256 * scaleOf s f bit w else bitsFrom f bit w)

/-- The value of an element (R156). -/
def elemVal (fmt : Nat) (c : Word) : FVal :=
  if fmt = 0 then tapVal (tapDecode 6 0 (bitsAt c.toNat 0 6)) (sext 8 (c.toNat / 256))
  else if fmt = 1 then tapVal (tapDecode 8 1 (bitsAt c.toNat 0 8)) (sext 8 (c.toNat / 256))
  else if fmt = 2 then fdecode BF16 c.toNat
  else if fmt = 3 then fdecode F16 c.toNat
  else fdecode F64 c.toNat

/-! ### `mma` and `mgath` (R286 to R293) -/

/-- The fields of a matrix operation. -/
structure Mx where
  d     : BitVec 6
  fmt   : Nat
  acc   : Bool
  hold  : Bool
  sp    : Bool
  tb    : Bool
  gath  : Bool
  abase : Nat
  lda   : Nat
  k     : Nat
  nr    : Nat
  dens  : Bool
  bbase : Nat
  ldb   : Nat
  nc    : Nat

/-- The fields of an operation that is `mma` or `mgath`. -/
def mxOf (o : EngOp) : Option Mx :=
  let a2 := (o.opnds.getD 1 0).toNat
  let b2 := (o.opnds.getD 3 0).toNat
  let mk (d : BitVec 6) (f : BitVec 7) (g : Bool) : Mx :=
    { d := d, fmt := f.toNat % 8, acc := f.getLsbD 3, hold := f.getLsbD 4, sp := f.getLsbD 5, tb := f.getLsbD 6, gath := g,
      abase := (o.opnds.getD 0 0).toNat, lda := bitsAt a2 0 16, k := bitsAt a2 24 16, nr := bitsAt a2 16 7 + 1,
      dens := a2.testBit 40, bbase := (o.opnds.getD 2 0).toNat, ldb := bitsAt b2 0 16, nc := bitsAt b2 16 7 + 1 }
  match o.instr with
  | .mma d _ _ f => some (mk d f false)
  | .mgath d _ _ f => some (mk d f true)
  | _ => none

/-- The A row of each row of the result: none where the list skips it (R289, R293). -/
def mxRows (o : EngOp) (m : Mx) : List (Option Nat) :=
  if m.gath then o.rows.map fun r => if r = 0xFFFFFFFF then none else some r else (List.range m.nr).map some

/-- Stored elements of one group of 48 K positions (R292). -/
def groupKept (m : Mx) : Nat := storedK m.sp m.dens 48

/-- The first bit of the mask of a row and group (R292). -/
def maskBit (m : Mx) (row g : Nat) : Nat :=
  8 * (m.abase + m.nr * m.lda * mxWidth m.fmt / 8 + 6 * (row * (m.k / 48) + g))

/-- What of A is read for K positions from `k0` below `k1`: elements, and masks when sparse. -/
def aSpans (m : Mx) (rows : List (Option Nat)) (k0 k1 : Nat) : List (Nat × Nat) :=
  let w := mxWidth m.fmt
  rows.flatMap fun r => match r with
    | none => []
    | some row =>
      let s0 := storedK m.sp m.dens k0
      bitSpans (8 * m.abase + (row * m.lda + s0) * w) ((storedK m.sp m.dens k1 - s0) * w)
        ++ (if m.sp then bitSpans (maskBit m row (k0 / 48)) (48 * ((k1 - k0) / 48)) else [])

/-- What of B is read for K positions from `k0` below `k1`. -/
def bSpans (m : Mx) (k0 k1 : Nat) : List (Nat × Nat) :=
  let w := mxWidth m.fmt
  if m.tb then (List.range m.nc).flatMap fun j => bitSpans (8 * m.bbase + (j * m.ldb + k0) * w) ((k1 - k0) * w)
  else (List.range' k0 (k1 - k0)).flatMap fun k => bitSpans (8 * m.bbase + k * m.ldb * w) (m.nc * w)

/-- The mask of a row and group. -/
def aMask (f : Fetched) (m : Mx) (row g : Nat) : Nat := bitsFrom f (maskBit m row g) 48

/-- Whether every mask has the population DENS requires (R292). -/
def masksOk (f : Fetched) (m : Mx) (rows : List (Option Nat)) (k0 k1 : Nat) : Bool :=
  !m.sp || rows.all fun r => match r with
    | none => true
    | some row => (List.range' (k0 / 48) ((k1 - k0) / 48)).all fun g => (setBits 48 (aMask f m row g)).length == groupKept m

/-- The K positions of a row that hold an element, with the index of that element within its row. -/
def keptOf (f : Fetched) (m : Mx) (row k0 k1 : Nat) : List (Nat × Nat) :=
  if m.sp then
    (List.range' (k0 / 48) ((k1 - k0) / 48)).flatMap fun g =>
      let ks := setBits 48 (aMask f m row g)
      (List.range ks.length).map fun n => (48 * g + ks.getD n 0, g * groupKept m + n)
  else (List.range' k0 (k1 - k0)).map fun k => (k, k)

/-- A's elements, by result row · 65536 + K position. -/
def aElems (s : State) (f : Fetched) (m : Mx) (rows : List (Option Nat)) (k0 k1 : Nat) : Tab Word :=
  (List.range rows.length).flatMap fun i => match rows.getD i none with
    | none => []
    | some row => (keptOf f m row k0 k1).map fun p =>
      (i * 65536 + p.1, elemCode s f m.fmt (8 * m.abase + (row * m.lda + p.2) * mxWidth m.fmt))

/-- B's element (k, j). -/
def bElem (s : State) (f : Fetched) (m : Mx) (k j : Nat) : Word :=
  elemCode s f m.fmt (8 * m.bbase + (if m.tb then j * m.ldb + k else k * m.ldb + j) * mxWidth m.fmt)

/-- One element's sum over K positions from `k0` below `k1`, group by group (R157, R289). -/
def mxSum (s : State) (f : Fetched) (m : Mx) (a : Tab Word) (i j k0 k1 c0 : Nat) : Nat :=
  let fm := if m.fmt = 4 then F64 else F32
  (List.range' (k0 / 48) ((k1 + 47) / 48 - k0 / 48)).foldl (fun c g =>
    let ps := (List.range' (48 * g) (min 48 (k1 - 48 * g))).filterMap fun k =>
      (tabFind a (i * 65536 + k)).map fun e => (elemVal m.fmt e, elemVal m.fmt (bElem s f m k j))
    accumulate fm c (groupSum ps)) c0

/-! ### Slots (R283) -/

/-- The values an operation starts from: a slot's, an f64 pair's, or a shadow's. -/
def mxTarget (s : State) (o : EngOp) (m : Mx) : Tab Word :=
  match tabFind s.wgs o.wg with
  | none => []
  | some g =>
    if m.d.getLsbD 5 then ((tabFind g.shadow (m.d.toNat % 2)).map (·.vals)).getD [] else (accSlot g (m.d.toNat % 8)).vals

/-- Whether an accumulating operation's class differs from its slot's tag (R283). -/
def mxFormatBad (s : State) (o : EngOp) (m : Mx) : Bool :=
  m.acc && !m.d.getLsbD 5 && match tabFind s.wgs o.wg with
    | some g => (accSlot g (m.d.toNat % 8)).f64 != (m.fmt == 4)
    | none => false

/-- A workgroup with a slot, or an f64 pair, replaced; an f32 write into an f64 pair leaves the other slot +0 with tag f32
(R283). -/
def putSlot (g : Wg) (d : Nat) (f64 : Bool) (vals : Tab Word) : Wg :=
  if f64 then
    { g with acc := tabPut (tabPut g.acc (d / 2 * 2) ⟨true, vals⟩) (d / 2 * 2 + 1) ⟨true, []⟩ }
  else
    let other := if d % 2 = 0 then d + 1 else d - 1
    let acc := if (accSlot g d).f64 then tabPut g.acc other ⟨false, []⟩ else g.acc
    { g with acc := tabPut acc d ⟨false, vals⟩ }

/-- The written elements of a result over what the target keeps at its masked edges; when the tag changes the edges are
+0 (R283, R289). -/
def mxStore (s : State) (o : EngOp) (m : Mx) (sums : Tab Word) : State :=
  modWg s o.wg fun g =>
    if m.d.getLsbD 5 then
      let h := m.d.toNat % 2
      let old := (tabFind g.shadow h).getD ⟨m.d.toNat / 4 % 8, []⟩
      { g with shadow := tabPut g.shadow h { old with vals := sums.foldl (fun acc p => tabSet 0 acc p.1 p.2) old.vals } }
    else
      let d := m.d.toNat % 8
      let base := if (accSlot g d).f64 = (m.fmt == 4) then (accSlot g d).vals else []
      putSlot g d (m.fmt == 4) (sums.foldl (fun acc p => tabSet 0 acc p.1 p.2) base)

/-- K positions a chunk of a matrix operation covers (R310, R294). -/
def chunkK (m : Mx) : Nat :=
  let step := if m.fmt = 0 then 192 else if m.fmt = 1 then 96 else if m.fmt = 4 then 12 else 48
  (if m.fmt = 4 then 8 else 21) * step * (if m.sp then (if m.dens then 4 else 2) else 1)

/-- Whether the A-hold buffer of an operation's core serves it (R291). -/
def heldA (s : State) (o : EngOp) (m : Mx) : Option AHold :=
  s.aholds.find? fun h => h.core == o.core && h.wg == o.wg && h.rows == o.rows
    && h.key == [o.opnds.getD 0 0, o.opnds.getD 1 0, BitVec.ofNat 64 m.fmt, if m.sp then 1 else 0]

/-- Whether A fits the A-hold buffer (R291). -/
def holdFits (m : Mx) : Bool :=
  (m.nr * storedK m.sp m.dens m.k * mxWidth m.fmt + 7) / 8 + (if m.sp then m.nr * (m.k / 48) * 6 else 0) ≤ 24576

/-- What a matrix operation reads of A for K positions from `k0` below `k1`: nothing when the A-hold buffer serves it (R291). -/
def aWanted (s : State) (o : EngOp) (m : Mx) (k0 k1 : Nat) : List (Nat × Nat) :=
  if (heldA s o m).isSome then [] else aSpans m (mxRows o m) k0 k1

/-- The lines a core has pinned are consumed, or given up (R290). -/
def dropPins (s : State) (core : Nat) : State :=
  { s with coh := { s.coh with pins := s.coh.pins.filter fun p => p.1 != core } }

/-- Fetches ahead for K positions from `k0` below `k1` (R290): the lines are read in order and pinned, as many as the fetch unit
comes to before the next step of the operation, which is left open (assumption 2). A fetch that cannot go on, or fails, is left
to the step that needs it. -/
def fetchAhead (s : State) (o : EngOp) (m : Mx) (k0 k1 : Nat) : State × Fetched :=
  let want := aWanted s o m k0 k1 ++ bSpans m k0 k1
  let n := (Config.freeBits s.freeCtr (62000 + o.core)).toNat % (want.length + 1)
  (want.take n).foldl (fun (acc : State × Fetched) p =>
    match engFetch acc.1 o [p] acc.2 with
    | .error _ => acc
    | .ok (s1, f) =>
      let line := ((tabFind f (p.1 / 128)).map (·.line)).getD 0
      let pin := (o.core, line)
      if (engAlias s o p.1 p.2).isSome || (locketAt s1 line).isSome || s1.coh.pins.contains pin then (s1, f)
      else ({ s1 with coh := { s1.coh with pins := pin :: s1.coh.pins } }, f)) (s, [])

/-- Runs a matrix operation over K positions from `k0` below `k1`: the running sums, and A as read. The lines fetched ahead are
consumed first. -/
def mxRun (s0 : State) (o : EngOp) (m : Mx) (k0 k1 : Nat) : Eng (Tab Word × Tab Word) :=
  let s := dropPins s0 o.core
  let rows := mxRows o m
  let held := heldA s o m
  match engFetch s o (aWanted s o m k0 k1) o.fetched with
  | .error e => .error e
  | .ok (s1, fa) =>
    if held.isNone && !masksOk fa m rows k0 k1 then .error (.fail 0x05 m.abase)
    else
      match engFetch s1 o (bSpans m k0 k1) fa with
      | .error e => .error e
      | .ok (s2, fb) =>
        let a := match held with
          | some h => h.vals
          | none => aElems s2 fa m rows k0 k1
        let t0 := if k0 ≠ 0 then o.partialSum else if m.acc then mxTarget s2 o m else []
        let sums := (List.range m.nr).flatMap fun i =>
          if (rows.getD i none).isNone then []
          else (List.range m.nc).map fun j =>
            (i * 128 + j, BitVec.ofNat 64 (mxSum s2 fb m a i j k0 k1 (tabGet 0 t0 (i * 128 + j)).toNat))
        .ok (s2, (sums, a))

/-! ### Drains (R296, R297, R159) -/

/-- A drained element's bits (R159, R297). -/
def drainElem (fmt : Nat) (f64 : Bool) (v : Word) : Nat :=
  let src := if f64 then F64 else F32
  let x := fdecode src v.toNat
  if f64 then (if isNaN x then canonNaN F64 else v.toNat)
  else if fmt = 0 then (if isNaN x then canonNaN F32 else v.toNat % 2 ^ 32)
  else if fmt = 1 then (roundVal BF16 1 false x).1
  else if fmt = 2 then (roundVal F16 1 false x).1
  else if fmt = 3 then tapDrain 8 1 x
  else tapDrain 6 0 x

/-- The bits of a drained row, packed. -/
def drainRow (fmt width : Nat) (f64 : Bool) (vals : Tab Word) (i nc : Nat) : Nat :=
  (List.range nc).foldl (fun acc j => acc + drainElem fmt f64 (tabGet 0 vals (i * 128 + j)) * 2 ^ (j * width)) 0

/-- Whether every byte of a row of a global destination may be written now: what stops it first. -/
def rowStop (s : State) (o : EngOp) (va n : Nat) : Option Meet :=
  firstSome ((bitSpans (8 * va) (8 * n)).map fun p =>
    match engAlias s o p.1 p.2 with
    | some (.error m) => some m
    | some (.ok _) => none
    | none =>
      match engXl s o p.1 true with
      | .error m => some m
      | .ok (_, x) =>
        let line := lineOf x.pa
        if engBlocked s o x.pa ((taggedDie s line).getD (engDie o)) true then some (.wait line) else none)

/-- The byte at a virtual address as it stands, for the bits around a tapered element (R297). -/
def byteNow (s : State) (o : EngOp) (va : Nat) : Nat :=
  match engAlias s o va 1, translate s o.core o.ctx va with
  | some (.ok (w, off)), _ => scrGet ((tabFind s.wgs w).getD Wg.blank) off 1
  | none, .ok x =>
    hubGet s (pteKey x.pte) x.pa 1
  | _, _ => 0

/-- Writes one row of a drain: `bits` of them from a byte address, the bits above in the last byte unchanged. -/
def drainPut (s : State) (o : EngOp) (scr : Bool) (va bits v : Nat) : State × Wrote × Option Meet :=
  let n := (bits + 7) / 8
  let keep (old : Nat) : Nat := v + (if bits % 8 = 0 then 0 else old / 2 ^ (bits % 8) * 2 ^ bits)
  if scr then
    (modWg s o.wg fun g => scrPut g va n (keep (scrGet g (va + n - 1) 1)), Wrote.none s, none)
  else
    match rowStop s o va n with
    | some m => (s, Wrote.none s, some m)
    | none =>
      let r := engWriteRun o (n + 1) s va (leBytes n (keep (byteNow s o (va + n - 1)))) 0
        (Wrote.none s)
      (r.1, r.2.2.1, r.2.2.2)

/-- Drains rows from row `i`, lowest first: the state, what was written, and the row and failure that stopped it (R297). -/
def drainRows (o : EngOp) (fmt : Nat) (scr : Bool) (slot : Slot) (base w size : Nat) : List (Nat × Option Nat) → State → Wrote →
    State × Wrote × Option (Nat × Meet)
  | [], s, wct => (s, wct, none)
  | (i, none) :: rest, s, wct => drainRows o fmt scr slot base w size rest s wct
  | (i, some row) :: rest, s, wct =>
    let width := drainWidth fmt slot.f64
    let nc := bitsAt w 24 7 + 1
    let va := base + row * bitsAt w 0 16 * width / 8
    let lim := base + drainRowEnd (BitVec.ofNat 64 w) width row
    if scr ∧ size < lim then
      let r := (launchOf s o.launch).lrec
      let tile := ((tabFind s.wgs o.wg).map (·.tile)).getD 0
      (s, wct, some (i, .fail 0x0B (r.sbase.toNat + tile * 524288 + max va size)))
    else
      match drainPut s o scr va (nc * width) (drainRow fmt width slot.f64 slot.vals i nc) with
      | (s1, w1, none) => drainRows o fmt scr slot base w size rest s1 (wct.join w1)
      | (_, _, some m) => (s, wct, some (i, m))

end Sys2Proof.Machine
end

