-- ==== Sys2Proof/Machine/Engine.lean ====
section
/-!
DEFINITION. How engine operations run (R284, R285, R289 to R311): their start and completion, chunks and resume cursors,
copies, collectives, batches and completion barriers.
-/
namespace Sys2Proof.Machine
open Sys2Proof

/-! ### Queues (R114, R117) -/

/-- Whether an operation stands at the head of its queue. -/
def atHead (s : State) (id : Nat) (o : EngOp) : Bool := ((queueOf s o.core o.queue).head?).any fun p => p.1 == id

/-- Whether a launch runs its engines in chunks (R310). -/
def chunked (s : State) (o : EngOp) : Bool := (launchOf s o.launch).lrec.chunked

/-- Whether an operation's engine works: a frozen context's does not, but that a chunk that was running goes on to its end (R310,
R361); nor does one that has failed and waits for its record (R357). -/
def engRuns (s : State) (o : EngOp) : Bool :=
  (!(ctxOf s o.ctx).frozen || (chunked s o && o.started && !o.halted)) && !o.failing && !o.finished
    && !dieStopped (dieOf s (engDie o)) s.time && !(dieOf s (engDie o)).failed && !(dieOf s (engDie o)).resetting

/-- Runs an event on an engine operation. -/
def onEng (s : State) (name : String) (id : Nat) (k : EngOp → Out) : Out :=
  match tabFind s.engq id with
  | some o => k o
  | none => notEnabled name

/-- Changes an operation. -/
def modEng (s : State) (id : Nat) (f : EngOp → EngOp) : State := { s with engq := tabMod s.engq id f }

/-- The batch of an operation for its first member, the number it will have when none has been closed (R310, R351). -/
def batchNum (s : State) (o : EngOp) : Nat :=
  match o.members with
  | m :: _ =>
    if tabGet 0 o.batch m ≠ 0 then tabGet 0 o.batch m else ((tabFind s.threads m).map fun t => t.batch.toNat + 1).getD 0
  | [] => 0

/-- The notice of a failed operation (R285, R353): ENG 1, HOST 0; it stops no strand, but the operation waits until it has been
written (R357). -/
def engNotice (s : State) (id : Nat) (o : EngOp) (status : Nat) (va dst : Nat) (write : Bool) : State :=
  let t := o.members.head?.bind fun m => tabFind s.threads m
  let slot := ((t.bind (·.seat)).map (·.slot)).getD 0
  let mask := ((t.bind (·.seat)).map (·.am)).getD 0
  let ctxid := (t.map (·.ctxid)).getD (BitVec.ofNat 64 (ctxOf s o.ctx).ctxid)
  let l := launchOf s o.launch
  let w0 := recWord0 ctxid slot (virtCore l o.core) (virtQuad l (o.core / 4)) (virtDie l (engDie o)) true false false
    write false status cENGINE
  queueRec s o.ctx o.launch
    { words := [w0, BitVec.ofNat 64 va, o.pc, BitVec.allOnes 64, mask.setWidth 64, BitVec.ofNat 64 (rtNs s),
        cmdWord o.instr + BitVec.ofNat 64 (o.queue * 2 ^ 40),
        BitVec.ofNat 64 (if o.queue = 1 then dst else batchNum s o)], thread := none, eng := some id }

/-- What `finish` records of an operation. -/
structure Ending where
  status : Nat
  va     : Nat
  dst    : Nat
  frow   : Nat
  wrote  : Wrote
  write  : Bool

/-- An operation that completed. -/
def okEnding (w : Wrote) : Ending := ⟨0, 0, 0, 0, w, false⟩

/-- One that failed with a status and the address of the access, having written nothing. -/
def badEnding (s : State) (status va : Nat) : Ending := ⟨status, va, 0, 0, Wrote.none s, false⟩

/-- An engine's arrival on a barrier word with the check of R303: MAGIC and the generation read at issue. It releases what the
operations had written to those who pass the word (R118). None when the check fails, with the word as read. -/
def engArrive (s : State) (wg : Nat) (bar : Nat × BitVec 8) (wrote : Tab (Tab Nat)) : State × Option Word :=
  let word : Word := BitVec.ofNat 64 (((tabFind s.wgs wg).map fun g => scrGet g bar.1 8).getD 0)
  if barMagic word = 0xB7 ∧ barGen word = bar.2 then
    (modWg (putBar s wg (some bar.1) (barArrive word 1) []) wg fun g =>
      { g with barAcq := tabPut g.barAcq (1 + bar.1) (maxTab2 (tabGet [] g.barAcq (1 + bar.1)) wrote) }, none)
  else (s, some word)

/-- Forgets what no strand can report any more: batches of strands that are gone, once complete, and finished operations
whose members have all reported them or gone. -/
def forget (s : State) : State :=
  let gone (m : Nat) : Bool := (tabFind s.threads m).isNone
  let bs := s.batches.filter fun b => !(b.complete && gone b.thread)
  { s with
    batches := bs
    engq := s.engq.filter fun p => !(p.2.finished && p.2.members.all fun m =>
      gone m && !(bs.any fun b => b.thread == m && b.num == tabGet 0 p.2.batch m)) }

/-- An operation leaves its queue: its completion barrier is arrived on, or its strand is marked (R303, R305). -/
def leaveQueue (s : State) (id : Nat) (o : EngOp) : State :=
  let r : State × Option Word := match o.bar with
    | some b => engArrive s o.wg b o.wrote
    | none => (s, none)
  let s1 := match r.2 with
    | some w => o.members.foldl (fun acc m => modThr acc m fun t => { t with mark := some w }) r.1
    | none => r.1
  forget (modEng s1 id fun x => { x with
    finished := true, failing := false, status := if x.status = 0 ∧ r.2.isSome then 0x09 else x.status })

/-- A load that took POISON is counted (R397). -/
def countPoison (s : State) : State := { s with ras := { s.ras with poisonRd := s.ras.poisonRd + 1 } }

/-- An operation ends: its status stands and its write completion time counts. One that failed is noticed (R285), and leaves its
queue when its record is in the ring (R357); any other leaves at once. -/
def finish (s : State) (id : Nat) (o : EngOp) (e : Ending) : State :=
  let o1 : EngOp := { o with
    started := true, status := e.status, frow := e.frow, failVa := BitVec.ofNat 64 e.va, failDst := BitVec.ofNat 64 e.dst,
    wct := o.wct.join e.wrote.wct, wrote := maxTab2 o.wrote e.wrote.bytes, fetched := [], avals := [],
    failWrite := e.write, failing := e.status ≠ 0 }
  -- a read that met poison counts; that of a collective has counted as its sources were read (R397)
  let s0 : State := if e.status = 0x04 ∧ e.write = false ∧ o.queue ≠ 2 then countPoison s else s
  let s1 := noteWct (modEng (if o.queue = 0 then dropPins s0 o.core else s0) id fun _ => o1) o.launch o1.wct
  if e.status ≠ 0 then engNotice s1 id o e.status e.va e.dst e.write else leaveQueue s1 id o1

/-! ### Start -/

/-- The row list at a scratch offset (R293). -/
def readRows (s : State) (wg off n : Nat) : List Nat :=
  match tabFind s.wgs wg with
  | some g => (List.range n).map fun k => scrGet g (off + 4 * k) 4
  | none => []

/-- The offset and length of an operation's row list, if it has one. -/
def listOf (o : EngOp) : Option (Nat × Nat) :=
  match o.instr with
  | .mgath _ _ _ _ => some ((o.opnds.getD 4 0).toNat, bitsAt (o.opnds.getD 1 0).toNat 16 7 + 1)
  | .mdrain _ _ f => if f.getLsbD 3 then some ((o.opnds.getD 2 0).toNat, bitsAt (o.opnds.getD 1 0).toNat 16 7 + 1) else none
  | _ => none

/-- The fields of a collective: operation, type, scope, source, destination, count, group and root (R307). -/
structure Coll where
  op    : Nat
  ty    : Nat
  scope : Nat
  src   : Nat
  dst   : Nat
  count : Nat
  group : Nat
  root  : Nat

/-- The fields of an operation that is `coll`. -/
def collOf (o : EngOp) : Option Coll :=
  match o.instr with
  | .coll _ sc ty k =>
    let w := (o.opnds.getD 2 0).toNat
    some ⟨k.toNat, ty.toNat, sc.toNat, (o.opnds.getD 0 0).toNat, (o.opnds.getD 1 0).toNat, bitsAt w 0 32, bitsAt w 32 16,
      bitsAt w 48 16⟩
  | _ => none

/-- The members of a group in ascending role order: role and physical core (R308). -/
def groupMembers (l : Launch) (group : Nat) : List (Nat × Nat) :=
  ((l.roleTab.filter fun r => r.group == group).map fun r => (r.role, coreIn l (quadOn l (physOf l r.die) r.quad) r.core)).mergeSort
    fun a b => a.1 ≤ b.1

/-- The operations that join a collective: for each member the head of its core's CL queue, when every one is a `coll` of
the group that has not begun (R308). -/
def joined (s : State) (o : EngOp) (c : Coll) : Option (List (Nat × Nat × EngOp)) :=
  let ms := groupMembers (launchOf s o.launch) c.group
  let hs := ms.filterMap fun m =>
    match (queueOf s m.2 2).head? with
    | some (k, x) =>
      if x.launch = o.launch ∧ x.started = false ∧ (collOf x).any (fun d => d.group == c.group) then some (m.1, k, x) else none
    | none => none
  if hs.length = ms.length then some hs else none

/-- Whether the members of a collective agree, and lie within its scope (R308). A `bcast` whose root role no member has, of which R308
states no outcome, fails as a disagreement does: the model's choice (assumption 58). -/
def collAgrees (c : Coll) (hs : List (Nat × Nat × EngOp)) : Bool :=
  (hs.all fun h => (collOf h.2.2).any fun d =>
      d.op == c.op && d.ty == c.ty && d.scope == c.scope && d.count == c.count && d.root == c.root)
    && (c.scope != 0 || hs.all fun h => hs.all fun k => engDie h.2.2 == engDie k.2.2)
    && (c.op != 2 || hs.any fun h => h.1 == c.root)

/-- Op of a collective on two elements (R308). -/
def collOp (c : Coll) (a b : Nat) : Nat :=
  let w := 8 * collBytes c.ty
  if c.ty ≤ 1 then
    let f := if c.ty = 0 then F32 else F64
    if c.op = 0 then (opAdd f 0 false a b).1 else (opMinMax f false true false a b).1
  else if c.op = 0 then (a + b) % 2 ^ w
  else if c.ty = 4 then max a b
  else if sext w a ≤ sext w b then b else a

/-- A result element as written: a NaN is canonical (R308). -/
def collOut (c : Coll) (v : Nat) : Nat :=
  if c.ty ≤ 1 then
    let f := if c.ty = 0 then F32 else F64
    if isNaN (fdecode f v) then canonNaN f else v
  else v

/-- Reads every member's source in full, in role order (R308). -/
def collSources (c : Coll) : List (Nat × Nat × EngOp) → State → Eng (List Fetched)
  | [], s => .ok (s, [])
  | h :: rest, s =>
    let src := ((collOf h.2.2).map (·.src)).getD 0
    match engFetch s h.2.2 (bitSpans (8 * src) (8 * c.count * collBytes c.ty)) [] with
    | .error m => .error m
    | .ok (s1, f) =>
      match collSources c rest s1 with
      | .error m => .error m
      | .ok (s2, fs) => .ok (s2, f :: fs)

/-- The result of a collective, by element (R308). -/
def collResult (c : Coll) (hs : List (Nat × Nat × EngOp)) (fs : List Fetched) : Tab Word :=
  let w := 8 * collBytes c.ty
  let el (n e : Nat) : Nat := bitsFrom (fs.getD n []) (8 * (((hs[n]?.bind fun h => collOf h.2.2).map (·.src)).getD 0) + e * w) w
  let root := ((List.range hs.length).find? fun n => (hs[n]?.map (·.1)) == some c.root).getD 0
  (List.range c.count).map fun e =>
    (e, BitVec.ofNat 64 (collOut c (if c.op = 2 then el root e
      else (List.range' 1 (hs.length - 1)).foldl (fun r n => collOp c r (el n e)) (el 0 e))))

/-- The joint start of a collective (R308): disagreement gives every member GROUP; otherwise the sources are read, and a
source that cannot be read fails every member with its status. -/
def collStart (s : State) (c : Coll) (hs : List (Nat × Nat × EngOp)) : Out :=
  let all (s1 : State) (f : EngOp → EngOp) : Out :=
    .next (hs.foldl (fun acc h => modEng acc h.2.1 fun x => { f x with started := true }) s1)
  if !collAgrees c hs then all s fun x => { x with status := 0x08 }
  else
    match collSources c hs s with
    | .error (.wait _) => notEnabled "ENGINE_OP_START"
    | .error (.fail st va) => all (if st = 0x04 then countPoison s else s) fun x => { x with status := st, failVa := BitVec.ofNat 64 va }
    | .ok (s1, fs) =>
      let r := collResult c hs fs
      all s1 fun x => { x with partialSum := r }

/-- The first fetches of a matrix operation (R290), for its first chunk in chunked mode. -/
def beginOp (s : State) (id : Nat) (o : EngOp) : State :=
  match mxOf o with
  | some m =>
    let r := fetchAhead s o m o.progress (if chunked s o then min m.k (o.progress + chunkK m) else m.k)
    modEng r.1 id fun _ => { o with fetched := r.2 }
  | none => modEng s id fun _ => o

/-- ENGINE_OP_START: an operation at the head of its queue begins, and reads its row list (R114, R293); a matrix operation fetches
ahead (R290), and a collective begins with every member's (R308). -/
def execEngineOpStart (id : Nat) (s : State) : Out :=
  onEng s "ENGINE_OP_START" id fun o =>
    if o.started || !atHead s id o || !engRuns s o then notEnabled "ENGINE_OP_START"
    else
      match o.instr with
      | .qfence _ => notEnabled "ENGINE_OP_START"
      | _ =>
        match collOf o with
        | some c =>
          match joined s o c with
          | some hs => collStart s c hs
          | none => notEnabled "ENGINE_OP_START"
        | none =>
          let rows := match listOf o with
            | some (off, n) => readRows s o.wg off n
            | none => []
          .next (beginOp s id { o with started := true, rows := rows })

/-! ### Matrix operations and `qfence` -/

/-- Whether the elements given are all of A that an operation reads. -/
def wholeA (o : EngOp) (m : Mx) (a : Tab Word) : Bool :=
  a.length == ((mxRows o m).filter (·.isSome)).length * storedK m.sp m.dens m.k

/-- The A-hold buffer after a matrix operation: its own A if it holds it, otherwise nothing (R291). One that was moved between
cores part way has not read all of A here. -/
def holdAfter (s : State) (o : EngOp) (m : Mx) (a : Tab Word) : State :=
  let rest := s.aholds.filter fun h => h.core != o.core
  { s with aholds :=
      if m.hold && holdFits m && wholeA o m a then
        { core := o.core, wg := o.wg, key := [o.opnds.getD 0 0, o.opnds.getD 1 0, BitVec.ofNat 64 m.fmt, if m.sp then 1 else 0],
          rows := o.rows, vals := a } :: rest
      else rest }

/-- Drops the A-hold buffer of a core: another MX operation has come (R291). -/
def dropHold (s : State) (core : Nat) : State := { s with aholds := s.aholds.filter fun h => h.core != core }

/-- The elements of A an operation has read with those of one more chunk, as the A-hold buffer takes them (R291). -/
def chunkA (o : EngOp) (m : Mx) (a : Tab Word) : Tab Word := if m.hold then a.foldl (fun acc e => tabPut acc e.1 e.2) o.avals else []

/-- The end of `mma` or `mgath` over its remaining K positions (R289). -/
def mxEnd (s : State) (id : Nat) (o : EngOp) (m : Mx) : Out :=
  if mxFormatBad s o m then .next (finish (dropHold s o.core) id o (badEnding s 0x07 0))
  else
    match mxRun s o m o.progress m.k with
    | .error (.wait _) => notEnabled "ENGINE_OP_COMPLETE"
    | .error (.fail st va) => .next (finish (dropHold s o.core) id o (badEnding s st va))
    | .ok (s1, (sums, a)) =>
      .next (finish (holdAfter (mxStore s1 o m sums) o m (chunkA o m a)) id o (okEnding (Wrote.none s)))

/-- The end of `mzero` (R295). -/
def mzeroEnd (s : State) (id : Nat) (o : EngOp) (d : Nat) (f64 : Bool) : State :=
  finish (dropHold (modWg s o.wg fun g => putSlot g d f64 []) o.core) id o (okEnding (Wrote.none s))

/-- The slot that a drain reads: of an f64 pair the even one (R283). -/
def drainSlot (s : State) (o : EngOp) (d : Nat) : Slot :=
  let g := (tabFind s.wgs o.wg).getD Wg.blank
  if (accSlot g d).f64 then accSlot g (d / 2 * 2) else accSlot g d

/-- The rows of a drain, each with the row of the destination it goes to, or none (R293, R297). -/
def drainList (o : EngOp) (f : BitVec 6) : List (Nat × Option Nat) :=
  (List.range (bitsAt (o.opnds.getD 1 0).toNat 16 7 + 1)).map fun i =>
    (i, if f.getLsbD 3 then (if o.rows.getD i 0 = 0xFFFFFFFF then none else some (o.rows.getD i 0)) else some i)

/-- The end of `mdrain` (R297). -/
def mdrainEnd (s : State) (id : Nat) (o : EngOp) (d : Nat) (f : BitVec 6) : Out :=
  match tabFind s.wgs o.wg with
  | none => notEnabled "ENGINE_OP_COMPLETE"
  | some g =>
    let f64 := (accSlot g d).f64
    let slot := drainSlot s o d
    let fmt := f.toNat % 8
    let w := (o.opnds.getD 1 0).toNat
    let rows := drainList o f
    let s0 := dropHold s o.core
    if f64 && fmt != 0 then .next (finish s0 id o (badEnding s 0x07 0))
    else
      match drainRows o fmt (f.getLsbD 4) slot (o.opnds.getD 0 0).toNat w (launchOf s o.launch).lrec.scratch rows s0 (Wrote.none s) with
      | (_, _, some (_, .wait _)) => notEnabled "ENGINE_OP_COMPLETE"
      | (s1, w, some (i, .fail st va)) => .next (finish s1 id o ⟨st, va, 0, i, w, true⟩)
      | (s1, w, none) =>
        let s2 := if f.getLsbD 5 then modWg s1 o.wg fun x => putSlot x d false [] else s1
        .next (finish s2 id o (okEnding w))

/-- The effect of `mcommit` at the head of its queue: the status and the workgroup after it (R299). -/
def mcommitWg (g : Wg) (cond : Bool) (d n : Nat) : Nat × Wg :=
  match tabFind g.shadow n with
  | none => (0, g)
  | some h =>
    let gone := { g with shadow := tabDel g.shadow n }
    if !cond then (0, gone)
    else if (accSlot g d).f64 then (0x07, g)
    else
      let old := (accSlot g d).vals
      let vals := (List.range (128 * 128)).foldl (fun acc k =>
        tabSet 0 acc k (BitVec.ofNat 64 (opAdd F32 0 false (tabGet 0 old k).toNat (tabGet 0 h.vals k).toNat).1)) []
      (0, { gone with acc := tabPut gone.acc d { f64 := false, vals := vals } })

/-- The end of `mcommit` (R299). -/
def mcommitEnd (s : State) (id : Nat) (o : EngOp) (d n : Nat) : State :=
  let r := match tabFind s.wgs o.wg with
    | some g => mcommitWg g o.cond d n
    | none => (0, Wg.blank)
  finish (dropHold (modWg s o.wg fun _ => r.2) o.core) id o (badEnding s r.1 0)

/-- The entries of the `qfence` that an entry belongs to. -/
def siblings (s : State) (o : EngOp) : List (Nat × EngOp) :=
  s.engq.filter fun p => p.2.core == o.core && p.2.instr == o.instr && p.2.seq == o.seq && p.2.members.isEmpty

/-- ENGINE_OP_COMPLETE: an MX operation ends (R289, R295, R297, R299); the entries of a `qfence` leave together, once each
has come to the head of its queue (R117). -/
def execEngineOpComplete (id : Nat) (s : State) : Out :=
  onEng s "ENGINE_OP_COMPLETE" id fun o =>
    if o.finished || !atHead s id o then notEnabled "ENGINE_OP_COMPLETE"
    else
      match o.instr with
      | .qfence _ =>
        let ss := siblings s o
        let rest := s.engq.filter fun p => !(ss.any fun x => x.1 == p.1)
        if ss.all (fun p => atHead s p.1 p.2) then .next { s with engq := rest }
        else notEnabled "ENGINE_OP_COMPLETE"
      | i =>
        if !o.started || !engRuns s o then notEnabled "ENGINE_OP_COMPLETE"
        else
          match i, mxOf o with
          | _, some m =>
            if chunked s o && o.progress + chunkK m < m.k && (mxRun s o m o.progress (o.progress + chunkK m)).toOption.isSome
              && !mxFormatBad s o m then notEnabled "ENGINE_OP_COMPLETE"
            else mxEnd s id o m
          | .mzero d f, none => .next (mzeroEnd s id o d.toNat (f == 1))
          | .mdrain d _ f, none => mdrainEnd s id o d.toNat f
          | .mcommit d n, none => .next (mcommitEnd s id o d.toNat n.toNat)
          | _, none => notEnabled "ENGINE_OP_COMPLETE"

/-! ### Copies (R304 to R306) -/

/-- A copy that has stopped or gone on: the state, the bytes copied, what was written, and what stopped it with
the address and whether the failing access writes. -/
structure Copied where
  s    : State
  n    : Nat
  wrote : Wrote
  stop : Option (Meet × Bool)

/-- Reads bytes in ascending order from a source: those before the first that cannot be read, and what stopped it. -/
def readRun (s : State) (o : EngOp) (scr : Bool) : Nat → Nat → List Byte → State × List Byte × Option Meet
  | 0, _, acc => (s, acc, none)
  | n + 1, a, acc =>
    if scr then
      let b : Byte := BitVec.ofNat 8 (((tabFind s.wgs o.wg).map fun g => scrGet g a 1).getD 0)
      readRun s o scr n (a + 1) (acc ++ [b])
    else
      match engLine s o a 1 with
      | .error (.fail st _) => (s, acc, some (.fail st a))
      | .error (.wait l) => (s, acc, some (.wait l))
      | .ok (s1, e) => readRun s1 o scr n (a + 1) (acc ++ [BitVec.ofNat 8 (lineGet e.data (a % 128) 1)])

/-- Copies up to `limit` bytes from byte `p` of a copy, one piece of one destination line of one row at a time. The first
argument bounds the pieces. -/
def copyRun (o : EngOp) (f : BitVec 4) : Nat → Copied → Nat → Copied
  | 0, c, _ => c
  | fuel + 1, c, limit =>
    let (rows, rb, sp, dp) := cpyShape f o.opnds
    if limit ≤ c.n ∨ rows * rb ≤ c.n then c
    else
      let r := c.n / rb
      let off := c.n % rb
      let src := (o.opnds.getD 0 0).toNat + r * sp + off
      let dst := (o.opnds.getD 1 0).toNat + r * dp + off
      let k := if f.toNat % 4 = 0 then min (min (128 - dst % 128) (rb - off)) (limit - c.n)
        else pieceLen c.s o dst (min (rb - off) (limit - c.n))
      let rd := readRun c.s o (f.toNat % 4 == 1) k src []
      let wr : Eng Wrote :=
        if f.toNat % 4 = 0 then .ok (modWg rd.1 o.wg fun g => scrPut g dst rd.2.1.length (ofLeBytes rd.2.1), Wrote.none rd.1)
        else if rd.2.1 = [] then .ok (rd.1, Wrote.none rd.1)
        else if f.getLsbD 3 then engStk rd.1 o dst rd.2.1
        else engWrite rd.1 o dst rd.2.1
      match wr with
      | .error m => { c with stop := some (m, true) }
      | .ok (s1, w) =>
        let c1 : Copied := { s := s1, n := c.n + rd.2.1.length, wrote := c.wrote.join w, stop := rd.2.2.map fun m => (m, false) }
        if c1.stop.isSome then c1 else copyRun o f fuel c1 limit

/-- The destination address of byte `n` of a copy. -/
def copyDst (o : EngOp) (f : BitVec 4) (n : Nat) : Nat :=
  let (_, rb, _, dp) := cpyShape f o.opnds
  (o.opnds.getD 1 0).toNat + n / rb * dp + n % rb

/-- Runs a copy up to a byte. -/
def runCopy (s : State) (o : EngOp) (f : BitVec 4) (limit : Nat) : Copied :=
  copyRun o f (limit - o.progress) ⟨s, o.progress, Wrote.none s, none⟩ limit

/-- COPY_COMPLETE: a copy ends, or fails at the first byte it could not read or write (R305, R306). -/
def execCopyComplete (id : Nat) (s : State) : Out :=
  onEng s "COPY_COMPLETE" id fun o =>
    match o.instr with
    | .cpy _ _ _ f =>
      let (rows, rb, _, _) := cpyShape f o.opnds
      let total := rows * rb
      let limit := if chunked s o then min total (o.progress + 262144) else total
      if !o.started || !atHead s id o || !engRuns s o then notEnabled "COPY_COMPLETE"
      else
        let c := runCopy s o f limit
        match c.stop with
        | some (.wait _, _) => notEnabled "COPY_COMPLETE"
        | some (.fail st va, w) => .next (finish c.s id o ⟨st, va, copyDst o f c.n, 0, c.wrote, w⟩)
        | none => if limit < total then notEnabled "COPY_COMPLETE" else .next (finish c.s id o (okEnding c.wrote))
    | _ => notEnabled "COPY_COMPLETE"

/-! ### Collectives (R307, R308) -/

/-- Writes a collective's elements from `a` below `b` to its destination: what `engWriteRun` gives. -/
def collWrite (s : State) (o : EngOp) (c : Coll) (a b : Nat) : State × Nat × Wrote × Option Meet :=
  let n := collBytes c.ty
  let bytes := (List.range' a (b - a)).flatMap fun e => leBytes n (tabGet 0 o.partialSum e).toNat
  engWriteRun o (bytes.length + 1) s (c.dst + a * n) bytes 0 (Wrote.none s)

/-- COLL_COMPLETE: a member's operation completes when its destination is written (R308). -/
def execCollComplete (id : Nat) (s : State) : Out :=
  onEng s "COLL_COMPLETE" id fun o =>
    match collOf o with
    | some c =>
      if !o.started || !atHead s id o || !engRuns s o then notEnabled "COLL_COMPLETE"
      else if o.status ≠ 0 then .next (finish s id o (badEnding s o.status o.failVa.toNat))
      else
        let limit := if chunked s o then min c.count (o.progress + 65536) else c.count
        match collWrite s o c o.progress limit with
        | (_, _, _, some (.wait _)) => notEnabled "COLL_COMPLETE"
        | (s1, _, w, some (.fail st va)) => .next (finish s1 id o ⟨st, va, 0, 0, w, true⟩)
        | (s1, _, w, none) => if limit < c.count then notEnabled "COLL_COMPLETE" else .next (finish s1 id o (okEnding w))
    | none => notEnabled "COLL_COMPLETE"

/-! ### Chunks (R310) -/

/-- The resume cursor of an operation (R310). -/
def cursorWords (s : State) (o : EngOp) (done : Nat) : List Word :=
  let word : Word := cmdWord o.instr + BitVec.ofNat 64 (o.status * 2 ^ 32 + o.queue * 2 ^ 40
    + (if o.queue = 1 then 0 else batchNum s o % 65536 * 2 ^ 48))
  let op (k : Nat) : Word := match o.instr with
    | .mcommit _ _ => if k = 0 ∧ o.cond then 1 else 0
    | _ => o.opnds.getD k 0
  let op4 : Word := match o.instr with
    | .mgath _ _ _ _ => o.opnds.getD 4 0
    | .cpy _ _ _ f => if f.getLsbD 3 then o.rsd else 0
    | _ => 0
  let barw : Word := match o.bar with
    | some b => BitVec.ofNat 64 (b.1 % 2 ^ 32 + b.2.toNat * 2 ^ 32 + 2 ^ 40)
    | none => 0
  [word, BitVec.ofNat 64 done, op 0, op 1, op 2, op 3, op4, barw]

/-- The address of an operation's resume cursor (R310). -/
def cursorAddr (s : State) (o : EngOp) : Nat :=
  let l := launchOf s o.launch
  l.lrec.cursor.toNat + (((virtDie l (engDie o) * 32 + virtQuad l (o.core / 4)) * 4 + virtCore l o.core) * 3 + o.queue) * 64

/-- A chunk has ended: progress is recorded and the cursor written. A matrix operation fetches ahead for the next one; while its
context freezes the operation goes no further (R361). -/
def chunkDone (s : State) (id : Nat) (o : EngOp) (done : Nat) (f : EngOp → EngOp) : State :=
  let o1 : EngOp := { f o with progress := done, fetched := [], halted := (ctxOf s o.ctx).frozen }
  let s1 := hubWriteVa s o.ctx (cursorAddr s o) ((cursorWords s o done).flatMap fun w => leBytes 8 w.toNat)
  if o1.halted then modEng s1 id fun _ => o1 else beginOp s1 id o1

/-- What a chunk of an operation has written counts with what it had written before. -/
def addWrote (w : Wrote) (x : EngOp) : EngOp := { x with wct := x.wct.join w.wct, wrote := maxTab2 x.wrote w.bytes }

/-- CHUNK_END (R310): a chunk other than the last has run. A resumed operation reads its row list again from its
cursor. -/
def execChunkEnd (id : Nat) (s : State) : Out :=
  onEng s "CHUNK_END" id fun o =>
    if !o.started || !atHead s id o || !engRuns s o || !chunked s o then notEnabled "CHUNK_END"
    else
      match o.instr, mxOf o, collOf o with
      | _, some m, _ =>
        let k1 := o.progress + chunkK m
        if m.k ≤ k1 || mxFormatBad s o m then notEnabled "CHUNK_END"
        else
          match mxRun s o m o.progress k1 with
          | .error _ => notEnabled "CHUNK_END"
          | .ok (s1, (sums, a)) => .next (chunkDone s1 id o k1 fun x => { x with partialSum := sums, avals := chunkA o m a })
      | .cpy _ _ _ f, _, _ =>
        let (rows, rb, _, _) := cpyShape f o.opnds
        if rows * rb ≤ o.progress + 262144 then notEnabled "CHUNK_END"
        else
          let c := runCopy s o f (o.progress + 262144)
          if c.stop.isSome then notEnabled "CHUNK_END" else .next (chunkDone c.s id o c.n (addWrote c.wrote))
      | _, _, some cl =>
        if o.status ≠ 0 ∨ cl.count ≤ o.progress + 65536 then notEnabled "CHUNK_END"
        else
          match collWrite s o cl o.progress (o.progress + 65536) with
          | (s1, _, w, none) => .next (chunkDone s1 id o (o.progress + 65536) (addWrote w))
          | _ => notEnabled "CHUNK_END"
      | _, _, _ => notEnabled "CHUNK_END"

/-! ### Batches (R300, R303) -/

/-- What the operations of a batch of a thread have written (R118). -/
def batchWrote (s : State) (id num : Nat) : Tab (Tab Nat) :=
  (s.engq.filter fun p => p.2.queue != 1 && p.2.members.contains id && tabGet 0 p.2.batch id == num).foldl
    (fun acc p => maxTab2 acc p.2.wrote) []

/-- BATCH_COMPLETE: every operation of a batch and every earlier batch has completed; its barrier is arrived on, or the
failed check is noted and the strand marked. -/
def execBatchComplete (id num : Nat) (s : State) : Out :=
  let ready := (s.batches.all fun b => b.thread != id || num ≤ b.num || b.complete)
    && s.engq.all fun p => !p.2.members.contains id || p.2.queue == 1 || tabGet 0 p.2.batch id != num || p.2.finished
  match s.batches.find? fun b => b.thread == id && b.num == num && !b.complete with
  | some b =>
    if !ready then notEnabled "BATCH_COMPLETE"
    else
      let upd (s1 : State) (bad : Bool) : State := { s1 with
        batches := s1.batches.map fun x => if x.thread = id ∧ x.num = num then { x with complete := true, barFailed := bad } else x }
      match b.bar with
      | some w =>
        match engArrive s b.wg w (batchWrote s id num) with
        | (s1, none) => .next (forget (upd s1 false))
        | (s1, some word) => .next (forget (upd (modThr s1 id fun t => { t with mark := some word }) true))
      | none => .next (forget (upd s false))
  | none => notEnabled "BATCH_COMPLETE"

/-! ### Waiting at a line -/

/-- The line at which an engine operation waits, if it does. -/
def engWaits (s : State) (id : Nat) (o : EngOp) : Option Nat :=
  let line (m : Option Meet) : Option Nat := m.bind fun x => match x with
    | .wait l => some l
    | .fail _ _ => none
  let err {α : Type} (r : Eng α) : Option Nat := match r with
    | .error m => line (some m)
    | .ok _ => none
  if !engRuns s o || !atHead s id o then none
  else
    match o.instr, mxOf o, collOf o with
    | _, some m, _ => if o.started then err (mxRun s o m o.progress m.k) else none
    | .mdrain d _ f, _, _ =>
      let r := drainRows o (f.toNat % 8) (f.getLsbD 4) (drainSlot s o d.toNat) (o.opnds.getD 0 0).toNat (o.opnds.getD 1 0).toNat
        (launchOf s o.launch).lrec.scratch (drainList o f) s (Wrote.none s)
      if o.started then line (r.2.2.map (·.2)) else none
    | .cpy _ _ _ f, _, _ =>
      let (rows, rb, _, _) := cpyShape f o.opnds
      if o.started then line ((runCopy s o f (rows * rb)).stop.map (·.1)) else none
    | _, _, some c => if o.started then line (collWrite s o c o.progress c.count).2.2.2 else err (collSources c [(0, id, o)] s)
    | _, _, _ => none

end Sys2Proof.Machine
end

