-- ==== Sys2Proof/Machine/Region.lean ====
section
/-!
DEFINITION. Elastic and strict regions: opening (R123, R124), accesses at the slices (R126 to R132), messages (R133,
R134), commit (R135 to R137), aborts (R138, R139) and the region instructions (R276 to R278).
-/
namespace Sys2Proof.Machine
open Sys2Proof

/-! ### Records -/

/-- Changes a region record. -/
def modRegion (s : State) (rg : Nat) (f : Region → Region) : State :=
  { s with reg := { s.reg with regions := tabMod s.reg.regions rg f } }

/-- `rstat` (R125). -/
def rstatWord (retry ucode fcause : Nat) (strict frozen live : Bool) (cause : Nat) : Word :=
  BitVec.ofNat 64 (cause + (if live then 2 ^ 4 else 0) + (if frozen then 2 ^ 5 else 0) + (if strict then 2 ^ 6 else 0)
    + fcause * 2 ^ 16 + ucode * 2 ^ 24 + retry * 2 ^ 32)

/-- RETRY of `rstat`. -/
def rstatRetry (w : Word) : Nat := bitsAt w.toNat 32 16

/-- Whether a region has moved past the point at which its bounds may change. -/
def regionOpen (r : Region) : Bool :=
  match r.phase with
  | .live => true
  | .freezing _ => true
  | _ => false

/-- The code of a register form: U 0, A 1, M 2. -/
def formCode : SVal → Nat
  | .u _ => 0
  | .a _ _ _ _ => 1
  | .m _ => 2

/-- Live regions of a die. -/
def dieRegions (s : State) (die : Nat) : Nat := (s.reg.regions.filter fun r => r.2.die == die).length

/-- Whether `rbeg` may open its region: earlier loads and atomics have returned, earlier writes are performed at `.die`,
earlier blocks have finished, and the die has a record free (R123). -/
def rbegReady (s : State) (id : Nat) (t : Thread) (st : Seat) : Bool :=
  st.blocks.isEmpty && acquired s id t && (s.ops.all fun o => o.2.thread != id || performedAt o.2 2)
    && dieRegions s (st.core / 128) < Config.regionsPerDie

/-- Opens a region (R123, R124). -/
def openRegion (s : State) (id : Nat) (t : Thread) (st : Seat) (strict : Bool) (target : Word) : State :=
  let base := rtNs s * 16
  let l := launchOf s t.launch
  let lo := if strict then base + (4 * virtQuad l (st.core / 4) + virtCore l st.core) % 16 else base
  let rg : Region :=
    { thread := id, die := st.core / 128, strict := strict, lo := lo, hi := if strict then lo else 2 ^ 63 - 1,
      target := target, mask := st.am, depth := t.toks.length, phase := .live,
      forms := t.sregs.map fun p => (p.1, formCode p.2), pend := none, wct := Wct.flat 0 }
  let old := st.rstat.toNat
  let st1 := { st with
    region := s.nextId
    dirtyV := 0
    rstat := rstatWord (rstatRetry st.rstat) (bitsAt old 24 8) (bitsAt old 16 8) strict false true (bitsAt old 0 3) }
  let s1 := putThr s id (advance { t with seat := some st1, dirtyS := 0, wait := .none } 4)
  { s1 with reg := { s1.reg with regions := tabPut s1.reg.regions s1.nextId rg }, nextId := s1.nextId + 1 }

/-- `rbeg` and `rbeg.strict` (R276): a live region ends (R128), a span seats. -/
def rbegWith (i : Instr) (strict : Bool) (o : BitVec 18) (s : State) : Out :=
  scalarOutside i s fun t =>
    inStrand s t fun st =>
      if rbegReady s s.cur t st then .next (openRegion s s.cur t st strict (target t o))
      else .next (putThr s s.cur { t with wait := .rbeg strict (target t o) })

/-- `rbeg` (R276). -/
def execRbeg (o : BitVec 18) (s : State) : Out := rbegWith (.rbeg o) false o s

/-- `rbeg.strict` (R276). -/
def execRbegStrict (o : BitVec 18) (s : State) : Out := rbegWith (.rbegStrict o) true o s

/-- RBEG_OPEN (R123): what `rbeg` waited for has come. -/
def execRbegOpen (id : Nat) (s : State) : Out :=
  onThr s "RBEG_OPEN" id fun t =>
    match t.wait, t.seat with
    | .rbeg strict tgt, some st =>
      if t.stop.isNone && rbegReady s id t st then .next (openRegion s id t st strict tgt) else notEnabled "RBEG_OPEN"
    | _, _ => notEnabled "RBEG_OPEN"

/-- Moves a region's bounds: EMPTY when they cross, or when a strict region's bound moves (R134). -/
def moveBounds (s : State) (rg lo hi : Nat) : State :=
  match tabFind s.reg.regions rg with
  | none => s
  | some r =>
    if !regionOpen r then s
    else
      let l := max r.lo lo
      let h := min r.hi hi
      let s1 := modRegion s rg fun x => { x with lo := l, hi := h }
      if h < l || (r.strict && (l != r.lo || h != r.hi)) then startAbort s1 rg causeEmpty 0 0 none else s1

/-! ### The instructions (R277, R278) -/

/-- Runs `k` on the acting strand's live region; outside one the instruction raises CONV (R277). -/
def inLive (i : Instr) (s : State) (k : Thread → Seat → Region → Out) : Out :=
  scalar i s fun t =>
    match t.seat with
    | none => fault s t cCONV 0x06
    | some st =>
      match tabFind s.reg.regions st.region with
      | some r => if st.region = 0 then fault s t cCONV 0x06 else k t st r
      | none => fault s t cCONV 0x06

/-- `rend` (R277, R135): its first wait comes before issue. -/
def execRend (s : State) : Out :=
  inLive .rend s fun t st r =>
    if st.am ≠ r.mask then fault s t cCONV 0x06
    else
      .next (modRegion (putThr s s.cur { t with wait := .rend }) st.region fun x =>
        { x with phase := .freezing (regionLines s st.region) })

/-- `rabt` (R277). -/
def execRabt (u : BitVec 8) (s : State) : Out :=
  inLive (.rabt u) s fun t st _ => .next (startAbort s st.region causeUser 0 u.toNat none)

/-- A bound as `rnar.lo` and `rnar.hi` return it: the live region's, or `blo` or `bhi` (R278). Its wait comes before
issue. -/
def rnarRead (i : Instr) (d : SReg) (live : Region → Nat) (past : Seat → Word) (s : State) : Out :=
  scalar i s fun t =>
    match t.seat with
    | none => done4 s (setS t d (.u 0))
    | some st =>
      match tabFind s.reg.regions st.region with
      | some r => done4 s (setS t d (.u (if st.region = 0 then past st else BitVec.ofNat 64 (live r))))
      | none => done4 s (setS t d (.u (past st)))

/-- `rnar.lo` (R278). -/
def execRnarLo (d : SReg) (s : State) : Out := rnarRead (.rnarLo d) d (·.lo) (·.blo) s

/-- `rnar.hi` (R278). -/
def execRnarHi (d : SReg) (s : State) : Out := rnarRead (.rnarHi d) d (·.hi) (·.bhi) s

/-- `rnar.narrow` (R278). -/
def execRnarNarrow (a b : SReg) (s : State) : Out :=
  inLive (.rnarNarrow a b) s fun t st _ =>
    needU s t (getS t a) fun lo =>
      needU s t (getS t b) fun hi =>
        .next (moveBounds (putThr s s.cur (advance t 4)) st.region lo.toNat hi.toNat)

/-! ### Accesses at the slices (R126 to R132) -/

/-- A region's own tentative bytes of a line. -/
def tentOf (s : State) (rg die line : Nat) : Tab Byte :=
  match s.reg.tent.find? fun t => t.rg == rg && t.die == die && t.line == line with
  | some t => t.bytes
  | none => []

/-- Puts a tentative copy in place of the region's earlier one of the line. -/
def putTent (s : State) (t : Tentative) : State :=
  { s with reg := { s.reg with
      tent := t :: s.reg.tent.filter fun x => !(x.rg == t.rg && x.die == t.die && x.line == t.line) } }

/-- A line with tentative bytes laid over it (R127). -/
def overlay (d : LineData) (b : Tab Byte) : LineData := b.foldl (fun acc p => linePut acc p.1 1 p.2.toNat) d

/-- A slice's message to a region. -/
def sendMsg (s : State) (rg : Nat) (raise : Bool) (v die line : Nat) : State :=
  { s with reg := { s.reg with msgs := s.reg.msgs ++ [⟨rg, raise, v, die, line⟩] } }

/-- An access's region as its slice sees it: the bounds it carries, merged with those of its tags. -/
structure Bnd where
  s  : State
  lo : Nat
  hi : Nat

/-- Raise of the accessing region (R130). -/
def raiseX (b : Bnd) (rg die line v : Nat) : Bnd :=
  if b.lo < v then { b with s := sendMsg b.s rg true v die line, lo := v } else b

/-- Lower of the accessing region. -/
def lowerX (b : Bnd) (rg die line v : Nat) : Bnd :=
  if v < b.hi then { b with s := sendMsg b.s rg false v die line, hi := v } else b

/-- Before(A, X): a tag holder goes ahead of the accessing region (R130). -/
def beforeX (b : Bnd) (rg die line : Nat) (a : Tag) : Bnd :=
  let p := max (a.lo + 1) b.lo
  raiseX { b with s := sendBound b.s die line a.rg false (p - 1) } rg die line p

/-- Before(X, B): the accessing region goes ahead of a tag holder (R130). -/
def afterX (b : Bnd) (rg die line : Nat) (w : Tag) : Bnd :=
  let p := max (b.lo + 1) w.lo
  let b1 := lowerX b rg die line (p - 1)
  { b1 with s := sendBound b1.s die line w.rg true p }

/-- The tag of another region that writes a line, if one is live. -/
def otherWriter (l : LineTag) (rg : Nat) : Option Tag := l.writer.filter fun w => w.rg != rg

/-- The bounds an access carries, merged with its tags' (R129). -/
def carried (s : State) (r : Region) (rg die line : Nat) : Bnd :=
  let l := lineTag s die line
  let own := (l.readers ++ l.writer.toList).filter (·.rg == rg)
  { s := s, lo := own.foldl (fun m t => max m t.lo) r.lo, hi := own.foldl (fun m t => min m t.hi) r.hi }

/-- The read part of R130. -/
def readPart (b : Bnd) (rg die line : Nat) : Bnd :=
  let b1 := raiseX b rg die line ((lineTag b.s die line).wpos + 1)
  match otherWriter (lineTag b1.s die line) rg with
  | some w => afterX b1 rg die line w
  | none => b1

/-- The write part of R130 up to taking the writer tag. -/
def writePart (b : Bnd) (rg die line : Nat) : Bnd :=
  let l := lineTag b.s die line
  let b1 := raiseX b rg die line (max l.rpos l.wpos + 1)
  let b2 := (l.readers.filter (·.rg != rg)).foldl (fun acc y =>
    beforeX acc rg die line ((((lineTag acc.s die line).readers.find? (·.rg == y.rg))).getD y)) b1
  match otherWriter (lineTag b2.s die line) rg with
  | some w => beforeX b2 rg die line w
  | none => b2

/-- Lists the region's tags with its bounds; `none` when a fifth reader would be needed (R129, R138). -/
def tagX (b : Bnd) (rg die line : Nat) (reads writes : Bool) : Option State :=
  let l := lineTag b.s die line
  let me : Tag := ⟨rg, b.lo, b.hi⟩
  let others := l.readers.filter (·.rg != rg)
  let isReader := reads || l.readers.any (·.rg == rg)
  if isReader && 4 ≤ others.length then none
  else
    let writer := if writes then some me else l.writer.map fun w => if w.rg = rg then me else w
    some (putTag b.s { l with readers := if isReader then me :: others else others, writer := writer })

/-- Performs a region access of one lane once its tags stand: the value is the committed line with the region's own
tentative bytes over it, and a write goes to the tentative copy (R127). -/
def tentLane (s : State) (op : Nat) (o : Op) (a : LaneAcc) (d : LineData) : State :=
  let line := lineOf a.pa
  let off := a.pa % 128
  let mine := tentOf s o.region o.die line
  let m := lineGet (overlay d mine) off a.n
  let s1 := if kindReads o.kind then noteSeen s o.thread line off a.n (laneStamps s a) else s
  let s2 := match newValue o a m with
    | some v => putTent s1 ⟨o.region, o.die, line,
        (List.range a.n).foldl (fun b k => tabPut b (off + k) (BitVec.ofNat 8 (v / 2 ^ (8 * k)))) mine⟩
    | none => s1
  laneDoneWith s2 op a.lane (BitVec.ofNat 64 m) (Wct.flat 0)

/-- The lanes of other dies' regions that a die's slice holds behind its live tags on a line (R132): their regions. -/
def crossHeld (s : State) (die line : Nat) : List Nat :=
  (s.ops.filter fun p => p.2.die != die && p.2.lanes.any fun a => lineOf a.pa == line && (match a.phase with
    | .held 0 _ => true
    | _ => false)).map (·.2.region)

/-- A region that comes to hold a tag on a line goes ahead of the accesses that the slice already holds there for regions of other dies,
as the holders that they met do (R132). -/
def beforeHeld (s : State) (die line rg : Nat) : State :=
  let p := rtNs s * 16
  (crossHeld s die line).foldl (fun acc z => sendMsg (sendBound acc die line rg false (p - 1)) z true p die line) s

/-- The step in which a lane came to the slice that holds it, now for one that comes now. -/
def heldSince (s : State) (a : LaneAcc) : Nat :=
  match a.phase with
  | .held _ at0 => at0
  | _ => stampNow s

/-- A region access at the slice of its die (R130, R141), where its key slot holds a key (R392). -/
def regionLane (s : State) (op : Nat) (o : Op) (a : LaneAcc) (r : Region) : State :=
  let line := lineOf a.pa
  let s0 := recallExcl (enterSlice (combine (unpark s line) line) o.die line) line
  if slotEmpty s a.pa a.key ∨ poisoned s line then lanePoison s op o a 0x01
  else if roLine s line && kindWrites o.kind then lanePoison s op o a 0x03
  else if setPinned s0 o.die line then startAbort s0 o.region causeCap 0 0 none
  else
    match (if roLine s line then fillLine s0 o.die line a.key o.ctx else takeOwnership s0 o.die line a.key o.ctx) with
    | (s1, .poison sub) => lanePoison s1 op o a sub
    | (s1, .data d) =>
      let b0 := carried s1 r o.region o.die line
      let b1 := if kindReads o.kind then readPart b0 o.region o.die line else b0
      let ahead := if kindWrites o.kind then otherWriter (lineTag b1.s o.die line) o.region else none
      let b2 := if kindWrites o.kind then writePart b1 o.region o.die line else b1
      let l := lineTag s1 o.die line
      let known := (l.readers ++ l.writer.toList).any (·.rg == o.region)
      match tagX b2 o.region o.die line (kindReads o.kind) (kindWrites o.kind && ahead.isNone) with
      | none => startAbort b2.s o.region causeCap 0 0 none
      | some s2 =>
        let s3 := if known then s2 else beforeHeld s2 o.die line o.region
        match ahead with
        | some w => modLane s3 op a.lane fun x => { x with phase := .held w.rg (heldSince s a) }
        | none => tentLane s3 op o a d

/-- The writes that a die's slice holds behind a writer of a line, as operations and lanes, the first to come there first. -/
def heldBehind (s : State) (rg die line : Nat) : List (Nat × Nat × Nat) :=
  (s.ops.flatMap fun p => p.2.lanes.filterMap fun a =>
    match a.phase with
    | .held w at0 => if w = rg ∧ p.2.die = die ∧ lineOf a.pa = line then some (at0, p.1, a.lane) else none
    | _ => none).mergeSort fun x y => x.1 ≤ y.1

/-- The writes held behind a writer of a line, which has ended there: each is applied at once, the first to come there first (R130). It
is ordered with readers that have come meanwhile, and a later one with the first, which now is the writer (assumption 44). -/
def releaseHeld (s : State) (rg die line : Nat) : State :=
  (heldBehind s rg die line).foldl (fun acc h =>
    match tabFind acc.ops h.2.1 with
    | some o =>
      match o.lanes.find? (fun a => a.lane == h.2.2), tabFind acc.reg.regions o.region with
      | some a, some r => if r.phase == .live then regionLane acc h.2.1 o a r else acc
      | _, _ => acc
    | none => acc) s

/-- Whether a region's access has what it needs to reach its slice now, holds at the slice apart. -/
def regionGoes (s : State) (o : Op) (a : LaneAcc) : Bool :=
  let line := lineOf a.pa
  let die := (taggedDie s line).getD o.die
  o.region != 0 && !laneEnded a && !blockedByEarlier s o a && !lineHeld s line
    && heldTurn s (.lane o.thread o.seq a.lane) line && pathClear s o a
    && linksReady s o.core.isNone die a.pa (kindWrites o.kind) && !(dieOf s die).resetting && !remoteOwned s line

/-- Whether a region access may be handled at its slice now. A held write is applied as the writer it was held behind ends (R130), an
access from another die once the tags have cleared (R132). -/
def regionReady (s : State) (o : Op) (a : LaneAcc) : Bool :=
  let line := lineOf a.pa
  regionGoes s o a && (wayReady s o.kind o.die line || setPinned s o.die line)
    && !heldByFreeze s o.die line (writesLine s o line) o.region
    && (match a.phase with
      | .held w _ => w == 0 || (otherWriter (lineTag s o.die line) o.region).all fun x => x.rg != w
      | _ => true)

/-- Whether another die's slice holds live tags on a line (R132). -/
def taggedElsewhere (s : State) (die line : Nat) : Bool := (taggedDie s line).any (· != die)

/-- REGION_SLICE_ACCESS (R130). -/
def execRegionSliceAccess (op lane : Nat) (s : State) : Out :=
  onLane s "REGION_SLICE_ACCESS" op lane fun o a =>
    match tabFind s.reg.regions o.region with
    | some r =>
      if r.phase == .live && regionReady s o a && !taggedElsewhere s o.die (lineOf a.pa) then .next (regionLane s op o a r)
      else notEnabled "REGION_SLICE_ACCESS"
    | none => notEnabled "REGION_SLICE_ACCESS"

/-- The region whose answered freeze holds an access back at a slice, if one does (R136). -/
def freezeHolder (s : State) (die line : Nat) (write : Bool) : Option Nat :=
  let l := lineTag s die line
  l.answered.find? fun a => l.writer.any (fun w => w.rg == a) || (write && l.readers.any fun r => r.rg == a)

/-- CROSS_DIE_REGION_HOLD (R132): the access is held at the slice that holds the tags, which orders its holders before
it; behind a freeze that the slice has answered, it is held until the final position comes (R136). -/
def execCrossDieRegionHold (op lane : Nat) (s : State) : Out :=
  onLane s "CROSS_DIE_REGION_HOLD" op lane fun o a =>
    let line := lineOf a.pa
    match tabFind s.reg.regions o.region, taggedDie s line with
    | some r, some d =>
      if r.phase == .live && a.phase == .todo && regionGoes s o a && d != o.die then
        match freezeHolder s d line (kindWrites o.kind) with
        | some f => .next (modLane s op lane fun x => { x with phase := .held f (stampNow s) })
        | none =>
          let p := rtNs s * 16
          let l := lineTag s d line
          let s1 := (l.readers ++ l.writer.toList).foldl (fun acc x => sendBound acc d line x.rg false (p - 1)) s
          .next (modLane (sendMsg s1 o.region true p d line) op lane fun x => { x with phase := .held 0 (stampNow s) })
      else notEnabled "CROSS_DIE_REGION_HOLD"
    | _, _ => notEnabled "CROSS_DIE_REGION_HOLD"

/-- The accesses of other dies held behind a region's freeze at a slice go on as if they had come now, so that the holders that remain
are ordered before them (R132, R136): with the region's final position, behind it (R130), and after its abort with nothing of it. -/
def releaseCross (s : State) (rg : Nat) (final : Option Nat) (die line : Nat) : State :=
  let held (o : Op) (a : LaneAcc) : Bool := o.die != die && lineOf a.pa == line && (match a.phase with
    | .held w _ => w == rg
    | _ => false)
  let s1 : State := match final with
    | some f => (s.ops.filter fun p => p.2.lanes.any (held p.2)).foldl (fun acc p => sendMsg acc p.2.region true (f + 1) die line) s
    | none => s
  { s1 with ops := s1.ops.map fun p =>
      (p.1, { p.2 with lanes := p.2.lanes.map fun a => if held p.2 a then { a with phase := .todo } else a }) }

/-! ### Messages (R133, R134) -/

/-- Whether two lines of a die have one slice. -/
def sameSlice (a b : Nat) : Bool := l2Slice (128 * a) == l2Slice (128 * b)

/-- Whether no earlier message from its slice to its region precedes message `k`. -/
def msgFirst (s : State) (k : Nat) (m : RMsg) : Bool :=
  (s.reg.msgs.take k).all fun x => !(x.rg == m.rg && x.die == m.die && sameSlice x.line m.line)

/-- The arrival of a message of the given direction. -/
def msgArrives (k : Nat) (raise : Bool) (name : String) (s : State) : Out :=
  match s.reg.msgs[k]? with
  | some m =>
    if m.raise == raise && msgFirst s k m then
      let s1 : State := { s with reg := { s.reg with msgs := s.reg.msgs.eraseIdx k } }
      .next (if raise then moveBounds s1 m.rg m.value (2 ^ 64) else moveBounds s1 m.rg 0 m.value)
    else notEnabled name
  | none => notEnabled name

/-- REGION_RAISE_LO (R133). -/
def execRegionRaiseLo (k : Nat) (s : State) : Out := msgArrives k true "REGION_RAISE_LO" s

/-- REGION_LOWER_HI (R133). -/
def execRegionLowerHi (k : Nat) (s : State) : Out := msgArrives k false "REGION_LOWER_HI" s

/-! ### Commit (R135 to R137) -/

/-- A line's tag without a region. -/
def untag (l : LineTag) (rg : Nat) : LineTag :=
  { l with
    readers := l.readers.filter (·.rg != rg)
    writer := l.writer.filter (·.rg != rg)
    answered := l.answered.filter (· != rg) }

/-- REGION_FREEZE (R135): a slice answers once every message it owes the region has gone. -/
def execRegionFreeze (rg line : Nat) (s : State) : Out :=
  match tabFind s.reg.regions rg with
  | some r =>
    match r.phase with
    | .freezing left =>
      match left.find? fun x => x.2 == line with
      | some (d, _) =>
        if s.reg.msgs.any fun m => m.rg == rg && m.die == d && sameSlice m.line line then notEnabled "REGION_FREEZE"
        else
          let l := lineTag s d line
          let s1 := putTag s { l with answered := rg :: l.answered }
          .next (modRegion s1 rg fun x => { x with phase := .freezing (left.filter fun y => y != (d, line)) })
      | none => notEnabled "REGION_FREEZE"
    | _ => notEnabled "REGION_FREEZE"
  | none => notEnabled "REGION_FREEZE"

/-- REGION_FREEZE_DONE (R135 step 3): with every message arrived (R137), f is fixed and FROZEN set. -/
def execRegionFreezeDone (rg : Nat) (s : State) : Out :=
  match tabFind s.reg.regions rg with
  | some r =>
    match r.phase with
    | .freezing [] =>
      if s.reg.msgs.any fun m => m.rg == rg then notEnabled "REGION_FREEZE_DONE"
      else
      let s1 := modRegion s rg fun x => { x with hi := x.lo, phase := .committing (regionLines s rg) }
      .next (modSeat s1 r.thread fun st => { st with rstat := st.rstat ||| 0x20 })
    | _ => notEnabled "REGION_FREEZE_DONE"
  | none => notEnabled "REGION_FREEZE_DONE"

/-- What a slice does on the final position of a region (R135 step 4): the tentative copy becomes the line, which is dirty, positions
move, the tags go, and what was held behind the region goes on. -/
def finalLine (s : State) (rg : Nat) (r : Region) (die line : Nat) : State :=
  let bytes := tentOf s rg die line
  let l := lineTag s die line
  let wrote := l.writer.any (·.rg == rg)
  let read := l.readers.any (·.rg == rg)
  let core := (tabFind s.threads r.thread).bind fun t => t.seat.map (·.core)
  let w := if wrote then wctOfAll s 3 line die die core else Wct.flat 0
  let s1 : State := { s with coh := { s.coh with
    l2 := s.coh.l2.map fun x =>
      if x.die = die ∧ x.line = line then { x with data := overlay x.data bytes, st := if bytes.isEmpty then x.st else .m } else x } }
  let s2 : State := { s1 with reg := { s1.reg with
    tent := s1.reg.tent.filter fun t => !(t.rg == rg && t.die == die && t.line == line) } }
  let s3 := putTag s2 { untag l rg with
    wpos := if wrote then max l.wpos r.lo else l.wpos
    rpos := if read then max l.rpos r.lo else l.rpos }
  let note (acc : State) (k : Nat) : State :=
    let acc1 := stampWrite acc line k 1
    noteSeen acc1 r.thread line k 1 (stampsOf acc1 line)
  let s4 := bytes.foldl (fun acc p => note acc p.1) s3
  let s5 := releaseHeld (releaseCross (if bytes.isEmpty then s4 else staleTlb s4 line) rg (some r.lo) die line) rg die line
  modRegion s5 rg fun x => { x with wct := x.wct.join w }

/-- REGION_FINAL_POSITION (R135 step 4). -/
def execRegionFinalPosition (rg line : Nat) (s : State) : Out :=
  match tabFind s.reg.regions rg with
  | some r =>
    match r.phase with
    | .committing left =>
      match left.find? fun x => x.2 == line with
      | some (d, _) =>
        .next (modRegion (finalLine s rg r d line) rg fun x =>
          { x with phase := .committing (left.filter fun y => y != (d, line)) })
      | none => notEnabled "REGION_FINAL_POSITION"
    | _ => notEnabled "REGION_FINAL_POSITION"
  | none => notEnabled "REGION_FINAL_POSITION"

/-- Removes a region record. -/
def dropRegion (s : State) (rg : Nat) : State :=
  { s with reg := { s.reg with
      regions := tabDel s.reg.regions rg
      tent := s.reg.tent.filter fun t => t.rg != rg
      msgs := s.reg.msgs.filter fun m => m.rg != rg } }

/-- REGION_COMMIT_DONE (R135 step 5, R137). -/
def execRegionCommitDone (rg : Nat) (s : State) : Out :=
  match tabFind s.reg.regions rg with
  | some r =>
    match r.phase with
    | .committing [] =>
      let launch := ((tabFind s.threads r.thread).map (·.launch)).getD 0
      .next (modThr (noteWct (dropRegion s rg) launch r.wct) r.thread fun t =>
        let t1 := advance (foldWct { t with wait := .none } (r.wct.join (Wct.flat (rtNs s)))) 4
        { t1 with seat := t1.seat.map fun st => { st with
            region := 0
            blo := BitVec.ofNat 64 r.lo
            bhi := BitVec.ofNat 64 r.lo
            rstat := rstatWord 0 0 0 r.strict false false 0 } })
    | _ => notEnabled "REGION_COMMIT_DONE"
  | none => notEnabled "REGION_COMMIT_DONE"

/-! ### Aborts (R139) -/

/-- REGION_ABORT_MESSAGE (R139 step 1): a slice discards the region's tentative copy and tags, and releases what it held behind it. -/
def execRegionAbortMessage (rg line : Nat) (s : State) : Out :=
  match tabFind s.reg.regions rg with
  | some r =>
    match r.phase with
    | .aborting c f u left =>
      match left.find? fun x => x.2 == line with
      | some (d, _) =>
        let s1 : State := { s with reg := { s.reg with
          tent := s.reg.tent.filter fun t => !(t.rg == rg && t.die == d && t.line == line) } }
        let s2 := releaseHeld (releaseCross (putTag s1 (untag (lineTag s1 d line) rg)) rg none d line) rg d line
        .next (modRegion s2 rg fun x => { x with phase := .aborting c f u (left.filter fun y => y != (d, line)) })
      | none => notEnabled "REGION_ABORT_MESSAGE"
    | _ => notEnabled "REGION_ABORT_MESSAGE"
  | none => notEnabled "REGION_ABORT_MESSAGE"

/-- A free value in a given form (R139; assumption 2). -/
def freeForm (ctr r form : Nat) : SVal :=
  let v (k : Nat) : Word := Config.freeBits ctr (30000 + r * 64 + k)
  if form = 0 then .u (v 0)
  else if form = 1 then .a (v 0) ((v 1).setWidth 32) ((v 2).setWidth 32) ((v 3).setWidth 32)
  else .m ((List.range 32).map fun L => v (4 + L))

/-- The strand after an abort: registers written in the region hold undefined values, the mask, the stack and the PC are
restored, and `rstat` records the cause (R139). -/
def abortedThr (ctr : Nat) (r : Region) (cause fcause ucode : Nat) (t : Thread) : Thread :=
  let regs := (List.range 64).foldl (fun acc k =>
    if t.dirtyS.getLsbD k then tabPut acc k (freeForm ctr k (tabGet 0 r.forms k)) else acc) t.sregs
  { t with
    sregs := regs
    toks := t.toks.drop (t.toks.length - r.depth)
    pc := r.target
    wait := .none
    seat := t.seat.map fun st => { st with
      am := r.mask
      vregs := st.vregs.filter fun p => !st.dirtyV.getLsbD (p.1 / 32)
      zeroV := st.zeroV &&& ~~~st.dirtyV
      latches := []
      blocks := []
      region := 0
      blo := BitVec.ofNat 64 r.lo
      bhi := BitVec.ofNat 64 r.hi
      rstat := rstatWord (min 65535 (rstatRetry st.rstat + 1)) ucode fcause r.strict false false cause } }

/-- REGION_ABORT_DONE (R139 steps 2 to 4): the strand is at the abort target, and takes the fault that ended the region,
if one did; the lane blocks queued before a scalar one have finished (R358). -/
def execRegionAbortDone (rg : Nat) (s : State) : Out :=
  match tabFind s.reg.regions rg with
  | some r =>
    match r.phase with
    | .aborting c f u [] =>
      let s1 := modThr (dropRegion s rg) r.thread (abortedThr s.freeCtr r c f u)
      if (r.pend.any fun p => p.lpc.isNone) && ((tabFind s.threads r.thread).any fun t => !noBlocks t) then
        notEnabled "REGION_ABORT_DONE"
      else
        .next (match r.pend with
          | some p => haltThr s1 r.thread { p with rt := rtNs s }
          | none => s1)
    | _ => notEnabled "REGION_ABORT_DONE"
  | none => notEnabled "REGION_ABORT_DONE"

end Sys2Proof.Machine
end

