-- ==== Sys2Proof/Machine/Queue.lean ====
section
/-!
DEFINITION. Command queues (R337, R338): queue descriptors and entries in memory, which queue is served, the priority of a
launch, and what a launch's workgroups take of a core (R313, R344).
-/
namespace Sys2Proof.Machine
open Sys2Proof

/-- Runs `k` when the hub can reach a physical address; it has no meaning for one that R348 leaves unbacked. -/
def needBacked (s : State) (pa : Nat) (k : Out) : Out := if backed s pa then k else .fault (.unbacked pa)

/-! ### Queue descriptors (R337) -/

/-- The physical address of a queue descriptor. -/
def qAddr (s : State) (c q : Nat) : Nat := (ctxOf s c).qtable.toNat + 32 * q

/-- One word of a queue descriptor: 0 RING, 1 the flags, 2 HEAD, 3 TAIL. -/
def qWord (s : State) (c q k : Nat) : Nat := hubRead s (qAddr s c q + 8 * k) 8

/-- LOG2N. -/
def qLog2n (s : State) (c q : Nat) : Nat := bitsAt (qWord s c q 1) 0 5
/-- PRIO. -/
def qPrio (s : State) (c q : Nat) : Nat := bitsAt (qWord s c q 1) 5 3
/-- EN. -/
def qEn (s : State) (c q : Nat) : Bool := (qWord s c q 1).testBit 16
/-- DEV. -/
def qDev (s : State) (c q : Nat) : Bool := (qWord s c q 1).testBit 17
/-- HEAD. -/
def qHead (s : State) (c q : Nat) : Nat := qWord s c q 2
/-- TAIL. -/
def qTail (s : State) (c q : Nat) : Nat := qWord s c q 3

/-- The physical address of an entry's place in the ring. -/
def qSlot (s : State) (c q i : Nat) : Nat := qWord s c q 0 + 64 * (i % 2 ^ qLog2n s c q)

/-- Whether a queue holds entries. -/
def qHas (s : State) (c q : Nat) : Bool := qHead s c q != qTail s c q

/-- Whether the ring is full. -/
def qFull (s : State) (c q : Nat) : Bool := (qTail s c q + 2 ^ 64 - qHead s c q) % 2 ^ 64 == 2 ^ qLog2n s c q

/-- Sets ERR, if no earlier error stands there, and clears EN (R338, R339). -/
def qError (s : State) (c q code : Nat) : State :=
  let w := qWord s c q 1
  let err := if bitsAt w 24 8 = 0 then code % 256 else bitsAt w 24 8
  hubWrite s (qAddr s c q + 8) 8 (bitsAt w 0 16 + bitsAt w 17 7 * 2 ^ 17 + err * 2 ^ 24 + bitsAt w 32 32 * 2 ^ 32)

/-- One word of the entry at the head of a queue: 0 KIND and SERIAL, 1 to 3 the arguments, 4 and 5 zero, 6 SIGADDR, 7
SIGVAL (R337). -/
def headWord (s : State) (c q k : Nat) : Nat := hubRead s (qSlot s c q (qHead s c q) + 8 * k) 8

/-- KIND of the entry at the head. -/
def headKind (s : State) (c q : Nat) : Nat := bitsAt (headWord s c q 0) 0 8

/-- Whether a field of the entry at the head that must be zero is not. -/
def headBad (s : State) (c q : Nat) : Bool := headWord s c q 0 / 2 ^ 9 != 0 || headWord s c q 4 != 0 || headWord s c q 5 != 0

/-- The entries of a queue taken and not yet complete. -/
def qRunning (s : State) (c q : Nat) : List (Nat × Entry) := s.entries.filter fun e => e.2.ctx == c && e.2.queue == q

/-! ### Priorities (R338) -/

/-- The priority of a launch: that of the queue its entry came from. -/
def launchPrio (s : State) (l : Nat) : Nat :=
  match s.entries.find? fun e => e.2.launch == l && e.2.kind == 1 with
  | some e => qPrio s e.2.ctx e.2.queue
  | none => 0

/-! ### What a workgroup takes (R313, R344) -/

/-- `s` of R313: the strands of a workgroup. -/
def wgStrands (r : LaunchRec) : Nat := strandPositions r

/-- `p` of R344: its strands on one partition. -/
def wgPerPart (r : LaunchRec) : Nat := (wgStrands r + 3) / 4

/-- Register rows that a strand of a launch takes (R33, R182). -/
def strandRows (r : LaunchRec) : Nat := r.regs + 2 * r.fall

/-- `W` of R344: workgroups of a launch that an empty core holds. -/
def coreCapacity (r : LaunchRec) : Nat :=
  let w0 := min (16 / wgPerPart r) (1024 / (wgPerPart r * strandRows r))
  let w1 := if r.scratch = 0 then w0 else min w0 (r.carve * 1024 / r.scratch)
  let w2 := if r.acc = 0 then w1 else min w1 (8 / r.acc)
  if r.shadow = 0 then w2 else min w2 (2 / r.shadow)

end Sys2Proof.Machine
end

