-- ==== Sys2Proof/Machine/Seating.lean ====
section
/-!
DEFINITION. Seating (R27 to R33, R47, R60, R61), the end of workgroups (R28) and of strands (R210).
-/
namespace Sys2Proof.Machine
open Sys2Proof

/-! ### Placement (R30) -/

/-- The physical die the anchor of a tile names, when it translates to a page of HBM or of second-tier
memory (R30 steps 1 and 2, R348). -/
def anchorDie (s : State) (l : Launch) (tile : Nat) : Option Nat :=
  let r := l.lrec
  if !r.anchorOn then none
  else
    match walk s l.ctx (affAt r.anchor r.asx r.asy r.asz (posItem r tile 0)).toNat with
    | .leaf e _ _ _ => if isHbm (pteFrame e) || isTier2 (pteFrame e) then some (homeDie (pteFrame e)) else none
    | .bad _ _ _ => none

/-- The virtual die a tile first goes to (R30 steps 2 and 4). -/
def tileDie (s : State) (l : Launch) (tile : Nat) : Nat :=
  match (anchorDie s l tile).bind (virtDie? l) with
  | some v => v
  | none => tile % l.lrec.vd

/-- The workgroups resident on a core. -/
def coreWgs (s : State) (core : Nat) : List Wg := (s.wgs.filter fun w => w.2.core == core).map (·.2)

/-- The launch record of a workgroup. -/
def wgRec (s : State) (w : Wg) : LaunchRec := (launchOf s w.launch).lrec

/-- The strands resident on a core. -/
def coreStrands (s : State) (core : Nat) : Nat :=
  ((List.range 4).map fun p => (partStrands s core p).length).foldl (· + ·) 0

/-- Partitions for `n` strands placed round-robin from the one with the fewest residents (R47); where several have the fewest, from
the lowest number: the model's choice (assumption 57). -/
def partsFor (s : State) (core n : Nat) : List Nat :=
  let c (p : Nat) : Nat := (partStrands s core p).length
  let first := [1, 2, 3].foldl (fun b p => if c p < c b then p else b) 0
  (List.range n).map fun k => (first + k) % 4

/-- Whether a core belongs to a launch's grid. -/
def inGrid (l : Launch) (core : Nat) : Bool :=
  (match virtDie? l (core / 128) with
    | some v => decide (v < l.lrec.vd)
    | none => false) && decide (virtQuad l (core / 4) < l.lrec.vq) && decide (virtCore l core < l.lrec.vc)

/-- The launches, but for one, that have a unit of a core reserved: each holds the places of its `W` workgroups whole until it
completes, whatever of them is resident (R344), unless the unit has been saved for it and taken away (R363). -/
def reservedHere (s : State) (core unit but : Nat) : List LaunchRec :=
  s.launches.filterMap fun p =>
    if p.2.reserved && p.1 != but && inGrid p.2 core && !((ctxOf s p.2.ctx).saved.contains (core * 6 + unit)) then some p.2.lrec else none

/-- The sum of a quantity over the places reserved on a unit of a core. -/
def reservedSum (s : State) (core unit but : Nat) (f : LaunchRec → Nat) : Nat :=
  ((reservedHere s core unit but).map fun r => coreCapacity r * f r).foldl (· + ·) 0

/-- Whether what is resident of a launch counts by itself, for a launch that looks for room: another one's reserved places count
whole instead. -/
def countsAlone (s : State) (but launch : Nat) : Bool := launch == but || !(launchOf s launch).reserved

/-- The sum of a quantity over those of a core's workgroups that hold it there, and over the places reserved there. -/
def coreLoad (s : State) (core unit but : Nat) (here : Wg → Bool) (f : LaunchRec → Nat) : Nat :=
  (((coreWgs s core).filter fun w => here w && countsAlone s but w.launch).map fun w => f (wgRec s w)).foldl (· + ·) 0
    + reservedSum s core unit but f

/-- Whether a partition of a core has slots and rows for `n` more strands of a launch (R32, R44). -/
def partFits (s : State) (la core part n : Nat) : Bool :=
  let mine := (partStrands s core part).filter fun p => countsAlone s la p.2.1.launch
  let rows := (mine.map fun p => strandRows (lrecOf s p.2.1)).foldl (· + ·) 0
  n == 0 || (mine.length + reservedSum s core part la wgPerPart + n ≤ 16
    && rows + reservedSum s core part la (fun r => wgPerPart r * strandRows r) + n * strandRows (launchOf s la).lrec ≤ 1024)

/-- Whether a core's partitions have slots and rows for the strands given for each, of a launch (R32, R44). -/
def slotsFit (s : State) (la core : Nat) (need : Nat → Nat) : Bool := (List.range 4).all fun p => partFits s la core p (need p)

/-- Whether a core's SRAM takes so many more workgroups of a launch: the carve-out, and their scratch (R60, R61). -/
def sramFits (s : State) (la core copies : Nat) : Bool :=
  let r := (launchOf s la).lrec
  ((coreWgs s core).all fun w => w.sramOut || (wgRec s w).carve == r.carve)
    && ((reservedHere s core 4 la).all fun x => x.carve == r.carve)
    && coreLoad s core 4 la (fun w => !w.sramOut) (·.scratch) + copies * r.scratch ≤ r.carve * 1024

/-- Whether a core's matrix engine has accumulators and shadow slots for so many more workgroups of a launch (R283). -/
def engFits (s : State) (la core copies : Nat) : Bool :=
  let r := (launchOf s la).lrec
  coreLoad s core 5 la (fun w => !w.engOut) (·.acc) + copies * r.acc ≤ 8
    && coreLoad s core 5 la (fun w => !w.engOut) (·.shadow) + copies * r.shadow ≤ 2

/-- Whether a core can take so many new workgroups of a launch (R60, R61, R283). -/
def coreFits (s : State) (la core copies : Nat) (need : Nat → Nat) : Bool :=
  sramFits s la core copies && engFits s la core copies && slotsFit s la core need
    && !(dieOf s (core / 128)).failed && !(dieOf s (core / 128)).resetting

/-- Strands that each partition gets when `n` are placed (R47). -/
def partNeed (s : State) (core n p : Nat) : Nat := ((partsFor s core n).filter (· == p)).length

/-- Whether a core can take a new workgroup of a launch with `n` strands. -/
def canTake (s : State) (la core n : Nat) : Bool := coreFits s la core 1 (partNeed s core n)

/-- The physical cores of a virtual die of a launch, by virtual quad and core. -/
def dieCores (l : Launch) (v : Nat) : List Nat :=
  (List.range l.lrec.vq).flatMap fun q => (List.range l.lrec.vc).map fun c => coreIn l (quadOn l (physOf l v) q) c

/-- The core of a virtual die for a tile: the fewest resident strands among those that can take it, then the lowest
quad and core (R30). -/
def coreOn (s : State) (la v n : Nat) : Option Nat :=
  ((dieCores (launchOf s la) v).filter fun c => canTake s la c n).foldl (fun (b : Option Nat) c => match b with
    | none => some c
    | some x => if coreStrands s c < coreStrands s x then some c else some x) none

/-- The core a tile goes to now: of its first die, or once moved of the lowest virtual die that can take it. -/
def placeTile (s : State) (la tile n : Nat) (moved : Bool) : Option Nat :=
  let l := launchOf s la
  if moved then firstSome ((List.range l.lrec.vd).map fun v => coreOn s la v n) else coreOn s la (tileDie s l tile) n

/-! ### Seating (R27, R28, R32) -/

/-- The masks of the strands a span makes in a tile, with their positions: the slots whose items lie in the range and in
the span's box, and have a place in the tile (R27). -/
def tileMasks (r : LaunchRec) (b : Box) (tile : Nat) : List (Nat × W32) :=
  ((List.range (strandPositions r)).map fun j => (j, maskOf fun L =>
    32 * j + L < r.wx * r.wy * r.wz && inRange r (posItem r tile (32 * j + L)) && inBox b (posItem r tile (32 * j + L)))).filter
    fun p => p.2 != 0

/-- Whether a context's seatings wait, because it is being pre-empted or has ended (R361). -/
def seatingWaits (s : State) (c : Nat) : Bool := (ctxOf s c).fcb.state != 0

/-- Whether a tile of a launch of higher priority goes to a core now (R338). -/
def outranked (s : State) (la core : Nat) : Bool :=
  s.threads.any fun p =>
    decide (launchPrio s la < launchPrio s p.2.launch) && !seatingWaits s p.2.ctx && p.2.stop.isNone &&
      match p.2.wait with
      | .seating tiles _ => tiles.any fun x =>
          (wgOfTile s p.2.launch x.1).isNone &&
            placeTile s p.2.launch x.1 (tileMasks (lrecOf s p.2) p.2.box x.1).length (x.2.2 == 1) == some core
      | _ => false

/-- Drops the leased copies that contexts which have left a core hold there, when another context comes (R394). -/
def changeOwner (s : State) (core ctx : Nat) : State :=
  let here (c : Nat) (cores : Nat → Bool) : Bool :=
    c == ctx || s.wgs.any fun w => cores w.2.core && (launchOf s w.2.launch).ctx == c
  { s with coh := { s.coh with copies := s.coh.copies.filter fun c =>
      match c.place with
      | .l1 k => k != core || here c.ctx (· == core)
      | .stage k _ => k != core || here c.ctx (· == core)
      | .quad q => q != core / 4 || here c.ctx fun k => k / 4 == q } }

/-- Applies a workgroup's carve-out to a core (R61): on a change the leased copies go, parked lines move out, and partials
are handed over. -/
def applyCarve (s : State) (core carve : Nat) : State :=
  let d := dieOf s (core / 128)
  if tabGet 0 d.carves core = carve then s
  else
    let s1 := clearL1Parked s core
    { s1 with
      dies := tabSet Die.atReset s1.dies (core / 128) { d with carves := tabSet 0 d.carves core carve }
      coh := { s1.coh with
        copies := s1.coh.copies.filter fun c => (match c.place with
          | .l1 k => k != core
          | .stage k _ => k != core
          | .quad _ => true)
        partials := s1.coh.partials.map fun p => if p.core = core then { p with handed := true } else p } }

/-- The positions of a tile whose items lie in the range and have already retired. -/
def retiredPositions (l : Launch) (tile : Nat) : List Nat :=
  (List.range (l.lrec.wx * l.lrec.wy * l.lrec.wz)).filter fun p =>
    inRange l.lrec (posItem l.lrec tile p) && l.retired.any fun b => inBox b (posItem l.lrec tile p)

/-- A new workgroup (R28, R270, R283). -/
def newWg (l : Launch) (launch tile core : Nat) : Wg :=
  let all := tilePositions l.lrec tile (wholeBox l.lrec)
  let gone := retiredPositions l tile
  { launch := launch, tile := tile, core := core, scratch := [], word := barInitWord true (all.length - gone.length), sramOut := false, engOut := false,
    arrived := [], barAcq := [], acc := [], shadow := [], retired := gone }

/-- The lowest free slot of a partition. -/
def freeSlot (s : State) (core part : Nat) : Nat :=
  part * 16 + (((List.range 16).filter fun k => !((partStrands s core part).any fun p => p.2.2.slot == part * 16 + k)).headD 0)

/-- The seat of a new strand (R32). Its lane registers hold 0 where no strand of its context has given up rows of the partition, as the
rows of new contexts do (R394); otherwise they hold no stated value (assumption 2). -/
def newSeat (s : State) (ctx wg six core part : Nat) (am : W32) : Seat :=
  { wg := wg, six := six, core := core, part := part, slot := freeSlot s core part, am := am, seated := am, vregs := [],
    zeroV := if (ctxOf s ctx).rows.contains (core * 4 + part) then 0 else BitVec.allOnes 248, undos := [], past := [],
    live := 0, longRegs := 0, dirtyV := 0, preds := [], xregs := [], kregs := [], latches := [], blocks := [], blo := 0,
    bhi := 0, rstat := 0, region := 0, active := activeCount s core part < 8, since := s.time, readyAt := none,
    aged := none, retired := false }

/-- Seats one strand of a span: it carries the span's state, with token masks its `am` (R32); an access of the span that
failed goes with it, and the stop that seated the span is taken in it (R186, R257). -/
def seatStrand (s : State) (span : Nat) (t : Thread) (pend : Option Stop) (wg core : Nat) (p : (Nat × W32) × Nat) : State :=
  let id := s.nextId
  let am := p.1.2
  let t1 : Thread := { t with
    wait := .none
    toks := t.toks.map fun k => { k with mask := am, exit := 0 }
    pkdem := 0
    batch := 0
    blockNo := 0
    dirtyS := 0
    due := rebase t.due (homeCc s t) (coreCc s core)
    movedAt := s.time
    seat := some (newSeat s t.ctx wg p.1.1 core p.2 am) }
  let mine : List Op := (s.ops.filter fun o => o.2.thread == span).map fun o => { o.2 with
    thread := id
    core := some core
    die := core / 128
    lanes := o.2.lanes.map fun a => { a with lane := (lanesOf am).headD 0 } }
  let s1 := mine.foldl (fun acc o => { acc with ops := tabPut acc.ops acc.nextId o, nextId := acc.nextId + 1 })
    { putThr s id t1 with nextId := id + 1 }
  match pend with
  | some q => haltThr s1 id { q with mask := am, rt := rtNs s }
  | none => s1

/-- Whether a span's accesses have all returned, but for failed ones (R185). -/
def spanQuiet (s : State) (id : Nat) : Bool :=
  s.ops.all fun o => o.2.thread != id || o.2.back || o.2.lanes.any fun a => match a.phase with
    | .failed _ _ _ _ => true
    | _ => false

/-- The tiles a seating span still waits on, without one of them; a span with none left is gone. -/
def tileSeated (s : State) (id tile : Nat) : State :=
  match tabFind s.threads id with
  | some t =>
    match t.wait with
    | .seating tiles pend =>
      match tiles.filter fun x => x.1 != tile with
      | [] => { s with threads := tabDel s.threads id, ops := s.ops.filter fun o => o.2.thread != id || o.2.path == .st }
      | rest => putThr s id { t with wait := .seating rest pend }
    | _ => s
  | none => s

/-- Seats one tile of a span on a core, in its workgroup or a new one. -/
def seatTile (s : State) (id : Nat) (t : Thread) (pend : Option Stop) (tile core : Nat) (ms : List (Nat × W32)) : State :=
  let l := launchOf s t.launch
  let r := match wgOfTile s t.launch tile with
    | some (w, _) => (s, w)
    | none =>
      let s1 := applyCarve (changeOwner s core t.ctx) core l.lrec.carve
      (({ s1 with wgs := tabPut s1.wgs s1.nextId (newWg l t.launch tile core), nextId := s1.nextId + 1 } : State), s1.nextId)
  let s2 := (ms.zip (partsFor s core ms.length)).foldl (fun acc p => seatStrand acc id t pend r.2 core p) r.1
  hbarAdvance (tileSeated s2 id tile) t.launch

/-- TILE_SEAT (R27, R28, R30, R32): a tile of a seating span is seated on the core that takes it. -/
def execTileSeat (id tile : Nat) (s : State) : Out :=
  onThr s "TILE_SEAT" id fun t =>
    match t.wait with
    | .seating tiles pend =>
      match tiles.find? fun x => x.1 == tile with
      | some (_, _, moved) =>
        let l := launchOf s t.launch
        let ms := tileMasks l.lrec t.box tile
        let core := match wgOfTile s t.launch tile with
          | some (_, w) =>
            if slotsFit s t.launch w.core (partNeed s w.core ms.length) then some w.core else none
          | none => placeTile s t.launch tile ms.length (moved == 1)
        if t.stop.isSome || !spanQuiet s id || seatingWaits s t.ctx then notEnabled "TILE_SEAT"
        else
          match core with
          | some c => if outranked s t.launch c then notEnabled "TILE_SEAT" else .next (seatTile s id t pend tile c ms)
          | none => notEnabled "TILE_SEAT"
      | none => notEnabled "TILE_SEAT"
    | _ => notEnabled "TILE_SEAT"

/-- PLACEMENT_TIMEOUT (R30 step 3): a tile has waited 10 µs on its die. -/
def execPlacementTimeout (id tile : Nat) (s : State) : Out :=
  onThr s "PLACEMENT_TIMEOUT" id fun t =>
    match t.wait with
    | .seating tiles pend =>
      let l := launchOf s t.launch
      let stuck := (wgOfTile s t.launch tile).isNone
        && (placeTile s t.launch tile (tileMasks l.lrec t.box tile).length false).isNone
      if stuck && tiles.any (fun x => x.1 == tile && x.2.2 == 0 && x.2.1 + 10000 ≤ rtNs s) then
        .next (putThr s id { t with wait := .seating (tiles.map fun x => if x.1 = tile then (x.1, x.2.1, 1) else x) pend })
      else notEnabled "PLACEMENT_TIMEOUT"
    | _ => notEnabled "PLACEMENT_TIMEOUT"

/-! ### Ends (R28, R210) -/

/-- WORKGROUP_END (R28): the last item of the tile has retired and every engine operation of its strands has completed. -/
def execWorkgroupEnd (wg : Nat) (s : State) : Out :=
  match tabFind s.wgs wg with
  | some w =>
    let all := tilePositions (wgRec s w) w.tile (wholeBox (wgRec s w))
    let busy := (s.engq.any fun o => o.2.wg == wg && !o.2.finished) || s.batches.any fun b => b.wg == wg && !b.complete
    if !busy && all.all w.retired.contains then
      .next { s with wgs := tabDel s.wgs wg, aholds := s.aholds.filter fun h => h.wg != wg }
    else notEnabled "WORKGROUP_END"
  | none => notEnabled "WORKGROUP_END"

/-- Whether a thread has loads or atomics that have not returned. -/
def awaitsLoads (s : State) (id : Nat) : Bool :=
  s.ops.any fun o => o.2.thread == id && !o.2.back && (o.2.path == .ld || o.2.path == .atm)

/-- STRAND_SLOT_FREE (R210): the slot of a retired strand is freed; R44 decides who takes its place in the active set, as the step
ends. -/
def execStrandSlotFree (id : Nat) (s : State) : Out :=
  onThr s "STRAND_SLOT_FREE" id fun t =>
    match t.seat with
    | some st =>
      if st.retired && st.blocks.isEmpty && !awaitsLoads s id then
        .next (forget (leaveRows { s with threads := tabDel s.threads id } t.ctx st.core st.part))
      else notEnabled "STRAND_SLOT_FREE"
    | none => notEnabled "STRAND_SLOT_FREE"

end Sys2Proof.Machine
end

