-- ==== Sys2Proof/Machine/Ready.lean ====
section
/-!
DEFINITION. Fetching (R168, R179, R209), what an instruction waits for before it issues (R79, R104, R115, R180, R181, R215,
R222, R227, R278, R280), which strands are ready (R44), and the swaps of the active set (R45, R46, R317).
-/
namespace Sys2Proof.Machine
open Sys2Proof

/-! ### Fetching -/

/-- What a fetch finds. -/
inductive CodeRead where
  /-- An instruction of the given number of bytes. -/
  | instr (i : Instr) (n : Nat)
  /-- Words that decode to nothing: the sub-cause of ILL (R187). -/
  | ill (sub : Nat)
  /-- A word that may not be fetched: cause, sub-cause, its address, words 6 and 7 (R209). -/
  | bad (cause sub : Nat) (va : Word) (w6 w7 : Nat)
  /-- The word, or a page-table line on the way to it, is at a line whose requests wait (R136, R375, R387). -/
  | held
  deriving DecidableEq, Repr

/-- One word of code at a virtual address (R209). -/
def fetchWord (s : State) (t : Thread) (va : Nat) : Except CodeRead W32 :=
  if xlWaits s (xlUnit t) t.ctx va false then .error .held
  else
    match translate s (xlUnit t) t.ctx va with
    | .error (sub, e, lv) => .error (.bad cXLAT sub (BitVec.ofNat 64 va) e lv)
    | .ok x =>
      match fetchSub (ctxOf s t.ctx).priv x.pte with
      | some sub => .error (.bad cPROT sub (BitVec.ofNat 64 va) 0 0)
      | none => if !nothingHeld s && lineWaits s false (lineOf x.pa) then .error .held else .ok (BitVec.ofNat 32 (hubRead s x.pa 4))

/-- What the decoder makes of the words of a scalar instruction. -/
def scalarFetched (w0 w1 : W32) : CodeRead :=
  match decodeScalar w0 w1 with
  | .ok i => .instr i (if isSX w0 then 8 else 4)
  | .error sub => .ill sub

/-- The scalar instruction at a thread's PC (R168): the second word is fetched for an SX instruction only. -/
def fetchScalar (s : State) (t : Thread) : CodeRead :=
  match fetchWord s t t.pc.toNat with
  | .error f => f
  | .ok w0 =>
    if isSX w0 then
      match fetchWord s t (t.pc + 4).toNat with
      | .error f => f
      | .ok w1 => scalarFetched w0 w1
    else scalarFetched w0 0

/-- The address of the lane word with a lane PC (R179, R340). -/
def laneVa (s : State) (t : Thread) (lpc : Nat) : Nat := ((lrecOf s t).laneBase + BitVec.ofNat 64 (4 * lpc)).toNat

/-- The lane instruction at a lane PC (R179): at or beyond the section's length there is none. -/
def fetchLane (s : State) (t : Thread) (lpc : Nat) : CodeRead :=
  if (lrecOf s t).laneLen ≤ lpc then .ill 0x06
  else
    match fetchWord s t (laneVa s t lpc), fetchWord s t (laneVa s t (lpc + 1)), fetchWord s t (laneVa s t (lpc + 2)) with
    | .error f, _, _ => f
    | _, .error f, _ => f
    | _, _, .error f => f
    | .ok w0, .ok w1, .ok w2 =>
      match decodeLane (w2 ++ w1 ++ w0) with
      | .ok i => .instr i 12
      | .error sub => .ill sub

/-- The state after a fetch: the translations of the words read are noted as used (R345, R347). -/
def noteFetch (s : State) (t : Thread) (va n : Nat) : State :=
  noteAccess (noteAccess s (xlUnit t) t.ctx va false) (xlUnit t) t.ctx (va + n - 4) false

/-! ### What a scalar instruction reads and writes -/

/-- The registers that hold the operands of `mma` and like commands from a base up. -/
def regRun (a : SReg) (n : Nat) : List SReg := (List.range n).map fun k => a + BitVec.ofNat 6 k

/-- The scalar registers a scalar instruction reads. -/
def scalarReads : Instr → List SReg
  | .sadd _ a b | .ssub _ a b | .smul _ a b | .smulh _ a b | .smulhn _ a b | .sand _ a b | .sor _ a b | .sxor _ a b
  | .sshl _ a b | .sshr _ a b | .ssra _ a b | .smin _ a b | .smax _ a b | .sminn _ a b | .smaxn _ a b | .sdiv _ a b
  | .sdivn _ a b | .srem _ a b | .sremn _ a b | .saffx _ a b | .saffy _ a b | .saffz _ a b | .scmp _ a b _ | .ssel _ a b _
  | .cmo a b _ _ | .krev _ a b | .kdrop a b | .barArv _ a b | .barWt a b | .barArw a b | .barInit a b | .dlaunch _ a b
  | .rnarNarrow a b => [a, b]
  | .sclz _ a | .spop _ a | .saddi _ a _ | .sandi _ a _ | .sori _ a _ | .sxori _ a _ | .sshli _ a _ | .sshri _ a _
  | .ssrai _ a _ | .smuli _ a _ | .scmpi _ _ a _ | .sform _ a _ | .sld _ a _ _ _ _ | .kset _ a | .kget _ a | .kgetSet _ a
  | .hbarWt a _ | .jmp a | .wait a _ | .snooze a | .snoozeAbs a | .mfence a | .mwait _ a => [a]
  | .sliHi d _ => [d]
  | .sst d a _ _ _ => [d, a]
  | .satom d a b _ _ o => if o = 9 then [d, a, b] else [a, b]
  | .swr _ b => [b]
  | .mma _ a b _ => regRun a 2 ++ regRun b 2
  | .mgath _ a b _ => regRun a 3 ++ regRun b 2
  | .mdrain _ a f => regRun a (if f.getLsbD 3 then 3 else 2)
  | .cpy _ a b _ => b :: regRun a 4
  | .coll a _ _ _ => regRun a 3
  | _ => []

/-- The scalar registers a scalar instruction writes. -/
def scalarWrites : Instr → List SReg
  | .sadd d _ _ | .ssub d _ _ | .smul d _ _ | .smulh d _ _ | .smulhn d _ _ | .sand d _ _ | .sor d _ _ | .sxor d _ _
  | .sshl d _ _ | .sshr d _ _ | .ssra d _ _ | .smin d _ _ | .smax d _ _ | .sminn d _ _ | .smaxn d _ _ | .sdiv d _ _
  | .sdivn d _ _ | .srem d _ _ | .sremn d _ _ | .sclz d _ | .spop d _ | .saffx d _ _ | .saffy d _ _ | .saffz d _ _
  | .saddi d _ _ | .sandi d _ _ | .sori d _ _ | .sxori d _ _ | .sshli d _ _ | .sshri d _ _ | .ssrai d _ _ | .smuli d _ _
  | .sli d _ | .sliHi d _ | .ssel d _ _ _ | .sform d _ _ | .sld d _ _ _ _ _ | .satom d _ _ _ _ _ | .kget d _ | .kgetSet d _
  | .barArv d _ _ | .hbarArv d _ | .mwait d _ | .rnarLo d | .rnarHi d | .srd d _ | .dlaunch d _ _ => [d]
  | _ => []

/-- The lane predicate a token instruction reads. -/
def predRead : Instr → Option Nat
  | .dvg k ks _ _ => if bit ks then none else some k.toNat
  | .lpe k ks _ _ => if bit ks then none else some k.toNat
  | .brk k ks _ => if bit ks then none else some k.toNat
  | _ => none

/-- The condition on which a span may split (R23). -/
def splitCond : Instr → Option (BitVec 3)
  | .br c _ _ => some c
  | .call c _ _ => some c
  | .dvg k _ _ _ => some k
  | .lpe k _ _ _ => some k
  | .brk k _ _ => some k
  | _ => none

/-- The in-flight path an instruction counts on, if it makes an access (R79). -/
def countsOn : Instr → Option Path
  | .sld _ _ _ _ _ _ | .kget _ _ | .kgetSet _ _ | .ld _ => some .ld
  | .sst _ _ _ _ _ | .cmo _ _ _ _ | .krev _ _ _ | .kdrop _ _ | .st _ | .stk _ | .red _ | .cacc _ => some .st
  | .satom _ _ _ _ _ _ | .atom _ | .cas _ => some .atm
  | .cpy _ _ _ _ => some .cp
  | _ => none

/-- The engine queues an instruction enters: 0 MX, 1 CP, 2 CL. -/
def entersQueues : Instr → List Nat
  | .mma _ _ _ _ | .mgath _ _ _ _ | .mzero _ _ | .mdrain _ _ _ | .mcommit _ _ => [0]
  | .cpy _ _ _ _ => [1]
  | .coll _ _ _ _ => [2]
  | .qfence q => (List.range 3).filter fun k => q.getLsbD k
  | _ => []

/-- Whether an instruction is an engine command (R280). -/
def isEngine : Instr → Bool
  | .mma _ _ _ _ | .mgath _ _ _ _ | .mzero _ _ | .mdrain _ _ _ | .mcommit _ _ | .mfence _ | .mwait _ _ | .cpy _ _ _ _
  | .coll _ _ _ _ => true
  | _ => false

/-- The scope of the release part that a barrier arrival or an engine command applies before it (R107, R115). -/
def releaseScope : Instr → Option Nat
  | .barArv _ _ _ | .barArw _ _ => some 0
  | .hbarArv _ l | .hbarArw l => some l.toNat
  | i => if isEngine i then some 0 else none

/-- Operations each engine queue holds (R280). -/
def queueRoom (q : Nat) : Nat := if q = 0 then 16 else if q = 1 then 32 else 8

/-! ### Hazards -/

/-- The operations of a thread that have not returned. -/
def outstanding (s : State) (id : Nat) : List Op := (s.ops.filter fun o => o.2.thread == id && !o.2.back).map (·.2)

/-- Scalar registers that outstanding accesses will write, and those of a strand to which the value of a timer is still to come
(R195). A span's come at once: it goes on while the clock of its home die is stopped (R50, R52), and nothing swaps it. -/
def pendingS (s : State) (id : Nat) : List SReg :=
  ((outstanding s id).filterMap fun o => match o.dst with
    | .sreg d _ _ _ => some d
    | _ => none) ++
    match tabFind s.threads id with
    | some t =>
      if t.seat.isNone then []
      else (t.due.filter fun p => dieCc (dieOf s (physDie s t)) s.time < p.2).map fun p => BitVec.ofNat 6 p.1
    | none => []

/-- Lane registers that outstanding accesses will write. -/
def pendingV (s : State) (id : Nat) : List Nat := (outstanding s id).flatMap fun o => dstRegs o.dst

/-- The scalar registers and the predicates that the rest of a block writes: it is read up to its tail, or to an
instruction that faults (R180). -/
def blockWrites (s : State) (t : Thread) : Nat → Nat → List SReg × List Nat
  | 0, _ => ([], [])
  | n + 1, lpc =>
    match fetchLane s t lpc with
    | .instr i _ =>
      match laneShape i with
      | some (sh, _, f) =>
        let r := if bit f.t then ([], []) else blockWrites s t n (lpc + 3)
        match sh.dst with
        | .sreg => (f.dst.setWidth 6 :: r.1, r.2)
        | .pred => (r.1, f.dst.toNat % 8 :: r.2)
        | _ => r
      | none => ([], [])
    | _ => ([], [])

/-- What the queued blocks of a strand will still write. -/
def queuedWrites (s : State) (t : Thread) (st : Seat) : List SReg × List Nat :=
  st.blocks.foldl (fun acc b =>
    let r := blockWrites s t (1024 - b.pos) (blockPc b)
    (r.1 ++ acc.1, r.2 ++ acc.2)) ([], [])

/-- Whether two lists of registers meet. -/
def meets {α : Type} [BEq α] (a b : List α) : Bool := a.any b.contains

/-- Whether a scalar instruction reads one of the registers given; `lx` captures every scalar register (R180). -/
def readsAny (i : Instr) (rs : List SReg) : Bool :=
  match i with
  | .lx _ => !rs.isEmpty
  | _ => meets (scalarReads i) rs

/-- The scoreboard for a scalar instruction: no register it reads or writes, and no predicate it reads, is still to be
written by an outstanding access or a queued block (R180, R227). -/
def scalarHazard (s : State) (id : Nat) (t : Thread) (i : Instr) : Bool :=
  let ps := pendingS s id
  let qw := match t.seat with
    | some st => queuedWrites s t st
    | none => ([], [])
  let all := ps ++ qw.1
  readsAny i all || meets (scalarWrites i) all ||
    match predRead i with
    | some k => qw.2.contains k
    | none => false

/-- Whether an M result now short of a fall row may find one once the writes before it have come (R33). -/
def rowDue (s : State) (id : Nat) (t : Thread) (i : Instr) : Bool :=
  let ms := (t.sregs.filter fun p => isM p.2).map (·.1)
  let coming := pendingS s id ++ match t.seat with
    | some st => (queuedWrites s t st).1
    | none => []
  !(scalarWrites i).isEmpty && (lrecOf s t).fall ≤ ms.length && coming.any fun r => ms.contains r.toNat

/-- Whether an outstanding access may still end in a fault of its stream: a lane has failed, or stands before a parked
line that refuses it, a poisoned line, an empty key slot, or a line whose state is not known (R71, R374, R375, R392). -/
def opMayFault (s : State) (o : Op) : Bool :=
  let hosted := hostAssisted s o.launch 1 (some 1)
  (o.path == .ld || o.path == .atm) && o.lanes.any fun a =>
    match a.phase with
    | .done => false
    | .failed c _ _ _ => c != cLOCATE || hosted
    | _ =>
      lineUnknown s (lineOf a.pa) || slotEmpty s a.pa a.key || (hosted && (locketAt s (lineOf a.pa)).any (opLocates s o))
        || (match coherentLine s (lineOf a.pa) a.key with
          | .poison _ => true
          | .data _ => false)

/-- Whether a scalar stream stands behind an access of its own that may still fault (assumption 60). -/
def behindFault (s : State) (id : Nat) : Bool := (outstanding s id).any fun o => o.block == 0 && opMayFault s o

/-- Whether an instruction makes an access that an acquiring load before it holds back (R105). -/
def makesAccess (i : Instr) : Bool := (countsOn i).isSome || isEngine i

/-- Whether an acquiring load that precedes a lane access of a block has yet to return (R96, R105). -/
def acqLane (s : State) (id : Nat) (b : Block) : Bool :=
  (outstanding s id).any fun o => o.acq && (o.block != 0 || o.seq ≤ b.lxSeq)

/-- Whether an acquiring load that precedes a scalar access has yet to return (R96, R105). -/
def acqScalar (s : State) (id : Nat) (t : Thread) : Bool :=
  (outstanding s id).any fun o => o.acq && (o.block == 0 || o.seq ≤ t.fencedAt)

/-- The places that the requests of an access name, as far as they resolve. -/
def tgtsOf (s : State) (t : Thread) (space : Space) (n : Nat) (qs : List Req) : List (Option Tgt) :=
  qs.map fun q => (resolve s t space q.item q.addr n).toOption

/-- Whether a place is one in scratch. -/
def isScr : Option Tgt → Bool
  | some (.scr _ _) => true
  | _ => false

/-- Whether every request of an access goes to scratch, which uses no counter (R79). -/
def allScratch (ts : List (Option Tgt)) : Bool := ts.all isScr

/-- The places that a lane instruction's access names. -/
def laneTgts (s : State) (t : Thread) (st : Seat) (b : Block) (i : Instr) : Option (List (Option Tgt)) :=
  match laneShape i with
  | some (sh, _, f) =>
    let e := laneEnv s t st b sh f
    let all (space : Space) : Option (List (Option Tgt)) :=
      some (tgtsOf s t space (accessBytes e.ty) (laneReqs e space (fun _ => 0) fun _ => 0))
    match i with
    | .ld _ => all (famOf f)
    | .st _ => all (famOf f)
    | .stk _ => all (famOf f)
    | .atom _ => all 0
    | .red _ => all 0
    | .cas _ => all 0
    | .cacc _ => all 0
    | .prf _ => all 0
    | _ => none
  | none => none

/-- The places that a scalar instruction's access names. -/
def itemTgts (s : State) (t : Thread) (i : Instr) : Option (List (Option Tgt)) :=
  let all (a : SReg) (space : Space) (off : Int) (n : Nat) : Option (List (Option Tgt)) :=
    some (tgtsOf s t space n (itemReqs s t (getS t a) space off (fun _ _ => 0) fun _ _ => 0))
  match i with
  | .sld _ a z _ p o => all a (spaceOf p) (sext 9 o.toNat * (2 ^ z.toNat : Nat)) (2 ^ z.toNat)
  | .sst _ a z p o => all a (spaceOf p) (sext 9 o.toNat * (2 ^ z.toNat : Nat)) (2 ^ z.toNat)
  | .satom _ a _ w _ _ => all a 0 0 (if bit w then 8 else 4)
  | .kget _ a => all a 0 0 1
  | .kgetSet _ a => all a 0 0 1
  | _ => none

/-- Whether one of an access's places waits for its translation. -/
def tgtsWait (s : State) (t : Thread) (write : Bool) (ts : Option (List (Option Tgt))) : Bool :=
  !nothingHeld s && ts.any fun l => l.any fun x => match x with
    | some (.mem va) => xlWaits s (xlUnit t) t.ctx va write
    | _ => false

/-- Whether a path has room for one more operation, or the instruction, by `scratch`, needs none (R79). -/
def pathRoom (s : State) (id : Nat) (i : Instr) (scratch : Bool) : Bool :=
  match countsOn i with
  | some p => inFlight s id p < 63 || scratch
  | none => true

/-- Whether each queue that an instruction enters has room (R280, R309). -/
def engineRoom (s : State) (st : Seat) (i : Instr) : Bool :=
  (entersQueues i).all fun q => (queueOf s st.core q).length < queueRoom q

/-- Whether an access of a region has been handled at its own slice (R130, R132). -/
def handledAtSlice (s : State) (o : Op) (a : LaneAcc) : Bool :=
  laneEnded a || ((match a.phase with
    | .held w _ => w != 0
    | _ => false) && !taggedElsewhere s o.die (lineOf a.pa))

/-- Whether every lane of a region's accesses has been performed; one that failed ends the region first (R128, R135). -/
def regionPerformed (s : State) (rg : Nat) : Bool := s.ops.all fun o => o.2.region != rg || o.2.lanes.all fun a => a.phase == .done

/-- Whether every access of a region satisfies a condition. -/
def regionOps (s : State) (rg : Nat) (p : Op → LaneAcc → Bool) : Bool :=
  s.ops.all fun o => o.2.region != rg || o.2.lanes.all (p o.2)

/-- Whether a range of `n` lines from a virtual address meets a line of which a condition holds. -/
def rangeMeets (s : State) (t : Thread) (p : Nat → Bool) : Nat → Nat → Bool
  | 0, _ => false
  | n + 1, va =>
    xlWaits s (xlUnit t) t.ctx va false || (match translate s (xlUnit t) t.ctx va with
      | .ok x => p (lineOf x.pa)
      | .error _ => false) || rangeMeets s t p n (va + 128)

/-- Whether some slice holds a line pinned, by a live tag or by an engine (R129, R290). -/
def pinnedAny (s : State) (line : Nat) : Bool := (List.range 8).any fun d => pinned s d line

/-- Whether a store to a line is on its way from an L1 or a quad store to its home slice (R100). -/
def nearLine (s : State) (line : Nat) : Bool := s.ops.any fun o => o.2.lanes.any fun a => (nearStamp a).isSome && lineOf a.pa == line

/-- Whether a range instruction may act: it is a write, which a pending release part holds back (R104, R279); the thread's earlier
accesses have been performed, no line of the range is one whose requests the hub holds (R375, R387) or has a store on its way home, and,
with `drops`, none is pinned (R129). -/
def rangeReady (s : State) (id : Nat) (t : Thread) (a b : SReg) (drops : Bool) : Bool :=
  t.rel.isNone && (s.ops.all fun o => o.2.thread != id || o.2.lanes.all laneEnded) &&
    ((nothingHeld s && s.coh.pins.isEmpty && s.ops.all fun o => o.2.lanes.all (nearStamp · |>.isNone)) ||
      match getS t a, getS t b with
      | .u x, .u y => !rangeMeets s t (fun l => lineHeld s l || nearLine s l || (drops && pinnedAny s l))
          (lineSpan (x.toNat / 128 * 128) (x.toNat + y.toNat)) (x.toNat / 128 * 128)
      | _, _ => true)

/-- Whether nothing of a strand is in flight and no block is queued (R215 step 1). -/
def strandQuiet (s : State) (id : Nat) (st : Seat) : Bool :=
  st.blocks.isEmpty && (s.ops.all fun o => o.2.thread != id) && inFlight s id .cp == 0

/-- Whether the span's accesses have returned, for an instruction that splits it now (R23, R185). -/
def splitReady (s : State) (id : Nat) (t : Thread) (i : Instr) : Bool :=
  match t.seat, splitCond i with
  | none, some c =>
    match getC t c with
    | .t ax b _ => !cutsBox t.box ax b || s.ops.all fun o => o.2.thread != id
    | _ => true
  | _, _ => true

/-- Whether the acquire part of an instruction may be applied: every earlier load and atomic has returned, those of the lane
blocks before it among them (R96, R107). -/
def acquireReady (s : State) (id : Nat) (t : Thread) : Bool := lanesDone s id t && acquired s id t

/-- The machine as a launch alone would have it: what of it is resident, and nothing else, nor any place reserved for another. -/
def aloneWith (s : State) (launch : Nat) : State :=
  { s with
    wgs := s.wgs.filter fun w => w.2.launch == launch
    threads := s.threads.filter fun t => t.2.launch == launch
    launches := s.launches.map fun l => if l.1 = launch then l else (l.1, { l.2 with reserved := false }) }

/-- Whether a tile of a launch that waits to be seated goes to a quad, were the launch alone: it is seated before a strand of the
launch arrives at the barrier of that quad, of which its items are members (R25, R272, R332; assumption 59). What other launches hold
now, and a drain, only defer its seating. -/
def seatDue (s : State) (launch quad : Nat) : Bool :=
  s.threads.any fun p => p.2.launch == launch &&
    match p.2.wait with
    | .seating tiles _ => tiles.any fun x =>
        let s1 := aloneWith s launch
        let n := (tileMasks (lrecOf s p.2) p.2.box x.1).length
        (match wgOfTile s launch x.1 with
          | some (_, w) => if slotsFit s1 launch w.core (partNeed s1 w.core n) then some w.core else none
          | none => placeTile s1 launch x.1 n (x.2.2 == 1)).any fun c => c / 4 == quad
    | _ => false

/-- Whether a strand's arrival at a hierarchical barrier waits for a tile to be seated. -/
def arriveReady (s : State) (t : Thread) (l : BitVec 3) : Bool :=
  inRegion t || l != 1 || t.seat.all fun st => !seatDue s t.launch (st.core / 4)

/-- The waits of single instructions before they issue. -/
def ownWait (s : State) (id : Nat) (t : Thread) (i : Instr) : Bool :=
  let live := inRegion t
  match i with
  | .lx _ => t.seat.all fun st => st.blocks.length < 8
  | .fence k _ => lanesDone s id t && (k = 2 || t.rel.isNone)
  | .trapf => lanesDone s id t
  | .srd _ r => if r = 18 ∨ r = 19 then lanesDone s id t else r != 24 || t.rel.isNone
  | .barWt _ _ => live || acquireReady s id t
  | .hbarWt _ _ => live || acquireReady s id t
  | .hbarArv _ l => arriveReady s t l
  | .hbarArw l => arriveReady s t l
  | .wait _ p => p != 3 || acquired s id t
  | .swr r _ => r != 18 || lanesDone s id t
  | .dlaunch _ _ _ => live || (lanesDone s id t && t.rel.isNone)
  | .exit => live || lanesDone s id t
  | .rbeg _ => lanesSure s id
  | .rbegStrict _ => lanesSure s id
  | .unseat => live || t.seat.all (strandQuiet s id)
  | .sjoin _ => live || t.seat.all (strandQuiet s id)
  | .cmo a b l k => live || rangeReady s id t a b (l.toNat ≥ 2 && k ≠ 0)
  | .krev _ a b => rangeReady s id t a b false
  | .kdrop a b => rangeReady s id t a b false
  | .rend => lanesDone s id t && t.rel.isNone && t.seat.all fun st => st.region == 0 || regionPerformed s st.region
  | .rnarLo _ => t.seat.all fun st => st.region == 0 ||
      (regionOps s st.region (handledAtSlice s) && !(s.reg.msgs.any fun m => m.rg == st.region))
  | .rnarHi _ => t.seat.all fun st => st.region == 0 ||
      (regionOps s st.region (handledAtSlice s) && !(s.reg.msgs.any fun m => m.rg == st.region))
  | _ => true

/-- Whether the release part before a barrier arrival or an engine command has completed, with no release pending
(R104, R107, R115); inside a live region the instruction ends the region at once (R128). -/
def releaseReady (s : State) (id : Nat) (t : Thread) (i : Instr) : Bool :=
  match releaseScope i with
  | some scope => inRegion t || (lanesDone s id t && t.rel.isNone && released s id t scope t.seqNo)
  | none => true

/-- Whether the predicate an instruction reads has been written for good (R181). -/
def predReady (s : State) (id : Nat) (i : Instr) : Bool := (predRead i).isNone || lanesSure s id

/-- Whether a scalar instruction may issue, by its operands and its own waits. -/
def scalarGo (s : State) (id : Nat) (t : Thread) (i : Instr) : Bool :=
  !scalarHazard s id t i && !rowDue s id t i && pathRoom s id i ((itemTgts s t i).any allScratch) && !(makesAccess i && acqScalar s id t)
    && !tgtsWait s t (countsOn i != some .ld) (itemTgts s t i) && ownWait s id t i && releaseReady s id t i && predReady s id i
    && splitReady s id t i && (inRegion t || t.seat.all fun st => engineRoom s st i)

/-- Whether a lane instruction reads a register that an outstanding access will write. -/
def laneConsumes (s : State) (id : Nat) (t : Thread) (st : Seat) (b : Block) (i : Instr) : Bool :=
  match laneShape i with
  | none => false
  | some (sh, _, f) => meets (regReads s t st (execMask st b f) sh f) (pendingV s id)

/-- Whether a lane instruction reads a latch whose value is still to come (R177, R316). -/
def latchDue (st : Seat) (sh : LaneShape) (f : LaneFields) : Bool :=
  (readFields sh f).any fun p => isRegSrc p.1 && srcKL p.2 &&
    (st.latches[srcCode p.2 % 4]?).any fun l => l.pend.isSome && !l.broken

/-- The scoreboard for a lane instruction: no register it reads or writes, and no latch it reads, is still to be written by an
outstanding access (R79, R177, R227). -/
def laneHazard (s : State) (id : Nat) (t : Thread) (st : Seat) (b : Block) (i : Instr) : Bool :=
  match laneShape i with
  | none => false
  | some (sh, _, f) =>
    let ex := execMask st b f
    let idx := indexedRegs s t st ex (indexUses sh f)
    let dst (w : Nat) : List Nat :=
      if 248 ≤ f.dst.toNat then [] else if w = 64 then [f.dst.toNat, f.dst.toNat + 1] else [f.dst.toNat]
    let writes := match sh.dst with
      | .reg w => dst w
      | .loadReg w => dst w
      | _ => []
    let sw : List SReg := match sh.dst with
      | .sreg => [f.dst.setWidth 6]
      | _ => []
    laneConsumes s id t st b i || latchDue st sh f || meets (idx ++ writes) (pendingV s id) || meets sw (pendingS s id)

/-- Whether what a lane instruction does as it issues cannot be taken back: it writes a scalar register, which the scalar stream may
read, or scratch (R181). -/
def laneCommits (s : State) (t : Thread) (st : Seat) (b : Block) (i : Instr) : Bool :=
  (match laneShape i with
    | some (sh, _, _) => sh.dst == .sreg
    | none => false) ||
  (countsOn i != some .ld && (laneTgts s t st b i).any fun l => l.any isScr)

/-- Whether a lane instruction may issue. -/
def laneGo (s : State) (id : Nat) (t : Thread) (st : Seat) (b : Block) (i : Instr) : Bool :=
  !laneHazard s id t st b i && pathRoom s id i ((laneTgts s t st b i).any allScratch) && !(makesAccess i && acqLane s id b)
    && !tgtsWait s t (countsOn i != some .ld) (laneTgts s t st b i) && (lanesSure s id || !laneCommits s t st b i)

/-! ### Readiness (R44) -/

/-- Whether a context's instructions may issue at all: it is neither frozen nor saved nor ended (R361). -/
def ctxRuns (s : State) (c : Nat) : Bool := !(ctxOf s c).frozen && (ctxOf s c).fcb.state ≤ 2

/-- Whether the clock of a strand's die runs; a span runs on the hub (R50). -/
def clockRuns (s : State) (t : Thread) : Bool :=
  t.seat.all fun st =>
    let d := dieOf s (st.core / 128)
    !dieStopped d s.time && !d.failed && !d.resetting

/-- Whether the present cycle of a thread's die has begun since it came there (R220). -/
def cycleCome (s : State) (t : Thread) : Bool := decide (t.movedAt ≤ cycleStart (dieOf s (physDie s t)) s.time)

/-- Whether a thread's scalar stream stands at an instruction: it neither waits nor has stopped, and has not retired; the store of
PARAM is complete before the first (R340). -/
def scalarStands (s : State) (t : Thread) : Bool :=
  t.wait == .none && decide ((launchOf s t.launch).startAt ≤ rtNs s) && t.stop.isNone && ctxRuns s t.ctx && clockRuns s t
    && cycleCome s t && t.seat.all fun st => !st.retired

/-- Whether a strand's lane stream stands at an instruction: it has not stopped. Blocks go on after a stop of the scalar
stream, in a region that the stop aborts too (R358). -/
def laneStands (s : State) (t : Thread) : Bool :=
  (t.wait != .abort || abortDrains s t) && ((t.stop.toList ++ t.more).all fun p => p.lpc.isNone) && ctxRuns s t.ctx && clockRuns s t
    && cycleCome s t

/-- Whether a thread's next scalar instruction can issue, its place in the active set apart. -/
def scalarReady (s : State) (id : Nat) (t : Thread) : Bool :=
  scalarStands s t && !behindFault s id &&
    match fetchScalar s t with
    | .instr i _ => scalarGo s id t i
    | .held => false
    | _ => true

/-- Whether a strand's next lane instruction can issue, its place in the active set apart. -/
def laneReady (s : State) (id : Nat) (t : Thread) : Bool :=
  laneStands s t &&
    match t.seat with
    | some st =>
      match st.blocks with
      | b :: _ =>
        match fetchLane s t (blockPc b) with
        | .instr i _ => laneGo s id t st b i
        | .held => false
        -- a fault of the fetch or of the encoding is taken once nothing before it may still fault (R181)
        | _ => lanesSure s id
      | [] => false
    | none => false

/-- Whether a strand is ready (R44); a retired one never is (R210). -/
def strandReady (s : State) (id : Nat) (t : Thread) : Bool :=
  !(t.seat.any (·.retired)) && (scalarReady s id t || laneReady s id t)

/-- Whether a thread may issue now: a strand only from the active set. -/
def mayIssue (t : Thread) : Bool := t.seat.all fun st => st.active

/-! ### The swaps (R44, R45, R46, R317) -/

/-- Whether a wait is a long-latency dependence (R44). -/
def longWait : Wait → Bool
  | .path _ _ => true
  | .mwait _ _ => true
  | .bar _ _ => true
  | .hbar _ _ => true
  | .snooze _ => true
  | .sjoin _ => true
  | .team => true
  | _ => false

/-- Whether an instruction is one that a strand waits in (R44). -/
def waitInstr : Instr → Bool
  | .barArv _ _ _ | .barWt _ _ | .barArw _ _ | .hbarArv _ _ | .hbarWt _ _ | .hbarArw _ | .wait _ _ | .mwait _ _ | .sjoin _ => true
  | _ => false

/-- The instruction in which a thread waits before it takes effect: one that waits, whose operands are there, and whose own conditions
(R107, R115, R215) have yet to be met. -/
def heldIn (s : State) (id : Nat) (t : Thread) : Option Instr :=
  if t.wait == .none && t.stop.isNone then
    match fetchScalar s t with
    | .instr i _ =>
      if waitInstr i && !scalarHazard s id t i && !(ownWait s id t i && releaseReady s id t i) then some i else none
    | _ => none
  else none

/-- Whether a thread's next scalar instruction is about to consume a result that has not returned (R44). -/
def scalarAwaits (s : State) (id : Nat) (t : Thread) : Bool :=
  t.wait == .none && match fetchScalar s t with
    | .instr i _ => readsAny i (pendingS s id)
    | _ => false

/-- Whether a strand's next lane instruction is about to consume a result that has not returned (R44). -/
def laneAwaits (s : State) (id : Nat) (t : Thread) : Bool :=
  t.seat.any fun st => match st.blocks with
    | b :: _ => match fetchLane s t (blockPc b) with
      | .instr i _ => laneConsumes s id t st b i
      | _ => false
    | [] => false

/-- Whether no latch window is open at a strand's lane stream: it has no block, its next instruction begins a segment, or it has
stopped on a fault, with which its latches are kept (R317, R318). -/
def windowShut (t : Thread) (st : Seat) : Bool :=
  ((t.stop.toList ++ t.more).any fun p => p.lpc.isSome) ||
    match st.blocks with
    | [] => true
    | b :: _ => b.pos % 16 == 0

/-- Whether a strand stands at a window boundary (R317): there, or where its lane stream stalls on a long-latency dependence. -/
def atBoundary (s : State) (id : Nat) (t : Thread) (st : Seat) : Bool := windowShut t st || laneAwaits s id t

/-- Whether a strand stalls on a long-latency dependence: it has neither stopped nor been frozen, neither of its streams can
issue, and one waits so; where that is the scalar stream, no latch window is open (R44, R317). -/
def stallsLong (s : State) (id : Nat) (t : Thread) : Bool :=
  !(strandReady s id t) && t.stop.isNone && ctxRuns s t.ctx && clockRuns s t && !(t.seat.any (·.retired)) &&
    (laneAwaits s id t || ((longWait t.wait || scalarAwaits s id t || (heldIn s id t).isSome) && t.seat.all (windowShut t)))

/-- The pending strand of a partition that has been ready longest, if it is ready now (R44, R45). -/
def pendingReady (s : State) (core part : Nat) : Option (Nat × Nat) :=
  match oldestReady s core part with
  | some (p, at0) => if (tabFind s.threads p).any (strandReady s p) then some (p, at0) else none
  | none => none

/-- STALL_SWAP (R45): an active strand stalls on a long-latency dependence and swaps with the oldest ready pending strand
of its partition. -/
def execStallSwap (id : Nat) (s : State) : Out :=
  onThr s "STALL_SWAP" id fun t =>
    match t.seat with
    | some st =>
      match pendingReady s st.core st.part with
      | some (p, _) => if st.active && stallsLong s id t then .next (swapStrands s id p) else notEnabled "STALL_SWAP"
      | none => notEnabled "STALL_SWAP"
    | none => notEnabled "STALL_SWAP"

/-- The active strand of a partition that has been active longest; of several, the lowest thread number (assumption 57). -/
def longestActive (s : State) (core part : Nat) : Option (Nat × Thread × Seat) :=
  ((partStrands s core part).filter fun p => p.2.2.active).foldl (fun (b : Option (Nat × Thread × Seat)) p => match b with
    | none => some p
    | some x => if p.2.2.since < x.2.2.since then some p else some x) none

/-- Whether a partition has made an aging swap in this cycle of its die (R45). -/
def agedNow (s : State) (core part : Nat) : Bool :=
  (partStrands s core part).any fun p => p.2.2.aged == some (coreCc s core)

/-- AGING_SWAP (R45): a ready pending strand has waited 4,096 cycles; it swaps with the strand active longest, at that
strand's window boundary, once in a cycle of the partition. -/
def execAgingSwap (core part : Nat) (s : State) : Out :=
  match pendingReady s core part, longestActive s core part with
  | some (p, at0), some (v, t, st) =>
    if decide (at0 + 4096 ≤ coreCc s core) && atBoundary s v t st && !agedNow s core part then
      .next (modSeat (swapStrands s v p) v fun x => { x with aged := some (coreCc s core) })
    else notEnabled "AGING_SWAP"
  | _, _ => notEnabled "AGING_SWAP"

end Sys2Proof.Machine
end

