-- ==== Sys2Proof/Machine/Launch.lean ====
section
/-!
DEFINITION. Launches and queue entries: reading and checking a launch record (R340, R342 to R344), starting a launch, taking
queue entries (R337 to R339), `dlaunch` (R223), and completion (R338, R341).
-/
namespace Sys2Proof.Machine
open Sys2Proof

/-! ### The launch record (R340) -/

/-- `n` bytes of a record from an offset, as a number. -/
def recAt (b : List Byte) (off n : Nat) : Nat := ofLeBytes ((b.drop off).take n)

/-- Scratch KiB of a carve code. -/
def carveKiB (code : Nat) : Nat :=
  if code = 0 then 0 else if code = 1 then 64 else if code = 2 then 128 else if code = 3 then 256
  else if code = 4 then 384 else 448

/-- The fields of a launch record of 256 bytes. -/
def parseRec (b : List Byte) : LaunchRec :=
  let f (off n : Nat) : Nat := recAt b off n
  let w (off : Nat) : Word := BitVec.ofNat 64 (f off 8)
  let h (off : Nat) : W32 := BitVec.ofNat 32 (f off 4)
  let flags := f 20 4
  let res := f 40 8
  let quota := f 104 8
  { ent := w 0, laneBase := w 8, laneLen := f 16 4, grid := flags.testBit 0, chunked := flags.testBit 1,
    anchorOn := flags.testBit 2, hostFor := BitVec.ofNat 4 (bitsAt flags 8 4),
    ex := f 24 4 + 1, ey := f 28 4 + 1, ez := f 32 4 + 1,
    wx := f 36 2, wy := f 38 2, wz := bitsAt res 0 16, team := bitsAt res 16 4, regs := bitsAt res 20 8,
    fall := bitsAt res 28 4, carve := carveKiB (bitsAt res 32 3), scratch := bitsAt res 48 15 * 16, acc := bitsAt res 35 4,
    shadow := bitsAt res 39 2, windows := (List.range 4).map fun k => (f (48 + 2 * k) 1, f (49 + 2 * k) 1),
    anchor := w 56, asx := h 64, asy := h 68, asz := h 72,
    vd := bitsAt (f 76 4) 0 4, vq := bitsAt (f 76 4) 4 6, vc := bitsAt (f 76 4) 10 3,
    roles := w 80, roleCnt := f 88 4, cranges := w 96, crCnt := bitsAt (f 92 4) 0 4,
    l1q := bitsAt quota 0 8, qsq := bitsAt quota 8 11, l2q := bitsAt quota 19 4,
    pbase := w 112, ps := f 120 4, sbase := w 128, cursor := w 136, compl := w 144, pdest := w 152, plen := f 160 4,
    param := (b.drop 176).take 64 }

/-- Whether a field of the record that must be zero is not (R340). -/
def recMbz (b : List Byte) : Bool :=
  let f (off n : Nat) : Nat := recAt b off n
  bitsAt (f 20 4) 3 5 != 0 || f 20 4 / 2 ^ 12 != 0 || (f 40 8).testBit 63 || bitsAt (f 40 8) 41 7 != 0
    || f 76 4 / 2 ^ 13 != 0 || f 92 4 / 2 ^ 4 != 0 || f 104 8 / 2 ^ 23 != 0 || f 124 4 != 0 || f 164 12 != 0 || f 240 16 != 0

/-! ### Its tables (R343) -/

/-- The lines of a range of virtual addresses: where they lie in memory, with their keys. -/
def hubLines (s : State) (c va n : Nat) : List (Nat × Nat) :=
  if n = 0 then []
  else (List.range ((va + n - 1) / 128 - va / 128 + 1)).filterMap fun k =>
    match hubXl s c (max va ((va / 128 + k) * 128)) false with
    | .ok (pa, key) => some (lineOf pa, key)
    | .error _ => none

/-- The command processor reads `n` bytes as an acquire at `.sys`: their pages are marked accessed (R345), lines of commutative
ranges combine (R90), and each line is read at its slice (R131). -/
def hubAcquire (s : State) (c va n : Nat) : State :=
  (hubLines s c va n).foldl (fun acc l => commitRead (hubReady acc l.1) l.1) (hubTouch s c va n)

/-- The time in ns at which a store of the hub to `n` bytes at a scope is complete (R101). -/
def hubWct (s : State) (c va n scope : Nat) : Nat :=
  (hubLines s c va n).foldl (fun m l => max m (wctOf s scope l.1 (sliceOf s l.1) (sliceOf s l.1) none)) (rtNs s)

/-- The tables a record names are read as it is (R340). -/
def acquireTables (s : State) (c : Nat) (r : LaunchRec) : State :=
  hubAcquire (hubAcquire s c r.roles.toNat (8 * min r.roleCnt (2 ^ 20))) c r.cranges.toNat (16 * min r.crCnt 8)

/-- The role table's entries. -/
def readRoles (s : State) (c : Nat) (r : LaunchRec) : List Role :=
  (List.range r.roleCnt).map fun k =>
    let e := ofLeBytes (hubReadVa s c (r.roles.toNat + 8 * k) 8)
    { role := bitsAt e 0 16, group := bitsAt e 16 16, die := bitsAt e 32 3, quad := bitsAt e 35 5, core := bitsAt e 40 2 }

/-- Whether a role entry's reserved bits are zero. -/
def rolesMbz (s : State) (c : Nat) (r : LaunchRec) : Bool :=
  (List.range r.roleCnt).any fun k => ofLeBytes (hubReadVa s c (r.roles.toNat + 8 * k) 8) / 2 ^ 42 != 0

/-- Whether a role table breaks R324: a core outside the grid, two roles of one core in a group, or a role twice in a
group. -/
def rolesBad (r : LaunchRec) : List Role → Bool
  | [] => false
  | x :: rest =>
    r.vd ≤ x.die || r.vq ≤ x.quad || r.vc ≤ x.core ||
      (rest.any fun y => x.group == y.group &&
        (x.role == y.role || (x.die == y.die && x.quad == y.quad && x.core == y.core))) ||
      rolesBad r rest

/-- The second half of a commutative-range entry. -/
def crangeWord (s : State) (c : Nat) (r : LaunchRec) (k : Nat) : Nat :=
  ofLeBytes (hubReadVa s c (r.cranges.toNat + 16 * k + 8) 8)

/-- The commutative-range entries. -/
def readRanges (s : State) (c : Nat) (r : LaunchRec) : List CRange :=
  (List.range r.crCnt).map fun k =>
    let e := crangeWord s c r k
    { base := ofLeBytes (hubReadVa s c (r.cranges.toNat + 16 * k) 8), len := bitsAt e 0 48, fmt := bitsAt e 48 2,
      op := bitsAt e 50 2 }

/-- Whether commutative ranges break R87 or R343. -/
def rangesBad : List CRange → Bool
  | [] => false
  | x :: rest =>
    x.base % 128 != 0 || x.len % 128 != 0 || x.len == 0 || x.op == 3
      || (rest.any fun y => decide (x.base < y.base + y.len) && decide (y.base < x.base + x.len)) || rangesBad rest

/-! ### The checks (R342) -/

/-- The working compute dies of a context's partition with enough working quads and cores for a grid, lowest first (R31, R322,
R389). -/
def workingDies (s : State) (c : Nat) (r : LaunchRec) : List Nat :=
  (List.range 8).filter fun d =>
    (tabGet 0xFF s.hub.ctxPart c).getLsbD d && !(dieOf s d).failed && !(dieOf s d).resetting && dieReachable s d
      && r.vq ≤ (dieQuads s.boot.badCores d r.vc).length

/-- The checks of R342 in order, each true where the launch fails it. -/
def launchChecks (s : State) (c : Nat) (b : List Byte) : List Bool :=
  let r := parseRec b
  let n := itemCount r
  let s0 := wgStrands r
  [recMbz b || r.ent.toNat % 4 != 0 || r.laneBase.toNat % 4 != 0 || r.sbase.toNat % 524288 != 0 || r.pbase.toNat % 16 != 0
      || r.cursor.toNat % 64 != 0 || r.compl.toNat % 32 != 0 || r.laneLen % 3 != 0,
   2 ^ 48 < n,
   r.wx == 0 || r.wy == 0 || r.wz == 0 || 1024 < r.wx * r.wy * r.wz,
   r.team == 0 || 8 < r.team || s0 % r.team != 0,
   r.regs == 0 || 248 < r.regs || 8 < r.fall || 5 < bitsAt (recAt b 40 8) 32 3 || r.carve * 1024 < r.scratch || 8 < r.acc
      || 2 < r.shadow || r.ps % 16 != 0 || 65536 < r.ps || 64 < r.plen
      || (r.ps != 0 && 2 ^ 57 < r.pbase.toNat + n * r.ps)
      || (r.scratch != 0 && 2 ^ 57 < r.sbase.toNat + tileCount r * 524288),
   r.windows.any fun w => w.2 != 0 && r.regs < w.1 + w.2,
   1024 < wgPerPart r * strandRows r || 16 < wgPerPart r,
   r.vd == 0 || 8 < r.vd || r.vq == 0 || 32 < r.vq || r.vc == 0 || 4 < r.vc || (workingDies s c r).length < r.vd,
   2 ^ 20 < r.roleCnt || 8 < r.crCnt || !(rangeOk s c r.roles.toNat (8 * r.roleCnt) false)
      || !(rangeOk s c r.cranges.toNat (16 * r.crCnt) false) || rolesMbz s c r || rolesBad r (readRoles s c r)
      || ((List.range r.crCnt).any fun k => crangeWord s c r k / 2 ^ 52 != 0) || rangesBad (readRanges s c r),
   r.grid && coreCapacity r * r.vd * r.vq * r.vc < tileCount r,
   !(rangeOk s c r.pdest.toNat r.plen true) || (r.compl != 0 && !(rangeOk s c r.compl.toNat 32 true))]

/-- The position of the first true check, counted from `k`; 0 for none. -/
def firstCheck : Nat → List Bool → Nat
  | _, [] => 0
  | k, b :: rest => if b then k else firstCheck (k + 1) rest

/-- The number of the first check a record fails, 0 when it passes. -/
def launchFails (s : State) (c : Nat) (b : List Byte) : Nat := firstCheck 1 (launchChecks s c b)

/-! ### Starting (R17, R31, R102, R340) -/

/-- A launch of a record that has passed its checks; the virtual dies, quads and cores are mapped onto the lowest working ones of
the context's partition (assumption 20). -/
def newLaunch (s : State) (c : Nat) (b : List Byte) (slot : Option (Nat × Nat)) : Launch :=
  let r := parseRec b
  { ctx := c, lrec := r, roleTab := readRoles s c r, ranges := readRanges s c r, dmap := (workingDies s c r).take r.vd,
    off := s.boot.badCores, retired := [], records := 0, firstFault := 0, hbars := [], status := 0, finished := false, reserved := false,
    slot := slot, wct := 0, startAt := 0 }

/-- Lists a new launch under the next number. -/
def addLaunch (s : State) (l : Launch) : State :=
  { s with launches := tabPut s.launches s.nextId l, nextId := s.nextId + 1 }

/-- The span a launch starts as (R17, R22; assumption 14). -/
def rootThread (s : State) (c la : Nat) : Thread :=
  let l := launchOf s la
  { ctx := c, launch := la, box := wholeBox l.lrec, home := tileDie s l 0, pc := l.lrec.ent, sregs := [], conds := [],
    toks := [], wct := 0, wide := Wct.flat 0, aflags := 0, aenable := 0, pkdem := 0, batch := 0,
    ctxid := BitVec.ofNat 64 (ctxOf s c).ctxid, wait := .none, more := [], stop := none, rel := none, seqAt := 0, seqNo := 0,
    blockNo := 0, resumeAt := none, mark := none, fencedAt := 0, seen := [], dirtyS := 0, due := [], movedAt := s.time, seat := none }

/-- Whether a context holds more at a locket's level than its own quotas allow (R76, R77). -/
def overQuota (s : State) (c : Nat) (k : Locket) : Bool :=
  let x := ctxOf s c
  k.ctx == c && !(withinQuota s (x.l1q, x.qsq, x.l2q) c k.line k.level)

/-- Writes home the most recently parked lines of a context until its quotas hold (R76). -/
def trimQuota (c : Nat) : Nat → State → State
  | 0, s => s
  | n + 1, s =>
    match (s.coh.lockets.filter (overQuota s c)).foldl (fun (b : Option Locket) k => match b with
      | none => some k
      | some x => if x.ord < k.ord then some k else some x) none with
    | some k => trimQuota c n (parkedHome s k.line)
    | none => s

/-- A context under a descriptor (R336); LEASE is clamped. A quota above its stated maximum is taken as written: the spec does not
say what becomes of one (assumption 57). -/
def withDesc (x : Ctx) (d : Nat) : Ctx :=
  { x with
    ctxid := bitsAt d 64 16
    lease := max 64 (min 4096 (bitsAt d 80 13)), l1q := bitsAt d 96 8, qsq := bitsAt d 104 11, l2q := bitsAt d 115 4,
    qtable := BitVec.ofNat 64 (bitsAt d 128 64), desc := none }

/-- Brings a descriptor written since the last launch into force (R336); ROOT took effect when it was written. -/
def applyDesc (s : State) (c : Nat) : State :=
  match (ctxOf s c).desc with
  | some d =>
    let s1 := modCtx s c fun x => withDesc x d.toNat
    trimQuota c s1.coh.lockets.length s1
  | none => s

/-- Starts a launch: PARAM is stored as a release, the first span stands at ENTRY, and a grid-barrier launch's places are reserved
(R340, R344). -/
def startLaunch (s : State) (c la : Nat) : State :=
  let s0 := applyDesc s c
  let r := (launchOf s0 la).lrec
  let s1 := modLaunch s0 la fun l => { l with slot := none, reserved := r.grid, startAt := hubWct s0 c r.pdest.toNat r.plen 3 }
  let s2 := hubWriteVa s1 c r.pdest.toNat (r.param.take r.plen)
  let s3 := modCtx s2 c fun x => { x with latest := la }
  { putThr s3 s3.nextId (rootThread s3 c la) with nextId := s3.nextId + 1 }

/-- Whether every core of a launch's grid has room for its `W` workgroups (R344). -/
def canReserve (s : State) (la : Nat) : Bool :=
  let r := (launchOf s la).lrec
  let w := coreCapacity r
  (List.range r.vd).all fun v =>
    (dieCores (launchOf s la) v).all fun core => coreFits s la core w fun _ => w * wgPerPart r

/-! ### Serving the queues (R338) -/

/-- The launch record that a LAUNCH entry at the head names, when it can be read. -/
def headRec (s : State) (c q : Nat) : Option (List Byte) :=
  let a := headWord s c q 1
  if a % 256 = 0 ∧ rangeOk s c a 256 false then some (hubReadVa (hubAcquire s c a 256) c a 256) else none

/-- The launch that `dlaunch` submitted as the entry at the head. -/
def headChild (s : State) (c q : Nat) : Option Nat :=
  (s.launches.find? fun l => l.2.ctx == c && l.2.slot == some (q, qHead s c q)).map (·.1)

/-- The value of the word that a WAIT entry at the head names, when it can be read. -/
def waitWord (s : State) (c q : Nat) : Option Nat :=
  let a := headWord s c q 1
  if a % 8 = 0 ∧ rangeOk s c a 8 false then some (ofLeBytes (hubReadVa (hubAcquire s c a 8) c a 8)) else none

/-- Whether the entry at the head can start as far as its own kind goes: a WAIT whose condition holds, a grid-barrier launch
whose places can be reserved; an entry that fails can always be taken. -/
def headReady (s : State) (c q : Nat) : Bool :=
  if headBad s c q then true
  else if headKind s c q = 4 then
    match waitWord s c q with
    | some v => decide (headWord s c q 2 ≤ v)
    | none => true
  else if headKind s c q = 1 then
    match headChild s c q, headRec s c q with
    | some la, _ => !(launchOf s la).lrec.grid || canReserve s la
    | none, some b =>
      let s1 := acquireTables s c (parseRec b)
      !(parseRec b).grid || launchFails s1 c b != 0 || canReserve (addLaunch s1 (newLaunch s1 c b none)) s1.nextId
    | none, none => true
  else true

/-- Whether the tables that a launch record names, or its parameters, lie where the hub's accesses wait. -/
def recWaits (s : State) (c : Nat) (r : LaunchRec) : Bool :=
  rangeWaits s c r.roles.toNat (8 * min r.roleCnt (2 ^ 20)) false || rangeWaits s c r.cranges.toNat (16 * min r.crCnt 8) false
    || rangeWaits s c r.pdest.toNat r.plen true || (r.compl != 0 && rangeWaits s c r.compl.toNat 32 true)

/-- Whether what the command processor reads and writes as it takes the head of a queue lies where its accesses wait (R136, R375,
R387). -/
def headWaits (s : State) (c q : Nat) : Bool :=
  let a := headWord s c q 1
  !nothingHeld s &&
    (physWaits s (qAddr s c q) 32 true || physWaits s (qSlot s c q (qHead s c q)) 64 false ||
      (if headKind s c q = 1 then
        match headChild s c q, headRec s c q with
        | some la, _ => rangeWaits s c (launchOf s la).lrec.pdest.toNat (launchOf s la).lrec.plen true
        | none, b => rangeWaits s c a 256 false || b.any fun x => recWaits s c (parseRec x)
      else if headKind s c q = 4 then rangeWaits s c a 8 false
      else rangeWaits s c a (headWord s c q 2) false))

/-- Whether the command processor may take the head of a queue: the host queues are open (R380), it is awake and enabled, its head
is ready and its accesses go now, and a SERIAL entry follows only completed ones (R337, R338). A context that has ended has none
taken. -/
def startable (s : State) (c q : Nat) : Bool :=
  7 ≤ s.boot.stage && (ctxOf s c).woken.contains q && qEn s c q && qHas s c q && headReady s c q && !headWaits s c q
    && !((headWord s c q 0).testBit 8 && !(qRunning s c q).isEmpty)
    && (ctxOf s c).fcb.state != 4 && (ctxOf s c).fcb.state != 5

/-- The startable queues of the package. -/
def startables (s : State) : List (Nat × Nat) :=
  s.ctxs.flatMap fun c => (c.2.woken.filter fun q => startable s c.1 q).map fun q => (c.1, q)

/-- Whether a queue is the one to serve: of the highest priority, and among its context's queues of that priority the
lowest not served since the last turn (R338). -/
def qTurn (s : State) (c q : Nat) : Bool :=
  let same := (startables s).filter fun x => x.1 == c && qPrio s c x.2 == qPrio s c q
  let fresh := same.filter fun x => !((ctxOf s c).served.contains x.2)
  let cands := if fresh.isEmpty then same else fresh
  startable s c q && ((startables s).all fun x => qPrio s x.1 x.2 ≤ qPrio s c q)
    && cands.contains (c, q) && cands.all fun x => q ≤ x.2

/-- Notes that a queue has been served: when every startable queue of its priority has been, a new turn begins. -/
def noteServed (s : State) (c q : Nat) : State :=
  let same := ((startables s).filter fun x => x.1 == c && qPrio s c x.2 == qPrio s c q).map (·.2)
  let old := (ctxOf s c).served
  let kept := if same.all old.contains then old.filter fun x => !(same.contains x) else old
  modCtx s c fun x => { x with served := insertNat kept q }

/-- Takes the head of a queue: HEAD moves on, and a queue that is empty then sleeps until its doorbell rings again. -/
def takeHead (s : State) (c q : Nat) : State :=
  let s1 := noteServed s c q
  let s2 := hubWrite s1 (qAddr s c q + 16) 8 ((qHead s c q + 1) % 2 ^ 64)
  if qHas s2 c q then s2 else modCtx s2 c fun x => { x with woken := x.woken.filter fun k => k != q }

/-- Whether the driver has registered a context (R336). -/
def inTable (s : State) (c : Nat) : Bool := (tabFind s.ctxs c).any fun x => !x.fcbOnly

/-- DOORBELL (R337): a store of a queue number wakes that queue. -/
def execDoorbell (ctx : Nat) (v : BitVec 64) (s : State) : Out :=
  if !(inTable s ctx) then notEnabled "DOORBELL"
  else if 64 ≤ v.toNat then .next s
  else .next (modCtx s ctx fun c => { c with woken := insertNat c.woken v.toNat })

/-- Runs `k` on the head of a queue that is served now and holds an entry of a kind; an entry with a bad field fails (R339).
-/
def onHead (s : State) (name : String) (c q kind : Nat) (k : Out) : Out :=
  if !(inTable s c) || 64 ≤ q then notEnabled name
  else
    needBacked s (qAddr s c q) <|
      needBacked s (qSlot s c q (qHead s c q)) <|
        if !qTurn s c q || headKind s c q != kind then notEnabled name
        else if headBad s c q then .next (qError s c q (kind ||| 128))
        else k

/-- The entry at the head as taken, with the time its write is complete. -/
def headEntry (s : State) (c q launch : Nat) (ready : Bool) (wct : Nat) : Entry :=
  { ctx := c, queue := q, kind := headKind s c q, sigAddr := BitVec.ofNat 64 (headWord s c q 6),
    sigVal := BitVec.ofNat 64 (headWord s c q 7), launch := launch, ready := ready, wct := wct }

/-- Takes the entry at the head, before its effect: the entry and the descriptor are read at their slices (R131). -/
def takeEntry (s : State) (c q launch : Nat) (ready : Bool) (wct : Nat) : State :=
  let s1 := commitRead (commitRead s (lineOf (qAddr s c q))) (lineOf (qSlot s c q (qHead s c q)))
  takeHead { s1 with entries := tabPut s1.entries s1.nextId (headEntry s1 c q launch ready wct), nextId := s1.nextId + 1 } c q

/-- The record of a completion record that cannot be written (R341). -/
def complFault (s : State) (c la : Nat) (compl : Word) : State :=
  let mk (cause sub e lv : Nat) : List Word :=
    [recWord0 (BitVec.ofNat 64 (ctxOf s c).ctxid) 0 0 0 0 false false false true false sub cause, compl, 0, 0, 0, BitVec.ofNat 64 (rtNs s),
     BitVec.ofNat 64 e, BitVec.ofNat 64 lv]
  let words := match walk s c compl.toNat with
    | .bad sub e lv => mk cXLAT sub e lv
    | .leaf e _ _ _ => mk cPROT ((protSub (ctxOf s c).priv e true).getD 0x01) 0 0
  queueRec s c la { words := words, thread := none, eng := none }

/-- The write completion time of a completion record, for the release of its signal (R338, R341). -/
def complWct (s : State) (c : Nat) (compl : Word) : Nat := if compl = 0 then rtNs s else hubWct s c compl.toNat 32 4

/-- Writes a completion record (R341), or sends the fault record when it cannot be written. Where a record is rejected because COMPL
itself is misaligned, which the rules do not say how to report, the record is written at that address all the same (R342; the model's
choice, assumption 48). -/
def writeCompl (s : State) (c la : Nat) (compl : Word) (status cause check items records : Nat) : State :=
  if compl = 0 then s
  else if rangeOk s c compl.toNat 32 true then
    hubWriteVa s c compl.toNat (leBytes 8 (status + cause % 256 * 2 ^ 8 + check % 256 * 2 ^ 16) ++ leBytes 8 (rtNs s)
      ++ leBytes 8 items ++ leBytes 8 records)
  else complFault s c la compl

/-- LAUNCH_ENTRY (R340, R342): the record is read and checked, and the launch starts or is rejected. A head of a reserved
KIND fails here too (R339). -/
def execLaunchEntry (ctx q : Nat) (s : State) : Out :=
  let kind := headKind s ctx q
  if kind = 0 ∨ 4 < kind then
    onHead s "LAUNCH_ENTRY" ctx q kind (.next (qError s ctx q (kind ||| 128)))
  else
    onHead s "LAUNCH_ENTRY" ctx q 1 <|
      match headChild s ctx q, headRec s ctx q with
      | some la, _ => .next (startLaunch (takeEntry s ctx q la false (rtNs s)) ctx la)
      | none, some b =>
        let s1 := acquireTables (hubAcquire s ctx (headWord s ctx q 1) 256) ctx (parseRec b)
        let n := launchFails s1 ctx b
        let compl := (parseRec b).compl
        if n ≠ 0 then .next (writeCompl (takeEntry s1 ctx q 0 true (complWct s1 ctx compl)) ctx 0 compl 1 0 n 0 0)
        else .next (startLaunch (takeEntry (addLaunch s1 (newLaunch s1 ctx b none)) ctx q s1.nextId false (rtNs s)) ctx s1.nextId)
      | none, none => .next (qError s ctx q 0x81)

/-- Acts on the lockets of a range for a queue entry: the state, and whether the range reaches a non-canonical address
(R339). -/
def entryRange (s : State) (c q : Nat) (f : State → Locket → State × Nat) : State × Bool :=
  let base := headWord s c q 1
  let len := headWord s c q 2
  let start := base / 128 * 128
  let r := if len = 0 then (s, 0, none) else lockRange hubUnit c f (lineSpan start (base + len)) start s 0
  (r.1, r.2.2.isSome)

/-- KREV_ENTRY (R339): the descriptor is checked against the grid of the context's latest launch. -/
def execKrevEntry (ctx q : Nat) (s : State) : Out :=
  onHead s "KREV_ENTRY" ctx q 2 <|
    let rsd : Word := BitVec.ofNat 64 (headWord s ctx q 3)
    let la := (ctxOf s ctx).latest
    let k := rsdKind rsd
    let ok := (k == 0 || (la != 0 && 2 ≤ k && k ≤ 4)) && (rsdFault (launchOf s la) rsd 0).isNone
    if !ok then .next (qError s ctx q 0x82)
    else
      let r := entryRange s ctx q (revise la 0 rsd)
      if r.2 then .next (qError r.1 ctx q 0x82) else .next (takeEntry r.1 ctx q 0 true (rtNs s))

/-- KDROP_ENTRY (R339). -/
def execKdropEntry (ctx q : Nat) (s : State) : Out :=
  onHead s "KDROP_ENTRY" ctx q 3 <|
    let r := entryRange s ctx q fun s1 k => (unpark s1 k.line, 0)
    if r.2 then .next (qError r.1 ctx q 0x83) else .next (takeEntry r.1 ctx q 0 true (rtNs s))

/-- WAIT_ENTRY (R338): the word at ARG0 has reached ARG1; an address that cannot be read fails the entry. -/
def execWaitEntry (ctx q : Nat) (s : State) : Out :=
  onHead s "WAIT_ENTRY" ctx q 4 <|
    match waitWord s ctx q with
    | some _ => .next (takeEntry (hubAcquire s ctx (headWord s ctx q 1) 8) ctx q 0 true (rtNs s))
    | none => .next (qError s ctx q 0x84)

/-- QUEUE_ENTRY_COMPLETE (R338): SIGVAL is stored at SIGADDR; an address that cannot be written sets ERR. -/
def execQueueEntryComplete (entry : Nat) (s : State) : Out :=
  match tabFind s.entries entry with
  | some e =>
    if !e.ready || rtNs s < e.wct || (e.sigAddr != 0 && rangeWaits s e.ctx e.sigAddr.toNat 8 true)
        || physWaits s (qAddr s e.ctx e.queue) 32 true then notEnabled "QUEUE_ENTRY_COMPLETE"
    else
      let s1 : State := { s with entries := tabDel s.entries entry }
      if e.sigAddr = 0 then .next s1
      else if e.sigAddr.toNat % 8 = 0 ∧ rangeOk s e.ctx e.sigAddr.toNat 8 true then
        .next (hubWriteVa s1 e.ctx e.sigAddr.toNat (leBytes 8 e.sigVal.toNat))
      else .next (qError s1 e.ctx e.queue (e.kind ||| 0xC0))
  | none => notEnabled "QUEUE_ENTRY_COMPLETE"

/-! ### `dlaunch` (R223) -/

/-- The submission of a launch by a context: its status, and the state after it (R337, R342). -/
def submit (s : State) (c q : Nat) (rec : Word) : State × Nat :=
  if !qDev s c q || !qEn s c q then (s, 3)
  else if qFull s c q then (s, 1)
  else if !(rangeOk s c rec.toNat 256 false) then (s, 2)
  else
    let s0 := hubAcquire s c rec.toNat 256
    let b := hubReadVa s0 c rec.toNat 256
    let sr := acquireTables s0 c (parseRec b)
    if launchFails sr c b ≠ 0 then (sr, 2)
    else
      let i := qTail sr c q
      let s1 := addLaunch sr (newLaunch sr c b (some (q, i)))
      let s2 := hubWriteWords s1 (qSlot s c q i) [1, rec, 0, 0, 0, 0, 0, 0]
      let s3 := hubWrite s2 (qAddr s c q + 24) 8 ((i + 1) % 2 ^ 64)
      (modCtx s3 c fun x => { x with woken := insertNat x.woken q }, 0)

/-- Whether a submission's reads and writes wait (R136, R375, R387). -/
def submitWaits (s : State) (c q : Nat) (rec : Word) : Bool :=
  !nothingHeld s &&
    (physWaits s (qAddr s c q) 32 true || physWaits s (qSlot s c q (qTail s c q)) 64 true || rangeWaits s c rec.toNat 256 false ||
      (rangeOk s c rec.toNat 256 false && recWaits s c (parseRec (hubReadVa s c rec.toNat 256))))

/-- DLAUNCH_STATUS (R223): the release has completed, the launch is submitted and its status written. -/
def execDlaunchStatus (th : Nat) (s : State) : Out :=
  onThr s "DLAUNCH_STATUS" th fun t =>
    match t.wait with
    | .dlaunch d rec q =>
      if t.stop.isNone && released s th t 3 t.seqNo && acquired s th t && !submitWaits s t.ctx q.toNat rec then
        needBacked s (qAddr s t.ctx q.toNat) <|
          let r := submit s t.ctx q.toNat rec
          .next (modThr r.1 th fun t1 => advance { foldRelease (setS t1 d (.u (BitVec.ofNat 64 r.2))) 3 with wait := .none } 4)
      else notEnabled "DLAUNCH_STATUS"
    | _ => notEnabled "DLAUNCH_STATUS"

/-! ### The state of a context (R356) -/

/-- Changes a context's fault control block. -/
def modFcb (s : State) (c : Nat) (f : Fcb → Fcb) : State := modCtx s c fun x => { x with fcb := f x.fcb }

/-- Signals a context's MSI-X vector (R356). -/
def signalMsix (s : State) (c : Nat) : State :=
  { s with hub := { s.hub with msix := s.hub.msix ++ [(ctxOf s c).fcb.msix] } }

/-- Sets bits of a context's ERR and signals the driver. -/
def setErr (s : State) (c : Nat) (bits : BitVec 8) : State :=
  signalMsix (modFcb s c fun f => { f with err := f.err ||| bits }) c

/-- Moves a context to a STATE and signals the driver. -/
def setCtxState (s : State) (c st : Nat) : State := signalMsix (modFcb s c fun f => { f with state := st }) c

/-- The launches of a context that have not completed. -/
def openLaunches (s : State) (c : Nat) : List (Nat × Launch) := s.launches.filter fun l => l.2.ctx == c && !l.2.finished

/-- Writes home every line parked for a context (R76). -/
def homeParked (s : State) (c : Nat) : State :=
  (s.coh.lockets.filter fun k => k.ctx == c).foldl (fun acc k => parkedHome acc k.line) s

/-- A context that is resetting has ended once its launches have completed (R361, R362). -/
def settleReset (s : State) (c : Nat) : State :=
  if (ctxOf s c).fcb.state = 4 ∧ (openLaunches s c).isEmpty then setCtxState s c 5 else s

/-! ### Completion (R341) -/

/-- Whether every write and engine operation of a launch has been performed, and the write completion times have come
(R119, R210, R341). -/
def launchQuiet (s : State) (la : Nat) (l : Launch) : Bool :=
  (s.ops.all fun o => o.2.launch != la) && (s.engq.all fun o => o.2.launch != la || o.2.finished) && l.wct ≤ rtNs s

/-- LAUNCH_COMPLETE (R341): every item has retired, or the context has ended; the completion record is written and the
launch's reserved places are free. -/
def execLaunchComplete (la : Nat) (s : State) : Out :=
  match tabFind s.launches la with
  | some l =>
    let items := (l.retired.map boxVolume).foldl (· + ·) 0
    if l.finished || l.slot.isSome || !launchQuiet s la l || (l.lrec.compl != 0 && rangeWaits s l.ctx l.lrec.compl.toNat 32 true) || (l.status == 0 && liveItems s la != 0)
        || (s.threads.any fun t => t.2.launch == la && !(t.2.seat.any (·.retired))) then notEnabled "LAUNCH_COMPLETE"
    else
      let s1 := writeCompl s l.ctx la l.lrec.compl l.status l.firstFault 0 items l.records
      let s2 := modLaunch s1 la fun x => { x with finished := true, reserved := false }
      let s3 : State := { s2 with entries := s2.entries.map fun e =>
        if e.2.launch = la then (e.1, { e.2 with ready := true, wct := complWct s l.ctx l.lrec.compl }) else e }
      if l.status = 0 then .next s3
      else .next (settleReset (homeParked { s3 with wgs := s3.wgs.filter fun w => w.2.launch != la } l.ctx) l.ctx)
  | none => notEnabled "LAUNCH_COMPLETE"

end Sys2Proof.Machine
end

