-- ==== Sys2Proof/Machine/Faults.lean ====
section
/-!
DEFINITION. The fault ring and RESUME (R356, R357), the end of a context and forced reset (R362), the hang detector's record
(R48, R360), and the pre-emption ladder (R361).
-/
namespace Sys2Proof.Machine
open Sys2Proof

/-! ### The fault control block (R356, R357) -/

/-- Writes bytes at ascending physical addresses. -/
def hubWriteBytes (s : State) (pa : Nat) : List Byte → State
  | [] => s
  | b :: bs => hubWriteBytes (hubWrite s pa 1 b.toNat) (pa + 1) bs

/-- Runs an event on a context. -/
def onCtx (s : State) (name : String) (c : Nat) (k : Ctx → Out) : Out :=
  match tabFind s.ctxs c with
  | some x => k x
  | none => notEnabled name

/-- The state with the fault control block of a context id: the hub keeps one for each, whether or not the context has been
registered (R356). -/
def withFcb (s : State) (c : Nat) : State :=
  if (tabFind s.ctxs c).isSome ∨ 65536 ≤ c then s else { s with ctxs := tabPut s.ctxs c { Ctx.blank with fcbOnly := true } }

/-- An engine operation whose record has entered the ring leaves its queue (R357). -/
def recordWritten (s : State) (r : Rec) : State :=
  match r.eng with
  | some id => match tabFind s.engq id with
    | some o => if o.failing then leaveQueue s id o else s
    | none => s
  | none => s

/-- FAULT_RECORD_WRITE (R357): the oldest waiting record enters the ring, unless the ring is full. -/
def execFaultRecordWrite (ctx : Nat) (s : State) : Out :=
  onCtx s "FAULT_RECORD_WRITE" ctx fun c =>
    match c.recs with
    | r :: rest =>
      let f := c.fcb
      let n := 2 ^ f.fqLog2
      let pa := f.fqBase.toNat + 64 * (f.fqTail.toNat % n)
      if (f.fqTail - f.fqHead).toNat = n ∨ physWaits s pa 64 true = true then notEnabled "FAULT_RECORD_WRITE"
      else
        needBacked s pa <|
          let s1 := modCtx (hubWriteWords s pa r.words) ctx fun x => { x with
            recs := rest
            fcb := { x.fcb with fqTail := x.fcb.fqTail + 1 } }
          .next (recordWritten (signalMsix s1 ctx) r)
    | [] => notEnabled "FAULT_RECORD_WRITE"

/-- FQHEAD (R357): the driver frees places of the ring. -/
def execFqhead (ctx : Nat) (v : BitVec 64) (s : State) : Out :=
  onCtx (withFcb s ctx) "FQHEAD" ctx fun _ => .next (modFcb (withFcb s ctx) ctx fun f => { f with fqHead := v })

/-! ### The end of a context (R357, R362) -/

/-- Aborts every region of a context that is still open. -/
def abortRegions (s : State) (c cause : Nat) (keep : Region → Bool) : State :=
  s.reg.regions.foldl (fun acc r =>
    if ((tabFind s.threads r.2.thread).any fun t => t.ctx == c) && !keep r.2 then startAbort acc r.1 cause 0 0 none
    else acc) s

/-- Ends a context: its strands and spans go, and its open launches are to complete with a status and a cause (R341,
R357). -/
def endThreads (s : State) (c status cause : Nat) : State :=
  let s1 := abortRegions s c causeFault fun _ => false
  let s2 : State := { s1 with
    threads := s1.threads.filter fun t => t.2.ctx != c
    teams := s1.teams.filter fun h => (launchOf s (((tabFind s.wgs h.wg).map (·.launch)).getD 0)).ctx != c
    launches := s1.launches.map fun l =>
      if l.2.ctx = c ∧ l.2.finished = false then
        (l.1, { l.2 with status := status, firstFault := if l.2.firstFault = 0 then cause else l.2.firstFault, slot := none })
      else l }
  forget (homeParked s2 c)

/-- Whether a store of an operation has been performed at its own coherence point and is on its way home (R100). -/
def onWayHome (o : Op) : Bool := o.lanes.any fun a => (nearStamp a).isSome

/-- Whether a forced reset drops an access that has not been performed: left open (R362; assumption 2). -/
def resetDrops (s : State) (op : Nat) (o : Op) : Bool :=
  !kindWrites o.kind || (!onWayHome o && (Config.freeBits s.freeCtr (40000 + op)).getLsbD 0)

/-- A forced context reset (R362). -/
def forceReset (s : State) (c : Nat) : State :=
  let s1 : State := { s with
    ops := s.ops.filter fun o => o.2.ctx != c || (!opPerformed o.2 && !resetDrops s o.1 o.2)
    engq := s.engq.filter fun o => o.2.ctx != c
    coh := { s.coh with pins := s.coh.pins.filter fun p => !(s.engq.any fun o => o.2.ctx == c && o.2.queue == 0 && o.2.core == p.1) }
    batches := s.batches.filter fun b => ((tabFind s.threads b.thread).map (·.ctx)) != some c
    aholds := s.aholds.filter fun h => (launchOf s (((tabFind s.wgs h.wg).map (·.launch)).getD 0)).ctx != c }
  let s2 := endThreads s1 c 3 0
  let s3 : State := { s2 with wgs := s2.wgs.filter fun w => (launchOf s w.2.launch).ctx != c }
  settleReset (setCtxState (modCtx s3 c fun x => { x with frozen := false, preAt := none, claims := [] }) c 4) c

/-- Ends a context on a final fault (R357 action 2), frozen or not: what its engines have under way runs to its end, and an operation
that has been saved goes no further. -/
def endContext (s : State) (c cause : Nat) : State :=
  let s1 := endThreads s c 2 cause
  let s2 : State := { s1 with engq := (s1.engq.filter fun o => !(o.2.ctx == c && decide (1024 ≤ o.2.core))).map fun o =>
    (o.1, if o.2.ctx = c then { o.2 with halted := false } else o.2) }
  setCtxState (modCtx s2 c fun x => { x with frozen := false, preAt := none, claims := [] }) c 5

/-! ### RESUME (R357) -/

/-- The stopped strand that a RESUME names, with its oldest stop: that stop's record has been sent and awaits an action. -/
def namedStrand (s : State) (c bits : Nat) : Option (Nat × Thread × Stop) :=
  firstSome (s.threads.map fun p =>
    match p.2.seat, p.2.stop with
    | some st, some q =>
      if p.2.ctx = c ∧ st.core < 1024 ∧ q.host = true ∧ strandBits s p.2 = bits ∧
          ((ctxOf s c).recs.filter fun r => r.thread == some p.1).length ≤ p.2.more.length then some (p.1, p.2, q)
      else none
    | _, _ => none)

/-- The failed operation that a stop of a thread belongs to issues again: a load in every lane, an atomic where it failed
(R252). -/
def replayOp (s : State) (id : Nat) (p : Stop) : State :=
  (s.ops.filter fun o => o.2.thread == id && o.2.seq == p.seq && o.2.lanes.any hasFailed).foldl
    (fun acc o => reissueOp acc o.1 o.2 fun a => o.2.path == .ld || hasFailed a) s

/-- The oldest stop of a strand is replayed: it is cleared and its failed operation is performed again. -/
def replayStrand (s : State) (id : Nat) (p : Stop) : State := replayOp (modThr s id clearStop) id p

/-- A write to RESUME: a reserved action or a bit that must be zero sets ERR bit 4 (R356, R357). -/
def resume (name : String) (action ctx : Nat) (v : BitVec 64) (s0 : State) (k : State → Nat → Thread → Stop → Out) : Out :=
  let s := withFcb s0 ctx
  onCtx s name ctx fun _ =>
    let w := v.toNat
    if bitsAt w 0 2 = 3 ∨ bitsAt w 2 22 ≠ 0 ∨ w / 2 ^ 48 ≠ 0 then .next (setErr s ctx 0x10)
    else if bitsAt w 0 2 ≠ action then notEnabled name
    else
      match namedStrand s ctx (bitsAt w 24 24) with
      | some (id, t, p) => k s id t p
      | none => .next (setErr s ctx 0x01)

/-- RESUME_REPLAY: action 0, legal only for a replayable record. -/
def execResumeReplay (ctx : Nat) (v : BitVec 64) (s : State) : Out :=
  resume "RESUME_REPLAY" 0 ctx v s fun s id _ p =>
    if p.replay then .next (replayStrand s id p) else .next (setErr s ctx 0x02)

/-- RESUME_CONTINUE: action 1, legal only for a trap. -/
def execResumeContinue (ctx : Nat) (v : BitVec 64) (s : State) : Out :=
  resume "RESUME_CONTINUE" 1 ctx v s fun s id _ p =>
    if p.kind = .trap then .next (modThr s id fun t => { clearStop t with resumeAt := none })
    else .next (setErr s ctx 0x04)

/-- RESUME_END: action 2 ends the context with the record's cause. -/
def execResumeEnd (ctx : Nat) (v : BitVec 64) (s : State) : Out :=
  resume "RESUME_END" 2 ctx v s fun s _ _ p => .next (endContext s ctx p.cause)

/-! ### The hang detector (R48, R360) -/

/-- Member positions of a strand's team that have not issued a held command, as a mask (R360). -/
def teamMissing (s : State) (id : Nat) (t : Thread) (st : Seat) : Nat :=
  let size := (lrecOf s t).team
  let here (k : Nat) : Bool := s.threads.any fun p => p.2.seat.any fun x =>
    x.wg == st.wg && x.six == teamOf s t st * size + k &&
      s.teams.any fun h => h.wg == st.wg && h.team == teamOf s t st && h.waiting.contains p.1
  (List.range size).foldl (fun m k => if here k then m else m + 2 ^ k) 0

/-- Items of a hierarchical barrier's instance that have not arrived. -/
def hbarMissing (s : State) (t : Thread) (lev inst : Nat) : Nat :=
  let h := hbarAt (launchOf s t.launch) lev inst
  ((s.threads.filter fun p => p.2.launch == t.launch && hbarInst s p.2 lev == some inst).map fun p =>
    ((threadBoxes s p.2).flatMap fun b => (boxRest b h.arrived).map boxVolume).foldl (· + ·) 0).foldl (· + ·) 0

/-- The entry of a strand at a barrier word: the items that have yet to arrive, and the scratch alias of the word (R360). -/
def barEntry (s : State) (t : Thread) (st : Seat) (off : Option Nat) : Nat × Nat × Nat × Word :=
  (1, 0, barPend (waitedWord s st off), match off with
    | some o => (lrecOf s t).sbase + BitVec.ofNat 64 (tileOf s st * 524288 + o)
    | none => 0)

/-- The entry of a strand that comes to a barrier word which a register names. -/
def barHeld (s : State) (t : Thread) (a : SReg) : Option (Nat × Nat × Nat × Word) :=
  t.seat.bind fun st =>
    if a = 0 then some (barEntry s t st none)
    else match getS t a with
      | .u off => some (barEntry s t st (some off.toNat))
      | _ => none

/-- The entry of a context at a hierarchical barrier. -/
def hbarHeld (s : State) (t : Thread) (l : BitVec 3) : Option (Nat × Nat × Nat × Word) :=
  let inst := (hbarInst s t l.toNat).getD 0
  some (2, l.toNat, hbarMissing s t l.toNat inst, (hbarAt (launchOf s t.launch) l.toNat inst).gen.setWidth 64)

/-- The entry of a context that waits in an instruction which has yet to take effect (R48, R107, R115, R215). -/
def heldEntry (s : State) (t : Thread) (i : Instr) : Option (Nat × Nat × Nat × Word) :=
  let count (a : SReg) (k : Word → Nat × Nat × Nat × Word) : Option (Nat × Nat × Nat × Word) := match getS t a with
    | .u v => some (k v)
    | _ => none
  match i with
  | .barArv _ a _ => barHeld s t a
  | .barWt a _ => barHeld s t a
  | .barArw a _ => barHeld s t a
  | .hbarArv _ l => hbarHeld s t l
  | .hbarWt _ l => hbarHeld s t l
  | .hbarArw l => hbarHeld s t l
  | .wait a p => count a fun v => (4, p.toNat, 0, v)
  | .mwait _ a => count a fun v => (5, 0, 0, BitVec.ofNat 64 (min v.toNat t.batch.toNat))
  | .sjoin _ => some (6, 0, 0, 0)
  | _ => none

/-- The wait-for graph's entry of a waiting context: KIND, SUB, MISSING and word 1 (R360). -/
def graphEntry (s : State) (id : Nat) (t : Thread) : Option (Nat × Nat × Nat × Word) :=
  match t.stop with
  | some p => if p.replay && t.more.all (·.replay) then some (7, p.cause, 0, p.va) else none
  | none =>
    match t.wait, t.seat with
    | .bar off _, some st => some (barEntry s t st off)
    | .hbar lev g, _ => some (2, lev, hbarMissing s t lev ((hbarInst s t lev).getD 0), g.setWidth 64)
    | .team, some st => some (3, teamMissing s id t st, (setBits 8 (teamMissing s id t st)).length, 0)
    | .path p n, _ =>
      some (4, if p = .ld then 0 else if p = .st then 1 else if p = .atm then 2 else 3, 0, BitVec.ofNat 64 n)
    | .mwait _ upto, _ => some (5, 0, 0, BitVec.ofNat 64 upto)
    | .sjoin _, _ => some (6, 0, 0, 0)
    | .none, _ => (heldIn s id t).bind (heldEntry s t)
    | _, _ => none

/-- The two words of a graph entry (R360). -/
def graphWords (s : State) (id : Nat) (t : Thread) (e : Nat × Nat × Nat × Word) : List Word :=
  let (kind, sub, missing, w1) := e
  let place := match t.seat with
    | some st =>
      let l := launchOf s t.launch
      virtDie l (st.core / 128) % 256 * 2 ^ 16 + virtQuad l (st.core / 4) * 2 ^ 24 + virtCore l st.core * 2 ^ 32
        + st.slot % 64 * 2 ^ 34
    | none => id % 2 ^ 24 * 2 ^ 16 + 2 ^ 43
  [BitVec.ofNat 64 (sub % 256 * 2 ^ 8 + place + kind * 2 ^ 40 + missing % 2 ^ 20 * 2 ^ 44), w1]

/-- Whether the cycles of a context count towards HANG now: every strand and span waits (R48, R359). A strand that has
retired is none of them. -/
def allWait (s : State) (c : Nat) : Bool :=
  let ts := s.threads.filter fun p => p.2.ctx == c && !(p.2.seat.any (·.retired))
  !ts.isEmpty && ts.all fun p => (graphEntry s p.1 p.2).isSome

/-- The waiting contexts of a context, with their entries. -/
def graph (s : State) (c : Nat) : List (List Word) :=
  s.threads.filterMap fun p =>
    if p.2.ctx = c then (graphEntry s p.1 p.2).map (graphWords s p.1 p.2) else none

/-- HANG_DETECTED (R48, R354, R360): the count has reached the threshold; the graph is written and the record sent. In
hardware mode the context ends, in host-assisted mode its count starts again. -/
def execHangDetected (ctx : Nat) (s : State) : Out :=
  onCtx s "HANG_DETECTED" ctx fun c =>
    let thr := s.hub.hangThr.toNat
    if thr = 0 ∨ c.hang / Config.cycleTicks 3 < thr ∨ c.fcb.state ≠ 0 then notEnabled "HANG_DETECTED"
    else
      let es := graph s ctx
      let out := es.take c.fcb.hangLen
      let host := s.hub.fmode.getLsbD 2 || (openLaunches s ctx).any fun l => l.2.lrec.hostFor.getLsbD 2
      let n (x : Nat) : Word := BitVec.ofNat 64 x
      let write : State := if out.isEmpty then s else hubWriteWords s c.fcb.hangBuf.toNat (out.flatMap id)
      let words := [recWord0 (n c.ctxid) 0 0 0 0 false false false false false 0 cHANG, 0, 0, 0, 0, n (rtNs s), n out.length,
        n es.length]
      let s1 := modCtx (queueRec write ctx c.latest { words := words, thread := none, eng := none }) ctx fun x => { x with hang := 0 }
      if physWaits s c.fcb.hangBuf.toNat (16 * out.length) true then notEnabled "HANG_DETECTED"
      else if !out.isEmpty && !backed s c.fcb.hangBuf.toNat then .fault (.unbacked c.fcb.hangBuf.toNat)
      else .next (if host then s1 else endContext s1 ctx cHANG)

/-! ### The ladder (R361) -/

/-- The priority a context runs at: that of its highest open launch. -/
def ctxPrio (s : State) (c : Nat) : Nat := (openLaunches s c).foldl (fun m l => max m (launchPrio s l.1)) 0

/-- The cores a context's workgroups stand on. -/
def ctxCores (s : State) (c : Nat) : List Nat :=
  (s.wgs.filter fun w => (launchOf s w.2.launch).ctx == c && decide (w.2.core < 1024)).map (·.2.core)

/-- What a launch of higher priority wants of a core: the state that lists the launch, its number, how many workgroups are to be
placed and how many strands on each partition. -/
structure Want where
  s      : State
  la     : Nat
  copies : Nat
  need   : Nat → Nat

/-- What queues of a priority above `prio` want of a core: a place for a tile of one of their launches that finds no core, or for
a grid-barrier launch at a head that finds no room (R338, R361). -/
def wantsOn (s : State) (core prio : Nat) : List Want :=
  (s.threads.flatMap fun p =>
    if decide (prio < launchPrio s p.2.launch) && inGrid (launchOf s p.2.launch) core && !seatingWaits s p.2.ctx then
      match p.2.wait with
      | .seating tiles _ => tiles.filterMap fun x =>
          let n := (tileMasks (lrecOf s p.2) p.2.box x.1).length
          if (wgOfTile s p.2.launch x.1).isNone && (placeTile s p.2.launch x.1 n true).isNone then
            some ⟨s, p.2.launch, 1, partNeed s core n⟩
          else none
      | _ => []
    else []) ++
  s.ctxs.flatMap fun c => c.2.woken.filterMap fun q =>
    if qEn s c.1 q && qHas s c.1 q && decide (prio < qPrio s c.1 q) && headKind s c.1 q == 1 && !headReady s c.1 q then
      let w (s1 : State) (la : Nat) : Option Want :=
        let r := (launchOf s1 la).lrec
        if inGrid (launchOf s1 la) core then some ⟨s1, la, coreCapacity r, fun _ => coreCapacity r * wgPerPart r⟩ else none
      match headChild s c.1 q, headRec s c.1 q with
      | some la, _ => w s la
      | none, some b => w (addLaunch s (newLaunch s c.1 b none)) s.nextId
      | none, none => none
    else none

/-- Whether a queue of a priority above `prio` needs a core. -/
def wanted (s : State) (core prio : Nat) : Bool := !(wantsOn s core prio).isEmpty

/-- PREEMPT_START (R361): a queue of higher priority needs a core of the context, which starts to drain. -/
def execPreemptStart (ctx : Nat) (s : State) : Out :=
  onCtx s "PREEMPT_START" ctx fun c =>
    if c.fcb.state = 0 ∧ (ctxCores s ctx).any (fun k => wanted s k (ctxPrio s ctx)) = true then
      .next (setCtxState (modCtx s ctx fun x => { x with preAt := some (rtNs s) }) ctx 1)
    else notEnabled "PREEMPT_START"

/-- PREQ_DRAIN (R361): the driver starts the drain of a running context; it does nothing further down the ladder. -/
def execPreqDrain (ctx : Nat) (s0 : State) : Out :=
  let s := withFcb s0 ctx
  onCtx s "PREQ_DRAIN" ctx fun c =>
    if c.fcb.state = 0 then .next (setCtxState (modCtx s ctx fun x => { x with preAt := some (rtNs s) }) ctx 1)
    else .next s

/-- A region that has answered every freeze commits before its context freezes (R140). -/
def regionCommits (r : Region) : Bool :=
  match r.phase with
  | .freezing [] => true
  | .committing _ => true
  | _ => false

/-- Freezes a context (R361): live regions abort with PREEMPT, and its clocks stop; an engine that is in a chunk goes on to its
end (`engRuns`, R310). -/
def freezeCtx (s : State) (c : Nat) : State :=
  let s1 := abortRegions s c causePreempt regionCommits
  setCtxState (modCtx s1 c fun x => { x with frozen := true, preAt := some (x.preAt.getD (rtNs s)) }) c 2

/-- PREQ_FREEZE (R361). -/
def execPreqFreeze (ctx : Nat) (s0 : State) : Out :=
  let s := withFcb s0 ctx
  onCtx s "PREQ_FREEZE" ctx fun c => if c.fcb.state ≤ 1 then .next (freezeCtx s ctx) else .next s

/-- PREQ_RESET (R361, R362). -/
def execPreqReset (ctx : Nat) (s0 : State) : Out :=
  let s := withFcb s0 ctx
  onCtx s "PREQ_RESET" ctx fun c => if c.fcb.state ≤ 3 then .next (forceReset s ctx) else .next s

/-- DRAIN_COMPLETE (R361): no workgroup of the context is resident, and it saves at once. -/
def execDrainComplete (ctx : Nat) (s : State) : Out :=
  onCtx s "DRAIN_COMPLETE" ctx fun c =>
    if c.fcb.state = 1 ∧ (s.wgs.all fun w => (launchOf s w.2.launch).ctx != ctx) = true then
      .next (setCtxState (modCtx s ctx fun x => { x with frozen := true }) ctx 3)
    else notEnabled "DRAIN_COMPLETE"

/-- Whether a deadline in µs from the start of pre-emption has passed. -/
def deadlinePassed (s : State) (c : Ctx) (us : Nat) : Bool :=
  match c.preAt with
  | some at0 => decide (at0 + us * 1000 ≤ rtNs s)
  | none => false

/-- DRAIN_DEADLINE (R361): a drain that outlasts DRAINDL becomes a freeze; in host-assisted mode the driver is signalled once
(R354). -/
def execDrainDeadline (ctx : Nat) (s : State) : Out :=
  onCtx s "DRAIN_DEADLINE" ctx fun c =>
    if c.fcb.state ≠ 1 ∨ deadlinePassed s c s.hub.drainDl.toNat = false ∨ s.hub.resetDl ≤ s.hub.drainDl then
      notEnabled "DRAIN_DEADLINE"
    else if s.hub.fmode.getLsbD 5 then
      (if c.told = 0 then .next (signalMsix (modCtx s ctx fun x => { x with told := 1 }) ctx) else notEnabled "DRAIN_DEADLINE")
    else .next (freezeCtx s ctx)

/-- RESET_DEADLINE (R361, R362): RESETDL has passed and the context is not saved. -/
def execResetDeadline (ctx : Nat) (s : State) : Out :=
  onCtx s "RESET_DEADLINE" ctx fun c =>
    if (c.fcb.state ≠ 1 ∧ c.fcb.state ≠ 2) ∨ deadlinePassed s c s.hub.resetDl.toNat = false then notEnabled "RESET_DEADLINE"
    else if s.hub.fmode.getLsbD 5 then
      (if c.told ≤ 1 then .next (signalMsix (modCtx s ctx fun x => { x with told := 2 }) ctx) else notEnabled "RESET_DEADLINE")
    else .next (forceReset s ctx)

end Sys2Proof.Machine
end

