-- ==== Sys2Proof/Machine/Image.lean ====
section
/-!
DEFINITION. The images that a context's save area holds (R364): what a scan-out writes and what a resume reads back. The places
of the fields that R364 lists without offsets of their own are the model's choice (assumption 51).
-/
namespace Sys2Proof.Machine
open Sys2Proof

/-! ### Fields -/

/-- Bytes made up with zeros, or cut, to a length. -/
def fieldOf (n : Nat) (b : List Byte) : List Byte := (b ++ leBytes n 0).take n

/-- A word of an image. -/
def imgWord (w : Word) : List Byte := leBytes 8 w.toNat

/-- The form tag, base and strides of a scalar register, in 24 bytes. -/
def imgSVal : SVal → List Byte
  | .u b => leBytes 4 0 ++ leBytes 12 0 ++ imgWord b
  | .a b sx sy sz => leBytes 4 1 ++ leBytes 4 sx.toNat ++ leBytes 4 sy.toNat ++ leBytes 4 sz.toNat ++ imgWord b
  | .m _ => leBytes 4 2 ++ leBytes 20 0

/-- The form and value of a condition register, in 16 bytes. -/
def imgCVal : CVal → List Byte
  | .u b => leBytes 2 0 ++ leBytes 14 (if b then 1 else 0)
  | .t ax t below =>
    let k : Nat := match ax with
      | .x => 0
      | .y => 1
      | .z => 2
    leBytes 2 1 ++ leBytes 1 k ++ leBytes 1 (if below then 1 else 0) ++ leBytes 4 0 ++ leBytes 8 t
  | .m m => leBytes 2 2 ++ leBytes 6 m.toNat ++ leBytes 8 0

/-- The scalar registers of an image or a capture, `size` bytes each. -/
def imgSRegs (size : Nat) (m : Tab SVal) : List Byte := (List.range 64).flatMap fun k => fieldOf size (imgSVal (tabGet (.u 0) m k))

/-- The fall rows: the values of the M registers, in ascending order. -/
def imgRows (m : Tab SVal) : List Byte := fieldOf 2048 <|
  (List.range 64).flatMap fun k => match tabGet (.u 0) m k with
    | .m vs => (List.range 32).flatMap fun L => imgWord (vs.getD L 0)
    | _ => []

/-- The capture of a queued block, in 4,112 bytes. -/
def imgBlock (b : Block) : List Byte := fieldOf 4112 <|
  leBytes 4 (blockPc b) ++ leBytes 4 b.am.toNat ++ imgSRegs 24 b.sregs
    ++ (List.range 8).flatMap (fun k => imgWord (tabGet 0 b.kregs k)) ++ imgRows b.sregs

/-- A token, in 16 bytes. -/
def imgToken (k : Token) : List Byte :=
  let kind : Nat := match k.kind with
    | .join => 0
    | .els => 1
    | .loop => 2
    | .call => 3
  leBytes 8 (k.pc.toNat + kind) ++ leBytes 4 k.mask.toNat ++ leBytes 4 k.exit.toNat

/-- The first 64 bytes of a strand image. -/
def imgHead (t : Thread) (st : Seat) : List Byte :=
  let flags : Nat := match t.stop with
    | some p => 1 + (if p.kind = .trap then 2 else 0) + (if p.replay then 4 else 0)
    | none => 0
  let lpc : Nat := match st.blocks with
    | b :: _ => blockPc b
    | [] => 0xFFFFFFFFFFFFFFFF
  fieldOf 64 <| imgWord t.pc ++ leBytes 8 lpc ++ leBytes 4 st.am.toNat ++ leBytes 4 st.seated.toNat ++ leBytes 2 t.toks.length
    ++ leBytes 1 t.aflags.toNat ++ leBytes 1 t.aenable.toNat ++ leBytes 4 flags ++ imgWord t.wct ++ imgWord t.pkdem ++ imgWord t.batch

/-! ### The image of a strand (R364) -/

/-- The image of a strand. -/
def strandImage (s : State) (t : Thread) (st : Seat) : List Byte :=
  let rec0 := match t.stop with
    | some p => (stopWords s t p).flatMap imgWord
    | none => []
  let lat (k : Nat) : List Byte := (List.range 32).flatMap fun L => imgWord (((st.latches[k]?).map fun x => tabGet 0 x.vals L).getD 0)
  let regs := (List.range 248).filter fun r => st.live.getLsbD r
  imgHead t st ++ fieldOf 64 rec0 ++ imgSRegs 32 t.sregs
    ++ (List.range 7).flatMap (fun k => imgCVal (tabGet (.u false) t.conds k))
    ++ fieldOf 32 ((List.range 7).flatMap fun k => leBytes 4 (tabGet 0 st.preds k).toNat)
    ++ (List.range 8).flatMap (fun k => imgWord (tabGet 0 st.kregs k))
    ++ (List.range 128).flatMap (fun k => leBytes 4 (tabGet 0 st.xregs k).toNat)
    ++ fieldOf 512 (t.toks.reverse.flatMap imgToken)
    ++ (List.range 4).flatMap lat ++ imgRows t.sregs ++ fieldOf 32896 (st.blocks.flatMap imgBlock)
    ++ leBytes 32 st.live.toNat
    ++ regs.flatMap fun r => (List.range 32).flatMap fun L => leBytes 4 (readV s st r L).toNat

/-- The live registers that an image names, lowest first. -/
def imgLive (b : List Byte) : List Nat := setBits 248 (recAt b 0x99D0 32)

/-- The length of the strand image that stands first in some bytes. -/
def imgLen (b : List Byte) : Nat := 0x99F0 + 128 * (imgLive b).length

/-- A word read from an image. -/
def wordAt (b : List Byte) (off : Nat) : Word := BitVec.ofNat 64 (recAt b off 8)

/-- Thirty-two bits read from an image. -/
def halfAt (b : List Byte) (off : Nat) : W32 := BitVec.ofNat 32 (recAt b off 4)

/-- The scalar registers read from an image whose M values stand at `rows`. -/
def readSRegs (b : List Byte) (off size rows : Nat) : Tab SVal :=
  ((List.range' 1 63).foldl (fun (acc : Tab SVal × Nat) k =>
    let at0 := off + size * k
    let tag := recAt b at0 4
    let v : SVal :=
      if tag = 1 then mkA (wordAt b (at0 + 16)) (halfAt b (at0 + 4)) (halfAt b (at0 + 8)) (halfAt b (at0 + 12))
      else if tag = 2 then .m ((List.range 32).map fun L => wordAt b (rows + 256 * acc.2 + 8 * L))
      else .u (wordAt b (at0 + 16))
    (tabSet (.u 0) acc.1 k v, acc.2 + if isM v then 1 else 0)) ([], 0)).1

/-- A condition register read from an image. -/
def readCVal (b : List Byte) (off : Nat) : CVal :=
  let ax : Axis := match recAt b (off + 2) 1 with
    | 0 => .x
    | 1 => .y
    | _ => .z
  if recAt b off 2 = 1 then .t ax (recAt b (off + 8) 8) (recAt b (off + 3) 1 == 1)
  else if recAt b off 2 = 2 then .m (halfAt b (off + 2))
  else .u (recAt b (off + 2) 1 == 1)

/-- A token read from an image. -/
def readToken (b : List Byte) (off : Nat) : Token :=
  let w := recAt b off 8
  let kind : TokKind := match w % 4 with
    | 0 => .join
    | 1 => .els
    | 2 => .loop
    | _ => .call
  { kind := kind, pc := BitVec.ofNat 64 (w / 4 * 4), mask := halfAt b (off + 8), exit := halfAt b (off + 12) }

/-- The pending stop read from an image; the program order number, which no image holds, is the strand's own. -/
def readStop (b : List Byte) (old : Option Stop) : Option Stop :=
  let flags := recAt b 28 4
  let w0 := recAt b 0x40 8
  let lpc := recAt b 0x58 8
  if flags.testBit 0 then
    some { kind := if flags.testBit 1 then .trap else .fault, cause := w0 % 256, sub := bitsAt w0 8 8, host := w0.testBit 18
           replay := flags.testBit 2, write := w0.testBit 17, region := w0.testBit 19, va := wordAt b 0x48, pc := wordAt b 0x50
           lpc := if lpc = 0xFFFFFFFFFFFFFFFF then none else some lpc
           mask := halfAt b 0x60, rt := recAt b 0x68 8, w6 := wordAt b 0x70, w7 := wordAt b 0x78, seq := (old.map (·.seq)).getD 0 }
  else none

/-- A queued block as its capture in an image gives it. -/
def readBlock (b : List Byte) (off : Nat) (x : Block) : Block :=
  { x with lpc := recAt b off 4 - 3 * x.pos, am := halfAt b (off + 4), sregs := readSRegs b (off + 8) 24 (off + 1608)
           kregs := (List.range 8).foldl (fun m k => tabSet 0 m k (wordAt b (off + 1544 + 8 * k))) [] }

/-- A seat that continues from an image (R365). -/
def readSeat (b : List Byte) (st : Seat) : Seat :=
  { st with
    am := halfAt b 16
    seated := halfAt b 20
    preds := (List.range 7).foldl (fun m k => tabSet 0 m k (halfAt b (0x8F0 + 4 * k))) []
    kregs := (List.range 8).foldl (fun m k => tabSet 0 m k (wordAt b (0x910 + 8 * k))) []
    xregs := (List.range 128).foldl (fun m k => tabSet 0 m k (halfAt b (0x950 + 4 * k))) []
    latches := (st.latches.zip (List.range 4)).map fun p => { p.1 with
      vals := (lanesOf p.1.mask).map fun L => (L, wordAt b (0xD50 + 256 * p.2 + 8 * L)) }
    blocks := (st.blocks.zip (List.range 8)).map fun p => readBlock b (0x1950 + 4112 * p.2) p.1
    live := BitVec.ofNat 248 (recAt b 0x99D0 32)
    undos := []
    past := []
    vregs := ((imgLive b).zip (List.range 248)).flatMap fun p => (List.range 32).map fun L =>
      (p.1 * 32 + L, halfAt b (0x99F0 + 128 * p.2 + 4 * L)) }

/-- A strand that continues from an image (R365). -/
def readStrand (b : List Byte) (t : Thread) (st : Seat) : Thread :=
  { t with
    pc := wordAt b 0
    wct := wordAt b 32
    aflags := BitVec.ofNat 6 (recAt b 26 1)
    aenable := BitVec.ofNat 6 (recAt b 27 1)
    pkdem := wordAt b 40
    batch := wordAt b 48
    stop := readStop b t.stop
    sregs := readSRegs b 0x80 32 0x1150
    conds := (List.range 7).foldl (fun m k => tabSet (.u false) m k (readCVal b (0x880 + 16 * k))) []
    toks := ((List.range (min 32 (recAt b 24 2))).map fun k => readToken b (0xB50 + 16 * k)).reverse
    seat := some (readSeat b st) }

/-! ### The image of a workgroup (R364) -/

/-- Bytes of a slot with its tag. -/
def slotLen : Nat := 65544

/-- One slot's elements, 65,536 bytes of them, from its place among an f64 pair's or a single slot's. -/
def imgSlot (f64 : Bool) (half : Nat) (v : Tab Word) (tag : Nat) : List Byte :=
  (if f64 then (List.range 8192).flatMap fun k => imgWord (tabGet 0 v (8192 * half + k))
   else (List.range 16384).flatMap fun k => leBytes 4 (tabGet 0 v k).toNat) ++ leBytes 8 tag

/-- The operation of a workgroup that an engine has begun. -/
def runningOp (s : State) (wg q : Nat) : Option (Nat × EngOp) :=
  s.engq.find? fun o => o.2.wg == wg && o.2.queue == q && o.2.started && !o.2.finished

/-- The image of a workgroup: scratch, barrier word, accumulator and shadow slots with their tags, and three engine cursors. -/
def wgImage (s : State) (id : Nat) (w : Wg) : List Byte :=
  let r := wgRec s w
  (List.range r.scratch).map (fun k => tabGet 0 w.scratch k) ++ imgWord w.word
    ++ (List.range r.acc).flatMap (fun k =>
        if (accSlot w k).f64 then imgSlot true (k % 2) (accSlot w (k / 2 * 2)).vals 1 else imgSlot false 0 (accSlot w k).vals 0)
    ++ (List.range r.shadow).flatMap (fun k => match tabFind w.shadow k with
        | some h => imgSlot false 0 h.vals (h.cond + 1)
        | none => imgSlot false 0 [] 0)
    ++ (List.range 3).flatMap fun q => match runningOp s id q with
        | some o => (cursorWords s o.2 o.2.progress).flatMap imgWord
        | none => leBytes 64 0

/-- The length of a workgroup's image. -/
def wgImageLen (r : LaunchRec) : Nat := r.scratch + 8 + (r.acc + r.shadow) * slotLen + 192

/-- Elements of `n` bytes read from an image, numbered from `k0`; those that are +0 are not listed. -/
def readElems (b : List Byte) (off n k0 count : Nat) : Tab Word :=
  ((List.range count).map fun k => (k0 + k, BitVec.ofNat 64 (recAt b (off + n * k) n))).filter fun p => p.2 != 0

/-- An accumulator slot read from an image whose slots start at `off`. -/
def readAcc (b : List Byte) (off k : Nat) : Slot :=
  if recAt b (off + slotLen * k + 65536) 8 = 1 then
    ⟨true, if k % 2 = 0 then readElems b (off + slotLen * k) 8 0 8192 ++ readElems b (off + slotLen * (k + 1)) 8 8192 8192 else []⟩
  else ⟨false, readElems b (off + slotLen * k) 4 0 16384⟩

/-- A workgroup that continues from an image. -/
def readWg (b : List Byte) (r : LaunchRec) (w : Wg) : Wg :=
  let accs := r.scratch + 8
  let shadows := accs + r.acc * slotLen
  { w with
    scratch := ((List.range r.scratch).map fun k => (k, BitVec.ofNat 8 (recAt b k 1))).filter fun p => p.2 != 0
    word := wordAt b r.scratch
    acc := ((List.range r.acc).map fun k => (k, readAcc b accs k)).filter fun p => p.2 != { f64 := false, vals := [] }
    shadow := (List.range r.shadow).filterMap fun k =>
      let tag := recAt b (shadows + slotLen * k + 65536) 8
      if tag = 0 then none else some (k, ⟨tag - 1, readElems b (shadows + slotLen * k) 4 0 16384⟩) }

/-- An operation that goes on from its cursor (R310); an empty cursor is none. -/
def readCursor (b : List Byte) (off : Nat) (o : EngOp) : EngOp :=
  if recAt b off 8 = 0 then o
  else
    let barw := recAt b (off + 56) 8
    { o with
      progress := recAt b (off + 8) 8
      status := recAt b (off + 4) 1
      opnds := (List.range o.opnds.length).map fun k => wordAt b (off + 16 + 8 * (min k 4))
      cond := match o.instr with
        | .mcommit _ _ => recAt b (off + 16) 1 == 1
        | _ => o.cond
      bar := if barw.testBit 40 then some (barw % 2 ^ 32, BitVec.ofNat 8 (bitsAt barw 32 8)) else none }

/-! ### A context's images -/

/-- The saved strands of a context, in order. -/
def savedStrands (s : State) (c : Nat) : List (Nat × Thread × Seat) :=
  s.threads.filterMap fun p => match p.2.seat with
    | some st => if p.2.ctx = c ∧ savedCore ≤ st.core then some (p.1, p.2, st) else none
    | none => none

/-- The workgroups of a context of which the SRAM or the matrix engine has been scanned out, in order. -/
def savedWgs (s : State) (c : Nat) : List (Nat × Wg) :=
  s.wgs.filter fun w => (w.2.sramOut || w.2.engOut) && (launchOf s w.2.launch).ctx == c

/-- What the save area of a context holds: one image for each saved strand, then one for each saved workgroup (R364). -/
def ctxImages (s : State) (c : Nat) : List Byte :=
  (savedStrands s c).flatMap (fun p => strandImage s p.2.1 p.2.2) ++ (savedWgs s c).flatMap fun w => wgImage s w.1 w.2

/-- Reads the images of strands back, in order: the state, and the bytes behind them. -/
def restoreStrands : List (Nat × Thread × Seat) → List Byte → State → State × List Byte
  | [], b, s => (s, b)
  | (id, t, st) :: rest, b, s => restoreStrands rest (b.drop (imgLen b)) (putThr s id (readStrand (b.take (imgLen b)) t st))

/-- Reads the images of workgroups back, in order, with the cursors of their engines. -/
def restoreWgs : List (Nat × Wg) → List Byte → State → State
  | [], _, s => s
  | (id, w) :: rest, b, s =>
    let r := wgRec s w
    let n := wgImageLen r
    let s1 := modWg s id fun x => readWg (b.take n) r x
    let s2 := (List.range 3).foldl (fun acc q => match runningOp acc id q with
      | some o => modEng acc o.1 (readCursor b (n - 192 + 64 * q))
      | none => acc) s1
    restoreWgs rest (b.drop n) s2

/-- A context's strands and workgroups as its save area gives them (R365). -/
def restoreImages (s : State) (c : Nat) : State :=
  let x := ctxOf s c
  let b : List Byte := (List.range x.saveUsed).map fun k => BitVec.ofNat 8 (hubRead s (x.fcb.saveBase.toNat + k) 1)
  let r := restoreStrands (savedStrands s c) b s
  restoreWgs (savedWgs r.1 c) r.2 r.1

end Sys2Proof.Machine
end

