-- ==== Sys2Proof/Machine/Save.lean ====
section
/-!
DEFINITION. Scan-out of a frozen context's units (R363, R364), and resuming from its save area (R365).
-/
namespace Sys2Proof.Machine
open Sys2Proof

/-! ### Scan-out (R363) -/

/-- The strands of a context on a core. -/
def coreThreads (s : State) (c core : Nat) : List (Nat × Thread × Seat) :=
  s.threads.filterMap fun p => match p.2.seat with
    | some st => if p.2.ctx = c ∧ st.core = core then some (p.1, p.2, st) else none
    | none => none

/-- Whether a context holds part of a unit of a core: 0 to 3 a partition's slots and rows, 4 the SRAM, 5 the matrix engine. -/
def unitHeld (s : State) (c core k : Nat) : Bool :=
  if k < 4 then (coreThreads s c core).any fun p => p.2.2.part == k
  else s.wgs.any fun w => w.2.core == core && (launchOf s w.2.launch).ctx == c && !(if k = 4 then w.2.sramOut else w.2.engOut)

/-- Whether a launch of higher priority needs more of a unit than is free there: the unit is claimed (R363). -/
def unitShort (w : Want) (core k : Nat) : Bool :=
  if k < 4 then !(partFits w.s w.la core k (w.need k))
  else if k = 4 then !(sramFits w.s w.la core w.copies)
  else !(engFits w.s w.la core w.copies)

/-- Whether a context of higher priority claims a unit of a core that a context holds. -/
def claimed (s : State) (c core k : Nat) : Bool :=
  unitHeld s c core k && (wantsOn s core (ctxPrio s c)).any fun w => unitShort w core k

/-- Whether a strand has stopped on the failure of an operation. -/
def stoppedOn (t : Thread) (o : Op) : Bool := (t.stop.toList ++ t.more).any fun p => p.seq == o.seq && o.lanes.any hasFailed

/-- Whether a context's work on a unit has come to rest: its strands' returns have landed and their regions have ended, and no
chunk is under way (R310, R363). -/
def unitQuiet (s : State) (c core k : Nat) : Bool :=
  ((coreThreads s c core).all fun p =>
    (decide (k < 4) && p.2.2.part != k) ||
      (p.2.2.region == 0 && s.ops.all fun o => o.2.thread != p.1 || o.2.back || stoppedOn p.2.1 o.2)) &&
    (decide (k < 4) || s.engq.all fun o => !(o.2.ctx == c && o.2.core == core && o.2.started && !o.2.finished && chunked s o.2)
      || o.2.halted || o.2.failing)

/-- An engine operation of a frozen context, ungated, runs on to the end of a group of 48 K positions, to a byte or to an element,
and writes its cursor (R363 step 2). How far it comes by then is left open (assumption 2). None while it waits for a line. -/
def runOut (s : State) (id : Nat) (o : EngOp) : Option State :=
  let free := (Config.freeBits s.freeCtr (70000 + id)).toNat
  if !o.started || o.finished || o.failing || chunked s o then some s
  else
    match o.instr, mxOf o, collOf o with
    | _, some m, _ =>
      let k1 := o.progress + 48 * (free % ((m.k - o.progress - 1) / 48 + 1))
      if k1 = o.progress ∨ mxFormatBad s o m then some (chunkDone s id o o.progress fun x => x)
      else
        match mxRun s o m o.progress k1 with
        | .error (.wait _) => none
        | .error (.fail st va) => some (finish (dropHold s o.core) id o (badEnding s st va))
        | .ok (s1, (sums, a)) => some (chunkDone s1 id o k1 fun x => { x with partialSum := sums, avals := chunkA o m a })
    | .cpy _ _ _ f, _, _ =>
      let (rows, rb, _, _) := cpyShape f o.opnds
      let c := runCopy s o f (o.progress + free % (rows * rb - o.progress))
      (match c.stop with
        | some (.fail st va, w) => some (finish c.s id o ⟨st, va, (copyDst o f c.n), 0, c.wrote, w⟩)
        | _ => some (chunkDone c.s id o c.n (addWrote c.wrote)))
    | _, _, some cl =>
      if o.status ≠ 0 then some s
      else
        match collWrite s o cl o.progress (o.progress + free % (cl.count - o.progress)) with
        | (s1, _, w, some (.fail st va)) => some (finish s1 id o ⟨st, va, 0, 0, w, true⟩)
        | (s1, n, w, _) => some (chunkDone s1 id o (o.progress + n / collBytes cl.ty) (addWrote w))
    | _, _, _ => some (chunkDone s id o o.progress fun x => x)

/-- Every running operation of a context on a core comes to a cursor. -/
def runOutAll (s : State) (c core : Nat) : Option State :=
  (s.engq.filter fun o => o.2.ctx == c && o.2.core == core).foldl (fun acc o => acc.bind fun s1 => runOut s1 o.1 o.2) (some s)

/-- Whether every part of a workgroup that a core holds has been saved: a part it has none of counts as saved. -/
def wgSaved (s : State) (id : Nat) (w : Wg) : Bool :=
  let r := wgRec s w
  (w.sramOut || r.scratch == 0) && (w.engOut || (r.acc == 0 && r.shadow == 0 && !(s.engq.any fun o => o.2.wg == id && o.2.core == w.core)))
    && !(s.threads.any fun p => p.2.seat.any fun st => st.wg == id && st.core == w.core)

/-- Takes a context's part of a unit off a core. Lines parked in the L1 move to the quad store, or home (R61, R363). -/
def vacateUnit (s : State) (c core k : Nat) : State :=
  let mine (launch : Nat) : Bool := (launchOf s launch).ctx == c
  let out (s1 : State) (f : Wg → Wg) : State :=
    { s1 with wgs := s1.wgs.map fun w => (w.1, if w.2.core = core ∧ mine w.2.launch then f w.2 else w.2) }
  let s2 : State :=
    if k < 4 then
      { s with
        ctxs := (leaveRows s c core k).ctxs
        threads := s.threads.map fun p => (p.1, if p.2.ctx = c then
          { p.2 with seat := p.2.seat.map fun st =>
              if st.core = core ∧ st.part = k then { st with core := savedCore + core, active := false } else st }
          else p.2) }
    else if k = 4 then
      let s1 := (s.coh.lockets.filter fun x => x.level == .l1 core && x.ctx == c).foldl (fun acc x => quadOrHome acc x core) s
      out { s1 with coh := { s1.coh with
        copies := s1.coh.copies.filter fun x => !(x.ctx == c && (match x.place with
          | .l1 n => n == core
          | .stage n _ => n == core
          | .quad _ => false))
        partials := s1.coh.partials.map fun p => if p.core = core ∧ mine p.launch then { p with handed := true } else p } }
        fun w => { w with sramOut := true }
    else
      let gone (o : EngOp) : Bool := o.core == core && o.ctx == c
      out { dropPins s core with
        engq := s.engq.map fun o => (o.1, if gone o.2 then { o.2 with core := savedCore + core } else o.2)
        aholds := s.aholds.filter fun h => !(h.core == core && mine (((tabFind s.wgs h.wg).map (·.launch)).getD 0)) }
        fun w => { w with engOut := true }
  { s2 with wgs := s2.wgs.map fun w => (w.1, if w.2.core = core ∧ mine w.2.launch ∧ wgSaved s2 w.1 w.2 then
      { w.2 with core := savedCore + core, sramOut := true, engOut := true } else w.2) }

/-- Whether a unit that a context holds is still claimed. -/
def stillClaimed (s : State) (c : Nat) : Bool := (ctxCores s c).any fun core => (List.range 6).any (claimed s c core)

/-- SCAN_OUT (R363, R364): a unit of a frozen context that another claims is written to the save area, which then holds the images
of all its strands and workgroups saved so far; without room there ERR bit 3 is set and the unit stays. The context is saved when
no unit of it is claimed any more. `unit` is core·6 + the unit. -/
def execScanOut (ctx unit : Nat) (s : State) : Out :=
  let core := unit / 6
  let k := unit % 6
  onCtx s "SCAN_OUT" ctx fun c =>
    if (c.fcb.state ≠ 2 ∧ c.fcb.state ≠ 3) ∨ c.saveShort = true ∨ 1024 ≤ core ∨ claimed s ctx core k = false ∨
        unitQuiet s ctx core k = false then notEnabled "SCAN_OUT"
    else
      match (if k = 5 then runOutAll s ctx core else some s) with
      | none => notEnabled "SCAN_OUT"
      | some s0 =>
        let s1 := vacateUnit s0 ctx core k
        let image := ctxImages s1 ctx
        if physWaits s c.fcb.saveBase.toNat image.length true then notEnabled "SCAN_OUT"
        else if c.fcb.saveLen.toNat < image.length then
          .next (setErr (modCtx s ctx fun x => { x with saveShort := true }) ctx 0x08)
        else
          needBacked s c.fcb.saveBase.toNat <|
            let s2 := modCtx (hubWriteBytes s1 c.fcb.saveBase.toNat image) ctx fun x => { x with
              claims := unit :: x.claims
              saved := unit :: x.saved
              saveUsed := image.length }
            .next (if c.fcb.state = 2 ∧ stillClaimed s2 ctx = false then setCtxState s2 ctx 3 else s2)

/-- A write of SAVEBASE or SAVELEN (R364): a scan-out that lacked room may be tried again. -/
def writeSave (s : State) (ctx : Nat) (f : Fcb → Fcb) : State :=
  modCtx (withFcb s ctx) ctx fun x => { x with saveShort := false, fcb := f x.fcb }

/-- SAVE_AREA (R364): the driver writes SAVEBASE and SAVELEN. -/
def execSaveArea (ctx : Nat) (base len : BitVec 64) (s : State) : Out :=
  onCtx (withFcb s ctx) "SAVE_AREA" ctx fun _ => .next (writeSave s ctx fun f => { f with saveBase := base, saveLen := len })

/-! ### Resuming (R365) -/

/-- The saved strands of a workgroup. -/
def strandsOut (s : State) (wg : Nat) : List Nat :=
  (s.threads.filter fun p => p.2.seat.any fun st => st.wg == wg && decide (savedCore ≤ st.core)).map (·.1)

/-- Seats a saved strand on a partition of a core, from whose next cycle it issues (R220); an access that it has stopped on goes with
it. A register that is not live holds 0 in a row new to its context (R394), and otherwise no stated value. -/
def reseatStrand (s : State) (c core part id : Nat) : State :=
  let fresh := !((ctxOf s c).rows.contains (core * 4 + part))
  let slot := freeSlot s core part
  let act := decide (activeCount s core part < 8)
  let s1 := modThr s id fun t => { t with
    due := []
    movedAt := s.time
    seat := t.seat.map fun st => { st with
      core := core, part := part, slot := slot, active := act, since := s.time, readyAt := none
      zeroV := (st.zeroV &&& st.live) ||| (if fresh then ~~~st.live else 0) } }
  { s1 with ops := s1.ops.map fun o =>
      (o.1, if o.2.thread = id ∧ o.2.lanes.any hasFailed = true then { o.2 with core := some core, die := core / 128 } else o.2) }

/-- Seats what has been saved of a workgroup on a core: its strands, its scratch, and its engine operations, which take new places
in that core's queues. -/
def reseatWg (s : State) (c wg core : Nat) (w : Wg) : State :=
  let s0 := if w.sramOut then applyCarve (changeOwner s core c) core (wgRec s w).carve else s
  let s1 := modWg s0 wg fun x => { x with core := core, sramOut := false, engOut := false }
  let mine := strandsOut s1 wg
  let s2 := (mine.zip (partsFor s1 core mine.length)).foldl (fun acc p => reseatStrand acc c core p.2 p.1) s1
  (s2.engq.filter fun o => o.2.wg == wg && decide (savedCore ≤ o.2.core)).foldl (fun acc o =>
    { modCtx acc c fun x => { x with recs := x.recs.map fun r => if r.eng = some o.1 then { r with eng := some acc.nextId } else r } with
      engq := tabPut (tabDel acc.engq o.1) acc.nextId
        { o.2 with core := core, started := o.2.started && (o.2.queue == 2 || o.2.failing || o.2.finished), fetched := [], avals := [] }
      nextId := acc.nextId + 1 }) s2

/-- The core that a workgroup's saved parts go to: any that fits a workgroup wholly saved, and its own core, once they fit there
again, for one of which some part never left it. -/
def reseatCore (s : State) (wg : Nat) (w : Wg) : Option Nat :=
  let n := (strandsOut s wg).length
  if savedCore ≤ w.core then
    match placeTile s w.launch w.tile n false with
    | some core => some core
    | none => placeTile s w.launch w.tile n true
  else if slotsFit s w.launch w.core (partNeed s w.core n) && (!w.sramOut || sramFits s w.launch w.core 1)
      && (!w.engOut || engFits s w.launch w.core 1) then some w.core
  else none

/-- Seats saved workgroups in order; none when one finds no core. -/
def reseatAll (c : Nat) : List (Nat × Wg) → State → Option State
  | [], s => some s
  | (k, w) :: rest, s =>
    match reseatCore s k w with
    | some core => reseatAll c rest (reseatWg s c k core w)
    | none => none

/-- A saved strand's pending stops when it resumes, oldest first: a replayable fault issues again, another is delivered again
with a new record (R365). -/
def redeliver (s : State) (id : Nat) : State :=
  match tabFind s.threads id with
  | some t =>
    (t.stop.toList ++ t.more).foldl (fun acc p =>
      if p.replay then replayOp acc id p else haltThr acc id { p with rt := rtNs s })
      (modThr s id fun x => { x with stop := none, more := [] })
  | none => s

/-- CONTEXT_RESUME (R365): a saved or frozen context runs again, once no queue of higher priority needs cores and every saved
part of a workgroup finds one. Strands, workgroups and cursors are read back from the save area. -/
def execContextResume (ctx : Nat) (s : State) : Out :=
  onCtx s "CONTEXT_RESUME" ctx fun c =>
    if (c.fcb.state ≠ 2 ∧ c.fcb.state ≠ 3) ∨ physWaits s c.fcb.saveBase.toNat c.saveUsed false = true then notEnabled "CONTEXT_RESUME"
    else
      let ids := (savedStrands s ctx).map (·.1)
      let s0 := modCtx (restoreImages s ctx) ctx fun x => { x with claims := [], saved := [], saveUsed := 0 }
      let part (w : Nat × Wg) : Bool := (launchOf s w.2.launch).ctx == ctx &&
        (decide (savedCore ≤ w.2.core) || w.2.sramOut || w.2.engOut || !(strandsOut s0 w.1).isEmpty)
      match reseatAll ctx (s0.wgs.filter part) s0 with
      | some s1 =>
        if (ctxCores s1 ctx).any (fun k => wanted s k (ctxPrio s ctx)) then notEnabled "CONTEXT_RESUME"
        else
          let s2 := ids.foldl redeliver s1
          let s3 : State := { s2 with engq := s2.engq.map fun o => (o.1, if o.2.ctx = ctx then { o.2 with halted := false } else o.2) }
          .next (setCtxState (modCtx s3 ctx fun x => { x with frozen := false, preAt := none, told := 0, saveShort := false }) ctx 0)
      | none => notEnabled "CONTEXT_RESUME"

end Sys2Proof.Machine
end

