-- ==== Sys2Proof/Machine/Dies.lean ====
section
/-!
DEFINITION. The directory's messages (R368 to R370), links and replay (R372 to R374), recovery of directory lines (R375),
failed memory dies and packages (R378, R379), and accesses from the host and from other packages (R111, R370).
-/
namespace Sys2Proof.Machine
open Sys2Proof

/-! ### The directory (R368, R369) -/

/-- An access of a die to a line that has not been performed. -/
def pendingAt (s : State) (die line : Nat) (writes : Bool) : Option (Op × LaneAcc) :=
  firstSome (s.ops.map fun p =>
    if p.2.die = die ∧ (writes = false ∨ kindWrites p.2.kind = true) then
      (p.2.lanes.find? fun a => !laneEnded a && lineOf a.pa == line).map fun a => (p.2, a)
    else none)

/-- Whether the directory can serve a request for a line now: its requests are not held, it is neither parked nor owned by another
package, and the links that serve it are up. -/
def dirServes (s : State) (o : Op) (die line : Nat) (write : Bool) : Bool :=
  !lineHeld s line && (locketAt s line).isNone && !remoteOwned s line && linksReady s o.core.isNone die (128 * line) write

/-- Whether another package of the pod can be reached. -/
def pkgAlive (s : State) (pkg : Nat) : Bool :=
  pkg < s.hub.podSize && pkg != s.hub.pix && !(s.hub.deadPkgs.contains pkg) && (tabFind s.hub.silent pkg).isNone

/-- The data of a line of another package: this package's own, where it holds the line, and otherwise the home's, which it does not
know (assumption 2). -/
def remoteData (s : State) (line : Nat) : LineData :=
  match l2Any s line with
  | some l => l.data
  | none => BitVec.ofNat 1024 (ofLeBytes ((List.range 128).map fun k => (Config.freeBits s.freeCtr k).setWidth 8))

/-- A read brings a line of another package into a die as a copy that its home leases until E, and that expires 40 ns before
(R103, R370). How long that lease is, the home says (assumption 2). Another die here that owns the line forwards it (R368). -/
def readRemote (s : State) (die line : Nat) : State :=
  match l2Owner s line with
  | some o => putL2 (setL2St s o.die line .o) { o with die := die, st := .s, excl := none }
  | none =>
    let e := rtNs s + 64 + (Config.freeBits s.freeCtr 128).toNat % 4033
    putL2 s ⟨die, line, (lineHome line), .s, (remoteData s line), 0, none, false, none, (some (e - 40))⟩

/-- Whether a die may take a line into its slice: no other slice holds it for live tags (R132), and there is a way for it (R3). -/
def mayTake (s : State) (die line : Nat) : Bool := (taggedDie s line).all (· == die) && wayMade s die line

/-- Whether a die holds a line, and with it a lease that has not expired where the line is another package's. -/
def holdsNow (s : State) (die line : Nat) : Bool := (l2At s die line).any fun l => l.lease.all (rtNs s < ·)

/-- DIR_READ_REQUEST (R368, R370, R377): a die that does not hold a line it reads is served by memory, or by forward from the
holder; a line of another package comes from its home. -/
def execDirReadRequest (die line : Nat) (s : State) : Out :=
  if lineHome line ≠ 0 then
    if die < 8 ∧ pkgAlive s (lineHome line - 1) = true ∧ holdsNow s die line = false ∧ mayTake s die line = true then
      .next (readRemote (makeWay s die line) die line)
    else notEnabled "DIR_READ_REQUEST"
  else
    match pendingAt s die line false with
    | some (o, a) =>
      if (l2At s die line).isNone && dirServes s o die line false && mayTake s die line then
        .next (fillLine (makeWay (enterSlice s die line) die line) die line a.key o.ctx).1
      else notEnabled "DIR_READ_REQUEST"
    | none => notEnabled "DIR_READ_REQUEST"

/-- DIR_OWNERSHIP_REQUEST (R369): a die that is to write a line takes it in M, and every other holder is invalidated. -/
def execDirOwnershipRequest (die line : Nat) (s : State) : Out :=
  match pendingAt s die line true with
  | some (o, a) =>
    if dirServes s o die line true && mayTake s die line then
      .next (takeOwnership (recallExcl (makeWay (enterSlice s die line) die line) line) die line a.key o.ctx).1
    else notEnabled "DIR_OWNERSHIP_REQUEST"
  | none => notEnabled "DIR_OWNERSHIP_REQUEST"

/-- DIR_EVICTION (R368, R369, R376, R377): a die evicts a line that is not pinned; a dirty one goes to its write-back buffer, and the
event comes again when the write-back reaches its home, which a reset of that home holds up (R387). -/
def execDirEviction (die line : Nat) (s : State) : Out :=
  if lineUnknown s line then notEnabled "DIR_EVICTION"
  else if (wbAt s line).any fun w => w.held.die == die then
    (if heldAtHub s (128 * line) || (isHbm (128 * line) && !(linksBetween s die (homeDie (128 * line))).all (linkUp s)) then
      notEnabled "DIR_EVICTION"
    else .next (landLine s line))
  else if (l2At s die line).isSome && !pinned s die line then .next (dropTag (evictLine s die line) die line)
  else notEnabled "DIR_EVICTION"

/-! ### Other packages (R370) -/

/-- REMOTE_OWNERSHIP (R370): a die takes a line of another package in M, and every other holder here is invalidated; the data that
a lease had brought are then the home's, which may be others by now. -/
def execRemoteOwnership (die line : Nat) (s : State) : Out :=
  if lineHome line = 0 ∨ 8 ≤ die ∨ pkgAlive s (lineHome line - 1) = false ∨ mayTake s die line = false then
    notEnabled "REMOTE_OWNERSHIP"
  else
    let leased : State := { s with coh := { s.coh with l2 := s.coh.l2.filter fun x => !(x.line == line && x.lease.isSome) } }
    let s1 := makeWay { s with coh := { s.coh with l2 := s.coh.l2.filter fun x => x.line != line } } die line
    .next (putL2 s1 ⟨die, line, (lineHome line), .m, (remoteData leased line), 0, none, false, none, none⟩)

/-- HOME_RECALL (R370): a line of this package that another owns comes home, with what has been written there; or the home of a line
that this package owns calls it back, and every die here gives it up. -/
def execHomeRecall (line : Nat) (s : State) : Out :=
  if lineHome line ≠ 0 then
    if (l2Owner s line).isSome ∧ pkgAlive s (lineHome line - 1) = true then
      .next { s with coh := { s.coh with l2 := s.coh.l2.filter fun x => x.line != line } }
    else notEnabled "HOME_RECALL"
  else if s.coh.remote.any fun r => r.line == line && r.owned && pkgAlive s r.pkg then
    (if lineHeld s line then notEnabled "HOME_RECALL" else .next (recallHome s line))
  else notEnabled "HOME_RECALL"

/-- Whether a physical access of `n` bytes may come from an agent outside the package. -/
def outsideOk (s : State) (pa n : Nat) : Bool := (n == 1 || n == 2 || n == 4 || n == 8) && pa % n == 0 && backed s pa

/-- Whether such an access may be served now: the hub does not hold the line's requests (R375, R387), no region that has answered its
freeze has it held (R136), and no other package owns the line (R370). -/
def outsideServed (s : State) (pa n : Nat) (write : Bool) : Bool :=
  let line := lineOf pa
  outsideOk s pa n && !lineHeld s line && !heldByFreeze s (sliceOf s line) line write 0 && !remoteOwned s line

/-- A store from outside the package, performed at the parking point or at the slice (R70, R111, R131). To a failed home it is
discarded and counted (R378); one of the host repairs a poisoned line (R354; assumption 47). -/
def outsideWrite (s : State) (pa n v : Nat) : State :=
  let line := lineOf pa
  if roLine s line ∨ inFailedRange s pa then { s with ras := { s.ras with lostSt := s.ras.lostSt + 1 } }
  else staleTlb (hubWrite { s with mem := { s.mem with poison := s.mem.poison.filter (· != line) } } pa n v) line

/-- HOST_ACCESS (R111): a load of the host is a committed read at the slice, or an LX load of a parked line; a store is
performed there. The line of a commutative range is combined first (R90). An access whose line the hub holds stands among the held
ones, and the event comes again when its turn has come (R375, R387). -/
def execHostAccess (wr : BitVec 1) (addr n : Nat) (v : BitVec 64) (s : State) : Out :=
  let write := bit wr
  let line := lineOf addr
  let who := Holder.host write addr n v
  let me := s.hub.held.find? fun h => h.who == who
  if !outsideOk s addr n then notEnabled "HOST_ACCESS"
  else if lineHeld s line || !heldTurn s who line then
    match me with
    | some _ => notEnabled "HOST_ACCESS"
    | none => .next { s with hub := { s.hub with held := s.hub.held ++ [⟨who, line, heldAtHub s addr, rtNs s, false⟩] } }
  else if !outsideServed s addr n write then notEnabled "HOST_ACCESS"
  else
    let s0 : State := { s with hub := { s.hub with held := me.elim s.hub.held s.hub.held.erase } }
    let s1 := combine s0 line
    .next (if write then outsideWrite s1 addr n v.toNat else commitRead s1 line)

/-- REMOTE_PACKAGE_REQUEST (R370): another package reads a line of this one and gets a leased copy (of a parked line only the
value), or takes ownership of it, unless the line is parked: its parking point keeps it (R76, R111). The length of the lease is
set there (assumption 2). When the request came here, before or behind others that the hub has held, its sender's links say: it is
served at any time that the line is not held. -/
def execRemotePackageRequest (pkg line : Nat) (own : BitVec 1) (s : State) : Out :=
  if pkgAlive s pkg = false ∨ lineHome line ≠ 0 ∨ outsideServed s (128 * line) 8 (bit own) = false then
    notEnabled "REMOTE_PACKAGE_REQUEST"
  else
    let s1 := combine s line
    let hold (x : State) (owned : Bool) (expiry : Nat) : State :=
      { x with coh := { x.coh with
        remote := ⟨pkg, line, lineKey s1 line, owned, expiry⟩ :: x.coh.remote.filter fun r => !(r.line == line && r.pkg == pkg) } }
    if bit own then
      let die := sliceOf s1 line
      let s2 := commitPos (enterSlice s1 die line) die line false true
      match coherentLine s2 line (lineKey s1 line), tagLive (lineTag s2 die line) || (locketAt s1 line).isSome with
      | .data _, false =>
        let s3 := landLine s2 line
        .next (hold { s3 with coh := { s3.coh with l2 := s3.coh.l2.filter fun x => x.line != line } } true 0)
      | _, _ => notEnabled "REMOTE_PACKAGE_REQUEST"
    else if (locketAt s1 line).isSome then .next s1
    else .next (hold (commitRead s1 line) false (rtNs s + 64 + (Config.freeBits s.freeCtr 0).toNat % 4033))

/-! ### Links (R372, R373) -/

/-- Changes a link. -/
def modLink (s : State) (l : Nat) (f : Link → Link) : State :=
  { s with links := tabSet Link.atReset s.links l (f (linkOf s l)) }

/-- FLIT_CRC_FAIL (R372, R373): a flit is replayed. Whether it is the flit whose last replay failed is left open
(assumption 2). -/
def execFlitCrcFail (link : Nat) (s : State) : Out :=
  let l := linkOf s link
  if linkCount ≤ link ∨ linkUp s link = false ∨ 9 ≤ l.fails then notEnabled "FLIT_CRC_FAIL"
  else
    let again := (Config.freeBits s.freeCtr 0).getLsbD 0
    .next (modLink s link fun x => { x with
      fails := if again then x.fails + 1 else 1
      replays := if again && x.fails == 8 then x.replays else x.replays + 1 })

/-- REPLAY_TIMER_EXPIRY (R372): unacknowledged flits are replayed; while a compute die relocks, the timers of its crossing
are suspended. -/
def execReplayTimerExpiry (link : Nat) (s : State) : Out :=
  if linkCount ≤ link ∨ linkUp s link = false ∨ (decide (link < 8) && dieStopped (dieOf s link) s.time) = true then
    notEnabled "REPLAY_TIMER_EXPIRY"
  else .next (modLink s link fun x => { x with replays := x.replays + 1 })

/-- Whether an access at the slice of a die crosses a link when it is served. -/
def crosses (s : State) (link : Nat) (fromHub : Bool) (die pa : Nat) (write : Bool) : Bool :=
  (accessLinks s fromHub die pa write).contains link

/-- Whether a lane's access that has yet to be performed crosses a link when it is served. -/
def laneCrosses (s : State) (link : Nat) (o : Op) (a : LaneAcc) : Bool :=
  !laneEnded a && a.scr.isNone && crosses s link o.core.isNone ((taggedDie s (lineOf a.pa)).getD o.die) a.pa (kindWrites o.kind)

/-- Loses the accesses in flight on a link (R374): a load or value-returning atomic takes POISON; a write is acknowledged with an
error and its line is poisoned in memory. Which of those that cross the link are in flight is left open (R373; assumption 2). -/
def loseOps (s : State) (link : Nat) : State :=
  s.ops.foldl (fun acc p => p.2.lanes.foldl (fun acc1 a =>
    if laneCrosses s link p.2 a && (Config.freeBits s.freeCtr (1 + p.1 * 64 + a.lane)).getLsbD 0 then lanePoison acc1 p.1 p.2 a 0x02
    else acc1) acc) s

/-- Whether an engine's access to an address of memory crosses a link. -/
def engCrosses (s : State) (o : EngOp) (link va : Nat) (write : Bool) : Bool :=
  (engAlias s o va 1).isNone && match engXl s o va write with
    | .ok (_, x) => crosses s link false (engDie o) x.pa write
    | .error _ => false

/-- A copy that has come to a byte and loses the access that reads it, or that writes it, on a link (R306). -/
def loseCopy (s : State) (link : Nat) (o : EngOp) (f : BitVec 4) (n : Nat) (write : Bool) : Option (State × Ending) :=
  let c := runCopy s o f n
  let (_, rb, sp, _) := cpyShape f o.opnds
  let va := if write then copyDst o f c.n else (o.opnds.getD 0 0).toNat + c.n / rb * sp + c.n % rb
  let scratch := if write then f.toNat % 4 == 0 else f.toNat % 4 == 1
  if c.stop.isSome || scratch || !engCrosses s o link va write then none
  else some (c.s, ⟨0x0A, va, (copyDst o f c.n), 0, c.wrote, write⟩)

/-- A drain that has come to a row of memory and loses the access that writes it (R297, R302). -/
def loseDrain (s : State) (link : Nat) (o : EngOp) (d : Nat) (f : BitVec 6) (i : Nat) : Option (State × Ending) :=
  let slot := drainSlot s o d
  let w := (o.opnds.getD 1 0).toNat
  let r := drainRows o (f.toNat % 8) false slot (o.opnds.getD 0 0).toNat w 0 ((drainList o f).take i) s (Wrote.none s)
  match (drainList o f)[i]?, r.2.2 with
  | some (_, some row), none =>
    let va := (o.opnds.getD 0 0).toNat + row * bitsAt w 0 16 * drainWidth (f.toNat % 8) slot.f64 / 8
    if f.getLsbD 4 || !engCrosses s o link va true then none else some (r.1, ⟨0x0A, va, 0, i, r.2.1, true⟩)
  | _, _ => none

/-- An engine operation under way as it loses an access on a link, if it has one there: what it has done before, and its ending. How
far it has come is left open (assumption 2). -/
def loseEngine (s : State) (link id : Nat) (o : EngOp) : Option (State × Ending) :=
  let free := (Config.freeBits s.freeCtr (110000 + id)).toNat
  match o.instr, mxOf o, collOf o with
  | _, some m, _ =>
    let want := aWanted s o m o.progress m.k ++ bSpans m o.progress m.k
    (match want[free % want.length]? with
      | some p => if engCrosses s o link p.1 false then some (s, ⟨0x0A, p.1, 0, 0, (Wrote.none s), false⟩) else none
      | none => none)
  | .mdrain d _ f, _, _ => loseDrain s link o d.toNat f (free % (drainList o f).length)
  | .cpy _ _ _ f, _, _ =>
    let (rows, rb, _, _) := cpyShape f o.opnds
    loseCopy s link o f (o.progress + free / 2 % (rows * rb - o.progress)) (free % 2 == 1)
  | _, _, some c =>
    let r := collWrite s o c o.progress (o.progress + free % (c.count - o.progress))
    let va := c.dst + (o.progress * collBytes c.ty + r.2.1)
    if r.2.2.2.isSome || o.status ≠ 0 || !engCrosses s o link va true then none
    else some (r.1, ⟨0x0A, va, 0, 0, r.2.2.1, true⟩)
  | _, _, _ => none

/-- Engine operations whose accesses were in flight on a link fail with LINK (R374); a matrix operation drops its core's A-hold
buffer (R291). -/
def loseEngines (s : State) (link : Nat) : State :=
  s.engq.foldl (fun acc p =>
    if p.2.started && !p.2.finished && !p.2.failing && (Config.freeBits s.freeCtr (100000 + p.1)).getLsbD 0 then
      match loseEngine acc link p.1 p.2 with
      | some (s1, e) => finish (if p.2.queue = 0 then dropHold s1 p.2.core else s1) p.1 p.2 e
      | none => acc
    else acc) s

/-- The lines that a coherence message may be in flight for on a link: those that the dies across it hold, have parked or have on the
way home; those that accesses across it ask for; and those that another package holds, on a Filuth port. -/
def messageLines (s : State) (link : Nat) : List Nat :=
  let across (die line : Nat) : Bool :=
    (linksToDie s die).contains link || (isHbm (128 * line) && (linksBetween s die (homeDie (128 * line))).contains link)
  let asked := s.ops.flatMap fun p => (p.2.lanes.filter (laneCrosses s link p.2)).map fun a => lineOf a.pa
  ((s.coh.l2.filter fun l => across l.die l.line).map (·.line)
    ++ (s.coh.wbacks.filter fun w => across w.held.die w.held.line).map (·.held.line)
    ++ (s.coh.lockets.filter fun k => (parkDies k.level).any fun d => across d k.line).map (·.line)
    ++ asked ++ if 24 ≤ link then s.coh.remote.map (·.line) else []).eraseDups

/-- Directory lines with a coherence message in flight on a link go to U; which ones is left open (R373; assumption 2). -/
def loseLines (s : State) (link : Nat) : State :=
  let hit (line : Nat) : Bool := (Config.freeBits s.freeCtr (200000 + line)).getLsbD 0 && !lineUnknown s line && lineHome line == 0
  { s with coh := { s.coh with
      ulines := s.coh.ulines ++ ((messageLines s link).filter hit).map fun n => ⟨n, !s.hub.fmode.getLsbD 3, rtNs s⟩ } }

/-- The other packages of the pod go silent when no Filuth port is up (R378). -/
def noteSilent (s : State) : State :=
  if (List.range' 24 24).any (linkUp s) then s
  else
    let add (m : Tab Nat) (p : Nat) : Tab Nat := if p = s.hub.pix ∨ (tabFind m p).isSome then m else tabPut m p (rtNs s)
    { s with hub := { s.hub with silent := (List.range s.hub.podSize).foldl add s.hub.silent } }

/-- LINK_DOWN (R373, R374): eight replays of one flit have failed. -/
def execLinkDown (link : Nat) (s : State) : Out :=
  if linkCount ≤ link ∨ linkUp s link = false ∨ (linkOf s link).fails < 9 then notEnabled "LINK_DOWN"
  else
    let s1 := loseLines (loseEngines (loseOps s link) link) link
    .next (noteSilent (modLink s1 link fun x => { x with down := true, fails := 0, downs := x.downs + 1 }))

/-- LINK_RETRAIN (R373): in hardware mode once recovery has finished, in host-assisted mode when the driver asks; the link
comes back under the revision negotiated at boot. -/
def execLinkRetrain (link : Nat) (s : State) : Out :=
  let l := linkOf s link
  if linkCount ≤ link ∨ l.down = false ∨ l.rev = 0 ∨ (s.hub.fmode.getLsbD 4 = false ∧ s.coh.ulines ≠ []) then
    notEnabled "LINK_RETRAIN"
  else
    let s1 := modLink s link fun x => { x with down := false, fails := 0 }
    .next (if 24 ≤ link then { s1 with hub := { s1.hub with silent := [] } } else s1)

/-! ### Recovery (R375) -/

/-- RECOVER_GO (R375): GO starts the probes of every line in U. -/
def execRecoverGo (v : BitVec 1) (s : State) : Out :=
  if bit v then
    .next { s with coh := { s.coh with
      ulines := s.coh.ulines.map fun u => if u.probing then u else { u with probing := true, since := rtNs s } } }
  else .next s

/-- Whether a die answers probes. -/
def dieAnswers (s : State) (d : Nat) : Bool := (dieOf s d).failed || dieReachable s d

/-- DIR_REBUILD (R375): every die has answered, and the line's entry is what they hold; a holder's state is unchanged. -/
def execDirRebuild (line : Nat) (s : State) : Out :=
  if (s.coh.ulines.any fun u => u.line == line && u.probing) && (List.range 8).all (dieAnswers s) then
    .next { s with coh := { s.coh with ulines := s.coh.ulines.filter fun u => u.line != line } }
  else notEnabled "DIR_REBUILD"

/-- A locket as it stands when a die is gone: a replicated line keeps its other replicas. -/
def locketWithout (die : Nat) (k : Locket) : Option Locket :=
  if !(parkDies k.level).contains die then some k
  else match k.level with
    | .repl m =>
      let m' := m &&& ~~~(BitVec.ofNat 8 (2 ^ die))
      if m' = 0 then none else some { k with level := .repl m' }
    | _ => none

/-- A compute die fails (R375): each line it held M, O or E, or that was on its way home from it, is poisoned in memory, and its copies
are gone. The same becomes of a line that was parked nowhere else, of which the rule does not speak (the model's choice, assumption
52). -/
def failDie (s : State) (die : Nat) : State :=
  let gone := (s.coh.l2.filter fun l => l.die == die && l.st != .s).map (·.line)
    ++ (s.coh.wbacks.filter fun w => w.held.die == die).map (·.held.line)
    ++ (s.coh.lockets.filter fun k => (locketWithout die k).isNone).map (·.line)
  let s1 := gone.foldl poisonLine s
  { s1 with
    dies := tabSet Die.atReset s1.dies die { dieOf s1 die with failed := true }
    coh := { s1.coh with
      l2 := s1.coh.l2.filter fun l => l.die != die
      wbacks := s1.coh.wbacks.filter fun w => w.held.die != die
      lockets := s1.coh.lockets.filterMap (locketWithout die)
      copies := s1.coh.copies.filter fun c => placeDie c.place != die } }

/-- DIE_PROBE_TIMEOUT (R375): a die has not answered a probe within 100 µs. -/
def execDieProbeTimeout (die : Nat) (s : State) : Out :=
  if 8 ≤ die ∨ dieAnswers s die = true ∨
      (s.coh.ulines.any fun u => u.probing && decide (u.since + 100000 ≤ rtNs s)) = false then
    notEnabled "DIE_PROBE_TIMEOUT"
  else .next (failDie s die)

/-! ### Failed homes (R378, R379) -/

/-- One salvage entry after its 128 bytes of data (R379): address, KEY, die and flags. -/
def salvageEntry (l : L2Line) (parked : Bool) : List Byte :=
  leBytes 8 (128 * l.line) ++ leBytes 2 l.key
    ++ [BitVec.ofNat 8 l.die, BitVec.ofNat 8 ((if parked then 1 else 0) + (if l.home = 0 then 0 else 2))] ++ leBytes 116 0

/-- Salvages a line, when the region is enabled and has room (R378, R379): the data are stored under the key of the line. -/
def salvage (s : State) (l : L2Line) (parked : Bool) : State :=
  if !s.hub.salvEn then s
  else if s.hub.salvCap.toNat ≤ s.hub.salvUsed.toNat ∨
      isTier2 (s.hub.salvBase.toNat + 256 * s.hub.salvUsed.toNat) = false then { s with hub := { s.hub with salvOvf := true } }
  else
    let base := s.hub.salvBase.toNat + 256 * s.hub.salvUsed.toNat
    let s1 := hubWriteBytes (hubStore s (some l.key) base 128 l.data.toNat) (base + 128) (salvageEntry l parked)
    { s1 with
      hub := { s1.hub with salvUsed := s1.hub.salvUsed + 1 }
      ras := { s1.ras with salv := s1.ras.salv + 1 } }

/-- The lines of a range that L2s hold M or O, that are on their way home, or that are parked, as L2 lines, each with whether it was
parked. -/
def rangeHeld (s : State) (inRange : L2Line → Bool) : List (L2Line × Bool) :=
  ((s.coh.l2.filter fun l => inRange l && (l.st == .m || l.st == .o)).map fun l => (l, false))
    ++ ((s.coh.wbacks.map (·.held)).filter inRange).map (fun l => (l, false))
    ++ ((s.coh.lockets.map unparked).filter inRange).map fun l => (l, true)

/-- A report to the RAS log. -/
def rasReport (s : State) (r : RasReport) : State := { s with ras := { s.ras with log := s.ras.log ++ [r] } }

/-- A range whose home has failed (R378, R379): dirty and parked lines are reported and salvaged and stay as read-only copies, but
for those that an eviction had on the way; clean copies are dropped; and USED is logged once the salvage has finished. -/
def failRange (s : State) (inRange : L2Line → Bool) : State :=
  let held := rangeHeld s inRange
  let s1 := held.foldl (fun acc x => salvage (rasReport acc (.held x.1.line x.1.die)) x.1 x.2) s
  let s2 := if s.hub.salvEn then rasReport s1 (.salvaged s1.hub.salvUsed.toNat) else s1
  let gone (line home : Nat) : Bool := inRange { L2Line.mk0 0 line .s 0 0 none with home := home }
  let kept := held.filter fun x => !(s.coh.wbacks.any fun w => w.held == x.1)
  { s2 with coh := { s2.coh with
      lockets := s2.coh.lockets.filter fun k => !gone k.line 0
      copies := s2.coh.copies.filter fun c => !gone c.line (lineHome c.line)
      wbacks := s2.coh.wbacks.filter fun w => !inRange w.held
      l2 := kept.map (fun x => { x.1 with ro := true, excl := none }) ++ s2.coh.l2.filter fun l => !inRange l } }

/-- Declares a memory die failed (R378). -/
def failMemory (s : State) (m : Nat) : State :=
  let md := mdieOf s m
  let s1 := failRange s fun l => l.home == 0 && isHbm (128 * l.line) && homeDie (128 * l.line) == m
  { s1 with mdies := tabSet MDie.atReset s1.mdies m { md with failed := true } }

/-- MEMORY_DIE_FAILED (R378): both its links are down, or its controllers report a failed stack. -/
def execMemoryDieFailed (m : Nat) (s : State) : Out :=
  if 8 ≤ m ∨ (mdieOf s m).failed = true then notEnabled "MEMORY_DIE_FAILED" else .next (failMemory s m)

/-- REMOTE_PACKAGE_TIMEOUT (R378): no Filuth port has reached a package for 1 ms. -/
def execRemotePackageTimeout (pkg : Nat) (s : State) : Out :=
  match tabFind s.hub.silent pkg with
  | some at0 =>
    if at0 + 1000000 ≤ rtNs s && !(s.hub.deadPkgs.contains pkg) then
      let s1 := failRange s fun l => l.home == pkg + 1
      .next { s1 with hub := { s1.hub with deadPkgs := insertNat s1.hub.deadPkgs pkg } }
    else notEnabled "REMOTE_PACKAGE_TIMEOUT"
  | none => notEnabled "REMOTE_PACKAGE_TIMEOUT"

/-- RASFAIL (R397): the driver declares a memory die failed; a value of 8 or above is ignored. -/
def execRasfail (v : BitVec 64) (s : State) : Out :=
  if 8 ≤ v.toNat ∨ (mdieOf s v.toNat).failed = true then .next s else .next (failMemory s v.toNat)

/-- SALVCTL (R379): CAP and EN are written, a 1 clears OVF, and setting EN clears USED. -/
def execSalvctl (v : BitVec 64) (s : State) : Out :=
  .next { s with hub := { s.hub with
    salvCap := v.extractLsb' 2 30
    salvOvf := s.hub.salvOvf && !v.getLsbD 1
    salvEn := v.getLsbD 0
    salvUsed := if v.getLsbD 0 then 0 else s.hub.salvUsed } }

end Sys2Proof.Machine
end

