-- ==== Sys2Proof/Machine/Boot.lean ====
section
/-!
DEFINITION. The boot chain (R380 to R384), partition reset (R385 to R387), P-state changes (R50, R395, R396), keys (R392,
R393), attestation (R398), and writes to registers with no behaviour of their own (R11, R336, R349, R354 to R356, R389).
-/
namespace Sys2Proof.Machine
open Sys2Proof

/-! ### P-states (R50, R395, R396) -/

/-- Changes a die. -/
def modDie (s : State) (d : Nat) (f : Die → Die) : State := { s with dies := tabSet Die.atReset s.dies d (f (dieOf s d)) }

/-- The first boundary of a die's own cycles at or after a time. -/
def boundary (d : Die) (t : Nat) : Nat :=
  let c := Config.cycleTicks d.cur
  d.stepAt + (t - d.stepAt + c - 1) / c * c

/-- A die as a write of a target P-state finds it and leaves it (R395, R396): while it relocks the request is held, and the last one
wins; one that equals the P-state in force has no effect; another stops its clock at the first boundary after it arrives, no later than
200 ns. One that comes while an earlier one is on its way takes its place, if it arrives in time. When requests arrive is left open
(assumption 2). A die in reset takes none: its image sets the target as it starts. -/
def writeTarget (s : State) (d : Die) (v : BitVec 2) : Die :=
  let free := (Config.freeBits s.freeCtr 0).toNat
  if dieStopped d s.time || d.resetting then { d with target := v }
  else if v = d.cur then d
  else
    match d.stopped with
    | some _ => { d with target := v, next := if free % 2 = 0 then v else d.next }
    | none => stopClock { d with target := v } (boundary d (s.time + free % (200 * Config.ticksPerNs - 284))) v

/-- DIEPS_TARGET (R395, R396). -/
def execDiepsTarget (die : Nat) (v : BitVec 2) (s : State) : Out :=
  if 8 ≤ die then notEnabled "DIEPS_TARGET" else .next (modDie s die fun d => writeTarget s d v)

/-- RELOCK_END (R50 step 3, R396): the die has restarted 3.0 µs after it stopped, and relocks again if its target has
changed. Its counters read so from that time on, whenever this is noted. -/
def execRelockEnd (die : Nat) (s : State) : Out :=
  match (dieRaw s die).stopped with
  | some (at0, _, _) =>
    if at0 + gapTicks ≤ s.time then .next { s with dies := tabSet Die.atReset s.dies die (restart (dieRaw s die)) }
    else notEnabled "RELOCK_END"
  | none => notEnabled "RELOCK_END"

/-! ### The boot chain (R380, R381) -/

/-- Changes the boot chain. -/
def modBoot (s : State) (f : Boot → Boot) : State := { s with boot := f s.boot }

/-- POWER_ON (R380): the hub and Umush leave reset, and stage 1 begins. -/
def execPowerOn (s : State) : Out :=
  if s.boot.powered then notEnabled "POWER_ON" else .next (modBoot s fun b => { b with powered := true, stage := 1 })

/-- The target code of a unit's image (assumption 23): the unit's own number. -/
def unitTarget (unit : Nat) : Nat := unit

/-- The failure of an image under R381: 1 signature, 2 rollback, 3 wrong target; 0 when it is accepted. -/
def imageFails (b : Boot) (unit : Nat) (i : Image) : Nat :=
  if !(b.fuses.any fun f => f.1 == i.keyHash && !f.2) || !(Config.signatureVerifies i.bytes i.sig i.keyHash) then 1
  else if i.version.toNat < b.rollback.toNat then 2
  else if i.target ≠ unitTarget unit then 3
  else 0

/-- The image that is there for a unit: the one offered last, or else the one verified before. -/
def imageFor (b : Boot) (unit : Nat) : Option Image :=
  match b.offered.find? fun i => i.unit == unit with
  | some i => some i
  | none => b.accepted.find? fun i => i.unit == unit

/-- The verified image of a unit. -/
def imageOf (b : Boot) (unit : Nat) : Option Image := b.accepted.find? fun i => i.unit == unit

/-- FAILCODE and FAILDIE keep the first failure (R384). -/
def noteFailure (b : Boot) (code unit : Nat) : Boot := if b.failCode = 0 then { b with failCode := code, failDie := unit } else b

/-- Boot stops at a failure and Umush waits for a recovery image (R381, R384). -/
def bootStops (b : Boot) (code unit : Nat) : Boot := { noteFailure b code unit with waiting := some unit }

/-- Accepts the images of units in order, up to the first that is missing or fails (R380 stages 2 and 3, R381). -/
def acceptUnits : List Nat → Boot → Boot × Bool
  | [], b => (b, true)
  | u :: rest, b =>
    match imageFor b u with
    | none => (bootStops b 7 u, false)
    | some i =>
      if imageFails b u i ≠ 0 then (bootStops b (imageFails b u i) u, false)
      else acceptUnits rest { b with accepted := i :: b.accepted.filter fun x => x.unit != u }

/-- The revision masks of the two ends of a link (R382, R383): what the verified images state for that interface, and for the far end
of a Filuth port what it advertises. -/
def linkMasks (b : Boot) (link : Nat) : BitVec 16 × BitVec 16 :=
  let m (u : Nat) (f : Image → BitVec 16) : BitVec 16 := ((imageOf b u).map f).getD 0
  if link < 16 then (m 16 (·.revDie), m link (·.revDie))
  else if link < 24 then (m (link - 16) (·.revSide), m (link - 8) (·.revSide))
  else (m 16 (·.revPort), tabGet 0 b.portRevs link)

/-- The highest revision in both masks, plus one; 0 when there is none (R383). -/
def commonRev (m : BitVec 16 × BitVec 16) : Nat :=
  (List.range 16).foldl (fun acc k => if m.1.getLsbD k && m.2.getLsbD k then k + 1 else acc) 0

/-- The unit a link's failure is reported for. -/
def linkUnit (link : Nat) : Nat := if link < 16 then link else if link < 24 then link - 16 else 16

/-- Trains one link (R383). A Filuth port with nothing at its far end stays down, and that is no failure. -/
def trainLink (s : State) (link : Nat) : State :=
  let rev := commonRev (linkMasks s.boot link)
  let down := modLink s link fun l => { l with down := true, rev := 0 }
  if decide (24 ≤ link) && (tabFind s.boot.portRevs link).isNone then down
  else if s.boot.badLinks.contains link then modBoot down fun b => noteFailure b 5 (linkUnit link)
  else if rev = 0 then modBoot down fun b => noteFailure b 4 (linkUnit link)
  else modLink s link fun l => { l with down := false, rev := rev, fails := 0 }

/-- CLINK: the compute dies whose hub link is up (R384). -/
def clinkNow (s : State) : BitVec 8 :=
  BitVec.ofNat 8 ((List.range 8).foldl (fun m d => if linkUp s d then m + 2 ^ d else m) 0)

/-- Trains the stacks of a memory die, which leaves its windows disabled and its engines without keys; where a stack fails, the die is
treated as failed (R378, R384). -/
def trainStacks (s : State) (m : Nat) : State :=
  let ok := !(s.boot.badStacks.contains (2 * m) || s.boot.badStacks.contains (2 * m + 1))
  let s0 := if ok then s else failMemory s m
  let md : MDie := { windows := [], trained := ok, failed := !ok, keysIn := false }
  let s1 : State := { s0 with mdies := tabSet MDie.atReset s0.mdies m md }
  modBoot s1 fun b =>
    let b1 := if ok then b else noteFailure b 6 (8 + m)
    { b1 with mTrain := if ok then b1.mTrain ||| BitVec.ofNat 8 (2 ^ m) else b1.mTrain &&& ~~~(BitVec.ofNat 8 (2 ^ m)) }

/-- The hub loads its keys into the engines of the memory dies that have none (R384). -/
def keysToDies (s : State) : State :=
  { s with mdies := s.mdies.map fun p => (p.1, if p.2.trained = true then ({ p.2 with keysIn := true } : MDie) else p.2) }

/-- A compute die leaves reset with its image: its counters start from zero (R49, R380), and the image sets its P-state
(assumption 7). -/
def startDie (s : State) (d : Nat) : State :=
  let up : Die := { Die.atReset with resetting := false, stepAt := s.time, relocks := (dieOf s d).relocks }
  { s with dies := tabSet Die.atReset s.dies d up }

/-- Loads a new key into a slot (R392, R393). -/
def loadKey (s : State) (k : Nat) : State := { s with keys := tabPut s.keys k (s.keyGen + 1), keyGen := s.keyGen + 1 }

/-- Every on-chip store of the package zeroed (R380 stage 6). -/
def zeroStores (s : State) : State :=
  { s with coh := State.reset.coh }

/-- The action of the current boot stage; the next stage begins if it succeeds. -/
def bootAct (s : State) : State :=
  let b := s.boot
  let go (s1 : State) : State := modBoot s1 fun x => { x with stage := x.stage + 1 }
  if b.stage = 1 then
    if b.badLinks.contains (if b.viaCxl then 49 else 48) ∨ (imageFor b 17).isNone = true then modBoot s fun x => bootStops x 7 17
    else go s
  else if b.stage = 2 then
    match acceptUnits [17] b with
    | (b1, true) =>
      let raise := (imageFor b 17).any fun i => i.commit && b1.rollback.toNat < i.version.toNat
      let v := ((imageFor b 17).map fun i => i.version.toNat).getD 0
      go { s with boot := if raise then { b1 with rollback := BitVec.ofNat 8 (min 255 v) } else b1 }
    | (b1, false) => { s with boot := b1 }
  else if b.stage = 3 then
    match acceptUnits (16 :: List.range 16) b with
    | (b1, true) => go ((List.range 8).foldl startDie { s with boot := b1 })
    | (b1, false) => { s with boot := b1 }
  else if b.stage = 4 then go ((List.range 24).foldl trainLink s)
  else if b.stage = 5 then go ((List.range 8).foldl trainStacks (loadKey s 0))
  else go (zeroStores ((List.range' 24 24).foldl trainLink (keysToDies s)))

/-- BOOT_STAGE (R380): the current stage runs. -/
def execBootStage (s : State) : Out :=
  if !s.boot.powered || s.boot.waiting.isSome || s.boot.stage == 0 || 7 ≤ s.boot.stage then notEnabled "BOOT_STAGE" else .next (bootAct s)

/-- RECOVERY_IMAGE (R381): image `k` of those offered arrives over Ethernet for the unit that failed; when it passes, boot goes
on with it. Umush waits on for another when it does not. -/
def execRecoveryImage (k : Nat) (s : State) : Out :=
  match s.boot.offered[k]? with
  | some i =>
    if s.boot.waiting != some i.unit then notEnabled "RECOVERY_IMAGE"
    else if imageFails s.boot i.unit i ≠ 0 then .next s
    else
        .next (modBoot s fun b => { b with
          waiting := none
          badLinks := b.badLinks.filter fun l => l < 48
          offered := i :: b.offered.filter fun x => x.unit != i.unit })
  | none => notEnabled "RECOVERY_IMAGE"

/-! ### Partition reset (R385 to R387) -/

/-- The contexts that work on dies of a mask and have neither been ended nor saved (R385). -/
def ctxsOn (s : State) (mask : BitVec 8) : List Nat :=
  (s.ctxs.map (·.1)).filter fun c =>
    (ctxOf s c).fcb.state < 3 && (openLaunches s c).any fun l => l.2.dmap.any fun d => mask.getLsbD d

/-- What the dies of a mask still have to do for contexts that have ended (R362, R386 step 1): a store that has been performed at its
own coherence point goes home, and nothing else that has not been performed is. -/
def finishOps (s : State) (mask : BitVec 8) : State :=
  let mine (o : Op) : Bool := mask.getLsbD o.die
  let home (acc : State) (a : LaneAcc) : State :=
    if (nearStamp a).isSome then staleTlb (hubStore acc (some a.key) a.pa a.n a.val.toNat) (lineOf a.pa) else acc
  let s1 := (s.ops.filter fun p => mine p.2).foldl (fun acc p => p.2.lanes.foldl home acc) s
  { s1 with ops := s1.ops.filter fun p => !mine p.2 }

/-- A locket of another die once the dies of a mask are gone from its set (R386 step 3); none is left when its set is empty. -/
def locketKept (s : State) (mask : BitVec 8) (k : Locket) : Option Locket :=
  (setWithout (launchOf s k.launch) k.rset mask).map fun set => { k with rset := set }

/-- Steps 2 to 4 of R386 for the dies of a mask: their dirty and parked lines go home, the directory and the lockets forget them, their
stores are zeroed, and the dies go into reset. -/
def resetDies (s : State) (mask : BitVec 8) : State :=
  let on (d : Nat) : Bool := mask.getLsbD d
  let s1 := (s.coh.lockets.filter fun k => levelOn mask k.level || (locketKept s mask k).isNone).foldl (fun acc k => parkedHome acc k.line) s
  let s2 := (s1.coh.l2.filter fun l => on l.die).foldl (fun acc l => evictLine acc l.die l.line) s1
  let s2 := (s2.coh.wbacks.filter fun w => on w.held.die).foldl (fun acc w => landLine acc w.held.line) s2
  let s3 : State := { s2 with
    coh := { s2.coh with
      lockets := s2.coh.lockets.filterMap (locketKept s mask)
      copies := s2.coh.copies.filter fun c => !on (placeDie c.place)
      partials := s2.coh.partials.filter fun p => !on (p.core / 128)
      tlb := s2.coh.tlb.filter fun t => !(if t.unit < 1024 then on (t.unit / 128) else decide (t.unit < 1032) && on (t.unit - 1024))
      floors := s2.coh.floors.filter fun f => !on (placeDie f.place)
      streams := s2.coh.streams.filter fun x => !on (x.core / 128)
      pins := s2.coh.pins.filter fun p => !on (p.1 / 128) }
    reg := { s2.reg with tags := s2.reg.tags.filter fun t => !on t.die } }
  (List.range 8).foldl (fun acc d =>
    if on d then
      { acc with
        dies := tabSet Die.atReset acc.dies d { Die.atReset with relocks := (dieOf acc d).relocks }
        mdies := tabSet MDie.atReset acc.mdies d { mdieOf acc d with windows := [], keysIn := false } }
    else acc) s3

/-- PARTRST (R385, R386): a write of a mask ends the contexts on the named pairs and resets them; while BUSY it sets ERR. -/
def execPartrst (v : BitVec 64) (s : State) : Out :=
  let mask : BitVec 8 := v.setWidth 8
  if s.hub.partBusy then .next { s with hub := { s.hub with partErr := true } }
  else
    let s1 : State := { s with hub := { s.hub with partErr := s.hub.partErr && !v.getLsbD 17 } }
    if mask = 0 then .next s1
    else
      let s2 := finishOps ((ctxsOn s1 mask).foldl forceReset s1) mask
      let s3 := resetDies s2 mask
      .next { s3 with hub := { s3.hub with partBusy := true, partMask := mask } }

/-- PAIR_RESET_DONE (R386 steps 4 and 5, R384): stages 3 to 5 run for the named pairs, and their keys are loaded. An image that fails
stops the reset there until its recovery image has come (R381). -/
def execPairResetDone (s : State) : Out :=
  if !s.hub.partBusy || s.boot.waiting.isSome then notEnabled "PAIR_RESET_DONE"
  else
    let ds := setBits 8 s.hub.partMask.toNat
    match acceptUnits (ds ++ ds.map (8 + ·)) s.boot with
    | (b1, false) => .next { s with boot := b1 }
    | (b1, true) =>
      let s1 := ds.foldl startDie { s with boot := b1 }
      let s2 := ds.foldl (fun acc d => trainLink (trainLink (trainLink acc d) (8 + d)) (16 + d)) s1
      let s3 := keysToDies (ds.foldl trainStacks s2)
      .next { s3 with hub := { s3.hub with
        partBusy := false, partDone := s3.hub.partDone ||| s3.hub.partMask, partMask := 0 } }

/-! ### Accesses held at the hub (R375, R387) -/

/-- An access that has come to the hub, whose line's requests it holds. -/
def heldNow (s : State) (who : Holder) (line : Nat) : List HeldAcc :=
  if lineHeld s line && !(s.hub.held.any fun h => h.who == who && h.line == line) then
    [⟨who, line, heldAtHub s (128 * line), rtNs s, false⟩]
  else []

/-- Lists the accesses of lanes and engines that the hub has begun to hold, and no longer those that have been performed. -/
def noteHeld (s : State) : State :=
  if hubFree s then { s with hub := { s.hub with held := s.hub.held.filter (heldLive s) } }
  else
    let lanes := s.ops.flatMap fun p => p.2.lanes.flatMap fun a =>
      if !laneEnded a && a.scr.isNone && !blockedByEarlier s p.2 a && !heldByRelease s p.2 && pathClear s p.2 a then
        heldNow s (.lane p.2.thread p.2.seq a.lane) (lineOf a.pa)
      else []
    let engines := s.engq.flatMap fun p => match engWaits s p.1 p.2 with
      | some line => heldNow s (engHolder p.2) line
      | none => []
    { s with hub := { s.hub with held := s.hub.held.filter (heldLive s) ++ lanes ++ engines } }

/-- In HELD_ACCESS_TIMEOUT, the number of no lane: the event then names an access by its place among the held ones. -/
def heldWhole : Nat := 2 ^ 48

/-- Whether an access has been held for a pair for more than 50 ms (R387). -/
def heldLong (s : State) (h : HeldAcc) : Bool := h.pair && heldAtHub s (128 * h.line) && decide (h.since + 50000000 < rtNs s)

/-- HELD_ACCESS_TIMEOUT (R387): an access held for more than 50 ms takes POISON, or is acknowledged with an error: a lane's, that of
an engine operation, which then fails, or the host's. -/
def execHeldAccessTimeout (op lane : Nat) (s : State) : Out :=
  if lane = heldWhole then
    match s.hub.held[op]? with
    | some h =>
      if !heldLong s h || h.late then notEnabled "HELD_ACCESS_TIMEOUT"
      else
        match h.who with
        | .lane _ _ _ => notEnabled "HELD_ACCESS_TIMEOUT"
        | .engine _ _ _ _ => .next { s with hub := { s.hub with held := s.hub.held.set op { h with late := true } } }
        | .host write _ _ _ =>
          let s1 : State := { s with hub := { s.hub with held := s.hub.held.eraseIdx op } }
          .next (if write then { s1 with ras := { s1.ras with lostSt := s1.ras.lostSt + 1 } } else s1)
    | none => notEnabled "HELD_ACCESS_TIMEOUT"
  else
    onLane s "HELD_ACCESS_TIMEOUT" op lane fun o a =>
      if (s.hub.held.any fun h => h.who == .lane o.thread o.seq lane && h.line == lineOf a.pa && heldLong s h) && !laneEnded a then
        .next (lanePoison s op o a 0x03)
      else notEnabled "HELD_ACCESS_TIMEOUT"

/-! ### Keys and attestation (R392, R393, R398) -/

/-- KEY_SLOT_LOAD (R392, R393): slots 1 to 511. -/
def execKeySlotLoad (k : Nat) (s : State) : Out :=
  if k = 0 ∨ 512 ≤ k then notEnabled "KEY_SLOT_LOAD" else .next (loadKey s k)

/-- KEY_SLOT_ERASE (R392): slots 1 to 511. -/
def execKeySlotErase (k : Nat) (s : State) : Out :=
  if k = 0 ∨ 512 ≤ k then notEnabled "KEY_SLOT_ERASE" else .next { s with keys := tabDel s.keys k }

/-- The units whose images the evidence covers, in order (R398). -/
def evidenceUnits : List Nat := [16, 17] ++ List.range 16

/-- The CTXPART table (R389). -/
def ctxPartTable (s : State) : List Byte := (List.range 65536).map fun c => tabGet 0xFF s.hub.ctxPart c

/-- The evidence before its signature (R398). -/
def evidenceBody (s : State) (nonce : BitVec 256) : List Byte :=
  leBytes 32 nonce.toNat
    ++ evidenceUnits.flatMap (fun u => leBytes 32 (((imageOf s.boot u).map fun i => (Config.sha256 i.bytes).toNat).getD 0))
    ++ evidenceUnits.flatMap (fun u => leBytes 4 (((imageOf s.boot u).map fun i => i.version.toNat).getD 0))
    ++ [s.boot.rollback, clinkNow s, s.boot.mTrain, BitVec.ofNat 8 s.boot.failCode] ++ leBytes 5 0
    ++ leBytes 32 (Config.sha256 (ctxPartTable s)).toNat
    ++ leBytes 64 ((List.range 512).foldl (fun m k => if keyGenOf s k = 0 then m else m + 2 ^ k) 0)

/-- ATTESTATION_REQUEST (R398): Umush returns signed evidence, and the CTXPART table beside it. -/
def execAttestationRequest (nonce : BitVec 256) (s : State) : Out :=
  if !s.boot.powered || s.boot.stage < 3 then notEnabled "ATTESTATION_REQUEST"
  else .next (modBoot s fun b => { b with
    evidence := evidenceBody s nonce ++ Config.sign (evidenceBody s nonce), evTable := ctxPartTable s })

/-! ### Registers with no behaviour of their own (R11) -/

/-- Marks every translation of a context as to be dropped (R347). -/
def staleCtx (s : State) (c : Nat) : State :=
  { s with coh := { s.coh with
      tlb := s.coh.tlb.map fun t => if t.ctx = c ∧ t.stale = none then { t with stale := some (stampNow s) } else t } }

/-- A write to a context's descriptor (R336): it creates a context that is not there or has ended, whose STATE then changes (R356);
otherwise its fields come into force at the next launch. ROOT marks the translations made from the old tables for invalidation
(R347). -/
def writeDesc (s : State) (c : Nat) (v : BitVec 256) : State :=
  let root : Word := v.extractLsb' 0 64
  match tabFind s.ctxs c with
  | some x =>
    let s0 := if x.root = root then s else staleCtx s c
    if x.fcb.state = 5 ∨ x.fcbOnly = true then
      let s1 : State := { s0 with ctxs := tabPut s0.ctxs c { withDesc Ctx.blank v.toNat with
          root := root, priv := x.priv, fcb := x.fcb, recs := x.recs, preAt := x.preAt, frozen := x.frozen } }
      if x.fcb.state = 5 then setCtxState s1 c 0 else s1
    else modCtx s0 c fun y => { y with root := root, desc := some v }
  | none => { s with ctxs := tabPut s.ctxs c { withDesc Ctx.blank v.toNat with root := root } }

/-- A write to a format window (R349). -/
def formatWindow (v : BitVec 256) : Window :=
  { en := v.getLsbD 208, ctx := (v.extractLsb' 192 16).toNat, pcBase := (v.extractLsb' 128 48).toNat,
    len := (v.extractLsb' 64 48).toNat, peBase := (v.extractLsb' 0 48).toNat }

/-- Writes window `k` of a memory die; a disabled one with nothing set is not listed. -/
def writeWindow (s : State) (m k : Nat) (v : BitVec 256) : State :=
  let md := mdieOf s m
  let w := formatWindow v
  let off : Window := { en := false, ctx := 0, pcBase := 0, len := 0, peBase := 0 }
  { s with mdies := tabSet MDie.atReset s.mdies m { md with windows := tabSet off md.windows k w } }

/-- A hub register: 0 FMODE, 1 PCTL, 2 HANGTHR, 3 SALVBASE (R354, R355, R379). -/
def writeHub (s : State) (k : Nat) (v : BitVec 256) : State :=
  { s with hub :=
      if k = 0 then { s.hub with fmode := v.setWidth 7 }
      else if k = 1 then { s.hub with drainDl := v.extractLsb' 0 32, resetDl := v.extractLsb' 32 32 }
      else if k = 2 then { s.hub with hangThr := v.setWidth 48 }
      else if k = 3 then { s.hub with salvBase := v.setWidth 64 }
      else s.hub }

/-- A field of a fault control block: 3 FQBASE, 4 FQLOG2, 5 HANGBUF, 6 HANGLEN, 7 MSIX, 8 ERR, cleared by ones (R356). -/
def writeFcb (s : State) (c kind : Nat) (v : BitVec 256) : State :=
  modFcb (withFcb s c) c fun f =>
    if kind = 3 then { f with fqBase := v.setWidth 64 }
    else if kind = 4 then { f with fqLog2 := v.toNat % 32 }
    else if kind = 5 then { f with hangBuf := v.setWidth 64 }
    else if kind = 6 then { f with hangLen := v.toNat % 2 ^ 32 }
    else if kind = 7 then { f with msix := v.toNat % 2 ^ 32 }
    else { f with err := f.err &&& ~~~v.setWidth 8 }

/-- A whole write to PREQ (R356, R357): a bit above [1:0] that is set raises ERR bit 4 and does nothing else; 0 has no
effect; 1, 2 and 3 ask for what the events PREQ_DRAIN, PREQ_FREEZE and PREQ_RESET do. -/
def writePreq (s0 : State) (c : Nat) (v : BitVec 256) : Out :=
  let s := withFcb s0 c
  if (v.setWidth 64).toNat / 4 ≠ 0 then onCtx s "REGISTER_WRITE" c fun _ => .next (setErr s c 0x10)
  else if v.toNat % 4 = 1 then execPreqDrain c s
  else if v.toNat % 4 = 2 then execPreqFreeze c s
  else if v.toNat % 4 = 3 then execPreqReset c s
  else onCtx s "REGISTER_WRITE" c fun _ => .next s

/-- A whole write to RESUME (R356, R357): what the events RESUME_REPLAY, RESUME_CONTINUE and RESUME_END do. -/
def writeResume (s : State) (c : Nat) (v : BitVec 64) : Out :=
  if v.toNat % 4 = 0 then execResumeReplay c v s else if v.toNat % 4 = 1 then execResumeContinue c v s else execResumeEnd c v s

/-- A write to a hub register by its number (assumption 21): 4 SALVCTL, 5 PARTRST, 6 BOOTSTAT, which is read-only, 7 RECOVER, 8
RASFAIL; the rest have no behaviour of their own. -/
def writeHubReg (s : State) (k : Nat) (v : BitVec 256) : Out :=
  if k = 4 then execSalvctl (v.setWidth 64) s
  else if k = 5 then execPartrst (v.setWidth 64) s
  else if k = 6 then .next s
  else if k = 7 then execRecoverGo (v.setWidth 1) s
  else if k = 8 then execRasfail (v.setWidth 64) s
  else .next (writeHub s k v)

/-- REGISTER_WRITE (R11): registers are numbered kind·65536 + index (assumption 21). Kind 0 hub registers, 1 context
descriptors, 2 CTXPART, 3 to 8 fields of a fault control block, 9 the privilege of a context, 10 format windows
(die·64 + window), 11 PREQ, 12 DIEPS, 13 STATE and 14 FQTAIL, which are read-only, 15 FQHEAD, 16 SAVELEN, 17 SAVEBASE, 18 RESUME. A
write to a read-only register is ignored, and so are reserved bits, but for those of PREQ and RESUME. -/
def execRegisterWrite (reg : Nat) (v : BitVec 256) (s : State) : Out :=
  let kind := reg / 65536
  let k := reg % 65536
  if kind = 0 then (if k < 9 then writeHubReg s k v else notEnabled "REGISTER_WRITE")
  else if kind = 1 then .next (writeDesc s k v)
  else if kind = 2 then .next { s with hub := { s.hub with ctxPart := tabSet 0xFF s.hub.ctxPart k (v.setWidth 8) } }
  else if kind = 9 then .next (modCtx s k fun c => { c with priv := v.getLsbD 0 })
  else if kind = 10 then (if k < 512 then .next (writeWindow s (k / 64) (k % 64) v) else notEnabled "REGISTER_WRITE")
  else if kind = 11 then writePreq s k v
  else if kind = 12 then execDiepsTarget k (v.extractLsb' 10 2) s
  else if kind ≤ 8 then .next (writeFcb s k kind v)
  else if kind ≤ 14 then .next s
  else if kind = 15 then execFqhead k (v.setWidth 64) s
  else if kind = 16 then .next (writeSave s k fun f => { f with saveLen := v.setWidth 64 })
  else if kind = 17 then .next (writeSave s k fun f => { f with saveBase := v.setWidth 64 })
  else if kind = 18 then writeResume s k (v.setWidth 64)
  else notEnabled "REGISTER_WRITE"

/-! ### What registers read (R11) -/

/-- A hub register as it reads. -/
def readHub (s : State) (k : Nat) : Nat :=
  let h := s.hub
  let b (x : Bool) (n : Nat) : Nat := if x then 2 ^ n else 0
  if k = 0 then h.fmode.toNat
  else if k = 1 then h.drainDl.toNat + h.resetDl.toNat * 2 ^ 32
  else if k = 2 then h.hangThr.toNat
  else if k = 3 then h.salvBase.toNat
  else if k = 4 then b h.salvEn 0 + b h.salvOvf 1 + h.salvCap.toNat * 2 ^ 2 + h.salvUsed.toNat * 2 ^ 32
  else if k = 5 then h.partDone.toNat * 2 ^ 8 + b h.partBusy 16 + b h.partErr 17
  else if k = 6 then s.boot.stage % 16 + s.boot.rollback.toNat * 2 ^ 8 + s.boot.mTrain.toNat * 2 ^ 16 + (clinkNow s).toNat * 2 ^ 24
    + s.boot.failCode % 256 * 2 ^ 32 + s.boot.failDie % 256 * 2 ^ 40
  else if k = 7 then s.coh.ulines.length % 2 ^ 32 * 2 ^ 32
  else 0

/-- A context's descriptor as it reads: as last written; DOORBELL reads zero (R336). -/
def readDesc (x : Ctx) : Nat :=
  let y := match x.desc with
    | some d => withDesc x d.toNat
    | none => x
  y.root.toNat + y.ctxid % 65536 * 2 ^ 64 + y.lease * 2 ^ 80 + y.l1q * 2 ^ 96 + y.qsq * 2 ^ 104 + y.l2q * 2 ^ 115 + y.qtable.toNat * 2 ^ 128

/-- A field of a fault control block as it reads (R356). -/
def readFcb (f : Fcb) (kind : Nat) : Nat :=
  if kind = 3 then f.fqBase.toNat
  else if kind = 4 then f.fqLog2
  else if kind = 5 then f.hangBuf.toNat
  else if kind = 6 then f.hangLen
  else if kind = 7 then f.msix
  else if kind = 8 then f.err.toNat
  else if kind = 13 then f.state
  else if kind = 14 then f.fqTail.toNat
  else if kind = 15 then f.fqHead.toNat
  else if kind = 16 then f.saveLen.toNat
  else if kind = 17 then f.saveBase.toNat
  else 0

/-- A format window as it reads (R349). -/
def readWindow (s : State) (m k : Nat) : Nat :=
  match tabFind (mdieOf s m).windows k with
  | some w => w.peBase + w.len * 2 ^ 64 + w.pcBase * 2 ^ 128 + w.ctx * 2 ^ 192 + (if w.en then 2 ^ 208 else 0)
  | none => 0

/-- DIEPS of a die as it reads (R395). -/
def readDieps (s : State) (d : Nat) : Nat :=
  let x := dieOf s d
  (if dieStopped x s.time then 2 ^ 7 else 0) + x.cur.toNat * 2 ^ 8 + x.target.toNat * 2 ^ 10

/-- A register as a read of it returns it (R11): a write-only one (PREQ and RESUME), and reserved fields, read zero. -/
def readRegister (s : State) (reg : Nat) : Nat :=
  let kind := reg / 65536
  let k := reg % 65536
  if kind = 0 then readHub s k
  else if kind = 1 then readDesc (ctxOf s k)
  else if kind = 2 then (tabGet 0xFF s.hub.ctxPart k).toNat
  else if kind = 9 then (if (ctxOf s k).priv then 1 else 0)
  else if kind = 10 then readWindow s (k / 64) (k % 64)
  else if kind = 12 then readDieps s k
  else readFcb (ctxOf s k).fcb kind

end Sys2Proof.Machine
end

