-- ==== Sys2Proof/Machine/Issue.lean ====
section
/-!
DEFINITION. The passing of time, and what follows each step of the machine: which pending strands are ready, and the places of the active
sets that fall free (R44, R45, R48).
-/
namespace Sys2Proof.Machine
open Sys2Proof

/-! ### The active sets (R44) -/

/-- Notes since when each pending strand has been ready without a break (R44, R45). -/
def noteReady (s : State) : State :=
  { s with threads := s.threads.map fun p =>
      match p.2.seat with
      | some st =>
        if st.active then p
        else if strandReady s p.1 p.2 then
          (p.1, { p.2 with seat := some { st with readyAt := some (st.readyAt.getD (coreCc s st.core)) } })
        else (p.1, { p.2 with seat := some { st with readyAt := none } })
      | none => p }

/-- The partitions that have pending strands. -/
def pendingParts (s : State) : List (Nat × Nat) :=
  s.threads.foldl (fun acc p => match p.2.seat with
    | some st => if st.active ∨ 1024 ≤ st.core ∨ acc.contains (st.core, st.part) = true then acc else acc ++ [(st.core, st.part)]
    | none => acc) []

/-- What follows each step at once (R44): it is noted which pending strands are ready, and free places of the active sets are filled. -/
def settleSets (s : State) : State :=
  match pendingParts s with
  | [] => s
  | ps =>
    ps.foldl (fun acc p => (List.range 8).foldl (fun acc1 _ => fillActive acc1 p.1 p.2) acc) (noteReady s)

/-! ### The passing of time -/

/-- Counts time toward HANG for every context all of whose threads wait, unless it is frozen or pre-empted (R48). -/
def countHang (s : State) (n : Nat) : State :=
  { s with ctxs := s.ctxs.map fun c =>
      if !c.2.frozen && c.2.fcb.state == 0 && allWait s c.1 then (c.1, { c.2 with hang := c.2.hang + n }) else c }

/-- Time passes, `n` ticks of it. -/
def passTime (s : State) (n : Nat) : State :=
  let s1 := countHang (noteHeld s) n
  { s1 with time := s1.time + n }

end Sys2Proof.Machine
end

