-- ==== Sys2Proof/Machine/Dispatch.lean ====
section
/-! DEFINITION. The dispatcher: one arm per constructor of `Instr`, each a call of its meaning. -/
namespace Sys2Proof.Machine
open Sys2Proof

/-- What an instruction or event does to the machine. -/
def exec (i : Instr) (s : State) : Host.Outcome State Fault Refusal :=
  match i with
  | .sadd d a b => Sys2Proof.Machine.execSadd d a b s
  | .ssub d a b => Sys2Proof.Machine.execSsub d a b s
  | .smul d a b => Sys2Proof.Machine.execSmul d a b s
  | .smulh d a b => Sys2Proof.Machine.execSmulh d a b s
  | .smulhn d a b => Sys2Proof.Machine.execSmulhn d a b s
  | .sand d a b => Sys2Proof.Machine.execSand d a b s
  | .sor d a b => Sys2Proof.Machine.execSor d a b s
  | .sxor d a b => Sys2Proof.Machine.execSxor d a b s
  | .sshl d a b => Sys2Proof.Machine.execSshl d a b s
  | .sshr d a b => Sys2Proof.Machine.execSshr d a b s
  | .ssra d a b => Sys2Proof.Machine.execSsra d a b s
  | .smin d a b => Sys2Proof.Machine.execSmin d a b s
  | .smax d a b => Sys2Proof.Machine.execSmax d a b s
  | .sminn d a b => Sys2Proof.Machine.execSminn d a b s
  | .smaxn d a b => Sys2Proof.Machine.execSmaxn d a b s
  | .sdiv d a b => Sys2Proof.Machine.execSdiv d a b s
  | .sdivn d a b => Sys2Proof.Machine.execSdivn d a b s
  | .srem d a b => Sys2Proof.Machine.execSrem d a b s
  | .sremn d a b => Sys2Proof.Machine.execSremn d a b s
  | .sclz d a => Sys2Proof.Machine.execSclz d a s
  | .spop d a => Sys2Proof.Machine.execSpop d a s
  | .saffx d a b => Sys2Proof.Machine.execSaffx d a b s
  | .saffy d a b => Sys2Proof.Machine.execSaffy d a b s
  | .saffz d a b => Sys2Proof.Machine.execSaffz d a b s
  | .saddi d a n => Sys2Proof.Machine.execSaddi d a n s
  | .sandi d a n => Sys2Proof.Machine.execSandi d a n s
  | .sori d a n => Sys2Proof.Machine.execSori d a n s
  | .sxori d a n => Sys2Proof.Machine.execSxori d a n s
  | .sshli d a n => Sys2Proof.Machine.execSshli d a n s
  | .sshri d a n => Sys2Proof.Machine.execSshri d a n s
  | .ssrai d a n => Sys2Proof.Machine.execSsrai d a n s
  | .smuli d a n => Sys2Proof.Machine.execSmuli d a n s
  | .sli d w => Sys2Proof.Machine.execSli d w s
  | .sliHi d w => Sys2Proof.Machine.execSliHi d w s
  | .scmp d a b c => Sys2Proof.Machine.execScmp d a b c s
  | .scmpi c d a n => Sys2Proof.Machine.execScmpi c d a n s
  | .ssel d a b n => Sys2Proof.Machine.execSsel d a b n s
  | .copAnd d a b => Sys2Proof.Machine.execCopAnd d a b s
  | .copOr d a b => Sys2Proof.Machine.execCopOr d a b s
  | .copXor d a b => Sys2Proof.Machine.execCopXor d a b s
  | .copAndn d a b => Sys2Proof.Machine.execCopAndn d a b s
  | .copNot d a => Sys2Proof.Machine.execCopNot d a s
  | .copSet d => Sys2Proof.Machine.execCopSet d s
  | .copClr d => Sys2Proof.Machine.execCopClr d s
  | .copMov d a => Sys2Proof.Machine.execCopMov d a s
  | .sform d a f => Sys2Proof.Machine.execSform d a f s
  | .sld d a z g p o => Sys2Proof.Machine.execSld d a z g p o s
  | .sst d a z p o => Sys2Proof.Machine.execSst d a z p o s
  | .satom d a b w x o => Sys2Proof.Machine.execSatom d a b w x o s
  | .cmo a b l k => Sys2Proof.Machine.execCmo a b l k s
  | .kset n a => Sys2Proof.Machine.execKset n a s
  | .kget d a => Sys2Proof.Machine.execKget d a s
  | .kgetSet d a => Sys2Proof.Machine.execKgetSet d a s
  | .krev n a b => Sys2Proof.Machine.execKrev n a b s
  | .kdrop a b => Sys2Proof.Machine.execKdrop a b s
  | .barArv d a b => Sys2Proof.Machine.execBarArv d a b s
  | .barWt a b => Sys2Proof.Machine.execBarWt a b s
  | .barArw a b => Sys2Proof.Machine.execBarArw a b s
  | .barInit a b => Sys2Proof.Machine.execBarInit a b s
  | .hbarArv d l => Sys2Proof.Machine.execHbarArv d l s
  | .hbarWt a l => Sys2Proof.Machine.execHbarWt a l s
  | .hbarArw l => Sys2Proof.Machine.execHbarArw l s
  | .fence k x => Sys2Proof.Machine.execFence k x s
  | .br c n o => Sys2Proof.Machine.execBr c n o s
  | .call c n o => Sys2Proof.Machine.execCall c n o s
  | .jmp a => Sys2Proof.Machine.execJmp a s
  | .ret => Sys2Proof.Machine.execRet s
  | .lx w => Sys2Proof.Machine.execLx w s
  | .exit => Sys2Proof.Machine.execExit s
  | .wait a p => Sys2Proof.Machine.execWait a p s
  | .trapf => Sys2Proof.Machine.execTrapf s
  | .jtok o => Sys2Proof.Machine.execJtok o s
  | .dvg k x n o => Sys2Proof.Machine.execDvg k x n o s
  | .nxt => Sys2Proof.Machine.execNxt s
  | .lpb o => Sys2Proof.Machine.execLpb o s
  | .lpe k x n o => Sys2Proof.Machine.execLpe k x n o s
  | .brk k x n => Sys2Proof.Machine.execBrk k x n s
  | .seat => Sys2Proof.Machine.execSeat s
  | .unseat => Sys2Proof.Machine.execUnseat s
  | .sjoin w => Sys2Proof.Machine.execSjoin w s
  | .qfence q => Sys2Proof.Machine.execQfence q s
  | .snooze a => Sys2Proof.Machine.execSnooze a s
  | .snoozeAbs a => Sys2Proof.Machine.execSnoozeAbs a s
  | .mma d a b f => Sys2Proof.Machine.execMma d a b f s
  | .mgath d a b f => Sys2Proof.Machine.execMgath d a b f s
  | .mzero d f => Sys2Proof.Machine.execMzero d f s
  | .mdrain d a f => Sys2Proof.Machine.execMdrain d a f s
  | .mcommit d n => Sys2Proof.Machine.execMcommit d n s
  | .mfence a => Sys2Proof.Machine.execMfence a s
  | .mwait d a => Sys2Proof.Machine.execMwait d a s
  | .cpy n a b f => Sys2Proof.Machine.execCpy n a b f s
  | .coll a x t o => Sys2Proof.Machine.execColl a x t o s
  | .rbeg o => Sys2Proof.Machine.execRbeg o s
  | .rbegStrict o => Sys2Proof.Machine.execRbegStrict o s
  | .rend => Sys2Proof.Machine.execRend s
  | .rabt u => Sys2Proof.Machine.execRabt u s
  | .rnarLo d => Sys2Proof.Machine.execRnarLo d s
  | .rnarHi d => Sys2Proof.Machine.execRnarHi d s
  | .rnarNarrow a b => Sys2Proof.Machine.execRnarNarrow a b s
  | .nop => Sys2Proof.Machine.execNop s
  | .trap n => Sys2Proof.Machine.execTrap n s
  | .srd d r => Sys2Proof.Machine.execSrd d r s
  | .swr r b => Sys2Proof.Machine.execSwr r b s
  | .dlaunch d a b => Sys2Proof.Machine.execDlaunch d a b s
  | .iadd f => Sys2Proof.Machine.execIadd f s
  | .isub f => Sys2Proof.Machine.execIsub f s
  | .imul f => Sys2Proof.Machine.execImul f s
  | .imulh f => Sys2Proof.Machine.execImulh f s
  | .imad f => Sys2Proof.Machine.execImad f s
  | .iabs f => Sys2Proof.Machine.execIabs f s
  | .ineg f => Sys2Proof.Machine.execIneg f s
  | .imin f => Sys2Proof.Machine.execImin f s
  | .imax f => Sys2Proof.Machine.execImax f s
  | .land f => Sys2Proof.Machine.execLand f s
  | .lor f => Sys2Proof.Machine.execLor f s
  | .lxor f => Sys2Proof.Machine.execLxor f s
  | .lnot f => Sys2Proof.Machine.execLnot f s
  | .andn f => Sys2Proof.Machine.execAndn f s
  | .shl f => Sys2Proof.Machine.execShl f s
  | .shr f => Sys2Proof.Machine.execShr f s
  | .sra f => Sys2Proof.Machine.execSra f s
  | .rotl f => Sys2Proof.Machine.execRotl f s
  | .bfx f => Sys2Proof.Machine.execBfx f s
  | .bfi f => Sys2Proof.Machine.execBfi f s
  | .clz f => Sys2Proof.Machine.execClz f s
  | .popc f => Sys2Proof.Machine.execPopc f s
  | .brev f => Sys2Proof.Machine.execBrev f s
  | .icmp f => Sys2Proof.Machine.execIcmp f s
  | .sel f => Sys2Proof.Machine.execSel f s
  | .dot4 f => Sys2Proof.Machine.execDot4 f s
  | .fadd f => Sys2Proof.Machine.execFadd f s
  | .fsub f => Sys2Proof.Machine.execFsub f s
  | .fmul f => Sys2Proof.Machine.execFmul f s
  | .ffma f => Sys2Proof.Machine.execFfma f s
  | .fmin f => Sys2Proof.Machine.execFmin f s
  | .fmax f => Sys2Proof.Machine.execFmax f s
  | .fabs f => Sys2Proof.Machine.execFabs f s
  | .fneg f => Sys2Proof.Machine.execFneg f s
  | .fcmp f => Sys2Proof.Machine.execFcmp f s
  | .frcp f => Sys2Proof.Machine.execFrcp f s
  | .frsq f => Sys2Proof.Machine.execFrsq f s
  | .fsqrt f => Sys2Proof.Machine.execFsqrt f s
  | .fdiv f => Sys2Proof.Machine.execFdiv f s
  | .fex2 f => Sys2Proof.Machine.execFex2 f s
  | .flg2 f => Sys2Proof.Machine.execFlg2 f s
  | .fsin f => Sys2Proof.Machine.execFsin f s
  | .fcos f => Sys2Proof.Machine.execFcos f s
  | .fclass f => Sys2Proof.Machine.execFclass f s
  | .fcpsgn f => Sys2Proof.Machine.execFcpsgn f s
  | .ftrunc f => Sys2Proof.Machine.execFtrunc f s
  | .fldx f => Sys2Proof.Machine.execFldx f s
  | .mov f => Sys2Proof.Machine.execMov f s
  | .movi f => Sys2Proof.Machine.execMovi f s
  | .cvt f => Sys2Proof.Machine.execCvt f s
  | .pack2 f => Sys2Proof.Machine.execPack2 f s
  | .unpk f => Sys2Proof.Machine.execUnpk f s
  | .tdec f => Sys2Proof.Machine.execTdec f s
  | .tenc f => Sys2Proof.Machine.execTenc f s
  | .lea f => Sys2Proof.Machine.execLea f s
  | .pset f => Sys2Proof.Machine.execPset f s
  | .pmov f => Sys2Proof.Machine.execPmov f s
  | .shfl f => Sys2Proof.Machine.execShfl f s
  | .bcast f => Sys2Proof.Machine.execBcast f s
  | .vote f => Sys2Proof.Machine.execVote f s
  | .redx f => Sys2Proof.Machine.execRedx f s
  | .scan f => Sys2Proof.Machine.execScan f s
  | .firstLane f => Sys2Proof.Machine.execFirstLane f s
  | .perm f => Sys2Proof.Machine.execPerm f s
  | .cmpx f => Sys2Proof.Machine.execCmpx f s
  | .ld f => Sys2Proof.Machine.execLd f s
  | .st f => Sys2Proof.Machine.execSt f s
  | .stk f => Sys2Proof.Machine.execStk f s
  | .prf f => Sys2Proof.Machine.execPrf f s
  | .atom f => Sys2Proof.Machine.execAtom f s
  | .red f => Sys2Proof.Machine.execRed f s
  | .cas f => Sys2Proof.Machine.execCas f s
  | .cacc f => Sys2Proof.Machine.execCacc f s
  | .xset f => Sys2Proof.Machine.execXset f s
  | .xadd f => Sys2Proof.Machine.execXadd f s
  | .xget f => Sys2Proof.Machine.execXget f s
  | .locateFault op lane => Sys2Proof.Machine.execLocateFault op lane s
  | .locateResolve op => Sys2Proof.Machine.execLocateResolve op s
  | .partialHandover k => Sys2Proof.Machine.execPartialHandover k s
  | .tileSeat th tile => Sys2Proof.Machine.execTileSeat th tile s
  | .placementTimeout th tile => Sys2Proof.Machine.execPlacementTimeout th tile s
  | .workgroupEnd wg => Sys2Proof.Machine.execWorkgroupEnd wg s
  | .strandSlotFree th => Sys2Proof.Machine.execStrandSlotFree th s
  | .agingSwap core part => Sys2Proof.Machine.execAgingSwap core part s
  | .stallSwap th => Sys2Proof.Machine.execStallSwap th s
  | .hangDetected ctx => Sys2Proof.Machine.execHangDetected ctx s
  | .sjoinWindowExpiry th => Sys2Proof.Machine.execSjoinWindowExpiry th s
  | .snoozeExpiry th => Sys2Proof.Machine.execSnoozeExpiry th s
  | .fenceComplete th => Sys2Proof.Machine.execFenceComplete th s
  | .waitComplete th => Sys2Proof.Machine.execWaitComplete th s
  | .mwaitComplete th => Sys2Proof.Machine.execMwaitComplete th s
  | .barReleaseWake th => Sys2Proof.Machine.execBarReleaseWake th s
  | .hbarRelease th => Sys2Proof.Machine.execHbarRelease th s
  | .dlaunchStatus th => Sys2Proof.Machine.execDlaunchStatus th s
  | .rbegOpen th => Sys2Proof.Machine.execRbegOpen th s
  | .loadReturn op => Sys2Proof.Machine.execLoadReturn op s
  | .storeAck op => Sys2Proof.Machine.execStoreAck op s
  | .atomicReturn op => Sys2Proof.Machine.execAtomicReturn op s
  | .leaseExpiry k => Sys2Proof.Machine.execLeaseExpiry k s
  | .streamTimeout k => Sys2Proof.Machine.execStreamTimeout k s
  | .regionSliceAccess op lane => Sys2Proof.Machine.execRegionSliceAccess op lane s
  | .nonregionSliceAccess op lane src => Sys2Proof.Machine.execNonregionSliceAccess op lane src s
  | .crossDieRegionHold op lane => Sys2Proof.Machine.execCrossDieRegionHold op lane s
  | .regionRaiseLo k => Sys2Proof.Machine.execRegionRaiseLo k s
  | .regionLowerHi k => Sys2Proof.Machine.execRegionLowerHi k s
  | .regionAbortMessage rg line => Sys2Proof.Machine.execRegionAbortMessage rg line s
  | .regionAbortDone rg => Sys2Proof.Machine.execRegionAbortDone rg s
  | .regionFreeze rg line => Sys2Proof.Machine.execRegionFreeze rg line s
  | .regionFreezeDone rg => Sys2Proof.Machine.execRegionFreezeDone rg s
  | .regionFinalPosition rg line => Sys2Proof.Machine.execRegionFinalPosition rg line s
  | .regionCommitDone rg => Sys2Proof.Machine.execRegionCommitDone rg s
  | .dirEviction die line => Sys2Proof.Machine.execDirEviction die line s
  | .homeRecall line => Sys2Proof.Machine.execHomeRecall line s
  | .translationInvalidation k => Sys2Proof.Machine.execTranslationInvalidation k s
  | .dirRebuild line => Sys2Proof.Machine.execDirRebuild line s
  | .dieProbeTimeout die => Sys2Proof.Machine.execDieProbeTimeout die s
  | .remotePackageTimeout pkg => Sys2Proof.Machine.execRemotePackageTimeout pkg s
  | .heldAccessTimeout op lane => Sys2Proof.Machine.execHeldAccessTimeout op lane s
  | .relockEnd die => Sys2Proof.Machine.execRelockEnd die s
  | .faultRecordWrite ctx => Sys2Proof.Machine.execFaultRecordWrite ctx s
  | .preemptStart ctx => Sys2Proof.Machine.execPreemptStart ctx s
  | .drainComplete ctx => Sys2Proof.Machine.execDrainComplete ctx s
  | .drainDeadline ctx => Sys2Proof.Machine.execDrainDeadline ctx s
  | .resetDeadline ctx => Sys2Proof.Machine.execResetDeadline ctx s
  | .scanOut ctx core => Sys2Proof.Machine.execScanOut ctx core s
  | .contextResume ctx => Sys2Proof.Machine.execContextResume ctx s
  | .launchEntry ctx q => Sys2Proof.Machine.execLaunchEntry ctx q s
  | .krevEntry ctx q => Sys2Proof.Machine.execKrevEntry ctx q s
  | .kdropEntry ctx q => Sys2Proof.Machine.execKdropEntry ctx q s
  | .waitEntry ctx q => Sys2Proof.Machine.execWaitEntry ctx q s
  | .queueEntryComplete entry => Sys2Proof.Machine.execQueueEntryComplete entry s
  | .launchComplete la => Sys2Proof.Machine.execLaunchComplete la s
  | .engineOpStart eop => Sys2Proof.Machine.execEngineOpStart eop s
  | .engineOpComplete eop => Sys2Proof.Machine.execEngineOpComplete eop s
  | .chunkEnd eop => Sys2Proof.Machine.execChunkEnd eop s
  | .batchComplete th num => Sys2Proof.Machine.execBatchComplete th num s
  | .copyComplete eop => Sys2Proof.Machine.execCopyComplete eop s
  | .collComplete eop => Sys2Proof.Machine.execCollComplete eop s
  | .resumeReplay ctx v => Sys2Proof.Machine.execResumeReplay ctx v s
  | .resumeContinue ctx v => Sys2Proof.Machine.execResumeContinue ctx v s
  | .resumeEnd ctx v => Sys2Proof.Machine.execResumeEnd ctx v s
  | .fqhead ctx v => Sys2Proof.Machine.execFqhead ctx v s
  | .preqDrain ctx => Sys2Proof.Machine.execPreqDrain ctx s
  | .preqFreeze ctx => Sys2Proof.Machine.execPreqFreeze ctx s
  | .preqReset ctx => Sys2Proof.Machine.execPreqReset ctx s
  | .saveArea ctx base len => Sys2Proof.Machine.execSaveArea ctx base len s
  | .doorbell ctx v => Sys2Proof.Machine.execDoorbell ctx v s
  | .keySlotLoad k => Sys2Proof.Machine.execKeySlotLoad k s
  | .keySlotErase k => Sys2Proof.Machine.execKeySlotErase k s
  | .attestationRequest nonce => Sys2Proof.Machine.execAttestationRequest nonce s
  | .registerWrite reg v => Sys2Proof.Machine.execRegisterWrite reg v s
  | .hostAccess wr addr n v => Sys2Proof.Machine.execHostAccess wr addr n v s
  | .remotePackageRequest pkg line own => Sys2Proof.Machine.execRemotePackageRequest pkg line own s
  | .replayTimerExpiry link => Sys2Proof.Machine.execReplayTimerExpiry link s
  | .flitCrcFail link => Sys2Proof.Machine.execFlitCrcFail link s
  | .linkDown link => Sys2Proof.Machine.execLinkDown link s
  | .linkRetrain link => Sys2Proof.Machine.execLinkRetrain link s
  | .recoverGo v => Sys2Proof.Machine.execRecoverGo v s
  | .rasfail v => Sys2Proof.Machine.execRasfail v s
  | .salvctl v => Sys2Proof.Machine.execSalvctl v s
  | .partrst v => Sys2Proof.Machine.execPartrst v s
  | .diepsTarget die v => Sys2Proof.Machine.execDiepsTarget die v s
  | .recoveryImage k => Sys2Proof.Machine.execRecoveryImage k s
  | .memoryDieFailed m => Sys2Proof.Machine.execMemoryDieFailed m s
  | .dirReadRequest die line => Sys2Proof.Machine.execDirReadRequest die line s
  | .dirOwnershipRequest die line => Sys2Proof.Machine.execDirOwnershipRequest die line s
  | .remoteOwnership die line => Sys2Proof.Machine.execRemoteOwnership die line s
  | .powerOn => Sys2Proof.Machine.execPowerOn s
  | .bootStage => Sys2Proof.Machine.execBootStage s
  | .pairResetDone => Sys2Proof.Machine.execPairResetDone s

end Sys2Proof.Machine
end

