-- ==== Sys2Proof/Machine/Choose.lean ====
section
/-!
DEFINITION. What one step may do: issue the next instruction of a scalar or lane stream, carry out a hardware event, or
let time pass; a core of Umush; and the choices the machine makes when its environment has made none (assumption 3).
-/
namespace Sys2Proof.Machine
open Sys2Proof

/-! ### Issue -/

/-- A thread issues: the instruction acts for it, and where it is a strand its context's hang count starts again (R48). -/
def issuing (s : State) (id : Nat) (t : Thread) : State :=
  let s1 : State := { s with cur := id }
  if t.seat.isSome then modCtx s1 t.ctx fun c => { c with hang := 0 } else s1

/-- The state in which the scalar instruction of `n` bytes at a thread's PC is executed. -/
def scalarIssued (s : State) (id : Nat) (t : Thread) (n : Nat) : State := noteFetch (issuing s id t) t t.pc.toNat n

/-- A thread's scalar stream issues its next instruction, or takes the fault of its fetch or of its encoding (R186,
R209); while it cannot, it stalls, and the step changes nothing (R44). -/
def issueScalar (id : Nat) (s : State) : Out :=
  match tabFind s.threads id with
  | none => .refused .noThread
  | some t =>
    if mayIssue t && scalarReady s id t then
      match fetchScalar s t with
      | .instr i n => exec i (scalarIssued s id t n)
      | .ill sub => fault (issuing s id t) t cILL sub
      | .bad cause sub va w6 w7 => faultWith (issuing s id t) t cause sub fun p =>
          { p with va := va, w6 := BitVec.ofNat 64 w6, w7 := BitVec.ofNat 64 w7 }
      | .held => .next s
    else .next s

/-- The state in which the lane instruction at a lane PC is executed. -/
def laneIssued (s : State) (id : Nat) (t : Thread) (lpc : Nat) : State :=
  noteFetch (issuing s id t) t (laneVa s t lpc) 12

/-- The number of faults and traps that a thread has taken and the driver has not resolved. -/
def stopCount (s : State) (id : Nat) : Nat := ((tabFind s.threads id).map fun t => (t.stop.toList ++ t.more).length).getD 0

/-- A lane instruction's effect, unless it is a fault that stands behind a load or an atomic which may fault itself: then the lane
stream stalls until that one is settled (R181). -/
def laneEffect (s : State) (id : Nat) (r : Out) : Out :=
  match r with
  | .next s1 => if stopCount s id < stopCount s1 id ∧ lanesSure s id = false then .next s else .next s1
  | x => x

/-- A strand's lane stream issues its next instruction, or takes the fault of its fetch or of its encoding (R179, R181); while it
cannot, it stalls, and the step changes nothing (R44). -/
def issueLane (id : Nat) (s : State) : Out :=
  match tabFind s.threads id with
  | none => .refused .noThread
  | some t =>
    match (t.seat.map (·.blocks)).getD [] with
    | [] => .next s
    | b :: _ =>
      if mayIssue t && laneReady s id t then
        match fetchLane s t (blockPc b) with
        | .instr i _ => laneEffect s id (exec i (laneIssued s id t (blockPc b)))
        | .ill sub => laneStop (issuing s id t) t b cILL sub b.am fun p => p
        | .bad cause sub va w6 w7 => laneStop (issuing s id t) t b cause sub b.am fun p =>
            { p with va := va, w6 := BitVec.ofNat 64 w6, w7 := BitVec.ofNat 64 w7 }
        | .held => .next s
      else .next s

/-! ### The cores of Umush (R2) -/

/-- The machine with a core of Umush alone in it. -/
def umushAlone (s : State) (t : Thread) : State :=
  { s with cur := 0, threads := [(0, t)], wgs := [], launches := [], ctxs := [], ops := [], engq := [], batches := [], teams := [] }

/-- A core of Umush as an instruction finds it: one whose snooze has ended goes on behind it (R217). -/
def umushWoken (s : State) (t : Thread) : Thread :=
  match t.wait with
  | .snooze d => if d ≤ rtOf (umushAlone s t) t then advance { t with wait := .none } 4 else t
  | _ => t

/-- Whether an instruction is one that may stay within a core of Umush: not one that reads what only a compute die has, or writes what
is not its own. -/
def umushOwn (i : Instr) : Bool :=
  match i with
  | .srd _ r => r.toNat = 0 || 4 ≤ r.toNat
  | .swr r _ => userWrites r.toNat
  | _ => (encode i).isSome

/-- A core of Umush executes an instruction as Kieri defines it, as a context of one item (R2): on its own registers, its tokens and its
PC, and with its own faults, on which it stops. What one reaches that goes beyond them the spec does not say (assumption 62). -/
def umushStep (k : Nat) (i : Instr) (s : State) : Out :=
  match s.boot.powered, s.boot.cores[k]? with
  | true, some t0 =>
    let t := umushWoken s t0
    let put (u : Thread) : Out := .next { s with boot := { s.boot with cores := s.boot.cores.set k u } }
    if t.wait ≠ .none ∨ t.stop.isSome = true then .next s
    else if !umushOwn i then .refused .umushReach
    else
      match exec i (umushAlone s t) with
      | .next r =>
        match r.threads with
        | [(_, u)] =>
          if r = { umushAlone s t with threads := r.threads } then
            match u.wait with
            | .none => put u
            | .snooze _ => put u
            | .seating _ (some p) => put { u with wait := .none, stop := some p }
            | _ => .refused .umushReach
          else .refused .umushReach
        | _ => .refused .umushReach
      | _ => .refused .umushReach
  | _, _ => notEnabled "UMUSH"

/-! ### Choices -/

/-- A soft error is counted for its unit (R397; assumption 64). -/
def softErr (s : State) (unit : Nat) (corrected : Bool) : Out :=
  if 16 ≤ unit then notEnabled "SOFT_ERROR"
  else
    let add (m : Tab Word) : Tab Word := tabSet 0 m unit (tabGet 0 m unit + 1)
    .next { s with ras := if corrected then { s.ras with eccCor := add s.ras.eccCor } else { s.ras with eccUnc := add s.ras.eccUnc } }

/-- The sensors of a die report (R397; assumption 64): 0 to 7 the compute dies, 8 to 15 the memory dies, 16 the hub. -/
def sense (s : State) (die : Nat) (power temp : Word) : Out :=
  if 17 ≤ die then notEnabled "SENSORS"
  else .next { s with ras := { s.ras with power := tabSet 0 s.ras.power die power, temp := tabSet 0 s.ras.temp die temp } }

/-- Carries out a choice. An instruction with an encoding is no event: it issues from memory. -/
def carryOut (c : Choice) (s : State) : Out :=
  match c with
  | .run id => issueScalar id s
  | .lane id => issueLane id s
  | .event i => if (encode i).isNone then exec i s else notEnabled "ISSUE"
  | .umush k i => umushStep k i s
  | .pass n => .next (passTime s n)
  | .softError unit corrected => softErr s unit corrected
  | .sensors die power temp => sense s die power temp

/-- What a choice leads to: its own effect, and then the active sets are filled (R44). -/
def takeChoice (c : Choice) (s : State) : Out :=
  match carryOut c s with
  | .next s1 => .next (settleSets s1)
  | r => r

/-! ### The machine's own choices -/

/-- Events of the threads. -/
def threadEvents (s : State) : List Instr :=
  s.threads.flatMap fun p =>
    let id := p.1
    (match p.2.wait with
      | .seating tiles _ => tiles.flatMap fun x => [Instr.tileSeat id x.1, .placementTimeout id x.1]
      | _ => []) ++
    [.strandSlotFree id, .stallSwap id, .sjoinWindowExpiry id, .snoozeExpiry id, .fenceComplete id, .waitComplete id,
      .mwaitComplete id, .barReleaseWake id, .hbarRelease id, .dlaunchStatus id, .rbegOpen id]

/-- Events of the accesses in flight. -/
def accessEvents (s : State) : List Instr :=
  s.ops.flatMap fun p =>
    let op := p.1
    [Instr.locateResolve op, .loadReturn op, .storeAck op, .atomicReturn op] ++
      p.2.lanes.flatMap fun a =>
        [Instr.locateFault op a.lane, .regionSliceAccess op a.lane, .crossDieRegionHold op a.lane,
          .heldAccessTimeout op a.lane] ++
        (List.range (s.coh.copies.length + 3)).map fun k => .nonregionSliceAccess op a.lane k

/-- Events of the caches, the directory and the translations. -/
def cacheEvents (s : State) : List Instr :=
  (List.range s.coh.copies.length).map Instr.leaseExpiry ++ (List.range s.coh.streams.length).map Instr.streamTimeout ++
  (List.range s.coh.tlb.length).map Instr.translationInvalidation ++
  (List.range s.coh.partials.length).map Instr.partialHandover ++
  s.coh.l2.flatMap (fun l => [Instr.dirEviction l.die l.line, .homeRecall l.line]) ++
  s.coh.wbacks.map (fun w => Instr.dirEviction w.held.die w.held.line) ++ s.coh.remote.map (fun r => Instr.homeRecall r.line) ++
  (List.range s.hub.held.length).map (fun k => Instr.heldAccessTimeout k heldWhole) ++
  s.coh.ulines.map (fun u => Instr.dirRebuild u.line) ++ (List.range 8).map Instr.dieProbeTimeout

/-- Events of the regions. -/
def regionEvents (s : State) : List Instr :=
  (List.range s.reg.msgs.length).flatMap (fun k => [Instr.regionRaiseLo k, .regionLowerHi k]) ++
  s.reg.regions.flatMap fun r =>
    let left : List (Nat × Nat) := match r.2.phase with
      | .live => []
      | .freezing l => l
      | .committing l => l
      | .aborting _ _ _ l => l
    [Instr.regionAbortDone r.1, .regionFreezeDone r.1, .regionCommitDone r.1] ++
      left.flatMap fun x => [Instr.regionAbortMessage r.1 x.2, .regionFreeze r.1 x.2, .regionFinalPosition r.1 x.2]

/-- Events of the engines and the batches. -/
def engineEvents (s : State) : List Instr :=
  s.engq.flatMap (fun o => [Instr.engineOpStart o.1, .engineOpComplete o.1, .chunkEnd o.1, .copyComplete o.1,
    .collComplete o.1]) ++ s.batches.map fun b => .batchComplete b.thread b.num

/-- Events of the queues, launches and contexts. -/
def queueEvents (s : State) : List Instr :=
  s.ctxs.flatMap (fun c =>
    [Instr.hangDetected c.1, .faultRecordWrite c.1, .preemptStart c.1, .drainComplete c.1, .drainDeadline c.1,
      .resetDeadline c.1, .contextResume c.1] ++
    (ctxCores s c.1).flatMap (fun k => (List.range 6).map fun u => .scanOut c.1 (k * 6 + u)) ++
    c.2.woken.flatMap fun q => [Instr.launchEntry c.1 q, .krevEntry c.1 q, .kdropEntry c.1 q, .waitEntry c.1 q]) ++
  s.entries.map (fun e => .queueEntryComplete e.1) ++ s.launches.map (fun l => .launchComplete l.1) ++
  s.wgs.flatMap fun w => .workgroupEnd w.1 :: (List.range 4).map fun p => .agingSwap w.2.core p

/-- Events of the dies and the boot chain. -/
def packageEvents (s : State) : List Instr :=
  (List.range 8).map Instr.relockEnd ++ [.pairResetDone, .bootStage] ++
    s.hub.silent.map fun p => .remotePackageTimeout p.1

/-- Every choice the machine may make by itself: time passing is always one. -/
def candidates (s : State) : List Choice :=
  ((s.threads.filter fun p => mayIssue p.2 && scalarReady s p.1 p.2).map fun p => Choice.run p.1) ++
  ((s.threads.filter fun p => mayIssue p.2 && laneReady s p.1 p.2).map fun p => Choice.lane p.1) ++
  (threadEvents s ++ accessEvents s ++ cacheEvents s ++ regionEvents s ++ engineEvents s ++ queueEvents s
    ++ packageEvents s).map Choice.event

/-- Whether a choice can be carried out. -/
def canTakeChoice (s : State) (c : Choice) : Bool :=
  match takeChoice c s with
  | .refused _ => false
  | _ => true

/-- The choice made when the agenda is empty: one of those that can be carried out, or the passing of some time. -/
def ownChoice (s : State) : Choice :=
  let cs := (candidates s).filter (canTakeChoice s)
  (cs[Config.pick s.freeCtr % (cs.length + 1)]?).getD (.pass (Config.pick (s.freeCtr + 1)))

end Sys2Proof.Machine
end

