-- ==== Sys2Proof/Machine/Load.lean ====
section
/-!
DEFINITION. Placing one instruction where the next step fetches it: the page tables, the context, the launch and the
strand that a fetch needs (assumption 1).
-/
namespace Sys2Proof.Machine
open Sys2Proof

/-- Physical address of the root page table of a placed program; its tables follow at 4 KiB distances. -/
def placedRoot : Nat := 0x1000

/-- Physical address of the page that holds the placed instruction, mapped at virtual address 0. -/
def placedPage : Nat := 0x5000

/-- The four entries that map virtual page 0 to the placed page: V with a table's frame, and a leaf with V, X, U and A. -/
def placedTables : List (Nat × Nat) :=
  [(placedRoot, 0x2001), (0x2000, 0x3001), (0x3000, 0x4001), (0x4000, placedPage + 0x5D)]

/-- The bytes of a placed instruction and of its page tables in memory. -/
def placeBytes (m : List Host.Cell) (nbits w : Nat) : List Host.Cell :=
  let code := putBytes m placedPage (leBytes (if nbits = 96 then 12 else 8) (w % 2 ^ nbits))
  placedTables.foldl (fun acc e => putBytes acc e.1 (leBytes 8 e.2)) code

/-- The launch of a placed instruction: one item, in a workgroup with every resource a launch may declare. -/
def placedLaunch (ctx : Nat) : Launch :=
  { Launch.blank with
    ctx := ctx
    dmap := [0]
    lrec := { LaunchRec.blank with
      laneLen := 3, regs := 248, fall := 8, carve := 448, scratch := 65536, acc := 8, shadow := 2, ps := 16,
      sbase := 0x100000000, pbase := 0x200000 } }

/-- The workgroup of a placed instruction. -/
def placedWg (launch : Nat) : Wg := { Wg.blank with launch := launch, word := barInitWord true 1 }

/-- The lane registers of a placed strand: zero in its one lane. -/
def placedVregs : Tab W32 := (List.range 248).map fun r => (r * 32, 0)

/-- The strand that issues a placed instruction; a lane instruction stands at the head of its queued block. -/
def placedThread (ctx launch wg : Nat) (lane : Bool) : Thread :=
  { ctx := ctx, launch := launch, box := ⟨0, 1, 0, 1, 0, 1⟩, home := 0, pc := 0, sregs := [], conds := [], toks := [],
    wct := 0, wide := Wct.flat 0, aflags := 0, aenable := 0, pkdem := 0, batch := 0, ctxid := BitVec.ofNat 64 ctx, wait := .none, stop := none, more := [],
    rel := none, seqAt := 0, seqNo := 0, blockNo := if lane then 1 else 0, resumeAt := none, mark := none, fencedAt := 0,
    seen := [], dirtyS := 0, due := [], movedAt := 0,
    seat := some
      { wg := wg, six := 0, core := 0, part := 0, slot := 0, am := 1, seated := 1, vregs := placedVregs, zeroV := 0, undos := [], past := [], live := 0,
        longRegs := 0, dirtyV := 0, preds := [], xregs := [], kregs := [], latches := [],
        blocks := if lane then [⟨1, 0, 0, 0, 1, [], []⟩] else [], blo := 0, bhi := 0, rstat := 0, region := 0,
        active := true, since := 0, readyAt := none, aged := none, retired := false } }

/-- A state with an instruction placed, and its strand's issue on the agenda: caches are empty, the memory die behind the
placed pages is trained, and key slot 0 is loaded. -/
def place (s : State) (nbits w : Nat) : State :=
  let n := s.nextId
  let lane := nbits == 96
  { s with
    mem := { s.mem with bytes := placeBytes s.mem.bytes nbits w, poison := [], written := [] }
    coh := State.reset.coh
    reg := State.reset.reg
    ops := []
    engq := []
    teams := []
    mdies := tabPut s.mdies 0 { MDie.atReset with trained := true, keysIn := true }
    dies := (List.range 8).map fun d => (d, { Die.atReset with resetting := false })
    links := (List.range 48).map fun l => (l, { Link.atReset with rev := 1 })
    hub := Hub.atReset
    keys := [(0, 1)]
    ctxs := tabPut s.ctxs n { Ctx.blank with root := BitVec.ofNat 64 placedRoot, latest := n, ctxid := n }
    launches := tabPut s.launches n (placedLaunch n)
    wgs := tabPut s.wgs (n + 1) (placedWg n)
    threads := tabPut s.threads (n + 2) (placedThread n n (n + 1) lane)
    agenda := [if lane then .lane (n + 2) else .run (n + 2)]
    nextId := n + 3 }

end Sys2Proof.Machine
end

