-- ==== Sys2Proof/Machine/Step.lean ====
section
/-!
DEFINITION. The step: the next choice on the agenda is carried out, or, when the agenda is empty, one of the machine's
own (assumption 3).
-/
namespace Sys2Proof.Machine
open Sys2Proof

/-- The state in which a step carries out its choice: the choice is off the agenda, and the step has its number. -/
def State.stepping (s : State) : State := { s with agenda := s.agenda.tail, freeCtr := s.freeCtr + 1 }

/-- One step of the machine. -/
def step (s : State) : Host.Outcome State Fault Refusal :=
  match s.agenda with
  | c :: _ => takeChoice c s.stepping
  | [] => takeChoice (ownChoice s.stepping) s.stepping

/-- The state with an instruction stored where the next step fetches it (assumption 1). -/
def State.withFetchWord (s : State) (nbits w : Nat) : State := place s nbits w

end Sys2Proof.Machine
end

