-- ==== Sys2Proof/Safety.lean ====
section
/-!
DEFINITION. The terms in which claims about the machine are stated: the acting thread, a lane instruction that nothing
stops, the form of memory, and tables of the instructions of one shape with the results the manual gives them.
-/
namespace Sys2Proof.Machine
open Sys2Proof

/-! ### Steps -/

/-- What a step comes to once the active sets are filled (R44). -/
def settled (r : Host.Outcome State Fault Refusal) : Host.Outcome State Fault Refusal :=
  match r with
  | .next s => .next (settleSets s)
  | x => x

/-! ### Threads and registers -/

/-- The acting thread, standing in no region, seated or not. -/
def Acts (s : State) (t : Thread) : Prop := tabFind s.threads s.cur = some t

/-- The acting thread is a strand with a seat. -/
def ActsSeated (s : State) (t : Thread) (st : Seat) : Prop := Acts s t ∧ t.seat = some st

/-- Room for an M result in register `d`: the register is M already, or a fall row is free (R33). -/
def RowFree (s : State) (t : Thread) (d : SReg) : Prop := isM (getS t d) = true ∨ fallRowsUsed t d < (lrecOf s t).fall

/-- The state after a scalar instruction of `n` bytes whose only effect is that register `d` holds `v`. -/
def afterS (s : State) (t : Thread) (d : SReg) (n : Nat) (v : SVal) : State := putThr s s.cur (advance (setS t d v) n)

/-- The state after a scalar instruction of one word whose only effect is that condition `d` holds `v`. -/
def afterC (s : State) (t : Thread) (d : BitVec 3) (v : CVal) : State := putThr s s.cur (advance (setC t d v) 4)

/-- The state after a scalar instruction of one word with no effect but on the PC. -/
def afterNone (s : State) (t : Thread) : State := putThr s s.cur (advance t 4)

/-! ### The scalar ALU (R196, R197) -/

/-- Signed division of R196: 0 for a zero divisor, otherwise truncated toward zero. -/
def quotS (a b : Word) : Word := if b = 0 then 0 else BitVec.ofInt 64 (Int.tdiv a.toInt b.toInt)

/-- The three-register ALU instructions whose result on one item needs no coordinate, with that result (R196). -/
def aluTable : List ((SReg → SReg → SReg → Instr) × (Word → Word → Word)) :=
  [(.sadd, fun a b => a + b), (.ssub, fun a b => a - b), (.smul, fun a b => a * b),
   (.smulh, fun a b => BitVec.ofInt 64 (a.toInt * b.toInt / 2 ^ 64)),
   (.smulhn, fun a b => BitVec.ofNat 64 (a.toNat * b.toNat / 2 ^ 64)),
   (.sand, fun a b => a &&& b), (.sor, fun a b => a ||| b), (.sxor, fun a b => a ^^^ b),
   (.sshl, fun a b => a <<< (b.toNat % 64)), (.sshr, fun a b => a >>> (b.toNat % 64)),
   (.ssra, fun a b => a.sshiftRight (b.toNat % 64)),
   (.smin, fun a b => if a.toInt ≤ b.toInt then a else b), (.smax, fun a b => if a.toInt ≤ b.toInt then b else a),
   (.sminn, fun a b => if a.toNat ≤ b.toNat then a else b), (.smaxn, fun a b => if a.toNat ≤ b.toNat then b else a),
   (.sdiv, quotS), (.sdivn, fun a b => if b = 0 then 0 else BitVec.ofNat 64 (a.toNat / b.toNat)),
   (.srem, fun a b => if b = 0 then a else BitVec.ofInt 64 (a.toInt - b.toInt * Int.tdiv a.toInt b.toInt)),
   (.sremn, fun a b => if b = 0 then a else BitVec.ofNat 64 (a.toNat % b.toNat))]

/-- The one-operand ALU instructions with their results (R196): leading zeros, and one bits. -/
def aluOneTable : List ((SReg → SReg → Instr) × (Word → Word)) :=
  [(.sclz, fun a => BitVec.ofNat 64 (if a = 0 then 64 else 63 - Nat.log2 a.toNat)),
   (.spop, fun a => BitVec.ofNat 64 ((List.range 64).filter fun k => a.getLsbD k).length)]

/-- The instructions that add a coordinate times a factor, with the coordinate (R196). -/
def affTable : List ((SReg → SReg → SReg → Instr) × (Item → Nat)) :=
  [(.saffx, fun i => i.x), (.saffy, fun i => i.y), (.saffz, fun i => i.z)]

/-- The immediate forms of 14 bits with their results on the sign-extended immediate (R197). -/
def immTable : List ((SReg → SReg → BitVec 14 → Instr) × (Word → Word → Word)) :=
  [(.saddi, fun a b => a + b), (.sandi, fun a b => a &&& b), (.sori, fun a b => a ||| b), (.sxori, fun a b => a ^^^ b),
   (.smuli, fun a b => a * b)]

/-- The immediate shifts with their results (R197). -/
def immShiftTable : List ((SReg → SReg → BitVec 6 → Instr) × (Word → Nat → Word)) :=
  [(.sshli, fun a n => a <<< n), (.sshri, fun a n => a >>> n), (.ssrai, fun a n => a.sshiftRight n)]

/-- The comparisons of R199 by code. -/
def cmpTable : List (BitVec 4 × (Word → Word → Bool)) :=
  [(0, fun a b => a == b), (1, fun a b => a != b), (2, fun a b => a.toInt < b.toInt), (3, fun a b => a.toInt ≤ b.toInt),
   (4, fun a b => b.toInt < a.toInt), (5, fun a b => b.toInt ≤ a.toInt), (6, fun a b => a.toNat < b.toNat),
   (7, fun a b => a.toNat ≤ b.toNat), (8, fun a b => b.toNat < a.toNat), (9, fun a b => b.toNat ≤ a.toNat)]

/-- The comparisons of R200 by code. -/
def cmpImmTable : List (BitVec 3 × (Word → Word → Bool)) :=
  [(0, fun a b => a == b), (1, fun a b => a != b), (2, fun a b => a.toInt < b.toInt), (3, fun a b => a.toInt ≤ b.toInt),
   (4, fun a b => b.toInt < a.toInt), (5, fun a b => b.toInt ≤ a.toInt), (6, fun a b => a.toNat < b.toNat),
   (7, fun a b => b.toNat ≤ a.toNat)]

/-- The two-operand condition functions of R202. -/
def copTable : List ((BitVec 3 → BitVec 3 → BitVec 3 → Instr) × (Bool → Bool → Bool)) :=
  [(.copAnd, fun a b => a && b), (.copOr, fun a b => a || b), (.copXor, fun a b => a != b), (.copAndn, fun a b => a && !b)]

/-- The one-operand condition functions of R202. -/
def copOneTable : List ((BitVec 3 → BitVec 3 → Instr) × (Bool → Bool)) := [(.copNot, fun a => !a), (.copMov, fun a => a)]

/-! ### Control flow (R205 to R217) -/

/-- The state after the acting thread has gone to a PC with a token stack, and nothing else. -/
def goPc (s : State) (t : Thread) (pc : Word) (toks : List Token) : State := putThr s s.cur { t with pc := pc, toks := toks }

/-- The same for a strand that also takes a new `am`. -/
def goMask (s : State) (t : Thread) (st : Seat) (am : W32) (pc : Word) (toks : List Token) : State :=
  putThr s s.cur { t with pc := pc, toks := toks, seat := some { st with am := am } }

/-- The address `off` words from the acting thread's PC. -/
def hop (t : Thread) {n : Nat} (off : BitVec n) : Word := t.pc + 4 * off.signExtend 64

/-- A span has split at a boundary of an axis (R23): the part below it and the part from it on, which take a number of its own, are
what `f` makes of each with its value; every other thread and memory stand as they were. -/
def splitAt (s s' : State) (t : Thread) (ax : Axis) (b : Nat) (v : Bool) (f : Thread → Bool → Thread) : Prop :=
  tabFind s'.threads s.cur = some (f { t with box := (cutBox t.box ax b).1 } v) ∧
    tabFind s'.threads s.nextId = some (f { t with box := (cutBox t.box ax b).2 } (!v)) ∧
    (∀ j, j ≠ s.cur → j ≠ s.nextId → tabFind s'.threads j = tabFind s.threads j) ∧ s'.mem = s.mem ∧ s'.ops = s.ops

/-- The record of a TOK fault with a sub-cause: word 6 is the depth of the stack (R352). -/
def tokRec (s : State) (t : Thread) (sub : Nat) : Stop :=
  { mkStop s t .fault 0x06 sub t.pc with w6 := BitVec.ofNat 64 t.toks.length }

/-- The instructions that a span seats for whatever their operands, outside a region (R25, R211, R214, R219, R271). -/
def seatsFirst (d a : SReg) (n : BitVec 6) (w : BitVec 32) : List Instr :=
  [.seat, .trap n, .lx w, .barArw a 0, .barArv d a 0, .barWt a d, .barInit d a]

/-! ### Special registers (R184) -/

/-- The special registers a strand reads as U at once, with their values (R184). -/
def specialTable (s : State) (t : Thread) (st : Seat) : List (BitVec 6 × Word) :=
  [(3, BitVec.ofNat 64 (virtDie (launchOf s t.launch) (st.core / 128))), (4, BitVec.ofNat 64 s.hub.pix),
   (5, BitVec.ofNat 64 (virtQuad (launchOf s t.launch) (st.core / 4))),
   (6, BitVec.ofNat 64 (virtCore (launchOf s t.launch) st.core)), (7, BitVec.ofNat 64 (tileOf s st)),
   (8, BitVec.ofNat 64 st.six), (13, st.am.setWidth 64), (14, t.wct), (17, st.rstat), (18, t.aflags.setWidth 64),
   (19, t.aenable.setWidth 64), (20, BitVec.ofNat 64 (inFlight s s.cur .ld)), (21, BitVec.ofNat 64 (inFlight s s.cur .st)),
   (22, BitVec.ofNat 64 (inFlight s s.cur .atm)), (23, BitVec.ofNat 64 (inFlight s s.cur .cp)), (24, t.pkdem),
   (25, t.batch), (26, BitVec.ofNat 64 (ctxOf s t.ctx).lease), (27, t.ctxid), (28, st.seated.setWidth 64)]

/-- The three timers, with their values at the start of the present cycle of the strand's die (R184, R334). -/
def timerTable (s : State) (st : Seat) : List (BitVec 6 × Word) :=
  [(0, BitVec.ofNat 64 (cycleStart (dieOf s (st.core / 128)) s.time / Config.ticksPerNs)),
   (1, BitVec.ofNat 64 (dieCc (dieOf s (st.core / 128)) s.time)),
   (2, BitVec.ofNat 64 (dieScc (dieOf s (st.core / 128)) s.time))]

/-- The coordinate registers, with their affine values (R19). -/
def coordTable : List (BitVec 6 × SVal) := [(9, .a 0 1 0 0), (10, .a 0 0 1 0), (11, .a 0 0 0 1)]

/-- The special registers that a write reaches, with the thread after it: the first three from any context, `wct`, `batch`
and `ctxid` from a privileged one only (R184). -/
def swrTable (t : Thread) (v : Word) : List (BitVec 6 × Bool × Thread) :=
  [(18, false, { t with aflags := v.setWidth 6 }), (19, false, { t with aenable := v.setWidth 6 }),
   (24, false, { t with pkdem := v }), (14, true, { t with wct := v }), (25, true, { t with batch := v }),
   (27, true, { t with ctxid := (v.setWidth 16).setWidth 64 })]

/-- The special registers whose writes are ignored: from any context, or from a privileged one only (R184). -/
def swrIgnored : List (BitVec 6 × Bool) :=
  [(15, false), (16, false), (17, false)] ++
    ([0, 1, 2, 3, 4, 5, 6, 7, 8, 9, 10, 11, 12, 13, 20, 21, 22, 23, 28].map fun r => (r, true))

/-! ### Waits (R104, R217, R271 to R275) -/

/-- A thread with a number, in a context that is not frozen, with no stop of its own. -/
def Waits (s : State) (id : Nat) (t : Thread) : Prop :=
  tabFind s.threads id = some t ∧ (ctxOf s t.ctx).frozen = false ∧ t.stop = none

/-- The thread after its wait: it waits for nothing and has passed the instruction. -/
def waited (t : Thread) : Thread := { t with wait := .none, pc := t.pc + 4 }

/-- The state after an event whose only effect is that a thread's wait has ended. -/
def woken (s : State) (id : Nat) (t : Thread) : State := putThr s id (waited t)

/-- Whether every access of a thread has returned and been performed, and `rt` has reached its write completion times at a
scope (R104). -/
def Quiet (s : State) (id : Nat) (t : Thread) (scope : Nat) : Prop :=
  (∀ o ∈ s.ops, o.2.thread ≠ id) ∧ releaseAt t scope ≤ rtNs s

/-- A barrier word of the scratch of the acting strand's workgroup, readable at an offset with MAGIC (R269). -/
def BarAt (s : State) (t : Thread) (st : Seat) (off : Nat) (w : Word) : Prop :=
  off % 8 = 0 ∧ off + 8 ≤ (lrecOf s t).scratch ∧ barMagic w = 0xB7 ∧
    w = BitVec.ofNat 64 (scrGet ((tabFind s.wgs st.wg).getD Wg.blank) off 8)

/-! ### Regions (R123 to R139) -/

/-- The acting strand stands in a live region with a record. -/
def InLive (s : State) (t : Thread) (st : Seat) (r : Region) : Prop :=
  ActsSeated s t st ∧ st.region ≠ 0 ∧ tabFind s.reg.regions st.region = some r ∧ r.phase = .live

/-- A region has opened for a strand (R123, R124): its record stands under the next number, live, with the interval, the abort
target, the mask and the stack of `rbeg`; the strand is in it and has passed the instruction, with its registers as they were. -/
def opensRegion (s s' : State) (id : Nat) (t : Thread) (st : Seat) (strict : Bool) (tgt : Word) : Prop :=
  let l := launchOf s t.launch
  let lo := s.time / Config.ticksPerNs * 16 +
    if strict then (4 * virtQuad l (st.core / 4) + virtCore l st.core) % 16 else 0
  tabFind s'.reg.regions s.nextId = some
      { thread := id, die := st.core / 128, strict := strict, lo := lo, hi := if strict then lo else 2 ^ 63 - 1,
        target := tgt, mask := st.am, depth := t.toks.length, phase := .live,
        forms := t.sregs.map fun p => (p.1, formCode p.2), pend := none, wct := Wct.flat 0 } ∧
    (∃ u st', tabFind s'.threads id = some u ∧ u.pc = t.pc + 4 ∧ u.wait = .none ∧ u.sregs = t.sregs ∧ u.conds = t.conds ∧
      u.toks = t.toks ∧ u.seat = some st' ∧ st'.region = s.nextId ∧ st'.am = st.am ∧ st'.vregs = st.vregs ∧ st'.zeroV = st.zeroV) ∧
    (∀ j, j ≠ id → tabFind s'.threads j = tabFind s.threads j) ∧ s'.mem = s.mem ∧ s'.coh = s.coh ∧ s'.ops = s.ops

/-- The state after a region's record, listed under a number, has been replaced, and nothing else. -/
def setRegion (s : State) (rg : Nat) (r : Region) : State := modRegion s rg fun _ => r

/-- The state after a region's abort has been broadcast with a cause, a fault's cause and a user code, and the fault to take
when it is done (R139): its record counts the slices that hold its tags, its accesses in flight and its messages are gone, what they
were to write holds an undefined value, and its strand waits. -/
def abortBegun (s : State) (rg : Nat) (r : Region) (cause fcause ucode : Nat) (pend : Option Stop) : State :=
  { s with
    reg := { s.reg with
      regions := tabPut s.reg.regions rg { r with phase := .aborting cause fcause ucode (regionLines s rg), pend := pend }
      msgs := s.reg.msgs.filter fun m => m.rg != rg }
    ops := s.ops.filter fun p => p.2.region != rg
    threads := tabMod s.threads r.thread fun t =>
      { (s.ops.filter fun p => p.2.region == rg).foldl (fun u p => loseDest u p.2) t with wait := .abort } }

/-- The instructions of R128's second row but `cmo` and the lane instruction `cacc`, which end a live region whatever their
operands. -/
def endsRegion (d a b : SReg) (o : BitVec 18) (w : BitVec 11) (l : BitVec 3) : List Instr :=
  [.seat, .unseat, .sjoin w, .exit, .rbeg o, .rbegStrict o, .dlaunch d a b, .barArv d d b, .barArw d b, .barWt a b,
   .barInit d b, .hbarArv d l, .hbarArw l, .hbarWt a l]

/-! ### Memory accesses of the scalar stream (R252 to R268) -/

/-- An access of `n` bytes at a global address that nothing stops: aligned, outside the scratch and private windows and the
scratch aliases, translated to `x`, permitted, and not to a device from a region (R252). -/
def PlainAccess (s : State) (t : Thread) (n : Nat) (write : Bool) (va : Nat) (x : Xl) : Prop :=
  va % n = 0 ∧ va < 2 ^ 64 ∧ bitsAt va 56 8 < 0xFE ∧ isAlias (lrecOf s t) va = false ∧
    translate s (xlUnit t) t.ctx va = .ok x ∧ protSub (ctxOf s t.ctx).priv x.pte write = none ∧
    (inRegion t = true → pteMt x.pte ≠ 2)

/-- The access that a request puts in flight once it has translated to `x`: not yet performed. -/
def plainLane (s : State) (t : Thread) (n va : Nat) (x : Xl) (q : Req) : LaneAcc :=
  { lane := q.lane, item := ilin (lrecOf s t) q.item, va := BitVec.ofNat 64 va, pa := x.pa, n := n, val := q.val,
    val2 := q.val2, mt := pteMt x.pte, np := pteNp x.pte, key := pteKey x.pte, scr := none, phase := .todo,
    res := 0 }

/-- A load, store or atomic of the scalar stream, as the operation it puts in flight. -/
def scalarOpOf (s : State) (t : Thread) (path : Path) (kind : AccKind) (aop scope : Nat) (dst : Dest) : Op :=
  mkOp s s.cur t 0 none ⟨path, kind, aop, 0, scope, false, path == .ld && t.seat.isNone, false, 0, dst⟩ []

/-- The thread whose destination is M before a result comes (R34). -/
def materialised (s : State) (t : Thread) (st : Seat) (d : SReg) : Thread :=
  setS t d (.m (materialise s t st (getS t d)))

/-! ### Engines (R280 to R310) -/

/-- The acting strand, alone in its team, outside a region, with the full mask and no command of its team held (R282). -/
def SoleMember (s : State) (t : Thread) (st : Seat) : Prop :=
  ActsSeated s t st ∧ st.region = 0 ∧ (lrecOf s t).team = 1 ∧ fullMask s t st = true ∧
    ∀ h ∈ s.teams, ¬ (h.wg = st.wg ∧ h.team = teamOf s t st)

/-- The state after the acting strand's command has entered its queue under a new number and the strand has gone on. -/
def queued (s : State) (t : Thread) (st : Seat) (c : Cmd) : State := memberGoes (enqueue s (mkEng t st c [s.cur])) s.cur

/-- The registers named are U and hold the values listed. -/
def Operands (t : Thread) (rs : List SReg) (vs : List Word) : Prop := rs.map (getS t) = vs.map SVal.u

/-- A completion barrier that a register names: none for s0, otherwise an aligned offset inside the scratch, with the
generation of its word as the command issues (R300, R303). -/
def BarOf (s : State) (t : Thread) (st : Seat) (b : SReg) (bar : Option (Nat × BitVec 8)) : Prop :=
  (b = 0 ∧ bar = none) ∨
    (b ≠ 0 ∧ ∃ off, getS t b = .u off ∧ off.toNat % 8 = 0 ∧ off.toNat + 8 ≤ (lrecOf s t).scratch ∧
      bar = some (off.toNat, barGen (BitVec.ofNat 64 (((tabFind s.wgs st.wg).map fun g => scrGet g off.toNat 8).getD 0))))

/-- An operation of a queue that its engine may work on: listed, not finished, at the head, of a context that runs. -/
def EngineTurn (s : State) (id : Nat) (o : EngOp) : Prop :=
  tabFind s.engq id = some o ∧ o.finished = false ∧ atHead s id o = true ∧ engRuns s o = true

/-- An operation of a queue has ended with a status. -/
def OpDone (s : State) (id status : Nat) : Prop :=
  ∃ x, tabFind s.engq id = some x ∧ x.finished = true ∧ x.status = status

/-! ### Lane instructions (R171 to R181, R224 to R248) -/

/-- A lane instruction of the acting strand that nothing stops: it is the next one of the strand's oldest block, its fields
have no defect, its registers lie below `.regs`, the block may go on, every index register it goes through lies in its window,
and `e` holds what it acts in (R172 to R174, R179). -/
structure LaneRuns (i : Instr) (s : State) (e : LaneEnv) : Prop where
  acts : ActsSeated s e.t e.st
  same : e.s = s
  oldest : ∃ rest, e.st.blocks = e.b :: rest
  fields : ∃ sh m, laneShape i = some (sh, m, e.f) ∧ beyondRegs (lrecOf s e.t).regs sh e.f = false ∧
    pairBeyond s e.t e.st e.ex sh e.f = false ∧
    ∀ u ∈ indexUses sh e.f, ∀ L ∈ lanesOf e.ex, indexBad s e.t e.st u.1 u.2 L = false
  sound : WellFormed i
  goesOn : e.b.pos ≠ 1023 ∨ e.f.t = 1
  lanes : e.ex = execMask e.st e.b e.f
  long : e.cons = (readClears i e).any fun r => e.st.longRegs.getLsbD r

/-- Two seats alike but for the lane registers and the marks on them, the latches and the blocks. -/
def SameButLane (st st' : Seat) : Prop :=
  st' = { st with
    vregs := st'.vregs, zeroV := st'.zeroV, live := st'.live, longRegs := st'.longRegs, dirtyV := st'.dirtyV,
    latches := st'.latches, blocks := st'.blocks, past := st'.past }

/-- The latches after an instruction has read its operands: one that consumes a long-latency result breaks them (R316). -/
def latchesRead (e : LaneEnv) : List Latch :=
  if e.cons then e.st.latches.map fun l => { l with broken := true } else e.st.latches

/-- The state after an instruction whose result of `w` bits and flags in each executing lane are `r` (R224). -/
def afterEach (i : Instr) (e : LaneEnv) (w : Nat) (r : Nat → Nat × AFlags) : State :=
  afterResult i e w (fun L => (r L).1) (orFlags ((lanesOf e.ex).map fun L => (r L).2))

/-- The integer instructions with the exact result of R228 on operands of `w` bits. -/
def laneIntTable : List ((LaneFields → Instr) × (Nat → Int → Int → Int → Int)) :=
  [(.iadd, fun _ a b _ => a + b), (.isub, fun _ a b _ => a - b), (.imul, fun _ a b _ => a * b),
   (.imulh, fun w a b _ => a * b / 2 ^ w), (.imad, fun _ a b c => a * b + c), (.iabs, fun _ a _ _ => |a|),
   (.ineg, fun _ a _ _ => -a), (.imin, fun _ a b _ => if a ≤ b then a else b), (.imax, fun _ a b _ => if a ≤ b then b else a)]

/-- The bit instructions of two operands (R228). -/
def laneBitTable : List ((LaneFields → Instr) × ((w : Nat) → BitVec w → BitVec w → BitVec w)) :=
  [(.land, fun _ a b => a &&& b), (.lor, fun _ a b => a ||| b), (.lxor, fun _ a b => a ^^^ b), (.andn, fun _ a b => a &&& ~~~b)]

/-- The bit instructions of one operand (R228). -/
def laneBitOneTable : List ((LaneFields → Instr) × ((w : Nat) → BitVec w → BitVec w)) :=
  [(.lnot, fun _ a => ~~~a), (.clz, fun w a => BitVec.ofNat w (if a = 0 then w else w - 1 - Nat.log2 a.toNat)),
   (.popc, fun w a => BitVec.ofNat w ((List.range w).filter fun k => a.getLsbD k).length), (.brev, fun _ a => a.reverse)]

/-- The shifts, by a distance below `w` (R228). -/
def laneShiftTable : List ((LaneFields → Instr) × ((w : Nat) → BitVec w → Nat → BitVec w)) :=
  [(.shl, fun _ a n => a <<< n), (.shr, fun _ a n => a >>> n), (.sra, fun _ a n => a.sshiftRight n),
   (.rotl, fun _ a n => a.rotateLeft n)]

/-- The comparisons of `icmp` by FAM (R230). -/
def laneCmpTable : List (BitVec 3 × (Int → Int → Bool)) :=
  [(0, fun a b => a == b), (1, fun a b => a != b), (2, fun a b => a < b), (3, fun a b => a ≤ b), (4, fun a b => b < a),
   (5, fun a b => b ≤ a)]

/-- The float instructions that compute on one element at a time, with the operation of each (R232, R234). -/
def laneFloatTable : List ((LaneFields → Instr) × (LaneFields → Fmt → Nat → Nat → Nat → Nat × AFlags)) :=
  [(.fadd, fun f m a b _ => opAdd m (rndOf f) (ftzOf f) a b), (.fsub, fun f m a b _ => opSub m (rndOf f) (ftzOf f) a b),
   (.fmul, fun f m a b _ => opMul m (rndOf f) (ftzOf f) a b), (.ffma, fun f m a b c => opFma m (rndOf f) (ftzOf f) a b c),
   (.fmin, fun f m a b _ => opMinMax m (ftzOf f) false (f.fam.getLsbD 0) a b),
   (.fmax, fun f m a b _ => opMinMax m (ftzOf f) true (f.fam.getLsbD 0) a b),
   (.fabs, fun _ m a _ _ => (a % 2 ^ (m.e + m.m), 0)),
   (.fneg, fun _ m a _ _ => (a % 2 ^ (m.e + m.m) + (1 - a / 2 ^ (m.e + m.m) % 2) * 2 ^ (m.e + m.m), 0)),
   (.fcpsgn, fun _ m a b _ => (a % 2 ^ (m.e + m.m) + b / 2 ^ (m.e + m.m) % 2 * 2 ^ (m.e + m.m), 0)),
   (.frcp, fun f _ a _ _ => opRcp (ftzOf f) a), (.frsq, fun f _ a _ _ => opRsq (ftzOf f) a),
   (.fsqrt, fun f m a _ _ => opSqrt m (rndOf f) (ftzOf f) a), (.fdiv, fun f m a b _ => opDiv m (rndOf f) (ftzOf f) a b),
   (.fex2, fun f _ a _ _ => opEx2 (ftzOf f) a), (.flg2, fun f _ a _ _ => opLg2 (ftzOf f) a),
   (.fsin, fun f _ a _ _ => opSinCos false (ftzOf f) a), (.fcos, fun f _ a _ _ => opSinCos true (ftzOf f) a),
   (.ftrunc, fun f m a _ _ => opTrunc m (rndOf f) (ftzOf f) a)]

/-- The lane accesses and atomics, with the space, the kind of access and the values each lane gives (R253 to R255, R259):
the destination is `laneDest e` for those with a result. -/
def laneAccTable (e : LaneEnv) (f : LaneFields) : List (Instr × Nat × AccSpec × (Nat → Nat) × (Nat → Nat)) :=
  let sc := (f.imm.extractLsb' 25 3).toNat
  let op := (f.imm.extractLsb' 28 4).toNat
  [(.ld f, f.fam.toNat, ⟨.ld, .load, 0, e.ty, sc, f.imm.getLsbD 28, f.rnd.getLsbD 1, f.rnd.getLsbD 0, 0, laneDest e⟩,
      fun _ => 0, fun _ => 0),
   (.st f, f.fam.toNat, ⟨.st, .store, 0, e.ty, sc, false, false, false, 0, .none⟩, srcB e e.rb, fun _ => 0),
   (.stk f, f.fam.toNat, ⟨.st, .stk, 0, e.ty, sc, false, false, false, tabGet 0 e.b.kregs (f.sc.toNat % 8), .none⟩,
      srcB e e.rb, fun _ => 0),
   (.atom f, 0, ⟨.atm, .atomic, op, e.ty, sc, false, false, false, 0, laneDest e⟩, srcB e e.rb, fun _ => 0),
   (.red f, 0, ⟨.st, .atomic, op, e.ty, sc, false, false, false, 0, .none⟩, srcB e e.rb, fun _ => 0),
   (.cas f, 0, ⟨.atm, .cas, 0, e.ty, sc, false, false, false, 0, laneDest e⟩, srcB e e.rb, srcC e e.rb)]

/-- The seat after a lane access with a destination: its result has been pushed into l0, to be filled in when it comes, where no
instruction may read that of a load (R177, R253), its registers are marked as a long-latency result, but for a load of
scratch (R316), and outside a region the strand keeps what it goes back to if the access faults (R181). -/
def awaitsLatch (e : LaneEnv) (space : Nat) (a : AccSpec) (st : Seat) : Seat :=
  let st1 : Seat := { st with
    latches := ({ vals := [], mask := e.ex, block := e.b.seq, pos := e.b.pos, broken := a.kind == .load,
                  pend := some (e.t.seqNo + 1) } : Latch) :: st.latches.take 3
    longRegs := if a.kind = .load ∧ space = 2 then st.longRegs
      else st.longRegs ||| (dstRegs a.dst).foldl (fun m k => m ||| (1#248 <<< k)) 0 }
  if st.region = 0 then { st1 with undos := st.undos ++ [undoOf st1 (e.t.seqNo + 1) e.t.aflags] } else st1

/-! ### Accesses in flight and the directory (R79, R97, R368, R369) -/

/-- The value of a line that is neither parked, nor held by another package, nor poisoned, and not on its way home: what every L2
that holds it has, and memory where no die holds it dirty (R368). -/
def LineIs (s : State) (line key : Nat) (d : LineData) : Prop :=
  locketAt s line = none ∧ (∀ r ∈ s.coh.remote, r.line = line → r.owned = false) ∧ wbAt s line = none ∧
    poisoned s line = false ∧ (∀ x ∈ s.coh.l2, x.line = line → x.data = d) ∧
    ((∀ x ∈ s.coh.l2, x.line = line → x.st = .e ∨ x.st = .s) → memLine s line key = .data d)

/-- A lane of an operation in flight. -/
def LaneInFlight (s : State) (op lane : Nat) (o : Op) (a : LaneAcc) : Prop :=
  tabFind s.ops op = some o ∧ (o.lanes.find? fun x => x.lane == lane) = some a

/-- A line that one die's L2 alone holds, dirty and writable, and that is neither parked, poisoned nor in part with a core. -/
def SoleLine (s : State) (die line : Nat) (l : L2Line) : Prop :=
  s.coh.l2.filter (fun x => x.line == line) = [l] ∧ l.die = die ∧ l.st = .m ∧ l.ro = false ∧ l.excl = none ∧
    locketAt s line = none ∧ wbAt s line = none ∧ poisoned s line = false ∧ ∀ p ∈ s.coh.partials, p.line ≠ line

/-- An engine's write of `n` bytes of one line that nothing stops: outside the scratch aliases, on a page that may be written and
is marked and cached so and has a key, to a line that the die of its core holds alone and that its slice can take now. -/
def PlainWrite (s : State) (o : EngOp) (va n : Nat) (x : Xl) (l : L2Line) : Prop :=
  0 < n ∧ va % 128 + n ≤ 128 ∧ isAlias (launchOf s o.launch).lrec va = false ∧
    (va + n ≤ (launchOf s o.launch).lrec.sbase.toNat ∨ (launchOf s o.launch).lrec.sbase.toNat ≤ va) ∧
    xlWaits s o.core o.ctx va true = false ∧ engLate s o (lineOf x.pa) = false ∧
    translate s o.core o.ctx va = .ok x ∧ protSub (ctxOf s o.ctx).priv x.pte true = none ∧
    noteAccess s o.core o.ctx va true = s ∧ x.pa % 128 = va % 128 ∧ SoleLine s (o.core / 128) (lineOf x.pa) l ∧
    slotEmpty s x.pa (pteKey x.pte) = false ∧ taggedDie s (lineOf x.pa) = none ∧
      engBlocked s o (lineOf x.pa) (o.core / 128) true = false

/-- The lanes of that number have been performed with a result. -/
def LaneDone (s : State) (op lane : Nat) (res : Word) : Prop :=
  ∃ o, tabFind s.ops op = some o ∧ ∀ x ∈ o.lanes, x.lane = lane → x.phase = .done ∧ x.res = res

/-- The state with the record of an operation in flight replaced. -/
def withOp (s : State) (op : Nat) (o : Op) : State := { s with ops := tabPut s.ops op o }

end Sys2Proof.Machine
end

