-- ==== Sys2Proof/Certificates/Slice0/Obligations.lean ====
section
/-!
DEFINITION. The statements for the provers: what each instruction and each event of the machine does, from the numbered
rules of the manual, and what every step keeps.
-/
open Sys2Proof Sys2Proof.Machine

/-- The words that the manual prints beside the instructions they encode (R14, R165, R169, R188, R190). -/
def Obligations.EncodingWords : Prop :=
  (∀ p ∈ ([(0x04304200, 0, .sadd 3 1 2), (0x08413FFF, 0, .saddi 4 4 0x3FFF), (0x28900000, 0x12345678, .sli 9 0x12345678),
      (0x28900001, 1, .sliHi 9 1), (0x2C108302, 0, .scmp 1 2 3 2), (0x31004028, 0, .scmpi 2 0 1 40),
      (0x34518703, 0, .ssel 5 6 7 3), (0x38200103, 0, .copAndn 2 0 1), (0x3C80C001, 0, .sform 8 3 1),
      (0x4051A002, 0, .sld 5 6 2 0 0 2), (0x4451B402, 0, .sst 5 6 3 2 2), (0x487209B9, 0, .satom 7 8 9 1 3 9),
      (0x4C01050A, 0, .cmo 4 5 2 2), (0x50210502, 0, .krev 2 4 5), (0x54028B03, 0, .barInit 10 11),
      (0x5801000D, 0, .hbarWt 4 3), (0x5C00001B, 0, .fence 3 3), (0x613FFFFD, 0, .br 2 0 0x3FFFFD),
      (0x70000000, 0x30, .lx 0x30), (0x78030001, 0, .wait 12 1), (0x85800005, 0, .dvg 3 0 0 5)] :
      List (W32 × W32 × Instr)), decodeScalar p.1 p.2.1 = .ok p.2.2) ∧
  (∀ p ∈ ([(0xA00000FF, .sjoin 255), (0xA4000003, .qfence 3), (0xA8014001, .snoozeAbs 5), (0xC2D51801, .mma 0x2D 20 24 1),
      (0xCC178009, .mdrain 1 30 9), (0xDC1A000E, .cpy 1 40 0 0xE), (0xE00C8020, .coll 50 1 0 0),
      (0xE7FFFE01, .rbegStrict 0x3FFFE), (0xF0010502, .rnarNarrow 4 5), (0xF8048003, .swr 18 0),
      (0xF8651504, .dlaunch 6 20 21)] : List (W32 × Instr)), decodeScalar p.1 0 = .ok p.2) ∧
  decodeScalar 0 0 = .error 0x01 ∧ decodeScalar 0xAC000000 0 = .error 0x01 ∧
  decodeLane (0x001C1401#32 ++ 0x808FC101#32 ++ 0#32) =
    .ok (.iadd ⟨0, 7, 5, 1, 0x202, 252, 1, 0, 0, 0, 0, 1, 0⟩) ∧
  decodeLane (0x100BFC08#32 ++ 0x3F0FC3A0#32 ++ 0x3FC00000#32) =
    .ok (.fadd ⟨0, 2, 255, 8, 252, 252, 3, 1, 1, 0, 0, 0, 0x3FC00000⟩) ∧
  decodeLane (0x209C0809#32 ++ 0x3F0FC120#32 ++ 3#32) = .ok (.cvt ⟨0, 7, 2, 9, 252, 252, 1, 0, 1, 0, 0, 0, 3⟩) ∧
  decodeLane (0x309C1C05#32 ++ 0x3F0FC086#32 ++ 1#32) = .ok (.shfl ⟨0, 7, 7, 5, 252, 252, 0, 1, 0, 0, 3, 0, 1⟩) ∧
  decodeLane (0x401C1802#32 ++ 0x3F0FC202#32 ++ 0x16000000#32) =
    .ok (.ld ⟨0, 7, 6, 2, 252, 252, 2, 0, 0, 0, 1, 0, 0x16000000⟩) ∧
  decodeLane (0x509C2402#32 ++ 0x01406000#32 ++ 0x04000000#32) = .ok (.cas ⟨0, 7, 9, 2, 5, 6, 0, 0, 0, 0, 0, 0, 0x04000000⟩) ∧
  decodeLane (0x069C1401#32 ++ 0x808FC101#32 ++ 0#32) = .error 0x01

/-- R14, R165, R169, R188, R190: the decoder reads from the words of an instruction that instruction, with every operand, and
no other words have that meaning: a word that decodes is the encoding of what it decodes to. -/
def Obligations.DecodeEncode : Prop :=
  ∀ (i : Instr) (w0 w1 w2 : W32),
    (encode i = some [w0] ↔ isSX w0 = false ∧ decodeScalar w0 w1 = .ok i) ∧
    (encode i = some [w0, w1] ↔ isSX w0 = true ∧ decodeScalar w0 w1 = .ok i) ∧
    (encode i = some [w0, w1, w2] ↔ decodeLane (w2 ++ w1 ++ w0) = .ok i)

/-- R168, R179, R209, R14: a step whose choice is that a thread issues runs `exec` of the instruction that the decoder reads
from the bytes at its PC (or, for a lane instruction, at the lane PC of its oldest block), with the thread as the acting one,
its context's hang count at 0 where it is a strand (R48) and the pages fetched from marked as used; a lane instruction's fault
waits while a lane before it may still fault (R181); a thread that is not ready issues nothing (R44); a step whose choice is an
event runs `exec` of it; and one whose choice is that a core of Umush executes an instruction is that core's execution of it (R2).
What a step does at its end is to fill the active sets (R44). -/
def Obligations.StepRunsDecoded : Prop :=
  ∀ (s : State) (id : Nat) (t : Thread) (i : Instr) (rest : List Choice),
    let u := s.stepping
    tabFind s.threads id = some t → mayIssue t = true →
    (∀ w0 w1, s.agenda = .run id :: rest → scalarReady u id t = true → fetchWord u t t.pc.toNat = .ok w0 →
      (if isSX w0 then fetchWord u t (t.pc + 4).toNat = .ok w1 else w1 = 0) → decodeScalar w0 w1 = .ok i →
      step s = settled (exec i (scalarIssued u id t (if isSX w0 then 8 else 4)))) ∧
    (∀ st b bs w0 w1 w2, s.agenda = .lane id :: rest → t.seat = some st → st.blocks = b :: bs → laneReady u id t = true →
      b.lpc + 3 * b.pos < (lrecOf u t).laneLen →
      fetchWord u t (laneVa u t (b.lpc + 3 * b.pos)) = .ok w0 →
      fetchWord u t (laneVa u t (b.lpc + 3 * b.pos + 1)) = .ok w1 →
      fetchWord u t (laneVa u t (b.lpc + 3 * b.pos + 2)) = .ok w2 → decodeLane (w2 ++ w1 ++ w0) = .ok i →
      step s = settled (laneEffect u id (exec i (laneIssued u id t (b.lpc + 3 * b.pos)))) ∧
      (lanesSure u id = true → step s = settled (exec i (laneIssued u id t (b.lpc + 3 * b.pos))))) ∧
    (s.agenda = .run id :: rest → scalarReady u id t = false → step s = settled (.next u)) ∧
    (s.agenda = .lane id :: rest → laneReady u id t = false → step s = settled (.next u)) ∧
    (s.agenda = .event i :: rest → encode i = none → step s = settled (exec i u)) ∧
    (∀ k, s.agenda = .umush k i :: rest → step s = settled (umushStep k i u)) ∧
    (∀ n, let v := scalarIssued u id t n
      v.cur = id ∧ v.threads = s.threads ∧ v.ops = s.ops ∧ v.agenda = s.agenda.tail ∧ v.time = s.time ∧
        (t.seat = none → (ctxOf v t.ctx).hang = (ctxOf s t.ctx).hang))

/-- R14, R49, R50, R354, R355, R375, R380, R385 and what the model chose (assumptions 4, 5, 7, 8, 9): the state after reset. -/
def Obligations.ResetValues : Prop :=
  let s := State.reset
  memWf s.mem.bytes = true ∧ s.threads = [] ∧ s.launches = [] ∧ s.ctxs = [] ∧ s.ops = [] ∧ s.coh.l2 = [] ∧
    (∀ d, dieCc (dieOf s d) s.time = 0 ∧ dieScc (dieOf s d) s.time = 0 ∧ (dieOf s d).relocks = 0 ∧
      (dieOf s d).resetting = true) ∧
    s.hub.fmode = 0x45 ∧ s.hub.drainDl = 200 ∧ s.hub.resetDl = 10000 ∧ s.hub.hangThr = 0x80000000 ∧
    s.hub.salvEn = false ∧ s.hub.salvOvf = false ∧ s.hub.partBusy = false ∧ s.hub.partErr = false ∧ s.hub.partDone = 0 ∧
    s.boot.stage = 0 ∧ s.boot.cores.length = 4 ∧ s.time = 0

/-- The model's form of memory: every step keeps the list of bytes sorted by address, with no zero byte listed. -/
def Obligations.MemoryFormKept : Prop :=
  ∀ s s' : State, memWf s.mem.bytes = true → step s = .next s' → memWf s'.mem.bytes = true

/-- R196, R166: on U operands each three-register and two-register ALU instruction writes its result as a U value and moves
the PC on by one word; nothing else changes, and no flag exists for it to set.

R197, R198: the immediate forms on a U operand, and the two instructions that load an immediate word.

R2: a core of Umush executes the three-register forms as Kieri does, on its own registers. -/
def Obligations.AluUniform : Prop :=
  (∀ (s : State) (t : Thread) (d a b : SReg) (v w : Word), Acts s t → d ≠ 0 → getS t a = .u v →
      (getS t b = .u w → ∀ p ∈ aluTable, exec (p.1 d a b) s = .next (afterS s t d 4 (.u (p.2 v w)))) ∧
      (∀ p ∈ aluOneTable, exec (p.1 d a) s = .next (afterS s t d 4 (.u (p.2 v))))) ∧
  (∀ (s : State) (t : Thread) (d a : SReg) (v : Word), Acts s t → d ≠ 0 →
      (getS t a = .u v → ∀ i, ∀ p ∈ immTable, exec (p.1 d a i) s = .next (afterS s t d 4 (.u (p.2 v (i.signExtend 64))))) ∧
      (getS t a = .u v → ∀ i, ∀ p ∈ immShiftTable, exec (p.1 d a i) s = .next (afterS s t d 4 (.u (p.2 v i.toNat)))) ∧
      (∀ w, exec (.sli d w) s = .next (afterS s t d 8 (.u (w.signExtend 64)))) ∧
      (getS t d = .u v → ∀ w, exec (.sliHi d w) s = .next (afterS s t d 8 (.u (w ++ v.setWidth 32))))) ∧
  (∀ (s : State) (k : Nat) (u : Thread) (d a b : SReg) (v w : Word), s.boot.powered = true → s.boot.cores[k]? = some u →
      u.wait = .none → u.stop = none → d ≠ 0 → getS u a = .u v → getS u b = .u w → ∀ p ∈ aluTable,
      umushStep k (p.1 d a b) s = .next (modBoot s fun x => { x with
        cores := x.cores.set k (advance (setS u d (.u (p.2 v w))) 4) }))

/-- R196, R20, R34: in a strand every ALU instruction completes whatever forms its operands have, given a fall row for an M
result; the value of the destination at each lane in `am` is the result on the operands' values at that lane, and nothing
but the destination and the PC changes.

R33, R34: an M result without a free fall row raises FALL and has no effect; in a span it seats the span first. -/
def Obligations.AluPerItem : Prop :=
  (∀ (s : State) (t : Thread) (st : Seat) (d a b : SReg), ActsSeated s t st → d ≠ 0 → RowFree s t d →
      (∀ p ∈ aluTable, ∃ v, exec (p.1 d a b) s = .next (afterS s t d 4 v) ∧
        ∀ L, laneIn st.am L = true → L < 32 → svalAt v L (slotItem s t st L) =
          p.2 (svalAt (getS t a) L (slotItem s t st L)) (svalAt (getS t b) L (slotItem s t st L))) ∧
      (∀ p ∈ affTable, ∃ v, exec (p.1 d a b) s = .next (afterS s t d 4 v) ∧
        ∀ L, laneIn st.am L = true → L < 32 → svalAt v L (slotItem s t st L) =
          svalAt (getS t a) L (slotItem s t st L) +
            svalAt (getS t b) L (slotItem s t st L) * BitVec.ofNat 64 (p.2 (slotItem s t st L)))) ∧
  (∀ (s : State) (t : Thread) (d a b : SReg), Acts s t → d ≠ 0 → isM (getS t a) = true →
      (∀ st, t.seat = some st → ¬ RowFree s t d →
        ∀ p ∈ aluTable, exec (p.1 d a b) s = .next (takeStop s s.cur (mkStop s t .fault 0x05 0 t.pc))) ∧
      (t.seat = none → ∀ p ∈ aluTable, exec (p.1 d a b) s = .next (seatSpan s s.cur t none)))

/-- R199 to R202, R204: comparisons, condition functions, selection and `sform` on U operands.

R204: `sform` of an A operand reads its strides and its base, and one of an M operand its form; the base of an M operand is the
operand in M form. R201: in a strand `ssel` selects for each item in `am`, whatever forms its operands and condition have.

R199, R202, R203: in a strand a comparison or condition function completes whatever forms its operands have, and the
condition at each lane in `am` whose item lies in the launch's range is the result on the operands there. -/
def Obligations.Conditions : Prop :=
  (∀ (s : State) (t : Thread) (d a b : SReg) (c m n : BitVec 3) (v w : Word) (x y : Bool), Acts s t → d ≠ 0 → c ≠ 7 →
      getS t a = .u v → getS t b = .u w → getC t m = .u x → getC t n = .u y →
      (∀ p ∈ cmpTable, exec (.scmp c a b p.1) s = .next (afterC s t c (.u (p.2 v w)))) ∧
      (∀ i, ∀ p ∈ cmpImmTable, exec (.scmpi p.1 c a i) s = .next (afterC s t c (.u (p.2 v (i.signExtend 64))))) ∧
      (∀ p ∈ copTable, exec (p.1 c m n) s = .next (afterC s t c (.u (p.2 x y)))) ∧
      (∀ p ∈ copOneTable, exec (p.1 c m) s = .next (afterC s t c (.u (p.2 x)))) ∧
      exec (.copSet c) s = .next (afterC s t c (.u true)) ∧ exec (.copClr c) s = .next (afterC s t c (.u false)) ∧
      exec (.ssel d a b m) s = .next (afterS s t d 4 (.u (if x then v else w))) ∧
      (∀ f : BitVec 8, f.toNat < 5 → exec (.sform d a f) s = .next (afterS s t d 4 (.u (if f = 4 then v else 0))))) ∧
  (∀ (s : State) (t : Thread) (d a : SReg), Acts s t → d ≠ 0 →
      (∀ (b : Word) (x y z : W32), getS t a = .a b x y z →
        ∀ p ∈ ([(0, 1), (1, x.signExtend 64), (2, y.signExtend 64), (3, z.signExtend 64), (4, b)] : List (BitVec 8 × Word)),
          exec (.sform d a p.1) s = .next (afterS s t d 4 (.u p.2))) ∧
      (∀ l, getS t a = .m l →
        ∀ p ∈ ([(0, 2), (1, 0), (2, 0), (3, 0)] : List (BitVec 8 × Word)),
          exec (.sform d a p.1) s = .next (afterS s t d 4 (.u p.2))) ∧
      (∀ l st, getS t a = .m l → t.seat = some st → RowFree s t d → ∃ v, exec (.sform d a 4) s = .next (afterS s t d 4 (.m v)) ∧
        ∀ L, laneIn st.am L = true → L < 32 → v.getD L 0 = l.getD L 0)) ∧
  (∀ (s : State) (t : Thread) (st : Seat) (d a b : SReg) (n : BitVec 3), ActsSeated s t st → d ≠ 0 → RowFree s t d →
      ∃ v, exec (.ssel d a b n) s = .next (afterS s t d 4 v) ∧
        ((∀ x y z, ¬ (getC t n = .u x ∧ getS t a = .u y ∧ getS t b = .u z)) → isM v = true) ∧
        ∀ L, laneIn st.am L = true → L < 32 → svalAt v L (slotItem s t st L) =
          if cvalAt (getC t n) L (slotItem s t st L) then svalAt (getS t a) L (slotItem s t st L)
          else svalAt (getS t b) L (slotItem s t st L)) ∧
  (∀ (s : State) (t : Thread) (st : Seat) (c m n : BitVec 3) (a b : SReg), ActsSeated s t st → c ≠ 7 →
      (∀ p ∈ cmpTable, ∃ r, exec (.scmp c a b p.1) s = .next (afterC s t c r) ∧
        ∀ L, laneIn st.am L = true → L < 32 → inRange (lrecOf s t) (slotItem s t st L) = true →
          cvalAt r L (slotItem s t st L) =
            p.2 (svalAt (getS t a) L (slotItem s t st L)) (svalAt (getS t b) L (slotItem s t st L))) ∧
      (∀ p ∈ copTable, ∃ r, exec (p.1 c m n) s = .next (afterC s t c r) ∧
        ∀ L, laneIn st.am L = true → L < 32 → inRange (lrecOf s t) (slotItem s t st L) = true →
          cvalAt r L (slotItem s t st L) =
            p.2 (cvalAt (getC t m) L (slotItem s t st L)) (cvalAt (getC t n) L (slotItem s t st L))))

/-- R166, R187: whatever an instruction of the scalar stream would do, a defect of its fields raises ILL with the least
sub-cause instead, in a strand; a span seats first. -/
def Obligations.ScalarIllegal : Prop :=
  ∀ (s : State) (t : Thread) (i : Instr) (sub : Nat), Acts s t → scalarDefect i = some sub →
    exec i s = fault s t 0x01 sub

/-- R208: `jmp`, from its word to its effect: SD, SB and FN must be zero; a value that is not U raises CONV; one with either of its
low two bits set raises ALIGN; otherwise PC becomes the value and no token is pushed. -/
def Obligations.Jump : Prop :=
  (∀ (a : SReg) (w1 : W32), decodeScalar (0x1A#6 ++ 0#6 ++ a ++ 0#14) w1 = .ok (.jmp a)) ∧
  (∀ w0 w1 : W32, fld w0 26 6 = 0x1A#6 → w0 &&& 0x03F03FFF#32 ≠ 0#32 → decodeScalar w0 w1 = .error 0x03) ∧
  (∀ (s : State) (t : Thread) (a : SReg), Acts s t →
    ((∀ v, getS t a ≠ .u v) → exec (.jmp a) s = fault s t 0x02 0x01) ∧
    (∀ v, getS t a = .u v →
      (v.getLsbD 0 = true ∨ v.getLsbD 1 = true → exec (.jmp a) s = fault s t 0x12 0) ∧
      (v.getLsbD 0 = false → v.getLsbD 1 = false → exec (.jmp a) s = .next (putThr s s.cur { t with pc := v }))))

/-- R205, R206: on a U condition, whether in a span or a strand, `br` goes to its target or to the next word, and `call`
pushes a CALL token with the return PC and `am` when it goes.

R207, R208, R218: `jmp` goes to an aligned U address, `ret` takes its CALL token's PC and mask, and `nop` only moves the
PC on.

R205, R206, R23: on a threshold that cuts its box a span splits in two along the threshold's axis, and each part goes its own
way, with a CALL token where it calls; every other thread stands as it was. -/
def Obligations.Branches : Prop :=
  (∀ (s : State) (t : Thread) (c : BitVec 3) (n : BitVec 1) (o : BitVec 22) (x : Bool), Acts s t → getC t c = .u x →
      exec (.br c n o) s = .next (goPc s t (if x != (n == 1) then hop t o else t.pc + 4) t.toks) ∧
      (x = (n == 1) → exec (.call c n o) s = .next (goPc s t (t.pc + 4) t.toks)) ∧
      (x ≠ (n == 1) → t.toks.length < 32 →
        exec (.call c n o) s = .next (goPc s t (hop t o) (⟨.call, t.pc + 4, amOf t, 0⟩ :: t.toks)))) ∧
  (∀ (s : State) (t : Thread) (a : SReg) (v : Word), Acts s t → getS t a = .u v → v.toNat % 4 = 0 →
      exec (.jmp a) s = .next (goPc s t v t.toks)) ∧
  (∀ (s : State) (t : Thread), Acts s t →
      exec .nop s = .next (afterNone s t) ∧
      (∀ k rest, t.toks = k :: rest → k.kind = .call →
        (t.seat = none → exec .ret s = .next (goPc s t k.pc rest)) ∧
        (∀ st, t.seat = some st → k.mask ≠ 0 → exec .ret s = .next (goMask s t st k.mask k.pc rest)))) ∧
  (∀ (s : State) (t : Thread) (c : BitVec 3) (n : BitVec 1) (o : BitVec 22) (ax : Axis) (b : Nat) (below : Bool),
      Acts s t → t.seat = none → getC t c = .t ax b below → cutsBox t.box ax b = true → s.cur ≠ s.nextId →
      ∃ s', exec (.br c n o) s = .next s' ∧
        tabFind s'.threads s.cur = some { t with
          box := (cutBox t.box ax b).1, pc := if below != (n == 1) then hop t o else t.pc + 4 } ∧
        tabFind s'.threads s.nextId = some { t with
          box := (cutBox t.box ax b).2, pc := if below == (n == 1) then hop t o else t.pc + 4 } ∧
        (∀ j, j ≠ s.cur → j ≠ s.nextId → tabFind s'.threads j = tabFind s.threads j) ∧ s'.mem = s.mem ∧
        boxVolume (cutBox t.box ax b).1 + boxVolume (cutBox t.box ax b).2 = boxVolume t.box) ∧
  (∀ (s : State) (t : Thread) (c : BitVec 3) (n : BitVec 1) (o : BitVec 22) (ax : Axis) (b : Nat) (below : Bool),
      Acts s t → t.seat = none → getC t c = .t ax b below → cutsBox t.box ax b = true → s.cur ≠ s.nextId → t.toks.length < 32 →
      ∃ s', exec (.call c n o) s = .next s' ∧ splitAt s s' t ax b (below != (n == 1)) fun u taken =>
        if taken then { u with pc := hop t o, toks := ⟨.call, t.pc + 4, 0, 0⟩ :: t.toks } else { u with pc := t.pc + 4 })

/-- R42, R212: what the token instructions do in a strand outside a region, where lanes remain in `am`.

R43, R42: a strand whose `am` becomes zero resumes at the first token with a mask, discarding those without: `dvg` with
no lane true goes to its ELSE lanes; a `brk` of every lane goes on with the lanes that a token above the LOOP token still holds, and
where there are none, past the loop; an `lpe`, a `nxt` or a `ret` with an empty mask goes on below. -/
def Obligations.TokensInStrand : Prop :=
  (∀ (s : State) (t : Thread) (st : Seat), ActsSeated s t st → st.region = 0 →
      (t.toks.length < 32 → ∀ o,
        exec (.jtok o) s = .next (goPc s t (t.pc + 4) (⟨.join, hop t o, st.am, 0⟩ :: t.toks)) ∧
        exec (.lpb o) s = .next (goPc s t (t.pc + 4) (⟨.loop, hop t o, st.am, 0⟩ :: t.toks))) ∧
      (∀ k ks neg o, st.am &&& condMask s t st k ks neg ≠ 0 →
        (st.am &&& ~~~condMask s t st k ks neg = 0 →
          exec (.dvg k ks neg o) s = .next (goMask s t st (st.am &&& condMask s t st k ks neg) (t.pc + 4) t.toks)) ∧
        (st.am &&& ~~~condMask s t st k ks neg ≠ 0 → t.toks.length < 32 →
          exec (.dvg k ks neg o) s = .next (goMask s t st (st.am &&& condMask s t st k ks neg) (t.pc + 4)
            (⟨.els, hop t o, st.am &&& ~~~condMask s t st k ks neg, 0⟩ :: t.toks)))) ∧
      (∀ x rest, t.toks = x :: rest → x.kind = .join ∨ x.kind = .els → x.mask ≠ 0 →
        exec .nxt s = .next (goMask s t st x.mask x.pc rest)) ∧
      (∀ k ks neg above l below, t.toks = above ++ l :: below → l.kind = .loop →
        (∀ x ∈ above, x.kind = .join ∨ x.kind = .els) → st.am &&& ~~~condMask s t st k ks neg ≠ 0 →
        exec (.brk k ks neg) s = .next (goMask s t st (st.am &&& ~~~condMask s t st k ks neg) (t.pc + 4)
          (above.map (fun x => { x with mask := x.mask &&& ~~~(st.am &&& condMask s t st k ks neg) }) ++
            { l with exit := l.exit ||| (st.am &&& condMask s t st k ks neg) } :: below))) ∧
      (∀ k ks neg o l below, t.toks = l :: below → l.kind = .loop →
        (st.am &&& condMask s t st k ks neg ≠ 0 →
          exec (.lpe k ks neg o) s = .next (goMask s t st (st.am &&& condMask s t st k ks neg) (hop t o)
            ({ l with exit := l.exit ||| (st.am &&& ~~~condMask s t st k ks neg) } :: below))) ∧
        (st.am &&& condMask s t st k ks neg = 0 → l.mask ≠ 0 →
          exec (.lpe k ks neg o) s = .next (goMask s t st l.mask l.pc below)))) ∧
  (∀ (s : State) (t : Thread) (st : Seat) (zs : List Token) (x : Token) (rest : List Token), ActsSeated s t st →
      st.region = 0 → (∀ z ∈ zs, z.mask = 0) → x.mask ≠ 0 →
      (∀ k ks neg o, st.am ≠ 0 → st.am &&& condMask s t st k ks neg = 0 → t.toks.length < 32 →
        exec (.dvg k ks neg o) s = .next (goMask s t st st.am (hop t o) t.toks)) ∧
      (∀ k, k.kind = .call → k.mask = 0 → t.toks = k :: (zs ++ x :: rest) →
        exec .ret s = .next (goMask s t st x.mask x.pc rest)) ∧
      (∀ k ks neg o l, l.kind = .loop → l.mask = 0 → t.toks = l :: (zs ++ x :: rest) →
        st.am &&& condMask s t st k ks neg = 0 → exec (.lpe k ks neg o) s = .next (goMask s t st x.mask x.pc rest)) ∧
      (∀ k, k.kind = .join → k.mask = 0 → t.toks = k :: (zs ++ x :: rest) →
        exec .nxt s = .next (goMask s t st x.mask x.pc rest))) ∧
  (∀ (s : State) (t : Thread) (st : Seat) (zs : List Token) (l : Token) (below : List Token) (k : BitVec 3) (ks neg : BitVec 1),
      ActsSeated s t st → st.region = 0 → l.kind = .loop → st.am &&& ~~~condMask s t st k ks neg = 0 →
      (∀ z ∈ zs, (z.kind = .join ∨ z.kind = .els) ∧ z.mask &&& ~~~st.am = 0) →
      (t.toks = zs ++ l :: below → l.mask ≠ 0 → exec (.brk k ks neg) s = .next (goMask s t st l.mask l.pc below)) ∧
      (∀ x above, t.toks = zs ++ x :: above ++ l :: below → (∀ z ∈ x :: above, z.kind = .join ∨ z.kind = .els) →
        x.mask &&& ~~~st.am ≠ 0 → exec (.brk k ks neg) s = .next (goMask s t st (x.mask &&& ~~~st.am) x.pc
          (above.map (fun z => { z with mask := z.mask &&& ~~~st.am }) ++ { l with exit := l.exit ||| st.am } :: below))))

/-- R24, R212: what the token instructions do in a span; a condition that is a predicate seats it first (R167).

R23, R24: on a threshold that cuts its box a span splits at `dvg`, `brk` and `lpe`, and each part acts by the value it has. -/
def Obligations.TokensInSpan : Prop :=
  ∀ (s : State) (t : Thread), Acts s t → t.seat = none →
    (t.toks.length < 32 → ∀ o,
      exec (.jtok o) s = .next (goPc s t (t.pc + 4) (⟨.join, hop t o, 0, 0⟩ :: t.toks)) ∧
      exec (.lpb o) s = .next (goPc s t (t.pc + 4) (⟨.loop, hop t o, 0, 0⟩ :: t.toks))) ∧
    (∀ x rest, t.toks = x :: rest → x.kind = .join ∨ x.kind = .els → exec .nxt s = .next (goPc s t x.pc rest)) ∧
    (∀ k neg o v, getC t k = .u v →
      exec (.dvg k 1 neg o) s = .next (goPc s t (if v != (neg == 1) then t.pc + 4 else hop t o) t.toks) ∧
      (∀ above l below, t.toks = above ++ l :: below → l.kind = .loop → (∀ x ∈ above, x.kind = .join ∨ x.kind = .els) →
        exec (.brk k 1 neg) s =
          .next (if v != (neg == 1) then goPc s t l.pc below else goPc s t (t.pc + 4) t.toks)) ∧
      (∀ l below, t.toks = l :: below → l.kind = .loop →
        exec (.lpe k 1 neg o) s = .next (if v != (neg == 1) then goPc s t (hop t o) t.toks else goPc s t l.pc below))) ∧
    (∀ k neg o, exec (.dvg k 0 neg o) s = .next (seatSpan s s.cur t none) ∧
      exec (.brk k 0 neg) s = .next (seatSpan s s.cur t none) ∧
      exec (.lpe k 0 neg o) s = .next (seatSpan s s.cur t none)) ∧
    (∀ k neg o ax b below, getC t k = .t ax b below → cutsBox t.box ax b = true → s.cur ≠ s.nextId →
      (∃ s', exec (.dvg k 1 neg o) s = .next s' ∧ splitAt s s' t ax b (below != (neg == 1)) fun u v =>
        { u with pc := if v then t.pc + 4 else hop t o }) ∧
      (∀ above l rest, t.toks = above ++ l :: rest → l.kind = .loop → (∀ x ∈ above, x.kind = .join ∨ x.kind = .els) →
        ∃ s', exec (.brk k 1 neg) s = .next s' ∧ splitAt s s' t ax b (below != (neg == 1)) fun u v =>
          if v then { u with pc := l.pc, toks := rest } else { u with pc := t.pc + 4 }) ∧
      (∀ l rest, t.toks = l :: rest → l.kind = .loop →
        ∃ s', exec (.lpe k 1 neg o) s = .next s' ∧ splitAt s s' t ax b (below != (neg == 1)) fun u v =>
          if v then { u with pc := hop t o } else { u with pc := l.pc, toks := rest }))

/-- R41, R205, R206, R207, R213: what control flow raises in a strand, with no effect of the instruction: CONV for a branch
condition that is not U, and TOK with the stack's depth in word 6. That `brk` and `lpe` without their LOOP token raise TOK
whatever their condition is the model's reading (assumption 25). -/
def Obligations.ControlFaults : Prop :=
  ∀ (s : State) (t : Thread) (st : Seat), ActsSeated s t st →
    (∀ c n o, (∀ x, getC t c ≠ .u x) →
      exec (.br c n o) s = .next (takeStop s s.cur (mkStop s t .fault 0x02 0x01 t.pc)) ∧
      exec (.call c n o) s = .next (takeStop s s.cur (mkStop s t .fault 0x02 0x01 t.pc))) ∧
    (32 ≤ t.toks.length →
      (∀ c n o x, getC t c = .u x → x ≠ (n == 1) → exec (.call c n o) s = .next (takeStop s s.cur (tokRec s t 0x01))) ∧
      (∀ o, exec (.jtok o) s = .next (takeStop s s.cur (tokRec s t 0x01))) ∧
      (∀ o, exec (.lpb o) s = .next (takeStop s s.cur (tokRec s t 0x01)))) ∧
    ((∀ k ∈ t.toks.head?, k.kind ≠ .call) → exec .ret s = .next (takeStop s s.cur (tokRec s t 0x07))) ∧
    (t.toks = [] → exec .nxt s = .next (takeStop s s.cur (tokRec s t 0x02))) ∧
    (∀ k rest, t.toks = k :: rest → k.kind = .loop → exec .nxt s = .next (takeStop s s.cur (tokRec s t 0x04))) ∧
    (∀ k rest, t.toks = k :: rest → k.kind = .call → exec .nxt s = .next (takeStop s s.cur (tokRec s t 0x05))) ∧
    (∀ k ks neg, (∀ x ∈ t.toks, x.kind ≠ .loop) →
      exec (.brk k ks neg) s = .next (takeStop s s.cur (tokRec s t 0x03))) ∧
    (∀ k ks neg above l below, t.toks = above ++ l :: below → l.kind = .loop → (∀ x ∈ above, x.kind ≠ .loop) →
      (∃ x ∈ above, x.kind = .call) → exec (.brk k ks neg) s = .next (takeStop s s.cur (tokRec s t 0x06))) ∧
    (∀ k ks neg o, (∀ l ∈ t.toks.head?, l.kind ≠ .loop) →
      exec (.lpe k ks neg o) s = .next (takeStop s s.cur (tokRec s t 0x03)))

/-- R25, R211, R214, R219, R271: a span issues none of these before it is seated: its tiles wait for their cores and the
PC stays.

R214, R215, R216, R217, R211, R219: the seating and waiting instructions outside a region.

R38, R37: the boxes a strand unseats into hold exactly its items, each once. -/
def Obligations.Seating : Prop :=
  (∀ (s : State) (t : Thread) (d a : SReg) (n : BitVec 6) (w : BitVec 32), Acts s t → t.seat = none → d ≠ 0 → w.toNat % 3 = 0 →
      (∀ i ∈ seatsFirst d a n w, exec i s = .next (putThr s s.cur { t with
        wait := .seating ((boxTiles (lrecOf s t) t.box).map fun tile => (tile, s.time / Config.ticksPerNs, 0)) none })) ∧
      (∀ r ∈ ([5, 6, 7, 8, 13, 28] : List (BitVec 6)), exec (.srd d r) s = .next (seatSpan s s.cur t none))) ∧
  (∀ (s : State) (t : Thread), Acts s t → inRegion t = false →
      (∀ st, t.seat = some st →
        exec .seat s = .next (afterNone s t) ∧
        (∀ w : BitVec 32, w.toNat % 3 = 0 → exec (.lx w) s = .next (putThr s s.cur { t with
          pc := t.pc + 8, blockNo := t.blockNo + 1, seat := some { st with
            blocks := st.blocks ++ [⟨t.blockNo + 1, t.seqNo, w.toNat, 0, st.am, t.sregs, st.kregs⟩] } })) ∧
        (∀ n : BitVec 6, exec (.trap n) s =
          .next (takeStop (afterNone s t) s.cur (mkStop s { t with pc := t.pc + 4 } .trap 0x21 n.toNat (t.pc + 4)))) ∧
        (unseatOk s s.cur t st = true → exec .unseat s = .next (unseatStrand s s.cur t st (t.pc + 4) .none)) ∧
        (unseatOk s s.cur t st = false →
          exec .unseat s = .next (takeStop s s.cur (mkStop s t .fault 0x02 0x02 t.pc)) ∧
          ∀ w, exec (.sjoin w) s = .next (afterNone s t)) ∧
        (unseatOk s s.cur t st = true → ∀ w : BitVec 11, exec (.sjoin w) s = .next (mergeHeld (unseatStrand s s.cur t st t.pc
          (.sjoin (dieCc (dieOf s (st.core / 128)) s.time + (w.toNat + 1))))))) ∧
      (t.seat = none →
        exec .unseat s = .next (afterNone s t) ∧
        ∀ w : BitVec 11, exec (.sjoin w) s = .next (mergeHeld (putThr s s.cur { t with
          wait := .sjoin (dieCc (dieOf s (physDie s t)) s.time + (w.toNat + 1)) }))) ∧
      (∀ a v, getS t a = .u v →
        exec (.snooze a) s = .next (if v = 0 then afterNone s t else
          putThr s s.cur { t with wait := .snooze (rtOf s t + min v.toNat 1000000) }) ∧
        exec (.snoozeAbs a) s = .next (if v.toNat ≤ rtOf s t then afterNone s t else
          putThr s s.cur { t with wait := .snooze (min v.toNat (rtOf s t + 1000000)) }))) ∧
  (∀ l : List Item, ((runBoxes l).map boxVolume).sum = l.length ∧
      ∀ i, (∃ b ∈ runBoxes l, inBox b i = true) ↔ i ∈ l)

/-- R210, R24, R42: `exit` outside a region retires a span whole, and in a strand the lanes in `am`, which leave every token;
the strand goes on at its first token with a lane left. Where none has a lane left, the strand has retired with all its items.

R28, R44, R45, R210, R318: a workgroup ends with its last item once its engine operations have; a strand that has retired frees
its slot; a pending strand that has waited 4,096 cycles of its die, or finds an active one stalled, takes its place; the one
that leaves loses its latches, unless it stands on a stop. -/
def Obligations.Retirement : Prop :=
  (∀ (s : State) (t : Thread), Acts s t → inRegion t = false →
      (t.seat = none → exec .exit s =
        .next (retireBoxes { s with threads := tabDel s.threads s.cur } t.launch (threadBoxes s t))) ∧
      (∀ st zs x rest, t.seat = some st → t.toks = zs ++ x :: rest → (∀ z ∈ zs, z.mask &&& ~~~st.am = 0) →
        x.mask &&& ~~~st.am ≠ 0 → ∃ s', exec .exit s = .next s' ∧
          tabFind s'.threads s.cur = some { t with
            pc := x.pc, toks := rest.map fun k => { k with mask := k.mask &&& ~~~st.am, exit := k.exit &&& ~~~st.am }
            seat := some { st with am := x.mask &&& ~~~st.am, seated := st.seated &&& ~~~st.am } } ∧
          (∀ j, j ≠ s.cur → tabFind s'.threads j = tabFind s.threads j) ∧ s'.mem = s.mem ∧ s'.ops = s.ops) ∧
      (∀ st, t.seat = some st → (∀ z ∈ t.toks, z.mask &&& ~~~st.am = 0) → (tabFind s.launches t.launch).isSome = true →
        (∀ h ∈ s.teams, ¬ (h.wg = st.wg ∧ h.team = teamOf s t st)) → ∃ s', exec .exit s = .next s' ∧
          tabFind s'.threads s.cur = some { t with toks := [], seat := some { st with am := 0, seated := 0, retired := true } } ∧
          (∀ L, laneIn st.seated L = true → L < 32 → itemBox (slotItem s t st L) ∈ (launchOf s' t.launch).retired) ∧
          (∀ j, j ≠ s.cur → tabFind s'.threads j = tabFind s.threads j) ∧ s'.mem = s.mem ∧ s'.ops = s.ops)) ∧
  (∀ (s : State),
      (∀ wg w, tabFind s.wgs wg = some w → (∀ o ∈ s.engq, o.2.wg = wg → o.2.finished = true) →
        (∀ b ∈ s.batches, b.wg = wg → b.complete = true) →
        (∀ p ∈ tilePositions (wgRec s w) w.tile (wholeBox (wgRec s w)), p ∈ w.retired) →
        exec (.workgroupEnd wg) s = .next { s with
          wgs := tabDel s.wgs wg, aholds := s.aholds.filter fun h => h.wg != wg }) ∧
      (∀ id t st, tabFind s.threads id = some t → (ctxOf s t.ctx).frozen = false → t.seat = some st → st.retired = true →
        st.blocks = [] → (∀ o ∈ s.ops, o.2.thread = id → o.2.back = false → o.2.path = .st) →
        exec (.strandSlotFree id) s = .next (forget (leaveRows { s with threads := tabDel s.threads id } t.ctx st.core st.part))) ∧
      (∀ out inn t u sa sb at0, tabFind s.threads out = some t → tabFind s.threads inn = some u → out ≠ inn →
        t.seat = some sa → u.seat = some sb → pendingReady s sa.core sa.part = some (inn, at0) →
        let left (k : Option Nat) : Thread := { t with seat := some { sa with
          active := false, latches := if t.stop.isSome then sa.latches else [], readyAt := none, aged := k } }
        let swapped (k : Option Nat) (s' : State) : Prop :=
          tabFind s'.threads out = some (left k) ∧
          tabFind s'.threads inn = some { u with seat := some { sb with
            active := true, since := s.time, readyAt := none, aged := none } } ∧
          (∀ j, j ≠ out → j ≠ inn → tabFind s'.threads j = tabFind s.threads j) ∧
          s' = { s with threads := s'.threads }
        (sa.active = true → stallsLong s out t = true → (ctxOf s t.ctx).frozen = false →
          ∃ s', exec (.stallSwap out) s = .next s' ∧ swapped sa.aged s') ∧
        (longestActive s sa.core sa.part = some (out, t, sa) → atBoundary s out t sa = true → agedNow s sa.core sa.part = false →
          at0 + 4096 ≤ coreCc s sa.core →
          ∃ s', exec (.agingSwap sa.core sa.part) s = .next s' ∧ swapped (some (coreCc s sa.core)) s')))

/-- R184, R19, R220: what `srd` reads in a strand, each register in the form the table gives.

R195: the value of a timer comes to its register twelve cycles of the die later.

R184, R221, R93: what `swr` writes, and that a user context's write to a protected register raises PROT with sub-cause
0x04 before the operand's form is looked at. That `swr` of `ctxid` keeps 16 bits, and that `swr` of `lease` sets the length for the
whole context, is the model's reading (assumption 27). -/
def Obligations.SpecialRegisters : Prop :=
  (∀ (s : State) (t : Thread) (st : Seat) (d : SReg), ActsSeated s t st → d ≠ 0 →
      (∀ p ∈ specialTable s t st, exec (.srd d p.1) s = .next (afterS s t d 4 (.u p.2))) ∧
      (∀ p ∈ timerTable s st, exec (.srd d p.1) s = .next (putThr s s.cur { setS t d (.u p.2) with
        pc := t.pc + 4, due := tabPut t.due d.toNat (coreCc s st.core + 12) })) ∧
      (∀ p ∈ coordTable, exec (.srd d p.1) s = .next (afterS s t d 4 p.2)) ∧
      (RowFree s t d → ∃ v, exec (.srd d 12) s = .next (afterS s t d 4 v) ∧
        ∀ L, laneIn st.am L = true → L < 32 → svalAt v L (slotItem s t st L) =
          BitVec.ofNat 64 (ilin (lrecOf s t) (slotItem s t st L)))) ∧
  (∀ (s : State) (t : Thread) (b : SReg), Acts s t →
      (∀ v, getS t b = .u v →
        (∀ p ∈ swrTable t v, p.2.1 = false ∨ (ctxOf s t.ctx).priv = true →
          exec (.swr p.1 b) s = .next (afterNone s p.2.2)) ∧
        (∀ p ∈ swrIgnored, p.2 = false ∨ (ctxOf s t.ctx).priv = true → exec (.swr p.1 b) s = .next (afterNone s t)) ∧
        ((ctxOf s t.ctx).priv = true → exec (.swr 26 b) s =
          .next (afterNone (modCtx s t.ctx fun c => { c with lease := max 64 (min 4096 v.toNat) }) t))) ∧
      ((ctxOf s t.ctx).priv = false → ∀ st, t.seat = some st → ∀ r : BitVec 6,
        r ∈ ([0, 1, 2, 3, 4, 5, 6, 7, 8, 9, 10, 11, 12, 13, 14, 20, 21, 22, 23, 25, 26, 27, 28] : List (BitVec 6)) →
        exec (.swr r b) s = .next (takeStop s s.cur (mkStop s t .fault 0x11 0x04 t.pc))))

/-- R223: `dlaunch` of one item outside a region, with U operands and an aligned record: the strand waits for its status,
or has status 3 at once when the queue number is out of range.

R223, R119: `dlaunch`, once its release at `.pkg` has completed, writes its status and the thread goes on: 3 for a queue
that is not open for it, 1 for a full one, 2 for a record that fails its checks, and otherwise 0, with the launch in the queue
and the queue awake. That a record which cannot be read has status 2 is the model's reading (assumption 48). While a slice holds
back a line that the submission needs (R136, R375, R387) the status waits. -/
def Obligations.DeviceLaunch : Prop :=
  (∀ (s : State) (t : Thread) (d a b : SReg) (rec q : Word), Acts s t → inRegion t = false → d ≠ 0 →
      getS t a = .u rec → getS t b = .u q → threadCount t ≤ 1 → rec.toNat % 256 = 0 →
      (q.toNat < 64 → exec (.dlaunch d a b) s = .next (putThr s s.cur { t with wait := .dlaunch d rec q })) ∧
      (64 ≤ q.toNat → exec (.dlaunch d a b) s = .next (afterS s t d 4 (.u 3)))) ∧
  (∀ (s : State) (id : Nat) (t : Thread) (d : SReg) (rec q : Word), Waits s id t → t.wait = .dlaunch d rec q →
      Quiet s id t 3 → d ≠ 0 → backed s (qAddr s t.ctx q.toNat) = true → submitWaits s t.ctx q.toNat rec = false →
      let c := t.ctx
      let open_ := qDev s c q.toNat = true ∧ qEn s c q.toNat = true
      let status (s1 : State) (k : Nat) : Out := .next (putThr s1 id { foldRelease (setS t d (.u (BitVec.ofNat 64 k))) 3 with
        wait := .none, pc := t.pc + 4 })
      let read := hubAcquire s c rec.toNat 256
      let words := hubReadVa read c rec.toNat 256
      let s1 := acquireTables read c (parseRec words)
      (tabSorted s.threads = true →
        (¬ open_ → exec (.dlaunchStatus id) s = status s 3) ∧
        (open_ → qFull s c q.toNat = true → exec (.dlaunchStatus id) s = status s 1) ∧
        (open_ → qFull s c q.toNat = false → rangeOk s c rec.toNat 256 false = false →
          exec (.dlaunchStatus id) s = status s 2) ∧
        (open_ → qFull s c q.toNat = false → rangeOk s c rec.toNat 256 false = true →
          launchFails s1 c words ≠ 0 → exec (.dlaunchStatus id) s = status s1 2)) ∧
      (open_ → qFull s c q.toNat = false → rangeOk s c rec.toNat 256 false = true →
        launchFails s1 c words = 0 → ∃ s' u, exec (.dlaunchStatus id) s = .next s' ∧
          tabFind s'.threads id = some u ∧ getS u d = .u 0 ∧ u.pc = t.pc + 4 ∧ u.wait = .none ∧
          tabFind s'.launches s1.nextId = some (newLaunch s1 c words (some (q.toNat, qTail s1 c q.toNat)))))

/-- R104, R128: every `fence` issues, inside a region or out: `fence.rel` moves on, its release part done or pending; the
others complete when their conditions hold and otherwise wait.

R128: inside a region the accesses of the region itself count for nothing: with no other of the thread's outstanding every fence
completes as it issues.

R104, R102: once a thread's accesses have been performed and `rt` has reached its `wct`, a pending release part or a
stalled fence completes, and `wct` never falls. -/
def Obligations.Fences : Prop :=
  (∀ (s : State) (t : Thread) (k : BitVec 2) (sc : BitVec 3), Acts s t → sc.toNat < 6 →
      let u := { t with fencedAt := t.seqNo }
      (released s s.cur t sc.toNat t.seqNo = true →
        exec (.fence 1 sc) s = .next (afterNone s { u with wct := BitVec.ofNat 64 (releaseAt t sc.toNat) })) ∧
      (released s s.cur t sc.toNat t.seqNo = false →
        exec (.fence 1 sc) s = .next (afterNone s { u with rel := some (sc.toNat, t.seqNo) })) ∧
      (acquired s s.cur t = true → exec (.fence 2 sc) s = .next (afterNone s u)) ∧
      (acquired s s.cur t = false → exec (.fence 2 sc) s = .next (putThr s s.cur { u with wait := .fence 2 sc.toNat })) ∧
      (k = 0 ∨ k = 3 →
        ((released s s.cur t sc.toNat t.seqNo && acquired s s.cur t) = false →
          exec (.fence k sc) s = .next (putThr s s.cur { u with wait := .fence k.toNat sc.toNat })) ∧
        (Quiet s s.cur t sc.toNat → exec (.fence k sc) s = .next (afterNone s { u with
          wct := BitVec.ofNat 64 (releaseAt t sc.toNat), seqAt := if k = 3 then s.freeCtr else t.seqAt }))) ∧
      (inRegion t = true → (∀ o ∈ s.ops, o.2.thread = s.cur → o.2.region ≠ 0) → releaseAt t sc.toNat ≤ rtNs s →
        exec (.fence k sc) s = .next (afterNone s { u with
          wct := if k = 2 then t.wct else BitVec.ofNat 64 (releaseAt t sc.toNat)
          seqAt := if k = 3 then s.freeCtr else t.seqAt }))) ∧
  (∀ (s : State) (id : Nat) (t : Thread) (scope : Nat), Waits s id t → Quiet s id t scope →
      t.wct.toNat ≤ releaseAt t scope ∧
      (∀ upto, t.rel = some (scope, upto) → exec (.fenceComplete id) s =
        .next (putThr s id { t with wct := BitVec.ofNat 64 (releaseAt t scope), rel := none })) ∧
      (t.rel = none → t.wait = .fence 2 scope → exec (.fenceComplete id) s = .next (woken s id t)) ∧
      (t.rel = none → t.wait = .fence 0 scope → exec (.fenceComplete id) s =
        .next (woken s id { t with wct := BitVec.ofNat 64 (releaseAt t scope) })) ∧
      (t.rel = none → t.wait = .fence 3 scope → exec (.fenceComplete id) s =
        .next (woken s id { t with wct := BitVec.ofNat 64 (releaseAt t scope), seqAt := s.freeCtr })))

/-- R274, R275, R128, R161: a `wait` passes when its path's counter is at most the operand and waits otherwise; in a live region the
region's own loads, stores and atomics do not count. `trapf` traps with
the enabled flags as its sub-cause, the flags in word 6 and the enables in word 7, and does nothing without one.

R217, R271 to R274, R39, R118: the event that ends each wait leaves everything but the thread's wait and PC as it was, and what
the strand that passes a barrier word acquires from engines that arrived on it. -/
def Obligations.WaitInstructions : Prop :=
  (∀ (s : State) (t : Thread) (a : SReg) (v : Word), Acts s t → getS t a = .u v →
      (∀ p : BitVec 2, waitCount s s.cur t (pathOf p) ≤ v.toNat → p ≠ 3 → exec (.wait a p) s = .next (woken s s.cur t)) ∧
      (∀ p : BitVec 2, v.toNat < waitCount s s.cur t (pathOf p) →
        exec (.wait a p) s = .next (putThr s s.cur { t with wait := .path (pathOf p) v.toNat })) ∧
      (∀ p : BitVec 2, (inRegion t = false → waitCount s s.cur t (pathOf p) = inFlight s s.cur (pathOf p)) ∧
        (inRegion t = true → p ≠ 3 → (∀ o ∈ s.ops, o.2.thread = s.cur → o.2.region ≠ 0) → waitCount s s.cur t (pathOf p) = 0)) ∧
      (inFlight s s.cur .cp ≤ v.toNat → exec (.wait a 3) s = .next (endCpWait s s.cur (waited t))) ∧
      (t.aflags &&& t.aenable = 0 → exec .trapf s = .next (afterNone s t)) ∧
      (∀ st, t.seat = some st → t.aflags &&& t.aenable ≠ 0 → exec .trapf s =
        .next (takeStop (afterNone s t) s.cur
          { mkStop s { t with pc := t.pc + 4 } .trap 0x20 (t.aflags &&& t.aenable).toNat (t.pc + 4) with
            w6 := t.aflags.setWidth 64, w7 := t.aenable.setWidth 64 }))) ∧
  (∀ (s : State) (id : Nat) (t : Thread), Waits s id t →
      (∀ p n, t.wait = .path p n → p ≠ .cp → waitCount s id t p ≤ n → exec (.waitComplete id) s = .next (woken s id t)) ∧
      (∀ n, t.wait = .path .cp n → inFlight s id .cp ≤ n →
        exec (.waitComplete id) s = .next (endCpWait s id (waited t))) ∧
      (∀ st off g, t.wait = .bar off g → t.seat = some st → barGen (waitedWord s st off) ≠ g →
        exec (.barReleaseWake id) s = .next (woken s id (passBar s st off t))) ∧
      (∀ lev g inst, t.wait = .hbar lev g → hbarInst s t lev = some inst →
        (hbarAt (launchOf s t.launch) lev inst).gen ≠ g → exec (.hbarRelease id) s = .next (woken s id t)) ∧
      (∀ d, t.wait = .snooze d → d ≤ rtOf s t → exec (.snoozeExpiry id) s = .next (woken s id t)) ∧
      (∀ e, t.wait = .sjoin e → e ≤ dieCc (dieOf s (physDie s t)) s.time ∨ boxVolume t.box = liveItems s t.launch →
        exec (.sjoinWindowExpiry id) s = .next (woken s id t)))

/-- R269: an arrival of count k lowers PENDING; reaching zero releases: GEN rises by one modulo 256, PENDING takes EXPECTED,
and OVF is set when the count exceeds what was pending. Every other field stays.

R271: the barrier instructions of a strand outside a region on a word in scratch or, for sA = s0, on the workgroup's own
word, whose arrivals need `am` = `seated`. That `bar.init` writes a word whatever it held, though R271 checks MAGIC for every
form, is the model's reading (assumption 29).

R118: a strand that passes a barrier word never again reads an older value of what engines that arrived on it had written.

R272: the hierarchical barriers of a strand outside a region with `am` = `seated`, in a launch that may use the level;
without the launch's grid-barrier flag a die or wider level raises CONV with sub-cause 0x07. -/
def Obligations.Barriers : Prop :=
  (∀ (w : Word) (k : Nat),
      (k < barPend w → (barArrive w k).2 = false ∧ barPend (barArrive w k).1 = barPend w - k ∧
        barGen (barArrive w k).1 = barGen w ∧ (barArrive w k).1.getLsbD 57 = w.getLsbD 57) ∧
      (barPend w ≤ k → (barArrive w k).2 = true ∧ barPend (barArrive w k).1 = barExp w ∧
        barGen (barArrive w k).1 = barGen w + 1 ∧ (barArrive w k).1.getLsbD 57 = (w.getLsbD 57 || decide (barPend w < k))) ∧
      barExp (barArrive w k).1 = barExp w ∧ barMagic (barArrive w k).1 = barMagic w ∧
      (barArrive w k).1.getLsbD 56 = w.getLsbD 56) ∧
  (∀ (s : State) (t : Thread) (st : Seat), ActsSeated s t st → inRegion t = false →
      (∀ a off w, a ≠ 0 → getS t a = .u off → BarAt s t st off.toNat w →
        (∀ d, d ≠ 0 → exec (.barArv d a 0) s = .next (afterS (putBar s st.wg (some off.toNat) (barArrive w 1)
            ((lanesOf st.seated).map fun L => 32 * st.six + L)) t d 4 (.u ((barGen w).setWidth 64)))) ∧
        (∀ d b n, d ≠ 0 → b ≠ 0 → getS t b = .u n →
          exec (.barArv d a b) s = .next (afterS (putBar s st.wg (some off.toNat) (barArrive w n.toNat)
            ((lanesOf st.seated).map fun L => 32 * st.six + L)) t d 4 (.u ((barGen w).setWidth 64)))) ∧
        (barPend w ≤ 1 → exec (.barArw a 0) s = .next (afterNone (putBar s st.wg (some off.toNat) (barArrive w 1)
            ((lanesOf st.seated).map fun L => 32 * st.six + L)) (passBar s st (some off.toNat) t))) ∧
        (1 < barPend w → exec (.barArw a 0) s = .next (putThr (putBar s st.wg (some off.toNat) (barArrive w 1)
            ((lanesOf st.seated).map fun L => 32 * st.six + L)) s.cur { t with wait := .bar (some off.toNat) (barGen w) })) ∧
        (∀ b g, getS t b = .u g →
          (barGen w ≠ g.setWidth 8 → exec (.barWt a b) s = .next (afterNone s (passBar s st (some off.toNat) t))) ∧
          (barGen w = g.setWidth 8 →
            exec (.barWt a b) s = .next (putThr s s.cur { t with wait := .bar (some off.toNat) (barGen w) })))) ∧
      (∀ a b off n, a ≠ 0 → getS t a = .u off → off.toNat % 8 = 0 → off.toNat + 8 ≤ (lrecOf s t).scratch →
        getS t b = .u n → n ≠ 0 → n.toNat < 2 ^ 20 →
        exec (.barInit a b) s = .next (afterNone (modWg (modWg s st.wg fun w => scrPut w off.toNat 8
          (0xB7 * 2 ^ 48 + n.toNat * 2 ^ 20 + n.toNat)) st.wg fun w => { w with barAcq := tabDel w.barAcq (off.toNat + 1) }) t)) ∧
      (st.am = st.seated →
        let w := ((tabFind s.wgs st.wg).getD Wg.blank).word
        let s1 := putBar s st.wg none (barArrive w (popMask st.seated)) ((lanesOf st.seated).map fun L => 32 * st.six + L)
        exec (.barArw 0 0) s = .next (if barPend w ≤ popMask st.seated then afterNone s1 (passBar s st none t)
          else putThr s1 s.cur { t with wait := .bar none (barGen w) }) ∧
        ∀ d, d ≠ 0 → exec (.barArv d 0 0) s = .next (afterS s1 t d 4 (.u ((barGen w).setWidth 64)))) ∧
      (∀ b g, getS t b = .u g → exec (.barWt 0 b) s =
        .next (if barGen ((tabFind s.wgs st.wg).getD Wg.blank).word = g.setWidth 8
          then putThr s s.cur { t with wait := .bar none (g.setWidth 8) } else afterNone s (passBar s st none t))) ∧
  (∀ (t : Thread) (st : Seat) (s : State) (w : Wg) (off : Option Nat) (line k : Nat), tabFind s.wgs st.wg = some w →
      tabGet 0 (tabGet [] (tabGet [] w.barAcq (off.elim 0 (· + 1))) line) k ≤ tabGet 0 (tabGet [] (passBar s st off t).seen line) k) ∧
      (st.am ≠ st.seated → exec (.barArw 0 0) s = .next (takeStop s s.cur (mkStop s t .fault 0x02 0x05 t.pc)) ∧
        ∀ d, d ≠ 0 → exec (.barArv d 0 0) s = .next (takeStop s s.cur (mkStop s t .fault 0x02 0x05 t.pc)))) ∧
  (∀ (s : State) (t : Thread) (st : Seat) (l : BitVec 3) (inst : Nat), ActsSeated s t st → inRegion t = false →
      1 ≤ l.toNat → l.toNat < 5 →
      (l.toNat < 2 ∨ (lrecOf s t).grid = true → hbarInst s t l.toNat = some inst →
        (st.am = st.seated →
          (∀ d, d ≠ 0 → exec (.hbarArv d l) s = .next (putThr (hbarArrive s (foldRelease t l.toNat) l.toNat inst) s.cur
            (advance (setS (foldRelease t l.toNat) d
              (.u ((hbarAt (launchOf s t.launch) l.toNat inst).gen.setWidth 64))) 4))) ∧
          exec (.hbarArw l) s = .next (putThr (hbarArrive s (foldRelease t l.toNat) l.toNat inst) s.cur
            { foldRelease t l.toNat with wait := .hbar l.toNat (hbarAt (launchOf s t.launch) l.toNat inst).gen })) ∧
        (∀ a v, getS t a = .u v →
          ((hbarAt (launchOf s t.launch) l.toNat inst).gen ≠ v.setWidth 8 →
            exec (.hbarWt a l) s = .next (afterNone s t)) ∧
          ((hbarAt (launchOf s t.launch) l.toNat inst).gen = v.setWidth 8 →
            exec (.hbarWt a l) s = .next (putThr s s.cur { t with wait := .hbar l.toNat (v.setWidth 8) })))) ∧
      (2 ≤ l.toNat → (lrecOf s t).grid = false →
        exec (.hbarArw l) s = .next (takeStop s s.cur (mkStop s t .fault 0x02 0x07 t.pc))))

/-- R123, R124, R276: `rbeg` opens a region at once for a strand outside one with no lane block, no access outstanding and a record
free on its die. Its interval starts at 16 times `rt`, in a strict one plus `c` mod 16, where `c` is four times the strand's virtual
quad plus its virtual core (R31, R184). While the strand's loads and atomics have not returned, its writes have not been
performed, its blocks have not finished or no record is free, it waits, and RBEG_OPEN opens the region. -/
def Obligations.RegionsOpen : Prop :=
  (∀ (s : State) (t : Thread) (st : Seat) (o : BitVec 18), ActsSeated s t st → inRegion t = false →
      (rbegReady s s.cur t st = true →
        (∃ s', exec (.rbeg o) s = .next s' ∧ opensRegion s s' s.cur t st false (hop t o)) ∧
        (∃ s', exec (.rbegStrict o) s = .next s' ∧ opensRegion s s' s.cur t st true (hop t o))) ∧
      (rbegReady s s.cur t st = false →
        exec (.rbeg o) s = .next (putThr s s.cur { t with wait := .rbeg false (hop t o) }) ∧
        exec (.rbegStrict o) s = .next (putThr s s.cur { t with wait := .rbeg true (hop t o) }))) ∧
  (∀ (s : State) (id : Nat) (t : Thread) (st : Seat) (strict : Bool) (tgt : Word), Waits s id t → t.seat = some st →
      t.wait = .rbeg strict tgt → rbegReady s id t st = true →
      ∃ s', exec (.rbegOpen id) s = .next s' ∧ opensRegion s s' id t st strict tgt) ∧
  (∀ (s : State) (id : Nat) (t : Thread) (st : Seat), st.blocks = [] → (∀ o ∈ s.ops, o.2.thread ≠ id) →
      (s.reg.regions.filter fun r => r.2.die == st.core / 128).length < 4096 → rbegReady s id t st = true) ∧
  (∀ (s : State) (id : Nat) (t : Thread) (st : Seat),
      st.blocks ≠ [] ∨ 4096 ≤ (s.reg.regions.filter fun r => r.2.die == st.core / 128).length →
      rbegReady s id t st = false)

/-- R277, R278, R134, R135: the region instructions inside a live region.

R277, R278: outside a live region `rnar.lo` and `rnar.hi` read `blo` and `bhi`, and the others raise CONV.

R128, R139: in a live region these instructions, and `rend` with another `am`, have no effect of their own: the region
aborts with FAULT, and CONV with sub-cause 0x06 is taken when the abort is done, with REGION set and at the address of the
instruction. -/
def Obligations.RegionInstructions : Prop :=
  (∀ (s : State) (t : Thread) (st : Seat) (r : Region), InLive s t st r →
      (st.am = r.mask → exec .rend s = .next (modRegion (putThr s s.cur { t with wait := .rend }) st.region fun x =>
        { x with phase := .freezing (regionLines s st.region) })) ∧
      (∀ u : BitVec 8, exec (.rabt u) s = .next (abortBegun s st.region r 6 0 u.toNat none)) ∧
      (∀ d, d ≠ 0 → exec (.rnarLo d) s = .next (afterS s t d 4 (.u (BitVec.ofNat 64 r.lo))) ∧
        exec (.rnarHi d) s = .next (afterS s t d 4 (.u (BitVec.ofNat 64 r.hi)))) ∧
      (∀ a b lo hi, getS t a = .u lo → getS t b = .u hi →
        ((r.strict = false ∧ max r.lo lo.toNat ≤ min r.hi hi.toNat) ∨ (lo.toNat ≤ r.lo ∧ r.hi ≤ hi.toNat ∧ r.lo ≤ r.hi) →
          exec (.rnarNarrow a b) s = .next (modRegion (afterNone s t) st.region fun x =>
            { x with lo := max r.lo lo.toNat, hi := min r.hi hi.toNat })) ∧
        (min r.hi hi.toNat < max r.lo lo.toNat → exec (.rnarNarrow a b) s =
          .next (abortBegun (modRegion (afterNone s t) st.region fun x => { x with lo := max r.lo lo.toNat, hi := min r.hi hi.toNat })
            st.region { r with lo := max r.lo lo.toNat, hi := min r.hi hi.toNat } 1 0 0 none)))) ∧
  (∀ (s : State) (t : Thread) (st : Seat), ActsSeated s t st → st.region = 0 →
      (∀ d, d ≠ 0 → exec (.rnarLo d) s = .next (afterS s t d 4 (.u st.blo)) ∧
        exec (.rnarHi d) s = .next (afterS s t d 4 (.u st.bhi))) ∧
      (∀ i ∈ ([.rend, .rabt 0, .rnarNarrow 1 2] : List Instr),
        exec i s = .next (takeStop s s.cur (mkStop s t .fault 0x02 0x06 t.pc)))) ∧
  (∀ (s : State) (t : Thread) (st : Seat) (r : Region) (d a b : SReg) (o : BitVec 18) (w : BitVec 11) (l : BitVec 3),
      InLive s t st r → d ≠ 0 → 1 ≤ l.toNat → l.toNat < 5 →
      (∀ k : BitVec 2, ∀ i ∈ Instr.cmo a b l k :: endsRegion d a b o w l, exec i s =
        .next (abortBegun s st.region r 3 0x02 0 (some { mkStop s t .fault 0x02 0x06 t.pc with region := true }))) ∧
      (st.am ≠ r.mask → exec .rend s =
        .next (abortBegun s st.region r 3 0x02 0 (some { mkStop s t .fault 0x02 0x06 t.pc with region := true }))))

/-- R133, R134: the arrival of a message raises `lo` to at least its value or lowers `hi` to at most it, changes no other
field while the bounds do not cross, and a crossing or a move of a strict region's bound aborts with EMPTY.

R135 steps 2 and 3, R137: a slice that owes the region no message answers its freeze, and when every slice has and no
message is on its way the position is `lo` and FROZEN is set. -/
def Obligations.RegionMessages : Prop :=
  (∀ (s : State) (k : Nat) (m : RMsg) (r : Region), s.reg.msgs[k]? = some m → msgFirst s k m = true →
      tabFind s.reg.regions m.rg = some r → r.phase = .live →
      let lo := if m.raise then max r.lo m.value else r.lo
      let hi := if m.raise then r.hi else min r.hi m.value
      let s1 := modRegion { s with reg := { s.reg with msgs := s.reg.msgs.eraseIdx k } } m.rg
        fun x => { x with lo := lo, hi := hi }
      r.hi ≤ 2 ^ 64 →
      let goes (i : Instr) : Prop :=
        (lo ≤ hi → r.strict = false ∨ (lo = r.lo ∧ hi = r.hi) → exec i s = .next s1) ∧
        (hi < lo ∨ (r.strict = true ∧ (lo ≠ r.lo ∨ hi ≠ r.hi)) →
          exec i s = .next (abortBegun s1 m.rg { r with lo := lo, hi := hi } 1 0 0 none))
      (m.raise = true → goes (.regionRaiseLo k)) ∧ (m.raise = false → goes (.regionLowerHi k))) ∧
  (∀ (s : State) (rg : Nat) (r : Region) (left : List (Nat × Nat)), tabFind s.reg.regions rg = some r →
      r.phase = .freezing left →
      (∀ d line, (∀ d', (d', line) ∈ left ↔ d' = d) →
        (∀ m ∈ s.reg.msgs, m.rg = rg → m.die = d → sameSlice m.line line = false) →
        exec (.regionFreeze rg line) s = .next (modRegion (putTag s
          { lineTag s d line with answered := rg :: (lineTag s d line).answered }) rg fun x =>
            { x with phase := .freezing (left.filter fun y => y != (d, line)) })) ∧
      (left = [] → (∀ m ∈ s.reg.msgs, m.rg ≠ rg) →
        exec (.regionFreezeDone rg) s = .next (modSeat (modRegion s rg fun x =>
          { x with hi := x.lo, phase := .committing (regionLines s rg) }) r.thread fun st =>
            { st with rstat := st.rstat ||| 0x20 })))

/-- R127, R135 step 4: on the final position a slice installs the region's tentative bytes of the line, which is dirty then, and no
other line's bytes change; `wpos` and `rpos` rise to the position on a line it wrote or read, and its tags go.

R135 step 5, R137: with every acknowledgement in, the strand passes `rend`: `blo` and `bhi` hold the position, CAUSE and
RETRY are 0, and `wct` is at least the region's write completion time and `rt`. -/
def Obligations.RegionCommits : Prop :=
  (∀ (s : State) (rg : Nat) (r : Region) (left : List (Nat × Nat)) (d line : Nat), tabFind s.reg.regions rg = some r →
      r.phase = .committing left → (∀ d', (d', line) ∈ left ↔ d' = d) → heldBehind s rg d line = [] →
      let bytes := tentOf s rg d line
      ∃ s', exec (.regionFinalPosition rg line) s = .next s' ∧ s'.mem = s.mem ∧
        s'.coh.l2 = s.coh.l2.map (fun x => if x.die = d ∧ x.line = line then
          { x with data := overlay x.data bytes, st := if bytes.isEmpty then x.st else .m } else x) ∧
        (let l := lineTag s d line
         lineTag s' d line = { l with
          wpos := if l.writer.any (·.rg == rg) then max l.wpos r.lo else l.wpos
          rpos := if l.readers.any (·.rg == rg) then max l.rpos r.lo else l.rpos
          readers := l.readers.filter (·.rg != rg), writer := l.writer.filter (·.rg != rg)
          answered := l.answered.filter (· != rg) }) ∧
        tentOf s' rg d line = [] ∧ ∃ r', tabFind s'.reg.regions rg = some r' ∧
          r'.phase = .committing (left.filter fun y => y != (d, line)) ∧ r'.lo = r.lo) ∧
  (∀ (s : State) (rg : Nat) (r : Region) (t : Thread) (st : Seat), tabFind s.reg.regions rg = some r →
      r.phase = .committing [] → tabFind s.threads r.thread = some t → t.seat = some st →
      ∃ s' u st', exec (.regionCommitDone rg) s = .next s' ∧ tabFind s'.reg.regions rg = none ∧
        tabFind s'.threads r.thread = some u ∧ u.seat = some st' ∧ u.pc = t.pc + 4 ∧ u.wait = .none ∧ u.sregs = t.sregs ∧
        st'.region = 0 ∧ st'.blo = BitVec.ofNat 64 r.lo ∧ st'.bhi = BitVec.ofNat 64 r.lo ∧
        st'.rstat = (if r.strict then 0x40 else 0) ∧ st'.vregs = st.vregs ∧
        (r.wct.own < 2 ^ 64 → rtNs s < 2 ^ 64 → t.wct.toNat ≤ u.wct.toNat ∧ r.wct.own ≤ u.wct.toNat ∧ rtNs s ≤ u.wct.toNat) ∧
        s'.mem = s.mem ∧ s'.coh = s.coh)

/-- R139: each slice discards the region's bytes and tags, and then the strand stands at the abort target with the region
mask and the token stack of `rbeg`, RETRY one higher and the cause in `rstat`; registers the region did not write, memory and
the aggregate flags are as they were. -/
def Obligations.RegionAborts : Prop :=
  ∀ (s : State) (rg : Nat) (r : Region) (c f u : Nat) (left : List (Nat × Nat)), tabFind s.reg.regions rg = some r →
    r.phase = .aborting c f u left →
    (∀ d line, (∀ d', (d', line) ∈ left ↔ d' = d) → heldBehind s rg d line = [] →
      ∃ s', exec (.regionAbortMessage rg line) s = .next s' ∧
      tentOf s' rg d line = [] ∧ lineTag s' d line = untag (lineTag s d line) rg ∧ s'.coh = s.coh ∧ s'.mem = s.mem ∧
      ∃ r', tabFind s'.reg.regions rg = some r' ∧ r'.phase = .aborting c f u (left.filter fun y => y != (d, line))) ∧
    (∀ t st, left = [] → tabFind s.threads r.thread = some t → t.seat = some st → r.pend = none →
      ∃ s' v st', exec (.regionAbortDone rg) s = .next s' ∧ tabFind s'.reg.regions rg = none ∧
        tabFind s'.threads r.thread = some v ∧ v.seat = some st' ∧ v.pc = r.target ∧ v.wait = .none ∧
        v.toks = t.toks.drop (t.toks.length - r.depth) ∧ v.aflags = t.aflags ∧ st'.am = r.mask ∧ st'.region = 0 ∧
        st'.blo = BitVec.ofNat 64 r.lo ∧ st'.bhi = BitVec.ofNat 64 r.hi ∧
        (∀ n : SReg, t.dirtyS.getLsbD n.toNat = false → getS v n = getS t n) ∧
        (∀ n L, st.dirtyV.getLsbD n = false → L < 32 → tabFind st'.vregs (n * 32 + L) = tabFind st.vregs (n * 32 + L) ∧
          st'.zeroV.getLsbD n = st.zeroV.getLsbD n) ∧
        (c < 8 → f < 256 → u < 256 → bitsAt st'.rstat.toNat 32 16 = min 65535 (bitsAt st.rstat.toNat 32 16 + 1) ∧
          bitsAt st'.rstat.toNat 24 8 = u ∧ bitsAt st'.rstat.toNat 16 8 = f ∧ bitsAt st'.rstat.toNat 0 3 = c) ∧ s'.mem = s.mem ∧
            s'.coh = s.coh)

/-- R126, R127, R129, R130: an access of a live region to a line that its die holds and no region has tagged. A load returns the
line's bytes and leaves the region a reader of the line; a store puts its bytes in the region's tentative copy, not in the line,
and leaves it the writer; either raises the region past the line's positions, with a message when that moves it. An atomic does
both, and a `cas` whose comparison fails puts no bytes; that it leaves the region the line's writer all the same is the model's
choice (assumption 44).

R392, R374: one whose page has an empty key slot gets no value of the line: a load fails with POISON, sub-cause 1, and a store is
acknowledged and discarded, and its line poisoned.

R132, R136: an access whose line carries tags on another die is held there: behind those tags, which are lowered to sixteen times
`rt` less one while the region is raised to that, or behind a freeze that the slice has answered, without a message. -/
def Obligations.RegionAccesses : Prop :=
  ∀ (s : State) (op lane : Nat) (o : Op) (a : LaneAcc) (r : Region), LaneInFlight s op lane o a →
    tabFind s.reg.regions o.region = some r → r.phase = .live →
    let line := lineOf a.pa
    let off := a.pa % 128
    let ended (v : Word) : Op := { o with lanes := o.lanes.map fun x =>
      if x.lane = lane then { x with phase := .done, res := v } else x }
    let held (f : Nat) : Op := { o with lanes := o.lanes.map fun x =>
      if x.lane = lane then { x with phase := .held f (stampNow s) } else x }
    let raised (v : Nat) : List RMsg := s.reg.msgs ++ if r.lo < v then [⟨o.region, true, v, o.die, line⟩] else []
    (slotEmpty s a.pa a.key = true → regionReady s o a = true → taggedElsewhere s o.die line = false →
      ∃ s', exec (.regionSliceAccess op lane) s = .next s' ∧ s'.mem.bytes = s.mem.bytes ∧ s'.coh = s.coh ∧ s'.reg = s.reg ∧
        (o.path = .ld ∨ o.path = .atm → s'.mem = s.mem ∧ tabFind s'.ops op = some { o with lanes := o.lanes.map fun x =>
          if x.lane = lane then { x with phase := .failed 0x15 0x01 (line * 128) 0 } else x }) ∧
        (o.path = .st → tabFind s'.ops op = some { ended 0 with wct := o.wct.join (Wct.flat (rtNs s)) } ∧
          line ∈ s'.mem.poison)) ∧
    (∀ l, slotEmpty s a.pa a.key = false → regionReady s o a = true → taggedElsewhere s o.die line = false →
      SoleLine s o.die line l →
      (lineTag s o.die line).readers = [] → (lineTag s o.die line).writer = none → tentOf s o.region o.die line = [] →
      crossHeld s o.die line = [] →
      (o.kind = .load → ∃ s', exec (.regionSliceAccess op lane) s = .next s' ∧
        tabFind s'.ops op = some (ended (BitVec.ofNat 64 (lineGet l.data off a.n))) ∧
        lineTag s' o.die line = { lineTag s o.die line with
          readers := [⟨o.region, max r.lo ((lineTag s o.die line).wpos + 1), r.hi⟩] } ∧
        s'.reg.msgs = raised ((lineTag s o.die line).wpos + 1) ∧ s'.reg.regions = s.reg.regions ∧ s'.reg.tent = s.reg.tent ∧
        s'.mem = s.mem ∧ s'.coh = s.coh) ∧
      (o.kind = .store → ∃ s', exec (.regionSliceAccess op lane) s = .next s' ∧
        tabFind s'.ops op = some (ended (BitVec.ofNat 64 (lineGet l.data off a.n))) ∧
        (∀ k, k < a.n → tabFind (tentOf s' o.region o.die line) (off + k) = some (BitVec.ofNat 8 (a.val.toNat / 2 ^ (8 * k)))) ∧
        (∀ k, k < off ∨ off + a.n ≤ k → tabFind (tentOf s' o.region o.die line) k = none) ∧
        lineTag s' o.die line = { lineTag s o.die line with
          writer := some ⟨o.region, max r.lo (max (lineTag s o.die line).rpos (lineTag s o.die line).wpos + 1), r.hi⟩ } ∧
        s'.reg.msgs = raised (max (lineTag s o.die line).rpos (lineTag s o.die line).wpos + 1) ∧
        s'.reg.regions = s.reg.regions ∧ s'.threads = s.threads ∧ s'.mem = s.mem ∧ s'.coh = s.coh) ∧
      (o.kind = .atomic ∨ o.kind = .cas →
        let me : Tag := ⟨o.region, max r.lo (max (lineTag s o.die line).rpos (lineTag s o.die line).wpos + 1), r.hi⟩
        ∃ s', exec (.regionSliceAccess op lane) s = .next s' ∧
          tabFind s'.ops op = some (ended (BitVec.ofNat 64 (lineGet l.data off a.n))) ∧
          (∀ v, newValue o a (lineGet l.data off a.n) = some v → ∀ k, k < a.n →
            tabFind (tentOf s' o.region o.die line) (off + k) = some (BitVec.ofNat 8 (v / 2 ^ (8 * k)))) ∧
          (newValue o a (lineGet l.data off a.n) = none → tentOf s' o.region o.die line = []) ∧
          lineTag s' o.die line = { lineTag s o.die line with readers := [me], writer := some me } ∧
          s'.reg.regions = s.reg.regions ∧ s'.mem = s.mem ∧ s'.coh = s.coh)) ∧
    (∀ d, regionGoes s o a = true → a.phase = .todo → taggedDie s line = some d → d ≠ o.die →
      (∀ f, freezeHolder s d line (kindWrites o.kind) = some f → ∃ s', exec (.crossDieRegionHold op lane) s = .next s' ∧
        tabFind s'.ops op = some (held f) ∧ s' = { s with ops := s'.ops }) ∧
      (freezeHolder s d line (kindWrites o.kind) = none → ∃ s', exec (.crossDieRegionHold op lane) s = .next s' ∧
        tabFind s'.ops op = some (held 0) ∧
        s'.reg.msgs.getLast? = some ⟨o.region, true, rtNs s * 16, d, line⟩ ∧
        (∀ x ∈ (lineTag s' d line).readers ++ (lineTag s' d line).writer.toList, x.hi ≤ rtNs s * 16 - 1) ∧
        s'.reg.regions = s.reg.regions ∧ s'.threads = s.threads ∧ s'.mem = s.mem ∧ s'.coh = s.coh))

/-- R252: the checks of an access take every lane's in order; the access goes on with all lanes when each passes, and
otherwise fails with the fault of the first lane that fails and the mask of the lanes that fail for that cause.

R79, R57: an access whose one lane goes to memory is put in flight under a new number with the next program order number;
nothing else changes but the thread given and what marking the translation used does.

R345, R347: marking a translation used changes no thread, operation or register: only the leaf entry, in which A is set,
and D for a write, and the cached translations. Where they are set already and the page is cached nothing changes. -/
def Obligations.AccessChecks : Prop :=
  (∀ (s : State) (t : Thread) (space n : Nat) (write : Bool) (qs : List Req),
      ((∀ q ∈ qs, ∃ r, checkLane s t space n write q = .ok r) →
        ∃ accs, checkAll s t space n write qs = .ok accs ∧ accs.length = qs.length ∧
          ∀ (k : Nat) (q : Req), qs[k]? = some q → ∃ r, accs[k]? = some r ∧ checkLane s t space n write q = .ok r) ∧
      (∀ pre q post f, qs = pre ++ q :: post → (∀ p ∈ pre, ∃ r, checkLane s t space n write p = .ok r) →
        checkLane s t space n write q = .error f → ∃ m, checkAll s t space n write qs = .error (f, m) ∧
          ∀ L, L < 32 → (laneIn m L = true ↔
            ∃ p g, p ∈ qs ∧ p.lane = L ∧ checkLane s t space n write p = .error g ∧ g.cause = f.cause)) ∧
      (∀ q x, space ≤ 1 → 0 < n → 0 ≤ q.addr → PlainAccess s t n write q.addr.toNat x →
        checkLane s t space n write q = .ok (plainLane s t n q.addr.toNat x q, none)) ∧
      (∀ q, 0 < n → q.addr % (n : Int) ≠ 0 → checkLane s t space n write q = .error ⟨0x12, 0, BitVec.ofInt 64 q.addr, 0, 0⟩) ∧
      (∀ (q : Req) (va : Nat), 0 < n → space ≤ 1 → q.addr = va → va % n = 0 → 2 ^ 57 ≤ va → bitsAt va 56 8 < 0xFE → va < 2 ^ 64 →
        isAlias (lrecOf s t) va = false → checkLane s t space n write q = .error ⟨0x10, 0x02, BitVec.ofNat 64 va, 0, 0⟩)) ∧
  (∀ (s : State) (t : Thread) (o : Op) (a : LaneAcc), a.phase = .todo → aborting s o.region = false →
      let s1 := noteAccess s (xlUnit t) t.ctx a.va.toNat (kindWrites o.kind)
      launchOp s t o [(a, none)] = { s1 with
        threads := tabPut s1.threads s.cur { t with seqNo := o.seq }
        ops := tabPut s1.ops s1.nextId { o with lanes := [a] }
        nextId := s1.nextId + 1 }) ∧
  (∀ (s : State) (unit ctx va : Nat) (write : Bool),
      (let s1 := noteAccess s unit ctx va write
       s1.threads = s.threads ∧ s1.ops = s.ops ∧ s1.wgs = s.wgs ∧ s1.launches = s.launches ∧ s1.ctxs = s.ctxs ∧
        s1.engq = s.engq ∧ s1.hub = s.hub ∧ s1.reg.regions = s.reg.regions ∧ s1.nextId = s.nextId ∧ s1.time = s.time) ∧
      (∀ e lv addr ls tl, walk s ctx va = .leaf e lv addr ls → e ||| 0x40 ||| (if write then 0x80 else 0) = e →
        tlbIn s unit ctx (va / 4096) = some tl → noteAccess s unit ctx va write = s) ∧
      (∀ e lv addr ls, walk s ctx va = .leaf e lv addr ls → s.coh.lockets = [] → s.coh.l2 = [] → s.coh.wbacks = [] →
        s.coh.partials = [] → (∀ r ∈ s.coh.remote, r.owned = false) → ∀ a, a < addr ∨ addr + 8 ≤ a →
          memByte (noteAccess s unit ctx va write) a = memByte s a))

/-- R257, R258: a scalar load or store of a strand whose items pass their checks is put in flight: for a U address one access
for the strand, of the first item for a load and the last for a store; for another address, or one in the private window,
one for each item in `am`, a load's destination then being M. That the store of a U address is one access with the last item's value
is the model's reading of R258 (assumption 46).

R58: a span issues such a load at a U address, a store or an `satom` of one item itself, for the items of its box; an address
that is not U for a load or an atomic, one in the scratch or private window, and an access that fails its checks, seat it first.

R263, R267: `satom` of a strand with one item, or with an address that is not U, and `kget`, issue like loads; a U
address with more than one item raises CONV with sub-cause 0x08. -/
def Obligations.ScalarAccesses : Prop :=
  (∀ (s : State) (t : Thread) (st : Seat) (d a : SReg) (z p : BitVec 2) (o : BitVec 9)
      (accs : List (LaneAcc × Option (Nat × Nat))), ActsSeated s t st →
      let n : Nat := 2 ^ z.toNat
      let off := sext 9 o.toNat * (n : Int)
      let one := (∃ w, getS t a = .u w) ∧ namesWindow s t (getS t a) (spaceOf p) off 3 0xFE = false
      (∀ g : BitVec 1, d ≠ 0 → z ≠ 3 ∨ g ≠ 1 → checkAll s t (spaceOf p) n false
          (itemReqs s t (getS t a) (spaceOf p) off (fun _ _ => 0) fun _ _ => 0) = .ok accs →
        (one → exec (.sld d a z g p o) s = .next (launchOp s (advance t 4)
          (scalarOpOf s t .ld .load 0 2 (.sreg d false (g == 1) n)) (accs.take 1))) ∧
        (¬ one → RowFree s t d → exec (.sld d a z g p o) s = .next (launchOp s (advance (materialised s t st d) 4)
          (scalarOpOf s t .ld .load 0 2 (.sreg d true (g == 1) n)) accs))) ∧
      (checkAll s t (spaceOf p) n true
          (itemReqs s t (getS t a) (spaceOf p) off (fun L i => svalAt (getS t d) L i) fun _ _ => 0) = .ok accs →
        (one → exec (.sst d a z p o) s = .next (launchOp s (advance t 4)
          (scalarOpOf s t .st .store 0 2 .none) (accs.drop (accs.length - 1)))) ∧
        (¬ one → exec (.sst d a z p o) s = .next (launchOp s (advance t 4) (scalarOpOf s t .st .store 0 2 .none) accs)))) ∧
  (∀ (s : State) (t : Thread) (st : Seat) (d a b : SReg) (w : BitVec 1) (sc : BitVec 3) (o : BitVec 4)
      (accs : List (LaneAcc × Option (Nat × Nat))), ActsSeated s t st → d ≠ 0 → sc.toNat < 6 → o.toNat < 10 →
      let n : Nat := if w == 1 then 8 else 4
      let kind : AccKind := if o = 9 then .cas else .atomic
      (checkAll s t 0 n true
          (itemReqs s t (getS t a) 0 0 (fun L i => svalAt (getS t b) L i) fun L i => svalAt (getS t d) L i) = .ok accs →
        ((∃ v, getS t a = .u v) → threadCount t ≤ 1 → exec (.satom d a b w sc o) s = .next (launchOp s (advance t 4)
          (scalarOpOf s t .atm kind o.toNat sc.toNat (.sreg d false false n)) accs)) ∧
        ((∀ v, getS t a ≠ .u v) → RowFree s t d → exec (.satom d a b w sc o) s =
          .next (launchOp s (advance (materialised s t st d) 4)
            (scalarOpOf s t .atm kind o.toNat sc.toNat (.sreg d true false n)) accs))) ∧
      ((∃ v, getS t a = .u v) → 1 < threadCount t →
        exec (.satom d a b w sc o) s = .next (takeStop s s.cur (mkStop s t .fault 0x02 0x08 t.pc))) ∧
      (∀ q : AccKind × Instr, q ∈ [(AccKind.kget, Instr.kget d a), (.kgetSet, .kgetSet d a)] →
        (∀ x ∈ itemReqs s t (getS t a) 0 0 (fun _ _ => 0) (fun _ _ => 0), inWindow x.addr.toNat = false) →
        checkAll s t 0 1 false (itemReqs s t (getS t a) 0 0 (fun _ _ => 0) fun _ _ => 0) = .ok accs →
        ((∃ v, getS t a = .u v) → exec q.2 s = .next (launchOp s (advance t 4)
          (mkOp s s.cur t 0 none ⟨.ld, q.1, 0, 0, 2, false, true, false, 0, .sreg d false false 8⟩ []) (accs.take 1))) ∧
        ((∀ v, getS t a ≠ .u v) → RowFree s t d → exec q.2 s = .next (launchOp s (advance (materialised s t st d) 4)
          (mkOp s s.cur t 0 none ⟨.ld, q.1, 0, 0, 2, false, true, false, 0, .sreg d true false 8⟩ []) accs)))) ∧
  (∀ (s : State) (t : Thread) (d a : SReg) (z p : BitVec 2) (o : BitVec 9), Acts s t → t.seat = none →
      let n : Nat := 2 ^ z.toNat
      let off := sext 9 o.toNat * (n : Int)
      let windows := namesWindow s t (getS t a) (spaceOf p) off 3 0xFE || namesWindow s t (getS t a) (spaceOf p) off 2 0xFF
      let seats (i : Instr) : Prop := exec i s = .next (seatSpan s s.cur t none)
      (∀ g : BitVec 1, d ≠ 0 → z ≠ 3 ∨ g ≠ 1 →
        ((∃ w, getS t a = .u w) → windows = false →
          let r := checkAll s t (spaceOf p) n false (itemReqs s t (getS t a) (spaceOf p) off (fun _ _ => 0) fun _ _ => 0)
          (∀ accs, r = .ok accs → exec (.sld d a z g p o) s = .next (launchOp s (advance t 4)
            (scalarOpOf s t .ld .load 0 2 (.sreg d false (g == 1) n)) (accs.take 1))) ∧
          (∀ f, r = .error f → seats (.sld d a z g p o))) ∧
        ((∀ w, getS t a ≠ .u w) ∨ windows = true → seats (.sld d a z g p o))) ∧
      (windows = false →
        let r := checkAll s t (spaceOf p) n true
          (itemReqs s t (getS t a) (spaceOf p) off (fun L i => svalAt (getS t d) L i) fun _ _ => 0)
        (∀ accs, r = .ok accs →
          ((∃ w, getS t a = .u w) → exec (.sst d a z p o) s = .next (launchOp s (advance t 4)
            (scalarOpOf s t .st .store 0 2 .none) (accs.drop (accs.length - 1)))) ∧
          ((∀ w, getS t a ≠ .u w) → exec (.sst d a z p o) s =
            .next (launchOp s (advance t 4) (scalarOpOf s t .st .store 0 2 .none) accs))) ∧
        (∀ f, r = .error f → seats (.sst d a z p o))) ∧
      (windows = true → seats (.sst d a z p o))) ∧
  (∀ (s : State) (t : Thread) (d a b : SReg) (w : BitVec 1) (sc : BitVec 3) (o : BitVec 4), Acts s t → t.seat = none → d ≠ 0 →
      sc.toNat < 6 → o.toNat < 10 →
      let n : Nat := if w == 1 then 8 else 4
      let kind : AccKind := if o = 9 then .cas else .atomic
      let r := checkAll s t 0 n true
        (itemReqs s t (getS t a) 0 0 (fun L i => svalAt (getS t b) L i) fun L i => svalAt (getS t d) L i)
      let seats : Prop := exec (.satom d a b w sc o) s = .next (seatSpan s s.cur t none)
      ((∃ v, getS t a = .u v) → threadCount t ≤ 1 → namesWindow s t (getS t a) 0 0 2 0xFF = false →
        (∀ accs, r = .ok accs → exec (.satom d a b w sc o) s = .next (launchOp s (advance t 4)
          (scalarOpOf s t .atm kind o.toNat sc.toNat (.sreg d false false n)) accs)) ∧
        (∀ f, r = .error f → seats)) ∧
      ((∃ v, getS t a = .u v) → threadCount t ≤ 1 → namesWindow s t (getS t a) 0 0 2 0xFF = true → seats) ∧
      ((∀ v, getS t a ≠ .u v) → seats))

/-- R264 to R266, R268: `kset` checks the descriptor and writes its register. The range instructions act on their lines from the
lowest up and put one performed operation on the ST path; an empty range acts on no line, and one within a line on that line. A
`cmo` that meets a line which does not translate raises XLAT with the line kept to go on from; `krev` and `kdrop` skip such a
line, and raise XLAT 0x02 at the first line that is not canonical, after the lines before it. An operand in a window raises
WINDOW, and so does the range of a `cmo` past 2^64. -/
def Obligations.Maintenance : Prop :=
  ∀ (s : State) (t : Thread) (st : Seat), ActsSeated s t st →
    (∀ (k : BitVec 3) a v, getS t a = .u v →
      (rsdFault (launchOf s t.launch) v st.core = none → exec (.kset k a) s =
        .next (afterNone s { t with seat := some { st with kregs := tabSet 0 st.kregs k.toNat v } })) ∧
      (∀ sub, rsdFault (launchOf s t.launch) v st.core = some sub → exec (.kset k a) s =
        .next (takeStop s s.cur { mkStop s t .fault 0x14 sub t.pc with w6 := v }))) ∧
    (∀ a b base len, getS t a = .u base → getS t b = .u len → inWindow base.toNat = false →
      let last := base.toNat + len.toNat
      let first := base.toNat / 128 * 128
      let n : Nat := if len.toNat = 0 then 0 else (last - first + 127) / 128
      (∀ (l : BitVec 3) (k : BitVec 2), l.toNat < 5 → inRegion t = false → last ≤ 2 ^ 64 →
        (∀ s1, t.resumeAt = none → cmoRange k.toNat l.toNat base.toNat last t n first s = (s1, none) →
          exec (.cmo a b l k) s = .next (pathOp s1 s.cur t (advance t 4) .cmo)) ∧
        (∀ s1 r, t.resumeAt = some r → 0 < len.toNat →
          cmoRange k.toNat l.toNat base.toNat last t ((last - r.toNat + 127) / 128) r.toNat s = (s1, none) →
          exec (.cmo a b l k) s = .next (pathOp s1 s.cur t (advance { t with resumeAt := none } 4) .cmo)) ∧
        (∀ s1 va sub e lv, t.resumeAt = none → cmoRange k.toNat l.toNat base.toNat last t n first s = (s1, some (va, sub, e, lv)) →
          let t1 := { t with resumeAt := some (BitVec.ofNat 64 va) }
          exec (.cmo a b l k) s = faultWith (putThr s1 s.cur t1) t1 0x10 sub fun p =>
            { p with va := BitVec.ofNat 64 va, w6 := BitVec.ofNat 64 e, w7 := BitVec.ofNat 64 lv }) ∧
        (len = 0 → t.resumeAt = none → exec (.cmo a b l k) s = .next (pathOp s s.cur t (advance t 4) .cmo)) ∧
        (∀ x, 0 < len.toNat → last ≤ first + 128 → t.resumeAt = none → isAlias (lrecOf s t) first = false →
          translate s (xlUnit t) t.ctx first = .ok x →
          let whole := base.toNat = first ∧ last = first + 128
          exec (.cmo a b l k) s = .next (pathOp (cmoLine (noteAccess s (xlUnit t) t.ctx first false)
            (if k = 3 ∧ ¬ whole then 2 else k.toNat) l.toNat (some st.core) (st.core / 128) (lineOf x.pa)) s.cur t
            (advance t 4) .cmo))) ∧
      (∀ (k : BitVec 3) s1 m, lockRange (xlUnit t) t.ctx (revise t.launch st.core (tabGet 0 st.kregs k.toNat)) n first s 0 =
          (s1, m, none) →
        exec (.krev k a b) s = .next (pathOp s1 s.cur t (advance { t with pkdem := t.pkdem + BitVec.ofNat 64 m } 4) .krev)) ∧
      (∀ s1 m, lockRange (xlUnit t) t.ctx (fun s2 k => (unpark s2 k.line, 0)) n first s 0 = (s1, m, none) →
        exec (.kdrop a b) s = .next (pathOp s1 s.cur t (advance { t with pkdem := t.pkdem + BitVec.ofNat 64 m } 4) .kdrop)) ∧
      (len = 0 → (∀ k : BitVec 3, exec (.krev k a b) s = .next (pathOp s s.cur t (advance t 4) .krev)) ∧
        exec (.kdrop a b) s = .next (pathOp s s.cur t (advance t 4) .kdrop)) ∧
      (0 < len.toNat → 2 ^ 57 < last →
        let va := max first (2 ^ 57)
        let stopped (s1 : State) (m : Nat) : Out :=
          let t1 := { t with pkdem := t.pkdem + BitVec.ofNat 64 m }
          faultWith (putThr s1 s.cur t1) t1 0x10 0x02 fun p => { p with va := BitVec.ofNat 64 va }
        (∀ k : BitVec 3, ∃ s1 m, lockRange (xlUnit t) t.ctx (revise t.launch st.core (tabGet 0 st.kregs k.toNat)) n first s 0 =
          (s1, m, some va) ∧ exec (.krev k a b) s = stopped s1 m) ∧
        ∃ s1 m, lockRange (xlUnit t) t.ctx (fun s2 k => (unpark s2 k.line, 0)) n first s 0 = (s1, m, some va) ∧
          exec (.kdrop a b) s = stopped s1 m)) ∧
    (∀ a b base len, getS t a = .u base → getS t b = .u len → inRegion t = false →
      let stopped (i : Instr) : Prop :=
        exec i s = .next (takeStop s s.cur { mkStop s t .fault 0x16 0x04 t.pc with va := base })
      (inWindow base.toNat = true ∨ 2 ^ 64 < base.toNat + len.toNat → ∀ (l : BitVec 3) (k : BitVec 2), l.toNat < 5 →
        stopped (.cmo a b l k)) ∧
      (inWindow base.toNat = true → (∀ k : BitVec 3, stopped (.krev k a b)) ∧ stopped (.kdrop a b)))

/-- R183: an engine command that names an accumulator slot at or above `.acc`, or a shadow slot at or above `.shadow`, raises
ILL (with sub-cause 0x05) when a strand issues it; an f64 form names a pair of slots. -/
def Obligations.EngineSlots : Prop :=
  ∀ (s : State) (t : Thread) (st : Seat) (a b : SReg), ActsSeated s t st →
    (∀ (d : BitVec 6) (f : BitVec 7), d.getLsbD 5 = false →
      (lrecOf s t).acc ≤ d.toNat % 8 + (if f.toNat % 8 = 4 then 1 else 0) →
      ∀ i ∈ ([.mma d a b f, .mgath d a b f] : List Instr), WellFormed i → exec i s = fault s t 0x01 0x05) ∧
    (∀ (d : BitVec 6) (f : BitVec 7), d.getLsbD 5 = true → (lrecOf s t).shadow ≤ d.toNat % 2 →
      ∀ i ∈ ([.mma d a b f, .mgath d a b f] : List Instr), WellFormed i → exec i s = fault s t 0x01 0x05) ∧
    (∀ (d : BitVec 3) (f : BitVec 1), (lrecOf s t).acc ≤ d.toNat + f.toNat → WellFormed (.mzero d f) →
      exec (.mzero d f) s = fault s t 0x01 0x05) ∧
    (∀ (d : BitVec 3) (f : BitVec 6), (lrecOf s t).acc ≤ d.toNat → WellFormed (.mdrain d a f) →
      exec (.mdrain d a f) s = fault s t 0x01 0x05) ∧
    (∀ (d : BitVec 3) (n : BitVec 1), (lrecOf s t).acc ≤ d.toNat ∨ (lrecOf s t).shadow ≤ n.toNat →
      exec (.mcommit d n) s = fault s t 0x01 0x05)

/-- R280 to R283, R288, R295, R296, R299: a matrix command of a strand alone in its team whose checks pass enters the MX queue
of its core with its operands captured, and the strand goes on. -/
def Obligations.MatrixCommands : Prop :=
  ∀ (s : State) (t : Thread) (st : Seat) (vs : List Word), SoleMember s t st →
    (∀ (d : BitVec 6) (a b : SReg) (f : BitVec 7), WellFormed (.mma d a b f) → mxSlotBad d f (lrecOf s t) = false →
      Operands t [a, a + 1, b, b + 1] vs → mxDescOk (vs.getD 1 0) (vs.getD 3 0) f = true → tieBad s st d = false →
      (vs.getD 0 0).toNat % mxAlign (f.toNat % 8) = 0 → (vs.getD 2 0).toNat % mxAlign (f.toNat % 8) = 0 →
      exec (.mma d a b f) s = .next (queued s t st ⟨.mma d a b f, 0, vs, false, 0, none⟩)) ∧
    (∀ (d : BitVec 6) (a b : SReg) (f : BitVec 7), WellFormed (.mgath d a b f) → mxSlotBad d f (lrecOf s t) = false →
      Operands t [a, a + 1, b, b + 1, a + 2] vs → mxDescOk (vs.getD 1 0) (vs.getD 3 0) f = true → tieBad s st d = false →
      (vs.getD 0 0).toNat % mxAlign (f.toNat % 8) = 0 → (vs.getD 2 0).toNat % mxAlign (f.toNat % 8) = 0 →
      (vs.getD 4 0).toNat % 4 = 0 →
      (vs.getD 4 0).toNat + 4 * (bitsAt (vs.getD 1 0).toNat 16 7 + 1) ≤ (lrecOf s t).scratch →
      exec (.mgath d a b f) s = .next (queued s t st ⟨.mgath d a b f, 0, vs, false, 0, none⟩)) ∧
    (∀ (d : BitVec 3) (f : BitVec 1), WellFormed (.mzero d f) → d.toNat + f.toNat < (lrecOf s t).acc →
      exec (.mzero d f) s = .next (queued s t st ⟨.mzero d f, 0, [], false, 0, none⟩)) ∧
    (∀ (d : BitVec 3) (a : SReg) (f : BitVec 6), WellFormed (.mdrain d a f) → d.toNat < (lrecOf s t).acc →
      Operands t (if f.getLsbD 3 then [a, a + 1, a + 2] else [a, a + 1]) vs → drainDescOk (vs.getD 1 0) (f.toNat % 8) = true →
      (f.getLsbD 4 = true → f.getLsbD 3 = false → (vs.getD 0 0).toNat + drainRowEnd (vs.getD 1 0)
        (drainWidth (f.toNat % 8) (tagAhead s st.core st.wg d.toNat)) (bitsAt (vs.getD 1 0).toNat 16 7) ≤ (lrecOf s t).scratch) →
      (let width := drainWidth (f.toNat % 8) (tagAhead s st.core st.wg d.toNat)
       (vs.getD 0 0).toNat % (if width = 6 then 1 else width / 8) = 0) →
      (f.getLsbD 3 = true → (vs.getD 2 0).toNat % 4 = 0 ∧
        (vs.getD 2 0).toNat + 4 * (bitsAt (vs.getD 1 0).toNat 16 7 + 1) ≤ (lrecOf s t).scratch) →
      exec (.mdrain d a f) s = .next (queued s t st ⟨.mdrain d a f, 0, vs, false, 0, none⟩)) ∧
    (∀ (d : BitVec 3) (n : BitVec 1), d.toNat < (lrecOf s t).acc → n.toNat < (lrecOf s t).shadow →
      (tieAhead s st.core st.wg n.toNat = none →
        exec (.mcommit d n) s = .next (queued s t st ⟨.mcommit d n, 0, [], false, 0, none⟩)) ∧
      (∀ c x, tieAhead s st.core st.wg n.toNat = some c → getC t (BitVec.ofNat 3 c) = .u x →
        exec (.mcommit d n) s = .next (queued s t st ⟨.mcommit d n, 0, [], x, 0, none⟩)))

/-- R282: in a larger team the first member's command is held and the member waits, a member in between waits with it, and
the last one queues a single operation for all and they go on; a member whose command or operands differ raises TEAM in every
member, with the held command in word 6 and its own in word 7.

R281, R128: the first check of an engine command that fails decides: a live region ends with ENGINE and the command is not
issued; a team without its full mask, an operand that is not U, and a bad descriptor raise CONV 0x03, CONV 0x04 and ENGINE with
DESC, the command word in word 6. -/
def Obligations.TeamsAndChecks : Prop :=
  (∀ (s : State) (t : Thread) (st : Seat) (c : Cmd),
      let team := teamOf s t st
      let rest := s.teams.filter fun h => !(h.wg == st.wg && h.team == team)
      ((∀ h ∈ s.teams, ¬ (h.wg = st.wg ∧ h.team = team)) → (lrecOf s t).team ≠ 1 → teamIssue s t st c =
        .next (putThr { s with teams := ⟨st.wg, team, c.instr, c.opnds, c.cond, [s.cur]⟩ :: s.teams } s.cur
          { t with wait := .team })) ∧
      (∀ h, s.teams.find? (fun h => h.wg == st.wg && h.team == team) = some h →
        (h.instr = c.instr → h.opnds = c.opnds → h.cond = c.cond → h.waiting.length + 1 = (lrecOf s t).team →
          teamIssue s t st c = .next ((h.waiting ++ [s.cur]).foldl memberGoes
            (enqueue { s with teams := rest } (mkEng t st c (h.waiting ++ [s.cur]))))) ∧
        (h.instr = c.instr → h.opnds = c.opnds → h.cond = c.cond → h.waiting.length + 1 ≠ (lrecOf s t).team →
          teamIssue s t st c = .next (putThr { s with teams := { h with waiting := h.waiting ++ [s.cur] } :: rest } s.cur
            { t with wait := .team })) ∧
        (h.instr ≠ c.instr ∨ h.opnds ≠ c.opnds ∨ h.cond ≠ c.cond → teamIssue s t st c =
          .next (h.waiting.foldl (fun acc m => teamStop acc h.instr h.instr m)
            (teamStop { s with teams := rest } h.instr c.instr s.cur))))) ∧
  (∀ (s : State) (t : Thread) (st : Seat) (d : BitVec 6) (a b : SReg) (f : BitVec 7), ActsSeated s t st →
      WellFormed (.mma d a b f) → mxSlotBad d f (lrecOf s t) = false →
      (∀ r, InLive s t st r → exec (.mma d a b f) s = .next (abortBegun s st.region r 5 0 0 none)) ∧
      (st.region = 0 → fullMask s t st = false →
        exec (.mma d a b f) s = .next (takeStop s s.cur (mkStop s t .fault 0x02 0x03 t.pc))) ∧
      (st.region = 0 → fullMask s t st = true → (∃ r ∈ [a, a + 1, b, b + 1], ∀ v, getS t r ≠ .u v) →
        exec (.mma d a b f) s = .next (takeStop s s.cur (mkStop s t .fault 0x02 0x04 t.pc))) ∧
      (∀ vs, st.region = 0 → fullMask s t st = true → Operands t [a, a + 1, b, b + 1] vs →
        mxDescOk (vs.getD 1 0) (vs.getD 3 0) f = false → exec (.mma d a b f) s = .next (takeStop s s.cur
          { mkStop s t .fault 0x31 0x06 t.pc with w6 := cmdWord (.mma d a b f) })))

/-- R300, R304, R307, R117: the commands of one strand: `mfence` closes a batch and counts it in `batch`; `cpy` and `coll`
enter their queues; `qfence` puts an entry in each queue it names. -/
def Obligations.StrandCommands : Prop :=
  ∀ (s : State) (t : Thread) (st : Seat) (vs : List Word), ActsSeated s t st → st.region = 0 →
    (∀ a bar, BarOf s t st a bar → ∃ s', exec (.mfence a) s = .next s' ∧
      tabFind s'.threads s.cur = some { t with pc := t.pc + 4, batch := BitVec.ofNat 64 (t.batch.toNat + 1) } ∧
      s'.batches = s.batches ++ [⟨s.cur, st.wg, t.batch.toNat + 1, bar, false, false⟩] ∧
      (∀ id o, tabFind s.engq id = some o → tabFind s'.engq id = some
        (if o.queue != 1 && o.members.contains s.cur && tabGet 0 o.batch s.cur == 0
          then { o with batch := tabPut o.batch s.cur (t.batch.toNat + 1) } else o)) ∧ s'.mem = s.mem) ∧
    (∀ n a b f bar, WellFormed (.cpy n a b f) → BarOf s t st b bar →
      Operands t (if b = 0 then [a, a + 1, a + 2, a + 3] else [a, a + 1, a + 2, a + 3, b]) vs → cpyDescOk f vs = true →
      (f.toNat % 4 = 1 → (vs.getD 0 0).toNat + cpyExtent (cpyShape f vs).1 (cpyShape f vs).2.1 (cpyShape f vs).2.2.1
        ≤ (lrecOf s t).scratch) →
      (f.toNat % 4 = 0 → (vs.getD 1 0).toNat + cpyExtent (cpyShape f vs).1 (cpyShape f vs).2.1 (cpyShape f vs).2.2.2
        ≤ (lrecOf s t).scratch) →
      exec (.cpy n a b f) s = .next (putThr (enqueue s (mkEng t st
        ⟨.cpy n a b f, 1, vs.take 4, false, if f.getLsbD 3 then tabGet 0 st.kregs n.toNat else 0, bar⟩ [s.cur])) s.cur
          { t with pc := t.pc + 4 })) ∧
    (∀ a sc ty o, WellFormed (.coll a sc ty o) → Operands t [a, a + 1, a + 2] vs →
      (let w := (vs.getD 2 0).toNat
       0 < bitsAt w 0 32 ∧ bitsAt w 0 32 ≤ 16777216 ∧ (o ≠ 2 → bitsAt w 48 16 = 0) ∧
        (roleIn (launchOf s t.launch) (bitsAt w 32 16) st.core).isSome = true) →
      (vs.getD 0 0).toNat % collBytes ty.toNat = 0 → (vs.getD 1 0).toNat % collBytes ty.toNat = 0 →
      exec (.coll a sc ty o) s = .next (putThr (enqueue s (mkEng t st ⟨.coll a sc ty o, 2, vs, false, 0, none⟩ [s.cur])) s.cur
        { t with pc := t.pc + 4 })) ∧
    (∀ q : BitVec 3, q ≠ 0 → exec (.qfence q) s =
      .next (putThr ((setBits 3 q.toNat).foldl (fun acc k => enqueue acc
        { mkEng t st ⟨.qfence q, k, [], false, 0, none⟩ [] with seq := s.freeCtr }) s) s.cur { t with pc := t.pc + 4 }))

/-- R301, R302: `mwait` ends when every batch up to its operand, or up to the last one closed, has completed, and waits
until then; with no failure the status it writes is 0.

R300, R303: a batch completes when its operations and every earlier batch have; its barrier, if it has one with the
generation read at issue, is arrived on. -/
def Obligations.Batches : Prop :=
  (∀ (s : State) (t : Thread) (st : Seat) (d a : SReg) (v : Word), ActsSeated s t st → st.region = 0 → d ≠ 0 →
      getS t a = .u v → t.mark = none →
      let upto := min v.toNat t.batch.toNat
      (batchesDone s s.cur upto = false → exec (.mwait d a) s = .next (putThr s s.cur { t with wait := .mwait d upto })) ∧
      (batchesDone s s.cur upto = true → (∀ o ∈ s.engq, o.2.status = 0) → (∀ b ∈ s.batches, b.barFailed = false) →
        ∃ s', exec (.mwait d a) s = .next s' ∧ s'.mem = s.mem ∧
          (∀ b, b ∈ s'.batches ↔ b ∈ s.batches ∧ ¬ (b.thread = s.cur ∧ b.num ≤ upto)) ∧
          ∃ u, tabFind s'.threads s.cur = some u ∧ getS u d = .u 0 ∧ u.pc = t.pc + 4 ∧ u.wait = .none ∧
            (∀ r, r ≠ d → getS u r = getS t r) ∧ u.conds = t.conds ∧
            ((∀ o ∈ s.engq, o.2.wct.own < 2 ^ 64) → t.wct.toNat ≤ u.wct.toNat)) ∧
      (t.wait = .mwait d upto → t.stop = none → (ctxOf s t.ctx).frozen = false → batchesDone s s.cur upto = true →
        ∃ s', exec (.mwait d a) s = .next s' ∧ ∀ c, exec (.mwaitComplete s.cur) { s with cur := c } = .next { s' with cur := c })) ∧
  (∀ (s : State) (id num : Nat) (b : Batch),
      s.batches.find? (fun b => b.thread == id && b.num == num && !b.complete) = some b →
      (∀ x ∈ s.batches, x.thread = id → x.num < num → x.complete = true) →
      (∀ p ∈ s.engq, p.2.members.contains id = true → p.2.queue ≠ 1 → tabGet 0 p.2.batch id = num → p.2.finished = true) →
      let upd (s1 : State) (bad : Bool) : State := { s1 with batches := s1.batches.map fun x =>
        if x.thread = id ∧ x.num = num then { x with complete := true, barFailed := bad } else x }
      (b.bar = none → exec (.batchComplete id num) s = .next (forget (upd s false))) ∧
      (∀ off g w, b.bar = some (off, g) →
        w = BitVec.ofNat 64 (((tabFind s.wgs b.wg).map fun x => scrGet x off 8).getD 0) →
        (barMagic w = 0xB7 → barGen w = g → exec (.batchComplete id num) s =
          .next (forget (upd (modWg (putBar s b.wg (some off) (barArrive w 1) []) b.wg fun x => { x with
            barAcq := tabPut x.barAcq (1 + off) (maxTab2 (tabGet [] x.barAcq (1 + off)) (batchWrote s id num)) }) false))) ∧
        (barMagic w ≠ 0xB7 ∨ barGen w ≠ g → exec (.batchComplete id num) s =
          .next (forget (upd (modThr s id fun t => { t with mark := some w }) true)))))

/-- R114, R117, R290, R293, R308: an operation at the head of its queue begins and reads its row list, and a matrix operation
fetches ahead; the entries of a `qfence` leave together once each is at its head.

R284, R289, R295, R297, R299, R305, R308: an operation that its engine works on completes, with its result in the accumulator,
memory or scratch, its write completion time, and its batch or barrier informed.

R285, R357: one that fails keeps its place, with its status, until its notice has been written.

R310, R361: under CHUNKED an operation that has more than one chunk left ends a chunk: its progress is recorded and its cursor
written at its place in the cursor area; while its context freezes it goes no further. -/
def Obligations.EngineOperations : Prop :=
  (∀ (s : State) (id : Nat) (o : EngOp), EngineTurn s id o →
      (o.started = false → collOf o = none → (∀ q, o.instr ≠ .qfence q) →
        let rows := match listOf o with
          | some (off, n) => readRows s o.wg off n
          | none => []
        (mxOf o = none → exec (.engineOpStart id) s = .next (modEng s id fun _ => { o with started := true, rows := rows })) ∧
        ∃ s' f, exec (.engineOpStart id) s = .next s' ∧
          tabFind s'.engq id = some { o with started := true, rows := rows, fetched := f } ∧ s'.threads = s.threads) ∧
      (∀ c hs, o.started = false → (∀ q, o.instr ≠ .qfence q) → collOf o = some c → joined s o c = some hs →
        collAgrees c hs = false → exec (.engineOpStart id) s =
          .next (hs.foldl (fun acc h => modEng acc h.2.1 fun x => { x with status := 0x08, started := true }) s)) ∧
      (∀ c hs s1 fs, o.started = false → (∀ q, o.instr ≠ .qfence q) → collOf o = some c → joined s o c = some hs →
        collAgrees c hs = true → collSources c hs s = .ok (s1, fs) → exec (.engineOpStart id) s =
          .next (hs.foldl (fun acc h => modEng acc h.2.1 fun x => { x with partialSum := collResult c hs fs, started := true }) s1)) ∧
      (∀ q, o.instr = .qfence q → (∀ p ∈ siblings s o, atHead s p.1 p.2 = true) → exec (.engineOpComplete id) s =
        .next { s with engq := s.engq.filter fun p => !((siblings s o).any fun x => x.1 == p.1) })) ∧
  (∀ (s : State) (id : Nat) (o : EngOp) (g : Wg), EngineTurn s id o → o.started = true → tabFind s.wgs o.wg = some g →
      (∃ m ∈ o.members, (tabFind s.threads m).isSome = true) →
      let slotEnds (g' : Wg) : Prop := ∃ s', exec (.engineOpComplete id) s = .next s' ∧ OpDone s' id 0 ∧
        tabFind s'.wgs o.wg = some g' ∧ s'.threads = s.threads ∧ s'.mem = s.mem ∧ s'.coh.l2 = s.coh.l2
      (∀ d f, o.instr = .mzero d f → o.bar = none → slotEnds (putSlot g d.toNat (f == 1) [])) ∧
      (∀ d n, o.instr = .mcommit d n → o.bar = none → (mcommitWg g o.cond d.toNat n.toNat).1 = 0 →
        slotEnds (mcommitWg g o.cond d.toNat n.toNat).2) ∧
      (∀ d n c, o.instr = .mcommit d n → (mcommitWg g o.cond d.toNat n.toNat).1 ≠ 0 → tabFind s.ctxs o.ctx = some c →
        ∃ s' x r, exec (.engineOpComplete id) s = .next s' ∧ tabFind s'.engq id = some x ∧ x.status = 0x07 ∧
          x.failing = true ∧ x.finished = false ∧ (ctxOf s' o.ctx).recs = c.recs ++ [r] ∧ r.eng = some id ∧ r.thread = none) ∧
      (∀ m s1 sums a, mxOf o = some m → o.bar = none → chunked s o = false → mxFormatBad s o m = false →
        mxRun s o m o.progress m.k = .ok (s1, (sums, a)) → ∃ s', exec (.engineOpComplete id) s = .next s' ∧ OpDone s' id 0 ∧
          s'.wgs = (mxStore s1 o m sums).wgs ∧ s'.threads = s1.threads ∧ s'.mem = s1.mem)) ∧
  (∀ (s : State) (id : Nat) (o : EngOp), EngineTurn s id o → o.started = true →
      (∀ d a f g s1 w, o.instr = .mdrain d a f → tabFind s.wgs o.wg = some g →
        (accSlot g d.toNat).f64 = false ∨ f.toNat % 8 = 0 →
        drainRows o (f.toNat % 8) (f.getLsbD 4) (drainSlot s o d.toNat) (o.opnds.getD 0 0).toNat (o.opnds.getD 1 0).toNat
          (launchOf s o.launch).lrec.scratch (drainList o f) (dropHold s o.core) (Wrote.none s) = (s1, w, none) →
        exec (.engineOpComplete id) s = .next (finish
          (if f.getLsbD 5 then modWg s1 o.wg fun x => putSlot x d.toNat false [] else s1) id o (okEnding w))) ∧
      (∀ f n a b c, o.instr = .cpy n a b f → chunked s o = false →
        runCopy s o f ((cpyShape f o.opnds).1 * (cpyShape f o.opnds).2.1) = c → c.stop = none →
        exec (.copyComplete id) s = .next (finish c.s id o (okEnding c.wrote))) ∧
      (∀ f n a b c st va w, o.instr = .cpy n a b f → chunked s o = false →
        runCopy s o f ((cpyShape f o.opnds).1 * (cpyShape f o.opnds).2.1) = c → c.stop = some (.fail st va, w) →
        exec (.copyComplete id) s = .next (finish c.s id o ⟨st, va, copyDst o f c.n, 0, c.wrote, w⟩)) ∧
      (∀ c s1 n w, collOf o = some c → chunked s o = false → o.status = 0 → collWrite s o c o.progress c.count = (s1, n, w, none) →
        exec (.collComplete id) s = .next (finish s1 id o (okEnding w)))) ∧
  (∀ (s : State) (id : Nat) (o : EngOp) (va n : Nat) (x : Xl) (l : L2Line), EngineTurn s id o → o.started = true →
      chunked s o = false → o.progress = 0 → o.bar = none → (∃ m ∈ o.members, (tabFind s.threads m).isSome = true) →
      PlainWrite s o va n x l →
      let off := x.pa % 128
      let wrote (name : Instr) (v : Nat) : Prop := ∃ s', exec name s = .next s' ∧ OpDone s' id 0 ∧ s'.threads = s.threads ∧
        s'.mem = s.mem ∧
          s'.coh.l2 = s.coh.l2.map fun y => if y.line = lineOf x.pa then { y with data := linePut l.data off n v } else y
      (∀ k a b f g, o.instr = .cpy k a b f → f.toNat = 1 → tabFind s.wgs o.wg = some g → (o.opnds.getD 1 0).toNat = va →
        bitsAt (o.opnds.getD 2 0).toNat 0 32 = n → wrote (.copyComplete id) (scrGet g (o.opnds.getD 0 0).toNat n)) ∧
      (∀ c, collOf o = some c → o.status = 0 → c.dst = va → c.count * collBytes c.ty = n → wrote (.collComplete id)
        (ofLeBytes ((List.range' 0 c.count).flatMap fun e => leBytes (collBytes c.ty) (tabGet 0 o.partialSum e).toNat)))) ∧
  (∀ (s : State) (id : Nat) (o : EngOp), EngineTurn s id o → o.started = true → chunked s o = true →
      let went (s1 : State) (done : Nat) (f : EngOp → EngOp) : Prop :=
        exec (.chunkEnd id) s = .next (chunkDone s1 id o done f) ∧ ∃ s' x, exec (.chunkEnd id) s = .next s' ∧
          tabFind s'.engq id = some x ∧ x.progress = done ∧ x.partialSum = (f o).partialSum ∧ x.started = true ∧
          x.halted = (ctxOf s1 o.ctx).frozen ∧ s'.threads = s1.threads ∧ s'.batches = s1.batches
      (∀ m s1 sums a, mxOf o = some m → o.progress + chunkK m < m.k → mxFormatBad s o m = false →
        mxRun s o m o.progress (o.progress + chunkK m) = .ok (s1, (sums, a)) →
        went s1 (o.progress + chunkK m) fun x => { x with partialSum := sums, avals := chunkA o m a }) ∧
      (∀ n a b f, o.instr = .cpy n a b f →
        o.progress + 262144 < (cpyShape f o.opnds).1 * (cpyShape f o.opnds).2.1 →
        (runCopy s o f (o.progress + 262144)).stop = none →
        went (runCopy s o f (o.progress + 262144)).s (runCopy s o f (o.progress + 262144)).n
          (addWrote (runCopy s o f (o.progress + 262144)).wrote)) ∧
      (∀ c s1 n w, collOf o = some c → o.status = 0 → o.progress + 65536 < c.count →
        collWrite s o c o.progress (o.progress + 65536) = (s1, n, w, none) → went s1 (o.progress + 65536) (addWrote w)))

/-- R295, R299: `mzero` leaves its slot +0 in every element with the tag its format gives; `mcommit` on a true condition adds
the shadow to an f32 slot element by element and empties the shadow, and on a false one empties it alone. -/
def Obligations.AccumulatorsChange : Prop :=
  ∀ (g : Wg) (d n : Nat) (h : Shadow),
    (∀ f64, accSlot (putSlot g d f64 []) d = ⟨f64, []⟩) ∧
    (tabFind g.shadow n = none → ∀ c, mcommitWg g c d n = (0, g)) ∧
    (tabFind g.shadow n = some h →
      mcommitWg g false d n = (0, { g with shadow := tabDel g.shadow n }) ∧
      ((accSlot g d).f64 = true → mcommitWg g true d n = (0x07, g)) ∧
      ((accSlot g d).f64 = false → (mcommitWg g true d n).1 = 0 ∧
        (mcommitWg g true d n).2.shadow = tabDel g.shadow n ∧
        (accSlot (mcommitWg g true d n).2 d).f64 = false ∧
        (∀ k, k < 16384 → tabGet 0 (accSlot (mcommitWg g true d n).2 d).vals k =
          BitVec.ofNat 64 (opAdd F32 0 false (tabGet 0 (accSlot g d).vals k).toNat (tabGet 0 h.vals k).toNat).1) ∧
        (∀ e, e ≠ d → accSlot (mcommitWg g true d n).2 e = accSlot g e)))

/-- R228, R144: each integer instruction gives its exact result, wrapped to the type, or clamped under `.sat`, with IOV under
`.chk` when it does not fit; the operands are read with the type's width and sign. -/
def Obligations.LaneIntegerResults : Prop :=
  (∀ (s : State) (f : LaneFields) (e : LaneEnv), ∀ p ∈ laneIntTable, LaneRuns (p.1 f) s e →
    exec (p.1 f) s = .next (afterEach (p.1 f) e e.rb fun L => fitInt f e.ty
      (p.2 (tyBits e.ty) (rdInt e.ty (srcA e e.rb L)) (rdInt e.ty (srcB e e.rb L)) (rdInt e.ty (srcC e e.rb L))))) ∧
  (∀ (s : State) (f : LaneFields) (e : LaneEnv), LaneRuns (.dot4 f) s e →
    exec (.dot4 f) s = .next (afterEach (.dot4 f) e 32 fun L => fitInt f e.ty
      (rdInt e.ty (srcC e 32 L) + ((List.range 4).map fun k =>
        byteOf (isSignedTy e.ty) (srcA e 32 L) k * byteOf (isSignedTy e.ty) (srcB e 32 L) k).sum))) ∧
  (∀ (f : LaneFields) (ty : Nat) (v : Int), ty ∈ tyInt →
    let lo : Int := if isSignedTy ty then -2 ^ (tyBits ty - 1) else 0
    let hi : Int := if isSignedTy ty then 2 ^ (tyBits ty - 1) - 1 else 2 ^ tyBits ty - 1
    (lo ≤ v → v ≤ hi → fitInt f ty v = (wrInt ty v, 0)) ∧
    (v < lo ∨ hi < v → (fitInt f ty v).2 = (if f.fam.getLsbD 0 then 0x20 else 0)) ∧
    (v < lo → f.rnd.getLsbD 1 = true → (fitInt f ty v).1 = wrInt ty lo) ∧
    (hi < v → f.rnd.getLsbD 1 = true → (fitInt f ty v).1 = wrInt ty hi) ∧
    (f.rnd.getLsbD 1 = false → (fitInt f ty v).1 = wrInt ty v) ∧
    (∀ k, rdInt ty (wrInt ty (v + k * 2 ^ tyBits ty)) = rdInt ty (wrInt ty v)) ∧
    (lo ≤ v → v ≤ hi → rdInt ty (wrInt ty v) = v ∧
      (wrInt ty v : Int) = if v < 0 then v + 2 ^ regBits ty else v))

/-- R228 to R230: the bit instructions, shifts and field instructions on `w` bits, `sel`, and `icmp`, which writes a
predicate. -/
def Obligations.LaneBitResults : Prop :=
  ∀ (s : State) (f : LaneFields) (e : LaneEnv),
    let a (L : Nat) := BitVec.ofNat e.rb (srcA e e.rb L)
    let b (L : Nat) := BitVec.ofNat e.rb (srcB e e.rb L)
    let n (L : Nat) := srcB32 e L % e.rb
    let pos (L : Nat) := srcB32 e L % 256
    let len (L : Nat) := srcB32 e L / 256 % 256
    let top (L : Nat) := min (pos L + len L) e.rb
    (∀ p ∈ laneBitTable, LaneRuns (p.1 f) s e →
      exec (p.1 f) s = .next (afterResult (p.1 f) e e.rb (fun L => (p.2 e.rb (a L) (b L)).toNat) 0)) ∧
    (∀ p ∈ laneBitOneTable, LaneRuns (p.1 f) s e →
      exec (p.1 f) s = .next (afterResult (p.1 f) e e.rb (fun L => (p.2 e.rb (a L)).toNat) 0)) ∧
    (∀ p ∈ laneShiftTable, LaneRuns (p.1 f) s e →
      exec (p.1 f) s = .next (afterResult (p.1 f) e e.rb (fun L => (p.2 e.rb (a L) (n L)).toNat) 0)) ∧
    (LaneRuns (.bfx f) s e → exec (.bfx f) s = .next (afterResult (.bfx f) e e.rb (fun L =>
      if len L = 0 ∨ e.rb ≤ pos L then 0
      else if isSignedTy e.ty then (((a L).extractLsb' (pos L) (top L - pos L)).signExtend e.rb).toNat
      else ((a L).extractLsb' (pos L) (top L - pos L)).toNat) 0)) ∧
    (LaneRuns (.bfi f) s e → ∃ r, exec (.bfi f) s = .next (afterResult (.bfi f) e e.rb r 0) ∧
      ∀ L k, k < e.rb → (r L).testBit k =
        if len L ≠ 0 ∧ pos L ≤ k ∧ k < top L then (srcA e e.rb L).testBit (k - pos L) else (srcC e e.rb L).testBit k) ∧
    (LaneRuns (.sel f) s e → exec (.sel f) s = .next (afterResult (.sel f) e e.rb
      (fun L => if predSrc e f.sc L then srcA e e.rb L else srcB e e.rb L) 0)) ∧
    (∀ p ∈ laneCmpTable, f.fam = p.1 → LaneRuns (.icmp f) s e → exec (.icmp f) s = .next (afterPred (.icmp f) e
      (fun L => p.2 (rdInt e.ty (srcA e e.rb L)) (rdInt e.ty (srcB e e.rb L))) 0))

/-- R232 to R235: each float instruction computes on every element with its operation, the flags of the elements ORed;
`fldx` takes its exponent as a 32-bit signed operand, `fclass` writes a 32-bit mask, and `fcmp` a predicate that is true when
the comparison holds of every element.

R146, R233: a float result with a NaN operand is the canonical NaN, with NV only for a signalling NaN; a comparison with
a NaN is false but for `ne` and `uno`. -/
def Obligations.LaneFloatResults : Prop :=
  (∀ (s : State) (f : LaneFields) (e : LaneEnv),
      let m := fmtOfTy e.ty
      (∀ p ∈ laneFloatTable, LaneRuns (p.1 f) s e → exec (p.1 f) s = .next (afterEach (p.1 f) e e.rb fun L =>
        if e.ty = 9 ∨ e.ty = 10 then
          let el (k : Nat) := p.2 f m (srcA e 32 L / 2 ^ (16 * k) % 2 ^ 16) (srcB e 32 L / 2 ^ (16 * k) % 2 ^ 16)
            (srcC e 32 L / 2 ^ (16 * k) % 2 ^ 16)
          ((el 0).1 + (el 1).1 * 2 ^ 16, (el 0).2 ||| (el 1).2)
        else p.2 f m (srcA e e.rb L % 2 ^ m.bits) (srcB e e.rb L % 2 ^ m.bits) (srcC e e.rb L % 2 ^ m.bits))) ∧
      (LaneRuns (.fldx f) s e → exec (.fldx f) s = .next (afterEach (.fldx f) e e.rb fun L =>
        opLdx m (rndOf f) (ftzOf f) (srcA e e.rb L) (BitVec.ofNat 32 (srcB32 e L)).toInt)) ∧
      (LaneRuns (.fclass f) s e → exec (.fclass f) s = .next (afterResult (.fclass f) e 32
        (fun L => opClass m (ftzOf f) (srcA e e.rb L % 2 ^ m.bits)) 0)) ∧
      (LaneRuns (.fcmp f) s e → ∃ fl, exec (.fcmp f) s = .next (afterPred (.fcmp f) e (fun L =>
        if e.ty = 9 ∨ e.ty = 10 then
          (opCmp m (ftzOf f) f.fam.toNat (srcA e 32 L % 2 ^ 16) (srcB e 32 L % 2 ^ 16)).1 &&
            (opCmp m (ftzOf f) f.fam.toNat (srcA e 32 L / 2 ^ 16 % 2 ^ 16) (srcB e 32 L / 2 ^ 16 % 2 ^ 16)).1
        else (opCmp m (ftzOf f) f.fam.toNat (srcA e e.rb L % 2 ^ m.bits) (srcB e e.rb L % 2 ^ m.bits)).1) fl))) ∧
  (∀ m ∈ [F16, BF16, F32, F64], ∀ (r : Nat) (ftz : Bool) (a b c : Nat),
      a < 2 ^ m.bits → b < 2 ^ m.bits → c < 2 ^ m.bits →
      let nan (x : Nat) : Bool := decide (x / 2 ^ m.m % 2 ^ m.e = 2 ^ m.e - 1 ∧ x % 2 ^ m.m ≠ 0)
      let snan (x : Nat) : Bool := nan x && x % 2 ^ m.m < 2 ^ (m.m - 1)
      let canon : Nat := (2 ^ m.e - 1) * 2 ^ m.m + 2 ^ (m.m - 1)
      let nv (l : List Nat) : AFlags := if l.any snan then 1 else 0
      (nan a || nan b → ∀ g ∈ [opAdd, opSub, opMul, opDiv], g m r ftz a b = (canon, nv [a, b])) ∧
      (nan a → opSqrt m r ftz a = (canon, nv [a]) ∧ opTrunc m r ftz a = (canon, nv [a])) ∧
      (nan a && nan b → ∀ mx nf, opMinMax m ftz mx nf a b = (canon, nv [a, b])) ∧
      (nan a || nan b → ∀ k, k < 8 → opCmp m ftz k a b =
        (k == 1 || k == 7, if (decide (2 ≤ k) && decide (k ≤ 5)) || snan a || snan b then 1 else 0)))

/-- R236 to R240: moves, conversions, the tapered formats and `lea`. -/
def Obligations.LaneMoveResults : Prop :=
  ∀ (s : State) (f : LaneFields) (e : LaneEnv),
    (LaneRuns (.mov f) s e → exec (.mov f) s = .next (afterResult (.mov f) e e.rb (fun L => srcA e e.rb L) 0)) ∧
    (LaneRuns (.movi f) s e → exec (.movi f) s = .next (afterResult (.movi f) e e.rb (fun _ =>
      if f.ty = 15 ∧ f.fam = 1 then (f.imm.signExtend 64).toNat else f.imm.toNat) 0)) ∧
    (LaneRuns (.cvt f) s e →
      let src := (f.imm.extractLsb' 0 4).toNat
      exec (.cvt f) s = .next (afterEach (.cvt f) e e.rb fun L =>
        let a := srcA e (regBits src) L
        if src = 9 ∨ src = 10 then
          let el (k : Nat) := cvtFF (fmtOfTy src) (fmtOfTy e.ty) (rndOf f) (ftzOf f) (a / 2 ^ (16 * k) % 2 ^ 16)
          ((el 0).1 + (el 1).1 * 2 ^ 16, (el 0).2 ||| (el 1).2)
        else if isFloatTy src then
          if isFloatTy e.ty then cvtFF (fmtOfTy src) (fmtOfTy e.ty) (rndOf f) (ftzOf f) (a % 2 ^ tyBits src)
          else
            let r := cvtFI (fmtOfTy src) (rndOf f) (ftzOf f) (tyBits e.ty) (isSignedTy e.ty) (a % 2 ^ tyBits src)
            (wrInt e.ty r.1, r.2)
        else if isFloatTy e.ty then cvtIF (fmtOfTy e.ty) (rndOf f) (ftzOf f) (rdInt src a)
        else fitInt f e.ty (rdInt src a))) ∧
    (LaneRuns (.pack2 f) s e → exec (.pack2 f) s = .next (afterEach (.pack2 f) e 32 fun L =>
      let x := cvtFF F32 (fmtOfTy e.ty) (rndOf f) (ftzOf f) (srcA e 32 L)
      let y := cvtFF F32 (fmtOfTy e.ty) (rndOf f) (ftzOf f) (srcB32 e L)
      (x.1 + y.1 * 2 ^ 16, x.2 ||| y.2))) ∧
    (LaneRuns (.unpk f) s e → exec (.unpk f) s = .next (afterEach (.unpk f) e 64 fun L =>
      let x := cvtFF (fmtOfTy e.ty) F32 0 (ftzOf f) (srcA e 32 L % 2 ^ 16)
      let y := cvtFF (fmtOfTy e.ty) F32 0 (ftzOf f) (srcA e 32 L / 2 ^ 16 % 2 ^ 16)
      (x.1 + y.1 * 2 ^ 32, x.2 ||| y.2))) ∧
    (LaneRuns (.tdec f) s e →
      let w : Nat := if f.fam.getLsbD 0 then 6 else 8
      exec (.tdec f) s = .next (afterResult (.tdec f) e 32 (fun L => (roundVal F32 0 false
        (tapVal (tapDecode w (if f.fam.getLsbD 0 then 0 else 1) (srcA e 32 L / 2 ^ (w * (f.imm.toNat % 4)) % 2 ^ w)) 0)).1) 0)) ∧
    (LaneRuns (.tenc f) s e →
      let w : Nat := if f.fam.getLsbD 0 then 6 else 8
      let lo := w * (f.imm.toNat % 4)
      exec (.tenc f) s = .next (afterEach (.tenc f) e 32 fun L =>
        let r := tapEncode w (if f.fam.getLsbD 0 then 0 else 1) (fread F32 (ftzOf f) (srcA e 32 L))
        (srcC e 32 L % 2 ^ lo + r.1 % 2 ^ w * 2 ^ lo + srcC e 32 L / 2 ^ (lo + w) * 2 ^ (lo + w), r.2))) ∧
    (∀ g : Nat → Nat, LaneRuns (.lea f) s e → (∀ L ∈ lanesOf e.ex,
        let r := lrecOf s e.t
        let a := srcA e 64 L
        let scr (o : Nat) := o ≤ r.scratch ∧ g L = (r.sbase.toNat + tileOf s e.st * 524288 + o) % 2 ^ 64
        let prv (o : Nat) := o ≤ r.ps ∧ g L = privVa r (slotItem s e.t e.st L) o
        (f.fam = 2 → scr a) ∧ (f.fam = 3 → prv a) ∧
        (f.fam = 0 → (a / 2 ^ 56 % 256 = 0xFF → scr (a % 2 ^ 56)) ∧ (a / 2 ^ 56 % 256 = 0xFE → prv (a % 2 ^ 56)) ∧
          (a / 2 ^ 56 % 256 < 0xFE → g L = a))) →
      exec (.lea f) s = .next (afterResult (.lea f) e 64 g 0))

/-- R242 to R248: predicates, the moves between lanes, votes, reductions and scans of integers and bits with every operation, and
the identities over no lane, `cmpx` and the index registers. -/
def Obligations.LaneCrossResults : Prop :=
  ∀ (s : State) (f : LaneFields) (e : LaneEnv),
    let in_ (L : Nat) : Bool := decide (L < 32) && e.ex.getLsbD L
    let low : Nat := ((List.range 32).filter in_).headD 0
    let yes : W32 := trueLanes e
    let least (ty v : Nat) (xs : List Nat) : Prop := if xs = [] then ∀ x, rdInt ty x ≤ rdInt ty v
      else (∃ x ∈ xs, rdInt ty x = rdInt ty v) ∧ ∀ x ∈ xs, rdInt ty v ≤ rdInt ty x
    let greatest (ty v : Nat) (xs : List Nat) : Prop := if xs = [] then ∀ x, rdInt ty v ≤ rdInt ty x
      else (∃ x ∈ xs, rdInt ty x = rdInt ty v) ∧ ∀ x ∈ xs, rdInt ty x ≤ rdInt ty v
    (LaneRuns (.pset f) s e → exec (.pset f) s = .next (afterPred (.pset f) e
      (fun L => if f.i = 1 then f.imm.getLsbD L else decide (srcB32 e L ≠ 0)) 0)) ∧
    (∀ p ∈ ([(0, and), (1, or), (2, xor), (3, fun a b => a && !b), (4, fun a _ => a)] : List (BitVec 3 × (Bool → Bool → Bool))),
      f.fam = p.1 → LaneRuns (.pmov f) s e →
      exec (.pmov f) s = .next (afterPred (.pmov f) e (fun L => p.2 (predSrc e f.sa L) (predSrc e f.sb L)) 0)) ∧
    (LaneRuns (.shfl f) s e → exec (.shfl f) s = .next (afterResult (.shfl f) e e.rb (fun L =>
      let k := srcB32 e L
      let src : Int := if f.fam = 0 then (k % 32 : Nat) else if f.fam = 1 then (L : Int) - k
        else if f.fam = 2 then (L : Int) + k else ((L ^^^ (k % 32) : Nat) : Int)
      srcA e e.rb (if 0 ≤ src ∧ in_ src.toNat then src.toNat else L)) 0)) ∧
    (LaneRuns (.bcast f) s e → exec (.bcast f) s = .next (afterResult (.bcast f) e e.rb (fun _ =>
      srcA e e.rb (if in_ (srcB32 e low % 32) then srcB32 e low % 32 else low)) 0)) ∧
    (LaneRuns (.perm f) s e → exec (.perm f) s = .next (afterResult (.perm f) e e.rb (fun L =>
      let c := srcC e 32 L
      if in_ (c % 32) = false then 0
      else if c / 32 % 2 = 0 then srcA e e.rb (c % 32) else srcB e e.rb (c % 32)) 0)) ∧
    (∀ p ∈ ([(0, yes.setWidth 64), (1, if yes = e.ex then 1 else 0), (2, if yes = 0 then 0 else 1),
        (3, if yes = e.ex ∨ yes = 0 then 1 else 0)] : List (BitVec 3 × Word)), f.fam = p.1 →
      LaneRuns (.vote f) s e → exec (.vote f) s = .next (afterScalar (.vote f) e p.2 0)) ∧
    (LaneRuns (.firstLane f) s e → ∀ k, k = 32 ∧ yes = 0 ∨
        k < 32 ∧ yes.getLsbD k = true ∧ (∀ j, j < k → yes.getLsbD j = false) →
      exec (.firstLane f) s = .next (afterScalar (.firstLane f) e (BitVec.ofNat 64 k) 0)) ∧
    (LaneRuns (.redx f) s e → isFloatTy e.ty = false → ∃ v,
      let w (x : Nat) : Word := if e.ty = 1 then (BitVec.ofNat 32 x).signExtend 64 else BitVec.ofNat 64 x
      exec (.redx f) s = .next (afterScalar (.redx f) e v 0) ∧
      (f.fam = 0 → v = w (wrInt e.ty ((lanesOf e.ex).map fun L => rdInt e.ty (srcA e e.rb L)).sum)) ∧
      (f.fam = 1 → least e.ty v.toNat ((lanesOf e.ex).map (srcA e e.rb)) ∧ v = w (v.toNat % 2 ^ e.rb)) ∧
      (f.fam = 2 → greatest e.ty v.toNat ((lanesOf e.ex).map (srcA e e.rb)) ∧ v = w (v.toNat % 2 ^ e.rb)) ∧
      (f.fam = 3 → v = w (((lanesOf e.ex).map (srcA e e.rb)).foldl (· &&& ·) (2 ^ e.rb - 1))) ∧
      (f.fam = 4 → v = w (((lanesOf e.ex).map (srcA e e.rb)).foldl (· ||| ·) 0)) ∧
      (f.fam = 5 → v = w (((lanesOf e.ex).map (srcA e e.rb)).foldl (· ^^^ ·) 0))) ∧
    (∀ p ∈ ([(3, 0, 0), (3, 1, 0x7F800000), (3, 2, 0xFF800000), (6, 0, 0), (6, 1, 0x7FF0000000000000),
        (6, 2, 0xFFF0000000000000)] : List (Nat × BitVec 3 × Word)), e.ty = p.1 → f.fam = p.2.1 → e.ex = 0 →
          LaneRuns (.redx f) s e →
      exec (.redx f) s = .next (afterScalar (.redx f) e p.2.2 0)) ∧
    (LaneRuns (.redx f) s e → ∃ v fl, exec (.redx f) s = .next (afterScalar (.redx f) e v fl)) ∧
    (LaneRuns (.scan f) s e → ∃ r, exec (.scan f) s = .next (afterEach (.scan f) e e.rb r) ∧
      (isFloatTy e.ty = false → ∀ L ∈ lanesOf e.ex,
        let xs := ((lanesOf e.ex).filter fun k => if f.fam.getLsbD 2 then k < L else k ≤ L).map (srcA e e.rb)
        (r L).2 = 0 ∧ (r L).1 < 2 ^ e.rb ∧
        (f.fam = 0 ∨ f.fam = 4 → (r L).1 = wrInt e.ty (xs.map (rdInt e.ty)).sum) ∧
        (f.fam = 1 ∨ f.fam = 5 → least e.ty (r L).1 xs) ∧ (f.fam = 2 ∨ f.fam = 6 → greatest e.ty (r L).1 xs))) ∧
    (LaneRuns (.cmpx f) s e → ∃ r, exec (.cmpx f) s = .next (afterEach (.cmpx f) e e.rb r) ∧
      (isFloatTy e.ty = false → ∀ L ∈ lanesOf e.ex, ∀ q, q = L ^^^ (srcB32 e L % 32) →
        let a := srcA e e.rb L
        let b := srcA e e.rb q
        r L = (if q = L ∨ in_ q = false ∨ rdInt e.ty a = rdInt e.ty b then a
          else if (decide (L < q) != f.fam.getLsbD 0) = decide (rdInt e.ty a < rdInt e.ty b) then a else b, 0))) ∧
    (LaneRuns (.xset f) s e → exec (.xset f) s = .next (afterIndex (.xset f) e fun L => BitVec.ofNat 32 (srcB32 e L))) ∧
    (LaneRuns (.xadd f) s e → exec (.xadd f) s = .next (afterIndex (.xadd f) e fun L =>
      xOf e.st (f.dst.toNat % 4) L + BitVec.ofNat 32 (srcB32 e L))) ∧
    (LaneRuns (.xget f) s e → exec (.xget f) s = .next (afterResult (.xget f) e 32
      (fun L => (xOf e.st (srcCode f.sa % 4) L).toNat) 0))

/-- R172, R174, R179, R181: a lane instruction with a defect in its fields, a register at or beyond `.regs`, or the 1,024th of
its block without T raises ILL, and one with an index outside its window raises IDX for the lanes concerned: precisely at its
lane PC, with no effect in any lane. -/
def Obligations.LaneFaults : Prop :=
  ∀ (i : Instr) (s : State) (t : Thread) (st : Seat) (b : Block) (rest : List Block) (sh : LaneShape) (m : Bool)
    (f : LaneFields), ActsSeated s t st → st.blocks = b :: rest → laneShape i = some (sh, m, f) →
    let stop (cause sub : Nat) (mask : W32) : Stop :=
      { mkStop s t .fault cause sub (nextPc t) with lpc := some (b.lpc + 3 * b.pos), mask := mask }
    let far := beyondRegs (lrecOf s t).regs sh f
    let ends := b.pos ≠ 1023 ∨ f.t = 1
    let ex := execMask st b f
    (∀ sub, illSub i = some sub → sub ≤ 5 →
      exec i s = .next (takeStop s s.cur (stop 0x01 sub b.am))) ∧
    (WellFormed i → far = true → exec i s = .next (takeStop s s.cur (stop 0x01 0x05 b.am))) ∧
    (WellFormed i → far = false → ¬ ends → exec i s = .next (takeStop s s.cur (stop 0x01 0x06 b.am))) ∧
    (WellFormed i → far = false → ends → pairBeyond s t st ex sh f = true →
      exec i s = .next (takeStop s s.cur (stop 0x01 0x05 b.am))) ∧
    (WellFormed i → far = false → ends → pairBeyond s t st ex sh f = false → ∀ n w, indexUses sh f = [(n, w)] →
      ∀ L ∈ lanesOf ex, indexBad s t st n w L = true → (∀ k, k < L → laneIn ex k = true → indexBad s t st n w k = false) →
      exec i s = .next (takeStop s s.cur { stop 0x04 n (maskOf fun k => laneIn ex k && indexBad s t st n w k) with
        w6 := (xOf st n L).setWidth 64, w7 := BitVec.ofNat 64 (windowOf s t n).2 }))

/-- R251 to R256, R259, R262: a lane access takes its address from SA and the offset, is checked in every executing lane, and
then goes in flight for all of them, the strand passing on; a failed check stops the strand with no effect. `prf` puts nothing in
flight; at the L1 or the quad level it leaves a copy of a line of normal memory that its slice can serve in the quad store. `cacc`
is for a commutative range of its format, outside a region. -/
def Obligations.LaneAccesses : Prop :=
  ∀ (s : State) (f : LaneFields) (e : LaneEnv),
    let off := (f.imm.extractLsb' 0 25).toInt
    let gone (i : Instr) : Thread := { e.t with seat := some (afterReads i e) }
    let going (i : Instr) (sp : Nat) (a : AccSpec) : Thread :=
      if a.dst = .none then gone i else { e.t with seat := some (awaitsLatch e sp a (afterReads i e)) }
    let req (L : Nat) (v v2 : Word) : Req := ⟨L, slotItem s e.t e.st L, ((srcA e 64 L : Int) + off) % 2 ^ 64, v, v2⟩
    (∀ i sp a v v2, (i, sp, a, v, v2) ∈ laneAccTable e f → LaneRuns i s e →
      let ad (L : Nat) : Int := if sp = 2 ∨ sp = 3 then (srcA e 32 L : Int) + off else ((srcA e 64 L : Int) + off) % 2 ^ 64
      let reqs : List Req := (lanesOf e.ex).map fun L =>
        ⟨L, slotItem s e.t e.st L, ad L, BitVec.ofNat 64 (v L), BitVec.ofNat 64 (v2 L)⟩
      (∀ accs, checkAll s e.t sp (accessBytes e.ty) (a.kind != .load) reqs = .ok accs →
        exec i s = .next (launchOp s (going i sp a)
          (mkOp s s.cur e.t e.b.seq (some (e.b.lpc + 3 * e.b.pos)) a []) accs)) ∧
      (∀ g m, checkAll s e.t sp (accessBytes e.ty) (a.kind != .load) reqs = .error (g, m) →
        exec i s = .next (takeStop s s.cur { mkStop s e.t .fault g.cause g.sub (nextPc e.t) with
          lpc := some (e.b.lpc + 3 * e.b.pos), mask := m, va := g.va, w6 := BitVec.ofNat 64 g.w6,
          w7 := BitVec.ofNat 64 g.w7, write := a.kind != .load }))) ∧
    (LaneRuns (.prf f) s e → ∃ s', exec (.prf f) s = .next s' ∧ tabFind s'.threads s.cur = some (gone (.prf f)) ∧
      s'.ops = s.ops ∧ s'.wgs = s.wgs ∧ s'.launches = s.launches ∧
      ∀ L a d, lanesOf e.ex = [L] → (f.imm.extractLsb' 25 3).toNat ≤ 1 → checkLane s e.t 0 4 false (req L 0 0) = .ok (a, none) →
        noteAccess s (xlUnit e.t) e.t.ctx a.va.toNat false = s →
        let o : Op := { mkOp s s.cur e.t e.b.seq none ⟨.ld, .load, 0, e.ty, 2, false, false, false, 0, .none⟩ [a] with region := 0 }
        sliceReady s o a = true → slotEmpty s a.pa a.key = false → leasable s o a = true → LineIs s (a.pa / 128) a.key d →
          linePartials s (a.pa / 128) = [] →
        0 < placeRoom s (.quad (e.st.core / 4)) (a.pa / 128) →
        ∃ c ∈ s'.coh.copies, c.place = .quad (e.st.core / 4) ∧ c.line = a.pa / 128 ∧ c.data = d) ∧
    (LaneRuns (.cacc f) s e → inRegion e.t = true →
      exec (.cacc f) s = .next (takeStop s s.cur { mkStop s e.t .fault 0x02 0x06 (nextPc e.t) with
        lpc := some (e.b.lpc + 3 * e.b.pos), mask := e.ex })) ∧
    (∀ accs : List (LaneAcc × Option (Nat × Nat)), LaneRuns (.cacc f) s e → inRegion e.t = false →
      (lanesOf e.ex).map (fun L => caccCheck s e.t e.ty (accessBytes e.ty) (req L (BitVec.ofNat 64 (srcB e e.rb L)) 0)) =
        accs.map Except.ok →
      exec (.cacc f) s = .next (launchOp s (gone (.cacc f))
        (mkOp s s.cur e.t e.b.seq (some (e.b.lpc + 3 * e.b.pos))
          ⟨.st, .cacc, 0, e.ty, 2, false, false, false, 0, .none⟩ []) accs))

/-- R173, R177, R178, R224: a lane-register result is written to DST in the executing lanes and pushed into l0, and nothing
else changes but the block, the flags raised, the last uses and the marks of long-latency results.

R173, R224, R226, R227, R248: a predicate, scalar or index-register result is written to its register, in the executing
lanes only, and nothing else changes but the block, the flags raised, the last uses, the marks of long-latency results and, where an
instruction consumes one, the latches (R316). -/
def Obligations.LaneResultsWrite : Prop :=
  (∀ (i : Instr) (s : State) (e : LaneEnv) (w : Nat) (r : Nat → Nat) (fl : AFlags), LaneRuns i s e → w = 32 ∨ w = 64 →
      ∃ st' : Seat,
        afterResult i e w r fl = putThr s s.cur { e.t with seat := some st', aflags := e.t.aflags ||| fl } ∧
        (∀ sh m f, laneShape i = some (sh, m, f) → ∀ k L, L < 32 →
          let d := regOf s e.t e.st e.f.dst.toNat L
          (e.f.dst ≠ 255 → laneIn e.ex L = true → k = d → readV s st' k L = BitVec.ofNat 32 (r L)) ∧
          (e.f.dst ≠ 255 → laneIn e.ex L = true → w = 64 → k = d + 1 → readV s st' k L = BitVec.ofNat 32 (r L / 2 ^ 32)) ∧
          (e.f.dst = 255 ∨ laneIn e.ex L = false ∨ (k ≠ d ∧ ¬ (w = 64 ∧ k = d + 1)) → k ∉ lastUses sh f →
            tabFind st'.vregs (k * 32 + L) = tabFind e.st.vregs (k * 32 + L)) ∧
          (e.f.dst = 255 ∨ laneIn e.ex L = false ∨ (k ≠ d ∧ ¬ (w = 64 ∧ k = d + 1)) → k ∈ lastUses sh f →
            tabFind st'.vregs (k * 32 + L) = none)) ∧
        (∃ l, st'.latches = l :: (latchesRead e).take 3 ∧ l.mask = e.ex ∧ l.block = e.b.seq ∧ l.pos = e.b.pos ∧ l.broken = false ∧
          l.pend = none ∧ ∀ L ∈ lanesOf e.ex, (tabGet 0 l.vals L).toNat = r L % 2 ^ w) ∧
        st'.zeroV = (afterReads i e).zeroV ∧ st'.longRegs = (afterReads i e).longRegs ∧
        (∀ rest, e.st.blocks = e.b :: rest →
          st'.blocks = if e.f.t = 1 then rest else { e.b with pos := e.b.pos + 1 } :: rest) ∧
        SameButLane e.st st') ∧
  (∀ (i : Instr) (s : State) (e : LaneEnv) (fl : AFlags), LaneRuns i s e →
      (∀ (r : Nat → Bool), e.f.dst.toNat % 8 ≠ 7 → ∃ st' : Seat,
        afterPred i e r fl = putThr s s.cur { e.t with seat := some st', aflags := e.t.aflags ||| fl } ∧
        (∀ k L, k < 8 → L < 32 → laneIn (predOf st' k) L =
          if k = e.f.dst.toNat % 8 ∧ laneIn e.ex L then r L else laneIn (predOf e.st k) L) ∧
        st' = { afterReads i e with preds := st'.preds }) ∧
      (∀ v : Word, e.f.dst.setWidth 6 ≠ (0 : SReg) →
        afterScalar i e v fl = putThr s s.cur { setS e.t (e.f.dst.setWidth 6) (.u v) with
          seat := some (afterReads i e), aflags := e.t.aflags ||| fl }) ∧
      (∀ r : Nat → W32, ∃ st' : Seat, afterIndex i e r = putThr s s.cur { e.t with seat := some st' } ∧
        (∀ n L, n < 4 → L < 32 → xOf st' n L = if n = e.f.dst.toNat % 4 ∧ laneIn e.ex L then r L else xOf e.st n L) ∧
        st' = { afterReads i e with xregs := st'.xregs }) ∧
      (let st1 := afterReads i e
       SameButLane e.st st1 ∧ st1.latches = latchesRead e ∧
        (∀ k, st1.longRegs.getLsbD k = (e.st.longRegs.getLsbD k && !(readClears i e).contains k)) ∧
        (∀ rest, e.st.blocks = e.b :: rest → st1.blocks = if e.f.t = 1 then rest else { e.b with pos := e.b.pos + 1 } :: rest) ∧
        (∀ sh m f, laneShape i = some (sh, m, f) →
          (∀ k, st1.zeroV.getLsbD k = (e.st.zeroV.getLsbD k && !(lastUses sh f).contains k)) ∧ ∀ k L, L < 32 →
          tabFind st1.vregs (k * 32 + L) = if k ∈ lastUses sh f then none else tabFind e.st.vregs (k * 32 + L))))

/-- R97, R131, R368, R369: an access of a lane is performed at its slice. A load gets the line's bytes; a write leaves the
line in M in its die alone, with its bytes replaced, and an atomic returns what the bytes held; a `cas` whose comparison fails
leaves them. An atomic of `.pod` or `.sys` scope leaves the line with no L2 (R108). A load may be served from a leased copy
instead, a store of `.core` or `.quad` scope performed at its L1 or quad store on its way (R100), and a load that reaches a line
parked outside its set fails with LOCATE.

R374, R392: whatever holds the line, a load or value-returning atomic of a page whose key slot is empty, or of a poisoned line,
fails with POISON, sub-cause 1, and another write is acknowledged, its effect lost and the line poisoned.

R100, R105: an acquiring load of `.core` or `.quad` scope may be served at its L1 or quad store with the bytes of stores performed
there that are on their way home.

R73: in hardware mode the locate unit gives the line a set with the core in it, and the load is checked and issued again. -/
def Obligations.AccessesPerformed : Prop :=
  (∀ (s : State) (op lane : Nat) (o : Op) (a : LaneAcc), LaneInFlight s op lane o a → sliceReady s o a = true →
      let line := lineOf a.pa
      let off := a.pa % 128
      let die := (taggedDie s line).getD o.die
      (slotEmpty s a.pa a.key = true ∨ poisoned s line = true → (locketAt s line).any (opLocates s o) = false → o.back = false →
        ∃ t, exec (.nonregionSliceAccess op lane 0) s = .next t ∧ t.coh = s.coh ∧ t.mem = { s.mem with poison := t.mem.poison } ∧
          (o.path = .ld ∨ o.path = .atm → t.mem = s.mem) ∧ (o.path = .st → ∀ x, x ∈ t.mem.poison ↔ x = line ∨ x ∈ s.mem.poison) ∧
          (o.path = .ld ∨ o.path = .atm → ∃ o', tabFind t.ops op = some o' ∧ ∀ x ∈ o'.lanes, x.lane = lane →
            x.phase = .failed 0x15 0x01 (line * 128) 0) ∧
          (o.path = .st → LaneDone t op lane 0)) ∧
      (∀ d, slotEmpty s a.pa a.key = false → LineIs s line a.key d → linePartials s line = [] → o.kind = .load → o.back = false →
        ∃ t, exec (.nonregionSliceAccess op lane 0) s = .next t ∧
          LaneDone t op lane (BitVec.ofNat 64 (lineGet d off a.n)) ∧ LineIs t line a.key d) ∧
      (∀ d, slotEmpty s a.pa a.key = false → LineIs s line a.key d → linePartials s line = [] →
        (∀ x ∈ s.coh.l2, x.line = line → x.ro = false) →
        o.kind ∈ [.store, .atomic, .cas] → ∃ t, exec (.nonregionSliceAccess op lane 0) s = .next t ∧
          (o.back = false → LaneDone t op lane (BitVec.ofNat 64 (lineGet d off a.n))) ∧
          (o.kind = .store ∨ o.scope < 4 → (∃ x ∈ t.coh.l2, x.line = line ∧ x.die = die) ∧
            ∀ x ∈ t.coh.l2, x.line = line → x.die = die ∧ x.st = .m ∧
              x.data = (match newValue o a (lineGet d off a.n) with
                | some v => linePut d off a.n v
                | none => d)) ∧
          (o.kind ≠ .store → 4 ≤ o.scope → taggedDie s line = none → ∀ x ∈ t.coh.l2, x.line ≠ line)) ∧
      (∀ k core, locketAt s line = some k → o.kind = .load → o.lx = false → o.core = some core → locates s k o.ctx core = true →
        ∃ t, exec (.locateFault op lane) s = .next t ∧
          (∃ o', tabFind t.ops op = some o' ∧ ∀ x ∈ o'.lanes, x.lane = lane →
            x.phase = .failed 0x13 0 (rsdOf k.rset k.force).toNat (locationWord s o.launch line).toNat) ∧
          t.coh = s.coh ∧ t.threads = s.threads)) ∧
  (∀ (s : State) (op lane : Nat) (o : Op) (a : LaneAcc), LaneInFlight s op lane o a →
      (∀ k c, s.coh.copies[k]? = some c → laneEnded a = false → blockedByEarlier s o a = false → o.back = false →
        mayServe s o a c = true → ∃ t, exec (.nonregionSliceAccess op lane (k + 1)) s = .next t ∧
          LaneDone t op lane (BitVec.ofNat 64 (lineGet c.data (a.pa % 128) a.n)) ∧ t.coh.l2 = s.coh.l2 ∧ t.mem = s.mem) ∧
      (∀ stamps v, nearServes s o a = true → nearBytes s o a = some (stamps, v) →
        ∃ t, exec (.nonregionSliceAccess op lane (o.scope + 1)) s = .next t ∧ LaneDone t op lane v ∧ t.coh = s.coh ∧
          t.mem = s.mem) ∧
      (∀ level, nearReady s o a level = true → ∃ t, exec (.nonregionSliceAccess op lane (level + 1)) s = .next t ∧
          (∃ o', tabFind t.ops op = some o' ∧ ∀ x ∈ o'.lanes, x.lane = lane → x.phase = .near level (s.freeCtr + 1)) ∧
          t.coh.l2 = s.coh.l2 ∧ t.mem = s.mem)) ∧
  (∀ (s : State) (op : Nat) (o : Op) (a : LaneAcc) (k : Locket) (core w6 w7 : Nat) (x : Xl), tabFind s.ops op = some o →
      o.lanes = [a] → a.phase = .failed 0x13 0 w6 w7 → hostAssisted s o.launch 1 (some 1) = false → a.scr = none →
      locketAt s (lineOf a.pa) = some k → o.core = some core → locates s k o.ctx core = true →
      let s1 := locateResolve s k core
      translate s1 core o.ctx a.va.toNat = .ok x → protSub (ctxOf s1 o.ctx).priv x.pte (kindWrites o.kind) = none →
      ∃ t, exec (.locateResolve op) s = .next t ∧
        tabFind t.ops op = some { o with lanes := [{ a with
          pa := x.pa, mt := pteMt x.pte, np := pteNp x.pte, key := pteKey x.pte, phase := .todo, res := 0 }] } ∧
        t.coh = (noteAccess s1 core o.ctx a.va.toNat (kindWrites o.kind)).coh ∧ t.threads = s.threads)

/-- R79, R102, R252: an operation whose lanes have all been performed returns: a load or atomic delivers its results, a write
is acknowledged once it has been performed at its own scope, and its completion time folds into `wct`; one with a failed lane
stops its strand instead, once no access before it in its lane stream may still fault, and puts the lane stream back to where the
strand stood behind it: what later lane instructions did has no effect (R181).

R101, R103: the write completion time of a store is at least now, at least every lease of its die at `.die` and wider, and of
the die whose slice took it at `.pkg` and wider, at least 2 ns beyond every lease of another die there, and at least 40 ns beyond
every lease of another package at `.pod` and wider; and it is one of these. At `.quad` it is the latest lease that the quad store
has granted, and now at least. -/
def Obligations.AccessesReturn : Prop :=
  (∀ (s : State) (op : Nat) (o : Op) (t : Thread), tabFind s.ops op = some o → o.back = false →
      tabFind s.threads o.thread = some t →
      ((∀ x ∈ o.lanes, x.phase = .done) →
        (o.path = .ld → o.kind ≠ .kget → o.kind ≠ .kgetSet →
          exec (.loadReturn op) s = .next (mergeAfter (opBack (deliver (withOp s op o) o) op o false) o.thread)) ∧
        (o.path = .atm → exec (.atomicReturn op) s = .next (mergeAfter (opBack (deliver s o) op o true) o.thread)) ∧
        (∀ d sx n a rest, o.dst = .sreg d false sx n → o.lanes = a :: rest → d ≠ 0 →
          ∃ t', tabFind (deliver s o).threads o.thread = some t' ∧
            getS t' d = .u (if sx then BitVec.ofInt 64 (sext (8 * n) a.res.toNat) else a.res)) ∧
        (∀ regs ty st, o.dst = .vreg regs ty → t.seat = some st → st.retired = false →
          (o.lanes.map (·.lane)).Nodup → (∀ a ∈ o.lanes, a.lane < 32) →
          ∃ t' st', tabFind (deliver s o).threads o.thread = some t' ∧ t'.seat = some st' ∧
            ∀ a ∈ o.lanes, ∀ r, regs.find? (fun x => x.1 == a.lane) = some (a.lane, r) →
              readReg s st' r (regBits ty) a.lane = loadBits ty a.res.toNat % 2 ^ regBits ty)) ∧
      (o.path = .st → performedAt o o.scope = true → (3 ≤ o.scope → waitsTlb s o = false) →
        exec (.storeAck op) s = .next (opBack s op o true)) ∧
      (let s1 := opBack s op o true
       ∃ t', tabFind s1.threads o.thread = some t' ∧
         t'.wct = (if t.wct.toNat < o.wct.own then BitVec.ofNat 64 o.wct.own else t.wct) ∧ t'.sregs = t.sregs) ∧
      (∀ pre a post cause sub w6 w7 st, o.path = .ld → o.kind ≠ .kget → o.kind ≠ .kgetSet → o.lanes = pre ++ a :: post →
        (∀ x ∈ pre, x.phase = .done) → a.phase = .failed cause sub w6 w7 → (∀ x ∈ post, x.phase = .done) → cause ≠ 0x13 →
        t.seat = some st → st.retired = false → t.stop = none → t.more = [] → o.block = 0 ∨ sureTo s o.thread (o.seq - 1) = true →
        let s1 := withOp s op o
        exec (.loadReturn op) s = .next (mergeAfter (takeStop (goBack s1 o t st) o.thread
          { mkStop s1 t .fault cause sub (if o.lpc.isSome then nextPc t else o.pc) with
            lpc := o.lpc, va := a.va, mask := maskOf fun L => o.lanes.any fun x => x.lane == L && laneFailed cause x
            w6 := BitVec.ofNat 64 w6, w7 := BitVec.ofNat 64 w7, write := kindWrites o.kind, seq := o.seq }) o.thread)) ∧
      (∀ st u, st.undos.find? (fun x => x.seq == o.seq) = some u →
        let s1 := goBack s o t st
        (∃ t' st', tabFind s1.threads o.thread = some t' ∧ t'.seat = some st' ∧ t'.aflags = u.aflags ∧ t'.sregs = t.sregs ∧
          t'.pc = t.pc ∧
          st'.vregs = u.vregs ∧ st'.zeroV = u.zeroV ∧ st'.preds = u.preds ∧ st'.xregs = u.xregs ∧ st'.latches = u.latches ∧
          ∃ later, st'.blocks = u.blocks ++ later) ∧
        (∀ p, p ∈ s1.ops ↔ p ∈ s.ops ∧ (p.2.thread ≠ o.thread ∨ p.2.block = 0 ∨ p.2.seq ≤ o.seq)) ∧ s1.mem = s.mem ∧
          s1.coh = s.coh) ∧
      (∀ st, st.undos.find? (fun x => x.seq == o.seq) = none → goBack s o t st = s)) ∧
  (∀ (s : State) (scope line die owner : Nat) (core : Option Nat),
      let w := wctOf s scope line die owner core
      let mine (c : Copy) : Prop := c ∈ s.coh.copies ∧ c.line = line ∧ c.parked = false ∧ placeDie c.place = die
      let own (c : Copy) : Prop := c ∈ s.coh.copies ∧ c.line = line ∧ c.parked = false ∧ placeDie c.place = owner
      let other (c : Copy) : Prop := c ∈ s.coh.copies ∧ c.line = line ∧ c.parked = false ∧ placeDie c.place ≠ owner
      let remote (r : RemoteHold) : Prop := r ∈ s.coh.remote ∧ r.line = line ∧ r.owned = false
      rtNs s ≤ w ∧ (scope = 0 → w = rtNs s) ∧
      (2 ≤ scope → ∀ c, mine c → c.expiry ≤ w) ∧ (3 ≤ scope → ∀ c, own c → c.expiry ≤ w) ∧
      (3 ≤ scope → ∀ c, other c → c.expiry + 2 ≤ w) ∧
      (4 ≤ scope → ∀ r, remote r → r.expiry + 40 ≤ w) ∧
      (2 ≤ scope → w = rtNs s ∨ (scope = 2 ∧ ∃ c, mine c ∧ w = c.expiry) ∨ (3 ≤ scope ∧ ∃ c, own c ∧ w = c.expiry) ∨
        (3 ≤ scope ∧ ∃ c, other c ∧ w = c.expiry + 2) ∨ (4 ≤ scope ∧ ∃ r, remote r ∧ w = r.expiry + 40)) ∧
      (scope = 1 → ∀ k, core = some k →
        let below (c : Copy) : Prop := c ∈ s.coh.copies ∧ c.line = line ∧ c.parked = false ∧ placeQuad c.place = k / 4 ∧
          c.place ≠ .quad (k / 4)
        (∀ c, below c → c.expiry ≤ w) ∧ (∀ c, copyAt s (.quad (k / 4)) line = some c → c.granted ≤ w) ∧
        (w = rtNs s ∨ (∃ c, below c ∧ w = c.expiry) ∨ ∃ c, copyAt s (.quad (k / 4)) line = some c ∧ w = c.granted)))

/-- R368, R369: a read of a die is served with the line's value, and leaves the line with that value in the die; ownership
leaves it in M in the die alone. No other line is touched.

R81, R89, R93, R103, R347, R368 to R371, R376, R377: what ends or moves a copy, a stream, a translation, a partial and an L2 line. A
dirty line that is evicted waits in the write-back buffer until it lands at its home, and a read is forwarded from there. How long
another package's line is leased to this one, and what that package has written to a line it owned, are the model's free values
(assumption 2). -/
def Obligations.DirectoryAndCaches : Prop :=
  (∀ (s : State) (die line key ctx : Nat) (d : LineData), LineIs s line key d → (∀ x ∈ s.coh.l2, x.line = line → x.ro = false) →
      let f := fillLine s die line key ctx
      let g := takeOwnership s die line key ctx
      (f.2 = .data d ∧ LineIs f.1 line key d ∧ ∃ x, l2At f.1 die line = some x ∧ x.data = d) ∧
      (g.2 = .data d ∧ LineIs g.1 line key d ∧ (∃ x ∈ g.1.coh.l2, x.line = line) ∧
        ∀ x ∈ g.1.coh.l2, x.line = line → x.die = die ∧ x.st = .m) ∧
      (∀ x, x.line ≠ line → (x ∈ f.1.coh.l2 ↔ x ∈ s.coh.l2) ∧ (x ∈ g.1.coh.l2 ↔ x ∈ s.coh.l2)) ∧
      f.1.mem = s.mem ∧ g.1.mem = s.mem ∧ f.1.threads = s.threads ∧ g.1.threads = s.threads) ∧
  (∀ (s : State) (die line key ctx : Nat) (w : WBack), poisoned s line = false → l2At s die line = none → l2Owner s line = none →
      wbAt s line = some w → w.fwd = false →
      let f := fillLine s die line key ctx
      f.2 = .data w.held.data ∧ (∃ x, l2At f.1 die line = some x ∧ x.st = .s ∧ x.data = w.held.data) ∧ f.1.mem = s.mem ∧
        ∃ v, wbAt f.1 line = some v ∧ v.held = w.held ∧ v.fwd = true) ∧
  (∀ (s : State),
      (∀ k c, s.coh.copies[k]? = some c → c.parked = false → c.expiry ≤ rtNs s →
        exec (.leaseExpiry k) s = .next { s with coh := { s.coh with copies := s.coh.copies.eraseIdx k } }) ∧
      (∀ k x, s.coh.streams[k]? = some x → x.last + 4096 ≤ coreCc s x.core →
        exec (.streamTimeout k) s = .next { s with coh := { s.coh with
          streams := s.coh.streams.eraseIdx k, copies := s.coh.copies.filter fun c => c.place != .stage x.core x.thread } }) ∧
      (∀ k x n, s.coh.tlb[k]? = some x → x.stale = some n → x.dropped = false → tlbInUse s x = true →
        (∀ y ∈ s.coh.tlb, y.unit = x.unit → y.dropped = false → ∀ m, y.stale = some m → n ≤ m) →
        exec (.translationInvalidation k) s = .next { s with coh := { s.coh with tlb := s.coh.tlb.set k { x with dropped := true } } }) ∧
      (∀ k x n, s.coh.tlb[k]? = some x → x.stale = some n → tlbInUse s x = false →
        x.dropped = true ∨ (∀ y ∈ s.coh.tlb, y.unit = x.unit → y.dropped = false → ∀ m, y.stale = some m → n ≤ m) →
        ∃ t, exec (.translationInvalidation k) s = .next t ∧ t.coh.tlb = s.coh.tlb.eraseIdx k ∧ t.mem = s.mem ∧
          ∀ id o, tabFind s.ops id = some o → o.back = false →
            ∃ o', tabFind t.ops id = some o' ∧ o' = { o with wct := o'.wct } ∧
              ((∀ a ∈ o.lanes, lineOf a.pa ∉ x.lines) → o' = o) ∧
              (kindWrites o.kind = true → (∃ a ∈ o.lanes, lineOf a.pa ∈ x.lines) →
                rtNs s ≤ o'.wct.pkg ∧ rtNs s ≤ o'.wct.pod ∧ (3 ≤ o.scope → rtNs s ≤ o'.wct.own))) ∧
      (∀ k p, s.coh.partials[k]? = some p → p.handed = false → exec (.partialHandover k) s =
        .next { s with coh := { s.coh with partials := s.coh.partials.set k { p with handed := true } } }) ∧
      (∀ die line l, l2At s die line = some l → s.reg.tags = [] → s.coh.pins = [] → lineUnknown s line = false →
        wbAt s line = none →
        ∃ t, exec (.dirEviction die line) s = .next t ∧ t.mem = s.mem ∧
          t.coh.l2 = s.coh.l2.filter (fun x => !(x.die == die && x.line == line)) ∧
          t.coh.wbacks = if (l.st = .m ∨ l.st = .o) ∧ l.home = 0 ∧ l.ro = false then ⟨l, false⟩ :: s.coh.wbacks else s.coh.wbacks) ∧
      (∀ die line w, wbAt s line = some w → w.held.die = die → w.held.line = line → w.held.home = 0 → lineUnknown s line = false →
        heldAtHub s (128 * line) = false → isHbm (128 * line) = true →
          (∀ k ∈ linksBetween s die (homeDie (128 * line)), linkUp s k = true) →
        inFailedRange s (128 * line) = false → isHostWin (128 * line) = false → keyGenOf s w.held.key ≠ 0 →
        ∃ t, exec (.dirEviction die line) s = .next t ∧ wbAt t line = none ∧ t.coh.l2 = s.coh.l2 ∧
          t.mem = (memPutLine s line w.held.data (keyGenOf s w.held.key)).mem) ∧
      (∀ line r, (s.coh.remote.find? fun x => x.line == line && x.owned) = some r → lineHome line = 0 → lineHeld s line = false →
        pkgAlive s r.pkg = true → inFailedRange s (128 * line) = false → isHostWin (128 * line) = false → keyGenOf s r.key ≠ 0 →
        ∃ t, exec (.homeRecall line) s = .next t ∧ t.mem = (memPutLine s line (recalledData s) (keyGenOf s r.key)).mem ∧
          ∀ x ∈ t.coh.remote, x.line = line → x.owned = false) ∧
      (∀ line, lineHome line ≠ 0 → (l2Owner s line).isSome → pkgAlive s (lineHome line - 1) = true →
        exec (.homeRecall line) s = .next { s with coh := { s.coh with l2 := s.coh.l2.filter fun x => x.line != line } }) ∧
      (∀ die line o a, line < 2 ^ 41 → pendingAt s die line false = some (o, a) → l2At s die line = none →
        dirServes s o die line false = true → taggedDie s line = none → wayFree s die line = true →
        exec (.dirReadRequest die line) s = .next (fillLine (dropTag s die line) die line a.key o.ctx).1) ∧
      (∀ die line, 2 ^ 41 ≤ line → die < 8 → pkgAlive s (line / 2 ^ 41 - 1) = true → l2At s die line = none →
        l2Owner s line = none → taggedDie s line = none → wayFree s die line = true →
        ∃ t x e, exec (.dirReadRequest die line) s = .next t ∧ l2At t die line = some x ∧ x.home = line / 2 ^ 41 ∧ x.st = .s ∧
          x.lease = some e ∧ rtNs s + 24 ≤ e ∧ e ≤ rtNs s + 4056 ∧ (∀ l, l2Any s line = some l → x.data = l.data)) ∧
      (∀ die line o a x, pendingAt s die line true = some (o, a) → dirServes s o die line true = true → taggedDie s line = none →
        l2At s die line = some x →
        exec (.dirOwnershipRequest die line) s = .next (takeOwnership (recallExcl s line) die line a.key o.ctx).1) ∧
      (∀ die line l, 2 ^ 41 ≤ line → die < 8 → pkgAlive s (line / 2 ^ 41 - 1) = true → taggedDie s line = none →
        (setLines s die line).length + (setParked s die line).length < 16 → l2Any s line = some l →
        (∀ x ∈ s.coh.l2, x.line = line → x.lease = none) →
        exec (.remoteOwnership die line) s = .next { s with coh := { s.coh with
          l2 := ⟨die, line, line / 2 ^ 41, .m, l.data, 0, none, false, none, none⟩ :: s.coh.l2.filter fun x => x.line != line } }))

/-- R27, R28, R30, R32: a tile of a seating span takes the core that placement gives it: a new workgroup stands there with one
strand for every position that has an item, each with the span's PC and state and its items as mask, and with lane registers that
hold 0 where no strand of its context has given up rows of the partition (R394). -/
def Obligations.TileSeats : Prop :=
  ∀ (s : State) (id tile : Nat) (t : Thread) (tiles : List (Nat × Nat × Nat)) (at0 core moved : Nat),
    Waits s id t → t.wait = .seating tiles none → (tiles.find? fun x => x.1 == tile) = some (tile, at0, moved) →
    let l := launchOf s t.launch
    let ms := tileMasks l.lrec t.box tile
    let runs := spanQuiet s id = true ∧ (ctxOf s t.ctx).fcb.state = 0
    (runs → wgOfTile s t.launch tile = none → placeTile s t.launch tile ms.length (moved == 1) = some core →
      outranked s t.launch core = false → (∀ p ∈ s.threads, p.1 < s.nextId) →
      ∃ t', exec (.tileSeat id tile) s = .next t' ∧ tabFind t'.wgs s.nextId = some (newWg l t.launch tile core) ∧
        ∀ j m, (j, m) ∈ ms → ∃ n u st, tabFind t'.threads n = some u ∧ s.nextId < n ∧ u.seat = some st ∧ u.pc = t.pc ∧
          u.sregs = t.sregs ∧ st.wg = s.nextId ∧ st.core = core ∧ st.six = j ∧ st.am = m ∧ st.seated = m ∧
          ((ctxOf s t.ctx).rows.contains (core * 4 + st.part) = false → ∀ k L, k < 248 → L < 32 → readV t' st k L = 0)) ∧
    (∀ j m, (j, m) ∈ ms ↔ m ≠ 0 ∧ j < (l.lrec.wx * l.lrec.wy * l.lrec.wz + 31) / 32 ∧
      m = maskOf fun k => decide (32 * j + k < l.lrec.wx * l.lrec.wy * l.lrec.wz) &&
        inRange l.lrec (posItem l.lrec tile (32 * j + k)) && inBox t.box (posItem l.lrec tile (32 * j + k))) ∧
    (wgOfTile s t.launch tile = none → placeTile s t.launch tile ms.length false = none → moved = 0 →
      at0 + 10000 ≤ rtNs s → exec (.placementTimeout id tile) s = .next (putThr s id { t with
        wait := .seating (tiles.map fun x => if x.1 = tile then (x.1, x.2.1, 1) else x) none }))

/-- R337 to R339, R342: what the command processor does with the head of the queue whose turn it is. A launch record that passes
its checks starts a launch as one span at ENTRY; one that fails is rejected with the number of the check. KREV and KDROP of a
range in canonical addresses act on the lockets of its lines, and WAIT on a word that can be read ends; each of these takes the
head. Any other entry sets ERR, unless an error stands there, and clears EN. The page-table and key effects of the hub's reads and
writes are as `hubAcquire`, `acquireTables` and `hubWrite` say.

R17, R22, R337, R338, R340, R341: an entry that has completed stores SIGVAL at SIGADDR; a doorbell wakes its queue; a
launch starts as one span of its whole index space at ENTRY; and it completes, with its record written, once every item has
retired and all its work has been performed. -/
def Obligations.QueuesAndLaunches : Prop :=
  (∀ (s : State) (c q : Nat) (x : Ctx), tabFind s.ctxs c = some x → x.fcbOnly = false → q < 64 → backed s (qAddr s c q) = true →
      backed s (qSlot s c q (qHead s c q)) = true → qTurn s c q = true →
      let kind := headKind s c q
      let fails := .next (qError s c q (kind ||| 128))
      let bad := headBad s c q
      let base := headWord s c q 1
      let len := headWord s c q 2
      let canonical := len = 0 ∨ base + len ≤ 2 ^ 57
      let ranged (f : State → Locket → State × Nat) : State × Nat × Option Nat :=
        lockRange 1032 c f (if len = 0 then 0 else (base + len - base / 128 * 128 + 127) / 128) (base / 128 * 128) s 0
      let rsd : Word := BitVec.ofNat 64 (headWord s c q 3)
      let la := (ctxOf s c).latest
      let sound := (rsdKind rsd = 0 ∨ (la ≠ 0 ∧ 2 ≤ rsdKind rsd ∧ rsdKind rsd ≤ 4)) ∧ rsdFault (launchOf s la) rsd 0 = none
      let drop (s2 : State) (k : Locket) : State × Nat := (unpark s2 k.line, 0)
      (kind = 0 ∨ 4 < kind → exec (.launchEntry c q) s = fails) ∧
      (bad = true → (kind = 1 → exec (.launchEntry c q) s = fails) ∧ (kind = 2 → exec (.krevEntry c q) s = fails) ∧
        (kind = 3 → exec (.kdropEntry c q) s = fails) ∧ (kind = 4 → exec (.waitEntry c q) s = fails)) ∧
      (bad = false → kind = 1 → headChild s c q = none →
        (headRec s c q = none → exec (.launchEntry c q) s = fails) ∧
        (∀ b, headRec s c q = some b →
          let s1 := acquireTables (hubAcquire s c base 256) c (parseRec b)
          (launchFails s1 c b ≠ 0 → exec (.launchEntry c q) s =
            .next (writeCompl (takeEntry s1 c q 0 true (complWct s1 c (parseRec b).compl)) c 0 (parseRec b).compl 1 0
              (launchFails s1 c b) 0 0)) ∧
          (launchFails s1 c b = 0 → ∃ t n u l e,
            exec (.launchEntry c q) s = .next t ∧
            t = startLaunch (takeEntry (addLaunch s1 (newLaunch s1 c b none)) c q s1.nextId false (rtNs s)) c s1.nextId ∧
            tabFind t.threads n = some u ∧ u.ctx = c ∧ u.launch = s1.nextId ∧ u.pc = (parseRec b).ent ∧
            u.box = wholeBox (parseRec b) ∧ u.seat = none ∧ u.wait = .none ∧
            tabFind t.launches s1.nextId = some l ∧ l.lrec = parseRec b ∧ l.ctx = c ∧ l.finished = false ∧
            tabFind t.entries (s1.nextId + 1) = some e ∧ e.ctx = c ∧ e.queue = q ∧ e.launch = s1.nextId ∧ e.ready = false))) ∧
      (bad = false → kind = 1 → ∀ la, headChild s c q = some la →
        exec (.launchEntry c q) s = .next (startLaunch (takeEntry s c q la false (rtNs s)) c la)) ∧
      (bad = false → kind = 2 → (¬ sound → exec (.krevEntry c q) s = fails) ∧
        (sound → canonical → exec (.krevEntry c q) s = .next (takeEntry (ranged (revise la 0 rsd)).1 c q 0 true (rtNs s))) ∧
        (sound → canonical → len ≠ 0 → base / 128 = (base + len - 1) / 128 →
          ∀ y, translate s 1032 c (base / 128 * 128) = .ok y → ∃ t, exec (.krevEntry c q) s = .next t ∧
            ∀ k, locketAt t (y.pa / 128) = some k → resolveRsd (launchOf s la) rsd 0 = some k.rset) ∧
        (sound → ¬ canonical → exec (.krevEntry c q) s = .next (qError (ranged (revise la 0 rsd)).1 c q 0x82))) ∧
      (bad = false → kind = 3 →
        (canonical → exec (.kdropEntry c q) s = .next (takeEntry (ranged drop).1 c q 0 true (rtNs s))) ∧
        (canonical → len ≠ 0 → base / 128 = (base + len - 1) / 128 →
          ∀ y, translate s 1032 c (base / 128 * 128) = .ok y → ∃ t, exec (.kdropEntry c q) s = .next t ∧
            locketAt t (y.pa / 128) = none) ∧
        (¬ canonical → exec (.kdropEntry c q) s = .next (qError (ranged drop).1 c q 0x83))) ∧
      (bad = false → kind = 4 →
        (∀ v, waitWord s c q = some v → exec (.waitEntry c q) s =
          .next (takeEntry (hubAcquire s c base 8) c q 0 true (rtNs s))) ∧
        (waitWord s c q = none → exec (.waitEntry c q) s = fails))) ∧
  (∀ (s : State) (c q launch code wct : Nat) (ready : Bool),
      (∃ e, tabFind (takeEntry s c q launch ready wct).entries s.nextId = some e ∧ e.ctx = c ∧ e.queue = q ∧ e.launch = launch ∧
        e.ready = ready ∧ e.wct = wct ∧ e.kind = headKind s c q ∧ e.sigAddr.toNat = headWord s c q 6 % 2 ^ 64 ∧
        e.sigVal.toNat = headWord s c q 7 % 2 ^ 64) ∧
      (takeEntry s c q launch ready wct).threads = s.threads ∧ (takeEntry s c q launch ready wct).launches = s.launches ∧
      (s.coh.lockets = [] → s.coh.l2 = [] → s.coh.wbacks = [] → s.coh.partials = [] → s.coh.remote = [] → s.mem.poison = [] →
        code < 256 →
        qHead (takeEntry s c q launch ready wct) c q = (qHead s c q + 1) % 2 ^ 64 ∧ qEn (qError s c q code) c q = false ∧
        bitsAt (qWord (qError s c q code) c q 1) 24 8 =
          (if bitsAt (qWord s c q 1) 24 8 = 0 then code else bitsAt (qWord s c q 1) 24 8) ∧
        qHead (qError s c q code) c q = qHead s c q)) ∧
  (∀ (s : State),
      (∀ n e, tabFind s.entries n = some e → e.ready = true → e.wct ≤ rtNs s → physWaits s (qAddr s e.ctx e.queue) 32 true = false →
        (e.sigAddr ≠ 0 → rangeWaits s e.ctx e.sigAddr.toNat 8 true = false) →
        let s1 : State := { s with entries := tabDel s.entries n }
        let writable := e.sigAddr.toNat % 8 = 0 ∧ rangeOk s e.ctx e.sigAddr.toNat 8 true = true
        (e.sigAddr = 0 → exec (.queueEntryComplete n) s = .next s1) ∧
        (e.sigAddr ≠ 0 → writable →
          exec (.queueEntryComplete n) s = .next (hubWriteVa s1 e.ctx e.sigAddr.toNat (leBytes 8 e.sigVal.toNat))) ∧
        (e.sigAddr ≠ 0 → ¬ writable → exec (.queueEntryComplete n) s = .next (qError s1 e.ctx e.queue (e.kind ||| 0xC0)))) ∧
      (∀ c x (v : BitVec 64), tabFind s.ctxs c = some x → x.fcbOnly = false →
        (64 ≤ v.toNat → exec (.doorbell c v) s = .next s) ∧
        (v.toNat < 64 → ∃ t, exec (.doorbell c v) s = .next t ∧ v.toNat ∈ (ctxOf t c).woken ∧
          (∀ k ∈ (ctxOf s c).woken, k ∈ (ctxOf t c).woken) ∧ t = { s with ctxs := t.ctxs })) ∧
      (∀ c la l, tabFind s.launches la = some l →
        ∃ n u, tabFind (startLaunch s c la).threads n = some u ∧ u.ctx = c ∧ u.launch = la ∧ u.pc = l.lrec.ent ∧
          u.box = wholeBox l.lrec ∧ u.seat = none ∧ u.sregs = [] ∧ u.toks = [] ∧ u.wct = 0 ∧ u.wait = .none) ∧
      (∀ la l, tabFind s.launches la = some l → l.finished = false → l.slot = none → l.status = 0 → launchQuiet s la l = true →
        liveItems s la = 0 → (∀ t ∈ s.threads, t.2.launch ≠ la) → (l.lrec.compl ≠ 0 →
          rangeWaits s l.ctx l.lrec.compl.toNat 32 true = false) →
        let s1 := writeCompl s l.ctx la l.lrec.compl 0 l.firstFault 0 (l.retired.map boxVolume).sum l.records
        ∃ s', exec (.launchComplete la) s = .next s' ∧
          s' = { s1 with launches := s'.launches, entries := s'.entries } ∧
          (∀ e ∈ s'.entries, e.2.launch = la → e.2.ready = true ∧ e.2.wct = complWct s l.ctx l.lrec.compl) ∧
          (∀ x ∈ hubLines s l.ctx l.lrec.compl.toNat 32, l.lrec.compl ≠ 0 →
            wctOf s 4 x.1 (sliceOf s x.1) (sliceOf s x.1) none ≤ complWct s l.ctx l.lrec.compl) ∧
          (∀ l', tabFind s1.launches la = some l' → tabFind s'.launches la = some { l' with finished := true, reserved := false })))

/-- R353, R357, R181: a stop of a strand outside a region, or in one whose final position has been broadcast (R135), is kept
behind those not yet resolved, and its record is queued: word 0 names the cause, the sub-cause, the strand's place and its
context, word 1 the address, words 2 and 3 the scalar and lane PCs, word 4 the mask, word 5 the time. In a live region the
region's abort begins instead; while the region is being aborted only the strand's blocks end (assumption 60). -/
def Obligations.StopsAreRecorded : Prop :=
  ∀ (s : State) (id : Nat) (t : Thread) (st : Seat) (p : Stop), tabFind s.threads id = some t → t.seat = some st →
    (st.region = 0 ∨ committing s st.region = true → ∃ s' w, takeStop s id p = s' ∧
      tabFind s'.threads id = some (if t.stop = none then { t with stop := some p } else { t with more := t.more ++ [p] }) ∧
      (∀ x, tabFind s.ctxs t.ctx = some x → tabFind s'.ctxs t.ctx = some { x with
        recs := x.recs ++ [⟨[w, p.va, p.pc, (p.lpc.map fun l => BitVec.ofNat 64 l).getD (BitVec.allOnes 64), p.mask.setWidth 64,
          BitVec.ofNat 64 p.rt, p.w6, p.w7], some id, none⟩] }) ∧
      w.toNat % 256 = p.cause % 256 ∧ w.toNat / 2 ^ 8 % 256 = p.sub % 256 ∧ w.getLsbD 16 = p.replay ∧
      w.getLsbD 17 = p.write ∧ w.getLsbD 18 = p.host ∧ w.getLsbD 19 = p.region ∧
      w.getLsbD 20 = (p.kind == .trap && p.cause == 0x31) ∧
      w.toNat / 2 ^ 24 % 256 = virtDie (launchOf s t.launch) (st.core % 1024 / 128) % 256 ∧
      w.toNat / 2 ^ 32 % 256 = virtQuad (launchOf s t.launch) (st.core % 1024 / 4) % 256 ∧
      w.toNat / 2 ^ 40 % 4 = virtCore (launchOf s t.launch) (st.core % 1024) % 4 ∧
      w.toNat / 2 ^ 42 % 64 = st.slot % 64 ∧ w.toNat / 2 ^ 48 = t.ctxid.toNat % 65536 ∧
      s'.mem = s.mem ∧ s'.ops = s.ops ∧ (∀ j, j ≠ id → tabFind s'.threads j = tabFind s.threads j)) ∧
    (st.region ≠ 0 → committing s st.region = false → aborting s st.region = false →
      takeStop s id p = startAbort s st.region causeFault p.cause 0 (some { p with region := true })) ∧
    (st.region ≠ 0 → aborting s st.region = true →
      takeStop s id p = putThr s id { t with seat := some { st with blocks := [] } })

/-- R356, R357: the oldest record of a context enters its ring at FQTAIL unless the ring is full, the driver is signalled, and an
engine operation that failed then leaves its queue; FQHEAD frees places, for an id that no context has too; and RESUME replays,
continues or ends at the oldest stop of the strand it names, or else only sets ERR. -/
def Obligations.RecordsAndResume : Prop :=
  (∀ (s : State) (c : Nat) (v : BitVec 64), tabFind s.ctxs c = none → c < 65536 →
    ∃ t, exec (.fqhead c v) s = .next t ∧ (ctxOf t c).fcb.fqHead = v) ∧
  ∀ (s : State) (c : Nat) (x : Ctx), tabFind s.ctxs c = some x →
    (∀ r rest, x.recs = r :: rest → (x.fcb.fqTail - x.fcb.fqHead).toNat ≠ 2 ^ x.fcb.fqLog2 →
      let pa := x.fcb.fqBase.toNat + 64 * (x.fcb.fqTail.toNat % 2 ^ x.fcb.fqLog2)
      let s1 := signalMsix (modCtx (hubWriteWords s pa r.words) c fun y =>
        { y with recs := rest, fcb := { y.fcb with fqTail := y.fcb.fqTail + 1 } }) c
      backed s pa = true → physWaits s pa 64 true = false → (r.eng = none → exec (.faultRecordWrite c) s = .next s1) ∧
        (∀ e o, r.eng = some e → tabFind s.engq e = some o → o.failing = true →
          exec (.faultRecordWrite c) s = .next (leaveQueue s1 e o))) ∧
    (∀ v, exec (.fqhead c v) s = .next (modCtx s c fun y => { y with fcb := { y.fcb with fqHead := v } })) ∧
    (∀ v : BitVec 64, v.toNat / 4 % 2 ^ 22 = 0 → v.toNat / 2 ^ 48 = 0 →
      let who := namedStrand s c (v.toNat / 2 ^ 24)
      let action := v.toNat % 4
      (∀ id t p, who = some (id, t, p) →
        (action = 0 → exec (.resumeReplay c v) s = .next (if p.replay then replayStrand s id p else setErr s c 0x02)) ∧
        (action = 1 → exec (.resumeContinue c v) s =
          .next (if p.kind = .trap then modThr s id fun u => { clearStop u with resumeAt := none } else setErr s c 0x04)) ∧
        (action = 2 → exec (.resumeEnd c v) s = .next (endContext s c p.cause))) ∧
      (who = none → (action = 0 → exec (.resumeReplay c v) s = .next (setErr s c 0x01)) ∧
        (action = 1 → exec (.resumeContinue c v) s = .next (setErr s c 0x01)) ∧
        (action = 2 → exec (.resumeEnd c v) s = .next (setErr s c 0x01)))) ∧
    (∀ v : BitVec 64, v.toNat % 4 = 3 ∨ v.toNat / 4 % 2 ^ 22 ≠ 0 ∨ v.toNat / 2 ^ 48 ≠ 0 →
      exec (.resumeReplay c v) s = .next (setErr s c 0x10)) ∧
    (∀ bits, let s' := setErr s c bits
      s'.hub.msix = s.hub.msix ++ [x.fcb.msix] ∧ s'.threads = s.threads ∧
        tabFind s'.ctxs c = some { x with fcb := { x.fcb with err := x.fcb.err ||| bits } }) ∧
    (∀ id u p, tabFind s.threads id = some u → u.stop = some p →
      ∃ u', tabFind (replayStrand s id p).threads id = some u' ∧ u' = { u with stop := u.more.head?, more := u.more.tail })

/-- R341, R357: a context that ends loses its threads, its open launches take status 2 and the cause, unless an earlier one
stands, and its STATE is 5.

R48, R354, R360: a context whose count has reached HANGTHR sends a HANG record with the number of graph entries written
and found, after writing those that fit; its count starts again, and in hardware mode it ends. -/
def Obligations.ContextsEnd : Prop :=
  (∀ (s : State) (c cause : Nat) (x : Ctx), tabFind s.ctxs c = some x → s.reg.regions = [] →
      let s' := endContext s c cause
      (∀ p ∈ s'.threads, p.2.ctx ≠ c) ∧ (ctxOf s' c).fcb.state = 5 ∧ (ctxOf s' c).frozen = false ∧
      (∀ e ∈ s'.engq, e.2.ctx = c → e.2.halted = false ∧ e.2.core < 1024) ∧
      (∀ la l, tabFind s.launches la = some l → l.ctx = c → l.finished = false → ∃ l', tabFind s'.launches la = some l' ∧
        l'.status = 2 ∧ l'.firstFault = (if l.firstFault = 0 then cause else l.firstFault)) ∧
      (∀ la l, tabFind s.launches la = some l → l.ctx ≠ c → tabFind s'.launches la = some l) ∧
      (∀ k ∈ s'.coh.lockets, k.ctx ≠ c)) ∧
  (∀ (s : State) (c : Nat) (x : Ctx), tabFind s.ctxs c = some x → s.hub.hangThr ≠ 0 →
      s.hub.hangThr.toNat ≤ x.hang / Config.cycleTicks 3 → x.fcb.state = 0 →
      let es := graph s c
      let out := es.take x.fcb.hangLen
      (out = [] ∨ backed s x.fcb.hangBuf.toNat = true) → physWaits s x.fcb.hangBuf.toNat (16 * out.length) true = false →
      ∃ (w : Word) (s1 : State), w.toNat % 256 = 0x30 ∧ w.toNat / 2 ^ 48 = x.ctxid % 65536 ∧
        s1 = modCtx (queueRec (if out = [] then s else hubWriteWords s x.fcb.hangBuf.toNat out.flatten) c x.latest
          ⟨[w, 0, 0, 0, 0, BitVec.ofNat 64 (rtNs s), BitVec.ofNat 64 out.length, BitVec.ofNat 64 es.length], none, none⟩) c
          (fun y => { y with hang := 0 }) ∧
        (s.hub.fmode.getLsbD 2 = true → exec (.hangDetected c) s = .next s1) ∧
        (s.hub.fmode.getLsbD 2 = false → (∀ l ∈ s.launches, l.2.lrec.hostFor = 0) →
          exec (.hangDetected c) s = .next (endContext s1 c 0x30)))

/-- R361: the ladder of pre-emption. A higher priority's need of a core, or PREQ 1, starts a drain; a drain without workgroups
left is saved at once; DRAINDL or PREQ 2 freezes; RESETDL or PREQ 3 resets; and no write moves a context back. -/
def Obligations.PreemptionLadder : Prop :=
  ∀ (s : State) (c : Nat) (x : Ctx), tabFind s.ctxs c = some x →
    let drain := setCtxState (modCtx s c fun y => { y with preAt := some (rtNs s) }) c 1
    let since (us : Nat) : Prop := ∃ at0, x.preAt = some at0 ∧ at0 + us * 1000 ≤ rtNs s
    (x.fcb.state = 0 → exec (.preqDrain c) s = .next drain) ∧
    (x.fcb.state = 0 → ∀ k ∈ ctxCores s c, wanted s k (ctxPrio s c) = true → exec (.preemptStart c) s = .next drain) ∧
    (x.fcb.state ≠ 0 → exec (.preqDrain c) s = .next s) ∧
    (x.fcb.state = 1 → (∀ w ∈ s.wgs, (launchOf s w.2.launch).ctx ≠ c) →
      exec (.drainComplete c) s = .next (setCtxState (modCtx s c fun y => { y with frozen := true }) c 3)) ∧
    (x.fcb.state ≤ 1 → exec (.preqFreeze c) s = .next (freezeCtx s c)) ∧
    (1 < x.fcb.state → exec (.preqFreeze c) s = .next s) ∧
    (x.fcb.state ≤ 3 → exec (.preqReset c) s = .next (forceReset s c)) ∧
    (3 < x.fcb.state → exec (.preqReset c) s = .next s) ∧
    (x.fcb.state = 1 → since s.hub.drainDl.toNat → s.hub.drainDl < s.hub.resetDl →
      (s.hub.fmode.getLsbD 5 = false → exec (.drainDeadline c) s = .next (freezeCtx s c)) ∧
      (s.hub.fmode.getLsbD 5 = true → x.told = 0 →
        exec (.drainDeadline c) s = .next (signalMsix (modCtx s c fun y => { y with told := 1 }) c))) ∧
    (x.fcb.state = 1 ∨ x.fcb.state = 2 → since s.hub.resetDl.toNat →
      (s.hub.fmode.getLsbD 5 = false → exec (.resetDeadline c) s = .next (forceReset s c)) ∧
      (s.hub.fmode.getLsbD 5 = true → x.told ≤ 1 →
        exec (.resetDeadline c) s = .next (signalMsix (modCtx s c fun y => { y with told := 2 }) c))) ∧
    (s.reg.regions = [] → (ctxOf (freezeCtx s c) c).frozen = true ∧ (ctxOf (freezeCtx s c) c).fcb.state = 2 ∧
      (freezeCtx s c).threads = s.threads) ∧
    (s.reg.regions = [] → (∀ p ∈ (forceReset s c).threads, p.2.ctx ≠ c) ∧ (∀ e ∈ (forceReset s c).engq, e.2.ctx ≠ c) ∧
      (ctxOf (forceReset s c) c).fcb.state ∈ [4, 5])

/-- R363 to R365: a unit of a frozen context that another needs is written to the save area when there is room, and its place is
free; without room ERR bit 3 is set and it stays; a context of which nothing is saved runs again when no queue of higher priority
needs its cores; and a strand's image gives back its PC, masks, flags and counts (where they stand in the image is the model's
choice, assumption 51). -/
def Obligations.SavesAndResumes : Prop :=
  (∀ (s : State) (c : Nat) (x : Ctx), tabFind s.ctxs c = some x →
    (∀ base len, exec (.saveArea c base len) s = .next (modCtx s c fun y =>
      { y with saveShort := false, fcb := { y.fcb with saveBase := base, saveLen := len } })) ∧
    (∀ (core k : Nat) (s0 : State), k < 6 → x.fcb.state = 2 ∨ x.fcb.state = 3 → x.saveShort = false → core < 1024 →
      claimed s c core k = true → unitQuiet s c core k = true →
      (if k = 5 then runOutAll s c core = some s0 else s0 = s) →
      let image := ctxImages (vacateUnit s0 c core k) c
      physWaits s x.fcb.saveBase.toNat image.length true = false →
      (x.fcb.saveLen.toNat < image.length → exec (.scanOut c (6 * core + k)) s =
        .next (setErr (modCtx s c fun y => { y with saveShort := true }) c 0x08)) ∧
      (image.length ≤ x.fcb.saveLen.toNat → backed s x.fcb.saveBase.toNat = true →
        ∃ s' y, exec (.scanOut c (6 * core + k)) s = .next s' ∧ unitHeld s' c core k = false ∧
          tabFind s'.ctxs c = some y ∧ y.saveUsed = image.length ∧ 6 * core + k ∈ y.claims ∧
          (x.fcb.state = 2 → ctxCores s' c = [] → y.fcb.state = 3) ∧
          (k ≠ 5 → s.coh.lockets = [] → s.coh.l2 = [] → s.coh.wbacks = [] → s.coh.partials = [] → s.coh.remote = [] →
            s.mem.poison = [] →
            ∀ i b, image[i]? = some b → memByte s' (x.fcb.saveBase.toNat + i) = b))) ∧
    (x.fcb.state = 2 ∨ x.fcb.state = 3 →
      (∀ w ∈ s.wgs, (launchOf s w.2.launch).ctx = c → w.2.core < 1024 ∧ w.2.sramOut = false ∧ w.2.engOut = false) →
      (∀ p ∈ s.threads, ∀ st, p.2.seat = some st → st.core < 1024) → physWaits s x.fcb.saveBase.toNat x.saveUsed false = false →
      (∀ k ∈ ctxCores s c, wanted s k (ctxPrio s c) = false) →
      ∃ s' y, exec (.contextResume c) s = .next s' ∧ tabFind s'.ctxs c = some y ∧ y.frozen = false ∧ y.fcb.state = 0 ∧
        y.preAt = none ∧ s'.threads = s.threads ∧ s'.wgs = s.wgs ∧ ∀ e ∈ s'.engq, e.2.ctx = c → e.2.halted = false)) ∧
  (∀ (s : State) (t : Thread) (st : Seat), t.seat = some st →
      let u := readStrand (strandImage s t st) t st
      u.pc = t.pc ∧ u.wct = t.wct ∧ u.aflags = t.aflags ∧ u.aenable = t.aenable ∧ u.pkdem = t.pkdem ∧ u.batch = t.batch ∧
        ∃ st', u.seat = some st' ∧ st'.am = st.am ∧ st'.seated = st.seated)

/-- R50, R52, R395, R396: the counters of a die run with its clock and hold, or run nominally, while it relocks; DIEPS stops the
clock at a boundary of the die's own cycles no later than 200 ns on, and 3.0 µs later the die restarts at the new speed, whenever
that is noted, or relocks again if its target has changed meanwhile. A write that equals CUR has no effect unless the die
relocks, one while it relocks is held, and one that comes before an earlier one has stopped the clock takes its place or is held. -/
def Obligations.PStateChanges : Prop :=
  ∀ (s : State) (die : Nat), die < 8 →
    let r := dieRaw s die
    let d := dieOf s die
    (∀ v, v = d.cur → d.resetting = false → (∀ at0 cc scc, d.stopped = some (at0, cc, scc) → s.time < at0) →
      exec (.diepsTarget die v) s = .next (modDie s die fun x => x)) ∧
    (∀ v, d.resetting = true ∨ (∃ at0 cc scc, d.stopped = some (at0, cc, scc) ∧ at0 ≤ s.time) →
      exec (.diepsTarget die v) s = .next (modDie s die fun x => { x with target := v })) ∧
    (∀ v at0 cc scc, v ≠ d.cur → d.resetting = false → d.stopped = some (at0, cc, scc) → s.time < at0 →
      ∃ n, exec (.diepsTarget die v) s = .next (modDie s die fun x => { x with target := v, next := n }) ∧ (n = v ∨ n = d.next)) ∧
    (∀ v, v ≠ d.cur → d.resetting = false → d.stopped = none → d.stepAt ≤ s.time → ∃ at0,
      exec (.diepsTarget die v) s = .next (modDie s die fun x => { x with
        target := v, next := v, stopped := some (at0, dieCc d at0, dieScc d at0) }) ∧
      s.time ≤ at0 ∧ at0 ≤ s.time + 200 * Config.ticksPerNs ∧ (at0 - d.stepAt) % Config.cycleTicks d.cur = 0) ∧
    (∀ at0 cc scc, r.stopped = some (at0, cc, scc) → at0 + 3000 * Config.ticksPerNs ≤ s.time → r.target = r.next →
      let up : Die := { r with
        cur := r.next, ccStep := cc, sccStep := scc + 3000 * 19 / 10, stepAt := at0 + 3000 * Config.ticksPerNs
        stopped := none, relocks := r.relocks + 1 }
      d = up ∧ exec (.relockEnd die) s = .next { s with dies := tabSet Die.atReset s.dies die up }) ∧
    (∀ at0 cc scc, r.stopped = some (at0, cc, scc) → at0 + 3000 * Config.ticksPerNs ≤ s.time → r.target ≠ r.next →
      ∃ t, exec (.relockEnd die) s = .next t ∧ (dieRaw t die).cur = r.next ∧ (dieRaw t die).next = r.target ∧
        (dieRaw t die).stopped = some (at0 + 3000 * Config.ticksPerNs, cc, scc + 3000 * 19 / 10)) ∧
    (∀ at0 cc scc, d.stopped = some (at0, cc, scc) → at0 ≤ s.time → s.time < at0 + 3000 * Config.ticksPerNs →
      dieCc d s.time = cc ∧ dieScc d s.time = scc + (s.time - at0) * 19 / (Config.ticksPerNs * 10)) ∧
    (d.stopped = none → d.resetting = true → dieCc d s.time = d.ccStep) ∧
    (d.stopped = none → d.resetting = false → d.stepAt ≤ s.time →
      dieCc d s.time = d.ccStep + (s.time - d.stepAt) / Config.cycleTicks d.cur ∧
      dieScc d s.time = d.sccStep + (s.time - d.stepAt) / Config.cycleTicks d.cur * 1900 /
        (if d.cur = 0 then 1200 else if d.cur = 1 then 1500 else if d.cur = 2 then 1800 else 1900))

/-- R372 to R375, R378, R397: links, recovery of lines in U, and failed dies and packages. -/
def Obligations.LinksAndRecovery : Prop :=
  ∀ (s : State),
    (∀ l, l < 48 → (linkOf s l).down = false → (linkOf s l).rev ≠ 0 →
      ((linkOf s l).fails < 9 → ∃ t k, exec (.flitCrcFail l) s = .next t ∧
        t = modLink s l (fun x => { x with fails := k, replays := (linkOf t l).replays }) ∧
        (k = 1 ∨ k = (linkOf s l).fails + 1) ∧ (k < 9 → (linkOf t l).replays = (linkOf s l).replays + 1)) ∧
      (8 ≤ l ∨ dieStopped (dieOf s l) s.time = false →
        exec (.replayTimerExpiry l) s = .next (modLink s l fun x => { x with replays := x.replays + 1 })) ∧
      (9 ≤ (linkOf s l).fails → s.ops = [] → s.engq = [] →
        ∃ t us, exec (.linkDown l) s = .next t ∧ (linkOf t l).down = true ∧ (linkOf t l).downs = (linkOf s l).downs + 1 ∧
          t.coh = { s.coh with ulines := s.coh.ulines ++ us } ∧ t.mem = s.mem ∧
          ∀ u ∈ us, u.line < 2 ^ 41 ∧ ((∃ x ∈ s.coh.l2, x.line = u.line) ∨ (∃ x ∈ s.coh.wbacks, x.held.line = u.line) ∨
            (∃ k ∈ s.coh.lockets, k.line = u.line) ∨ 24 ≤ l ∧ ∃ r ∈ s.coh.remote, r.line = u.line))) ∧
    (∀ l, (linkOf s l).down = true ∨ (linkOf s l).rev = 0 → ∀ t, exec (.flitCrcFail l) s ≠ .next t ∧
      exec (.linkDown l) s ≠ .next t) ∧
    (∀ l, l < 24 → (linkOf s l).down = true → (linkOf s l).rev ≠ 0 → s.coh.ulines = [] →
      exec (.linkRetrain l) s = .next (modLink s l fun x => { x with down := false, fails := 0 })) ∧
    (exec (.recoverGo 0) s = .next s) ∧
    (∃ t, exec (.recoverGo 1) s = .next t ∧ (∀ u ∈ t.coh.ulines, u.probing = true) ∧
      t.coh.ulines.map (·.line) = s.coh.ulines.map (·.line) ∧ t = { s with coh := { s.coh with ulines := t.coh.ulines } }) ∧
    (∀ line u, u ∈ s.coh.ulines → u.line = line → u.probing = true → (∀ d, d < 8 → dieAnswers s d = true) →
      exec (.dirRebuild line) s = .next { s with coh := { s.coh with ulines := s.coh.ulines.filter fun x => x.line != line } }) ∧
    (∀ die u, die < 8 → dieAnswers s die = false → u ∈ s.coh.ulines → u.probing = true → u.since + 100000 ≤ rtNs s →
      ∃ t, exec (.dieProbeTimeout die) s = .next t ∧ (dieOf t die).failed = true ∧
        (∀ l ∈ s.coh.l2, l.die = die → l.st ≠ .s → l.line ∈ t.mem.poison) ∧ (∀ l ∈ t.coh.l2, l.die ≠ die) ∧
        (∀ w ∈ s.coh.wbacks, w.held.die = die → w.held.line ∈ t.mem.poison) ∧ (∀ w ∈ t.coh.wbacks, w.held.die ≠ die) ∧
        (∀ l ∈ s.coh.l2, l.die ≠ die → l ∈ t.coh.l2) ∧ t.mem.bytes = s.mem.bytes) ∧
    (∀ m, m < 8 → (mdieOf s m).failed = false → exec (.memoryDieFailed m) s = .next (failMemory s m) ∧
      exec (.rasfail (BitVec.ofNat 64 m)) s = .next (failMemory s m)) ∧
    (∀ v : BitVec 64, 8 ≤ v.toNat → exec (.rasfail v) s = .next s) ∧
    (∀ pkg at0, tabFind s.hub.silent pkg = some at0 → at0 + 1000000 ≤ rtNs s → pkg ∉ s.hub.deadPkgs →
      ∃ t, exec (.remotePackageTimeout pkg) s = .next t ∧ pkg ∈ t.hub.deadPkgs) ∧
    (∀ v : BitVec 64, exec (.salvctl v) s = .next { s with hub := { s.hub with
      salvCap := v.extractLsb' 2 30, salvEn := v.getLsbD 0, salvOvf := s.hub.salvOvf && !v.getLsbD 1
      salvUsed := if v.getLsbD 0 then 0 else s.hub.salvUsed } }) ∧
    (∀ m, m < 8 → s.hub.salvEn = false → (mdieOf s m).failed = false →
      let t := failMemory s m
      let gone (line : Nat) : Prop := 128 * line < 0xC000000000 ∧ 128 * line / 0x1800000000 = m
      (mdieOf t m).failed = true ∧ (∀ k ∈ t.coh.lockets, ¬ gone k.line) ∧
      (∀ l ∈ t.coh.l2, l.home = 0 → gone l.line → l.ro = true) ∧ (∀ c ∈ t.coh.copies, ¬ gone c.line) ∧
      (∀ l ∈ s.coh.l2, l.home = 0 → gone l.line → l.st = .m ∨ l.st = .o → (∀ w ∈ s.coh.wbacks, w.held.line ≠ l.line) →
        { l with ro := true, excl := none } ∈ t.coh.l2) ∧
      (∀ l ∈ s.coh.l2, ¬ gone l.line → l ∈ t.coh.l2))

/-- R111, R131, R354, R370, R375, R387: accesses from outside the package, which the hub holds while it holds the requests for their
lines, and accesses that it has held too long. That a store of the host repairs its whole line, once poisoned, is the model's choice
(assumption 47). -/
def Obligations.OutsideAccesses : Prop :=
  ∀ (s : State),
    (∀ addr n (v : BitVec 64), outsideServed s addr n false = true → linePartials s (addr / 128) = [] →
      (∀ h ∈ s.hub.held, h.line ≠ addr / 128 ∧ h.who ≠ .host false addr n v) →
      ∃ t, exec (.hostAccess 0 addr n v) s = .next t ∧ t.mem = s.mem ∧ t.coh = s.coh ∧ t.threads = s.threads) ∧
    (∀ addr n (v : BitVec 64), outsideServed s addr n true = true → linePartials s (addr / 128) = [] →
      locketAt s (addr / 128) = none → l2Any s (addr / 128) = none → wbAt s (addr / 128) = none → inFailedRange s addr = false →
      (∀ h ∈ s.hub.held, h.line ≠ addr / 128 ∧ h.who ≠ .host true addr n v) →
      ∃ t, exec (.hostAccess 1 addr n v) s = .next t ∧ t.threads = s.threads ∧ addr / 128 ∉ t.mem.poison ∧
        (∀ k, k < n → memByte t (addr + k) = BitVec.ofNat 8 (v.toNat / 2 ^ (8 * k))) ∧
        ∀ a, a < addr ∨ addr + n ≤ a → memByte t a = memByte s a) ∧
    (∀ (wr : BitVec 1) addr n (v : BitVec 64), outsideOk s addr n = true → lineHeld s (addr / 128) = true →
      (∀ h ∈ s.hub.held, h.who ≠ .host (wr == 1) addr n v) →
      exec (.hostAccess wr addr n v) s = .next { s with hub := { s.hub with
        held := s.hub.held ++ [⟨.host (wr == 1) addr n v, addr / 128, heldAtHub s addr, rtNs s, false⟩] } }) ∧
    (∀ pkg line, pkgAlive s pkg = true → line < 2 ^ 41 → outsideServed s (128 * line) 8 false = true →
      linePartials s line = [] → locketAt s line = none → ∃ t e, exec (.remotePackageRequest pkg line 0) s = .next t ∧
        ⟨pkg, line, lineKey s line, false, rtNs s + e⟩ ∈ t.coh.remote ∧ 64 ≤ e ∧ e ≤ 4096 ∧ t.coh.l2 = s.coh.l2 ∧ t.mem = s.mem) ∧
    (∀ pkg line d, pkgAlive s pkg = true → line < 2 ^ 41 → outsideServed s (128 * line) 8 true = true →
      linePartials s line = [] → s.reg.tags = [] → LineIs s line (lineKey s line) d →
      ∃ t, exec (.remotePackageRequest pkg line 1) s = .next t ∧ ⟨pkg, line, lineKey s line, true, 0⟩ ∈ t.coh.remote ∧
        (∀ x ∈ t.coh.l2, x.line ≠ line) ∧ t.mem = s.mem) ∧
    (∀ k h, s.hub.held[k]? = some h → h.pair = true → heldAtHub s (128 * h.line) = true → h.since + 50000000 < rtNs s →
      h.late = false →
      (∀ c q n p, h.who = .engine c q n p → exec (.heldAccessTimeout k (2 ^ 48)) s =
        .next { s with hub := { s.hub with held := s.hub.held.set k { h with late := true } } }) ∧
      (∀ addr n v, h.who = .host false addr n v → exec (.heldAccessTimeout k (2 ^ 48)) s =
        .next { s with hub := { s.hub with held := s.hub.held.eraseIdx k } }) ∧
      (∀ addr n v, h.who = .host true addr n v → exec (.heldAccessTimeout k (2 ^ 48)) s = .next { s with
        hub := { s.hub with held := s.hub.held.eraseIdx k }, ras := { s.ras with lostSt := s.ras.lostSt + 1 } })) ∧
    (∀ op lane o a h, LaneInFlight s op lane o a → lane ≠ 2 ^ 48 → h ∈ s.hub.held → h.who = .lane o.thread o.seq lane →
      h.line = a.pa / 128 → h.pair = true → h.since + 50000000 < rtNs s → a.phase = .todo →
        heldAtHub s (128 * (a.pa / 128)) = true →
      exec (.heldAccessTimeout op lane) s = .next (lanePoison s op o a 0x03) ∧
      (o.path = .ld ∨ o.path = .atm → ∃ o', tabFind (lanePoison s op o a 0x03).ops op = some o' ∧
        ∀ x ∈ o'.lanes, x.lane = lane → x.phase = .failed 0x15 0x03 (a.pa / 128 * 128) 0))

/-- R380, R381, R383, R384: at power-on stage 1 begins; stages 1 to 3 go on only when the path trains and the images are
accepted, and otherwise stop the boot with the failure; stages 4 to 6 always go on. -/
def Obligations.BootStages : Prop :=
  ∀ (s : State),
    (s.boot.powered = false → exec .powerOn s = .next { s with boot := { s.boot with powered := true, stage := 1 } }) ∧
    (s.boot.powered = true → s.boot.waiting = none → 1 ≤ s.boot.stage → s.boot.stage ≤ 6 →
      let path := if s.boot.viaCxl then 49 else 48
      ∃ t, exec .bootStage s = .next t ∧
        (4 ≤ s.boot.stage → t.boot.stage = s.boot.stage + 1 ∧ t.boot.waiting = none) ∧
        (s.boot.stage = 1 → path ∉ s.boot.badLinks → imageFor s.boot 17 ≠ none →
          t = { s with boot := { s.boot with stage := 2 } }) ∧
        (s.boot.stage = 1 → path ∈ s.boot.badLinks ∨ imageFor s.boot 17 = none → t = { s with boot := bootStops s.boot 7 17 }) ∧
        (s.boot.stage = 2 → imageFor s.boot 17 = none → t = { s with boot := bootStops s.boot 7 17 }) ∧
        (∀ i, s.boot.stage = 2 → imageFor s.boot 17 = some i → imageFails s.boot 17 i = 0 →
          t.boot.stage = 3 ∧ t.boot.waiting = none ∧ i ∈ t.boot.accepted ∧
          t.boot.rollback = if i.commit ∧ s.boot.rollback.toNat < i.version.toNat ∧ i.version.toNat < 256 then
            BitVec.ofNat 8 i.version.toNat else if i.commit ∧ 256 ≤ i.version.toNat then 255 else s.boot.rollback) ∧
        (∀ i, s.boot.stage = 2 → imageFor s.boot 17 = some i → imageFails s.boot 17 i ≠ 0 →
          t = { s with boot := bootStops s.boot (imageFails s.boot 17 i) 17 }) ∧
        (s.boot.stage = 3 → (∀ u, u ≤ 16 → ∃ i, imageFor s.boot u = some i ∧ imageFails s.boot u i = 0) →
          t.boot.stage = 4 ∧ t.boot.waiting = none ∧ ∀ d, d < 8 → (dieOf t d).resetting = false ∧ dieCc (dieOf t d) t.time = 0)) ∧
    (∀ code unit, bootStops s.boot code unit = { s.boot with
      waiting := some unit
      failCode := if s.boot.failCode = 0 then code else s.boot.failCode
      failDie := if s.boot.failCode = 0 then unit else s.boot.failDie }) ∧
    (∀ (b : Boot) (u : Nat) (i : Image), imageFails b u i = 0 ↔
      (∃ f ∈ b.fuses, f.1 = i.keyHash ∧ f.2 = false) ∧ Config.signatureVerifies i.bytes i.sig i.keyHash = true ∧
      b.rollback.toNat ≤ i.version.toNat ∧ i.target = u) ∧
    (∀ k i, s.boot.offered[k]? = some i → s.boot.waiting = some i.unit →
      (imageFails s.boot i.unit i ≠ 0 → exec (.recoveryImage k) s = .next s) ∧
      (imageFails s.boot i.unit i = 0 → ∃ t, exec (.recoveryImage k) s = .next t ∧ t.boot.waiting = none ∧
        imageFor t.boot i.unit = some i ∧ t.boot.stage = s.boot.stage)) ∧
    (∀ m : BitVec 16 × BitVec 16, (commonRev m = 0 ↔ m.1 &&& m.2 = 0) ∧ (commonRev m ≠ 0 →
      m.1.getLsbD (commonRev m - 1) = true ∧ m.2.getLsbD (commonRev m - 1) = true ∧
        ∀ k, commonRev m ≤ k → (m.1 &&& m.2).getLsbD k = false)) ∧
    (s.hub.partBusy = true → s.boot.waiting = none →
      (∀ d, d < 8 → s.hub.partMask.getLsbD d = true →
        ∀ u ∈ [d, 8 + d], ∃ i, imageFor s.boot u = some i ∧ imageFails s.boot u i = 0) →
      ∃ t, exec .pairResetDone s = .next t ∧ t.hub.partBusy = false ∧ t.hub.partDone = s.hub.partDone ||| s.hub.partMask ∧
        ∀ d, d < 8 → s.hub.partMask.getLsbD d = true → (dieOf t d).resetting = false)

/-- R385, R386, R392, R393, R398, R11, R336, R354 to R356, R389: partition reset, keys, attestation, and register writes, with what
registers read: reserved and write-only fields read zero, and a write to a read-only register is ignored. The numbering of the
registers is the model's (assumption 21). -/
def Obligations.PackageRegisters : Prop :=
  ∀ (s : State),
    (∀ v : BitVec 64, s.hub.partBusy = true →
      exec (.partrst v) s = .next { s with hub := { s.hub with partErr := true } }) ∧
    (∀ v : BitVec 64, s.hub.partBusy = false → v.setWidth 8 = (0 : BitVec 8) →
      exec (.partrst v) s = .next { s with hub := { s.hub with partErr := s.hub.partErr && !v.getLsbD 17 } }) ∧
    (∀ v : BitVec 64, s.hub.partBusy = false → v.setWidth 8 ≠ (0 : BitVec 8) → ∃ t, exec (.partrst v) s = .next t ∧
      t.hub.partBusy = true ∧ t.hub.partMask = v.setWidth 8 ∧
      (∀ x ∈ t.coh.l2, v.getLsbD x.die = false ∨ 8 ≤ x.die) ∧ (∀ c ∈ t.coh.copies, v.getLsbD (placeDie c.place) = false ∨
        8 ≤ placeDie c.place) ∧ ∀ d, d < 8 → v.getLsbD d = true → (dieOf t d).resetting = true) ∧
    (∀ k, 1 ≤ k → k < 512 → (∃ t, exec (.keySlotLoad k) s = .next t ∧ keyGenOf t k = s.keyGen + 1 ∧
        t.keyGen = s.keyGen + 1 ∧ (∀ j, j ≠ k → keyGenOf t j = keyGenOf s j) ∧ t.mem = s.mem) ∧
      ∃ t, exec (.keySlotErase k) s = .next t ∧ keyGenOf t k = 0 ∧ (∀ j, j ≠ k → keyGenOf t j = keyGenOf s j) ∧
        t.mem = s.mem) ∧
    (∀ nonce, s.boot.powered = true → 3 ≤ s.boot.stage → exec (.attestationRequest nonce) s = .next { s with boot := { s.boot with
      evidence := evidenceBody s nonce ++ Config.sign (evidenceBody s nonce), evTable := ctxPartTable s } }) ∧
    (∀ nonce, (evidenceBody s nonce).length = 785 ∧ (evidenceBody s nonce)[680]? = some s.boot.rollback ∧
      (evidenceBody s nonce)[681]? = some (clinkNow s) ∧ (∀ d, d < 8 → (clinkNow s).getLsbD d = linkUp s d) ∧
        (evidenceBody s nonce)[682]? = some s.boot.mTrain ∧
      ∀ k, k < 32 → (evidenceBody s nonce)[k]? = some (nonce.extractLsb' (8 * k) 8)) ∧
    (∀ v : BitVec 256,
      exec (.registerWrite 0 v) s = .next { s with hub := { s.hub with fmode := v.setWidth 7 } } ∧
      exec (.registerWrite 1 v) s =
        .next { s with hub := { s.hub with drainDl := v.extractLsb' 0 32, resetDl := v.extractLsb' 32 32 } } ∧
      exec (.registerWrite 2 v) s = .next { s with hub := { s.hub with hangThr := v.setWidth 48 } } ∧
      exec (.registerWrite 3 v) s = .next { s with hub := { s.hub with salvBase := v.setWidth 64 } } ∧
      ∀ c, c < 65536 →
        (∃ t, exec (.registerWrite (2 * 65536 + c) v) s = .next t ∧ tabGet 0xFF t.hub.ctxPart c = v.setWidth 8 ∧
          ∀ j, j ≠ c → tabGet 0xFF t.hub.ctxPart j = tabGet 0xFF s.hub.ctxPart j) ∧
        (∃ t, exec (.registerWrite (1 * 65536 + c) v) s = .next t ∧ (ctxOf t c).root = v.extractLsb' 0 64) ∧
        (∀ x, tabFind s.ctxs c = some x → exec (.registerWrite (8 * 65536 + c) v) s = .next (modCtx s c fun y =>
          { y with fcb := { y.fcb with err := y.fcb.err &&& ~~~v.setWidth 8 } }))) ∧
    (∀ v : BitVec 256,
      exec (.registerWrite 4 v) s = exec (.salvctl (v.setWidth 64)) s ∧
      exec (.registerWrite 5 v) s = exec (.partrst (v.setWidth 64)) s ∧
      exec (.registerWrite 7 v) s = exec (.recoverGo (v.setWidth 1)) s ∧
      exec (.registerWrite 8 v) s = exec (.rasfail (v.setWidth 64)) s ∧
      (∀ reg ∈ [6, 13 * 65536, 14 * 65536], exec (.registerWrite reg v) s = .next s) ∧
      (∀ d, d < 8 → exec (.registerWrite (12 * 65536 + d) v) s = exec (.diepsTarget d (v.extractLsb' 10 2)) s) ∧
      (∀ t, exec (.registerWrite 0 v) s = .next t → readRegister t 0 = v.toNat % 2 ^ 7) ∧
      (∀ t, exec (.registerWrite 2 v) s = .next t → readRegister t 2 = v.toNat % 2 ^ 48) ∧
      readRegister s 5 % 2 ^ 8 = 0 ∧ readRegister s 7 % 2 ^ 32 = 0 ∧
      ∀ c, c < 65536 → readRegister s (11 * 65536 + c) = 0 ∧ readRegister s (18 * 65536 + c) = 0 ∧
        (∀ k ∈ [15, 16, 17], ∃ t, exec (.registerWrite (k * 65536 + c) v) s = .next t ∧
          readRegister t (k * 65536 + c) = v.toNat % 2 ^ 64) ∧
        (v.toNat % 4 = 0 → exec (.registerWrite (18 * 65536 + c) v) s = exec (.resumeReplay c (v.setWidth 64)) s) ∧
        (v.toNat % 4 = 1 → exec (.registerWrite (18 * 65536 + c) v) s = exec (.resumeContinue c (v.setWidth 64)) s) ∧
        (v.toNat % 4 = 2 → exec (.registerWrite (18 * 65536 + c) v) s = exec (.resumeEnd c (v.setWidth 64)) s))
end

