-- ==== Sys2Proof/Laws/Dispatch.lean ====
section
/-!
SUPPORT. What `exec`, the encoding defects and the lane shapes are of each constructor, so that no proof unfolds the whole
matches.
-/
namespace Sys2Proof.Machine
open Sys2Proof

@[simp] theorem exec_sadd (d : BitVec 6) (a : BitVec 6) (b : BitVec 6) (s : State) : exec (.sadd d a b) s = execSadd d a b s := rfl
@[simp] theorem exec_ssub (d : BitVec 6) (a : BitVec 6) (b : BitVec 6) (s : State) : exec (.ssub d a b) s = execSsub d a b s := rfl
@[simp] theorem exec_smul (d : BitVec 6) (a : BitVec 6) (b : BitVec 6) (s : State) : exec (.smul d a b) s = execSmul d a b s := rfl
@[simp] theorem exec_smulh (d : BitVec 6) (a : BitVec 6) (b : BitVec 6) (s : State) : exec (.smulh d a b) s = execSmulh d a b s := rfl
@[simp] theorem exec_smulhn (d : BitVec 6) (a : BitVec 6) (b : BitVec 6) (s : State) : exec (.smulhn d a b) s = execSmulhn d a b s := rfl
@[simp] theorem exec_sand (d : BitVec 6) (a : BitVec 6) (b : BitVec 6) (s : State) : exec (.sand d a b) s = execSand d a b s := rfl
@[simp] theorem exec_sor (d : BitVec 6) (a : BitVec 6) (b : BitVec 6) (s : State) : exec (.sor d a b) s = execSor d a b s := rfl
@[simp] theorem exec_sxor (d : BitVec 6) (a : BitVec 6) (b : BitVec 6) (s : State) : exec (.sxor d a b) s = execSxor d a b s := rfl
@[simp] theorem exec_sshl (d : BitVec 6) (a : BitVec 6) (b : BitVec 6) (s : State) : exec (.sshl d a b) s = execSshl d a b s := rfl
@[simp] theorem exec_sshr (d : BitVec 6) (a : BitVec 6) (b : BitVec 6) (s : State) : exec (.sshr d a b) s = execSshr d a b s := rfl
@[simp] theorem exec_ssra (d : BitVec 6) (a : BitVec 6) (b : BitVec 6) (s : State) : exec (.ssra d a b) s = execSsra d a b s := rfl
@[simp] theorem exec_smin (d : BitVec 6) (a : BitVec 6) (b : BitVec 6) (s : State) : exec (.smin d a b) s = execSmin d a b s := rfl
@[simp] theorem exec_smax (d : BitVec 6) (a : BitVec 6) (b : BitVec 6) (s : State) : exec (.smax d a b) s = execSmax d a b s := rfl
@[simp] theorem exec_sminn (d : BitVec 6) (a : BitVec 6) (b : BitVec 6) (s : State) : exec (.sminn d a b) s = execSminn d a b s := rfl
@[simp] theorem exec_smaxn (d : BitVec 6) (a : BitVec 6) (b : BitVec 6) (s : State) : exec (.smaxn d a b) s = execSmaxn d a b s := rfl
@[simp] theorem exec_sdiv (d : BitVec 6) (a : BitVec 6) (b : BitVec 6) (s : State) : exec (.sdiv d a b) s = execSdiv d a b s := rfl
@[simp] theorem exec_sdivn (d : BitVec 6) (a : BitVec 6) (b : BitVec 6) (s : State) : exec (.sdivn d a b) s = execSdivn d a b s := rfl
@[simp] theorem exec_srem (d : BitVec 6) (a : BitVec 6) (b : BitVec 6) (s : State) : exec (.srem d a b) s = execSrem d a b s := rfl
@[simp] theorem exec_sremn (d : BitVec 6) (a : BitVec 6) (b : BitVec 6) (s : State) : exec (.sremn d a b) s = execSremn d a b s := rfl
@[simp] theorem exec_sclz (d : BitVec 6) (a : BitVec 6) (s : State) : exec (.sclz d a) s = execSclz d a s := rfl
@[simp] theorem exec_spop (d : BitVec 6) (a : BitVec 6) (s : State) : exec (.spop d a) s = execSpop d a s := rfl
@[simp] theorem exec_saffx (d : BitVec 6) (a : BitVec 6) (b : BitVec 6) (s : State) : exec (.saffx d a b) s = execSaffx d a b s := rfl
@[simp] theorem exec_saffy (d : BitVec 6) (a : BitVec 6) (b : BitVec 6) (s : State) : exec (.saffy d a b) s = execSaffy d a b s := rfl
@[simp] theorem exec_saffz (d : BitVec 6) (a : BitVec 6) (b : BitVec 6) (s : State) : exec (.saffz d a b) s = execSaffz d a b s := rfl
@[simp] theorem exec_saddi (d : BitVec 6) (a : BitVec 6) (i : BitVec 14) (s : State) : exec (.saddi d a i) s = execSaddi d a i s := rfl
@[simp] theorem exec_sandi (d : BitVec 6) (a : BitVec 6) (i : BitVec 14) (s : State) : exec (.sandi d a i) s = execSandi d a i s := rfl
@[simp] theorem exec_sori (d : BitVec 6) (a : BitVec 6) (i : BitVec 14) (s : State) : exec (.sori d a i) s = execSori d a i s := rfl
@[simp] theorem exec_sxori (d : BitVec 6) (a : BitVec 6) (i : BitVec 14) (s : State) : exec (.sxori d a i) s = execSxori d a i s := rfl
@[simp] theorem exec_sshli (d : BitVec 6) (a : BitVec 6) (i : BitVec 6) (s : State) : exec (.sshli d a i) s = execSshli d a i s := rfl
@[simp] theorem exec_sshri (d : BitVec 6) (a : BitVec 6) (i : BitVec 6) (s : State) : exec (.sshri d a i) s = execSshri d a i s := rfl
@[simp] theorem exec_ssrai (d : BitVec 6) (a : BitVec 6) (i : BitVec 6) (s : State) : exec (.ssrai d a i) s = execSsrai d a i s := rfl
@[simp] theorem exec_smuli (d : BitVec 6) (a : BitVec 6) (i : BitVec 14) (s : State) : exec (.smuli d a i) s = execSmuli d a i s := rfl
@[simp] theorem exec_sli (d : BitVec 6) (w : BitVec 32) (s : State) : exec (.sli d w) s = execSli d w s := rfl
@[simp] theorem exec_sliHi (d : BitVec 6) (w : BitVec 32) (s : State) : exec (.sliHi d w) s = execSliHi d w s := rfl
@[simp] theorem exec_scmp (d : BitVec 3) (a : BitVec 6) (b : BitVec 6) (c : BitVec 4) (s : State) : exec (.scmp d a b c) s = execScmp d a b c s := rfl
@[simp] theorem exec_scmpi (c : BitVec 3) (d : BitVec 3) (a : BitVec 6) (i : BitVec 14) (s : State) : exec (.scmpi c d a i) s = execScmpi c d a i s := rfl
@[simp] theorem exec_ssel (d : BitVec 6) (a : BitVec 6) (b : BitVec 6) (n : BitVec 3) (s : State) : exec (.ssel d a b n) s = execSsel d a b n s := rfl
@[simp] theorem exec_copAnd (d : BitVec 3) (a : BitVec 3) (b : BitVec 3) (s : State) : exec (.copAnd d a b) s = execCopAnd d a b s := rfl
@[simp] theorem exec_copOr (d : BitVec 3) (a : BitVec 3) (b : BitVec 3) (s : State) : exec (.copOr d a b) s = execCopOr d a b s := rfl
@[simp] theorem exec_copXor (d : BitVec 3) (a : BitVec 3) (b : BitVec 3) (s : State) : exec (.copXor d a b) s = execCopXor d a b s := rfl
@[simp] theorem exec_copAndn (d : BitVec 3) (a : BitVec 3) (b : BitVec 3) (s : State) : exec (.copAndn d a b) s = execCopAndn d a b s := rfl
@[simp] theorem exec_copNot (d : BitVec 3) (a : BitVec 3) (s : State) : exec (.copNot d a) s = execCopNot d a s := rfl
@[simp] theorem exec_copSet (d : BitVec 3) (s : State) : exec (.copSet d) s = execCopSet d s := rfl
@[simp] theorem exec_copClr (d : BitVec 3) (s : State) : exec (.copClr d) s = execCopClr d s := rfl
@[simp] theorem exec_copMov (d : BitVec 3) (a : BitVec 3) (s : State) : exec (.copMov d a) s = execCopMov d a s := rfl
@[simp] theorem exec_sform (d : BitVec 6) (a : BitVec 6) (f : BitVec 8) (s : State) : exec (.sform d a f) s = execSform d a f s := rfl
@[simp] theorem exec_sld (d : BitVec 6) (a : BitVec 6) (z : BitVec 2) (g : BitVec 1) (p : BitVec 2) (o : BitVec 9) (s : State) : exec (.sld d a z g p o) s = execSld d a z g p o s := rfl
@[simp] theorem exec_sst (d : BitVec 6) (a : BitVec 6) (z : BitVec 2) (p : BitVec 2) (o : BitVec 9) (s : State) : exec (.sst d a z p o) s = execSst d a z p o s := rfl
@[simp] theorem exec_satom (d : BitVec 6) (a : BitVec 6) (b : BitVec 6) (w : BitVec 1) (x : BitVec 3) (o : BitVec 4) (s : State) : exec (.satom d a b w x o) s = execSatom d a b w x o s := rfl
@[simp] theorem exec_cmo (a : BitVec 6) (b : BitVec 6) (l : BitVec 3) (k : BitVec 2) (s : State) : exec (.cmo a b l k) s = execCmo a b l k s := rfl
@[simp] theorem exec_kset (n : BitVec 3) (a : BitVec 6) (s : State) : exec (.kset n a) s = execKset n a s := rfl
@[simp] theorem exec_kget (d : BitVec 6) (a : BitVec 6) (s : State) : exec (.kget d a) s = execKget d a s := rfl
@[simp] theorem exec_kgetSet (d : BitVec 6) (a : BitVec 6) (s : State) : exec (.kgetSet d a) s = execKgetSet d a s := rfl
@[simp] theorem exec_krev (n : BitVec 3) (a : BitVec 6) (b : BitVec 6) (s : State) : exec (.krev n a b) s = execKrev n a b s := rfl
@[simp] theorem exec_kdrop (a : BitVec 6) (b : BitVec 6) (s : State) : exec (.kdrop a b) s = execKdrop a b s := rfl
@[simp] theorem exec_barArv (d : BitVec 6) (a : BitVec 6) (b : BitVec 6) (s : State) : exec (.barArv d a b) s = execBarArv d a b s := rfl
@[simp] theorem exec_barWt (a : BitVec 6) (b : BitVec 6) (s : State) : exec (.barWt a b) s = execBarWt a b s := rfl
@[simp] theorem exec_barArw (a : BitVec 6) (b : BitVec 6) (s : State) : exec (.barArw a b) s = execBarArw a b s := rfl
@[simp] theorem exec_barInit (a : BitVec 6) (b : BitVec 6) (s : State) : exec (.barInit a b) s = execBarInit a b s := rfl
@[simp] theorem exec_hbarArv (d : BitVec 6) (l : BitVec 3) (s : State) : exec (.hbarArv d l) s = execHbarArv d l s := rfl
@[simp] theorem exec_hbarWt (a : BitVec 6) (l : BitVec 3) (s : State) : exec (.hbarWt a l) s = execHbarWt a l s := rfl
@[simp] theorem exec_hbarArw (l : BitVec 3) (s : State) : exec (.hbarArw l) s = execHbarArw l s := rfl
@[simp] theorem exec_fence (k : BitVec 2) (x : BitVec 3) (s : State) : exec (.fence k x) s = execFence k x s := rfl
@[simp] theorem exec_br (c : BitVec 3) (n : BitVec 1) (o : BitVec 22) (s : State) : exec (.br c n o) s = execBr c n o s := rfl
@[simp] theorem exec_call (c : BitVec 3) (n : BitVec 1) (o : BitVec 22) (s : State) : exec (.call c n o) s = execCall c n o s := rfl
@[simp] theorem exec_jmp (a : BitVec 6) (s : State) : exec (.jmp a) s = execJmp a s := rfl
@[simp] theorem exec_ret (s : State) : exec (.ret) s = execRet s := rfl
@[simp] theorem exec_lx (w : BitVec 32) (s : State) : exec (.lx w) s = execLx w s := rfl
@[simp] theorem exec_exit (s : State) : exec (.exit) s = execExit s := rfl
@[simp] theorem exec_wait (a : BitVec 6) (p : BitVec 2) (s : State) : exec (.wait a p) s = execWait a p s := rfl
@[simp] theorem exec_trapf (s : State) : exec (.trapf) s = execTrapf s := rfl
@[simp] theorem exec_jtok (o : BitVec 21) (s : State) : exec (.jtok o) s = execJtok o s := rfl
@[simp] theorem exec_dvg (k : BitVec 3) (x : BitVec 1) (n : BitVec 1) (o : BitVec 21) (s : State) : exec (.dvg k x n o) s = execDvg k x n o s := rfl
@[simp] theorem exec_nxt (s : State) : exec (.nxt) s = execNxt s := rfl
@[simp] theorem exec_lpb (o : BitVec 21) (s : State) : exec (.lpb o) s = execLpb o s := rfl
@[simp] theorem exec_lpe (k : BitVec 3) (x : BitVec 1) (n : BitVec 1) (o : BitVec 21) (s : State) : exec (.lpe k x n o) s = execLpe k x n o s := rfl
@[simp] theorem exec_brk (k : BitVec 3) (x : BitVec 1) (n : BitVec 1) (s : State) : exec (.brk k x n) s = execBrk k x n s := rfl
@[simp] theorem exec_seat (s : State) : exec (.seat) s = execSeat s := rfl
@[simp] theorem exec_unseat (s : State) : exec (.unseat) s = execUnseat s := rfl
@[simp] theorem exec_sjoin (w : BitVec 11) (s : State) : exec (.sjoin w) s = execSjoin w s := rfl
@[simp] theorem exec_qfence (q : BitVec 3) (s : State) : exec (.qfence q) s = execQfence q s := rfl
@[simp] theorem exec_snooze (a : BitVec 6) (s : State) : exec (.snooze a) s = execSnooze a s := rfl
@[simp] theorem exec_snoozeAbs (a : BitVec 6) (s : State) : exec (.snoozeAbs a) s = execSnoozeAbs a s := rfl
@[simp] theorem exec_mma (d : BitVec 6) (a : BitVec 6) (b : BitVec 6) (f : BitVec 7) (s : State) : exec (.mma d a b f) s = execMma d a b f s := rfl
@[simp] theorem exec_mgath (d : BitVec 6) (a : BitVec 6) (b : BitVec 6) (f : BitVec 7) (s : State) : exec (.mgath d a b f) s = execMgath d a b f s := rfl
@[simp] theorem exec_mzero (d : BitVec 3) (f : BitVec 1) (s : State) : exec (.mzero d f) s = execMzero d f s := rfl
@[simp] theorem exec_mdrain (d : BitVec 3) (a : BitVec 6) (f : BitVec 6) (s : State) : exec (.mdrain d a f) s = execMdrain d a f s := rfl
@[simp] theorem exec_mcommit (d : BitVec 3) (n : BitVec 1) (s : State) : exec (.mcommit d n) s = execMcommit d n s := rfl
@[simp] theorem exec_mfence (a : BitVec 6) (s : State) : exec (.mfence a) s = execMfence a s := rfl
@[simp] theorem exec_mwait (d : BitVec 6) (a : BitVec 6) (s : State) : exec (.mwait d a) s = execMwait d a s := rfl
@[simp] theorem exec_cpy (n : BitVec 3) (a : BitVec 6) (b : BitVec 6) (f : BitVec 4) (s : State) : exec (.cpy n a b f) s = execCpy n a b f s := rfl
@[simp] theorem exec_coll (a : BitVec 6) (x : BitVec 2) (t : BitVec 3) (o : BitVec 2) (s : State) : exec (.coll a x t o) s = execColl a x t o s := rfl
@[simp] theorem exec_rbeg (o : BitVec 18) (s : State) : exec (.rbeg o) s = execRbeg o s := rfl
@[simp] theorem exec_rbegStrict (o : BitVec 18) (s : State) : exec (.rbegStrict o) s = execRbegStrict o s := rfl
@[simp] theorem exec_rend (s : State) : exec (.rend) s = execRend s := rfl
@[simp] theorem exec_rabt (u : BitVec 8) (s : State) : exec (.rabt u) s = execRabt u s := rfl
@[simp] theorem exec_rnarLo (d : BitVec 6) (s : State) : exec (.rnarLo d) s = execRnarLo d s := rfl
@[simp] theorem exec_rnarHi (d : BitVec 6) (s : State) : exec (.rnarHi d) s = execRnarHi d s := rfl
@[simp] theorem exec_rnarNarrow (a : BitVec 6) (b : BitVec 6) (s : State) : exec (.rnarNarrow a b) s = execRnarNarrow a b s := rfl
@[simp] theorem exec_nop (s : State) : exec (.nop) s = execNop s := rfl
@[simp] theorem exec_trap (n : BitVec 6) (s : State) : exec (.trap n) s = execTrap n s := rfl
@[simp] theorem exec_srd (d : BitVec 6) (r : BitVec 6) (s : State) : exec (.srd d r) s = execSrd d r s := rfl
@[simp] theorem exec_swr (r : BitVec 6) (b : BitVec 6) (s : State) : exec (.swr r b) s = execSwr r b s := rfl
@[simp] theorem exec_dlaunch (d : BitVec 6) (a : BitVec 6) (b : BitVec 6) (s : State) : exec (.dlaunch d a b) s = execDlaunch d a b s := rfl
@[simp] theorem exec_iadd (f : LaneFields) (s : State) : exec (.iadd f) s = execIadd f s := rfl
@[simp] theorem exec_isub (f : LaneFields) (s : State) : exec (.isub f) s = execIsub f s := rfl
@[simp] theorem exec_imul (f : LaneFields) (s : State) : exec (.imul f) s = execImul f s := rfl
@[simp] theorem exec_imulh (f : LaneFields) (s : State) : exec (.imulh f) s = execImulh f s := rfl
@[simp] theorem exec_imad (f : LaneFields) (s : State) : exec (.imad f) s = execImad f s := rfl
@[simp] theorem exec_iabs (f : LaneFields) (s : State) : exec (.iabs f) s = execIabs f s := rfl
@[simp] theorem exec_ineg (f : LaneFields) (s : State) : exec (.ineg f) s = execIneg f s := rfl
@[simp] theorem exec_imin (f : LaneFields) (s : State) : exec (.imin f) s = execImin f s := rfl
@[simp] theorem exec_imax (f : LaneFields) (s : State) : exec (.imax f) s = execImax f s := rfl
@[simp] theorem exec_land (f : LaneFields) (s : State) : exec (.land f) s = execLand f s := rfl
@[simp] theorem exec_lor (f : LaneFields) (s : State) : exec (.lor f) s = execLor f s := rfl
@[simp] theorem exec_lxor (f : LaneFields) (s : State) : exec (.lxor f) s = execLxor f s := rfl
@[simp] theorem exec_lnot (f : LaneFields) (s : State) : exec (.lnot f) s = execLnot f s := rfl
@[simp] theorem exec_andn (f : LaneFields) (s : State) : exec (.andn f) s = execAndn f s := rfl
@[simp] theorem exec_shl (f : LaneFields) (s : State) : exec (.shl f) s = execShl f s := rfl
@[simp] theorem exec_shr (f : LaneFields) (s : State) : exec (.shr f) s = execShr f s := rfl
@[simp] theorem exec_sra (f : LaneFields) (s : State) : exec (.sra f) s = execSra f s := rfl
@[simp] theorem exec_rotl (f : LaneFields) (s : State) : exec (.rotl f) s = execRotl f s := rfl
@[simp] theorem exec_bfx (f : LaneFields) (s : State) : exec (.bfx f) s = execBfx f s := rfl
@[simp] theorem exec_bfi (f : LaneFields) (s : State) : exec (.bfi f) s = execBfi f s := rfl
@[simp] theorem exec_clz (f : LaneFields) (s : State) : exec (.clz f) s = execClz f s := rfl
@[simp] theorem exec_popc (f : LaneFields) (s : State) : exec (.popc f) s = execPopc f s := rfl
@[simp] theorem exec_brev (f : LaneFields) (s : State) : exec (.brev f) s = execBrev f s := rfl
@[simp] theorem exec_icmp (f : LaneFields) (s : State) : exec (.icmp f) s = execIcmp f s := rfl
@[simp] theorem exec_sel (f : LaneFields) (s : State) : exec (.sel f) s = execSel f s := rfl
@[simp] theorem exec_dot4 (f : LaneFields) (s : State) : exec (.dot4 f) s = execDot4 f s := rfl
@[simp] theorem exec_fadd (f : LaneFields) (s : State) : exec (.fadd f) s = execFadd f s := rfl
@[simp] theorem exec_fsub (f : LaneFields) (s : State) : exec (.fsub f) s = execFsub f s := rfl
@[simp] theorem exec_fmul (f : LaneFields) (s : State) : exec (.fmul f) s = execFmul f s := rfl
@[simp] theorem exec_ffma (f : LaneFields) (s : State) : exec (.ffma f) s = execFfma f s := rfl
@[simp] theorem exec_fmin (f : LaneFields) (s : State) : exec (.fmin f) s = execFmin f s := rfl
@[simp] theorem exec_fmax (f : LaneFields) (s : State) : exec (.fmax f) s = execFmax f s := rfl
@[simp] theorem exec_fabs (f : LaneFields) (s : State) : exec (.fabs f) s = execFabs f s := rfl
@[simp] theorem exec_fneg (f : LaneFields) (s : State) : exec (.fneg f) s = execFneg f s := rfl
@[simp] theorem exec_fcmp (f : LaneFields) (s : State) : exec (.fcmp f) s = execFcmp f s := rfl
@[simp] theorem exec_frcp (f : LaneFields) (s : State) : exec (.frcp f) s = execFrcp f s := rfl
@[simp] theorem exec_frsq (f : LaneFields) (s : State) : exec (.frsq f) s = execFrsq f s := rfl
@[simp] theorem exec_fsqrt (f : LaneFields) (s : State) : exec (.fsqrt f) s = execFsqrt f s := rfl
@[simp] theorem exec_fdiv (f : LaneFields) (s : State) : exec (.fdiv f) s = execFdiv f s := rfl
@[simp] theorem exec_fex2 (f : LaneFields) (s : State) : exec (.fex2 f) s = execFex2 f s := rfl
@[simp] theorem exec_flg2 (f : LaneFields) (s : State) : exec (.flg2 f) s = execFlg2 f s := rfl
@[simp] theorem exec_fsin (f : LaneFields) (s : State) : exec (.fsin f) s = execFsin f s := rfl
@[simp] theorem exec_fcos (f : LaneFields) (s : State) : exec (.fcos f) s = execFcos f s := rfl
@[simp] theorem exec_fclass (f : LaneFields) (s : State) : exec (.fclass f) s = execFclass f s := rfl
@[simp] theorem exec_fcpsgn (f : LaneFields) (s : State) : exec (.fcpsgn f) s = execFcpsgn f s := rfl
@[simp] theorem exec_ftrunc (f : LaneFields) (s : State) : exec (.ftrunc f) s = execFtrunc f s := rfl
@[simp] theorem exec_fldx (f : LaneFields) (s : State) : exec (.fldx f) s = execFldx f s := rfl
@[simp] theorem exec_mov (f : LaneFields) (s : State) : exec (.mov f) s = execMov f s := rfl
@[simp] theorem exec_movi (f : LaneFields) (s : State) : exec (.movi f) s = execMovi f s := rfl
@[simp] theorem exec_cvt (f : LaneFields) (s : State) : exec (.cvt f) s = execCvt f s := rfl
@[simp] theorem exec_pack2 (f : LaneFields) (s : State) : exec (.pack2 f) s = execPack2 f s := rfl
@[simp] theorem exec_unpk (f : LaneFields) (s : State) : exec (.unpk f) s = execUnpk f s := rfl
@[simp] theorem exec_tdec (f : LaneFields) (s : State) : exec (.tdec f) s = execTdec f s := rfl
@[simp] theorem exec_tenc (f : LaneFields) (s : State) : exec (.tenc f) s = execTenc f s := rfl
@[simp] theorem exec_lea (f : LaneFields) (s : State) : exec (.lea f) s = execLea f s := rfl
@[simp] theorem exec_pset (f : LaneFields) (s : State) : exec (.pset f) s = execPset f s := rfl
@[simp] theorem exec_pmov (f : LaneFields) (s : State) : exec (.pmov f) s = execPmov f s := rfl
@[simp] theorem exec_shfl (f : LaneFields) (s : State) : exec (.shfl f) s = execShfl f s := rfl
@[simp] theorem exec_bcast (f : LaneFields) (s : State) : exec (.bcast f) s = execBcast f s := rfl
@[simp] theorem exec_vote (f : LaneFields) (s : State) : exec (.vote f) s = execVote f s := rfl
@[simp] theorem exec_redx (f : LaneFields) (s : State) : exec (.redx f) s = execRedx f s := rfl
@[simp] theorem exec_scan (f : LaneFields) (s : State) : exec (.scan f) s = execScan f s := rfl
@[simp] theorem exec_firstLane (f : LaneFields) (s : State) : exec (.firstLane f) s = execFirstLane f s := rfl
@[simp] theorem exec_perm (f : LaneFields) (s : State) : exec (.perm f) s = execPerm f s := rfl
@[simp] theorem exec_cmpx (f : LaneFields) (s : State) : exec (.cmpx f) s = execCmpx f s := rfl
@[simp] theorem exec_ld (f : LaneFields) (s : State) : exec (.ld f) s = execLd f s := rfl
@[simp] theorem exec_st (f : LaneFields) (s : State) : exec (.st f) s = execSt f s := rfl
@[simp] theorem exec_stk (f : LaneFields) (s : State) : exec (.stk f) s = execStk f s := rfl
@[simp] theorem exec_prf (f : LaneFields) (s : State) : exec (.prf f) s = execPrf f s := rfl
@[simp] theorem exec_atom (f : LaneFields) (s : State) : exec (.atom f) s = execAtom f s := rfl
@[simp] theorem exec_red (f : LaneFields) (s : State) : exec (.red f) s = execRed f s := rfl
@[simp] theorem exec_cas (f : LaneFields) (s : State) : exec (.cas f) s = execCas f s := rfl
@[simp] theorem exec_cacc (f : LaneFields) (s : State) : exec (.cacc f) s = execCacc f s := rfl
@[simp] theorem exec_xset (f : LaneFields) (s : State) : exec (.xset f) s = execXset f s := rfl
@[simp] theorem exec_xadd (f : LaneFields) (s : State) : exec (.xadd f) s = execXadd f s := rfl
@[simp] theorem exec_xget (f : LaneFields) (s : State) : exec (.xget f) s = execXget f s := rfl
@[simp] theorem exec_locateFault (op : Nat) (lane : Nat) (s : State) : exec (.locateFault op lane) s = execLocateFault op lane s := rfl
@[simp] theorem exec_locateResolve (op : Nat) (s : State) : exec (.locateResolve op) s = execLocateResolve op s := rfl
@[simp] theorem exec_partialHandover (k : Nat) (s : State) : exec (.partialHandover k) s = execPartialHandover k s := rfl
@[simp] theorem exec_tileSeat (th : Nat) (tile : Nat) (s : State) : exec (.tileSeat th tile) s = execTileSeat th tile s := rfl
@[simp] theorem exec_placementTimeout (th : Nat) (tile : Nat) (s : State) : exec (.placementTimeout th tile) s = execPlacementTimeout th tile s := rfl
@[simp] theorem exec_workgroupEnd (wg : Nat) (s : State) : exec (.workgroupEnd wg) s = execWorkgroupEnd wg s := rfl
@[simp] theorem exec_strandSlotFree (th : Nat) (s : State) : exec (.strandSlotFree th) s = execStrandSlotFree th s := rfl
@[simp] theorem exec_agingSwap (core : Nat) (part : Nat) (s : State) : exec (.agingSwap core part) s = execAgingSwap core part s := rfl
@[simp] theorem exec_stallSwap (th : Nat) (s : State) : exec (.stallSwap th) s = execStallSwap th s := rfl
@[simp] theorem exec_hangDetected (ctx : Nat) (s : State) : exec (.hangDetected ctx) s = execHangDetected ctx s := rfl
@[simp] theorem exec_sjoinWindowExpiry (th : Nat) (s : State) : exec (.sjoinWindowExpiry th) s = execSjoinWindowExpiry th s := rfl
@[simp] theorem exec_snoozeExpiry (th : Nat) (s : State) : exec (.snoozeExpiry th) s = execSnoozeExpiry th s := rfl
@[simp] theorem exec_fenceComplete (th : Nat) (s : State) : exec (.fenceComplete th) s = execFenceComplete th s := rfl
@[simp] theorem exec_waitComplete (th : Nat) (s : State) : exec (.waitComplete th) s = execWaitComplete th s := rfl
@[simp] theorem exec_mwaitComplete (th : Nat) (s : State) : exec (.mwaitComplete th) s = execMwaitComplete th s := rfl
@[simp] theorem exec_barReleaseWake (th : Nat) (s : State) : exec (.barReleaseWake th) s = execBarReleaseWake th s := rfl
@[simp] theorem exec_hbarRelease (th : Nat) (s : State) : exec (.hbarRelease th) s = execHbarRelease th s := rfl
@[simp] theorem exec_dlaunchStatus (th : Nat) (s : State) : exec (.dlaunchStatus th) s = execDlaunchStatus th s := rfl
@[simp] theorem exec_rbegOpen (th : Nat) (s : State) : exec (.rbegOpen th) s = execRbegOpen th s := rfl
@[simp] theorem exec_loadReturn (op : Nat) (s : State) : exec (.loadReturn op) s = execLoadReturn op s := rfl
@[simp] theorem exec_storeAck (op : Nat) (s : State) : exec (.storeAck op) s = execStoreAck op s := rfl
@[simp] theorem exec_atomicReturn (op : Nat) (s : State) : exec (.atomicReturn op) s = execAtomicReturn op s := rfl
@[simp] theorem exec_leaseExpiry (k : Nat) (s : State) : exec (.leaseExpiry k) s = execLeaseExpiry k s := rfl
@[simp] theorem exec_streamTimeout (k : Nat) (s : State) : exec (.streamTimeout k) s = execStreamTimeout k s := rfl
@[simp] theorem exec_regionSliceAccess (op : Nat) (lane : Nat) (s : State) : exec (.regionSliceAccess op lane) s = execRegionSliceAccess op lane s := rfl
@[simp] theorem exec_nonregionSliceAccess (op : Nat) (lane : Nat) (src : Nat) (s : State) : exec (.nonregionSliceAccess op lane src) s = execNonregionSliceAccess op lane src s := rfl
@[simp] theorem exec_crossDieRegionHold (op : Nat) (lane : Nat) (s : State) : exec (.crossDieRegionHold op lane) s = execCrossDieRegionHold op lane s := rfl
@[simp] theorem exec_regionRaiseLo (k : Nat) (s : State) : exec (.regionRaiseLo k) s = execRegionRaiseLo k s := rfl
@[simp] theorem exec_regionLowerHi (k : Nat) (s : State) : exec (.regionLowerHi k) s = execRegionLowerHi k s := rfl
@[simp] theorem exec_regionAbortMessage (rg : Nat) (line : Nat) (s : State) : exec (.regionAbortMessage rg line) s = execRegionAbortMessage rg line s := rfl
@[simp] theorem exec_regionAbortDone (rg : Nat) (s : State) : exec (.regionAbortDone rg) s = execRegionAbortDone rg s := rfl
@[simp] theorem exec_regionFreeze (rg : Nat) (line : Nat) (s : State) : exec (.regionFreeze rg line) s = execRegionFreeze rg line s := rfl
@[simp] theorem exec_regionFreezeDone (rg : Nat) (s : State) : exec (.regionFreezeDone rg) s = execRegionFreezeDone rg s := rfl
@[simp] theorem exec_regionFinalPosition (rg : Nat) (line : Nat) (s : State) : exec (.regionFinalPosition rg line) s = execRegionFinalPosition rg line s := rfl
@[simp] theorem exec_regionCommitDone (rg : Nat) (s : State) : exec (.regionCommitDone rg) s = execRegionCommitDone rg s := rfl
@[simp] theorem exec_dirEviction (die : Nat) (line : Nat) (s : State) : exec (.dirEviction die line) s = execDirEviction die line s := rfl
@[simp] theorem exec_homeRecall (line : Nat) (s : State) : exec (.homeRecall line) s = execHomeRecall line s := rfl
@[simp] theorem exec_translationInvalidation (k : Nat) (s : State) : exec (.translationInvalidation k) s = execTranslationInvalidation k s := rfl
@[simp] theorem exec_dirRebuild (line : Nat) (s : State) : exec (.dirRebuild line) s = execDirRebuild line s := rfl
@[simp] theorem exec_dieProbeTimeout (die : Nat) (s : State) : exec (.dieProbeTimeout die) s = execDieProbeTimeout die s := rfl
@[simp] theorem exec_remotePackageTimeout (pkg : Nat) (s : State) : exec (.remotePackageTimeout pkg) s = execRemotePackageTimeout pkg s := rfl
@[simp] theorem exec_heldAccessTimeout (op : Nat) (lane : Nat) (s : State) : exec (.heldAccessTimeout op lane) s = execHeldAccessTimeout op lane s := rfl
@[simp] theorem exec_relockEnd (die : Nat) (s : State) : exec (.relockEnd die) s = execRelockEnd die s := rfl
@[simp] theorem exec_faultRecordWrite (ctx : Nat) (s : State) : exec (.faultRecordWrite ctx) s = execFaultRecordWrite ctx s := rfl
@[simp] theorem exec_preemptStart (ctx : Nat) (s : State) : exec (.preemptStart ctx) s = execPreemptStart ctx s := rfl
@[simp] theorem exec_drainComplete (ctx : Nat) (s : State) : exec (.drainComplete ctx) s = execDrainComplete ctx s := rfl
@[simp] theorem exec_drainDeadline (ctx : Nat) (s : State) : exec (.drainDeadline ctx) s = execDrainDeadline ctx s := rfl
@[simp] theorem exec_resetDeadline (ctx : Nat) (s : State) : exec (.resetDeadline ctx) s = execResetDeadline ctx s := rfl
@[simp] theorem exec_scanOut (ctx : Nat) (core : Nat) (s : State) : exec (.scanOut ctx core) s = execScanOut ctx core s := rfl
@[simp] theorem exec_contextResume (ctx : Nat) (s : State) : exec (.contextResume ctx) s = execContextResume ctx s := rfl
@[simp] theorem exec_launchEntry (ctx : Nat) (q : Nat) (s : State) : exec (.launchEntry ctx q) s = execLaunchEntry ctx q s := rfl
@[simp] theorem exec_krevEntry (ctx : Nat) (q : Nat) (s : State) : exec (.krevEntry ctx q) s = execKrevEntry ctx q s := rfl
@[simp] theorem exec_kdropEntry (ctx : Nat) (q : Nat) (s : State) : exec (.kdropEntry ctx q) s = execKdropEntry ctx q s := rfl
@[simp] theorem exec_waitEntry (ctx : Nat) (q : Nat) (s : State) : exec (.waitEntry ctx q) s = execWaitEntry ctx q s := rfl
@[simp] theorem exec_queueEntryComplete (entry : Nat) (s : State) : exec (.queueEntryComplete entry) s = execQueueEntryComplete entry s := rfl
@[simp] theorem exec_launchComplete (la : Nat) (s : State) : exec (.launchComplete la) s = execLaunchComplete la s := rfl
@[simp] theorem exec_engineOpStart (eop : Nat) (s : State) : exec (.engineOpStart eop) s = execEngineOpStart eop s := rfl
@[simp] theorem exec_engineOpComplete (eop : Nat) (s : State) : exec (.engineOpComplete eop) s = execEngineOpComplete eop s := rfl
@[simp] theorem exec_chunkEnd (eop : Nat) (s : State) : exec (.chunkEnd eop) s = execChunkEnd eop s := rfl
@[simp] theorem exec_batchComplete (th : Nat) (num : Nat) (s : State) : exec (.batchComplete th num) s = execBatchComplete th num s := rfl
@[simp] theorem exec_copyComplete (eop : Nat) (s : State) : exec (.copyComplete eop) s = execCopyComplete eop s := rfl
@[simp] theorem exec_collComplete (eop : Nat) (s : State) : exec (.collComplete eop) s = execCollComplete eop s := rfl
@[simp] theorem exec_resumeReplay (ctx : Nat) (v : BitVec 64) (s : State) : exec (.resumeReplay ctx v) s = execResumeReplay ctx v s := rfl
@[simp] theorem exec_resumeContinue (ctx : Nat) (v : BitVec 64) (s : State) : exec (.resumeContinue ctx v) s = execResumeContinue ctx v s := rfl
@[simp] theorem exec_resumeEnd (ctx : Nat) (v : BitVec 64) (s : State) : exec (.resumeEnd ctx v) s = execResumeEnd ctx v s := rfl
@[simp] theorem exec_fqhead (ctx : Nat) (v : BitVec 64) (s : State) : exec (.fqhead ctx v) s = execFqhead ctx v s := rfl
@[simp] theorem exec_preqDrain (ctx : Nat) (s : State) : exec (.preqDrain ctx) s = execPreqDrain ctx s := rfl
@[simp] theorem exec_preqFreeze (ctx : Nat) (s : State) : exec (.preqFreeze ctx) s = execPreqFreeze ctx s := rfl
@[simp] theorem exec_preqReset (ctx : Nat) (s : State) : exec (.preqReset ctx) s = execPreqReset ctx s := rfl
@[simp] theorem exec_saveArea (ctx : Nat) (base : BitVec 64) (len : BitVec 64) (s : State) : exec (.saveArea ctx base len) s = execSaveArea ctx base len s := rfl
@[simp] theorem exec_doorbell (ctx : Nat) (v : BitVec 64) (s : State) : exec (.doorbell ctx v) s = execDoorbell ctx v s := rfl
@[simp] theorem exec_keySlotLoad (k : Nat) (s : State) : exec (.keySlotLoad k) s = execKeySlotLoad k s := rfl
@[simp] theorem exec_keySlotErase (k : Nat) (s : State) : exec (.keySlotErase k) s = execKeySlotErase k s := rfl
@[simp] theorem exec_attestationRequest (nonce : BitVec 256) (s : State) : exec (.attestationRequest nonce) s = execAttestationRequest nonce s := rfl
@[simp] theorem exec_registerWrite (reg : Nat) (v : BitVec 256) (s : State) : exec (.registerWrite reg v) s = execRegisterWrite reg v s := rfl
@[simp] theorem exec_hostAccess (wr : BitVec 1) (addr : Nat) (n : Nat) (v : BitVec 64) (s : State) : exec (.hostAccess wr addr n v) s = execHostAccess wr addr n v s := rfl
@[simp] theorem exec_remotePackageRequest (pkg : Nat) (line : Nat) (own : BitVec 1) (s : State) : exec (.remotePackageRequest pkg line own) s = execRemotePackageRequest pkg line own s := rfl
@[simp] theorem exec_replayTimerExpiry (link : Nat) (s : State) : exec (.replayTimerExpiry link) s = execReplayTimerExpiry link s := rfl
@[simp] theorem exec_flitCrcFail (link : Nat) (s : State) : exec (.flitCrcFail link) s = execFlitCrcFail link s := rfl
@[simp] theorem exec_linkDown (link : Nat) (s : State) : exec (.linkDown link) s = execLinkDown link s := rfl
@[simp] theorem exec_linkRetrain (link : Nat) (s : State) : exec (.linkRetrain link) s = execLinkRetrain link s := rfl
@[simp] theorem exec_recoverGo (v : BitVec 1) (s : State) : exec (.recoverGo v) s = execRecoverGo v s := rfl
@[simp] theorem exec_rasfail (v : BitVec 64) (s : State) : exec (.rasfail v) s = execRasfail v s := rfl
@[simp] theorem exec_salvctl (v : BitVec 64) (s : State) : exec (.salvctl v) s = execSalvctl v s := rfl
@[simp] theorem exec_partrst (v : BitVec 64) (s : State) : exec (.partrst v) s = execPartrst v s := rfl
@[simp] theorem exec_diepsTarget (die : Nat) (v : BitVec 2) (s : State) : exec (.diepsTarget die v) s = execDiepsTarget die v s := rfl
@[simp] theorem exec_recoveryImage (k : Nat) (s : State) : exec (.recoveryImage k) s = execRecoveryImage k s := rfl
@[simp] theorem exec_memoryDieFailed (m : Nat) (s : State) : exec (.memoryDieFailed m) s = execMemoryDieFailed m s := rfl
@[simp] theorem exec_dirReadRequest (die : Nat) (line : Nat) (s : State) : exec (.dirReadRequest die line) s = execDirReadRequest die line s := rfl
@[simp] theorem exec_dirOwnershipRequest (die : Nat) (line : Nat) (s : State) : exec (.dirOwnershipRequest die line) s = execDirOwnershipRequest die line s := rfl
@[simp] theorem exec_remoteOwnership (die : Nat) (line : Nat) (s : State) : exec (.remoteOwnership die line) s = execRemoteOwnership die line s := rfl
@[simp] theorem exec_powerOn (s : State) : exec (.powerOn) s = execPowerOn s := rfl
@[simp] theorem exec_bootStage (s : State) : exec (.bootStage) s = execBootStage s := rfl
@[simp] theorem exec_pairResetDone (s : State) : exec (.pairResetDone) s = execPairResetDone s := rfl

theorem illSub_sadd (d : BitVec 6) (_a : BitVec 6) (_b : BitVec 6) : illSub (.sadd d _a _b) = zeroDst d := rfl
theorem illSub_ssub (d : BitVec 6) (_a : BitVec 6) (_b : BitVec 6) : illSub (.ssub d _a _b) = zeroDst d := rfl
theorem illSub_smul (d : BitVec 6) (_a : BitVec 6) (_b : BitVec 6) : illSub (.smul d _a _b) = zeroDst d := rfl
theorem illSub_smulh (d : BitVec 6) (_a : BitVec 6) (_b : BitVec 6) : illSub (.smulh d _a _b) = zeroDst d := rfl
theorem illSub_smulhn (d : BitVec 6) (_a : BitVec 6) (_b : BitVec 6) : illSub (.smulhn d _a _b) = zeroDst d := rfl
theorem illSub_sand (d : BitVec 6) (_a : BitVec 6) (_b : BitVec 6) : illSub (.sand d _a _b) = zeroDst d := rfl
theorem illSub_sor (d : BitVec 6) (_a : BitVec 6) (_b : BitVec 6) : illSub (.sor d _a _b) = zeroDst d := rfl
theorem illSub_sxor (d : BitVec 6) (_a : BitVec 6) (_b : BitVec 6) : illSub (.sxor d _a _b) = zeroDst d := rfl
theorem illSub_sshl (d : BitVec 6) (_a : BitVec 6) (_b : BitVec 6) : illSub (.sshl d _a _b) = zeroDst d := rfl
theorem illSub_sshr (d : BitVec 6) (_a : BitVec 6) (_b : BitVec 6) : illSub (.sshr d _a _b) = zeroDst d := rfl
theorem illSub_ssra (d : BitVec 6) (_a : BitVec 6) (_b : BitVec 6) : illSub (.ssra d _a _b) = zeroDst d := rfl
theorem illSub_smin (d : BitVec 6) (_a : BitVec 6) (_b : BitVec 6) : illSub (.smin d _a _b) = zeroDst d := rfl
theorem illSub_smax (d : BitVec 6) (_a : BitVec 6) (_b : BitVec 6) : illSub (.smax d _a _b) = zeroDst d := rfl
theorem illSub_sminn (d : BitVec 6) (_a : BitVec 6) (_b : BitVec 6) : illSub (.sminn d _a _b) = zeroDst d := rfl
theorem illSub_smaxn (d : BitVec 6) (_a : BitVec 6) (_b : BitVec 6) : illSub (.smaxn d _a _b) = zeroDst d := rfl
theorem illSub_sdiv (d : BitVec 6) (_a : BitVec 6) (_b : BitVec 6) : illSub (.sdiv d _a _b) = zeroDst d := rfl
theorem illSub_sdivn (d : BitVec 6) (_a : BitVec 6) (_b : BitVec 6) : illSub (.sdivn d _a _b) = zeroDst d := rfl
theorem illSub_srem (d : BitVec 6) (_a : BitVec 6) (_b : BitVec 6) : illSub (.srem d _a _b) = zeroDst d := rfl
theorem illSub_sremn (d : BitVec 6) (_a : BitVec 6) (_b : BitVec 6) : illSub (.sremn d _a _b) = zeroDst d := rfl
theorem illSub_sclz (d : BitVec 6) (_a : BitVec 6) : illSub (.sclz d _a) = zeroDst d := rfl
theorem illSub_spop (d : BitVec 6) (_a : BitVec 6) : illSub (.spop d _a) = zeroDst d := rfl
theorem illSub_saffx (d : BitVec 6) (_a : BitVec 6) (_b : BitVec 6) : illSub (.saffx d _a _b) = zeroDst d := rfl
theorem illSub_saffy (d : BitVec 6) (_a : BitVec 6) (_b : BitVec 6) : illSub (.saffy d _a _b) = zeroDst d := rfl
theorem illSub_saffz (d : BitVec 6) (_a : BitVec 6) (_b : BitVec 6) : illSub (.saffz d _a _b) = zeroDst d := rfl
theorem illSub_saddi (d : BitVec 6) (_a : BitVec 6) (_i : BitVec 14) : illSub (.saddi d _a _i) = zeroDst d := rfl
theorem illSub_sandi (d : BitVec 6) (_a : BitVec 6) (_i : BitVec 14) : illSub (.sandi d _a _i) = zeroDst d := rfl
theorem illSub_sori (d : BitVec 6) (_a : BitVec 6) (_i : BitVec 14) : illSub (.sori d _a _i) = zeroDst d := rfl
theorem illSub_sxori (d : BitVec 6) (_a : BitVec 6) (_i : BitVec 14) : illSub (.sxori d _a _i) = zeroDst d := rfl
theorem illSub_sshli (d : BitVec 6) (_a : BitVec 6) (_i : BitVec 6) : illSub (.sshli d _a _i) = zeroDst d := rfl
theorem illSub_sshri (d : BitVec 6) (_a : BitVec 6) (_i : BitVec 6) : illSub (.sshri d _a _i) = zeroDst d := rfl
theorem illSub_ssrai (d : BitVec 6) (_a : BitVec 6) (_i : BitVec 6) : illSub (.ssrai d _a _i) = zeroDst d := rfl
theorem illSub_smuli (d : BitVec 6) (_a : BitVec 6) (_i : BitVec 14) : illSub (.smuli d _a _i) = zeroDst d := rfl
theorem illSub_sli (d : BitVec 6) (_w : BitVec 32) : illSub (.sli d _w) = zeroDst d := rfl
theorem illSub_sliHi (d : BitVec 6) (_w : BitVec 32) : illSub (.sliHi d _w) = zeroDst d := rfl
theorem illSub_scmp (d : BitVec 3) (_a : BitVec 6) (_b : BitVec 6) (c : BitVec 4) : illSub (.scmp d _a _b c) = leastDefect [defect (d == 7) 0x02, defect (10 ≤ c.toNat) 0x02] := rfl
theorem illSub_scmpi (_c : BitVec 3) (d : BitVec 3) (_a : BitVec 6) (_i : BitVec 14) : illSub (.scmpi _c d _a _i) = defect (d == 7) 0x02 := rfl
theorem illSub_ssel (d : BitVec 6) (_a : BitVec 6) (_b : BitVec 6) (_n : BitVec 3) : illSub (.ssel d _a _b _n) = zeroDst d := rfl
theorem illSub_copAnd (d : BitVec 3) (_a : BitVec 3) (_b : BitVec 3) : illSub (.copAnd d _a _b) = defect (d == 7) 0x02 := rfl
theorem illSub_copOr (d : BitVec 3) (_a : BitVec 3) (_b : BitVec 3) : illSub (.copOr d _a _b) = defect (d == 7) 0x02 := rfl
theorem illSub_copXor (d : BitVec 3) (_a : BitVec 3) (_b : BitVec 3) : illSub (.copXor d _a _b) = defect (d == 7) 0x02 := rfl
theorem illSub_copAndn (d : BitVec 3) (_a : BitVec 3) (_b : BitVec 3) : illSub (.copAndn d _a _b) = defect (d == 7) 0x02 := rfl
theorem illSub_copNot (d : BitVec 3) (_a : BitVec 3) : illSub (.copNot d _a) = defect (d == 7) 0x02 := rfl
theorem illSub_copSet (d : BitVec 3) : illSub (.copSet d) = defect (d == 7) 0x02 := rfl
theorem illSub_copClr (d : BitVec 3) : illSub (.copClr d) = defect (d == 7) 0x02 := rfl
theorem illSub_copMov (d : BitVec 3) (_a : BitVec 3) : illSub (.copMov d _a) = defect (d == 7) 0x02 := rfl
theorem illSub_sform (d : BitVec 6) (_a : BitVec 6) (f : BitVec 8) : illSub (.sform d _a f) = leastDefect [zeroDst d, defect (5 ≤ f.toNat) 0x02] := rfl
theorem illSub_sld (d : BitVec 6) (_a : BitVec 6) (z : BitVec 2) (g : BitVec 1) (_p : BitVec 2) (_o : BitVec 9) : illSub (.sld d _a z g _p _o) = leastDefect [zeroDst d, defect (z == 3 && g == 1) 0x03] := rfl
theorem illSub_sst (d : BitVec 6) (a : BitVec 6) (z : BitVec 2) (p : BitVec 2) (o : BitVec 9) : illSub (.sst d a z p o) = none := rfl
theorem illSub_satom (d : BitVec 6) (_a : BitVec 6) (_b : BitVec 6) (_w : BitVec 1) (s : BitVec 3) (o : BitVec 4) : illSub (.satom d _a _b _w s o) = leastDefect [zeroDst d, defect (6 ≤ s.toNat) 0x02, defect (10 ≤ o.toNat) 0x02] := rfl
theorem illSub_cmo (_a : BitVec 6) (_b : BitVec 6) (l : BitVec 3) (_k : BitVec 2) : illSub (.cmo _a _b l _k) = defect (5 ≤ l.toNat) 0x02 := rfl
theorem illSub_kset (n : BitVec 3) (a : BitVec 6) : illSub (.kset n a) = none := rfl
theorem illSub_kget (d : BitVec 6) (_a : BitVec 6) : illSub (.kget d _a) = zeroDst d := rfl
theorem illSub_kgetSet (d : BitVec 6) (_a : BitVec 6) : illSub (.kgetSet d _a) = zeroDst d := rfl
theorem illSub_krev (n : BitVec 3) (a : BitVec 6) (b : BitVec 6) : illSub (.krev n a b) = none := rfl
theorem illSub_kdrop (a : BitVec 6) (b : BitVec 6) : illSub (.kdrop a b) = none := rfl
theorem illSub_barArv (d : BitVec 6) (a : BitVec 6) (b : BitVec 6) : illSub (.barArv d a b) = leastDefect [zeroDst d, defect (a == 0 && b != 0) 0x03] := rfl
theorem illSub_barWt (a : BitVec 6) (b : BitVec 6) : illSub (.barWt a b) = none := rfl
theorem illSub_barArw (a : BitVec 6) (b : BitVec 6) : illSub (.barArw a b) = defect (a == 0 && b != 0) 0x03 := rfl
theorem illSub_barInit (a : BitVec 6) (_b : BitVec 6) : illSub (.barInit a _b) = defect (a == 0) 0x02 := rfl
theorem illSub_hbarArv (d : BitVec 6) (l : BitVec 3) : illSub (.hbarArv d l) = leastDefect [zeroDst d, defect (l == 0 || 5 ≤ l.toNat) 0x02] := rfl
theorem illSub_hbarWt (_a : BitVec 6) (l : BitVec 3) : illSub (.hbarWt _a l) = defect (l == 0 || 5 ≤ l.toNat) 0x02 := rfl
theorem illSub_hbarArw (l : BitVec 3) : illSub (.hbarArw l) = defect (l == 0 || 5 ≤ l.toNat) 0x02 := rfl
theorem illSub_fence (_k : BitVec 2) (s : BitVec 3) : illSub (.fence _k s) = defect (6 ≤ s.toNat) 0x02 := rfl
theorem illSub_br (c : BitVec 3) (n : BitVec 1) (o : BitVec 22) : illSub (.br c n o) = none := rfl
theorem illSub_call (c : BitVec 3) (n : BitVec 1) (o : BitVec 22) : illSub (.call c n o) = none := rfl
theorem illSub_jmp (a : BitVec 6) : illSub (.jmp a) = none := rfl
theorem illSub_ret : illSub (.ret) = none := rfl
theorem illSub_lx (w : BitVec 32) : illSub (.lx w) = defect (w.toNat % 3 != 0) 0x06 := rfl
theorem illSub_exit : illSub (.exit) = none := rfl
theorem illSub_wait (a : BitVec 6) (p : BitVec 2) : illSub (.wait a p) = none := rfl
theorem illSub_trapf : illSub (.trapf) = none := rfl
theorem illSub_jtok (o : BitVec 21) : illSub (.jtok o) = none := rfl
theorem illSub_dvg (k : BitVec 3) (x : BitVec 1) (n : BitVec 1) (o : BitVec 21) : illSub (.dvg k x n o) = none := rfl
theorem illSub_nxt : illSub (.nxt) = none := rfl
theorem illSub_lpb (o : BitVec 21) : illSub (.lpb o) = none := rfl
theorem illSub_lpe (k : BitVec 3) (x : BitVec 1) (n : BitVec 1) (o : BitVec 21) : illSub (.lpe k x n o) = none := rfl
theorem illSub_brk (k : BitVec 3) (x : BitVec 1) (n : BitVec 1) : illSub (.brk k x n) = none := rfl
theorem illSub_seat : illSub (.seat) = none := rfl
theorem illSub_unseat : illSub (.unseat) = none := rfl
theorem illSub_sjoin (w : BitVec 11) : illSub (.sjoin w) = none := rfl
theorem illSub_qfence (q : BitVec 3) : illSub (.qfence q) = defect (q == 0) 0x02 := rfl
theorem illSub_snooze (a : BitVec 6) : illSub (.snooze a) = none := rfl
theorem illSub_snoozeAbs (a : BitVec 6) : illSub (.snoozeAbs a) = none := rfl
theorem illSub_mma (d : BitVec 6) (a : BitVec 6) (b : BitVec 6) (f : BitVec 7) : illSub (.mma d a b f) = leastDefect [ defect (!d.getLsbD 5 && d.extractLsb' 3 2 != 0) 0x03, defect (d.getLsbD 5 && d.getLsbD 1) 0x03, defect (a == 0 || a == 63) 0x05, defect (b == 0 || b == 63) 0x05, defect (5 ≤ (f.extractLsb' 0 3).toNat) 0x02, defect (f.extractLsb' 0 3 == 4 && d.getLsbD 5) 0x04, defect (f.extractLsb' 0 3 == 4 && !d.getLsbD 5 && d.getLsbD 0) 0x05] := rfl
theorem illSub_mgath (d : BitVec 6) (a : BitVec 6) (b : BitVec 6) (f : BitVec 7) : illSub (.mgath d a b f) = leastDefect [ defect (!d.getLsbD 5 && d.extractLsb' 3 2 != 0) 0x03, defect (d.getLsbD 5 && d.getLsbD 1) 0x03, defect (a == 0 || 62 ≤ a.toNat) 0x05, defect (b == 0 || b == 63) 0x05, defect (5 ≤ (f.extractLsb' 0 3).toNat) 0x02, defect (f.extractLsb' 0 3 == 4 && d.getLsbD 5) 0x04, defect (f.extractLsb' 0 3 == 4 && !d.getLsbD 5 && d.getLsbD 0) 0x05] := rfl
theorem illSub_mzero (d : BitVec 3) (f : BitVec 1) : illSub (.mzero d f) = defect (f == 1 && d.getLsbD 0) 0x05 := rfl
theorem illSub_mdrain (_d : BitVec 3) (a : BitVec 6) (f : BitVec 6) : illSub (.mdrain _d a f) = leastDefect [ defect (5 ≤ (f.extractLsb' 0 3).toNat) 0x02, defect (a == 0 || a == 63 || (f.getLsbD 3 && a == 62)) 0x05] := rfl
theorem illSub_mcommit (d : BitVec 3) (n : BitVec 1) : illSub (.mcommit d n) = none := rfl
theorem illSub_mfence (a : BitVec 6) : illSub (.mfence a) = none := rfl
theorem illSub_mwait (d : BitVec 6) (_a : BitVec 6) : illSub (.mwait d _a) = zeroDst d := rfl
theorem illSub_cpy (n : BitVec 3) (a : BitVec 6) (_b : BitVec 6) (f : BitVec 4) : illSub (.cpy n a _b f) = leastDefect [ defect (f.extractLsb' 0 2 == 3) 0x02, defect (f.getLsbD 3 && f.extractLsb' 0 2 == 0) 0x02, defect (!f.getLsbD 3 && n != 0) 0x03, defect (a == 0 || 61 ≤ a.toNat) 0x05] := rfl
theorem illSub_coll (a : BitVec 6) (s : BitVec 2) (t : BitVec 3) (o : BitVec 2) : illSub (.coll a s t o) = leastDefect [ defect (o == 3) 0x02, defect (5 ≤ t.toNat) 0x02, defect (s == 3) 0x02, defect (a == 0 || 62 ≤ a.toNat) 0x05] := rfl
theorem illSub_rbeg (o : BitVec 18) : illSub (.rbeg o) = none := rfl
theorem illSub_rbegStrict (o : BitVec 18) : illSub (.rbegStrict o) = none := rfl
theorem illSub_rend : illSub (.rend) = none := rfl
theorem illSub_rabt (u : BitVec 8) : illSub (.rabt u) = none := rfl
theorem illSub_rnarLo (d : BitVec 6) : illSub (.rnarLo d) = zeroDst d := rfl
theorem illSub_rnarHi (d : BitVec 6) : illSub (.rnarHi d) = zeroDst d := rfl
theorem illSub_rnarNarrow (a : BitVec 6) (b : BitVec 6) : illSub (.rnarNarrow a b) = none := rfl
theorem illSub_nop : illSub (.nop) = none := rfl
theorem illSub_trap (n : BitVec 6) : illSub (.trap n) = none := rfl
theorem illSub_srd (d : BitVec 6) (r : BitVec 6) : illSub (.srd d r) = leastDefect [zeroDst d, defect (29 ≤ r.toNat) 0x07] := rfl
theorem illSub_swr (r : BitVec 6) (_b : BitVec 6) : illSub (.swr r _b) = defect (29 ≤ r.toNat) 0x07 := rfl
theorem illSub_dlaunch (d : BitVec 6) (_a : BitVec 6) (_b : BitVec 6) : illSub (.dlaunch d _a _b) = zeroDst d := rfl
theorem illSub_locateFault (op : Nat) (lane : Nat) : illSub (.locateFault op lane) = none := rfl
theorem illSub_locateResolve (op : Nat) : illSub (.locateResolve op) = none := rfl
theorem illSub_partialHandover (k : Nat) : illSub (.partialHandover k) = none := rfl
theorem illSub_tileSeat (th : Nat) (tile : Nat) : illSub (.tileSeat th tile) = none := rfl
theorem illSub_placementTimeout (th : Nat) (tile : Nat) : illSub (.placementTimeout th tile) = none := rfl
theorem illSub_workgroupEnd (wg : Nat) : illSub (.workgroupEnd wg) = none := rfl
theorem illSub_strandSlotFree (th : Nat) : illSub (.strandSlotFree th) = none := rfl
theorem illSub_agingSwap (core : Nat) (part : Nat) : illSub (.agingSwap core part) = none := rfl
theorem illSub_stallSwap (th : Nat) : illSub (.stallSwap th) = none := rfl
theorem illSub_hangDetected (ctx : Nat) : illSub (.hangDetected ctx) = none := rfl
theorem illSub_sjoinWindowExpiry (th : Nat) : illSub (.sjoinWindowExpiry th) = none := rfl
theorem illSub_snoozeExpiry (th : Nat) : illSub (.snoozeExpiry th) = none := rfl
theorem illSub_fenceComplete (th : Nat) : illSub (.fenceComplete th) = none := rfl
theorem illSub_waitComplete (th : Nat) : illSub (.waitComplete th) = none := rfl
theorem illSub_mwaitComplete (th : Nat) : illSub (.mwaitComplete th) = none := rfl
theorem illSub_barReleaseWake (th : Nat) : illSub (.barReleaseWake th) = none := rfl
theorem illSub_hbarRelease (th : Nat) : illSub (.hbarRelease th) = none := rfl
theorem illSub_dlaunchStatus (th : Nat) : illSub (.dlaunchStatus th) = none := rfl
theorem illSub_rbegOpen (th : Nat) : illSub (.rbegOpen th) = none := rfl
theorem illSub_loadReturn (op : Nat) : illSub (.loadReturn op) = none := rfl
theorem illSub_storeAck (op : Nat) : illSub (.storeAck op) = none := rfl
theorem illSub_atomicReturn (op : Nat) : illSub (.atomicReturn op) = none := rfl
theorem illSub_leaseExpiry (k : Nat) : illSub (.leaseExpiry k) = none := rfl
theorem illSub_streamTimeout (k : Nat) : illSub (.streamTimeout k) = none := rfl
theorem illSub_regionSliceAccess (op : Nat) (lane : Nat) : illSub (.regionSliceAccess op lane) = none := rfl
theorem illSub_nonregionSliceAccess (op : Nat) (lane : Nat) (src : Nat) : illSub (.nonregionSliceAccess op lane src) = none := rfl
theorem illSub_crossDieRegionHold (op : Nat) (lane : Nat) : illSub (.crossDieRegionHold op lane) = none := rfl
theorem illSub_regionRaiseLo (k : Nat) : illSub (.regionRaiseLo k) = none := rfl
theorem illSub_regionLowerHi (k : Nat) : illSub (.regionLowerHi k) = none := rfl
theorem illSub_regionAbortMessage (rg : Nat) (line : Nat) : illSub (.regionAbortMessage rg line) = none := rfl
theorem illSub_regionAbortDone (rg : Nat) : illSub (.regionAbortDone rg) = none := rfl
theorem illSub_regionFreeze (rg : Nat) (line : Nat) : illSub (.regionFreeze rg line) = none := rfl
theorem illSub_regionFreezeDone (rg : Nat) : illSub (.regionFreezeDone rg) = none := rfl
theorem illSub_regionFinalPosition (rg : Nat) (line : Nat) : illSub (.regionFinalPosition rg line) = none := rfl
theorem illSub_regionCommitDone (rg : Nat) : illSub (.regionCommitDone rg) = none := rfl
theorem illSub_dirEviction (die : Nat) (line : Nat) : illSub (.dirEviction die line) = none := rfl
theorem illSub_homeRecall (line : Nat) : illSub (.homeRecall line) = none := rfl
theorem illSub_translationInvalidation (k : Nat) : illSub (.translationInvalidation k) = none := rfl
theorem illSub_dirRebuild (line : Nat) : illSub (.dirRebuild line) = none := rfl
theorem illSub_dieProbeTimeout (die : Nat) : illSub (.dieProbeTimeout die) = none := rfl
theorem illSub_remotePackageTimeout (pkg : Nat) : illSub (.remotePackageTimeout pkg) = none := rfl
theorem illSub_heldAccessTimeout (op : Nat) (lane : Nat) : illSub (.heldAccessTimeout op lane) = none := rfl
theorem illSub_relockEnd (die : Nat) : illSub (.relockEnd die) = none := rfl
theorem illSub_faultRecordWrite (ctx : Nat) : illSub (.faultRecordWrite ctx) = none := rfl
theorem illSub_preemptStart (ctx : Nat) : illSub (.preemptStart ctx) = none := rfl
theorem illSub_drainComplete (ctx : Nat) : illSub (.drainComplete ctx) = none := rfl
theorem illSub_drainDeadline (ctx : Nat) : illSub (.drainDeadline ctx) = none := rfl
theorem illSub_resetDeadline (ctx : Nat) : illSub (.resetDeadline ctx) = none := rfl
theorem illSub_scanOut (ctx : Nat) (core : Nat) : illSub (.scanOut ctx core) = none := rfl
theorem illSub_contextResume (ctx : Nat) : illSub (.contextResume ctx) = none := rfl
theorem illSub_launchEntry (ctx : Nat) (q : Nat) : illSub (.launchEntry ctx q) = none := rfl
theorem illSub_krevEntry (ctx : Nat) (q : Nat) : illSub (.krevEntry ctx q) = none := rfl
theorem illSub_kdropEntry (ctx : Nat) (q : Nat) : illSub (.kdropEntry ctx q) = none := rfl
theorem illSub_waitEntry (ctx : Nat) (q : Nat) : illSub (.waitEntry ctx q) = none := rfl
theorem illSub_queueEntryComplete (entry : Nat) : illSub (.queueEntryComplete entry) = none := rfl
theorem illSub_launchComplete (la : Nat) : illSub (.launchComplete la) = none := rfl
theorem illSub_engineOpStart (eop : Nat) : illSub (.engineOpStart eop) = none := rfl
theorem illSub_engineOpComplete (eop : Nat) : illSub (.engineOpComplete eop) = none := rfl
theorem illSub_chunkEnd (eop : Nat) : illSub (.chunkEnd eop) = none := rfl
theorem illSub_batchComplete (th : Nat) (num : Nat) : illSub (.batchComplete th num) = none := rfl
theorem illSub_copyComplete (eop : Nat) : illSub (.copyComplete eop) = none := rfl
theorem illSub_collComplete (eop : Nat) : illSub (.collComplete eop) = none := rfl
theorem illSub_resumeReplay (ctx : Nat) (v : BitVec 64) : illSub (.resumeReplay ctx v) = none := rfl
theorem illSub_resumeContinue (ctx : Nat) (v : BitVec 64) : illSub (.resumeContinue ctx v) = none := rfl
theorem illSub_resumeEnd (ctx : Nat) (v : BitVec 64) : illSub (.resumeEnd ctx v) = none := rfl
theorem illSub_fqhead (ctx : Nat) (v : BitVec 64) : illSub (.fqhead ctx v) = none := rfl
theorem illSub_preqDrain (ctx : Nat) : illSub (.preqDrain ctx) = none := rfl
theorem illSub_preqFreeze (ctx : Nat) : illSub (.preqFreeze ctx) = none := rfl
theorem illSub_preqReset (ctx : Nat) : illSub (.preqReset ctx) = none := rfl
theorem illSub_saveArea (ctx : Nat) (base : BitVec 64) (len : BitVec 64) : illSub (.saveArea ctx base len) = none := rfl
theorem illSub_doorbell (ctx : Nat) (v : BitVec 64) : illSub (.doorbell ctx v) = none := rfl
theorem illSub_keySlotLoad (k : Nat) : illSub (.keySlotLoad k) = none := rfl
theorem illSub_keySlotErase (k : Nat) : illSub (.keySlotErase k) = none := rfl
theorem illSub_attestationRequest (nonce : BitVec 256) : illSub (.attestationRequest nonce) = none := rfl
theorem illSub_registerWrite (reg : Nat) (v : BitVec 256) : illSub (.registerWrite reg v) = none := rfl
theorem illSub_hostAccess (wr : BitVec 1) (addr : Nat) (n : Nat) (v : BitVec 64) : illSub (.hostAccess wr addr n v) = none := rfl
theorem illSub_remotePackageRequest (pkg : Nat) (line : Nat) (own : BitVec 1) : illSub (.remotePackageRequest pkg line own) = none := rfl
theorem illSub_replayTimerExpiry (link : Nat) : illSub (.replayTimerExpiry link) = none := rfl
theorem illSub_flitCrcFail (link : Nat) : illSub (.flitCrcFail link) = none := rfl
theorem illSub_linkDown (link : Nat) : illSub (.linkDown link) = none := rfl
theorem illSub_linkRetrain (link : Nat) : illSub (.linkRetrain link) = none := rfl
theorem illSub_recoverGo (v : BitVec 1) : illSub (.recoverGo v) = none := rfl
theorem illSub_rasfail (v : BitVec 64) : illSub (.rasfail v) = none := rfl
theorem illSub_salvctl (v : BitVec 64) : illSub (.salvctl v) = none := rfl
theorem illSub_partrst (v : BitVec 64) : illSub (.partrst v) = none := rfl
theorem illSub_diepsTarget (die : Nat) (v : BitVec 2) : illSub (.diepsTarget die v) = none := rfl
theorem illSub_recoveryImage (k : Nat) : illSub (.recoveryImage k) = none := rfl
theorem illSub_memoryDieFailed (m : Nat) : illSub (.memoryDieFailed m) = none := rfl
theorem illSub_dirReadRequest (die : Nat) (line : Nat) : illSub (.dirReadRequest die line) = none := rfl
theorem illSub_dirOwnershipRequest (die : Nat) (line : Nat) : illSub (.dirOwnershipRequest die line) = none := rfl
theorem illSub_remoteOwnership (die : Nat) (line : Nat) : illSub (.remoteOwnership die line) = none := rfl
theorem illSub_powerOn : illSub (.powerOn) = none := rfl
theorem illSub_bootStage : illSub (.bootStage) = none := rfl
theorem illSub_pairResetDone : illSub (.pairResetDone) = none := rfl

end Sys2Proof.Machine
end

