-- ==== Sys2Proof/Laws/Encoding.lean ====
section
/-!
SUPPORT. The encodings: what the fields of a word are worth, which fields a mask names, that the decoder reads from the
words of each scalar instruction that instruction, and that what it reads from words has them as its encoding.
-/
namespace Sys2Proof.Laws
open Sys2Proof

/-! ### Fields of words -/

theorem cat_toNat {m n : Nat} (x : BitVec m) (y : BitVec n) : (x ++ y).toNat = x.toNat * 2 ^ n + y.toNat := by
  rw [BitVec.toNat_append, ← Nat.shiftLeft_add_eq_or_of_lt y.isLt, Nat.shiftLeft_eq]

theorem fld_toNat (w : W32) (lo n : Nat) : (fld w lo n).toNat = w.toNat / 2 ^ lo % 2 ^ n := by
  simp [fld, BitVec.extractLsb'_toNat, Nat.shiftRight_eq_div_pow]

theorem cat_hi {m n : Nat} (x : BitVec m) (y : BitVec n) (lo k : Nat) (h : n ≤ lo) :
    (x ++ y).extractLsb' lo k = x.extractLsb' (lo - n) k := BitVec.extractLsb'_append_eq_of_le h

theorem cat_lo {m n : Nat} (x : BitVec m) (y : BitVec n) (lo k : Nat) (h : lo + k ≤ n) :
    (x ++ y).extractLsb' lo k = y.extractLsb' lo k := BitVec.extractLsb'_append_eq_of_add_le h

theorem getLsbD_fld (w : W32) (k : Nat) : w.getLsbD k = (fld w k 1).getLsbD 0 := by simp [fld]

theorem fld_bit {w : W32} {k : Nat} {b : Bool} (h : w.getLsbD k = b) : fld w k 1 = if b then 1#1 else 0#1 := by
  refine BitVec.eq_of_getLsbD_eq fun i hi => ?_
  obtain rfl : i = 0 := by omega
  rw [← getLsbD_fld, h]; cases b <;> rfl

/-- The mask of `n` bits from bit `lo` up. -/
def ones (lo n : Nat) : W32 := (BitVec.allOnes n).setWidth 32 <<< lo

theorem ones_bit (lo n i : Nat) : (ones lo n).getLsbD i = decide (i < 32 ∧ lo ≤ i ∧ i < lo + n) := by
  simp only [ones, BitVec.getLsbD_shiftLeft, BitVec.getLsbD_setWidth, BitVec.getLsbD_allOnes]
  by_cases h : i < 32 <;> by_cases g : lo ≤ i <;> by_cases e : i < lo + n <;> simp [h, g, e] <;> omega

/-- A masked field is zero exactly when the field is. -/
theorem and_ones (w : W32) (lo n : Nat) (h : lo + n ≤ 32) : (w &&& ones lo n = 0#32) ↔ fld w lo n = 0#n := by
  constructor
  · intro e
    refine BitVec.eq_of_getLsbD_eq fun i hi => ?_
    have := congrArg (fun x => x.getLsbD (lo + i)) e
    simp only [BitVec.getLsbD_and, ones_bit, BitVec.getLsbD_zero, Bool.and_eq_false_iff, decide_eq_false_iff_not] at this
    simp only [fld, BitVec.getLsbD_extractLsb', hi, decide_true, Bool.true_and, BitVec.getLsbD_zero]
    exact this.resolve_right (by omega)
  · intro e
    refine BitVec.eq_of_getLsbD_eq fun i hi => ?_
    have := congrArg (fun x => x.getLsbD (i - lo)) e
    simp only [fld, BitVec.getLsbD_extractLsb', BitVec.getLsbD_zero, Bool.and_eq_false_iff, decide_eq_false_iff_not] at this
    simp only [BitVec.getLsbD_and, ones_bit, BitVec.getLsbD_zero, Bool.and_eq_false_iff, decide_eq_false_iff_not]
    by_cases hl : lo ≤ i ∧ i < lo + n
    · exact .inl (by simpa only [show lo + (i - lo) = i by omega] using this.resolve_left (by omega))
    · exact .inr (by omega)

theorem and_join (w a b : W32) : (w &&& (a ||| b) = 0#32) ↔ (w &&& a = 0#32) ∧ (w &&& b = 0#32) := by
  rw [BitVec.and_or_distrib_left]
  refine ⟨fun e => ?_, fun ⟨e, f⟩ => by rw [e, f]; rfl⟩
  have (i : Nat) := congrArg (fun x => x.getLsbD i) e
  simp only [BitVec.getLsbD_or, BitVec.getLsbD_zero, Bool.or_eq_false_iff] at this
  exact ⟨BitVec.eq_of_getLsbD_eq fun i _ => by simp [(this i).1], BitVec.eq_of_getLsbD_eq fun i _ => by simp [(this i).2]⟩

/-! ### The must-be-zero masks of the scalar words, as fields -/

theorem mask_00000080 (w : W32) : (w &&& 0x00000080#32 = 0#32) ↔ fld w 7 1 = 0#1 := by
  rw [show (0x00000080#32 : W32) = ones 7 1 by decide, and_ones _ 7 1 (by decide)]

theorem mask_000000F8 (w : W32) : (w &&& 0x000000F8#32 = 0#32) ↔ fld w 3 5 = 0#5 := by
  rw [show (0x000000F8#32 : W32) = ones 3 5 by decide, and_ones _ 3 5 (by decide)]

theorem mask_000000FE (w : W32) : (w &&& 0x000000FE#32 = 0#32) ↔ fld w 1 7 = 0#7 := by
  rw [show (0x000000FE#32 : W32) = ones 1 7 by decide, and_ones _ 1 7 (by decide)]

theorem mask_00000800 (w : W32) : (w &&& 0x00000800#32 = 0#32) ↔ fld w 11 1 = 0#1 := by
  rw [show (0x00000800#32 : W32) = ones 11 1 by decide, and_ones _ 11 1 (by decide)]

theorem mask_00003E00 (w : W32) : (w &&& 0x00003E00#32 = 0#32) ↔ fld w 9 5 = 0#5 := by
  rw [show (0x00003E00#32 : W32) = ones 9 5 by decide, and_ones _ 9 5 (by decide)]

theorem mask_00003F00 (w : W32) : (w &&& 0x00003F00#32 = 0#32) ↔ fld w 8 6 = 0#6 := by
  rw [show (0x00003F00#32 : W32) = ones 8 6 by decide, and_ones _ 8 6 (by decide)]

theorem mask_00003FC0 (w : W32) : (w &&& 0x00003FC0#32 = 0#32) ↔ fld w 6 8 = 0#8 := by
  rw [show (0x00003FC0#32 : W32) = ones 6 8 by decide, and_ones _ 6 8 (by decide)]

theorem mask_00003FFF (w : W32) : (w &&& 0x00003FFF#32 = 0#32) ↔ fld w 0 14 = 0#14 := by
  rw [show (0x00003FFF#32 : W32) = ones 0 14 by decide, and_ones _ 0 14 (by decide)]

theorem mask_000FFF00 (w : W32) : (w &&& 0x000FFF00#32 = 0#32) ↔ fld w 8 12 = 0#12 := by
  rw [show (0x000FFF00#32 : W32) = ones 8 12 by decide, and_ones _ 8 12 (by decide)]

theorem mask_000FFFE0 (w : W32) : (w &&& 0x000FFFE0#32 = 0#32) ↔ fld w 5 15 = 0#15 := by
  rw [show (0x000FFFE0#32 : W32) = ones 5 15 by decide, and_ones _ 5 15 (by decide)]

theorem mask_000FFFFE (w : W32) : (w &&& 0x000FFFFE#32 = 0#32) ↔ fld w 14 6 = 0#6 ∧ fld w 1 13 = 0#13 := by
  rw [show (0x000FFFFE#32 : W32) = ones 14 6 ||| (ones 1 13) by decide, and_join, and_ones _ 14 6 (by decide), and_ones _ 1 13 (by decide)]

theorem mask_001FFFFF (w : W32) : (w &&& 0x001FFFFF#32 = 0#32) ↔ fld w 0 21 = 0#21 := by
  rw [show (0x001FFFFF#32 : W32) = ones 0 21 by decide, and_ones _ 0 21 (by decide)]

theorem mask_03800000 (w : W32) : (w &&& 0x03800000#32 = 0#32) ↔ fld w 23 3 = 0#3 := by
  rw [show (0x03800000#32 : W32) = ones 23 3 by decide, and_ones _ 23 3 (by decide)]

theorem mask_038000F0 (w : W32) : (w &&& 0x038000F0#32 = 0#32) ↔ fld w 23 3 = 0#3 ∧ fld w 4 4 = 0#4 := by
  rw [show (0x038000F0#32 : W32) = ones 23 3 ||| (ones 4 4) by decide, and_join, and_ones _ 23 3 (by decide), and_ones _ 4 4 (by decide)]

theorem mask_03803F00 (w : W32) : (w &&& 0x03803F00#32 = 0#32) ↔ fld w 23 3 = 0#3 ∧ fld w 8 6 = 0#6 := by
  rw [show (0x03803F00#32 : W32) = ones 23 3 ||| (ones 8 6) by decide, and_join, and_ones _ 23 3 (by decide), and_ones _ 8 6 (by decide)]

theorem mask_03803FC0 (w : W32) : (w &&& 0x03803FC0#32 = 0#32) ↔ fld w 23 3 = 0#3 ∧ fld w 6 8 = 0#8 := by
  rw [show (0x03803FC0#32 : W32) = ones 23 3 ||| (ones 6 8) by decide, and_join, and_ones _ 23 3 (by decide), and_ones _ 6 8 (by decide)]

theorem mask_038E3800 (w : W32) : (w &&& 0x038E3800#32 = 0#32) ↔ fld w 23 3 = 0#3 ∧ fld w 17 3 = 0#3 ∧ fld w 11 3 = 0#3 := by
  rw [show (0x038E3800#32 : W32) = ones 23 3 ||| (ones 17 3 ||| (ones 11 3)) by decide, and_join, and_join, and_ones _ 23 3 (by decide), and_ones _ 17 3 (by decide), and_ones _ 11 3 (by decide)]

theorem mask_038E3F00 (w : W32) : (w &&& 0x038E3F00#32 = 0#32) ↔ fld w 23 3 = 0#3 ∧ fld w 17 3 = 0#3 ∧ fld w 8 6 = 0#6 := by
  rw [show (0x038E3F00#32 : W32) = ones 23 3 ||| (ones 17 3 ||| (ones 8 6)) by decide, and_join, and_join, and_ones _ 23 3 (by decide), and_ones _ 17 3 (by decide), and_ones _ 8 6 (by decide)]

theorem mask_038FFF00 (w : W32) : (w &&& 0x038FFF00#32 = 0#32) ↔ fld w 23 3 = 0#3 ∧ fld w 8 12 = 0#12 := by
  rw [show (0x038FFF00#32 : W32) = ones 23 3 ||| (ones 8 12) by decide, and_join, and_ones _ 23 3 (by decide), and_ones _ 8 12 (by decide)]

theorem mask_038FFFFE (w : W32) : (w &&& 0x038FFFFE#32 = 0#32) ↔ fld w 23 3 = 0#3 ∧ fld w 1 19 = 0#19 := by
  rw [show (0x038FFFFE#32 : W32) = ones 23 3 ||| (ones 1 19) by decide, and_join, and_ones _ 23 3 (by decide), and_ones _ 1 19 (by decide)]

theorem mask_03E00000 (w : W32) : (w &&& 0x03E00000#32 = 0#32) ↔ fld w 21 5 = 0#5 := by
  rw [show (0x03E00000#32 : W32) = ones 21 5 by decide, and_ones _ 21 5 (by decide)]

theorem mask_03F00000 (w : W32) : (w &&& 0x03F00000#32 = 0#32) ↔ fld w 20 6 = 0#6 := by
  rw [show (0x03F00000#32 : W32) = ones 20 6 by decide, and_ones _ 20 6 (by decide)]

theorem mask_03F000E0 (w : W32) : (w &&& 0x03F000E0#32 = 0#32) ↔ fld w 20 6 = 0#6 ∧ fld w 5 3 = 0#3 := by
  rw [show (0x03F000E0#32 : W32) = ones 20 6 ||| (ones 5 3) by decide, and_join, and_ones _ 20 6 (by decide), and_ones _ 5 3 (by decide)]

theorem mask_03F03F00 (w : W32) : (w &&& 0x03F03F00#32 = 0#32) ↔ fld w 20 6 = 0#6 ∧ fld w 8 6 = 0#6 := by
  rw [show (0x03F03F00#32 : W32) = ones 20 6 ||| (ones 8 6) by decide, and_join, and_ones _ 20 6 (by decide), and_ones _ 8 6 (by decide)]

theorem mask_03F03F80 (w : W32) : (w &&& 0x03F03F80#32 = 0#32) ↔ fld w 20 6 = 0#6 ∧ fld w 7 7 = 0#7 := by
  rw [show (0x03F03F80#32 : W32) = ones 20 6 ||| (ones 7 7) by decide, and_join, and_ones _ 20 6 (by decide), and_ones _ 7 7 (by decide)]

theorem mask_03F03FE0 (w : W32) : (w &&& 0x03F03FE0#32 = 0#32) ↔ fld w 20 6 = 0#6 ∧ fld w 5 9 = 0#9 := by
  rw [show (0x03F03FE0#32 : W32) = ones 20 6 ||| (ones 5 9) by decide, and_join, and_ones _ 20 6 (by decide), and_ones _ 5 9 (by decide)]

theorem mask_03F03FFE (w : W32) : (w &&& 0x03F03FFE#32 = 0#32) ↔ fld w 20 6 = 0#6 ∧ fld w 1 13 = 0#13 := by
  rw [show (0x03F03FFE#32 : W32) = ones 20 6 ||| (ones 1 13) by decide, and_join, and_ones _ 20 6 (by decide), and_ones _ 1 13 (by decide)]

theorem mask_03F03FFF (w : W32) : (w &&& 0x03F03FFF#32 = 0#32) ↔ fld w 20 6 = 0#6 ∧ fld w 0 14 = 0#14 := by
  rw [show (0x03F03FFF#32 : W32) = ones 20 6 ||| (ones 0 14) by decide, and_join, and_ones _ 20 6 (by decide), and_ones _ 0 14 (by decide)]

theorem mask_03FFF800 (w : W32) : (w &&& 0x03FFF800#32 = 0#32) ↔ fld w 11 15 = 0#15 := by
  rw [show (0x03FFF800#32 : W32) = ones 11 15 by decide, and_ones _ 11 15 (by decide)]

theorem mask_03FFFF00 (w : W32) : (w &&& 0x03FFFF00#32 = 0#32) ↔ fld w 8 18 = 0#18 := by
  rw [show (0x03FFFF00#32 : W32) = ones 8 18 by decide, and_ones _ 8 18 (by decide)]

theorem mask_03FFFFE0 (w : W32) : (w &&& 0x03FFFFE0#32 = 0#32) ↔ fld w 5 21 = 0#21 := by
  rw [show (0x03FFFFE0#32 : W32) = ones 5 21 by decide, and_ones _ 5 21 (by decide)]

theorem mask_03FFFFF8 (w : W32) : (w &&& 0x03FFFFF8#32 = 0#32) ↔ fld w 3 23 = 0#23 := by
  rw [show (0x03FFFFF8#32 : W32) = ones 3 23 by decide, and_ones _ 3 23 (by decide)]

theorem mask_03FFFFFF (w : W32) : (w &&& 0x03FFFFFF#32 = 0#32) ↔ fld w 0 26 = 0#26 := by
  rw [show (0x03FFFFFF#32 : W32) = ones 0 26 by decide, and_ones _ 0 26 (by decide)]

/-! ### The decoder reads back what the encoder writes -/

theorem read_sadd (d : BitVec 6) (a : BitVec 6) (b : BitVec 6) (w1 : W32) :
    isSX (0x01#6 ++ d ++ a ++ b ++ 0#8) = false ∧ decodeScalar (0x01#6 ++ d ++ a ++ b ++ 0#8) w1 = .ok (.sadd d a b) := by
  have e0 : fld (0x01#6 ++ d ++ a ++ b ++ 0#8) 26 6 = 0x01#6 := by rw [fld, cat_hi _ _ _ _ (by decide), cat_hi _ _ _ _ (by decide), cat_hi _ _ _ _ (by decide), cat_hi _ _ _ _ (by decide)]; exact rfl
  have e1 : fld (0x01#6 ++ d ++ a ++ b ++ 0#8) 0 8 = 0#8 := by rw [fld, cat_lo _ _ _ _ (by decide)]; exact rfl
  have f0 : fld (0x01#6 ++ d ++ a ++ b ++ 0#8) 20 6 = d := by rw [fld, cat_hi _ _ _ _ (by decide), cat_hi _ _ _ _ (by decide), cat_hi _ _ _ _ (by decide), cat_lo _ _ _ _ (by decide)]; exact BitVec.extractLsb'_eq_self
  have f1 : fld (0x01#6 ++ d ++ a ++ b ++ 0#8) 14 6 = a := by rw [fld, cat_hi _ _ _ _ (by decide), cat_hi _ _ _ _ (by decide), cat_lo _ _ _ _ (by decide)]; exact BitVec.extractLsb'_eq_self
  have f2 : fld (0x01#6 ++ d ++ a ++ b ++ 0#8) 8 6 = b := by rw [fld, cat_hi _ _ _ _ (by decide), cat_lo _ _ _ _ (by decide)]; exact BitVec.extractLsb'_eq_self
  refine ⟨by rw [isSX, e0]; rfl, ?_⟩
  delta decodeScalar
  rw [e0, e1, f0, f1, f2]
  rfl

theorem read_ssub (d : BitVec 6) (a : BitVec 6) (b : BitVec 6) (w1 : W32) :
    isSX (0x01#6 ++ d ++ a ++ b ++ 1#8) = false ∧ decodeScalar (0x01#6 ++ d ++ a ++ b ++ 1#8) w1 = .ok (.ssub d a b) := by
  have e0 : fld (0x01#6 ++ d ++ a ++ b ++ 1#8) 26 6 = 0x01#6 := by rw [fld, cat_hi _ _ _ _ (by decide), cat_hi _ _ _ _ (by decide), cat_hi _ _ _ _ (by decide), cat_hi _ _ _ _ (by decide)]; exact rfl
  have e1 : fld (0x01#6 ++ d ++ a ++ b ++ 1#8) 0 8 = 1#8 := by rw [fld, cat_lo _ _ _ _ (by decide)]; exact rfl
  have f0 : fld (0x01#6 ++ d ++ a ++ b ++ 1#8) 20 6 = d := by rw [fld, cat_hi _ _ _ _ (by decide), cat_hi _ _ _ _ (by decide), cat_hi _ _ _ _ (by decide), cat_lo _ _ _ _ (by decide)]; exact BitVec.extractLsb'_eq_self
  have f1 : fld (0x01#6 ++ d ++ a ++ b ++ 1#8) 14 6 = a := by rw [fld, cat_hi _ _ _ _ (by decide), cat_hi _ _ _ _ (by decide), cat_lo _ _ _ _ (by decide)]; exact BitVec.extractLsb'_eq_self
  have f2 : fld (0x01#6 ++ d ++ a ++ b ++ 1#8) 8 6 = b := by rw [fld, cat_hi _ _ _ _ (by decide), cat_lo _ _ _ _ (by decide)]; exact BitVec.extractLsb'_eq_self
  refine ⟨by rw [isSX, e0]; rfl, ?_⟩
  delta decodeScalar
  rw [e0, e1, f0, f1, f2]
  rfl

theorem read_smul (d : BitVec 6) (a : BitVec 6) (b : BitVec 6) (w1 : W32) :
    isSX (0x01#6 ++ d ++ a ++ b ++ 2#8) = false ∧ decodeScalar (0x01#6 ++ d ++ a ++ b ++ 2#8) w1 = .ok (.smul d a b) := by
  have e0 : fld (0x01#6 ++ d ++ a ++ b ++ 2#8) 26 6 = 0x01#6 := by rw [fld, cat_hi _ _ _ _ (by decide), cat_hi _ _ _ _ (by decide), cat_hi _ _ _ _ (by decide), cat_hi _ _ _ _ (by decide)]; exact rfl
  have e1 : fld (0x01#6 ++ d ++ a ++ b ++ 2#8) 0 8 = 2#8 := by rw [fld, cat_lo _ _ _ _ (by decide)]; exact rfl
  have f0 : fld (0x01#6 ++ d ++ a ++ b ++ 2#8) 20 6 = d := by rw [fld, cat_hi _ _ _ _ (by decide), cat_hi _ _ _ _ (by decide), cat_hi _ _ _ _ (by decide), cat_lo _ _ _ _ (by decide)]; exact BitVec.extractLsb'_eq_self
  have f1 : fld (0x01#6 ++ d ++ a ++ b ++ 2#8) 14 6 = a := by rw [fld, cat_hi _ _ _ _ (by decide), cat_hi _ _ _ _ (by decide), cat_lo _ _ _ _ (by decide)]; exact BitVec.extractLsb'_eq_self
  have f2 : fld (0x01#6 ++ d ++ a ++ b ++ 2#8) 8 6 = b := by rw [fld, cat_hi _ _ _ _ (by decide), cat_lo _ _ _ _ (by decide)]; exact BitVec.extractLsb'_eq_self
  refine ⟨by rw [isSX, e0]; rfl, ?_⟩
  delta decodeScalar
  rw [e0, e1, f0, f1, f2]
  rfl

theorem read_smulh (d : BitVec 6) (a : BitVec 6) (b : BitVec 6) (w1 : W32) :
    isSX (0x01#6 ++ d ++ a ++ b ++ 3#8) = false ∧ decodeScalar (0x01#6 ++ d ++ a ++ b ++ 3#8) w1 = .ok (.smulh d a b) := by
  have e0 : fld (0x01#6 ++ d ++ a ++ b ++ 3#8) 26 6 = 0x01#6 := by rw [fld, cat_hi _ _ _ _ (by decide), cat_hi _ _ _ _ (by decide), cat_hi _ _ _ _ (by decide), cat_hi _ _ _ _ (by decide)]; exact rfl
  have e1 : fld (0x01#6 ++ d ++ a ++ b ++ 3#8) 0 8 = 3#8 := by rw [fld, cat_lo _ _ _ _ (by decide)]; exact rfl
  have f0 : fld (0x01#6 ++ d ++ a ++ b ++ 3#8) 20 6 = d := by rw [fld, cat_hi _ _ _ _ (by decide), cat_hi _ _ _ _ (by decide), cat_hi _ _ _ _ (by decide), cat_lo _ _ _ _ (by decide)]; exact BitVec.extractLsb'_eq_self
  have f1 : fld (0x01#6 ++ d ++ a ++ b ++ 3#8) 14 6 = a := by rw [fld, cat_hi _ _ _ _ (by decide), cat_hi _ _ _ _ (by decide), cat_lo _ _ _ _ (by decide)]; exact BitVec.extractLsb'_eq_self
  have f2 : fld (0x01#6 ++ d ++ a ++ b ++ 3#8) 8 6 = b := by rw [fld, cat_hi _ _ _ _ (by decide), cat_lo _ _ _ _ (by decide)]; exact BitVec.extractLsb'_eq_self
  refine ⟨by rw [isSX, e0]; rfl, ?_⟩
  delta decodeScalar
  rw [e0, e1, f0, f1, f2]
  rfl

theorem read_smulhn (d : BitVec 6) (a : BitVec 6) (b : BitVec 6) (w1 : W32) :
    isSX (0x01#6 ++ d ++ a ++ b ++ 4#8) = false ∧ decodeScalar (0x01#6 ++ d ++ a ++ b ++ 4#8) w1 = .ok (.smulhn d a b) := by
  have e0 : fld (0x01#6 ++ d ++ a ++ b ++ 4#8) 26 6 = 0x01#6 := by rw [fld, cat_hi _ _ _ _ (by decide), cat_hi _ _ _ _ (by decide), cat_hi _ _ _ _ (by decide), cat_hi _ _ _ _ (by decide)]; exact rfl
  have e1 : fld (0x01#6 ++ d ++ a ++ b ++ 4#8) 0 8 = 4#8 := by rw [fld, cat_lo _ _ _ _ (by decide)]; exact rfl
  have f0 : fld (0x01#6 ++ d ++ a ++ b ++ 4#8) 20 6 = d := by rw [fld, cat_hi _ _ _ _ (by decide), cat_hi _ _ _ _ (by decide), cat_hi _ _ _ _ (by decide), cat_lo _ _ _ _ (by decide)]; exact BitVec.extractLsb'_eq_self
  have f1 : fld (0x01#6 ++ d ++ a ++ b ++ 4#8) 14 6 = a := by rw [fld, cat_hi _ _ _ _ (by decide), cat_hi _ _ _ _ (by decide), cat_lo _ _ _ _ (by decide)]; exact BitVec.extractLsb'_eq_self
  have f2 : fld (0x01#6 ++ d ++ a ++ b ++ 4#8) 8 6 = b := by rw [fld, cat_hi _ _ _ _ (by decide), cat_lo _ _ _ _ (by decide)]; exact BitVec.extractLsb'_eq_self
  refine ⟨by rw [isSX, e0]; rfl, ?_⟩
  delta decodeScalar
  rw [e0, e1, f0, f1, f2]
  rfl

theorem read_sand (d : BitVec 6) (a : BitVec 6) (b : BitVec 6) (w1 : W32) :
    isSX (0x01#6 ++ d ++ a ++ b ++ 5#8) = false ∧ decodeScalar (0x01#6 ++ d ++ a ++ b ++ 5#8) w1 = .ok (.sand d a b) := by
  have e0 : fld (0x01#6 ++ d ++ a ++ b ++ 5#8) 26 6 = 0x01#6 := by rw [fld, cat_hi _ _ _ _ (by decide), cat_hi _ _ _ _ (by decide), cat_hi _ _ _ _ (by decide), cat_hi _ _ _ _ (by decide)]; exact rfl
  have e1 : fld (0x01#6 ++ d ++ a ++ b ++ 5#8) 0 8 = 5#8 := by rw [fld, cat_lo _ _ _ _ (by decide)]; exact rfl
  have f0 : fld (0x01#6 ++ d ++ a ++ b ++ 5#8) 20 6 = d := by rw [fld, cat_hi _ _ _ _ (by decide), cat_hi _ _ _ _ (by decide), cat_hi _ _ _ _ (by decide), cat_lo _ _ _ _ (by decide)]; exact BitVec.extractLsb'_eq_self
  have f1 : fld (0x01#6 ++ d ++ a ++ b ++ 5#8) 14 6 = a := by rw [fld, cat_hi _ _ _ _ (by decide), cat_hi _ _ _ _ (by decide), cat_lo _ _ _ _ (by decide)]; exact BitVec.extractLsb'_eq_self
  have f2 : fld (0x01#6 ++ d ++ a ++ b ++ 5#8) 8 6 = b := by rw [fld, cat_hi _ _ _ _ (by decide), cat_lo _ _ _ _ (by decide)]; exact BitVec.extractLsb'_eq_self
  refine ⟨by rw [isSX, e0]; rfl, ?_⟩
  delta decodeScalar
  rw [e0, e1, f0, f1, f2]
  rfl

theorem read_sor (d : BitVec 6) (a : BitVec 6) (b : BitVec 6) (w1 : W32) :
    isSX (0x01#6 ++ d ++ a ++ b ++ 6#8) = false ∧ decodeScalar (0x01#6 ++ d ++ a ++ b ++ 6#8) w1 = .ok (.sor d a b) := by
  have e0 : fld (0x01#6 ++ d ++ a ++ b ++ 6#8) 26 6 = 0x01#6 := by rw [fld, cat_hi _ _ _ _ (by decide), cat_hi _ _ _ _ (by decide), cat_hi _ _ _ _ (by decide), cat_hi _ _ _ _ (by decide)]; exact rfl
  have e1 : fld (0x01#6 ++ d ++ a ++ b ++ 6#8) 0 8 = 6#8 := by rw [fld, cat_lo _ _ _ _ (by decide)]; exact rfl
  have f0 : fld (0x01#6 ++ d ++ a ++ b ++ 6#8) 20 6 = d := by rw [fld, cat_hi _ _ _ _ (by decide), cat_hi _ _ _ _ (by decide), cat_hi _ _ _ _ (by decide), cat_lo _ _ _ _ (by decide)]; exact BitVec.extractLsb'_eq_self
  have f1 : fld (0x01#6 ++ d ++ a ++ b ++ 6#8) 14 6 = a := by rw [fld, cat_hi _ _ _ _ (by decide), cat_hi _ _ _ _ (by decide), cat_lo _ _ _ _ (by decide)]; exact BitVec.extractLsb'_eq_self
  have f2 : fld (0x01#6 ++ d ++ a ++ b ++ 6#8) 8 6 = b := by rw [fld, cat_hi _ _ _ _ (by decide), cat_lo _ _ _ _ (by decide)]; exact BitVec.extractLsb'_eq_self
  refine ⟨by rw [isSX, e0]; rfl, ?_⟩
  delta decodeScalar
  rw [e0, e1, f0, f1, f2]
  rfl

theorem read_sxor (d : BitVec 6) (a : BitVec 6) (b : BitVec 6) (w1 : W32) :
    isSX (0x01#6 ++ d ++ a ++ b ++ 7#8) = false ∧ decodeScalar (0x01#6 ++ d ++ a ++ b ++ 7#8) w1 = .ok (.sxor d a b) := by
  have e0 : fld (0x01#6 ++ d ++ a ++ b ++ 7#8) 26 6 = 0x01#6 := by rw [fld, cat_hi _ _ _ _ (by decide), cat_hi _ _ _ _ (by decide), cat_hi _ _ _ _ (by decide), cat_hi _ _ _ _ (by decide)]; exact rfl
  have e1 : fld (0x01#6 ++ d ++ a ++ b ++ 7#8) 0 8 = 7#8 := by rw [fld, cat_lo _ _ _ _ (by decide)]; exact rfl
  have f0 : fld (0x01#6 ++ d ++ a ++ b ++ 7#8) 20 6 = d := by rw [fld, cat_hi _ _ _ _ (by decide), cat_hi _ _ _ _ (by decide), cat_hi _ _ _ _ (by decide), cat_lo _ _ _ _ (by decide)]; exact BitVec.extractLsb'_eq_self
  have f1 : fld (0x01#6 ++ d ++ a ++ b ++ 7#8) 14 6 = a := by rw [fld, cat_hi _ _ _ _ (by decide), cat_hi _ _ _ _ (by decide), cat_lo _ _ _ _ (by decide)]; exact BitVec.extractLsb'_eq_self
  have f2 : fld (0x01#6 ++ d ++ a ++ b ++ 7#8) 8 6 = b := by rw [fld, cat_hi _ _ _ _ (by decide), cat_lo _ _ _ _ (by decide)]; exact BitVec.extractLsb'_eq_self
  refine ⟨by rw [isSX, e0]; rfl, ?_⟩
  delta decodeScalar
  rw [e0, e1, f0, f1, f2]
  rfl

theorem read_sshl (d : BitVec 6) (a : BitVec 6) (b : BitVec 6) (w1 : W32) :
    isSX (0x01#6 ++ d ++ a ++ b ++ 8#8) = false ∧ decodeScalar (0x01#6 ++ d ++ a ++ b ++ 8#8) w1 = .ok (.sshl d a b) := by
  have e0 : fld (0x01#6 ++ d ++ a ++ b ++ 8#8) 26 6 = 0x01#6 := by rw [fld, cat_hi _ _ _ _ (by decide), cat_hi _ _ _ _ (by decide), cat_hi _ _ _ _ (by decide), cat_hi _ _ _ _ (by decide)]; exact rfl
  have e1 : fld (0x01#6 ++ d ++ a ++ b ++ 8#8) 0 8 = 8#8 := by rw [fld, cat_lo _ _ _ _ (by decide)]; exact rfl
  have f0 : fld (0x01#6 ++ d ++ a ++ b ++ 8#8) 20 6 = d := by rw [fld, cat_hi _ _ _ _ (by decide), cat_hi _ _ _ _ (by decide), cat_hi _ _ _ _ (by decide), cat_lo _ _ _ _ (by decide)]; exact BitVec.extractLsb'_eq_self
  have f1 : fld (0x01#6 ++ d ++ a ++ b ++ 8#8) 14 6 = a := by rw [fld, cat_hi _ _ _ _ (by decide), cat_hi _ _ _ _ (by decide), cat_lo _ _ _ _ (by decide)]; exact BitVec.extractLsb'_eq_self
  have f2 : fld (0x01#6 ++ d ++ a ++ b ++ 8#8) 8 6 = b := by rw [fld, cat_hi _ _ _ _ (by decide), cat_lo _ _ _ _ (by decide)]; exact BitVec.extractLsb'_eq_self
  refine ⟨by rw [isSX, e0]; rfl, ?_⟩
  delta decodeScalar
  rw [e0, e1, f0, f1, f2]
  rfl

theorem read_sshr (d : BitVec 6) (a : BitVec 6) (b : BitVec 6) (w1 : W32) :
    isSX (0x01#6 ++ d ++ a ++ b ++ 9#8) = false ∧ decodeScalar (0x01#6 ++ d ++ a ++ b ++ 9#8) w1 = .ok (.sshr d a b) := by
  have e0 : fld (0x01#6 ++ d ++ a ++ b ++ 9#8) 26 6 = 0x01#6 := by rw [fld, cat_hi _ _ _ _ (by decide), cat_hi _ _ _ _ (by decide), cat_hi _ _ _ _ (by decide), cat_hi _ _ _ _ (by decide)]; exact rfl
  have e1 : fld (0x01#6 ++ d ++ a ++ b ++ 9#8) 0 8 = 9#8 := by rw [fld, cat_lo _ _ _ _ (by decide)]; exact rfl
  have f0 : fld (0x01#6 ++ d ++ a ++ b ++ 9#8) 20 6 = d := by rw [fld, cat_hi _ _ _ _ (by decide), cat_hi _ _ _ _ (by decide), cat_hi _ _ _ _ (by decide), cat_lo _ _ _ _ (by decide)]; exact BitVec.extractLsb'_eq_self
  have f1 : fld (0x01#6 ++ d ++ a ++ b ++ 9#8) 14 6 = a := by rw [fld, cat_hi _ _ _ _ (by decide), cat_hi _ _ _ _ (by decide), cat_lo _ _ _ _ (by decide)]; exact BitVec.extractLsb'_eq_self
  have f2 : fld (0x01#6 ++ d ++ a ++ b ++ 9#8) 8 6 = b := by rw [fld, cat_hi _ _ _ _ (by decide), cat_lo _ _ _ _ (by decide)]; exact BitVec.extractLsb'_eq_self
  refine ⟨by rw [isSX, e0]; rfl, ?_⟩
  delta decodeScalar
  rw [e0, e1, f0, f1, f2]
  rfl

theorem read_ssra (d : BitVec 6) (a : BitVec 6) (b : BitVec 6) (w1 : W32) :
    isSX (0x01#6 ++ d ++ a ++ b ++ 10#8) = false ∧ decodeScalar (0x01#6 ++ d ++ a ++ b ++ 10#8) w1 = .ok (.ssra d a b) := by
  have e0 : fld (0x01#6 ++ d ++ a ++ b ++ 10#8) 26 6 = 0x01#6 := by rw [fld, cat_hi _ _ _ _ (by decide), cat_hi _ _ _ _ (by decide), cat_hi _ _ _ _ (by decide), cat_hi _ _ _ _ (by decide)]; exact rfl
  have e1 : fld (0x01#6 ++ d ++ a ++ b ++ 10#8) 0 8 = 10#8 := by rw [fld, cat_lo _ _ _ _ (by decide)]; exact rfl
  have f0 : fld (0x01#6 ++ d ++ a ++ b ++ 10#8) 20 6 = d := by rw [fld, cat_hi _ _ _ _ (by decide), cat_hi _ _ _ _ (by decide), cat_hi _ _ _ _ (by decide), cat_lo _ _ _ _ (by decide)]; exact BitVec.extractLsb'_eq_self
  have f1 : fld (0x01#6 ++ d ++ a ++ b ++ 10#8) 14 6 = a := by rw [fld, cat_hi _ _ _ _ (by decide), cat_hi _ _ _ _ (by decide), cat_lo _ _ _ _ (by decide)]; exact BitVec.extractLsb'_eq_self
  have f2 : fld (0x01#6 ++ d ++ a ++ b ++ 10#8) 8 6 = b := by rw [fld, cat_hi _ _ _ _ (by decide), cat_lo _ _ _ _ (by decide)]; exact BitVec.extractLsb'_eq_self
  refine ⟨by rw [isSX, e0]; rfl, ?_⟩
  delta decodeScalar
  rw [e0, e1, f0, f1, f2]
  rfl

theorem read_smin (d : BitVec 6) (a : BitVec 6) (b : BitVec 6) (w1 : W32) :
    isSX (0x01#6 ++ d ++ a ++ b ++ 11#8) = false ∧ decodeScalar (0x01#6 ++ d ++ a ++ b ++ 11#8) w1 = .ok (.smin d a b) := by
  have e0 : fld (0x01#6 ++ d ++ a ++ b ++ 11#8) 26 6 = 0x01#6 := by rw [fld, cat_hi _ _ _ _ (by decide), cat_hi _ _ _ _ (by decide), cat_hi _ _ _ _ (by decide), cat_hi _ _ _ _ (by decide)]; exact rfl
  have e1 : fld (0x01#6 ++ d ++ a ++ b ++ 11#8) 0 8 = 11#8 := by rw [fld, cat_lo _ _ _ _ (by decide)]; exact rfl
  have f0 : fld (0x01#6 ++ d ++ a ++ b ++ 11#8) 20 6 = d := by rw [fld, cat_hi _ _ _ _ (by decide), cat_hi _ _ _ _ (by decide), cat_hi _ _ _ _ (by decide), cat_lo _ _ _ _ (by decide)]; exact BitVec.extractLsb'_eq_self
  have f1 : fld (0x01#6 ++ d ++ a ++ b ++ 11#8) 14 6 = a := by rw [fld, cat_hi _ _ _ _ (by decide), cat_hi _ _ _ _ (by decide), cat_lo _ _ _ _ (by decide)]; exact BitVec.extractLsb'_eq_self
  have f2 : fld (0x01#6 ++ d ++ a ++ b ++ 11#8) 8 6 = b := by rw [fld, cat_hi _ _ _ _ (by decide), cat_lo _ _ _ _ (by decide)]; exact BitVec.extractLsb'_eq_self
  refine ⟨by rw [isSX, e0]; rfl, ?_⟩
  delta decodeScalar
  rw [e0, e1, f0, f1, f2]
  rfl

theorem read_smax (d : BitVec 6) (a : BitVec 6) (b : BitVec 6) (w1 : W32) :
    isSX (0x01#6 ++ d ++ a ++ b ++ 12#8) = false ∧ decodeScalar (0x01#6 ++ d ++ a ++ b ++ 12#8) w1 = .ok (.smax d a b) := by
  have e0 : fld (0x01#6 ++ d ++ a ++ b ++ 12#8) 26 6 = 0x01#6 := by rw [fld, cat_hi _ _ _ _ (by decide), cat_hi _ _ _ _ (by decide), cat_hi _ _ _ _ (by decide), cat_hi _ _ _ _ (by decide)]; exact rfl
  have e1 : fld (0x01#6 ++ d ++ a ++ b ++ 12#8) 0 8 = 12#8 := by rw [fld, cat_lo _ _ _ _ (by decide)]; exact rfl
  have f0 : fld (0x01#6 ++ d ++ a ++ b ++ 12#8) 20 6 = d := by rw [fld, cat_hi _ _ _ _ (by decide), cat_hi _ _ _ _ (by decide), cat_hi _ _ _ _ (by decide), cat_lo _ _ _ _ (by decide)]; exact BitVec.extractLsb'_eq_self
  have f1 : fld (0x01#6 ++ d ++ a ++ b ++ 12#8) 14 6 = a := by rw [fld, cat_hi _ _ _ _ (by decide), cat_hi _ _ _ _ (by decide), cat_lo _ _ _ _ (by decide)]; exact BitVec.extractLsb'_eq_self
  have f2 : fld (0x01#6 ++ d ++ a ++ b ++ 12#8) 8 6 = b := by rw [fld, cat_hi _ _ _ _ (by decide), cat_lo _ _ _ _ (by decide)]; exact BitVec.extractLsb'_eq_self
  refine ⟨by rw [isSX, e0]; rfl, ?_⟩
  delta decodeScalar
  rw [e0, e1, f0, f1, f2]
  rfl

theorem read_sminn (d : BitVec 6) (a : BitVec 6) (b : BitVec 6) (w1 : W32) :
    isSX (0x01#6 ++ d ++ a ++ b ++ 13#8) = false ∧ decodeScalar (0x01#6 ++ d ++ a ++ b ++ 13#8) w1 = .ok (.sminn d a b) := by
  have e0 : fld (0x01#6 ++ d ++ a ++ b ++ 13#8) 26 6 = 0x01#6 := by rw [fld, cat_hi _ _ _ _ (by decide), cat_hi _ _ _ _ (by decide), cat_hi _ _ _ _ (by decide), cat_hi _ _ _ _ (by decide)]; exact rfl
  have e1 : fld (0x01#6 ++ d ++ a ++ b ++ 13#8) 0 8 = 13#8 := by rw [fld, cat_lo _ _ _ _ (by decide)]; exact rfl
  have f0 : fld (0x01#6 ++ d ++ a ++ b ++ 13#8) 20 6 = d := by rw [fld, cat_hi _ _ _ _ (by decide), cat_hi _ _ _ _ (by decide), cat_hi _ _ _ _ (by decide), cat_lo _ _ _ _ (by decide)]; exact BitVec.extractLsb'_eq_self
  have f1 : fld (0x01#6 ++ d ++ a ++ b ++ 13#8) 14 6 = a := by rw [fld, cat_hi _ _ _ _ (by decide), cat_hi _ _ _ _ (by decide), cat_lo _ _ _ _ (by decide)]; exact BitVec.extractLsb'_eq_self
  have f2 : fld (0x01#6 ++ d ++ a ++ b ++ 13#8) 8 6 = b := by rw [fld, cat_hi _ _ _ _ (by decide), cat_lo _ _ _ _ (by decide)]; exact BitVec.extractLsb'_eq_self
  refine ⟨by rw [isSX, e0]; rfl, ?_⟩
  delta decodeScalar
  rw [e0, e1, f0, f1, f2]
  rfl

theorem read_smaxn (d : BitVec 6) (a : BitVec 6) (b : BitVec 6) (w1 : W32) :
    isSX (0x01#6 ++ d ++ a ++ b ++ 14#8) = false ∧ decodeScalar (0x01#6 ++ d ++ a ++ b ++ 14#8) w1 = .ok (.smaxn d a b) := by
  have e0 : fld (0x01#6 ++ d ++ a ++ b ++ 14#8) 26 6 = 0x01#6 := by rw [fld, cat_hi _ _ _ _ (by decide), cat_hi _ _ _ _ (by decide), cat_hi _ _ _ _ (by decide), cat_hi _ _ _ _ (by decide)]; exact rfl
  have e1 : fld (0x01#6 ++ d ++ a ++ b ++ 14#8) 0 8 = 14#8 := by rw [fld, cat_lo _ _ _ _ (by decide)]; exact rfl
  have f0 : fld (0x01#6 ++ d ++ a ++ b ++ 14#8) 20 6 = d := by rw [fld, cat_hi _ _ _ _ (by decide), cat_hi _ _ _ _ (by decide), cat_hi _ _ _ _ (by decide), cat_lo _ _ _ _ (by decide)]; exact BitVec.extractLsb'_eq_self
  have f1 : fld (0x01#6 ++ d ++ a ++ b ++ 14#8) 14 6 = a := by rw [fld, cat_hi _ _ _ _ (by decide), cat_hi _ _ _ _ (by decide), cat_lo _ _ _ _ (by decide)]; exact BitVec.extractLsb'_eq_self
  have f2 : fld (0x01#6 ++ d ++ a ++ b ++ 14#8) 8 6 = b := by rw [fld, cat_hi _ _ _ _ (by decide), cat_lo _ _ _ _ (by decide)]; exact BitVec.extractLsb'_eq_self
  refine ⟨by rw [isSX, e0]; rfl, ?_⟩
  delta decodeScalar
  rw [e0, e1, f0, f1, f2]
  rfl

theorem read_sdiv (d : BitVec 6) (a : BitVec 6) (b : BitVec 6) (w1 : W32) :
    isSX (0x01#6 ++ d ++ a ++ b ++ 15#8) = false ∧ decodeScalar (0x01#6 ++ d ++ a ++ b ++ 15#8) w1 = .ok (.sdiv d a b) := by
  have e0 : fld (0x01#6 ++ d ++ a ++ b ++ 15#8) 26 6 = 0x01#6 := by rw [fld, cat_hi _ _ _ _ (by decide), cat_hi _ _ _ _ (by decide), cat_hi _ _ _ _ (by decide), cat_hi _ _ _ _ (by decide)]; exact rfl
  have e1 : fld (0x01#6 ++ d ++ a ++ b ++ 15#8) 0 8 = 15#8 := by rw [fld, cat_lo _ _ _ _ (by decide)]; exact rfl
  have f0 : fld (0x01#6 ++ d ++ a ++ b ++ 15#8) 20 6 = d := by rw [fld, cat_hi _ _ _ _ (by decide), cat_hi _ _ _ _ (by decide), cat_hi _ _ _ _ (by decide), cat_lo _ _ _ _ (by decide)]; exact BitVec.extractLsb'_eq_self
  have f1 : fld (0x01#6 ++ d ++ a ++ b ++ 15#8) 14 6 = a := by rw [fld, cat_hi _ _ _ _ (by decide), cat_hi _ _ _ _ (by decide), cat_lo _ _ _ _ (by decide)]; exact BitVec.extractLsb'_eq_self
  have f2 : fld (0x01#6 ++ d ++ a ++ b ++ 15#8) 8 6 = b := by rw [fld, cat_hi _ _ _ _ (by decide), cat_lo _ _ _ _ (by decide)]; exact BitVec.extractLsb'_eq_self
  refine ⟨by rw [isSX, e0]; rfl, ?_⟩
  delta decodeScalar
  rw [e0, e1, f0, f1, f2]
  rfl

theorem read_sdivn (d : BitVec 6) (a : BitVec 6) (b : BitVec 6) (w1 : W32) :
    isSX (0x01#6 ++ d ++ a ++ b ++ 16#8) = false ∧ decodeScalar (0x01#6 ++ d ++ a ++ b ++ 16#8) w1 = .ok (.sdivn d a b) := by
  have e0 : fld (0x01#6 ++ d ++ a ++ b ++ 16#8) 26 6 = 0x01#6 := by rw [fld, cat_hi _ _ _ _ (by decide), cat_hi _ _ _ _ (by decide), cat_hi _ _ _ _ (by decide), cat_hi _ _ _ _ (by decide)]; exact rfl
  have e1 : fld (0x01#6 ++ d ++ a ++ b ++ 16#8) 0 8 = 16#8 := by rw [fld, cat_lo _ _ _ _ (by decide)]; exact rfl
  have f0 : fld (0x01#6 ++ d ++ a ++ b ++ 16#8) 20 6 = d := by rw [fld, cat_hi _ _ _ _ (by decide), cat_hi _ _ _ _ (by decide), cat_hi _ _ _ _ (by decide), cat_lo _ _ _ _ (by decide)]; exact BitVec.extractLsb'_eq_self
  have f1 : fld (0x01#6 ++ d ++ a ++ b ++ 16#8) 14 6 = a := by rw [fld, cat_hi _ _ _ _ (by decide), cat_hi _ _ _ _ (by decide), cat_lo _ _ _ _ (by decide)]; exact BitVec.extractLsb'_eq_self
  have f2 : fld (0x01#6 ++ d ++ a ++ b ++ 16#8) 8 6 = b := by rw [fld, cat_hi _ _ _ _ (by decide), cat_lo _ _ _ _ (by decide)]; exact BitVec.extractLsb'_eq_self
  refine ⟨by rw [isSX, e0]; rfl, ?_⟩
  delta decodeScalar
  rw [e0, e1, f0, f1, f2]
  rfl

theorem read_srem (d : BitVec 6) (a : BitVec 6) (b : BitVec 6) (w1 : W32) :
    isSX (0x01#6 ++ d ++ a ++ b ++ 17#8) = false ∧ decodeScalar (0x01#6 ++ d ++ a ++ b ++ 17#8) w1 = .ok (.srem d a b) := by
  have e0 : fld (0x01#6 ++ d ++ a ++ b ++ 17#8) 26 6 = 0x01#6 := by rw [fld, cat_hi _ _ _ _ (by decide), cat_hi _ _ _ _ (by decide), cat_hi _ _ _ _ (by decide), cat_hi _ _ _ _ (by decide)]; exact rfl
  have e1 : fld (0x01#6 ++ d ++ a ++ b ++ 17#8) 0 8 = 17#8 := by rw [fld, cat_lo _ _ _ _ (by decide)]; exact rfl
  have f0 : fld (0x01#6 ++ d ++ a ++ b ++ 17#8) 20 6 = d := by rw [fld, cat_hi _ _ _ _ (by decide), cat_hi _ _ _ _ (by decide), cat_hi _ _ _ _ (by decide), cat_lo _ _ _ _ (by decide)]; exact BitVec.extractLsb'_eq_self
  have f1 : fld (0x01#6 ++ d ++ a ++ b ++ 17#8) 14 6 = a := by rw [fld, cat_hi _ _ _ _ (by decide), cat_hi _ _ _ _ (by decide), cat_lo _ _ _ _ (by decide)]; exact BitVec.extractLsb'_eq_self
  have f2 : fld (0x01#6 ++ d ++ a ++ b ++ 17#8) 8 6 = b := by rw [fld, cat_hi _ _ _ _ (by decide), cat_lo _ _ _ _ (by decide)]; exact BitVec.extractLsb'_eq_self
  refine ⟨by rw [isSX, e0]; rfl, ?_⟩
  delta decodeScalar
  rw [e0, e1, f0, f1, f2]
  rfl

theorem read_sremn (d : BitVec 6) (a : BitVec 6) (b : BitVec 6) (w1 : W32) :
    isSX (0x01#6 ++ d ++ a ++ b ++ 18#8) = false ∧ decodeScalar (0x01#6 ++ d ++ a ++ b ++ 18#8) w1 = .ok (.sremn d a b) := by
  have e0 : fld (0x01#6 ++ d ++ a ++ b ++ 18#8) 26 6 = 0x01#6 := by rw [fld, cat_hi _ _ _ _ (by decide), cat_hi _ _ _ _ (by decide), cat_hi _ _ _ _ (by decide), cat_hi _ _ _ _ (by decide)]; exact rfl
  have e1 : fld (0x01#6 ++ d ++ a ++ b ++ 18#8) 0 8 = 18#8 := by rw [fld, cat_lo _ _ _ _ (by decide)]; exact rfl
  have f0 : fld (0x01#6 ++ d ++ a ++ b ++ 18#8) 20 6 = d := by rw [fld, cat_hi _ _ _ _ (by decide), cat_hi _ _ _ _ (by decide), cat_hi _ _ _ _ (by decide), cat_lo _ _ _ _ (by decide)]; exact BitVec.extractLsb'_eq_self
  have f1 : fld (0x01#6 ++ d ++ a ++ b ++ 18#8) 14 6 = a := by rw [fld, cat_hi _ _ _ _ (by decide), cat_hi _ _ _ _ (by decide), cat_lo _ _ _ _ (by decide)]; exact BitVec.extractLsb'_eq_self
  have f2 : fld (0x01#6 ++ d ++ a ++ b ++ 18#8) 8 6 = b := by rw [fld, cat_hi _ _ _ _ (by decide), cat_lo _ _ _ _ (by decide)]; exact BitVec.extractLsb'_eq_self
  refine ⟨by rw [isSX, e0]; rfl, ?_⟩
  delta decodeScalar
  rw [e0, e1, f0, f1, f2]
  rfl

theorem read_sclz (d : BitVec 6) (a : BitVec 6) (w1 : W32) :
    isSX (0x01#6 ++ d ++ a ++ 19#14) = false ∧ decodeScalar (0x01#6 ++ d ++ a ++ 19#14) w1 = .ok (.sclz d a) := by
  have e0 : fld (0x01#6 ++ d ++ a ++ 19#14) 26 6 = 0x01#6 := by rw [fld, cat_hi _ _ _ _ (by decide), cat_hi _ _ _ _ (by decide), cat_hi _ _ _ _ (by decide)]; exact rfl
  have e1 : fld (0x01#6 ++ d ++ a ++ 19#14) 0 8 = 19#8 := by rw [fld, cat_lo _ _ _ _ (by decide)]; exact rfl
  have f0 : fld (0x01#6 ++ d ++ a ++ 19#14) 20 6 = d := by rw [fld, cat_hi _ _ _ _ (by decide), cat_hi _ _ _ _ (by decide), cat_lo _ _ _ _ (by decide)]; exact BitVec.extractLsb'_eq_self
  have f1 : fld (0x01#6 ++ d ++ a ++ 19#14) 14 6 = a := by rw [fld, cat_hi _ _ _ _ (by decide), cat_lo _ _ _ _ (by decide)]; exact BitVec.extractLsb'_eq_self
  have hm : (0x01#6 ++ d ++ a ++ 19#14) &&& 0x00003F00#32 = 0#32 := (mask_00003F00 _).2 (by rw [fld, cat_lo _ _ _ _ (by decide)]; exact rfl)
  refine ⟨by rw [isSX, e0]; rfl, ?_⟩
  delta decodeScalar
  rw [e0, e1, f0, f1]
  exact if_pos hm

theorem read_spop (d : BitVec 6) (a : BitVec 6) (w1 : W32) :
    isSX (0x01#6 ++ d ++ a ++ 20#14) = false ∧ decodeScalar (0x01#6 ++ d ++ a ++ 20#14) w1 = .ok (.spop d a) := by
  have e0 : fld (0x01#6 ++ d ++ a ++ 20#14) 26 6 = 0x01#6 := by rw [fld, cat_hi _ _ _ _ (by decide), cat_hi _ _ _ _ (by decide), cat_hi _ _ _ _ (by decide)]; exact rfl
  have e1 : fld (0x01#6 ++ d ++ a ++ 20#14) 0 8 = 20#8 := by rw [fld, cat_lo _ _ _ _ (by decide)]; exact rfl
  have f0 : fld (0x01#6 ++ d ++ a ++ 20#14) 20 6 = d := by rw [fld, cat_hi _ _ _ _ (by decide), cat_hi _ _ _ _ (by decide), cat_lo _ _ _ _ (by decide)]; exact BitVec.extractLsb'_eq_self
  have f1 : fld (0x01#6 ++ d ++ a ++ 20#14) 14 6 = a := by rw [fld, cat_hi _ _ _ _ (by decide), cat_lo _ _ _ _ (by decide)]; exact BitVec.extractLsb'_eq_self
  have hm : (0x01#6 ++ d ++ a ++ 20#14) &&& 0x00003F00#32 = 0#32 := (mask_00003F00 _).2 (by rw [fld, cat_lo _ _ _ _ (by decide)]; exact rfl)
  refine ⟨by rw [isSX, e0]; rfl, ?_⟩
  delta decodeScalar
  rw [e0, e1, f0, f1]
  exact if_pos hm

theorem read_saffx (d : BitVec 6) (a : BitVec 6) (b : BitVec 6) (w1 : W32) :
    isSX (0x01#6 ++ d ++ a ++ b ++ 21#8) = false ∧ decodeScalar (0x01#6 ++ d ++ a ++ b ++ 21#8) w1 = .ok (.saffx d a b) := by
  have e0 : fld (0x01#6 ++ d ++ a ++ b ++ 21#8) 26 6 = 0x01#6 := by rw [fld, cat_hi _ _ _ _ (by decide), cat_hi _ _ _ _ (by decide), cat_hi _ _ _ _ (by decide), cat_hi _ _ _ _ (by decide)]; exact rfl
  have e1 : fld (0x01#6 ++ d ++ a ++ b ++ 21#8) 0 8 = 21#8 := by rw [fld, cat_lo _ _ _ _ (by decide)]; exact rfl
  have f0 : fld (0x01#6 ++ d ++ a ++ b ++ 21#8) 20 6 = d := by rw [fld, cat_hi _ _ _ _ (by decide), cat_hi _ _ _ _ (by decide), cat_hi _ _ _ _ (by decide), cat_lo _ _ _ _ (by decide)]; exact BitVec.extractLsb'_eq_self
  have f1 : fld (0x01#6 ++ d ++ a ++ b ++ 21#8) 14 6 = a := by rw [fld, cat_hi _ _ _ _ (by decide), cat_hi _ _ _ _ (by decide), cat_lo _ _ _ _ (by decide)]; exact BitVec.extractLsb'_eq_self
  have f2 : fld (0x01#6 ++ d ++ a ++ b ++ 21#8) 8 6 = b := by rw [fld, cat_hi _ _ _ _ (by decide), cat_lo _ _ _ _ (by decide)]; exact BitVec.extractLsb'_eq_self
  refine ⟨by rw [isSX, e0]; rfl, ?_⟩
  delta decodeScalar
  rw [e0, e1, f0, f1, f2]
  rfl

theorem read_saffy (d : BitVec 6) (a : BitVec 6) (b : BitVec 6) (w1 : W32) :
    isSX (0x01#6 ++ d ++ a ++ b ++ 22#8) = false ∧ decodeScalar (0x01#6 ++ d ++ a ++ b ++ 22#8) w1 = .ok (.saffy d a b) := by
  have e0 : fld (0x01#6 ++ d ++ a ++ b ++ 22#8) 26 6 = 0x01#6 := by rw [fld, cat_hi _ _ _ _ (by decide), cat_hi _ _ _ _ (by decide), cat_hi _ _ _ _ (by decide), cat_hi _ _ _ _ (by decide)]; exact rfl
  have e1 : fld (0x01#6 ++ d ++ a ++ b ++ 22#8) 0 8 = 22#8 := by rw [fld, cat_lo _ _ _ _ (by decide)]; exact rfl
  have f0 : fld (0x01#6 ++ d ++ a ++ b ++ 22#8) 20 6 = d := by rw [fld, cat_hi _ _ _ _ (by decide), cat_hi _ _ _ _ (by decide), cat_hi _ _ _ _ (by decide), cat_lo _ _ _ _ (by decide)]; exact BitVec.extractLsb'_eq_self
  have f1 : fld (0x01#6 ++ d ++ a ++ b ++ 22#8) 14 6 = a := by rw [fld, cat_hi _ _ _ _ (by decide), cat_hi _ _ _ _ (by decide), cat_lo _ _ _ _ (by decide)]; exact BitVec.extractLsb'_eq_self
  have f2 : fld (0x01#6 ++ d ++ a ++ b ++ 22#8) 8 6 = b := by rw [fld, cat_hi _ _ _ _ (by decide), cat_lo _ _ _ _ (by decide)]; exact BitVec.extractLsb'_eq_self
  refine ⟨by rw [isSX, e0]; rfl, ?_⟩
  delta decodeScalar
  rw [e0, e1, f0, f1, f2]
  rfl

theorem read_saffz (d : BitVec 6) (a : BitVec 6) (b : BitVec 6) (w1 : W32) :
    isSX (0x01#6 ++ d ++ a ++ b ++ 23#8) = false ∧ decodeScalar (0x01#6 ++ d ++ a ++ b ++ 23#8) w1 = .ok (.saffz d a b) := by
  have e0 : fld (0x01#6 ++ d ++ a ++ b ++ 23#8) 26 6 = 0x01#6 := by rw [fld, cat_hi _ _ _ _ (by decide), cat_hi _ _ _ _ (by decide), cat_hi _ _ _ _ (by decide), cat_hi _ _ _ _ (by decide)]; exact rfl
  have e1 : fld (0x01#6 ++ d ++ a ++ b ++ 23#8) 0 8 = 23#8 := by rw [fld, cat_lo _ _ _ _ (by decide)]; exact rfl
  have f0 : fld (0x01#6 ++ d ++ a ++ b ++ 23#8) 20 6 = d := by rw [fld, cat_hi _ _ _ _ (by decide), cat_hi _ _ _ _ (by decide), cat_hi _ _ _ _ (by decide), cat_lo _ _ _ _ (by decide)]; exact BitVec.extractLsb'_eq_self
  have f1 : fld (0x01#6 ++ d ++ a ++ b ++ 23#8) 14 6 = a := by rw [fld, cat_hi _ _ _ _ (by decide), cat_hi _ _ _ _ (by decide), cat_lo _ _ _ _ (by decide)]; exact BitVec.extractLsb'_eq_self
  have f2 : fld (0x01#6 ++ d ++ a ++ b ++ 23#8) 8 6 = b := by rw [fld, cat_hi _ _ _ _ (by decide), cat_lo _ _ _ _ (by decide)]; exact BitVec.extractLsb'_eq_self
  refine ⟨by rw [isSX, e0]; rfl, ?_⟩
  delta decodeScalar
  rw [e0, e1, f0, f1, f2]
  rfl

theorem read_saddi (d : BitVec 6) (a : BitVec 6) (i : BitVec 14) (w1 : W32) :
    isSX (0x02#6 ++ d ++ a ++ i) = false ∧ decodeScalar (0x02#6 ++ d ++ a ++ i) w1 = .ok (.saddi d a i) := by
  have e0 : fld (0x02#6 ++ d ++ a ++ i) 26 6 = 0x02#6 := by rw [fld, cat_hi _ _ _ _ (by decide), cat_hi _ _ _ _ (by decide), cat_hi _ _ _ _ (by decide)]; exact rfl
  have f0 : fld (0x02#6 ++ d ++ a ++ i) 20 6 = d := by rw [fld, cat_hi _ _ _ _ (by decide), cat_hi _ _ _ _ (by decide), cat_lo _ _ _ _ (by decide)]; exact BitVec.extractLsb'_eq_self
  have f1 : fld (0x02#6 ++ d ++ a ++ i) 14 6 = a := by rw [fld, cat_hi _ _ _ _ (by decide), cat_lo _ _ _ _ (by decide)]; exact BitVec.extractLsb'_eq_self
  have f2 : fld (0x02#6 ++ d ++ a ++ i) 0 14 = i := by rw [fld, cat_lo _ _ _ _ (by decide)]; exact BitVec.extractLsb'_eq_self
  refine ⟨by rw [isSX, e0]; rfl, ?_⟩
  delta decodeScalar
  rw [e0, f0, f1, f2]
  rfl

theorem read_sandi (d : BitVec 6) (a : BitVec 6) (i : BitVec 14) (w1 : W32) :
    isSX (0x03#6 ++ d ++ a ++ i) = false ∧ decodeScalar (0x03#6 ++ d ++ a ++ i) w1 = .ok (.sandi d a i) := by
  have e0 : fld (0x03#6 ++ d ++ a ++ i) 26 6 = 0x03#6 := by rw [fld, cat_hi _ _ _ _ (by decide), cat_hi _ _ _ _ (by decide), cat_hi _ _ _ _ (by decide)]; exact rfl
  have f0 : fld (0x03#6 ++ d ++ a ++ i) 20 6 = d := by rw [fld, cat_hi _ _ _ _ (by decide), cat_hi _ _ _ _ (by decide), cat_lo _ _ _ _ (by decide)]; exact BitVec.extractLsb'_eq_self
  have f1 : fld (0x03#6 ++ d ++ a ++ i) 14 6 = a := by rw [fld, cat_hi _ _ _ _ (by decide), cat_lo _ _ _ _ (by decide)]; exact BitVec.extractLsb'_eq_self
  have f2 : fld (0x03#6 ++ d ++ a ++ i) 0 14 = i := by rw [fld, cat_lo _ _ _ _ (by decide)]; exact BitVec.extractLsb'_eq_self
  refine ⟨by rw [isSX, e0]; rfl, ?_⟩
  delta decodeScalar
  rw [e0, f0, f1, f2]
  rfl

theorem read_sori (d : BitVec 6) (a : BitVec 6) (i : BitVec 14) (w1 : W32) :
    isSX (0x04#6 ++ d ++ a ++ i) = false ∧ decodeScalar (0x04#6 ++ d ++ a ++ i) w1 = .ok (.sori d a i) := by
  have e0 : fld (0x04#6 ++ d ++ a ++ i) 26 6 = 0x04#6 := by rw [fld, cat_hi _ _ _ _ (by decide), cat_hi _ _ _ _ (by decide), cat_hi _ _ _ _ (by decide)]; exact rfl
  have f0 : fld (0x04#6 ++ d ++ a ++ i) 20 6 = d := by rw [fld, cat_hi _ _ _ _ (by decide), cat_hi _ _ _ _ (by decide), cat_lo _ _ _ _ (by decide)]; exact BitVec.extractLsb'_eq_self
  have f1 : fld (0x04#6 ++ d ++ a ++ i) 14 6 = a := by rw [fld, cat_hi _ _ _ _ (by decide), cat_lo _ _ _ _ (by decide)]; exact BitVec.extractLsb'_eq_self
  have f2 : fld (0x04#6 ++ d ++ a ++ i) 0 14 = i := by rw [fld, cat_lo _ _ _ _ (by decide)]; exact BitVec.extractLsb'_eq_self
  refine ⟨by rw [isSX, e0]; rfl, ?_⟩
  delta decodeScalar
  rw [e0, f0, f1, f2]
  rfl

theorem read_sxori (d : BitVec 6) (a : BitVec 6) (i : BitVec 14) (w1 : W32) :
    isSX (0x05#6 ++ d ++ a ++ i) = false ∧ decodeScalar (0x05#6 ++ d ++ a ++ i) w1 = .ok (.sxori d a i) := by
  have e0 : fld (0x05#6 ++ d ++ a ++ i) 26 6 = 0x05#6 := by rw [fld, cat_hi _ _ _ _ (by decide), cat_hi _ _ _ _ (by decide), cat_hi _ _ _ _ (by decide)]; exact rfl
  have f0 : fld (0x05#6 ++ d ++ a ++ i) 20 6 = d := by rw [fld, cat_hi _ _ _ _ (by decide), cat_hi _ _ _ _ (by decide), cat_lo _ _ _ _ (by decide)]; exact BitVec.extractLsb'_eq_self
  have f1 : fld (0x05#6 ++ d ++ a ++ i) 14 6 = a := by rw [fld, cat_hi _ _ _ _ (by decide), cat_lo _ _ _ _ (by decide)]; exact BitVec.extractLsb'_eq_self
  have f2 : fld (0x05#6 ++ d ++ a ++ i) 0 14 = i := by rw [fld, cat_lo _ _ _ _ (by decide)]; exact BitVec.extractLsb'_eq_self
  refine ⟨by rw [isSX, e0]; rfl, ?_⟩
  delta decodeScalar
  rw [e0, f0, f1, f2]
  rfl

theorem read_sshli (d : BitVec 6) (a : BitVec 6) (i : BitVec 6) (w1 : W32) :
    isSX (0x06#6 ++ d ++ a ++ 0#8 ++ i) = false ∧ decodeScalar (0x06#6 ++ d ++ a ++ 0#8 ++ i) w1 = .ok (.sshli d a i) := by
  have e0 : fld (0x06#6 ++ d ++ a ++ 0#8 ++ i) 26 6 = 0x06#6 := by rw [fld, cat_hi _ _ _ _ (by decide), cat_hi _ _ _ _ (by decide), cat_hi _ _ _ _ (by decide), cat_hi _ _ _ _ (by decide)]; exact rfl
  have f0 : fld (0x06#6 ++ d ++ a ++ 0#8 ++ i) 20 6 = d := by rw [fld, cat_hi _ _ _ _ (by decide), cat_hi _ _ _ _ (by decide), cat_hi _ _ _ _ (by decide), cat_lo _ _ _ _ (by decide)]; exact BitVec.extractLsb'_eq_self
  have f1 : fld (0x06#6 ++ d ++ a ++ 0#8 ++ i) 14 6 = a := by rw [fld, cat_hi _ _ _ _ (by decide), cat_hi _ _ _ _ (by decide), cat_lo _ _ _ _ (by decide)]; exact BitVec.extractLsb'_eq_self
  have f2 : fld (0x06#6 ++ d ++ a ++ 0#8 ++ i) 0 6 = i := by rw [fld, cat_lo _ _ _ _ (by decide)]; exact BitVec.extractLsb'_eq_self
  have hm : (0x06#6 ++ d ++ a ++ 0#8 ++ i) &&& 0x00003FC0#32 = 0#32 := (mask_00003FC0 _).2 (by rw [fld, cat_hi _ _ _ _ (by decide), cat_lo _ _ _ _ (by decide)]; exact rfl)
  refine ⟨by rw [isSX, e0]; rfl, ?_⟩
  delta decodeScalar
  rw [e0, f0, f1, f2]
  exact if_pos hm

theorem read_sshri (d : BitVec 6) (a : BitVec 6) (i : BitVec 6) (w1 : W32) :
    isSX (0x07#6 ++ d ++ a ++ 0#8 ++ i) = false ∧ decodeScalar (0x07#6 ++ d ++ a ++ 0#8 ++ i) w1 = .ok (.sshri d a i) := by
  have e0 : fld (0x07#6 ++ d ++ a ++ 0#8 ++ i) 26 6 = 0x07#6 := by rw [fld, cat_hi _ _ _ _ (by decide), cat_hi _ _ _ _ (by decide), cat_hi _ _ _ _ (by decide), cat_hi _ _ _ _ (by decide)]; exact rfl
  have f0 : fld (0x07#6 ++ d ++ a ++ 0#8 ++ i) 20 6 = d := by rw [fld, cat_hi _ _ _ _ (by decide), cat_hi _ _ _ _ (by decide), cat_hi _ _ _ _ (by decide), cat_lo _ _ _ _ (by decide)]; exact BitVec.extractLsb'_eq_self
  have f1 : fld (0x07#6 ++ d ++ a ++ 0#8 ++ i) 14 6 = a := by rw [fld, cat_hi _ _ _ _ (by decide), cat_hi _ _ _ _ (by decide), cat_lo _ _ _ _ (by decide)]; exact BitVec.extractLsb'_eq_self
  have f2 : fld (0x07#6 ++ d ++ a ++ 0#8 ++ i) 0 6 = i := by rw [fld, cat_lo _ _ _ _ (by decide)]; exact BitVec.extractLsb'_eq_self
  have hm : (0x07#6 ++ d ++ a ++ 0#8 ++ i) &&& 0x00003FC0#32 = 0#32 := (mask_00003FC0 _).2 (by rw [fld, cat_hi _ _ _ _ (by decide), cat_lo _ _ _ _ (by decide)]; exact rfl)
  refine ⟨by rw [isSX, e0]; rfl, ?_⟩
  delta decodeScalar
  rw [e0, f0, f1, f2]
  exact if_pos hm

theorem read_ssrai (d : BitVec 6) (a : BitVec 6) (i : BitVec 6) (w1 : W32) :
    isSX (0x08#6 ++ d ++ a ++ 0#8 ++ i) = false ∧ decodeScalar (0x08#6 ++ d ++ a ++ 0#8 ++ i) w1 = .ok (.ssrai d a i) := by
  have e0 : fld (0x08#6 ++ d ++ a ++ 0#8 ++ i) 26 6 = 0x08#6 := by rw [fld, cat_hi _ _ _ _ (by decide), cat_hi _ _ _ _ (by decide), cat_hi _ _ _ _ (by decide), cat_hi _ _ _ _ (by decide)]; exact rfl
  have f0 : fld (0x08#6 ++ d ++ a ++ 0#8 ++ i) 20 6 = d := by rw [fld, cat_hi _ _ _ _ (by decide), cat_hi _ _ _ _ (by decide), cat_hi _ _ _ _ (by decide), cat_lo _ _ _ _ (by decide)]; exact BitVec.extractLsb'_eq_self
  have f1 : fld (0x08#6 ++ d ++ a ++ 0#8 ++ i) 14 6 = a := by rw [fld, cat_hi _ _ _ _ (by decide), cat_hi _ _ _ _ (by decide), cat_lo _ _ _ _ (by decide)]; exact BitVec.extractLsb'_eq_self
  have f2 : fld (0x08#6 ++ d ++ a ++ 0#8 ++ i) 0 6 = i := by rw [fld, cat_lo _ _ _ _ (by decide)]; exact BitVec.extractLsb'_eq_self
  have hm : (0x08#6 ++ d ++ a ++ 0#8 ++ i) &&& 0x00003FC0#32 = 0#32 := (mask_00003FC0 _).2 (by rw [fld, cat_hi _ _ _ _ (by decide), cat_lo _ _ _ _ (by decide)]; exact rfl)
  refine ⟨by rw [isSX, e0]; rfl, ?_⟩
  delta decodeScalar
  rw [e0, f0, f1, f2]
  exact if_pos hm

theorem read_smuli (d : BitVec 6) (a : BitVec 6) (i : BitVec 14) (w1 : W32) :
    isSX (0x09#6 ++ d ++ a ++ i) = false ∧ decodeScalar (0x09#6 ++ d ++ a ++ i) w1 = .ok (.smuli d a i) := by
  have e0 : fld (0x09#6 ++ d ++ a ++ i) 26 6 = 0x09#6 := by rw [fld, cat_hi _ _ _ _ (by decide), cat_hi _ _ _ _ (by decide), cat_hi _ _ _ _ (by decide)]; exact rfl
  have f0 : fld (0x09#6 ++ d ++ a ++ i) 20 6 = d := by rw [fld, cat_hi _ _ _ _ (by decide), cat_hi _ _ _ _ (by decide), cat_lo _ _ _ _ (by decide)]; exact BitVec.extractLsb'_eq_self
  have f1 : fld (0x09#6 ++ d ++ a ++ i) 14 6 = a := by rw [fld, cat_hi _ _ _ _ (by decide), cat_lo _ _ _ _ (by decide)]; exact BitVec.extractLsb'_eq_self
  have f2 : fld (0x09#6 ++ d ++ a ++ i) 0 14 = i := by rw [fld, cat_lo _ _ _ _ (by decide)]; exact BitVec.extractLsb'_eq_self
  refine ⟨by rw [isSX, e0]; rfl, ?_⟩
  delta decodeScalar
  rw [e0, f0, f1, f2]
  rfl

theorem read_sli (d : BitVec 6) (w : W32) :
    isSX (0x0A#6 ++ d ++ 0#6 ++ 0#14) = true ∧ decodeScalar (0x0A#6 ++ d ++ 0#6 ++ 0#14) w = .ok (.sli d w) := by
  have e0 : fld (0x0A#6 ++ d ++ 0#6 ++ 0#14) 26 6 = 0x0A#6 := by rw [fld, cat_hi _ _ _ _ (by decide), cat_hi _ _ _ _ (by decide), cat_hi _ _ _ _ (by decide)]; exact rfl
  have e2 : (0x0A#6 ++ d ++ 0#6 ++ 0#14).getLsbD 0 = false := by
    rw [getLsbD_fld, show fld (0x0A#6 ++ d ++ 0#6 ++ 0#14) 0 1 = 0#1 from by rw [fld, cat_lo _ _ _ _ (by decide)]; exact rfl]; rfl
  have f0 : fld (0x0A#6 ++ d ++ 0#6 ++ 0#14) 20 6 = d := by rw [fld, cat_hi _ _ _ _ (by decide), cat_hi _ _ _ _ (by decide), cat_lo _ _ _ _ (by decide)]; exact BitVec.extractLsb'_eq_self
  have hm : (0x0A#6 ++ d ++ 0#6 ++ 0#14) &&& 0x000FFFFE#32 = 0#32 := (mask_000FFFFE _).2 ⟨by rw [fld, cat_hi _ _ _ _ (by decide), cat_lo _ _ _ _ (by decide)]; exact rfl, by rw [fld, cat_lo _ _ _ _ (by decide)]; exact rfl⟩
  refine ⟨by rw [isSX, e0]; rfl, ?_⟩
  delta decodeScalar
  rw [e0, e2, f0]
  exact if_pos hm

theorem read_sliHi (d : BitVec 6) (w : W32) :
    isSX (0x0A#6 ++ d ++ 0#6 ++ 1#14) = true ∧ decodeScalar (0x0A#6 ++ d ++ 0#6 ++ 1#14) w = .ok (.sliHi d w) := by
  have e0 : fld (0x0A#6 ++ d ++ 0#6 ++ 1#14) 26 6 = 0x0A#6 := by rw [fld, cat_hi _ _ _ _ (by decide), cat_hi _ _ _ _ (by decide), cat_hi _ _ _ _ (by decide)]; exact rfl
  have e2 : (0x0A#6 ++ d ++ 0#6 ++ 1#14).getLsbD 0 = true := by
    rw [getLsbD_fld, show fld (0x0A#6 ++ d ++ 0#6 ++ 1#14) 0 1 = 1#1 from by rw [fld, cat_lo _ _ _ _ (by decide)]; exact rfl]; rfl
  have f0 : fld (0x0A#6 ++ d ++ 0#6 ++ 1#14) 20 6 = d := by rw [fld, cat_hi _ _ _ _ (by decide), cat_hi _ _ _ _ (by decide), cat_lo _ _ _ _ (by decide)]; exact BitVec.extractLsb'_eq_self
  have hm : (0x0A#6 ++ d ++ 0#6 ++ 1#14) &&& 0x000FFFFE#32 = 0#32 := (mask_000FFFFE _).2 ⟨by rw [fld, cat_hi _ _ _ _ (by decide), cat_lo _ _ _ _ (by decide)]; exact rfl, by rw [fld, cat_lo _ _ _ _ (by decide)]; exact rfl⟩
  refine ⟨by rw [isSX, e0]; rfl, ?_⟩
  delta decodeScalar
  rw [e0, e2, f0]
  exact if_pos hm

theorem read_scmp (d : BitVec 3) (a : BitVec 6) (b : BitVec 6) (c : BitVec 4) (w1 : W32) :
    isSX (0x0B#6 ++ 0#3 ++ d ++ a ++ b ++ 0#4 ++ c) = false ∧ decodeScalar (0x0B#6 ++ 0#3 ++ d ++ a ++ b ++ 0#4 ++ c) w1 = .ok (.scmp d a b c) := by
  have e0 : fld (0x0B#6 ++ 0#3 ++ d ++ a ++ b ++ 0#4 ++ c) 26 6 = 0x0B#6 := by rw [fld, cat_hi _ _ _ _ (by decide), cat_hi _ _ _ _ (by decide), cat_hi _ _ _ _ (by decide), cat_hi _ _ _ _ (by decide), cat_hi _ _ _ _ (by decide), cat_hi _ _ _ _ (by decide)]; exact rfl
  have f0 : fld (0x0B#6 ++ 0#3 ++ d ++ a ++ b ++ 0#4 ++ c) 20 3 = d := by rw [fld, cat_hi _ _ _ _ (by decide), cat_hi _ _ _ _ (by decide), cat_hi _ _ _ _ (by decide), cat_hi _ _ _ _ (by decide), cat_lo _ _ _ _ (by decide)]; exact BitVec.extractLsb'_eq_self
  have f1 : fld (0x0B#6 ++ 0#3 ++ d ++ a ++ b ++ 0#4 ++ c) 14 6 = a := by rw [fld, cat_hi _ _ _ _ (by decide), cat_hi _ _ _ _ (by decide), cat_hi _ _ _ _ (by decide), cat_lo _ _ _ _ (by decide)]; exact BitVec.extractLsb'_eq_self
  have f2 : fld (0x0B#6 ++ 0#3 ++ d ++ a ++ b ++ 0#4 ++ c) 8 6 = b := by rw [fld, cat_hi _ _ _ _ (by decide), cat_hi _ _ _ _ (by decide), cat_lo _ _ _ _ (by decide)]; exact BitVec.extractLsb'_eq_self
  have f3 : fld (0x0B#6 ++ 0#3 ++ d ++ a ++ b ++ 0#4 ++ c) 0 4 = c := by rw [fld, cat_lo _ _ _ _ (by decide)]; exact BitVec.extractLsb'_eq_self
  have hm : (0x0B#6 ++ 0#3 ++ d ++ a ++ b ++ 0#4 ++ c) &&& 0x038000F0#32 = 0#32 := (mask_038000F0 _).2 ⟨by rw [fld, cat_hi _ _ _ _ (by decide), cat_hi _ _ _ _ (by decide), cat_hi _ _ _ _ (by decide), cat_hi _ _ _ _ (by decide), cat_hi _ _ _ _ (by decide), cat_lo _ _ _ _ (by decide)]; exact rfl, by rw [fld, cat_hi _ _ _ _ (by decide), cat_lo _ _ _ _ (by decide)]; exact rfl⟩
  refine ⟨by rw [isSX, e0]; rfl, ?_⟩
  delta decodeScalar
  rw [e0, f0, f1, f2, f3]
  exact if_pos hm

theorem read_scmpi (c : BitVec 3) (d : BitVec 3) (a : BitVec 6) (i : BitVec 14) (w1 : W32) :
    isSX (0x0C#6 ++ c ++ d ++ a ++ i) = false ∧ decodeScalar (0x0C#6 ++ c ++ d ++ a ++ i) w1 = .ok (.scmpi c d a i) := by
  have e0 : fld (0x0C#6 ++ c ++ d ++ a ++ i) 26 6 = 0x0C#6 := by rw [fld, cat_hi _ _ _ _ (by decide), cat_hi _ _ _ _ (by decide), cat_hi _ _ _ _ (by decide), cat_hi _ _ _ _ (by decide)]; exact rfl
  have f0 : fld (0x0C#6 ++ c ++ d ++ a ++ i) 23 3 = c := by rw [fld, cat_hi _ _ _ _ (by decide), cat_hi _ _ _ _ (by decide), cat_hi _ _ _ _ (by decide), cat_lo _ _ _ _ (by decide)]; exact BitVec.extractLsb'_eq_self
  have f1 : fld (0x0C#6 ++ c ++ d ++ a ++ i) 20 3 = d := by rw [fld, cat_hi _ _ _ _ (by decide), cat_hi _ _ _ _ (by decide), cat_lo _ _ _ _ (by decide)]; exact BitVec.extractLsb'_eq_self
  have f2 : fld (0x0C#6 ++ c ++ d ++ a ++ i) 14 6 = a := by rw [fld, cat_hi _ _ _ _ (by decide), cat_lo _ _ _ _ (by decide)]; exact BitVec.extractLsb'_eq_self
  have f3 : fld (0x0C#6 ++ c ++ d ++ a ++ i) 0 14 = i := by rw [fld, cat_lo _ _ _ _ (by decide)]; exact BitVec.extractLsb'_eq_self
  refine ⟨by rw [isSX, e0]; rfl, ?_⟩
  delta decodeScalar
  rw [e0, f0, f1, f2, f3]
  rfl

theorem read_ssel (d : BitVec 6) (a : BitVec 6) (b : BitVec 6) (n : BitVec 3) (w1 : W32) :
    isSX (0x0D#6 ++ d ++ a ++ b ++ 0#5 ++ n) = false ∧ decodeScalar (0x0D#6 ++ d ++ a ++ b ++ 0#5 ++ n) w1 = .ok (.ssel d a b n) := by
  have e0 : fld (0x0D#6 ++ d ++ a ++ b ++ 0#5 ++ n) 26 6 = 0x0D#6 := by rw [fld, cat_hi _ _ _ _ (by decide), cat_hi _ _ _ _ (by decide), cat_hi _ _ _ _ (by decide), cat_hi _ _ _ _ (by decide), cat_hi _ _ _ _ (by decide)]; exact rfl
  have f0 : fld (0x0D#6 ++ d ++ a ++ b ++ 0#5 ++ n) 20 6 = d := by rw [fld, cat_hi _ _ _ _ (by decide), cat_hi _ _ _ _ (by decide), cat_hi _ _ _ _ (by decide), cat_hi _ _ _ _ (by decide), cat_lo _ _ _ _ (by decide)]; exact BitVec.extractLsb'_eq_self
  have f1 : fld (0x0D#6 ++ d ++ a ++ b ++ 0#5 ++ n) 14 6 = a := by rw [fld, cat_hi _ _ _ _ (by decide), cat_hi _ _ _ _ (by decide), cat_hi _ _ _ _ (by decide), cat_lo _ _ _ _ (by decide)]; exact BitVec.extractLsb'_eq_self
  have f2 : fld (0x0D#6 ++ d ++ a ++ b ++ 0#5 ++ n) 8 6 = b := by rw [fld, cat_hi _ _ _ _ (by decide), cat_hi _ _ _ _ (by decide), cat_lo _ _ _ _ (by decide)]; exact BitVec.extractLsb'_eq_self
  have f3 : fld (0x0D#6 ++ d ++ a ++ b ++ 0#5 ++ n) 0 3 = n := by rw [fld, cat_lo _ _ _ _ (by decide)]; exact BitVec.extractLsb'_eq_self
  have hm : (0x0D#6 ++ d ++ a ++ b ++ 0#5 ++ n) &&& 0x000000F8#32 = 0#32 := (mask_000000F8 _).2 (by rw [fld, cat_hi _ _ _ _ (by decide), cat_lo _ _ _ _ (by decide)]; exact rfl)
  refine ⟨by rw [isSX, e0]; rfl, ?_⟩
  delta decodeScalar
  rw [e0, f0, f1, f2, f3]
  exact if_pos hm

theorem read_copAnd (d : BitVec 3) (a : BitVec 3) (b : BitVec 3) (w1 : W32) :
    isSX (0x0E#6 ++ 0#3 ++ d ++ 0#3 ++ a ++ 0#3 ++ b ++ 0#8) = false ∧ decodeScalar (0x0E#6 ++ 0#3 ++ d ++ 0#3 ++ a ++ 0#3 ++ b ++ 0#8) w1 = .ok (.copAnd d a b) := by
  have e0 : fld (0x0E#6 ++ 0#3 ++ d ++ 0#3 ++ a ++ 0#3 ++ b ++ 0#8) 26 6 = 0x0E#6 := by rw [fld, cat_hi _ _ _ _ (by decide), cat_hi _ _ _ _ (by decide), cat_hi _ _ _ _ (by decide), cat_hi _ _ _ _ (by decide), cat_hi _ _ _ _ (by decide), cat_hi _ _ _ _ (by decide), cat_hi _ _ _ _ (by decide)]; exact rfl
  have e1 : fld (0x0E#6 ++ 0#3 ++ d ++ 0#3 ++ a ++ 0#3 ++ b ++ 0#8) 0 8 = 0#8 := by rw [fld, cat_lo _ _ _ _ (by decide)]; exact rfl
  have f0 : fld (0x0E#6 ++ 0#3 ++ d ++ 0#3 ++ a ++ 0#3 ++ b ++ 0#8) 20 3 = d := by rw [fld, cat_hi _ _ _ _ (by decide), cat_hi _ _ _ _ (by decide), cat_hi _ _ _ _ (by decide), cat_hi _ _ _ _ (by decide), cat_hi _ _ _ _ (by decide), cat_lo _ _ _ _ (by decide)]; exact BitVec.extractLsb'_eq_self
  have f1 : fld (0x0E#6 ++ 0#3 ++ d ++ 0#3 ++ a ++ 0#3 ++ b ++ 0#8) 14 3 = a := by rw [fld, cat_hi _ _ _ _ (by decide), cat_hi _ _ _ _ (by decide), cat_hi _ _ _ _ (by decide), cat_lo _ _ _ _ (by decide)]; exact BitVec.extractLsb'_eq_self
  have f2 : fld (0x0E#6 ++ 0#3 ++ d ++ 0#3 ++ a ++ 0#3 ++ b ++ 0#8) 8 3 = b := by rw [fld, cat_hi _ _ _ _ (by decide), cat_lo _ _ _ _ (by decide)]; exact BitVec.extractLsb'_eq_self
  have hm : (0x0E#6 ++ 0#3 ++ d ++ 0#3 ++ a ++ 0#3 ++ b ++ 0#8) &&& 0x038E3800#32 = 0#32 := (mask_038E3800 _).2 ⟨by rw [fld, cat_hi _ _ _ _ (by decide), cat_hi _ _ _ _ (by decide), cat_hi _ _ _ _ (by decide), cat_hi _ _ _ _ (by decide), cat_hi _ _ _ _ (by decide), cat_hi _ _ _ _ (by decide), cat_lo _ _ _ _ (by decide)]; exact rfl, by rw [fld, cat_hi _ _ _ _ (by decide), cat_hi _ _ _ _ (by decide), cat_hi _ _ _ _ (by decide), cat_hi _ _ _ _ (by decide), cat_lo _ _ _ _ (by decide)]; exact rfl, by rw [fld, cat_hi _ _ _ _ (by decide), cat_hi _ _ _ _ (by decide), cat_lo _ _ _ _ (by decide)]; exact rfl⟩
  refine ⟨by rw [isSX, e0]; rfl, ?_⟩
  delta decodeScalar
  rw [e0, e1, f0, f1, f2]
  exact if_pos hm

theorem read_copOr (d : BitVec 3) (a : BitVec 3) (b : BitVec 3) (w1 : W32) :
    isSX (0x0E#6 ++ 0#3 ++ d ++ 0#3 ++ a ++ 0#3 ++ b ++ 1#8) = false ∧ decodeScalar (0x0E#6 ++ 0#3 ++ d ++ 0#3 ++ a ++ 0#3 ++ b ++ 1#8) w1 = .ok (.copOr d a b) := by
  have e0 : fld (0x0E#6 ++ 0#3 ++ d ++ 0#3 ++ a ++ 0#3 ++ b ++ 1#8) 26 6 = 0x0E#6 := by rw [fld, cat_hi _ _ _ _ (by decide), cat_hi _ _ _ _ (by decide), cat_hi _ _ _ _ (by decide), cat_hi _ _ _ _ (by decide), cat_hi _ _ _ _ (by decide), cat_hi _ _ _ _ (by decide), cat_hi _ _ _ _ (by decide)]; exact rfl
  have e1 : fld (0x0E#6 ++ 0#3 ++ d ++ 0#3 ++ a ++ 0#3 ++ b ++ 1#8) 0 8 = 1#8 := by rw [fld, cat_lo _ _ _ _ (by decide)]; exact rfl
  have f0 : fld (0x0E#6 ++ 0#3 ++ d ++ 0#3 ++ a ++ 0#3 ++ b ++ 1#8) 20 3 = d := by rw [fld, cat_hi _ _ _ _ (by decide), cat_hi _ _ _ _ (by decide), cat_hi _ _ _ _ (by decide), cat_hi _ _ _ _ (by decide), cat_hi _ _ _ _ (by decide), cat_lo _ _ _ _ (by decide)]; exact BitVec.extractLsb'_eq_self
  have f1 : fld (0x0E#6 ++ 0#3 ++ d ++ 0#3 ++ a ++ 0#3 ++ b ++ 1#8) 14 3 = a := by rw [fld, cat_hi _ _ _ _ (by decide), cat_hi _ _ _ _ (by decide), cat_hi _ _ _ _ (by decide), cat_lo _ _ _ _ (by decide)]; exact BitVec.extractLsb'_eq_self
  have f2 : fld (0x0E#6 ++ 0#3 ++ d ++ 0#3 ++ a ++ 0#3 ++ b ++ 1#8) 8 3 = b := by rw [fld, cat_hi _ _ _ _ (by decide), cat_lo _ _ _ _ (by decide)]; exact BitVec.extractLsb'_eq_self
  have hm : (0x0E#6 ++ 0#3 ++ d ++ 0#3 ++ a ++ 0#3 ++ b ++ 1#8) &&& 0x038E3800#32 = 0#32 := (mask_038E3800 _).2 ⟨by rw [fld, cat_hi _ _ _ _ (by decide), cat_hi _ _ _ _ (by decide), cat_hi _ _ _ _ (by decide), cat_hi _ _ _ _ (by decide), cat_hi _ _ _ _ (by decide), cat_hi _ _ _ _ (by decide), cat_lo _ _ _ _ (by decide)]; exact rfl, by rw [fld, cat_hi _ _ _ _ (by decide), cat_hi _ _ _ _ (by decide), cat_hi _ _ _ _ (by decide), cat_hi _ _ _ _ (by decide), cat_lo _ _ _ _ (by decide)]; exact rfl, by rw [fld, cat_hi _ _ _ _ (by decide), cat_hi _ _ _ _ (by decide), cat_lo _ _ _ _ (by decide)]; exact rfl⟩
  refine ⟨by rw [isSX, e0]; rfl, ?_⟩
  delta decodeScalar
  rw [e0, e1, f0, f1, f2]
  exact if_pos hm

theorem read_copXor (d : BitVec 3) (a : BitVec 3) (b : BitVec 3) (w1 : W32) :
    isSX (0x0E#6 ++ 0#3 ++ d ++ 0#3 ++ a ++ 0#3 ++ b ++ 2#8) = false ∧ decodeScalar (0x0E#6 ++ 0#3 ++ d ++ 0#3 ++ a ++ 0#3 ++ b ++ 2#8) w1 = .ok (.copXor d a b) := by
  have e0 : fld (0x0E#6 ++ 0#3 ++ d ++ 0#3 ++ a ++ 0#3 ++ b ++ 2#8) 26 6 = 0x0E#6 := by rw [fld, cat_hi _ _ _ _ (by decide), cat_hi _ _ _ _ (by decide), cat_hi _ _ _ _ (by decide), cat_hi _ _ _ _ (by decide), cat_hi _ _ _ _ (by decide), cat_hi _ _ _ _ (by decide), cat_hi _ _ _ _ (by decide)]; exact rfl
  have e1 : fld (0x0E#6 ++ 0#3 ++ d ++ 0#3 ++ a ++ 0#3 ++ b ++ 2#8) 0 8 = 2#8 := by rw [fld, cat_lo _ _ _ _ (by decide)]; exact rfl
  have f0 : fld (0x0E#6 ++ 0#3 ++ d ++ 0#3 ++ a ++ 0#3 ++ b ++ 2#8) 20 3 = d := by rw [fld, cat_hi _ _ _ _ (by decide), cat_hi _ _ _ _ (by decide), cat_hi _ _ _ _ (by decide), cat_hi _ _ _ _ (by decide), cat_hi _ _ _ _ (by decide), cat_lo _ _ _ _ (by decide)]; exact BitVec.extractLsb'_eq_self
  have f1 : fld (0x0E#6 ++ 0#3 ++ d ++ 0#3 ++ a ++ 0#3 ++ b ++ 2#8) 14 3 = a := by rw [fld, cat_hi _ _ _ _ (by decide), cat_hi _ _ _ _ (by decide), cat_hi _ _ _ _ (by decide), cat_lo _ _ _ _ (by decide)]; exact BitVec.extractLsb'_eq_self
  have f2 : fld (0x0E#6 ++ 0#3 ++ d ++ 0#3 ++ a ++ 0#3 ++ b ++ 2#8) 8 3 = b := by rw [fld, cat_hi _ _ _ _ (by decide), cat_lo _ _ _ _ (by decide)]; exact BitVec.extractLsb'_eq_self
  have hm : (0x0E#6 ++ 0#3 ++ d ++ 0#3 ++ a ++ 0#3 ++ b ++ 2#8) &&& 0x038E3800#32 = 0#32 := (mask_038E3800 _).2 ⟨by rw [fld, cat_hi _ _ _ _ (by decide), cat_hi _ _ _ _ (by decide), cat_hi _ _ _ _ (by decide), cat_hi _ _ _ _ (by decide), cat_hi _ _ _ _ (by decide), cat_hi _ _ _ _ (by decide), cat_lo _ _ _ _ (by decide)]; exact rfl, by rw [fld, cat_hi _ _ _ _ (by decide), cat_hi _ _ _ _ (by decide), cat_hi _ _ _ _ (by decide), cat_hi _ _ _ _ (by decide), cat_lo _ _ _ _ (by decide)]; exact rfl, by rw [fld, cat_hi _ _ _ _ (by decide), cat_hi _ _ _ _ (by decide), cat_lo _ _ _ _ (by decide)]; exact rfl⟩
  refine ⟨by rw [isSX, e0]; rfl, ?_⟩
  delta decodeScalar
  rw [e0, e1, f0, f1, f2]
  exact if_pos hm

theorem read_copAndn (d : BitVec 3) (a : BitVec 3) (b : BitVec 3) (w1 : W32) :
    isSX (0x0E#6 ++ 0#3 ++ d ++ 0#3 ++ a ++ 0#3 ++ b ++ 3#8) = false ∧ decodeScalar (0x0E#6 ++ 0#3 ++ d ++ 0#3 ++ a ++ 0#3 ++ b ++ 3#8) w1 = .ok (.copAndn d a b) := by
  have e0 : fld (0x0E#6 ++ 0#3 ++ d ++ 0#3 ++ a ++ 0#3 ++ b ++ 3#8) 26 6 = 0x0E#6 := by rw [fld, cat_hi _ _ _ _ (by decide), cat_hi _ _ _ _ (by decide), cat_hi _ _ _ _ (by decide), cat_hi _ _ _ _ (by decide), cat_hi _ _ _ _ (by decide), cat_hi _ _ _ _ (by decide), cat_hi _ _ _ _ (by decide)]; exact rfl
  have e1 : fld (0x0E#6 ++ 0#3 ++ d ++ 0#3 ++ a ++ 0#3 ++ b ++ 3#8) 0 8 = 3#8 := by rw [fld, cat_lo _ _ _ _ (by decide)]; exact rfl
  have f0 : fld (0x0E#6 ++ 0#3 ++ d ++ 0#3 ++ a ++ 0#3 ++ b ++ 3#8) 20 3 = d := by rw [fld, cat_hi _ _ _ _ (by decide), cat_hi _ _ _ _ (by decide), cat_hi _ _ _ _ (by decide), cat_hi _ _ _ _ (by decide), cat_hi _ _ _ _ (by decide), cat_lo _ _ _ _ (by decide)]; exact BitVec.extractLsb'_eq_self
  have f1 : fld (0x0E#6 ++ 0#3 ++ d ++ 0#3 ++ a ++ 0#3 ++ b ++ 3#8) 14 3 = a := by rw [fld, cat_hi _ _ _ _ (by decide), cat_hi _ _ _ _ (by decide), cat_hi _ _ _ _ (by decide), cat_lo _ _ _ _ (by decide)]; exact BitVec.extractLsb'_eq_self
  have f2 : fld (0x0E#6 ++ 0#3 ++ d ++ 0#3 ++ a ++ 0#3 ++ b ++ 3#8) 8 3 = b := by rw [fld, cat_hi _ _ _ _ (by decide), cat_lo _ _ _ _ (by decide)]; exact BitVec.extractLsb'_eq_self
  have hm : (0x0E#6 ++ 0#3 ++ d ++ 0#3 ++ a ++ 0#3 ++ b ++ 3#8) &&& 0x038E3800#32 = 0#32 := (mask_038E3800 _).2 ⟨by rw [fld, cat_hi _ _ _ _ (by decide), cat_hi _ _ _ _ (by decide), cat_hi _ _ _ _ (by decide), cat_hi _ _ _ _ (by decide), cat_hi _ _ _ _ (by decide), cat_hi _ _ _ _ (by decide), cat_lo _ _ _ _ (by decide)]; exact rfl, by rw [fld, cat_hi _ _ _ _ (by decide), cat_hi _ _ _ _ (by decide), cat_hi _ _ _ _ (by decide), cat_hi _ _ _ _ (by decide), cat_lo _ _ _ _ (by decide)]; exact rfl, by rw [fld, cat_hi _ _ _ _ (by decide), cat_hi _ _ _ _ (by decide), cat_lo _ _ _ _ (by decide)]; exact rfl⟩
  refine ⟨by rw [isSX, e0]; rfl, ?_⟩
  delta decodeScalar
  rw [e0, e1, f0, f1, f2]
  exact if_pos hm

theorem read_copNot (d : BitVec 3) (a : BitVec 3) (w1 : W32) :
    isSX (0x0E#6 ++ 0#3 ++ d ++ 0#3 ++ a ++ 4#14) = false ∧ decodeScalar (0x0E#6 ++ 0#3 ++ d ++ 0#3 ++ a ++ 4#14) w1 = .ok (.copNot d a) := by
  have e0 : fld (0x0E#6 ++ 0#3 ++ d ++ 0#3 ++ a ++ 4#14) 26 6 = 0x0E#6 := by rw [fld, cat_hi _ _ _ _ (by decide), cat_hi _ _ _ _ (by decide), cat_hi _ _ _ _ (by decide), cat_hi _ _ _ _ (by decide), cat_hi _ _ _ _ (by decide)]; exact rfl
  have e1 : fld (0x0E#6 ++ 0#3 ++ d ++ 0#3 ++ a ++ 4#14) 0 8 = 4#8 := by rw [fld, cat_lo _ _ _ _ (by decide)]; exact rfl
  have f0 : fld (0x0E#6 ++ 0#3 ++ d ++ 0#3 ++ a ++ 4#14) 20 3 = d := by rw [fld, cat_hi _ _ _ _ (by decide), cat_hi _ _ _ _ (by decide), cat_hi _ _ _ _ (by decide), cat_lo _ _ _ _ (by decide)]; exact BitVec.extractLsb'_eq_self
  have f1 : fld (0x0E#6 ++ 0#3 ++ d ++ 0#3 ++ a ++ 4#14) 14 3 = a := by rw [fld, cat_hi _ _ _ _ (by decide), cat_lo _ _ _ _ (by decide)]; exact BitVec.extractLsb'_eq_self
  have hm : (0x0E#6 ++ 0#3 ++ d ++ 0#3 ++ a ++ 4#14) &&& 0x038E3F00#32 = 0#32 := (mask_038E3F00 _).2 ⟨by rw [fld, cat_hi _ _ _ _ (by decide), cat_hi _ _ _ _ (by decide), cat_hi _ _ _ _ (by decide), cat_hi _ _ _ _ (by decide), cat_lo _ _ _ _ (by decide)]; exact rfl, by rw [fld, cat_hi _ _ _ _ (by decide), cat_hi _ _ _ _ (by decide), cat_lo _ _ _ _ (by decide)]; exact rfl, by rw [fld, cat_lo _ _ _ _ (by decide)]; exact rfl⟩
  refine ⟨by rw [isSX, e0]; rfl, ?_⟩
  delta decodeScalar
  rw [e0, e1, f0, f1]
  exact if_pos hm

theorem read_copSet (d : BitVec 3) (w1 : W32) :
    isSX (0x0E#6 ++ 0#3 ++ d ++ 5#20) = false ∧ decodeScalar (0x0E#6 ++ 0#3 ++ d ++ 5#20) w1 = .ok (.copSet d) := by
  have e0 : fld (0x0E#6 ++ 0#3 ++ d ++ 5#20) 26 6 = 0x0E#6 := by rw [fld, cat_hi _ _ _ _ (by decide), cat_hi _ _ _ _ (by decide), cat_hi _ _ _ _ (by decide)]; exact rfl
  have e1 : fld (0x0E#6 ++ 0#3 ++ d ++ 5#20) 0 8 = 5#8 := by rw [fld, cat_lo _ _ _ _ (by decide)]; exact rfl
  have f0 : fld (0x0E#6 ++ 0#3 ++ d ++ 5#20) 20 3 = d := by rw [fld, cat_hi _ _ _ _ (by decide), cat_lo _ _ _ _ (by decide)]; exact BitVec.extractLsb'_eq_self
  have hm : (0x0E#6 ++ 0#3 ++ d ++ 5#20) &&& 0x038FFF00#32 = 0#32 := (mask_038FFF00 _).2 ⟨by rw [fld, cat_hi _ _ _ _ (by decide), cat_hi _ _ _ _ (by decide), cat_lo _ _ _ _ (by decide)]; exact rfl, by rw [fld, cat_lo _ _ _ _ (by decide)]; exact rfl⟩
  refine ⟨by rw [isSX, e0]; rfl, ?_⟩
  delta decodeScalar
  rw [e0, e1, f0]
  exact if_pos hm

theorem read_copClr (d : BitVec 3) (w1 : W32) :
    isSX (0x0E#6 ++ 0#3 ++ d ++ 6#20) = false ∧ decodeScalar (0x0E#6 ++ 0#3 ++ d ++ 6#20) w1 = .ok (.copClr d) := by
  have e0 : fld (0x0E#6 ++ 0#3 ++ d ++ 6#20) 26 6 = 0x0E#6 := by rw [fld, cat_hi _ _ _ _ (by decide), cat_hi _ _ _ _ (by decide), cat_hi _ _ _ _ (by decide)]; exact rfl
  have e1 : fld (0x0E#6 ++ 0#3 ++ d ++ 6#20) 0 8 = 6#8 := by rw [fld, cat_lo _ _ _ _ (by decide)]; exact rfl
  have f0 : fld (0x0E#6 ++ 0#3 ++ d ++ 6#20) 20 3 = d := by rw [fld, cat_hi _ _ _ _ (by decide), cat_lo _ _ _ _ (by decide)]; exact BitVec.extractLsb'_eq_self
  have hm : (0x0E#6 ++ 0#3 ++ d ++ 6#20) &&& 0x038FFF00#32 = 0#32 := (mask_038FFF00 _).2 ⟨by rw [fld, cat_hi _ _ _ _ (by decide), cat_hi _ _ _ _ (by decide), cat_lo _ _ _ _ (by decide)]; exact rfl, by rw [fld, cat_lo _ _ _ _ (by decide)]; exact rfl⟩
  refine ⟨by rw [isSX, e0]; rfl, ?_⟩
  delta decodeScalar
  rw [e0, e1, f0]
  exact if_pos hm

theorem read_copMov (d : BitVec 3) (a : BitVec 3) (w1 : W32) :
    isSX (0x0E#6 ++ 0#3 ++ d ++ 0#3 ++ a ++ 7#14) = false ∧ decodeScalar (0x0E#6 ++ 0#3 ++ d ++ 0#3 ++ a ++ 7#14) w1 = .ok (.copMov d a) := by
  have e0 : fld (0x0E#6 ++ 0#3 ++ d ++ 0#3 ++ a ++ 7#14) 26 6 = 0x0E#6 := by rw [fld, cat_hi _ _ _ _ (by decide), cat_hi _ _ _ _ (by decide), cat_hi _ _ _ _ (by decide), cat_hi _ _ _ _ (by decide), cat_hi _ _ _ _ (by decide)]; exact rfl
  have e1 : fld (0x0E#6 ++ 0#3 ++ d ++ 0#3 ++ a ++ 7#14) 0 8 = 7#8 := by rw [fld, cat_lo _ _ _ _ (by decide)]; exact rfl
  have f0 : fld (0x0E#6 ++ 0#3 ++ d ++ 0#3 ++ a ++ 7#14) 20 3 = d := by rw [fld, cat_hi _ _ _ _ (by decide), cat_hi _ _ _ _ (by decide), cat_hi _ _ _ _ (by decide), cat_lo _ _ _ _ (by decide)]; exact BitVec.extractLsb'_eq_self
  have f1 : fld (0x0E#6 ++ 0#3 ++ d ++ 0#3 ++ a ++ 7#14) 14 3 = a := by rw [fld, cat_hi _ _ _ _ (by decide), cat_lo _ _ _ _ (by decide)]; exact BitVec.extractLsb'_eq_self
  have hm : (0x0E#6 ++ 0#3 ++ d ++ 0#3 ++ a ++ 7#14) &&& 0x038E3F00#32 = 0#32 := (mask_038E3F00 _).2 ⟨by rw [fld, cat_hi _ _ _ _ (by decide), cat_hi _ _ _ _ (by decide), cat_hi _ _ _ _ (by decide), cat_hi _ _ _ _ (by decide), cat_lo _ _ _ _ (by decide)]; exact rfl, by rw [fld, cat_hi _ _ _ _ (by decide), cat_hi _ _ _ _ (by decide), cat_lo _ _ _ _ (by decide)]; exact rfl, by rw [fld, cat_lo _ _ _ _ (by decide)]; exact rfl⟩
  refine ⟨by rw [isSX, e0]; rfl, ?_⟩
  delta decodeScalar
  rw [e0, e1, f0, f1]
  exact if_pos hm

theorem read_sform (d : BitVec 6) (a : BitVec 6) (f : BitVec 8) (w1 : W32) :
    isSX (0x0F#6 ++ d ++ a ++ 0#6 ++ f) = false ∧ decodeScalar (0x0F#6 ++ d ++ a ++ 0#6 ++ f) w1 = .ok (.sform d a f) := by
  have e0 : fld (0x0F#6 ++ d ++ a ++ 0#6 ++ f) 26 6 = 0x0F#6 := by rw [fld, cat_hi _ _ _ _ (by decide), cat_hi _ _ _ _ (by decide), cat_hi _ _ _ _ (by decide), cat_hi _ _ _ _ (by decide)]; exact rfl
  have f0 : fld (0x0F#6 ++ d ++ a ++ 0#6 ++ f) 20 6 = d := by rw [fld, cat_hi _ _ _ _ (by decide), cat_hi _ _ _ _ (by decide), cat_hi _ _ _ _ (by decide), cat_lo _ _ _ _ (by decide)]; exact BitVec.extractLsb'_eq_self
  have f1 : fld (0x0F#6 ++ d ++ a ++ 0#6 ++ f) 14 6 = a := by rw [fld, cat_hi _ _ _ _ (by decide), cat_hi _ _ _ _ (by decide), cat_lo _ _ _ _ (by decide)]; exact BitVec.extractLsb'_eq_self
  have f2 : fld (0x0F#6 ++ d ++ a ++ 0#6 ++ f) 0 8 = f := by rw [fld, cat_lo _ _ _ _ (by decide)]; exact BitVec.extractLsb'_eq_self
  have hm : (0x0F#6 ++ d ++ a ++ 0#6 ++ f) &&& 0x00003F00#32 = 0#32 := (mask_00003F00 _).2 (by rw [fld, cat_hi _ _ _ _ (by decide), cat_lo _ _ _ _ (by decide)]; exact rfl)
  refine ⟨by rw [isSX, e0]; rfl, ?_⟩
  delta decodeScalar
  rw [e0, f0, f1, f2]
  exact if_pos hm

theorem read_sld (d : BitVec 6) (a : BitVec 6) (z : BitVec 2) (g : BitVec 1) (p : BitVec 2) (o : BitVec 9) (w1 : W32) :
    isSX (0x10#6 ++ d ++ a ++ z ++ g ++ p ++ o) = false ∧ decodeScalar (0x10#6 ++ d ++ a ++ z ++ g ++ p ++ o) w1 = .ok (.sld d a z g p o) := by
  have e0 : fld (0x10#6 ++ d ++ a ++ z ++ g ++ p ++ o) 26 6 = 0x10#6 := by rw [fld, cat_hi _ _ _ _ (by decide), cat_hi _ _ _ _ (by decide), cat_hi _ _ _ _ (by decide), cat_hi _ _ _ _ (by decide), cat_hi _ _ _ _ (by decide), cat_hi _ _ _ _ (by decide)]; exact rfl
  have f0 : fld (0x10#6 ++ d ++ a ++ z ++ g ++ p ++ o) 20 6 = d := by rw [fld, cat_hi _ _ _ _ (by decide), cat_hi _ _ _ _ (by decide), cat_hi _ _ _ _ (by decide), cat_hi _ _ _ _ (by decide), cat_hi _ _ _ _ (by decide), cat_lo _ _ _ _ (by decide)]; exact BitVec.extractLsb'_eq_self
  have f1 : fld (0x10#6 ++ d ++ a ++ z ++ g ++ p ++ o) 14 6 = a := by rw [fld, cat_hi _ _ _ _ (by decide), cat_hi _ _ _ _ (by decide), cat_hi _ _ _ _ (by decide), cat_hi _ _ _ _ (by decide), cat_lo _ _ _ _ (by decide)]; exact BitVec.extractLsb'_eq_self
  have f2 : fld (0x10#6 ++ d ++ a ++ z ++ g ++ p ++ o) 12 2 = z := by rw [fld, cat_hi _ _ _ _ (by decide), cat_hi _ _ _ _ (by decide), cat_hi _ _ _ _ (by decide), cat_lo _ _ _ _ (by decide)]; exact BitVec.extractLsb'_eq_self
  have f3 : fld (0x10#6 ++ d ++ a ++ z ++ g ++ p ++ o) 11 1 = g := by rw [fld, cat_hi _ _ _ _ (by decide), cat_hi _ _ _ _ (by decide), cat_lo _ _ _ _ (by decide)]; exact BitVec.extractLsb'_eq_self
  have f4 : fld (0x10#6 ++ d ++ a ++ z ++ g ++ p ++ o) 9 2 = p := by rw [fld, cat_hi _ _ _ _ (by decide), cat_lo _ _ _ _ (by decide)]; exact BitVec.extractLsb'_eq_self
  have f5 : fld (0x10#6 ++ d ++ a ++ z ++ g ++ p ++ o) 0 9 = o := by rw [fld, cat_lo _ _ _ _ (by decide)]; exact BitVec.extractLsb'_eq_self
  refine ⟨by rw [isSX, e0]; rfl, ?_⟩
  delta decodeScalar
  rw [e0, f0, f1, f2, f3, f4, f5]
  rfl

theorem read_sst (d : BitVec 6) (a : BitVec 6) (z : BitVec 2) (p : BitVec 2) (o : BitVec 9) (w1 : W32) :
    isSX (0x11#6 ++ d ++ a ++ z ++ 0#1 ++ p ++ o) = false ∧ decodeScalar (0x11#6 ++ d ++ a ++ z ++ 0#1 ++ p ++ o) w1 = .ok (.sst d a z p o) := by
  have e0 : fld (0x11#6 ++ d ++ a ++ z ++ 0#1 ++ p ++ o) 26 6 = 0x11#6 := by rw [fld, cat_hi _ _ _ _ (by decide), cat_hi _ _ _ _ (by decide), cat_hi _ _ _ _ (by decide), cat_hi _ _ _ _ (by decide), cat_hi _ _ _ _ (by decide), cat_hi _ _ _ _ (by decide)]; exact rfl
  have f0 : fld (0x11#6 ++ d ++ a ++ z ++ 0#1 ++ p ++ o) 20 6 = d := by rw [fld, cat_hi _ _ _ _ (by decide), cat_hi _ _ _ _ (by decide), cat_hi _ _ _ _ (by decide), cat_hi _ _ _ _ (by decide), cat_hi _ _ _ _ (by decide), cat_lo _ _ _ _ (by decide)]; exact BitVec.extractLsb'_eq_self
  have f1 : fld (0x11#6 ++ d ++ a ++ z ++ 0#1 ++ p ++ o) 14 6 = a := by rw [fld, cat_hi _ _ _ _ (by decide), cat_hi _ _ _ _ (by decide), cat_hi _ _ _ _ (by decide), cat_hi _ _ _ _ (by decide), cat_lo _ _ _ _ (by decide)]; exact BitVec.extractLsb'_eq_self
  have f2 : fld (0x11#6 ++ d ++ a ++ z ++ 0#1 ++ p ++ o) 12 2 = z := by rw [fld, cat_hi _ _ _ _ (by decide), cat_hi _ _ _ _ (by decide), cat_hi _ _ _ _ (by decide), cat_lo _ _ _ _ (by decide)]; exact BitVec.extractLsb'_eq_self
  have f3 : fld (0x11#6 ++ d ++ a ++ z ++ 0#1 ++ p ++ o) 9 2 = p := by rw [fld, cat_hi _ _ _ _ (by decide), cat_lo _ _ _ _ (by decide)]; exact BitVec.extractLsb'_eq_self
  have f4 : fld (0x11#6 ++ d ++ a ++ z ++ 0#1 ++ p ++ o) 0 9 = o := by rw [fld, cat_lo _ _ _ _ (by decide)]; exact BitVec.extractLsb'_eq_self
  have hm : (0x11#6 ++ d ++ a ++ z ++ 0#1 ++ p ++ o) &&& 0x00000800#32 = 0#32 := (mask_00000800 _).2 (by rw [fld, cat_hi _ _ _ _ (by decide), cat_hi _ _ _ _ (by decide), cat_lo _ _ _ _ (by decide)]; exact rfl)
  refine ⟨by rw [isSX, e0]; rfl, ?_⟩
  delta decodeScalar
  rw [e0, f0, f1, f2, f3, f4]
  exact if_pos hm

theorem read_satom (d : BitVec 6) (a : BitVec 6) (b : BitVec 6) (w : BitVec 1) (s : BitVec 3) (o : BitVec 4) (w1 : W32) :
    isSX (0x12#6 ++ d ++ a ++ b ++ w ++ s ++ o) = false ∧ decodeScalar (0x12#6 ++ d ++ a ++ b ++ w ++ s ++ o) w1 = .ok (.satom d a b w s o) := by
  have e0 : fld (0x12#6 ++ d ++ a ++ b ++ w ++ s ++ o) 26 6 = 0x12#6 := by rw [fld, cat_hi _ _ _ _ (by decide), cat_hi _ _ _ _ (by decide), cat_hi _ _ _ _ (by decide), cat_hi _ _ _ _ (by decide), cat_hi _ _ _ _ (by decide), cat_hi _ _ _ _ (by decide)]; exact rfl
  have f0 : fld (0x12#6 ++ d ++ a ++ b ++ w ++ s ++ o) 20 6 = d := by rw [fld, cat_hi _ _ _ _ (by decide), cat_hi _ _ _ _ (by decide), cat_hi _ _ _ _ (by decide), cat_hi _ _ _ _ (by decide), cat_hi _ _ _ _ (by decide), cat_lo _ _ _ _ (by decide)]; exact BitVec.extractLsb'_eq_self
  have f1 : fld (0x12#6 ++ d ++ a ++ b ++ w ++ s ++ o) 14 6 = a := by rw [fld, cat_hi _ _ _ _ (by decide), cat_hi _ _ _ _ (by decide), cat_hi _ _ _ _ (by decide), cat_hi _ _ _ _ (by decide), cat_lo _ _ _ _ (by decide)]; exact BitVec.extractLsb'_eq_self
  have f2 : fld (0x12#6 ++ d ++ a ++ b ++ w ++ s ++ o) 8 6 = b := by rw [fld, cat_hi _ _ _ _ (by decide), cat_hi _ _ _ _ (by decide), cat_hi _ _ _ _ (by decide), cat_lo _ _ _ _ (by decide)]; exact BitVec.extractLsb'_eq_self
  have f3 : fld (0x12#6 ++ d ++ a ++ b ++ w ++ s ++ o) 7 1 = w := by rw [fld, cat_hi _ _ _ _ (by decide), cat_hi _ _ _ _ (by decide), cat_lo _ _ _ _ (by decide)]; exact BitVec.extractLsb'_eq_self
  have f4 : fld (0x12#6 ++ d ++ a ++ b ++ w ++ s ++ o) 4 3 = s := by rw [fld, cat_hi _ _ _ _ (by decide), cat_lo _ _ _ _ (by decide)]; exact BitVec.extractLsb'_eq_self
  have f5 : fld (0x12#6 ++ d ++ a ++ b ++ w ++ s ++ o) 0 4 = o := by rw [fld, cat_lo _ _ _ _ (by decide)]; exact BitVec.extractLsb'_eq_self
  refine ⟨by rw [isSX, e0]; rfl, ?_⟩
  delta decodeScalar
  rw [e0, f0, f1, f2, f3, f4, f5]
  rfl

theorem read_cmo (a : BitVec 6) (b : BitVec 6) (l : BitVec 3) (k : BitVec 2) (w1 : W32) :
    isSX (0x13#6 ++ 0#6 ++ a ++ b ++ 0#3 ++ l ++ k) = false ∧ decodeScalar (0x13#6 ++ 0#6 ++ a ++ b ++ 0#3 ++ l ++ k) w1 = .ok (.cmo a b l k) := by
  have e0 : fld (0x13#6 ++ 0#6 ++ a ++ b ++ 0#3 ++ l ++ k) 26 6 = 0x13#6 := by rw [fld, cat_hi _ _ _ _ (by decide), cat_hi _ _ _ _ (by decide), cat_hi _ _ _ _ (by decide), cat_hi _ _ _ _ (by decide), cat_hi _ _ _ _ (by decide), cat_hi _ _ _ _ (by decide)]; exact rfl
  have f0 : fld (0x13#6 ++ 0#6 ++ a ++ b ++ 0#3 ++ l ++ k) 14 6 = a := by rw [fld, cat_hi _ _ _ _ (by decide), cat_hi _ _ _ _ (by decide), cat_hi _ _ _ _ (by decide), cat_hi _ _ _ _ (by decide), cat_lo _ _ _ _ (by decide)]; exact BitVec.extractLsb'_eq_self
  have f1 : fld (0x13#6 ++ 0#6 ++ a ++ b ++ 0#3 ++ l ++ k) 8 6 = b := by rw [fld, cat_hi _ _ _ _ (by decide), cat_hi _ _ _ _ (by decide), cat_hi _ _ _ _ (by decide), cat_lo _ _ _ _ (by decide)]; exact BitVec.extractLsb'_eq_self
  have f2 : fld (0x13#6 ++ 0#6 ++ a ++ b ++ 0#3 ++ l ++ k) 2 3 = l := by rw [fld, cat_hi _ _ _ _ (by decide), cat_lo _ _ _ _ (by decide)]; exact BitVec.extractLsb'_eq_self
  have f3 : fld (0x13#6 ++ 0#6 ++ a ++ b ++ 0#3 ++ l ++ k) 0 2 = k := by rw [fld, cat_lo _ _ _ _ (by decide)]; exact BitVec.extractLsb'_eq_self
  have hm : (0x13#6 ++ 0#6 ++ a ++ b ++ 0#3 ++ l ++ k) &&& 0x03F000E0#32 = 0#32 := (mask_03F000E0 _).2 ⟨by rw [fld, cat_hi _ _ _ _ (by decide), cat_hi _ _ _ _ (by decide), cat_hi _ _ _ _ (by decide), cat_hi _ _ _ _ (by decide), cat_hi _ _ _ _ (by decide), cat_lo _ _ _ _ (by decide)]; exact rfl, by rw [fld, cat_hi _ _ _ _ (by decide), cat_hi _ _ _ _ (by decide), cat_lo _ _ _ _ (by decide)]; exact rfl⟩
  refine ⟨by rw [isSX, e0]; rfl, ?_⟩
  delta decodeScalar
  rw [e0, f0, f1, f2, f3]
  exact if_pos hm

theorem read_kset (n : BitVec 3) (a : BitVec 6) (w1 : W32) :
    isSX (0x14#6 ++ 0#3 ++ n ++ a ++ 0#14) = false ∧ decodeScalar (0x14#6 ++ 0#3 ++ n ++ a ++ 0#14) w1 = .ok (.kset n a) := by
  have e0 : fld (0x14#6 ++ 0#3 ++ n ++ a ++ 0#14) 26 6 = 0x14#6 := by rw [fld, cat_hi _ _ _ _ (by decide), cat_hi _ _ _ _ (by decide), cat_hi _ _ _ _ (by decide), cat_hi _ _ _ _ (by decide)]; exact rfl
  have e1 : fld (0x14#6 ++ 0#3 ++ n ++ a ++ 0#14) 0 8 = 0#8 := by rw [fld, cat_lo _ _ _ _ (by decide)]; exact rfl
  have f0 : fld (0x14#6 ++ 0#3 ++ n ++ a ++ 0#14) 20 3 = n := by rw [fld, cat_hi _ _ _ _ (by decide), cat_hi _ _ _ _ (by decide), cat_lo _ _ _ _ (by decide)]; exact BitVec.extractLsb'_eq_self
  have f1 : fld (0x14#6 ++ 0#3 ++ n ++ a ++ 0#14) 14 6 = a := by rw [fld, cat_hi _ _ _ _ (by decide), cat_lo _ _ _ _ (by decide)]; exact BitVec.extractLsb'_eq_self
  have hm : (0x14#6 ++ 0#3 ++ n ++ a ++ 0#14) &&& 0x03803F00#32 = 0#32 := (mask_03803F00 _).2 ⟨by rw [fld, cat_hi _ _ _ _ (by decide), cat_hi _ _ _ _ (by decide), cat_hi _ _ _ _ (by decide), cat_lo _ _ _ _ (by decide)]; exact rfl, by rw [fld, cat_lo _ _ _ _ (by decide)]; exact rfl⟩
  refine ⟨by rw [isSX, e0]; rfl, ?_⟩
  delta decodeScalar
  rw [e0, e1, f0, f1]
  exact if_pos hm

theorem read_kget (d : BitVec 6) (a : BitVec 6) (w1 : W32) :
    isSX (0x14#6 ++ d ++ a ++ 1#14) = false ∧ decodeScalar (0x14#6 ++ d ++ a ++ 1#14) w1 = .ok (.kget d a) := by
  have e0 : fld (0x14#6 ++ d ++ a ++ 1#14) 26 6 = 0x14#6 := by rw [fld, cat_hi _ _ _ _ (by decide), cat_hi _ _ _ _ (by decide), cat_hi _ _ _ _ (by decide)]; exact rfl
  have e1 : fld (0x14#6 ++ d ++ a ++ 1#14) 0 8 = 1#8 := by rw [fld, cat_lo _ _ _ _ (by decide)]; exact rfl
  have e2 : (0x14#6 ++ d ++ a ++ 1#14).getLsbD 8 = false := by
    rw [getLsbD_fld, show fld (0x14#6 ++ d ++ a ++ 1#14) 8 1 = 0#1 from by rw [fld, cat_lo _ _ _ _ (by decide)]; exact rfl]; rfl
  have f0 : fld (0x14#6 ++ d ++ a ++ 1#14) 20 6 = d := by rw [fld, cat_hi _ _ _ _ (by decide), cat_hi _ _ _ _ (by decide), cat_lo _ _ _ _ (by decide)]; exact BitVec.extractLsb'_eq_self
  have f1 : fld (0x14#6 ++ d ++ a ++ 1#14) 14 6 = a := by rw [fld, cat_hi _ _ _ _ (by decide), cat_lo _ _ _ _ (by decide)]; exact BitVec.extractLsb'_eq_self
  have hm : (0x14#6 ++ d ++ a ++ 1#14) &&& 0x00003E00#32 = 0#32 := (mask_00003E00 _).2 (by rw [fld, cat_lo _ _ _ _ (by decide)]; exact rfl)
  refine ⟨by rw [isSX, e0]; rfl, ?_⟩
  delta decodeScalar
  rw [e0, e1, e2, f0, f1]
  exact if_pos hm

theorem read_kgetSet (d : BitVec 6) (a : BitVec 6) (w1 : W32) :
    isSX (0x14#6 ++ d ++ a ++ 257#14) = false ∧ decodeScalar (0x14#6 ++ d ++ a ++ 257#14) w1 = .ok (.kgetSet d a) := by
  have e0 : fld (0x14#6 ++ d ++ a ++ 257#14) 26 6 = 0x14#6 := by rw [fld, cat_hi _ _ _ _ (by decide), cat_hi _ _ _ _ (by decide), cat_hi _ _ _ _ (by decide)]; exact rfl
  have e1 : fld (0x14#6 ++ d ++ a ++ 257#14) 0 8 = 1#8 := by rw [fld, cat_lo _ _ _ _ (by decide)]; exact rfl
  have e2 : (0x14#6 ++ d ++ a ++ 257#14).getLsbD 8 = true := by
    rw [getLsbD_fld, show fld (0x14#6 ++ d ++ a ++ 257#14) 8 1 = 1#1 from by rw [fld, cat_lo _ _ _ _ (by decide)]; exact rfl]; rfl
  have f0 : fld (0x14#6 ++ d ++ a ++ 257#14) 20 6 = d := by rw [fld, cat_hi _ _ _ _ (by decide), cat_hi _ _ _ _ (by decide), cat_lo _ _ _ _ (by decide)]; exact BitVec.extractLsb'_eq_self
  have f1 : fld (0x14#6 ++ d ++ a ++ 257#14) 14 6 = a := by rw [fld, cat_hi _ _ _ _ (by decide), cat_lo _ _ _ _ (by decide)]; exact BitVec.extractLsb'_eq_self
  have hm : (0x14#6 ++ d ++ a ++ 257#14) &&& 0x00003E00#32 = 0#32 := (mask_00003E00 _).2 (by rw [fld, cat_lo _ _ _ _ (by decide)]; exact rfl)
  refine ⟨by rw [isSX, e0]; rfl, ?_⟩
  delta decodeScalar
  rw [e0, e1, e2, f0, f1]
  exact if_pos hm

theorem read_krev (n : BitVec 3) (a : BitVec 6) (b : BitVec 6) (w1 : W32) :
    isSX (0x14#6 ++ 0#3 ++ n ++ a ++ b ++ 2#8) = false ∧ decodeScalar (0x14#6 ++ 0#3 ++ n ++ a ++ b ++ 2#8) w1 = .ok (.krev n a b) := by
  have e0 : fld (0x14#6 ++ 0#3 ++ n ++ a ++ b ++ 2#8) 26 6 = 0x14#6 := by rw [fld, cat_hi _ _ _ _ (by decide), cat_hi _ _ _ _ (by decide), cat_hi _ _ _ _ (by decide), cat_hi _ _ _ _ (by decide), cat_hi _ _ _ _ (by decide)]; exact rfl
  have e1 : fld (0x14#6 ++ 0#3 ++ n ++ a ++ b ++ 2#8) 0 8 = 2#8 := by rw [fld, cat_lo _ _ _ _ (by decide)]; exact rfl
  have f0 : fld (0x14#6 ++ 0#3 ++ n ++ a ++ b ++ 2#8) 20 3 = n := by rw [fld, cat_hi _ _ _ _ (by decide), cat_hi _ _ _ _ (by decide), cat_hi _ _ _ _ (by decide), cat_lo _ _ _ _ (by decide)]; exact BitVec.extractLsb'_eq_self
  have f1 : fld (0x14#6 ++ 0#3 ++ n ++ a ++ b ++ 2#8) 14 6 = a := by rw [fld, cat_hi _ _ _ _ (by decide), cat_hi _ _ _ _ (by decide), cat_lo _ _ _ _ (by decide)]; exact BitVec.extractLsb'_eq_self
  have f2 : fld (0x14#6 ++ 0#3 ++ n ++ a ++ b ++ 2#8) 8 6 = b := by rw [fld, cat_hi _ _ _ _ (by decide), cat_lo _ _ _ _ (by decide)]; exact BitVec.extractLsb'_eq_self
  have hm : (0x14#6 ++ 0#3 ++ n ++ a ++ b ++ 2#8) &&& 0x03800000#32 = 0#32 := (mask_03800000 _).2 (by rw [fld, cat_hi _ _ _ _ (by decide), cat_hi _ _ _ _ (by decide), cat_hi _ _ _ _ (by decide), cat_hi _ _ _ _ (by decide), cat_lo _ _ _ _ (by decide)]; exact rfl)
  refine ⟨by rw [isSX, e0]; rfl, ?_⟩
  delta decodeScalar
  rw [e0, e1, f0, f1, f2]
  exact if_pos hm

theorem read_kdrop (a : BitVec 6) (b : BitVec 6) (w1 : W32) :
    isSX (0x14#6 ++ 0#6 ++ a ++ b ++ 3#8) = false ∧ decodeScalar (0x14#6 ++ 0#6 ++ a ++ b ++ 3#8) w1 = .ok (.kdrop a b) := by
  have e0 : fld (0x14#6 ++ 0#6 ++ a ++ b ++ 3#8) 26 6 = 0x14#6 := by rw [fld, cat_hi _ _ _ _ (by decide), cat_hi _ _ _ _ (by decide), cat_hi _ _ _ _ (by decide), cat_hi _ _ _ _ (by decide)]; exact rfl
  have e1 : fld (0x14#6 ++ 0#6 ++ a ++ b ++ 3#8) 0 8 = 3#8 := by rw [fld, cat_lo _ _ _ _ (by decide)]; exact rfl
  have f0 : fld (0x14#6 ++ 0#6 ++ a ++ b ++ 3#8) 14 6 = a := by rw [fld, cat_hi _ _ _ _ (by decide), cat_hi _ _ _ _ (by decide), cat_lo _ _ _ _ (by decide)]; exact BitVec.extractLsb'_eq_self
  have f1 : fld (0x14#6 ++ 0#6 ++ a ++ b ++ 3#8) 8 6 = b := by rw [fld, cat_hi _ _ _ _ (by decide), cat_lo _ _ _ _ (by decide)]; exact BitVec.extractLsb'_eq_self
  have hm : (0x14#6 ++ 0#6 ++ a ++ b ++ 3#8) &&& 0x03F00000#32 = 0#32 := (mask_03F00000 _).2 (by rw [fld, cat_hi _ _ _ _ (by decide), cat_hi _ _ _ _ (by decide), cat_hi _ _ _ _ (by decide), cat_lo _ _ _ _ (by decide)]; exact rfl)
  refine ⟨by rw [isSX, e0]; rfl, ?_⟩
  delta decodeScalar
  rw [e0, e1, f0, f1]
  exact if_pos hm

theorem read_barArv (d : BitVec 6) (a : BitVec 6) (b : BitVec 6) (w1 : W32) :
    isSX (0x15#6 ++ d ++ a ++ b ++ 0#8) = false ∧ decodeScalar (0x15#6 ++ d ++ a ++ b ++ 0#8) w1 = .ok (.barArv d a b) := by
  have e0 : fld (0x15#6 ++ d ++ a ++ b ++ 0#8) 26 6 = 0x15#6 := by rw [fld, cat_hi _ _ _ _ (by decide), cat_hi _ _ _ _ (by decide), cat_hi _ _ _ _ (by decide), cat_hi _ _ _ _ (by decide)]; exact rfl
  have e1 : fld (0x15#6 ++ d ++ a ++ b ++ 0#8) 0 8 = 0#8 := by rw [fld, cat_lo _ _ _ _ (by decide)]; exact rfl
  have f0 : fld (0x15#6 ++ d ++ a ++ b ++ 0#8) 20 6 = d := by rw [fld, cat_hi _ _ _ _ (by decide), cat_hi _ _ _ _ (by decide), cat_hi _ _ _ _ (by decide), cat_lo _ _ _ _ (by decide)]; exact BitVec.extractLsb'_eq_self
  have f1 : fld (0x15#6 ++ d ++ a ++ b ++ 0#8) 14 6 = a := by rw [fld, cat_hi _ _ _ _ (by decide), cat_hi _ _ _ _ (by decide), cat_lo _ _ _ _ (by decide)]; exact BitVec.extractLsb'_eq_self
  have f2 : fld (0x15#6 ++ d ++ a ++ b ++ 0#8) 8 6 = b := by rw [fld, cat_hi _ _ _ _ (by decide), cat_lo _ _ _ _ (by decide)]; exact BitVec.extractLsb'_eq_self
  refine ⟨by rw [isSX, e0]; rfl, ?_⟩
  delta decodeScalar
  rw [e0, e1, f0, f1, f2]
  rfl

theorem read_barWt (a : BitVec 6) (b : BitVec 6) (w1 : W32) :
    isSX (0x15#6 ++ 0#6 ++ a ++ b ++ 1#8) = false ∧ decodeScalar (0x15#6 ++ 0#6 ++ a ++ b ++ 1#8) w1 = .ok (.barWt a b) := by
  have e0 : fld (0x15#6 ++ 0#6 ++ a ++ b ++ 1#8) 26 6 = 0x15#6 := by rw [fld, cat_hi _ _ _ _ (by decide), cat_hi _ _ _ _ (by decide), cat_hi _ _ _ _ (by decide), cat_hi _ _ _ _ (by decide)]; exact rfl
  have e1 : fld (0x15#6 ++ 0#6 ++ a ++ b ++ 1#8) 0 8 = 1#8 := by rw [fld, cat_lo _ _ _ _ (by decide)]; exact rfl
  have f0 : fld (0x15#6 ++ 0#6 ++ a ++ b ++ 1#8) 14 6 = a := by rw [fld, cat_hi _ _ _ _ (by decide), cat_hi _ _ _ _ (by decide), cat_lo _ _ _ _ (by decide)]; exact BitVec.extractLsb'_eq_self
  have f1 : fld (0x15#6 ++ 0#6 ++ a ++ b ++ 1#8) 8 6 = b := by rw [fld, cat_hi _ _ _ _ (by decide), cat_lo _ _ _ _ (by decide)]; exact BitVec.extractLsb'_eq_self
  have hm : (0x15#6 ++ 0#6 ++ a ++ b ++ 1#8) &&& 0x03F00000#32 = 0#32 := (mask_03F00000 _).2 (by rw [fld, cat_hi _ _ _ _ (by decide), cat_hi _ _ _ _ (by decide), cat_hi _ _ _ _ (by decide), cat_lo _ _ _ _ (by decide)]; exact rfl)
  refine ⟨by rw [isSX, e0]; rfl, ?_⟩
  delta decodeScalar
  rw [e0, e1, f0, f1]
  exact if_pos hm

theorem read_barArw (a : BitVec 6) (b : BitVec 6) (w1 : W32) :
    isSX (0x15#6 ++ 0#6 ++ a ++ b ++ 2#8) = false ∧ decodeScalar (0x15#6 ++ 0#6 ++ a ++ b ++ 2#8) w1 = .ok (.barArw a b) := by
  have e0 : fld (0x15#6 ++ 0#6 ++ a ++ b ++ 2#8) 26 6 = 0x15#6 := by rw [fld, cat_hi _ _ _ _ (by decide), cat_hi _ _ _ _ (by decide), cat_hi _ _ _ _ (by decide), cat_hi _ _ _ _ (by decide)]; exact rfl
  have e1 : fld (0x15#6 ++ 0#6 ++ a ++ b ++ 2#8) 0 8 = 2#8 := by rw [fld, cat_lo _ _ _ _ (by decide)]; exact rfl
  have f0 : fld (0x15#6 ++ 0#6 ++ a ++ b ++ 2#8) 14 6 = a := by rw [fld, cat_hi _ _ _ _ (by decide), cat_hi _ _ _ _ (by decide), cat_lo _ _ _ _ (by decide)]; exact BitVec.extractLsb'_eq_self
  have f1 : fld (0x15#6 ++ 0#6 ++ a ++ b ++ 2#8) 8 6 = b := by rw [fld, cat_hi _ _ _ _ (by decide), cat_lo _ _ _ _ (by decide)]; exact BitVec.extractLsb'_eq_self
  have hm : (0x15#6 ++ 0#6 ++ a ++ b ++ 2#8) &&& 0x03F00000#32 = 0#32 := (mask_03F00000 _).2 (by rw [fld, cat_hi _ _ _ _ (by decide), cat_hi _ _ _ _ (by decide), cat_hi _ _ _ _ (by decide), cat_lo _ _ _ _ (by decide)]; exact rfl)
  refine ⟨by rw [isSX, e0]; rfl, ?_⟩
  delta decodeScalar
  rw [e0, e1, f0, f1]
  exact if_pos hm

theorem read_barInit (a : BitVec 6) (b : BitVec 6) (w1 : W32) :
    isSX (0x15#6 ++ 0#6 ++ a ++ b ++ 3#8) = false ∧ decodeScalar (0x15#6 ++ 0#6 ++ a ++ b ++ 3#8) w1 = .ok (.barInit a b) := by
  have e0 : fld (0x15#6 ++ 0#6 ++ a ++ b ++ 3#8) 26 6 = 0x15#6 := by rw [fld, cat_hi _ _ _ _ (by decide), cat_hi _ _ _ _ (by decide), cat_hi _ _ _ _ (by decide), cat_hi _ _ _ _ (by decide)]; exact rfl
  have e1 : fld (0x15#6 ++ 0#6 ++ a ++ b ++ 3#8) 0 8 = 3#8 := by rw [fld, cat_lo _ _ _ _ (by decide)]; exact rfl
  have f0 : fld (0x15#6 ++ 0#6 ++ a ++ b ++ 3#8) 14 6 = a := by rw [fld, cat_hi _ _ _ _ (by decide), cat_hi _ _ _ _ (by decide), cat_lo _ _ _ _ (by decide)]; exact BitVec.extractLsb'_eq_self
  have f1 : fld (0x15#6 ++ 0#6 ++ a ++ b ++ 3#8) 8 6 = b := by rw [fld, cat_hi _ _ _ _ (by decide), cat_lo _ _ _ _ (by decide)]; exact BitVec.extractLsb'_eq_self
  have hm : (0x15#6 ++ 0#6 ++ a ++ b ++ 3#8) &&& 0x03F00000#32 = 0#32 := (mask_03F00000 _).2 (by rw [fld, cat_hi _ _ _ _ (by decide), cat_hi _ _ _ _ (by decide), cat_hi _ _ _ _ (by decide), cat_lo _ _ _ _ (by decide)]; exact rfl)
  refine ⟨by rw [isSX, e0]; rfl, ?_⟩
  delta decodeScalar
  rw [e0, e1, f0, f1]
  exact if_pos hm

theorem read_hbarArv (d : BitVec 6) (l : BitVec 3) (w1 : W32) :
    isSX (0x16#6 ++ d ++ 0#15 ++ l ++ 0#2) = false ∧ decodeScalar (0x16#6 ++ d ++ 0#15 ++ l ++ 0#2) w1 = .ok (.hbarArv d l) := by
  have e0 : fld (0x16#6 ++ d ++ 0#15 ++ l ++ 0#2) 26 6 = 0x16#6 := by rw [fld, cat_hi _ _ _ _ (by decide), cat_hi _ _ _ _ (by decide), cat_hi _ _ _ _ (by decide), cat_hi _ _ _ _ (by decide)]; exact rfl
  have e1 : fld (0x16#6 ++ d ++ 0#15 ++ l ++ 0#2) 0 2 = 0#2 := by rw [fld, cat_lo _ _ _ _ (by decide)]; exact rfl
  have f0 : fld (0x16#6 ++ d ++ 0#15 ++ l ++ 0#2) 20 6 = d := by rw [fld, cat_hi _ _ _ _ (by decide), cat_hi _ _ _ _ (by decide), cat_hi _ _ _ _ (by decide), cat_lo _ _ _ _ (by decide)]; exact BitVec.extractLsb'_eq_self
  have f1 : fld (0x16#6 ++ d ++ 0#15 ++ l ++ 0#2) 2 3 = l := by rw [fld, cat_hi _ _ _ _ (by decide), cat_lo _ _ _ _ (by decide)]; exact BitVec.extractLsb'_eq_self
  have hm : (0x16#6 ++ d ++ 0#15 ++ l ++ 0#2) &&& 0x000FFFE0#32 = 0#32 := (mask_000FFFE0 _).2 (by rw [fld, cat_hi _ _ _ _ (by decide), cat_hi _ _ _ _ (by decide), cat_lo _ _ _ _ (by decide)]; exact rfl)
  refine ⟨by rw [isSX, e0]; rfl, ?_⟩
  delta decodeScalar
  rw [e0, e1, f0, f1]
  exact if_pos hm

theorem read_hbarWt (a : BitVec 6) (l : BitVec 3) (w1 : W32) :
    isSX (0x16#6 ++ 0#6 ++ a ++ 0#9 ++ l ++ 1#2) = false ∧ decodeScalar (0x16#6 ++ 0#6 ++ a ++ 0#9 ++ l ++ 1#2) w1 = .ok (.hbarWt a l) := by
  have e0 : fld (0x16#6 ++ 0#6 ++ a ++ 0#9 ++ l ++ 1#2) 26 6 = 0x16#6 := by rw [fld, cat_hi _ _ _ _ (by decide), cat_hi _ _ _ _ (by decide), cat_hi _ _ _ _ (by decide), cat_hi _ _ _ _ (by decide), cat_hi _ _ _ _ (by decide)]; exact rfl
  have e1 : fld (0x16#6 ++ 0#6 ++ a ++ 0#9 ++ l ++ 1#2) 0 2 = 1#2 := by rw [fld, cat_lo _ _ _ _ (by decide)]; exact rfl
  have f0 : fld (0x16#6 ++ 0#6 ++ a ++ 0#9 ++ l ++ 1#2) 14 6 = a := by rw [fld, cat_hi _ _ _ _ (by decide), cat_hi _ _ _ _ (by decide), cat_hi _ _ _ _ (by decide), cat_lo _ _ _ _ (by decide)]; exact BitVec.extractLsb'_eq_self
  have f1 : fld (0x16#6 ++ 0#6 ++ a ++ 0#9 ++ l ++ 1#2) 2 3 = l := by rw [fld, cat_hi _ _ _ _ (by decide), cat_lo _ _ _ _ (by decide)]; exact BitVec.extractLsb'_eq_self
  have hm : (0x16#6 ++ 0#6 ++ a ++ 0#9 ++ l ++ 1#2) &&& 0x03F03FE0#32 = 0#32 := (mask_03F03FE0 _).2 ⟨by rw [fld, cat_hi _ _ _ _ (by decide), cat_hi _ _ _ _ (by decide), cat_hi _ _ _ _ (by decide), cat_hi _ _ _ _ (by decide), cat_lo _ _ _ _ (by decide)]; exact rfl, by rw [fld, cat_hi _ _ _ _ (by decide), cat_hi _ _ _ _ (by decide), cat_lo _ _ _ _ (by decide)]; exact rfl⟩
  refine ⟨by rw [isSX, e0]; rfl, ?_⟩
  delta decodeScalar
  rw [e0, e1, f0, f1]
  exact if_pos hm

theorem read_hbarArw (l : BitVec 3) (w1 : W32) :
    isSX (0x16#6 ++ 0#21 ++ l ++ 2#2) = false ∧ decodeScalar (0x16#6 ++ 0#21 ++ l ++ 2#2) w1 = .ok (.hbarArw l) := by
  have e0 : fld (0x16#6 ++ 0#21 ++ l ++ 2#2) 26 6 = 0x16#6 := by rw [fld, cat_hi _ _ _ _ (by decide), cat_hi _ _ _ _ (by decide), cat_hi _ _ _ _ (by decide)]; exact rfl
  have e1 : fld (0x16#6 ++ 0#21 ++ l ++ 2#2) 0 2 = 2#2 := by rw [fld, cat_lo _ _ _ _ (by decide)]; exact rfl
  have f0 : fld (0x16#6 ++ 0#21 ++ l ++ 2#2) 2 3 = l := by rw [fld, cat_hi _ _ _ _ (by decide), cat_lo _ _ _ _ (by decide)]; exact BitVec.extractLsb'_eq_self
  have hm : (0x16#6 ++ 0#21 ++ l ++ 2#2) &&& 0x03FFFFE0#32 = 0#32 := (mask_03FFFFE0 _).2 (by rw [fld, cat_hi _ _ _ _ (by decide), cat_hi _ _ _ _ (by decide), cat_lo _ _ _ _ (by decide)]; exact rfl)
  refine ⟨by rw [isSX, e0]; rfl, ?_⟩
  delta decodeScalar
  rw [e0, e1, f0]
  exact if_pos hm

theorem read_fence (k : BitVec 2) (s : BitVec 3) (w1 : W32) :
    isSX (0x17#6 ++ 0#21 ++ k ++ s) = false ∧ decodeScalar (0x17#6 ++ 0#21 ++ k ++ s) w1 = .ok (.fence k s) := by
  have e0 : fld (0x17#6 ++ 0#21 ++ k ++ s) 26 6 = 0x17#6 := by rw [fld, cat_hi _ _ _ _ (by decide), cat_hi _ _ _ _ (by decide), cat_hi _ _ _ _ (by decide)]; exact rfl
  have f0 : fld (0x17#6 ++ 0#21 ++ k ++ s) 3 2 = k := by rw [fld, cat_hi _ _ _ _ (by decide), cat_lo _ _ _ _ (by decide)]; exact BitVec.extractLsb'_eq_self
  have f1 : fld (0x17#6 ++ 0#21 ++ k ++ s) 0 3 = s := by rw [fld, cat_lo _ _ _ _ (by decide)]; exact BitVec.extractLsb'_eq_self
  have hm : (0x17#6 ++ 0#21 ++ k ++ s) &&& 0x03FFFFE0#32 = 0#32 := (mask_03FFFFE0 _).2 (by rw [fld, cat_hi _ _ _ _ (by decide), cat_hi _ _ _ _ (by decide), cat_lo _ _ _ _ (by decide)]; exact rfl)
  refine ⟨by rw [isSX, e0]; rfl, ?_⟩
  delta decodeScalar
  rw [e0, f0, f1]
  exact if_pos hm

theorem read_br (c : BitVec 3) (n : BitVec 1) (o : BitVec 22) (w1 : W32) :
    isSX (0x18#6 ++ c ++ n ++ o) = false ∧ decodeScalar (0x18#6 ++ c ++ n ++ o) w1 = .ok (.br c n o) := by
  have e0 : fld (0x18#6 ++ c ++ n ++ o) 26 6 = 0x18#6 := by rw [fld, cat_hi _ _ _ _ (by decide), cat_hi _ _ _ _ (by decide), cat_hi _ _ _ _ (by decide)]; exact rfl
  have f0 : fld (0x18#6 ++ c ++ n ++ o) 23 3 = c := by rw [fld, cat_hi _ _ _ _ (by decide), cat_hi _ _ _ _ (by decide), cat_lo _ _ _ _ (by decide)]; exact BitVec.extractLsb'_eq_self
  have f1 : fld (0x18#6 ++ c ++ n ++ o) 22 1 = n := by rw [fld, cat_hi _ _ _ _ (by decide), cat_lo _ _ _ _ (by decide)]; exact BitVec.extractLsb'_eq_self
  have f2 : fld (0x18#6 ++ c ++ n ++ o) 0 22 = o := by rw [fld, cat_lo _ _ _ _ (by decide)]; exact BitVec.extractLsb'_eq_self
  refine ⟨by rw [isSX, e0]; rfl, ?_⟩
  delta decodeScalar
  rw [e0, f0, f1, f2]
  rfl

theorem read_call (c : BitVec 3) (n : BitVec 1) (o : BitVec 22) (w1 : W32) :
    isSX (0x19#6 ++ c ++ n ++ o) = false ∧ decodeScalar (0x19#6 ++ c ++ n ++ o) w1 = .ok (.call c n o) := by
  have e0 : fld (0x19#6 ++ c ++ n ++ o) 26 6 = 0x19#6 := by rw [fld, cat_hi _ _ _ _ (by decide), cat_hi _ _ _ _ (by decide), cat_hi _ _ _ _ (by decide)]; exact rfl
  have f0 : fld (0x19#6 ++ c ++ n ++ o) 23 3 = c := by rw [fld, cat_hi _ _ _ _ (by decide), cat_hi _ _ _ _ (by decide), cat_lo _ _ _ _ (by decide)]; exact BitVec.extractLsb'_eq_self
  have f1 : fld (0x19#6 ++ c ++ n ++ o) 22 1 = n := by rw [fld, cat_hi _ _ _ _ (by decide), cat_lo _ _ _ _ (by decide)]; exact BitVec.extractLsb'_eq_self
  have f2 : fld (0x19#6 ++ c ++ n ++ o) 0 22 = o := by rw [fld, cat_lo _ _ _ _ (by decide)]; exact BitVec.extractLsb'_eq_self
  refine ⟨by rw [isSX, e0]; rfl, ?_⟩
  delta decodeScalar
  rw [e0, f0, f1, f2]
  rfl

theorem read_jmp (a : BitVec 6) (w1 : W32) :
    isSX (0x1A#6 ++ 0#6 ++ a ++ 0#14) = false ∧ decodeScalar (0x1A#6 ++ 0#6 ++ a ++ 0#14) w1 = .ok (.jmp a) := by
  have e0 : fld (0x1A#6 ++ 0#6 ++ a ++ 0#14) 26 6 = 0x1A#6 := by rw [fld, cat_hi _ _ _ _ (by decide), cat_hi _ _ _ _ (by decide), cat_hi _ _ _ _ (by decide)]; exact rfl
  have f0 : fld (0x1A#6 ++ 0#6 ++ a ++ 0#14) 14 6 = a := by rw [fld, cat_hi _ _ _ _ (by decide), cat_lo _ _ _ _ (by decide)]; exact BitVec.extractLsb'_eq_self
  have hm : (0x1A#6 ++ 0#6 ++ a ++ 0#14) &&& 0x03F03FFF#32 = 0#32 := (mask_03F03FFF _).2 ⟨by rw [fld, cat_hi _ _ _ _ (by decide), cat_hi _ _ _ _ (by decide), cat_lo _ _ _ _ (by decide)]; exact rfl, by rw [fld, cat_lo _ _ _ _ (by decide)]; exact rfl⟩
  refine ⟨by rw [isSX, e0]; rfl, ?_⟩
  delta decodeScalar
  rw [e0, f0]
  exact if_pos hm

theorem read_ret (w1 : W32) :
    isSX (0x1B#6 ++ 0#26) = false ∧ decodeScalar (0x1B#6 ++ 0#26) w1 = .ok (.ret) := by
  have e0 : fld (0x1B#6 ++ 0#26) 26 6 = 0x1B#6 := by rw [fld, cat_hi _ _ _ _ (by decide)]; exact rfl
  have hm : (0x1B#6 ++ 0#26) &&& 0x03FFFFFF#32 = 0#32 := (mask_03FFFFFF _).2 (by rw [fld, cat_lo _ _ _ _ (by decide)]; exact rfl)
  refine ⟨by rw [isSX, e0]; rfl, ?_⟩
  delta decodeScalar
  rw [e0]
  exact if_pos hm

theorem read_lx (w : W32) :
    isSX (0x1C#6 ++ 0#26) = true ∧ decodeScalar (0x1C#6 ++ 0#26) w = .ok (.lx w) := by
  have e0 : fld (0x1C#6 ++ 0#26) 26 6 = 0x1C#6 := by rw [fld, cat_hi _ _ _ _ (by decide)]; exact rfl
  have hm : (0x1C#6 ++ 0#26) &&& 0x03FFFFFF#32 = 0#32 := (mask_03FFFFFF _).2 (by rw [fld, cat_lo _ _ _ _ (by decide)]; exact rfl)
  refine ⟨by rw [isSX, e0]; rfl, ?_⟩
  delta decodeScalar
  rw [e0]
  exact if_pos hm

theorem read_exit (w1 : W32) :
    isSX (0x1D#6 ++ 0#26) = false ∧ decodeScalar (0x1D#6 ++ 0#26) w1 = .ok (.exit) := by
  have e0 : fld (0x1D#6 ++ 0#26) 26 6 = 0x1D#6 := by rw [fld, cat_hi _ _ _ _ (by decide)]; exact rfl
  have hm : (0x1D#6 ++ 0#26) &&& 0x03FFFFFF#32 = 0#32 := (mask_03FFFFFF _).2 (by rw [fld, cat_lo _ _ _ _ (by decide)]; exact rfl)
  refine ⟨by rw [isSX, e0]; rfl, ?_⟩
  delta decodeScalar
  rw [e0]
  exact if_pos hm

theorem read_wait (a : BitVec 6) (p : BitVec 2) (w1 : W32) :
    isSX (0x1E#6 ++ 0#6 ++ a ++ 0#12 ++ p) = false ∧ decodeScalar (0x1E#6 ++ 0#6 ++ a ++ 0#12 ++ p) w1 = .ok (.wait a p) := by
  have e0 : fld (0x1E#6 ++ 0#6 ++ a ++ 0#12 ++ p) 26 6 = 0x1E#6 := by rw [fld, cat_hi _ _ _ _ (by decide), cat_hi _ _ _ _ (by decide), cat_hi _ _ _ _ (by decide), cat_hi _ _ _ _ (by decide)]; exact rfl
  have e1 : fld (0x1E#6 ++ 0#6 ++ a ++ 0#12 ++ p) 2 6 = 0#6 := by rw [fld, cat_hi _ _ _ _ (by decide), cat_lo _ _ _ _ (by decide)]; exact rfl
  have f0 : fld (0x1E#6 ++ 0#6 ++ a ++ 0#12 ++ p) 14 6 = a := by rw [fld, cat_hi _ _ _ _ (by decide), cat_hi _ _ _ _ (by decide), cat_lo _ _ _ _ (by decide)]; exact BitVec.extractLsb'_eq_self
  have f1 : fld (0x1E#6 ++ 0#6 ++ a ++ 0#12 ++ p) 0 2 = p := by rw [fld, cat_lo _ _ _ _ (by decide)]; exact BitVec.extractLsb'_eq_self
  have hm : (0x1E#6 ++ 0#6 ++ a ++ 0#12 ++ p) &&& 0x03F03F00#32 = 0#32 := (mask_03F03F00 _).2 ⟨by rw [fld, cat_hi _ _ _ _ (by decide), cat_hi _ _ _ _ (by decide), cat_hi _ _ _ _ (by decide), cat_lo _ _ _ _ (by decide)]; exact rfl, by rw [fld, cat_hi _ _ _ _ (by decide), cat_lo _ _ _ _ (by decide)]; exact rfl⟩
  refine ⟨by rw [isSX, e0]; rfl, ?_⟩
  delta decodeScalar
  rw [e0, e1, f0, f1]
  exact if_pos hm

theorem read_trapf (w1 : W32) :
    isSX (0x1F#6 ++ 0#26) = false ∧ decodeScalar (0x1F#6 ++ 0#26) w1 = .ok (.trapf) := by
  have e0 : fld (0x1F#6 ++ 0#26) 26 6 = 0x1F#6 := by rw [fld, cat_hi _ _ _ _ (by decide)]; exact rfl
  have hm : (0x1F#6 ++ 0#26) &&& 0x03FFFFFF#32 = 0#32 := (mask_03FFFFFF _).2 (by rw [fld, cat_lo _ _ _ _ (by decide)]; exact rfl)
  refine ⟨by rw [isSX, e0]; rfl, ?_⟩
  delta decodeScalar
  rw [e0]
  exact if_pos hm

theorem read_jtok (o : BitVec 21) (w1 : W32) :
    isSX (0x20#6 ++ 0#5 ++ o) = false ∧ decodeScalar (0x20#6 ++ 0#5 ++ o) w1 = .ok (.jtok o) := by
  have e0 : fld (0x20#6 ++ 0#5 ++ o) 26 6 = 0x20#6 := by rw [fld, cat_hi _ _ _ _ (by decide), cat_hi _ _ _ _ (by decide)]; exact rfl
  have f0 : fld (0x20#6 ++ 0#5 ++ o) 0 21 = o := by rw [fld, cat_lo _ _ _ _ (by decide)]; exact BitVec.extractLsb'_eq_self
  have hm : (0x20#6 ++ 0#5 ++ o) &&& 0x03E00000#32 = 0#32 := (mask_03E00000 _).2 (by rw [fld, cat_hi _ _ _ _ (by decide), cat_lo _ _ _ _ (by decide)]; exact rfl)
  refine ⟨by rw [isSX, e0]; rfl, ?_⟩
  delta decodeScalar
  rw [e0, f0]
  exact if_pos hm

theorem read_dvg (k : BitVec 3) (s : BitVec 1) (n : BitVec 1) (o : BitVec 21) (w1 : W32) :
    isSX (0x21#6 ++ k ++ s ++ n ++ o) = false ∧ decodeScalar (0x21#6 ++ k ++ s ++ n ++ o) w1 = .ok (.dvg k s n o) := by
  have e0 : fld (0x21#6 ++ k ++ s ++ n ++ o) 26 6 = 0x21#6 := by rw [fld, cat_hi _ _ _ _ (by decide), cat_hi _ _ _ _ (by decide), cat_hi _ _ _ _ (by decide), cat_hi _ _ _ _ (by decide)]; exact rfl
  have f0 : fld (0x21#6 ++ k ++ s ++ n ++ o) 23 3 = k := by rw [fld, cat_hi _ _ _ _ (by decide), cat_hi _ _ _ _ (by decide), cat_hi _ _ _ _ (by decide), cat_lo _ _ _ _ (by decide)]; exact BitVec.extractLsb'_eq_self
  have f1 : fld (0x21#6 ++ k ++ s ++ n ++ o) 22 1 = s := by rw [fld, cat_hi _ _ _ _ (by decide), cat_hi _ _ _ _ (by decide), cat_lo _ _ _ _ (by decide)]; exact BitVec.extractLsb'_eq_self
  have f2 : fld (0x21#6 ++ k ++ s ++ n ++ o) 21 1 = n := by rw [fld, cat_hi _ _ _ _ (by decide), cat_lo _ _ _ _ (by decide)]; exact BitVec.extractLsb'_eq_self
  have f3 : fld (0x21#6 ++ k ++ s ++ n ++ o) 0 21 = o := by rw [fld, cat_lo _ _ _ _ (by decide)]; exact BitVec.extractLsb'_eq_self
  refine ⟨by rw [isSX, e0]; rfl, ?_⟩
  delta decodeScalar
  rw [e0, f0, f1, f2, f3]
  rfl

theorem read_nxt (w1 : W32) :
    isSX (0x22#6 ++ 0#26) = false ∧ decodeScalar (0x22#6 ++ 0#26) w1 = .ok (.nxt) := by
  have e0 : fld (0x22#6 ++ 0#26) 26 6 = 0x22#6 := by rw [fld, cat_hi _ _ _ _ (by decide)]; exact rfl
  have hm : (0x22#6 ++ 0#26) &&& 0x03FFFFFF#32 = 0#32 := (mask_03FFFFFF _).2 (by rw [fld, cat_lo _ _ _ _ (by decide)]; exact rfl)
  refine ⟨by rw [isSX, e0]; rfl, ?_⟩
  delta decodeScalar
  rw [e0]
  exact if_pos hm

theorem read_lpb (o : BitVec 21) (w1 : W32) :
    isSX (0x23#6 ++ 0#5 ++ o) = false ∧ decodeScalar (0x23#6 ++ 0#5 ++ o) w1 = .ok (.lpb o) := by
  have e0 : fld (0x23#6 ++ 0#5 ++ o) 26 6 = 0x23#6 := by rw [fld, cat_hi _ _ _ _ (by decide), cat_hi _ _ _ _ (by decide)]; exact rfl
  have f0 : fld (0x23#6 ++ 0#5 ++ o) 0 21 = o := by rw [fld, cat_lo _ _ _ _ (by decide)]; exact BitVec.extractLsb'_eq_self
  have hm : (0x23#6 ++ 0#5 ++ o) &&& 0x03E00000#32 = 0#32 := (mask_03E00000 _).2 (by rw [fld, cat_hi _ _ _ _ (by decide), cat_lo _ _ _ _ (by decide)]; exact rfl)
  refine ⟨by rw [isSX, e0]; rfl, ?_⟩
  delta decodeScalar
  rw [e0, f0]
  exact if_pos hm

theorem read_lpe (k : BitVec 3) (s : BitVec 1) (n : BitVec 1) (o : BitVec 21) (w1 : W32) :
    isSX (0x24#6 ++ k ++ s ++ n ++ o) = false ∧ decodeScalar (0x24#6 ++ k ++ s ++ n ++ o) w1 = .ok (.lpe k s n o) := by
  have e0 : fld (0x24#6 ++ k ++ s ++ n ++ o) 26 6 = 0x24#6 := by rw [fld, cat_hi _ _ _ _ (by decide), cat_hi _ _ _ _ (by decide), cat_hi _ _ _ _ (by decide), cat_hi _ _ _ _ (by decide)]; exact rfl
  have f0 : fld (0x24#6 ++ k ++ s ++ n ++ o) 23 3 = k := by rw [fld, cat_hi _ _ _ _ (by decide), cat_hi _ _ _ _ (by decide), cat_hi _ _ _ _ (by decide), cat_lo _ _ _ _ (by decide)]; exact BitVec.extractLsb'_eq_self
  have f1 : fld (0x24#6 ++ k ++ s ++ n ++ o) 22 1 = s := by rw [fld, cat_hi _ _ _ _ (by decide), cat_hi _ _ _ _ (by decide), cat_lo _ _ _ _ (by decide)]; exact BitVec.extractLsb'_eq_self
  have f2 : fld (0x24#6 ++ k ++ s ++ n ++ o) 21 1 = n := by rw [fld, cat_hi _ _ _ _ (by decide), cat_lo _ _ _ _ (by decide)]; exact BitVec.extractLsb'_eq_self
  have f3 : fld (0x24#6 ++ k ++ s ++ n ++ o) 0 21 = o := by rw [fld, cat_lo _ _ _ _ (by decide)]; exact BitVec.extractLsb'_eq_self
  refine ⟨by rw [isSX, e0]; rfl, ?_⟩
  delta decodeScalar
  rw [e0, f0, f1, f2, f3]
  rfl

theorem read_brk (k : BitVec 3) (s : BitVec 1) (n : BitVec 1) (w1 : W32) :
    isSX (0x25#6 ++ k ++ s ++ n ++ 0#21) = false ∧ decodeScalar (0x25#6 ++ k ++ s ++ n ++ 0#21) w1 = .ok (.brk k s n) := by
  have e0 : fld (0x25#6 ++ k ++ s ++ n ++ 0#21) 26 6 = 0x25#6 := by rw [fld, cat_hi _ _ _ _ (by decide), cat_hi _ _ _ _ (by decide), cat_hi _ _ _ _ (by decide), cat_hi _ _ _ _ (by decide)]; exact rfl
  have f0 : fld (0x25#6 ++ k ++ s ++ n ++ 0#21) 23 3 = k := by rw [fld, cat_hi _ _ _ _ (by decide), cat_hi _ _ _ _ (by decide), cat_hi _ _ _ _ (by decide), cat_lo _ _ _ _ (by decide)]; exact BitVec.extractLsb'_eq_self
  have f1 : fld (0x25#6 ++ k ++ s ++ n ++ 0#21) 22 1 = s := by rw [fld, cat_hi _ _ _ _ (by decide), cat_hi _ _ _ _ (by decide), cat_lo _ _ _ _ (by decide)]; exact BitVec.extractLsb'_eq_self
  have f2 : fld (0x25#6 ++ k ++ s ++ n ++ 0#21) 21 1 = n := by rw [fld, cat_hi _ _ _ _ (by decide), cat_lo _ _ _ _ (by decide)]; exact BitVec.extractLsb'_eq_self
  have hm : (0x25#6 ++ k ++ s ++ n ++ 0#21) &&& 0x001FFFFF#32 = 0#32 := (mask_001FFFFF _).2 (by rw [fld, cat_lo _ _ _ _ (by decide)]; exact rfl)
  refine ⟨by rw [isSX, e0]; rfl, ?_⟩
  delta decodeScalar
  rw [e0, f0, f1, f2]
  exact if_pos hm

theorem read_seat (w1 : W32) :
    isSX (0x26#6 ++ 0#26) = false ∧ decodeScalar (0x26#6 ++ 0#26) w1 = .ok (.seat) := by
  have e0 : fld (0x26#6 ++ 0#26) 26 6 = 0x26#6 := by rw [fld, cat_hi _ _ _ _ (by decide)]; exact rfl
  have hm : (0x26#6 ++ 0#26) &&& 0x03FFFFFF#32 = 0#32 := (mask_03FFFFFF _).2 (by rw [fld, cat_lo _ _ _ _ (by decide)]; exact rfl)
  refine ⟨by rw [isSX, e0]; rfl, ?_⟩
  delta decodeScalar
  rw [e0]
  exact if_pos hm

theorem read_unseat (w1 : W32) :
    isSX (0x27#6 ++ 0#26) = false ∧ decodeScalar (0x27#6 ++ 0#26) w1 = .ok (.unseat) := by
  have e0 : fld (0x27#6 ++ 0#26) 26 6 = 0x27#6 := by rw [fld, cat_hi _ _ _ _ (by decide)]; exact rfl
  have hm : (0x27#6 ++ 0#26) &&& 0x03FFFFFF#32 = 0#32 := (mask_03FFFFFF _).2 (by rw [fld, cat_lo _ _ _ _ (by decide)]; exact rfl)
  refine ⟨by rw [isSX, e0]; rfl, ?_⟩
  delta decodeScalar
  rw [e0]
  exact if_pos hm

theorem read_sjoin (w : BitVec 11) (w1 : W32) :
    isSX (0x28#6 ++ 0#15 ++ w) = false ∧ decodeScalar (0x28#6 ++ 0#15 ++ w) w1 = .ok (.sjoin w) := by
  have e0 : fld (0x28#6 ++ 0#15 ++ w) 26 6 = 0x28#6 := by rw [fld, cat_hi _ _ _ _ (by decide), cat_hi _ _ _ _ (by decide)]; exact rfl
  have f0 : fld (0x28#6 ++ 0#15 ++ w) 0 11 = w := by rw [fld, cat_lo _ _ _ _ (by decide)]; exact BitVec.extractLsb'_eq_self
  have hm : (0x28#6 ++ 0#15 ++ w) &&& 0x03FFF800#32 = 0#32 := (mask_03FFF800 _).2 (by rw [fld, cat_hi _ _ _ _ (by decide), cat_lo _ _ _ _ (by decide)]; exact rfl)
  refine ⟨by rw [isSX, e0]; rfl, ?_⟩
  delta decodeScalar
  rw [e0, f0]
  exact if_pos hm

theorem read_qfence (q : BitVec 3) (w1 : W32) :
    isSX (0x29#6 ++ 0#23 ++ q) = false ∧ decodeScalar (0x29#6 ++ 0#23 ++ q) w1 = .ok (.qfence q) := by
  have e0 : fld (0x29#6 ++ 0#23 ++ q) 26 6 = 0x29#6 := by rw [fld, cat_hi _ _ _ _ (by decide), cat_hi _ _ _ _ (by decide)]; exact rfl
  have f0 : fld (0x29#6 ++ 0#23 ++ q) 0 3 = q := by rw [fld, cat_lo _ _ _ _ (by decide)]; exact BitVec.extractLsb'_eq_self
  have hm : (0x29#6 ++ 0#23 ++ q) &&& 0x03FFFFF8#32 = 0#32 := (mask_03FFFFF8 _).2 (by rw [fld, cat_hi _ _ _ _ (by decide), cat_lo _ _ _ _ (by decide)]; exact rfl)
  refine ⟨by rw [isSX, e0]; rfl, ?_⟩
  delta decodeScalar
  rw [e0, f0]
  exact if_pos hm

theorem read_snooze (a : BitVec 6) (w1 : W32) :
    isSX (0x2A#6 ++ 0#6 ++ a ++ 0#14) = false ∧ decodeScalar (0x2A#6 ++ 0#6 ++ a ++ 0#14) w1 = .ok (.snooze a) := by
  have e0 : fld (0x2A#6 ++ 0#6 ++ a ++ 0#14) 26 6 = 0x2A#6 := by rw [fld, cat_hi _ _ _ _ (by decide), cat_hi _ _ _ _ (by decide), cat_hi _ _ _ _ (by decide)]; exact rfl
  have e2 : (0x2A#6 ++ 0#6 ++ a ++ 0#14).getLsbD 0 = false := by
    rw [getLsbD_fld, show fld (0x2A#6 ++ 0#6 ++ a ++ 0#14) 0 1 = 0#1 from by rw [fld, cat_lo _ _ _ _ (by decide)]; exact rfl]; rfl
  have f0 : fld (0x2A#6 ++ 0#6 ++ a ++ 0#14) 14 6 = a := by rw [fld, cat_hi _ _ _ _ (by decide), cat_lo _ _ _ _ (by decide)]; exact BitVec.extractLsb'_eq_self
  have hm : (0x2A#6 ++ 0#6 ++ a ++ 0#14) &&& 0x03F03FFE#32 = 0#32 := (mask_03F03FFE _).2 ⟨by rw [fld, cat_hi _ _ _ _ (by decide), cat_hi _ _ _ _ (by decide), cat_lo _ _ _ _ (by decide)]; exact rfl, by rw [fld, cat_lo _ _ _ _ (by decide)]; exact rfl⟩
  refine ⟨by rw [isSX, e0]; rfl, ?_⟩
  delta decodeScalar
  rw [e0, e2, f0]
  exact if_pos hm

theorem read_snoozeAbs (a : BitVec 6) (w1 : W32) :
    isSX (0x2A#6 ++ 0#6 ++ a ++ 1#14) = false ∧ decodeScalar (0x2A#6 ++ 0#6 ++ a ++ 1#14) w1 = .ok (.snoozeAbs a) := by
  have e0 : fld (0x2A#6 ++ 0#6 ++ a ++ 1#14) 26 6 = 0x2A#6 := by rw [fld, cat_hi _ _ _ _ (by decide), cat_hi _ _ _ _ (by decide), cat_hi _ _ _ _ (by decide)]; exact rfl
  have e2 : (0x2A#6 ++ 0#6 ++ a ++ 1#14).getLsbD 0 = true := by
    rw [getLsbD_fld, show fld (0x2A#6 ++ 0#6 ++ a ++ 1#14) 0 1 = 1#1 from by rw [fld, cat_lo _ _ _ _ (by decide)]; exact rfl]; rfl
  have f0 : fld (0x2A#6 ++ 0#6 ++ a ++ 1#14) 14 6 = a := by rw [fld, cat_hi _ _ _ _ (by decide), cat_lo _ _ _ _ (by decide)]; exact BitVec.extractLsb'_eq_self
  have hm : (0x2A#6 ++ 0#6 ++ a ++ 1#14) &&& 0x03F03FFE#32 = 0#32 := (mask_03F03FFE _).2 ⟨by rw [fld, cat_hi _ _ _ _ (by decide), cat_hi _ _ _ _ (by decide), cat_lo _ _ _ _ (by decide)]; exact rfl, by rw [fld, cat_lo _ _ _ _ (by decide)]; exact rfl⟩
  refine ⟨by rw [isSX, e0]; rfl, ?_⟩
  delta decodeScalar
  rw [e0, e2, f0]
  exact if_pos hm

theorem read_mma (d : BitVec 6) (a : BitVec 6) (b : BitVec 6) (f : BitVec 7) (w1 : W32) :
    isSX (0x30#6 ++ d ++ a ++ b ++ 0#1 ++ f) = false ∧ decodeScalar (0x30#6 ++ d ++ a ++ b ++ 0#1 ++ f) w1 = .ok (.mma d a b f) := by
  have e0 : fld (0x30#6 ++ d ++ a ++ b ++ 0#1 ++ f) 26 6 = 0x30#6 := by rw [fld, cat_hi _ _ _ _ (by decide), cat_hi _ _ _ _ (by decide), cat_hi _ _ _ _ (by decide), cat_hi _ _ _ _ (by decide), cat_hi _ _ _ _ (by decide)]; exact rfl
  have f0 : fld (0x30#6 ++ d ++ a ++ b ++ 0#1 ++ f) 20 6 = d := by rw [fld, cat_hi _ _ _ _ (by decide), cat_hi _ _ _ _ (by decide), cat_hi _ _ _ _ (by decide), cat_hi _ _ _ _ (by decide), cat_lo _ _ _ _ (by decide)]; exact BitVec.extractLsb'_eq_self
  have f1 : fld (0x30#6 ++ d ++ a ++ b ++ 0#1 ++ f) 14 6 = a := by rw [fld, cat_hi _ _ _ _ (by decide), cat_hi _ _ _ _ (by decide), cat_hi _ _ _ _ (by decide), cat_lo _ _ _ _ (by decide)]; exact BitVec.extractLsb'_eq_self
  have f2 : fld (0x30#6 ++ d ++ a ++ b ++ 0#1 ++ f) 8 6 = b := by rw [fld, cat_hi _ _ _ _ (by decide), cat_hi _ _ _ _ (by decide), cat_lo _ _ _ _ (by decide)]; exact BitVec.extractLsb'_eq_self
  have f3 : fld (0x30#6 ++ d ++ a ++ b ++ 0#1 ++ f) 0 7 = f := by rw [fld, cat_lo _ _ _ _ (by decide)]; exact BitVec.extractLsb'_eq_self
  have hm : (0x30#6 ++ d ++ a ++ b ++ 0#1 ++ f) &&& 0x00000080#32 = 0#32 := (mask_00000080 _).2 (by rw [fld, cat_hi _ _ _ _ (by decide), cat_lo _ _ _ _ (by decide)]; exact rfl)
  refine ⟨by rw [isSX, e0]; rfl, ?_⟩
  delta decodeScalar
  rw [e0, f0, f1, f2, f3]
  exact if_pos hm

theorem read_mgath (d : BitVec 6) (a : BitVec 6) (b : BitVec 6) (f : BitVec 7) (w1 : W32) :
    isSX (0x31#6 ++ d ++ a ++ b ++ 0#1 ++ f) = false ∧ decodeScalar (0x31#6 ++ d ++ a ++ b ++ 0#1 ++ f) w1 = .ok (.mgath d a b f) := by
  have e0 : fld (0x31#6 ++ d ++ a ++ b ++ 0#1 ++ f) 26 6 = 0x31#6 := by rw [fld, cat_hi _ _ _ _ (by decide), cat_hi _ _ _ _ (by decide), cat_hi _ _ _ _ (by decide), cat_hi _ _ _ _ (by decide), cat_hi _ _ _ _ (by decide)]; exact rfl
  have f0 : fld (0x31#6 ++ d ++ a ++ b ++ 0#1 ++ f) 20 6 = d := by rw [fld, cat_hi _ _ _ _ (by decide), cat_hi _ _ _ _ (by decide), cat_hi _ _ _ _ (by decide), cat_hi _ _ _ _ (by decide), cat_lo _ _ _ _ (by decide)]; exact BitVec.extractLsb'_eq_self
  have f1 : fld (0x31#6 ++ d ++ a ++ b ++ 0#1 ++ f) 14 6 = a := by rw [fld, cat_hi _ _ _ _ (by decide), cat_hi _ _ _ _ (by decide), cat_hi _ _ _ _ (by decide), cat_lo _ _ _ _ (by decide)]; exact BitVec.extractLsb'_eq_self
  have f2 : fld (0x31#6 ++ d ++ a ++ b ++ 0#1 ++ f) 8 6 = b := by rw [fld, cat_hi _ _ _ _ (by decide), cat_hi _ _ _ _ (by decide), cat_lo _ _ _ _ (by decide)]; exact BitVec.extractLsb'_eq_self
  have f3 : fld (0x31#6 ++ d ++ a ++ b ++ 0#1 ++ f) 0 7 = f := by rw [fld, cat_lo _ _ _ _ (by decide)]; exact BitVec.extractLsb'_eq_self
  have hm : (0x31#6 ++ d ++ a ++ b ++ 0#1 ++ f) &&& 0x00000080#32 = 0#32 := (mask_00000080 _).2 (by rw [fld, cat_hi _ _ _ _ (by decide), cat_lo _ _ _ _ (by decide)]; exact rfl)
  refine ⟨by rw [isSX, e0]; rfl, ?_⟩
  delta decodeScalar
  rw [e0, f0, f1, f2, f3]
  exact if_pos hm

theorem read_mzero (d : BitVec 3) (f : BitVec 1) (w1 : W32) :
    isSX (0x32#6 ++ 0#3 ++ d ++ 0#19 ++ f) = false ∧ decodeScalar (0x32#6 ++ 0#3 ++ d ++ 0#19 ++ f) w1 = .ok (.mzero d f) := by
  have e0 : fld (0x32#6 ++ 0#3 ++ d ++ 0#19 ++ f) 26 6 = 0x32#6 := by rw [fld, cat_hi _ _ _ _ (by decide), cat_hi _ _ _ _ (by decide), cat_hi _ _ _ _ (by decide), cat_hi _ _ _ _ (by decide)]; exact rfl
  have f0 : fld (0x32#6 ++ 0#3 ++ d ++ 0#19 ++ f) 20 3 = d := by rw [fld, cat_hi _ _ _ _ (by decide), cat_hi _ _ _ _ (by decide), cat_lo _ _ _ _ (by decide)]; exact BitVec.extractLsb'_eq_self
  have f1 : fld (0x32#6 ++ 0#3 ++ d ++ 0#19 ++ f) 0 1 = f := by rw [fld, cat_lo _ _ _ _ (by decide)]; exact BitVec.extractLsb'_eq_self
  have hm : (0x32#6 ++ 0#3 ++ d ++ 0#19 ++ f) &&& 0x038FFFFE#32 = 0#32 := (mask_038FFFFE _).2 ⟨by rw [fld, cat_hi _ _ _ _ (by decide), cat_hi _ _ _ _ (by decide), cat_hi _ _ _ _ (by decide), cat_lo _ _ _ _ (by decide)]; exact rfl, by rw [fld, cat_hi _ _ _ _ (by decide), cat_lo _ _ _ _ (by decide)]; exact rfl⟩
  refine ⟨by rw [isSX, e0]; rfl, ?_⟩
  delta decodeScalar
  rw [e0, f0, f1]
  exact if_pos hm

theorem read_mdrain (d : BitVec 3) (a : BitVec 6) (f : BitVec 6) (w1 : W32) :
    isSX (0x33#6 ++ 0#3 ++ d ++ a ++ 0#8 ++ f) = false ∧ decodeScalar (0x33#6 ++ 0#3 ++ d ++ a ++ 0#8 ++ f) w1 = .ok (.mdrain d a f) := by
  have e0 : fld (0x33#6 ++ 0#3 ++ d ++ a ++ 0#8 ++ f) 26 6 = 0x33#6 := by rw [fld, cat_hi _ _ _ _ (by decide), cat_hi _ _ _ _ (by decide), cat_hi _ _ _ _ (by decide), cat_hi _ _ _ _ (by decide), cat_hi _ _ _ _ (by decide)]; exact rfl
  have f0 : fld (0x33#6 ++ 0#3 ++ d ++ a ++ 0#8 ++ f) 20 3 = d := by rw [fld, cat_hi _ _ _ _ (by decide), cat_hi _ _ _ _ (by decide), cat_hi _ _ _ _ (by decide), cat_lo _ _ _ _ (by decide)]; exact BitVec.extractLsb'_eq_self
  have f1 : fld (0x33#6 ++ 0#3 ++ d ++ a ++ 0#8 ++ f) 14 6 = a := by rw [fld, cat_hi _ _ _ _ (by decide), cat_hi _ _ _ _ (by decide), cat_lo _ _ _ _ (by decide)]; exact BitVec.extractLsb'_eq_self
  have f2 : fld (0x33#6 ++ 0#3 ++ d ++ a ++ 0#8 ++ f) 0 6 = f := by rw [fld, cat_lo _ _ _ _ (by decide)]; exact BitVec.extractLsb'_eq_self
  have hm : (0x33#6 ++ 0#3 ++ d ++ a ++ 0#8 ++ f) &&& 0x03803FC0#32 = 0#32 := (mask_03803FC0 _).2 ⟨by rw [fld, cat_hi _ _ _ _ (by decide), cat_hi _ _ _ _ (by decide), cat_hi _ _ _ _ (by decide), cat_hi _ _ _ _ (by decide), cat_lo _ _ _ _ (by decide)]; exact rfl, by rw [fld, cat_hi _ _ _ _ (by decide), cat_lo _ _ _ _ (by decide)]; exact rfl⟩
  refine ⟨by rw [isSX, e0]; rfl, ?_⟩
  delta decodeScalar
  rw [e0, f0, f1, f2]
  exact if_pos hm

theorem read_mcommit (d : BitVec 3) (n : BitVec 1) (w1 : W32) :
    isSX (0x34#6 ++ 0#3 ++ d ++ 0#19 ++ n) = false ∧ decodeScalar (0x34#6 ++ 0#3 ++ d ++ 0#19 ++ n) w1 = .ok (.mcommit d n) := by
  have e0 : fld (0x34#6 ++ 0#3 ++ d ++ 0#19 ++ n) 26 6 = 0x34#6 := by rw [fld, cat_hi _ _ _ _ (by decide), cat_hi _ _ _ _ (by decide), cat_hi _ _ _ _ (by decide), cat_hi _ _ _ _ (by decide)]; exact rfl
  have f0 : fld (0x34#6 ++ 0#3 ++ d ++ 0#19 ++ n) 20 3 = d := by rw [fld, cat_hi _ _ _ _ (by decide), cat_hi _ _ _ _ (by decide), cat_lo _ _ _ _ (by decide)]; exact BitVec.extractLsb'_eq_self
  have f1 : fld (0x34#6 ++ 0#3 ++ d ++ 0#19 ++ n) 0 1 = n := by rw [fld, cat_lo _ _ _ _ (by decide)]; exact BitVec.extractLsb'_eq_self
  have hm : (0x34#6 ++ 0#3 ++ d ++ 0#19 ++ n) &&& 0x038FFFFE#32 = 0#32 := (mask_038FFFFE _).2 ⟨by rw [fld, cat_hi _ _ _ _ (by decide), cat_hi _ _ _ _ (by decide), cat_hi _ _ _ _ (by decide), cat_lo _ _ _ _ (by decide)]; exact rfl, by rw [fld, cat_hi _ _ _ _ (by decide), cat_lo _ _ _ _ (by decide)]; exact rfl⟩
  refine ⟨by rw [isSX, e0]; rfl, ?_⟩
  delta decodeScalar
  rw [e0, f0, f1]
  exact if_pos hm

theorem read_mfence (a : BitVec 6) (w1 : W32) :
    isSX (0x35#6 ++ 0#6 ++ a ++ 0#14) = false ∧ decodeScalar (0x35#6 ++ 0#6 ++ a ++ 0#14) w1 = .ok (.mfence a) := by
  have e0 : fld (0x35#6 ++ 0#6 ++ a ++ 0#14) 26 6 = 0x35#6 := by rw [fld, cat_hi _ _ _ _ (by decide), cat_hi _ _ _ _ (by decide), cat_hi _ _ _ _ (by decide)]; exact rfl
  have f0 : fld (0x35#6 ++ 0#6 ++ a ++ 0#14) 14 6 = a := by rw [fld, cat_hi _ _ _ _ (by decide), cat_lo _ _ _ _ (by decide)]; exact BitVec.extractLsb'_eq_self
  have hm : (0x35#6 ++ 0#6 ++ a ++ 0#14) &&& 0x03F03FFF#32 = 0#32 := (mask_03F03FFF _).2 ⟨by rw [fld, cat_hi _ _ _ _ (by decide), cat_hi _ _ _ _ (by decide), cat_lo _ _ _ _ (by decide)]; exact rfl, by rw [fld, cat_lo _ _ _ _ (by decide)]; exact rfl⟩
  refine ⟨by rw [isSX, e0]; rfl, ?_⟩
  delta decodeScalar
  rw [e0, f0]
  exact if_pos hm

theorem read_mwait (d : BitVec 6) (a : BitVec 6) (w1 : W32) :
    isSX (0x36#6 ++ d ++ a ++ 0#14) = false ∧ decodeScalar (0x36#6 ++ d ++ a ++ 0#14) w1 = .ok (.mwait d a) := by
  have e0 : fld (0x36#6 ++ d ++ a ++ 0#14) 26 6 = 0x36#6 := by rw [fld, cat_hi _ _ _ _ (by decide), cat_hi _ _ _ _ (by decide), cat_hi _ _ _ _ (by decide)]; exact rfl
  have f0 : fld (0x36#6 ++ d ++ a ++ 0#14) 20 6 = d := by rw [fld, cat_hi _ _ _ _ (by decide), cat_hi _ _ _ _ (by decide), cat_lo _ _ _ _ (by decide)]; exact BitVec.extractLsb'_eq_self
  have f1 : fld (0x36#6 ++ d ++ a ++ 0#14) 14 6 = a := by rw [fld, cat_hi _ _ _ _ (by decide), cat_lo _ _ _ _ (by decide)]; exact BitVec.extractLsb'_eq_self
  have hm : (0x36#6 ++ d ++ a ++ 0#14) &&& 0x00003FFF#32 = 0#32 := (mask_00003FFF _).2 (by rw [fld, cat_lo _ _ _ _ (by decide)]; exact rfl)
  refine ⟨by rw [isSX, e0]; rfl, ?_⟩
  delta decodeScalar
  rw [e0, f0, f1]
  exact if_pos hm

theorem read_cpy (n : BitVec 3) (a : BitVec 6) (b : BitVec 6) (f : BitVec 4) (w1 : W32) :
    isSX (0x37#6 ++ 0#3 ++ n ++ a ++ b ++ 0#4 ++ f) = false ∧ decodeScalar (0x37#6 ++ 0#3 ++ n ++ a ++ b ++ 0#4 ++ f) w1 = .ok (.cpy n a b f) := by
  have e0 : fld (0x37#6 ++ 0#3 ++ n ++ a ++ b ++ 0#4 ++ f) 26 6 = 0x37#6 := by rw [fld, cat_hi _ _ _ _ (by decide), cat_hi _ _ _ _ (by decide), cat_hi _ _ _ _ (by decide), cat_hi _ _ _ _ (by decide), cat_hi _ _ _ _ (by decide), cat_hi _ _ _ _ (by decide)]; exact rfl
  have f0 : fld (0x37#6 ++ 0#3 ++ n ++ a ++ b ++ 0#4 ++ f) 20 3 = n := by rw [fld, cat_hi _ _ _ _ (by decide), cat_hi _ _ _ _ (by decide), cat_hi _ _ _ _ (by decide), cat_hi _ _ _ _ (by decide), cat_lo _ _ _ _ (by decide)]; exact BitVec.extractLsb'_eq_self
  have f1 : fld (0x37#6 ++ 0#3 ++ n ++ a ++ b ++ 0#4 ++ f) 14 6 = a := by rw [fld, cat_hi _ _ _ _ (by decide), cat_hi _ _ _ _ (by decide), cat_hi _ _ _ _ (by decide), cat_lo _ _ _ _ (by decide)]; exact BitVec.extractLsb'_eq_self
  have f2 : fld (0x37#6 ++ 0#3 ++ n ++ a ++ b ++ 0#4 ++ f) 8 6 = b := by rw [fld, cat_hi _ _ _ _ (by decide), cat_hi _ _ _ _ (by decide), cat_lo _ _ _ _ (by decide)]; exact BitVec.extractLsb'_eq_self
  have f3 : fld (0x37#6 ++ 0#3 ++ n ++ a ++ b ++ 0#4 ++ f) 0 4 = f := by rw [fld, cat_lo _ _ _ _ (by decide)]; exact BitVec.extractLsb'_eq_self
  have hm : (0x37#6 ++ 0#3 ++ n ++ a ++ b ++ 0#4 ++ f) &&& 0x038000F0#32 = 0#32 := (mask_038000F0 _).2 ⟨by rw [fld, cat_hi _ _ _ _ (by decide), cat_hi _ _ _ _ (by decide), cat_hi _ _ _ _ (by decide), cat_hi _ _ _ _ (by decide), cat_hi _ _ _ _ (by decide), cat_lo _ _ _ _ (by decide)]; exact rfl, by rw [fld, cat_hi _ _ _ _ (by decide), cat_lo _ _ _ _ (by decide)]; exact rfl⟩
  refine ⟨by rw [isSX, e0]; rfl, ?_⟩
  delta decodeScalar
  rw [e0, f0, f1, f2, f3]
  exact if_pos hm

theorem read_coll (a : BitVec 6) (s : BitVec 2) (t : BitVec 3) (o : BitVec 2) (w1 : W32) :
    isSX (0x38#6 ++ 0#6 ++ a ++ 0#7 ++ s ++ t ++ o) = false ∧ decodeScalar (0x38#6 ++ 0#6 ++ a ++ 0#7 ++ s ++ t ++ o) w1 = .ok (.coll a s t o) := by
  have e0 : fld (0x38#6 ++ 0#6 ++ a ++ 0#7 ++ s ++ t ++ o) 26 6 = 0x38#6 := by rw [fld, cat_hi _ _ _ _ (by decide), cat_hi _ _ _ _ (by decide), cat_hi _ _ _ _ (by decide), cat_hi _ _ _ _ (by decide), cat_hi _ _ _ _ (by decide), cat_hi _ _ _ _ (by decide)]; exact rfl
  have f0 : fld (0x38#6 ++ 0#6 ++ a ++ 0#7 ++ s ++ t ++ o) 14 6 = a := by rw [fld, cat_hi _ _ _ _ (by decide), cat_hi _ _ _ _ (by decide), cat_hi _ _ _ _ (by decide), cat_hi _ _ _ _ (by decide), cat_lo _ _ _ _ (by decide)]; exact BitVec.extractLsb'_eq_self
  have f1 : fld (0x38#6 ++ 0#6 ++ a ++ 0#7 ++ s ++ t ++ o) 5 2 = s := by rw [fld, cat_hi _ _ _ _ (by decide), cat_hi _ _ _ _ (by decide), cat_lo _ _ _ _ (by decide)]; exact BitVec.extractLsb'_eq_self
  have f2 : fld (0x38#6 ++ 0#6 ++ a ++ 0#7 ++ s ++ t ++ o) 2 3 = t := by rw [fld, cat_hi _ _ _ _ (by decide), cat_lo _ _ _ _ (by decide)]; exact BitVec.extractLsb'_eq_self
  have f3 : fld (0x38#6 ++ 0#6 ++ a ++ 0#7 ++ s ++ t ++ o) 0 2 = o := by rw [fld, cat_lo _ _ _ _ (by decide)]; exact BitVec.extractLsb'_eq_self
  have hm : (0x38#6 ++ 0#6 ++ a ++ 0#7 ++ s ++ t ++ o) &&& 0x03F03F80#32 = 0#32 := (mask_03F03F80 _).2 ⟨by rw [fld, cat_hi _ _ _ _ (by decide), cat_hi _ _ _ _ (by decide), cat_hi _ _ _ _ (by decide), cat_hi _ _ _ _ (by decide), cat_hi _ _ _ _ (by decide), cat_lo _ _ _ _ (by decide)]; exact rfl, by rw [fld, cat_hi _ _ _ _ (by decide), cat_hi _ _ _ _ (by decide), cat_hi _ _ _ _ (by decide), cat_lo _ _ _ _ (by decide)]; exact rfl⟩
  refine ⟨by rw [isSX, e0]; rfl, ?_⟩
  delta decodeScalar
  rw [e0, f0, f1, f2, f3]
  exact if_pos hm

theorem read_rbeg (o : BitVec 18) (w1 : W32) :
    isSX (0x39#6 ++ o ++ 0#8) = false ∧ decodeScalar (0x39#6 ++ o ++ 0#8) w1 = .ok (.rbeg o) := by
  have e0 : fld (0x39#6 ++ o ++ 0#8) 26 6 = 0x39#6 := by rw [fld, cat_hi _ _ _ _ (by decide), cat_hi _ _ _ _ (by decide)]; exact rfl
  have e2 : (0x39#6 ++ o ++ 0#8).getLsbD 0 = false := by
    rw [getLsbD_fld, show fld (0x39#6 ++ o ++ 0#8) 0 1 = 0#1 from by rw [fld, cat_lo _ _ _ _ (by decide)]; exact rfl]; rfl
  have f0 : fld (0x39#6 ++ o ++ 0#8) 8 18 = o := by rw [fld, cat_hi _ _ _ _ (by decide), cat_lo _ _ _ _ (by decide)]; exact BitVec.extractLsb'_eq_self
  have hm : (0x39#6 ++ o ++ 0#8) &&& 0x000000FE#32 = 0#32 := (mask_000000FE _).2 (by rw [fld, cat_lo _ _ _ _ (by decide)]; exact rfl)
  refine ⟨by rw [isSX, e0]; rfl, ?_⟩
  delta decodeScalar
  rw [e0, e2, f0]
  exact if_pos hm

theorem read_rbegStrict (o : BitVec 18) (w1 : W32) :
    isSX (0x39#6 ++ o ++ 1#8) = false ∧ decodeScalar (0x39#6 ++ o ++ 1#8) w1 = .ok (.rbegStrict o) := by
  have e0 : fld (0x39#6 ++ o ++ 1#8) 26 6 = 0x39#6 := by rw [fld, cat_hi _ _ _ _ (by decide), cat_hi _ _ _ _ (by decide)]; exact rfl
  have e2 : (0x39#6 ++ o ++ 1#8).getLsbD 0 = true := by
    rw [getLsbD_fld, show fld (0x39#6 ++ o ++ 1#8) 0 1 = 1#1 from by rw [fld, cat_lo _ _ _ _ (by decide)]; exact rfl]; rfl
  have f0 : fld (0x39#6 ++ o ++ 1#8) 8 18 = o := by rw [fld, cat_hi _ _ _ _ (by decide), cat_lo _ _ _ _ (by decide)]; exact BitVec.extractLsb'_eq_self
  have hm : (0x39#6 ++ o ++ 1#8) &&& 0x000000FE#32 = 0#32 := (mask_000000FE _).2 (by rw [fld, cat_lo _ _ _ _ (by decide)]; exact rfl)
  refine ⟨by rw [isSX, e0]; rfl, ?_⟩
  delta decodeScalar
  rw [e0, e2, f0]
  exact if_pos hm

theorem read_rend (w1 : W32) :
    isSX (0x3A#6 ++ 0#26) = false ∧ decodeScalar (0x3A#6 ++ 0#26) w1 = .ok (.rend) := by
  have e0 : fld (0x3A#6 ++ 0#26) 26 6 = 0x3A#6 := by rw [fld, cat_hi _ _ _ _ (by decide)]; exact rfl
  have hm : (0x3A#6 ++ 0#26) &&& 0x03FFFFFF#32 = 0#32 := (mask_03FFFFFF _).2 (by rw [fld, cat_lo _ _ _ _ (by decide)]; exact rfl)
  refine ⟨by rw [isSX, e0]; rfl, ?_⟩
  delta decodeScalar
  rw [e0]
  exact if_pos hm

theorem read_rabt (u : BitVec 8) (w1 : W32) :
    isSX (0x3B#6 ++ 0#18 ++ u) = false ∧ decodeScalar (0x3B#6 ++ 0#18 ++ u) w1 = .ok (.rabt u) := by
  have e0 : fld (0x3B#6 ++ 0#18 ++ u) 26 6 = 0x3B#6 := by rw [fld, cat_hi _ _ _ _ (by decide), cat_hi _ _ _ _ (by decide)]; exact rfl
  have f0 : fld (0x3B#6 ++ 0#18 ++ u) 0 8 = u := by rw [fld, cat_lo _ _ _ _ (by decide)]; exact BitVec.extractLsb'_eq_self
  have hm : (0x3B#6 ++ 0#18 ++ u) &&& 0x03FFFF00#32 = 0#32 := (mask_03FFFF00 _).2 (by rw [fld, cat_hi _ _ _ _ (by decide), cat_lo _ _ _ _ (by decide)]; exact rfl)
  refine ⟨by rw [isSX, e0]; rfl, ?_⟩
  delta decodeScalar
  rw [e0, f0]
  exact if_pos hm

theorem read_rnarLo (d : BitVec 6) (w1 : W32) :
    isSX (0x3C#6 ++ d ++ 0#20) = false ∧ decodeScalar (0x3C#6 ++ d ++ 0#20) w1 = .ok (.rnarLo d) := by
  have e0 : fld (0x3C#6 ++ d ++ 0#20) 26 6 = 0x3C#6 := by rw [fld, cat_hi _ _ _ _ (by decide), cat_hi _ _ _ _ (by decide)]; exact rfl
  have e1 : fld (0x3C#6 ++ d ++ 0#20) 0 8 = 0#8 := by rw [fld, cat_lo _ _ _ _ (by decide)]; exact rfl
  have f0 : fld (0x3C#6 ++ d ++ 0#20) 20 6 = d := by rw [fld, cat_hi _ _ _ _ (by decide), cat_lo _ _ _ _ (by decide)]; exact BitVec.extractLsb'_eq_self
  have hm : (0x3C#6 ++ d ++ 0#20) &&& 0x000FFF00#32 = 0#32 := (mask_000FFF00 _).2 (by rw [fld, cat_lo _ _ _ _ (by decide)]; exact rfl)
  refine ⟨by rw [isSX, e0]; rfl, ?_⟩
  delta decodeScalar
  rw [e0, e1, f0]
  exact if_pos hm

theorem read_rnarHi (d : BitVec 6) (w1 : W32) :
    isSX (0x3C#6 ++ d ++ 1#20) = false ∧ decodeScalar (0x3C#6 ++ d ++ 1#20) w1 = .ok (.rnarHi d) := by
  have e0 : fld (0x3C#6 ++ d ++ 1#20) 26 6 = 0x3C#6 := by rw [fld, cat_hi _ _ _ _ (by decide), cat_hi _ _ _ _ (by decide)]; exact rfl
  have e1 : fld (0x3C#6 ++ d ++ 1#20) 0 8 = 1#8 := by rw [fld, cat_lo _ _ _ _ (by decide)]; exact rfl
  have f0 : fld (0x3C#6 ++ d ++ 1#20) 20 6 = d := by rw [fld, cat_hi _ _ _ _ (by decide), cat_lo _ _ _ _ (by decide)]; exact BitVec.extractLsb'_eq_self
  have hm : (0x3C#6 ++ d ++ 1#20) &&& 0x000FFF00#32 = 0#32 := (mask_000FFF00 _).2 (by rw [fld, cat_lo _ _ _ _ (by decide)]; exact rfl)
  refine ⟨by rw [isSX, e0]; rfl, ?_⟩
  delta decodeScalar
  rw [e0, e1, f0]
  exact if_pos hm

theorem read_rnarNarrow (a : BitVec 6) (b : BitVec 6) (w1 : W32) :
    isSX (0x3C#6 ++ 0#6 ++ a ++ b ++ 2#8) = false ∧ decodeScalar (0x3C#6 ++ 0#6 ++ a ++ b ++ 2#8) w1 = .ok (.rnarNarrow a b) := by
  have e0 : fld (0x3C#6 ++ 0#6 ++ a ++ b ++ 2#8) 26 6 = 0x3C#6 := by rw [fld, cat_hi _ _ _ _ (by decide), cat_hi _ _ _ _ (by decide), cat_hi _ _ _ _ (by decide), cat_hi _ _ _ _ (by decide)]; exact rfl
  have e1 : fld (0x3C#6 ++ 0#6 ++ a ++ b ++ 2#8) 0 8 = 2#8 := by rw [fld, cat_lo _ _ _ _ (by decide)]; exact rfl
  have f0 : fld (0x3C#6 ++ 0#6 ++ a ++ b ++ 2#8) 14 6 = a := by rw [fld, cat_hi _ _ _ _ (by decide), cat_hi _ _ _ _ (by decide), cat_lo _ _ _ _ (by decide)]; exact BitVec.extractLsb'_eq_self
  have f1 : fld (0x3C#6 ++ 0#6 ++ a ++ b ++ 2#8) 8 6 = b := by rw [fld, cat_hi _ _ _ _ (by decide), cat_lo _ _ _ _ (by decide)]; exact BitVec.extractLsb'_eq_self
  have hm : (0x3C#6 ++ 0#6 ++ a ++ b ++ 2#8) &&& 0x03F00000#32 = 0#32 := (mask_03F00000 _).2 (by rw [fld, cat_hi _ _ _ _ (by decide), cat_hi _ _ _ _ (by decide), cat_hi _ _ _ _ (by decide), cat_lo _ _ _ _ (by decide)]; exact rfl)
  refine ⟨by rw [isSX, e0]; rfl, ?_⟩
  delta decodeScalar
  rw [e0, e1, f0, f1]
  exact if_pos hm

theorem read_nop (w1 : W32) :
    isSX (0x3E#6 ++ 0#26) = false ∧ decodeScalar (0x3E#6 ++ 0#26) w1 = .ok (.nop) := by
  have e0 : fld (0x3E#6 ++ 0#26) 26 6 = 0x3E#6 := by rw [fld, cat_hi _ _ _ _ (by decide)]; exact rfl
  have e1 : fld (0x3E#6 ++ 0#26) 0 8 = 0#8 := by rw [fld, cat_lo _ _ _ _ (by decide)]; exact rfl
  have hm : (0x3E#6 ++ 0#26) &&& 0x03FFFF00#32 = 0#32 := (mask_03FFFF00 _).2 (by rw [fld, cat_lo _ _ _ _ (by decide)]; exact rfl)
  refine ⟨by rw [isSX, e0]; rfl, ?_⟩
  delta decodeScalar
  rw [e0, e1]
  exact if_pos hm

theorem read_trap (n : BitVec 6) (w1 : W32) :
    isSX (0x3E#6 ++ n ++ 1#20) = false ∧ decodeScalar (0x3E#6 ++ n ++ 1#20) w1 = .ok (.trap n) := by
  have e0 : fld (0x3E#6 ++ n ++ 1#20) 26 6 = 0x3E#6 := by rw [fld, cat_hi _ _ _ _ (by decide), cat_hi _ _ _ _ (by decide)]; exact rfl
  have e1 : fld (0x3E#6 ++ n ++ 1#20) 0 8 = 1#8 := by rw [fld, cat_lo _ _ _ _ (by decide)]; exact rfl
  have f0 : fld (0x3E#6 ++ n ++ 1#20) 20 6 = n := by rw [fld, cat_hi _ _ _ _ (by decide), cat_lo _ _ _ _ (by decide)]; exact BitVec.extractLsb'_eq_self
  have hm : (0x3E#6 ++ n ++ 1#20) &&& 0x000FFF00#32 = 0#32 := (mask_000FFF00 _).2 (by rw [fld, cat_lo _ _ _ _ (by decide)]; exact rfl)
  refine ⟨by rw [isSX, e0]; rfl, ?_⟩
  delta decodeScalar
  rw [e0, e1, f0]
  exact if_pos hm

theorem read_srd (d : BitVec 6) (r : BitVec 6) (w1 : W32) :
    isSX (0x3E#6 ++ d ++ r ++ 2#14) = false ∧ decodeScalar (0x3E#6 ++ d ++ r ++ 2#14) w1 = .ok (.srd d r) := by
  have e0 : fld (0x3E#6 ++ d ++ r ++ 2#14) 26 6 = 0x3E#6 := by rw [fld, cat_hi _ _ _ _ (by decide), cat_hi _ _ _ _ (by decide), cat_hi _ _ _ _ (by decide)]; exact rfl
  have e1 : fld (0x3E#6 ++ d ++ r ++ 2#14) 0 8 = 2#8 := by rw [fld, cat_lo _ _ _ _ (by decide)]; exact rfl
  have f0 : fld (0x3E#6 ++ d ++ r ++ 2#14) 20 6 = d := by rw [fld, cat_hi _ _ _ _ (by decide), cat_hi _ _ _ _ (by decide), cat_lo _ _ _ _ (by decide)]; exact BitVec.extractLsb'_eq_self
  have f1 : fld (0x3E#6 ++ d ++ r ++ 2#14) 14 6 = r := by rw [fld, cat_hi _ _ _ _ (by decide), cat_lo _ _ _ _ (by decide)]; exact BitVec.extractLsb'_eq_self
  have hm : (0x3E#6 ++ d ++ r ++ 2#14) &&& 0x00003F00#32 = 0#32 := (mask_00003F00 _).2 (by rw [fld, cat_lo _ _ _ _ (by decide)]; exact rfl)
  refine ⟨by rw [isSX, e0]; rfl, ?_⟩
  delta decodeScalar
  rw [e0, e1, f0, f1]
  exact if_pos hm

theorem read_swr (r : BitVec 6) (b : BitVec 6) (w1 : W32) :
    isSX (0x3E#6 ++ 0#6 ++ r ++ b ++ 3#8) = false ∧ decodeScalar (0x3E#6 ++ 0#6 ++ r ++ b ++ 3#8) w1 = .ok (.swr r b) := by
  have e0 : fld (0x3E#6 ++ 0#6 ++ r ++ b ++ 3#8) 26 6 = 0x3E#6 := by rw [fld, cat_hi _ _ _ _ (by decide), cat_hi _ _ _ _ (by decide), cat_hi _ _ _ _ (by decide), cat_hi _ _ _ _ (by decide)]; exact rfl
  have e1 : fld (0x3E#6 ++ 0#6 ++ r ++ b ++ 3#8) 0 8 = 3#8 := by rw [fld, cat_lo _ _ _ _ (by decide)]; exact rfl
  have f0 : fld (0x3E#6 ++ 0#6 ++ r ++ b ++ 3#8) 14 6 = r := by rw [fld, cat_hi _ _ _ _ (by decide), cat_hi _ _ _ _ (by decide), cat_lo _ _ _ _ (by decide)]; exact BitVec.extractLsb'_eq_self
  have f1 : fld (0x3E#6 ++ 0#6 ++ r ++ b ++ 3#8) 8 6 = b := by rw [fld, cat_hi _ _ _ _ (by decide), cat_lo _ _ _ _ (by decide)]; exact BitVec.extractLsb'_eq_self
  have hm : (0x3E#6 ++ 0#6 ++ r ++ b ++ 3#8) &&& 0x03F00000#32 = 0#32 := (mask_03F00000 _).2 (by rw [fld, cat_hi _ _ _ _ (by decide), cat_hi _ _ _ _ (by decide), cat_hi _ _ _ _ (by decide), cat_lo _ _ _ _ (by decide)]; exact rfl)
  refine ⟨by rw [isSX, e0]; rfl, ?_⟩
  delta decodeScalar
  rw [e0, e1, f0, f1]
  exact if_pos hm

theorem read_dlaunch (d : BitVec 6) (a : BitVec 6) (b : BitVec 6) (w1 : W32) :
    isSX (0x3E#6 ++ d ++ a ++ b ++ 4#8) = false ∧ decodeScalar (0x3E#6 ++ d ++ a ++ b ++ 4#8) w1 = .ok (.dlaunch d a b) := by
  have e0 : fld (0x3E#6 ++ d ++ a ++ b ++ 4#8) 26 6 = 0x3E#6 := by rw [fld, cat_hi _ _ _ _ (by decide), cat_hi _ _ _ _ (by decide), cat_hi _ _ _ _ (by decide), cat_hi _ _ _ _ (by decide)]; exact rfl
  have e1 : fld (0x3E#6 ++ d ++ a ++ b ++ 4#8) 0 8 = 4#8 := by rw [fld, cat_lo _ _ _ _ (by decide)]; exact rfl
  have f0 : fld (0x3E#6 ++ d ++ a ++ b ++ 4#8) 20 6 = d := by rw [fld, cat_hi _ _ _ _ (by decide), cat_hi _ _ _ _ (by decide), cat_hi _ _ _ _ (by decide), cat_lo _ _ _ _ (by decide)]; exact BitVec.extractLsb'_eq_self
  have f1 : fld (0x3E#6 ++ d ++ a ++ b ++ 4#8) 14 6 = a := by rw [fld, cat_hi _ _ _ _ (by decide), cat_hi _ _ _ _ (by decide), cat_lo _ _ _ _ (by decide)]; exact BitVec.extractLsb'_eq_self
  have f2 : fld (0x3E#6 ++ d ++ a ++ b ++ 4#8) 8 6 = b := by rw [fld, cat_hi _ _ _ _ (by decide), cat_lo _ _ _ _ (by decide)]; exact BitVec.extractLsb'_eq_self
  refine ⟨by rw [isSX, e0]; rfl, ?_⟩
  delta decodeScalar
  rw [e0, e1, f0, f1, f2]
  rfl

/-! ### What the decoder reads has the words as its encoding -/

theorem accept_ok {m : W32} {i j : Instr} (h : accept m i = .ok j) : m = 0#32 ∧ i = j := by
  unfold accept at h
  split at h
  · exact ⟨‹_›, by cases h; rfl⟩
  · split at h <;> cases h

theorem fld_join (w : W32) (hi lo m n : Nat) (h : hi = lo + n) : fld w hi m ++ fld w lo n = fld w lo (m + n) := by
  subst h
  refine BitVec.eq_of_getLsbD_eq fun i hi => ?_
  simp only [BitVec.getLsbD_append, fld, BitVec.getLsbD_extractLsb']
  by_cases g : i < n
  · simp [g, hi]
  · simp only [g, hi, decide_true, Bool.true_and, if_false, show i - n < m by omega, show lo + n + (i - n) = lo + i by omega]

theorem parts_6_6_6_6_8 (w : W32) :
    fld w 26 6 ++ fld w 20 6 ++ fld w 14 6 ++ fld w 8 6 ++ fld w 0 8 = w := by
  rw [fld_join w 26 20 (6) 6 rfl,
    fld_join w 20 14 (6 + 6) 6 rfl,
    fld_join w 14 8 (6 + 6 + 6) 6 rfl,
    fld_join w 8 0 (6 + 6 + 6 + 6) 8 rfl]
  exact BitVec.extractLsb'_eq_self

theorem parts_6_6_6_14 (w : W32) :
    fld w 26 6 ++ fld w 20 6 ++ fld w 14 6 ++ fld w 0 14 = w := by
  rw [fld_join w 26 20 (6) 6 rfl,
    fld_join w 20 14 (6 + 6) 6 rfl,
    fld_join w 14 0 (6 + 6 + 6) 14 rfl]
  exact BitVec.extractLsb'_eq_self

theorem parts_6_6_6_8_6 (w : W32) :
    fld w 26 6 ++ fld w 20 6 ++ fld w 14 6 ++ fld w 6 8 ++ fld w 0 6 = w := by
  rw [fld_join w 26 20 (6) 6 rfl,
    fld_join w 20 14 (6 + 6) 6 rfl,
    fld_join w 14 6 (6 + 6 + 6) 8 rfl,
    fld_join w 6 0 (6 + 6 + 6 + 8) 6 rfl]
  exact BitVec.extractLsb'_eq_self

theorem parts_6_3_3_6_6_4_4 (w : W32) :
    fld w 26 6 ++ fld w 23 3 ++ fld w 20 3 ++ fld w 14 6 ++ fld w 8 6 ++ fld w 4 4 ++ fld w 0 4 = w := by
  rw [fld_join w 26 23 (6) 3 rfl,
    fld_join w 23 20 (6 + 3) 3 rfl,
    fld_join w 20 14 (6 + 3 + 3) 6 rfl,
    fld_join w 14 8 (6 + 3 + 3 + 6) 6 rfl,
    fld_join w 8 4 (6 + 3 + 3 + 6 + 6) 4 rfl,
    fld_join w 4 0 (6 + 3 + 3 + 6 + 6 + 4) 4 rfl]
  exact BitVec.extractLsb'_eq_self

theorem parts_6_3_3_6_14 (w : W32) :
    fld w 26 6 ++ fld w 23 3 ++ fld w 20 3 ++ fld w 14 6 ++ fld w 0 14 = w := by
  rw [fld_join w 26 23 (6) 3 rfl,
    fld_join w 23 20 (6 + 3) 3 rfl,
    fld_join w 20 14 (6 + 3 + 3) 6 rfl,
    fld_join w 14 0 (6 + 3 + 3 + 6) 14 rfl]
  exact BitVec.extractLsb'_eq_self

theorem parts_6_6_6_6_5_3 (w : W32) :
    fld w 26 6 ++ fld w 20 6 ++ fld w 14 6 ++ fld w 8 6 ++ fld w 3 5 ++ fld w 0 3 = w := by
  rw [fld_join w 26 20 (6) 6 rfl,
    fld_join w 20 14 (6 + 6) 6 rfl,
    fld_join w 14 8 (6 + 6 + 6) 6 rfl,
    fld_join w 8 3 (6 + 6 + 6 + 6) 5 rfl,
    fld_join w 3 0 (6 + 6 + 6 + 6 + 5) 3 rfl]
  exact BitVec.extractLsb'_eq_self

theorem parts_6_3_3_3_3_3_3_8 (w : W32) :
    fld w 26 6 ++ fld w 23 3 ++ fld w 20 3 ++ fld w 17 3 ++ fld w 14 3 ++ fld w 11 3 ++ fld w 8 3 ++ fld w 0 8 = w := by
  rw [fld_join w 26 23 (6) 3 rfl,
    fld_join w 23 20 (6 + 3) 3 rfl,
    fld_join w 20 17 (6 + 3 + 3) 3 rfl,
    fld_join w 17 14 (6 + 3 + 3 + 3) 3 rfl,
    fld_join w 14 11 (6 + 3 + 3 + 3 + 3) 3 rfl,
    fld_join w 11 8 (6 + 3 + 3 + 3 + 3 + 3) 3 rfl,
    fld_join w 8 0 (6 + 3 + 3 + 3 + 3 + 3 + 3) 8 rfl]
  exact BitVec.extractLsb'_eq_self

theorem parts_6_3_3_3_3_14 (w : W32) :
    fld w 26 6 ++ fld w 23 3 ++ fld w 20 3 ++ fld w 17 3 ++ fld w 14 3 ++ fld w 0 14 = w := by
  rw [fld_join w 26 23 (6) 3 rfl,
    fld_join w 23 20 (6 + 3) 3 rfl,
    fld_join w 20 17 (6 + 3 + 3) 3 rfl,
    fld_join w 17 14 (6 + 3 + 3 + 3) 3 rfl,
    fld_join w 14 0 (6 + 3 + 3 + 3 + 3) 14 rfl]
  exact BitVec.extractLsb'_eq_self

theorem parts_6_3_3_20 (w : W32) :
    fld w 26 6 ++ fld w 23 3 ++ fld w 20 3 ++ fld w 0 20 = w := by
  rw [fld_join w 26 23 (6) 3 rfl,
    fld_join w 23 20 (6 + 3) 3 rfl,
    fld_join w 20 0 (6 + 3 + 3) 20 rfl]
  exact BitVec.extractLsb'_eq_self

theorem parts_6_6_6_2_1_2_9 (w : W32) :
    fld w 26 6 ++ fld w 20 6 ++ fld w 14 6 ++ fld w 12 2 ++ fld w 11 1 ++ fld w 9 2 ++ fld w 0 9 = w := by
  rw [fld_join w 26 20 (6) 6 rfl,
    fld_join w 20 14 (6 + 6) 6 rfl,
    fld_join w 14 12 (6 + 6 + 6) 2 rfl,
    fld_join w 12 11 (6 + 6 + 6 + 2) 1 rfl,
    fld_join w 11 9 (6 + 6 + 6 + 2 + 1) 2 rfl,
    fld_join w 9 0 (6 + 6 + 6 + 2 + 1 + 2) 9 rfl]
  exact BitVec.extractLsb'_eq_self

theorem parts_6_6_6_6_1_3_4 (w : W32) :
    fld w 26 6 ++ fld w 20 6 ++ fld w 14 6 ++ fld w 8 6 ++ fld w 7 1 ++ fld w 4 3 ++ fld w 0 4 = w := by
  rw [fld_join w 26 20 (6) 6 rfl,
    fld_join w 20 14 (6 + 6) 6 rfl,
    fld_join w 14 8 (6 + 6 + 6) 6 rfl,
    fld_join w 8 7 (6 + 6 + 6 + 6) 1 rfl,
    fld_join w 7 4 (6 + 6 + 6 + 6 + 1) 3 rfl,
    fld_join w 4 0 (6 + 6 + 6 + 6 + 1 + 3) 4 rfl]
  exact BitVec.extractLsb'_eq_self

theorem parts_6_6_6_6_3_3_2 (w : W32) :
    fld w 26 6 ++ fld w 20 6 ++ fld w 14 6 ++ fld w 8 6 ++ fld w 5 3 ++ fld w 2 3 ++ fld w 0 2 = w := by
  rw [fld_join w 26 20 (6) 6 rfl,
    fld_join w 20 14 (6 + 6) 6 rfl,
    fld_join w 14 8 (6 + 6 + 6) 6 rfl,
    fld_join w 8 5 (6 + 6 + 6 + 6) 3 rfl,
    fld_join w 5 2 (6 + 6 + 6 + 6 + 3) 3 rfl,
    fld_join w 2 0 (6 + 6 + 6 + 6 + 3 + 3) 2 rfl]
  exact BitVec.extractLsb'_eq_self

theorem parts_6_3_3_6_6_8 (w : W32) :
    fld w 26 6 ++ fld w 23 3 ++ fld w 20 3 ++ fld w 14 6 ++ fld w 8 6 ++ fld w 0 8 = w := by
  rw [fld_join w 26 23 (6) 3 rfl,
    fld_join w 23 20 (6 + 3) 3 rfl,
    fld_join w 20 14 (6 + 3 + 3) 6 rfl,
    fld_join w 14 8 (6 + 3 + 3 + 6) 6 rfl,
    fld_join w 8 0 (6 + 3 + 3 + 6 + 6) 8 rfl]
  exact BitVec.extractLsb'_eq_self

theorem parts_6_6_15_3_2 (w : W32) :
    fld w 26 6 ++ fld w 20 6 ++ fld w 5 15 ++ fld w 2 3 ++ fld w 0 2 = w := by
  rw [fld_join w 26 20 (6) 6 rfl,
    fld_join w 20 5 (6 + 6) 15 rfl,
    fld_join w 5 2 (6 + 6 + 15) 3 rfl,
    fld_join w 2 0 (6 + 6 + 15 + 3) 2 rfl]
  exact BitVec.extractLsb'_eq_self

theorem parts_6_6_6_9_3_2 (w : W32) :
    fld w 26 6 ++ fld w 20 6 ++ fld w 14 6 ++ fld w 5 9 ++ fld w 2 3 ++ fld w 0 2 = w := by
  rw [fld_join w 26 20 (6) 6 rfl,
    fld_join w 20 14 (6 + 6) 6 rfl,
    fld_join w 14 5 (6 + 6 + 6) 9 rfl,
    fld_join w 5 2 (6 + 6 + 6 + 9) 3 rfl,
    fld_join w 2 0 (6 + 6 + 6 + 9 + 3) 2 rfl]
  exact BitVec.extractLsb'_eq_self

theorem parts_6_21_3_2 (w : W32) :
    fld w 26 6 ++ fld w 5 21 ++ fld w 2 3 ++ fld w 0 2 = w := by
  rw [fld_join w 26 5 (6) 21 rfl,
    fld_join w 5 2 (6 + 21) 3 rfl,
    fld_join w 2 0 (6 + 21 + 3) 2 rfl]
  exact BitVec.extractLsb'_eq_self

theorem parts_6_21_2_3 (w : W32) :
    fld w 26 6 ++ fld w 5 21 ++ fld w 3 2 ++ fld w 0 3 = w := by
  rw [fld_join w 26 5 (6) 21 rfl,
    fld_join w 5 3 (6 + 21) 2 rfl,
    fld_join w 3 0 (6 + 21 + 2) 3 rfl]
  exact BitVec.extractLsb'_eq_self

theorem parts_6_3_1_22 (w : W32) :
    fld w 26 6 ++ fld w 23 3 ++ fld w 22 1 ++ fld w 0 22 = w := by
  rw [fld_join w 26 23 (6) 3 rfl,
    fld_join w 23 22 (6 + 3) 1 rfl,
    fld_join w 22 0 (6 + 3 + 1) 22 rfl]
  exact BitVec.extractLsb'_eq_self

theorem parts_6_26 (w : W32) :
    fld w 26 6 ++ fld w 0 26 = w := by
  rw [fld_join w 26 0 (6) 26 rfl]
  exact BitVec.extractLsb'_eq_self

theorem parts_6_6_6_12_2 (w : W32) :
    fld w 26 6 ++ fld w 20 6 ++ fld w 14 6 ++ fld w 2 12 ++ fld w 0 2 = w := by
  rw [fld_join w 26 20 (6) 6 rfl,
    fld_join w 20 14 (6 + 6) 6 rfl,
    fld_join w 14 2 (6 + 6 + 6) 12 rfl,
    fld_join w 2 0 (6 + 6 + 6 + 12) 2 rfl]
  exact BitVec.extractLsb'_eq_self

theorem parts_6_5_21 (w : W32) :
    fld w 26 6 ++ fld w 21 5 ++ fld w 0 21 = w := by
  rw [fld_join w 26 21 (6) 5 rfl,
    fld_join w 21 0 (6 + 5) 21 rfl]
  exact BitVec.extractLsb'_eq_self

theorem parts_6_3_1_1_21 (w : W32) :
    fld w 26 6 ++ fld w 23 3 ++ fld w 22 1 ++ fld w 21 1 ++ fld w 0 21 = w := by
  rw [fld_join w 26 23 (6) 3 rfl,
    fld_join w 23 22 (6 + 3) 1 rfl,
    fld_join w 22 21 (6 + 3 + 1) 1 rfl,
    fld_join w 21 0 (6 + 3 + 1 + 1) 21 rfl]
  exact BitVec.extractLsb'_eq_self

theorem parts_6_15_11 (w : W32) :
    fld w 26 6 ++ fld w 11 15 ++ fld w 0 11 = w := by
  rw [fld_join w 26 11 (6) 15 rfl,
    fld_join w 11 0 (6 + 15) 11 rfl]
  exact BitVec.extractLsb'_eq_self

theorem parts_6_23_3 (w : W32) :
    fld w 26 6 ++ fld w 3 23 ++ fld w 0 3 = w := by
  rw [fld_join w 26 3 (6) 23 rfl,
    fld_join w 3 0 (6 + 23) 3 rfl]
  exact BitVec.extractLsb'_eq_self

theorem parts_6_6_6_6_1_7 (w : W32) :
    fld w 26 6 ++ fld w 20 6 ++ fld w 14 6 ++ fld w 8 6 ++ fld w 7 1 ++ fld w 0 7 = w := by
  rw [fld_join w 26 20 (6) 6 rfl,
    fld_join w 20 14 (6 + 6) 6 rfl,
    fld_join w 14 8 (6 + 6 + 6) 6 rfl,
    fld_join w 8 7 (6 + 6 + 6 + 6) 1 rfl,
    fld_join w 7 0 (6 + 6 + 6 + 6 + 1) 7 rfl]
  exact BitVec.extractLsb'_eq_self

theorem parts_6_3_3_19_1 (w : W32) :
    fld w 26 6 ++ fld w 23 3 ++ fld w 20 3 ++ fld w 1 19 ++ fld w 0 1 = w := by
  rw [fld_join w 26 23 (6) 3 rfl,
    fld_join w 23 20 (6 + 3) 3 rfl,
    fld_join w 20 1 (6 + 3 + 3) 19 rfl,
    fld_join w 1 0 (6 + 3 + 3 + 19) 1 rfl]
  exact BitVec.extractLsb'_eq_self

theorem parts_6_3_3_6_8_6 (w : W32) :
    fld w 26 6 ++ fld w 23 3 ++ fld w 20 3 ++ fld w 14 6 ++ fld w 6 8 ++ fld w 0 6 = w := by
  rw [fld_join w 26 23 (6) 3 rfl,
    fld_join w 23 20 (6 + 3) 3 rfl,
    fld_join w 20 14 (6 + 3 + 3) 6 rfl,
    fld_join w 14 6 (6 + 3 + 3 + 6) 8 rfl,
    fld_join w 6 0 (6 + 3 + 3 + 6 + 8) 6 rfl]
  exact BitVec.extractLsb'_eq_self

theorem parts_6_6_6_7_2_3_2 (w : W32) :
    fld w 26 6 ++ fld w 20 6 ++ fld w 14 6 ++ fld w 7 7 ++ fld w 5 2 ++ fld w 2 3 ++ fld w 0 2 = w := by
  rw [fld_join w 26 20 (6) 6 rfl,
    fld_join w 20 14 (6 + 6) 6 rfl,
    fld_join w 14 7 (6 + 6 + 6) 7 rfl,
    fld_join w 7 5 (6 + 6 + 6 + 7) 2 rfl,
    fld_join w 5 2 (6 + 6 + 6 + 7 + 2) 3 rfl,
    fld_join w 2 0 (6 + 6 + 6 + 7 + 2 + 3) 2 rfl]
  exact BitVec.extractLsb'_eq_self

theorem parts_6_18_8 (w : W32) :
    fld w 26 6 ++ fld w 8 18 ++ fld w 0 8 = w := by
  rw [fld_join w 26 8 (6) 18 rfl,
    fld_join w 8 0 (6 + 18) 8 rfl]
  exact BitVec.extractLsb'_eq_self

theorem parts_6_6_20 (w : W32) :
    fld w 26 6 ++ fld w 20 6 ++ fld w 0 20 = w := by
  rw [fld_join w 26 20 (6) 6 rfl,
    fld_join w 20 0 (6 + 6) 20 rfl]
  exact BitVec.extractLsb'_eq_self

theorem write_sadd {w : W32} (e0 : (fld w 26 6).toNat = 0x01) (e1 : (fld w 0 8).toNat = 0) :
    encode (.sadd (fld w 20 6) (fld w 14 6) (fld w 8 6)) = some [w] := by
  have k0 : fld w 26 6 = 0x01#6 := BitVec.eq_of_toNat_eq e0
  have k1 : fld w 0 8 = 0#8 := BitVec.eq_of_toNat_eq e1
  have j := parts_6_6_6_6_8 w
  rw [k0, k1] at j
  exact congrArg (fun x => some [x]) j

theorem write_ssub {w : W32} (e0 : (fld w 26 6).toNat = 0x01) (e1 : (fld w 0 8).toNat = 1) :
    encode (.ssub (fld w 20 6) (fld w 14 6) (fld w 8 6)) = some [w] := by
  have k0 : fld w 26 6 = 0x01#6 := BitVec.eq_of_toNat_eq e0
  have k1 : fld w 0 8 = 1#8 := BitVec.eq_of_toNat_eq e1
  have j := parts_6_6_6_6_8 w
  rw [k0, k1] at j
  exact congrArg (fun x => some [x]) j

theorem write_smul {w : W32} (e0 : (fld w 26 6).toNat = 0x01) (e1 : (fld w 0 8).toNat = 2) :
    encode (.smul (fld w 20 6) (fld w 14 6) (fld w 8 6)) = some [w] := by
  have k0 : fld w 26 6 = 0x01#6 := BitVec.eq_of_toNat_eq e0
  have k1 : fld w 0 8 = 2#8 := BitVec.eq_of_toNat_eq e1
  have j := parts_6_6_6_6_8 w
  rw [k0, k1] at j
  exact congrArg (fun x => some [x]) j

theorem write_smulh {w : W32} (e0 : (fld w 26 6).toNat = 0x01) (e1 : (fld w 0 8).toNat = 3) :
    encode (.smulh (fld w 20 6) (fld w 14 6) (fld w 8 6)) = some [w] := by
  have k0 : fld w 26 6 = 0x01#6 := BitVec.eq_of_toNat_eq e0
  have k1 : fld w 0 8 = 3#8 := BitVec.eq_of_toNat_eq e1
  have j := parts_6_6_6_6_8 w
  rw [k0, k1] at j
  exact congrArg (fun x => some [x]) j

theorem write_smulhn {w : W32} (e0 : (fld w 26 6).toNat = 0x01) (e1 : (fld w 0 8).toNat = 4) :
    encode (.smulhn (fld w 20 6) (fld w 14 6) (fld w 8 6)) = some [w] := by
  have k0 : fld w 26 6 = 0x01#6 := BitVec.eq_of_toNat_eq e0
  have k1 : fld w 0 8 = 4#8 := BitVec.eq_of_toNat_eq e1
  have j := parts_6_6_6_6_8 w
  rw [k0, k1] at j
  exact congrArg (fun x => some [x]) j

theorem write_sand {w : W32} (e0 : (fld w 26 6).toNat = 0x01) (e1 : (fld w 0 8).toNat = 5) :
    encode (.sand (fld w 20 6) (fld w 14 6) (fld w 8 6)) = some [w] := by
  have k0 : fld w 26 6 = 0x01#6 := BitVec.eq_of_toNat_eq e0
  have k1 : fld w 0 8 = 5#8 := BitVec.eq_of_toNat_eq e1
  have j := parts_6_6_6_6_8 w
  rw [k0, k1] at j
  exact congrArg (fun x => some [x]) j

theorem write_sor {w : W32} (e0 : (fld w 26 6).toNat = 0x01) (e1 : (fld w 0 8).toNat = 6) :
    encode (.sor (fld w 20 6) (fld w 14 6) (fld w 8 6)) = some [w] := by
  have k0 : fld w 26 6 = 0x01#6 := BitVec.eq_of_toNat_eq e0
  have k1 : fld w 0 8 = 6#8 := BitVec.eq_of_toNat_eq e1
  have j := parts_6_6_6_6_8 w
  rw [k0, k1] at j
  exact congrArg (fun x => some [x]) j

theorem write_sxor {w : W32} (e0 : (fld w 26 6).toNat = 0x01) (e1 : (fld w 0 8).toNat = 7) :
    encode (.sxor (fld w 20 6) (fld w 14 6) (fld w 8 6)) = some [w] := by
  have k0 : fld w 26 6 = 0x01#6 := BitVec.eq_of_toNat_eq e0
  have k1 : fld w 0 8 = 7#8 := BitVec.eq_of_toNat_eq e1
  have j := parts_6_6_6_6_8 w
  rw [k0, k1] at j
  exact congrArg (fun x => some [x]) j

theorem write_sshl {w : W32} (e0 : (fld w 26 6).toNat = 0x01) (e1 : (fld w 0 8).toNat = 8) :
    encode (.sshl (fld w 20 6) (fld w 14 6) (fld w 8 6)) = some [w] := by
  have k0 : fld w 26 6 = 0x01#6 := BitVec.eq_of_toNat_eq e0
  have k1 : fld w 0 8 = 8#8 := BitVec.eq_of_toNat_eq e1
  have j := parts_6_6_6_6_8 w
  rw [k0, k1] at j
  exact congrArg (fun x => some [x]) j

theorem write_sshr {w : W32} (e0 : (fld w 26 6).toNat = 0x01) (e1 : (fld w 0 8).toNat = 9) :
    encode (.sshr (fld w 20 6) (fld w 14 6) (fld w 8 6)) = some [w] := by
  have k0 : fld w 26 6 = 0x01#6 := BitVec.eq_of_toNat_eq e0
  have k1 : fld w 0 8 = 9#8 := BitVec.eq_of_toNat_eq e1
  have j := parts_6_6_6_6_8 w
  rw [k0, k1] at j
  exact congrArg (fun x => some [x]) j

theorem write_ssra {w : W32} (e0 : (fld w 26 6).toNat = 0x01) (e1 : (fld w 0 8).toNat = 10) :
    encode (.ssra (fld w 20 6) (fld w 14 6) (fld w 8 6)) = some [w] := by
  have k0 : fld w 26 6 = 0x01#6 := BitVec.eq_of_toNat_eq e0
  have k1 : fld w 0 8 = 10#8 := BitVec.eq_of_toNat_eq e1
  have j := parts_6_6_6_6_8 w
  rw [k0, k1] at j
  exact congrArg (fun x => some [x]) j

theorem write_smin {w : W32} (e0 : (fld w 26 6).toNat = 0x01) (e1 : (fld w 0 8).toNat = 11) :
    encode (.smin (fld w 20 6) (fld w 14 6) (fld w 8 6)) = some [w] := by
  have k0 : fld w 26 6 = 0x01#6 := BitVec.eq_of_toNat_eq e0
  have k1 : fld w 0 8 = 11#8 := BitVec.eq_of_toNat_eq e1
  have j := parts_6_6_6_6_8 w
  rw [k0, k1] at j
  exact congrArg (fun x => some [x]) j

theorem write_smax {w : W32} (e0 : (fld w 26 6).toNat = 0x01) (e1 : (fld w 0 8).toNat = 12) :
    encode (.smax (fld w 20 6) (fld w 14 6) (fld w 8 6)) = some [w] := by
  have k0 : fld w 26 6 = 0x01#6 := BitVec.eq_of_toNat_eq e0
  have k1 : fld w 0 8 = 12#8 := BitVec.eq_of_toNat_eq e1
  have j := parts_6_6_6_6_8 w
  rw [k0, k1] at j
  exact congrArg (fun x => some [x]) j

theorem write_sminn {w : W32} (e0 : (fld w 26 6).toNat = 0x01) (e1 : (fld w 0 8).toNat = 13) :
    encode (.sminn (fld w 20 6) (fld w 14 6) (fld w 8 6)) = some [w] := by
  have k0 : fld w 26 6 = 0x01#6 := BitVec.eq_of_toNat_eq e0
  have k1 : fld w 0 8 = 13#8 := BitVec.eq_of_toNat_eq e1
  have j := parts_6_6_6_6_8 w
  rw [k0, k1] at j
  exact congrArg (fun x => some [x]) j

theorem write_smaxn {w : W32} (e0 : (fld w 26 6).toNat = 0x01) (e1 : (fld w 0 8).toNat = 14) :
    encode (.smaxn (fld w 20 6) (fld w 14 6) (fld w 8 6)) = some [w] := by
  have k0 : fld w 26 6 = 0x01#6 := BitVec.eq_of_toNat_eq e0
  have k1 : fld w 0 8 = 14#8 := BitVec.eq_of_toNat_eq e1
  have j := parts_6_6_6_6_8 w
  rw [k0, k1] at j
  exact congrArg (fun x => some [x]) j

theorem write_sdiv {w : W32} (e0 : (fld w 26 6).toNat = 0x01) (e1 : (fld w 0 8).toNat = 15) :
    encode (.sdiv (fld w 20 6) (fld w 14 6) (fld w 8 6)) = some [w] := by
  have k0 : fld w 26 6 = 0x01#6 := BitVec.eq_of_toNat_eq e0
  have k1 : fld w 0 8 = 15#8 := BitVec.eq_of_toNat_eq e1
  have j := parts_6_6_6_6_8 w
  rw [k0, k1] at j
  exact congrArg (fun x => some [x]) j

theorem write_sdivn {w : W32} (e0 : (fld w 26 6).toNat = 0x01) (e1 : (fld w 0 8).toNat = 16) :
    encode (.sdivn (fld w 20 6) (fld w 14 6) (fld w 8 6)) = some [w] := by
  have k0 : fld w 26 6 = 0x01#6 := BitVec.eq_of_toNat_eq e0
  have k1 : fld w 0 8 = 16#8 := BitVec.eq_of_toNat_eq e1
  have j := parts_6_6_6_6_8 w
  rw [k0, k1] at j
  exact congrArg (fun x => some [x]) j

theorem write_srem {w : W32} (e0 : (fld w 26 6).toNat = 0x01) (e1 : (fld w 0 8).toNat = 17) :
    encode (.srem (fld w 20 6) (fld w 14 6) (fld w 8 6)) = some [w] := by
  have k0 : fld w 26 6 = 0x01#6 := BitVec.eq_of_toNat_eq e0
  have k1 : fld w 0 8 = 17#8 := BitVec.eq_of_toNat_eq e1
  have j := parts_6_6_6_6_8 w
  rw [k0, k1] at j
  exact congrArg (fun x => some [x]) j

theorem write_sremn {w : W32} (e0 : (fld w 26 6).toNat = 0x01) (e1 : (fld w 0 8).toNat = 18) :
    encode (.sremn (fld w 20 6) (fld w 14 6) (fld w 8 6)) = some [w] := by
  have k0 : fld w 26 6 = 0x01#6 := BitVec.eq_of_toNat_eq e0
  have k1 : fld w 0 8 = 18#8 := BitVec.eq_of_toNat_eq e1
  have j := parts_6_6_6_6_8 w
  rw [k0, k1] at j
  exact congrArg (fun x => some [x]) j

theorem write_sclz {w : W32} (e0 : (fld w 26 6).toNat = 0x01) (e1 : (fld w 0 8).toNat = 19) (hm : w &&& 0x00003F00#32 = 0#32) :
    encode (.sclz (fld w 20 6) (fld w 14 6)) = some [w] := by
  have k0 : fld w 26 6 = 0x01#6 := BitVec.eq_of_toNat_eq e0
  have k1 : fld w 0 8 = 19#8 := BitVec.eq_of_toNat_eq e1
  have m0 := (mask_00003F00 w).1 hm
  have c3 : fld w 0 14 = 19#14 := by
    rw [show fld w 0 14 = fld w 8 6 ++ fld w 0 8 from (by rw [fld_join w 8 0 (6) 8 rfl]), m0, k1]; rfl
  have j := parts_6_6_6_14 w
  rw [k0, c3] at j
  exact congrArg (fun x => some [x]) j

theorem write_spop {w : W32} (e0 : (fld w 26 6).toNat = 0x01) (e1 : (fld w 0 8).toNat = 20) (hm : w &&& 0x00003F00#32 = 0#32) :
    encode (.spop (fld w 20 6) (fld w 14 6)) = some [w] := by
  have k0 : fld w 26 6 = 0x01#6 := BitVec.eq_of_toNat_eq e0
  have k1 : fld w 0 8 = 20#8 := BitVec.eq_of_toNat_eq e1
  have m0 := (mask_00003F00 w).1 hm
  have c3 : fld w 0 14 = 20#14 := by
    rw [show fld w 0 14 = fld w 8 6 ++ fld w 0 8 from (by rw [fld_join w 8 0 (6) 8 rfl]), m0, k1]; rfl
  have j := parts_6_6_6_14 w
  rw [k0, c3] at j
  exact congrArg (fun x => some [x]) j

theorem write_saffx {w : W32} (e0 : (fld w 26 6).toNat = 0x01) (e1 : (fld w 0 8).toNat = 21) :
    encode (.saffx (fld w 20 6) (fld w 14 6) (fld w 8 6)) = some [w] := by
  have k0 : fld w 26 6 = 0x01#6 := BitVec.eq_of_toNat_eq e0
  have k1 : fld w 0 8 = 21#8 := BitVec.eq_of_toNat_eq e1
  have j := parts_6_6_6_6_8 w
  rw [k0, k1] at j
  exact congrArg (fun x => some [x]) j

theorem write_saffy {w : W32} (e0 : (fld w 26 6).toNat = 0x01) (e1 : (fld w 0 8).toNat = 22) :
    encode (.saffy (fld w 20 6) (fld w 14 6) (fld w 8 6)) = some [w] := by
  have k0 : fld w 26 6 = 0x01#6 := BitVec.eq_of_toNat_eq e0
  have k1 : fld w 0 8 = 22#8 := BitVec.eq_of_toNat_eq e1
  have j := parts_6_6_6_6_8 w
  rw [k0, k1] at j
  exact congrArg (fun x => some [x]) j

theorem write_saffz {w : W32} (e0 : (fld w 26 6).toNat = 0x01) (e1 : (fld w 0 8).toNat = 23) :
    encode (.saffz (fld w 20 6) (fld w 14 6) (fld w 8 6)) = some [w] := by
  have k0 : fld w 26 6 = 0x01#6 := BitVec.eq_of_toNat_eq e0
  have k1 : fld w 0 8 = 23#8 := BitVec.eq_of_toNat_eq e1
  have j := parts_6_6_6_6_8 w
  rw [k0, k1] at j
  exact congrArg (fun x => some [x]) j

theorem write_saddi {w : W32} (e0 : (fld w 26 6).toNat = 0x02) :
    encode (.saddi (fld w 20 6) (fld w 14 6) (fld w 0 14)) = some [w] := by
  have k0 : fld w 26 6 = 0x02#6 := BitVec.eq_of_toNat_eq e0
  have j := parts_6_6_6_14 w
  rw [k0] at j
  exact congrArg (fun x => some [x]) j

theorem write_sandi {w : W32} (e0 : (fld w 26 6).toNat = 0x03) :
    encode (.sandi (fld w 20 6) (fld w 14 6) (fld w 0 14)) = some [w] := by
  have k0 : fld w 26 6 = 0x03#6 := BitVec.eq_of_toNat_eq e0
  have j := parts_6_6_6_14 w
  rw [k0] at j
  exact congrArg (fun x => some [x]) j

theorem write_sori {w : W32} (e0 : (fld w 26 6).toNat = 0x04) :
    encode (.sori (fld w 20 6) (fld w 14 6) (fld w 0 14)) = some [w] := by
  have k0 : fld w 26 6 = 0x04#6 := BitVec.eq_of_toNat_eq e0
  have j := parts_6_6_6_14 w
  rw [k0] at j
  exact congrArg (fun x => some [x]) j

theorem write_sxori {w : W32} (e0 : (fld w 26 6).toNat = 0x05) :
    encode (.sxori (fld w 20 6) (fld w 14 6) (fld w 0 14)) = some [w] := by
  have k0 : fld w 26 6 = 0x05#6 := BitVec.eq_of_toNat_eq e0
  have j := parts_6_6_6_14 w
  rw [k0] at j
  exact congrArg (fun x => some [x]) j

theorem write_sshli {w : W32} (e0 : (fld w 26 6).toNat = 0x06) (hm : w &&& 0x00003FC0#32 = 0#32) :
    encode (.sshli (fld w 20 6) (fld w 14 6) (fld w 0 6)) = some [w] := by
  have k0 : fld w 26 6 = 0x06#6 := BitVec.eq_of_toNat_eq e0
  have m0 := (mask_00003FC0 w).1 hm
  have j := parts_6_6_6_8_6 w
  rw [k0, m0] at j
  exact congrArg (fun x => some [x]) j

theorem write_sshri {w : W32} (e0 : (fld w 26 6).toNat = 0x07) (hm : w &&& 0x00003FC0#32 = 0#32) :
    encode (.sshri (fld w 20 6) (fld w 14 6) (fld w 0 6)) = some [w] := by
  have k0 : fld w 26 6 = 0x07#6 := BitVec.eq_of_toNat_eq e0
  have m0 := (mask_00003FC0 w).1 hm
  have j := parts_6_6_6_8_6 w
  rw [k0, m0] at j
  exact congrArg (fun x => some [x]) j

theorem write_ssrai {w : W32} (e0 : (fld w 26 6).toNat = 0x08) (hm : w &&& 0x00003FC0#32 = 0#32) :
    encode (.ssrai (fld w 20 6) (fld w 14 6) (fld w 0 6)) = some [w] := by
  have k0 : fld w 26 6 = 0x08#6 := BitVec.eq_of_toNat_eq e0
  have m0 := (mask_00003FC0 w).1 hm
  have j := parts_6_6_6_8_6 w
  rw [k0, m0] at j
  exact congrArg (fun x => some [x]) j

theorem write_smuli {w : W32} (e0 : (fld w 26 6).toNat = 0x09) :
    encode (.smuli (fld w 20 6) (fld w 14 6) (fld w 0 14)) = some [w] := by
  have k0 : fld w 26 6 = 0x09#6 := BitVec.eq_of_toNat_eq e0
  have j := parts_6_6_6_14 w
  rw [k0] at j
  exact congrArg (fun x => some [x]) j

theorem write_sli {w w1 : W32} (e0 : (fld w 26 6).toNat = 0x0A) (e2 : w.getLsbD 0 = false) (hm : w &&& 0x000FFFFE#32 = 0#32) :
    encode (.sli (fld w 20 6) w1) = some [w, w1] := by
  have k0 : fld w 26 6 = 0x0A#6 := BitVec.eq_of_toNat_eq e0
  have k2 : fld w 0 1 = 0#1 := fld_bit e2
  obtain ⟨m0, m1⟩ := (mask_000FFFFE w).1 hm
  have c3 : fld w 0 14 = 0#14 := by
    rw [show fld w 0 14 = fld w 1 13 ++ fld w 0 1 from (by rw [fld_join w 1 0 (13) 1 rfl]), m1, k2]; rfl
  have j := parts_6_6_6_14 w
  rw [k0, m0, c3] at j
  exact congrArg (fun x => some [x, w1]) j

theorem write_sliHi {w w1 : W32} (e0 : (fld w 26 6).toNat = 0x0A) (e2 : w.getLsbD 0 = true) (hm : w &&& 0x000FFFFE#32 = 0#32) :
    encode (.sliHi (fld w 20 6) w1) = some [w, w1] := by
  have k0 : fld w 26 6 = 0x0A#6 := BitVec.eq_of_toNat_eq e0
  have k2 : fld w 0 1 = 1#1 := fld_bit e2
  obtain ⟨m0, m1⟩ := (mask_000FFFFE w).1 hm
  have c3 : fld w 0 14 = 1#14 := by
    rw [show fld w 0 14 = fld w 1 13 ++ fld w 0 1 from (by rw [fld_join w 1 0 (13) 1 rfl]), m1, k2]; rfl
  have j := parts_6_6_6_14 w
  rw [k0, m0, c3] at j
  exact congrArg (fun x => some [x, w1]) j

theorem write_scmp {w : W32} (e0 : (fld w 26 6).toNat = 0x0B) (hm : w &&& 0x038000F0#32 = 0#32) :
    encode (.scmp (fld w 20 3) (fld w 14 6) (fld w 8 6) (fld w 0 4)) = some [w] := by
  have k0 : fld w 26 6 = 0x0B#6 := BitVec.eq_of_toNat_eq e0
  obtain ⟨m0, m1⟩ := (mask_038000F0 w).1 hm
  have j := parts_6_3_3_6_6_4_4 w
  rw [k0, m0, m1] at j
  exact congrArg (fun x => some [x]) j

theorem write_scmpi {w : W32} (e0 : (fld w 26 6).toNat = 0x0C) :
    encode (.scmpi (fld w 23 3) (fld w 20 3) (fld w 14 6) (fld w 0 14)) = some [w] := by
  have k0 : fld w 26 6 = 0x0C#6 := BitVec.eq_of_toNat_eq e0
  have j := parts_6_3_3_6_14 w
  rw [k0] at j
  exact congrArg (fun x => some [x]) j

theorem write_ssel {w : W32} (e0 : (fld w 26 6).toNat = 0x0D) (hm : w &&& 0x000000F8#32 = 0#32) :
    encode (.ssel (fld w 20 6) (fld w 14 6) (fld w 8 6) (fld w 0 3)) = some [w] := by
  have k0 : fld w 26 6 = 0x0D#6 := BitVec.eq_of_toNat_eq e0
  have m0 := (mask_000000F8 w).1 hm
  have j := parts_6_6_6_6_5_3 w
  rw [k0, m0] at j
  exact congrArg (fun x => some [x]) j

theorem write_copAnd {w : W32} (e0 : (fld w 26 6).toNat = 0x0E) (e1 : (fld w 0 8).toNat = 0) (hm : w &&& 0x038E3800#32 = 0#32) :
    encode (.copAnd (fld w 20 3) (fld w 14 3) (fld w 8 3)) = some [w] := by
  have k0 : fld w 26 6 = 0x0E#6 := BitVec.eq_of_toNat_eq e0
  have k1 : fld w 0 8 = 0#8 := BitVec.eq_of_toNat_eq e1
  obtain ⟨m0, m1, m2⟩ := (mask_038E3800 w).1 hm
  have j := parts_6_3_3_3_3_3_3_8 w
  rw [k0, m0, m1, m2, k1] at j
  exact congrArg (fun x => some [x]) j

theorem write_copOr {w : W32} (e0 : (fld w 26 6).toNat = 0x0E) (e1 : (fld w 0 8).toNat = 1) (hm : w &&& 0x038E3800#32 = 0#32) :
    encode (.copOr (fld w 20 3) (fld w 14 3) (fld w 8 3)) = some [w] := by
  have k0 : fld w 26 6 = 0x0E#6 := BitVec.eq_of_toNat_eq e0
  have k1 : fld w 0 8 = 1#8 := BitVec.eq_of_toNat_eq e1
  obtain ⟨m0, m1, m2⟩ := (mask_038E3800 w).1 hm
  have j := parts_6_3_3_3_3_3_3_8 w
  rw [k0, m0, m1, m2, k1] at j
  exact congrArg (fun x => some [x]) j

theorem write_copXor {w : W32} (e0 : (fld w 26 6).toNat = 0x0E) (e1 : (fld w 0 8).toNat = 2) (hm : w &&& 0x038E3800#32 = 0#32) :
    encode (.copXor (fld w 20 3) (fld w 14 3) (fld w 8 3)) = some [w] := by
  have k0 : fld w 26 6 = 0x0E#6 := BitVec.eq_of_toNat_eq e0
  have k1 : fld w 0 8 = 2#8 := BitVec.eq_of_toNat_eq e1
  obtain ⟨m0, m1, m2⟩ := (mask_038E3800 w).1 hm
  have j := parts_6_3_3_3_3_3_3_8 w
  rw [k0, m0, m1, m2, k1] at j
  exact congrArg (fun x => some [x]) j

theorem write_copAndn {w : W32} (e0 : (fld w 26 6).toNat = 0x0E) (e1 : (fld w 0 8).toNat = 3) (hm : w &&& 0x038E3800#32 = 0#32) :
    encode (.copAndn (fld w 20 3) (fld w 14 3) (fld w 8 3)) = some [w] := by
  have k0 : fld w 26 6 = 0x0E#6 := BitVec.eq_of_toNat_eq e0
  have k1 : fld w 0 8 = 3#8 := BitVec.eq_of_toNat_eq e1
  obtain ⟨m0, m1, m2⟩ := (mask_038E3800 w).1 hm
  have j := parts_6_3_3_3_3_3_3_8 w
  rw [k0, m0, m1, m2, k1] at j
  exact congrArg (fun x => some [x]) j

theorem write_copNot {w : W32} (e0 : (fld w 26 6).toNat = 0x0E) (e1 : (fld w 0 8).toNat = 4) (hm : w &&& 0x038E3F00#32 = 0#32) :
    encode (.copNot (fld w 20 3) (fld w 14 3)) = some [w] := by
  have k0 : fld w 26 6 = 0x0E#6 := BitVec.eq_of_toNat_eq e0
  have k1 : fld w 0 8 = 4#8 := BitVec.eq_of_toNat_eq e1
  obtain ⟨m0, m1, m2⟩ := (mask_038E3F00 w).1 hm
  have c5 : fld w 0 14 = 4#14 := by
    rw [show fld w 0 14 = fld w 8 6 ++ fld w 0 8 from (by rw [fld_join w 8 0 (6) 8 rfl]), m2, k1]; rfl
  have j := parts_6_3_3_3_3_14 w
  rw [k0, m0, m1, c5] at j
  exact congrArg (fun x => some [x]) j

theorem write_copSet {w : W32} (e0 : (fld w 26 6).toNat = 0x0E) (e1 : (fld w 0 8).toNat = 5) (hm : w &&& 0x038FFF00#32 = 0#32) :
    encode (.copSet (fld w 20 3)) = some [w] := by
  have k0 : fld w 26 6 = 0x0E#6 := BitVec.eq_of_toNat_eq e0
  have k1 : fld w 0 8 = 5#8 := BitVec.eq_of_toNat_eq e1
  obtain ⟨m0, m1⟩ := (mask_038FFF00 w).1 hm
  have c3 : fld w 0 20 = 5#20 := by
    rw [show fld w 0 20 = fld w 8 12 ++ fld w 0 8 from (by rw [fld_join w 8 0 (12) 8 rfl]), m1, k1]; rfl
  have j := parts_6_3_3_20 w
  rw [k0, m0, c3] at j
  exact congrArg (fun x => some [x]) j

theorem write_copClr {w : W32} (e0 : (fld w 26 6).toNat = 0x0E) (e1 : (fld w 0 8).toNat = 6) (hm : w &&& 0x038FFF00#32 = 0#32) :
    encode (.copClr (fld w 20 3)) = some [w] := by
  have k0 : fld w 26 6 = 0x0E#6 := BitVec.eq_of_toNat_eq e0
  have k1 : fld w 0 8 = 6#8 := BitVec.eq_of_toNat_eq e1
  obtain ⟨m0, m1⟩ := (mask_038FFF00 w).1 hm
  have c3 : fld w 0 20 = 6#20 := by
    rw [show fld w 0 20 = fld w 8 12 ++ fld w 0 8 from (by rw [fld_join w 8 0 (12) 8 rfl]), m1, k1]; rfl
  have j := parts_6_3_3_20 w
  rw [k0, m0, c3] at j
  exact congrArg (fun x => some [x]) j

theorem write_copMov {w : W32} (e0 : (fld w 26 6).toNat = 0x0E) (e1 : (fld w 0 8).toNat = 7) (hm : w &&& 0x038E3F00#32 = 0#32) :
    encode (.copMov (fld w 20 3) (fld w 14 3)) = some [w] := by
  have k0 : fld w 26 6 = 0x0E#6 := BitVec.eq_of_toNat_eq e0
  have k1 : fld w 0 8 = 7#8 := BitVec.eq_of_toNat_eq e1
  obtain ⟨m0, m1, m2⟩ := (mask_038E3F00 w).1 hm
  have c5 : fld w 0 14 = 7#14 := by
    rw [show fld w 0 14 = fld w 8 6 ++ fld w 0 8 from (by rw [fld_join w 8 0 (6) 8 rfl]), m2, k1]; rfl
  have j := parts_6_3_3_3_3_14 w
  rw [k0, m0, m1, c5] at j
  exact congrArg (fun x => some [x]) j

theorem write_sform {w : W32} (e0 : (fld w 26 6).toNat = 0x0F) (hm : w &&& 0x00003F00#32 = 0#32) :
    encode (.sform (fld w 20 6) (fld w 14 6) (fld w 0 8)) = some [w] := by
  have k0 : fld w 26 6 = 0x0F#6 := BitVec.eq_of_toNat_eq e0
  have m0 := (mask_00003F00 w).1 hm
  have j := parts_6_6_6_6_8 w
  rw [k0, m0] at j
  exact congrArg (fun x => some [x]) j

theorem write_sld {w : W32} (e0 : (fld w 26 6).toNat = 0x10) :
    encode (.sld (fld w 20 6) (fld w 14 6) (fld w 12 2) (fld w 11 1) (fld w 9 2) (fld w 0 9)) = some [w] := by
  have k0 : fld w 26 6 = 0x10#6 := BitVec.eq_of_toNat_eq e0
  have j := parts_6_6_6_2_1_2_9 w
  rw [k0] at j
  exact congrArg (fun x => some [x]) j

theorem write_sst {w : W32} (e0 : (fld w 26 6).toNat = 0x11) (hm : w &&& 0x00000800#32 = 0#32) :
    encode (.sst (fld w 20 6) (fld w 14 6) (fld w 12 2) (fld w 9 2) (fld w 0 9)) = some [w] := by
  have k0 : fld w 26 6 = 0x11#6 := BitVec.eq_of_toNat_eq e0
  have m0 := (mask_00000800 w).1 hm
  have j := parts_6_6_6_2_1_2_9 w
  rw [k0, m0] at j
  exact congrArg (fun x => some [x]) j

theorem write_satom {w : W32} (e0 : (fld w 26 6).toNat = 0x12) :
    encode (.satom (fld w 20 6) (fld w 14 6) (fld w 8 6) (fld w 7 1) (fld w 4 3) (fld w 0 4)) = some [w] := by
  have k0 : fld w 26 6 = 0x12#6 := BitVec.eq_of_toNat_eq e0
  have j := parts_6_6_6_6_1_3_4 w
  rw [k0] at j
  exact congrArg (fun x => some [x]) j

theorem write_cmo {w : W32} (e0 : (fld w 26 6).toNat = 0x13) (hm : w &&& 0x03F000E0#32 = 0#32) :
    encode (.cmo (fld w 14 6) (fld w 8 6) (fld w 2 3) (fld w 0 2)) = some [w] := by
  have k0 : fld w 26 6 = 0x13#6 := BitVec.eq_of_toNat_eq e0
  obtain ⟨m0, m1⟩ := (mask_03F000E0 w).1 hm
  have j := parts_6_6_6_6_3_3_2 w
  rw [k0, m0, m1] at j
  exact congrArg (fun x => some [x]) j

theorem write_kset {w : W32} (e0 : (fld w 26 6).toNat = 0x14) (e1 : (fld w 0 8).toNat = 0) (hm : w &&& 0x03803F00#32 = 0#32) :
    encode (.kset (fld w 20 3) (fld w 14 6)) = some [w] := by
  have k0 : fld w 26 6 = 0x14#6 := BitVec.eq_of_toNat_eq e0
  have k1 : fld w 0 8 = 0#8 := BitVec.eq_of_toNat_eq e1
  obtain ⟨m0, m1⟩ := (mask_03803F00 w).1 hm
  have c4 : fld w 0 14 = 0#14 := by
    rw [show fld w 0 14 = fld w 8 6 ++ fld w 0 8 from (by rw [fld_join w 8 0 (6) 8 rfl]), m1, k1]; rfl
  have j := parts_6_3_3_6_14 w
  rw [k0, m0, c4] at j
  exact congrArg (fun x => some [x]) j

theorem write_kget {w : W32} (e0 : (fld w 26 6).toNat = 0x14) (e1 : (fld w 0 8).toNat = 1) (e2 : w.getLsbD 8 = false) (hm : w &&& 0x00003E00#32 = 0#32) :
    encode (.kget (fld w 20 6) (fld w 14 6)) = some [w] := by
  have k0 : fld w 26 6 = 0x14#6 := BitVec.eq_of_toNat_eq e0
  have k1 : fld w 0 8 = 1#8 := BitVec.eq_of_toNat_eq e1
  have k2 : fld w 8 1 = 0#1 := fld_bit e2
  have m0 := (mask_00003E00 w).1 hm
  have c3 : fld w 0 14 = 1#14 := by
    rw [show fld w 0 14 = fld w 9 5 ++ fld w 8 1 ++ fld w 0 8 from (by rw [fld_join w 9 8 (5) 1 rfl, fld_join w 8 0 (5 + 1) 8 rfl]), m0, k2, k1]; rfl
  have j := parts_6_6_6_14 w
  rw [k0, c3] at j
  exact congrArg (fun x => some [x]) j

theorem write_kgetSet {w : W32} (e0 : (fld w 26 6).toNat = 0x14) (e1 : (fld w 0 8).toNat = 1) (e2 : w.getLsbD 8 = true) (hm : w &&& 0x00003E00#32 = 0#32) :
    encode (.kgetSet (fld w 20 6) (fld w 14 6)) = some [w] := by
  have k0 : fld w 26 6 = 0x14#6 := BitVec.eq_of_toNat_eq e0
  have k1 : fld w 0 8 = 1#8 := BitVec.eq_of_toNat_eq e1
  have k2 : fld w 8 1 = 1#1 := fld_bit e2
  have m0 := (mask_00003E00 w).1 hm
  have c3 : fld w 0 14 = 257#14 := by
    rw [show fld w 0 14 = fld w 9 5 ++ fld w 8 1 ++ fld w 0 8 from (by rw [fld_join w 9 8 (5) 1 rfl, fld_join w 8 0 (5 + 1) 8 rfl]), m0, k2, k1]; rfl
  have j := parts_6_6_6_14 w
  rw [k0, c3] at j
  exact congrArg (fun x => some [x]) j

theorem write_krev {w : W32} (e0 : (fld w 26 6).toNat = 0x14) (e1 : (fld w 0 8).toNat = 2) (hm : w &&& 0x03800000#32 = 0#32) :
    encode (.krev (fld w 20 3) (fld w 14 6) (fld w 8 6)) = some [w] := by
  have k0 : fld w 26 6 = 0x14#6 := BitVec.eq_of_toNat_eq e0
  have k1 : fld w 0 8 = 2#8 := BitVec.eq_of_toNat_eq e1
  have m0 := (mask_03800000 w).1 hm
  have j := parts_6_3_3_6_6_8 w
  rw [k0, m0, k1] at j
  exact congrArg (fun x => some [x]) j

theorem write_kdrop {w : W32} (e0 : (fld w 26 6).toNat = 0x14) (e1 : (fld w 0 8).toNat = 3) (hm : w &&& 0x03F00000#32 = 0#32) :
    encode (.kdrop (fld w 14 6) (fld w 8 6)) = some [w] := by
  have k0 : fld w 26 6 = 0x14#6 := BitVec.eq_of_toNat_eq e0
  have k1 : fld w 0 8 = 3#8 := BitVec.eq_of_toNat_eq e1
  have m0 := (mask_03F00000 w).1 hm
  have j := parts_6_6_6_6_8 w
  rw [k0, m0, k1] at j
  exact congrArg (fun x => some [x]) j

theorem write_barArv {w : W32} (e0 : (fld w 26 6).toNat = 0x15) (e1 : (fld w 0 8).toNat = 0) :
    encode (.barArv (fld w 20 6) (fld w 14 6) (fld w 8 6)) = some [w] := by
  have k0 : fld w 26 6 = 0x15#6 := BitVec.eq_of_toNat_eq e0
  have k1 : fld w 0 8 = 0#8 := BitVec.eq_of_toNat_eq e1
  have j := parts_6_6_6_6_8 w
  rw [k0, k1] at j
  exact congrArg (fun x => some [x]) j

theorem write_barWt {w : W32} (e0 : (fld w 26 6).toNat = 0x15) (e1 : (fld w 0 8).toNat = 1) (hm : w &&& 0x03F00000#32 = 0#32) :
    encode (.barWt (fld w 14 6) (fld w 8 6)) = some [w] := by
  have k0 : fld w 26 6 = 0x15#6 := BitVec.eq_of_toNat_eq e0
  have k1 : fld w 0 8 = 1#8 := BitVec.eq_of_toNat_eq e1
  have m0 := (mask_03F00000 w).1 hm
  have j := parts_6_6_6_6_8 w
  rw [k0, m0, k1] at j
  exact congrArg (fun x => some [x]) j

theorem write_barArw {w : W32} (e0 : (fld w 26 6).toNat = 0x15) (e1 : (fld w 0 8).toNat = 2) (hm : w &&& 0x03F00000#32 = 0#32) :
    encode (.barArw (fld w 14 6) (fld w 8 6)) = some [w] := by
  have k0 : fld w 26 6 = 0x15#6 := BitVec.eq_of_toNat_eq e0
  have k1 : fld w 0 8 = 2#8 := BitVec.eq_of_toNat_eq e1
  have m0 := (mask_03F00000 w).1 hm
  have j := parts_6_6_6_6_8 w
  rw [k0, m0, k1] at j
  exact congrArg (fun x => some [x]) j

theorem write_barInit {w : W32} (e0 : (fld w 26 6).toNat = 0x15) (e1 : (fld w 0 8).toNat = 3) (hm : w &&& 0x03F00000#32 = 0#32) :
    encode (.barInit (fld w 14 6) (fld w 8 6)) = some [w] := by
  have k0 : fld w 26 6 = 0x15#6 := BitVec.eq_of_toNat_eq e0
  have k1 : fld w 0 8 = 3#8 := BitVec.eq_of_toNat_eq e1
  have m0 := (mask_03F00000 w).1 hm
  have j := parts_6_6_6_6_8 w
  rw [k0, m0, k1] at j
  exact congrArg (fun x => some [x]) j

theorem write_hbarArv {w : W32} (e0 : (fld w 26 6).toNat = 0x16) (e1 : (fld w 0 2).toNat = 0) (hm : w &&& 0x000FFFE0#32 = 0#32) :
    encode (.hbarArv (fld w 20 6) (fld w 2 3)) = some [w] := by
  have k0 : fld w 26 6 = 0x16#6 := BitVec.eq_of_toNat_eq e0
  have k1 : fld w 0 2 = 0#2 := BitVec.eq_of_toNat_eq e1
  have m0 := (mask_000FFFE0 w).1 hm
  have j := parts_6_6_15_3_2 w
  rw [k0, m0, k1] at j
  exact congrArg (fun x => some [x]) j

theorem write_hbarWt {w : W32} (e0 : (fld w 26 6).toNat = 0x16) (e1 : (fld w 0 2).toNat = 1) (hm : w &&& 0x03F03FE0#32 = 0#32) :
    encode (.hbarWt (fld w 14 6) (fld w 2 3)) = some [w] := by
  have k0 : fld w 26 6 = 0x16#6 := BitVec.eq_of_toNat_eq e0
  have k1 : fld w 0 2 = 1#2 := BitVec.eq_of_toNat_eq e1
  obtain ⟨m0, m1⟩ := (mask_03F03FE0 w).1 hm
  have j := parts_6_6_6_9_3_2 w
  rw [k0, m0, m1, k1] at j
  exact congrArg (fun x => some [x]) j

theorem write_hbarArw {w : W32} (e0 : (fld w 26 6).toNat = 0x16) (e1 : (fld w 0 2).toNat = 2) (hm : w &&& 0x03FFFFE0#32 = 0#32) :
    encode (.hbarArw (fld w 2 3)) = some [w] := by
  have k0 : fld w 26 6 = 0x16#6 := BitVec.eq_of_toNat_eq e0
  have k1 : fld w 0 2 = 2#2 := BitVec.eq_of_toNat_eq e1
  have m0 := (mask_03FFFFE0 w).1 hm
  have j := parts_6_21_3_2 w
  rw [k0, m0, k1] at j
  exact congrArg (fun x => some [x]) j

theorem write_fence {w : W32} (e0 : (fld w 26 6).toNat = 0x17) (hm : w &&& 0x03FFFFE0#32 = 0#32) :
    encode (.fence (fld w 3 2) (fld w 0 3)) = some [w] := by
  have k0 : fld w 26 6 = 0x17#6 := BitVec.eq_of_toNat_eq e0
  have m0 := (mask_03FFFFE0 w).1 hm
  have j := parts_6_21_2_3 w
  rw [k0, m0] at j
  exact congrArg (fun x => some [x]) j

theorem write_br {w : W32} (e0 : (fld w 26 6).toNat = 0x18) :
    encode (.br (fld w 23 3) (fld w 22 1) (fld w 0 22)) = some [w] := by
  have k0 : fld w 26 6 = 0x18#6 := BitVec.eq_of_toNat_eq e0
  have j := parts_6_3_1_22 w
  rw [k0] at j
  exact congrArg (fun x => some [x]) j

theorem write_call {w : W32} (e0 : (fld w 26 6).toNat = 0x19) :
    encode (.call (fld w 23 3) (fld w 22 1) (fld w 0 22)) = some [w] := by
  have k0 : fld w 26 6 = 0x19#6 := BitVec.eq_of_toNat_eq e0
  have j := parts_6_3_1_22 w
  rw [k0] at j
  exact congrArg (fun x => some [x]) j

theorem write_jmp {w : W32} (e0 : (fld w 26 6).toNat = 0x1A) (hm : w &&& 0x03F03FFF#32 = 0#32) :
    encode (.jmp (fld w 14 6)) = some [w] := by
  have k0 : fld w 26 6 = 0x1A#6 := BitVec.eq_of_toNat_eq e0
  obtain ⟨m0, m1⟩ := (mask_03F03FFF w).1 hm
  have j := parts_6_6_6_14 w
  rw [k0, m0, m1] at j
  exact congrArg (fun x => some [x]) j

theorem write_ret {w : W32} (e0 : (fld w 26 6).toNat = 0x1B) (hm : w &&& 0x03FFFFFF#32 = 0#32) :
    encode (.ret) = some [w] := by
  have k0 : fld w 26 6 = 0x1B#6 := BitVec.eq_of_toNat_eq e0
  have m0 := (mask_03FFFFFF w).1 hm
  have j := parts_6_26 w
  rw [k0, m0] at j
  exact congrArg (fun x => some [x]) j

theorem write_lx {w w1 : W32} (e0 : (fld w 26 6).toNat = 0x1C) (hm : w &&& 0x03FFFFFF#32 = 0#32) :
    encode (.lx w1) = some [w, w1] := by
  have k0 : fld w 26 6 = 0x1C#6 := BitVec.eq_of_toNat_eq e0
  have m0 := (mask_03FFFFFF w).1 hm
  have j := parts_6_26 w
  rw [k0, m0] at j
  exact congrArg (fun x => some [x, w1]) j

theorem write_exit {w : W32} (e0 : (fld w 26 6).toNat = 0x1D) (hm : w &&& 0x03FFFFFF#32 = 0#32) :
    encode (.exit) = some [w] := by
  have k0 : fld w 26 6 = 0x1D#6 := BitVec.eq_of_toNat_eq e0
  have m0 := (mask_03FFFFFF w).1 hm
  have j := parts_6_26 w
  rw [k0, m0] at j
  exact congrArg (fun x => some [x]) j

theorem write_wait {w : W32} (e0 : (fld w 26 6).toNat = 0x1E) (e3 : fld w 2 6 = 0#6) (hm : w &&& 0x03F03F00#32 = 0#32) :
    encode (.wait (fld w 14 6) (fld w 0 2)) = some [w] := by
  have k0 : fld w 26 6 = 0x1E#6 := BitVec.eq_of_toNat_eq e0
  obtain ⟨m0, m1⟩ := (mask_03F03F00 w).1 hm
  have c3 : fld w 2 12 = 0#12 := by
    rw [show fld w 2 12 = fld w 8 6 ++ fld w 2 6 from (by rw [fld_join w 8 2 (6) 6 rfl]), m1, e3]; rfl
  have j := parts_6_6_6_12_2 w
  rw [k0, m0, c3] at j
  exact congrArg (fun x => some [x]) j

theorem write_trapf {w : W32} (e0 : (fld w 26 6).toNat = 0x1F) (hm : w &&& 0x03FFFFFF#32 = 0#32) :
    encode (.trapf) = some [w] := by
  have k0 : fld w 26 6 = 0x1F#6 := BitVec.eq_of_toNat_eq e0
  have m0 := (mask_03FFFFFF w).1 hm
  have j := parts_6_26 w
  rw [k0, m0] at j
  exact congrArg (fun x => some [x]) j

theorem write_jtok {w : W32} (e0 : (fld w 26 6).toNat = 0x20) (hm : w &&& 0x03E00000#32 = 0#32) :
    encode (.jtok (fld w 0 21)) = some [w] := by
  have k0 : fld w 26 6 = 0x20#6 := BitVec.eq_of_toNat_eq e0
  have m0 := (mask_03E00000 w).1 hm
  have j := parts_6_5_21 w
  rw [k0, m0] at j
  exact congrArg (fun x => some [x]) j

theorem write_dvg {w : W32} (e0 : (fld w 26 6).toNat = 0x21) :
    encode (.dvg (fld w 23 3) (fld w 22 1) (fld w 21 1) (fld w 0 21)) = some [w] := by
  have k0 : fld w 26 6 = 0x21#6 := BitVec.eq_of_toNat_eq e0
  have j := parts_6_3_1_1_21 w
  rw [k0] at j
  exact congrArg (fun x => some [x]) j

theorem write_nxt {w : W32} (e0 : (fld w 26 6).toNat = 0x22) (hm : w &&& 0x03FFFFFF#32 = 0#32) :
    encode (.nxt) = some [w] := by
  have k0 : fld w 26 6 = 0x22#6 := BitVec.eq_of_toNat_eq e0
  have m0 := (mask_03FFFFFF w).1 hm
  have j := parts_6_26 w
  rw [k0, m0] at j
  exact congrArg (fun x => some [x]) j

theorem write_lpb {w : W32} (e0 : (fld w 26 6).toNat = 0x23) (hm : w &&& 0x03E00000#32 = 0#32) :
    encode (.lpb (fld w 0 21)) = some [w] := by
  have k0 : fld w 26 6 = 0x23#6 := BitVec.eq_of_toNat_eq e0
  have m0 := (mask_03E00000 w).1 hm
  have j := parts_6_5_21 w
  rw [k0, m0] at j
  exact congrArg (fun x => some [x]) j

theorem write_lpe {w : W32} (e0 : (fld w 26 6).toNat = 0x24) :
    encode (.lpe (fld w 23 3) (fld w 22 1) (fld w 21 1) (fld w 0 21)) = some [w] := by
  have k0 : fld w 26 6 = 0x24#6 := BitVec.eq_of_toNat_eq e0
  have j := parts_6_3_1_1_21 w
  rw [k0] at j
  exact congrArg (fun x => some [x]) j

theorem write_brk {w : W32} (e0 : (fld w 26 6).toNat = 0x25) (hm : w &&& 0x001FFFFF#32 = 0#32) :
    encode (.brk (fld w 23 3) (fld w 22 1) (fld w 21 1)) = some [w] := by
  have k0 : fld w 26 6 = 0x25#6 := BitVec.eq_of_toNat_eq e0
  have m0 := (mask_001FFFFF w).1 hm
  have j := parts_6_3_1_1_21 w
  rw [k0, m0] at j
  exact congrArg (fun x => some [x]) j

theorem write_seat {w : W32} (e0 : (fld w 26 6).toNat = 0x26) (hm : w &&& 0x03FFFFFF#32 = 0#32) :
    encode (.seat) = some [w] := by
  have k0 : fld w 26 6 = 0x26#6 := BitVec.eq_of_toNat_eq e0
  have m0 := (mask_03FFFFFF w).1 hm
  have j := parts_6_26 w
  rw [k0, m0] at j
  exact congrArg (fun x => some [x]) j

theorem write_unseat {w : W32} (e0 : (fld w 26 6).toNat = 0x27) (hm : w &&& 0x03FFFFFF#32 = 0#32) :
    encode (.unseat) = some [w] := by
  have k0 : fld w 26 6 = 0x27#6 := BitVec.eq_of_toNat_eq e0
  have m0 := (mask_03FFFFFF w).1 hm
  have j := parts_6_26 w
  rw [k0, m0] at j
  exact congrArg (fun x => some [x]) j

theorem write_sjoin {w : W32} (e0 : (fld w 26 6).toNat = 0x28) (hm : w &&& 0x03FFF800#32 = 0#32) :
    encode (.sjoin (fld w 0 11)) = some [w] := by
  have k0 : fld w 26 6 = 0x28#6 := BitVec.eq_of_toNat_eq e0
  have m0 := (mask_03FFF800 w).1 hm
  have j := parts_6_15_11 w
  rw [k0, m0] at j
  exact congrArg (fun x => some [x]) j

theorem write_qfence {w : W32} (e0 : (fld w 26 6).toNat = 0x29) (hm : w &&& 0x03FFFFF8#32 = 0#32) :
    encode (.qfence (fld w 0 3)) = some [w] := by
  have k0 : fld w 26 6 = 0x29#6 := BitVec.eq_of_toNat_eq e0
  have m0 := (mask_03FFFFF8 w).1 hm
  have j := parts_6_23_3 w
  rw [k0, m0] at j
  exact congrArg (fun x => some [x]) j

theorem write_snooze {w : W32} (e0 : (fld w 26 6).toNat = 0x2A) (e2 : w.getLsbD 0 = false) (hm : w &&& 0x03F03FFE#32 = 0#32) :
    encode (.snooze (fld w 14 6)) = some [w] := by
  have k0 : fld w 26 6 = 0x2A#6 := BitVec.eq_of_toNat_eq e0
  have k2 : fld w 0 1 = 0#1 := fld_bit e2
  obtain ⟨m0, m1⟩ := (mask_03F03FFE w).1 hm
  have c3 : fld w 0 14 = 0#14 := by
    rw [show fld w 0 14 = fld w 1 13 ++ fld w 0 1 from (by rw [fld_join w 1 0 (13) 1 rfl]), m1, k2]; rfl
  have j := parts_6_6_6_14 w
  rw [k0, m0, c3] at j
  exact congrArg (fun x => some [x]) j

theorem write_snoozeAbs {w : W32} (e0 : (fld w 26 6).toNat = 0x2A) (e2 : w.getLsbD 0 = true) (hm : w &&& 0x03F03FFE#32 = 0#32) :
    encode (.snoozeAbs (fld w 14 6)) = some [w] := by
  have k0 : fld w 26 6 = 0x2A#6 := BitVec.eq_of_toNat_eq e0
  have k2 : fld w 0 1 = 1#1 := fld_bit e2
  obtain ⟨m0, m1⟩ := (mask_03F03FFE w).1 hm
  have c3 : fld w 0 14 = 1#14 := by
    rw [show fld w 0 14 = fld w 1 13 ++ fld w 0 1 from (by rw [fld_join w 1 0 (13) 1 rfl]), m1, k2]; rfl
  have j := parts_6_6_6_14 w
  rw [k0, m0, c3] at j
  exact congrArg (fun x => some [x]) j

theorem write_mma {w : W32} (e0 : (fld w 26 6).toNat = 0x30) (hm : w &&& 0x00000080#32 = 0#32) :
    encode (.mma (fld w 20 6) (fld w 14 6) (fld w 8 6) (fld w 0 7)) = some [w] := by
  have k0 : fld w 26 6 = 0x30#6 := BitVec.eq_of_toNat_eq e0
  have m0 := (mask_00000080 w).1 hm
  have j := parts_6_6_6_6_1_7 w
  rw [k0, m0] at j
  exact congrArg (fun x => some [x]) j

theorem write_mgath {w : W32} (e0 : (fld w 26 6).toNat = 0x31) (hm : w &&& 0x00000080#32 = 0#32) :
    encode (.mgath (fld w 20 6) (fld w 14 6) (fld w 8 6) (fld w 0 7)) = some [w] := by
  have k0 : fld w 26 6 = 0x31#6 := BitVec.eq_of_toNat_eq e0
  have m0 := (mask_00000080 w).1 hm
  have j := parts_6_6_6_6_1_7 w
  rw [k0, m0] at j
  exact congrArg (fun x => some [x]) j

theorem write_mzero {w : W32} (e0 : (fld w 26 6).toNat = 0x32) (hm : w &&& 0x038FFFFE#32 = 0#32) :
    encode (.mzero (fld w 20 3) (fld w 0 1)) = some [w] := by
  have k0 : fld w 26 6 = 0x32#6 := BitVec.eq_of_toNat_eq e0
  obtain ⟨m0, m1⟩ := (mask_038FFFFE w).1 hm
  have j := parts_6_3_3_19_1 w
  rw [k0, m0, m1] at j
  exact congrArg (fun x => some [x]) j

theorem write_mdrain {w : W32} (e0 : (fld w 26 6).toNat = 0x33) (hm : w &&& 0x03803FC0#32 = 0#32) :
    encode (.mdrain (fld w 20 3) (fld w 14 6) (fld w 0 6)) = some [w] := by
  have k0 : fld w 26 6 = 0x33#6 := BitVec.eq_of_toNat_eq e0
  obtain ⟨m0, m1⟩ := (mask_03803FC0 w).1 hm
  have j := parts_6_3_3_6_8_6 w
  rw [k0, m0, m1] at j
  exact congrArg (fun x => some [x]) j

theorem write_mcommit {w : W32} (e0 : (fld w 26 6).toNat = 0x34) (hm : w &&& 0x038FFFFE#32 = 0#32) :
    encode (.mcommit (fld w 20 3) (fld w 0 1)) = some [w] := by
  have k0 : fld w 26 6 = 0x34#6 := BitVec.eq_of_toNat_eq e0
  obtain ⟨m0, m1⟩ := (mask_038FFFFE w).1 hm
  have j := parts_6_3_3_19_1 w
  rw [k0, m0, m1] at j
  exact congrArg (fun x => some [x]) j

theorem write_mfence {w : W32} (e0 : (fld w 26 6).toNat = 0x35) (hm : w &&& 0x03F03FFF#32 = 0#32) :
    encode (.mfence (fld w 14 6)) = some [w] := by
  have k0 : fld w 26 6 = 0x35#6 := BitVec.eq_of_toNat_eq e0
  obtain ⟨m0, m1⟩ := (mask_03F03FFF w).1 hm
  have j := parts_6_6_6_14 w
  rw [k0, m0, m1] at j
  exact congrArg (fun x => some [x]) j

theorem write_mwait {w : W32} (e0 : (fld w 26 6).toNat = 0x36) (hm : w &&& 0x00003FFF#32 = 0#32) :
    encode (.mwait (fld w 20 6) (fld w 14 6)) = some [w] := by
  have k0 : fld w 26 6 = 0x36#6 := BitVec.eq_of_toNat_eq e0
  have m0 := (mask_00003FFF w).1 hm
  have j := parts_6_6_6_14 w
  rw [k0, m0] at j
  exact congrArg (fun x => some [x]) j

theorem write_cpy {w : W32} (e0 : (fld w 26 6).toNat = 0x37) (hm : w &&& 0x038000F0#32 = 0#32) :
    encode (.cpy (fld w 20 3) (fld w 14 6) (fld w 8 6) (fld w 0 4)) = some [w] := by
  have k0 : fld w 26 6 = 0x37#6 := BitVec.eq_of_toNat_eq e0
  obtain ⟨m0, m1⟩ := (mask_038000F0 w).1 hm
  have j := parts_6_3_3_6_6_4_4 w
  rw [k0, m0, m1] at j
  exact congrArg (fun x => some [x]) j

theorem write_coll {w : W32} (e0 : (fld w 26 6).toNat = 0x38) (hm : w &&& 0x03F03F80#32 = 0#32) :
    encode (.coll (fld w 14 6) (fld w 5 2) (fld w 2 3) (fld w 0 2)) = some [w] := by
  have k0 : fld w 26 6 = 0x38#6 := BitVec.eq_of_toNat_eq e0
  obtain ⟨m0, m1⟩ := (mask_03F03F80 w).1 hm
  have j := parts_6_6_6_7_2_3_2 w
  rw [k0, m0, m1] at j
  exact congrArg (fun x => some [x]) j

theorem write_rbeg {w : W32} (e0 : (fld w 26 6).toNat = 0x39) (e2 : w.getLsbD 0 = false) (hm : w &&& 0x000000FE#32 = 0#32) :
    encode (.rbeg (fld w 8 18)) = some [w] := by
  have k0 : fld w 26 6 = 0x39#6 := BitVec.eq_of_toNat_eq e0
  have k2 : fld w 0 1 = 0#1 := fld_bit e2
  have m0 := (mask_000000FE w).1 hm
  have c2 : fld w 0 8 = 0#8 := by
    rw [show fld w 0 8 = fld w 1 7 ++ fld w 0 1 from (by rw [fld_join w 1 0 (7) 1 rfl]), m0, k2]; rfl
  have j := parts_6_18_8 w
  rw [k0, c2] at j
  exact congrArg (fun x => some [x]) j

theorem write_rbegStrict {w : W32} (e0 : (fld w 26 6).toNat = 0x39) (e2 : w.getLsbD 0 = true) (hm : w &&& 0x000000FE#32 = 0#32) :
    encode (.rbegStrict (fld w 8 18)) = some [w] := by
  have k0 : fld w 26 6 = 0x39#6 := BitVec.eq_of_toNat_eq e0
  have k2 : fld w 0 1 = 1#1 := fld_bit e2
  have m0 := (mask_000000FE w).1 hm
  have c2 : fld w 0 8 = 1#8 := by
    rw [show fld w 0 8 = fld w 1 7 ++ fld w 0 1 from (by rw [fld_join w 1 0 (7) 1 rfl]), m0, k2]; rfl
  have j := parts_6_18_8 w
  rw [k0, c2] at j
  exact congrArg (fun x => some [x]) j

theorem write_rend {w : W32} (e0 : (fld w 26 6).toNat = 0x3A) (hm : w &&& 0x03FFFFFF#32 = 0#32) :
    encode (.rend) = some [w] := by
  have k0 : fld w 26 6 = 0x3A#6 := BitVec.eq_of_toNat_eq e0
  have m0 := (mask_03FFFFFF w).1 hm
  have j := parts_6_26 w
  rw [k0, m0] at j
  exact congrArg (fun x => some [x]) j

theorem write_rabt {w : W32} (e0 : (fld w 26 6).toNat = 0x3B) (hm : w &&& 0x03FFFF00#32 = 0#32) :
    encode (.rabt (fld w 0 8)) = some [w] := by
  have k0 : fld w 26 6 = 0x3B#6 := BitVec.eq_of_toNat_eq e0
  have m0 := (mask_03FFFF00 w).1 hm
  have j := parts_6_18_8 w
  rw [k0, m0] at j
  exact congrArg (fun x => some [x]) j

theorem write_rnarLo {w : W32} (e0 : (fld w 26 6).toNat = 0x3C) (e1 : (fld w 0 8).toNat = 0) (hm : w &&& 0x000FFF00#32 = 0#32) :
    encode (.rnarLo (fld w 20 6)) = some [w] := by
  have k0 : fld w 26 6 = 0x3C#6 := BitVec.eq_of_toNat_eq e0
  have k1 : fld w 0 8 = 0#8 := BitVec.eq_of_toNat_eq e1
  have m0 := (mask_000FFF00 w).1 hm
  have c2 : fld w 0 20 = 0#20 := by
    rw [show fld w 0 20 = fld w 8 12 ++ fld w 0 8 from (by rw [fld_join w 8 0 (12) 8 rfl]), m0, k1]; rfl
  have j := parts_6_6_20 w
  rw [k0, c2] at j
  exact congrArg (fun x => some [x]) j

theorem write_rnarHi {w : W32} (e0 : (fld w 26 6).toNat = 0x3C) (e1 : (fld w 0 8).toNat = 1) (hm : w &&& 0x000FFF00#32 = 0#32) :
    encode (.rnarHi (fld w 20 6)) = some [w] := by
  have k0 : fld w 26 6 = 0x3C#6 := BitVec.eq_of_toNat_eq e0
  have k1 : fld w 0 8 = 1#8 := BitVec.eq_of_toNat_eq e1
  have m0 := (mask_000FFF00 w).1 hm
  have c2 : fld w 0 20 = 1#20 := by
    rw [show fld w 0 20 = fld w 8 12 ++ fld w 0 8 from (by rw [fld_join w 8 0 (12) 8 rfl]), m0, k1]; rfl
  have j := parts_6_6_20 w
  rw [k0, c2] at j
  exact congrArg (fun x => some [x]) j

theorem write_rnarNarrow {w : W32} (e0 : (fld w 26 6).toNat = 0x3C) (e1 : (fld w 0 8).toNat = 2) (hm : w &&& 0x03F00000#32 = 0#32) :
    encode (.rnarNarrow (fld w 14 6) (fld w 8 6)) = some [w] := by
  have k0 : fld w 26 6 = 0x3C#6 := BitVec.eq_of_toNat_eq e0
  have k1 : fld w 0 8 = 2#8 := BitVec.eq_of_toNat_eq e1
  have m0 := (mask_03F00000 w).1 hm
  have j := parts_6_6_6_6_8 w
  rw [k0, m0, k1] at j
  exact congrArg (fun x => some [x]) j

theorem write_nop {w : W32} (e0 : (fld w 26 6).toNat = 0x3E) (e1 : (fld w 0 8).toNat = 0) (hm : w &&& 0x03FFFF00#32 = 0#32) :
    encode (.nop) = some [w] := by
  have k0 : fld w 26 6 = 0x3E#6 := BitVec.eq_of_toNat_eq e0
  have k1 : fld w 0 8 = 0#8 := BitVec.eq_of_toNat_eq e1
  have m0 := (mask_03FFFF00 w).1 hm
  have c1 : fld w 0 26 = 0#26 := by
    rw [show fld w 0 26 = fld w 8 18 ++ fld w 0 8 from (by rw [fld_join w 8 0 (18) 8 rfl]), m0, k1]; rfl
  have j := parts_6_26 w
  rw [k0, c1] at j
  exact congrArg (fun x => some [x]) j

theorem write_trap {w : W32} (e0 : (fld w 26 6).toNat = 0x3E) (e1 : (fld w 0 8).toNat = 1) (hm : w &&& 0x000FFF00#32 = 0#32) :
    encode (.trap (fld w 20 6)) = some [w] := by
  have k0 : fld w 26 6 = 0x3E#6 := BitVec.eq_of_toNat_eq e0
  have k1 : fld w 0 8 = 1#8 := BitVec.eq_of_toNat_eq e1
  have m0 := (mask_000FFF00 w).1 hm
  have c2 : fld w 0 20 = 1#20 := by
    rw [show fld w 0 20 = fld w 8 12 ++ fld w 0 8 from (by rw [fld_join w 8 0 (12) 8 rfl]), m0, k1]; rfl
  have j := parts_6_6_20 w
  rw [k0, c2] at j
  exact congrArg (fun x => some [x]) j

theorem write_srd {w : W32} (e0 : (fld w 26 6).toNat = 0x3E) (e1 : (fld w 0 8).toNat = 2) (hm : w &&& 0x00003F00#32 = 0#32) :
    encode (.srd (fld w 20 6) (fld w 14 6)) = some [w] := by
  have k0 : fld w 26 6 = 0x3E#6 := BitVec.eq_of_toNat_eq e0
  have k1 : fld w 0 8 = 2#8 := BitVec.eq_of_toNat_eq e1
  have m0 := (mask_00003F00 w).1 hm
  have c3 : fld w 0 14 = 2#14 := by
    rw [show fld w 0 14 = fld w 8 6 ++ fld w 0 8 from (by rw [fld_join w 8 0 (6) 8 rfl]), m0, k1]; rfl
  have j := parts_6_6_6_14 w
  rw [k0, c3] at j
  exact congrArg (fun x => some [x]) j

theorem write_swr {w : W32} (e0 : (fld w 26 6).toNat = 0x3E) (e1 : (fld w 0 8).toNat = 3) (hm : w &&& 0x03F00000#32 = 0#32) :
    encode (.swr (fld w 14 6) (fld w 8 6)) = some [w] := by
  have k0 : fld w 26 6 = 0x3E#6 := BitVec.eq_of_toNat_eq e0
  have k1 : fld w 0 8 = 3#8 := BitVec.eq_of_toNat_eq e1
  have m0 := (mask_03F00000 w).1 hm
  have j := parts_6_6_6_6_8 w
  rw [k0, m0, k1] at j
  exact congrArg (fun x => some [x]) j

theorem write_dlaunch {w : W32} (e0 : (fld w 26 6).toNat = 0x3E) (e1 : (fld w 0 8).toNat = 4) :
    encode (.dlaunch (fld w 20 6) (fld w 14 6) (fld w 8 6)) = some [w] := by
  have k0 : fld w 26 6 = 0x3E#6 := BitVec.eq_of_toNat_eq e0
  have k1 : fld w 0 8 = 4#8 := BitVec.eq_of_toNat_eq e1
  have j := parts_6_6_6_6_8 w
  rw [k0, k1] at j
  exact congrArg (fun x => some [x]) j

theorem words_one {w0 w1 : W32} {i : Instr} {k : Nat} (e : (fld w0 26 6).toNat = k) (hk : (k == 0x0A || k == 0x1C) = false)
    (h : encode i = some [w0]) : encode i = some (if isSX w0 then [w0, w1] else [w0]) := by
  rw [h, isSX, e, hk]; rfl

theorem words_two {w0 w1 : W32} {i : Instr} {k : Nat} (e : (fld w0 26 6).toNat = k) (hk : (k == 0x0A || k == 0x1C) = true)
    (h : encode i = some [w0, w1]) : encode i = some (if isSX w0 then [w0, w1] else [w0]) := by
  rw [h, isSX, e, hk]; rfl

/-- A word that the scalar decoder reads as an instruction is its encoding. -/
theorem decodeScalar_encode {w0 w1 : W32} {i : Instr} (h : decodeScalar w0 w1 = .ok i) :
    encode i = some (if isSX w0 then [w0, w1] else [w0]) := by
  unfold decodeScalar at h
  split at h
  · rename_i e0
    split at h
    · rename_i e1
      cases h
      exact words_one e0 rfl (write_sadd e0 e1)
    · rename_i e1
      cases h
      exact words_one e0 rfl (write_ssub e0 e1)
    · rename_i e1
      cases h
      exact words_one e0 rfl (write_smul e0 e1)
    · rename_i e1
      cases h
      exact words_one e0 rfl (write_smulh e0 e1)
    · rename_i e1
      cases h
      exact words_one e0 rfl (write_smulhn e0 e1)
    · rename_i e1
      cases h
      exact words_one e0 rfl (write_sand e0 e1)
    · rename_i e1
      cases h
      exact words_one e0 rfl (write_sor e0 e1)
    · rename_i e1
      cases h
      exact words_one e0 rfl (write_sxor e0 e1)
    · rename_i e1
      cases h
      exact words_one e0 rfl (write_sshl e0 e1)
    · rename_i e1
      cases h
      exact words_one e0 rfl (write_sshr e0 e1)
    · rename_i e1
      cases h
      exact words_one e0 rfl (write_ssra e0 e1)
    · rename_i e1
      cases h
      exact words_one e0 rfl (write_smin e0 e1)
    · rename_i e1
      cases h
      exact words_one e0 rfl (write_smax e0 e1)
    · rename_i e1
      cases h
      exact words_one e0 rfl (write_sminn e0 e1)
    · rename_i e1
      cases h
      exact words_one e0 rfl (write_smaxn e0 e1)
    · rename_i e1
      cases h
      exact words_one e0 rfl (write_sdiv e0 e1)
    · rename_i e1
      cases h
      exact words_one e0 rfl (write_sdivn e0 e1)
    · rename_i e1
      cases h
      exact words_one e0 rfl (write_srem e0 e1)
    · rename_i e1
      cases h
      exact words_one e0 rfl (write_sremn e0 e1)
    · rename_i e1
      obtain ⟨hm, rfl⟩ := accept_ok h
      exact words_one e0 rfl (write_sclz e0 e1 hm)
    · rename_i e1
      obtain ⟨hm, rfl⟩ := accept_ok h
      exact words_one e0 rfl (write_spop e0 e1 hm)
    · rename_i e1
      cases h
      exact words_one e0 rfl (write_saffx e0 e1)
    · rename_i e1
      cases h
      exact words_one e0 rfl (write_saffy e0 e1)
    · rename_i e1
      cases h
      exact words_one e0 rfl (write_saffz e0 e1)
    · cases h
  · rename_i e0
    cases h
    exact words_one e0 rfl (write_saddi e0)
  · rename_i e0
    cases h
    exact words_one e0 rfl (write_sandi e0)
  · rename_i e0
    cases h
    exact words_one e0 rfl (write_sori e0)
  · rename_i e0
    cases h
    exact words_one e0 rfl (write_sxori e0)
  · rename_i e0
    obtain ⟨hm, rfl⟩ := accept_ok h
    exact words_one e0 rfl (write_sshli e0 hm)
  · rename_i e0
    obtain ⟨hm, rfl⟩ := accept_ok h
    exact words_one e0 rfl (write_sshri e0 hm)
  · rename_i e0
    obtain ⟨hm, rfl⟩ := accept_ok h
    exact words_one e0 rfl (write_ssrai e0 hm)
  · rename_i e0
    cases h
    exact words_one e0 rfl (write_smuli e0)
  · rename_i e0
    split at h
    · rename_i e2
      obtain ⟨hm, rfl⟩ := accept_ok h
      exact words_two e0 rfl (write_sliHi e0 e2 hm)
    · rename_i e2
      obtain ⟨hm, rfl⟩ := accept_ok h
      exact words_two e0 rfl (write_sli e0 (Bool.eq_false_iff.2 e2) hm)
  · rename_i e0
    obtain ⟨hm, rfl⟩ := accept_ok h
    exact words_one e0 rfl (write_scmp e0 hm)
  · rename_i e0
    cases h
    exact words_one e0 rfl (write_scmpi e0)
  · rename_i e0
    obtain ⟨hm, rfl⟩ := accept_ok h
    exact words_one e0 rfl (write_ssel e0 hm)
  · rename_i e0
    split at h
    · rename_i e1
      obtain ⟨hm, rfl⟩ := accept_ok h
      exact words_one e0 rfl (write_copAnd e0 e1 hm)
    · rename_i e1
      obtain ⟨hm, rfl⟩ := accept_ok h
      exact words_one e0 rfl (write_copOr e0 e1 hm)
    · rename_i e1
      obtain ⟨hm, rfl⟩ := accept_ok h
      exact words_one e0 rfl (write_copXor e0 e1 hm)
    · rename_i e1
      obtain ⟨hm, rfl⟩ := accept_ok h
      exact words_one e0 rfl (write_copAndn e0 e1 hm)
    · rename_i e1
      obtain ⟨hm, rfl⟩ := accept_ok h
      exact words_one e0 rfl (write_copNot e0 e1 hm)
    · rename_i e1
      obtain ⟨hm, rfl⟩ := accept_ok h
      exact words_one e0 rfl (write_copSet e0 e1 hm)
    · rename_i e1
      obtain ⟨hm, rfl⟩ := accept_ok h
      exact words_one e0 rfl (write_copClr e0 e1 hm)
    · rename_i e1
      obtain ⟨hm, rfl⟩ := accept_ok h
      exact words_one e0 rfl (write_copMov e0 e1 hm)
    · cases h
  · rename_i e0
    obtain ⟨hm, rfl⟩ := accept_ok h
    exact words_one e0 rfl (write_sform e0 hm)
  · rename_i e0
    cases h
    exact words_one e0 rfl (write_sld e0)
  · rename_i e0
    obtain ⟨hm, rfl⟩ := accept_ok h
    exact words_one e0 rfl (write_sst e0 hm)
  · rename_i e0
    cases h
    exact words_one e0 rfl (write_satom e0)
  · rename_i e0
    obtain ⟨hm, rfl⟩ := accept_ok h
    exact words_one e0 rfl (write_cmo e0 hm)
  · rename_i e0
    split at h
    · rename_i e1
      obtain ⟨hm, rfl⟩ := accept_ok h
      exact words_one e0 rfl (write_kset e0 e1 hm)
    · rename_i e1
      split at h
      · rename_i e2
        obtain ⟨hm, rfl⟩ := accept_ok h
        exact words_one e0 rfl (write_kgetSet e0 e1 e2 hm)
      · rename_i e2
        obtain ⟨hm, rfl⟩ := accept_ok h
        exact words_one e0 rfl (write_kget e0 e1 (Bool.eq_false_iff.2 e2) hm)
    · rename_i e1
      obtain ⟨hm, rfl⟩ := accept_ok h
      exact words_one e0 rfl (write_krev e0 e1 hm)
    · rename_i e1
      obtain ⟨hm, rfl⟩ := accept_ok h
      exact words_one e0 rfl (write_kdrop e0 e1 hm)
    · cases h
  · rename_i e0
    split at h
    · rename_i e1
      cases h
      exact words_one e0 rfl (write_barArv e0 e1)
    · rename_i e1
      obtain ⟨hm, rfl⟩ := accept_ok h
      exact words_one e0 rfl (write_barWt e0 e1 hm)
    · rename_i e1
      obtain ⟨hm, rfl⟩ := accept_ok h
      exact words_one e0 rfl (write_barArw e0 e1 hm)
    · rename_i e1
      obtain ⟨hm, rfl⟩ := accept_ok h
      exact words_one e0 rfl (write_barInit e0 e1 hm)
    · cases h
  · rename_i e0
    split at h
    · rename_i e1
      obtain ⟨hm, rfl⟩ := accept_ok h
      exact words_one e0 rfl (write_hbarArv e0 e1 hm)
    · rename_i e1
      obtain ⟨hm, rfl⟩ := accept_ok h
      exact words_one e0 rfl (write_hbarWt e0 e1 hm)
    · rename_i e1
      obtain ⟨hm, rfl⟩ := accept_ok h
      exact words_one e0 rfl (write_hbarArw e0 e1 hm)
    · cases h
  · rename_i e0
    obtain ⟨hm, rfl⟩ := accept_ok h
    exact words_one e0 rfl (write_fence e0 hm)
  · rename_i e0
    cases h
    exact words_one e0 rfl (write_br e0)
  · rename_i e0
    cases h
    exact words_one e0 rfl (write_call e0)
  · rename_i e0
    obtain ⟨hm, rfl⟩ := accept_ok h
    exact words_one e0 rfl (write_jmp e0 hm)
  · rename_i e0
    obtain ⟨hm, rfl⟩ := accept_ok h
    exact words_one e0 rfl (write_ret e0 hm)
  · rename_i e0
    obtain ⟨hm, rfl⟩ := accept_ok h
    exact words_two e0 rfl (write_lx e0 hm)
  · rename_i e0
    obtain ⟨hm, rfl⟩ := accept_ok h
    exact words_one e0 rfl (write_exit e0 hm)
  · rename_i e0
    split at h
    · cases h
    · rename_i e3
      obtain ⟨hm, rfl⟩ := accept_ok h
      exact words_one e0 rfl (write_wait e0 (by simpa using e3) hm)
  · rename_i e0
    obtain ⟨hm, rfl⟩ := accept_ok h
    exact words_one e0 rfl (write_trapf e0 hm)
  · rename_i e0
    obtain ⟨hm, rfl⟩ := accept_ok h
    exact words_one e0 rfl (write_jtok e0 hm)
  · rename_i e0
    cases h
    exact words_one e0 rfl (write_dvg e0)
  · rename_i e0
    obtain ⟨hm, rfl⟩ := accept_ok h
    exact words_one e0 rfl (write_nxt e0 hm)
  · rename_i e0
    obtain ⟨hm, rfl⟩ := accept_ok h
    exact words_one e0 rfl (write_lpb e0 hm)
  · rename_i e0
    cases h
    exact words_one e0 rfl (write_lpe e0)
  · rename_i e0
    obtain ⟨hm, rfl⟩ := accept_ok h
    exact words_one e0 rfl (write_brk e0 hm)
  · rename_i e0
    obtain ⟨hm, rfl⟩ := accept_ok h
    exact words_one e0 rfl (write_seat e0 hm)
  · rename_i e0
    obtain ⟨hm, rfl⟩ := accept_ok h
    exact words_one e0 rfl (write_unseat e0 hm)
  · rename_i e0
    obtain ⟨hm, rfl⟩ := accept_ok h
    exact words_one e0 rfl (write_sjoin e0 hm)
  · rename_i e0
    obtain ⟨hm, rfl⟩ := accept_ok h
    exact words_one e0 rfl (write_qfence e0 hm)
  · rename_i e0
    split at h
    · rename_i e2
      obtain ⟨hm, rfl⟩ := accept_ok h
      exact words_one e0 rfl (write_snoozeAbs e0 e2 hm)
    · rename_i e2
      obtain ⟨hm, rfl⟩ := accept_ok h
      exact words_one e0 rfl (write_snooze e0 (Bool.eq_false_iff.2 e2) hm)
  · rename_i e0
    obtain ⟨hm, rfl⟩ := accept_ok h
    exact words_one e0 rfl (write_mma e0 hm)
  · rename_i e0
    obtain ⟨hm, rfl⟩ := accept_ok h
    exact words_one e0 rfl (write_mgath e0 hm)
  · rename_i e0
    obtain ⟨hm, rfl⟩ := accept_ok h
    exact words_one e0 rfl (write_mzero e0 hm)
  · rename_i e0
    obtain ⟨hm, rfl⟩ := accept_ok h
    exact words_one e0 rfl (write_mdrain e0 hm)
  · rename_i e0
    obtain ⟨hm, rfl⟩ := accept_ok h
    exact words_one e0 rfl (write_mcommit e0 hm)
  · rename_i e0
    obtain ⟨hm, rfl⟩ := accept_ok h
    exact words_one e0 rfl (write_mfence e0 hm)
  · rename_i e0
    obtain ⟨hm, rfl⟩ := accept_ok h
    exact words_one e0 rfl (write_mwait e0 hm)
  · rename_i e0
    obtain ⟨hm, rfl⟩ := accept_ok h
    exact words_one e0 rfl (write_cpy e0 hm)
  · rename_i e0
    obtain ⟨hm, rfl⟩ := accept_ok h
    exact words_one e0 rfl (write_coll e0 hm)
  · rename_i e0
    split at h
    · rename_i e2
      obtain ⟨hm, rfl⟩ := accept_ok h
      exact words_one e0 rfl (write_rbegStrict e0 e2 hm)
    · rename_i e2
      obtain ⟨hm, rfl⟩ := accept_ok h
      exact words_one e0 rfl (write_rbeg e0 (Bool.eq_false_iff.2 e2) hm)
  · rename_i e0
    obtain ⟨hm, rfl⟩ := accept_ok h
    exact words_one e0 rfl (write_rend e0 hm)
  · rename_i e0
    obtain ⟨hm, rfl⟩ := accept_ok h
    exact words_one e0 rfl (write_rabt e0 hm)
  · rename_i e0
    split at h
    · rename_i e1
      obtain ⟨hm, rfl⟩ := accept_ok h
      exact words_one e0 rfl (write_rnarLo e0 e1 hm)
    · rename_i e1
      obtain ⟨hm, rfl⟩ := accept_ok h
      exact words_one e0 rfl (write_rnarHi e0 e1 hm)
    · rename_i e1
      obtain ⟨hm, rfl⟩ := accept_ok h
      exact words_one e0 rfl (write_rnarNarrow e0 e1 hm)
    · cases h
  · rename_i e0
    split at h
    · rename_i e1
      obtain ⟨hm, rfl⟩ := accept_ok h
      exact words_one e0 rfl (write_nop e0 e1 hm)
    · rename_i e1
      obtain ⟨hm, rfl⟩ := accept_ok h
      exact words_one e0 rfl (write_trap e0 e1 hm)
    · rename_i e1
      obtain ⟨hm, rfl⟩ := accept_ok h
      exact words_one e0 rfl (write_srd e0 e1 hm)
    · rename_i e1
      obtain ⟨hm, rfl⟩ := accept_ok h
      exact words_one e0 rfl (write_swr e0 e1 hm)
    · rename_i e1
      cases h
      exact words_one e0 rfl (write_dlaunch e0 e1)
    · cases h
  · cases h


/-! ### Lane instructions -/

theorem slice_join {k : Nat} (w : BitVec k) (hi lo m n : Nat) (h : hi = lo + n) :
    w.extractLsb' hi m ++ w.extractLsb' lo n = w.extractLsb' lo (m + n) := by
  subst h
  refine BitVec.eq_of_getLsbD_eq fun i hi => ?_
  simp only [BitVec.getLsbD_append, BitVec.getLsbD_extractLsb']
  by_cases g : i < n
  · simp [g, hi]
  · simp only [g, hi, decide_true, Bool.true_and, if_false, show i - n < m by omega, show lo + n + (i - n) = lo + i by omega]

/-- The three words of a lane instruction make up its 96 bits. -/
theorem words_join (b : BitVec 96) : b.extractLsb' 64 32 ++ b.extractLsb' 32 32 ++ b.extractLsb' 0 32 = b := by
  rw [slice_join b 64 32 32 32 rfl, slice_join b 32 0 (32 + 32) 32 rfl]
  exact BitVec.extractLsb'_eq_self

theorem join_words (w0 w1 w2 : W32) :
    [(w2 ++ w1 ++ w0 : BitVec 96).extractLsb' 0 32, (w2 ++ w1 ++ w0 : BitVec 96).extractLsb' 32 32,
      (w2 ++ w1 ++ w0 : BitVec 96).extractLsb' 64 32] = [w0, w1, w2] := by
  rw [cat_lo _ _ _ _ (by decide), cat_hi _ _ _ _ (by decide), cat_lo _ _ _ _ (by decide), cat_hi _ _ _ _ (by decide),
    cat_hi _ _ _ _ (by decide)]
  simp only [BitVec.extractLsb'_eq_self, Nat.sub_self]

theorem laneBits_op (op : BitVec 10) (f : LaneFields) : (laneBits op f).extractLsb' 86 10 = op := by
  rw [laneBits, cat_hi _ _ _ _ (by decide), cat_hi _ _ _ _ (by decide), cat_hi _ _ _ _ (by decide), cat_hi _ _ _ _ (by decide), cat_hi _ _ _ _ (by decide), cat_hi _ _ _ _ (by decide), cat_hi _ _ _ _ (by decide), cat_hi _ _ _ _ (by decide), cat_hi _ _ _ _ (by decide), cat_hi _ _ _ _ (by decide), cat_hi _ _ _ _ (by decide), cat_hi _ _ _ _ (by decide), cat_hi _ _ _ _ (by decide)]
  exact BitVec.extractLsb'_eq_self

theorem laneFieldsOf_bits (op : BitVec 10) (f : LaneFields) : laneFieldsOf (laneBits op f) = f := by
  have h1 : (laneBits op f).extractLsb' 85 1 = f.gn := by
    rw [laneBits, cat_hi _ _ _ _ (by decide), cat_hi _ _ _ _ (by decide), cat_hi _ _ _ _ (by decide), cat_hi _ _ _ _ (by decide), cat_hi _ _ _ _ (by decide), cat_hi _ _ _ _ (by decide), cat_hi _ _ _ _ (by decide), cat_hi _ _ _ _ (by decide), cat_hi _ _ _ _ (by decide), cat_hi _ _ _ _ (by decide), cat_hi _ _ _ _ (by decide), cat_hi _ _ _ _ (by decide), cat_lo _ _ _ _ (by decide)]
    exact BitVec.extractLsb'_eq_self
  have h2 : (laneBits op f).extractLsb' 82 3 = f.gp := by
    rw [laneBits, cat_hi _ _ _ _ (by decide), cat_hi _ _ _ _ (by decide), cat_hi _ _ _ _ (by decide), cat_hi _ _ _ _ (by decide), cat_hi _ _ _ _ (by decide), cat_hi _ _ _ _ (by decide), cat_hi _ _ _ _ (by decide), cat_hi _ _ _ _ (by decide), cat_hi _ _ _ _ (by decide), cat_hi _ _ _ _ (by decide), cat_hi _ _ _ _ (by decide), cat_lo _ _ _ _ (by decide)]
    exact BitVec.extractLsb'_eq_self
  have h3 : (laneBits op f).extractLsb' 74 8 = f.dst := by
    rw [laneBits, cat_hi _ _ _ _ (by decide), cat_hi _ _ _ _ (by decide), cat_hi _ _ _ _ (by decide), cat_hi _ _ _ _ (by decide), cat_hi _ _ _ _ (by decide), cat_hi _ _ _ _ (by decide), cat_hi _ _ _ _ (by decide), cat_hi _ _ _ _ (by decide), cat_hi _ _ _ _ (by decide), cat_hi _ _ _ _ (by decide), cat_lo _ _ _ _ (by decide)]
    exact BitVec.extractLsb'_eq_self
  have h4 : (laneBits op f).extractLsb' 64 10 = f.sa := by
    rw [laneBits, cat_hi _ _ _ _ (by decide), cat_hi _ _ _ _ (by decide), cat_hi _ _ _ _ (by decide), cat_hi _ _ _ _ (by decide), cat_hi _ _ _ _ (by decide), cat_hi _ _ _ _ (by decide), cat_hi _ _ _ _ (by decide), cat_hi _ _ _ _ (by decide), cat_hi _ _ _ _ (by decide), cat_lo _ _ _ _ (by decide)]
    exact BitVec.extractLsb'_eq_self
  have h5 : (laneBits op f).extractLsb' 54 10 = f.sb := by
    rw [laneBits, cat_hi _ _ _ _ (by decide), cat_hi _ _ _ _ (by decide), cat_hi _ _ _ _ (by decide), cat_hi _ _ _ _ (by decide), cat_hi _ _ _ _ (by decide), cat_hi _ _ _ _ (by decide), cat_hi _ _ _ _ (by decide), cat_hi _ _ _ _ (by decide), cat_lo _ _ _ _ (by decide)]
    exact BitVec.extractLsb'_eq_self
  have h6 : (laneBits op f).extractLsb' 44 10 = f.sc := by
    rw [laneBits, cat_hi _ _ _ _ (by decide), cat_hi _ _ _ _ (by decide), cat_hi _ _ _ _ (by decide), cat_hi _ _ _ _ (by decide), cat_hi _ _ _ _ (by decide), cat_hi _ _ _ _ (by decide), cat_hi _ _ _ _ (by decide), cat_lo _ _ _ _ (by decide)]
    exact BitVec.extractLsb'_eq_self
  have h7 : (laneBits op f).extractLsb' 40 4 = f.ty := by
    rw [laneBits, cat_hi _ _ _ _ (by decide), cat_hi _ _ _ _ (by decide), cat_hi _ _ _ _ (by decide), cat_hi _ _ _ _ (by decide), cat_hi _ _ _ _ (by decide), cat_hi _ _ _ _ (by decide), cat_lo _ _ _ _ (by decide)]
    exact BitVec.extractLsb'_eq_self
  have h8 : (laneBits op f).extractLsb' 39 1 = f.i := by
    rw [laneBits, cat_hi _ _ _ _ (by decide), cat_hi _ _ _ _ (by decide), cat_hi _ _ _ _ (by decide), cat_hi _ _ _ _ (by decide), cat_hi _ _ _ _ (by decide), cat_lo _ _ _ _ (by decide)]
    exact BitVec.extractLsb'_eq_self
  have h9 : (laneBits op f).extractLsb' 37 2 = f.rnd := by
    rw [laneBits, cat_hi _ _ _ _ (by decide), cat_hi _ _ _ _ (by decide), cat_hi _ _ _ _ (by decide), cat_hi _ _ _ _ (by decide), cat_lo _ _ _ _ (by decide)]
    exact BitVec.extractLsb'_eq_self
  have h10 : (laneBits op f).extractLsb' 36 1 = f.ftz := by
    rw [laneBits, cat_hi _ _ _ _ (by decide), cat_hi _ _ _ _ (by decide), cat_hi _ _ _ _ (by decide), cat_lo _ _ _ _ (by decide)]
    exact BitVec.extractLsb'_eq_self
  have h11 : (laneBits op f).extractLsb' 33 3 = f.fam := by
    rw [laneBits, cat_hi _ _ _ _ (by decide), cat_hi _ _ _ _ (by decide), cat_lo _ _ _ _ (by decide)]
    exact BitVec.extractLsb'_eq_self
  have h12 : (laneBits op f).extractLsb' 32 1 = f.t := by
    rw [laneBits, cat_hi _ _ _ _ (by decide), cat_lo _ _ _ _ (by decide)]
    exact BitVec.extractLsb'_eq_self
  have h13 : (laneBits op f).extractLsb' 0 32 = f.imm := by
    rw [laneBits, cat_lo _ _ _ _ (by decide)]
    exact BitVec.extractLsb'_eq_self
  rw [laneFieldsOf, h1, h2, h3, h4, h5, h6, h7, h8, h9, h10, h11, h12, h13]

theorem laneBits_fields (w : BitVec 96) : laneBits (w.extractLsb' 86 10) (laneFieldsOf w) = w := by
  rw [laneBits, laneFieldsOf]
  dsimp only
  rw [slice_join w 86 85 (10) 1 rfl,
    slice_join w 85 82 (10 + 1) 3 rfl,
    slice_join w 82 74 (10 + 1 + 3) 8 rfl,
    slice_join w 74 64 (10 + 1 + 3 + 8) 10 rfl,
    slice_join w 64 54 (10 + 1 + 3 + 8 + 10) 10 rfl,
    slice_join w 54 44 (10 + 1 + 3 + 8 + 10 + 10) 10 rfl,
    slice_join w 44 40 (10 + 1 + 3 + 8 + 10 + 10 + 10) 4 rfl,
    slice_join w 40 39 (10 + 1 + 3 + 8 + 10 + 10 + 10 + 4) 1 rfl,
    slice_join w 39 37 (10 + 1 + 3 + 8 + 10 + 10 + 10 + 4 + 1) 2 rfl,
    slice_join w 37 36 (10 + 1 + 3 + 8 + 10 + 10 + 10 + 4 + 1 + 2) 1 rfl,
    slice_join w 36 33 (10 + 1 + 3 + 8 + 10 + 10 + 10 + 4 + 1 + 2 + 1) 3 rfl,
    slice_join w 33 32 (10 + 1 + 3 + 8 + 10 + 10 + 10 + 4 + 1 + 2 + 1 + 3) 1 rfl,
    slice_join w 32 0 (10 + 1 + 3 + 8 + 10 + 10 + 10 + 4 + 1 + 2 + 1 + 3 + 1) 32 rfl]
  exact BitVec.extractLsb'_eq_self

/-- What the lane decoder makes of an operation's encoding is decided by its OP alone. -/
theorem decodeLane_words (op : BitVec 10) (f : LaneFields) {w0 w1 w2 : W32} (h : laneWords op f = [w0, w1, w2]) :
    decodeLane (w2 ++ w1 ++ w0) = laneOfOp op.toNat f := by
  simp only [laneWords, List.cons.injEq, and_true] at h
  obtain ⟨rfl, rfl, rfl⟩ := h
  rw [words_join, decodeLane, laneBits_op, laneFieldsOf_bits]

theorem laneOfOp_encode {op : BitVec 10} {f : LaneFields} {i : Instr} (h : laneOfOp op.toNat f = .ok i) :
    encode i = some (laneWords op f) := by
  suffices k : ∀ n, laneOfOp n f = .ok i → encode i = some (laneWords (BitVec.ofNat 10 n) f) by simpa using k _ h
  intro n h
  unfold laneOfOp at h
  split at h <;> cases h <;> rfl

/-- Twelve bytes that the lane decoder reads as an instruction are its encoding. -/
theorem decodeLane_encode {w0 w1 w2 : W32} {i : Instr} (h : decodeLane (w2 ++ w1 ++ w0) = .ok i) :
    encode i = some [w0, w1, w2] := by
  rw [laneOfOp_encode h, laneWords, laneBits_fields, join_words]

end Sys2Proof.Laws
end

