-- ==== Sys2Proof/Laws/State.lean ====
section
/-!
SUPPORT. One lemma per field per update: what the machine's named updates leave as it was and what they change.
-/
namespace Sys2Proof.Machine
open Sys2Proof

/-! ### `putThr` -/

@[simp] theorem putThr_mem (s : State) (id : Nat) (t : Thread) : (putThr s id t).mem = s.mem := rfl
@[simp] theorem putThr_coh (s : State) (id : Nat) (t : Thread) : (putThr s id t).coh = s.coh := rfl
@[simp] theorem putThr_reg (s : State) (id : Nat) (t : Thread) : (putThr s id t).reg = s.reg := rfl
@[simp] theorem putThr_threads (s : State) (id : Nat) (t : Thread) : (putThr s id t).threads = tabPut s.threads id t := rfl
@[simp] theorem putThr_wgs (s : State) (id : Nat) (t : Thread) : (putThr s id t).wgs = s.wgs := rfl
@[simp] theorem putThr_launches (s : State) (id : Nat) (t : Thread) : (putThr s id t).launches = s.launches := rfl
@[simp] theorem putThr_ctxs (s : State) (id : Nat) (t : Thread) : (putThr s id t).ctxs = s.ctxs := rfl
@[simp] theorem putThr_ops (s : State) (id : Nat) (t : Thread) : (putThr s id t).ops = s.ops := rfl
@[simp] theorem putThr_engq (s : State) (id : Nat) (t : Thread) : (putThr s id t).engq = s.engq := rfl
@[simp] theorem putThr_batches (s : State) (id : Nat) (t : Thread) : (putThr s id t).batches = s.batches := rfl
@[simp] theorem putThr_teams (s : State) (id : Nat) (t : Thread) : (putThr s id t).teams = s.teams := rfl
@[simp] theorem putThr_aholds (s : State) (id : Nat) (t : Thread) : (putThr s id t).aholds = s.aholds := rfl
@[simp] theorem putThr_entries (s : State) (id : Nat) (t : Thread) : (putThr s id t).entries = s.entries := rfl
@[simp] theorem putThr_dies (s : State) (id : Nat) (t : Thread) : (putThr s id t).dies = s.dies := rfl
@[simp] theorem putThr_mdies (s : State) (id : Nat) (t : Thread) : (putThr s id t).mdies = s.mdies := rfl
@[simp] theorem putThr_links (s : State) (id : Nat) (t : Thread) : (putThr s id t).links = s.links := rfl
@[simp] theorem putThr_hub (s : State) (id : Nat) (t : Thread) : (putThr s id t).hub = s.hub := rfl
@[simp] theorem putThr_ras (s : State) (id : Nat) (t : Thread) : (putThr s id t).ras = s.ras := rfl
@[simp] theorem putThr_keys (s : State) (id : Nat) (t : Thread) : (putThr s id t).keys = s.keys := rfl
@[simp] theorem putThr_keyGen (s : State) (id : Nat) (t : Thread) : (putThr s id t).keyGen = s.keyGen := rfl
@[simp] theorem putThr_boot (s : State) (id : Nat) (t : Thread) : (putThr s id t).boot = s.boot := rfl
@[simp] theorem putThr_time (s : State) (id : Nat) (t : Thread) : (putThr s id t).time = s.time := rfl
@[simp] theorem putThr_agenda (s : State) (id : Nat) (t : Thread) : (putThr s id t).agenda = s.agenda := rfl
@[simp] theorem putThr_cur (s : State) (id : Nat) (t : Thread) : (putThr s id t).cur = s.cur := rfl
@[simp] theorem putThr_freeCtr (s : State) (id : Nat) (t : Thread) : (putThr s id t).freeCtr = s.freeCtr := rfl
@[simp] theorem putThr_nextId (s : State) (id : Nat) (t : Thread) : (putThr s id t).nextId = s.nextId := rfl

/-! ### `modThr` -/

@[simp] theorem modThr_mem (s : State) (id : Nat) (f : Thread → Thread) : (modThr s id f).mem = s.mem := rfl
@[simp] theorem modThr_coh (s : State) (id : Nat) (f : Thread → Thread) : (modThr s id f).coh = s.coh := rfl
@[simp] theorem modThr_reg (s : State) (id : Nat) (f : Thread → Thread) : (modThr s id f).reg = s.reg := rfl
@[simp] theorem modThr_threads (s : State) (id : Nat) (f : Thread → Thread) : (modThr s id f).threads = tabMod s.threads id f := rfl
@[simp] theorem modThr_wgs (s : State) (id : Nat) (f : Thread → Thread) : (modThr s id f).wgs = s.wgs := rfl
@[simp] theorem modThr_launches (s : State) (id : Nat) (f : Thread → Thread) : (modThr s id f).launches = s.launches := rfl
@[simp] theorem modThr_ctxs (s : State) (id : Nat) (f : Thread → Thread) : (modThr s id f).ctxs = s.ctxs := rfl
@[simp] theorem modThr_ops (s : State) (id : Nat) (f : Thread → Thread) : (modThr s id f).ops = s.ops := rfl
@[simp] theorem modThr_engq (s : State) (id : Nat) (f : Thread → Thread) : (modThr s id f).engq = s.engq := rfl
@[simp] theorem modThr_batches (s : State) (id : Nat) (f : Thread → Thread) : (modThr s id f).batches = s.batches := rfl
@[simp] theorem modThr_teams (s : State) (id : Nat) (f : Thread → Thread) : (modThr s id f).teams = s.teams := rfl
@[simp] theorem modThr_aholds (s : State) (id : Nat) (f : Thread → Thread) : (modThr s id f).aholds = s.aholds := rfl
@[simp] theorem modThr_entries (s : State) (id : Nat) (f : Thread → Thread) : (modThr s id f).entries = s.entries := rfl
@[simp] theorem modThr_dies (s : State) (id : Nat) (f : Thread → Thread) : (modThr s id f).dies = s.dies := rfl
@[simp] theorem modThr_mdies (s : State) (id : Nat) (f : Thread → Thread) : (modThr s id f).mdies = s.mdies := rfl
@[simp] theorem modThr_links (s : State) (id : Nat) (f : Thread → Thread) : (modThr s id f).links = s.links := rfl
@[simp] theorem modThr_hub (s : State) (id : Nat) (f : Thread → Thread) : (modThr s id f).hub = s.hub := rfl
@[simp] theorem modThr_ras (s : State) (id : Nat) (f : Thread → Thread) : (modThr s id f).ras = s.ras := rfl
@[simp] theorem modThr_keys (s : State) (id : Nat) (f : Thread → Thread) : (modThr s id f).keys = s.keys := rfl
@[simp] theorem modThr_keyGen (s : State) (id : Nat) (f : Thread → Thread) : (modThr s id f).keyGen = s.keyGen := rfl
@[simp] theorem modThr_boot (s : State) (id : Nat) (f : Thread → Thread) : (modThr s id f).boot = s.boot := rfl
@[simp] theorem modThr_time (s : State) (id : Nat) (f : Thread → Thread) : (modThr s id f).time = s.time := rfl
@[simp] theorem modThr_agenda (s : State) (id : Nat) (f : Thread → Thread) : (modThr s id f).agenda = s.agenda := rfl
@[simp] theorem modThr_cur (s : State) (id : Nat) (f : Thread → Thread) : (modThr s id f).cur = s.cur := rfl
@[simp] theorem modThr_freeCtr (s : State) (id : Nat) (f : Thread → Thread) : (modThr s id f).freeCtr = s.freeCtr := rfl
@[simp] theorem modThr_nextId (s : State) (id : Nat) (f : Thread → Thread) : (modThr s id f).nextId = s.nextId := rfl

/-! ### `modLaunch` -/

@[simp] theorem modLaunch_mem (s : State) (k : Nat) (f : Launch → Launch) : (modLaunch s k f).mem = s.mem := rfl
@[simp] theorem modLaunch_coh (s : State) (k : Nat) (f : Launch → Launch) : (modLaunch s k f).coh = s.coh := rfl
@[simp] theorem modLaunch_reg (s : State) (k : Nat) (f : Launch → Launch) : (modLaunch s k f).reg = s.reg := rfl
@[simp] theorem modLaunch_threads (s : State) (k : Nat) (f : Launch → Launch) : (modLaunch s k f).threads = s.threads := rfl
@[simp] theorem modLaunch_wgs (s : State) (k : Nat) (f : Launch → Launch) : (modLaunch s k f).wgs = s.wgs := rfl
@[simp] theorem modLaunch_launches (s : State) (k : Nat) (f : Launch → Launch) : (modLaunch s k f).launches = tabMod s.launches k f := rfl
@[simp] theorem modLaunch_ctxs (s : State) (k : Nat) (f : Launch → Launch) : (modLaunch s k f).ctxs = s.ctxs := rfl
@[simp] theorem modLaunch_ops (s : State) (k : Nat) (f : Launch → Launch) : (modLaunch s k f).ops = s.ops := rfl
@[simp] theorem modLaunch_engq (s : State) (k : Nat) (f : Launch → Launch) : (modLaunch s k f).engq = s.engq := rfl
@[simp] theorem modLaunch_batches (s : State) (k : Nat) (f : Launch → Launch) : (modLaunch s k f).batches = s.batches := rfl
@[simp] theorem modLaunch_teams (s : State) (k : Nat) (f : Launch → Launch) : (modLaunch s k f).teams = s.teams := rfl
@[simp] theorem modLaunch_aholds (s : State) (k : Nat) (f : Launch → Launch) : (modLaunch s k f).aholds = s.aholds := rfl
@[simp] theorem modLaunch_entries (s : State) (k : Nat) (f : Launch → Launch) : (modLaunch s k f).entries = s.entries := rfl
@[simp] theorem modLaunch_dies (s : State) (k : Nat) (f : Launch → Launch) : (modLaunch s k f).dies = s.dies := rfl
@[simp] theorem modLaunch_mdies (s : State) (k : Nat) (f : Launch → Launch) : (modLaunch s k f).mdies = s.mdies := rfl
@[simp] theorem modLaunch_links (s : State) (k : Nat) (f : Launch → Launch) : (modLaunch s k f).links = s.links := rfl
@[simp] theorem modLaunch_hub (s : State) (k : Nat) (f : Launch → Launch) : (modLaunch s k f).hub = s.hub := rfl
@[simp] theorem modLaunch_ras (s : State) (k : Nat) (f : Launch → Launch) : (modLaunch s k f).ras = s.ras := rfl
@[simp] theorem modLaunch_keys (s : State) (k : Nat) (f : Launch → Launch) : (modLaunch s k f).keys = s.keys := rfl
@[simp] theorem modLaunch_keyGen (s : State) (k : Nat) (f : Launch → Launch) : (modLaunch s k f).keyGen = s.keyGen := rfl
@[simp] theorem modLaunch_boot (s : State) (k : Nat) (f : Launch → Launch) : (modLaunch s k f).boot = s.boot := rfl
@[simp] theorem modLaunch_time (s : State) (k : Nat) (f : Launch → Launch) : (modLaunch s k f).time = s.time := rfl
@[simp] theorem modLaunch_agenda (s : State) (k : Nat) (f : Launch → Launch) : (modLaunch s k f).agenda = s.agenda := rfl
@[simp] theorem modLaunch_cur (s : State) (k : Nat) (f : Launch → Launch) : (modLaunch s k f).cur = s.cur := rfl
@[simp] theorem modLaunch_freeCtr (s : State) (k : Nat) (f : Launch → Launch) : (modLaunch s k f).freeCtr = s.freeCtr := rfl
@[simp] theorem modLaunch_nextId (s : State) (k : Nat) (f : Launch → Launch) : (modLaunch s k f).nextId = s.nextId := rfl

/-! ### `modCtx` -/

@[simp] theorem modCtx_mem (s : State) (k : Nat) (f : Ctx → Ctx) : (modCtx s k f).mem = s.mem := rfl
@[simp] theorem modCtx_coh (s : State) (k : Nat) (f : Ctx → Ctx) : (modCtx s k f).coh = s.coh := rfl
@[simp] theorem modCtx_reg (s : State) (k : Nat) (f : Ctx → Ctx) : (modCtx s k f).reg = s.reg := rfl
@[simp] theorem modCtx_threads (s : State) (k : Nat) (f : Ctx → Ctx) : (modCtx s k f).threads = s.threads := rfl
@[simp] theorem modCtx_wgs (s : State) (k : Nat) (f : Ctx → Ctx) : (modCtx s k f).wgs = s.wgs := rfl
@[simp] theorem modCtx_launches (s : State) (k : Nat) (f : Ctx → Ctx) : (modCtx s k f).launches = s.launches := rfl
@[simp] theorem modCtx_ctxs (s : State) (k : Nat) (f : Ctx → Ctx) : (modCtx s k f).ctxs = tabMod s.ctxs k f := rfl
@[simp] theorem modCtx_ops (s : State) (k : Nat) (f : Ctx → Ctx) : (modCtx s k f).ops = s.ops := rfl
@[simp] theorem modCtx_engq (s : State) (k : Nat) (f : Ctx → Ctx) : (modCtx s k f).engq = s.engq := rfl
@[simp] theorem modCtx_batches (s : State) (k : Nat) (f : Ctx → Ctx) : (modCtx s k f).batches = s.batches := rfl
@[simp] theorem modCtx_teams (s : State) (k : Nat) (f : Ctx → Ctx) : (modCtx s k f).teams = s.teams := rfl
@[simp] theorem modCtx_aholds (s : State) (k : Nat) (f : Ctx → Ctx) : (modCtx s k f).aholds = s.aholds := rfl
@[simp] theorem modCtx_entries (s : State) (k : Nat) (f : Ctx → Ctx) : (modCtx s k f).entries = s.entries := rfl
@[simp] theorem modCtx_dies (s : State) (k : Nat) (f : Ctx → Ctx) : (modCtx s k f).dies = s.dies := rfl
@[simp] theorem modCtx_mdies (s : State) (k : Nat) (f : Ctx → Ctx) : (modCtx s k f).mdies = s.mdies := rfl
@[simp] theorem modCtx_links (s : State) (k : Nat) (f : Ctx → Ctx) : (modCtx s k f).links = s.links := rfl
@[simp] theorem modCtx_hub (s : State) (k : Nat) (f : Ctx → Ctx) : (modCtx s k f).hub = s.hub := rfl
@[simp] theorem modCtx_ras (s : State) (k : Nat) (f : Ctx → Ctx) : (modCtx s k f).ras = s.ras := rfl
@[simp] theorem modCtx_keys (s : State) (k : Nat) (f : Ctx → Ctx) : (modCtx s k f).keys = s.keys := rfl
@[simp] theorem modCtx_keyGen (s : State) (k : Nat) (f : Ctx → Ctx) : (modCtx s k f).keyGen = s.keyGen := rfl
@[simp] theorem modCtx_boot (s : State) (k : Nat) (f : Ctx → Ctx) : (modCtx s k f).boot = s.boot := rfl
@[simp] theorem modCtx_time (s : State) (k : Nat) (f : Ctx → Ctx) : (modCtx s k f).time = s.time := rfl
@[simp] theorem modCtx_agenda (s : State) (k : Nat) (f : Ctx → Ctx) : (modCtx s k f).agenda = s.agenda := rfl
@[simp] theorem modCtx_cur (s : State) (k : Nat) (f : Ctx → Ctx) : (modCtx s k f).cur = s.cur := rfl
@[simp] theorem modCtx_freeCtr (s : State) (k : Nat) (f : Ctx → Ctx) : (modCtx s k f).freeCtr = s.freeCtr := rfl
@[simp] theorem modCtx_nextId (s : State) (k : Nat) (f : Ctx → Ctx) : (modCtx s k f).nextId = s.nextId := rfl

/-! ### `modWg` -/

@[simp] theorem modWg_mem (s : State) (k : Nat) (f : Wg → Wg) : (modWg s k f).mem = s.mem := rfl
@[simp] theorem modWg_coh (s : State) (k : Nat) (f : Wg → Wg) : (modWg s k f).coh = s.coh := rfl
@[simp] theorem modWg_reg (s : State) (k : Nat) (f : Wg → Wg) : (modWg s k f).reg = s.reg := rfl
@[simp] theorem modWg_threads (s : State) (k : Nat) (f : Wg → Wg) : (modWg s k f).threads = s.threads := rfl
@[simp] theorem modWg_wgs (s : State) (k : Nat) (f : Wg → Wg) : (modWg s k f).wgs = tabMod s.wgs k f := rfl
@[simp] theorem modWg_launches (s : State) (k : Nat) (f : Wg → Wg) : (modWg s k f).launches = s.launches := rfl
@[simp] theorem modWg_ctxs (s : State) (k : Nat) (f : Wg → Wg) : (modWg s k f).ctxs = s.ctxs := rfl
@[simp] theorem modWg_ops (s : State) (k : Nat) (f : Wg → Wg) : (modWg s k f).ops = s.ops := rfl
@[simp] theorem modWg_engq (s : State) (k : Nat) (f : Wg → Wg) : (modWg s k f).engq = s.engq := rfl
@[simp] theorem modWg_batches (s : State) (k : Nat) (f : Wg → Wg) : (modWg s k f).batches = s.batches := rfl
@[simp] theorem modWg_teams (s : State) (k : Nat) (f : Wg → Wg) : (modWg s k f).teams = s.teams := rfl
@[simp] theorem modWg_aholds (s : State) (k : Nat) (f : Wg → Wg) : (modWg s k f).aholds = s.aholds := rfl
@[simp] theorem modWg_entries (s : State) (k : Nat) (f : Wg → Wg) : (modWg s k f).entries = s.entries := rfl
@[simp] theorem modWg_dies (s : State) (k : Nat) (f : Wg → Wg) : (modWg s k f).dies = s.dies := rfl
@[simp] theorem modWg_mdies (s : State) (k : Nat) (f : Wg → Wg) : (modWg s k f).mdies = s.mdies := rfl
@[simp] theorem modWg_links (s : State) (k : Nat) (f : Wg → Wg) : (modWg s k f).links = s.links := rfl
@[simp] theorem modWg_hub (s : State) (k : Nat) (f : Wg → Wg) : (modWg s k f).hub = s.hub := rfl
@[simp] theorem modWg_ras (s : State) (k : Nat) (f : Wg → Wg) : (modWg s k f).ras = s.ras := rfl
@[simp] theorem modWg_keys (s : State) (k : Nat) (f : Wg → Wg) : (modWg s k f).keys = s.keys := rfl
@[simp] theorem modWg_keyGen (s : State) (k : Nat) (f : Wg → Wg) : (modWg s k f).keyGen = s.keyGen := rfl
@[simp] theorem modWg_boot (s : State) (k : Nat) (f : Wg → Wg) : (modWg s k f).boot = s.boot := rfl
@[simp] theorem modWg_time (s : State) (k : Nat) (f : Wg → Wg) : (modWg s k f).time = s.time := rfl
@[simp] theorem modWg_agenda (s : State) (k : Nat) (f : Wg → Wg) : (modWg s k f).agenda = s.agenda := rfl
@[simp] theorem modWg_cur (s : State) (k : Nat) (f : Wg → Wg) : (modWg s k f).cur = s.cur := rfl
@[simp] theorem modWg_freeCtr (s : State) (k : Nat) (f : Wg → Wg) : (modWg s k f).freeCtr = s.freeCtr := rfl
@[simp] theorem modWg_nextId (s : State) (k : Nat) (f : Wg → Wg) : (modWg s k f).nextId = s.nextId := rfl

/-! ### `modEng` -/

@[simp] theorem modEng_mem (s : State) (k : Nat) (f : EngOp → EngOp) : (modEng s k f).mem = s.mem := rfl
@[simp] theorem modEng_coh (s : State) (k : Nat) (f : EngOp → EngOp) : (modEng s k f).coh = s.coh := rfl
@[simp] theorem modEng_reg (s : State) (k : Nat) (f : EngOp → EngOp) : (modEng s k f).reg = s.reg := rfl
@[simp] theorem modEng_threads (s : State) (k : Nat) (f : EngOp → EngOp) : (modEng s k f).threads = s.threads := rfl
@[simp] theorem modEng_wgs (s : State) (k : Nat) (f : EngOp → EngOp) : (modEng s k f).wgs = s.wgs := rfl
@[simp] theorem modEng_launches (s : State) (k : Nat) (f : EngOp → EngOp) : (modEng s k f).launches = s.launches := rfl
@[simp] theorem modEng_ctxs (s : State) (k : Nat) (f : EngOp → EngOp) : (modEng s k f).ctxs = s.ctxs := rfl
@[simp] theorem modEng_ops (s : State) (k : Nat) (f : EngOp → EngOp) : (modEng s k f).ops = s.ops := rfl
@[simp] theorem modEng_engq (s : State) (k : Nat) (f : EngOp → EngOp) : (modEng s k f).engq = tabMod s.engq k f := rfl
@[simp] theorem modEng_batches (s : State) (k : Nat) (f : EngOp → EngOp) : (modEng s k f).batches = s.batches := rfl
@[simp] theorem modEng_teams (s : State) (k : Nat) (f : EngOp → EngOp) : (modEng s k f).teams = s.teams := rfl
@[simp] theorem modEng_aholds (s : State) (k : Nat) (f : EngOp → EngOp) : (modEng s k f).aholds = s.aholds := rfl
@[simp] theorem modEng_entries (s : State) (k : Nat) (f : EngOp → EngOp) : (modEng s k f).entries = s.entries := rfl
@[simp] theorem modEng_dies (s : State) (k : Nat) (f : EngOp → EngOp) : (modEng s k f).dies = s.dies := rfl
@[simp] theorem modEng_mdies (s : State) (k : Nat) (f : EngOp → EngOp) : (modEng s k f).mdies = s.mdies := rfl
@[simp] theorem modEng_links (s : State) (k : Nat) (f : EngOp → EngOp) : (modEng s k f).links = s.links := rfl
@[simp] theorem modEng_hub (s : State) (k : Nat) (f : EngOp → EngOp) : (modEng s k f).hub = s.hub := rfl
@[simp] theorem modEng_ras (s : State) (k : Nat) (f : EngOp → EngOp) : (modEng s k f).ras = s.ras := rfl
@[simp] theorem modEng_keys (s : State) (k : Nat) (f : EngOp → EngOp) : (modEng s k f).keys = s.keys := rfl
@[simp] theorem modEng_keyGen (s : State) (k : Nat) (f : EngOp → EngOp) : (modEng s k f).keyGen = s.keyGen := rfl
@[simp] theorem modEng_boot (s : State) (k : Nat) (f : EngOp → EngOp) : (modEng s k f).boot = s.boot := rfl
@[simp] theorem modEng_time (s : State) (k : Nat) (f : EngOp → EngOp) : (modEng s k f).time = s.time := rfl
@[simp] theorem modEng_agenda (s : State) (k : Nat) (f : EngOp → EngOp) : (modEng s k f).agenda = s.agenda := rfl
@[simp] theorem modEng_cur (s : State) (k : Nat) (f : EngOp → EngOp) : (modEng s k f).cur = s.cur := rfl
@[simp] theorem modEng_freeCtr (s : State) (k : Nat) (f : EngOp → EngOp) : (modEng s k f).freeCtr = s.freeCtr := rfl
@[simp] theorem modEng_nextId (s : State) (k : Nat) (f : EngOp → EngOp) : (modEng s k f).nextId = s.nextId := rfl

/-! ### `modDie` -/

@[simp] theorem modDie_mem (s : State) (k : Nat) (f : Die → Die) : (modDie s k f).mem = s.mem := rfl
@[simp] theorem modDie_coh (s : State) (k : Nat) (f : Die → Die) : (modDie s k f).coh = s.coh := rfl
@[simp] theorem modDie_reg (s : State) (k : Nat) (f : Die → Die) : (modDie s k f).reg = s.reg := rfl
@[simp] theorem modDie_threads (s : State) (k : Nat) (f : Die → Die) : (modDie s k f).threads = s.threads := rfl
@[simp] theorem modDie_wgs (s : State) (k : Nat) (f : Die → Die) : (modDie s k f).wgs = s.wgs := rfl
@[simp] theorem modDie_launches (s : State) (k : Nat) (f : Die → Die) : (modDie s k f).launches = s.launches := rfl
@[simp] theorem modDie_ctxs (s : State) (k : Nat) (f : Die → Die) : (modDie s k f).ctxs = s.ctxs := rfl
@[simp] theorem modDie_ops (s : State) (k : Nat) (f : Die → Die) : (modDie s k f).ops = s.ops := rfl
@[simp] theorem modDie_engq (s : State) (k : Nat) (f : Die → Die) : (modDie s k f).engq = s.engq := rfl
@[simp] theorem modDie_batches (s : State) (k : Nat) (f : Die → Die) : (modDie s k f).batches = s.batches := rfl
@[simp] theorem modDie_teams (s : State) (k : Nat) (f : Die → Die) : (modDie s k f).teams = s.teams := rfl
@[simp] theorem modDie_aholds (s : State) (k : Nat) (f : Die → Die) : (modDie s k f).aholds = s.aholds := rfl
@[simp] theorem modDie_entries (s : State) (k : Nat) (f : Die → Die) : (modDie s k f).entries = s.entries := rfl
@[simp] theorem modDie_dies (s : State) (k : Nat) (f : Die → Die) : (modDie s k f).dies = tabSet Die.atReset s.dies k (f (dieOf s k)) := rfl
@[simp] theorem modDie_mdies (s : State) (k : Nat) (f : Die → Die) : (modDie s k f).mdies = s.mdies := rfl
@[simp] theorem modDie_links (s : State) (k : Nat) (f : Die → Die) : (modDie s k f).links = s.links := rfl
@[simp] theorem modDie_hub (s : State) (k : Nat) (f : Die → Die) : (modDie s k f).hub = s.hub := rfl
@[simp] theorem modDie_ras (s : State) (k : Nat) (f : Die → Die) : (modDie s k f).ras = s.ras := rfl
@[simp] theorem modDie_keys (s : State) (k : Nat) (f : Die → Die) : (modDie s k f).keys = s.keys := rfl
@[simp] theorem modDie_keyGen (s : State) (k : Nat) (f : Die → Die) : (modDie s k f).keyGen = s.keyGen := rfl
@[simp] theorem modDie_boot (s : State) (k : Nat) (f : Die → Die) : (modDie s k f).boot = s.boot := rfl
@[simp] theorem modDie_time (s : State) (k : Nat) (f : Die → Die) : (modDie s k f).time = s.time := rfl
@[simp] theorem modDie_agenda (s : State) (k : Nat) (f : Die → Die) : (modDie s k f).agenda = s.agenda := rfl
@[simp] theorem modDie_cur (s : State) (k : Nat) (f : Die → Die) : (modDie s k f).cur = s.cur := rfl
@[simp] theorem modDie_freeCtr (s : State) (k : Nat) (f : Die → Die) : (modDie s k f).freeCtr = s.freeCtr := rfl
@[simp] theorem modDie_nextId (s : State) (k : Nat) (f : Die → Die) : (modDie s k f).nextId = s.nextId := rfl

/-! ### `modBoot` -/

@[simp] theorem modBoot_mem (s : State) (f : Boot → Boot) : (modBoot s f).mem = s.mem := rfl
@[simp] theorem modBoot_coh (s : State) (f : Boot → Boot) : (modBoot s f).coh = s.coh := rfl
@[simp] theorem modBoot_reg (s : State) (f : Boot → Boot) : (modBoot s f).reg = s.reg := rfl
@[simp] theorem modBoot_threads (s : State) (f : Boot → Boot) : (modBoot s f).threads = s.threads := rfl
@[simp] theorem modBoot_wgs (s : State) (f : Boot → Boot) : (modBoot s f).wgs = s.wgs := rfl
@[simp] theorem modBoot_launches (s : State) (f : Boot → Boot) : (modBoot s f).launches = s.launches := rfl
@[simp] theorem modBoot_ctxs (s : State) (f : Boot → Boot) : (modBoot s f).ctxs = s.ctxs := rfl
@[simp] theorem modBoot_ops (s : State) (f : Boot → Boot) : (modBoot s f).ops = s.ops := rfl
@[simp] theorem modBoot_engq (s : State) (f : Boot → Boot) : (modBoot s f).engq = s.engq := rfl
@[simp] theorem modBoot_batches (s : State) (f : Boot → Boot) : (modBoot s f).batches = s.batches := rfl
@[simp] theorem modBoot_teams (s : State) (f : Boot → Boot) : (modBoot s f).teams = s.teams := rfl
@[simp] theorem modBoot_aholds (s : State) (f : Boot → Boot) : (modBoot s f).aholds = s.aholds := rfl
@[simp] theorem modBoot_entries (s : State) (f : Boot → Boot) : (modBoot s f).entries = s.entries := rfl
@[simp] theorem modBoot_dies (s : State) (f : Boot → Boot) : (modBoot s f).dies = s.dies := rfl
@[simp] theorem modBoot_mdies (s : State) (f : Boot → Boot) : (modBoot s f).mdies = s.mdies := rfl
@[simp] theorem modBoot_links (s : State) (f : Boot → Boot) : (modBoot s f).links = s.links := rfl
@[simp] theorem modBoot_hub (s : State) (f : Boot → Boot) : (modBoot s f).hub = s.hub := rfl
@[simp] theorem modBoot_ras (s : State) (f : Boot → Boot) : (modBoot s f).ras = s.ras := rfl
@[simp] theorem modBoot_keys (s : State) (f : Boot → Boot) : (modBoot s f).keys = s.keys := rfl
@[simp] theorem modBoot_keyGen (s : State) (f : Boot → Boot) : (modBoot s f).keyGen = s.keyGen := rfl
@[simp] theorem modBoot_boot (s : State) (f : Boot → Boot) : (modBoot s f).boot = f s.boot := rfl
@[simp] theorem modBoot_time (s : State) (f : Boot → Boot) : (modBoot s f).time = s.time := rfl
@[simp] theorem modBoot_agenda (s : State) (f : Boot → Boot) : (modBoot s f).agenda = s.agenda := rfl
@[simp] theorem modBoot_cur (s : State) (f : Boot → Boot) : (modBoot s f).cur = s.cur := rfl
@[simp] theorem modBoot_freeCtr (s : State) (f : Boot → Boot) : (modBoot s f).freeCtr = s.freeCtr := rfl
@[simp] theorem modBoot_nextId (s : State) (f : Boot → Boot) : (modBoot s f).nextId = s.nextId := rfl

/-! ### `stampWrite` -/

@[simp] theorem stampWrite_mem (s : State) (line off n : Nat) : (stampWrite s line off n).mem = s.mem := rfl
@[simp] theorem stampWrite_coh (s : State) (line off n : Nat) : (stampWrite s line off n).coh = { s.coh with wstamp := tabSet [] s.coh.wstamp line (stampTab (stampsOf s line) off n (stampNow s)) } := rfl
@[simp] theorem stampWrite_reg (s : State) (line off n : Nat) : (stampWrite s line off n).reg = s.reg := rfl
@[simp] theorem stampWrite_threads (s : State) (line off n : Nat) : (stampWrite s line off n).threads = s.threads := rfl
@[simp] theorem stampWrite_wgs (s : State) (line off n : Nat) : (stampWrite s line off n).wgs = s.wgs := rfl
@[simp] theorem stampWrite_launches (s : State) (line off n : Nat) : (stampWrite s line off n).launches = s.launches := rfl
@[simp] theorem stampWrite_ctxs (s : State) (line off n : Nat) : (stampWrite s line off n).ctxs = s.ctxs := rfl
@[simp] theorem stampWrite_ops (s : State) (line off n : Nat) : (stampWrite s line off n).ops = s.ops := rfl
@[simp] theorem stampWrite_engq (s : State) (line off n : Nat) : (stampWrite s line off n).engq = s.engq := rfl
@[simp] theorem stampWrite_batches (s : State) (line off n : Nat) : (stampWrite s line off n).batches = s.batches := rfl
@[simp] theorem stampWrite_teams (s : State) (line off n : Nat) : (stampWrite s line off n).teams = s.teams := rfl
@[simp] theorem stampWrite_aholds (s : State) (line off n : Nat) : (stampWrite s line off n).aholds = s.aholds := rfl
@[simp] theorem stampWrite_entries (s : State) (line off n : Nat) : (stampWrite s line off n).entries = s.entries := rfl
@[simp] theorem stampWrite_dies (s : State) (line off n : Nat) : (stampWrite s line off n).dies = s.dies := rfl
@[simp] theorem stampWrite_mdies (s : State) (line off n : Nat) : (stampWrite s line off n).mdies = s.mdies := rfl
@[simp] theorem stampWrite_links (s : State) (line off n : Nat) : (stampWrite s line off n).links = s.links := rfl
@[simp] theorem stampWrite_hub (s : State) (line off n : Nat) : (stampWrite s line off n).hub = s.hub := rfl
@[simp] theorem stampWrite_ras (s : State) (line off n : Nat) : (stampWrite s line off n).ras = s.ras := rfl
@[simp] theorem stampWrite_keys (s : State) (line off n : Nat) : (stampWrite s line off n).keys = s.keys := rfl
@[simp] theorem stampWrite_keyGen (s : State) (line off n : Nat) : (stampWrite s line off n).keyGen = s.keyGen := rfl
@[simp] theorem stampWrite_boot (s : State) (line off n : Nat) : (stampWrite s line off n).boot = s.boot := rfl
@[simp] theorem stampWrite_time (s : State) (line off n : Nat) : (stampWrite s line off n).time = s.time := rfl
@[simp] theorem stampWrite_agenda (s : State) (line off n : Nat) : (stampWrite s line off n).agenda = s.agenda := rfl
@[simp] theorem stampWrite_cur (s : State) (line off n : Nat) : (stampWrite s line off n).cur = s.cur := rfl
@[simp] theorem stampWrite_freeCtr (s : State) (line off n : Nat) : (stampWrite s line off n).freeCtr = s.freeCtr := rfl
@[simp] theorem stampWrite_nextId (s : State) (line off n : Nat) : (stampWrite s line off n).nextId = s.nextId := rfl

/-! ### `putL2` -/

@[simp] theorem putL2_mem (s : State) (l : L2Line) : (putL2 s l).mem = s.mem := rfl
@[simp] theorem putL2_coh (s : State) (l : L2Line) : (putL2 s l).coh = { s.coh with l2 := l :: s.coh.l2.filter fun x => !(x.die == l.die && x.line == l.line) } := rfl
@[simp] theorem putL2_reg (s : State) (l : L2Line) : (putL2 s l).reg = s.reg := rfl
@[simp] theorem putL2_threads (s : State) (l : L2Line) : (putL2 s l).threads = s.threads := rfl
@[simp] theorem putL2_wgs (s : State) (l : L2Line) : (putL2 s l).wgs = s.wgs := rfl
@[simp] theorem putL2_launches (s : State) (l : L2Line) : (putL2 s l).launches = s.launches := rfl
@[simp] theorem putL2_ctxs (s : State) (l : L2Line) : (putL2 s l).ctxs = s.ctxs := rfl
@[simp] theorem putL2_ops (s : State) (l : L2Line) : (putL2 s l).ops = s.ops := rfl
@[simp] theorem putL2_engq (s : State) (l : L2Line) : (putL2 s l).engq = s.engq := rfl
@[simp] theorem putL2_batches (s : State) (l : L2Line) : (putL2 s l).batches = s.batches := rfl
@[simp] theorem putL2_teams (s : State) (l : L2Line) : (putL2 s l).teams = s.teams := rfl
@[simp] theorem putL2_aholds (s : State) (l : L2Line) : (putL2 s l).aholds = s.aholds := rfl
@[simp] theorem putL2_entries (s : State) (l : L2Line) : (putL2 s l).entries = s.entries := rfl
@[simp] theorem putL2_dies (s : State) (l : L2Line) : (putL2 s l).dies = s.dies := rfl
@[simp] theorem putL2_mdies (s : State) (l : L2Line) : (putL2 s l).mdies = s.mdies := rfl
@[simp] theorem putL2_links (s : State) (l : L2Line) : (putL2 s l).links = s.links := rfl
@[simp] theorem putL2_hub (s : State) (l : L2Line) : (putL2 s l).hub = s.hub := rfl
@[simp] theorem putL2_ras (s : State) (l : L2Line) : (putL2 s l).ras = s.ras := rfl
@[simp] theorem putL2_keys (s : State) (l : L2Line) : (putL2 s l).keys = s.keys := rfl
@[simp] theorem putL2_keyGen (s : State) (l : L2Line) : (putL2 s l).keyGen = s.keyGen := rfl
@[simp] theorem putL2_boot (s : State) (l : L2Line) : (putL2 s l).boot = s.boot := rfl
@[simp] theorem putL2_time (s : State) (l : L2Line) : (putL2 s l).time = s.time := rfl
@[simp] theorem putL2_agenda (s : State) (l : L2Line) : (putL2 s l).agenda = s.agenda := rfl
@[simp] theorem putL2_cur (s : State) (l : L2Line) : (putL2 s l).cur = s.cur := rfl
@[simp] theorem putL2_freeCtr (s : State) (l : L2Line) : (putL2 s l).freeCtr = s.freeCtr := rfl
@[simp] theorem putL2_nextId (s : State) (l : L2Line) : (putL2 s l).nextId = s.nextId := rfl

/-! ### `putTag` -/

@[simp] theorem putTag_mem (s : State) (l : LineTag) : (putTag s l).mem = s.mem := rfl
@[simp] theorem putTag_coh (s : State) (l : LineTag) : (putTag s l).coh = s.coh := rfl
@[simp] theorem putTag_reg (s : State) (l : LineTag) : (putTag s l).reg = { s.reg with tags := l :: s.reg.tags.filter fun x => !(x.die == l.die && x.line == l.line) } := rfl
@[simp] theorem putTag_threads (s : State) (l : LineTag) : (putTag s l).threads = s.threads := rfl
@[simp] theorem putTag_wgs (s : State) (l : LineTag) : (putTag s l).wgs = s.wgs := rfl
@[simp] theorem putTag_launches (s : State) (l : LineTag) : (putTag s l).launches = s.launches := rfl
@[simp] theorem putTag_ctxs (s : State) (l : LineTag) : (putTag s l).ctxs = s.ctxs := rfl
@[simp] theorem putTag_ops (s : State) (l : LineTag) : (putTag s l).ops = s.ops := rfl
@[simp] theorem putTag_engq (s : State) (l : LineTag) : (putTag s l).engq = s.engq := rfl
@[simp] theorem putTag_batches (s : State) (l : LineTag) : (putTag s l).batches = s.batches := rfl
@[simp] theorem putTag_teams (s : State) (l : LineTag) : (putTag s l).teams = s.teams := rfl
@[simp] theorem putTag_aholds (s : State) (l : LineTag) : (putTag s l).aholds = s.aholds := rfl
@[simp] theorem putTag_entries (s : State) (l : LineTag) : (putTag s l).entries = s.entries := rfl
@[simp] theorem putTag_dies (s : State) (l : LineTag) : (putTag s l).dies = s.dies := rfl
@[simp] theorem putTag_mdies (s : State) (l : LineTag) : (putTag s l).mdies = s.mdies := rfl
@[simp] theorem putTag_links (s : State) (l : LineTag) : (putTag s l).links = s.links := rfl
@[simp] theorem putTag_hub (s : State) (l : LineTag) : (putTag s l).hub = s.hub := rfl
@[simp] theorem putTag_ras (s : State) (l : LineTag) : (putTag s l).ras = s.ras := rfl
@[simp] theorem putTag_keys (s : State) (l : LineTag) : (putTag s l).keys = s.keys := rfl
@[simp] theorem putTag_keyGen (s : State) (l : LineTag) : (putTag s l).keyGen = s.keyGen := rfl
@[simp] theorem putTag_boot (s : State) (l : LineTag) : (putTag s l).boot = s.boot := rfl
@[simp] theorem putTag_time (s : State) (l : LineTag) : (putTag s l).time = s.time := rfl
@[simp] theorem putTag_agenda (s : State) (l : LineTag) : (putTag s l).agenda = s.agenda := rfl
@[simp] theorem putTag_cur (s : State) (l : LineTag) : (putTag s l).cur = s.cur := rfl
@[simp] theorem putTag_freeCtr (s : State) (l : LineTag) : (putTag s l).freeCtr = s.freeCtr := rfl
@[simp] theorem putTag_nextId (s : State) (l : LineTag) : (putTag s l).nextId = s.nextId := rfl

/-! ### `modRegion` -/

@[simp] theorem modRegion_mem (s : State) (k : Nat) (f : Region → Region) : (modRegion s k f).mem = s.mem := rfl
@[simp] theorem modRegion_coh (s : State) (k : Nat) (f : Region → Region) : (modRegion s k f).coh = s.coh := rfl
@[simp] theorem modRegion_reg (s : State) (k : Nat) (f : Region → Region) : (modRegion s k f).reg = { s.reg with regions := tabMod s.reg.regions k f } := rfl
@[simp] theorem modRegion_threads (s : State) (k : Nat) (f : Region → Region) : (modRegion s k f).threads = s.threads := rfl
@[simp] theorem modRegion_wgs (s : State) (k : Nat) (f : Region → Region) : (modRegion s k f).wgs = s.wgs := rfl
@[simp] theorem modRegion_launches (s : State) (k : Nat) (f : Region → Region) : (modRegion s k f).launches = s.launches := rfl
@[simp] theorem modRegion_ctxs (s : State) (k : Nat) (f : Region → Region) : (modRegion s k f).ctxs = s.ctxs := rfl
@[simp] theorem modRegion_ops (s : State) (k : Nat) (f : Region → Region) : (modRegion s k f).ops = s.ops := rfl
@[simp] theorem modRegion_engq (s : State) (k : Nat) (f : Region → Region) : (modRegion s k f).engq = s.engq := rfl
@[simp] theorem modRegion_batches (s : State) (k : Nat) (f : Region → Region) : (modRegion s k f).batches = s.batches := rfl
@[simp] theorem modRegion_teams (s : State) (k : Nat) (f : Region → Region) : (modRegion s k f).teams = s.teams := rfl
@[simp] theorem modRegion_aholds (s : State) (k : Nat) (f : Region → Region) : (modRegion s k f).aholds = s.aholds := rfl
@[simp] theorem modRegion_entries (s : State) (k : Nat) (f : Region → Region) : (modRegion s k f).entries = s.entries := rfl
@[simp] theorem modRegion_dies (s : State) (k : Nat) (f : Region → Region) : (modRegion s k f).dies = s.dies := rfl
@[simp] theorem modRegion_mdies (s : State) (k : Nat) (f : Region → Region) : (modRegion s k f).mdies = s.mdies := rfl
@[simp] theorem modRegion_links (s : State) (k : Nat) (f : Region → Region) : (modRegion s k f).links = s.links := rfl
@[simp] theorem modRegion_hub (s : State) (k : Nat) (f : Region → Region) : (modRegion s k f).hub = s.hub := rfl
@[simp] theorem modRegion_ras (s : State) (k : Nat) (f : Region → Region) : (modRegion s k f).ras = s.ras := rfl
@[simp] theorem modRegion_keys (s : State) (k : Nat) (f : Region → Region) : (modRegion s k f).keys = s.keys := rfl
@[simp] theorem modRegion_keyGen (s : State) (k : Nat) (f : Region → Region) : (modRegion s k f).keyGen = s.keyGen := rfl
@[simp] theorem modRegion_boot (s : State) (k : Nat) (f : Region → Region) : (modRegion s k f).boot = s.boot := rfl
@[simp] theorem modRegion_time (s : State) (k : Nat) (f : Region → Region) : (modRegion s k f).time = s.time := rfl
@[simp] theorem modRegion_agenda (s : State) (k : Nat) (f : Region → Region) : (modRegion s k f).agenda = s.agenda := rfl
@[simp] theorem modRegion_cur (s : State) (k : Nat) (f : Region → Region) : (modRegion s k f).cur = s.cur := rfl
@[simp] theorem modRegion_freeCtr (s : State) (k : Nat) (f : Region → Region) : (modRegion s k f).freeCtr = s.freeCtr := rfl
@[simp] theorem modRegion_nextId (s : State) (k : Nat) (f : Region → Region) : (modRegion s k f).nextId = s.nextId := rfl

/-! ### `modLink` -/

@[simp] theorem modLink_mem (s : State) (k : Nat) (f : Link → Link) : (modLink s k f).mem = s.mem := rfl
@[simp] theorem modLink_coh (s : State) (k : Nat) (f : Link → Link) : (modLink s k f).coh = s.coh := rfl
@[simp] theorem modLink_reg (s : State) (k : Nat) (f : Link → Link) : (modLink s k f).reg = s.reg := rfl
@[simp] theorem modLink_threads (s : State) (k : Nat) (f : Link → Link) : (modLink s k f).threads = s.threads := rfl
@[simp] theorem modLink_wgs (s : State) (k : Nat) (f : Link → Link) : (modLink s k f).wgs = s.wgs := rfl
@[simp] theorem modLink_launches (s : State) (k : Nat) (f : Link → Link) : (modLink s k f).launches = s.launches := rfl
@[simp] theorem modLink_ctxs (s : State) (k : Nat) (f : Link → Link) : (modLink s k f).ctxs = s.ctxs := rfl
@[simp] theorem modLink_ops (s : State) (k : Nat) (f : Link → Link) : (modLink s k f).ops = s.ops := rfl
@[simp] theorem modLink_engq (s : State) (k : Nat) (f : Link → Link) : (modLink s k f).engq = s.engq := rfl
@[simp] theorem modLink_batches (s : State) (k : Nat) (f : Link → Link) : (modLink s k f).batches = s.batches := rfl
@[simp] theorem modLink_teams (s : State) (k : Nat) (f : Link → Link) : (modLink s k f).teams = s.teams := rfl
@[simp] theorem modLink_aholds (s : State) (k : Nat) (f : Link → Link) : (modLink s k f).aholds = s.aholds := rfl
@[simp] theorem modLink_entries (s : State) (k : Nat) (f : Link → Link) : (modLink s k f).entries = s.entries := rfl
@[simp] theorem modLink_dies (s : State) (k : Nat) (f : Link → Link) : (modLink s k f).dies = s.dies := rfl
@[simp] theorem modLink_mdies (s : State) (k : Nat) (f : Link → Link) : (modLink s k f).mdies = s.mdies := rfl
@[simp] theorem modLink_links (s : State) (k : Nat) (f : Link → Link) : (modLink s k f).links = tabSet Link.atReset s.links k (f (linkOf s k)) := rfl
@[simp] theorem modLink_hub (s : State) (k : Nat) (f : Link → Link) : (modLink s k f).hub = s.hub := rfl
@[simp] theorem modLink_ras (s : State) (k : Nat) (f : Link → Link) : (modLink s k f).ras = s.ras := rfl
@[simp] theorem modLink_keys (s : State) (k : Nat) (f : Link → Link) : (modLink s k f).keys = s.keys := rfl
@[simp] theorem modLink_keyGen (s : State) (k : Nat) (f : Link → Link) : (modLink s k f).keyGen = s.keyGen := rfl
@[simp] theorem modLink_boot (s : State) (k : Nat) (f : Link → Link) : (modLink s k f).boot = s.boot := rfl
@[simp] theorem modLink_time (s : State) (k : Nat) (f : Link → Link) : (modLink s k f).time = s.time := rfl
@[simp] theorem modLink_agenda (s : State) (k : Nat) (f : Link → Link) : (modLink s k f).agenda = s.agenda := rfl
@[simp] theorem modLink_cur (s : State) (k : Nat) (f : Link → Link) : (modLink s k f).cur = s.cur := rfl
@[simp] theorem modLink_freeCtr (s : State) (k : Nat) (f : Link → Link) : (modLink s k f).freeCtr = s.freeCtr := rfl
@[simp] theorem modLink_nextId (s : State) (k : Nat) (f : Link → Link) : (modLink s k f).nextId = s.nextId := rfl

/-! ### `noteWct` -/

@[simp] theorem noteWct_mem (s : State) (k : Nat) (w : Wct) : (noteWct s k w).mem = s.mem := rfl
@[simp] theorem noteWct_coh (s : State) (k : Nat) (w : Wct) : (noteWct s k w).coh = s.coh := rfl
@[simp] theorem noteWct_reg (s : State) (k : Nat) (w : Wct) : (noteWct s k w).reg = s.reg := rfl
@[simp] theorem noteWct_threads (s : State) (k : Nat) (w : Wct) : (noteWct s k w).threads = s.threads := rfl
@[simp] theorem noteWct_wgs (s : State) (k : Nat) (w : Wct) : (noteWct s k w).wgs = s.wgs := rfl
@[simp] theorem noteWct_launches (s : State) (k : Nat) (w : Wct) : (noteWct s k w).launches = tabMod s.launches k fun l => { l with wct := max l.wct w.pod } := rfl
@[simp] theorem noteWct_ctxs (s : State) (k : Nat) (w : Wct) : (noteWct s k w).ctxs = s.ctxs := rfl
@[simp] theorem noteWct_ops (s : State) (k : Nat) (w : Wct) : (noteWct s k w).ops = s.ops := rfl
@[simp] theorem noteWct_engq (s : State) (k : Nat) (w : Wct) : (noteWct s k w).engq = s.engq := rfl
@[simp] theorem noteWct_batches (s : State) (k : Nat) (w : Wct) : (noteWct s k w).batches = s.batches := rfl
@[simp] theorem noteWct_teams (s : State) (k : Nat) (w : Wct) : (noteWct s k w).teams = s.teams := rfl
@[simp] theorem noteWct_aholds (s : State) (k : Nat) (w : Wct) : (noteWct s k w).aholds = s.aholds := rfl
@[simp] theorem noteWct_entries (s : State) (k : Nat) (w : Wct) : (noteWct s k w).entries = s.entries := rfl
@[simp] theorem noteWct_dies (s : State) (k : Nat) (w : Wct) : (noteWct s k w).dies = s.dies := rfl
@[simp] theorem noteWct_mdies (s : State) (k : Nat) (w : Wct) : (noteWct s k w).mdies = s.mdies := rfl
@[simp] theorem noteWct_links (s : State) (k : Nat) (w : Wct) : (noteWct s k w).links = s.links := rfl
@[simp] theorem noteWct_hub (s : State) (k : Nat) (w : Wct) : (noteWct s k w).hub = s.hub := rfl
@[simp] theorem noteWct_ras (s : State) (k : Nat) (w : Wct) : (noteWct s k w).ras = s.ras := rfl
@[simp] theorem noteWct_keys (s : State) (k : Nat) (w : Wct) : (noteWct s k w).keys = s.keys := rfl
@[simp] theorem noteWct_keyGen (s : State) (k : Nat) (w : Wct) : (noteWct s k w).keyGen = s.keyGen := rfl
@[simp] theorem noteWct_boot (s : State) (k : Nat) (w : Wct) : (noteWct s k w).boot = s.boot := rfl
@[simp] theorem noteWct_time (s : State) (k : Nat) (w : Wct) : (noteWct s k w).time = s.time := rfl
@[simp] theorem noteWct_agenda (s : State) (k : Nat) (w : Wct) : (noteWct s k w).agenda = s.agenda := rfl
@[simp] theorem noteWct_cur (s : State) (k : Nat) (w : Wct) : (noteWct s k w).cur = s.cur := rfl
@[simp] theorem noteWct_freeCtr (s : State) (k : Nat) (w : Wct) : (noteWct s k w).freeCtr = s.freeCtr := rfl
@[simp] theorem noteWct_nextId (s : State) (k : Nat) (w : Wct) : (noteWct s k w).nextId = s.nextId := rfl

/-! ### `advance` -/

@[simp] theorem advance_ctx (t : Thread) (n : Nat) : (advance t n).ctx = t.ctx := rfl
@[simp] theorem advance_launch (t : Thread) (n : Nat) : (advance t n).launch = t.launch := rfl
@[simp] theorem advance_box (t : Thread) (n : Nat) : (advance t n).box = t.box := rfl
@[simp] theorem advance_home (t : Thread) (n : Nat) : (advance t n).home = t.home := rfl
@[simp] theorem advance_pc (t : Thread) (n : Nat) : (advance t n).pc = t.pc + BitVec.ofNat 64 n := rfl
@[simp] theorem advance_sregs (t : Thread) (n : Nat) : (advance t n).sregs = t.sregs := rfl
@[simp] theorem advance_conds (t : Thread) (n : Nat) : (advance t n).conds = t.conds := rfl
@[simp] theorem advance_toks (t : Thread) (n : Nat) : (advance t n).toks = t.toks := rfl
@[simp] theorem advance_wct (t : Thread) (n : Nat) : (advance t n).wct = t.wct := rfl
@[simp] theorem advance_wide (t : Thread) (n : Nat) : (advance t n).wide = t.wide := rfl
@[simp] theorem advance_aflags (t : Thread) (n : Nat) : (advance t n).aflags = t.aflags := rfl
@[simp] theorem advance_aenable (t : Thread) (n : Nat) : (advance t n).aenable = t.aenable := rfl
@[simp] theorem advance_pkdem (t : Thread) (n : Nat) : (advance t n).pkdem = t.pkdem := rfl
@[simp] theorem advance_batch (t : Thread) (n : Nat) : (advance t n).batch = t.batch := rfl
@[simp] theorem advance_ctxid (t : Thread) (n : Nat) : (advance t n).ctxid = t.ctxid := rfl
@[simp] theorem advance_wait (t : Thread) (n : Nat) : (advance t n).wait = t.wait := rfl
@[simp] theorem advance_stop (t : Thread) (n : Nat) : (advance t n).stop = t.stop := rfl
@[simp] theorem advance_more (t : Thread) (n : Nat) : (advance t n).more = t.more := rfl
@[simp] theorem advance_rel (t : Thread) (n : Nat) : (advance t n).rel = t.rel := rfl
@[simp] theorem advance_seqAt (t : Thread) (n : Nat) : (advance t n).seqAt = t.seqAt := rfl
@[simp] theorem advance_seqNo (t : Thread) (n : Nat) : (advance t n).seqNo = t.seqNo := rfl
@[simp] theorem advance_blockNo (t : Thread) (n : Nat) : (advance t n).blockNo = t.blockNo := rfl
@[simp] theorem advance_resumeAt (t : Thread) (n : Nat) : (advance t n).resumeAt = t.resumeAt := rfl
@[simp] theorem advance_mark (t : Thread) (n : Nat) : (advance t n).mark = t.mark := rfl
@[simp] theorem advance_fencedAt (t : Thread) (n : Nat) : (advance t n).fencedAt = t.fencedAt := rfl
@[simp] theorem advance_seen (t : Thread) (n : Nat) : (advance t n).seen = t.seen := rfl
@[simp] theorem advance_dirtyS (t : Thread) (n : Nat) : (advance t n).dirtyS = t.dirtyS := rfl
@[simp] theorem advance_due (t : Thread) (n : Nat) : (advance t n).due = t.due := rfl
@[simp] theorem advance_seat (t : Thread) (n : Nat) : (advance t n).seat = t.seat := rfl

/-! ### `setS` and `setC` -/

@[simp] theorem setS_ctx (t : Thread) (r : SReg) (v : SVal) : (setS t r v).ctx = t.ctx := by unfold setS; split <;> rfl
@[simp] theorem setS_launch (t : Thread) (r : SReg) (v : SVal) : (setS t r v).launch = t.launch := by unfold setS; split <;> rfl
@[simp] theorem setS_box (t : Thread) (r : SReg) (v : SVal) : (setS t r v).box = t.box := by unfold setS; split <;> rfl
@[simp] theorem setS_home (t : Thread) (r : SReg) (v : SVal) : (setS t r v).home = t.home := by unfold setS; split <;> rfl
@[simp] theorem setS_pc (t : Thread) (r : SReg) (v : SVal) : (setS t r v).pc = t.pc := by unfold setS; split <;> rfl
@[simp] theorem setS_conds (t : Thread) (r : SReg) (v : SVal) : (setS t r v).conds = t.conds := by unfold setS; split <;> rfl
@[simp] theorem setS_toks (t : Thread) (r : SReg) (v : SVal) : (setS t r v).toks = t.toks := by unfold setS; split <;> rfl
@[simp] theorem setS_wct (t : Thread) (r : SReg) (v : SVal) : (setS t r v).wct = t.wct := by unfold setS; split <;> rfl
@[simp] theorem setS_wide (t : Thread) (r : SReg) (v : SVal) : (setS t r v).wide = t.wide := by unfold setS; split <;> rfl
@[simp] theorem setS_aflags (t : Thread) (r : SReg) (v : SVal) : (setS t r v).aflags = t.aflags := by unfold setS; split <;> rfl
@[simp] theorem setS_aenable (t : Thread) (r : SReg) (v : SVal) : (setS t r v).aenable = t.aenable := by unfold setS; split <;> rfl
@[simp] theorem setS_pkdem (t : Thread) (r : SReg) (v : SVal) : (setS t r v).pkdem = t.pkdem := by unfold setS; split <;> rfl
@[simp] theorem setS_batch (t : Thread) (r : SReg) (v : SVal) : (setS t r v).batch = t.batch := by unfold setS; split <;> rfl
@[simp] theorem setS_ctxid (t : Thread) (r : SReg) (v : SVal) : (setS t r v).ctxid = t.ctxid := by unfold setS; split <;> rfl
@[simp] theorem setS_wait (t : Thread) (r : SReg) (v : SVal) : (setS t r v).wait = t.wait := by unfold setS; split <;> rfl
@[simp] theorem setS_stop (t : Thread) (r : SReg) (v : SVal) : (setS t r v).stop = t.stop := by unfold setS; split <;> rfl
@[simp] theorem setS_more (t : Thread) (r : SReg) (v : SVal) : (setS t r v).more = t.more := by unfold setS; split <;> rfl
@[simp] theorem setS_rel (t : Thread) (r : SReg) (v : SVal) : (setS t r v).rel = t.rel := by unfold setS; split <;> rfl
@[simp] theorem setS_seqAt (t : Thread) (r : SReg) (v : SVal) : (setS t r v).seqAt = t.seqAt := by unfold setS; split <;> rfl
@[simp] theorem setS_seqNo (t : Thread) (r : SReg) (v : SVal) : (setS t r v).seqNo = t.seqNo := by unfold setS; split <;> rfl
@[simp] theorem setS_blockNo (t : Thread) (r : SReg) (v : SVal) : (setS t r v).blockNo = t.blockNo := by unfold setS; split <;> rfl
@[simp] theorem setS_resumeAt (t : Thread) (r : SReg) (v : SVal) : (setS t r v).resumeAt = t.resumeAt := by unfold setS; split <;> rfl
@[simp] theorem setS_mark (t : Thread) (r : SReg) (v : SVal) : (setS t r v).mark = t.mark := by unfold setS; split <;> rfl
@[simp] theorem setS_fencedAt (t : Thread) (r : SReg) (v : SVal) : (setS t r v).fencedAt = t.fencedAt := by unfold setS; split <;> rfl
@[simp] theorem setS_seen (t : Thread) (r : SReg) (v : SVal) : (setS t r v).seen = t.seen := by unfold setS; split <;> rfl
@[simp] theorem setS_due (t : Thread) (r : SReg) (v : SVal) : (setS t r v).due = t.due := by unfold setS; split <;> rfl
@[simp] theorem setS_seat (t : Thread) (r : SReg) (v : SVal) : (setS t r v).seat = t.seat := by unfold setS; split <;> rfl
@[simp] theorem setC_ctx (t : Thread) (k : BitVec 3) (v : CVal) : (setC t k v).ctx = t.ctx := by unfold setC; split <;> rfl
@[simp] theorem setC_launch (t : Thread) (k : BitVec 3) (v : CVal) : (setC t k v).launch = t.launch := by unfold setC; split <;> rfl
@[simp] theorem setC_box (t : Thread) (k : BitVec 3) (v : CVal) : (setC t k v).box = t.box := by unfold setC; split <;> rfl
@[simp] theorem setC_home (t : Thread) (k : BitVec 3) (v : CVal) : (setC t k v).home = t.home := by unfold setC; split <;> rfl
@[simp] theorem setC_pc (t : Thread) (k : BitVec 3) (v : CVal) : (setC t k v).pc = t.pc := by unfold setC; split <;> rfl
@[simp] theorem setC_sregs (t : Thread) (k : BitVec 3) (v : CVal) : (setC t k v).sregs = t.sregs := by unfold setC; split <;> rfl
@[simp] theorem setC_toks (t : Thread) (k : BitVec 3) (v : CVal) : (setC t k v).toks = t.toks := by unfold setC; split <;> rfl
@[simp] theorem setC_wct (t : Thread) (k : BitVec 3) (v : CVal) : (setC t k v).wct = t.wct := by unfold setC; split <;> rfl
@[simp] theorem setC_wide (t : Thread) (k : BitVec 3) (v : CVal) : (setC t k v).wide = t.wide := by unfold setC; split <;> rfl
@[simp] theorem setC_aflags (t : Thread) (k : BitVec 3) (v : CVal) : (setC t k v).aflags = t.aflags := by unfold setC; split <;> rfl
@[simp] theorem setC_aenable (t : Thread) (k : BitVec 3) (v : CVal) : (setC t k v).aenable = t.aenable := by unfold setC; split <;> rfl
@[simp] theorem setC_pkdem (t : Thread) (k : BitVec 3) (v : CVal) : (setC t k v).pkdem = t.pkdem := by unfold setC; split <;> rfl
@[simp] theorem setC_batch (t : Thread) (k : BitVec 3) (v : CVal) : (setC t k v).batch = t.batch := by unfold setC; split <;> rfl
@[simp] theorem setC_ctxid (t : Thread) (k : BitVec 3) (v : CVal) : (setC t k v).ctxid = t.ctxid := by unfold setC; split <;> rfl
@[simp] theorem setC_wait (t : Thread) (k : BitVec 3) (v : CVal) : (setC t k v).wait = t.wait := by unfold setC; split <;> rfl
@[simp] theorem setC_stop (t : Thread) (k : BitVec 3) (v : CVal) : (setC t k v).stop = t.stop := by unfold setC; split <;> rfl
@[simp] theorem setC_more (t : Thread) (k : BitVec 3) (v : CVal) : (setC t k v).more = t.more := by unfold setC; split <;> rfl
@[simp] theorem setC_rel (t : Thread) (k : BitVec 3) (v : CVal) : (setC t k v).rel = t.rel := by unfold setC; split <;> rfl
@[simp] theorem setC_seqAt (t : Thread) (k : BitVec 3) (v : CVal) : (setC t k v).seqAt = t.seqAt := by unfold setC; split <;> rfl
@[simp] theorem setC_seqNo (t : Thread) (k : BitVec 3) (v : CVal) : (setC t k v).seqNo = t.seqNo := by unfold setC; split <;> rfl
@[simp] theorem setC_blockNo (t : Thread) (k : BitVec 3) (v : CVal) : (setC t k v).blockNo = t.blockNo := by unfold setC; split <;> rfl
@[simp] theorem setC_resumeAt (t : Thread) (k : BitVec 3) (v : CVal) : (setC t k v).resumeAt = t.resumeAt := by unfold setC; split <;> rfl
@[simp] theorem setC_mark (t : Thread) (k : BitVec 3) (v : CVal) : (setC t k v).mark = t.mark := by unfold setC; split <;> rfl
@[simp] theorem setC_fencedAt (t : Thread) (k : BitVec 3) (v : CVal) : (setC t k v).fencedAt = t.fencedAt := by unfold setC; split <;> rfl
@[simp] theorem setC_seen (t : Thread) (k : BitVec 3) (v : CVal) : (setC t k v).seen = t.seen := by unfold setC; split <;> rfl
@[simp] theorem setC_dirtyS (t : Thread) (k : BitVec 3) (v : CVal) : (setC t k v).dirtyS = t.dirtyS := by unfold setC; split <;> rfl
@[simp] theorem setC_due (t : Thread) (k : BitVec 3) (v : CVal) : (setC t k v).due = t.due := by unfold setC; split <;> rfl
@[simp] theorem setC_seat (t : Thread) (k : BitVec 3) (v : CVal) : (setC t k v).seat = t.seat := by unfold setC; split <;> rfl

end Sys2Proof.Machine
end

