-- ==== Sys2Proof/Laws/Tab.lean ====
section
/-!
SUPPORT. Sparse tables: what a read gives after a write, and that setting a value keeps the canonical form.
-/
namespace Sys2Proof

variable {α : Type}

/-- A read of the number just put. -/
@[simp] theorem tabFind_tabPut_self (t : Tab α) (k : Nat) (v : α) : tabFind (tabPut t k v) k = some v := by
  induction t with
  | nil => simp [tabPut, tabFind]
  | cons p t ih =>
    obtain ⟨k', v'⟩ := p
    simp only [tabPut]
    split
    · simp [tabFind]
    · split
      · simp [tabFind]
      · simp_all [tabFind]

/-- A read of another number. -/
theorem tabFind_tabPut_ne (t : Tab α) {k j : Nat} (h : j ≠ k) (v : α) : tabFind (tabPut t k v) j = tabFind t j := by
  induction t with
  | nil => simp [tabPut, tabFind, Ne.symm h]
  | cons p t ih =>
    obtain ⟨k', v'⟩ := p
    simp only [tabPut]
    split
    · simp [tabFind, Ne.symm h]
    · split
      · subst_vars; simp [tabFind, Ne.symm h]
      · simp [tabFind, ih]

/-- A removed number is listed no more. -/
@[simp] theorem tabFind_tabDel_self (t : Tab α) (k : Nat) : tabFind (tabDel t k) k = none := by
  induction t with
  | nil => rfl
  | cons p t ih =>
    obtain ⟨k', v'⟩ := p
    simp only [tabDel, List.filter_cons]
    split <;> simp_all [tabFind, tabDel]

/-- Removing a number leaves the others. -/
theorem tabFind_tabDel_ne (t : Tab α) {k j : Nat} (h : j ≠ k) : tabFind (tabDel t k) j = tabFind t j := by
  induction t with
  | nil => rfl
  | cons p t ih =>
    obtain ⟨k', v'⟩ := p
    simp only [tabDel, List.filter_cons] at *
    by_cases hk : k' = k
    · subst hk; simp [tabFind, Ne.symm h, ih]
    · simp [hk, tabFind, ih]

/-- A read of the number just set. -/
@[simp] theorem tabGet_tabSet_self [DecidableEq α] (d : α) (t : Tab α) (k : Nat) (v : α) :
    tabGet d (tabSet d t k v) k = v := by
  simp only [tabGet, tabSet]; split <;> simp_all

/-- A read of a number that was not set. -/
theorem tabGet_tabSet_ne [DecidableEq α] (d : α) (t : Tab α) {k j : Nat} (h : j ≠ k) (v : α) :
    tabGet d (tabSet d t k v) j = tabGet d t j := by
  simp only [tabGet, tabSet]; split <;> simp [tabFind_tabDel_ne, tabFind_tabPut_ne, h]

/-- Changing entries keeps the numbers listed. -/
theorem tabFind_tabMod (t : Tab α) (k j : Nat) (f : α → α) :
    tabFind (tabMod t k f) j = if j = k then (tabFind t j).map f else tabFind t j := by
  induction t with
  | nil => simp [tabMod, tabFind]
  | cons p t ih =>
    obtain ⟨k', v'⟩ := p
    simp only [tabMod, List.map_cons] at *
    by_cases hk : k' = k
    · subst hk
      by_cases hj : k' = j
      · subst hj; simp [tabFind]
      · simp [tabFind, hj, ih]
    · by_cases hj : k' = j
      · subst hj; simp [tabFind, hk]
      · simp [tabFind, hk, hj, ih]

/-! ### Canonical form -/

/-- The numbers of a sorted table all lie above its first. -/
theorem tabSorted_cons (k : Nat) (v : α) (t : Tab α) :
    tabSorted ((k, v) :: t) = true ↔ (∀ p ∈ t, k < p.1) ∧ tabSorted t = true := by
  induction t generalizing k v with
  | nil => simp [tabSorted]
  | cons p t ih =>
    obtain ⟨k', v'⟩ := p
    simp only [tabSorted, Bool.and_eq_true, decide_eq_true_eq, List.mem_cons, forall_eq_or_imp]
    rw [ih]
    constructor
    · rintro ⟨h, h1, h2⟩; exact ⟨⟨h, fun p hp => by have := h1 p hp; omega⟩, h1, h2⟩
    · rintro ⟨⟨h, _⟩, h1, h2⟩; exact ⟨h, h1, h2⟩

/-- Entries of a table after a put. -/
theorem mem_tabPut {t : Tab α} {k : Nat} {v : α} {p : Nat × α} (h : p ∈ tabPut t k v) : p = (k, v) ∨ p ∈ t := by
  induction t with
  | nil => simpa [tabPut] using h
  | cons q t ih =>
    obtain ⟨k', v'⟩ := q
    simp only [tabPut] at h
    split at h
    · simpa using h
    · split at h
      · simp only [List.mem_cons] at h ⊢; tauto
      · simp only [List.mem_cons] at h ⊢
        rcases h with h | h
        · exact .inr (.inl h)
        · rcases ih h with h | h
          · exact .inl h
          · exact .inr (.inr h)

/-- A put keeps a table sorted. -/
theorem tabSorted_tabPut (t : Tab α) (k : Nat) (v : α) (h : tabSorted t = true) : tabSorted (tabPut t k v) = true := by
  induction t with
  | nil => rfl
  | cons q t ih =>
    obtain ⟨k', v'⟩ := q
    have h' := (tabSorted_cons k' v' t).1 h
    simp only [tabPut]
    split
    · rename_i hk
      refine (tabSorted_cons _ _ _).2 ⟨?_, h⟩
      intro p hp
      rcases List.mem_cons.1 hp with rfl | hp
      · exact hk
      · have := h'.1 p hp; omega
    · split
      · rename_i hk; subst hk; exact (tabSorted_cons _ _ _).2 h'
      · refine (tabSorted_cons _ _ _).2 ⟨?_, ih h'.2⟩
        intro p hp
        rcases mem_tabPut hp with rfl | hp
        · simp; omega
        · exact h'.1 p hp

/-- Removing entries keeps a table sorted. -/
theorem tabSorted_filter (t : Tab α) (q : Nat × α → Bool) (h : tabSorted t = true) : tabSorted (t.filter q) = true := by
  induction t with
  | nil => rfl
  | cons p t ih =>
    obtain ⟨k', v'⟩ := p
    have h' := (tabSorted_cons k' v' t).1 h
    simp only [List.filter_cons]
    split
    · exact (tabSorted_cons _ _ _).2 ⟨fun p hp => h'.1 p (List.mem_filter.1 hp).1, ih h'.2⟩
    · exact ih h'.2

/-- Setting a value keeps the canonical form. -/
theorem tabWf_tabSet [DecidableEq α] (d : α) (t : Tab α) (k : Nat) (v : α) (h : tabWf d t = true) :
    tabWf d (tabSet d t k v) = true := by
  simp only [tabWf, Bool.and_eq_true, List.all_eq_true, bne_iff_ne] at h ⊢
  unfold tabSet
  split
  · exact ⟨tabSorted_filter _ _ h.1, fun p hp => h.2 p (List.mem_filter.1 hp).1⟩
  · rename_i hv
    refine ⟨tabSorted_tabPut _ _ _ h.1, fun p hp => ?_⟩
    rcases mem_tabPut hp with rfl | hp
    · exact hv
    · exact h.2 p hp

end Sys2Proof
end

