-- ==== Sys2Proof/Laws/Memory.lean ====
section
/-!
SUPPORT. Memory: every operation on the bytes of memory keeps their canonical form, reset has it, and a byte written is
the byte read.
-/
namespace Sys2Proof.Machine
open Sys2Proof

/-- Writing bytes keeps the canonical form. -/
theorem memWf_putBytes (bs : List Byte) (m : List Host.Cell) (a : Nat) (h : memWf m = true) :
    memWf (putBytes m a bs) = true := by
  induction bs generalizing m a with
  | nil => exact h
  | cons b bs ih => exact ih _ _ (tabWf_tabSet _ _ _ _ h)

/-- Storing a line keeps the canonical form. -/
theorem memWf_memPutLine (s : State) (line : Nat) (d : LineData) (gen : Nat) (h : memWf s.mem.bytes = true) :
    memWf (memPutLine s line d gen).mem.bytes = true := memWf_putBytes _ _ _ h

/-- A write back keeps the canonical form. -/
theorem memWf_writeBack (s : State) (l : L2Line) (h : memWf s.mem.bytes = true) :
    memWf (writeBack s l).mem.bytes = true := by
  unfold writeBack
  split
  · exact h
  · split
    · exact h
    · split
      · exact memWf_memPutLine _ _ _ _ h
      · split
        · exact h
        · exact memWf_memPutLine _ _ _ _ h

/-- A store to a line that is nowhere on chip keeps the canonical form. -/
theorem memWf_memPut (s : State) (key : Option Nat) (pa n v : Nat) (h : memWf s.mem.bytes = true) :
    memWf (memPut s key pa n v).mem.bytes = true := by
  unfold memPut
  split
  · exact memWf_putBytes _ _ _ h
  · split
    · exact memWf_memPutLine _ _ _ _ h
    · exact h

/-- Of two states that differ from a third only in the regions' state, either does. -/
theorem regOnly_ite {s a b : State} {c : Prop} [Decidable c] (ha : ∃ r, a = { s with reg := r })
    (hb : ∃ r, b = { s with reg := r }) : ∃ r, (if c then a else b) = { s with reg := r } := by
  split <;> assumption

/-- A bound sent to a region changes nothing but the regions' state (R133). -/
theorem sendBound_eq (s : State) (die line rg : Nat) (raise : Bool) (v : Nat) :
    ∃ r, sendBound s die line rg raise v = { s with reg := r } := by
  unfold sendBound
  exact regOnly_ite ⟨_, rfl⟩ ⟨s.reg, rfl⟩

/-- So does one sent to the region of a tag. -/
theorem sendTag_eq {s a : State} (die line : Nat) (o : Option Tag) (raise : Bool) (v : Nat)
    (h : ∃ r, a = { s with reg := r }) : ∃ r, sendTag a die line o raise v = { s with reg := r } := by
  obtain ⟨r, rfl⟩ := h
  cases o with
  | none => exact ⟨r, rfl⟩
  | some w => exact sendBound_eq { s with reg := r } die line w.rg raise v

/-- So do those sent to the regions of some tags. -/
theorem lowerTags_eq {s a : State} (die line : Nat) (l : List Tag) (v : Nat) (h : ∃ r, a = { s with reg := r }) :
    ∃ r, lowerTags a die line l v = { s with reg := r } := by
  induction l generalizing a with
  | nil => exact h
  | cons t l ih => exact ih (sendTag_eq die line (some t) false v h)

/-- A committed access is ordered against the live tags, and nothing else changes (R131). -/
theorem commitPos_eq (s : State) (die line : Nat) (reads writes : Bool) :
    ∃ r, commitPos s die line reads writes = { s with reg := r } := by
  have h (p : Nat) : ∃ r, (if reads then sendTag s die line (lineTag s die line).writer true p else s) = { s with reg := r } :=
    regOnly_ite (sendTag_eq _ _ _ _ _ ⟨s.reg, rfl⟩) ⟨s.reg, rfl⟩
  have put {a : State} (l : LineTag) (ha : ∃ r, a = { s with reg := r }) : ∃ r, putTag a l = { s with reg := r } := by
    obtain ⟨r, rfl⟩ := ha
    exact ⟨_, rfl⟩
  exact put _ (regOnly_ite (sendTag_eq _ _ _ _ _ (lowerTags_eq _ _ _ _ (h _))) (h _))

/-- A line marked poisoned keeps its bytes. -/
@[simp] theorem poisonLine_bytes (s : State) (line : Nat) : (poisonLine s line).mem.bytes = s.mem.bytes := by
  unfold poisonLine
  split <;> rfl

/-- A write-back that lands keeps the canonical form. -/
theorem memWf_landLine (s : State) (line : Nat) (h : memWf s.mem.bytes = true) : memWf (landLine s line).mem.bytes = true := by
  unfold landLine
  split
  · exact memWf_writeBack _ _ h
  · exact h

/-- A write of the hub, under a page's key or to its own tables, keeps the canonical form. -/
theorem memWf_hubPutAs (s : State) (reads : Bool) (key : Option Nat) (pa n v : Nat) (h : memWf s.mem.bytes = true) :
    memWf (hubPutAs s reads key pa n v).mem.bytes = true := by
  have hl : memWf (landLine (stampWrite s (lineOf pa) (pa % 128) n) (lineOf pa)).mem.bytes = true := memWf_landLine _ _ h
  unfold hubPutAs
  dsimp only
  split
  · split
    · rw [poisonLine_bytes]; exact h
    · exact h
  · split
    · exact hl
    · split
      · simp only [overTentative]
        obtain ⟨r, hr⟩ := commitPos_eq _ _ _ _ _
        rw [hr]
        exact hl
      · exact memWf_memPut _ _ _ _ _ hl

/-- Placing an instruction keeps the canonical form. -/
theorem memWf_placeBytes (m : List Host.Cell) (nbits w : Nat) (h : memWf m = true) :
    memWf (placeBytes m nbits w) = true := by
  simp only [placeBytes, placedTables, List.foldl]
  iterate 4 apply memWf_putBytes
  exact memWf_putBytes _ _ _ h

/-- The memory of reset is in canonical form. -/
theorem memWf_reset : memWf State.reset.mem.bytes = true := rfl

/-- A byte of memory outside the bytes written keeps its value. -/
theorem tabGet_putBytes_out (bs : List Byte) (m : List Host.Cell) (a x : Nat) (h : x < a ∨ a + bs.length ≤ x) :
    tabGet (0 : Byte) (putBytes m a bs) x = tabGet 0 m x := by
  induction bs generalizing m a with
  | nil => rfl
  | cons b bs ih =>
    simp only [putBytes]
    rw [ih _ _ (by simp at h; omega), tabGet_tabSet_ne]
    simp at h; omega

/-- A byte written is the byte read. -/
theorem tabGet_putBytes_in (bs : List Byte) (m : List Host.Cell) (a k : Nat) (h : k < bs.length) :
    tabGet (0 : Byte) (putBytes m a bs) (a + k) = bs[k] := by
  induction bs generalizing m a k with
  | nil => simp at h
  | cons b bs ih =>
    simp only [putBytes]
    cases k with
    | zero => rw [tabGet_putBytes_out _ _ _ _ (by omega)]; simp
    | succ k =>
      have := ih (tabSet 0 m a b) (a + 1) k (by simpa using h)
      rw [show a + (k + 1) = a + 1 + k by omega, this]; rfl

end Sys2Proof.Machine
end

