-- ==== Sys2Proof/Laws/Ops.lean ====
section
/-!
SUPPORT. What the shared operations of the scalar stream do: an instruction without a defect runs its effect, one with a
defect raises ILL, registers read back what was written, and a result is written as its form or per lane.
-/
namespace Sys2Proof.Machine
open Sys2Proof

/-- An instruction without a defect runs its effect on the acting thread. -/
theorem scalar_run {i : Instr} {s : State} {t : Thread} (k : Thread → Out) (ht : tabFind s.threads s.cur = some t)
    (hi : illSub i = none) : scalar i s k = k t := by simp [scalar, withThr, ht, hi]

/-- An instruction with a defect raises ILL. -/
theorem scalar_ill {i : Instr} {s : State} {t : Thread} {sub : Nat} (k : Thread → Out)
    (ht : tabFind s.threads s.cur = some t) (hi : illSub i = some sub) : scalar i s k = fault s t cILL sub := by
  simp [scalar, withThr, ht, hi]

/-- The same outside a live region. -/
theorem scalarOutside_run {i : Instr} {s : State} {t : Thread} (k : Thread → Out)
    (ht : tabFind s.threads s.cur = some t) (hi : illSub i = none) (hr : inRegion t = false) :
    scalarOutside i s k = k t := by simp [scalarOutside, scalar_run _ ht hi, hr]

/-- An instruction with a defect raises ILL, wherever it may stand. -/
theorem scalarOutside_ill {i : Instr} {s : State} {t : Thread} {sub : Nat} (k : Thread → Out)
    (ht : tabFind s.threads s.cur = some t) (hi : illSub i = some sub) : scalarOutside i s k = fault s t cILL sub :=
  scalar_ill _ ht hi

/-- A destination that is not s0 has no defect. -/
@[simp] theorem zeroDst_of_ne {d : SReg} (h : d ≠ 0) : zeroDst d = none := by
  unfold zeroDst defect
  rw [if_neg (by simpa using h)]

/-- A destination s0 is a defect with sub-cause 5 (R166). -/
@[simp] theorem zeroDst_zero : zeroDst 0 = some 5 := rfl

/-- s0 reads U zero (R166). -/
@[simp] theorem getS_zero (t : Thread) : getS t 0 = .u 0 := rfl

/-- A register reads back what was written to it. -/
theorem getS_setS_self (t : Thread) {d : SReg} (h : d ≠ 0) (v : SVal) : getS (setS t d v) d = v := by
  unfold getS setS
  rw [if_neg h, if_neg h]
  exact tabGet_tabSet_self ..

/-- A write leaves the other registers. -/
theorem getS_setS_ne (t : Thread) {d r : SReg} (h : r ≠ d) (v : SVal) : getS (setS t d v) r = getS t r := by
  unfold getS setS
  split
  · rfl
  · split
    · rfl
    · simp only
      rw [tabGet_tabSet_ne]
      intro e; exact h (BitVec.eq_of_toNat_eq e)

/-- A write to s0 has no effect (R166). -/
@[simp] theorem setS_zero (t : Thread) (v : SVal) : setS t 0 v = t := rfl

/-- A condition reads back what was written to it. -/
theorem getC_setC_self (t : Thread) {k : BitVec 3} (h : k ≠ 7) (v : CVal) : getC (setC t k v) k = v := by
  unfold getC setC
  rw [if_neg h, if_neg h]
  exact tabGet_tabSet_self ..

/-- c7 is U true, and a write leaves it so (R21). -/
@[simp] theorem getC_seven (t : Thread) : getC t 7 = .u true := rfl

/-- Writing a thread makes it the acting one's record. -/
@[simp] theorem find_putThr (s : State) (id : Nat) (t : Thread) : tabFind (putThr s id t).threads id = some t := by
  simp [putThr]

/-- A U operand passes the check of R352. -/
theorem needU_u (s : State) (t : Thread) (w : Word) (k : Word → Out) : needU s t (.u w) k = k w := rfl

/-- A result whose form is known is written as that form. -/
theorem writeForm_some (s : State) (t : Thread) (d : SReg) (n : Nat) (v : SVal) (f : Nat → Item → Word) :
    writeForm s t d n (some v) f = .next (putThr s s.cur (advance (setS t d v) n)) := rfl

/-- An M result in a strand with a row for it: the lanes in `am` take the results, the others keep their values (R34). -/
theorem writeM_run {s : State} {t : Thread} {st : Seat} {d : SReg} (n : Nat) (f : Nat → Item → Word)
    (hs : t.seat = some st) (hr : isM (getS t d) = true ∨ fallRowsUsed t d < (lrecOf s t).fall) :
    writeM s t d n f = .next (putThr s s.cur (advance (setS t d (.m ((List.range 32).map fun L =>
      if laneIn st.am L then f L (slotItem s t st L) else (materialise s t st (getS t d)).getD L 0))) n)) := by
  unfold writeM inStrand
  rw [hs]
  simp only
  rw [if_neg]
  · rfl
  · rcases hr with h | h <;> simp [h]

end Sys2Proof.Machine
end

