-- ==== Sys2Proof/Laws/PerInstr.lean ====
section
/-!
SUPPORT. Laws made of every instruction, one lemma per constructor. RoundTrip: the decoder reads from the words that the
encoder writes for an instruction that instruction, with every operand; a hardware event has no words.
-/
namespace Sys2Proof.Laws
open Sys2Proof

/-- The decoder reads an instruction's encoding back as that instruction. -/
def RoundTrip.Statement (i : Instr) : Prop :=
  (∀ w0 w1, encode i = some [w0] → isSX w0 = false ∧ decodeScalar w0 w1 = .ok i) ∧
  (∀ w0 w1, encode i = some [w0, w1] → isSX w0 = true ∧ decodeScalar w0 w1 = .ok i) ∧
  (∀ w0 w1 w2, encode i = some [w0, w1, w2] → decodeLane (w2 ++ w1 ++ w0) = .ok i)

theorem roundTrip_one {i : Instr} {w : W32} (e : encode i = some [w])
    (h : ∀ w1, isSX w = false ∧ decodeScalar w w1 = .ok i) : RoundTrip.Statement i := by
  refine ⟨fun w0 w1 k => ?_, fun w0 w1 k => ?_, fun w0 w1 w2 k => ?_⟩ <;> rw [e] at k <;> cases k
  exact h w1

theorem roundTrip_two {i : Instr} {w w1 : W32} (e : encode i = some [w, w1])
    (h : isSX w = true ∧ decodeScalar w w1 = .ok i) : RoundTrip.Statement i := by
  refine ⟨fun w0 w1 k => ?_, fun w0 w1 k => ?_, fun w0 w1 w2 k => ?_⟩ <;> rw [e] at k <;> cases k
  exact h

theorem roundTrip_lane {i : Instr} (op : BitVec 10) (f : LaneFields) (e : encode i = some (laneWords op f))
    (h : laneOfOp op.toNat f = .ok i) : RoundTrip.Statement i := by
  refine ⟨fun w0 w1 k => ?_, fun w0 w1 k => ?_, fun w0 w1 w2 k => ?_⟩ <;> rw [e] at k
  · cases k
  · cases k
  · rw [decodeLane_words op f (Option.some.inj k), h]

theorem roundTrip_none {i : Instr} (e : encode i = none) : RoundTrip.Statement i := by
  refine ⟨fun w0 w1 k => ?_, fun w0 w1 k => ?_, fun w0 w1 w2 k => ?_⟩ <;> rw [e] at k <;> cases k

theorem RoundTrip.sadd (d : BitVec 6) (a : BitVec 6) (b : BitVec 6) : RoundTrip.Statement (.sadd d a b) :=
  roundTrip_one rfl (read_sadd d a b)

theorem RoundTrip.ssub (d : BitVec 6) (a : BitVec 6) (b : BitVec 6) : RoundTrip.Statement (.ssub d a b) :=
  roundTrip_one rfl (read_ssub d a b)

theorem RoundTrip.smul (d : BitVec 6) (a : BitVec 6) (b : BitVec 6) : RoundTrip.Statement (.smul d a b) :=
  roundTrip_one rfl (read_smul d a b)

theorem RoundTrip.smulh (d : BitVec 6) (a : BitVec 6) (b : BitVec 6) : RoundTrip.Statement (.smulh d a b) :=
  roundTrip_one rfl (read_smulh d a b)

theorem RoundTrip.smulhn (d : BitVec 6) (a : BitVec 6) (b : BitVec 6) : RoundTrip.Statement (.smulhn d a b) :=
  roundTrip_one rfl (read_smulhn d a b)

theorem RoundTrip.sand (d : BitVec 6) (a : BitVec 6) (b : BitVec 6) : RoundTrip.Statement (.sand d a b) :=
  roundTrip_one rfl (read_sand d a b)

theorem RoundTrip.sor (d : BitVec 6) (a : BitVec 6) (b : BitVec 6) : RoundTrip.Statement (.sor d a b) :=
  roundTrip_one rfl (read_sor d a b)

theorem RoundTrip.sxor (d : BitVec 6) (a : BitVec 6) (b : BitVec 6) : RoundTrip.Statement (.sxor d a b) :=
  roundTrip_one rfl (read_sxor d a b)

theorem RoundTrip.sshl (d : BitVec 6) (a : BitVec 6) (b : BitVec 6) : RoundTrip.Statement (.sshl d a b) :=
  roundTrip_one rfl (read_sshl d a b)

theorem RoundTrip.sshr (d : BitVec 6) (a : BitVec 6) (b : BitVec 6) : RoundTrip.Statement (.sshr d a b) :=
  roundTrip_one rfl (read_sshr d a b)

theorem RoundTrip.ssra (d : BitVec 6) (a : BitVec 6) (b : BitVec 6) : RoundTrip.Statement (.ssra d a b) :=
  roundTrip_one rfl (read_ssra d a b)

theorem RoundTrip.smin (d : BitVec 6) (a : BitVec 6) (b : BitVec 6) : RoundTrip.Statement (.smin d a b) :=
  roundTrip_one rfl (read_smin d a b)

theorem RoundTrip.smax (d : BitVec 6) (a : BitVec 6) (b : BitVec 6) : RoundTrip.Statement (.smax d a b) :=
  roundTrip_one rfl (read_smax d a b)

theorem RoundTrip.sminn (d : BitVec 6) (a : BitVec 6) (b : BitVec 6) : RoundTrip.Statement (.sminn d a b) :=
  roundTrip_one rfl (read_sminn d a b)

theorem RoundTrip.smaxn (d : BitVec 6) (a : BitVec 6) (b : BitVec 6) : RoundTrip.Statement (.smaxn d a b) :=
  roundTrip_one rfl (read_smaxn d a b)

theorem RoundTrip.sdiv (d : BitVec 6) (a : BitVec 6) (b : BitVec 6) : RoundTrip.Statement (.sdiv d a b) :=
  roundTrip_one rfl (read_sdiv d a b)

theorem RoundTrip.sdivn (d : BitVec 6) (a : BitVec 6) (b : BitVec 6) : RoundTrip.Statement (.sdivn d a b) :=
  roundTrip_one rfl (read_sdivn d a b)

theorem RoundTrip.srem (d : BitVec 6) (a : BitVec 6) (b : BitVec 6) : RoundTrip.Statement (.srem d a b) :=
  roundTrip_one rfl (read_srem d a b)

theorem RoundTrip.sremn (d : BitVec 6) (a : BitVec 6) (b : BitVec 6) : RoundTrip.Statement (.sremn d a b) :=
  roundTrip_one rfl (read_sremn d a b)

theorem RoundTrip.sclz (d : BitVec 6) (a : BitVec 6) : RoundTrip.Statement (.sclz d a) :=
  roundTrip_one rfl (read_sclz d a)

theorem RoundTrip.spop (d : BitVec 6) (a : BitVec 6) : RoundTrip.Statement (.spop d a) :=
  roundTrip_one rfl (read_spop d a)

theorem RoundTrip.saffx (d : BitVec 6) (a : BitVec 6) (b : BitVec 6) : RoundTrip.Statement (.saffx d a b) :=
  roundTrip_one rfl (read_saffx d a b)

theorem RoundTrip.saffy (d : BitVec 6) (a : BitVec 6) (b : BitVec 6) : RoundTrip.Statement (.saffy d a b) :=
  roundTrip_one rfl (read_saffy d a b)

theorem RoundTrip.saffz (d : BitVec 6) (a : BitVec 6) (b : BitVec 6) : RoundTrip.Statement (.saffz d a b) :=
  roundTrip_one rfl (read_saffz d a b)

theorem RoundTrip.saddi (d : BitVec 6) (a : BitVec 6) (i : BitVec 14) : RoundTrip.Statement (.saddi d a i) :=
  roundTrip_one rfl (read_saddi d a i)

theorem RoundTrip.sandi (d : BitVec 6) (a : BitVec 6) (i : BitVec 14) : RoundTrip.Statement (.sandi d a i) :=
  roundTrip_one rfl (read_sandi d a i)

theorem RoundTrip.sori (d : BitVec 6) (a : BitVec 6) (i : BitVec 14) : RoundTrip.Statement (.sori d a i) :=
  roundTrip_one rfl (read_sori d a i)

theorem RoundTrip.sxori (d : BitVec 6) (a : BitVec 6) (i : BitVec 14) : RoundTrip.Statement (.sxori d a i) :=
  roundTrip_one rfl (read_sxori d a i)

theorem RoundTrip.sshli (d : BitVec 6) (a : BitVec 6) (i : BitVec 6) : RoundTrip.Statement (.sshli d a i) :=
  roundTrip_one rfl (read_sshli d a i)

theorem RoundTrip.sshri (d : BitVec 6) (a : BitVec 6) (i : BitVec 6) : RoundTrip.Statement (.sshri d a i) :=
  roundTrip_one rfl (read_sshri d a i)

theorem RoundTrip.ssrai (d : BitVec 6) (a : BitVec 6) (i : BitVec 6) : RoundTrip.Statement (.ssrai d a i) :=
  roundTrip_one rfl (read_ssrai d a i)

theorem RoundTrip.smuli (d : BitVec 6) (a : BitVec 6) (i : BitVec 14) : RoundTrip.Statement (.smuli d a i) :=
  roundTrip_one rfl (read_smuli d a i)

theorem RoundTrip.sli (d : BitVec 6) (w : BitVec 32) : RoundTrip.Statement (.sli d w) :=
  roundTrip_two rfl (read_sli d w)

theorem RoundTrip.sliHi (d : BitVec 6) (w : BitVec 32) : RoundTrip.Statement (.sliHi d w) :=
  roundTrip_two rfl (read_sliHi d w)

theorem RoundTrip.scmp (d : BitVec 3) (a : BitVec 6) (b : BitVec 6) (c : BitVec 4) : RoundTrip.Statement (.scmp d a b c) :=
  roundTrip_one rfl (read_scmp d a b c)

theorem RoundTrip.scmpi (c : BitVec 3) (d : BitVec 3) (a : BitVec 6) (i : BitVec 14) : RoundTrip.Statement (.scmpi c d a i) :=
  roundTrip_one rfl (read_scmpi c d a i)

theorem RoundTrip.ssel (d : BitVec 6) (a : BitVec 6) (b : BitVec 6) (n : BitVec 3) : RoundTrip.Statement (.ssel d a b n) :=
  roundTrip_one rfl (read_ssel d a b n)

theorem RoundTrip.copAnd (d : BitVec 3) (a : BitVec 3) (b : BitVec 3) : RoundTrip.Statement (.copAnd d a b) :=
  roundTrip_one rfl (read_copAnd d a b)

theorem RoundTrip.copOr (d : BitVec 3) (a : BitVec 3) (b : BitVec 3) : RoundTrip.Statement (.copOr d a b) :=
  roundTrip_one rfl (read_copOr d a b)

theorem RoundTrip.copXor (d : BitVec 3) (a : BitVec 3) (b : BitVec 3) : RoundTrip.Statement (.copXor d a b) :=
  roundTrip_one rfl (read_copXor d a b)

theorem RoundTrip.copAndn (d : BitVec 3) (a : BitVec 3) (b : BitVec 3) : RoundTrip.Statement (.copAndn d a b) :=
  roundTrip_one rfl (read_copAndn d a b)

theorem RoundTrip.copNot (d : BitVec 3) (a : BitVec 3) : RoundTrip.Statement (.copNot d a) :=
  roundTrip_one rfl (read_copNot d a)

theorem RoundTrip.copSet (d : BitVec 3) : RoundTrip.Statement (.copSet d) :=
  roundTrip_one rfl (read_copSet d)

theorem RoundTrip.copClr (d : BitVec 3) : RoundTrip.Statement (.copClr d) :=
  roundTrip_one rfl (read_copClr d)

theorem RoundTrip.copMov (d : BitVec 3) (a : BitVec 3) : RoundTrip.Statement (.copMov d a) :=
  roundTrip_one rfl (read_copMov d a)

theorem RoundTrip.sform (d : BitVec 6) (a : BitVec 6) (f : BitVec 8) : RoundTrip.Statement (.sform d a f) :=
  roundTrip_one rfl (read_sform d a f)

theorem RoundTrip.sld (d : BitVec 6) (a : BitVec 6) (z : BitVec 2) (g : BitVec 1) (p : BitVec 2) (o : BitVec 9) : RoundTrip.Statement (.sld d a z g p o) :=
  roundTrip_one rfl (read_sld d a z g p o)

theorem RoundTrip.sst (d : BitVec 6) (a : BitVec 6) (z : BitVec 2) (p : BitVec 2) (o : BitVec 9) : RoundTrip.Statement (.sst d a z p o) :=
  roundTrip_one rfl (read_sst d a z p o)

theorem RoundTrip.satom (d : BitVec 6) (a : BitVec 6) (b : BitVec 6) (w : BitVec 1) (s : BitVec 3) (o : BitVec 4) : RoundTrip.Statement (.satom d a b w s o) :=
  roundTrip_one rfl (read_satom d a b w s o)

theorem RoundTrip.cmo (a : BitVec 6) (b : BitVec 6) (l : BitVec 3) (k : BitVec 2) : RoundTrip.Statement (.cmo a b l k) :=
  roundTrip_one rfl (read_cmo a b l k)

theorem RoundTrip.kset (n : BitVec 3) (a : BitVec 6) : RoundTrip.Statement (.kset n a) :=
  roundTrip_one rfl (read_kset n a)

theorem RoundTrip.kget (d : BitVec 6) (a : BitVec 6) : RoundTrip.Statement (.kget d a) :=
  roundTrip_one rfl (read_kget d a)

theorem RoundTrip.kgetSet (d : BitVec 6) (a : BitVec 6) : RoundTrip.Statement (.kgetSet d a) :=
  roundTrip_one rfl (read_kgetSet d a)

theorem RoundTrip.krev (n : BitVec 3) (a : BitVec 6) (b : BitVec 6) : RoundTrip.Statement (.krev n a b) :=
  roundTrip_one rfl (read_krev n a b)

theorem RoundTrip.kdrop (a : BitVec 6) (b : BitVec 6) : RoundTrip.Statement (.kdrop a b) :=
  roundTrip_one rfl (read_kdrop a b)

theorem RoundTrip.barArv (d : BitVec 6) (a : BitVec 6) (b : BitVec 6) : RoundTrip.Statement (.barArv d a b) :=
  roundTrip_one rfl (read_barArv d a b)

theorem RoundTrip.barWt (a : BitVec 6) (b : BitVec 6) : RoundTrip.Statement (.barWt a b) :=
  roundTrip_one rfl (read_barWt a b)

theorem RoundTrip.barArw (a : BitVec 6) (b : BitVec 6) : RoundTrip.Statement (.barArw a b) :=
  roundTrip_one rfl (read_barArw a b)

theorem RoundTrip.barInit (a : BitVec 6) (b : BitVec 6) : RoundTrip.Statement (.barInit a b) :=
  roundTrip_one rfl (read_barInit a b)

theorem RoundTrip.hbarArv (d : BitVec 6) (l : BitVec 3) : RoundTrip.Statement (.hbarArv d l) :=
  roundTrip_one rfl (read_hbarArv d l)

theorem RoundTrip.hbarWt (a : BitVec 6) (l : BitVec 3) : RoundTrip.Statement (.hbarWt a l) :=
  roundTrip_one rfl (read_hbarWt a l)

theorem RoundTrip.hbarArw (l : BitVec 3) : RoundTrip.Statement (.hbarArw l) :=
  roundTrip_one rfl (read_hbarArw l)

theorem RoundTrip.fence (k : BitVec 2) (s : BitVec 3) : RoundTrip.Statement (.fence k s) :=
  roundTrip_one rfl (read_fence k s)

theorem RoundTrip.br (c : BitVec 3) (n : BitVec 1) (o : BitVec 22) : RoundTrip.Statement (.br c n o) :=
  roundTrip_one rfl (read_br c n o)

theorem RoundTrip.call (c : BitVec 3) (n : BitVec 1) (o : BitVec 22) : RoundTrip.Statement (.call c n o) :=
  roundTrip_one rfl (read_call c n o)

theorem RoundTrip.jmp (a : BitVec 6) : RoundTrip.Statement (.jmp a) :=
  roundTrip_one rfl (read_jmp a)

theorem RoundTrip.ret : RoundTrip.Statement (.ret) :=
  roundTrip_one rfl (read_ret)

theorem RoundTrip.lx (w : BitVec 32) : RoundTrip.Statement (.lx w) :=
  roundTrip_two rfl (read_lx w)

theorem RoundTrip.exit : RoundTrip.Statement (.exit) :=
  roundTrip_one rfl (read_exit)

theorem RoundTrip.wait (a : BitVec 6) (p : BitVec 2) : RoundTrip.Statement (.wait a p) :=
  roundTrip_one rfl (read_wait a p)

theorem RoundTrip.trapf : RoundTrip.Statement (.trapf) :=
  roundTrip_one rfl (read_trapf)

theorem RoundTrip.jtok (o : BitVec 21) : RoundTrip.Statement (.jtok o) :=
  roundTrip_one rfl (read_jtok o)

theorem RoundTrip.dvg (k : BitVec 3) (s : BitVec 1) (n : BitVec 1) (o : BitVec 21) : RoundTrip.Statement (.dvg k s n o) :=
  roundTrip_one rfl (read_dvg k s n o)

theorem RoundTrip.nxt : RoundTrip.Statement (.nxt) :=
  roundTrip_one rfl (read_nxt)

theorem RoundTrip.lpb (o : BitVec 21) : RoundTrip.Statement (.lpb o) :=
  roundTrip_one rfl (read_lpb o)

theorem RoundTrip.lpe (k : BitVec 3) (s : BitVec 1) (n : BitVec 1) (o : BitVec 21) : RoundTrip.Statement (.lpe k s n o) :=
  roundTrip_one rfl (read_lpe k s n o)

theorem RoundTrip.brk (k : BitVec 3) (s : BitVec 1) (n : BitVec 1) : RoundTrip.Statement (.brk k s n) :=
  roundTrip_one rfl (read_brk k s n)

theorem RoundTrip.seat : RoundTrip.Statement (.seat) :=
  roundTrip_one rfl (read_seat)

theorem RoundTrip.unseat : RoundTrip.Statement (.unseat) :=
  roundTrip_one rfl (read_unseat)

theorem RoundTrip.sjoin (w : BitVec 11) : RoundTrip.Statement (.sjoin w) :=
  roundTrip_one rfl (read_sjoin w)

theorem RoundTrip.qfence (q : BitVec 3) : RoundTrip.Statement (.qfence q) :=
  roundTrip_one rfl (read_qfence q)

theorem RoundTrip.snooze (a : BitVec 6) : RoundTrip.Statement (.snooze a) :=
  roundTrip_one rfl (read_snooze a)

theorem RoundTrip.snoozeAbs (a : BitVec 6) : RoundTrip.Statement (.snoozeAbs a) :=
  roundTrip_one rfl (read_snoozeAbs a)

theorem RoundTrip.mma (d : BitVec 6) (a : BitVec 6) (b : BitVec 6) (f : BitVec 7) : RoundTrip.Statement (.mma d a b f) :=
  roundTrip_one rfl (read_mma d a b f)

theorem RoundTrip.mgath (d : BitVec 6) (a : BitVec 6) (b : BitVec 6) (f : BitVec 7) : RoundTrip.Statement (.mgath d a b f) :=
  roundTrip_one rfl (read_mgath d a b f)

theorem RoundTrip.mzero (d : BitVec 3) (f : BitVec 1) : RoundTrip.Statement (.mzero d f) :=
  roundTrip_one rfl (read_mzero d f)

theorem RoundTrip.mdrain (d : BitVec 3) (a : BitVec 6) (f : BitVec 6) : RoundTrip.Statement (.mdrain d a f) :=
  roundTrip_one rfl (read_mdrain d a f)

theorem RoundTrip.mcommit (d : BitVec 3) (n : BitVec 1) : RoundTrip.Statement (.mcommit d n) :=
  roundTrip_one rfl (read_mcommit d n)

theorem RoundTrip.mfence (a : BitVec 6) : RoundTrip.Statement (.mfence a) :=
  roundTrip_one rfl (read_mfence a)

theorem RoundTrip.mwait (d : BitVec 6) (a : BitVec 6) : RoundTrip.Statement (.mwait d a) :=
  roundTrip_one rfl (read_mwait d a)

theorem RoundTrip.cpy (n : BitVec 3) (a : BitVec 6) (b : BitVec 6) (f : BitVec 4) : RoundTrip.Statement (.cpy n a b f) :=
  roundTrip_one rfl (read_cpy n a b f)

theorem RoundTrip.coll (a : BitVec 6) (s : BitVec 2) (t : BitVec 3) (o : BitVec 2) : RoundTrip.Statement (.coll a s t o) :=
  roundTrip_one rfl (read_coll a s t o)

theorem RoundTrip.rbeg (o : BitVec 18) : RoundTrip.Statement (.rbeg o) :=
  roundTrip_one rfl (read_rbeg o)

theorem RoundTrip.rbegStrict (o : BitVec 18) : RoundTrip.Statement (.rbegStrict o) :=
  roundTrip_one rfl (read_rbegStrict o)

theorem RoundTrip.rend : RoundTrip.Statement (.rend) :=
  roundTrip_one rfl (read_rend)

theorem RoundTrip.rabt (u : BitVec 8) : RoundTrip.Statement (.rabt u) :=
  roundTrip_one rfl (read_rabt u)

theorem RoundTrip.rnarLo (d : BitVec 6) : RoundTrip.Statement (.rnarLo d) :=
  roundTrip_one rfl (read_rnarLo d)

theorem RoundTrip.rnarHi (d : BitVec 6) : RoundTrip.Statement (.rnarHi d) :=
  roundTrip_one rfl (read_rnarHi d)

theorem RoundTrip.rnarNarrow (a : BitVec 6) (b : BitVec 6) : RoundTrip.Statement (.rnarNarrow a b) :=
  roundTrip_one rfl (read_rnarNarrow a b)

theorem RoundTrip.nop : RoundTrip.Statement (.nop) :=
  roundTrip_one rfl (read_nop)

theorem RoundTrip.trap (n : BitVec 6) : RoundTrip.Statement (.trap n) :=
  roundTrip_one rfl (read_trap n)

theorem RoundTrip.srd (d : BitVec 6) (r : BitVec 6) : RoundTrip.Statement (.srd d r) :=
  roundTrip_one rfl (read_srd d r)

theorem RoundTrip.swr (r : BitVec 6) (b : BitVec 6) : RoundTrip.Statement (.swr r b) :=
  roundTrip_one rfl (read_swr r b)

theorem RoundTrip.dlaunch (d : BitVec 6) (a : BitVec 6) (b : BitVec 6) : RoundTrip.Statement (.dlaunch d a b) :=
  roundTrip_one rfl (read_dlaunch d a b)

theorem RoundTrip.iadd (f : LaneFields) : RoundTrip.Statement (.iadd f) :=
  roundTrip_lane 0x000#10 f rfl rfl

theorem RoundTrip.isub (f : LaneFields) : RoundTrip.Statement (.isub f) :=
  roundTrip_lane 0x001#10 f rfl rfl

theorem RoundTrip.imul (f : LaneFields) : RoundTrip.Statement (.imul f) :=
  roundTrip_lane 0x002#10 f rfl rfl

theorem RoundTrip.imulh (f : LaneFields) : RoundTrip.Statement (.imulh f) :=
  roundTrip_lane 0x003#10 f rfl rfl

theorem RoundTrip.imad (f : LaneFields) : RoundTrip.Statement (.imad f) :=
  roundTrip_lane 0x004#10 f rfl rfl

theorem RoundTrip.iabs (f : LaneFields) : RoundTrip.Statement (.iabs f) :=
  roundTrip_lane 0x005#10 f rfl rfl

theorem RoundTrip.ineg (f : LaneFields) : RoundTrip.Statement (.ineg f) :=
  roundTrip_lane 0x006#10 f rfl rfl

theorem RoundTrip.imin (f : LaneFields) : RoundTrip.Statement (.imin f) :=
  roundTrip_lane 0x007#10 f rfl rfl

theorem RoundTrip.imax (f : LaneFields) : RoundTrip.Statement (.imax f) :=
  roundTrip_lane 0x008#10 f rfl rfl

theorem RoundTrip.land (f : LaneFields) : RoundTrip.Statement (.land f) :=
  roundTrip_lane 0x009#10 f rfl rfl

theorem RoundTrip.lor (f : LaneFields) : RoundTrip.Statement (.lor f) :=
  roundTrip_lane 0x00A#10 f rfl rfl

theorem RoundTrip.lxor (f : LaneFields) : RoundTrip.Statement (.lxor f) :=
  roundTrip_lane 0x00B#10 f rfl rfl

theorem RoundTrip.lnot (f : LaneFields) : RoundTrip.Statement (.lnot f) :=
  roundTrip_lane 0x00C#10 f rfl rfl

theorem RoundTrip.andn (f : LaneFields) : RoundTrip.Statement (.andn f) :=
  roundTrip_lane 0x00D#10 f rfl rfl

theorem RoundTrip.shl (f : LaneFields) : RoundTrip.Statement (.shl f) :=
  roundTrip_lane 0x00E#10 f rfl rfl

theorem RoundTrip.shr (f : LaneFields) : RoundTrip.Statement (.shr f) :=
  roundTrip_lane 0x00F#10 f rfl rfl

theorem RoundTrip.sra (f : LaneFields) : RoundTrip.Statement (.sra f) :=
  roundTrip_lane 0x010#10 f rfl rfl

theorem RoundTrip.rotl (f : LaneFields) : RoundTrip.Statement (.rotl f) :=
  roundTrip_lane 0x011#10 f rfl rfl

theorem RoundTrip.bfx (f : LaneFields) : RoundTrip.Statement (.bfx f) :=
  roundTrip_lane 0x012#10 f rfl rfl

theorem RoundTrip.bfi (f : LaneFields) : RoundTrip.Statement (.bfi f) :=
  roundTrip_lane 0x013#10 f rfl rfl

theorem RoundTrip.clz (f : LaneFields) : RoundTrip.Statement (.clz f) :=
  roundTrip_lane 0x014#10 f rfl rfl

theorem RoundTrip.popc (f : LaneFields) : RoundTrip.Statement (.popc f) :=
  roundTrip_lane 0x015#10 f rfl rfl

theorem RoundTrip.brev (f : LaneFields) : RoundTrip.Statement (.brev f) :=
  roundTrip_lane 0x016#10 f rfl rfl

theorem RoundTrip.icmp (f : LaneFields) : RoundTrip.Statement (.icmp f) :=
  roundTrip_lane 0x017#10 f rfl rfl

theorem RoundTrip.sel (f : LaneFields) : RoundTrip.Statement (.sel f) :=
  roundTrip_lane 0x018#10 f rfl rfl

theorem RoundTrip.dot4 (f : LaneFields) : RoundTrip.Statement (.dot4 f) :=
  roundTrip_lane 0x019#10 f rfl rfl

theorem RoundTrip.fadd (f : LaneFields) : RoundTrip.Statement (.fadd f) :=
  roundTrip_lane 0x040#10 f rfl rfl

theorem RoundTrip.fsub (f : LaneFields) : RoundTrip.Statement (.fsub f) :=
  roundTrip_lane 0x041#10 f rfl rfl

theorem RoundTrip.fmul (f : LaneFields) : RoundTrip.Statement (.fmul f) :=
  roundTrip_lane 0x042#10 f rfl rfl

theorem RoundTrip.ffma (f : LaneFields) : RoundTrip.Statement (.ffma f) :=
  roundTrip_lane 0x043#10 f rfl rfl

theorem RoundTrip.fmin (f : LaneFields) : RoundTrip.Statement (.fmin f) :=
  roundTrip_lane 0x044#10 f rfl rfl

theorem RoundTrip.fmax (f : LaneFields) : RoundTrip.Statement (.fmax f) :=
  roundTrip_lane 0x045#10 f rfl rfl

theorem RoundTrip.fabs (f : LaneFields) : RoundTrip.Statement (.fabs f) :=
  roundTrip_lane 0x046#10 f rfl rfl

theorem RoundTrip.fneg (f : LaneFields) : RoundTrip.Statement (.fneg f) :=
  roundTrip_lane 0x047#10 f rfl rfl

theorem RoundTrip.fcmp (f : LaneFields) : RoundTrip.Statement (.fcmp f) :=
  roundTrip_lane 0x048#10 f rfl rfl

theorem RoundTrip.frcp (f : LaneFields) : RoundTrip.Statement (.frcp f) :=
  roundTrip_lane 0x049#10 f rfl rfl

theorem RoundTrip.frsq (f : LaneFields) : RoundTrip.Statement (.frsq f) :=
  roundTrip_lane 0x04A#10 f rfl rfl

theorem RoundTrip.fsqrt (f : LaneFields) : RoundTrip.Statement (.fsqrt f) :=
  roundTrip_lane 0x04B#10 f rfl rfl

theorem RoundTrip.fdiv (f : LaneFields) : RoundTrip.Statement (.fdiv f) :=
  roundTrip_lane 0x04C#10 f rfl rfl

theorem RoundTrip.fex2 (f : LaneFields) : RoundTrip.Statement (.fex2 f) :=
  roundTrip_lane 0x04D#10 f rfl rfl

theorem RoundTrip.flg2 (f : LaneFields) : RoundTrip.Statement (.flg2 f) :=
  roundTrip_lane 0x04E#10 f rfl rfl

theorem RoundTrip.fsin (f : LaneFields) : RoundTrip.Statement (.fsin f) :=
  roundTrip_lane 0x04F#10 f rfl rfl

theorem RoundTrip.fcos (f : LaneFields) : RoundTrip.Statement (.fcos f) :=
  roundTrip_lane 0x050#10 f rfl rfl

theorem RoundTrip.fclass (f : LaneFields) : RoundTrip.Statement (.fclass f) :=
  roundTrip_lane 0x051#10 f rfl rfl

theorem RoundTrip.fcpsgn (f : LaneFields) : RoundTrip.Statement (.fcpsgn f) :=
  roundTrip_lane 0x052#10 f rfl rfl

theorem RoundTrip.ftrunc (f : LaneFields) : RoundTrip.Statement (.ftrunc f) :=
  roundTrip_lane 0x053#10 f rfl rfl

theorem RoundTrip.fldx (f : LaneFields) : RoundTrip.Statement (.fldx f) :=
  roundTrip_lane 0x054#10 f rfl rfl

theorem RoundTrip.mov (f : LaneFields) : RoundTrip.Statement (.mov f) :=
  roundTrip_lane 0x080#10 f rfl rfl

theorem RoundTrip.movi (f : LaneFields) : RoundTrip.Statement (.movi f) :=
  roundTrip_lane 0x081#10 f rfl rfl

theorem RoundTrip.cvt (f : LaneFields) : RoundTrip.Statement (.cvt f) :=
  roundTrip_lane 0x082#10 f rfl rfl

theorem RoundTrip.pack2 (f : LaneFields) : RoundTrip.Statement (.pack2 f) :=
  roundTrip_lane 0x083#10 f rfl rfl

theorem RoundTrip.unpk (f : LaneFields) : RoundTrip.Statement (.unpk f) :=
  roundTrip_lane 0x084#10 f rfl rfl

theorem RoundTrip.tdec (f : LaneFields) : RoundTrip.Statement (.tdec f) :=
  roundTrip_lane 0x085#10 f rfl rfl

theorem RoundTrip.tenc (f : LaneFields) : RoundTrip.Statement (.tenc f) :=
  roundTrip_lane 0x086#10 f rfl rfl

theorem RoundTrip.lea (f : LaneFields) : RoundTrip.Statement (.lea f) :=
  roundTrip_lane 0x087#10 f rfl rfl

theorem RoundTrip.pset (f : LaneFields) : RoundTrip.Statement (.pset f) :=
  roundTrip_lane 0x0C0#10 f rfl rfl

theorem RoundTrip.pmov (f : LaneFields) : RoundTrip.Statement (.pmov f) :=
  roundTrip_lane 0x0C1#10 f rfl rfl

theorem RoundTrip.shfl (f : LaneFields) : RoundTrip.Statement (.shfl f) :=
  roundTrip_lane 0x0C2#10 f rfl rfl

theorem RoundTrip.bcast (f : LaneFields) : RoundTrip.Statement (.bcast f) :=
  roundTrip_lane 0x0C3#10 f rfl rfl

theorem RoundTrip.vote (f : LaneFields) : RoundTrip.Statement (.vote f) :=
  roundTrip_lane 0x0C4#10 f rfl rfl

theorem RoundTrip.redx (f : LaneFields) : RoundTrip.Statement (.redx f) :=
  roundTrip_lane 0x0C5#10 f rfl rfl

theorem RoundTrip.scan (f : LaneFields) : RoundTrip.Statement (.scan f) :=
  roundTrip_lane 0x0C6#10 f rfl rfl

theorem RoundTrip.firstLane (f : LaneFields) : RoundTrip.Statement (.firstLane f) :=
  roundTrip_lane 0x0C7#10 f rfl rfl

theorem RoundTrip.perm (f : LaneFields) : RoundTrip.Statement (.perm f) :=
  roundTrip_lane 0x0C8#10 f rfl rfl

theorem RoundTrip.cmpx (f : LaneFields) : RoundTrip.Statement (.cmpx f) :=
  roundTrip_lane 0x0C9#10 f rfl rfl

theorem RoundTrip.ld (f : LaneFields) : RoundTrip.Statement (.ld f) :=
  roundTrip_lane 0x100#10 f rfl rfl

theorem RoundTrip.st (f : LaneFields) : RoundTrip.Statement (.st f) :=
  roundTrip_lane 0x101#10 f rfl rfl

theorem RoundTrip.stk (f : LaneFields) : RoundTrip.Statement (.stk f) :=
  roundTrip_lane 0x102#10 f rfl rfl

theorem RoundTrip.prf (f : LaneFields) : RoundTrip.Statement (.prf f) :=
  roundTrip_lane 0x103#10 f rfl rfl

theorem RoundTrip.atom (f : LaneFields) : RoundTrip.Statement (.atom f) :=
  roundTrip_lane 0x140#10 f rfl rfl

theorem RoundTrip.red (f : LaneFields) : RoundTrip.Statement (.red f) :=
  roundTrip_lane 0x141#10 f rfl rfl

theorem RoundTrip.cas (f : LaneFields) : RoundTrip.Statement (.cas f) :=
  roundTrip_lane 0x142#10 f rfl rfl

theorem RoundTrip.cacc (f : LaneFields) : RoundTrip.Statement (.cacc f) :=
  roundTrip_lane 0x143#10 f rfl rfl

theorem RoundTrip.xset (f : LaneFields) : RoundTrip.Statement (.xset f) :=
  roundTrip_lane 0x180#10 f rfl rfl

theorem RoundTrip.xadd (f : LaneFields) : RoundTrip.Statement (.xadd f) :=
  roundTrip_lane 0x181#10 f rfl rfl

theorem RoundTrip.xget (f : LaneFields) : RoundTrip.Statement (.xget f) :=
  roundTrip_lane 0x182#10 f rfl rfl

theorem RoundTrip.locateFault (op : Nat) (lane : Nat) : RoundTrip.Statement (.locateFault op lane) :=
  roundTrip_none rfl

theorem RoundTrip.locateResolve (op : Nat) : RoundTrip.Statement (.locateResolve op) :=
  roundTrip_none rfl

theorem RoundTrip.partialHandover (k : Nat) : RoundTrip.Statement (.partialHandover k) :=
  roundTrip_none rfl

theorem RoundTrip.tileSeat (th : Nat) (tile : Nat) : RoundTrip.Statement (.tileSeat th tile) :=
  roundTrip_none rfl

theorem RoundTrip.placementTimeout (th : Nat) (tile : Nat) : RoundTrip.Statement (.placementTimeout th tile) :=
  roundTrip_none rfl

theorem RoundTrip.workgroupEnd (wg : Nat) : RoundTrip.Statement (.workgroupEnd wg) :=
  roundTrip_none rfl

theorem RoundTrip.strandSlotFree (th : Nat) : RoundTrip.Statement (.strandSlotFree th) :=
  roundTrip_none rfl

theorem RoundTrip.agingSwap (core : Nat) (part : Nat) : RoundTrip.Statement (.agingSwap core part) :=
  roundTrip_none rfl

theorem RoundTrip.stallSwap (th : Nat) : RoundTrip.Statement (.stallSwap th) :=
  roundTrip_none rfl

theorem RoundTrip.hangDetected (ctx : Nat) : RoundTrip.Statement (.hangDetected ctx) :=
  roundTrip_none rfl

theorem RoundTrip.sjoinWindowExpiry (th : Nat) : RoundTrip.Statement (.sjoinWindowExpiry th) :=
  roundTrip_none rfl

theorem RoundTrip.snoozeExpiry (th : Nat) : RoundTrip.Statement (.snoozeExpiry th) :=
  roundTrip_none rfl

theorem RoundTrip.fenceComplete (th : Nat) : RoundTrip.Statement (.fenceComplete th) :=
  roundTrip_none rfl

theorem RoundTrip.waitComplete (th : Nat) : RoundTrip.Statement (.waitComplete th) :=
  roundTrip_none rfl

theorem RoundTrip.mwaitComplete (th : Nat) : RoundTrip.Statement (.mwaitComplete th) :=
  roundTrip_none rfl

theorem RoundTrip.barReleaseWake (th : Nat) : RoundTrip.Statement (.barReleaseWake th) :=
  roundTrip_none rfl

theorem RoundTrip.hbarRelease (th : Nat) : RoundTrip.Statement (.hbarRelease th) :=
  roundTrip_none rfl

theorem RoundTrip.dlaunchStatus (th : Nat) : RoundTrip.Statement (.dlaunchStatus th) :=
  roundTrip_none rfl

theorem RoundTrip.rbegOpen (th : Nat) : RoundTrip.Statement (.rbegOpen th) :=
  roundTrip_none rfl

theorem RoundTrip.loadReturn (op : Nat) : RoundTrip.Statement (.loadReturn op) :=
  roundTrip_none rfl

theorem RoundTrip.storeAck (op : Nat) : RoundTrip.Statement (.storeAck op) :=
  roundTrip_none rfl

theorem RoundTrip.atomicReturn (op : Nat) : RoundTrip.Statement (.atomicReturn op) :=
  roundTrip_none rfl

theorem RoundTrip.leaseExpiry (k : Nat) : RoundTrip.Statement (.leaseExpiry k) :=
  roundTrip_none rfl

theorem RoundTrip.streamTimeout (k : Nat) : RoundTrip.Statement (.streamTimeout k) :=
  roundTrip_none rfl

theorem RoundTrip.regionSliceAccess (op : Nat) (lane : Nat) : RoundTrip.Statement (.regionSliceAccess op lane) :=
  roundTrip_none rfl

theorem RoundTrip.nonregionSliceAccess (op : Nat) (lane : Nat) (src : Nat) : RoundTrip.Statement (.nonregionSliceAccess op lane src) :=
  roundTrip_none rfl

theorem RoundTrip.crossDieRegionHold (op : Nat) (lane : Nat) : RoundTrip.Statement (.crossDieRegionHold op lane) :=
  roundTrip_none rfl

theorem RoundTrip.regionRaiseLo (k : Nat) : RoundTrip.Statement (.regionRaiseLo k) :=
  roundTrip_none rfl

theorem RoundTrip.regionLowerHi (k : Nat) : RoundTrip.Statement (.regionLowerHi k) :=
  roundTrip_none rfl

theorem RoundTrip.regionAbortMessage (rg : Nat) (line : Nat) : RoundTrip.Statement (.regionAbortMessage rg line) :=
  roundTrip_none rfl

theorem RoundTrip.regionAbortDone (rg : Nat) : RoundTrip.Statement (.regionAbortDone rg) :=
  roundTrip_none rfl

theorem RoundTrip.regionFreeze (rg : Nat) (line : Nat) : RoundTrip.Statement (.regionFreeze rg line) :=
  roundTrip_none rfl

theorem RoundTrip.regionFreezeDone (rg : Nat) : RoundTrip.Statement (.regionFreezeDone rg) :=
  roundTrip_none rfl

theorem RoundTrip.regionFinalPosition (rg : Nat) (line : Nat) : RoundTrip.Statement (.regionFinalPosition rg line) :=
  roundTrip_none rfl

theorem RoundTrip.regionCommitDone (rg : Nat) : RoundTrip.Statement (.regionCommitDone rg) :=
  roundTrip_none rfl

theorem RoundTrip.dirEviction (die : Nat) (line : Nat) : RoundTrip.Statement (.dirEviction die line) :=
  roundTrip_none rfl

theorem RoundTrip.homeRecall (line : Nat) : RoundTrip.Statement (.homeRecall line) :=
  roundTrip_none rfl

theorem RoundTrip.translationInvalidation (k : Nat) : RoundTrip.Statement (.translationInvalidation k) :=
  roundTrip_none rfl

theorem RoundTrip.dirRebuild (line : Nat) : RoundTrip.Statement (.dirRebuild line) :=
  roundTrip_none rfl

theorem RoundTrip.dieProbeTimeout (die : Nat) : RoundTrip.Statement (.dieProbeTimeout die) :=
  roundTrip_none rfl

theorem RoundTrip.remotePackageTimeout (pkg : Nat) : RoundTrip.Statement (.remotePackageTimeout pkg) :=
  roundTrip_none rfl

theorem RoundTrip.heldAccessTimeout (op : Nat) (lane : Nat) : RoundTrip.Statement (.heldAccessTimeout op lane) :=
  roundTrip_none rfl

theorem RoundTrip.relockEnd (die : Nat) : RoundTrip.Statement (.relockEnd die) :=
  roundTrip_none rfl

theorem RoundTrip.faultRecordWrite (ctx : Nat) : RoundTrip.Statement (.faultRecordWrite ctx) :=
  roundTrip_none rfl

theorem RoundTrip.preemptStart (ctx : Nat) : RoundTrip.Statement (.preemptStart ctx) :=
  roundTrip_none rfl

theorem RoundTrip.drainComplete (ctx : Nat) : RoundTrip.Statement (.drainComplete ctx) :=
  roundTrip_none rfl

theorem RoundTrip.drainDeadline (ctx : Nat) : RoundTrip.Statement (.drainDeadline ctx) :=
  roundTrip_none rfl

theorem RoundTrip.resetDeadline (ctx : Nat) : RoundTrip.Statement (.resetDeadline ctx) :=
  roundTrip_none rfl

theorem RoundTrip.scanOut (ctx : Nat) (core : Nat) : RoundTrip.Statement (.scanOut ctx core) :=
  roundTrip_none rfl

theorem RoundTrip.contextResume (ctx : Nat) : RoundTrip.Statement (.contextResume ctx) :=
  roundTrip_none rfl

theorem RoundTrip.launchEntry (ctx : Nat) (q : Nat) : RoundTrip.Statement (.launchEntry ctx q) :=
  roundTrip_none rfl

theorem RoundTrip.krevEntry (ctx : Nat) (q : Nat) : RoundTrip.Statement (.krevEntry ctx q) :=
  roundTrip_none rfl

theorem RoundTrip.kdropEntry (ctx : Nat) (q : Nat) : RoundTrip.Statement (.kdropEntry ctx q) :=
  roundTrip_none rfl

theorem RoundTrip.waitEntry (ctx : Nat) (q : Nat) : RoundTrip.Statement (.waitEntry ctx q) :=
  roundTrip_none rfl

theorem RoundTrip.queueEntryComplete (entry : Nat) : RoundTrip.Statement (.queueEntryComplete entry) :=
  roundTrip_none rfl

theorem RoundTrip.launchComplete (la : Nat) : RoundTrip.Statement (.launchComplete la) :=
  roundTrip_none rfl

theorem RoundTrip.engineOpStart (eop : Nat) : RoundTrip.Statement (.engineOpStart eop) :=
  roundTrip_none rfl

theorem RoundTrip.engineOpComplete (eop : Nat) : RoundTrip.Statement (.engineOpComplete eop) :=
  roundTrip_none rfl

theorem RoundTrip.chunkEnd (eop : Nat) : RoundTrip.Statement (.chunkEnd eop) :=
  roundTrip_none rfl

theorem RoundTrip.batchComplete (th : Nat) (num : Nat) : RoundTrip.Statement (.batchComplete th num) :=
  roundTrip_none rfl

theorem RoundTrip.copyComplete (eop : Nat) : RoundTrip.Statement (.copyComplete eop) :=
  roundTrip_none rfl

theorem RoundTrip.collComplete (eop : Nat) : RoundTrip.Statement (.collComplete eop) :=
  roundTrip_none rfl

theorem RoundTrip.resumeReplay (ctx : Nat) (v : BitVec 64) : RoundTrip.Statement (.resumeReplay ctx v) :=
  roundTrip_none rfl

theorem RoundTrip.resumeContinue (ctx : Nat) (v : BitVec 64) : RoundTrip.Statement (.resumeContinue ctx v) :=
  roundTrip_none rfl

theorem RoundTrip.resumeEnd (ctx : Nat) (v : BitVec 64) : RoundTrip.Statement (.resumeEnd ctx v) :=
  roundTrip_none rfl

theorem RoundTrip.fqhead (ctx : Nat) (v : BitVec 64) : RoundTrip.Statement (.fqhead ctx v) :=
  roundTrip_none rfl

theorem RoundTrip.preqDrain (ctx : Nat) : RoundTrip.Statement (.preqDrain ctx) :=
  roundTrip_none rfl

theorem RoundTrip.preqFreeze (ctx : Nat) : RoundTrip.Statement (.preqFreeze ctx) :=
  roundTrip_none rfl

theorem RoundTrip.preqReset (ctx : Nat) : RoundTrip.Statement (.preqReset ctx) :=
  roundTrip_none rfl

theorem RoundTrip.saveArea (ctx : Nat) (base : BitVec 64) (len : BitVec 64) : RoundTrip.Statement (.saveArea ctx base len) :=
  roundTrip_none rfl

theorem RoundTrip.doorbell (ctx : Nat) (v : BitVec 64) : RoundTrip.Statement (.doorbell ctx v) :=
  roundTrip_none rfl

theorem RoundTrip.keySlotLoad (k : Nat) : RoundTrip.Statement (.keySlotLoad k) :=
  roundTrip_none rfl

theorem RoundTrip.keySlotErase (k : Nat) : RoundTrip.Statement (.keySlotErase k) :=
  roundTrip_none rfl

theorem RoundTrip.attestationRequest (nonce : BitVec 256) : RoundTrip.Statement (.attestationRequest nonce) :=
  roundTrip_none rfl

theorem RoundTrip.registerWrite (reg : Nat) (v : BitVec 256) : RoundTrip.Statement (.registerWrite reg v) :=
  roundTrip_none rfl

theorem RoundTrip.hostAccess (wr : BitVec 1) (addr : Nat) (n : Nat) (v : BitVec 64) : RoundTrip.Statement (.hostAccess wr addr n v) :=
  roundTrip_none rfl

theorem RoundTrip.remotePackageRequest (pkg : Nat) (line : Nat) (own : BitVec 1) : RoundTrip.Statement (.remotePackageRequest pkg line own) :=
  roundTrip_none rfl

theorem RoundTrip.replayTimerExpiry (link : Nat) : RoundTrip.Statement (.replayTimerExpiry link) :=
  roundTrip_none rfl

theorem RoundTrip.flitCrcFail (link : Nat) : RoundTrip.Statement (.flitCrcFail link) :=
  roundTrip_none rfl

theorem RoundTrip.linkDown (link : Nat) : RoundTrip.Statement (.linkDown link) :=
  roundTrip_none rfl

theorem RoundTrip.linkRetrain (link : Nat) : RoundTrip.Statement (.linkRetrain link) :=
  roundTrip_none rfl

theorem RoundTrip.recoverGo (v : BitVec 1) : RoundTrip.Statement (.recoverGo v) :=
  roundTrip_none rfl

theorem RoundTrip.rasfail (v : BitVec 64) : RoundTrip.Statement (.rasfail v) :=
  roundTrip_none rfl

theorem RoundTrip.salvctl (v : BitVec 64) : RoundTrip.Statement (.salvctl v) :=
  roundTrip_none rfl

theorem RoundTrip.partrst (v : BitVec 64) : RoundTrip.Statement (.partrst v) :=
  roundTrip_none rfl

theorem RoundTrip.diepsTarget (die : Nat) (v : BitVec 2) : RoundTrip.Statement (.diepsTarget die v) :=
  roundTrip_none rfl

theorem RoundTrip.recoveryImage (k : Nat) : RoundTrip.Statement (.recoveryImage k) :=
  roundTrip_none rfl

theorem RoundTrip.memoryDieFailed (m : Nat) : RoundTrip.Statement (.memoryDieFailed m) :=
  roundTrip_none rfl

theorem RoundTrip.dirReadRequest (die : Nat) (line : Nat) : RoundTrip.Statement (.dirReadRequest die line) :=
  roundTrip_none rfl

theorem RoundTrip.dirOwnershipRequest (die : Nat) (line : Nat) : RoundTrip.Statement (.dirOwnershipRequest die line) :=
  roundTrip_none rfl

theorem RoundTrip.remoteOwnership (die : Nat) (line : Nat) : RoundTrip.Statement (.remoteOwnership die line) :=
  roundTrip_none rfl

theorem RoundTrip.powerOn : RoundTrip.Statement (.powerOn) :=
  roundTrip_none rfl

theorem RoundTrip.bootStage : RoundTrip.Statement (.bootStage) :=
  roundTrip_none rfl

theorem RoundTrip.pairResetDone : RoundTrip.Statement (.pairResetDone) :=
  roundTrip_none rfl

end Sys2Proof.Laws
end

