-- ==== Sys2Proof/Tests/Slice0.lean ====
section
/-!
SUPPORT. Tests: the checks of WellFormed, words of the manual's encodings,
  one step on small states with results worked out
from the manual, and for each statement of Certificates a state that meets the hypotheses of each of its clauses.
-/
namespace Sys2Proof.Machine
open Sys2Proof

-- One thread elaborates these: the proofs evaluate many small states, and side by side they would not fit in memory.
set_option Elab.async false

theorem test_reset_memory : memWf State.reset.mem.bytes = true := rfl

/-! ### Small states -/

/-- The strand of a placed instruction, number 3, with one item. -/
def tStrand : Thread := placedThread 1 1 2 false

/-- Its seat. -/
def tSeat : Seat := tStrand.seat.get rfl

/-- The same thread as a span. -/
def tSpan : Thread := { tStrand with seat := none }

/-- A state with one thread, number 3, in which that thread acts. -/
def tSt (t : Thread) : State := { State.reset.withFetchWord 32 0 with threads := [(3, t)], cur := 3, agenda := [] }

/-- The same with another launch record. -/
def tStL (t : Thread) (f : LaunchRec → LaunchRec) : State :=
  { tSt t with launches := [(1, { placedLaunch 1 with lrec := f (placedLaunch 1).lrec })] }

/-- The strand with another seat. -/
def tWith (st : Seat) : Thread := { tStrand with seat := some st }

/-- A thread with 7 in s1, 3 in s2 and an M value in s3. -/
def tRegs (t : Thread) : Thread := setS (setS (setS t 1 (.u 7)) 2 (.u 3)) 3 (.m (List.replicate 32 9))

/-! ### The hypotheses of the statements can be met -/

theorem test_met_AluUniform : Acts (tSt (tRegs tStrand)) (tRegs tStrand) ∧ (5 : SReg) ≠ 0 ∧
    getS (tRegs tStrand) 1 = .u 7 ∧ getS (tRegs tStrand) 2 = .u 3 ∧
    (let s := { State.reset with boot := { State.reset.boot with powered := true } }
     ∃ u, s.boot.powered = true ∧ s.boot.cores[3]? = some u ∧ u.wait = .none ∧ u.stop = none ∧ getS u 1 = .u 0) := by
  refine ⟨?_, ?_, ?_, ?_, ⟨_, rfl, rfl, rfl, rfl, rfl⟩⟩ <;> and_intros <;> first | decide +kernel | exact rfl

theorem test_met_AluPerItem :
    (ActsSeated (tSt (tRegs tStrand)) (tRegs tStrand) tSeat ∧ (5 : SReg) ≠ 0 ∧
      RowFree (tSt (tRegs tStrand)) (tRegs tStrand) 5) ∧
    (Acts (tStL (tRegs tStrand) fun r => { r with fall := 0 }) (tRegs tStrand) ∧ (5 : SReg) ≠ 0 ∧
      isM (getS (tRegs tStrand) 3) = true ∧ (tRegs tStrand).seat = some tSeat ∧
      ¬ RowFree (tStL (tRegs tStrand) fun r => { r with fall := 0 }) (tRegs tStrand) 5) ∧
    (Acts (tSt (tRegs tSpan)) (tRegs tSpan) ∧ isM (getS (tRegs tSpan) 3) = true ∧ (tRegs tSpan).seat = none) := by
  simp only [RowFree]; and_intros <;> first | decide +kernel | exact rfl | exact ⟨rfl, rfl⟩

theorem test_met_Conditions :
    (Acts (tSt (setC (tRegs tStrand) 2 (.u true))) (setC (tRegs tStrand) 2 (.u true)) ∧ (5 : SReg) ≠ 0 ∧
      (4 : BitVec 3) ≠ 7 ∧ getS (setC (tRegs tStrand) 2 (.u true)) 1 = .u 7 ∧
      getC (setC (tRegs tStrand) 2 (.u true)) 2 = .u true ∧ (4 : BitVec 8).toNat < 5) ∧
    (ActsSeated (tSt (tRegs tStrand)) (tRegs tStrand) tSeat ∧ laneIn tSeat.am 0 = true ∧
      inRange (lrecOf (tSt (tRegs tStrand)) (tRegs tStrand)) (slotItem (tSt (tRegs tStrand)) (tRegs tStrand) tSeat 0) = true) ∧
    (getS (setS tStrand 4 (.a 9 1 2 3)) 4 = .a 9 1 2 3 ∧ getS (tRegs tStrand) 3 = .m (List.replicate 32 9) ∧
      RowFree (tSt (tRegs tStrand)) (tRegs tStrand) 5 ∧
      ∀ x y z, ¬ (getC (tRegs tStrand) 2 = .u x ∧ getS (tRegs tStrand) 3 = .u y ∧ getS (tRegs tStrand) 1 = .u z)) := by
  refine ⟨?_, ?_, ?_, ?_, ?_, fun x y z h => SVal.noConfusion h.2.1⟩ <;> (try simp only [RowFree]) <;> and_intros <;>
    first | decide +kernel | exact rfl | exact ⟨rfl, rfl⟩

theorem test_met_ScalarIllegal : Acts (tSt tStrand) tStrand ∧ scalarDefect (.sadd 0 1 2) = some 0x05 := by
  and_intros <;> first | decide +kernel | exact rfl

theorem test_met_Jump :
    (fld (0x68010001 : W32) 26 6 = 0x1A#6 ∧ (0x68010001 : W32) &&& 0x03F03FFF#32 ≠ 0#32) ∧
    (Acts (tSt (tRegs tStrand)) (tRegs tStrand) ∧ ∀ v, getS (tRegs tStrand) 3 ≠ .u v) ∧
    (getS (tRegs tStrand) 1 = .u 7 ∧ (7 : Word).getLsbD 0 = true) ∧
    (getS (setS tStrand 1 (.u 8)) 1 = .u 8 ∧ (8 : Word).getLsbD 0 = false ∧ (8 : Word).getLsbD 1 = false) := by
  and_intros <;> first | exact fun v => SVal.noConfusion | decide +kernel | exact rfl

/-- A span of two items whose condition c1 cuts it. -/
def tCut : Thread := setC { tSpan with box := ⟨0, 2, 0, 1, 0, 1⟩ } 1 (.t .x 1 true)

theorem test_met_Branches :
    (Acts (tSt (setC tStrand 2 (.u true))) (setC tStrand 2 (.u true)) ∧ getC (setC tStrand 2 (.u true)) 2 = .u true ∧
      true ≠ ((0 : BitVec 1) == 1) ∧ true = ((1 : BitVec 1) == 1) ∧ (setC tStrand 2 (.u true)).toks.length < 32) ∧
    (Acts (tSt (setS tStrand 1 (.u 8))) (setS tStrand 1 (.u 8)) ∧ getS (setS tStrand 1 (.u 8)) 1 = .u 8 ∧
      (8 : Word).toNat % 4 = 0) ∧
    (Acts (tSt { tSpan with toks := [⟨.call, 64, 0, 0⟩] }) { tSpan with toks := [⟨.call, 64, 0, 0⟩] }) ∧
    (Acts (tSt { tStrand with toks := [⟨.call, 64, 1, 0⟩] }) { tStrand with toks := [⟨.call, 64, 1, 0⟩] } ∧
      (1 : W32) ≠ 0) ∧
    (Acts (tSt tCut) tCut ∧ tCut.seat = none ∧ getC tCut 1 = .t .x 1 true ∧ cutsBox tCut.box .x 1 = true ∧
      (tSt tCut).cur ≠ (tSt tCut).nextId ∧ tCut.toks.length < 32) := by
  and_intros <;> first | decide +kernel | exact rfl

/-- A strand of two lanes with predicate p0 true in lane 0 and the tokens given. -/
def tTok (am : W32) (ks : List Token) : Thread :=
  { tWith { tSeat with am := am, seated := 3, preds := [(0, 1)] } with toks := ks }

/-- The seat of `tTok`. -/
def tTokSeat (am : W32) : Seat := { tSeat with am := am, seated := 3, preds := [(0, 1)] }

theorem test_met_TokensInStrand :
    (ActsSeated (tSt (tTok 3 [])) (tTok 3 []) (tTokSeat 3) ∧ (tTokSeat 3).region = 0 ∧ (tTok 3 []).toks.length < 32 ∧
      (3 : W32) &&& condMask (tSt (tTok 3 [])) (tTok 3 []) (tTokSeat 3) 0 0 0 ≠ 0 ∧
      (3 : W32) &&& ~~~condMask (tSt (tTok 3 [])) (tTok 3 []) (tTokSeat 3) 0 0 0 ≠ 0) ∧
    (ActsSeated (tSt (tTok 1 [])) (tTok 1 []) (tTokSeat 1) ∧
      (1 : W32) &&& condMask (tSt (tTok 1 [])) (tTok 1 []) (tTokSeat 1) 0 0 0 ≠ 0 ∧
      (1 : W32) &&& ~~~condMask (tSt (tTok 1 [])) (tTok 1 []) (tTokSeat 1) 0 0 0 = 0) ∧
    (ActsSeated (tSt (tTok 1 [⟨.els, 64, 2, 0⟩, ⟨.loop, 96, 3, 0⟩])) (tTok 1 [⟨.els, 64, 2, 0⟩, ⟨.loop, 96, 3,
      0⟩]) (tTokSeat 1) ∧
      (2 : W32) ≠ 0) ∧
    (ActsSeated (tSt (tTok 3 [⟨.join, 64, 3, 0⟩, ⟨.loop, 96, 3, 0⟩])) (tTok 3 [⟨.join, 64, 3, 0⟩, ⟨.loop, 96, 3,
      0⟩]) (tTokSeat 3) ∧
      (3 : W32) &&& ~~~condMask (tSt (tTok 3 [⟨.join, 64, 3, 0⟩, ⟨.loop, 96, 3, 0⟩]))
        (tTok 3 [⟨.join, 64, 3, 0⟩, ⟨.loop, 96, 3, 0⟩]) (tTokSeat 3) 0 0 0 ≠ 0) ∧
    (ActsSeated (tSt (tTok 3 [⟨.loop, 96, 3, 0⟩])) (tTok 3 [⟨.loop, 96, 3, 0⟩]) (tTokSeat 3) ∧
      (3 : W32) &&& condMask (tSt (tTok 3 [⟨.loop, 96, 3, 0⟩])) (tTok 3 [⟨.loop, 96, 3, 0⟩]) (tTokSeat 3) 0 0 0 ≠ 0) ∧
    (ActsSeated (tSt (tTok 2 [⟨.loop, 96, 3, 0⟩])) (tTok 2 [⟨.loop, 96, 3, 0⟩]) (tTokSeat 2) ∧
      (2 : W32) &&& condMask (tSt (tTok 2 [⟨.loop, 96, 3, 0⟩])) (tTok 2 [⟨.loop, 96, 3, 0⟩]) (tTokSeat 2) 0 0 0 = 0) ∧
    (ActsSeated (tSt (tTok 2 [⟨.call, 64, 0, 0⟩, ⟨.join, 80, 0, 0⟩, ⟨.join, 96, 1, 0⟩]))
      (tTok 2 [⟨.call, 64, 0, 0⟩, ⟨.join, 80, 0, 0⟩, ⟨.join, 96, 1, 0⟩]) (tTokSeat 2) ∧ (2 : W32) ≠ 0 ∧
      (∀ z ∈ [(⟨.join, 80, 0, 0⟩ : Token)], z.mask = 0) ∧ (1 : W32) ≠ 0 ∧
      (2 : W32) &&& condMask (tSt (tTok 2 [])) (tTok 2 []) (tTokSeat 2) 0 0 0 = 0) ∧
    ActsSeated (tSt (tTok 2 [⟨.loop, 64, 0, 0⟩, ⟨.join, 80, 0, 0⟩, ⟨.join, 96, 1, 0⟩]))
      (tTok 2 [⟨.loop, 64, 0, 0⟩, ⟨.join, 80, 0, 0⟩, ⟨.join, 96, 1, 0⟩]) (tTokSeat 2) ∧
    ActsSeated (tSt (tTok 2 [⟨.join, 64, 0, 0⟩, ⟨.join, 80, 0, 0⟩, ⟨.join, 96, 1, 0⟩]))
      (tTok 2 [⟨.join, 64, 0, 0⟩, ⟨.join, 80, 0, 0⟩, ⟨.join, 96, 1, 0⟩]) (tTokSeat 2) ∧
    (let ks : List Token := [⟨.join, 64, 1, 0⟩, ⟨.loop, 96, 3, 0⟩]
     ActsSeated (tSt (tTok 1 ks)) (tTok 1 ks) (tTokSeat 1) ∧ (tTokSeat 1).region = 0 ∧
      (tTokSeat 1).am &&& ~~~condMask (tSt (tTok 1 ks)) (tTok 1 ks) (tTokSeat 1) 0 0 0 = 0 ∧
      ∀ z ∈ [(⟨.join, 64, 1, 0⟩ : Token)], (z.kind = .join ∨ z.kind = .els) ∧ z.mask &&& ~~~(tTokSeat 1).am = 0) ∧
    (let ks : List Token := [⟨.join, 64, 3, 0⟩, ⟨.join, 80, 3, 0⟩, ⟨.loop, 96, 3, 0⟩]
     ActsSeated (tSt (tTok 1 ks)) (tTok 1 ks) (tTokSeat 1) ∧
      (tTokSeat 1).am &&& ~~~condMask (tSt (tTok 1 ks)) (tTok 1 ks) (tTokSeat 1) 0 0 0 = 0 ∧ (3 : W32) &&& ~~~(tTokSeat 1).am ≠ 0) := by
  and_intros <;> first | decide +kernel | exact rfl | exact ⟨rfl, rfl⟩

/-- A span with the tokens given. -/
def tSpanTok (ks : List Token) : Thread := { tSpan with toks := ks }

theorem test_met_TokensInSpan :
    (Acts (tSt (tSpanTok [⟨.join, 64, 0, 0⟩, ⟨.loop, 96, 0, 0⟩])) (tSpanTok [⟨.join, 64, 0, 0⟩, ⟨.loop, 96, 0, 0⟩]) ∧
      (tSpanTok [⟨.join, 64, 0, 0⟩, ⟨.loop, 96, 0, 0⟩]).seat = none ∧
      getC (tSpanTok [⟨.join, 64, 0, 0⟩, ⟨.loop, 96, 0, 0⟩]) 7 = .u true ∧
      (tSpanTok [⟨.join, 64, 0, 0⟩, ⟨.loop, 96, 0, 0⟩]).toks.length < 32) ∧
    (Acts (tSt (tSpanTok [⟨.loop, 96, 0, 0⟩])) (tSpanTok [⟨.loop, 96, 0, 0⟩])) ∧
    (let t := { tCut with toks := [⟨.loop, 96, 0, 0⟩] }
     Acts (tSt t) t ∧ t.seat = none ∧ getC t 1 = .t .x 1 true ∧ cutsBox t.box .x 1 = true ∧ (tSt t).cur ≠ (tSt t).nextId) := by
  and_intros <;> first | decide +kernel | exact rfl

theorem test_met_ControlFaults :
    (ActsSeated (tSt (setC tStrand 1 (.m 1))) (setC tStrand 1 (.m 1)) tSeat ∧
      ∀ x, getC (setC tStrand 1 (.m 1)) 1 ≠ .u x) ∧
    (ActsSeated (tSt (tTok 3 (List.replicate 32 ⟨.join, 64, 3, 0⟩))) (tTok 3 (List.replicate 32 ⟨.join, 64, 3,
      0⟩)) (tTokSeat 3) ∧
      32 ≤ (tTok 3 (List.replicate 32 ⟨.join, 64, 3, 0⟩)).toks.length ∧
      (∀ k ∈ (tTok 3 (List.replicate 32 ⟨.join, 64, 3, 0⟩)).toks.head?, k.kind ≠ .call) ∧
      (∀ x ∈ (tTok 3 (List.replicate 32 ⟨.join, 64, 3, 0⟩)).toks, x.kind ≠ .loop) ∧
      (∀ l ∈ (tTok 3 (List.replicate 32 ⟨.join, 64, 3, 0⟩)).toks.head?, l.kind ≠ .loop)) ∧
    ActsSeated (tSt (tTok 3 [])) (tTok 3 []) (tTokSeat 3) ∧
    ActsSeated (tSt (tTok 3 [⟨.loop, 64, 3, 0⟩])) (tTok 3 [⟨.loop, 64, 3, 0⟩]) (tTokSeat 3) ∧
    (ActsSeated (tSt (tTok 3 [⟨.call, 64, 3, 0⟩, ⟨.loop, 64, 3, 0⟩])) (tTok 3 [⟨.call, 64, 3, 0⟩, ⟨.loop, 64, 3,
      0⟩]) (tTokSeat 3) ∧
      (∀ x ∈ [(⟨.call, 64, 3, 0⟩ : Token)], x.kind ≠ .loop) ∧ ∃ x ∈ [(⟨.call, 64, 3, 0⟩ : Token)], x.kind = .call) := by
  and_intros <;> first | decide +kernel | exact rfl | exact ⟨rfl, rfl⟩ | exact fun v => CVal.noConfusion

/-- The placed strand's context, changed. -/
def tCtx (s : State) (f : Ctx → Ctx) : State := modCtx s 1 f

/-- A state with 64-bit words stored at physical addresses. -/
def tMem (s : State) (l : List (Nat × Nat)) : State :=
  { s with mem := { s.mem with bytes := l.foldl (fun m e => putBytes m e.1 (leBytes 8 e.2)) s.mem.bytes } }

/-- The strand with an access of a kind in flight. -/
def tFlying (s : State) (path : Path) (kind : AccKind) : State :=
  { s with ops := [(4, mkOp s 3 tStrand 0 none ⟨path, kind, 0, 0, 0, false, false, false, 0, .none⟩ [])], nextId := 5 }

theorem test_met_Seating :
    (Acts (tSt tSpan) tSpan ∧ tSpan.seat = none ∧ (5 : SReg) ≠ 0 ∧ (6 : W32).toNat % 3 = 0 ∧ inRegion tSpan = false) ∧
    (Acts (tSt tStrand) tStrand ∧ inRegion tStrand = false ∧ tStrand.seat = some tSeat ∧
      unseatOk (tSt tStrand) 3 tStrand tSeat = true ∧ getS tStrand 1 = .u 0) ∧
    (Acts (tSt (tRegs tStrand)) (tRegs tStrand) ∧ inRegion (tRegs tStrand) = false ∧ (tRegs tStrand).seat = some tSeat ∧
      unseatOk (tSt (tRegs tStrand)) 3 (tRegs tStrand) tSeat = false ∧ getS (tRegs tStrand) 1 = .u 7) := by
  and_intros <;> first | decide +kernel | exact rfl

/-- A strand that has been pending since time 0. -/
def tPending : Thread := tWith { tSeat with active := false, slot := 1, readyAt := some 0 }

/-- An active strand and a pending one of one partition at a time, in ticks. -/
def tTwo (t u : Thread) (now : Nat) : State := { tSt t with threads := [(3, t), (4, u)], time := now, nextId := 5 }

theorem test_met_Retirement :
    (Acts (tSt tSpan) tSpan ∧ inRegion tSpan = false ∧ tSpan.seat = none) ∧
    (Acts (tSt (tTok 1 [⟨.join, 80, 1, 0⟩, ⟨.join, 96, 3, 0⟩])) (tTok 1 [⟨.join, 80, 1, 0⟩, ⟨.join, 96, 3, 0⟩]) ∧
      inRegion (tTok 1 [⟨.join, 80, 1, 0⟩, ⟨.join, 96, 3, 0⟩]) = false ∧
      (tTok 1 [⟨.join, 80, 1, 0⟩, ⟨.join, 96, 3, 0⟩]).seat = some (tTokSeat 1) ∧
      (∀ z ∈ [(⟨.join, 80, 1, 0⟩ : Token)], z.mask &&& ~~~(tTokSeat 1).am = 0) ∧ (3 : W32) &&& ~~~(tTokSeat 1).am ≠ 0) ∧
    (let t := tTok 1 [⟨.join, 80, 1, 0⟩]
     Acts (tSt t) t ∧ t.seat = some (tTokSeat 1) ∧ (∀ z ∈ t.toks, z.mask &&& ~~~(tTokSeat 1).am = 0) ∧
      (tabFind (tSt t).launches t.launch).isSome = true ∧ (tSt t).teams = []) ∧
    (tabFind (modWg (tSt tStrand) 2 fun w => { w with retired := [0] }).wgs 2 = some { placedWg 1 with retired := [0] } ∧
      ∀ p ∈ tilePositions (wgRec (tSt tStrand) { placedWg 1 with retired := [0] }) 0
        (wholeBox (wgRec (tSt tStrand) { placedWg 1 with retired := [0] })), p ∈ [0]) ∧
    ((tSt tStrand).engq = [] ∧ (tSt tStrand).batches = []) ∧
    (tabFind (tSt (tWith { tSeat with retired := true })).threads 3 = some (tWith { tSeat with retired := true }) ∧
      (ctxOf (tSt (tWith { tSeat with retired := true })) 1).frozen = false ∧ tSeat.blocks = [] ∧
      (tSt (tWith { tSeat with retired := true })).ops = []) ∧
    (tabFind (tTwo { tStrand with wait := .snooze 1000000 } tPending 0).threads 3 =
      some { tStrand with wait := .snooze 1000000 } ∧
      tabFind (tTwo { tStrand with wait := .snooze 1000000 } tPending 0).threads 4 = some tPending ∧ (3 : Nat) ≠ 4 ∧
      pendingReady (tTwo { tStrand with wait := .snooze 1000000 } tPending 0) 0 0 = some (4, 0) ∧ tSeat.active = true ∧
      stallsLong (tTwo { tStrand with wait := .snooze 1000000 } tPending 0) 3 { tStrand with wait := .snooze 1000000 } = true) ∧
    (let s := tTwo tStrand tPending 2000000
     pendingReady s 0 0 = some (4, 0) ∧ longestActive s 0 0 = some (3, tStrand, tSeat) ∧ atBoundary s 3 tStrand tSeat = true ∧
      agedNow s 0 0 = false ∧ 0 + 4096 ≤ coreCc s 0) := by
  and_intros <;> first | decide +kernel | exact rfl

theorem test_met_SpecialRegisters :
    (ActsSeated (tSt (tRegs tStrand)) (tRegs tStrand) tSeat ∧ (5 : SReg) ≠ 0 ∧
      RowFree (tSt (tRegs tStrand)) (tRegs tStrand) 5 ∧ getS (tRegs tStrand) 1 = .u 7 ∧
      (ctxOf (tSt (tRegs tStrand)) 1).priv = false) ∧
    (Acts (tCtx (tSt (tRegs tStrand)) fun c => { c with priv := true }) (tRegs tStrand) ∧
      (ctxOf (tCtx (tSt (tRegs tStrand)) fun c => { c with priv := true }) 1).priv = true) := by
  simp only [RowFree]; and_intros <;> first | decide +kernel | exact rfl

/-- A launch of one item, as a record of eight-byte words at offsets. -/
def tRecord : List (Nat × Nat) :=
  [(32, 2 ^ 32 + 2 ^ 48), (40, 1 + 2 ^ 16 + 2 ^ 20), (72, (1 + 2 ^ 4 + 2 ^ 10) * 2 ^ 32)]

/-- A thread waiting for the status of a `dlaunch` of the record at 0x100, with the queue table at 0x6000, whose queue 0 has
the flags, HEAD and TAIL given and its ring at 0x7000; the placed page may be written. -/
def tLaunching (flags hd tl : Nat) (rec : List (Nat × Nat)) : State :=
  tCtx (tMem (tSt { tStrand with wait := .dlaunch 5 0x100 0 })
    ([(0x4000, 0x50DF), (0x6000, 0x7000), (0x6008, flags), (0x6010, hd), (0x6018, tl)] ++
      rec.map fun e => (0x5100 + e.1, e.2))) fun c => { c with qtable := 0x6000 }

theorem test_met_DeviceLaunch :
    (Acts (tSt (tRegs tStrand)) (tRegs tStrand) ∧ inRegion (tRegs tStrand) = false ∧ (5 : SReg) ≠ 0 ∧
      getS (tRegs tStrand) 0 = .u 0 ∧ getS (tRegs tStrand) 1 = .u 7 ∧ threadCount (tRegs tStrand) ≤ 1 ∧
      (0 : Word).toNat % 256 = 0 ∧ (7 : Word).toNat < 64) ∧
    (getS (setS tStrand 1 (.u 64)) 1 = .u 64 ∧ 64 ≤ (64 : Word).toNat) ∧
    (let t : Thread := { tStrand with wait := .dlaunch 5 0x100 0 }
     let open0 := tLaunching (2 ^ 16 + 2 ^ 17 + 1) 0 0 tRecord
     (Waits open0 3 t ∧ Quiet open0 3 t 3 ∧ backed open0 (qAddr open0 1 0) = true ∧ qDev open0 1 0 = true ∧
      qEn open0 1 0 = true ∧ qFull open0 1 0 = false ∧ rangeOk open0 1 0x100 256 false = true ∧
      launchFails open0 1 (hubReadVa open0 1 0x100 256) = 0 ∧ tabSorted open0.threads = true ∧
      submitWaits open0 1 0 0x100 = false)) ∧
    (let s := tLaunching 0 0 0 tRecord
     tabSorted s.threads = true ∧ qEn s 1 0 = false) ∧
    (let s := tLaunching (2 ^ 16 + 2 ^ 17 + 1) 0 2 tRecord
     qDev s 1 0 = true ∧ qEn s 1 0 = true ∧ qFull s 1 0 = true) ∧
    (let s := tMem (tLaunching (2 ^ 16 + 2 ^ 17 + 1) 0 0 tRecord) [(0x4000, 0)]
     qDev s 1 0 = true ∧ qEn s 1 0 = true ∧ qFull s 1 0 = false ∧ rangeOk s 1 0x100 256 false = false) ∧
    (let s := tLaunching (2 ^ 16 + 2 ^ 17 + 1) 0 0 []
     qFull s 1 0 = false ∧ rangeOk s 1 0x100 256 false = true ∧ launchFails s 1 (hubReadVa s 1 0x100 256) ≠ 0) := by
  and_intros <;> first | exact ⟨rfl, rfl, rfl⟩ | decide +kernel | exact rfl | (constructor <;> decide +kernel)

theorem test_met_Fences :
    (Acts (tSt tStrand) tStrand ∧ (3 : BitVec 3).toNat < 6 ∧ inRegion tStrand = false ∧
      released (tSt tStrand) 3 tStrand 3 tStrand.seqNo = true ∧ acquired (tSt tStrand) 3 tStrand = true ∧
        Quiet (tSt tStrand) 3 tStrand 3) ∧
    (Acts (tSt { tStrand with wct := 5 }) { tStrand with wct := 5 } ∧
      released (tSt { tStrand with wct := 5 }) 3 { tStrand with wct := 5 } 3 0 = false) ∧
    (Acts (tFlying (tSt tStrand) .ld .load) tStrand ∧ acquired (tFlying (tSt tStrand) .ld .load) 3 tStrand = false) ∧
    (let t := tWith { tSeat with region := 9 }
     let s := { tSt t with ops := [(4, { mkOp (tSt t) 3 t 0 none ⟨.st, .store, 0, 0, 2, false, false, false, 0, .none⟩ [] with region := 9 })] }
     Acts s t ∧ inRegion t = true ∧ (∀ o ∈ s.ops, o.2.thread = 3 → o.2.region ≠ 0) ∧ releaseAt t 3 ≤ rtNs s) ∧
    (∀ t ∈ [{ tStrand with rel := some (3, 0) }, { tStrand with wait := .fence 2 3 }, { tStrand with wait := .fence 0 3 },
      { tStrand with wait := .fence 3 3 }], Waits (tSt t) 3 t ∧ Quiet (tSt t) 3 t 3) := by
  and_intros <;> first
    | decide +kernel | exact rfl | (constructor <;> decide +kernel)
    | (simp only [List.forall_mem_cons, List.not_mem_nil, false_imp_iff, implies_true, and_true]
       and_intros <;> first | decide +kernel | exact rfl | exact ⟨rfl, rfl, rfl⟩ | (constructor <;> decide +kernel))

theorem test_met_WaitInstructions :
    (Acts (tFlying (tSt (tRegs tStrand)) .ld .load) (tRegs tStrand) ∧ getS (tRegs tStrand) 1 = .u 7 ∧
      inFlight (tFlying (tSt (tRegs tStrand)) .ld .load) 3 (pathOf 0) ≤ 7 ∧ (0 : BitVec 2) ≠ 3 ∧
      getS (tRegs tStrand) 0 = .u 0 ∧ (0 : Word).toNat < inFlight (tFlying (tSt (tRegs tStrand)) .ld .load) 3 (pathOf 0) ∧
      waitCount (tFlying (tSt (tRegs tStrand)) .ld .load) 3 (tRegs tStrand) (pathOf 0) = 1 ∧
      inRegion (tRegs tStrand) = false ∧ inFlight (tFlying (tSt (tRegs tStrand)) .ld .load) 3 .cp ≤ 7 ∧
      (tRegs tStrand).aflags &&& (tRegs tStrand).aenable = 0) ∧
    ({ tStrand with aflags := 5, aenable := 4 } : Thread).aflags &&& ({ tStrand with aflags := 5, aenable := 4 } : Thread).aenable ≠ 0 ∧
    (∀ w ∈ [Wait.path .ld 0, .path .cp 0, .bar none 5, .bar (some 8) 5, .hbar 1 5, .snooze 0, .sjoin 0],
      Waits (tSt { tStrand with wait := w }) 3 { tStrand with wait := w }) ∧
    waitCount (tSt { tStrand with wait := .path .ld 0 }) 3 { tStrand with wait := .path .ld 0 } .ld ≤ 0 ∧ inFlight (tSt tStrand) 3 .cp ≤ 0 ∧
    (let t := tWith { tSeat with region := 9 }
     inRegion t = true ∧ ∀ o ∈ (tSt t).ops, o.2.thread = 3 → o.2.region ≠ 0) ∧
      barGen (waitedWord (tSt tStrand) tSeat none) ≠ 5 ∧
    barGen (waitedWord (tSt tStrand) tSeat (some 8)) ≠ 5 ∧ hbarInst (tSt tStrand) tStrand 1 = some 0 ∧
    (hbarAt (launchOf (tSt tStrand) 1) 1 0).gen ≠ 5 ∧ boxVolume tStrand.box = liveItems (tSt tStrand) 1 := by
  and_intros <;> first
    | decide +kernel | exact rfl
    | (simp only [List.forall_mem_cons, List.not_mem_nil, false_imp_iff, implies_true, and_true]
       and_intros <;> first | decide +kernel | exact rfl | exact ⟨rfl, rfl, rfl⟩ | (constructor <;> decide +kernel))

/-- The strand with a barrier word of three at scratch offset 8 of its workgroup, or of another count. -/
def tBarSt (t : Thread) (n : Nat) : State :=
  modWg (tSt t) 2 fun w => scrPut w 8 8 (0xB7 * 2 ^ 48 + n * 2 ^ 20 + n)

/-- A strand with 8 in s1 and 3 in s2. -/
def tBarThr : Thread := setS (setS tStrand 1 (.u 8)) 2 (.u 3)

theorem test_met_Barriers :
    (1 < barPend (barInitWord false 3) ∧ barPend (barInitWord false 3) ≤ 3 ∧ barPend (barInitWord false 3) < 4) ∧
    (ActsSeated (tBarSt tBarThr 3) tBarThr tSeat ∧ inRegion tBarThr = false ∧ (1 : SReg) ≠ 0 ∧ getS tBarThr 1 = .u 8 ∧
      BarAt (tBarSt tBarThr 3) tBarThr tSeat 8 (barInitWord false 3) ∧ getS tBarThr 2 = .u 3 ∧
      1 < barPend (barInitWord false 3) ∧ barGen (barInitWord false 3) ≠ (3 : Word).setWidth 8 ∧
      barGen (barInitWord false 3) = (0 : Word).setWidth 8 ∧ (8 : Word).toNat % 8 = 0 ∧
      (8 : Word).toNat + 8 ≤ (lrecOf (tBarSt tBarThr 3) tBarThr).scratch ∧ (3 : Word) ≠ 0 ∧ (3 : Word).toNat < 2 ^ 20 ∧
      tSeat.am = tSeat.seated) ∧
    (BarAt (tBarSt tBarThr 1) tBarThr tSeat 8 (barInitWord false 1) ∧ barPend (barInitWord false 1) ≤ 1) ∧
    tabFind (tSt tStrand).wgs tSeat.wg = some (placedWg 1) ∧
    (ActsSeated (tSt (tTok 1 [])) (tTok 1 []) (tTokSeat 1) ∧ (tTokSeat 1).am ≠ (tTokSeat 1).seated) ∧
    (1 ≤ (1 : BitVec 3).toNat ∧ (1 : BitVec 3).toNat < 2 ∧ hbarInst (tBarSt tBarThr 3) tBarThr 1 = some 0 ∧
      (hbarAt (launchOf (tBarSt tBarThr 3) 1) 1 0).gen ≠ (3 : Word).setWidth 8 ∧
      (hbarAt (launchOf (tBarSt tBarThr 3) 1) 1 0).gen = (0 : Word).setWidth 8) ∧
    ((lrecOf (tStL tBarThr fun r => { r with grid := true }) tBarThr).grid = true ∧
      hbarInst (tStL tBarThr fun r => { r with grid := true }) tBarThr 2 = some 0 ∧
      hbarInst (tStL tBarThr fun r => { r with grid := true }) tBarThr 3 = some 0) ∧
    (2 ≤ (2 : BitVec 3).toNat ∧ (lrecOf (tBarSt tBarThr 3) tBarThr).grid = false) := by
  and_intros <;> first | decide +kernel | exact rfl | exact ⟨rfl, rfl⟩ | (unfold BarAt; decide +kernel)

theorem test_met_RegionsOpen :
    (ActsSeated (tSt tStrand) tStrand tSeat ∧ inRegion tStrand = false ∧
      rbegReady (tSt tStrand) 3 tStrand tSeat = true) ∧
    (ActsSeated (tFlying (tSt tStrand) .ld .load) tStrand tSeat ∧
      rbegReady (tFlying (tSt tStrand) .ld .load) 3 tStrand tSeat = false) ∧
    (ActsSeated (tSt { tStrand with wait := .rbeg true (hop tStrand (5 : BitVec 18)) })
        { tStrand with wait := .rbeg true (hop tStrand (5 : BitVec 18)) } tSeat ∧ tStrand.stop = none ∧
      (ctxOf (tSt tStrand) 1).frozen = false ∧
      rbegReady (tSt { tStrand with wait := .rbeg true (hop tStrand (5 : BitVec 18)) }) 3
        { tStrand with wait := .rbeg true (hop tStrand (5 : BitVec 18)) } tSeat = true) := by
  and_intros <;> first | decide +kernel | exact rfl | exact ⟨rfl, rfl⟩

/-- The record of region 9 of the strand, live. -/
def tRegion : Region :=
  { thread := 3, die := 0, strict := false, lo := 10, hi := 100, target := 64, mask := 1, depth := 0, phase := .live, forms := [],
    pend := none, wct := Wct.flat 0 }

/-- The strand in region 9, with 7 in s1 and 60 in s2. -/
def tIn : Thread := setS (setS (tWith { tSeat with region := 9 }) 1 (.u 7)) 2 (.u 60)

/-- Its seat. -/
def tInSeat : Seat := { tSeat with region := 9 }

/-- A state whose strand is in region 9, with the record, tags, tentative bytes and messages given. -/
def tReg (t : Thread) (r : Region) (tags : List LineTag) (tent : List Tentative) (msgs : List RMsg) : State :=
  { tSt t with reg := ⟨[(9, r)], tags, tent, msgs⟩ }

/-- Region 9 has read and written line 161 of die 0. -/
def tTag : LineTag := ⟨0, 161, 4, 5, [⟨9, 10, 100⟩], some ⟨9, 10, 100⟩, [9]⟩

theorem test_met_RegionsOpen_waits :
    (let t := { tStrand with wait := .rbeg true (hop tStrand (5 : BitVec 18)) }
     Waits (tSt t) 3 t ∧ t.seat = some tSeat ∧ rbegReady (tSt t) 3 t tSeat = true) ∧
    (tSeat.blocks = [] ∧ (∀ o ∈ (tSt tStrand).ops, o.2.thread ≠ 3) ∧ ({ tSeat with blocks := [⟨1, 0, 0, 0, 1, [], []⟩] } : Seat).blocks ≠ []) ∧
    (let s (n : Nat) : State := { tSt tStrand with reg := ⟨(List.range n).map fun k => (k + 9, tRegion), [], [], []⟩ }
     ((s 4095).reg.regions.filter fun r => r.2.die == tSeat.core / 128).length < 4096 ∧
      4096 ≤ ((s 4096).reg.regions.filter fun r => r.2.die == tSeat.core / 128).length) := by
  unfold Waits
  and_intros <;> first | decide +kernel | exact rfl

theorem test_met_RegionInstructions :
    (InLive (tReg tIn tRegion [tTag] [] []) tIn tInSeat tRegion ∧ tInSeat.am = tRegion.mask ∧ (5 : SReg) ≠ 0 ∧
      getS tIn 1 = .u 7 ∧ getS tIn 2 = .u 60 ∧ tRegion.strict = false ∧
      max tRegion.lo (7 : Word).toNat ≤ min tRegion.hi (60 : Word).toNat ∧ getS tIn 0 = .u 0 ∧
      min tRegion.hi (7 : Word).toNat < max tRegion.lo (0 : Word).toNat) ∧
    (InLive (tReg (setS tIn 2 (.u 100)) { tRegion with strict := true } [] [] []) (setS tIn 2 (.u 100)) tInSeat
        { tRegion with strict := true } ∧ (7 : Word).toNat ≤ tRegion.lo ∧ tRegion.hi ≤ (100 : Word).toNat ∧
          tRegion.lo ≤ tRegion.hi) ∧
    (ActsSeated (tSt tStrand) tStrand tSeat ∧ tSeat.region = 0) ∧
    (InLive (tReg tIn { tRegion with mask := 3 } [] [] []) tIn tInSeat { tRegion with mask := 3 } ∧ tInSeat.am ≠ 3 ∧
      1 ≤ (4 : BitVec 3).toNat ∧ (4 : BitVec 3).toNat < 5) := by
  and_intros <;> first | exact ⟨⟨rfl, rfl⟩, by decide +kernel, rfl, rfl⟩ | decide +kernel | exact rfl | exact ⟨rfl, rfl⟩

theorem test_met_RegionMessages :
    (∀ m ∈ [(⟨9, true, 20, 0, 161⟩ : RMsg), ⟨9, false, 20, 0, 161⟩, ⟨9, true, 101, 0, 161⟩, ⟨9, false, 9, 0, 161⟩],
      (tReg tIn tRegion [tTag] [] [m]).reg.msgs[0]? = some m ∧ msgFirst (tReg tIn tRegion [tTag] [] [m]) 0 m = true ∧
      tabFind (tReg tIn tRegion [tTag] [] [m]).reg.regions m.rg = some tRegion ∧ tRegion.phase = .live ∧
        tRegion.hi ≤ 2 ^ 64) ∧
    (tabFind (tReg tIn { tRegion with phase := .freezing [(0, 161)] } [tTag] [] []).reg.regions 9 =
        some { tRegion with phase := .freezing [(0, 161)] } ∧ (∀ d', (d', 161) ∈ [((0 : Nat), (161 : Nat))] ↔ d' = 0)) ∧
    (tabFind (tReg tIn { tRegion with phase := .freezing [] } [tTag] [] []).reg.regions 9 =
      some { tRegion with phase := .freezing [] } ∧
      ∀ m ∈ (tReg tIn { tRegion with phase := .freezing [] } [tTag] [] []).reg.msgs, m.rg ≠ 9) := by
  and_intros <;> first | decide +kernel | exact rfl | simp

/-- A region that commits line 161. -/
def tCommits : Region := { tRegion with hi := 10, phase := .committing [(0, 161)] }

theorem test_met_RegionCommits :
    (tabFind (tReg tIn tCommits [tTag] [⟨9, 0, 161, [(3, 77)]⟩] []).reg.regions 9 = some tCommits ∧
      tCommits.phase = .committing [(0, 161)] ∧ heldBehind (tReg tIn tCommits [tTag] [⟨9, 0, 161, [(3, 77)]⟩] []) 9 0 161 = [] ∧
      ∀ d', (d', 161) ∈ [((0 : Nat), (161 : Nat))] ↔ d' = 0) ∧
    (tabFind (tReg tIn { tCommits with phase := .committing [] } [] [] []).reg.regions 9 =
      some { tCommits with phase := .committing [] } ∧
      tabFind (tReg tIn { tCommits with phase := .committing [] } [] [] []).threads 3 = some tIn ∧
        tIn.seat = some tInSeat ∧
      tCommits.wct.own < 2 ^ 64 ∧ rtNs (tReg tIn { tCommits with phase := .committing [] } [] [] []) < 2 ^ 64) := by
  and_intros <;> first | decide +kernel | exact rfl | simp

/-- A region that aborts by a user code. -/
def tAborts (left : List (Nat × Nat)) : Region := { tRegion with phase := .aborting 6 0 5 left }

theorem test_met_RegionAborts :
    (tabFind (tReg tIn (tAborts [(0, 161)]) [tTag] [⟨9, 0, 161, [(3, 77)]⟩] []).reg.regions 9 = some (tAborts [(0,
      161)]) ∧ heldBehind (tReg tIn (tAborts [(0, 161)]) [tTag] [⟨9, 0, 161, [(3, 77)]⟩] []) 9 0 161 = [] ∧
      ∀ d', (d', 161) ∈ [((0 : Nat), (161 : Nat))] ↔ d' = 0) ∧
    (tabFind (tReg tIn (tAborts []) [] [] []).reg.regions 9 = some (tAborts []) ∧ (tAborts []).pend = none ∧
      tabFind (tReg tIn (tAborts []) [] [] []).threads 3 = some tIn ∧ tIn.seat = some tInSeat ∧
      tIn.dirtyS.getLsbD (4 : SReg).toNat = false ∧ tInSeat.dirtyV.getLsbD 7 = false) := by
  and_intros <;> first | decide +kernel | exact rfl | simp

/-- One lane's access of four bytes at physical address 0x5080. -/
def tLane : LaneAcc :=
  { lane := 0, item := 0, va := 0x80, pa := 0x5080, n := 4, val := 77, val2 := 0, mt := 0, np := false, key := 0, scr := none,
    phase := .todo, res := 0 }

/-- An access of region 9 in flight. -/
def tRegOp (path : Path) (kind : AccKind) : Op :=
  { mkOp (tSt tIn) 3 tIn 0 none ⟨path, kind, 0, 0, 2, false, false, false, 0, .none⟩ [] with lanes := [tLane] }

/-- Line 161 in the L2 of die 0 alone. -/
def tSole : L2Line := ⟨0, 161, 0, .m, 0x55, 0, none, false, none, none⟩

/-- The state with that access and that line, and the tags given. -/
def tRegAcc (o : Op) (tags : List LineTag) : State :=
  { tReg tIn tRegion tags [] [] with ops := [(4, o)], nextId := 5, coh := { State.reset.coh with l2 := [tSole] } }

/-- Region 8 has written line 161 of die 1, and has been asked to freeze there or not. -/
def tFar (answered : List Nat) : LineTag := ⟨1, 161, 4, 5, [], some ⟨8, 0, 0⟩, answered⟩

theorem test_met_RegionAccesses :
    (∀ p ∈ [(Path.ld, AccKind.load), (.st, .store), (.atm, .atomic), (.atm, .cas)],
      let o := tRegOp p.1 p.2
      let s := tRegAcc o []
      LaneInFlight s 4 0 o tLane ∧ tabFind s.reg.regions o.region = some tRegion ∧ tRegion.phase = .live ∧
        slotEmpty s tLane.pa tLane.key = false ∧ slotEmpty { s with keys := [] } tLane.pa tLane.key = true ∧
        regionReady { s with keys := [] } o tLane = true ∧
        regionReady s o tLane = true ∧ taggedElsewhere s o.die 161 = false ∧ SoleLine s o.die 161 tSole ∧
        (lineTag s o.die 161).readers = [] ∧ (lineTag s o.die 161).writer = none ∧ tentOf s o.region o.die 161 = [] ∧
        crossHeld s o.die 161 = []) ∧
    (∀ l ∈ [[], [8]],
      let o := tRegOp .st .store
      let s := tRegAcc o [tFar l]
      LaneInFlight s 4 0 o tLane ∧ regionGoes s o tLane = true ∧ tLane.phase = .todo ∧ taggedDie s 161 = some 1 ∧ 1 ≠ o.die ∧
        freezeHolder s 1 161 (kindWrites o.kind) = l.head?) := by
  unfold LaneInFlight SoleLine; decide +kernel

/-- A state whose page 0 may be written, with its translation used and cached. -/
def tData (t : Thread) : State := tMem (tSt t) [(0x4000, 0x50DF)]

/-- A request of the first lane. -/
def tReq (va : Int) : Req := { lane := 0, item := ⟨0, 0, 0⟩, addr := va, val := 77, val2 := 0 }

set_option maxRecDepth 20000 in
theorem test_met_AccessChecks :
    (∀ q ∈ [tReq 0x80, tReq 0x84], ∃ r, checkLane (tData tStrand) tStrand 0 4 true q = .ok r) ∧
    ((∃ r, checkLane (tData tStrand) tStrand 0 4 true (tReq 0x80) = .ok r) ∧
      checkLane (tData tStrand) tStrand 0 4 true (tReq 0x81) = .error ⟨0x12, 0, 0x81, 0, 0⟩) ∧
    (∃ x, PlainAccess (tData tStrand) tStrand 4 true (tReq 0x80).addr.toNat x) ∧
    ((tReq 0x81).addr % (4 : Int) ≠ 0) ∧
    ((tReq (2 ^ 57)).addr = ((2 ^ 57 : Nat) : Int) ∧ 2 ^ 57 % 4 = 0 ∧ bitsAt (2 ^ 57) 56 8 < 0xFE ∧
      isAlias (lrecOf (tData tStrand) tStrand) (2 ^ 57) = false) ∧
    (tLane.phase = .todo ∧ aborting (tData tStrand) 0 = false) ∧
    (∃ e lv addr ls tl, walk { tData tStrand with coh := { (tData tStrand).coh with tlb := [⟨0, 1, 0, 0x50DF, 1, [32, 64, 96, 128], none, false⟩] } } 1 0x80 =
        .leaf e lv addr ls ∧ e ||| 0x40 ||| 0x80 = e ∧
      tlbIn { tData tStrand with coh := { (tData tStrand).coh with tlb := [⟨0, 1, 0, 0x50DF, 1, [32, 64, 96, 128], none, false⟩] } } 0 1 0 = some tl) ∧
    ((tData tStrand).coh.lockets = [] ∧ (tData tStrand).coh.l2 = [] ∧ (tData tStrand).coh.wbacks = [] ∧
      (tData tStrand).coh.partials = [] ∧ (tData tStrand).coh.remote = []) := by
  refine ⟨?_, ⟨⟨_, rfl⟩, rfl⟩, ⟨⟨0x5080, 0x50DF, 0x4000⟩, ?_⟩, ?_, ?_, ?_, ⟨_, _, _, _, _, rfl, by decide +kernel,
    rfl⟩, rfl, rfl, rfl, rfl, rfl⟩
  · simp only [List.forall_mem_cons, List.not_mem_nil, false_imp_iff, implies_true, and_true]
    exact ⟨⟨_, rfl⟩, ⟨_, rfl⟩⟩
  · unfold PlainAccess; and_intros <;> first | decide +kernel | exact rfl
  · decide +kernel
  · and_intros <;> first | decide +kernel | exact rfl
  · exact ⟨rfl, rfl⟩

/-- A thread with consecutive U registers from s8. -/
def tOps (t : Thread) (vs : List Word) : Thread := (vs.zipIdx).foldl (fun acc p => setS acc (BitVec.ofNat 6 (8 + p.2)) (.u p.1)) t

/-- Three items in the placed workgroup, of which the strand has all. -/
def tThree (t : Thread) : State := tStL t fun r => { r with ex := 3, wx := 3 }

theorem test_met_ScalarAccesses :
    (let t := setS tStrand 1 (.u 0x80)
     ActsSeated (tData t) t tSeat ∧ (5 : SReg) ≠ 0 ∧ getS t 1 = .u 0x80 ∧
      namesWindow (tData t) t (getS t 1) (spaceOf 0) 0 3 0xFE = false ∧
      (checkAll (tData t) t (spaceOf 0) 4 false (itemReqs (tData t) t (getS t 1) (spaceOf 0) 0 (fun _ _ => 0) fun _ _ => 0)).toBool = true ∧
      (checkAll (tData t) t (spaceOf 0) 4 true
        (itemReqs (tData t) t (getS t 1) (spaceOf 0) 0 (fun L i => svalAt (getS t 5) L i) fun _ _ => 0)).toBool = true ∧
      threadCount t ≤ 1 ∧ (2 : BitVec 3).toNat < 6 ∧ (9 : BitVec 4).toNat < 10 ∧
      (∀ x ∈ itemReqs (tData t) t (getS t 1) 0 0 (fun _ _ => 0) (fun _ _ => 0), inWindow x.addr.toNat = false) ∧
      (checkAll (tData t) t 0 1 false (itemReqs (tData t) t (getS t 1) 0 0 (fun _ _ => 0) fun _ _ => 0)).toBool = true) ∧
    (let t := setS tStrand 1 (.m (List.replicate 32 0x80))
     ActsSeated (tData t) t tSeat ∧ RowFree (tData t) t 5 ∧
      (checkAll (tData t) t (spaceOf 0) 4 false (itemReqs (tData t) t (getS t 1) (spaceOf 0) 0 (fun _ _ => 0) fun _ _ => 0)).toBool = true) ∧
    (let t := { setS tStrand 1 (.u 0x80) with seat := some { tSeat with am := 7, seated := 7 } }
     1 < threadCount t) := by
  refine ⟨⟨⟨rfl, rfl⟩, ?_⟩, ⟨⟨rfl, rfl⟩, ?_⟩, ?_⟩
  · and_intros <;> first | decide +kernel | exact rfl
  · unfold RowFree; and_intros <;> first | decide +kernel | exact rfl
  · decide +kernel

theorem test_met_ScalarAccesses_spans :
    (∀ a ∈ [(0x80 : Word), 0x81],
      let t := setS tSpan 1 (.u a)
      Acts (tData t) t ∧ t.seat = none ∧ getS t 1 = .u a ∧ threadCount t ≤ 1 ∧
        namesWindow (tData t) t (getS t 1) (spaceOf 0) 0 3 0xFE = false ∧ namesWindow (tData t) t (getS t 1) (spaceOf 0) 0 2 0xFF = false ∧
        (checkAll (tData t) t (spaceOf 0) 4 false (itemReqs (tData t) t (getS t 1) (spaceOf 0) 0 (fun _ _ => 0) fun _ _ => 0)).toBool
          = (a == 0x80) ∧
        (checkAll (tData t) t 0 4 true
          (itemReqs (tData t) t (getS t 1) 0 0 (fun L i => svalAt (getS t 5) L i) fun L i => svalAt (getS t 5) L i)).toBool = (a == 0x80)) ∧
    (∀ a ∈ [(0xFE00000000000000 : Word), 0xFF00000000000000],
      let t := setS tSpan 1 (.u a)
      Acts (tData t) t ∧ t.seat = none ∧
        (namesWindow (tData t) t (getS t 1) (spaceOf 0) 0 3 0xFE || namesWindow (tData t) t (getS t 1) (spaceOf 0) 0 2 0xFF) = true ∧
        namesWindow (tData t) t (getS t 1) 0 0 2 0xFF = (a == 0xFF00000000000000)) ∧
    (let t := setS tSpan 1 (.a 0x80 0 0 0)
     Acts (tData t) t ∧ t.seat = none ∧
      (namesWindow (tData t) t (getS t 1) (spaceOf 0) 0 3 0xFE || namesWindow (tData t) t (getS t 1) (spaceOf 0) 0 2 0xFF) = false ∧
      (checkAll (tData t) t (spaceOf 0) 4 true
        (itemReqs (tData t) t (getS t 1) (spaceOf 0) 0 (fun L i => svalAt (getS t 5) L i) fun _ _ => 0)).toBool = true) := by
  simp only [List.forall_mem_cons, List.not_mem_nil, false_imp_iff, implies_true, and_true, Acts]
  and_intros <;> first | decide +kernel | exact rfl

theorem test_met_ScalarAccesses_forms : ∀ v, getS (setS tSpan 1 (.a 0x80 0 0 0)) 1 ≠ .u v :=
  fun _ => SVal.noConfusion

theorem test_met_ScalarAccesses_items : ∀ v, getS (setS tStrand 1 (.m (List.replicate 32 0x80))) 1 ≠ .u v :=
  fun _ => SVal.noConfusion

theorem test_met_Maintenance :
    (let t := setS (setS tStrand 1 (.u 0x80)) 2 (.u 0x100)
     ActsSeated (tData t) t tSeat ∧ getS t 1 = .u 0x80 ∧ getS t 2 = .u 0x100 ∧ inWindow (0x80 : Word).toNat = false ∧
      (0x80 : Word).toNat + (0x100 : Word).toNat ≤ 2 ^ 64 ∧ inRegion t = false ∧ t.resumeAt = none ∧
        (1 : BitVec 3).toNat < 5 ∧
      (cmoRange 1 1 0x80 0x180 t 2 0x80 (tData t)).2.isNone = true ∧
      (lockRange (xlUnit t) t.ctx (revise t.launch 0 0) 2 0x80 (tData t) 0).2.2.isNone = true ∧
      (lockRange (xlUnit t) t.ctx (fun s2 k => (unpark s2 k.line, 0)) 2 0x80 (tData t) 0).2.2.isNone = true) ∧
    (rsdFault (launchOf (tSt tStrand) 1) 0 0 = none ∧ rsdFault (launchOf (tSt tStrand) 1) (7 <<< 61) 0 = some 1) ∧
    (inWindow 0xFF00000000000000 = true) := by
  refine ⟨⟨⟨rfl, rfl⟩, ?_⟩, ?_, ?_⟩
  · and_intros <;> first | decide +kernel | exact rfl
  · exact ⟨rfl, rfl⟩
  · decide +kernel

theorem test_met_Maintenance_ends :
    (let t := { setS (setS tStrand 1 (.u 0x80)) 2 (.u 0x100) with resumeAt := some 0x100 }
     ActsSeated (tData t) t tSeat ∧ 0 < (0x100 : Word).toNat ∧ (cmoRange 1 1 0x80 0x180 t 1 0x100 (tData t)).2.isNone = true) ∧
    (let t := setS (setS tStrand 1 (.u 0x1F80)) 2 (.u 0x100)
     ActsSeated (tData t) t tSeat ∧ getS t 1 = .u 0x1F80 ∧ t.resumeAt = none ∧
      (cmoRange 1 1 0x1F80 0x2080 t 2 0x1F80 (tData t)).2.isSome = true) ∧
    (∀ k ∈ [(0x80, 0x80), (0x84, 4)],
      let t := setS (setS tStrand 1 (.u (BitVec.ofNat 64 k.1))) 2 (.u (BitVec.ofNat 64 k.2))
      ActsSeated (tData t) t tSeat ∧ t.resumeAt = none ∧ k.1 + k.2 ≤ 0x80 + 128 ∧ isAlias (lrecOf (tData t) t) 0x80 = false ∧
        (translate (tData t) (xlUnit t) t.ctx 0x80).toBool = true) ∧
    (∀ k ∈ [(2 ^ 57 - 0x80, 0x100), (2 ^ 63, 2 ^ 63 + 0x80)],
      let t := setS (setS tStrand 1 (.u (BitVec.ofNat 64 k.1))) 2 (.u (BitVec.ofNat 64 k.2))
      ActsSeated (tData t) t tSeat ∧ inWindow k.1 = false ∧ 2 ^ 57 < k.1 + k.2) ∧
    (2 ^ 64 < 2 ^ 63 + (2 ^ 63 + 0x80) ∧ getS tStrand 0 = .u 0) := by
  simp only [List.forall_mem_cons, List.not_mem_nil, false_imp_iff, implies_true, and_true, ActsSeated]
  and_intros <;> first | decide +kernel | exact rfl

theorem test_met_EngineSlots :
    (ActsSeated (tSt tStrand) tStrand tSeat) ∧
    (let s := tStL tStrand fun r => { r with acc := 1, shadow := 1 }
     (1 : BitVec 6).getLsbD 5 = false ∧ (lrecOf s tStrand).acc ≤ (1 : BitVec 6).toNat % 8 + (if (2 : BitVec 7).toNat % 8 = 4 then 1 else 0) ∧
      WellFormed (.mma 1 8 10 2) ∧ WellFormed (.mgath 1 8 12 2) ∧ (33 : BitVec 6).getLsbD 5 = true ∧
      (lrecOf s tStrand).shadow ≤ (33 : BitVec 6).toNat % 2 ∧ WellFormed (.mma 33 8 10 0x0A) ∧
      (lrecOf s tStrand).acc ≤ (1 : BitVec 3).toNat + (0 : BitVec 1).toNat ∧ WellFormed (.mzero 1 0) ∧
      (lrecOf s tStrand).acc ≤ (1 : BitVec 3).toNat ∧ WellFormed (.mdrain 1 8 0)) := by
  refine ⟨⟨rfl, rfl⟩, ?_⟩; unfold WellFormed; decide +kernel

/-- The operands of a product of one row by 16 columns over 16 positions of 16 bits, A at 0 and B at 0x800. -/
def tMxOps : List Word := [0, 16 + 16 * 2 ^ 24, 0x800, 16 + 15 * 2 ^ 16]

/-- The strand with them in s8 to s11, and an offset of 0 in s10. -/
def tMx : Thread := tOps tStrand tMxOps

/-- The placed workgroup with shadow 0 tied to a condition. -/
def tTied (t : Thread) : State := modWg (tSt t) 2 fun w => { w with shadow := [(0, ⟨1, []⟩)] }

theorem test_met_MatrixCommands :
    (SoleMember (tSt tMx) tMx tSeat ∧ WellFormed (.mma 1 8 10 2) ∧ mxSlotBad 1 2 (lrecOf (tSt tMx) tMx) = false ∧
      Operands tMx [8, 8 + 1, 10, 10 + 1] tMxOps ∧ mxDescOk (tMxOps.getD 1 0) (tMxOps.getD 3 0) 2 = true ∧
      tieBad (tSt tMx) tSeat 1 = false ∧ (tMxOps.getD 0 0).toNat % mxAlign 2 = 0 ∧
        (tMxOps.getD 2 0).toNat % mxAlign 2 = 0) ∧
    (let vs : List Word := [0, 16 + 16 * 2 ^ 24, 0x800, 16 + 15 * 2 ^ 16, 0x100]
     let t := tOps tStrand [0, 16 + 16 * 2 ^ 24, 0x100, 0, 0x800, 16 + 15 * 2 ^ 16]
     SoleMember (tSt t) t tSeat ∧ WellFormed (.mgath 1 8 12 2) ∧ Operands t [8, 8 + 1, 12, 12 + 1, 8 + 2] vs ∧
      mxDescOk (vs.getD 1 0) (vs.getD 3 0) 2 = true ∧ (vs.getD 4 0).toNat % 4 = 0 ∧
      (vs.getD 4 0).toNat + 4 * (bitsAt (vs.getD 1 0).toNat 16 7 + 1) ≤ (lrecOf (tSt t) t).scratch) ∧
    (WellFormed (.mzero 1 0) ∧ (1 : BitVec 3).toNat + (0 : BitVec 1).toNat < (lrecOf (tSt tMx) tMx).acc) ∧
    (let vs : List Word := [0x100, 16 + 15 * 2 ^ 24]
     let t := tOps tStrand vs
     SoleMember (tSt t) t tSeat ∧ WellFormed (.mdrain 1 8 0x10) ∧
      Operands t (if (0x10 : BitVec 6).getLsbD 3 then [8, 8 + 1, 8 + 2] else [8, 8 + 1]) vs ∧
        drainDescOk (vs.getD 1 0) 0 = true ∧
      (vs.getD 0 0).toNat + drainRowEnd (vs.getD 1 0) (drainWidth 0 (tagAhead (tSt t) 0 2 1)) (bitsAt (vs.getD 1 0).toNat 16 7)
        ≤ (lrecOf (tSt t) t).scratch ∧ drainWidth 0 (tagAhead (tSt t) 0 2 1) = 32 ∧ (vs.getD 0 0).toNat % 4 = 0) ∧
    (let vs : List Word := [0x100, 16 + 15 * 2 ^ 24, 0x40]
     let t := tOps tStrand vs
     WellFormed (.mdrain 1 8 0x08) ∧ Operands t (if (0x08 : BitVec 6).getLsbD 3 then [8, 8 + 1, 8 + 2] else [8,
       8 + 1]) vs ∧
      (vs.getD 2 0).toNat % 4 = 0 ∧ (vs.getD 2 0).toNat + 4 * (bitsAt (vs.getD 1 0).toNat 16 7 + 1) ≤ (lrecOf (tSt t) t).scratch) ∧
    (tieAhead (tSt tMx) 0 2 0 = none ∧ SoleMember (tTied tMx) tMx tSeat ∧ tieAhead (tTied tMx) 0 2 0 = some 1 ∧
      getC tMx (BitVec.ofNat 3 1) = .u false) := by
  simp only [SoleMember, Operands, WellFormed]
  and_intros <;> first | exact ⟨rfl, rfl⟩ | decide +kernel | exact rfl

/-- A team of two held at a command of member 4. -/
def tHeld (i : Instr) (w : List Nat) (size : Nat) : State :=
  { tStL tMx (fun r => { r with team := size, wx := 128 }) with teams := [⟨2, 0, i, tMxOps, false, w⟩] }

theorem test_met_TeamsAndChecks :
    ((∀ h ∈ (tSt tMx).teams, ¬ (h.wg = tSeat.wg ∧ h.team = teamOf (tSt tMx) tMx tSeat)) ∧
      (lrecOf (tHeld (.mma 1 8 10 2) [] 2) tMx).team ≠ 1) ∧
    ((tHeld (.mma 1 8 10 2) [4] 2).teams.find? (fun h => h.wg == tSeat.wg && h.team == teamOf (tHeld (.mma 1 8 10 2) [4] 2) tMx tSeat) =
        some ⟨2, 0, .mma 1 8 10 2, tMxOps, false, [4]⟩ ∧
      [4].length + 1 = (lrecOf (tHeld (.mma 1 8 10 2) [4] 2) tMx).team ∧
      [4].length + 1 ≠ (lrecOf (tHeld (.mma 1 8 10 2) [4] 4) tMx).team ∧ (Instr.mma 1 8 10 2) ≠ .mma 2 8 10 2) ∧
    (InLive (tReg (tOps tIn tMxOps) tRegion [] [] []) (tOps tIn tMxOps) tInSeat tRegion ∧ WellFormed (.mma 1 8 10 2) ∧
      mxSlotBad 1 2 (lrecOf (tSt tMx) tMx) = false) ∧
    (fullMask (tStL { tMx with seat := some (tTokSeat 1) } fun r => { r with ex := 2, wx := 2 })
      { tMx with seat := some (tTokSeat 1) } (tTokSeat 1) = false) ∧
    (ActsSeated (tSt tMx) tMx tSeat ∧ fullMask (tSt tMx) tMx tSeat = true ∧ tSeat.region = 0) ∧
    (Operands (tOps tStrand [0, 0, 0x800, 16 + 15 * 2 ^ 16]) [8, 8 + 1, 10, 10 + 1] [0, 0, 0x800, 16 + 15 * 2 ^ 16] ∧
      mxDescOk 0 (16 + 15 * 2 ^ 16) 2 = false) ∧
    (∃ r ∈ [(8 : SReg), 9, 10, 11], getS (setS tMx 9 (.m [])) r = .m []) := by
  simp only [InLive, ActsSeated, Operands, WellFormed]
  and_intros <;> first | exact rfl | decide +kernel

/-- The operands of a copy of 64 bytes at one address to another. -/
def tCpyOps (d a : Word) : List Word := [a, d, 64, 0]

theorem test_met_StrandCommands :
    (ActsSeated (tSt tBarThr) tBarThr tSeat ∧ tSeat.region = 0 ∧ BarOf (tSt tBarThr) tBarThr tSeat 0 none ∧
      BarOf (tSt tBarThr) tBarThr tSeat 1 (some (8, 0))) ∧
    (WellFormed (.cpy 0 8 0 2) ∧ Operands (tOps tStrand (tCpyOps 0x100 0)) (if (0 : SReg) = 0 then [8, 8 + 1, 8 + 2,
      8 + 3] else []) (tCpyOps 0x100 0) ∧
      cpyDescOk 2 (tCpyOps 0x100 0) = true ∧ cpyDescOk 0 (tCpyOps 0x100 0) = true ∧
        cpyDescOk 1 (tCpyOps 0x100 0) = true ∧
      (0 : Nat) + cpyExtent 1 64 0 ≤ (lrecOf (tSt tStrand) tStrand).scratch ∧ WellFormed (.cpy 0 8 0 0) ∧
        WellFormed (.cpy 0 8 0 1)) ∧
    (let s := { tSt tStrand with launches := [(1, { placedLaunch 1 with roleTab := [⟨0, 5, 0, 0, 0⟩] })] }
     WellFormed (.coll 8 1 0 0) ∧ Operands (tOps tStrand [0x100, 0x200, 4 + 5 * 2 ^ 32]) [8, 8 + 1, 8 + 2] [0x100,
       0x200, 4 + 5 * 2 ^ 32] ∧
      0 < bitsAt (4 + 5 * 2 ^ 32) 0 32 ∧ bitsAt (4 + 5 * 2 ^ 32) 0 32 ≤ 16777216 ∧ bitsAt (4 + 5 * 2 ^ 32) 48 16 = 0 ∧
      (roleIn (launchOf s 1) (bitsAt (4 + 5 * 2 ^ 32) 32 16) 0).isSome = true ∧ 0x100 % collBytes 0 = 0 ∧
        0x200 % collBytes 0 = 0) ∧
    (5 : BitVec 3) ≠ 0 := by
  simp only [Operands, WellFormed]
  and_intros <;> first | exact ⟨rfl, rfl⟩ | exact .inl ⟨rfl, rfl⟩ | exact .inr ⟨by decide, 8, rfl, rfl,
    by decide +kernel, rfl⟩ | decide +kernel | exact rfl

/-- The strand with batch 1 closed and not complete, or complete. -/
def tBatch (t : Thread) (bar : Option (Nat × BitVec 8)) (c : Bool) : State :=
  { tBarSt t 3 with batches := [⟨3, 2, 1, bar, c, false⟩] }

theorem test_met_Batches :
    (let t := { setS tStrand 1 (.u 1) with batch := 1 }
     ActsSeated (tBatch t none false) t tSeat ∧ getS t 1 = .u 1 ∧ t.mark = none ∧
       batchesDone (tBatch t none false) 3 1 = false ∧
      batchesDone (tBatch t none true) 3 1 = true ∧ (∀ o ∈ (tBatch t none true).engq, o.2.status = 0) ∧
      (∀ b ∈ (tBatch t none true).batches, b.barFailed = false)) ∧
    (let t := { setS tStrand 1 (.u 1) with batch := 1, wait := .mwait 5 1 }
     ActsSeated (tBatch t none true) t tSeat ∧ (ctxOf (tBatch t none true) 1).frozen = false) ∧
    ((tBatch tStrand none false).batches.find? (fun b => b.thread == 3 && b.num == 1 && !b.complete) = some ⟨3, 2, 1,
      none, false, false⟩ ∧
      (∀ x ∈ (tBatch tStrand none false).batches, x.thread = 3 → x.num < 1 → x.complete = true) ∧
      (∀ p ∈ (tBatch tStrand none false).engq, p.2.members.contains 3 = true → p.2.queue ≠ 1 → tabGet 0 p.2.batch 3 =
        1 → p.2.finished = true)) ∧
    (barMagic (BitVec.ofNat 64 (((tabFind (tBatch tStrand (some (8,
      0)) false).wgs 2).map fun x => scrGet x 8 8).getD 0)) = 0xB7 ∧
      barGen (BitVec.ofNat 64 (((tabFind (tBatch tStrand (some (8,
        0)) false).wgs 2).map fun x => scrGet x 8 8).getD 0)) = 0 ∧
      barMagic (BitVec.ofNat 64 (((tabFind (tBatch tStrand (some (16,
        0)) false).wgs 2).map fun x => scrGet x 16 8).getD 0)) ≠ 0xB7) := by
  refine ⟨⟨⟨rfl, rfl⟩, ?_⟩, ⟨⟨rfl, rfl⟩, ?_⟩, ?_, ?_⟩ <;> and_intros <;> first | decide +kernel | exact rfl

/-- An operation of the placed strand at the head of its queue. -/
def tEng (i : Instr) (q : Nat) (vs : List Word) (started : Bool) : EngOp :=
  { mkEng tStrand tSeat ⟨i, q, vs, false, 0, none⟩ [3] with started := started }

/-- The state that lists it under 4, in a launch whose core 0 has role 0 of group 5, chunked or not. -/
def tEngSt (o : EngOp) (chunk : Bool) : State :=
  { tMem (tSt tStrand) [(0x4000, 0x50DF)] with
    engq := [(4, o)], nextId := 5
    launches := [(1, { placedLaunch 1 with lrec := { (placedLaunch 1).lrec with chunked := chunk }, roleTab := [⟨0, 5, 0, 0, 0⟩] })] }

/-- A product of one row, one column and 97 positions of f64. -/
def tLong : List Word := [0, 97 + 97 * 2 ^ 24, 0x800, 1]

/-- A collective of four f32 elements over that group. -/
def tColl : Coll := ⟨0, 0, 1, 0x100, 0x200, 4, 5, 0⟩

theorem test_met_EngineOperations :
    (∀ c ∈ [false, true], ∀ o ∈ [tEng (.mzero 1 0) 0 [] false, tEng (.coll 8 1 0 0) 2 [0x100, 0x200,
      4 + 5 * 2 ^ 32] false,
      tEng (.mzero 1 0) 0 [] true, tEng (.mcommit 1 0) 0 [] true, tEng (.mdrain 1 8 0x10) 0 [0x100,
        16 + 15 * 2 ^ 24] true,
      tEng (.mma 1 8 10 2) 0 tMxOps true, tEng (.cpy 0 8 0 2) 1 (tCpyOps 0x100 0) true,
      tEng (.coll 8 1 0 0) 2 [0x100, 0x200, 4 + 5 * 2 ^ 32] true], EngineTurn (tEngSt o c) 4 o) ∧
    (collOf (tEng (.mzero 1 0) 0 [] false) = none ∧
      collOf (tEng (.coll 8 1 0 0) 2 [0x100, 0x200, 4 + 5 * 2 ^ 32] false) = some tColl) ∧
    (let o := tEng (.coll 8 1 0 0) 2 [0x100, 0x200, 4 + 5 * 2 ^ 32] false
     joined (tEngSt o false) o tColl = some [(0, 4, o)] ∧ collAgrees tColl [(0, 4, o)] = true ∧
      (collSources tColl [(0, 4, o)] (tEngSt o false)).toBool = true) ∧
    (let o := tEng (.coll 8 0 0 2) 2 [0x100, 0x200, 4 + 5 * 2 ^ 32 + 2 ^ 48] false
     collOf o = some ⟨2, 0, 0, 0x100, 0x200, 4, 5, 1⟩ ∧
       joined (tEngSt o false) o ⟨2, 0, 0, 0x100, 0x200, 4, 5, 1⟩ = some [(0, 4, o)] ∧
      collAgrees ⟨2, 0, 0, 0x100, 0x200, 4, 5, 1⟩ [(0, 4, o)] = false) ∧
    (let o := { tEng (.qfence 1) 0 [] false with members := [] }
     EngineTurn (tEngSt o false) 4 o ∧ ∀ p ∈ siblings (tEngSt o false) o, atHead (tEngSt o false) p.1 p.2 = true) ∧
    (mxOf (tEng (.mzero 1 0) 0 [] false) = none ∧ (tEng (.mzero 1 0) 0 [] true).bar = none ∧
      (mcommitWg (placedWg 1) false 1 0).1 = 0 ∧
      (mcommitWg (putSlot { placedWg 1 with shadow := [(0, ⟨1, []⟩)] } 1 true []) true 1 0).1 ≠ 0 ∧
      (tabFind (tEngSt (tEng (.mcommit 1 0) 0 [] true) false).ctxs 1).isSome = true ∧
      (tabFind (tEngSt (tEng (.mcommit 1 0) 0 [] true) false).threads 3).isSome = true) ∧
    (let o := tEng (.mma 0 8 10 4) 0 tLong true
     EngineTurn (tEngSt o true) 4 o ∧ chunked (tEngSt o true) o = true ∧ (mxOf o).isSome = true ∧
      ∀ m ∈ mxOf o, o.progress + chunkK m < m.k ∧ mxFormatBad (tEngSt o true) o m = false ∧
        (mxRun (tEngSt o true) o m o.progress (o.progress + chunkK m)).toBool = true) ∧
    (let o := tEng (.mma 1 8 10 2) 0 tMxOps true
     (mxOf o).isSome = true ∧ ∀ m, mxOf o = some m → chunked (tEngSt o false) o = false ∧
       mxFormatBad (tEngSt o false) o m = false ∧
      (mxRun (tEngSt o false) o m o.progress m.k).toBool = true) := by
  simp only [EngineTurn]
  and_intros <;> first | decide +kernel | exact rfl

theorem test_met_EngineOperations_copies :
    (let o := tEng (.cpy 0 8 0 2) 1 (tCpyOps 0x100 0) true
     (runCopy (tEngSt o false) o 2 ((cpyShape 2 o.opnds).1 * (cpyShape 2 o.opnds).2.1)).stop = none) ∧
    (let o := tEng (.cpy 0 8 0 2) 1 (tCpyOps 0x100000 0) true
     (runCopy (tEngSt o false) o 2 ((cpyShape 2 o.opnds).1 * (cpyShape 2 o.opnds).2.1)).stop.isSome = true) ∧
    (let o := { tEng (.coll 8 1 0 0) 2 [0x100, 0x200, 4 + 5 * 2 ^ 32] true with partialSum := [(0, 1), (1, 1), (2, 1), (3, 1)] }
     (collWrite (tEngSt o false) o tColl o.progress tColl.count).2.2.2.isNone = true) ∧
    (let o := { tEng (.mdrain 1 8 0x10) 0 [0x100, 16 + 15 * 2 ^ 24] true with progress := 0 }
     tabFind (tEngSt o false).wgs o.wg = some (placedWg 1) ∧ (accSlot (placedWg 1) 1).f64 = false ∧
      (drainRows o 0 true (accSlot (placedWg 1) 1) 0x100 (16 + 15 * 2 ^ 24) 65536 [(0,
        some 0)] (dropHold (tEngSt o false) 0)
        (Wrote.none (tEngSt o false))).2.2.isNone = true) := by
  and_intros <;> first | decide +kernel | exact rfl

/-- The state with lines 162 and 164 in the L2 of die 0 alone and the page's translation cached by core 0. -/
def tOwned (o : EngOp) : State :=
  { tEngSt o false with coh := { State.reset.coh with
      l2 := [⟨0, 162, 0, .m, 0x55, 0, none, false, none, none⟩, ⟨0, 164, 0, .m, 0x66, 0, none, false, none, none⟩]
      tlb := [⟨0, 1, 0, 0x50DF, 1, [32, 64, 96, 128], none, false⟩] } }

theorem test_met_EngineOperations_writes :
    (let o := tEng (.cpy 0 8 0 1) 1 (tCpyOps 0x100 0) true
     EngineTurn (tOwned o) 4 o ∧ chunked (tOwned o) o = false ∧ o.progress = 0 ∧ o.bar = none ∧ (1 : BitVec 4).toNat = 1 ∧
      PlainWrite (tOwned o) o 0x100 64 ⟨0x5100, 0x50DF, 0⟩ ⟨0, 162, 0, .m, 0x55, 0, none, false, none, none⟩ ∧
      (tabFind (tOwned o).wgs o.wg).isSome = true ∧ (o.opnds.getD 1 0).toNat = 0x100 ∧ bitsAt (o.opnds.getD 2 0).toNat 0 32 = 64) ∧
    (let o := tEng (.coll 8 1 0 0) 2 [0x100, 0x200, 4 + 5 * 2 ^ 32] true
     EngineTurn (tOwned o) 4 o ∧ collOf o = some tColl ∧ o.status = 0 ∧ tColl.dst = 0x200 ∧ tColl.count * collBytes tColl.ty = 16 ∧
      PlainWrite (tOwned o) o 0x200 16 ⟨0x5200, 0x50DF, 0⟩ ⟨0, 164, 0, .m, 0x66, 0, none, false, none, none⟩) := by
  unfold EngineTurn PlainWrite SoleLine
  and_intros <;> first | decide +kernel | exact rfl

theorem test_met_AccumulatorsChange :
    (tabFind (placedWg 1).shadow 0 = none) ∧
    (let g := { placedWg 1 with shadow := [(0, ⟨1, [(0, 0x3F800000)]⟩)] }
     tabFind g.shadow 0 = some ⟨1, [(0, 0x3F800000)]⟩ ∧ (accSlot g 1).f64 = false ∧
       (accSlot (putSlot g 0 true []) 0).f64 = true) := by
  and_intros <;> first | decide +kernel | exact rfl

/-- A strand whose oldest block is at its first instruction, with 5 in v4, 3 in v6 and 0x80 in v2. -/
def tLnSeat : Seat :=
  { tSeat with
    vregs := [(2 * 32, 0x80), (3 * 32, 0), (4 * 32, 5), (5 * 32, 0), (6 * 32, 3), (7 * 32, 0), (8 * 32, 9), (9 * 32, 0)]
    blocks := [⟨1, 0, 0, 0, 1, [], []⟩] }

/-- Its thread. -/
def tLn : Thread := tWith tLnSeat

/-- Fields that read v4, v6 and v2, with a type and a destination, at the end of the block. -/
def tF (ty : BitVec 4) (dst : BitVec 8) : LaneFields := ⟨0, 7, dst, 4, 6, 2, ty, 0, 0, 0, 0, 1, 0⟩

/-- What a lane instruction of that strand acts in. -/
def tEnv (s : State) (t : Thread) (st : Seat) (f : LaneFields) : LaneEnv :=
  ⟨s, t, st, ⟨1, 0, 0, 0, 1, [], []⟩, f, execMask st ⟨1, 0, 0, 0, 1, [], []⟩ f, false⟩

/-- Whether the conditions of `LaneRuns` that lie in the instruction hold for fields. -/
def tRunsB (i : Instr) (f : LaneFields) : Bool :=
  (match laneShape i with
    | some (sh, _, g) => g == f && !beyondRegs 248 sh f && (indexUses sh f).isEmpty
    | none => false) && illSub i == none && f.t == 1

theorem tRuns (s : State) (t : Thread) (st : Seat) (f : LaneFields) (i : Instr) (h : tRunsB i f = true)
    (ha : ActsSeated s t st) (hb : st.blocks = [⟨1, 0, 0, 0, 1, [], []⟩]) (hr : (lrecOf s t).regs =
      248) (hl : st.longRegs = 0) :
    LaneRuns i s (tEnv s t st f) := by
  unfold tRunsB at h
  rcases hs : laneShape i with _ | ⟨sh, m, g⟩
  · simp [hs] at h
  · simp only [hs, Bool.and_eq_true, beq_iff_eq, Bool.not_eq_true', List.isEmpty_iff] at h
    obtain ⟨⟨⟨⟨rfl, h2⟩, h3⟩, h4⟩, h5⟩ := h
    exact ⟨ha, rfl, ⟨[], hb⟩, ⟨sh, m, hs, by simpa [tEnv, hr] using h2, by simp [tEnv, pairBeyond, h3], by simp [tEnv, h3]⟩, h4, .inr h5, rfl, by
      simp [tEnv, hl]⟩

/-- The same in the placed launch. -/
theorem tRunsIn (f : LaneFields) (i : Instr) (h : tRunsB i f =
  true) : LaneRuns i (tSt tLn) (tEnv (tSt tLn) tLn tLnSeat f) :=
  tRuns _ _ _ _ _ h ⟨rfl, rfl⟩ rfl rfl rfl

theorem test_met_LaneIntegerResults :
    (∀ i ∈ ([.iadd, .isub, .imul, .imulh, .imad, .iabs, .ineg, .imin, .imax, .dot4] : List (LaneFields → Instr)),
      LaneRuns (i (tF 1 8)) (tSt tLn) (tEnv (tSt tLn) tLn tLnSeat (tF 1 8))) ∧
    (1 ∈ tyInt ∧ (-2 ^ 31 : Int) ≤ 5 ∧ (5 : Int) ≤ 2 ^ 31 - 1 ∧ (-2 ^ 31 - 1 : Int) < -2 ^ 31 ∧
      (2 ^ 31 - 1 : Int) < 2 ^ 31 ∧
      (⟨0, 7, 8, 4, 6, 2, 1, 0, 2, 0, 1, 1, 0⟩ : LaneFields).rnd.getLsbD 1 = true) := by
  refine ⟨fun i hi => tRunsIn _ _ ?_, by decide⟩
  revert i; simp only [List.forall_mem_cons]; decide +kernel

theorem test_met_LaneBitResults :
    (∀ i ∈ ([.land, .lor, .lxor, .andn, .lnot, .clz, .popc, .brev, .shl, .rotl, .bfi, .sel] : List (LaneFields → Instr)),
      LaneRuns (i (tF 0 8)) (tSt tLn) (tEnv (tSt tLn) tLn tLnSeat (tF 0 8))) ∧
    LaneRuns (.shr (tF 2 8)) (tSt tLn) (tEnv (tSt tLn) tLn tLnSeat (tF 2 8)) ∧
    LaneRuns (.sra (tF 1 8)) (tSt tLn) (tEnv (tSt tLn) tLn tLnSeat (tF 1 8)) ∧
    LaneRuns (.bfx (tF 1 8)) (tSt tLn) (tEnv (tSt tLn) tLn tLnSeat (tF 1 8)) ∧
    (∀ k ∈ ([0, 1, 2, 3, 4, 5] : List (BitVec 3)), LaneRuns (.icmp { tF 1 1 with fam := k }) (tSt tLn)
      (tEnv (tSt tLn) tLn tLnSeat { tF 1 1 with fam := k })) := by
  refine ⟨fun i hi => tRunsIn _ _ ?_, tRunsIn _ _ (by decide +kernel), tRunsIn _ _ (by decide +kernel),
    tRunsIn _ _ (by decide +kernel), fun k hk => tRunsIn _ _ ?_⟩
  · revert i; simp only [List.forall_mem_cons]; decide +kernel
  · revert k; decide +kernel

theorem test_met_LaneFloatResults :
    (∀ i ∈ ([.fadd, .fsub, .fmul, .ffma, .fmin, .fmax, .fabs, .fneg, .fcpsgn, .frcp, .frsq, .fsqrt, .fdiv, .fex2,
      .flg2, .fsin,
        .fcos, .ftrunc, .fldx, .fclass] : List (LaneFields → Instr)),
      LaneRuns (i (tF 3 8)) (tSt tLn) (tEnv (tSt tLn) tLn tLnSeat (tF 3 8))) ∧
    LaneRuns (.fcmp (tF 3 1)) (tSt tLn) (tEnv (tSt tLn) tLn tLnSeat (tF 3 1)) ∧
    LaneRuns (.fadd (tF 9 8)) (tSt tLn) (tEnv (tSt tLn) tLn tLnSeat (tF 9 8)) ∧
    (0x7FC00000 < 2 ^ F32.bits ∧ (0x7FC00000 / 2 ^ F32.m % 2 ^ F32.e = 2 ^ F32.e - 1 ∧
      0x7FC00000 % 2 ^ F32.m ≠ 0)) := by
  refine ⟨fun i hi => tRunsIn _ _ ?_, tRunsIn _ _ (by decide +kernel), tRunsIn _ _ (by decide +kernel), by decide⟩
  revert i; simp only [List.forall_mem_cons]; decide +kernel

theorem test_met_LaneMoveResults :
    (∀ i ∈ ([.mov, .movi] : List (LaneFields → Instr)),
      LaneRuns (i (tF 0 8)) (tSt tLn) (tEnv (tSt tLn) tLn tLnSeat (tF 0 8))) ∧
    LaneRuns (.cvt { tF 1 8 with fam := 1, imm := 1 }) (tSt tLn) (tEnv (tSt tLn) tLn tLnSeat { tF 1 8 with fam := 1, imm := 1 }) ∧
    (∀ i ∈ ([.pack2, .unpk] : List (LaneFields → Instr)),
      LaneRuns (i (tF 9 8)) (tSt tLn) (tEnv (tSt tLn) tLn tLnSeat (tF 9 8))) ∧
    (∀ i ∈ ([.tdec, .tenc] : List (LaneFields → Instr)),
      LaneRuns (i (tF 3 8)) (tSt tLn) (tEnv (tSt tLn) tLn tLnSeat (tF 3 8))) ∧
    LaneRuns (.lea (tF 15 8)) (tSt tLn) (tEnv (tSt tLn) tLn tLnSeat (tF 15 8)) ∧
    (∀ L ∈ lanesOf (tEnv (tSt tLn) tLn tLnSeat (tF 15 8)).ex,
      srcA (tEnv (tSt tLn) tLn tLnSeat (tF 15 8)) 64 L / 2 ^ 56 % 256 < 0xFE) := by
  refine ⟨fun i hi => tRunsIn _ _ ?_, tRunsIn _ _ (by decide +kernel), fun i hi => tRunsIn _ _ ?_,
    fun i hi => tRunsIn _ _ ?_,
    tRunsIn _ _ (by decide +kernel), by decide +kernel⟩
  all_goals revert i; simp only [List.forall_mem_cons]; decide +kernel

theorem test_met_LaneCrossResults :
    (∀ k ∈ ([0, 1, 2, 3] : List (BitVec 3)),
      LaneRuns (.vote { tF 0 8 with fam := k }) (tSt tLn) (tEnv (tSt tLn) tLn tLnSeat { tF 0 8 with fam := k })) ∧
    (∀ k ∈ ([0, 1, 2, 3, 4] : List (BitVec 3)),
      LaneRuns (.pmov { tF 0 1 with fam := k }) (tSt tLn) (tEnv (tSt tLn) tLn tLnSeat { tF 0 1 with fam := k })) ∧
    LaneRuns (.pset (tF 0 1)) (tSt tLn) (tEnv (tSt tLn) tLn tLnSeat (tF 0 1)) ∧
    (∀ i ∈ ([.shfl, .bcast, .perm, .firstLane] : List (LaneFields → Instr)),
      LaneRuns (i (tF 0 8)) (tSt tLn) (tEnv (tSt tLn) tLn tLnSeat (tF 0 8))) ∧
    (∀ i ∈ ([.redx, .scan, .cmpx] : List (LaneFields → Instr)),
      LaneRuns (i (tF 1 8)) (tSt tLn) (tEnv (tSt tLn) tLn tLnSeat (tF 1 8))) ∧
    ((tEnv (tSt tLn) tLn tLnSeat (tF 1 8)).ex ≠ 0 ∧ isFloatTy 1 = false) ∧
    (∀ i ∈ ([.xset, .xadd] : List (LaneFields → Instr)),
      LaneRuns (i (tF 2 1)) (tSt tLn) (tEnv (tSt tLn) tLn tLnSeat (tF 2 1))) ∧
    LaneRuns (.xget { tF 2 8 with sa := 0 }) (tSt tLn) (tEnv (tSt tLn) tLn tLnSeat { tF 2 8 with sa := 0 }) ∧
    (trueLanes (tEnv (tSt tLn) tLn tLnSeat (tF 0 8)) = 0 ∧
      (trueLanes (tEnv (tSt tLn) tLn tLnSeat { tF 0 8 with sa := 7 })).getLsbD 0 = true) := by
  refine ⟨fun k hk => tRunsIn _ _ ?_, fun k hk => tRunsIn _ _ ?_, tRunsIn _ _ (by decide +kernel),
    fun i hi => tRunsIn _ _ ?_,
    fun i hi => tRunsIn _ _ ?_, by decide +kernel, fun i hi => tRunsIn _ _ ?_, tRunsIn _ _ (by decide +kernel),
      by decide +kernel⟩
  · revert k; decide +kernel
  · revert k; decide +kernel
  all_goals revert i; simp only [List.forall_mem_cons]; decide +kernel

theorem test_met_LaneCrossResults_empty :
    (∀ p ∈ ([(3, 0), (3, 1), (3, 2)] : List (BitVec 4 × BitVec 3)),
      LaneRuns (.redx { tF p.1 8 with fam := p.2, gp := 1 }) (tSt tLn) (tEnv (tSt tLn) tLn tLnSeat { tF p.1 8 with fam := p.2, gp := 1 }) ∧
        (tEnv (tSt tLn) tLn tLnSeat { tF p.1 8 with fam := p.2, gp := 1 }).ex = 0) ∧
    (∀ k ∈ ([0, 1, 2] : List (BitVec 3)),
      LaneRuns (.redx { tF 6 8 with fam := k, gp := 1 }) (tSt tLn) (tEnv (tSt tLn) tLn tLnSeat { tF 6 8 with fam := k, gp := 1 }) ∧
        (tEnv (tSt tLn) tLn tLnSeat { tF 6 8 with fam := k, gp := 1 }).ex = 0) ∧
    (∀ k ∈ ([0, 1, 2, 3, 4, 5] : List (BitVec 3)),
      LaneRuns (.redx { tF 1 8 with fam := k, gp := 1 }) (tSt tLn) (tEnv (tSt tLn) tLn tLnSeat { tF 1 8 with fam := k, gp := 1 }) ∧
        (tEnv (tSt tLn) tLn tLnSeat { tF 1 8 with fam := k, gp := 1 }).ex = 0) ∧
    ∀ k ∈ ([0, 1, 2, 4, 5, 6] : List (BitVec 3)),
      LaneRuns (.scan { tF 1 8 with fam := k }) (tSt tLn) (tEnv (tSt tLn) tLn tLnSeat { tF 1 8 with fam := k }) := by
  refine ⟨fun p hp => ⟨tRunsIn _ _ ?_, ?_⟩, fun k hk => ⟨tRunsIn _ _ ?_, ?_⟩, fun k hk => ⟨tRunsIn _ _ ?_, ?_⟩,
    fun k hk => tRunsIn _ _ ?_⟩
  · revert p; decide +kernel
  · revert p; decide +kernel
  all_goals revert k; decide +kernel

/-- The strand at the 1,024th instruction of its block. -/
def tLast : Seat := { tLnSeat with blocks := [⟨1, 0, 0, 1023, 1, [], []⟩] }

theorem test_met_LaneFaults :
    (ActsSeated (tSt tLn) tLn tLnSeat ∧ tLnSeat.blocks = [⟨1, 0, 0, 0, 1, [], []⟩]) ∧
    (illSub (.iadd { tF 3 8 with rnd := 1 }) = some 3 ∧ (laneShape (.iadd { tF 3 8 with rnd := 1 })).isSome = true) ∧
    (∃ sh m, laneShape (.iadd (tF 1 8)) = some (sh, m, tF 1 8) ∧ WellFormed (.iadd (tF 1 8)) ∧
      beyondRegs (lrecOf (tStL tLn fun r => { r with regs := 5 }) tLn).regs sh (tF 1 8) = true ∧
      beyondRegs (lrecOf (tSt tLn) tLn).regs sh (tF 1 8) = false) ∧
    (ActsSeated (tSt (tWith tLast)) (tWith tLast) tLast ∧ WellFormed (.iadd { tF 1 8 with t := 0 }) ∧
      ¬ ((1023 : Nat) ≠ 1023 ∨ (0 : BitVec 1) = 1)) ∧
    (let f := { tF 1 8 with sa := 249 }
     let s := tStL tLn fun r => { r with windows := [(0, 0), (4, 0)] }
     ∃ sh m, laneShape (.iadd f) = some (sh, m, f) ∧ WellFormed (.iadd f) ∧
       beyondRegs (lrecOf s tLn).regs sh f = false ∧
      indexUses sh f = [(1, 32)] ∧ 0 ∈ lanesOf (execMask tLnSeat ⟨1, 0, 0, 0, 1, [], []⟩ f) ∧
      indexBad s tLn tLnSeat 1 32 0 = true) := by
  refine ⟨⟨⟨rfl, rfl⟩, rfl⟩, by decide +kernel, ⟨_, _, rfl, ?_⟩, ⟨⟨rfl, rfl⟩, ?_⟩, ⟨_, _, rfl, ?_⟩⟩ <;> decide +kernel

/-- The strand with 1 in x1 of its lane. -/
def tLnEdge : Seat := { tLnSeat with xregs := [(32, 1)] }

theorem test_met_LaneFaults_pairs :
    let f := { tF 6 8 with sa := 249 }
    let s := tStL (tWith tLnEdge) fun r => { r with regs := 248, windows := [(0, 0), (245, 2)] }
    let s1 := tStL (tWith tLnEdge) fun r => { r with regs := 247, windows := [(0, 0), (245, 2)] }
    ∃ sh m, laneShape (.fadd f) = some (sh, m, f) ∧ WellFormed (.fadd f) ∧ beyondRegs (lrecOf s (tWith tLnEdge)).regs sh f = false ∧
      pairBeyond s (tWith tLnEdge) tLnEdge (execMask tLnEdge ⟨1, 0, 0, 0, 1, [], []⟩ f) sh f = false ∧
      beyondRegs (lrecOf s1 (tWith tLnEdge)).regs sh f = false ∧
      pairBeyond s1 (tWith tLnEdge) tLnEdge (execMask tLnEdge ⟨1, 0, 0, 0, 1, [], []⟩ f) sh f = true := by
  refine ⟨_, _, rfl, ?_⟩; decide +kernel

/-- The strand with a page that may be written. -/
def tLnData : State := tData tLn

theorem test_met_LaneAccesses :
    (∀ i ∈ ([.ld, .atom] : List (LaneFields → Instr)), LaneRuns (i { tF 1 8 with sa := 2 }) tLnData
      (tEnv tLnData tLn tLnSeat { tF 1 8 with sa := 2 })) ∧
    (∀ i ∈ ([.st, .stk, .red] : List (LaneFields → Instr)), LaneRuns (i { tF 1 0 with sa := 2 }) tLnData
      (tEnv tLnData tLn tLnSeat { tF 1 0 with sa := 2 })) ∧
    LaneRuns (.cas { tF 0 8 with sa := 2 }) tLnData (tEnv tLnData tLn tLnSeat { tF 0 8 with sa := 2 }) ∧
    (checkAll tLnData tLn 0 4 true [⟨0, ⟨0, 0, 0⟩, 0x80, 3, 0⟩]).toBool = true ∧
    (checkAll tLnData tLn 0 4 true [⟨0, ⟨0, 0, 0⟩, 0x81, 3, 0⟩]).toBool = false ∧
    (let st := { tLnSeat with region := 9 }
     LaneRuns (.cacc { tF 3 0 with sa := 2 }) (tReg (tWith st) tRegion [] [] []) (tEnv (tReg (tWith st) tRegion [] [] []) (tWith st) st { tF 3 0 with sa := 2 }) ∧
      inRegion (tWith st) = true) ∧
    (let s := { tLnData with launches := [(1, { placedLaunch 1 with ranges := [⟨0x80, 0x80, 0, 0⟩] })] }
     LaneRuns (.cacc { tF 3 0 with sa := 2 }) s (tEnv s tLn tLnSeat { tF 3 0 with sa := 2 }) ∧ inRegion tLn = false ∧
      ∃ a, caccCheck s tLn 3 4 ⟨0, ⟨0, 0, 0⟩, 0x80, 3, 0⟩ = .ok a) := by
  refine ⟨fun i hi => tRuns _ _ _ _ _ ?_ ⟨rfl, rfl⟩ rfl rfl rfl, fun i hi => tRuns _ _ _ _ _ ?_ ⟨rfl, rfl⟩ rfl rfl rfl,
    tRuns _ _ _ _ _ (by decide +kernel) ⟨rfl, rfl⟩ rfl rfl rfl,
    by decide +kernel, by decide +kernel, ⟨tRuns _ _ _ _ _ (by decide +kernel) ⟨rfl, rfl⟩ rfl rfl rfl, by decide +kernel⟩,
    tRuns _ _ _ _ _ (by decide +kernel) ⟨rfl, rfl⟩ rfl rfl rfl, by decide +kernel, ⟨_, by rfl⟩⟩
  all_goals revert i; simp only [List.forall_mem_cons]; decide +kernel

/-- The same with the page's translation cached by core 0. -/
def tLnCached : State :=
  { tLnData with coh := { State.reset.coh with tlb := [⟨0, 1, 0, 0x50DF, 1, [32, 64, 96, 128], none, false⟩] } }

theorem test_met_LaneAccesses_prf :
    let f := { tF 0 0 with sa := 2 }
    let e := tEnv tLnCached tLn tLnSeat f
    LaneRuns (.prf f) tLnCached e ∧ lanesOf e.ex = [0] ∧ (f.imm.extractLsb' 25 3).toNat ≤ 1 ∧
    (let a := { tLane with val := 0 }
     let o : Op := { mkOp tLnCached 3 tLn 1 none ⟨.ld, .load, 0, 0, 2, false, false, false, 0, .none⟩ [a] with region := 0 }
     checkLane tLnCached tLn 0 4 false ⟨0, slotItem tLnCached tLn tLnSeat 0,
        ((srcA e 64 0 : Int) + (f.imm.extractLsb' 0 25).toInt) % 2 ^ 64, 0, 0⟩ = .ok (a, none) ∧
      noteAccess tLnCached (xlUnit tLn) tLn.ctx a.va.toNat false = tLnCached ∧ slotEmpty tLnCached a.pa a.key = false ∧ sliceReady tLnCached o a = true ∧ leasable tLnCached o a = true ∧
      LineIs tLnCached (a.pa / 128) a.key 0 ∧ linePartials tLnCached (a.pa / 128) = [] ∧ 0 < placeRoom tLnCached (.quad 0) (a.pa / 128)) := by
  refine ⟨tRuns _ _ _ _ _ (by decide +kernel) ⟨rfl, rfl⟩ rfl rfl rfl, by decide +kernel, by decide +kernel, ?_⟩
  unfold LineIs
  and_intros <;> first | exact rfl | decide +kernel

theorem test_met_LaneResultsWrite :
    (LaneRuns (.iadd (tF 1 8)) (tSt tLn) (tEnv (tSt tLn) tLn tLnSeat (tF 1 8)) ∧ (tF 1 8).dst ≠ 255 ∧
      laneIn (tEnv (tSt tLn) tLn tLnSeat (tF 1 8)).ex 0 = true ∧ (8 : Nat) = regOf (tSt tLn) tLn tLnSeat 8 0) ∧
    (LaneRuns (.icmp (tF 1 1)) (tSt tLn) (tEnv (tSt tLn) tLn tLnSeat (tF 1 1)) ∧ (tF 1 1).dst.toNat % 8 ≠ 7 ∧
      (tF 1 1).dst.setWidth 6 ≠ (0 : SReg)) := by
  refine ⟨⟨tRunsIn _ _ (by decide +kernel), ?_⟩, ⟨tRunsIn _ _ (by decide +kernel), ?_⟩⟩ <;> decide +kernel

/-- An access of the strand in flight to line 161, with one lane. -/
def tOp (path : Path) (kind : AccKind) (a : LaneAcc) (dst : Dest) : Op :=
  { mkOp (tSt tStrand) 3 tStrand 0 none ⟨path, kind, 0, 0, 2, false, false, false, 0, dst⟩ [] with lanes := [a], seq := 1 }

/-- The state with that access and the caches given. -/
def tAcc (o : Op) (c : Coh) : State := { tData tStrand with ops := [(4, o)], nextId := 5, coh := c }

/-- Line 161 parked for core 5 at the slice of die 0. -/
def tLocket : Locket := ⟨161, .cores 0 1 2, 0, .slice 0, 0x1234, 0, 1, 1, 0, none⟩

/-- A copy of line 161 in the core's L1, valid until 100 ns. -/
def tCopy : Copy := ⟨.l1 0, 161, 1, 0x77, 0, [], false, 100, 100⟩

theorem test_met_AccessesPerformed_keys :
    (∀ p ∈ [(Path.ld, AccKind.load), (.atm, .atomic), (.st, .store)],
      let o := tOp p.1 p.2 tLane .none
      let s := { tAcc o State.reset.coh with keys := [] }
      LaneInFlight s 4 0 o tLane ∧ sliceReady s o tLane = true ∧ slotEmpty s tLane.pa tLane.key = true ∧
        slotEmpty (tAcc o State.reset.coh) tLane.pa tLane.key = false ∧ (locketAt s 161).any (opLocates s o) = false ∧
        o.back = false) := by
  unfold LaneInFlight; decide +kernel

theorem test_met_AccessesPerformed :
    (let o := tOp .ld .load tLane .none
     LaneInFlight (tAcc o State.reset.coh) 4 0 o tLane ∧ sliceReady (tAcc o State.reset.coh) o tLane = true ∧
      slotEmpty (tAcc o State.reset.coh) tLane.pa tLane.key = false ∧
      LineIs (tAcc o State.reset.coh) 161 0 0 ∧ linePartials (tAcc o State.reset.coh) 161 = []) ∧
    (let o := tOp .st .store tLane .none
     let s := tAcc o { State.reset.coh with l2 := [⟨1, 161, 0, .m, 0x55, 0, none, false, none, none⟩] }
     LaneInFlight s 4 0 o tLane ∧ sliceReady s o tLane = true ∧ LineIs s 161 0 0x55 ∧ linePartials s 161 = [] ∧
      (∀ x ∈ s.coh.l2, x.line = 161 → x.ro = false) ∧ newValue o tLane (lineGet 0x55 0 4) = some 77) ∧
    (let o := tOp .ld .load tLane .none
     let s := tAcc o { State.reset.coh with copies := [tCopy] }
     LaneInFlight s 4 0 o tLane ∧ s.coh.copies[0]? = some tCopy ∧ laneEnded tLane = false ∧ blockedByEarlier s o tLane = false ∧
       o.back = false ∧ mayServe s o tLane tCopy = true) ∧
    (let o := tOp .ld .load tLane .none
     let s := tAcc o { State.reset.coh with lockets := [tLocket] }
     LaneInFlight s 4 0 o tLane ∧ sliceReady s o tLane = true ∧ locketAt s 161 = some tLocket ∧ o.lx = false ∧
       o.core = some 0 ∧
      locates s tLocket o.ctx 0 = true) ∧
    (let a := { tLane with phase := .failed 0x13 0 0 0 }
     let s := tAcc (tOp .ld .load a .none) { State.reset.coh with lockets := [tLocket] }
     let s1 := { s with hub := { s.hub with fmode := 0 } }
     let s2 := locateResolve s1 tLocket 0
     tabFind s1.ops 4 = some (tOp .ld .load a .none) ∧ hostAssisted s1 1 1 (some 1) = false ∧ a.scr = none ∧
       locketAt s1 (lineOf a.pa) = some tLocket ∧ locates s1 tLocket 1 0 = true ∧
       (translate s2 0 1 0x80).toOption = some ⟨0x5080, 0x50DF, 0x4000⟩ ∧ protSub (ctxOf s2 1).priv 0x50DF false = none) := by
  refine ⟨⟨⟨rfl, rfl⟩, ?_, ?_, ⟨rfl, ?_, ?_, ?_⟩, ?_⟩, ⟨⟨rfl, rfl⟩, ?_, ⟨rfl, ?_, ?_, ?_⟩, ?_⟩, ⟨⟨rfl, rfl⟩, ?_⟩, ⟨⟨rfl,
    rfl⟩, ?_⟩, ?_⟩ <;>
    and_intros <;> decide +kernel

theorem test_met_AccessesPerformed_stores :
    (∀ k ∈ [AccKind.atomic, .cas],
     let o := { tOp .atm k tLane .none with scope := 4 }
     let s := tAcc o { State.reset.coh with l2 := [tSole] }
     LaneInFlight s 4 0 o tLane ∧ sliceReady s o tLane = true ∧ LineIs s 161 0 0x55 ∧ linePartials s 161 = [] ∧
      (∀ x ∈ s.coh.l2, x.line = 161 → x.ro = false) ∧ o.back = false ∧ taggedDie s 161 = none) ∧
    (∀ n ∈ [0, 1],
     let o := { tOp .st .store tLane .none with scope := n }
     LaneInFlight (tAcc o State.reset.coh) 4 0 o tLane ∧ nearReady (tAcc o State.reset.coh) o tLane n = true) := by
  unfold LaneInFlight LineIs; decide +kernel

/-- An acquiring load of line 161 beside a store to it that stands at the core's L1, or at the quad store. -/
def tNear (n : Nat) : Op := { tOp .ld .load tLane .none with acq := true, scope := n }

/-- The state with both; the store is of another thread of the core. -/
def tNearSt (n : Nat) : State :=
  { tAcc (tNear n) State.reset.coh with
    ops := [(4, tNear n), (5, { tOp .st .store { tLane with phase := .near n 1 } .none with thread := 8 })] }

theorem test_met_AccessesPerformed_near :
    (∀ n ∈ [0, 1], LaneInFlight (tNearSt n) 4 0 (tNear n) tLane ∧ nearServes (tNearSt n) (tNear n) tLane = true ∧
      (nearBytes (tNearSt n) (tNear n) tLane).isSome = true) ∧
    (∀ p ∈ [(Path.ld, AccKind.load), (.atm, .atomic), (.st, .store)],
      let o := tOp p.1 p.2 tLane .none
      let s := { tAcc o State.reset.coh with mem := { (tAcc o State.reset.coh).mem with poison := [161] } }
      LaneInFlight s 4 0 o tLane ∧ sliceReady s o tLane = true ∧ poisoned s 161 = true ∧
        (locketAt s 161).any (opLocates s o) = false ∧ o.back = false) := by
  unfold LaneInFlight; decide +kernel

theorem test_met_AccessesReturn_undo :
    (let st := { tSeat with undos := [⟨1, [(64, 7)], 0, 1, 0, [], [], [], [⟨1, 0, 0, 1, 1, [], []⟩], 0⟩] }
     let o := { tOp .ld .load tLane .none with block := 1 }
     (st.undos.find? fun x => x.seq == o.seq) = some ⟨1, [(64, 7)], 0, 1, 0, [], [], [], [⟨1, 0, 0, 1, 1, [], []⟩], 0⟩ ∧
      sureTo (tAcc o State.reset.coh) o.thread (o.seq - 1) = true ∧ (tSeat.undos.find? fun x => x.seq == o.seq) = none) := by
  and_intros <;> decide +kernel

theorem test_met_AccessesReturn :
    (let a := { tLane with phase := .done, res := 9 }
     ∀ o ∈ [tOp .ld .load a (.sreg 5 false true 4), tOp .atm .atomic a .none, tOp .st .store a .none,
       tOp .ld .load a (.vreg [(0, 8)] 1)],
      tabFind (tAcc o State.reset.coh).ops 4 = some o ∧ o.back = false ∧
        tabFind (tAcc o State.reset.coh).threads o.thread = some tStrand ∧
      (∀ x ∈ o.lanes, x.phase = .done) ∧ o.kind ≠ .kget ∧ o.kind ≠ .kgetSet ∧
        waitsTlb (tAcc o State.reset.coh) o = false ∧ performedAt o o.scope = true ∧
      (o.lanes.map (·.lane)).Nodup ∧ (∀ a ∈ o.lanes, a.lane < 32)) ∧
    (tStrand.seat = some tSeat ∧ tSeat.retired = false ∧ tStrand.stop = none ∧ tStrand.more = []) ∧
    (let a := { tLane with phase := .failed 0x15 1 0x5080 0 }
     let o := tOp .ld .load a .none
     tabFind (tAcc o State.reset.coh).ops 4 = some o ∧ o.back = false ∧ o.lanes = [] ++ a :: [] ∧ (0x15 : Nat) ≠ 0x13) ∧
    (let s := { tSt tStrand with coh := { State.reset.coh with
        copies := [tCopy, { tCopy with place := .quad 0 }, { tCopy with place := .l1 128 }], remote := [⟨1, 161, 0, false, 9⟩] } }
     tCopy ∈ s.coh.copies ∧ tCopy.line = 161 ∧ tCopy.parked = false ∧ placeDie tCopy.place = 0 ∧ placeQuad tCopy.place = 0 / 4 ∧
      tCopy.place ≠ .quad (0 / 4) ∧ copyAt s (.quad (0 / 4)) 161 = some { tCopy with place := .quad 0 } ∧
      placeDie (.l1 128) ≠ 0 ∧ (⟨1, 161, 0, false, 9⟩ : RemoteHold) ∈ s.coh.remote) := by
  refine ⟨?_, ?_, ?_, ?_⟩
  · simp only [List.forall_mem_cons, List.not_mem_nil, false_imp_iff, implies_true, and_true]
    and_intros <;> first | decide +kernel | exact rfl
  all_goals and_intros <;> first | decide +kernel | exact rfl

/-- A copy, a stream, a stale translation and a partial. -/
def tCaches : Coh :=
  { State.reset.coh with
    copies := [tCopy], streams := [⟨0, 3, 7, 1, 0⟩], tlb := [⟨0, 1, 0, 0x50DF, 1, [161], some 7, true⟩], partials := [⟨0, 1,
      161, 0, ⟨0x80, 0x80, 0, 0⟩, [], false⟩] }

/-- A package whose neighbour, package 1 of a pod of two, can be reached. -/
def tPod (s : State) : State := { s with hub := { s.hub with podSize := 2 } }

theorem test_met_DirectoryAndCaches :
    (let s := tAcc (tOp .st .store tLane .none) { State.reset.coh with l2 := [⟨1, 161, 0, .o, 0x55, 0, none, false, none, none⟩, ⟨2, 161, 0, .s, 0x55, 0, none, false, none, none⟩] }
     LineIs s 161 0 0x55 ∧ l2At s 2 161 = some ⟨2, 161, 0, .s, 0x55, 0, none, false, none, none⟩ ∧ s.reg.tags = [] ∧
       s.coh.pins = [] ∧ wbAt s 161 = none ∧
      lineUnknown s 161 = false ∧ l2At s 1 161 = some ⟨1, 161, 0, .o, 0x55, 0, none, false, none, none⟩ ∧
        inFailedRange s (128 * 161) = false ∧
      isHostWin (128 * 161) = false ∧ keyGenOf s 0 ≠ 0 ∧ (pendingAt s 0 161 false).isSome = true ∧ l2At s 0 161 = none ∧
      (∃ o a, pendingAt s 0 161 false = some (o, a) ∧ dirServes s o 0 161 false = true) ∧ taggedDie s 161 = none ∧ wayFree s 0 161 = true) ∧
    (let s := { tSt tStrand with time := 50000000, coh := tCaches }
     s.coh.copies[0]? = some tCopy ∧ tCopy.parked = false ∧ tCopy.expiry ≤ rtNs s ∧ 0 + 4096 ≤ coreCc s 0) ∧
    (let s := tAcc (tOp .st .store { tLane with phase := .done } .none) tCaches
     let x : Tlb := ⟨0, 1, 0, 0x50DF, 1, [161], some 7, true⟩
     s.coh.tlb[0]? = some x ∧ tlbInUse s x = false ∧ ∃ o, tabFind s.ops 4 = some o ∧ o.back = false ∧
      kindWrites o.kind = true ∧ ∃ a ∈ o.lanes, lineOf a.pa ∈ x.lines) ∧
    (let s := tPod { tSt tStrand with coh := { State.reset.coh with remote := [⟨1, 161, 0, true, 0⟩], l2 := [⟨1, 2 ^ 42, 2, .s, 5, 0, none, false, none, none⟩] } }
     (s.coh.remote.find? fun x => x.line == 161 && x.owned) = some ⟨1, 161, 0, true, 0⟩ ∧ lineHeld s 161 = false ∧ pkgAlive s 1 = true ∧
      2 ^ 41 ≤ 2 ^ 42 ∧ pkgAlive s (2 ^ 42 / 2 ^ 41 - 1) = true ∧ taggedDie s (2 ^ 42) = none ∧
        (setLines s 0 (2 ^ 42)).length + (setParked s 0 (2 ^ 42)).length < 16 ∧
        l2Any s (2 ^ 42) = some ⟨1, 2 ^ 42, 2, .s, 5, 0, none, false, none, none⟩ ∧
        (∀ x ∈ s.coh.l2, x.line = 2 ^ 42 → x.lease = none) ∧ l2At s 0 (2 ^ 42) = none ∧ l2Owner s (2 ^ 42) = none ∧
        wayFree s 0 (2 ^ 42) = true) ∧
    (let s := tAcc (tOp .st .store tLane .none) { State.reset.coh with l2 := [⟨0, 161, 0, .s, 0x55, 0, none, false, none, none⟩] }
     (∃ o a, pendingAt s 0 161 true = some (o, a) ∧ dirServes s o 0 161 true = true) ∧ taggedDie s 161 = none ∧
       (l2At s 0 161).isSome = true) := by
  refine ⟨⟨⟨rfl, ?_, ?_, ?_⟩, ?_⟩, ?_, ⟨rfl, ?_, _, rfl, rfl, rfl, _, List.mem_singleton.mpr rfl, ?_⟩, ?_, ?_⟩ <;>
    and_intros <;> first | decide +kernel | exact ⟨_, _, rfl, by decide +kernel⟩

/-- A span of the placed launch whose tile 0 waits to seat, with no workgroup there yet. -/
def tSeating (now : Nat) : State :=
  { tStL { tSpan with wait := .seating [(0, 0, 0)] none } (fun r => { r with carve := 64 }) with wgs := [], time := now, nextId := 9 }

/-- Line 161, dirty in the write-back buffer of die 0. -/
def tWb : State := tAcc (tOp .ld .load tLane .none) { State.reset.coh with wbacks := [⟨tSole, false⟩] }

theorem test_met_DirectoryAndCaches_more :
    (poisoned tWb 161 = false ∧ l2At tWb 1 161 = none ∧ l2Owner tWb 161 = none ∧ wbAt tWb 161 = some ⟨tSole, false⟩ ∧
      tSole.die = 0 ∧ tSole.line = 161 ∧ tSole.home = 0 ∧ lineUnknown tWb 161 = false ∧ heldAtHub tWb (128 * 161) = false ∧
      isHbm (128 * 161) = true ∧ (∀ k ∈ linksBetween tWb 0 (homeDie (128 * 161)), linkUp tWb k = true) ∧
      inFailedRange tWb (128 * 161) = false ∧ isHostWin (128 * 161) = false ∧ keyGenOf tWb 0 ≠ 0) ∧
    (∀ y ∈ [(⟨0, 1, 0, 0x50DF, 1, [161], some 7, false⟩ : Tlb), ⟨0, 1, 0, 0x50DF, 1, [161], some 7, true⟩],
      let s := tAcc (tOp .ld .load tLane .none) { State.reset.coh with tlb := [y] }
      s.coh.tlb[0]? = some y ∧ tlbInUse s y = true ∧ ∀ z ∈ s.coh.tlb, z.unit = y.unit → z.dropped = false → ∀ m ∈ z.stale, 7 ≤ m) ∧
    (let s := tPod { tSt tStrand with coh := { State.reset.coh with l2 := [⟨1, 2 ^ 42, 2, .m, 5, 0, none, false, none, none⟩] } }
     lineHome (2 ^ 42) ≠ 0 ∧ (l2Owner s (2 ^ 42)).isSome = true ∧ pkgAlive s (lineHome (2 ^ 42) - 1) = true ∧ lineHome 161 = 0 ∧
      isHostWin (128 * 161) = false ∧ inFailedRange s (128 * 161) = false ∧ keyGenOf s 0 ≠ 0) := by
  and_intros <;> decide +kernel

theorem test_met_TileSeats :
    (let t := { tSpan with wait := .seating [(0, 0, 0)] none }
     let s := tSeating 0
     Waits s 3 t ∧ ([((0 : Nat), (0 : Nat), (0 : Nat))].find? fun x => x.1 == 0) = some (0, 0, 0) ∧
       spanQuiet s 3 = true ∧
      (ctxOf s 1).fcb.state = 0 ∧ wgOfTile s 1 0 = none ∧
      placeTile s 1 0 (tileMasks (launchOf s 1).lrec t.box 0).length false = some 0 ∧ outranked s 1 0 = false ∧
      (∀ p ∈ s.threads, p.1 < s.nextId) ∧ (tileMasks (launchOf s 1).lrec t.box 0).length = 1) ∧
    (let s := { tSeating 4000000 with wgs := (List.range 128).map fun k => (100 + k, { placedWg 1 with core := k, tile := 1 }) }
     wgOfTile s 1 0 = none ∧ (0 : Nat) + 10000 ≤ rtNs s ∧ placeTile s 1 0 1 false = none) := by
  refine ⟨⟨⟨rfl, rfl, rfl⟩, ?_⟩, ?_⟩ <;> and_intros <;> decide +kernel

/-- Queue 0 of the placed context, awake with one entry of eight words at 0x7000, after the boot; the launch record stands at
0x100. -/
def tQueue (e : List Nat) : State :=
  tCtx { tMem (tSt tStrand) ([(0x4000, 0x50DF), (0x6000, 0x7000), (0x6008, 2 ^ 16 + 1), (0x6018, 1)] ++
    (tRecord.map fun x => (0x5100 + x.1, x.2)) ++ e.zipIdx.map fun p => (0x7000 + 8 * p.2, p.1)) with
      boot := { Boot.atReset with stage := 7 } }
    fun c => { c with qtable := 0x6000, woken := [0] }

/-- The placed launch with its one item retired and no thread left. -/
def tDone : State :=
  { tSt tStrand with threads := [], launches := [(1, { placedLaunch 1 with retired := [⟨0, 1, 0, 1, 0, 1⟩] })] }

theorem test_met_QueuesAndLaunches :
    (∀ e ∈ ([[5], [1 + 2 ^ 9, 0x100], [1, 0x100], [1, 0x200], [2, 0x80, 0x100, 0], [3, 0x80, 0x100], [4, 0x80, 0],
      [4, 0x81, 0]] : List (List Nat)),
      (tabFind (tQueue e).ctxs 1).isSome = true ∧ (ctxOf (tQueue e) 1).fcbOnly = false ∧ backed (tQueue e) (qAddr (tQueue e) 1 0) = true ∧
        backed (tQueue e) (qSlot (tQueue e) 1 0 (qHead (tQueue e) 1 0)) = true ∧ qTurn (tQueue e) 1 0 = true ∧
        headKind (tQueue e) 1 0 = e.headD 0 % 256) ∧
    headBad (tQueue [1 + 2 ^ 9, 0x100]) 1 0 = true ∧ headBad (tQueue [1, 0x100]) 1 0 = false ∧
    headChild (tQueue [1, 0x100]) 1 0 = none ∧ (headRec (tQueue [1, 0x100]) 1 0).isSome = true ∧
    (∀ b ∈ headRec (tQueue [1, 0x100]) 1 0,
      launchFails (acquireTables (hubAcquire (tQueue [1, 0x100]) 1 0x100 256) 1 (parseRec b)) 1 b = 0) ∧
    (headRec (tQueue [1, 0x200]) 1 0).isSome = true ∧
    (∀ b ∈ headRec (tQueue [1, 0x200]) 1 0,
      launchFails (acquireTables (hubAcquire (tQueue [1, 0x200]) 1 0x200 256) 1 (parseRec b)) 1 b ≠ 0) ∧
    headChild { tQueue [1, 0x100] with launches := [(1, { placedLaunch 1 with slot := some (0, 0) })] } 1 0 = some 1 ∧
    rsdFault (launchOf (tQueue [2, 0x80, 0x100, 0]) 1) 0 0 = none ∧
    (rsdKind 0 = 0 ∧ headWord (tQueue [2, 0x80, 0x100, 7 * 2 ^ 61]) 1 0 3 = 7 * 2 ^ 61 ∧
      rsdFault (launchOf (tQueue []) 0) (7 <<< 61) 0 ≠ none) ∧
    (∀ k ∈ [2, 3],
      let s := tQueue [k, 0x80, 0x80, 0]
      headBad s 1 0 = false ∧ headWord s 1 0 1 + headWord s 1 0 2 ≤ 2 ^ 57 ∧ headWord s 1 0 2 ≠ 0 ∧
      headWord s 1 0 1 / 128 = (headWord s 1 0 1 + headWord s 1 0 2 - 1) / 128 ∧
      (translate s 1032 1 (headWord s 1 0 1 / 128 * 128)).isOk = true) ∧
    (∀ k ∈ [2, 3],
      let s := tQueue [k, 2 ^ 57 - 0x80, 0x100, 0]
      headBad s 1 0 = false ∧ headWord s 1 0 2 ≠ 0 ∧ 2 ^ 57 < headWord s 1 0 1 + headWord s 1 0 2) ∧
    (waitWord (tQueue [4, 0x80, 0]) 1 0).isSome = true ∧ waitWord (tQueue [4, 0x81, 0]) 1 0 = none ∧
    (rangeOk (tQueue []) 1 0x80 8 true = true ∧ rangeOk (tQueue []) 1 0x2000 8 true = false ∧
      (ctxOf (tQueue []) 1).desc = none ∧
      tabFind { tQueue [] with entries := [(7, ⟨1, 0, 1, 0x80, 9, 1, true, 0⟩)] }.entries 7 = some ⟨1, 0, 1, 0x80, 9,
        1, true, 0⟩ ∧
      (0 : Nat) ≤ rtNs (tQueue []) ∧ (0x80 : Word).toNat % 8 = 0 ∧ (tQueue []).coh.lockets = [] ∧ (tQueue []).coh.l2 = [] ∧
      (tQueue []).coh.wbacks = [] ∧ (tQueue []).coh.partials = [] ∧ (tQueue []).coh.remote = [] ∧ (tQueue []).mem.poison = [] ∧
      physWaits (tQueue []) (qAddr (tQueue []) 1 0) 32 true = false ∧ rangeWaits (tQueue []) 1 0x80 8 true = false ∧
      rangeOk { tQueue [] with entries := [(7, ⟨1, 0, 1, 0x80, 9, 1, true, 0⟩)] } 1 0x80 8 true = true) ∧
    (tabFind tDone.launches 1 = some { placedLaunch 1 with retired := [⟨0, 1, 0, 1, 0, 1⟩] } ∧
      launchQuiet tDone 1 { placedLaunch 1 with retired := [⟨0, 1, 0, 1, 0, 1⟩] } = true ∧ liveItems tDone 1 = 0 ∧
      rangeWaits tDone 1 (placedLaunch 1).lrec.compl.toNat 32 true = false ∧ ∀ t ∈ tDone.threads, t.2.launch ≠ 1) := by
  and_intros <;> decide +kernel

/-- A stop of the strand whose record has been sent. -/
def tStop (kind : StopKind) (cause : Nat) (rep : Bool) : Stop :=
  { mkStop (tSt tStrand) tStrand kind cause 0 0 with replay := rep, host := true }

theorem test_met_StopsAreRecorded :
    (tabFind (tSt tStrand).threads 3 = some tStrand ∧ tStrand.seat = some tSeat ∧ tSeat.region = 0 ∧
      (tabFind (tSt tStrand).ctxs 1).isSome = true) ∧
    (tabFind (tReg tIn tRegion [] [] []).threads 3 = some tIn ∧ tIn.seat = some tInSeat ∧ tInSeat.region ≠ 0 ∧
      aborting (tReg tIn tRegion [] [] []) 9 = false ∧ committing (tReg tIn tRegion [] [] []) 9 = false ∧
      committing (tReg tIn tCommits [] [] []) 9 = true ∧ aborting (tReg tIn (tAborts []) [] [] []) 9 = true) := by
  and_intros <;> first | decide +kernel | exact rfl

theorem test_met_RecordsAndResume :
    (let s := tCtx (tSt tStrand) fun x => { x with recs := [⟨[1, 2, 3, 4, 5, 6, 7, 8], some 3, none⟩], fcb := { x.fcb with fqBase := 0x6000, fqLog2 := 2 } }
     ∃ x, tabFind s.ctxs 1 = some x ∧ x.recs = [⟨[1, 2, 3, 4, 5, 6, 7, 8], some 3, none⟩] ∧
      (x.fcb.fqTail - x.fcb.fqHead).toNat ≠ 2 ^ x.fcb.fqLog2 ∧ backed s 0x6000 = true ∧ physWaits s 0x6000 64 true = false) ∧
    (let o := { tEng (.mcommit 1 0) 0 [] true with failing := true }
     let s := tCtx (tEngSt o false) fun x => { x with recs := [⟨[1, 2, 3, 4, 5, 6, 7, 8], none, some 4⟩], fcb := { x.fcb with fqBase := 0x6000, fqLog2 := 2 } }
     tabFind s.engq 4 = some o ∧ o.failing = true ∧ (ctxOf s 1).recs = [⟨[1, 2, 3, 4, 5, 6, 7, 8], none, some 4⟩] ∧
      backed s 0x6000 = true) ∧
    (tabFind (tSt tStrand).ctxs 7 = none ∧ 7 < 65536) ∧
    (∀ p ∈ [tStop .fault 0x10 true, tStop .fault 0x01 false, tStop .trap 0x21 false],
      (namedStrand (tSt { tStrand with stop := some p }) 1 (strandBits (tSt tStrand) tStrand)).isSome = true) ∧
    (let v : BitVec 64 := BitVec.ofNat 64 (strandBits (tSt tStrand) tStrand * 2 ^ 24 + 1)
     v.toNat / 4 % 2 ^ 22 = 0 ∧ v.toNat / 2 ^ 48 = 0 ∧ v.toNat / 2 ^ 24 = strandBits (tSt tStrand) tStrand ∧
       v.toNat % 4 = 1) ∧
    namedStrand (tSt tStrand) 1 0 = none ∧ (3 : BitVec 64).toNat % 4 = 3 := by
  refine ⟨⟨_, rfl, rfl, ?_, ?_, ?_⟩, ?_⟩ <;> and_intros <;> first | decide +kernel | exact rfl

theorem test_met_ContextsEnd :
    ((tabFind (tSt tStrand).ctxs 1).isSome = true ∧ (tSt tStrand).reg.regions = []) ∧
    (let s := tCtx (tSt { tStrand with wait := .snooze 5 }) fun x => { x with hang := 2 ^ 40, fcb := { x.fcb with hangLen := 4, hangBuf := 0x6000 } }
     s.hub.hangThr ≠ 0 ∧ s.hub.hangThr.toNat ≤ (ctxOf s 1).hang / Config.cycleTicks 3 ∧ (ctxOf s 1).fcb.state = 0 ∧
      backed s 0x6000 = true ∧ physWaits s 0x6000 16 true = false ∧ s.hub.fmode.getLsbD 2 = true) ∧
    (let s := { tCtx (tSt { tStrand with wait := .path .ld 0 }) (fun x => { x with hang := 2 ^ 40 }) with hub := { Hub.atReset with fmode := 0 } }
     s.hub.fmode.getLsbD 2 = false ∧ ∀ l ∈ s.launches, l.2.lrec.hostFor = 0) := by
  and_intros <;> decide +kernel

/-- The context in a state of its ladder, its pre-emption begun at time 0. -/
def tLadder (st : Nat) (now : Nat) : State :=
  { tCtx (tSt tStrand) (fun x => { x with preAt := some 0, frozen := decide (2 ≤ st), fcb := { x.fcb with state := st, saveBase := 0x8000, saveLen := 2 ^ 40 } }) with
    time := now }

/-- A launch of context 9, of queue priority 1, whose tile 0 finds no core: core 0 is full. -/
def tWanted (s : State) : State :=
  { tMem s [(0x6008, 2 ^ 16 + 2 ^ 5 + 1), (0x6018, 1)] with
    ctxs := s.ctxs ++ [(9, { Ctx.blank with root := 0x1000, qtable := 0x6000 })]
    launches := s.launches ++ [(20, { placedLaunch 9 with lrec := { (placedLaunch 9).lrec with vd := 1, vq := 1, vc := 1, carve := 449 } })]
    entries := [(21, ⟨9, 0, 1, 0, 0, 20, false, 0⟩)]
    threads := s.threads ++ [(22, { tSpan with ctx := 9, launch := 20, wait := .seating [(0, 0, 0)] none })] }

theorem test_met_PreemptionLadder :
    (∀ st ∈ [0, 1, 2, 3, 4], (tabFind (tLadder st 0).ctxs 1).map (·.fcb.state) = some st) ∧
    (0 ∈ ctxCores (tWanted (tLadder 0 0)) 1 ∧
      wanted (tWanted (tLadder 0 0)) 0 (ctxPrio (tWanted (tLadder 0 0)) 1) = true) ∧
    ((∀ w ∈ { tLadder 1 0 with wgs := [] }.wgs, (launchOf (tLadder 1 0) w.2.launch).ctx ≠ 1)) ∧
    ((ctxOf (tLadder 1 (342 * 200000)) 1).preAt = some 0 ∧ 0 + 200 * 1000 ≤ rtNs (tLadder 1 (342 * 200000)) ∧
      (tLadder 1 0).hub.drainDl < (tLadder 1 0).hub.resetDl ∧ (tLadder 1 0).hub.fmode.getLsbD 5 = false ∧
      ((0x65 : BitVec 7).getLsbD 5 = true) ∧ (ctxOf (tLadder 1 0) 1).told = 0 ∧
      0 + 10000 * 1000 ≤ rtNs (tLadder 2 (342 * 10000000))) ∧ (tLadder 0 0).reg.regions = [] := by
  and_intros <;> decide +kernel

/-- That state with 8 bytes of scratch and no accumulators for the placed workgroup, and with a save area of a length. -/
def tSaving (len : Nat) : State :=
  let s := tCtx (tWanted (tLadder 2 0)) fun x => { x with fcb := { x.fcb with saveLen := BitVec.ofNat 64 len } }
  { s with launches := s.launches.map fun p =>
      if p.1 = 1 then (1, { p.2 with lrec := { p.2.lrec with scratch := 8, acc := 0, shadow := 0 } }) else p }

theorem test_met_SavesAndResumes :
    (claimed (tWanted (tLadder 2 0)) 1 0 5 = true ∧ unitQuiet (tWanted (tLadder 2 0)) 1 0 5 = true ∧
      (runOutAll (tWanted (tLadder 2 0)) 1 0).isSome = true) ∧
    (let s := tSaving (2 ^ 40)
     (ctxOf s 1).fcb.state = 2 ∧ (ctxOf s 1).saveShort = false ∧ claimed s 1 0 4 = true ∧ unitQuiet s 1 0 4 = true ∧
      backed s (ctxOf s 1).fcb.saveBase.toNat = true ∧
      (ctxImages (vacateUnit s 1 0 4) 1).length ≤ (ctxOf s 1).fcb.saveLen.toNat ∧ s.coh.lockets = [] ∧ s.coh.l2 = [] ∧
      s.coh.wbacks = [] ∧ s.coh.partials = [] ∧ s.coh.remote = [] ∧ s.mem.poison = [] ∧
      physWaits s (ctxOf s 1).fcb.saveBase.toNat (ctxImages (vacateUnit s 1 0 4) 1).length true = false) ∧
    (let s := tSaving 8
     claimed s 1 0 4 = true ∧ unitQuiet s 1 0 4 = true ∧ (ctxOf s 1).fcb.saveLen.toNat < (ctxImages (vacateUnit s 1 0 4) 1).length) ∧
    ((∀ w ∈ (tLadder 2 0).wgs, w.2.core < 1024 ∧ w.2.sramOut = false ∧ w.2.engOut = false) ∧
      (∀ p ∈ (tLadder 2 0).threads, ∀ st ∈ p.2.seat, st.core < 1024) ∧ physWaits (tLadder 2 0) 0x8000 0 false = false ∧
      ∀ k ∈ ctxCores (tLadder 2 0) 1, wanted (tLadder 2 0) k (ctxPrio (tLadder 2 0) 1) = false) := by
  and_intros <;> decide +kernel

/-- A die out of reset. -/
def tClock : Die := { Die.atReset with resetting := false }

/-- Die 0 with another clock. -/
def tDie (now : Nat) (d : Die) : State := { tSt tStrand with dies := [(0, d)], time := now }

/-- Die 0 stopped at time 0 to go on in P-state 1 or, when another has been written since, in that one. -/
def tRelock (target : BitVec 2) : Die := { tClock with stopped := some (0, 4, 9), next := 1, target := target }

theorem test_met_PStateChanges :
    ((0 : Nat) < 8 ∧ (dieOf (tDie 700 tClock) 0).stopped = none ∧ (dieOf (tDie 700 tClock) 0).resetting = false ∧
      (dieOf (tDie 700 tClock) 0).stepAt ≤ (tDie 700 tClock).time ∧
      (dieOf (tDie 700 tClock) 0).cur ≠ (dieOf (tDie 700 tClock) 0).cur + 1) ∧
    ((dieOf (tDie 700 Die.atReset) 0).resetting = true ∧ (dieOf (tDie 700 Die.atReset) 0).stopped = none) ∧
    (let d := { tClock with stopped := some (900, 4, 9), target := 1, next := 1 }
     (dieOf (tDie 700 d) 0).stopped = some (900, 4, 9) ∧ (tDie 700 d).time < 900 ∧ (dieOf (tDie 700 d) 0).resetting = false ∧
      (dieOf (tDie 700 d) 0).cur = 3) ∧
    (∀ v ∈ ([1, 2] : List (BitVec 2)),
      (dieRaw (tDie (3000 * Config.ticksPerNs) (tRelock v)) 0).stopped = some (0, 4, 9) ∧
      0 + 3000 * Config.ticksPerNs ≤ (tDie (3000 * Config.ticksPerNs) (tRelock v)).time ∧
      (dieOf (tDie 700 (tRelock v)) 0).stopped = some (0, 4, 9) ∧ (dieOf (tDie 700 (tRelock v)) 0).stopped.isSome = true ∧
      0 ≤ (tDie 700 (tRelock v)).time ∧ (tDie 700 (tRelock v)).time < 0 + 3000 * Config.ticksPerNs) ∧
    (tRelock 1).target = (tRelock 1).next ∧ (tRelock 2).target ≠ (tRelock 2).next := by
  and_intros <;> decide +kernel

/-- Links 0 and 8 of the fabric, with consecutive failures, down or not. -/
def tLink (fails : Nat) (down : Bool) (rev : Nat) : State :=
  { tSt tStrand with links := [(0, ⟨down, fails, 0, 0, rev⟩), (8, ⟨down, fails, 0, 0, rev⟩)] }

/-- Die 0 cut off, with a line that its directory does not know, probed 100 µs ago, and one that it holds. -/
def tCutOff : State :=
  { tLink 9 true 0 with
    time := 342 * 100000
    coh := { State.reset.coh with
      ulines := [⟨161, true, 0⟩], wbacks := [⟨⟨0, 170, 0, .m, 7, 0, none, false, none, none⟩, false⟩]
      l2 := [⟨0, 161, 0, .m, 5, 0, none, false, none, none⟩, ⟨1, 162, 0, .s, 6, 0, none, false, none, none⟩] } }

theorem test_met_LinksAndRecovery :
    ((linkOf (tLink 0 false 1) 0).down = false ∧ (linkOf (tLink 0 false 1) 0).rev ≠ 0 ∧ (linkOf (tLink 0 false 1) 0).fails < 9 ∧
      dieStopped (dieOf (tLink 0 false 1) 0) (tLink 0 false 1).time = false ∧ 9 ≤ (linkOf (tLink 9 false 1) 0).fails ∧
      (tLink 9 false 1).ops = [] ∧ (tLink 9 false 1).engq = [] ∧ (linkOf (tLink 9 false 0) 0).rev = 0) ∧
    ((linkOf (tLink 0 true 1) 0).down = true ∧ (linkOf (tLink 0 true 1) 0).rev ≠ 0 ∧ (tLink 0 true 1).coh.ulines = []) ∧
    (let s := { tSt tStrand with coh := { State.reset.coh with ulines := [⟨161, true, 0⟩] } }
     (⟨161, true, 0⟩ : ULine) ∈ s.coh.ulines ∧ ∀ d, d < 8 → dieAnswers s d = true) ∧
    (dieAnswers tCutOff 0 = false ∧ (⟨161, true, 0⟩ : ULine) ∈ tCutOff.coh.ulines ∧ 0 + 100000 ≤ rtNs tCutOff) ∧
    ((mdieOf (tSt tStrand) 0).failed = false ∧ (8 : Nat) ≤ (8 : BitVec 64).toNat) ∧
    (let s := { tSt tStrand with time := 342000000, hub := { Hub.atReset with silent := [(3, 0)] } }
     tabFind s.hub.silent 3 = some 0 ∧ 0 + 1000000 ≤ rtNs s ∧ 3 ∉ s.hub.deadPkgs) ∧
    ((tSt tStrand).hub.salvEn = false ∧ (0 : Nat) < 8 ∧ 128 * 161 < 0xC000000000 ∧ 128 * 161 / 0x1800000000 = 0) := by
  and_intros <;> decide +kernel

/-- An access held at the hub since time 0 because its pair's partition is being reset. -/
def tHeldAcc (path : Path) (kind : AccKind) : State :=
  { tAcc (tOp path kind tLane .none) State.reset.coh with
    time := 342 * 50000001, hub := { Hub.atReset with partBusy := true, partMask := 255, held := [⟨.lane 3 1 0, 161, true, 0, false⟩] } }

/-- An access held since time 0 for the same reset. -/
def tHeldBy (h : Holder) : State :=
  { tSt tStrand with
    time := 342 * 50000001, hub := { Hub.atReset with partBusy := true, partMask := 255, held := [⟨h, 161, true, 0, false⟩] } }

theorem test_met_OutsideAccesses :
    (∀ w ∈ [false, true], outsideServed (tSt tStrand) 0x5080 4 w = true ∧
      linePartials (tSt tStrand) (0x5080 / 128) = [] ∧ (tSt tStrand).hub.held = [] ∧ wbAt (tSt tStrand) (0x5080 / 128) = none ∧
      locketAt (tSt tStrand) (0x5080 / 128) = none ∧ l2Any (tSt tStrand) (0x5080 / 128) = none ∧
      inFailedRange (tSt tStrand) 0x5080 = false ∧ (tSt tStrand).mem.poison.contains (0x5080 / 128) = false) ∧
    (∀ w ∈ [false, true], pkgAlive (tPod (tSt tStrand)) 1 = true ∧ (161 : Nat) < 2 ^ 41 ∧
      outsideServed (tPod (tSt tStrand)) (128 * 161) 8 w = true ∧ linePartials (tPod (tSt tStrand)) 161 = [] ∧
      locketAt (tPod (tSt tStrand)) 161 = none ∧ (tPod (tSt tStrand)).reg.tags = []) ∧
    LineIs (tPod (tSt tStrand)) 161 0 0 ∧ lineKey (tPod (tSt tStrand)) 161 = 0 ∧
    (∀ h ∈ [Holder.engine 0 1 2 0, .host false 0x5080 4 0, .host true 0x5080 4 9],
      (tHeldBy h).hub.held[0]? = some ⟨h, 161, true, 0, false⟩ ∧ heldAtHub (tHeldBy h) (128 * 161) = true ∧
        0 + 50000000 < rtNs (tHeldBy h)) ∧
    (outsideOk (tHeldBy (.engine 0 1 2 0)) 0x5080 4 = true ∧ lineHeld (tHeldBy (.engine 0 1 2 0)) 161 = true) ∧
    (∀ p ∈ [(Path.ld, AccKind.load), (.atm, .atomic), (.st, .store)],
      LaneInFlight (tHeldAcc p.1 p.2) 4 0 (tOp p.1 p.2 tLane .none) tLane ∧
        (⟨.lane 3 1 0, 161, true, 0, false⟩ : HeldAcc) ∈ (tHeldAcc p.1 p.2).hub.held ∧ (0 : Nat) ≠ 2 ^ 48 ∧
        0 + 50000000 < rtNs (tHeldAcc p.1 p.2) ∧ tLane.phase = .todo ∧
          heldAtHub (tHeldAcc p.1 p.2) tLane.pa = true) := by
  refine ⟨?_, ?_, ⟨rfl, ?_, rfl, ?_, ?_, ?_⟩, ?_, ?_, ?_, ?_⟩
  on_goal 10 =>
    simp only [List.forall_mem_cons, List.not_mem_nil, false_imp_iff, implies_true, and_true, LaneInFlight]
    and_intros <;> first | decide +kernel | exact rfl
  all_goals decide +kernel

/-- An image for a unit, signed by key 7. -/
def tImage (unit : Nat) (c : Bool) (v : W32) : Image := ⟨unit, [1], [2], 7, v, unit, c, 1, 1, 1⟩

/-- A boot in a stage, with images offered for the units 0 to 17 and key 7 fused. -/
def tBoot (stage : Nat) (bad : List Nat) : State :=
  { State.reset with boot := { State.reset.boot with powered := true, stage := stage, badLinks := bad, fuses := [(7, false)], offered := (List.range 18).map fun u => tImage u true 1 } }

/-- The boot waiting for an image of die 3. -/
def tWaits : State := let s := tBoot 3 []; { s with boot := { s.boot with waiting := some 3, failDie := 3, failCode := 1 } }

/-- Whether a signature is accepted is not the model's to say (assumption 2): the clauses that ask for an accepted image are
met under it. -/
theorem test_met_BootStages :
    State.reset.boot.powered = false ∧
    (∀ n, 1 ≤ n → n ≤ 6 → (tBoot n []).boot.powered = true ∧ (tBoot n []).boot.waiting = none ∧
      (tBoot n []).boot.stage = n) ∧
    (48 ∉ (tBoot 1 []).boot.badLinks ∧ 48 ∈ (tBoot 1 [48]).boot.badLinks ∧
      imageFor { (tBoot 2 []).boot with offered := [] } 17 = none ∧ imageFor (tBoot 2 []).boot 17 = some (tImage 17 true 1) ∧
      imageFails { (tBoot 2 []).boot with fuses := [] } 17 (tImage 17 true 1) ≠ 0) ∧
    (Config.signatureVerifies [1] [2] 7 = true → ∀ u, u ≤ 17 →
      imageFor (tBoot 3 []).boot u = some (tImage u true 1) ∧ imageFails (tBoot 3 []).boot u (tImage u true 1) = 0) ∧
    (tWaits.boot.offered[3]? = some (tImage 3 true 1) ∧ tWaits.boot.waiting = some (tImage 3 true 1).unit) ∧
    imageFails { tWaits.boot with fuses := [] } 3 (tImage 3 true 1) ≠ 0 ∧
    (commonRev (4, 3) = 0 ∧ commonRev (7, 3) ≠ 0) ∧
    { Hub.atReset with partBusy := true, partMask := 3 }.partBusy = true := by
  refine ⟨rfl, ?_, ?_, ?_, ?_, ?_, ?_, rfl⟩
  · intro n h1 h6; exact ⟨rfl, rfl, rfl⟩
  · decide +kernel
  · intro h u hu
    interval_cases u <;> exact ⟨rfl, by simp only [imageFails, tBoot, tImage, h, unitTarget]; decide⟩
  all_goals decide +kernel

theorem test_met_PackageRegisters :
    ({ State.reset with hub := { Hub.atReset with partBusy := true } }.hub.partBusy = true ∧
      State.reset.hub.partBusy = false ∧
      (0x20000 : BitVec 64).setWidth 8 = (0 : BitVec 8) ∧ (3 : BitVec 64).setWidth 8 ≠ (0 : BitVec 8) ∧
      (3 : BitVec 64).getLsbD 0 = true) ∧
    ((tBoot 3 []).boot.powered = true ∧ 3 ≤ (tBoot 3 []).boot.stage) ∧
    ((1 : Nat) ≤ 511 ∧ (511 : Nat) < 512) ∧ (tabFind (tSt tStrand).ctxs 1).isSome = true := by
  and_intros <;> decide +kernel

theorem test_met_StepRunsDecoded :
    (let s := State.reset.withFetchWord 32 0x04304200
     tabFind s.threads 3 = some (placedThread 1 1 2 false) ∧ mayIssue (placedThread 1 1 2 false) = true ∧
       s.agenda.head? = some (.run 3) ∧
      scalarReady s.stepping 3 (placedThread 1 1 2 false) = true ∧
      (fetchWord s.stepping (placedThread 1 1 2 false) (placedThread 1 1 2 false).pc.toNat).toOption = some 0x04304200 ∧
      isSX 0x04304200 = false ∧ (decodeScalar 0x04304200 0).toOption = some (.sadd 3 1 2)) ∧
    (let s := State.reset.withFetchWord 64 0x1234567828900000
     scalarReady s.stepping 3 (placedThread 1 1 2 false) = true ∧ s.agenda.head? = some (.run 3) ∧
      (fetchWord s.stepping (placedThread 1 1 2 false) (placedThread 1 1 2 false).pc.toNat).toOption = some 0x28900000 ∧
      isSX 0x28900000 = true ∧
      (fetchWord s.stepping (placedThread 1 1 2 false) ((placedThread 1 1 2 false).pc + 4).toNat).toOption =
        some 0x12345678) ∧
    (let s := State.reset.withFetchWord 96 0x1C1401808FC10100000000
     let t := placedThread 1 1 2 true
     tabFind s.threads 3 = some t ∧ mayIssue t = true ∧ s.agenda.head? = some (.lane 3) ∧
       laneReady s.stepping 3 t = true ∧
      (t.seat.map (·.blocks)) = some [⟨1, 0, 0, 0, 1, [], []⟩] ∧ 0 + 3 * 0 < (lrecOf s.stepping t).laneLen ∧
      (fetchWord s.stepping t (laneVa s.stepping t 0)).toOption = some 0 ∧
      (fetchWord s.stepping t (laneVa s.stepping t 1)).toOption = some 0x808FC101 ∧
      (fetchWord s.stepping t (laneVa s.stepping t 2)).toOption = some 0x001C1401 ∧
      (decodeLane (0x001C1401#32 ++ 0x808FC101#32 ++ 0#32)).toOption = some (.iadd ⟨0, 7, 5, 1, 0x202, 252, 1, 0, 0,
        0, 0, 1, 0⟩)) ∧
    encode (.doorbell 1 0) = none ∧
    (let s := { State.reset.withFetchWord 32 0x04304200 with agenda := [.umush 0 (.sadd 3 1 2)] }
     tabFind s.threads 3 = some (placedThread 1 1 2 false) ∧ s.agenda = .umush 0 (.sadd 3 1 2) :: []) ∧
    (let s := { State.reset.withFetchWord 96 0x1C1401808FC10100000000 with threads := [(3, { placedThread 1 1 2 true with wait := .snooze (2 ^ 63) })] }
     lanesSure (State.reset.withFetchWord 96 0x1C1401808FC10100000000).stepping 3 = true ∧
      scalarReady s.stepping 3 { placedThread 1 1 2 true with wait := .snooze (2 ^ 63) } = false ∧
      laneReady (State.reset.withFetchWord 32 0x04304200).stepping 3 (placedThread 1 1 2 false) = false) := by
  and_intros <;> first | decide +kernel | exact rfl

theorem test_met_MemoryFormKept :
    memWf (State.reset.withFetchWord 32 0x04304200).mem.bytes = true ∧
    ∃ s', step (State.reset.withFetchWord 32 0x04304200) = .next s' ∧ s'.mem.bytes ≠ [] := by
  refine ⟨by decide +kernel, _, rfl, by decide +kernel⟩
/-! ### Words of the encodings (the opcode table, R165, R166, R169, R188, R190) -/

/-- Words of scalar instructions, with what they encode. -/
def tScalarWordsA : List (W32 × W32 × Instr) :=
  [(0x04532100, 0x00000000, .sadd 5 0xC 0x21), (0x04532101, 0x00000000, .ssub 5 0xC 0x21),
   (0x04532102, 0x00000000, .smul 5 0xC 0x21), (0x04532103, 0x00000000, .smulh 5 0xC 0x21),
   (0x04532104, 0x00000000, .smulhn 5 0xC 0x21), (0x04532105, 0x00000000, .sand 5 0xC 0x21),
   (0x04532106, 0x00000000, .sor 5 0xC 0x21), (0x04532107, 0x00000000, .sxor 5 0xC 0x21),
   (0x04532108, 0x00000000, .sshl 5 0xC 0x21), (0x04532109, 0x00000000, .sshr 5 0xC 0x21),
   (0x0453210A, 0x00000000, .ssra 5 0xC 0x21), (0x0453210B, 0x00000000, .smin 5 0xC 0x21),
   (0x0453210C, 0x00000000, .smax 5 0xC 0x21), (0x0453210D, 0x00000000, .sminn 5 0xC 0x21),
   (0x0453210E, 0x00000000, .smaxn 5 0xC 0x21), (0x0453210F, 0x00000000, .sdiv 5 0xC 0x21),
   (0x04532110, 0x00000000, .sdivn 5 0xC 0x21), (0x04532111, 0x00000000, .srem 5 0xC 0x21),
   (0x04532112, 0x00000000, .sremn 5 0xC 0x21), (0x04530013, 0x00000000, .sclz 5 0xC),
   (0x04530014, 0x00000000, .spop 5 0xC), (0x04532115, 0x00000000, .saffx 5 0xC 0x21),
   (0x04532116, 0x00000000, .saffy 5 0xC 0x21), (0x04532117, 0x00000000, .saffz 5 0xC 0x21),
   (0x08532345, 0x00000000, .saddi 5 0xC 0x2345), (0x0C532345, 0x00000000, .sandi 5 0xC 0x2345),
   (0x10532345, 0x00000000, .sori 5 0xC 0x2345), (0x14532345, 0x00000000, .sxori 5 0xC 0x2345),
   (0x18530021, 0x00000000, .sshli 5 0xC 0x21), (0x1C530021, 0x00000000, .sshri 5 0xC 0x21),
   (0x20530021, 0x00000000, .ssrai 5 0xC 0x21), (0x24532345, 0x00000000, .smuli 5 0xC 0x2345),
   (0x2C214C03, 0x00000000, .scmp 2 5 0xC 3), (0x31516345, 0x00000000, .scmpi 2 5 5 0x2345),
   (0x34532102, 0x00000000, .ssel 5 0xC 0x21 2), (0x38214100, 0x00000000, .copAnd 2 5 1),
   (0x38214101, 0x00000000, .copOr 2 5 1), (0x38214102, 0x00000000, .copXor 2 5 1),
   (0x38214103, 0x00000000, .copAndn 2 5 1), (0x38214004, 0x00000000, .copNot 2 5),
   (0x38200005, 0x00000000, .copSet 2), (0x38200006, 0x00000000, .copClr 2), (0x38214007, 0x00000000, .copMov 2 5),
   (0x3C530003, 0x00000000, .sform 5 0xC 3), (0x40531D02, 0x00000000, .sld 5 0xC 1 1 2 0x102)]

/-- Words of scalar instructions, with what they encode. -/
def tScalarWordsB : List (W32 × W32 × Instr) :=
  [(0x44531502, 0x00000000, .sst 5 0xC 1 2 0x102), (0x485321A3, 0x00000000, .satom 5 0xC 0x21 1 2 3),
   (0x4C014C09, 0x00000000, .cmo 5 0xC 2 1), (0x50214000, 0x00000000, .kset 2 5),
   (0x50530001, 0x00000000, .kget 5 0xC), (0x50530101, 0x00000000, .kgetSet 5 0xC),
   (0x50214C02, 0x00000000, .krev 2 5 0xC), (0x50014C03, 0x00000000, .kdrop 5 0xC),
   (0x54532100, 0x00000000, .barArv 5 0xC 0x21), (0x54014C01, 0x00000000, .barWt 5 0xC),
   (0x54014C02, 0x00000000, .barArw 5 0xC), (0x54014C03, 0x00000000, .barInit 5 0xC),
   (0x58500008, 0x00000000, .hbarArv 5 2), (0x58014009, 0x00000000, .hbarWt 5 2),
   (0x5800000A, 0x00000000, .hbarArw 2), (0x5C00000A, 0x00000000, .fence 1 2),
   (0x616ABCDE, 0x00000000, .br 2 1 0x2ABCDE), (0x656ABCDE, 0x00000000, .call 2 1 0x2ABCDE),
   (0x68014000, 0x00000000, .jmp 5), (0x6C000000, 0x00000000, .ret), (0x74000000, 0x00000000, .exit),
   (0x78014001, 0x00000000, .wait 5 1), (0x7C000000, 0x00000000, .trapf), (0x8001ABCD, 0x00000000, .jtok 0x1ABCD),
   (0x8541ABCD, 0x00000000, .dvg 2 1 0 0x1ABCD), (0x88000000, 0x00000000, .nxt),
   (0x8C01ABCD, 0x00000000, .lpb 0x1ABCD), (0x9141ABCD, 0x00000000, .lpe 2 1 0 0x1ABCD),
   (0x95400000, 0x00000000, .brk 2 1 0), (0x98000000, 0x00000000, .seat), (0x9C000000, 0x00000000, .unseat),
   (0xA00002A5, 0x00000000, .sjoin 0x2A5), (0xA4000002, 0x00000000, .qfence 2), (0xA8014000, 0x00000000, .snooze 5),
   (0xA8014001, 0x00000000, .snoozeAbs 5), (0xC0532109, 0x00000000, .mma 5 0xC 0x21 9),
   (0xC4532109, 0x00000000, .mgath 5 0xC 0x21 9), (0xC8200001, 0x00000000, .mzero 2 1),
   (0xCC21400C, 0x00000000, .mdrain 2 5 0xC), (0xD0200001, 0x00000000, .mcommit 2 1),
   (0xD4014000, 0x00000000, .mfence 5), (0xD8530000, 0x00000000, .mwait 5 0xC),
   (0xDC214C03, 0x00000000, .cpy 2 5 0xC 3), (0xE001402A, 0x00000000, .coll 5 1 2 2),
   (0xE7123400, 0x00000000, .rbeg 0x31234)]

/-- Words of scalar instructions, with what they encode. -/
def tScalarWordsC : List (W32 × W32 × Instr) :=
  [(0xE7123401, 0x00000000, .rbegStrict 0x31234), (0xE8000000, 0x00000000, .rend), (0xEC000003, 0x00000000, .rabt 3),
   (0xF0500000, 0x00000000, .rnarLo 5), (0xF0500001, 0x00000000, .rnarHi 5),
   (0xF0014C02, 0x00000000, .rnarNarrow 5 0xC), (0xF8000000, 0x00000000, .nop), (0xF8500001, 0x00000000, .trap 5),
   (0xF8530002, 0x00000000, .srd 5 0xC), (0xF8014C03, 0x00000000, .swr 5 0xC),
   (0xF8532104, 0x00000000, .dlaunch 5 0xC 0x21)]

/-- Words of lane instructions (words 0, 1 and 2), with what they encode. -/
def tLaneWordsA : List (W32 × W32 × W32 × Instr) :=
  [(0x00000000, 0x01802101, 0x00342004, .iadd ⟨1, 5, 8, 4, 6, 2, 1, 0, 0, 0, 0, 1, 0⟩),
   (0x00000000, 0x01802101, 0x00742004, .isub ⟨1, 5, 8, 4, 6, 2, 1, 0, 0, 0, 0, 1, 0⟩),
   (0x00000000, 0x01802101, 0x00B42004, .imul ⟨1, 5, 8, 4, 6, 2, 1, 0, 0, 0, 0, 1, 0⟩),
   (0x00000000, 0x01802101, 0x00F42004, .imulh ⟨1, 5, 8, 4, 6, 2, 1, 0, 0, 0, 0, 1, 0⟩),
   (0x00000000, 0x01802101, 0x01342004, .imad ⟨1, 5, 8, 4, 6, 2, 1, 0, 0, 0, 0, 1, 0⟩),
   (0x00000000, 0x01802101, 0x01742004, .iabs ⟨1, 5, 8, 4, 6, 2, 1, 0, 0, 0, 0, 1, 0⟩),
   (0x00000000, 0x01802101, 0x01B42004, .ineg ⟨1, 5, 8, 4, 6, 2, 1, 0, 0, 0, 0, 1, 0⟩),
   (0x00000000, 0x01802101, 0x01F42004, .imin ⟨1, 5, 8, 4, 6, 2, 1, 0, 0, 0, 0, 1, 0⟩),
   (0x00000000, 0x01802101, 0x02342004, .imax ⟨1, 5, 8, 4, 6, 2, 1, 0, 0, 0, 0, 1, 0⟩),
   (0x00000000, 0x01802001, 0x02742004, .land ⟨1, 5, 8, 4, 6, 2, 0, 0, 0, 0, 0, 1, 0⟩),
   (0x00000000, 0x01802001, 0x02B42004, .lor ⟨1, 5, 8, 4, 6, 2, 0, 0, 0, 0, 0, 1, 0⟩),
   (0x00000000, 0x01802001, 0x02F42004, .lxor ⟨1, 5, 8, 4, 6, 2, 0, 0, 0, 0, 0, 1, 0⟩),
   (0x00000000, 0x01802001, 0x03342004, .lnot ⟨1, 5, 8, 4, 6, 2, 0, 0, 0, 0, 0, 1, 0⟩),
   (0x00000000, 0x01802001, 0x03742004, .andn ⟨1, 5, 8, 4, 6, 2, 0, 0, 0, 0, 0, 1, 0⟩),
   (0x00000000, 0x01802001, 0x03B42004, .shl ⟨1, 5, 8, 4, 6, 2, 0, 0, 0, 0, 0, 1, 0⟩),
   (0x00000000, 0x01802201, 0x03F42004, .shr ⟨1, 5, 8, 4, 6, 2, 2, 0, 0, 0, 0, 1, 0⟩),
   (0x00000000, 0x01802101, 0x04342004, .sra ⟨1, 5, 8, 4, 6, 2, 1, 0, 0, 0, 0, 1, 0⟩),
   (0x00000000, 0x01802001, 0x04742004, .rotl ⟨1, 5, 8, 4, 6, 2, 0, 0, 0, 0, 0, 1, 0⟩),
   (0x00000000, 0x01802101, 0x04B42004, .bfx ⟨1, 5, 8, 4, 6, 2, 1, 0, 0, 0, 0, 1, 0⟩),
   (0x00000000, 0x01802001, 0x04F42004, .bfi ⟨1, 5, 8, 4, 6, 2, 0, 0, 0, 0, 0, 1, 0⟩),
   (0x00000000, 0x01802001, 0x05342004, .clz ⟨1, 5, 8, 4, 6, 2, 0, 0, 0, 0, 0, 1, 0⟩),
   (0x00000000, 0x01802001, 0x05742004, .popc ⟨1, 5, 8, 4, 6, 2, 0, 0, 0, 0, 0, 1, 0⟩),
   (0x00000000, 0x01802001, 0x05B42004, .brev ⟨1, 5, 8, 4, 6, 2, 0, 0, 0, 0, 0, 1, 0⟩),
   (0x00000000, 0x01802101, 0x05F40404, .icmp ⟨1, 5, 1, 4, 6, 2, 1, 0, 0, 0, 0, 1, 0⟩),
   (0x00000000, 0x01802001, 0x06342004, .sel ⟨1, 5, 8, 4, 6, 2, 0, 0, 0, 0, 0, 1, 0⟩),
   (0x00000000, 0x01802101, 0x06742004, .dot4 ⟨1, 5, 8, 4, 6, 2, 1, 0, 0, 0, 0, 1, 0⟩)]

/-- Words of lane instructions (words 0, 1 and 2), with what they encode. -/
def tLaneWordsB : List (W32 × W32 × W32 × Instr) :=
  [(0x00000000, 0x01802301, 0x10342004, .fadd ⟨1, 5, 8, 4, 6, 2, 3, 0, 0, 0, 0, 1, 0⟩),
   (0x00000000, 0x01802301, 0x10742004, .fsub ⟨1, 5, 8, 4, 6, 2, 3, 0, 0, 0, 0, 1, 0⟩),
   (0x00000000, 0x01802301, 0x10B42004, .fmul ⟨1, 5, 8, 4, 6, 2, 3, 0, 0, 0, 0, 1, 0⟩),
   (0x00000000, 0x01802301, 0x10F42004, .ffma ⟨1, 5, 8, 4, 6, 2, 3, 0, 0, 0, 0, 1, 0⟩),
   (0x00000000, 0x01802301, 0x11342004, .fmin ⟨1, 5, 8, 4, 6, 2, 3, 0, 0, 0, 0, 1, 0⟩),
   (0x00000000, 0x01802301, 0x11742004, .fmax ⟨1, 5, 8, 4, 6, 2, 3, 0, 0, 0, 0, 1, 0⟩),
   (0x00000000, 0x01802301, 0x11B42004, .fabs ⟨1, 5, 8, 4, 6, 2, 3, 0, 0, 0, 0, 1, 0⟩),
   (0x00000000, 0x01802301, 0x11F42004, .fneg ⟨1, 5, 8, 4, 6, 2, 3, 0, 0, 0, 0, 1, 0⟩),
   (0x00000000, 0x01802301, 0x12340404, .fcmp ⟨1, 5, 1, 4, 6, 2, 3, 0, 0, 0, 0, 1, 0⟩),
   (0x00000000, 0x01802301, 0x12742004, .frcp ⟨1, 5, 8, 4, 6, 2, 3, 0, 0, 0, 0, 1, 0⟩),
   (0x00000000, 0x01802301, 0x12B42004, .frsq ⟨1, 5, 8, 4, 6, 2, 3, 0, 0, 0, 0, 1, 0⟩),
   (0x00000000, 0x01802301, 0x12F42004, .fsqrt ⟨1, 5, 8, 4, 6, 2, 3, 0, 0, 0, 0, 1, 0⟩),
   (0x00000000, 0x01802301, 0x13342004, .fdiv ⟨1, 5, 8, 4, 6, 2, 3, 0, 0, 0, 0, 1, 0⟩),
   (0x00000000, 0x01802301, 0x13742004, .fex2 ⟨1, 5, 8, 4, 6, 2, 3, 0, 0, 0, 0, 1, 0⟩),
   (0x00000000, 0x01802301, 0x13B42004, .flg2 ⟨1, 5, 8, 4, 6, 2, 3, 0, 0, 0, 0, 1, 0⟩),
   (0x00000000, 0x01802301, 0x13F42004, .fsin ⟨1, 5, 8, 4, 6, 2, 3, 0, 0, 0, 0, 1, 0⟩),
   (0x00000000, 0x01802301, 0x14342004, .fcos ⟨1, 5, 8, 4, 6, 2, 3, 0, 0, 0, 0, 1, 0⟩),
   (0x00000000, 0x01802301, 0x14742004, .fclass ⟨1, 5, 8, 4, 6, 2, 3, 0, 0, 0, 0, 1, 0⟩),
   (0x00000000, 0x01802301, 0x14B42004, .fcpsgn ⟨1, 5, 8, 4, 6, 2, 3, 0, 0, 0, 0, 1, 0⟩),
   (0x00000000, 0x01802301, 0x14F42004, .ftrunc ⟨1, 5, 8, 4, 6, 2, 3, 0, 0, 0, 0, 1, 0⟩),
   (0x00000000, 0x01802301, 0x15342004, .fldx ⟨1, 5, 8, 4, 6, 2, 3, 0, 0, 0, 0, 1, 0⟩),
   (0x00000000, 0x01802001, 0x20342004, .mov ⟨1, 5, 8, 4, 6, 2, 0, 0, 0, 0, 0, 1, 0⟩),
   (0x00000000, 0x01802001, 0x20742004, .movi ⟨1, 5, 8, 4, 6, 2, 0, 0, 0, 0, 0, 1, 0⟩),
   (0x00000001, 0x01802101, 0x20B42004, .cvt ⟨1, 5, 8, 4, 6, 2, 1, 0, 0, 0, 0, 1, 1⟩),
   (0x00000000, 0x01802901, 0x20F42004, .pack2 ⟨1, 5, 8, 4, 6, 2, 9, 0, 0, 0, 0, 1, 0⟩),
   (0x00000000, 0x01802901, 0x21342004, .unpk ⟨1, 5, 8, 4, 6, 2, 9, 0, 0, 0, 0, 1, 0⟩)]

/-- Words of lane instructions (words 0, 1 and 2), with what they encode. -/
def tLaneWordsC : List (W32 × W32 × W32 × Instr) :=
  [(0x00000000, 0x01802301, 0x21742004, .tdec ⟨1, 5, 8, 4, 6, 2, 3, 0, 0, 0, 0, 1, 0⟩),
   (0x00000000, 0x01802301, 0x21B42004, .tenc ⟨1, 5, 8, 4, 6, 2, 3, 0, 0, 0, 0, 1, 0⟩),
   (0x00000000, 0x01802F01, 0x21F42004, .lea ⟨1, 5, 8, 4, 6, 2, 15, 0, 0, 0, 0, 1, 0⟩),
   (0x00000000, 0x01802001, 0x30340404, .pset ⟨1, 5, 1, 4, 6, 2, 0, 0, 0, 0, 0, 1, 0⟩),
   (0x00000000, 0x01802001, 0x30740404, .pmov ⟨1, 5, 1, 4, 6, 2, 0, 0, 0, 0, 0, 1, 0⟩),
   (0x00000000, 0x01802001, 0x30B42004, .shfl ⟨1, 5, 8, 4, 6, 2, 0, 0, 0, 0, 0, 1, 0⟩),
   (0x00000000, 0x01802001, 0x30F42004, .bcast ⟨1, 5, 8, 4, 6, 2, 0, 0, 0, 0, 0, 1, 0⟩),
   (0x00000000, 0x01802001, 0x31342004, .vote ⟨1, 5, 8, 4, 6, 2, 0, 0, 0, 0, 0, 1, 0⟩),
   (0x00000000, 0x01802101, 0x31742004, .redx ⟨1, 5, 8, 4, 6, 2, 1, 0, 0, 0, 0, 1, 0⟩),
   (0x00000000, 0x01802101, 0x31B42004, .scan ⟨1, 5, 8, 4, 6, 2, 1, 0, 0, 0, 0, 1, 0⟩),
   (0x00000000, 0x01802001, 0x31F42004, .firstLane ⟨1, 5, 8, 4, 6, 2, 0, 0, 0, 0, 0, 1, 0⟩),
   (0x00000000, 0x01802001, 0x32342004, .perm ⟨1, 5, 8, 4, 6, 2, 0, 0, 0, 0, 0, 1, 0⟩),
   (0x00000000, 0x01802101, 0x32742004, .cmpx ⟨1, 5, 8, 4, 6, 2, 1, 0, 0, 0, 0, 1, 0⟩),
   (0x00000000, 0x01802101, 0x40342004, .ld ⟨1, 5, 8, 4, 6, 2, 1, 0, 0, 0, 0, 1, 0⟩),
   (0x00000000, 0x01802101, 0x40740004, .st ⟨1, 5, 0, 4, 6, 2, 1, 0, 0, 0, 0, 1, 0⟩),
   (0x00000000, 0x01802101, 0x40B40004, .stk ⟨1, 5, 0, 4, 6, 2, 1, 0, 0, 0, 0, 1, 0⟩),
   (0x00000000, 0x01802001, 0x40F42004, .prf ⟨1, 5, 8, 4, 6, 2, 0, 0, 0, 0, 0, 1, 0⟩),
   (0x00000000, 0x01802101, 0x50342004, .atom ⟨1, 5, 8, 4, 6, 2, 1, 0, 0, 0, 0, 1, 0⟩),
   (0x00000000, 0x01802101, 0x50740004, .red ⟨1, 5, 0, 4, 6, 2, 1, 0, 0, 0, 0, 1, 0⟩),
   (0x00000000, 0x01802001, 0x50B42004, .cas ⟨1, 5, 8, 4, 6, 2, 0, 0, 0, 0, 0, 1, 0⟩),
   (0x00000000, 0x01802301, 0x50F40004, .cacc ⟨1, 5, 0, 4, 6, 2, 3, 0, 0, 0, 0, 1, 0⟩),
   (0x00000000, 0x01802201, 0x60340404, .xset ⟨1, 5, 1, 4, 6, 2, 2, 0, 0, 0, 0, 1, 0⟩),
   (0x00000000, 0x01802201, 0x60740404, .xadd ⟨1, 5, 1, 4, 6, 2, 2, 0, 0, 0, 0, 1, 0⟩),
   (0x00000000, 0x01802201, 0x60B42000, .xget ⟨1, 5, 8, 0, 6, 2, 2, 0, 0, 0, 0, 1, 0⟩)]

theorem test_decode_scalar_a : ∀ p ∈ tScalarWordsA, (decodeScalar p.1 p.2.1).toOption = some p.2.2 := by decide +kernel

theorem test_decode_scalar_b : ∀ p ∈ tScalarWordsB, (decodeScalar p.1 p.2.1).toOption = some p.2.2 := by decide +kernel

theorem test_decode_scalar_c : ∀ p ∈ tScalarWordsC, (decodeScalar p.1 p.2.1).toOption = some p.2.2 := by decide +kernel

theorem test_decode_lane_a :
    ∀ p ∈ tLaneWordsA, (decodeLane (p.2.2.1 ++ p.2.1 ++ p.1)).toOption = some p.2.2.2 := by decide +kernel

theorem test_decode_lane_b :
    ∀ p ∈ tLaneWordsB, (decodeLane (p.2.2.1 ++ p.2.1 ++ p.1)).toOption = some p.2.2.2 := by decide +kernel

theorem test_decode_lane_c :
    ∀ p ∈ tLaneWordsC, (decodeLane (p.2.2.1 ++ p.2.1 ++ p.1)).toOption = some p.2.2.2 := by decide +kernel
/-! ### Ill-formed instructions: the defects of R166, R172, R187, R191, R192 and R226 -/

/-- Lane instructions with a defect in one field, and the sub-cause that the manual gives for it. -/
def tIllLane : List (Instr × Nat) :=
  [(.iadd ⟨0, 7, 8, 260, 6, 2, 1, 0, 0, 0, 0, 1, 0x0⟩, 3), (.iadd ⟨0, 7, 8, 769, 6, 2, 1, 0, 0, 0, 0, 1, 0x0⟩, 5),
   (.iadd ⟨0, 7, 8, 4, 760, 2, 1, 0, 0, 0, 0, 1, 0x0⟩, 5), (.iadd ⟨0, 7, 8, 5, 6, 2, 4, 0, 0, 0, 0, 1, 0x0⟩, 5),
   (.iadd ⟨0, 7, 8, 247, 6, 2, 4, 0, 0, 0, 0, 1, 0x0⟩, 5), (.sel ⟨0, 7, 8, 4, 6, 16, 0, 0, 0, 0, 0, 1, 0x0⟩, 3),
   (.stk ⟨0, 7, 0, 4, 6, 8, 1, 0, 0, 0, 0, 1, 0x0⟩, 3), (.xget ⟨0, 7, 8, 4, 6, 2, 2, 0, 0, 0, 0, 1, 0x0⟩, 3),
   (.ld ⟨0, 7, 8, 255, 6, 2, 1, 0, 0, 0, 0, 1, 0x0⟩, 5), (.iadd ⟨0, 7, 252, 4, 6, 2, 1, 0, 0, 0, 0, 1, 0x0⟩, 5),
   (.iadd ⟨0, 7, 9, 4, 6, 2, 4, 0, 0, 0, 0, 1, 0x0⟩, 5), (.ld ⟨0, 7, 255, 4, 6, 2, 1, 0, 0, 0, 0, 1, 0x0⟩, 5),
   (.icmp ⟨0, 7, 8, 4, 6, 2, 1, 0, 0, 0, 0, 1, 0x0⟩, 3), (.icmp ⟨0, 7, 7, 4, 6, 2, 1, 0, 0, 0, 0, 1, 0x0⟩, 2),
   (.vote ⟨0, 7, 64, 4, 6, 2, 0, 0, 0, 0, 0, 1, 0x0⟩, 3), (.vote ⟨0, 7, 0, 4, 6, 2, 0, 0, 0, 0, 0, 1, 0x0⟩, 5),
   (.xset ⟨0, 7, 4, 4, 6, 2, 2, 0, 0, 0, 0, 1, 0x0⟩, 3), (.st ⟨0, 7, 1, 4, 6, 2, 1, 0, 0, 0, 0, 1, 0x0⟩, 3),
   (.iadd ⟨0, 7, 8, 4, 6, 2, 3, 0, 0, 0, 0, 1, 0x0⟩, 4), (.iabs ⟨0, 7, 8, 4, 6, 2, 1, 1, 0, 0, 0, 1, 0x0⟩, 3),
   (.iadd ⟨0, 7, 8, 255, 6, 2, 1, 1, 0, 0, 0, 1, 0x0⟩, 5), (.imin ⟨0, 7, 8, 4, 6, 2, 1, 0, 1, 0, 0, 1, 0x0⟩, 3),
   (.imin ⟨0, 7, 8, 4, 6, 2, 1, 0, 0, 1, 0, 1, 0x0⟩, 3), (.imin ⟨0, 7, 8, 4, 6, 2, 1, 0, 0, 0, 1, 1, 0x0⟩, 3),
   (.iadd ⟨0, 7, 8, 4, 6, 2, 1, 0, 1, 0, 0, 1, 0x0⟩, 3), (.iadd ⟨0, 7, 8, 4, 6, 2, 1, 0, 0, 1, 0, 1, 0x0⟩, 3),
   (.iadd ⟨0, 7, 8, 4, 6, 2, 1, 0, 0, 0, 2, 1, 0x0⟩, 2), (.fabs ⟨0, 7, 8, 4, 6, 2, 3, 0, 1, 0, 0, 1, 0x0⟩, 3),
   (.fabs ⟨0, 7, 8, 4, 6, 2, 3, 0, 0, 1, 0, 1, 0x0⟩, 3), (.fadd ⟨0, 7, 8, 4, 6, 2, 3, 0, 0, 0, 1, 1, 0x0⟩, 3),
   (.icmp ⟨0, 7, 1, 4, 6, 2, 1, 0, 1, 0, 0, 1, 0x0⟩, 3), (.icmp ⟨0, 7, 1, 4, 6, 2, 1, 0, 0, 1, 0, 1, 0x0⟩, 3),
   (.icmp ⟨0, 7, 1, 4, 6, 2, 1, 0, 0, 0, 6, 1, 0x0⟩, 2), (.fmin ⟨0, 7, 8, 4, 6, 2, 3, 0, 1, 0, 0, 1, 0x0⟩, 3),
   (.fmax ⟨0, 7, 8, 4, 6, 2, 3, 0, 0, 0, 2, 1, 0x0⟩, 2), (.fcmp ⟨0, 7, 1, 4, 6, 2, 3, 0, 1, 0, 0, 1, 0x0⟩, 3),
   (.movi ⟨0, 7, 8, 4, 6, 2, 0, 0, 0, 0, 1, 1, 0x0⟩, 2), (.movi ⟨0, 7, 8, 4, 6, 2, 15, 0, 0, 0, 2, 1, 0x0⟩, 2),
   (.cvt ⟨0, 7, 8, 4, 6, 2, 1, 0, 0, 0, 0, 1, 0x0⟩, 4), (.cvt ⟨0, 7, 8, 4, 6, 2, 1, 0, 0, 0, 0, 1, 0x9⟩, 4)]

/-- More of them. -/
def tIllLaneMore : List (Instr × Nat) :=
  [(.cvt ⟨0, 7, 8, 4, 6, 2, 1, 0, 0, 0, 0, 1, 0x11⟩, 3), (.cvt ⟨0, 7, 8, 4, 6, 2, 1, 0, 1, 0, 0, 1, 0x1⟩, 3),
   (.cvt ⟨0, 7, 8, 4, 6, 2, 1, 0, 0, 1, 0, 1, 0x1⟩, 3), (.cvt ⟨0, 7, 8, 4, 6, 2, 1, 0, 0, 0, 1, 1, 0x3⟩, 2),
   (.cvt ⟨0, 7, 8, 4, 6, 2, 1, 0, 0, 0, 2, 1, 0x1⟩, 2), (.tdec ⟨0, 7, 8, 4, 6, 2, 3, 0, 0, 0, 2, 1, 0x0⟩, 3),
   (.tdec ⟨0, 7, 8, 4, 6, 2, 3, 0, 0, 0, 0, 1, 0x4⟩, 3), (.tenc ⟨0, 7, 8, 4, 6, 2, 3, 0, 1, 0, 0, 1, 0x0⟩, 3),
   (.lea ⟨0, 7, 8, 4, 6, 2, 15, 0, 1, 0, 0, 1, 0x0⟩, 3), (.lea ⟨0, 7, 8, 4, 6, 2, 15, 0, 0, 0, 1, 1, 0x0⟩, 2),
   (.lea ⟨0, 7, 8, 4, 6, 2, 15, 0, 0, 0, 4, 1, 0x0⟩, 2), (.pmov ⟨0, 7, 1, 4, 6, 2, 0, 0, 0, 0, 5, 1, 0x0⟩, 2),
   (.shfl ⟨0, 7, 8, 4, 6, 2, 0, 0, 0, 0, 4, 1, 0x0⟩, 2), (.vote ⟨0, 7, 8, 4, 6, 2, 0, 0, 0, 0, 4, 1, 0x0⟩, 2),
   (.redx ⟨0, 7, 8, 4, 6, 2, 1, 0, 0, 0, 6, 1, 0x0⟩, 2), (.redx ⟨0, 7, 8, 4, 6, 2, 3, 0, 0, 0, 3, 1, 0x0⟩, 4),
   (.redx ⟨0, 7, 8, 4, 6, 2, 1, 0, 0, 1, 0, 1, 0x0⟩, 3), (.scan ⟨0, 7, 8, 4, 6, 2, 1, 0, 0, 0, 3, 1, 0x0⟩, 2),
   (.cmpx ⟨0, 7, 8, 4, 6, 2, 1, 0, 0, 0, 2, 1, 0x0⟩, 3), (.cmpx ⟨0, 7, 8, 4, 6, 2, 3, 0, 1, 0, 0, 1, 0x0⟩, 3),
   (.ld ⟨0, 7, 8, 4, 6, 2, 1, 0, 0, 1, 0, 1, 0x0⟩, 3), (.ld ⟨0, 7, 8, 4, 6, 2, 1, 0, 0, 0, 0, 1, 0x20000000⟩, 3),
   (.ld ⟨0, 7, 8, 4, 6, 2, 1, 0, 0, 0, 0, 1, 0xC000000⟩, 2), (.ld ⟨0, 7, 8, 4, 6, 2, 1, 0, 0, 0, 5, 1, 0x0⟩, 2),
   (.st ⟨0, 7, 0, 4, 6, 2, 1, 0, 1, 0, 0, 1, 0x0⟩, 3), (.st ⟨0, 7, 0, 4, 6, 2, 1, 0, 0, 0, 0, 1, 0x10000000⟩, 3),
   (.st ⟨0, 7, 0, 4, 6, 2, 1, 0, 0, 0, 0, 1, 0xC000000⟩, 2), (.st ⟨0, 7, 0, 4, 6, 2, 1, 0, 0, 0, 5, 1, 0x0⟩, 2),
   (.prf ⟨0, 7, 8, 4, 6, 2, 0, 0, 1, 0, 0, 1, 0x0⟩, 3), (.prf ⟨0, 7, 8, 4, 6, 2, 0, 0, 0, 0, 0, 1, 0x10000000⟩, 3),
   (.prf ⟨0, 7, 8, 4, 6, 2, 0, 0, 0, 0, 0, 1, 0x6000000⟩, 2), (.prf ⟨0, 7, 8, 4, 6, 2, 0, 0, 0, 0, 1, 1, 0x0⟩, 3),
   (.atom ⟨0, 7, 8, 4, 6, 2, 1, 0, 1, 0, 0, 1, 0x0⟩, 3), (.atom ⟨0, 7, 8, 4, 6, 2, 1, 0, 0, 0, 1, 1, 0x0⟩, 3),
   (.atom ⟨0, 7, 8, 4, 6, 2, 1, 0, 0, 0, 0, 1, 0xC000000⟩, 2),
   (.atom ⟨0, 7, 8, 4, 6, 2, 1, 0, 0, 0, 0, 1, 0xC0000000⟩, 2), (.atom ⟨0, 7, 8, 4, 6, 2, 3, 0, 0, 0, 0, 1, 0x0⟩, 4),
   (.red ⟨0, 7, 0, 4, 6, 2, 0, 0, 0, 0, 0, 1, 0x80000000⟩, 2),
   (.cas ⟨0, 7, 8, 4, 6, 2, 0, 0, 0, 0, 0, 1, 0x10000000⟩, 3),
   (.cas ⟨0, 7, 8, 4, 6, 2, 0, 0, 0, 0, 0, 1, 0xC000000⟩, 2),
   (.cacc ⟨0, 7, 0, 4, 6, 2, 3, 0, 0, 0, 0, 1, 0x2000000⟩, 3)]

/-- Scalar instructions with a defect in one field. -/
def tIllScalar : List (Instr × Nat) :=
  [(.sadd 0 1 2, 5), (.sclz 0 1, 5), (.saddi 0 1 2, 5), (.sshli 0 1 2, 5), (.sli 0 1, 5), (.ssel 0 1 2 3, 5),
   (.kget 0 1, 5), (.mwait 0 1, 5), (.rnarLo 0, 5), (.dlaunch 0 1 2, 5), (.scmp 7 1 2 0, 2), (.scmp 1 1 2 10, 2),
   (.scmpi 0 7 1 2, 2), (.copAnd 7 1 2, 2), (.copMov 7 1, 2), (.sform 1 2 5, 2), (.sld 1 2 3 1 0 0, 3),
   (.satom 1 2 3 0 6 0, 2), (.satom 1 2 3 0 0 10, 2), (.cmo 1 2 5 0, 2), (.barArv 1 0 2, 3), (.barArw 0 2, 3),
   (.barInit 0 2, 2), (.hbarArv 1 0, 2), (.hbarArv 1 5, 2), (.hbarWt 1 0, 2), (.hbarArw 5, 2), (.fence 0 6, 2),
   (.lx 4, 6), (.qfence 0, 2), (.mma 8 1 2 0, 3), (.mma 0x22 1 2 0, 3), (.mma 0 0 2 0, 5), (.mma 0 1 63 0, 5),
   (.mma 0 1 2 5, 2), (.mma 0x20 1 2 4, 4), (.mma 1 1 2 4, 5), (.mgath 8 1 2 0, 3), (.mgath 0x22 1 2 0, 3),
   (.mgath 0 62 2 0, 5), (.mgath 0 1 0 0, 5), (.mgath 0 1 2 5, 2), (.mgath 0x20 1 2 4, 4), (.mgath 1 1 2 4, 5),
   (.mzero 1 1, 5), (.mdrain 0 1 5, 2), (.mdrain 0 0 0, 5), (.mdrain 0 62 8, 5), (.cpy 0 1 0 3, 2), (.cpy 0 1 0 8, 2),
   (.cpy 1 1 0 0, 3), (.cpy 0 61 0 0, 5), (.coll 1 0 0 3, 2), (.coll 1 0 5 0, 2), (.coll 1 3 0 0, 2),
   (.coll 62 0 0 0, 5), (.srd 1 29, 7), (.srd 0 1, 5), (.swr 29 1, 7)]

theorem test_ill_formed_lane : ∀ p ∈ tIllLane, illSub p.1 = some p.2 := by decide +kernel

theorem test_ill_formed_lane_more : ∀ p ∈ tIllLaneMore, illSub p.1 = some p.2 := by decide +kernel

theorem test_ill_formed_scalar : ∀ p ∈ tIllScalar, illSub p.1 = some p.2 := by decide +kernel
/-! ### Worked examples of the manual -/

/-- R153: the table of encodings into tap8; 3.07, 1.0e−6 and the NaN are given as f32 bits. -/
theorem test_tap8_encodings :
    ([.fin false 3 0, .fin false 49 (-4), fdecode F32 0x40447AE1, .fin false 2560 0, .fin false 5000 0,
      fdecode F32 0x358637BD,
      .fin true 1 0, .inf false, .nan false] : List FVal).map (fun v => (tapEncode 8 1 v).1) =
    [0x58, 0x58, 0x59, 0x7E, 0x7F, 0x01, 0xC0, 0x80, 0x80] := by decide +kernel

/-- R152: 0xC0 is −1.0 in tap8, and 0x27 is −2.5 in tap6. -/
theorem test_tapered_negatives : tapDecode 8 1 0xC0 = .val true 16 (-4) ∧
  tapDecode 6 0 0x27 = .val true 5 (-1) := by decide

/-- R158: the products 2^24, 1 and 1 of one group are added exactly. -/
theorem test_group_sum :
    accumulate F32 0 (groupSum ([0x4580, 0x3F80, 0x3F80].map fun w => (fdecode BF16 w, fdecode BF16 0x3F80))) =
      0x45801000 ∧
    accumulate F32 0 (groupSum [(.fin false 1 24, .fin false 1 0), (fdecode BF16 0x3F80, fdecode BF16 0x3F80),
      (fdecode BF16 0x3F80, fdecode BF16 0x3F80)]) = 0x4B800001 := by decide +kernel

/-- R64, R391: the L2 sets that the manual works out. -/
theorem test_l2_sets : l2Set 0x01100000 = 0x101 ∧ l2Set 0x40000000 = 0x040 := by decide

/-- A die that leaves reset at 1,500 MHz. -/
def tSlow : Die := { tClock with cur := 1 }

/-- R50: the counters of a die that starts at 1,500 MHz, read at 667.33 ns and stopped at 2,000 ns, and again when it has
run at 1,900 MHz from 5,000 to 5,500 ns; a tick is 1/342 ns. -/
theorem test_die_counters :
    dieCc tSlow 228228 = 1001 ∧ dieScc tSlow 228228 = 1267 ∧ dieCc tSlow 684000 = 3000 ∧ dieScc tSlow 684000 = 3800 ∧
    (match execRelockEnd 0 (tDie 1710000 { tSlow with stopped := some (684000, 3000, 3800), next := 3, target := 3 }) with
      | .next s => (dieCc (dieOf s 0) 1881000, dieScc (dieOf s 0) 1881000) | _ => (0, 0)) = (3950, 10450) :=
        by decide +kernel

/-- R65: the descriptors that the manual writes out. -/
theorem test_descriptors :
    rsdOf (.cores 0 5 3) 0 = 0x2000000000000503 ∧ rsdOf (.quads 0 0x60) 0 = 0x3000000000000060 ∧
      rsdOf (.dies 9) 0 = 0x4000000000000009 ∧
    rsdKind 0x1400000000000000 = 1 ∧ rsdForce 0x1400000000000000 = 2 := by decide

/-- R67, R367: the quad mask of quad 5 alone stands for its four cores. -/
theorem test_canonical_set :
    resolveRsd { placedLaunch 1 with lrec := { (placedLaunch 1).lrec with vc := 4, vq := 32, vd := 8 } } 0x3000000000000020 0 = some (.cores 0 5 15) := by
  decide +kernel

/-- R245, R246: one sum in three orders, over lanes 0 to 3; the lane fields name no modifier. -/
theorem test_one_sum_three_orders :
    let ins : List (Option Nat) := [some 0x4B800000, some 0x3F800000, some 0x3F800000, some 0x3F800000] ++ List.replicate 28 none
    let xs : List (Nat × Nat × AFlags) := [(0, 0x4B800000, 0), (1, 0x3F800000, 0), (2, 0x3F800000, 0), (3, 0x3F800000, 0)]
    redTree (tF 3 8) 3 0 5 ins 0 = (some 0x4B800001, fNX) ∧
    redTree (tF 3 8) 3 0 5 (ins.set 2 none) 0 = (some 0x4B800000, fNX) ∧
    (scanGo (tF 3 8) 3 0 false none xs).map (·.2.1) = [0x4B800000, 0x4B800000, 0x4B800000, 0x4B800000] ∧
    (scanGo (tF 3 8) 3 0 true none xs).map (·.2.1) = [0, 0x4B800000, 0x4B800000, 0x4B800000] := by decide +kernel

/-- The launch of 48 by 20 items in workgroups of 16 by 4. -/
def tSplit : LaunchRec := { LaunchRec.blank with ex := 48, ey := 20, ez := 1, wx := 16, wy := 4, wz := 1 }

/-- R22, R27, R28: `ix < 40` is the threshold (x, 40, below); a tile at x origin 32 of the part below it has `am` 0x00FF_00FF
in both strands, and of the other part 0xFF00_FF00. -/
theorem test_split_and_seating :
    formCmp tSplit 2 (.a 0 1 0 0) (.u 40) = some (.t .x 40 true) ∧
      cutBox ⟨0, 48, 0, 20, 0, 1⟩ .x 40 = (⟨0, 40, 0, 20, 0, 1⟩, ⟨40, 48, 0, 20, 0, 1⟩) ∧
    tileMasks tSplit ⟨0, 40, 0, 20, 0, 1⟩ 2 = [(0, 0x00FF00FF), (1, 0x00FF00FF)] ∧
    tileMasks tSplit ⟨40, 48, 0, 20, 0, 1⟩ 2 = [(0, 0xFF00FF00), (1, 0xFF00FF00)] ∧
    tileMasks tSplit ⟨40, 48, 0, 20, 0, 1⟩ 1 = [] := by decide +kernel

/-- R22: `not` of a threshold, a threshold `and` true, and two thresholds on different axes. -/
theorem test_threshold_functions :
    formCop tSplit (fun a _ => !a) (.t .x 40 true) (.t .x 40 true) = some (.t .x 40 false) ∧
    formCop tSplit (fun a b => a && b) (.t .x 40 true) (.u true) = some (.t .x 40 true) ∧
    formCop tSplit (fun a b => a && b) (.t .x 40 true) (.t .y 4 true) = none := by decide +kernel

/-- R344: the capacity that the manual works out, and with `.regs` 48. -/
theorem test_core_capacity :
    let r : LaunchRec := { LaunchRec.blank with ex := 2 ^ 20, wx := 1024, regs := 100, fall := 8, carve := 256, scratch := 131072, acc := 2, vd := 8, vq := 32, vc := 4 }
    (wgStrands r, wgPerPart r, coreCapacity r, tileCount r) = (32, 8, 1, 1024) ∧
    coreCapacity { r with regs := 48 } = 2 ∧ tileCount { r with ex := 2 ^ 20 + 1 } = 1025 := by decide +kernel

/-! ### One step from a placed instruction -/

/-- The state after the step of a placed instruction. -/
def tAfter (nbits w : Nat) : State :=
  match step (State.reset.withFetchWord nbits w) with
  | .next s => s
  | _ => State.reset

/-- R197: `saddi s4, s4, #-1`, from 0. -/
theorem test_step_saddi :
    ((tabFind (tAfter 32 0x08413FFF).threads 3).map fun t => (getS t 4, t.pc)) = some (.u (BitVec.allOnes 64), 4) :=
      by decide +kernel

/-- R198: `sli s9, #0x12345678` takes two words. -/
theorem test_step_sli :
    ((tabFind (tAfter 64 0x1234567828900000).threads 3).map fun t => (getS t 9, t.pc)) = some (.u 0x12345678, 8) :=
      by decide +kernel

/-- R166, R187: a destination that names s0 raises ILL with sub-cause 0x05, and the PC stays. -/
theorem test_step_ill :
    ((tabFind (tAfter 32 0x04004200).threads 3).bind fun t => t.stop.map fun p => (p.cause, p.sub, t.pc)) =
      some (0x01, 5, 0) := by
  decide +kernel

/-- R228: `iadd.s32` of two registers that hold 0, tail of its block, ends the block. -/
theorem test_step_iadd :
    ((tabFind (tAfter 96 0x1C1401808FC10100000000).threads 3).bind fun t => t.seat.map fun st => (tabFind st.vregs (5 * 32), st.blocks)) =
      some (some 0, []) := by decide +kernel

end Sys2Proof.Machine
end

section
/-!
PROOFS (00_scope.md). Decoding and encoding agree: the per-instruction round trips of `RoundTrip` and the converse that what
a word decodes to has that word as its encoding.
-/
namespace Sys2Proof.Laws
open Sys2Proof

/-- Every instruction is read back from its encoding, one law of `RoundTrip` for each constructor. -/
theorem roundTrip : ∀ i : Instr, RoundTrip.Statement i
  | .sadd .. => RoundTrip.sadd ..
  | .ssub .. => RoundTrip.ssub ..
  | .smul .. => RoundTrip.smul ..
  | .smulh .. => RoundTrip.smulh ..
  | .smulhn .. => RoundTrip.smulhn ..
  | .sand .. => RoundTrip.sand ..
  | .sor .. => RoundTrip.sor ..
  | .sxor .. => RoundTrip.sxor ..
  | .sshl .. => RoundTrip.sshl ..
  | .sshr .. => RoundTrip.sshr ..
  | .ssra .. => RoundTrip.ssra ..
  | .smin .. => RoundTrip.smin ..
  | .smax .. => RoundTrip.smax ..
  | .sminn .. => RoundTrip.sminn ..
  | .smaxn .. => RoundTrip.smaxn ..
  | .sdiv .. => RoundTrip.sdiv ..
  | .sdivn .. => RoundTrip.sdivn ..
  | .srem .. => RoundTrip.srem ..
  | .sremn .. => RoundTrip.sremn ..
  | .sclz .. => RoundTrip.sclz ..
  | .spop .. => RoundTrip.spop ..
  | .saffx .. => RoundTrip.saffx ..
  | .saffy .. => RoundTrip.saffy ..
  | .saffz .. => RoundTrip.saffz ..
  | .saddi .. => RoundTrip.saddi ..
  | .sandi .. => RoundTrip.sandi ..
  | .sori .. => RoundTrip.sori ..
  | .sxori .. => RoundTrip.sxori ..
  | .sshli .. => RoundTrip.sshli ..
  | .sshri .. => RoundTrip.sshri ..
  | .ssrai .. => RoundTrip.ssrai ..
  | .smuli .. => RoundTrip.smuli ..
  | .sli .. => RoundTrip.sli ..
  | .sliHi .. => RoundTrip.sliHi ..
  | .scmp .. => RoundTrip.scmp ..
  | .scmpi .. => RoundTrip.scmpi ..
  | .ssel .. => RoundTrip.ssel ..
  | .copAnd .. => RoundTrip.copAnd ..
  | .copOr .. => RoundTrip.copOr ..
  | .copXor .. => RoundTrip.copXor ..
  | .copAndn .. => RoundTrip.copAndn ..
  | .copNot .. => RoundTrip.copNot ..
  | .copSet .. => RoundTrip.copSet ..
  | .copClr .. => RoundTrip.copClr ..
  | .copMov .. => RoundTrip.copMov ..
  | .sform .. => RoundTrip.sform ..
  | .sld .. => RoundTrip.sld ..
  | .sst .. => RoundTrip.sst ..
  | .satom .. => RoundTrip.satom ..
  | .cmo .. => RoundTrip.cmo ..
  | .kset .. => RoundTrip.kset ..
  | .kget .. => RoundTrip.kget ..
  | .kgetSet .. => RoundTrip.kgetSet ..
  | .krev .. => RoundTrip.krev ..
  | .kdrop .. => RoundTrip.kdrop ..
  | .barArv .. => RoundTrip.barArv ..
  | .barWt .. => RoundTrip.barWt ..
  | .barArw .. => RoundTrip.barArw ..
  | .barInit .. => RoundTrip.barInit ..
  | .hbarArv .. => RoundTrip.hbarArv ..
  | .hbarWt .. => RoundTrip.hbarWt ..
  | .hbarArw .. => RoundTrip.hbarArw ..
  | .fence .. => RoundTrip.fence ..
  | .br .. => RoundTrip.br ..
  | .call .. => RoundTrip.call ..
  | .jmp .. => RoundTrip.jmp ..
  | .ret => RoundTrip.ret
  | .lx .. => RoundTrip.lx ..
  | .exit => RoundTrip.exit
  | .wait .. => RoundTrip.wait ..
  | .trapf => RoundTrip.trapf
  | .jtok .. => RoundTrip.jtok ..
  | .dvg .. => RoundTrip.dvg ..
  | .nxt => RoundTrip.nxt
  | .lpb .. => RoundTrip.lpb ..
  | .lpe .. => RoundTrip.lpe ..
  | .brk .. => RoundTrip.brk ..
  | .seat => RoundTrip.seat
  | .unseat => RoundTrip.unseat
  | .sjoin .. => RoundTrip.sjoin ..
  | .qfence .. => RoundTrip.qfence ..
  | .snooze .. => RoundTrip.snooze ..
  | .snoozeAbs .. => RoundTrip.snoozeAbs ..
  | .mma .. => RoundTrip.mma ..
  | .mgath .. => RoundTrip.mgath ..
  | .mzero .. => RoundTrip.mzero ..
  | .mdrain .. => RoundTrip.mdrain ..
  | .mcommit .. => RoundTrip.mcommit ..
  | .mfence .. => RoundTrip.mfence ..
  | .mwait .. => RoundTrip.mwait ..
  | .cpy .. => RoundTrip.cpy ..
  | .coll .. => RoundTrip.coll ..
  | .rbeg .. => RoundTrip.rbeg ..
  | .rbegStrict .. => RoundTrip.rbegStrict ..
  | .rend => RoundTrip.rend
  | .rabt .. => RoundTrip.rabt ..
  | .rnarLo .. => RoundTrip.rnarLo ..
  | .rnarHi .. => RoundTrip.rnarHi ..
  | .rnarNarrow .. => RoundTrip.rnarNarrow ..
  | .nop => RoundTrip.nop
  | .trap .. => RoundTrip.trap ..
  | .srd .. => RoundTrip.srd ..
  | .swr .. => RoundTrip.swr ..
  | .dlaunch .. => RoundTrip.dlaunch ..
  | .iadd .. => RoundTrip.iadd ..
  | .isub .. => RoundTrip.isub ..
  | .imul .. => RoundTrip.imul ..
  | .imulh .. => RoundTrip.imulh ..
  | .imad .. => RoundTrip.imad ..
  | .iabs .. => RoundTrip.iabs ..
  | .ineg .. => RoundTrip.ineg ..
  | .imin .. => RoundTrip.imin ..
  | .imax .. => RoundTrip.imax ..
  | .land .. => RoundTrip.land ..
  | .lor .. => RoundTrip.lor ..
  | .lxor .. => RoundTrip.lxor ..
  | .lnot .. => RoundTrip.lnot ..
  | .andn .. => RoundTrip.andn ..
  | .shl .. => RoundTrip.shl ..
  | .shr .. => RoundTrip.shr ..
  | .sra .. => RoundTrip.sra ..
  | .rotl .. => RoundTrip.rotl ..
  | .bfx .. => RoundTrip.bfx ..
  | .bfi .. => RoundTrip.bfi ..
  | .clz .. => RoundTrip.clz ..
  | .popc .. => RoundTrip.popc ..
  | .brev .. => RoundTrip.brev ..
  | .icmp .. => RoundTrip.icmp ..
  | .sel .. => RoundTrip.sel ..
  | .dot4 .. => RoundTrip.dot4 ..
  | .fadd .. => RoundTrip.fadd ..
  | .fsub .. => RoundTrip.fsub ..
  | .fmul .. => RoundTrip.fmul ..
  | .ffma .. => RoundTrip.ffma ..
  | .fmin .. => RoundTrip.fmin ..
  | .fmax .. => RoundTrip.fmax ..
  | .fabs .. => RoundTrip.fabs ..
  | .fneg .. => RoundTrip.fneg ..
  | .fcmp .. => RoundTrip.fcmp ..
  | .frcp .. => RoundTrip.frcp ..
  | .frsq .. => RoundTrip.frsq ..
  | .fsqrt .. => RoundTrip.fsqrt ..
  | .fdiv .. => RoundTrip.fdiv ..
  | .fex2 .. => RoundTrip.fex2 ..
  | .flg2 .. => RoundTrip.flg2 ..
  | .fsin .. => RoundTrip.fsin ..
  | .fcos .. => RoundTrip.fcos ..
  | .fclass .. => RoundTrip.fclass ..
  | .fcpsgn .. => RoundTrip.fcpsgn ..
  | .ftrunc .. => RoundTrip.ftrunc ..
  | .fldx .. => RoundTrip.fldx ..
  | .mov .. => RoundTrip.mov ..
  | .movi .. => RoundTrip.movi ..
  | .cvt .. => RoundTrip.cvt ..
  | .pack2 .. => RoundTrip.pack2 ..
  | .unpk .. => RoundTrip.unpk ..
  | .tdec .. => RoundTrip.tdec ..
  | .tenc .. => RoundTrip.tenc ..
  | .lea .. => RoundTrip.lea ..
  | .pset .. => RoundTrip.pset ..
  | .pmov .. => RoundTrip.pmov ..
  | .shfl .. => RoundTrip.shfl ..
  | .bcast .. => RoundTrip.bcast ..
  | .vote .. => RoundTrip.vote ..
  | .redx .. => RoundTrip.redx ..
  | .scan .. => RoundTrip.scan ..
  | .firstLane .. => RoundTrip.firstLane ..
  | .perm .. => RoundTrip.perm ..
  | .cmpx .. => RoundTrip.cmpx ..
  | .ld .. => RoundTrip.ld ..
  | .st .. => RoundTrip.st ..
  | .stk .. => RoundTrip.stk ..
  | .prf .. => RoundTrip.prf ..
  | .atom .. => RoundTrip.atom ..
  | .red .. => RoundTrip.red ..
  | .cas .. => RoundTrip.cas ..
  | .cacc .. => RoundTrip.cacc ..
  | .xset .. => RoundTrip.xset ..
  | .xadd .. => RoundTrip.xadd ..
  | .xget .. => RoundTrip.xget ..
  | .locateFault .. => RoundTrip.locateFault ..
  | .locateResolve .. => RoundTrip.locateResolve ..
  | .partialHandover .. => RoundTrip.partialHandover ..
  | .tileSeat .. => RoundTrip.tileSeat ..
  | .placementTimeout .. => RoundTrip.placementTimeout ..
  | .workgroupEnd .. => RoundTrip.workgroupEnd ..
  | .strandSlotFree .. => RoundTrip.strandSlotFree ..
  | .agingSwap .. => RoundTrip.agingSwap ..
  | .stallSwap .. => RoundTrip.stallSwap ..
  | .hangDetected .. => RoundTrip.hangDetected ..
  | .sjoinWindowExpiry .. => RoundTrip.sjoinWindowExpiry ..
  | .snoozeExpiry .. => RoundTrip.snoozeExpiry ..
  | .fenceComplete .. => RoundTrip.fenceComplete ..
  | .waitComplete .. => RoundTrip.waitComplete ..
  | .mwaitComplete .. => RoundTrip.mwaitComplete ..
  | .barReleaseWake .. => RoundTrip.barReleaseWake ..
  | .hbarRelease .. => RoundTrip.hbarRelease ..
  | .dlaunchStatus .. => RoundTrip.dlaunchStatus ..
  | .rbegOpen .. => RoundTrip.rbegOpen ..
  | .loadReturn .. => RoundTrip.loadReturn ..
  | .storeAck .. => RoundTrip.storeAck ..
  | .atomicReturn .. => RoundTrip.atomicReturn ..
  | .leaseExpiry .. => RoundTrip.leaseExpiry ..
  | .streamTimeout .. => RoundTrip.streamTimeout ..
  | .regionSliceAccess .. => RoundTrip.regionSliceAccess ..
  | .nonregionSliceAccess .. => RoundTrip.nonregionSliceAccess ..
  | .crossDieRegionHold .. => RoundTrip.crossDieRegionHold ..
  | .regionRaiseLo .. => RoundTrip.regionRaiseLo ..
  | .regionLowerHi .. => RoundTrip.regionLowerHi ..
  | .regionAbortMessage .. => RoundTrip.regionAbortMessage ..
  | .regionAbortDone .. => RoundTrip.regionAbortDone ..
  | .regionFreeze .. => RoundTrip.regionFreeze ..
  | .regionFreezeDone .. => RoundTrip.regionFreezeDone ..
  | .regionFinalPosition .. => RoundTrip.regionFinalPosition ..
  | .regionCommitDone .. => RoundTrip.regionCommitDone ..
  | .dirEviction .. => RoundTrip.dirEviction ..
  | .homeRecall .. => RoundTrip.homeRecall ..
  | .translationInvalidation .. => RoundTrip.translationInvalidation ..
  | .dirRebuild .. => RoundTrip.dirRebuild ..
  | .dieProbeTimeout .. => RoundTrip.dieProbeTimeout ..
  | .remotePackageTimeout .. => RoundTrip.remotePackageTimeout ..
  | .heldAccessTimeout .. => RoundTrip.heldAccessTimeout ..
  | .relockEnd .. => RoundTrip.relockEnd ..
  | .faultRecordWrite .. => RoundTrip.faultRecordWrite ..
  | .preemptStart .. => RoundTrip.preemptStart ..
  | .drainComplete .. => RoundTrip.drainComplete ..
  | .drainDeadline .. => RoundTrip.drainDeadline ..
  | .resetDeadline .. => RoundTrip.resetDeadline ..
  | .scanOut .. => RoundTrip.scanOut ..
  | .contextResume .. => RoundTrip.contextResume ..
  | .launchEntry .. => RoundTrip.launchEntry ..
  | .krevEntry .. => RoundTrip.krevEntry ..
  | .kdropEntry .. => RoundTrip.kdropEntry ..
  | .waitEntry .. => RoundTrip.waitEntry ..
  | .queueEntryComplete .. => RoundTrip.queueEntryComplete ..
  | .launchComplete .. => RoundTrip.launchComplete ..
  | .engineOpStart .. => RoundTrip.engineOpStart ..
  | .engineOpComplete .. => RoundTrip.engineOpComplete ..
  | .chunkEnd .. => RoundTrip.chunkEnd ..
  | .batchComplete .. => RoundTrip.batchComplete ..
  | .copyComplete .. => RoundTrip.copyComplete ..
  | .collComplete .. => RoundTrip.collComplete ..
  | .resumeReplay .. => RoundTrip.resumeReplay ..
  | .resumeContinue .. => RoundTrip.resumeContinue ..
  | .resumeEnd .. => RoundTrip.resumeEnd ..
  | .fqhead .. => RoundTrip.fqhead ..
  | .preqDrain .. => RoundTrip.preqDrain ..
  | .preqFreeze .. => RoundTrip.preqFreeze ..
  | .preqReset .. => RoundTrip.preqReset ..
  | .saveArea .. => RoundTrip.saveArea ..
  | .doorbell .. => RoundTrip.doorbell ..
  | .keySlotLoad .. => RoundTrip.keySlotLoad ..
  | .keySlotErase .. => RoundTrip.keySlotErase ..
  | .attestationRequest .. => RoundTrip.attestationRequest ..
  | .registerWrite .. => RoundTrip.registerWrite ..
  | .hostAccess .. => RoundTrip.hostAccess ..
  | .remotePackageRequest .. => RoundTrip.remotePackageRequest ..
  | .replayTimerExpiry .. => RoundTrip.replayTimerExpiry ..
  | .flitCrcFail .. => RoundTrip.flitCrcFail ..
  | .linkDown .. => RoundTrip.linkDown ..
  | .linkRetrain .. => RoundTrip.linkRetrain ..
  | .recoverGo .. => RoundTrip.recoverGo ..
  | .rasfail .. => RoundTrip.rasfail ..
  | .salvctl .. => RoundTrip.salvctl ..
  | .partrst .. => RoundTrip.partrst ..
  | .diepsTarget .. => RoundTrip.diepsTarget ..
  | .recoveryImage .. => RoundTrip.recoveryImage ..
  | .memoryDieFailed .. => RoundTrip.memoryDieFailed ..
  | .dirReadRequest .. => RoundTrip.dirReadRequest ..
  | .dirOwnershipRequest .. => RoundTrip.dirOwnershipRequest ..
  | .remoteOwnership .. => RoundTrip.remoteOwnership ..
  | .powerOn => RoundTrip.powerOn
  | .bootStage => RoundTrip.bootStage
  | .pairResetDone => RoundTrip.pairResetDone

/-- Settles O2: from left to right by the round trip of each constructor (`roundTrip`), and back because a word that decodes
is the encoding of what it decodes to (`decodeScalar_encode`, `decodeLane_encode`). -/
theorem decodeEncode : Obligations.DecodeEncode := by
  intro i w0 w1 w2
  obtain ⟨one, two, lane⟩ := roundTrip i
  refine ⟨⟨one w0 w1, ?_⟩, ⟨two w0 w1, ?_⟩, ⟨lane w0 w1 w2, decodeLane_encode⟩⟩
  · rintro ⟨noSX, read⟩
    simpa [noSX] using decodeScalar_encode read
  · rintro ⟨sx, read⟩
    simpa [sx] using decodeScalar_encode read

end Sys2Proof.Laws
end

section

/-! ## Every step keeps the form of memory (O5)

Few functions of the model write bytes of memory, and for those the model's laws `memWf_*` say that the form stays.
All others hand a state on to them. So each function that gives a next state gets one lemma, in the order in which the
model defines them: its state has the form if the state it is given has it. The lemma of `step` is the last of them. -/

namespace Sys2Proof.Machine

open Sys2Proof

/-! ### The form, of a state and of each kind of result -/

/-- The bytes of memory have the model's form: sorted by address without repeats, and no zero byte listed. -/
def MemOk (s : State) : Prop := memWf s.mem.bytes = true

/-- The next state, where there is one, has the form. -/
def OutOk : Out → Prop
  | .next s => MemOk s
  | .fault _ => True
  | .refused _ => True

/-- The state of an engine's result, where it gives one, has the form. -/
def EngOk {α : Type} : Eng α → Prop
  | .ok (s, _) => MemOk s
  | .error _ => True

/-- The state, where there is one, has the form. -/
def OptOk : Option State → Prop
  | some s => MemOk s
  | none => True

/-- The state of a result, where there is one, has the form. -/
def OptFstOk {α : Type} : Option (State × α) → Prop
  | some (s, _) => MemOk s
  | none => True

/-- The frame rule: a function that leaves the bytes alone keeps the form, whatever else it changes. -/
theorem MemOk.keep {s s' : State} (h : MemOk s) (e : s'.mem.bytes = s.mem.bytes) : MemOk s' := by
  unfold MemOk
  rw [e]
  exact h

theorem MemOk.of_fst {α : Type} {s : State} {r : α} {p : State × α} (e : p = (s, r)) (h : MemOk p.1) : MemOk s := by
  rw [e] at h
  exact h

theorem OutOk.of_next {o : Out} {s : State} (e : o = .next s) (h : OutOk o) : MemOk s := by
  rw [e] at h
  exact h

theorem EngOk.of_ok {α : Type} {r : Eng α} {s : State} {x : α} (e : r = .ok (s, x)) (h : EngOk r) : MemOk s := by
  rw [e] at h
  exact h

theorem OptOk.of_some {r : Option State} {s : State} (e : r = some s) (h : OptOk r) : MemOk s := by
  rw [e] at h
  exact h

theorem OptFstOk.of_some {α : Type} {r : Option (State × α)} {s : State} {x : α} (e : r = some (s, x))
    (h : OptFstOk r) : MemOk s := by
  rw [e] at h
  exact h

theorem memOk_ite {c : Prop} [Decidable c] {a b : State} (ha : MemOk a) (hb : MemOk b) :
    MemOk (if c then a else b) := by
  split
  · exact ha
  · exact hb

theorem memOk_ite_fst {α : Type} {c : Prop} [Decidable c] {a b : State × α} (ha : MemOk a.1) (hb : MemOk b.1) :
    MemOk (if c then a else b).1 := by
  split
  · exact ha
  · exact hb

theorem outOk_ite {c : Prop} [Decidable c] {a b : Out} (ha : OutOk a) (hb : OutOk b) :
    OutOk (if c then a else b) := by
  split
  · exact ha
  · exact hb

theorem optOk_ite {c : Prop} [Decidable c] {a b : Option State} (ha : OptOk a) (hb : OptOk b) :
    OptOk (if c then a else b) := by
  split
  · exact ha
  · exact hb

theorem memOk_foldl {α : Type} {f : State → α → State} {s : State} {l : List α} (h : MemOk s)
    (step : ∀ acc x, MemOk acc → MemOk (f acc x)) : MemOk (l.foldl f s) :=
  List.foldlRecOn l f h fun acc hacc x _ => step acc x hacc

theorem memOk_foldl_fst {α β : Type} {f : State × β → α → State × β} {p : State × β} {l : List α}
    (h : MemOk p.1) (step : ∀ acc x, MemOk acc.1 → MemOk (f acc x).1) : MemOk (l.foldl f p).1 :=
  List.foldlRecOn l f (motive := fun q => MemOk q.1) h fun acc hacc x _ => step acc x hacc

theorem memOk_foldl_bnd {α : Type} {f : Bnd → α → Bnd} {b : Bnd} {l : List α} (h : MemOk b.s)
    (step : ∀ acc x, MemOk acc.s → MemOk (f acc x).s) : MemOk (l.foldl f b).s :=
  List.foldlRecOn l f (motive := fun q => MemOk q.s) h fun acc hacc x _ => step acc x hacc

/-! ### Faults, traps and the frame of a scalar instruction -/

theorem outOk_withThr {s : State} {k : Thread → Out} (hk : ∀ t, OutOk (k t)) : OutOk (withThr s k) := by
  unfold withThr
  split
  · exact hk _
  · exact trivial

theorem memOk_startAbort {s : State} {rg cause fcause ucode : Nat} {pend : Option Stop} (h : MemOk s) :
    MemOk (startAbort s rg cause fcause ucode pend) := by
  unfold startAbort
  split
  · exact h
  · split
    · exact h
    · exact h
    · exact h.keep rfl

theorem memOk_haltThr {s : State} {id : Nat} {p : Stop} (h : MemOk s) : MemOk (haltThr s id p) := by
  unfold haltThr
  split
  · exact h
  · exact h.keep rfl

theorem memOk_takeStop {s : State} {id : Nat} {p : Stop} (h : MemOk s) : MemOk (takeStop s id p) := by
  unfold takeStop
  split
  · exact h
  · split
    · exact memOk_ite (memOk_haltThr h) (memOk_ite (h.keep rfl) (memOk_startAbort h))
    · exact memOk_haltThr h

theorem outOk_inStrand {s : State} {t : Thread} {k : Seat → Out} (h : MemOk s) (hk : ∀ st, OutOk (k st)) :
    OutOk (inStrand s t k) := by
  unfold inStrand
  split
  · exact hk _
  · exact h.keep rfl

theorem outOk_faultWith {s : State} {t : Thread} {cause sub : Nat} {f : Stop → Stop} (h : MemOk s) :
    OutOk (faultWith s t cause sub f) := by
  unfold faultWith
  extract_lets p
  split
  · exact memOk_takeStop h
  · exact h.keep rfl

theorem outOk_fault {s : State} {t : Thread} {cause sub : Nat} (h : MemOk s) : OutOk (fault s t cause sub) :=
  outOk_faultWith h

theorem memOk_trap {s : State} {t' : Thread} {cause sub : Nat} {w6 w7 : Word} (h : MemOk s) :
    MemOk (trap s t' cause sub w6 w7) :=
  memOk_takeStop (h.keep rfl)

theorem outOk_done {s : State} {t' : Thread} (h : MemOk s) : OutOk (done s t') := h.keep rfl

theorem outOk_done4 {s : State} {t' : Thread} (h : MemOk s) : OutOk (done4 s t') := outOk_done h

theorem outOk_scalar {i : Instr} {s : State} {k : Thread → Out} (h : MemOk s) (hk : ∀ t, OutOk (k t)) :
    OutOk (scalar i s k) := by
  unfold scalar
  refine outOk_withThr fun t => ?_
  split
  · exact outOk_fault h
  · exact hk _

theorem outOk_scalarOutside {i : Instr} {s : State} {k : Thread → Out} (h : MemOk s) (hk : ∀ t, OutOk (k t)) :
    OutOk (scalarOutside i s k) :=
  outOk_scalar h fun _ => outOk_ite (outOk_fault h) (hk _)

theorem outOk_needU {s : State} {t : Thread} {v : SVal} {k : Word → Out} (h : MemOk s) (hk : ∀ v, OutOk (k v)) :
    OutOk (needU s t v k) := by
  unfold needU
  split
  · exact hk _
  · exact outOk_fault h

theorem outOk_writeM {s : State} {t : Thread} {d : SReg} {n : Nat} {f : Nat → Item → Word} (h : MemOk s) :
    OutOk (writeM s t d n f) :=
  outOk_inStrand h fun _ => outOk_ite (outOk_fault h) (outOk_done h)

theorem outOk_writeMC {s : State} {t : Thread} {d : BitVec 3} {f : Nat → Item → Bool} (h : MemOk s) :
    OutOk (writeMC s t d f) :=
  outOk_inStrand h fun _ => outOk_done4 h

theorem outOk_writeForm {s : State} {t : Thread} {d : SReg} {n : Nat} {form : Option SVal}
    {f : Nat → Item → Word} (h : MemOk s) : OutOk (writeForm s t d n form f) := by
  unfold writeForm
  split
  · exact outOk_done h
  · exact outOk_writeM h

theorem outOk_scalarOp {s : State} {t : Thread} {d : SReg} {n : Nat} {form : SVal → SVal → Option SVal}
    {p q : SVal} {f : Word → Word → Item → Word} (h : MemOk s) : OutOk (scalarOp s t d n form p q f) :=
  outOk_writeForm h

/-! ### The frame of a lane instruction -/

theorem outOk_laneStop {s : State} {t : Thread} {b : Block} {cause sub : Nat} {mask : W32} {f : Stop → Stop}
    (h : MemOk s) : OutOk (laneStop s t b cause sub mask f) :=
  memOk_takeStop h

theorem memOk_laneEnv {s : State} {t : Thread} {st : Seat} {b : Block} {sh : LaneShape} {f : LaneFields}
    (h : MemOk s) : MemOk (laneEnv s t st b sh f).s :=
  h

theorem outOk_laneInstr {i : Instr} {s : State} {k : LaneEnv → Out} (h : MemOk s)
    (hk : ∀ e, MemOk e.s → OutOk (k e)) : OutOk (laneInstr i s k) := by
  unfold laneInstr
  split
  · split
    · split
      · split
        · exact outOk_laneStop h
        · extract_lets +onlyGivenNames ex
          split
          · exact outOk_laneStop h
          · extract_lets +onlyGivenNames bad L0
            split
            · exact outOk_laneStop h
            · exact hk _ (memOk_laneEnv h)
      · exact trivial
    · exact trivial
  · exact trivial

theorem memOk_afterLane {e : LaneEnv} {st : Seat} {fl : AFlags} (h : MemOk e.s) : MemOk (afterLane e st fl) :=
  h.keep rfl

theorem memOk_afterResult {i : Instr} {e : LaneEnv} {w : Nat} {r : Nat → Nat} {fl : AFlags} (h : MemOk e.s) :
    MemOk (afterResult i e w r fl) :=
  memOk_afterLane h

theorem outOk_laneResult {i : Instr} {e : LaneEnv} {w : Nat} {r : Nat → Nat} {fl : AFlags} (h : MemOk e.s) :
    OutOk (laneResult i e w r fl) :=
  memOk_afterResult h

theorem outOk_laneResultF {i : Instr} {e : LaneEnv} {w : Nat} {r : Nat → Nat × AFlags} (h : MemOk e.s) :
    OutOk (laneResultF i e w r) :=
  outOk_laneResult h

theorem memOk_afterPred {i : Instr} {e : LaneEnv} {r : Nat → Bool} {fl : AFlags} (h : MemOk e.s) :
    MemOk (afterPred i e r fl) :=
  memOk_afterLane h

theorem outOk_lanePred {i : Instr} {e : LaneEnv} {r : Nat → Bool} {fl : AFlags} (h : MemOk e.s) :
    OutOk (lanePred i e r fl) :=
  memOk_afterPred h

theorem memOk_afterScalar {i : Instr} {e : LaneEnv} {v : Word} {fl : AFlags} (h : MemOk e.s) :
    MemOk (afterScalar i e v fl) :=
  h.keep rfl

theorem outOk_laneScalar {i : Instr} {e : LaneEnv} {v : Word} {fl : AFlags} (h : MemOk e.s) :
    OutOk (laneScalar i e v fl) :=
  memOk_afterScalar h

theorem memOk_afterIndex {i : Instr} {e : LaneEnv} {r : Nat → W32} (h : MemOk e.s) : MemOk (afterIndex i e r) :=
  memOk_afterLane h

theorem outOk_laneIndex {i : Instr} {e : LaneEnv} {r : Nat → W32} (h : MemOk e.s) : OutOk (laneIndex i e r) :=
  memOk_afterIndex h

/-! ### Scalar and lane arithmetic -/

theorem outOk_alu {i : Instr} {s : State} {d : SReg} {form : SVal → SVal → Option SVal} {p q : Thread → SVal}
    {f : Word → Word → Item → Word} (h : MemOk s) : OutOk (alu i s d form p q f) :=
  outOk_scalar h fun _ => outOk_scalarOp h

theorem outOk_writeCond {s : State} {t : Thread} {d : BitVec 3} {form : Option CVal} {f : Nat → Item → Bool}
    (h : MemOk s) : OutOk (writeCond s t d form f) := by
  unfold writeCond
  split
  · exact outOk_done4 h
  · exact outOk_writeMC h

theorem outOk_compare {s : State} {t : Thread} {d : BitVec 3} {cc : Nat} {p q : SVal} (h : MemOk s) :
    OutOk (compare s t d cc p q) :=
  outOk_writeCond h

theorem outOk_cop {i : Instr} {s : State} {d a b : BitVec 3} {f : Bool → Bool → Bool} (h : MemOk s) :
    OutOk (cop i s d a b f) :=
  outOk_scalar h fun _ => outOk_writeCond h

theorem outOk_intExact {i : Instr} {s : State} {g : Int → Int → Int → Nat → Int} (h : MemOk s) :
    OutOk (intExact i s g) :=
  outOk_laneInstr h fun _ he => outOk_laneResultF he

theorem outOk_bitOp {i : Instr} {s : State} {g : Nat → Nat → Nat → Nat} (h : MemOk s) : OutOk (bitOp i s g) :=
  outOk_laneInstr h fun _ he => outOk_laneResult he

theorem outOk_shiftOp {i : Instr} {s : State} {g : LaneEnv → Nat → Nat → Nat} (h : MemOk s) :
    OutOk (shiftOp i s g) :=
  outOk_laneInstr h fun _ he => outOk_laneResult he

theorem outOk_floatOp {i : Instr} {s : State} {g : LaneFields → Fmt → Nat → Nat → Nat → Nat × AFlags}
    (h : MemOk s) : OutOk (floatOp i s g) :=
  outOk_laneInstr h fun _ he => outOk_laneResultF he

/-! ### Memory, the L2 lines and the line tags -/

theorem memOk_memPutLine {s : State} {line : Nat} {d : LineData} {gen : Nat} (h : MemOk s) :
    MemOk (memPutLine s line d gen) :=
  memWf_memPutLine s line d gen h

theorem memOk_writeBack {s : State} {l : L2Line} (h : MemOk s) : MemOk (writeBack s l) := memWf_writeBack s l h

theorem memOk_landLine {s : State} {line : Nat} (h : MemOk s) : MemOk (landLine s line) :=
  memWf_landLine s line h

theorem memOk_cleanFill {s : State} {die line key ctx : Nat} (h : MemOk s) :
    MemOk (cleanFill s die line key ctx).1 := by
  unfold cleanFill
  split
  · split
    · exact h.keep rfl
    · split
      · exact h.keep rfl
      · exact h
  · split
    · exact h.keep rfl
    · exact h

theorem memOk_fillLine {s : State} {die line key ctx : Nat} (h : MemOk s) :
    MemOk (fillLine s die line key ctx).1 := by
  unfold fillLine
  split
  · exact h
  · split
    · exact h
    · exact memOk_ite_fst h (h.keep rfl)
    · exact memOk_ite_fst (memOk_cleanFill (memOk_landLine h)) (h.keep rfl)
    · exact memOk_cleanFill h

theorem memOk_takeOwnership {s : State} {die line key ctx : Nat} (h : MemOk s) :
    MemOk (takeOwnership s die line key ctx).1 := by
  unfold takeOwnership
  split
  · rename_i e
    exact (MemOk.of_fst e (memOk_fillLine (memOk_landLine h))).keep rfl
  · exact memOk_fillLine (memOk_landLine h)

theorem memOk_evictLine {s : State} {die line : Nat} (h : MemOk s) : MemOk (evictLine s die line) := by
  unfold evictLine
  split
  · exact h
  · extract_lets +onlyGivenNames s1
    have hs1 : MemOk s1 := h.keep rfl
    split
    · extract_lets +onlyGivenNames s2
      have hs2 : MemOk s2 := memOk_landLine hs1
      exact hs2.keep rfl
    · exact hs1

theorem memOk_poisonLine {s : State} {line : Nat} (h : MemOk s) : MemOk (poisonLine s line) :=
  memOk_ite h (h.keep rfl)

theorem memOk_enterSlice {s : State} {die line : Nat} (h : MemOk s) : MemOk (enterSlice s die line) :=
  memOk_ite (h.keep rfl) h

theorem memOk_sendBound {s : State} {die line rg : Nat} {raise : Bool} {v : Nat} (h : MemOk s) :
    MemOk (sendBound s die line rg raise v) :=
  memOk_ite (h.keep rfl) h

theorem memOk_sendTag {s : State} {die line : Nat} {t : Option Tag} {raise : Bool} {v : Nat} (h : MemOk s) :
    MemOk (sendTag s die line t raise v) := by
  unfold sendTag
  split
  · exact memOk_sendBound h
  · exact h

theorem memOk_lowerTags {s : State} {die line : Nat} {ts : List Tag} {v : Nat} (h : MemOk s) :
    MemOk (lowerTags s die line ts v) :=
  memOk_foldl h fun _ _ hacc => memOk_sendBound hacc

theorem memOk_commitPos {s : State} {die line : Nat} {reads writes : Bool} (h : MemOk s) :
    MemOk (commitPos s die line reads writes) := by
  unfold commitPos
  extract_lets l rt p s1 s2 l1
  have hs1 : MemOk s1 := memOk_ite (memOk_sendTag h) h
  have hs2 : MemOk s2 := memOk_ite (memOk_sendTag (memOk_lowerTags hs1)) hs1
  exact hs2.keep rfl

theorem memOk_commitRead {s : State} {line : Nat} (h : MemOk s) : MemOk (commitRead s line) :=
  memOk_ite h (memOk_commitPos (memOk_enterSlice h))

theorem memOk_memPut {s : State} {key : Option Nat} {pa n v : Nat} (h : MemOk s) :
    MemOk (memPut s key pa n v) :=
  memWf_memPut s key pa n v h

theorem memOk_hubPutAs {s : State} {reads : Bool} {key : Option Nat} {pa n v : Nat} (h : MemOk s) :
    MemOk (hubPutAs s reads key pa n v) :=
  memWf_hubPutAs s reads key pa n v h

theorem memOk_hubPut {s : State} {key : Option Nat} {pa n v : Nat} (h : MemOk s) :
    MemOk (hubPut s key pa n v) :=
  memOk_hubPutAs h

/-! ### Strands that retire or go on -/

theorem memOk_vacateTeams {s : State} {wg team : Nat} (h : MemOk s) : MemOk (vacateTeams s wg team) := by
  unfold vacateTeams
  extract_lets gone s1
  have hs1 : MemOk s1 := h.keep rfl
  refine memOk_foldl hs1 fun acc id hacc => ?_
  split
  · exact memOk_takeStop (hacc.keep rfl)
  · exact hacc

theorem memOk_strandRetire {s : State} {id : Nat} (h : MemOk s) : MemOk (strandRetire s id) := by
  unfold strandRetire
  split
  · split
    · exact memOk_vacateTeams (h.keep rfl)
    · exact h
  · exact h

theorem memOk_resumeStrand {s : State} {id : Nat} (h : MemOk s) : MemOk (resumeStrand s id) := by
  unfold resumeStrand
  split
  · split
    · exact h.keep rfl
    · exact memOk_strandRetire h
    · exact h
  · exact h

theorem outOk_withMask {s : State} {t : Thread} {st : Seat} {am : W32} {pc : Word} {toks : List Token}
    (h : MemOk s) : OutOk (withMask s t st am pc toks) :=
  memOk_ite (memOk_resumeStrand (h.keep rfl)) (h.keep rfl)

/-! ### Ways, copies and lockets -/

theorem memOk_makeWay {s : State} {die line : Nat} (h : MemOk s) : MemOk (makeWay s die line) := by
  unfold makeWay
  split
  · exact h
  · extract_lets vs
    split
    · exact memOk_evictLine h
    · exact h

theorem memOk_trimPlace {s : State} {p : Place} {line : Nat} (h : MemOk s) : MemOk (trimPlace s p line) := by
  unfold trimPlace
  extract_lets here
  split
  · exact h
  · split
    · exact h.keep rfl
    · exact h

theorem memOk_putCopy {s : State} {c : Copy} (h : MemOk s) : MemOk (putCopy s c) := by
  unfold putCopy
  extract_lets s1
  have hs1 : MemOk s1 := memOk_trimPlace (h.keep rfl)
  exact memOk_ite hs1 (hs1.keep rfl)

theorem memOk_makeRoom {s : State} {lv : Level} {line : Nat} (h : MemOk s) : MemOk (makeRoom s lv line) := by
  unfold makeRoom
  split
  · exact memOk_trimPlace h
  · exact memOk_trimPlace h
  · exact memOk_foldl h fun _ _ hacc => memOk_makeWay hacc

theorem memOk_unpark {s : State} {line : Nat} (h : MemOk s) : MemOk (unpark s line) := by
  unfold unpark
  split
  · exact h
  · exact memOk_ite (h.keep rfl) (memOk_writeBack (h.keep rfl))

theorem memOk_parkedHome {s : State} {line : Nat} (h : MemOk s) : MemOk (parkedHome s line) := by
  unfold parkedHome
  split
  · exact h
  · exact memOk_writeBack (h.keep rfl)

theorem memOk_putLocket {s : State} {k : Locket} (h : MemOk s) : MemOk (putLocket s k) := h.keep rfl

theorem memOk_staleTlb {s : State} {line : Nat} (h : MemOk s) : MemOk (staleTlb s line) := h.keep rfl

theorem memOk_makeLocket {s : State} {line : Nat} {set : RSet} {force : Nat} {lv : Level} {data : LineData}
    {key ctx launch : Nat} (h : MemOk s) : MemOk (makeLocket s line set force lv data key ctx launch) := by
  unfold makeLocket
  extract_lets tag s0 _ s1
  have hs0 : MemOk s0 := memOk_landLine h
  have hs1 : MemOk s1 := memOk_makeRoom (hs0.keep rfl)
  exact hs1.keep rfl

theorem memOk_rePark {s : State} {k : Locket} {set : RSet} {force launch : Nat} (h : MemOk s) :
    MemOk (rePark s k set force launch).1 := by
  unfold rePark
  extract_lets l p
  split
  · exact memOk_putLocket (memOk_makeRoom (h.keep rfl))
  · exact memOk_parkedHome h

theorem memOk_quadOrHome {s : State} {k : Locket} {core : Nat} (h : MemOk s) : MemOk (quadOrHome s k core) := by
  unfold quadOrHome
  split
  · exact memOk_putLocket (memOk_makeRoom (h.keep rfl))
  · exact memOk_parkedHome h

theorem memOk_clearL1Parked {s : State} {core : Nat} (h : MemOk s) : MemOk (clearL1Parked s core) :=
  memOk_foldl h fun _ _ hacc => memOk_quadOrHome hacc

theorem memOk_locateResolve {s : State} {k : Locket} {core : Nat} (h : MemOk s) :
    MemOk (locateResolve s k core) :=
  memOk_rePark h

/-! ### Partitions, splitting and merging -/

theorem memOk_fillActive {s : State} {core part : Nat} (h : MemOk s) : MemOk (fillActive s core part) := by
  unfold fillActive
  split
  · exact h
  · extract_lets enter
    split
    · exact h.keep rfl
    · split
      · exact h.keep rfl
      · exact h

theorem memOk_onSpan {s : State} {t : Thread} {v : CVal} {neg : Bool}
    {act : State → Nat → Thread → Bool → State} (h : MemOk s)
    (hact : ∀ s n t b, MemOk s → MemOk (act s n t b)) : MemOk (onSpan s t v neg act) := by
  unfold onSpan
  split
  · exact hact _ _ _ _ h
  · exact memOk_ite (hact _ _ _ _ (hact _ _ _ _ (h.keep rfl))) (hact _ _ _ _ h)
  · exact hact _ _ _ _ h

theorem memOk_addThreads {s : State} {ts : List Thread} (h : MemOk s) : MemOk (addThreads s ts) := by
  induction ts generalizing s with
  | nil => exact h
  | cons t rest ih =>
    unfold addThreads
    exact ih (h.keep rfl)

theorem memOk_unseatStrand {s : State} {id : Nat} {t : Thread} {st : Seat} {pc : Word} {w : Wait}
    (h : MemOk s) : MemOk (unseatStrand s id t st pc w) := by
  unfold unseatStrand
  extract_lets boxes copies t0 span s1 s2
  have hs1 : MemOk s1 := h.keep rfl
  have hs2 : MemOk s2 := (memOk_vacateTeams (memOk_addThreads hs1)).keep rfl
  exact hs2.keep rfl

theorem memOk_mergeAll {n : Nat} {s : State} (h : MemOk s) : MemOk (mergeAll n s) := by
  induction n generalizing s with
  | zero => exact h
  | succ n ih =>
    unfold mergeAll
    split
    · exact ih (h.keep rfl)
    · exact h

theorem memOk_mergeHeld {s : State} (h : MemOk s) : MemOk (mergeHeld s) := memOk_mergeAll h

theorem memOk_mergeAfter {s : State} {id : Nat} (h : MemOk s) : MemOk (mergeAfter s id) := by
  unfold mergeAfter
  split
  · split
    · exact memOk_mergeHeld h
    · exact h
  · exact h

/-! ### The hub's accesses -/

theorem memOk_combine {s : State} {line : Nat} (h : MemOk s) : MemOk (combine s line) := by
  unfold combine
  split
  · exact h
  · extract_lets ps die cleared
    have hown {key ctx} :
        MemOk (takeOwnership (makeWay (recallExcl (unpark s line) line) die line) die line key ctx).1 :=
      memOk_takeOwnership (memOk_makeWay ((memOk_unpark h).keep rfl))
    have hcleared {x} (hx : MemOk x) : MemOk (cleared x) := hx.keep rfl
    split
    · exact hcleared h
    · split
      · rename_i s1 _ e
        have hs1 : MemOk s1 := MemOk.of_fst e hown
        extract_lets d' _ s2 s3 put
        have hs2 : MemOk s2 := hs1.keep rfl
        have hs3 : MemOk s3 := memOk_commitPos (hcleared hs2)
        exact memOk_foldl hs3 fun _ _ hacc => memOk_foldl hacc fun _ _ hacc => hacc.keep rfl
      · rename_i e
        exact hcleared (MemOk.of_fst e hown)

theorem memOk_recallHome {s : State} {line : Nat} (h : MemOk s) : MemOk (recallHome s line) := by
  unfold recallHome
  split
  · exact memOk_writeBack (h.keep rfl)
  · exact h

theorem memOk_hubReady {s : State} {line : Nat} (h : MemOk s) : MemOk (hubReady s line) :=
  memOk_combine (memOk_recallHome h)

theorem memOk_hubStore {s : State} {key : Option Nat} {pa n v : Nat} (h : MemOk s) :
    MemOk (hubStore s key pa n v) :=
  memOk_hubPut (memOk_hubReady h)

theorem memOk_hubWrite {s : State} {pa n v : Nat} (h : MemOk s) : MemOk (hubWrite s pa n v) := memOk_hubStore h

theorem memOk_hubWriteWords {s : State} {pa : Nat} {ws : List Word} (h : MemOk s) :
    MemOk (hubWriteWords s pa ws) := by
  induction ws generalizing s pa with
  | nil => exact h
  | cons w ws ih =>
    unfold hubWriteWords
    exact ih (memOk_hubWrite h)

theorem memOk_walkReads {s : State} {lines : List Nat} (h : MemOk s) : MemOk (walkReads s lines) :=
  memOk_foldl h fun _ _ hacc => memOk_commitRead hacc

theorem memOk_cacheXl {s : State} {unit ctx va : Nat} (h : MemOk s) : MemOk (cacheXl s unit ctx va) := by
  unfold cacheXl
  split
  · exact h
  · split
    · exact h.keep rfl
    · extract_lets t s1
      have hs1 : MemOk s1 := memOk_walkReads h
      exact memOk_ite (hs1.keep rfl) (hs1.keep rfl)
    · exact h

theorem memOk_setAD {s : State} {ctx va : Nat} {write : Bool} (h : MemOk s) : MemOk (setAD s ctx va write) := by
  unfold setAD
  split
  · exact memOk_ite h (memOk_hubPutAs (memOk_unpark (memOk_hubReady h)))
  · exact h

theorem memOk_noteAccess {s : State} {unit ctx va : Nat} {write : Bool} (h : MemOk s) :
    MemOk (noteAccess s unit ctx va write) :=
  memOk_cacheXl (memOk_setAD h)

theorem memOk_hubTouch {s : State} {ctx va n : Nat} (h : MemOk s) : MemOk (hubTouch s ctx va n) :=
  memOk_ite h (memOk_foldl h fun _ _ hacc => memOk_setAD hacc)

theorem memOk_hubWriteGo {s : State} {ctx fuel va : Nat} {bs : List Byte} (h : MemOk s) :
    MemOk (hubWriteGo s ctx fuel va bs) := by
  induction fuel generalizing s va bs with
  | zero => exact h
  | succ fuel ih =>
    unfold hubWriteGo
    extract_lets m s1
    have hs1 : MemOk s1 := by
      unfold s1
      split
      · exact (memOk_hubStore (memOk_setAD h)).keep rfl
      · exact h
    exact memOk_ite h (ih hs1)

theorem memOk_hubWriteVa {s : State} {ctx va : Nat} {bs : List Byte} (h : MemOk s) :
    MemOk (hubWriteVa s ctx va bs) :=
  memOk_hubWriteGo h

theorem memOk_stopThr {s : State} {id : Nat} {t : Thread} {p : Stop} (h : MemOk s) :
    MemOk (stopThr s id t p) := by
  unfold stopThr
  split
  · exact memOk_takeStop h
  · exact h.keep rfl

theorem outOk_tokFault {s : State} {t : Thread} {sub : Nat} (h : MemOk s) : OutOk (tokFault s t sub) :=
  memOk_stopThr h

/-! ### Branches, tokens, seating and the system group -/

theorem outOk_branchOn {s : State} {t : Thread} {c : BitVec 3} {neg : Bool}
    {act : State → Nat → Thread → Bool → State} (h : MemOk s)
    (hact : ∀ s n t b, MemOk s → MemOk (act s n t b)) : OutOk (branchOn s t c neg act) := by
  unfold branchOn
  split
  · exact memOk_onSpan h hact
  · split
    · exact hact _ _ _ _ h
    · exact outOk_fault h

theorem outOk_execBr {c : BitVec 3} {n : BitVec 1} {o : BitVec 22} {s : State} (h : MemOk s) :
    OutOk (execBr c n o s) :=
  outOk_scalar h fun _ => outOk_branchOn h fun _ _ _ _ htake => htake.keep rfl

theorem outOk_execCall {c : BitVec 3} {n : BitVec 1} {o : BitVec 22} {s : State} (h : MemOk s) :
    OutOk (execCall c n o s) :=
  outOk_scalar h fun _ => outOk_branchOn h fun _ _ _ _ htake => memOk_ite (htake.keep rfl) (memOk_ite
    (memOk_stopThr htake) (htake.keep rfl))

theorem outOk_execJmp {a : SReg} {s : State} (h : MemOk s) : OutOk (execJmp a s) := by
  unfold execJmp
  refine outOk_scalar h fun t => ?_
  split
  · exact outOk_ite (outOk_fault h) (outOk_done h)
  · exact outOk_fault h

theorem outOk_execRet {s : State} (h : MemOk s) : OutOk (execRet s) := by
  unfold execRet
  refine outOk_scalar h fun t => ?_
  split
  · split
    · split
      · exact outOk_done h
      · exact outOk_withMask h
    · exact outOk_tokFault h
  · exact outOk_tokFault h

theorem outOk_execExit {s : State} (h : MemOk s) : OutOk (execExit s) := by
  unfold execExit
  refine outOk_scalarOutside h fun t => ?_
  split
  · exact h.keep rfl
  · exact memOk_resumeStrand (h.keep rfl)

theorem outOk_pushTok {s : State} {t : Thread} {k : TokKind} {o : BitVec 21} (h : MemOk s) :
    OutOk (pushTok s t k o) :=
  outOk_ite (outOk_tokFault h) (outOk_done4 h)

theorem outOk_tokOn {s : State} {t : Thread} {ks : BitVec 1} {span : Out} {strand : Seat → Out} (h : MemOk s)
    (hspan : OutOk span) (hstrand : ∀ st, OutOk (strand st)) : OutOk (tokOn s t ks span strand) := by
  unfold tokOn
  split
  · exact hstrand _
  · exact outOk_ite hspan (h.keep rfl)

theorem outOk_execDvg {k : BitVec 3} {ks neg : BitVec 1} {o : BitVec 21} {s : State} (h : MemOk s) :
    OutOk (execDvg k ks neg o s) :=
  outOk_scalar h fun _ => outOk_tokOn h (memOk_onSpan h fun _ _ _ _ hv => hv.keep rfl) fun _ => outOk_ite
    (outOk_tokFault h) (outOk_withMask h)

theorem outOk_execNxt {s : State} (h : MemOk s) : OutOk (execNxt s) := by
  unfold execNxt
  refine outOk_scalar h fun t => ?_
  split
  · exact outOk_tokFault h
  · split
    · exact outOk_tokFault h
    · split
      · exact outOk_tokFault h
      · split
        · exact outOk_done h
        · exact outOk_ite (outOk_fault h) (outOk_withMask h)

theorem outOk_execBrk {k : BitVec 3} {ks neg : BitVec 1} {s : State} (h : MemOk s) :
    OutOk (execBrk k ks neg s) := by
  unfold execBrk
  refine outOk_scalar h fun t => ?_
  refine outOk_tokOn h ?_ fun st => ?_
  · split
    · exact outOk_tokFault h
    · exact memOk_onSpan h fun _ _ _ _ hv => hv.keep rfl
  · split
    · exact outOk_tokFault h
    · exact outOk_ite (outOk_fault h) (outOk_withMask h)

theorem outOk_execLpe {k : BitVec 3} {ks neg : BitVec 1} {o : BitVec 21} {s : State} (h : MemOk s) :
    OutOk (execLpe k ks neg o s) := by
  unfold execLpe
  refine outOk_scalar h fun t => ?_
  refine outOk_tokOn h ?_ fun st => ?_
  · split
    · exact outOk_ite (outOk_tokFault h) (memOk_onSpan h fun _ _ _ _ hv => hv.keep rfl)
    · exact outOk_tokFault h
  · split
    · exact outOk_ite (outOk_tokFault h) (outOk_ite (outOk_fault h) (outOk_ite (outOk_withMask h)
          (outOk_withMask h)))
    · exact outOk_tokFault h

theorem outOk_execUnseat {s : State} (h : MemOk s) : OutOk (execUnseat s) := by
  unfold execUnseat
  refine outOk_scalarOutside h fun t => ?_
  split
  · exact outOk_done4 h
  · exact outOk_ite (memOk_unseatStrand h) (outOk_fault h)

theorem outOk_execSjoin {w : BitVec 11} {s : State} (h : MemOk s) : OutOk (execSjoin w s) := by
  unfold execSjoin
  refine outOk_scalarOutside h fun t => ?_
  extract_lets expiry
  split
  · exact memOk_mergeHeld (h.keep rfl)
  · exact outOk_ite (memOk_mergeHeld (memOk_unseatStrand h)) (outOk_done4 h)

theorem outOk_snoozeTo {s : State} {t : Thread} {deadline : Nat} (h : MemOk s) :
    OutOk (snoozeTo s t deadline) :=
  outOk_ite (outOk_done4 h) (h.keep rfl)


theorem outOk_execSrd {d r : BitVec 6} {s : State} (h : MemOk s) : OutOk (execSrd d r s) := by
  unfold execSrd
  refine outOk_scalar h fun t => outOk_ite (h.keep rfl) ?_
  refine outOk_ite (outOk_done4 h) (outOk_ite (outOk_done4 h) (outOk_ite (outOk_done4 h) ?_))
  generalize ilinForm (lrecOf s t) = form
  exact outOk_ite (outOk_writeForm h) (outOk_ite (outOk_done4 h) (outOk_done4 h))

theorem outOk_swrEffect {s : State} {t : Thread} {r : Nat} {v : Word} (h : MemOk s) : OutOk (swrEffect s t r v) := by
  unfold swrEffect
  refine outOk_ite (outOk_done4 h) (outOk_ite (outOk_done4 h) (outOk_ite (outOk_done4 h) ?_))
  refine outOk_ite (outOk_done4 h) (outOk_ite (outOk_done4 h) ?_)
  exact outOk_ite (outOk_done4 (h.keep rfl)) (outOk_ite (outOk_done4 h) (outOk_done4 h))

theorem outOk_execSwr {r b : BitVec 6} {s : State} (h : MemOk s) : OutOk (execSwr r b s) :=
  outOk_scalar h fun _ => outOk_ite (outOk_fault h) (outOk_needU h fun _ => outOk_swrEffect h)

theorem outOk_execDlaunch {d a b : SReg} {s : State} (h : MemOk s) : OutOk (execDlaunch d a b s) :=
  outOk_scalarOutside h fun _ => outOk_needU h fun _ => outOk_needU h fun _ => outOk_ite (outOk_fault h)
    (outOk_ite (outOk_fault h) (outOk_ite (outOk_done4 h) (h.keep rfl)))

theorem outOk_notEnabled {name : String} : OutOk (notEnabled name) := trivial

theorem outOk_onThr {s : State} {name : String} {id : Nat} {k : Thread → Out} (hk : ∀ t, OutOk (k t)) :
    OutOk (onThr s name id k) := by
  unfold onThr
  split
  · exact outOk_ite outOk_notEnabled (hk _)
  · exact outOk_notEnabled

/-! ### Fences, waits and barriers -/

theorem outOk_execFence {k : BitVec 2} {sc : BitVec 3} {s : State} (h : MemOk s) : OutOk (execFence k sc s) :=
  outOk_scalar h fun _ => outOk_ite (outOk_done4 h) (outOk_ite (outOk_done h) (h.keep rfl))

theorem outOk_execFenceComplete {id : Nat} {s : State} (h : MemOk s) : OutOk (execFenceComplete id s) := by
  unfold execFenceComplete
  refine outOk_onThr fun t => ?_
  split
  · exact h.keep rfl
  · split
    · exact outOk_ite (h.keep rfl) outOk_notEnabled
    · exact outOk_notEnabled

theorem memOk_trapMark {s : State} {id : Nat} {t : Thread} (h : MemOk s) : MemOk (trapMark s id t) := by
  unfold trapMark
  split
  · exact memOk_takeStop (h.keep rfl)
  · exact h.keep rfl

theorem memOk_endCpWait {s : State} {id : Nat} {t : Thread} (h : MemOk s) : MemOk (endCpWait s id t) := by
  unfold endCpWait
  extract_lets cs t1
  split
  · extract_lets s1
    have hs1 : MemOk s1 := memOk_trapMark (h.keep rfl)
    exact memOk_takeStop hs1
  · exact memOk_trapMark (h.keep rfl)

theorem memOk_endWait {s : State} {id : Nat} {t : Thread} {p : Path} (h : MemOk s) : MemOk (endWait s id t p) :=
  memOk_ite (memOk_endCpWait h) (h.keep rfl)

theorem outOk_execWait {a : SReg} {p : BitVec 2} {s : State} (h : MemOk s) : OutOk (execWait a p s) :=
  outOk_scalar h fun _ => outOk_needU h fun _ => outOk_ite (memOk_endWait h) (h.keep rfl)

theorem outOk_execWaitComplete {id : Nat} {s : State} (h : MemOk s) : OutOk (execWaitComplete id s) := by
  unfold execWaitComplete
  refine outOk_onThr fun t => ?_
  split
  · exact outOk_ite (memOk_endWait h) outOk_notEnabled
  · exact outOk_notEnabled

theorem outOk_execTrapf {s : State} (h : MemOk s) : OutOk (execTrapf s) :=
  outOk_scalar h fun _ => outOk_ite (outOk_done4 h) (outOk_inStrand h fun _ => memOk_trap h)

theorem outOk_barWord {s : State} {t : Thread} {st : Seat} {a : SReg} {init : Bool}
    {k : Option Nat → Wg → Word → Out} (h : MemOk s) (hk : ∀ off w v, OutOk (k off w v)) :
    OutOk (barWord s t st a init k) :=
  outOk_ite (hk _ _ _) (outOk_needU h fun _ => outOk_ite (outOk_faultWith h) (outOk_ite (outOk_faultWith h)
    (outOk_ite (outOk_faultWith h) (hk _ _ _))))

theorem outOk_barArrival {s : State} {t : Thread} {a b : SReg} {k : State → Option Nat → Word → Bool → Out}
    (h : MemOk s) (hk : ∀ s off v b, MemOk s → OutOk (k s off v b)) : OutOk (barArrival s t a b k) := by
  unfold barArrival
  refine outOk_inStrand h fun st => ?_
  refine outOk_barWord h fun off x word => ?_
  extract_lets go
  exact outOk_ite (outOk_ite (outOk_fault h) (hk _ _ _ _ (h.keep rfl))) (outOk_ite (hk _ _ _ _ (h.keep rfl))
      (outOk_needU h fun _ => hk _ _ _ _ (h.keep rfl)))

theorem outOk_execBarArv {d a b : SReg} {s : State} (h : MemOk s) : OutOk (execBarArv d a b s) :=
  outOk_scalarOutside h fun _ => outOk_barArrival h fun _ _ _ _ hx1 => outOk_done4 hx1

theorem outOk_execBarArw {a b : SReg} {s : State} (h : MemOk s) : OutOk (execBarArw a b s) :=
  outOk_scalarOutside h fun _ => outOk_barArrival h fun _ _ _ _ hrel => outOk_ite (outOk_done4 hrel) (hrel.keep
    rfl)

theorem outOk_execBarWt {a b : SReg} {s : State} (h : MemOk s) : OutOk (execBarWt a b s) :=
  outOk_scalarOutside h fun _ => outOk_inStrand h fun _ => outOk_needU h fun _ => outOk_barWord h fun _ _ _ =>
    outOk_ite (outOk_done4 h) (h.keep rfl)

theorem outOk_execBarInit {a b : SReg} {s : State} (h : MemOk s) : OutOk (execBarInit a b s) :=
  outOk_scalarOutside h fun _ => outOk_inStrand h fun _ => outOk_needU h fun _ => outOk_barWord h fun _ _ _ =>
    outOk_ite (outOk_fault h) (outOk_done4 (h.keep rfl))

theorem outOk_execBarReleaseWake {id : Nat} {s : State} (h : MemOk s) : OutOk (execBarReleaseWake id s) := by
  unfold execBarReleaseWake
  refine outOk_onThr fun t => ?_
  split
  · exact outOk_ite (h.keep rfl) outOk_notEnabled
  · exact outOk_notEnabled

theorem outOk_hbarOn {i : Instr} {s : State} {lev : Nat} {arrives : Bool} {k : Thread → Nat → Out} (h : MemOk s)
    (hk : ∀ t n, OutOk (k t n)) : OutOk (hbarOn i s lev arrives k) := by
  unfold hbarOn
  refine outOk_scalarOutside h fun t => ?_
  split
  · exact outOk_fault h
  · split
    · exact outOk_fault h
    · exact outOk_ite (outOk_fault h) (hk _ _)

theorem outOk_execHbarWt {a : SReg} {l : BitVec 3} {s : State} (h : MemOk s) : OutOk (execHbarWt a l s) :=
  outOk_hbarOn h fun _ _ => outOk_needU h fun _ => outOk_ite (outOk_done4 h) (h.keep rfl)

theorem outOk_execHbarRelease {id : Nat} {s : State} (h : MemOk s) : OutOk (execHbarRelease id s) := by
  unfold execHbarRelease
  refine outOk_onThr fun t => ?_
  split
  · split
    · exact outOk_ite (h.keep rfl) outOk_notEnabled
    · exact outOk_notEnabled
  · exact outOk_notEnabled

theorem outOk_execSnoozeExpiry {id : Nat} {s : State} (h : MemOk s) : OutOk (execSnoozeExpiry id s) := by
  unfold execSnoozeExpiry
  refine outOk_onThr fun t => ?_
  split
  · exact outOk_ite (h.keep rfl) outOk_notEnabled
  · exact outOk_notEnabled

theorem outOk_execSjoinWindowExpiry {id : Nat} {s : State} (h : MemOk s) :
    OutOk (execSjoinWindowExpiry id s) := by
  unfold execSjoinWindowExpiry
  refine outOk_onThr fun t => ?_
  split
  · exact outOk_ite (h.keep rfl) outOk_notEnabled
  · exact outOk_notEnabled

/-! ### Lane accesses and their issue -/

theorem memOk_scratchLane {s : State} {o : Op} {a : LaneAcc} {w off : Nat} (h : MemOk s) :
    MemOk (scratchLane s o a w off).1 := by
  unfold scratchLane
  split
  · exact h
  · extract_lets m s1 kget
    have hs1 : MemOk s1 := by
      unfold s1
      split
      · exact h.keep rfl
      · exact h
    exact hs1

theorem memOk_relaunchLane {s : State} {o : Op} {a : LaneAcc} (h : MemOk s) : MemOk (relaunchLane s o a).1 := by
  unfold relaunchLane
  split
  · exact memOk_scratchLane h
  · exact memOk_noteAccess h
  · exact h

theorem memOk_reissueOp {s : State} {op : Nat} {o : Op} {which : LaneAcc → Bool} (h : MemOk s) :
    MemOk (reissueOp s op o which) := by
  unfold reissueOp
  extract_lets checked bad r v
  have hr : MemOk r.1 := memOk_foldl_fst h fun _ _ hacc => memOk_ite_fst hacc (memOk_ite_fst (memOk_relaunchLane hacc)
      (memOk_ite_fst hacc hacc))
  have hv : MemOk v := hr
  exact hv.keep rfl

theorem memOk_deliver {s : State} {o : Op} (h : MemOk s) : MemOk (deliver s o) := by
  unfold deliver
  split
  · exact h
  · dsimp only
    split
    · exact h
    · split
      · split
        · exact h.keep rfl
        · exact h
      · split
        · exact h.keep rfl
        · exact h
    · split
      · exact h
      · exact memOk_ite h (h.keep rfl)

theorem memOk_launchOp {s : State} {t : Thread} {o : Op} {accs : List (LaneAcc × Option (Nat × Nat))}
    (h : MemOk s) : MemOk (launchOp s t o accs) := by
  unfold launchOp
  extract_lets step shadowed r0 r o1 s1
  have hstep : ∀ acc x, MemOk acc.1 → MemOk (step acc x).1 := by
    intro acc x hacc
    unfold step
    split
    · exact memOk_scratchLane hacc
    · exact memOk_noteAccess hacc
  have hr : MemOk r.1 := memOk_foldl_fst h hstep
  exact memOk_ite (hr.keep rfl) (memOk_ite (memOk_deliver (hr.keep rfl)) (hr.keep rfl))

theorem outOk_laneAccess {i : Instr} {e : LaneEnv} {space : Space} {n : Nat} {a : AccSpec} {reqs : List Req}
    (h : MemOk e.s) : OutOk (laneAccess i e space n a reqs) := by
  unfold laneAccess
  split
  · exact outOk_laneStop h
  · exact memOk_launchOp h

theorem outOk_scalarAccess {s : State} {t t' : Thread} {a : AccSpec}
    {r : Except (Fail × W32) (List (LaneAcc × Option (Nat × Nat)))}
    {keep : List (LaneAcc × Option (Nat × Nat)) → List (LaneAcc × Option (Nat × Nat))} (h : MemOk s) :
    OutOk (scalarAccess s t t' a r keep) := by
  unfold scalarAccess
  split
  · split
    · exact h.keep rfl
    · exact memOk_takeStop h
  · exact memOk_launchOp h

/-! ### Copies, parked lines and accesses at the slices -/

theorem memOk_noteSeen {s : State} {id line off n : Nat} {stamps : Tab Nat} (h : MemOk s) :
    MemOk (noteSeen s id line off n stamps) := by
  unfold noteSeen
  split
  · exact h
  · exact h.keep rfl

theorem memOk_patchCopies {s : State} {core : Option Nat} {l1 quad : Bool} {line off n v stamp : Nat}
    (h : MemOk s) : MemOk (patchCopies s core l1 quad line off n v stamp) := by
  unfold patchCopies
  split
  · exact h
  · exact h.keep rfl

theorem memOk_passThrough {s : State} {core : Option Nat} {line off n v : Nat} (h : MemOk s) :
    MemOk (passThrough s core line off n v) := by
  unfold passThrough
  split
  · exact h
  · exact (memOk_patchCopies h).keep rfl

theorem memOk_noteMiss {s : State} {o : Op} {line : Nat} (h : MemOk s) : MemOk (noteMiss s o line) := by
  unfold noteMiss
  split
  · exact h
  · exact h.keep rfl

theorem memOk_refreshCopies {s : State} {o : Op} {a : LaneAcc} {die line : Nat} {d : LineData} {near : Place}
    (h : MemOk s) : MemOk (refreshCopies s o a die line d near) := by
  unfold refreshCopies
  split
  · exact h
  · exact memOk_ite (memOk_putCopy (memOk_ite (memOk_putCopy h) h)) (memOk_ite (memOk_putCopy h) h)

theorem memOk_serveCopy {s : State} {o : Op} {a : LaneAcc} {c : Copy} (h : MemOk s) :
    MemOk (serveCopy s o a c).1 := by
  unfold serveCopy
  extract_lets +onlyGivenNames v s1
  have hs1 : MemOk s1 := memOk_noteSeen (h.keep rfl)
  split
  · exact hs1
  · split
    · exact hs1
    · extract_lets near s2 e _ s3
      have hs2 : MemOk s2 := memOk_noteMiss hs1
      have hs3 : MemOk s3 := by
        unfold s3
        split
        · exact hs2.keep rfl
        · exact hs2
      exact memOk_ite_fst hs3 (memOk_putCopy hs3)

theorem memOk_contribute {s : State} {o : Op} {a : LaneAcc} {c : CRange} (h : MemOk s) :
    MemOk (contribute s o a c) := by
  unfold contribute
  extract_lets line s1 n e core mine v add
  have hs1 : MemOk s1 := memOk_unpark h
  exact hs1.keep rfl

theorem outOk_execPartialHandover {k : Nat} {s : State} (h : MemOk s) : OutOk (execPartialHandover k s) := by
  unfold execPartialHandover
  split
  · exact outOk_ite outOk_notEnabled (h.keep rfl)
  · exact outOk_notEnabled

theorem memOk_lanePoison {s : State} {op : Nat} {o : Op} {a : LaneAcc} {sub : Nat} (h : MemOk s) :
    MemOk (lanePoison s op o a sub) :=
  memOk_ite (memOk_ite (h.keep rfl) (h.keep rfl)) (memOk_ite (h.keep rfl) (memOk_poisonLine (h.keep rfl)))

theorem memOk_nearLane {s : State} {op : Nat} {o : Op} {a : LaneAcc} {level : Nat} (h : MemOk s) :
    MemOk (nearLane s op o a level) := by
  unfold nearLane
  extract_lets line v w s0 s1 s2
  have hs0 : MemOk s0 := by
    unfold s0
    split
    · exact h.keep rfl
    · exact h
  have hs1 : MemOk s1 := memOk_patchCopies hs0
  have hs2 : MemOk s2 := (memOk_noteSeen hs1).keep rfl
  exact hs2.keep rfl

theorem memOk_arriveHome {s : State} {o : Op} {a : LaneAcc} {v : Nat} (h : MemOk s) :
    MemOk (arriveHome s o a v) := by
  unfold arriveHome
  extract_lets line off
  split
  · extract_lets s1
    have hs1 : MemOk s1 := memOk_patchCopies (h.keep rfl)
    exact hs1.keep rfl
  · exact memOk_passThrough h

theorem memOk_holdExcl {s : State} {o : Op} {die line : Nat} (h : MemOk s) : MemOk (holdExcl s o die line) := by
  unfold holdExcl
  split
  · exact h
  · exact h
  · exact memOk_ite (h.keep rfl) h
  · exact h

theorem memOk_portRecall {s : State} {o : Op} {die line : Nat} (h : MemOk s) :
    MemOk (portRecall s o die line) := by
  unfold portRecall
  split
  · exact h
  · exact h
  · exact memOk_ite (memOk_landLine (memOk_evictLine h)) h

theorem memOk_putLane {s : State} {o : Op} {a : LaneAcc} {die : Nat} {d : LineData} {v : Nat} (h : MemOk s) :
    MemOk (putLane s o a die d v) := by
  unfold putLane
  extract_lets line off
  exact memOk_staleTlb (memOk_arriveHome (h.keep rfl))

theorem memOk_writeLane {s : State} {op : Nat} {o : Op} {a : LaneAcc} {die : Nat} (h : MemOk s) :
    MemOk (writeLane s op o a die) := by
  unfold writeLane
  extract_lets +onlyGivenNames line
  split
  · exact memOk_lanePoison h
  · split
    · rename_i e1
      exact memOk_lanePoison (MemOk.of_fst e1 (memOk_takeOwnership (h.keep rfl)))
    · rename_i e1
      extract_lets +onlyGivenNames m w s2 s3 s4
      have hs2 : MemOk s2 := memOk_commitPos (MemOk.of_fst e1 (memOk_takeOwnership (h.keep rfl)))
      have hs3 : MemOk s3 := by
        unfold s3
        split
        · exact hs2
        · exact memOk_putLane hs2
      have hs4 : MemOk s4 := memOk_portRecall (memOk_holdExcl hs3)
      exact (memOk_noteSeen hs4).keep rfl

theorem memOk_writeParked {s : State} {op : Nat} {o : Op} {a : LaneAcc} {k : Locket} (h : MemOk s) :
    MemOk (writeParked s op o a k) := by
  unfold writeParked
  extract_lets line off v w s2
  have hs2 : MemOk s2 := by
    unfold s2
    exact memOk_staleTlb (memOk_arriveHome (h.keep rfl))
  exact (memOk_noteSeen hs2).keep rfl

theorem memOk_parkLane {s : State} {op : Nat} {o : Op} {a : LaneAcc} {set : RSet} (h : MemOk s) :
    MemOk (parkLane s op o a set) := by
  unfold parkLane
  extract_lets +onlyGivenNames line l force place s0 lanes
  have hs0 : MemOk s0 := h.keep rfl
  split
  · exact memOk_foldl h fun _ _ hacc => memOk_lanePoison hacc
  · exact memOk_foldl (memOk_unpark hs0) fun _ _ hacc => memOk_writeLane hacc
  · split
    · exact memOk_foldl hs0 fun _ _ hacc => memOk_lanePoison hacc
    · extract_lets +onlyGivenNames val d' w s1 s2
      have hs1 : MemOk s1 := by
        unfold s1
        split
        · exact memOk_putLocket (memOk_makeRoom (hs0.keep rfl))
        · exact memOk_makeLocket hs0
      have hs2 : MemOk s2 := by
        unfold s2
        refine memOk_foldl hs1 fun acc x hacc => ?_
        extract_lets acc1 acc2
        have hacc2 : MemOk acc2 := memOk_arriveHome (hacc.keep rfl)
        exact (memOk_noteSeen hacc2).keep rfl
      exact hs2.keep rfl

theorem memOk_readLane {s : State} {op : Nat} {o : Op} {a : LaneAcc} {die : Nat} (h : MemOk s) :
    MemOk (readLane s op o a die) := by
  unfold readLane
  extract_lets +onlyGivenNames line
  split
  · rename_i e
    exact memOk_lanePoison (MemOk.of_fst e (memOk_fillLine (h.keep rfl)))
  · rename_i s1 _ e
    extract_lets +onlyGivenNames near s2 s3
    have hs2 : MemOk s2 := by
      unfold s2
      have hm : MemOk (noteMiss (commitPos s1 die line true false) o line) :=
        memOk_noteMiss (memOk_commitPos (MemOk.of_fst e (memOk_fillLine (h.keep rfl))))
      exact hm.keep rfl
    have hs3 : MemOk s3 := memOk_refreshCopies hs2
    exact (memOk_noteSeen hs3).keep rfl

theorem memOk_readParked {s : State} {op : Nat} {o : Op} {a : LaneAcc} {k : Locket} (h : MemOk s) :
    MemOk (readParked s op o a k) := by
  unfold readParked
  extract_lets s0 s1
  have hs0 : MemOk s0 := memOk_ite h ((memOk_noteMiss h).keep rfl)
  have hs1 : MemOk s1 := by
    unfold s1
    split
    · exact memOk_ite (memOk_putCopy hs0) hs0
    · exact hs0
  exact (memOk_noteSeen hs1).keep rfl

theorem memOk_performLane {s : State} {op : Nat} {o : Op} {a : LaneAcc} (h : MemOk s) :
    MemOk (performLane s op o a) := by
  unfold performLane
  extract_lets line die s0
  have hs0 : MemOk s0 := memOk_enterSlice (memOk_combine h)
  split
  · exact memOk_lanePoison h
  · split
    · split
      · exact memOk_lanePoison h
      · rename_i c _ _ _
        have hc : MemOk (contribute s o a c) := memOk_contribute h
        exact hc.keep rfl
    · split
      · exact memOk_readParked hs0
      · exact memOk_readLane hs0
      · exact memOk_writeParked hs0
      · split
        · split
          · exact memOk_writeParked hs0
          · exact memOk_writeLane hs0
        · split
          · exact memOk_parkLane hs0
          · exact memOk_writeLane hs0
      · exact memOk_writeLane (memOk_unpark hs0)

theorem outOk_onLane {s : State} {name : String} {op lane : Nat} {k : Op → LaneAcc → Out}
    (hk : ∀ o a, OutOk (k o a)) : OutOk (onLane s name op lane k) := by
  unfold onLane
  split
  · split
    · exact hk _ _
    · exact outOk_notEnabled
  · exact outOk_notEnabled

theorem memOk_settleOp {s : State} {op : Nat} (h : MemOk s) : MemOk (settleOp s op) := by
  unfold settleOp
  split
  · exact memOk_ite (h.keep rfl) h
  · exact h

theorem outOk_execNonregionSliceAccess {op lane src : Nat} {s : State} (h : MemOk s) :
    OutOk (execNonregionSliceAccess op lane src s) := by
  unfold execNonregionSliceAccess
  refine outOk_onLane fun o a => ?_
  split
  · exact outOk_ite outOk_notEnabled (memOk_settleOp (memOk_performLane h))
  · split
    · exact outOk_ite (memOk_nearLane h) outOk_notEnabled
    · split
      · split
        · exact outOk_ite ((memOk_noteSeen h).keep rfl) outOk_notEnabled
        · exact outOk_notEnabled
      · split
        · exact outOk_ite ((memOk_serveCopy h).keep rfl) outOk_notEnabled
        · exact outOk_notEnabled

/-! ### Locate faults, returns and expiries -/

theorem outOk_execLocateFault {op lane : Nat} {s : State} (h : MemOk s) :
    OutOk (execLocateFault op lane s) := by
  unfold execLocateFault
  refine outOk_onLane fun o a => ?_
  split
  · exact outOk_ite (h.keep rfl) outOk_notEnabled
  · exact outOk_notEnabled

theorem outOk_execLocateResolve {op : Nat} {s : State} (h : MemOk s) : OutOk (execLocateResolve op s) := by
  unfold execLocateResolve
  split
  · split
    · extract_lets s1
      have hs1 : MemOk s1 := by
        unfold s1
        refine memOk_foldl h fun acc a hacc => ?_
        split
        · split
          · exact memOk_ite (memOk_locateResolve hacc) hacc
          · exact hacc
        · exact hacc
      exact memOk_reissueOp hs1
    · exact outOk_notEnabled
  · exact outOk_notEnabled

theorem memOk_opBack {s : State} {op : Nat} {o : Op} {fold : Bool} (h : MemOk s) : MemOk (opBack s op o fold) := by
  unfold opBack
  extract_lets s1 s2
  have hs2 : MemOk s2 := h.keep rfl
  have hfold : MemOk (if fold then modThr s2 o.thread fun t => foldWct t o.wct else s2) := memOk_ite (hs2.keep rfl) hs2
  exact hfold.keep rfl

theorem memOk_goBack {s : State} {o : Op} {t : Thread} {st : Seat} (h : MemOk s) : MemOk (goBack s o t st) := by
  unfold goBack
  split
  · exact h.keep rfl
  · exact h

theorem memOk_opFault {s : State} {o : Op} {t : Thread} {p : Stop} (h : MemOk s) : MemOk (opFault s o t p) := by
  unfold opFault
  split
  · exact memOk_takeStop (memOk_goBack h)
  · exact h.keep rfl
  · exact h.keep rfl

theorem memOk_opReturn {s : State} {op : Nat} {o : Op} {fold : Bool} (h : MemOk s) :
    MemOk (opReturn s op o fold) := by
  unfold opReturn
  split
  · exact memOk_opBack h
  · split
    · exact memOk_ite (memOk_opBack h) (memOk_opFault h)
    · exact memOk_opBack (memOk_deliver h)

theorem outOk_execLoadReturn {op : Nat} {s : State} (h : MemOk s) : OutOk (execLoadReturn op s) := by
  unfold execLoadReturn
  split
  · exact outOk_ite (memOk_mergeAfter (memOk_opReturn (h.keep rfl))) outOk_notEnabled
  · exact outOk_notEnabled

theorem outOk_execAtomicReturn {op : Nat} {s : State} (h : MemOk s) : OutOk (execAtomicReturn op s) := by
  unfold execAtomicReturn
  split
  · exact outOk_ite (memOk_mergeAfter (memOk_opReturn h)) outOk_notEnabled
  · exact outOk_notEnabled

theorem outOk_execStoreAck {op : Nat} {s : State} (h : MemOk s) : OutOk (execStoreAck op s) := by
  unfold execStoreAck
  split
  · exact outOk_ite (memOk_opBack h) outOk_notEnabled
  · exact outOk_notEnabled

theorem outOk_execLeaseExpiry {k : Nat} {s : State} (h : MemOk s) : OutOk (execLeaseExpiry k s) := by
  unfold execLeaseExpiry
  split
  · exact outOk_ite (h.keep rfl) outOk_notEnabled
  · exact outOk_notEnabled

theorem outOk_execStreamTimeout {k : Nat} {s : State} (h : MemOk s) : OutOk (execStreamTimeout k s) := by
  unfold execStreamTimeout
  split
  · exact outOk_ite (h.keep rfl) outOk_notEnabled
  · exact outOk_notEnabled

theorem memOk_ackTlb {s : State} {t : Tlb} (h : MemOk s) : MemOk (ackTlb s t) :=
  memOk_foldl (h.keep rfl) fun _ _ hacc => memOk_settleOp hacc

theorem outOk_execTranslationInvalidation {k : Nat} {s : State} (h : MemOk s) :
    OutOk (execTranslationInvalidation k s) := by
  unfold execTranslationInvalidation
  split
  · exact outOk_ite outOk_notEnabled (outOk_ite (memOk_ackTlb (h.keep rfl)) (outOk_ite outOk_notEnabled (h.keep
        rfl)))
  · exact outOk_notEnabled

/-! ### Access instructions, maintenance and reader sets -/

theorem memOk_prefetchLine {s : State} {o : Op} {a : LaneAcc} {level : Nat} (h : MemOk s) :
    MemOk (prefetchLine s o a level) := by
  unfold prefetchLine
  extract_lets line die
  split
  · exact h
  · split
    · rename_i e1 _
      extract_lets s2 copy
      have hs2 : MemOk s2 := memOk_commitPos (MemOk.of_fst e1 (memOk_fillLine ((memOk_enterSlice h).keep rfl)))
      exact memOk_ite (memOk_putCopy (memOk_putCopy hs2)) (memOk_ite (memOk_putCopy hs2) hs2)
    · exact h

theorem memOk_prefetchLane {e : LaneEnv} {s : State} {q : Req} (hs : MemOk s) :
    MemOk (prefetchLane e s q) := by
  unfold prefetchLane
  split
  · exact memOk_prefetchLine (memOk_noteAccess hs)
  · exact hs

theorem outOk_execPrf {f : LaneFields} {s : State} (h : MemOk s) : OutOk (execPrf f s) := by
  unfold execPrf
  refine outOk_laneInstr h fun e he => ?_
  extract_lets s1
  have hs1 : MemOk s1 := memOk_foldl he fun _ _ hacc => memOk_prefetchLane hacc
  exact hs1.keep rfl

theorem outOk_execCacc {f : LaneFields} {s : State} (h : MemOk s) : OutOk (execCacc f s) := by
  unfold execCacc
  refine outOk_laneInstr h fun e he => ?_
  split
  · exact outOk_laneStop h
  · split
    · exact outOk_laneStop h
    · exact memOk_launchOp h

theorem outOk_execLea {f : LaneFields} {s : State} (h : MemOk s) : OutOk (execLea f s) := by
  unfold execLea
  refine outOk_laneInstr h fun e he => ?_
  dsimp only
  split
  · exact outOk_laneStop h
  · exact outOk_laneResult he

theorem outOk_mDest {s : State} {t : Thread} {d : SReg} {k : Thread → Out} (h : MemOk s)
    (hk : ∀ t, OutOk (k t)) : OutOk (mDest s t d k) :=
  outOk_inStrand h fun _ => outOk_ite (outOk_fault h) (hk _)

theorem outOk_itemsAccess {s : State} {t t' : Thread} {space : Space} {n : Nat} {a : AccSpec} {reqs : List Req}
    {keep : List (LaneAcc × Option (Nat × Nat)) → List (LaneAcc × Option (Nat × Nat))} (h : MemOk s) :
    OutOk (itemsAccess s t t' space n a reqs keep) :=
  outOk_scalarAccess h

theorem outOk_execSld {d a : SReg} {z : BitVec 2} {g : BitVec 1} {p : BitVec 2} {o : BitVec 9} {s : State}
    (h : MemOk s) : OutOk (execSld d a z g p o s) :=
  outOk_scalar h fun _ => outOk_ite (h.keep rfl) (outOk_ite (outOk_mDest h fun _ => outOk_itemsAccess h)
    (outOk_itemsAccess h))

theorem outOk_execSatom {d a b : SReg} {w : BitVec 1} {sc : BitVec 3} {o : BitVec 4} {s : State} (h : MemOk s) :
    OutOk (execSatom d a b w sc o s) :=
  outOk_scalar h fun _ => outOk_ite (outOk_ite (outOk_fault h) (outOk_ite (h.keep rfl) (outOk_itemsAccess h)))
    (outOk_mDest h fun _ => outOk_itemsAccess h)

theorem memOk_cleanLine {s : State} {die line : Nat} (h : MemOk s) : MemOk (cleanLine s die line) := by
  unfold cleanLine
  split
  · exact memOk_ite ((memOk_writeBack h).keep rfl) h
  · exact h

theorem memOk_discardLine {s : State} {die line : Nat} (h : MemOk s) : MemOk (discardLine s die line) := by
  unfold discardLine
  split
  · split
    · exact h.keep rfl
    · exact h
  · exact h.keep rfl

theorem memOk_cmoBacks {s : State} {kind level die line : Nat} (h : MemOk s) :
    MemOk (cmoBacks s kind level die line) := by
  unfold cmoBacks
  split
  · exact h
  · exact memOk_ite (memOk_ite (memOk_landLine h) (h.keep rfl)) (memOk_ite (memOk_landLine h) h)

theorem memOk_cmoLine {s : State} {kind level : Nat} {core : Option Nat} {die line : Nat} (h : MemOk s) :
    MemOk (cmoLine s kind level core die line) := by
  unfold cmoLine
  extract_lets +onlyGivenNames s0 s1 _ s2
  have hs0 : MemOk s0 := memOk_cmoBacks (memOk_ite (memOk_combine h) ((memOk_combine h).keep rfl))
  have hs1 : MemOk s1 := by
    unfold s1
    split
    · exact memOk_ite (memOk_ite (memOk_unpark hs0) (memOk_ite (hs0.keep rfl) hs0)) hs0
    · exact hs0
  have hs2 : MemOk s2 := memOk_ite hs1 (hs1.keep rfl)
  refine memOk_foldl hs2 fun acc d hacc => ?_
  split
  · split
    · exact hacc
    · refine memOk_ite (memOk_cleanLine hacc) (memOk_ite (memOk_ite hacc (memOk_discardLine hacc)) ?_)
      exact memOk_ite (memOk_discardLine (memOk_cleanLine hacc)) (memOk_discardLine hacc)
  · exact hacc

theorem memOk_cmoRange {kind level base last : Nat} {t : Thread} {n va : Nat} {s : State} (h : MemOk s) :
    MemOk (cmoRange kind level base last t n va s).1 := by
  induction n generalizing va s with
  | zero => exact h
  | succ n ih =>
    unfold cmoRange
    split
    · exact ih h
    · split
      · exact h
      · exact ih (memOk_cmoLine (memOk_noteAccess h))

theorem outOk_rangeOperands {s : State} {t : Thread} {a b : SReg} {wraps : Bool} {k : Nat → Nat → Out}
    (h : MemOk s) (hk : ∀ n n', OutOk (k n n')) : OutOk (rangeOperands s t a b wraps k) :=
  outOk_needU h fun _ => outOk_needU h fun _ => outOk_ite (outOk_faultWith h) (hk _ _)

theorem outOk_execCmo {a b : SReg} {l : BitVec 3} {k : BitVec 2} {s : State} (h : MemOk s) :
    OutOk (execCmo a b l k s) := by
  unfold execCmo
  refine outOk_scalarOutside h fun t => ?_
  refine outOk_rangeOperands h fun base len => ?_
  extract_lets last start r
  have hr : MemOk r.1 := memOk_ite_fst h (memOk_cmoRange h)
  split
  · exact hr.keep rfl
  · exact outOk_faultWith (hr.keep rfl)

theorem outOk_execKset {n : BitVec 3} {a : SReg} {s : State} (h : MemOk s) : OutOk (execKset n a s) := by
  unfold execKset
  refine outOk_scalar h fun t => ?_
  refine outOk_inStrand h fun st => ?_
  refine outOk_needU h fun v => ?_
  split
  · exact outOk_faultWith h
  · exact outOk_done4 h

theorem outOk_kgetWith {i : Instr} {kind : AccKind} {d a : SReg} {s : State} (h : MemOk s) :
    OutOk (kgetWith i kind d a s) :=
  outOk_scalar h fun _ => outOk_ite (outOk_scalarAccess h) (outOk_mDest h fun _ => outOk_scalarAccess h)

theorem memOk_lockRange {unit ctx : Nat} {f : State → Locket → State × Nat} {n va : Nat} {s : State}
    {moved : Nat} (hf : ∀ s k, MemOk s → MemOk (f s k).1) (h : MemOk s) :
    MemOk (lockRange unit ctx f n va s moved).1 := by
  induction n generalizing va s moved with
  | zero => exact h
  | succ n ih =>
    unfold lockRange
    split
    · exact h
    · split
      · exact ih h
      · extract_lets s1
        have hs1 : MemOk s1 := memOk_noteAccess h
        split
        · exact ih (hf _ _ hs1)
        · exact ih hs1

theorem outOk_lockInstr {s : State} {t : Thread} {kind : AccKind} {base len : Nat}
    {f : State → Locket → State × Nat} (h : MemOk s) (hf : ∀ s k, MemOk s → MemOk (f s k).1) :
    OutOk (lockInstr s t kind base len f) := by
  unfold lockInstr
  extract_lets start r t1
  have hr : MemOk r.1 := memOk_ite_fst h (memOk_lockRange hf h)
  split
  · exact hr.keep rfl
  · exact outOk_faultWith (hr.keep rfl)

theorem memOk_revise {launch core : Nat} {rsd : Word} {s : State} {k : Locket} (h : MemOk s) :
    MemOk (revise launch core rsd s k).1 := by
  unfold revise
  split
  · exact memOk_rePark h
  · exact memOk_unpark h

theorem outOk_execKrev {n : BitVec 3} {a b : SReg} {s : State} (h : MemOk s) : OutOk (execKrev n a b s) :=
  outOk_scalar h fun _ => outOk_inStrand h fun _ => outOk_rangeOperands h fun _ _ => outOk_lockInstr h fun _ _
    hk => memOk_revise hk

theorem outOk_execKdrop {a b : SReg} {s : State} (h : MemOk s) : OutOk (execKdrop a b s) :=
  outOk_scalar h fun _ => outOk_rangeOperands h fun _ _ => outOk_lockInstr h fun _ _ hk => memOk_unpark hk

/-! ### Issue of the engines' commands -/

theorem outOk_engIssue {i : Instr} {s : State} {slotBad : LaunchRec → Bool} {k : Thread → Seat → Out}
    (h : MemOk s) (hk : ∀ t st, OutOk (k t st)) : OutOk (engIssue i s slotBad k) :=
  outOk_scalar h fun _ => outOk_inStrand h fun _ => outOk_ite (outOk_fault h) (outOk_ite (memOk_startAbort h)
    (hk _ _))

theorem outOk_engOperands {s : State} {t : Thread} {rs : List SReg} {k : List Word → Out} (h : MemOk s)
    (hk : ∀ vs, OutOk (k vs)) : OutOk (engOperands s t rs k) :=
  outOk_ite (hk _) (outOk_fault h)

theorem outOk_descFault {s : State} {t : Thread} {i : Instr} {queue : Nat} (h : MemOk s) :
    OutOk (descFault s t i queue) :=
  outOk_faultWith h

theorem outOk_alignFault {s : State} {t : Thread} {va : Word} (h : MemOk s) : OutOk (alignFault s t va) :=
  outOk_faultWith h

theorem outOk_windowFault {s : State} {t : Thread} {va : Word} (h : MemOk s) : OutOk (windowFault s t va) :=
  outOk_faultWith h

theorem memOk_teamStop {s : State} {held mine : Instr} {id : Nat} (h : MemOk s) :
    MemOk (teamStop s held mine id) := by
  unfold teamStop
  split
  · exact memOk_takeStop (h.keep rfl)
  · exact h

theorem outOk_teamIssue {s : State} {t : Thread} {st : Seat} {c : Cmd} (h : MemOk s) :
    OutOk (teamIssue s t st c) := by
  unfold teamIssue
  extract_lets team size rest go
  split
  · exact outOk_ite (memOk_foldl (h.keep rfl) fun _ _ hacc => hacc.keep rfl) (h.keep rfl)
  · exact outOk_ite (outOk_ite (memOk_foldl (h.keep rfl) fun _ _ hacc => hacc.keep rfl) (h.keep rfl)) (memOk_foldl
        (memOk_teamStop (h.keep rfl)) fun _ _ hacc => memOk_teamStop hacc)

theorem outOk_teamCmd {i : Instr} {s : State} {slotBad : LaunchRec → Bool} {rs : List SReg}
    {k : Thread → Seat → List Word → Out} (h : MemOk s) (hk : ∀ t st vs, OutOk (k t st vs)) :
    OutOk (teamCmd i s slotBad rs k) :=
  outOk_engIssue h fun _ _ => outOk_ite (outOk_engOperands h fun _ => hk _ _ _) (outOk_fault h)

theorem outOk_mxChecks {i : Instr} {s : State} {t : Thread} {st : Seat} {d : BitVec 6} {f : BitVec 7}
    {vs : List Word} {list : Option Word} (h : MemOk s) : OutOk (mxChecks i s t st d f vs list) := by
  unfold mxChecks
  extract_lets +onlyGivenNames a a2 b al
  split
  · exact outOk_descFault h
  · split
    · exact outOk_alignFault h
    · split
      · exact outOk_alignFault h
      · extract_lets +onlyGivenNames nr run
        split
        · split
          · exact outOk_alignFault h
          · split
            · exact outOk_windowFault h
            · unfold run
              exact outOk_teamIssue h
        · unfold run
          exact outOk_teamIssue h

theorem outOk_execMdrain {d : BitVec 3} {a : SReg} {f : BitVec 6} {s : State} (h : MemOk s) :
    OutOk (execMdrain d a f s) :=
  outOk_teamCmd h fun _ _ _ => outOk_ite (outOk_descFault h) (outOk_ite (outOk_alignFault h) (outOk_ite
    (outOk_alignFault h) (outOk_ite (outOk_windowFault h) (outOk_ite (outOk_windowFault h) (outOk_teamIssue
    h)))))

theorem outOk_execMcommit {d : BitVec 3} {n : BitVec 1} {s : State} (h : MemOk s) :
    OutOk (execMcommit d n s) := by
  unfold execMcommit
  extract_lets i
  refine outOk_teamCmd h fun t st vs => ?_
  split
  · exact outOk_teamIssue h
  · split
    · exact outOk_teamIssue h
    · exact outOk_fault h

theorem outOk_withBar {s : State} {t : Thread} {st : Seat} {b : SReg} {k : Option (Nat × BitVec 8) → Out}
    (h : MemOk s) (hk : ∀ bar, OutOk (k bar)) : OutOk (withBar s t st b k) :=
  outOk_ite (hk _) (outOk_needU h fun _ => outOk_ite (outOk_alignFault h) (outOk_ite (outOk_windowFault h) (hk
    _)))

theorem outOk_execMfence {a : SReg} {s : State} (h : MemOk s) : OutOk (execMfence a s) :=
  outOk_engIssue h fun _ _ => outOk_withBar h fun _ => outOk_done4 (h.keep rfl)

theorem memOk_endMwait {s : State} {id : Nat} {t : Thread} {d : SReg} {upto : Nat} (h : MemOk s) :
    MemOk (endMwait s id t d upto) :=
  memOk_trapMark (h.keep rfl)

theorem outOk_execMwait {d a : SReg} {s : State} (h : MemOk s) : OutOk (execMwait d a s) :=
  outOk_engIssue h fun _ _ => outOk_needU h fun _ => outOk_ite (memOk_endMwait h) (h.keep rfl)

theorem outOk_execMwaitComplete {id : Nat} {s : State} (h : MemOk s) : OutOk (execMwaitComplete id s) := by
  unfold execMwaitComplete
  refine outOk_onThr fun t => ?_
  split
  · exact outOk_ite (memOk_endMwait h) outOk_notEnabled
  · exact outOk_notEnabled

theorem outOk_execCpy {n : BitVec 3} {a b : SReg} {f : BitVec 4} {s : State} (h : MemOk s) :
    OutOk (execCpy n a b f s) := by
  unfold execCpy
  extract_lets i
  refine outOk_engIssue h fun t st => ?_
  refine outOk_engOperands h fun vs => ?_
  split
  · exact outOk_ite (outOk_descFault h) (outOk_ite (outOk_alignFault h) (outOk_ite (outOk_windowFault h)
        (outOk_ite (outOk_windowFault h) (outOk_withBar h fun _ => outOk_done4 (h.keep rfl)))))

theorem outOk_execColl {a : SReg} {sc : BitVec 2} {ty : BitVec 3} {o : BitVec 2} {s : State} (h : MemOk s) :
    OutOk (execColl a sc ty o s) := by
  unfold execColl
  refine outOk_engIssue h fun t st => outOk_engOperands h fun vs => ?_
  refine outOk_ite (outOk_descFault h) (outOk_ite (outOk_alignFault h) (outOk_ite (outOk_alignFault h) ?_))
  exact outOk_done4 (h.keep rfl)

theorem outOk_execQfence {q : BitVec 3} {s : State} (h : MemOk s) : OutOk (execQfence q s) :=
  outOk_scalar h fun _ => outOk_inStrand h fun _ => outOk_done4 (memOk_foldl h fun _ _ hacc => hacc.keep rfl)

/-! ### What the engines read and write -/

theorem engOk_engXl {s : State} {o : EngOp} {va : Nat} {write : Bool} (h : MemOk s) :
    EngOk (engXl s o va write) := by
  unfold engXl
  split
  · exact trivial
  · split
    · exact trivial
    · split
      · exact trivial
      · exact memOk_noteAccess h

theorem memOk_engLost {s : State} {pa : Nat} (h : MemOk s) : MemOk (engLost s pa) :=
  memOk_ite (h.keep rfl) (memOk_poisonLine (h.keep rfl))

theorem engOk_engLine {s : State} {o : EngOp} {va n : Nat} (h : MemOk s) : EngOk (engLine s o va n) := by
  unfold engLine
  split
  · exact trivial
  · exact h
  · split
    · exact trivial
    · rename_i e1
      extract_lets +onlyGivenNames line die
      split
      · exact trivial
      · split
        · exact trivial
        · extract_lets +onlyGivenNames s1 away
          have hs1 : MemOk s1 := memOk_enterSlice (memOk_combine (EngOk.of_ok e1 (engOk_engXl h)))
          split
          · exact trivial
          · extract_lets +onlyGivenNames s2
            have hs2 : MemOk s2 := by
              unfold s2
              split
              · exact memOk_locateResolve hs1
              · exact hs1
            split
            · exact hs2
            · split
              · exact trivial
              · rename_i e6
                exact memOk_commitPos (MemOk.of_fst e6 (memOk_fillLine (memOk_makeWay (hs2.keep rfl))))

theorem engOk_engFetch {s : State} {o : EngOp} {ps : List (Nat × Nat)} {f : Fetched} (h : MemOk s) :
    EngOk (engFetch s o ps f) := by
  induction ps generalizing s f with
  | nil => exact h
  | cons p ps ih =>
    unfold engFetch
    split
    · exact ih h
    · split
      · exact trivial
      · rename_i e
        exact ih (EngOk.of_ok e (engOk_engLine h))

theorem engOk_engWrite {s : State} {o : EngOp} {va : Nat} {bytes : List Byte} (h : MemOk s) :
    EngOk (engWrite s o va bytes) := by
  unfold engWrite
  extract_lets +onlyGivenNames n v
  split
  · exact trivial
  · exact h.keep rfl
  · split
    · exact trivial
    · rename_i s0 _ e
      have hs0 : MemOk s0 := EngOk.of_ok e (engOk_engXl h)
      extract_lets +onlyGivenNames line off die lost
      split
      · exact trivial
      · split
        · exact memOk_engLost hs0
        · extract_lets +onlyGivenNames s1
          have hs1 : MemOk s1 := memOk_enterSlice (memOk_combine hs0)
          have hown {key ctx} : MemOk (takeOwnership (makeWay (recallExcl s1 line) die line) die line key ctx).1 :=
            memOk_takeOwnership (memOk_makeWay (hs1.keep rfl))
          split
          · exact hs1.keep rfl
          · split
            · rename_i e
              exact memOk_engLost (MemOk.of_fst e hown)
            · rename_i s2 _ e
              have hs2 : MemOk (commitPos s2 die line false true) := memOk_commitPos (MemOk.of_fst e hown)
              exact hs2.keep rfl

theorem engOk_engStk {s : State} {o : EngOp} {va : Nat} {bytes : List Byte} (h : MemOk s) :
    EngOk (engStk s o va bytes) := by
  unfold engStk
  split
  · exact engOk_engWrite h
  · split
    · exact trivial
    · rename_i e1
      extract_lets +onlyGivenNames line l plain
      split
      · exact engOk_engWrite h
      · split
        · exact trivial
        · extract_lets +onlyGivenNames force place s1
          have hs1 : MemOk s1 := memOk_foldl (memOk_combine (EngOk.of_ok e1 (engOk_engXl h))) fun _ _ hacc =>
            hacc.keep rfl
          split
          · exact engOk_engWrite (memOk_unpark hs1)
          · exact engOk_engWrite hs1
          · extract_lets +onlyGivenNames off n d' w s2
            have hs2 : MemOk s2 := by
              unfold s2
              split
              · exact memOk_putLocket (memOk_makeRoom (hs1.keep rfl))
              · exact memOk_makeLocket hs1
            exact hs2.keep rfl

theorem memOk_engWriteRun {o : EngOp} {fuel : Nat} {s : State} {va : Nat} {bytes : List Byte} {n : Nat}
    {w : Wrote} (h : MemOk s) : MemOk (engWriteRun o fuel s va bytes n w).1 := by
  induction fuel generalizing s va bytes n w with
  | zero => exact h
  | succ fuel ih =>
    unfold engWriteRun
    split
    · exact h
    · dsimp only
      split
      · exact h
      · rename_i e
        exact ih (EngOk.of_ok e (engOk_engWrite h))

theorem memOk_fetchAhead {s : State} {o : EngOp} {m : Mx} {k0 k1 : Nat} (h : MemOk s) :
    MemOk (fetchAhead s o m k0 k1).1 := by
  unfold fetchAhead
  extract_lets want n
  refine memOk_foldl_fst h fun acc p hacc => ?_
  split
  · exact hacc
  · rename_i e
    exact memOk_ite_fst (EngOk.of_ok e (engOk_engFetch hacc)) ((EngOk.of_ok e (engOk_engFetch hacc)).keep rfl)

theorem engOk_mxRun {s0 : State} {o : EngOp} {m : Mx} {k0 k1 : Nat} (h : MemOk s0) :
    EngOk (mxRun s0 o m k0 k1) := by
  unfold mxRun
  extract_lets s rows held
  have hs : MemOk s := h.keep rfl
  split
  · exact trivial
  · rename_i e
    split
    · exact trivial
    · split
      · exact trivial
      · rename_i e2
        exact EngOk.of_ok e2 (engOk_engFetch (EngOk.of_ok e (engOk_engFetch hs)))

theorem memOk_drainPut {s : State} {o : EngOp} {scr : Bool} {va bits v : Nat} (h : MemOk s) :
    MemOk (drainPut s o scr va bits v).1 := by
  unfold drainPut
  extract_lets n keep
  split
  · exact h.keep rfl
  · split
    · exact h
    · exact memOk_engWriteRun h

theorem memOk_drainRows {o : EngOp} {fmt : Nat} {scr : Bool} {slot : Slot} {base w size : Nat}
    {rows : List (Nat × Option Nat)} {s : State} {wct : Wrote} (h : MemOk s) :
    MemOk (drainRows o fmt scr slot base w size rows s wct).1 := by
  induction rows generalizing s wct with
  | nil => exact h
  | cons p rest ih =>
    obtain ⟨i, _ | row⟩ := p
    · exact ih h
    · unfold drainRows
      extract_lets width nc va lim
      split
      · exact h
      · split
        · rename_i e
          exact ih (MemOk.of_fst e (memOk_drainPut h))
        · exact h

/-! ### Engine queues: start, end, chunks and batches -/

theorem outOk_onEng {s : State} {name : String} {id : Nat} {k : EngOp → Out} (hk : ∀ o, OutOk (k o)) :
    OutOk (onEng s name id k) := by
  unfold onEng
  split
  · exact hk _
  · exact outOk_notEnabled

theorem memOk_engArrive {s : State} {wg : Nat} {bar : Nat × BitVec 8} {wrote : Tab (Tab Nat)} (h : MemOk s) :
    MemOk (engArrive s wg bar wrote).1 :=
  memOk_ite_fst (h.keep rfl) h

theorem memOk_leaveQueue {s : State} {id : Nat} {o : EngOp} (h : MemOk s) : MemOk (leaveQueue s id o) := by
  unfold leaveQueue
  extract_lets r s1
  have hr : MemOk r.1 := by
    unfold r
    split
    · exact memOk_engArrive h
    · exact h
  have hs1 : MemOk s1 := by
    unfold s1
    split
    · exact memOk_foldl hr fun _ _ hacc => hacc.keep rfl
    · exact hr
  exact hs1.keep rfl

theorem memOk_finish {s : State} {id : Nat} {o : EngOp} {e : Ending} (h : MemOk s) : MemOk (finish s id o e) := by
  unfold finish
  extract_lets o1 s0 s1
  have hs0 : MemOk s0 := memOk_ite (h.keep rfl) h
  have hdrop : MemOk (if o.queue = 0 then dropPins s0 o.core else s0) := memOk_ite (hs0.keep rfl) hs0
  have hs1 : MemOk s1 := hdrop.keep rfl
  exact memOk_ite (hs1.keep rfl) (memOk_leaveQueue hs1)

theorem engOk_collSources {c : Coll} {hs : List (Nat × Nat × EngOp)} {s : State} (h : MemOk s) :
    EngOk (collSources c hs s) := by
  induction hs generalizing s with
  | nil => exact h
  | cons p rest ih =>
    unfold collSources
    dsimp only
    split
    · exact trivial
    · rename_i e
      have h1 := ih (EngOk.of_ok e (engOk_engFetch h))
      split
      · exact trivial
      · rename_i e
        exact EngOk.of_ok e h1

theorem outOk_collStart {s : State} {c : Coll} {hs : List (Nat × Nat × EngOp)} (h : MemOk s) :
    OutOk (collStart s c hs) := by
  unfold collStart
  extract_lets all
  split
  · exact memOk_foldl h fun _ _ hacc => hacc.keep rfl
  · split
    · exact outOk_notEnabled
    · exact memOk_foldl (memOk_ite (h.keep rfl) h) fun _ _ hacc => hacc.keep rfl
    · rename_i e1
      exact memOk_foldl (EngOk.of_ok e1 (engOk_collSources h)) fun _ _ hacc => hacc.keep rfl

theorem memOk_beginOp {s : State} {id : Nat} {o : EngOp} (h : MemOk s) : MemOk (beginOp s id o) := by
  unfold beginOp
  split
  · exact (memOk_fetchAhead h).keep rfl
  · exact h.keep rfl

theorem outOk_execEngineOpStart {id : Nat} {s : State} (h : MemOk s) : OutOk (execEngineOpStart id s) := by
  unfold execEngineOpStart
  refine outOk_onEng fun o => ?_
  split
  · exact outOk_notEnabled
  · split
    · exact outOk_notEnabled
    · split
      · split
        · exact outOk_collStart h
        · exact outOk_notEnabled
      · exact memOk_beginOp h

theorem outOk_mxEnd {s : State} {id : Nat} {o : EngOp} {m : Mx} (h : MemOk s) : OutOk (mxEnd s id o m) := by
  unfold mxEnd
  split
  · exact memOk_finish (h.keep rfl)
  · split
    · exact outOk_notEnabled
    · exact memOk_finish (h.keep rfl)
    · rename_i e1
      exact memOk_finish ((EngOk.of_ok e1 (engOk_mxRun h)).keep rfl)

theorem memOk_mzeroEnd {s : State} {id : Nat} {o : EngOp} {d : Nat} {f64 : Bool} (h : MemOk s) :
    MemOk (mzeroEnd s id o d f64) :=
  memOk_finish (h.keep rfl)

theorem outOk_mdrainEnd {s : State} {id : Nat} {o : EngOp} {d : Nat} {f : BitVec 6} (h : MemOk s) :
    OutOk (mdrainEnd s id o d f) := by
  unfold mdrainEnd
  split
  · exact outOk_notEnabled
  · extract_lets f64 slot fmt w rows s0
    have hs0 : MemOk s0 := h.keep rfl
    split
    · exact memOk_finish hs0
    · split
      · exact outOk_notEnabled
      · rename_i e2
        exact memOk_finish (MemOk.of_fst e2 (memOk_drainRows hs0))
      · rename_i e2
        extract_lets s2
        have hs2 : MemOk s2 := memOk_ite ((MemOk.of_fst e2 (memOk_drainRows hs0)).keep rfl) (MemOk.of_fst e2
            (memOk_drainRows hs0))
        exact memOk_finish hs2

theorem memOk_mcommitEnd {s : State} {id : Nat} {o : EngOp} {d n : Nat} (h : MemOk s) :
    MemOk (mcommitEnd s id o d n) :=
  memOk_finish (h.keep rfl)

theorem outOk_execEngineOpComplete {id : Nat} {s : State} (h : MemOk s) :
    OutOk (execEngineOpComplete id s) := by
  unfold execEngineOpComplete
  refine outOk_onEng fun o => ?_
  split
  · exact outOk_notEnabled
  · split
    · exact outOk_ite (h.keep rfl) outOk_notEnabled
    · split
      · exact outOk_notEnabled
      · split
        · exact outOk_ite outOk_notEnabled (outOk_mxEnd h)
        · exact memOk_mzeroEnd h
        · exact outOk_mdrainEnd h
        · exact memOk_mcommitEnd h
        · exact outOk_notEnabled

theorem memOk_readRun {s : State} {o : EngOp} {scr : Bool} {n a : Nat} {acc : List Byte} (h : MemOk s) :
    MemOk (readRun s o scr n a acc).1 := by
  induction n generalizing s a acc with
  | zero => exact h
  | succ n ih =>
    unfold readRun
    split
    · exact ih h
    · split
      · exact h
      · exact h
      · rename_i e
        exact ih (EngOk.of_ok e (engOk_engLine h))

theorem memOk_copyRun {o : EngOp} {f : BitVec 4} {fuel : Nat} {c : Copied} {limit : Nat} (h : MemOk c.s) :
    MemOk (copyRun o f fuel c limit).s := by
  induction fuel generalizing c with
  | zero => exact h
  | succ fuel ih =>
    unfold copyRun
    split
    split
    · exact h
    · extract_lets r off src dst k rd wr
      have hrd : MemOk rd.1 := memOk_readRun h
      have hwr : EngOk wr := by
        unfold wr
        split
        · exact hrd.keep rfl
        · split
          · exact hrd
          · split
            · exact engOk_engStk hrd
            · exact engOk_engWrite hrd
      clear_value wr
      split
      · exact h
      · rename_i s1 w
        have h1 : MemOk s1 := hwr
        dsimp only
        split
        · exact h1
        · exact ih h1

theorem memOk_runCopy {s : State} {o : EngOp} {f : BitVec 4} {limit : Nat} (h : MemOk s) :
    MemOk (runCopy s o f limit).s :=
  memOk_copyRun h

theorem outOk_execCopyComplete {id : Nat} {s : State} (h : MemOk s) : OutOk (execCopyComplete id s) := by
  unfold execCopyComplete
  refine outOk_onEng fun o => ?_
  split
  · split
    · extract_lets +onlyGivenNames total limit
      split
      · exact outOk_notEnabled
      · extract_lets +onlyGivenNames c
        have hc : MemOk c.s := memOk_runCopy h
        split
        · exact outOk_notEnabled
        · exact memOk_finish hc
        · exact outOk_ite outOk_notEnabled (memOk_finish hc)
  · exact outOk_notEnabled

theorem memOk_collWrite {s : State} {o : EngOp} {c : Coll} {a b : Nat} (h : MemOk s) :
    MemOk (collWrite s o c a b).1 :=
  memOk_engWriteRun h

theorem outOk_execCollComplete {id : Nat} {s : State} (h : MemOk s) : OutOk (execCollComplete id s) := by
  unfold execCollComplete
  refine outOk_onEng fun o => ?_
  split
  · split
    · exact outOk_notEnabled
    · split
      · exact memOk_finish h
      · extract_lets limit
        split
        · exact outOk_notEnabled
        · rename_i e3
          exact memOk_finish (MemOk.of_fst e3 (memOk_collWrite h))
        · rename_i e3
          exact outOk_ite outOk_notEnabled (memOk_finish (MemOk.of_fst e3 (memOk_collWrite h)))
  · exact outOk_notEnabled

theorem memOk_chunkDone {s : State} {id : Nat} {o : EngOp} {done : Nat} {f : EngOp → EngOp} (h : MemOk s) :
    MemOk (chunkDone s id o done f) := by
  unfold chunkDone
  extract_lets _ o1 s1
  have hs1 : MemOk s1 := memOk_hubWriteVa h
  exact memOk_ite (hs1.keep rfl) (memOk_beginOp hs1)

theorem outOk_execChunkEnd {id : Nat} {s : State} (h : MemOk s) : OutOk (execChunkEnd id s) := by
  unfold execChunkEnd
  refine outOk_onEng fun o => ?_
  split
  · exact outOk_notEnabled
  · split
    · extract_lets k1
      split
      · exact outOk_notEnabled
      · split
        · exact outOk_notEnabled
        · rename_i e3
          exact memOk_chunkDone (EngOk.of_ok e3 (engOk_mxRun h))
    · split
      · exact outOk_ite outOk_notEnabled (outOk_ite outOk_notEnabled (memOk_chunkDone (memOk_runCopy h)))
    · split
      · exact outOk_notEnabled
      · split
        · rename_i e5
          exact memOk_chunkDone (MemOk.of_fst e5 (memOk_collWrite h))
        · exact outOk_notEnabled
    · exact outOk_notEnabled

theorem outOk_execBatchComplete {id num : Nat} {s : State} (h : MemOk s) :
    OutOk (execBatchComplete id num s) := by
  unfold execBatchComplete
  extract_lets +onlyGivenNames ready
  split
  · split
    · exact outOk_notEnabled
    · extract_lets +onlyGivenNames upd
      split
      · split
        · rename_i e3
          exact (MemOk.of_fst e3 (memOk_engArrive h)).keep rfl
        · rename_i e3
          exact (MemOk.of_fst e3 (memOk_engArrive h)).keep rfl
      · exact h.keep rfl
  · exact outOk_notEnabled

/-! ### Regions -/

theorem outOk_rbegWith {i : Instr} {strict : Bool} {o : BitVec 18} {s : State} (h : MemOk s) :
    OutOk (rbegWith i strict o s) :=
  outOk_scalarOutside h fun _ => outOk_inStrand h fun _ => outOk_ite (h.keep rfl) (h.keep rfl)

theorem outOk_execRbegOpen {id : Nat} {s : State} (h : MemOk s) : OutOk (execRbegOpen id s) := by
  unfold execRbegOpen
  refine outOk_onThr fun t => ?_
  split
  · exact outOk_ite (h.keep rfl) outOk_notEnabled
  · exact outOk_notEnabled

theorem memOk_moveBounds {s : State} {rg lo hi : Nat} (h : MemOk s) : MemOk (moveBounds s rg lo hi) := by
  unfold moveBounds
  split
  · exact h
  · exact memOk_ite h (memOk_ite (memOk_startAbort (h.keep rfl)) (h.keep rfl))

theorem outOk_inLive {i : Instr} {s : State} {k : Thread → Seat → Region → Out} (h : MemOk s)
    (hk : ∀ t st r, OutOk (k t st r)) : OutOk (inLive i s k) := by
  unfold inLive
  refine outOk_scalar h fun t => ?_
  split
  · exact outOk_fault h
  · split
    · exact outOk_ite (outOk_fault h) (hk _ _ _)
    · exact outOk_fault h

theorem outOk_rnarRead {i : Instr} {d : SReg} {live : Region → Nat} {past : Seat → Word} {s : State}
    (h : MemOk s) : OutOk (rnarRead i d live past s) := by
  unfold rnarRead
  refine outOk_scalar h fun t => ?_
  split
  · exact outOk_done4 h
  · split
    · exact outOk_done4 h
    · exact outOk_done4 h

theorem outOk_execRnarNarrow {a b : SReg} {s : State} (h : MemOk s) : OutOk (execRnarNarrow a b s) :=
  outOk_inLive h fun _ _ _ => outOk_needU h fun _ => outOk_needU h fun _ => memOk_moveBounds (h.keep rfl)

theorem memOk_raiseX {b : Bnd} {rg die line v : Nat} (h : MemOk b.s) : MemOk (raiseX b rg die line v).s := by
  unfold raiseX
  split
  · exact h.keep rfl
  · exact h

theorem memOk_lowerX {b : Bnd} {rg die line v : Nat} (h : MemOk b.s) : MemOk (lowerX b rg die line v).s := by
  unfold lowerX
  split
  · exact h.keep rfl
  · exact h

theorem memOk_beforeX {b : Bnd} {rg die line : Nat} {a : Tag} (h : MemOk b.s) :
    MemOk (beforeX b rg die line a).s :=
  memOk_raiseX (memOk_sendBound h)

theorem memOk_afterX {b : Bnd} {rg die line : Nat} {w : Tag} (h : MemOk b.s) :
    MemOk (afterX b rg die line w).s :=
  memOk_sendBound (memOk_lowerX h)

theorem memOk_carried {s : State} {r : Region} {rg die line : Nat} (h : MemOk s) :
    MemOk (carried s r rg die line).s :=
  h

theorem memOk_readPart {b : Bnd} {rg die line : Nat} (h : MemOk b.s) : MemOk (readPart b rg die line).s := by
  unfold readPart
  extract_lets b1
  have hb1 : MemOk b1.s := memOk_raiseX h
  split
  · exact memOk_afterX hb1
  · exact hb1

theorem memOk_writePart {b : Bnd} {rg die line : Nat} (h : MemOk b.s) : MemOk (writePart b rg die line).s := by
  unfold writePart
  extract_lets l b1 b2
  have hb2 : MemOk b2.s := memOk_foldl_bnd (memOk_raiseX h) fun _ _ hacc => memOk_beforeX hacc
  split
  · exact memOk_beforeX hb2
  · exact hb2

theorem optOk_tagX {b : Bnd} {rg die line : Nat} {reads writes : Bool} (h : MemOk b.s) :
    OptOk (tagX b rg die line reads writes) :=
  optOk_ite trivial (h.keep rfl)

theorem memOk_tentLane {s : State} {op : Nat} {o : Op} {a : LaneAcc} {d : LineData} (h : MemOk s) :
    MemOk (tentLane s op o a d) := by
  unfold tentLane
  extract_lets line off mine m s1 s2
  have hs1 : MemOk s1 := memOk_ite (memOk_noteSeen h) h
  have hs2 : MemOk s2 := by
    unfold s2
    split
    · exact hs1.keep rfl
    · exact hs1
  exact hs2.keep rfl

theorem memOk_beforeHeld {s : State} {die line rg : Nat} (h : MemOk s) : MemOk (beforeHeld s die line rg) :=
  memOk_foldl h fun _ _ hacc => (memOk_sendBound hacc).keep rfl

theorem memOk_regionLane {s : State} {op : Nat} {o : Op} {a : LaneAcc} {r : Region} (h : MemOk s) :
    MemOk (regionLane s op o a r) := by
  unfold regionLane
  extract_lets line s0
  have hs0 : MemOk s0 := (memOk_enterSlice (memOk_combine (memOk_unpark h))).keep rfl
  refine memOk_ite (memOk_lanePoison h) (memOk_ite (memOk_lanePoison h) (memOk_ite (memOk_startAbort hs0) ?_))
  have hfill := memOk_ite_fst (c := roLine s line = true) (memOk_fillLine (die := o.die) (line := line) (key :=
      a.key) (ctx := o.ctx) hs0)
    (memOk_takeOwnership (die := o.die) (line := line) (key := a.key) (ctx := o.ctx) hs0)
  split
  · rename_i e
    exact memOk_lanePoison (MemOk.of_fst e hfill)
  · rename_i s1 d e
    have hs1 : MemOk s1 := MemOk.of_fst e hfill
    extract_lets b0 b1 ahead b2 l known
    have hb1 : MemOk b1.s := by
      unfold b1
      split
      · exact memOk_readPart hs1
      · exact hs1
    have hb2 : MemOk b2.s := by
      unfold b2
      split
      · exact memOk_writePart hb1
      · exact hb1
    clear_value b2 ahead
    split
    · exact memOk_startAbort hb2
    · rename_i s2 e2
      have hs2 : MemOk s2 := OptOk.of_some e2 (optOk_tagX hb2)
      extract_lets s3
      have hs3 : MemOk s3 := memOk_ite hs2 (memOk_beforeHeld hs2)
      split
      · exact hs3.keep rfl
      · exact memOk_tentLane hs3

theorem memOk_releaseHeld {s : State} {rg die line : Nat} (h : MemOk s) :
    MemOk (releaseHeld s rg die line) := by
  unfold releaseHeld
  refine memOk_foldl h fun acc h1 hacc => ?_
  split
  · split
    · exact memOk_ite (memOk_regionLane hacc) hacc
    · exact hacc
  · exact hacc

theorem outOk_execRegionSliceAccess {op lane : Nat} {s : State} (h : MemOk s) :
    OutOk (execRegionSliceAccess op lane s) := by
  unfold execRegionSliceAccess
  refine outOk_onLane fun o a => ?_
  split
  · exact outOk_ite (memOk_regionLane h) outOk_notEnabled
  · exact outOk_notEnabled

theorem outOk_execCrossDieRegionHold {op lane : Nat} {s : State} (h : MemOk s) :
    OutOk (execCrossDieRegionHold op lane s) := by
  unfold execCrossDieRegionHold
  refine outOk_onLane fun o a => ?_
  extract_lets +onlyGivenNames line
  split
  · split
    · split
      · exact h.keep rfl
      · extract_lets +onlyGivenNames p l s1
        have hs1 : MemOk s1 := memOk_foldl h fun _ _ hacc => memOk_sendBound hacc
        exact hs1.keep rfl
    · exact outOk_notEnabled
  · exact outOk_notEnabled

theorem memOk_releaseCross {s : State} {rg : Nat} {final : Option Nat} {die line : Nat} (h : MemOk s) :
    MemOk (releaseCross s rg final die line) := by
  unfold releaseCross
  extract_lets held s1
  have hs1 : MemOk s1 := by
    unfold s1
    split
    · exact memOk_foldl h fun _ _ hacc => hacc.keep rfl
    · exact h
  exact hs1.keep rfl

theorem outOk_msgArrives {k : Nat} {raise : Bool} {name : String} {s : State} (h : MemOk s) :
    OutOk (msgArrives k raise name s) := by
  unfold msgArrives
  split
  · exact outOk_ite (memOk_ite (memOk_moveBounds (h.keep rfl)) (memOk_moveBounds (h.keep rfl))) outOk_notEnabled
  · exact outOk_notEnabled

theorem outOk_execRegionFreeze {rg line : Nat} {s : State} (h : MemOk s) :
    OutOk (execRegionFreeze rg line s) := by
  unfold execRegionFreeze
  split
  · split
    · split
      · exact outOk_ite outOk_notEnabled (h.keep rfl)
      · exact outOk_notEnabled
    · exact outOk_notEnabled
  · exact outOk_notEnabled

theorem outOk_execRegionFreezeDone {rg : Nat} {s : State} (h : MemOk s) :
    OutOk (execRegionFreezeDone rg s) := by
  unfold execRegionFreezeDone
  split
  · split
    · exact outOk_ite outOk_notEnabled (h.keep rfl)
    · exact outOk_notEnabled
  · exact outOk_notEnabled

theorem memOk_finalLine {s : State} {rg : Nat} {r : Region} {die line : Nat} (h : MemOk s) :
    MemOk (finalLine s rg r die line) := by
  unfold finalLine
  extract_lets bytes l wrote read core w _ s1 _ s2 _ s3 note s4 s5
  have hs3 : MemOk s3 := h.keep rfl
  have hs4 : MemOk s4 := memOk_foldl hs3 fun _ _ hacc => memOk_noteSeen (hacc.keep rfl)
  have hs5 : MemOk s5 := memOk_releaseHeld (memOk_releaseCross (memOk_ite hs4 (hs4.keep rfl)))
  exact hs5.keep rfl

theorem outOk_execRegionFinalPosition {rg line : Nat} {s : State} (h : MemOk s) :
    OutOk (execRegionFinalPosition rg line s) := by
  unfold execRegionFinalPosition
  split
  · split
    · split
      · exact (memOk_finalLine h).keep rfl
      · exact outOk_notEnabled
    · exact outOk_notEnabled
  · exact outOk_notEnabled

theorem outOk_execRegionCommitDone {rg : Nat} {s : State} (h : MemOk s) :
    OutOk (execRegionCommitDone rg s) := by
  unfold execRegionCommitDone
  split
  · split
    · exact h.keep rfl
    · exact outOk_notEnabled
  · exact outOk_notEnabled

theorem outOk_execRegionAbortMessage {rg line : Nat} {s : State} (h : MemOk s) :
    OutOk (execRegionAbortMessage rg line s) := by
  unfold execRegionAbortMessage
  split
  · split
    · split
      · extract_lets _ s1 s2
        have hs1 : MemOk s1 := h.keep rfl
        have hs2 : MemOk s2 := memOk_releaseHeld (memOk_releaseCross (hs1.keep rfl))
        exact hs2.keep rfl
      · exact outOk_notEnabled
    · exact outOk_notEnabled
  · exact outOk_notEnabled

theorem outOk_execRegionAbortDone {rg : Nat} {s : State} (h : MemOk s) : OutOk (execRegionAbortDone rg s) := by
  unfold execRegionAbortDone
  split
  · split
    · extract_lets s1
      have hs1 : MemOk s1 := h.keep rfl
      split
      · exact outOk_notEnabled
      · show MemOk _
        split
        · exact memOk_haltThr hs1
        · exact hs1
    · exact outOk_notEnabled
  · exact outOk_notEnabled

theorem outOk_needBacked {s : State} {pa : Nat} {k : Out} (hk : OutOk k) : OutOk (needBacked s pa k) :=
  outOk_ite hk trivial

/-! ### Placement and seating -/

theorem memOk_qError {s : State} {c q code : Nat} (h : MemOk s) : MemOk (qError s c q code) := memOk_hubWrite h

theorem memOk_applyCarve {s : State} {core carve : Nat} (h : MemOk s) : MemOk (applyCarve s core carve) := by
  unfold applyCarve
  extract_lets +onlyGivenNames d
  split
  · exact h
  · extract_lets +onlyGivenNames s1
    have hs1 : MemOk s1 := memOk_clearL1Parked h
    exact hs1.keep rfl

theorem memOk_seatStrand {s : State} {span : Nat} {t : Thread} {pend : Option Stop} {wg core : Nat}
    {p : (Nat × W32) × Nat} (h : MemOk s) : MemOk (seatStrand s span t pend wg core p) := by
  unfold seatStrand
  extract_lets id am t1 mine _ s1
  have hs1 : MemOk s1 := memOk_foldl (h.keep rfl) fun _ _ hacc => hacc.keep rfl
  split
  · exact memOk_haltThr hs1
  · exact hs1

theorem memOk_tileSeated {s : State} {id tile : Nat} (h : MemOk s) : MemOk (tileSeated s id tile) := by
  unfold tileSeated
  split
  · split
    · split
      · exact h.keep rfl
      · exact h.keep rfl
    · exact h
  · exact h

theorem memOk_seatTile {s : State} {id : Nat} {t : Thread} {pend : Option Stop} {tile core : Nat}
    {ms : List (Nat × W32)} (h : MemOk s) : MemOk (seatTile s id t pend tile core ms) := by
  unfold seatTile
  extract_lets l s1 r s2
  have hs1 : MemOk s1 := memOk_applyCarve (h.keep rfl)
  have hr : MemOk r.1 := by
    unfold r
    split
    · exact h
    · exact hs1.keep rfl
  have hs2 : MemOk s2 := memOk_foldl hr fun _ _ hacc => memOk_seatStrand hacc
  exact (memOk_tileSeated hs2).keep rfl

theorem outOk_execTileSeat {id tile : Nat} {s : State} (h : MemOk s) : OutOk (execTileSeat id tile s) := by
  unfold execTileSeat
  refine outOk_onThr fun t => ?_
  split
  · split
    · dsimp only
      split
      · exact outOk_notEnabled
      · split
        · exact outOk_ite outOk_notEnabled (memOk_seatTile h)
        · exact outOk_notEnabled
    · exact outOk_notEnabled
  · exact outOk_notEnabled

theorem outOk_execPlacementTimeout {id tile : Nat} {s : State} (h : MemOk s) :
    OutOk (execPlacementTimeout id tile s) := by
  unfold execPlacementTimeout
  refine outOk_onThr fun t => ?_
  split
  · exact outOk_ite (h.keep rfl) outOk_notEnabled
  · exact outOk_notEnabled

theorem outOk_execWorkgroupEnd {wg : Nat} {s : State} (h : MemOk s) : OutOk (execWorkgroupEnd wg s) := by
  unfold execWorkgroupEnd
  split
  · exact outOk_ite (h.keep rfl) outOk_notEnabled
  · exact outOk_notEnabled

theorem outOk_execStrandSlotFree {id : Nat} {s : State} (h : MemOk s) : OutOk (execStrandSlotFree id s) := by
  unfold execStrandSlotFree
  refine outOk_onThr fun t => ?_
  split
  · exact outOk_ite (h.keep rfl) outOk_notEnabled
  · exact outOk_notEnabled

/-! ### Fetching and the swaps -/

theorem memOk_noteFetch {s : State} {t : Thread} {va n : Nat} (h : MemOk s) : MemOk (noteFetch s t va n) :=
  memOk_noteAccess (memOk_noteAccess h)

theorem outOk_execStallSwap {id : Nat} {s : State} (h : MemOk s) : OutOk (execStallSwap id s) := by
  unfold execStallSwap
  refine outOk_onThr fun t => ?_
  split
  · split
    · exact outOk_ite (h.keep rfl) outOk_notEnabled
    · exact outOk_notEnabled
  · exact outOk_notEnabled

theorem outOk_execAgingSwap {core part : Nat} {s : State} (h : MemOk s) :
    OutOk (execAgingSwap core part s) := by
  unfold execAgingSwap
  split
  · exact outOk_ite (h.keep rfl) outOk_notEnabled
  · exact outOk_notEnabled

/-! ### Launches and the queues -/

theorem memOk_hubAcquire {s : State} {c va n : Nat} (h : MemOk s) : MemOk (hubAcquire s c va n) :=
  memOk_foldl (memOk_hubTouch h) fun _ _ hacc => memOk_commitRead (memOk_hubReady hacc)

theorem memOk_acquireTables {s : State} {c : Nat} {r : LaunchRec} (h : MemOk s) : MemOk (acquireTables s c r) :=
  memOk_hubAcquire (memOk_hubAcquire h)

theorem memOk_trimQuota {c n : Nat} {s : State} (h : MemOk s) : MemOk (trimQuota c n s) := by
  induction n generalizing s with
  | zero => exact h
  | succ n ih =>
    unfold trimQuota
    split
    · exact ih (memOk_parkedHome h)
    · exact h

theorem memOk_applyDesc {s : State} {c : Nat} (h : MemOk s) : MemOk (applyDesc s c) := by
  unfold applyDesc
  split
  · exact memOk_trimQuota (h.keep rfl)
  · exact h

theorem memOk_startLaunch {s : State} {c la : Nat} (h : MemOk s) : MemOk (startLaunch s c la) := by
  unfold startLaunch
  extract_lets s0 r s1 s2 s3 v
  have hs0 : MemOk s0 := memOk_applyDesc h
  have hs1 : MemOk s1 := hs0.keep rfl
  have hs2 : MemOk s2 := memOk_hubWriteVa hs1
  have hs3 : MemOk s3 := hs2.keep rfl
  have hv : MemOk v := hs3.keep rfl
  exact hv.keep rfl

theorem memOk_takeHead {s : State} {c q : Nat} (h : MemOk s) : MemOk (takeHead s c q) := by
  unfold takeHead
  extract_lets s1 s2
  have hs1 : MemOk s1 := h.keep rfl
  have hs2 : MemOk s2 := memOk_hubWrite hs1
  exact memOk_ite hs2 (hs2.keep rfl)

theorem outOk_onHead {s : State} {name : String} {c q kind : Nat} {k : Out} (h : MemOk s) (hk : OutOk k) :
    OutOk (onHead s name c q kind k) :=
  outOk_ite outOk_notEnabled (outOk_needBacked (outOk_needBacked (outOk_ite outOk_notEnabled (outOk_ite
    (memOk_qError h) hk))))

theorem memOk_takeEntry {s : State} {c q launch : Nat} {ready : Bool} {wct : Nat} (h : MemOk s) :
    MemOk (takeEntry s c q launch ready wct) := by
  unfold takeEntry
  extract_lets s1
  have hs1 : MemOk s1 := memOk_commitRead (memOk_commitRead h)
  exact memOk_takeHead (hs1.keep rfl)

theorem memOk_writeCompl {s : State} {c la : Nat} {compl : Word} {status cause check items records : Nat}
    (h : MemOk s) : MemOk (writeCompl s c la compl status cause check items records) :=
  memOk_ite h (memOk_ite (memOk_hubWriteVa h) (h.keep rfl))

theorem outOk_execLaunchEntry {ctx q : Nat} {s : State} (h : MemOk s) : OutOk (execLaunchEntry ctx q s) := by
  unfold execLaunchEntry
  extract_lets kind
  split
  · exact outOk_onHead h (memOk_qError h)
  · refine outOk_onHead h ?_
    split
    · exact memOk_startLaunch (memOk_takeEntry h)
    · extract_lets s1 n compl
      have hs1 : MemOk s1 := memOk_acquireTables (memOk_hubAcquire h)
      exact outOk_ite (memOk_writeCompl (memOk_takeEntry hs1)) (memOk_startLaunch (memOk_takeEntry (hs1.keep
          rfl)))
    · exact memOk_qError h

theorem memOk_entryRange {s : State} {c q : Nat} {f : State → Locket → State × Nat} (h : MemOk s)
    (hf : ∀ s k, MemOk s → MemOk (f s k).1) : MemOk (entryRange s c q f).1 :=
  memOk_ite_fst h (memOk_lockRange hf h)

theorem outOk_execKrevEntry {ctx q : Nat} {s : State} (h : MemOk s) : OutOk (execKrevEntry ctx q s) :=
  outOk_onHead h (outOk_ite (memOk_qError h) (outOk_ite (memOk_qError (memOk_entryRange h fun _ _ hk =>
    memOk_revise hk)) (memOk_takeEntry (memOk_entryRange h fun _ _ hk => memOk_revise hk))))

theorem outOk_execKdropEntry {ctx q : Nat} {s : State} (h : MemOk s) : OutOk (execKdropEntry ctx q s) :=
  outOk_onHead h (outOk_ite (memOk_qError (memOk_entryRange h fun _ _ hk => memOk_unpark hk)) (memOk_takeEntry
    (memOk_entryRange h fun _ _ hk => memOk_unpark hk)))

theorem outOk_execWaitEntry {ctx q : Nat} {s : State} (h : MemOk s) : OutOk (execWaitEntry ctx q s) := by
  unfold execWaitEntry
  refine outOk_onHead h ?_
  split
  · exact memOk_takeEntry (memOk_hubAcquire h)
  · exact memOk_qError h

theorem outOk_execQueueEntryComplete {entry : Nat} {s : State} (h : MemOk s) :
    OutOk (execQueueEntryComplete entry s) := by
  unfold execQueueEntryComplete
  split
  · exact outOk_ite outOk_notEnabled (outOk_ite (h.keep rfl) (outOk_ite (memOk_hubWriteVa (h.keep rfl))
        (memOk_qError (h.keep rfl))))
  · exact outOk_notEnabled

theorem memOk_submit {s : State} {c q : Nat} {rec : Word} (h : MemOk s) : MemOk (submit s c q rec).1 := by
  unfold submit
  split
  · exact h
  · split
    · exact h
    · split
      · exact h
      · extract_lets +onlyGivenNames s0 b sr
        have hs0 : MemOk s0 := memOk_hubAcquire h
        have hsr : MemOk sr := memOk_acquireTables hs0
        split
        · exact hsr
        · extract_lets +onlyGivenNames i s1 s2 s3
          have hs1 : MemOk s1 := hsr.keep rfl
          have hs2 : MemOk s2 := memOk_hubWriteWords hs1
          have hs3 : MemOk s3 := memOk_hubWrite hs2
          exact hs3.keep rfl

theorem outOk_execDlaunchStatus {th : Nat} {s : State} (h : MemOk s) : OutOk (execDlaunchStatus th s) := by
  unfold execDlaunchStatus
  refine outOk_onThr fun t => ?_
  split
  · exact outOk_ite (outOk_needBacked ((memOk_submit h).keep rfl)) outOk_notEnabled
  · exact outOk_notEnabled

theorem memOk_homeParked {s : State} {c : Nat} (h : MemOk s) : MemOk (homeParked s c) :=
  memOk_foldl h fun _ _ hacc => memOk_parkedHome hacc

theorem memOk_settleReset {s : State} {c : Nat} (h : MemOk s) : MemOk (settleReset s c) :=
  memOk_ite (h.keep rfl) h

theorem outOk_execLaunchComplete {la : Nat} {s : State} (h : MemOk s) : OutOk (execLaunchComplete la s) := by
  unfold execLaunchComplete
  split
  · extract_lets +onlyGivenNames items
    split
    · exact outOk_notEnabled
    · extract_lets +onlyGivenNames s1 s2 s3
      have hs1 : MemOk s1 := memOk_writeCompl h
      have hs2 : MemOk s2 := hs1.keep rfl
      have hs3 : MemOk s3 := hs2.keep rfl
      exact outOk_ite hs3 (memOk_settleReset (memOk_homeParked (hs3.keep rfl)))
  · exact outOk_notEnabled

/-! ### Fault records and the end of a context -/

theorem memOk_hubWriteBytes {s : State} {pa : Nat} {bs : List Byte} (h : MemOk s) :
    MemOk (hubWriteBytes s pa bs) := by
  induction bs generalizing s pa with
  | nil => exact h
  | cons b bs ih =>
    unfold hubWriteBytes
    exact ih (memOk_hubWrite h)

theorem outOk_onCtx {s : State} {name : String} {c : Nat} {k : Ctx → Out} (hk : ∀ x, OutOk (k x)) :
    OutOk (onCtx s name c k) := by
  unfold onCtx
  split
  · exact hk _
  · exact outOk_notEnabled

theorem memOk_withFcb {s : State} {c : Nat} (h : MemOk s) : MemOk (withFcb s c) := memOk_ite h (h.keep rfl)

theorem memOk_recordWritten {s : State} {r : Rec} (h : MemOk s) : MemOk (recordWritten s r) := by
  unfold recordWritten
  split
  · split
    · exact memOk_ite (memOk_leaveQueue h) h
    · exact h
  · exact h

theorem outOk_execFaultRecordWrite {ctx : Nat} {s : State} (h : MemOk s) :
    OutOk (execFaultRecordWrite ctx s) := by
  unfold execFaultRecordWrite
  refine outOk_onCtx fun c => ?_
  split
  · extract_lets +onlyGivenNames f n pa
    split
    · exact outOk_notEnabled
    · refine outOk_needBacked ?_
      extract_lets +onlyGivenNames s1
      have hs1 : MemOk s1 := (memOk_hubWriteWords h).keep rfl
      exact memOk_recordWritten (hs1.keep rfl)
  · exact outOk_notEnabled

theorem outOk_execFqhead {ctx : Nat} {v : BitVec 64} {s : State} (h : MemOk s) : OutOk (execFqhead ctx v s) :=
  outOk_onCtx fun _ => (memOk_withFcb h).keep rfl

theorem memOk_abortRegions {s : State} {c cause : Nat} {keep : Region → Bool} (h : MemOk s) :
    MemOk (abortRegions s c cause keep) :=
  memOk_foldl h fun _ _ hacc => memOk_ite (memOk_startAbort hacc) hacc

theorem memOk_endThreads {s : State} {c status cause : Nat} (h : MemOk s) :
    MemOk (endThreads s c status cause) := by
  unfold endThreads
  extract_lets s1 s2
  have hs1 : MemOk s1 := memOk_abortRegions h
  have hs2 : MemOk s2 := hs1.keep rfl
  exact (memOk_homeParked hs2).keep rfl

theorem memOk_forceReset {s : State} {c : Nat} (h : MemOk s) : MemOk (forceReset s c) := by
  unfold forceReset
  extract_lets s1 s2 s3
  have hs2 : MemOk s2 := h.keep rfl
  have hs3 : MemOk s3 := memOk_endThreads hs2
  exact memOk_settleReset (hs3.keep rfl)

theorem memOk_endContext {s : State} {c cause : Nat} (h : MemOk s) : MemOk (endContext s c cause) := by
  unfold endContext
  extract_lets s1 s2
  have hs1 : MemOk s1 := memOk_endThreads h
  have hs2 : MemOk s2 := hs1.keep rfl
  exact hs2.keep rfl

theorem memOk_replayOp {s : State} {id : Nat} {p : Stop} (h : MemOk s) : MemOk (replayOp s id p) :=
  memOk_foldl h fun _ _ hacc => memOk_reissueOp hacc

theorem memOk_replayStrand {s : State} {id : Nat} {p : Stop} (h : MemOk s) : MemOk (replayStrand s id p) :=
  memOk_replayOp (h.keep rfl)

theorem outOk_resume {name : String} {action ctx : Nat} {v : BitVec 64} {s0 : State}
    {k : State → Nat → Thread → Stop → Out} (h : MemOk s0) (hk : ∀ s n t p, MemOk s → OutOk (k s n t p)) :
    OutOk (resume name action ctx v s0 k) := by
  unfold resume
  extract_lets +onlyGivenNames s
  have hs : MemOk s := memOk_withFcb h
  refine outOk_onCtx fun x => ?_
  extract_lets +onlyGivenNames w
  split
  · exact hs.keep rfl
  · split
    · exact outOk_notEnabled
    · split
      · exact hk _ _ _ _ hs
      · exact hs.keep rfl

theorem outOk_execResumeReplay {ctx : Nat} {v : BitVec 64} {s : State} (h : MemOk s) :
    OutOk (execResumeReplay ctx v s) :=
  outOk_resume h fun _ _ _ _ hp => outOk_ite (memOk_replayStrand hp) (hp.keep rfl)

theorem outOk_execResumeContinue {ctx : Nat} {v : BitVec 64} {s : State} (h : MemOk s) :
    OutOk (execResumeContinue ctx v s) :=
  outOk_resume h fun _ _ _ _ hp => outOk_ite (hp.keep rfl) (hp.keep rfl)

theorem outOk_execResumeEnd {ctx : Nat} {v : BitVec 64} {s : State} (h : MemOk s) :
    OutOk (execResumeEnd ctx v s) :=
  outOk_resume h fun _ _ _ _ hp => memOk_endContext hp

theorem outOk_execHangDetected {ctx : Nat} {s : State} (h : MemOk s) : OutOk (execHangDetected ctx s) := by
  unfold execHangDetected
  refine outOk_onCtx fun c => ?_
  extract_lets +onlyGivenNames thr
  split
  · exact outOk_notEnabled
  · extract_lets +onlyGivenNames es out host n write words s1
    have hwrite : MemOk write := memOk_ite h (memOk_hubWriteWords h)
    have hs1 : MemOk s1 := hwrite.keep rfl
    exact outOk_ite outOk_notEnabled (outOk_ite trivial (memOk_ite hs1 (memOk_endContext hs1)))

/-! ### Preemption: the ladder, images and resumption -/

theorem outOk_execPreqDrain {ctx : Nat} {s0 : State} (h : MemOk s0) : OutOk (execPreqDrain ctx s0) := by
  unfold execPreqDrain
  extract_lets s
  have hs : MemOk s := memOk_withFcb h
  exact outOk_onCtx fun _ => outOk_ite (hs.keep rfl) hs

theorem memOk_freezeCtx {s : State} {c : Nat} (h : MemOk s) : MemOk (freezeCtx s c) := by
  unfold freezeCtx
  extract_lets s1
  have hs1 : MemOk s1 := memOk_abortRegions h
  exact hs1.keep rfl

theorem outOk_execPreqFreeze {ctx : Nat} {s0 : State} (h : MemOk s0) : OutOk (execPreqFreeze ctx s0) := by
  unfold execPreqFreeze
  extract_lets s
  have hs : MemOk s := memOk_withFcb h
  exact outOk_onCtx fun _ => outOk_ite (memOk_freezeCtx hs) hs

theorem outOk_execPreqReset {ctx : Nat} {s0 : State} (h : MemOk s0) : OutOk (execPreqReset ctx s0) := by
  unfold execPreqReset
  extract_lets s
  have hs : MemOk s := memOk_withFcb h
  exact outOk_onCtx fun _ => outOk_ite (memOk_forceReset hs) hs

theorem outOk_execDrainDeadline {ctx : Nat} {s : State} (h : MemOk s) : OutOk (execDrainDeadline ctx s) :=
  outOk_onCtx fun _ => outOk_ite outOk_notEnabled (outOk_ite (outOk_ite (h.keep rfl) outOk_notEnabled)
    (memOk_freezeCtx h))

theorem outOk_execResetDeadline {ctx : Nat} {s : State} (h : MemOk s) : OutOk (execResetDeadline ctx s) :=
  outOk_onCtx fun _ => outOk_ite outOk_notEnabled (outOk_ite (outOk_ite (h.keep rfl) outOk_notEnabled)
    (memOk_forceReset h))

theorem memOk_restoreStrands {l : List (Nat × Thread × Seat)} {b : List Byte} {s : State} (h : MemOk s) :
    MemOk (restoreStrands l b s).1 := by
  induction l generalizing b s with
  | nil => exact h
  | cons p rest ih =>
    unfold restoreStrands
    exact ih (h.keep rfl)

theorem memOk_restoreWgs {l : List (Nat × Wg)} {b : List Byte} {s : State} (h : MemOk s) :
    MemOk (restoreWgs l b s) := by
  induction l generalizing b s with
  | nil => exact h
  | cons p rest ih =>
    unfold restoreWgs
    refine ih (memOk_foldl (h.keep rfl) fun acc q hacc => ?_)
    split
    · exact hacc.keep rfl
    · exact hacc

theorem memOk_restoreImages {s : State} {c : Nat} (h : MemOk s) : MemOk (restoreImages s c) :=
  memOk_restoreWgs (memOk_restoreStrands h)

theorem optOk_runOut {s : State} {id : Nat} {o : EngOp} (h : MemOk s) : OptOk (runOut s id o) := by
  unfold runOut
  extract_lets free
  split
  · exact h
  · split
    · extract_lets k1
      split
      · exact memOk_chunkDone h
      · split
        · exact trivial
        · exact memOk_finish (h.keep rfl)
        · rename_i e3
          exact memOk_chunkDone (EngOk.of_ok e3 (engOk_mxRun h))
    · split
      · extract_lets c
        have hc : MemOk c.s := memOk_runCopy h
        split
        · exact memOk_finish hc
        · exact memOk_chunkDone hc
    · split
      · exact h
      · split
        · rename_i e5
          exact memOk_finish (MemOk.of_fst e5 (memOk_collWrite h))
        · rename_i e6
          exact memOk_chunkDone (MemOk.of_fst e6 (memOk_collWrite h))
    · exact memOk_chunkDone h

theorem optOk_runOutAll {s : State} {c core : Nat} (h : MemOk s) : OptOk (runOutAll s c core) := by
  refine List.foldlRecOn _ _ (motive := OptOk) h fun acc hacc o _ => ?_
  cases acc with
  | none => exact trivial
  | some s1 => exact optOk_runOut hacc

theorem memOk_vacateUnit {s : State} {c core k : Nat} (h : MemOk s) : MemOk (vacateUnit s c core k) := by
  unfold vacateUnit
  extract_lets mine out s1 _ gone _ s2
  have hs1 : MemOk s1 := memOk_foldl h fun _ _ hacc => memOk_quadOrHome hacc
  have hs2 : MemOk s2 := memOk_ite (h.keep rfl) (memOk_ite (hs1.keep rfl) (h.keep rfl))
  exact hs2.keep rfl

theorem outOk_execScanOut {ctx unit : Nat} {s : State} (h : MemOk s) : OutOk (execScanOut ctx unit s) := by
  unfold execScanOut
  extract_lets core k
  refine outOk_onCtx fun c => ?_
  split
  · exact outOk_notEnabled
  · split
    · exact outOk_notEnabled
    · rename_i e
      extract_lets +onlyGivenNames s1 image
      have hs1 : MemOk s1 := memOk_vacateUnit (OptOk.of_some e (optOk_ite (optOk_runOutAll h) h))
      split
      · exact outOk_notEnabled
      · split
        · exact h.keep rfl
        · refine outOk_needBacked ?_
          extract_lets s2
          have hs2 : MemOk s2 := (memOk_hubWriteBytes hs1).keep rfl
          exact memOk_ite (hs2.keep rfl) hs2

theorem memOk_writeSave {s : State} {ctx : Nat} {f : Fcb → Fcb} (h : MemOk s) : MemOk (writeSave s ctx f) :=
  (memOk_withFcb h).keep rfl

theorem memOk_reseatWg {s : State} {c wg core : Nat} {w : Wg} (h : MemOk s) :
    MemOk (reseatWg s c wg core w) := by
  unfold reseatWg
  extract_lets s0 s1 mine s2
  have hs0 : MemOk s0 := memOk_ite (memOk_applyCarve (h.keep rfl)) h
  have hs1 : MemOk s1 := hs0.keep rfl
  have hs2 : MemOk s2 := memOk_foldl hs1 fun _ _ hacc => hacc.keep rfl
  exact memOk_foldl hs2 fun _ _ hacc => hacc.keep rfl

theorem optOk_reseatAll {c : Nat} {l : List (Nat × Wg)} {s : State} (h : MemOk s) :
    OptOk (reseatAll c l s) := by
  induction l generalizing s with
  | nil => exact h
  | cons p rest ih =>
    unfold reseatAll
    split
    · exact ih (memOk_reseatWg h)
    · exact trivial

theorem memOk_redeliver {s : State} {id : Nat} (h : MemOk s) : MemOk (redeliver s id) := by
  unfold redeliver
  split
  · exact memOk_foldl (h.keep rfl) fun _ _ hacc => memOk_ite (memOk_replayOp hacc) (memOk_haltThr hacc)
  · exact h

theorem outOk_execContextResume {ctx : Nat} {s : State} (h : MemOk s) : OutOk (execContextResume ctx s) := by
  unfold execContextResume
  refine outOk_onCtx fun c => ?_
  split
  · exact outOk_notEnabled
  · extract_lets ids s0 part
    have hs0 : MemOk s0 := (memOk_restoreImages h).keep rfl
    split
    · rename_i e1
      split
      · exact outOk_notEnabled
      · extract_lets s2 s3
        have hs2 : MemOk s2 := memOk_foldl (OptOk.of_some e1 (optOk_reseatAll hs0)) fun _ _ hacc =>
            memOk_redeliver hacc
        have hs3 : MemOk s3 := hs2.keep rfl
        exact hs3.keep rfl
    · exact outOk_notEnabled

/-! ### The directory and other packages -/

theorem memOk_readRemote {s : State} {die line : Nat} (h : MemOk s) : MemOk (readRemote s die line) := by
  unfold readRemote
  split
  · exact h.keep rfl
  · exact h.keep rfl

theorem outOk_execDirReadRequest {die line : Nat} {s : State} (h : MemOk s) :
    OutOk (execDirReadRequest die line s) := by
  unfold execDirReadRequest
  split
  · exact outOk_ite (memOk_readRemote (memOk_makeWay h)) outOk_notEnabled
  · split
    · exact outOk_ite (memOk_fillLine (memOk_makeWay (memOk_enterSlice h))) outOk_notEnabled
    · exact outOk_notEnabled

theorem outOk_execDirOwnershipRequest {die line : Nat} {s : State} (h : MemOk s) :
    OutOk (execDirOwnershipRequest die line s) := by
  unfold execDirOwnershipRequest
  split
  · exact outOk_ite (memOk_takeOwnership ((memOk_makeWay (memOk_enterSlice h)).keep rfl)) outOk_notEnabled
  · exact outOk_notEnabled

theorem outOk_execDirEviction {die line : Nat} {s : State} (h : MemOk s) : OutOk (execDirEviction die line s) :=
  outOk_ite outOk_notEnabled (outOk_ite (outOk_ite outOk_notEnabled (memOk_landLine h)) (outOk_ite
    ((memOk_evictLine h).keep rfl) outOk_notEnabled))

theorem outOk_execRemoteOwnership {die line : Nat} {s : State} (h : MemOk s) :
    OutOk (execRemoteOwnership die line s) := by
  unfold execRemoteOwnership
  split
  · exact outOk_notEnabled
  · extract_lets _ leased s1
    have hs1 : MemOk s1 := memOk_makeWay (h.keep rfl)
    exact hs1.keep rfl

theorem outOk_execHomeRecall {line : Nat} {s : State} (h : MemOk s) : OutOk (execHomeRecall line s) :=
  outOk_ite (outOk_ite (h.keep rfl) outOk_notEnabled) (outOk_ite (outOk_ite outOk_notEnabled (memOk_recallHome
    h)) outOk_notEnabled)

theorem memOk_outsideWrite {s : State} {pa n v : Nat} (h : MemOk s) : MemOk (outsideWrite s pa n v) := by
  unfold outsideWrite
  extract_lets line
  have hw : MemOk (hubWrite { s with mem := { s.mem with poison := s.mem.poison.filter (· != line) } } pa n v) :=
    memOk_hubWrite (h.keep rfl)
  exact memOk_ite (h.keep rfl) (hw.keep rfl)

theorem outOk_execHostAccess {wr : BitVec 1} {addr n : Nat} {v : BitVec 64} {s : State} (h : MemOk s) :
    OutOk (execHostAccess wr addr n v s) := by
  unfold execHostAccess
  dsimp only
  split
  · exact outOk_notEnabled
  · split
    · split
      · exact outOk_notEnabled
      · exact h.keep rfl
    · exact outOk_ite outOk_notEnabled (memOk_ite (memOk_outsideWrite (memOk_combine (h.keep rfl)))
          (memOk_commitRead (memOk_combine (h.keep rfl))))

theorem outOk_execRemotePackageRequest {pkg line : Nat} {own : BitVec 1} {s : State} (h : MemOk s) :
    OutOk (execRemotePackageRequest pkg line own s) := by
  unfold execRemotePackageRequest
  split
  · exact outOk_notEnabled
  · extract_lets +onlyGivenNames s1 hold
    have hs1 : MemOk s1 := memOk_combine h
    split
    · extract_lets +onlyGivenNames die s2
      have hs2 : MemOk s2 := memOk_commitPos (memOk_enterSlice hs1)
      split
      · extract_lets +onlyGivenNames s3
        have hs3 : MemOk s3 := memOk_landLine hs2
        exact hs3.keep rfl
      · exact outOk_notEnabled
    · exact outOk_ite hs1 ((memOk_commitRead hs1).keep rfl)

/-! ### Links, recovery and failed homes -/

theorem memOk_loseOps {s : State} {link : Nat} (h : MemOk s) : MemOk (loseOps s link) :=
  memOk_foldl h fun _ _ hacc => memOk_foldl hacc fun _ _ hacc => memOk_ite (memOk_lanePoison hacc) hacc

theorem optFstOk_loseCopy {s : State} {link : Nat} {o : EngOp} {f : BitVec 4} {n : Nat} {write : Bool}
    (h : MemOk s) : OptFstOk (loseCopy s link o f n write) := by
  unfold loseCopy
  extract_lets +onlyGivenNames c
  have hc : MemOk c.s := memOk_runCopy h
  split
  · extract_lets +onlyGivenNames va scratch
    split
    · exact trivial
    · exact hc

theorem optFstOk_loseDrain {s : State} {link : Nat} {o : EngOp} {d : Nat} {f : BitVec 6} {i : Nat}
    (h : MemOk s) : OptFstOk (loseDrain s link o d f i) := by
  unfold loseDrain
  extract_lets slot w r
  have hr : MemOk r.1 := memOk_drainRows h
  split
  · extract_lets va
    split
    · exact trivial
    · exact hr
  · exact trivial

theorem optFstOk_loseEngine {s : State} {link id : Nat} {o : EngOp} (h : MemOk s) :
    OptFstOk (loseEngine s link id o) := by
  unfold loseEngine
  extract_lets free
  split
  · extract_lets want
    split
    · split
      · exact h
      · exact trivial
    · exact trivial
  · exact optFstOk_loseDrain h
  · split
    · exact optFstOk_loseCopy h
  · extract_lets r va
    have hr : MemOk r.1 := memOk_collWrite h
    split
    · exact trivial
    · exact hr
  · exact trivial

theorem memOk_loseEngines {s : State} {link : Nat} (h : MemOk s) : MemOk (loseEngines s link) := by
  unfold loseEngines
  refine memOk_foldl h fun acc p hacc => ?_
  split
  · split
    · rename_i e2
      exact memOk_finish (memOk_ite ((OptFstOk.of_some e2 (optFstOk_loseEngine hacc)).keep rfl)
          (OptFstOk.of_some e2 (optFstOk_loseEngine hacc)))
    · exact hacc
  · exact hacc

theorem memOk_noteSilent {s : State} (h : MemOk s) : MemOk (noteSilent s) := memOk_ite h (h.keep rfl)

theorem outOk_execLinkDown {link : Nat} {s : State} (h : MemOk s) : OutOk (execLinkDown link s) := by
  unfold execLinkDown
  split
  · exact outOk_notEnabled
  · extract_lets s1
    have hs1 : MemOk s1 := (memOk_loseEngines (memOk_loseOps h)).keep rfl
    exact memOk_noteSilent (hs1.keep rfl)

theorem outOk_execRecoverGo {v : BitVec 1} {s : State} (h : MemOk s) : OutOk (execRecoverGo v s) :=
  outOk_ite (h.keep rfl) h

theorem memOk_failDie {s : State} {die : Nat} (h : MemOk s) : MemOk (failDie s die) := by
  unfold failDie
  extract_lets gone s1
  have hs1 : MemOk s1 := memOk_foldl h fun _ _ hacc => memOk_poisonLine hacc
  exact hs1.keep rfl

theorem memOk_salvage {s : State} {l : L2Line} {parked : Bool} (h : MemOk s) : MemOk (salvage s l parked) := by
  unfold salvage
  split
  · exact h
  · split
    · exact h.keep rfl
    · extract_lets base s1
      have hs1 : MemOk s1 := memOk_hubWriteBytes (memOk_hubStore h)
      exact hs1.keep rfl

theorem memOk_failRange {s : State} {inRange : L2Line → Bool} (h : MemOk s) : MemOk (failRange s inRange) := by
  unfold failRange
  extract_lets held s1 s2 gone kept
  have hs1 : MemOk s1 := memOk_foldl h fun _ _ hacc => memOk_salvage (hacc.keep rfl)
  have hs2 : MemOk s2 := memOk_ite (hs1.keep rfl) hs1
  exact hs2.keep rfl

theorem memOk_failMemory {s : State} {m : Nat} (h : MemOk s) : MemOk (failMemory s m) := by
  unfold failMemory
  extract_lets md s1
  have hs1 : MemOk s1 := memOk_failRange h
  exact hs1.keep rfl

theorem outOk_execRemotePackageTimeout {pkg : Nat} {s : State} (h : MemOk s) :
    OutOk (execRemotePackageTimeout pkg s) := by
  unfold execRemotePackageTimeout
  split
  · split
    · extract_lets s1
      have hs1 : MemOk s1 := memOk_failRange h
      exact hs1.keep rfl
    · exact outOk_notEnabled
  · exact outOk_notEnabled

theorem outOk_execRasfail {v : BitVec 64} {s : State} (h : MemOk s) : OutOk (execRasfail v s) :=
  outOk_ite h (memOk_failMemory h)

theorem outOk_execSalvctl {v : BitVec 64} {s : State} (h : MemOk s) : OutOk (execSalvctl v s) := h.keep rfl

/-! ### P-states, boot, resets, keys and registers -/

theorem outOk_execDiepsTarget {die : Nat} {v : BitVec 2} {s : State} (h : MemOk s) :
    OutOk (execDiepsTarget die v s) :=
  outOk_ite outOk_notEnabled (h.keep rfl)

theorem outOk_execRelockEnd {die : Nat} {s : State} (h : MemOk s) : OutOk (execRelockEnd die s) := by
  unfold execRelockEnd
  split
  · exact outOk_ite (h.keep rfl) outOk_notEnabled
  · exact outOk_notEnabled

theorem memOk_trainLink {s : State} {link : Nat} (h : MemOk s) : MemOk (trainLink s link) :=
  memOk_ite (h.keep rfl) (memOk_ite (h.keep rfl) (memOk_ite (h.keep rfl) (h.keep rfl)))

theorem memOk_trainStacks {s : State} {m : Nat} (h : MemOk s) : MemOk (trainStacks s m) := by
  unfold trainStacks
  extract_lets ok s0 md s1
  have hs0 : MemOk s0 := memOk_ite h (memOk_failMemory h)
  have hs1 : MemOk s1 := hs0.keep rfl
  exact hs1.keep rfl

theorem memOk_zeroStores {s : State} (h : MemOk s) : MemOk (zeroStores s) := h.keep rfl

theorem memOk_bootAct {s : State} (h : MemOk s) : MemOk (bootAct s) := by
  unfold bootAct
  extract_lets b go
  have hgo : ∀ s1, MemOk s1 → MemOk (go s1) := fun _ h1 => h1.keep rfl
  split
  · exact memOk_ite (h.keep rfl) (hgo _ h)
  · split
    · split
      · exact h.keep rfl
      · exact h.keep rfl
    · split
      · split
        · exact hgo _ (memOk_foldl (h.keep rfl) fun _ _ hacc => hacc.keep rfl)
        · exact h.keep rfl
      · split
        · exact hgo _ (memOk_foldl h fun _ _ hacc => memOk_trainLink hacc)
        · split
          · exact hgo _ (memOk_foldl (h.keep rfl) fun _ _ hacc => memOk_trainStacks hacc)
          · have hk : MemOk (keysToDies s) := h.keep rfl
            have hl := memOk_foldl (l := List.range' 24 24) hk fun _ link hacc => memOk_trainLink (link := link) hacc
            exact hgo _ (memOk_zeroStores hl)

theorem outOk_execRecoveryImage {k : Nat} {s : State} (h : MemOk s) : OutOk (execRecoveryImage k s) := by
  unfold execRecoveryImage
  split
  · exact outOk_ite outOk_notEnabled (outOk_ite h (h.keep rfl))
  · exact outOk_notEnabled

theorem memOk_finishOps {s : State} {mask : BitVec 8} (h : MemOk s) : MemOk (finishOps s mask) := by
  unfold finishOps
  extract_lets mine home s1
  have hs1 : MemOk s1 := memOk_foldl h fun _ _ hacc => memOk_foldl hacc fun _ _ hacc => memOk_ite ((memOk_hubStore
      hacc).keep rfl) hacc
  exact hs1.keep rfl

theorem memOk_resetDies {s : State} {mask : BitVec 8} (h : MemOk s) : MemOk (resetDies s mask) := by
  unfold resetDies
  extract_lets on s1 s2 s2' s3
  have hs1 : MemOk s1 := memOk_foldl h fun _ _ hacc => memOk_parkedHome hacc
  have hs2 : MemOk s2 := memOk_foldl hs1 fun _ _ hacc => memOk_evictLine hacc
  have hs2' : MemOk s2' := memOk_foldl hs2 fun _ _ hacc => memOk_landLine hacc
  exact memOk_foldl (hs2'.keep rfl) fun _ _ hacc => memOk_ite (hacc.keep rfl) hacc

theorem outOk_execPartrst {v : BitVec 64} {s : State} (h : MemOk s) : OutOk (execPartrst v s) := by
  unfold execPartrst
  extract_lets +onlyGivenNames mask
  split
  · exact h.keep rfl
  · extract_lets +onlyGivenNames _ s1
    have hs1 : MemOk s1 := h.keep rfl
    split
    · exact hs1
    · extract_lets s2 s3
      have hs2 : MemOk s2 := memOk_finishOps (memOk_foldl hs1 fun _ _ hacc => memOk_forceReset hacc)
      have hs3 : MemOk s3 := memOk_resetDies hs2
      exact hs3.keep rfl

theorem outOk_execPairResetDone {s : State} (h : MemOk s) : OutOk (execPairResetDone s) := by
  unfold execPairResetDone
  split
  · exact outOk_notEnabled
  · extract_lets ds
    split
    · exact h.keep rfl
    · extract_lets s1 s2 s3
      have hs1 : MemOk s1 := memOk_foldl (h.keep rfl) fun _ _ hacc => hacc.keep rfl
      have hs2 : MemOk s2 := memOk_foldl hs1 fun _ _ hacc => memOk_trainLink (memOk_trainLink (memOk_trainLink
          hacc))
      have hs3 : MemOk s3 := (memOk_foldl hs2 fun _ _ hacc => memOk_trainStacks hacc).keep rfl
      exact hs3.keep rfl

theorem memOk_noteHeld {s : State} (h : MemOk s) : MemOk (noteHeld s) := memOk_ite (h.keep rfl) (h.keep rfl)

theorem outOk_execHeldAccessTimeout {op lane : Nat} {s : State} (h : MemOk s) :
    OutOk (execHeldAccessTimeout op lane s) := by
  unfold execHeldAccessTimeout
  split
  · split
    · split
      · exact outOk_notEnabled
      · split
        · exact outOk_notEnabled
        · exact h.keep rfl
        · exact memOk_ite (h.keep rfl) (h.keep rfl)
    · exact outOk_notEnabled
  · exact outOk_onLane fun _ _ => outOk_ite (memOk_lanePoison h) outOk_notEnabled

theorem memOk_writeDesc {s : State} {c : Nat} {v : BitVec 256} (h : MemOk s) : MemOk (writeDesc s c v) := by
  unfold writeDesc
  extract_lets root
  split
  · extract_lets s0
    have hs0 : MemOk s0 := memOk_ite h (h.keep rfl)
    exact memOk_ite (memOk_ite (hs0.keep rfl) (hs0.keep rfl)) (hs0.keep rfl)
  · exact h.keep rfl

theorem memOk_writeFcb {s : State} {c kind : Nat} {v : BitVec 256} (h : MemOk s) :
    MemOk (writeFcb s c kind v) :=
  (memOk_withFcb h).keep rfl

theorem outOk_writePreq {s0 : State} {c : Nat} {v : BitVec 256} (h : MemOk s0) : OutOk (writePreq s0 c v) := by
  unfold writePreq
  extract_lets s
  have hs : MemOk s := memOk_withFcb h
  exact outOk_ite (outOk_onCtx fun _ => hs.keep rfl) (outOk_ite (outOk_execPreqDrain hs) (outOk_ite
      (outOk_execPreqFreeze hs) (outOk_ite (outOk_execPreqReset hs) (outOk_onCtx fun _ => hs))))

theorem outOk_writeResume {s : State} {c : Nat} {v : BitVec 64} (h : MemOk s) : OutOk (writeResume s c v) :=
  outOk_ite (outOk_execResumeReplay h) (outOk_ite (outOk_execResumeContinue h) (outOk_execResumeEnd h))

theorem outOk_writeHubReg {s : State} {k : Nat} {v : BitVec 256} (h : MemOk s) : OutOk (writeHubReg s k v) :=
  outOk_ite (outOk_execSalvctl h) (outOk_ite (outOk_execPartrst h) (outOk_ite h (outOk_ite (outOk_execRecoverGo
    h) (outOk_ite (outOk_execRasfail h) (h.keep rfl)))))

theorem outOk_execRegisterWrite {reg : Nat} {v : BitVec 256} {s : State} (h : MemOk s) :
    OutOk (execRegisterWrite reg v s) :=
  outOk_ite (outOk_ite (outOk_writeHubReg h) outOk_notEnabled) (outOk_ite (memOk_writeDesc h) (outOk_ite (h.keep
    rfl) (outOk_ite (h.keep rfl) (outOk_ite (outOk_ite (h.keep rfl) outOk_notEnabled) (outOk_ite
    (outOk_writePreq h) (outOk_ite (outOk_execDiepsTarget h) (outOk_ite (memOk_writeFcb h) (outOk_ite h
    (outOk_ite (outOk_execFqhead h) (outOk_ite (memOk_writeSave h) (outOk_ite (memOk_writeSave h) (outOk_ite
    (outOk_writeResume h) outOk_notEnabled))))))))))))

/-! ### The dispatcher and the step -/

theorem memOk_settleSets {s : State} (h : MemOk s) : MemOk (settleSets s) := by
  unfold settleSets
  split
  · exact h
  · exact memOk_foldl (h.keep rfl) fun _ _ hacc => memOk_foldl hacc fun _ _ hacc => memOk_fillActive hacc

theorem memOk_passTime {s : State} {n : Nat} (h : MemOk s) : MemOk (passTime s n) := by
  unfold passTime
  extract_lets s1
  have hs1 : MemOk s1 := (memOk_noteHeld h).keep rfl
  exact hs1.keep rfl

/-- Every instruction of the dispatcher keeps the form of memory: its arms in the order in which `exec` lists them. -/
theorem outOk_exec {i : Instr} {s : State} (h : MemOk s) : OutOk (exec i s) := by
  unfold exec
  split
  iterate 32 -- `sadd` to `smuli`
    · exact outOk_alu h
  · exact outOk_scalar h fun _ => outOk_done h -- `sli`
  · exact outOk_scalar h fun _ => outOk_scalarOp h -- `sliHi`
  · exact outOk_scalar h fun _ => outOk_compare h -- `scmp`
  · exact outOk_scalar h fun _ => outOk_compare h -- `scmpi`
  · exact outOk_scalar h fun _ => outOk_writeForm h -- `ssel`
  iterate 5 -- `copAnd` to `copNot`
    · exact outOk_cop h
  · exact outOk_scalar h fun _ => outOk_done4 h -- `copSet`
  · exact outOk_scalar h fun _ => outOk_done4 h -- `copClr`
  · exact outOk_cop h -- `copMov`
  · exact outOk_scalar h fun _ => outOk_ite (outOk_writeM h) (outOk_done4 h) -- `sform`
  · exact outOk_execSld h
  · exact outOk_scalar h fun _ => outOk_ite (h.keep rfl) (outOk_itemsAccess h) -- `sst`
  · exact outOk_execSatom h
  · exact outOk_execCmo h
  · exact outOk_execKset h
  · exact outOk_kgetWith h -- `kget`
  · exact outOk_kgetWith h -- `kgetSet`
  · exact outOk_execKrev h
  · exact outOk_execKdrop h
  · exact outOk_execBarArv h
  · exact outOk_execBarWt h
  · exact outOk_execBarArw h
  · exact outOk_execBarInit h
  · exact outOk_hbarOn h fun _ _ => outOk_done4 (h.keep rfl) -- `hbarArv`
  · exact outOk_execHbarWt h
  · exact outOk_hbarOn h fun _ _ => h.keep rfl -- `hbarArw`
  · exact outOk_execFence h
  · exact outOk_execBr h
  · exact outOk_execCall h
  · exact outOk_execJmp h
  · exact outOk_execRet h
  · exact outOk_scalar h fun _ => outOk_inStrand h fun _ => outOk_done h -- `lx`
  · exact outOk_execExit h
  · exact outOk_execWait h
  · exact outOk_execTrapf h
  · exact outOk_scalar h fun _ => outOk_pushTok h -- `jtok`
  · exact outOk_execDvg h
  · exact outOk_execNxt h
  · exact outOk_scalar h fun _ => outOk_pushTok h -- `lpb`
  · exact outOk_execLpe h
  · exact outOk_execBrk h
  · exact outOk_scalarOutside h fun _ => outOk_inStrand h fun _ => outOk_done4 h -- `seat`
  · exact outOk_execUnseat h
  · exact outOk_execSjoin h
  · exact outOk_execQfence h
  · exact outOk_scalar h fun _ => outOk_needU h fun _ => outOk_snoozeTo h -- `snooze`
  · exact outOk_scalar h fun _ => outOk_needU h fun _ => outOk_snoozeTo h -- `snoozeAbs`
  · exact outOk_teamCmd h fun _ _ _ => outOk_mxChecks h -- `mma`
  · exact outOk_teamCmd h fun _ _ _ => outOk_mxChecks h -- `mgath`
  · exact outOk_teamCmd h fun _ _ _ => outOk_teamIssue h -- `mzero`
  · exact outOk_execMdrain h
  · exact outOk_execMcommit h
  · exact outOk_execMfence h
  · exact outOk_execMwait h
  · exact outOk_execCpy h
  · exact outOk_execColl h
  · exact outOk_rbegWith h -- `rbeg`
  · exact outOk_rbegWith h -- `rbegStrict`
  · exact outOk_inLive h fun _ _ _ => outOk_ite (outOk_fault h) (h.keep rfl) -- `rend`
  · exact outOk_inLive h fun _ _ _ => memOk_startAbort h -- `rabt`
  · exact outOk_rnarRead h -- `rnarLo`
  · exact outOk_rnarRead h -- `rnarHi`
  · exact outOk_execRnarNarrow h
  · exact outOk_scalar h fun _ => outOk_done4 h -- `nop`
  · exact outOk_scalar h fun _ => outOk_inStrand h fun _ => memOk_trap h -- `trap`
  · exact outOk_execSrd h
  · exact outOk_execSwr h
  · exact outOk_execDlaunch h
  iterate 9 -- `iadd` to `imax`
    · exact outOk_intExact h
  iterate 5 -- `land` to `andn`
    · exact outOk_bitOp h
  iterate 5 -- `shl` to `bfx`
    · exact outOk_shiftOp h
  · exact outOk_laneInstr h fun _ he => outOk_laneResult he -- `bfi`
  iterate 3 -- `clz` to `brev`
    · exact outOk_bitOp h
  · exact outOk_laneInstr h fun _ he => outOk_lanePred he -- `icmp`
  · exact outOk_laneInstr h fun _ he => outOk_laneResult he -- `sel`
  · exact outOk_laneInstr h fun _ he => outOk_laneResultF he -- `dot4`
  iterate 8 -- `fadd` to `fneg`
    · exact outOk_floatOp h
  · exact outOk_laneInstr h fun _ he => outOk_lanePred he -- `fcmp`
  iterate 8 -- `frcp` to `fcos`
    · exact outOk_floatOp h
  · exact outOk_laneInstr h fun _ he => outOk_laneResult he -- `fclass`
  · exact outOk_floatOp h -- `fcpsgn`
  · exact outOk_floatOp h -- `ftrunc`
  · exact outOk_laneInstr h fun _ he => outOk_laneResultF he -- `fldx`
  · exact outOk_laneInstr h fun _ he => outOk_laneResult he -- `mov`
  · exact outOk_laneInstr h fun _ he => outOk_laneResult he -- `movi`
  iterate 3 -- `cvt` to `unpk`
    · exact outOk_laneInstr h fun _ he => outOk_laneResultF he
  · exact outOk_laneInstr h fun _ he => outOk_laneResult he -- `tdec`
  · exact outOk_laneInstr h fun _ he => outOk_laneResultF he -- `tenc`
  · exact outOk_execLea h
  · exact outOk_laneInstr h fun _ he => outOk_lanePred he -- `pset`
  · exact outOk_laneInstr h fun _ he => outOk_lanePred he -- `pmov`
  · exact outOk_laneInstr h fun _ he => outOk_laneResult he -- `shfl`
  · exact outOk_laneInstr h fun _ he => outOk_laneResult he -- `bcast`
  · exact outOk_laneInstr h fun _ he => outOk_laneScalar he -- `vote`
  · exact outOk_laneInstr h fun _ he => outOk_laneScalar he -- `redx`
  · exact outOk_laneInstr h fun _ he => outOk_laneResultF he -- `scan`
  · exact outOk_laneInstr h fun _ he => outOk_laneScalar he -- `firstLane`
  · exact outOk_laneInstr h fun _ he => outOk_laneResult he -- `perm`
  · exact outOk_laneInstr h fun _ he => outOk_laneResultF he -- `cmpx`
  iterate 3 -- `ld` to `stk`
    · exact outOk_laneInstr h fun _ he => outOk_laneAccess he
  · exact outOk_execPrf h
  iterate 3 -- `atom` to `cas`
    · exact outOk_laneInstr h fun _ he => outOk_laneAccess he
  · exact outOk_execCacc h
  · exact outOk_laneInstr h fun _ he => outOk_laneIndex he -- `xset`
  · exact outOk_laneInstr h fun _ he => outOk_laneIndex he -- `xadd`
  · exact outOk_laneInstr h fun _ he => outOk_laneResult he -- `xget`
  · exact outOk_execLocateFault h
  · exact outOk_execLocateResolve h
  · exact outOk_execPartialHandover h
  · exact outOk_execTileSeat h
  · exact outOk_execPlacementTimeout h
  · exact outOk_execWorkgroupEnd h
  · exact outOk_execStrandSlotFree h
  · exact outOk_execAgingSwap h
  · exact outOk_execStallSwap h
  · exact outOk_execHangDetected h
  · exact outOk_execSjoinWindowExpiry h
  · exact outOk_execSnoozeExpiry h
  · exact outOk_execFenceComplete h
  · exact outOk_execWaitComplete h
  · exact outOk_execMwaitComplete h
  · exact outOk_execBarReleaseWake h
  · exact outOk_execHbarRelease h
  · exact outOk_execDlaunchStatus h
  · exact outOk_execRbegOpen h
  · exact outOk_execLoadReturn h
  · exact outOk_execStoreAck h
  · exact outOk_execAtomicReturn h
  · exact outOk_execLeaseExpiry h
  · exact outOk_execStreamTimeout h
  · exact outOk_execRegionSliceAccess h
  · exact outOk_execNonregionSliceAccess h
  · exact outOk_execCrossDieRegionHold h
  · exact outOk_msgArrives h -- `regionRaiseLo`
  · exact outOk_msgArrives h -- `regionLowerHi`
  · exact outOk_execRegionAbortMessage h
  · exact outOk_execRegionAbortDone h
  · exact outOk_execRegionFreeze h
  · exact outOk_execRegionFreezeDone h
  · exact outOk_execRegionFinalPosition h
  · exact outOk_execRegionCommitDone h
  · exact outOk_execDirEviction h
  · exact outOk_execHomeRecall h
  · exact outOk_execTranslationInvalidation h
  · exact outOk_ite (h.keep rfl) outOk_notEnabled -- `dirRebuild`
  · exact outOk_ite outOk_notEnabled (memOk_failDie h) -- `dieProbeTimeout`
  · exact outOk_execRemotePackageTimeout h
  · exact outOk_execHeldAccessTimeout h
  · exact outOk_execRelockEnd h
  · exact outOk_execFaultRecordWrite h
  · exact outOk_onCtx fun _ => outOk_ite (h.keep rfl) outOk_notEnabled -- `preemptStart`
  · exact outOk_onCtx fun _ => outOk_ite (h.keep rfl) outOk_notEnabled -- `drainComplete`
  · exact outOk_execDrainDeadline h
  · exact outOk_execResetDeadline h
  · exact outOk_execScanOut h
  · exact outOk_execContextResume h
  · exact outOk_execLaunchEntry h
  · exact outOk_execKrevEntry h
  · exact outOk_execKdropEntry h
  · exact outOk_execWaitEntry h
  · exact outOk_execQueueEntryComplete h
  · exact outOk_execLaunchComplete h
  · exact outOk_execEngineOpStart h
  · exact outOk_execEngineOpComplete h
  · exact outOk_execChunkEnd h
  · exact outOk_execBatchComplete h
  · exact outOk_execCopyComplete h
  · exact outOk_execCollComplete h
  · exact outOk_execResumeReplay h
  · exact outOk_execResumeContinue h
  · exact outOk_execResumeEnd h
  · exact outOk_execFqhead h
  · exact outOk_execPreqDrain h
  · exact outOk_execPreqFreeze h
  · exact outOk_execPreqReset h
  · exact outOk_onCtx fun _ => memOk_writeSave h -- `saveArea`
  · exact outOk_ite outOk_notEnabled (outOk_ite h (h.keep rfl)) -- `doorbell`
  iterate 3 -- `keySlotLoad` to `attestationRequest`
    · exact outOk_ite outOk_notEnabled (h.keep rfl)
  · exact outOk_execRegisterWrite h
  · exact outOk_execHostAccess h
  · exact outOk_execRemotePackageRequest h
  · exact outOk_ite outOk_notEnabled (h.keep rfl) -- `replayTimerExpiry`
  · exact outOk_ite outOk_notEnabled (h.keep rfl) -- `flitCrcFail`
  · exact outOk_execLinkDown h
  · exact outOk_ite outOk_notEnabled (memOk_ite (h.keep rfl) (h.keep rfl)) -- `linkRetrain`
  · exact outOk_execRecoverGo h
  · exact outOk_execRasfail h
  · exact outOk_execSalvctl h
  · exact outOk_execPartrst h
  · exact outOk_execDiepsTarget h
  · exact outOk_execRecoveryImage h
  · exact outOk_ite outOk_notEnabled (memOk_failMemory h) -- `memoryDieFailed`
  · exact outOk_execDirReadRequest h
  · exact outOk_execDirOwnershipRequest h
  · exact outOk_execRemoteOwnership h
  · exact outOk_ite outOk_notEnabled (h.keep rfl) -- `powerOn`
  · exact outOk_ite outOk_notEnabled (memOk_bootAct h) -- `bootStage`
  · exact outOk_execPairResetDone h

theorem memOk_issuing {s : State} {id : Nat} {t : Thread} (h : MemOk s) : MemOk (issuing s id t) :=
  memOk_ite (h.keep rfl) (h.keep rfl)

theorem memOk_scalarIssued {s : State} {id : Nat} {t : Thread} {n : Nat} (h : MemOk s) :
    MemOk (scalarIssued s id t n) :=
  memOk_noteFetch (memOk_issuing h)

theorem outOk_issueScalar {id : Nat} {s : State} (h : MemOk s) : OutOk (issueScalar id s) := by
  unfold issueScalar
  split
  · exact trivial
  · split
    · split
      · exact outOk_exec (memOk_scalarIssued h)
      · exact outOk_fault (memOk_issuing h)
      · exact outOk_faultWith (memOk_issuing h)
      · exact h
    · exact h

theorem memOk_laneIssued {s : State} {id : Nat} {t : Thread} {lpc : Nat} (h : MemOk s) :
    MemOk (laneIssued s id t lpc) :=
  memOk_noteFetch (memOk_issuing h)

theorem outOk_laneEffect {s : State} {id : Nat} {r : Out} (h : MemOk s) (hr : OutOk r) :
    OutOk (laneEffect s id r) := by
  unfold laneEffect
  split
  · exact outOk_ite h hr
  · exact hr

theorem outOk_issueLane {id : Nat} {s : State} (h : MemOk s) : OutOk (issueLane id s) := by
  unfold issueLane
  split
  · exact trivial
  · split
    · exact h
    · split
      · split
        · exact outOk_laneEffect h (outOk_exec (memOk_laneIssued h))
        · exact outOk_laneStop (memOk_issuing h)
        · exact outOk_laneStop (memOk_issuing h)
        · exact h
      · exact h

theorem outOk_umushStep {k : Nat} {i : Instr} {s : State} (h : MemOk s) : OutOk (umushStep k i s) := by
  unfold umushStep
  split
  · extract_lets t _ put
    have hput : ∀ u, OutOk (put u) := fun _ => h.keep rfl
    split
    · exact h
    · split
      · exact trivial
      · split
        · split
          · split
            · split
              · exact hput _
              · exact hput _
              · exact hput _
              · exact trivial
            · exact trivial
          · exact trivial
        · exact trivial
  · exact outOk_notEnabled

theorem outOk_softErr {s : State} {unit : Nat} {corrected : Bool} (h : MemOk s) :
    OutOk (softErr s unit corrected) :=
  outOk_ite outOk_notEnabled (h.keep rfl)

theorem outOk_sense {s : State} {die : Nat} {power temp : Word} (h : MemOk s) :
    OutOk (sense s die power temp) :=
  outOk_ite outOk_notEnabled (h.keep rfl)

theorem outOk_carryOut {c : Choice} {s : State} (h : MemOk s) : OutOk (carryOut c s) := by
  unfold carryOut
  split
  · exact outOk_issueScalar h
  · exact outOk_issueLane h
  · exact outOk_ite (outOk_exec h) outOk_notEnabled
  · exact outOk_umushStep h
  · exact memOk_passTime h
  · exact outOk_softErr h
  · exact outOk_sense h

theorem outOk_takeChoice {c : Choice} {s : State} (h : MemOk s) : OutOk (takeChoice c s) := by
  unfold takeChoice
  split
  · rename_i e
    exact memOk_settleSets (OutOk.of_next e (outOk_carryOut h))
  · exact outOk_carryOut h

theorem outOk_step {s : State} (h : MemOk s) : OutOk (step s) := by
  unfold step
  split
  · exact outOk_takeChoice (h.keep rfl)
  · exact outOk_takeChoice (h.keep rfl)

end Sys2Proof.Machine

namespace Sys2Proof.Laws

open Sys2Proof

/-- Settles O5: the step's answer keeps the form (`outOk_step`), which was followed through the model's functions. -/
theorem memoryFormKept : Obligations.MemoryFormKept := by
  unfold Obligations.MemoryFormKept
  intro s s' h answer
  exact Machine.OutOk.of_next answer (Machine.outOk_step h)

end Sys2Proof.Laws

end

section

/-! ## Time and reset (01_spans_strands.md): the clock of a die, P-states, and the state after reset (O56, O4) -/

namespace Sys2Proof.Machine

open Sys2Proof

/-! ### The counters of a die (R49, R50) -/

theorem dieCc_running {d : Die} (running : d.stopped = none) (started : d.resetting = false) (now : Nat) :
    dieCc d now = d.ccStep + (now - d.stepAt) / Config.cycleTicks d.cur := by
  simp [dieCc, running, started]

theorem dieCc_resetting {d : Die} (running : d.stopped = none) (reset : d.resetting = true) (now : Nat) :
    dieCc d now = d.ccStep := by
  simp [dieCc, running, reset]

theorem dieScc_running {d : Die} (running : d.stopped = none) (started : d.resetting = false) (now : Nat) :
    dieScc d now =
      d.sccStep + (now - d.stepAt) / Config.cycleTicks d.cur * 1900 / Config.mhz d.cur := by
  simp [dieScc, running, dieCc_running running started]

/-- At its step point a die has counted nothing since, in reset or out of it. -/
theorem dieCc_stepAt {d : Die} (running : d.stopped = none) : dieCc d d.stepAt = d.ccStep := by
  cases started : d.resetting with
  | true => exact dieCc_resetting running started _
  | false => simp [dieCc_running running started]

theorem dieScc_stepAt {d : Die} (running : d.stopped = none) : dieScc d d.stepAt = d.sccStep := by
  simp [dieScc, running, dieCc_stepAt running]

theorem dieCc_stopped {d : Die} {at0 cc scc now : Nat} (stopped : d.stopped = some (at0, cc, scc)) (past : at0 ≤ now) :
    dieCc d now = cc := by
  simp [dieCc, stopped, Nat.not_lt.2 past]

theorem dieScc_stopped {d : Die} {at0 cc scc now : Nat} (stopped : d.stopped = some (at0, cc, scc)) (past : at0 ≤ now) :
    dieScc d now = scc + (now - at0) * 19 / (Config.ticksPerNs * 10) := by
  simp [dieScc, stopped, Nat.not_lt.2 past]

theorem dieStopped_eq_true_iff {d : Die} {now : Nat} :
    dieStopped d now = true ↔ ∃ at0 cc scc, d.stopped = some (at0, cc, scc) ∧ at0 ≤ now := by
  unfold dieStopped
  split <;> simp_all

/-! ### The end of a relock gap (R50, R396) -/

/-- A die as its relock gap ends, before it is seen whether its target has changed. -/
def relocked (d : Die) (at0 cc scc : Nat) : Die :=
  { d with
    cur := d.next, ccStep := cc, sccStep := scc + 3000 * 19 / 10, stepAt := at0 + 3000 * Config.ticksPerNs
    stopped := none, relocks := d.relocks + 1 }

theorem restart_eq {d : Die} {at0 cc scc : Nat} (stopped : d.stopped = some (at0, cc, scc)) :
    restart d = if d.target = d.next then relocked d at0 cc scc
      else stopClock (relocked d at0 cc scc) (at0 + 3000 * Config.ticksPerNs) d.target := by
  simp only [restart, stopped]
  rfl

/-- A second relock stops the clock as the first gap ends, so the counters stand where that gap has brought them. -/
theorem stopClock_relocked (d : Die) (at0 cc scc : Nat) (ps : BitVec 2) :
    stopClock (relocked d at0 cc scc) (at0 + 3000 * Config.ticksPerNs) ps =
      { relocked d at0 cc scc with
        stopped := some (at0 + 3000 * Config.ticksPerNs, cc, scc + 3000 * 19 / 10), next := ps } := by
  have count : dieCc (relocked d at0 cc scc) (at0 + 3000 * Config.ticksPerNs) = cc := dieCc_stepAt rfl
  have nominal : dieScc (relocked d at0 cc scc) (at0 + 3000 * Config.ticksPerNs) = scc + 3000 * 19 / 10 := dieScc_stepAt rfl
  rw [stopClock, count, nominal]

theorem dieAt_running {d : Die} (running : d.stopped = none) : ∀ n now, dieAt n d now = d
  | 0, _ => rfl
  | _ + 1, _ => by simp [dieAt, running]

theorem dieAt_gapPassed {d : Die} {at0 cc scc now : Nat} (stopped : d.stopped = some (at0, cc, scc))
    (past : at0 + 3000 * Config.ticksPerNs ≤ now) (n : Nat) : dieAt (n + 1) d now = dieAt n (restart d) now := by
  rw [dieAt, stopped]
  exact if_pos past

theorem execRelockEnd_gapPassed {s : State} {die at0 cc scc : Nat} (stopped : (dieRaw s die).stopped = some (at0, cc, scc))
    (past : at0 + 3000 * Config.ticksPerNs ≤ s.time) :
    exec (.relockEnd die) s =
      .next { s with dies := tabSet Die.atReset s.dies die (restart (dieRaw s die)) } := by
  rw [exec_relockEnd, execRelockEnd, stopped]
  exact if_pos past

/-! ### Writes of a target (R395, R396) -/

theorem writeTarget_held (s : State) {d : Die} (h : dieStopped d s.time = true ∨ d.resetting = true) (v : BitVec 2) :
    writeTarget s d v = { d with target := v } := by
  simp [writeTarget, h]

theorem writeTarget_same (s : State) {d : Die} (clock : dieStopped d s.time = false) (started : d.resetting = false) :
    writeTarget s d d.cur = d := by
  simp [writeTarget, clock, started]

theorem writeTarget_overtakes (s : State) {d : Die} {v : BitVec 2} {p : Nat × Nat × Nat} (differs : v ≠ d.cur)
    (clock : dieStopped d s.time = false) (started : d.resetting = false) (stopped : d.stopped = some p) :
    ∃ n, writeTarget s d v = { d with target := v, next := n } ∧ (n = v ∨ n = d.next) := by
  refine ⟨if (Config.freeBits s.freeCtr 0).toNat % 2 = 0 then v else d.next, ?_, ite_eq_or_eq _ _ _⟩
  simp [writeTarget, clock, started, differs, stopped]

/-- The first boundary of a die's cycles at or after a time lies less than a cycle on. -/
theorem boundary_spec {d : Die} {t : Nat} (h : d.stepAt ≤ t) :
    t ≤ boundary d t ∧ boundary d t < t + Config.cycleTicks d.cur ∧
      (boundary d t - d.stepAt) % Config.cycleTicks d.cur = 0 := by
  have pos : 0 < Config.cycleTicks d.cur := by unfold Config.cycleTicks; split_ifs <;> omega
  have split := Nat.div_add_mod (t - d.stepAt + Config.cycleTicks d.cur - 1) (Config.cycleTicks d.cur)
  have rest := Nat.mod_lt (t - d.stepAt + Config.cycleTicks d.cur - 1) pos
  simp only [boundary]
  rw [Nat.mul_comm] at split
  refine ⟨by omega, by omega, ?_⟩
  rw [Nat.add_sub_cancel_left, Nat.mul_mod_left]

theorem cycleTicks_le (ps : BitVec 2) : Config.cycleTicks ps ≤ 285 := by
  unfold Config.cycleTicks
  split_ifs <;> omega

/-- When a request that is written now arrives at a running die; 284 ticks are the longest wait for its next cycle. -/
def requestArrives (s : State) : Nat := s.time + (Config.freeBits s.freeCtr 0).toNat % (200 * Config.ticksPerNs - 284)

theorem requestArrives_bounds (s : State) : s.time ≤ requestArrives s ∧ requestArrives s + 284 < s.time + 200 * Config.ticksPerNs := by
  have inTime := Nat.mod_lt (Config.freeBits s.freeCtr 0).toNat (show 200 * Config.ticksPerNs - 284 > 0 by decide)
  unfold requestArrives
  omega

theorem writeTarget_running {s : State} {d : Die} {v : BitVec 2} (differs : v ≠ d.cur) (started : d.resetting = false)
    (running : d.stopped = none) :
    writeTarget s d v = stopClock { d with target := v } (boundary d (requestArrives s)) v := by
  simp only [writeTarget, dieStopped, running, started, differs]
  simp [requestArrives, boundary]

/-- The clock stops for a write at a boundary within 200 ns. -/
theorem writeTarget_stops {s : State} {d : Die} {v : BitVec 2} (differs : v ≠ d.cur) (started : d.resetting = false)
    (running : d.stopped = none) (stepped : d.stepAt ≤ s.time) :
    ∃ at0, writeTarget s d v =
        { d with target := v, next := v, stopped := some (at0, dieCc d at0, dieScc d at0) } ∧
      s.time ≤ at0 ∧ at0 ≤ s.time + 200 * Config.ticksPerNs ∧ (at0 - d.stepAt) % Config.cycleTicks d.cur = 0 := by
  have cycle := cycleTicks_le d.cur
  obtain ⟨later, inTime⟩ := requestArrives_bounds s
  obtain ⟨after, before, aligned⟩ := boundary_spec (Nat.le_trans stepped later)
  exact ⟨_, writeTarget_running differs started running, by omega, by omega, aligned⟩

/-- What a write of a target makes of a die, given as a function of the die. -/
theorem execDiepsTarget_eq {s : State} {die : Nat} {v : BitVec 2} {f : Die → Die} (inPackage : die < 8)
    (h : writeTarget s (dieOf s die) v = f (dieOf s die)) :
    exec (.diepsTarget die v) s = .next (modDie s die f) := by
  rw [exec_diepsTarget, execDiepsTarget, if_neg (Nat.not_le.2 inPackage), modDie, modDie, h]

end Sys2Proof.Machine

namespace Sys2Proof.Laws

open Sys2Proof Sys2Proof.Machine

/-- Settles O4: every die stands as at reset, where it has counted nothing, and the other values are read off. -/
theorem resetValues : Obligations.ResetValues := by
  unfold Obligations.ResetValues
  refine ⟨memWf_reset, rfl, rfl, rfl, rfl, rfl, fun d => ?_, rfl, rfl, rfl, rfl, rfl, rfl, rfl, rfl, rfl, rfl, rfl, rfl⟩
  have atReset : dieOf State.reset d = Die.atReset := dieAt_running rfl 2 0
  rw [atReset]
  exact ⟨dieCc_stepAt rfl, dieScc_stepAt rfl, rfl, rfl⟩

/-- Settles O56: a write of TARGET by the cases of `writeTarget`, a gap that has passed by `restart_eq`, and the counters by
whether the clock is stopped. -/
theorem pStateChanges : Obligations.PStateChanges := by
  unfold Obligations.PStateChanges
  intro s die inPackage r d
  have clockRuns (h : ∀ at0 cc scc, d.stopped = some (at0, cc, scc) → s.time < at0) : dieStopped d s.time = false := by
    rw [← Bool.not_eq_true, dieStopped_eq_true_iff]
    rintro ⟨at0, cc, scc, stopped, past⟩
    exact Nat.not_lt.2 past (h _ _ _ stopped)
  refine ⟨?same, ?held, ?overtakes, ?stops, ?restarts, ?relocksAgain, ?gap, ?reset, ?runs⟩
  case same =>
    rintro v rfl started h
    exact execDiepsTarget_eq inPackage (writeTarget_same s (clockRuns h) started)
  case held =>
    intro v h
    refine execDiepsTarget_eq (f := fun x => { x with target := v }) inPackage (writeTarget_held s ?_ v)
    exact h.symm.imp_left dieStopped_eq_true_iff.2
  case overtakes =>
    intro v at0 cc scc differs started stopped ahead
    have clock := clockRuns fun a c n h => by
      rw [stopped] at h
      cases h
      exact ahead
    obtain ⟨n, eq, which⟩ := writeTarget_overtakes s differs clock started stopped
    exact ⟨n, execDiepsTarget_eq inPackage eq, which⟩
  case stops =>
    intro v differs started running stepped
    obtain ⟨at0, eq, bounds⟩ := writeTarget_stops differs started running stepped
    exact ⟨at0, execDiepsTarget_eq inPackage eq, bounds⟩
  case restarts =>
    intro at0 cc scc stopped past unchanged up
    have restarted : restart r = up := (restart_eq stopped).trans (if_pos unchanged)
    refine ⟨?_, by rw [execRelockEnd_gapPassed stopped past, ← restarted]⟩
    calc d = dieAt 1 (restart r) s.time := dieAt_gapPassed stopped past 1
      _ = dieAt 1 up s.time := by rw [restarted]
      _ = up := dieAt_running rfl 1 _
  case relocksAgain =>
    intro at0 cc scc stopped past changed
    have restarted : restart r = { relocked r at0 cc scc with
        stopped := some (at0 + 3000 * Config.ticksPerNs, cc, scc + 3000 * 19 / 10), next := r.target } :=
      (restart_eq stopped).trans ((if_neg changed).trans (stopClock_relocked ..))
    refine ⟨_, execRelockEnd_gapPassed stopped past, ?_⟩
    have noted : dieRaw { s with dies := tabSet Die.atReset s.dies die (restart r) } die = restart r := tabGet_tabSet_self ..
    rw [noted, restarted]
    exact ⟨rfl, rfl, rfl⟩
  case gap =>
    intro at0 cc scc stopped past _
    exact ⟨dieCc_stopped stopped past, dieScc_stopped stopped past⟩
  case reset =>
    intro running resetting
    exact dieCc_resetting running resetting _
  case runs =>
    intro running started _
    exact ⟨dieCc_running running started _, dieScc_running running started _⟩

end Sys2Proof.Laws
end

section

/-! ## Token instructions in a span (01_spans_strands.md; O13)

In a span a token instruction with a condition in a condition register leaves the span, or each part of it, with the
value the condition has there. So each of the three is one function of the thread and that value, and splitting a span
is proved once for all of them. -/

namespace Sys2Proof.Machine

open Sys2Proof

/-! ### Shared operations -/

theorem target_eq_hop (t : Thread) {n : Nat} (off : BitVec n) : target t off = hop t off := by
  rw [target, hop, BitVec.mul_comm]

theorem amOf_span {t : Thread} (span : t.seat = none) : amOf t = 0 := by
  simp [amOf, span]

theorem pushTok_room {s : State} {t : Thread} (room : t.toks.length < 32) (k : TokKind) (o : BitVec 21) :
    pushTok s t k o = .next (goPc s t (t.pc + 4) (⟨k, hop t o, amOf t, 0⟩ :: t.toks)) := by
  rw [pushTok, if_neg (Nat.not_le.2 room), target_eq_hop]
  rfl

theorem tokOn_condition {s : State} {t : Thread} (span : t.seat = none) (r : Out) (k : Seat → Out) :
    tokOn s t 1 r k = r := by
  simp [tokOn, span, bit]

theorem tokOn_predicate {s : State} {t : Thread} (span : t.seat = none) (r : Out) (k : Seat → Out) :
    tokOn s t 0 r k = .next (seatSpan s s.cur t none) := by
  simp [tokOn, span, bit]

theorem branch_kind {k : TokKind} (branch : k = .join ∨ k = .els) : k ≠ .loop ∧ k ≠ .call := by
  rcases branch with rfl | rfl <;> decide

theorem findLoop_append {above below : List Token} {l : Token} (loop : l.kind = .loop)
    (branches : ∀ x ∈ above, x.kind = .join ∨ x.kind = .els) : findLoop (above ++ l :: below) = .ok (above, l, below) := by
  induction above with
  | nil => simp [findLoop, loop]
  | cons x above ih =>
    obtain ⟨kind, others⟩ := List.forall_mem_cons.1 branches
    obtain ⟨notLoop, notCall⟩ := branch_kind kind
    simp [findLoop, notLoop, notCall, ih others]

/-- On a threshold that cuts its box a span splits, and each part becomes what `f` makes of it with its value (R23). -/
theorem onSpan_splitAt {s : State} {t : Thread} {ax : Axis} {b : Nat} (below neg : Bool) (f : Thread → Bool → Thread)
    (cuts : cutsBox t.box ax b = true) (fresh : s.cur ≠ s.nextId) :
    splitAt s (onSpan s t (.t ax b below) neg fun s1 id u v => putThr s1 id (f u v)) t ax b (below != neg) f := by
  have upper : ((!below) != neg) = !(below != neg) := by cases below <;> cases neg <;> rfl
  simp only [onSpan, cuts, if_true, upper]
  refine ⟨?_, ?_, fun j notCur notNext => ?_, rfl, rfl⟩
  · simp [tabFind_tabPut_ne _ fresh]
  · simp
  · simp [tabFind_tabPut_ne _ notCur, tabFind_tabPut_ne _ notNext]

/-! ### What each instruction makes of a span or a part of one -/

/-- `dvg` goes on where the condition is true and to its target where it is false (R24). -/
def spanDvg (o : BitVec 21) (t : Thread) (v : Bool) : Thread := { t with pc := if v then t.pc + 4 else hop t o }

/-- `brk` leaves the loop whose token is `l` where the condition is true (R24). -/
def spanBrk (l : Token) (below : List Token) (t : Thread) (v : Bool) : Thread :=
  if v then { t with pc := l.pc, toks := below } else { t with pc := t.pc + 4 }

/-- `lpe` goes round again where the condition is true, and leaves the loop where it is false (R24). -/
def spanLpe (o : BitVec 21) (l : Token) (below : List Token) (t : Thread) (v : Bool) : Thread :=
  if v then { t with pc := hop t o } else { t with pc := l.pc, toks := below }

section

variable {s : State} {t : Thread} (acts : Acts s t) (span : t.seat = none)
include acts span

theorem exec_dvg_span (k : BitVec 3) (neg : BitVec 1) (o : BitVec 21) :
    exec (.dvg k 1 neg o) s =
      .next (onSpan s t (getC t k) (neg == 1) fun s1 id u v => putThr s1 id (spanDvg o u v)) := by
  rw [exec_dvg, execDvg, scalar_run _ acts (illSub_dvg ..), tokOn_condition span]
  simp only [target_eq_hop]
  rfl

theorem exec_brk_span {above below : List Token} {l : Token} (toks : t.toks = above ++ l :: below) (loop : l.kind = .loop)
    (branches : ∀ x ∈ above, x.kind = .join ∨ x.kind = .els) (k : BitVec 3) (neg : BitVec 1) :
    exec (.brk k 1 neg) s =
      .next (onSpan s t (getC t k) (neg == 1) fun s1 id u v => putThr s1 id (spanBrk l below u v)) := by
  rw [exec_brk, execBrk, scalar_run _ acts (illSub_brk ..), tokOn_condition span, toks, findLoop_append loop branches]
  rfl

theorem exec_lpe_span {below : List Token} {l : Token} (toks : t.toks = l :: below) (loop : l.kind = .loop) (k : BitVec 3)
    (neg : BitVec 1) (o : BitVec 21) :
    exec (.lpe k 1 neg o) s =
      .next (onSpan s t (getC t k) (neg == 1) fun s1 id u v => putThr s1 id (spanLpe o l below u v)) := by
  rw [exec_lpe, execLpe, scalar_run _ acts (illSub_lpe ..), tokOn_condition span, toks]
  simp only [loop, target_eq_hop]
  rfl

theorem exec_jtok_span (room : t.toks.length < 32) (o : BitVec 21) :
    exec (.jtok o) s = .next (goPc s t (t.pc + 4) (⟨.join, hop t o, 0, 0⟩ :: t.toks)) := by
  rw [exec_jtok, execJtok, scalar_run _ acts (illSub_jtok o), pushTok_room room, amOf_span span]

theorem exec_lpb_span (room : t.toks.length < 32) (o : BitVec 21) :
    exec (.lpb o) s = .next (goPc s t (t.pc + 4) (⟨.loop, hop t o, 0, 0⟩ :: t.toks)) := by
  rw [exec_lpb, execLpb, scalar_run _ acts (illSub_lpb o), pushTok_room room, amOf_span span]

theorem exec_nxt_span {x : Token} {rest : List Token} (toks : t.toks = x :: rest) (branch : x.kind = .join ∨ x.kind = .els) :
    exec .nxt s = .next (goPc s t x.pc rest) := by
  obtain ⟨notLoop, notCall⟩ := branch_kind branch
  rw [exec_nxt, execNxt, scalar_run _ acts illSub_nxt]
  simp only [toks, notLoop, notCall, span, if_false, done, goPc]

end

end Sys2Proof.Machine

namespace Sys2Proof.Laws

open Sys2Proof Sys2Proof.Machine

/-- Settles O13: each instruction with a condition is one function of the span and the value (`exec_dvg_span` and its
like), on a uniform condition of the whole span, and on a threshold of each part (`onSpan_splitAt`). -/
theorem tokensInSpan : Obligations.TokensInSpan := by
  unfold Obligations.TokensInSpan
  intro s t acts span
  refine ⟨?push, fun x rest toks branch => exec_nxt_span acts span toks branch, ?uniform, ?predicate, ?cut⟩
  case push =>
    intro room o
    exact ⟨exec_jtok_span acts span room o, exec_lpb_span acts span room o⟩
  case uniform =>
    intro k neg o v cond
    refine ⟨?_, fun above l below toks loop branches => ?_, fun l below toks loop => ?_⟩
    · rw [exec_dvg_span acts span, cond]
      rfl
    · rw [exec_brk_span acts span toks loop branches, cond]
      simp only [onSpan, spanBrk]
      split <;> rfl
    · rw [exec_lpe_span acts span toks loop, cond]
      simp only [onSpan, spanLpe]
      split <;> rfl
  case predicate =>
    intro k neg o
    refine ⟨?_, ?_, ?_⟩
    · rw [exec_dvg, execDvg, scalar_run _ acts (illSub_dvg ..), tokOn_predicate span]
    · rw [exec_brk, execBrk, scalar_run _ acts (illSub_brk ..), tokOn_predicate span]
    · rw [exec_lpe, execLpe, scalar_run _ acts (illSub_lpe ..), tokOn_predicate span]
  case cut =>
    intro k neg o ax b below cond cuts fresh
    refine ⟨?_, fun above l rest toks loop branches => ?_, fun l rest toks loop => ?_⟩
    · rw [exec_dvg_span acts span, cond]
      exact ⟨_, rfl, onSpan_splitAt below (neg == 1) (spanDvg o) cuts fresh⟩
    · rw [exec_brk_span acts span toks loop branches, cond]
      exact ⟨_, rfl, onSpan_splitAt below (neg == 1) (spanBrk l rest) cuts fresh⟩
    · rw [exec_lpe_span acts span toks loop, cond]
      exact ⟨_, rfl, onSpan_splitAt below (neg == 1) (spanLpe o l rest) cuts fresh⟩

end Sys2Proof.Laws
end

section

/-! ## Seating, unseating and waiting (01_spans_strands.md; O15)

First the boxes a strand unseats into. Each of the three passes of `runBoxes` joins boxes by one rule, and a rule that only
glues, so that the union has the items of both parts and as many, keeps the count and the members of a whole list. -/

namespace Sys2Proof.Machine

open Sys2Proof

/-! ### Boxes of items (R38) -/

/-- The ends of a box are in order. -/
def BoxOk (b : Box) : Prop := b.x0 ≤ b.x1 ∧ b.y0 ≤ b.y1 ∧ b.z0 ≤ b.z1

/-- A box of one layer. -/
def LayerBox (b : Box) : Prop := BoxOk b ∧ b.z1 = b.z0 + 1

/-- A box of one row. -/
def RowBox (b : Box) : Prop := LayerBox b ∧ b.y1 = b.y0 + 1

/-- A box holds the items of two others, and as many as they together. -/
def GluedOf (u b r : Box) : Prop :=
  boxVolume u = boxVolume b + boxVolume r ∧ ∀ i, inBox u i = true ↔ inBox b i = true ∨ inBox r i = true

/-- A rule that joins boxes of a kind joins them to one of that kind, and only glues. -/
def Glues (kind : Box → Prop) (on : Box → Box → Option Box) : Prop :=
  ∀ b r u, kind b → kind r → on b r = some u → kind u ∧ GluedOf u b r

/-- The number of items in a list of boxes, each counted with its box. -/
def volumes (l : List Box) : Nat := (l.map boxVolume).sum

/-- The item lies in a box of the list. -/
def InSome (l : List Box) (i : Item) : Prop := ∃ b ∈ l, inBox b i = true

theorem inSome_cons {b : Box} {l : List Box} {i : Item} : InSome (b :: l) i ↔ inBox b i = true ∨ InSome l i := by
  simp [InSome]

theorem inBox_iff {b : Box} {i : Item} :
    inBox b i = true ↔ (b.x0 ≤ i.x ∧ i.x < b.x1) ∧ (b.y0 ≤ i.y ∧ i.y < b.y1) ∧ b.z0 ≤ i.z ∧ i.z < b.z1 := by
  simp [inBox, and_assoc]

/-- The two parts of a range, cut anywhere, make up its length. -/
theorem range_split {lo mid hi : Nat} (h1 : lo ≤ mid) (h2 : mid ≤ hi) : hi - lo = (mid - lo) + (hi - mid) := by omega

theorem runOn_glues : Glues RowBox runOn := by
  rintro b r u ⟨⟨⟨xs, ys, zs⟩, bLayer⟩, bRow⟩ ⟨⟨⟨xs', _, _⟩, rLayer⟩, rRow⟩ join
  simp only [runOn, Option.ite_none_right_eq_some, Option.some.injEq] at join
  obtain ⟨⟨ex, ey, ez⟩, rfl⟩ := join
  refine ⟨⟨⟨⟨by simp only; omega, ys, zs⟩, bLayer⟩, bRow⟩, ?_, fun i => ?_⟩
  · simp only [boxVolume]
    rw [range_split xs (ex ▸ xs'), bRow, rRow, bLayer, rLayer, ex, ey, ez]
    ring
  · simp only [inBox_iff]
    omega

theorem rowOn_glues : Glues LayerBox rowOn := by
  rintro b r u ⟨⟨xs, ys, zs⟩, bLayer⟩ ⟨⟨_, ys', _⟩, rLayer⟩ join
  simp only [rowOn, Option.ite_none_right_eq_some, Option.some.injEq] at join
  obtain ⟨⟨ex0, ex1, ez, ey⟩, rfl⟩ := join
  refine ⟨⟨⟨xs, by simp only; omega, zs⟩, bLayer⟩, ?_, fun i => ?_⟩
  · simp only [boxVolume]
    rw [range_split ys (ey ▸ ys'), bLayer, rLayer, ex0, ex1, ey, ez]
    ring
  · simp only [inBox_iff]
    omega

theorem layerOn_glues : Glues BoxOk layerOn := by
  rintro b r u ⟨xs, ys, zs⟩ ⟨_, _, zs'⟩ join
  simp only [layerOn, Option.ite_none_right_eq_some, Option.some.injEq] at join
  obtain ⟨⟨ex0, ex1, ey0, ey1, ez⟩, rfl⟩ := join
  refine ⟨⟨xs, ys, by simp only; omega⟩, ?_, fun i => ?_⟩
  · simp only [boxVolume]
    rw [range_split zs (ez ▸ zs'), ex0, ex1, ey0, ey1, ez]
    ring
  · simp only [inBox_iff]
    omega

/-- A list of boxes of a kind that holds the items given, and as many. -/
structure Holds (kind : Box → Prop) (l : List Box) (n : Nat) (members : Item → Prop) : Prop where
  kinds : ∀ b ∈ l, kind b
  count : volumes l = n
  items : ∀ i, InSome l i ↔ members i

theorem Holds.weaken {kind kind' : Box → Prop} {l : List Box} {n : Nat} {members : Item → Prop}
    (h : Holds kind l n members) (weaker : ∀ b, kind b → kind' b) : Holds kind' l n members :=
  ⟨fun b hb => weaker b (h.kinds b hb), h.count, h.items⟩

theorem holds_self {kind : Box → Prop} {l : List Box} (kinds : ∀ b ∈ l, kind b) : Holds kind l (volumes l) (InSome l) :=
  ⟨kinds, rfl, fun _ => Iff.rfl⟩

/-- Adding a box to a list by a rule that glues adds its items. -/
theorem joinRun_holds {kind : Box → Prop} {on : Box → Box → Option Box} (glues : Glues kind on) {r : Box} (hr : kind r) :
    ∀ l, (∀ b ∈ l, kind b) → Holds kind (joinRun on l r) (volumes l + boxVolume r) fun i => InSome l i ∨ inBox r i = true
  | [], _ => ⟨by simpa [joinRun] using hr, by simp [joinRun, volumes], fun i => by simp [joinRun, InSome]⟩
  | b :: rest, kinds => by
    obtain ⟨hb, hrest⟩ := List.forall_mem_cons.1 kinds
    rw [joinRun]
    split
    case h_1 u join =>
      obtain ⟨hu, count, items⟩ := glues b r u hb hr join
      refine ⟨List.forall_mem_cons.2 ⟨hu, hrest⟩, ?_, fun i => ?_⟩
      · simp only [volumes, List.map_cons, List.sum_cons, count]
        omega
      · simp only [inSome_cons, items]
        tauto
    case h_2 =>
      obtain ⟨kinds', count, items⟩ := joinRun_holds glues hr rest hrest
      refine ⟨List.forall_mem_cons.2 ⟨hb, kinds'⟩, ?_, fun i => ?_⟩
      · simp only [volumes, List.map_cons, List.sum_cons] at count ⊢
        omega
      · simp only [inSome_cons, items]
        tauto

/-- So does adding the boxes of a list one by one. -/
theorem foldl_joinRun_holds {kind : Box → Prop} {on : Box → Box → Option Box} (glues : Glues kind on) :
    ∀ rs acc, (∀ b ∈ rs, kind b) → (∀ b ∈ acc, kind b) →
      Holds kind (rs.foldl (joinRun on) acc) (volumes acc + volumes rs) fun i => InSome acc i ∨ InSome rs i
  | [], acc, _, hacc => ⟨hacc, by simp [volumes], fun i => by simp [InSome]⟩
  | r :: rs, acc, hrs, hacc => by
    obtain ⟨hr, hrest⟩ := List.forall_mem_cons.1 hrs
    obtain ⟨kinds, count, items⟩ := joinRun_holds glues hr acc hacc
    obtain ⟨kinds', count', items'⟩ := foldl_joinRun_holds glues rs (joinRun on acc r) hrest kinds
    refine ⟨kinds', ?_, fun i => ?_⟩
    · rw [List.foldl_cons, count', count]
      simp only [volumes, List.map_cons, List.sum_cons]
      omega
    · rw [List.foldl_cons, items', items, inSome_cons, or_assoc]

/-- A pass of joining keeps what a list holds. -/
theorem joinPass_holds {kind : Box → Prop} {on : Box → Box → Option Box} (glues : Glues kind on) {l : List Box} {n : Nat}
    {members : Item → Prop} (h : Holds kind l n members) : Holds kind (l.foldl (joinRun on) []) n members := by
  obtain ⟨kinds, count, items⟩ := foldl_joinRun_holds glues l [] h.kinds (by simp)
  refine ⟨kinds, ?_, fun i => ?_⟩
  · rw [count, ← h.count, volumes, List.map_nil, List.sum_nil, Nat.zero_add]
  · rw [items, ← h.items]
    simp [InSome]

theorem inBox_itemBox {i j : Item} : inBox (itemBox j) i = true ↔ i = j := by
  obtain ⟨x, y, z⟩ := i
  obtain ⟨x', y', z'⟩ := j
  simp only [inBox_iff, itemBox, Item.mk.injEq]
  omega

/-- The boxes of items, one each, are rows and hold those items, each once. -/
theorem itemBoxes_holds (l : List Item) : Holds RowBox (l.map itemBox) l.length fun i => i ∈ l := by
  refine ⟨?_, ?_, fun i => ?_⟩
  · intro b hb
    obtain ⟨j, _, rfl⟩ := List.mem_map.1 hb
    simp [RowBox, LayerBox, BoxOk, itemBox]
  · have one : boxVolume ∘ itemBox = fun _ => 1 := by
      funext j
      simp [boxVolume, itemBox]
    simp [volumes, one]
  · simp [InSome, inBox_itemBox]

/-- R38: the boxes a strand's items make hold exactly those items, and as many. -/
theorem runBoxes_holds (l : List Item) : Holds BoxOk (runBoxes l) l.length fun i => i ∈ l := by
  have runs : Holds RowBox ((l.map itemBox).foldl (joinRun runOn) []) l.length fun i => i ∈ l :=
    joinPass_holds runOn_glues (itemBoxes_holds l)
  rw [List.foldl_map] at runs
  exact joinPass_holds layerOn_glues
    ((joinPass_holds rowOn_glues (runs.weaken fun _ h => h.1)).weaken fun _ h => h.1)

/-! ### What a span does not issue before it is seated (R25) -/

theorem inStrand_span {s : State} {t : Thread} (span : t.seat = none) (k : Seat → Out) :
    inStrand s t k = .next (seatSpan s s.cur t none) := by
  simp [inStrand, span]

theorem inRegion_span {t : Thread} (span : t.seat = none) : inRegion t = false := by
  simp [inRegion, span]

theorem inStrand_strand {s : State} {t : Thread} {st : Seat} (strand : t.seat = some st) (k : Seat → Out) :
    inStrand s t k = k st := by
  simp [inStrand, strand]

theorem fault_strand {s : State} {t : Thread} {st : Seat} (strand : t.seat = some st) (cause sub : Nat) :
    fault s t cause sub = .next (takeStop s s.cur (mkStop s t .fault cause sub t.pc)) := by
  simp [fault, faultWith, strand]

theorem exec_seatsFirst {s : State} {t : Thread} {d a : SReg} {n : BitVec 6} {w : BitVec 32} (acts : Acts s t)
    (span : t.seat = none) (hd : d ≠ 0) (aligned : w.toNat % 3 = 0) :
    ∀ i ∈ seatsFirst d a n w, exec i s = .next (seatSpan s s.cur t none) := by
  have outside := inRegion_span span
  simp only [seatsFirst, List.forall_mem_cons, List.not_mem_nil, false_imp_iff, implies_true, and_true]
  refine ⟨?seat, ?trap, ?lx, ?arw, ?arv, ?wt, ?init⟩
  case seat => rw [exec_seat, execSeat, scalarOutside_run _ acts illSub_seat outside, inStrand_span span]
  case trap => rw [exec_trap, execTrap, scalar_run _ acts (illSub_trap n), inStrand_span span]
  case lx =>
    have fine : illSub (.lx w) = none := by simp [illSub_lx, defect, aligned]
    rw [exec_lx, execLx, scalar_run _ acts fine, inStrand_span span]
  case arw =>
    have fine : illSub (.barArw a 0) = none := by simp [illSub_barArw, defect]
    rw [exec_barArw, execBarArw, scalarOutside_run _ acts fine outside, barArrival, inStrand_span span]
  case arv =>
    have fine : illSub (.barArv d a 0) = none := by
      rw [illSub_barArv, zeroDst_of_ne hd]
      simp [defect, leastDefect]
    rw [exec_barArv, execBarArv, scalarOutside_run _ acts fine outside, barArrival, inStrand_span span]
  case wt => rw [exec_barWt, execBarWt, scalarOutside_run _ acts (illSub_barWt a d) outside, inStrand_span span]
  case init =>
    have fine : illSub (.barInit d a) = none := by simpa [illSub_barInit, defect] using hd
    rw [exec_barInit, execBarInit, scalarOutside_run _ acts fine outside, inStrand_span span]

theorem exec_srd_seats {s : State} {t : Thread} {d r : BitVec 6} (acts : Acts s t) (span : t.seat = none) (hd : d ≠ 0)
    (hr : r ∈ ([5, 6, 7, 8, 13, 28] : List (BitVec 6))) : exec (.srd d r) s = .next (seatSpan s s.cur t none) := by
  obtain ⟨seats, known⟩ : seatsRead r.toNat = true ∧ ¬ 29 ≤ r.toNat := by
    revert r
    decide
  have fine : illSub (.srd d r) = none := by
    rw [illSub_srd, zeroDst_of_ne hd]
    simp [defect, leastDefect, known]
  rw [exec_srd, execSrd, scalar_run _ acts fine]
  simp [seats, span]

/-! ### Outside a region (R211 to R219) -/

/-- A snooze until a time that has come does nothing. -/
theorem snoozeTo_eq {s : State} {t : Thread} {deadline : Nat} :
    snoozeTo s t deadline = .next (if deadline ≤ rtOf s t then afterNone s t else
      putThr s s.cur { t with wait := .snooze deadline }) := by
  unfold snoozeTo
  split <;> rfl

section

variable {s : State} {t : Thread} (acts : Acts s t)
include acts

theorem exec_lx_strand {st : Seat} (strand : t.seat = some st) {w : BitVec 32} (aligned : w.toNat % 3 = 0) :
    exec (.lx w) s = .next (putThr s s.cur { t with
      pc := t.pc + 8, blockNo := t.blockNo + 1, seat := some { st with
        blocks := st.blocks ++ [⟨t.blockNo + 1, t.seqNo, w.toNat, 0, st.am, t.sregs, st.kregs⟩] } }) := by
  have fine : illSub (.lx w) = none := by simp [illSub_lx, defect, aligned]
  rw [exec_lx, execLx, scalar_run _ acts fine, inStrand_strand strand]
  rfl

theorem exec_trap_strand {st : Seat} (strand : t.seat = some st) (n : BitVec 6) :
    exec (.trap n) s =
      .next (takeStop (afterNone s t) s.cur (mkStop s { t with pc := t.pc + 4 } .trap 0x21 n.toNat (t.pc + 4))) := by
  rw [exec_trap, execTrap, scalar_run _ acts (illSub_trap n), inStrand_strand strand]
  rfl

theorem exec_snooze_u {a : SReg} {v : Word} (reg : getS t a = .u v) :
    exec (.snooze a) s = .next (if v = 0 then afterNone s t else
      putThr s s.cur { t with wait := .snooze (rtOf s t + min v.toNat 1000000) }) := by
  have now : rtOf s t + min v.toNat 1000000 ≤ rtOf s t ↔ v = 0 := by
    have zero : v.toNat = 0 ↔ v = 0 := BitVec.toNat_inj (y := 0)
    rw [← zero]
    omega
  rw [exec_snooze, execSnooze, scalar_run _ acts (illSub_snooze a), reg, needU_u, snoozeTo_eq]
  simp only [now]

theorem exec_snoozeAbs_u {a : SReg} {v : Word} (reg : getS t a = .u v) :
    exec (.snoozeAbs a) s = .next (if v.toNat ≤ rtOf s t then afterNone s t else
      putThr s s.cur { t with wait := .snooze (min v.toNat (rtOf s t + 1000000)) }) := by
  have now : min v.toNat (rtOf s t + 1000000) ≤ rtOf s t ↔ v.toNat ≤ rtOf s t := by omega
  rw [exec_snoozeAbs, execSnoozeAbs, scalar_run _ acts (illSub_snoozeAbs a), reg, needU_u, snoozeTo_eq]
  simp only [now]

variable (outside : inRegion t = false)
include outside

theorem exec_seat_strand {st : Seat} (strand : t.seat = some st) : exec .seat s = .next (afterNone s t) := by
  rw [exec_seat, execSeat, scalarOutside_run _ acts illSub_seat outside, inStrand_strand strand]
  rfl

theorem exec_unseat_strand {st : Seat} (strand : t.seat = some st) :
    exec .unseat s = .next (if unseatOk s s.cur t st = true then unseatStrand s s.cur t st (t.pc + 4) .none
      else takeStop s s.cur (mkStop s t .fault 0x02 0x02 t.pc)) := by
  rw [exec_unseat, execUnseat, scalarOutside_run _ acts illSub_unseat outside]
  simp only [strand, fault_strand strand]
  split <;> rfl

theorem exec_unseat_span (span : t.seat = none) : exec .unseat s = .next (afterNone s t) := by
  rw [exec_unseat, execUnseat, scalarOutside_run _ acts illSub_unseat outside]
  simp only [span]
  rfl

theorem exec_sjoin_strand {st : Seat} (strand : t.seat = some st) (w : BitVec 11) :
    exec (.sjoin w) s = .next (if unseatOk s s.cur t st = true then
        mergeHeld (unseatStrand s s.cur t st t.pc (.sjoin (dieCc (dieOf s (st.core / 128)) s.time + (w.toNat + 1))))
      else afterNone s t) := by
  rw [exec_sjoin, execSjoin, scalarOutside_run _ acts (illSub_sjoin w) outside]
  simp only [strand]
  split <;> rfl

theorem exec_sjoin_span (span : t.seat = none) (w : BitVec 11) :
    exec (.sjoin w) s = .next (mergeHeld (putThr s s.cur { t with
      wait := .sjoin (dieCc (dieOf s (physDie s t)) s.time + (w.toNat + 1)) })) := by
  rw [exec_sjoin, execSjoin, scalarOutside_run _ acts (illSub_sjoin w) outside]
  simp only [span]
  rfl

end

end Sys2Proof.Machine

namespace Sys2Proof.Laws

open Sys2Proof Sys2Proof.Machine

/-- Settles O15: one equation per instruction, in a span and in a strand, and what `runBoxes` holds. -/
theorem seating : Obligations.Seating := by
  unfold Obligations.Seating
  refine ⟨?seatsFirst, ?outsideRegion, ?boxes⟩
  case seatsFirst =>
    intro s t d a n w acts span hd aligned
    exact ⟨exec_seatsFirst acts span hd aligned, fun r hr => exec_srd_seats acts span hd hr⟩
  case outsideRegion =>
    intro s t acts outside
    refine ⟨fun st strand => ⟨exec_seat_strand acts outside strand, fun w aligned => exec_lx_strand acts strand aligned,
      exec_trap_strand acts strand, fun may => ?_, fun mayNot => ⟨?_, fun w => ?_⟩, fun may w => ?_⟩,
      fun span => ⟨exec_unseat_span acts outside span, exec_sjoin_span acts outside span⟩,
      fun a v reg => ⟨exec_snooze_u acts reg, exec_snoozeAbs_u acts reg⟩⟩
    · rw [exec_unseat_strand acts outside strand, if_pos may]
    · rw [exec_unseat_strand acts outside strand, if_neg (by simp [mayNot])]
    · rw [exec_sjoin_strand acts outside strand, if_neg (by simp [mayNot])]
    · rw [exec_sjoin_strand acts outside strand, if_pos may]
  case boxes =>
    intro l
    obtain ⟨_, count, items⟩ := runBoxes_holds l
    exact ⟨count, items⟩

end Sys2Proof.Laws
end

section

/-! ## A tile of a seating span takes a core (01_spans_strands.md; O49)

What the core does first, dropping copies and applying the carve-out, leaves threads, workgroups, contexts and numbers
alone. Then the strands are seated one by one, each under the next number, so none of them disturbs those before it. -/

namespace Sys2Proof.Machine

open Sys2Proof

/-! ### The carve-out of a core (R61) -/

theorem writeBack_eq (s : State) (l : L2Line) : ∃ m, writeBack s l = { s with mem := m } := by
  unfold writeBack
  split_ifs <;> exact ⟨_, rfl⟩

theorem trimPlace_eq (s : State) (p : Place) (line : Nat) : ∃ c, trimPlace s p line = { s with coh := c } := by
  unfold trimPlace
  extract_lets here
  split
  · exact ⟨_, rfl⟩
  · split
    · exact ⟨_, rfl⟩
    · exact ⟨_, rfl⟩

theorem parkedHome_eq (s : State) (line : Nat) : ∃ m c, parkedHome s line = { s with mem := m, coh := c } := by
  unfold parkedHome
  split
  · exact ⟨_, _, rfl⟩
  · rename_i k _
    obtain ⟨m, eq⟩ := writeBack_eq (dropLocket s line) (unparked k)
    exact ⟨m, _, eq⟩

theorem quadOrHome_eq (s : State) (k : Locket) (core : Nat) : ∃ m c, quadOrHome s k core = { s with mem := m, coh := c } := by
  unfold quadOrHome
  split
  · obtain ⟨c, eq⟩ := trimPlace_eq (revokeParked s k.line) (.quad (core / 4)) k.line
    rw [makeRoom, eq]
    exact ⟨_, _, rfl⟩
  · exact parkedHome_eq s k.line

theorem clearL1Parked_eq (s : State) (core : Nat) : ∃ m c, clearL1Parked s core = { s with mem := m, coh := c } :=
  List.foldlRecOn _ _ (motive := fun acc => ∃ m c, acc = { s with mem := m, coh := c }) ⟨_, _, rfl⟩ fun acc h k _ => by
    obtain ⟨m, c, rfl⟩ := h
    obtain ⟨m', c', eq⟩ := quadOrHome_eq { s with mem := m, coh := c } k core
    exact ⟨m', c', eq⟩

/-- A core that applies a carve-out, after copies of other contexts have gone, changes nothing but memory, what is on chip and the
die's own record. -/
theorem applyCarve_eq (s : State) (core carve : Nat) :
    ∃ m c d, applyCarve s core carve = { s with mem := m, coh := c, dies := d } := by
  obtain ⟨m, c, eq⟩ := clearL1Parked_eq s core
  simp only [applyCarve, eq]
  split
  · exact ⟨_, _, _, rfl⟩
  · exact ⟨_, _, _, rfl⟩

/-! ### Seating strands (R32) -/

/-- A state that has come from another by listing threads and operations under new numbers: workgroups, contexts and the
threads before stand as they were. -/
structure AddsTo (s s' : State) : Prop where
  wgs : s'.wgs = s.wgs
  ctxs : s'.ctxs = s.ctxs
  next : s.nextId ≤ s'.nextId
  threads : ∀ n, n < s.nextId → tabFind s'.threads n = tabFind s.threads n

theorem AddsTo.refl (s : State) : AddsTo s s := ⟨rfl, rfl, Nat.le_refl _, fun _ _ => rfl⟩

theorem AddsTo.trans {a b c : State} (h1 : AddsTo a b) (h2 : AddsTo b c) : AddsTo a c :=
  ⟨h2.wgs.trans h1.wgs, h2.ctxs.trans h1.ctxs, Nat.le_trans h1.next h2.next, fun n hn =>
    (h2.threads n (Nat.lt_of_lt_of_le hn h1.next)).trans (h1.threads n hn)⟩

/-- A thread that is a strand of a span `t` at a position of a workgroup: it has the span's PC and registers and its items, and
lane registers that hold 0 where no strand of the context has given up rows of its partition (R32, R394). -/
def StrandOf (s : State) (t : Thread) (wg core j : Nat) (m : W32) (u : Thread) : Prop :=
  ∃ st, u.seat = some st ∧ u.pc = t.pc ∧ u.sregs = t.sregs ∧ st.wg = wg ∧ st.core = core ∧ st.six = j ∧ st.am = m ∧
    st.seated = m ∧ ((ctxOf s t.ctx).rows.contains (core * 4 + st.part) = false →
      ∀ s' k L, k < 248 → readV s' st k L = 0)

theorem StrandOf.of_ctxs {s s' : State} {t u : Thread} {wg core j : Nat} {m : W32} (same : s'.ctxs = s.ctxs)
    (h : StrandOf s' t wg core j m u) : StrandOf s t wg core j m u := by
  rwa [StrandOf, ctxOf, same] at h

/-- A new seat has lane registers that hold 0 where no strand of its context has given up rows of the partition. -/
theorem readV_newSeat {s : State} {ctx wg six core part : Nat} {am : W32}
    (fresh : (ctxOf s ctx).rows.contains (core * 4 + part) = false) (s' : State) {k : Nat} (L : Nat) (hk : k < 248) :
    readV s' (newSeat s ctx wg six core part am) k L = 0 := by
  have zero : (newSeat s ctx wg six core part am).zeroV = BitVec.allOnes 248 := if_neg (by simpa using fresh)
  simp only [readV, zero, BitVec.getLsbD_allOnes, hk]
  rfl

/-- An operation is listed under the next number. -/
def listOp (s : State) (o : Op) : State := { s with ops := tabPut s.ops s.nextId o, nextId := s.nextId + 1 }

theorem addsTo_listOp (s : State) (o : Op) : AddsTo s (listOp s o) := ⟨rfl, rfl, Nat.le_succ _, fun _ _ => rfl⟩

theorem addsTo_foldl_listOp (ops : List Op) (s : State) : AddsTo s (ops.foldl listOp s) :=
  List.foldlRecOn ops listOp (AddsTo.refl s) fun acc h o _ => h.trans (addsTo_listOp acc o)

/-- A thread is listed under the next number. -/
def listThr (s : State) (t : Thread) : State := { putThr s s.nextId t with nextId := s.nextId + 1 }

theorem addsTo_listThr (s : State) (t : Thread) : AddsTo s (listThr s t) :=
  ⟨rfl, rfl, Nat.le_succ _, fun _ hn => tabFind_tabPut_ne _ (Nat.ne_of_lt hn) _⟩

/-- One strand is seated under the next number. -/
theorem seatStrand_adds (s : State) (span : Nat) (t : Thread) (wg core : Nat) (p : (Nat × W32) × Nat) :
    AddsTo s (seatStrand s span t none wg core p) ∧ s.nextId < (seatStrand s span t none wg core p).nextId ∧
      ∃ u, tabFind (seatStrand s span t none wg core p).threads s.nextId = some u ∧ StrandOf s t wg core p.1.1 p.1.2 u := by
  unfold seatStrand
  extract_lets id am t1 mine _ s1
  have adds : AddsTo (listThr s t1) s1 := addsTo_foldl_listOp mine (listThr s t1)
  refine ⟨(addsTo_listThr s t1).trans adds, adds.next, t1, ?_, newSeat s t.ctx wg p.1.1 core p.2 am, rfl, rfl, rfl, rfl, rfl,
    rfl, rfl, rfl, fun fresh s' k L hk => readV_newSeat fresh s' L hk⟩
  calc tabFind s1.threads s.nextId = tabFind (listThr s t1).threads s.nextId := adds.threads _ (Nat.lt_succ_self _)
    _ = some t1 := tabFind_tabPut_self ..

/-- Strands seated one after another: each stands at the end, under a number of its own. -/
theorem foldl_seatStrand (span : Nat) (t : Thread) (wg core : Nat) (ps : List ((Nat × W32) × Nat)) (s : State) :
    AddsTo s (ps.foldl (fun acc p => seatStrand acc span t none wg core p) s) ∧
      ∀ p ∈ ps, ∃ n u, s.nextId ≤ n ∧
        tabFind (ps.foldl (fun acc p => seatStrand acc span t none wg core p) s).threads n = some u ∧
        StrandOf s t wg core p.1.1 p.1.2 u := by
  induction ps generalizing s with
  | nil => exact ⟨.refl s, by simp⟩
  | cons q ps ih =>
    obtain ⟨adds, later, u, found, strand⟩ := seatStrand_adds s span t wg core q
    obtain ⟨addsRest, rest⟩ := ih (seatStrand s span t none wg core q)
    refine ⟨adds.trans addsRest, List.forall_mem_cons.2 ⟨?_, fun p hp => ?_⟩⟩
    · exact ⟨s.nextId, u, Nat.le_refl _, (addsRest.threads _ later).trans found, strand⟩
    · obtain ⟨n, u', hn, found', strand'⟩ := rest p hp
      exact ⟨n, u', Nat.le_trans adds.next hn, found', strand'.of_ctxs adds.ctxs⟩

/-- Every element of a list has a partition to go to. -/
theorem mem_zip_partsFor {s : State} {core : Nat} {ms : List (Nat × W32)} {x : Nat × W32} (hx : x ∈ ms) :
    ∃ part, (x, part) ∈ ms.zip (partsFor s core ms.length) := by
  have all : (ms.zip (partsFor s core ms.length)).map Prod.fst = ms := List.map_fst_zip (by simp [partsFor])
  rw [← all] at hx
  obtain ⟨⟨y, part⟩, hy, rfl⟩ := List.mem_map.1 hx
  exact ⟨part, hy⟩

/-! ### Seating a tile (R27, R28) -/

theorem tileSeated_wgs (s : State) (id tile : Nat) : (tileSeated s id tile).wgs = s.wgs := by
  unfold tileSeated
  split
  · split
    · split <;> rfl
    · rfl
  · rfl

/-- That a tile of a span is seated changes no thread but the span. -/
theorem tileSeated_threads {s : State} {id tile n : Nat} (other : n ≠ id) :
    tabFind (tileSeated s id tile).threads n = tabFind s.threads n := by
  unfold tileSeated
  split
  · split
    · split
      · exact tabFind_tabDel_ne _ other
      · exact tabFind_tabPut_ne _ other _
    · rfl
  · rfl

/-- The state in which a core has a new workgroup for a tile of a thread's launch. -/
def withNewWg (s : State) (t : Thread) (tile core : Nat) : State :=
  let s1 := applyCarve (changeOwner s core t.ctx) core (launchOf s t.launch).lrec.carve
  { s1 with wgs := tabPut s1.wgs s1.nextId (newWg (launchOf s t.launch) t.launch tile core), nextId := s1.nextId + 1 }

theorem withNewWg_eq (s : State) (t : Thread) (tile core : Nat) :
    ∃ m c d, withNewWg s t tile core = { s with
      mem := m, coh := c, dies := d, wgs := tabPut s.wgs s.nextId (newWg (launchOf s t.launch) t.launch tile core),
      nextId := s.nextId + 1 } := by
  obtain ⟨m, c, d, eq⟩ := applyCarve_eq (changeOwner s core t.ctx) core (launchOf s t.launch).lrec.carve
  simp only [withNewWg, eq]
  exact ⟨_, _, _, rfl⟩

theorem seatTile_eq {s : State} {id tile core : Nat} {t : Thread} {ms : List (Nat × W32)}
    (noWg : wgOfTile s t.launch tile = none) :
    seatTile s id t none tile core ms = hbarAdvance (tileSeated ((ms.zip (partsFor s core ms.length)).foldl
      (fun acc p => seatStrand acc id t none s.nextId core p) (withNewWg s t tile core)) id tile) t.launch := by
  obtain ⟨m, c, d, eq⟩ := applyCarve_eq (changeOwner s core t.ctx) core (launchOf s t.launch).lrec.carve
  simp only [seatTile, noWg, withNewWg, eq]
  rfl

/-- A tile without a workgroup gets a new one under the next number, and there a strand for each mask. -/
theorem seatTile_new {s : State} {id tile core : Nat} {t : Thread} {ms : List (Nat × W32)}
    (noWg : wgOfTile s t.launch tile = none) (listed : id < s.nextId) :
    tabFind (seatTile s id t none tile core ms).wgs s.nextId = some (newWg (launchOf s t.launch) t.launch tile core) ∧
      ∀ j m, (j, m) ∈ ms → ∃ n u, tabFind (seatTile s id t none tile core ms).threads n = some u ∧ s.nextId < n ∧
        StrandOf s t s.nextId core j m u := by
  obtain ⟨mem, coh, dies, start⟩ := withNewWg_eq s t tile core
  obtain ⟨adds, strands⟩ :=
    foldl_seatStrand id t s.nextId core (ms.zip (partsFor s core ms.length)) (withNewWg s t tile core)
  rw [seatTile_eq noWg]
  refine ⟨?_, fun j m hm => ?_⟩
  · rw [hbarAdvance, modLaunch_wgs, tileSeated_wgs, adds.wgs, start]
    exact tabFind_tabPut_self ..
  · obtain ⟨part, hp⟩ := mem_zip_partsFor (s := s) (core := core) hm
    obtain ⟨n, u, hn, found, strand⟩ := strands _ hp
    have later : s.nextId < n := by
      rw [start] at hn
      exact hn
    refine ⟨n, u, ?_, later, strand.of_ctxs (by rw [start])⟩
    rw [hbarAdvance, modLaunch_threads, tileSeated_threads (Nat.ne_of_gt (Nat.lt_trans listed later))]
    exact found

theorem mem_tileMasks {r : LaunchRec} {b : Box} {tile j : Nat} {m : W32} :
    (j, m) ∈ tileMasks r b tile ↔ m ≠ 0 ∧ j < (r.wx * r.wy * r.wz + 31) / 32 ∧
      m = maskOf fun k => decide (32 * j + k < r.wx * r.wy * r.wz) &&
        inRange r (posItem r tile (32 * j + k)) && inBox b (posItem r tile (32 * j + k)) := by
  simp only [tileMasks, List.mem_filter, List.mem_map, List.mem_range, strandPositions, Prod.mk.injEq, bne_iff_ne]
  constructor
  · rintro ⟨⟨i, hi, rfl, rfl⟩, h⟩
    exact ⟨h, hi, rfl⟩
  · rintro ⟨h, hj, rfl⟩
    exact ⟨⟨j, hj, rfl, rfl⟩, h⟩

/-- What a table answers is listed there. -/
theorem mem_of_tabFind {α : Type} {l : Tab α} {k : Nat} {v : α} (h : tabFind l k = some v) : (k, v) ∈ l := by
  induction l with
  | nil => simp [tabFind] at h
  | cons p l ih =>
    obtain ⟨k', v'⟩ := p
    rw [tabFind] at h
    split at h
    case isTrue same =>
      cases h
      cases same
      exact List.mem_cons_self ..
    case isFalse => exact List.mem_cons_of_mem _ (ih h)

theorem onThr_waits {s : State} {id : Nat} {t : Thread} (waits : Waits s id t) (name : String) (k : Thread → Out) :
    onThr s name id k = k t := by
  obtain ⟨found, running, _⟩ := waits
  simp [onThr, found, running]

/-! ### The events -/

theorem execTileSeat_runs {s : State} {id tile : Nat} {t : Thread} {tiles : List (Nat × Nat × Nat)} {at0 core moved : Nat}
    (waits : Waits s id t) (seating : t.wait = .seating tiles none)
    (listed : (tiles.find? fun x => x.1 == tile) = some (tile, at0, moved)) (quiet : spanQuiet s id = true)
    (running : (ctxOf s t.ctx).fcb.state = 0) (noWg : wgOfTile s t.launch tile = none)
    (placed : placeTile s t.launch tile (tileMasks (launchOf s t.launch).lrec t.box tile).length (moved == 1) = some core)
    (first : outranked s t.launch core = false) :
    exec (.tileSeat id tile) s =
      .next (seatTile s id t none tile core (tileMasks (launchOf s t.launch).lrec t.box tile)) := by
  have mayGo : (t.stop.isSome || !spanQuiet s id || seatingWaits s t.ctx) = false := by
    have ⟨_, _, noStop⟩ := waits
    simp [noStop, quiet, seatingWaits, running]
  rw [exec_tileSeat, execTileSeat, onThr_waits waits]
  simp only [seating, listed, noWg, placed, mayGo, first]
  rfl

theorem execPlacementTimeout_moves {s : State} {id tile : Nat} {t : Thread} {tiles : List (Nat × Nat × Nat)} {at0 : Nat}
    (waits : Waits s id t) (seating : t.wait = .seating tiles none)
    (listed : (tiles.find? fun x => x.1 == tile) = some (tile, at0, 0)) (noWg : wgOfTile s t.launch tile = none)
    (noCore : placeTile s t.launch tile (tileMasks (launchOf s t.launch).lrec t.box tile).length false = none)
    (late : at0 + 10000 ≤ rtNs s) :
    exec (.placementTimeout id tile) s = .next (putThr s id { t with
      wait := .seating (tiles.map fun x => if x.1 = tile then (x.1, x.2.1, 1) else x) none }) := by
  have waited : (tiles.any fun x => x.1 == tile && x.2.2 == 0 && x.2.1 + 10000 ≤ rtNs s) = true :=
    List.any_eq_true.2 ⟨_, List.mem_of_find?_eq_some listed, by simpa using late⟩
  rw [exec_placementTimeout, execPlacementTimeout, onThr_waits waits]
  simp only [seating, noWg, noCore, waited]
  rfl

end Sys2Proof.Machine

namespace Sys2Proof.Laws

open Sys2Proof Sys2Proof.Machine

/-- Settles O49: the tile goes where placement says (`execTileSeat_runs`), and `seatTile_new` says what stands there. -/
theorem tileSeats : Obligations.TileSeats := by
  unfold Obligations.TileSeats
  intro s id tile t tiles at0 core moved waits seating listed l ms runs
  refine ⟨?seats, fun j m => mem_tileMasks, ?timeout⟩
  case seats =>
    rintro ⟨quiet, running⟩ noWg placed first numbers
    have ⟨found, _, _⟩ := waits
    obtain ⟨newGroup, strands⟩ := seatTile_new (core := core) (ms := ms) noWg (numbers _ (mem_of_tabFind found))
    refine ⟨_, execTileSeat_runs waits seating listed quiet running noWg placed first, newGroup, fun j m hm => ?_⟩
    obtain ⟨n, u, found, later, st, seat, pc, sregs, wg, onCore, six, am, seated, zero⟩ := strands j m hm
    exact ⟨n, u, st, found, later, seat, pc, sregs, wg, onCore, six, am, seated, fun fresh k L hk _ => zero fresh _ k L hk⟩
  case timeout =>
    rintro noWg noCore rfl late
    exact execPlacementTimeout_moves waits seating listed noWg noCore late

end Sys2Proof.Laws
end

section

/-! ## Operations return (02_memory_reader_sets.md; O47)

An operation whose lanes have ended returns: `opStop` says whether it ends in a fault, and `opReturn` then delivers its results
or stops its strand. The write completion times of the second half are maxima over leases, each the greatest element of the
set of the times that count. -/

namespace Sys2Proof.Machine

open Sys2Proof

/-! ### Lane registers read back -/

theorem readV_writeV_self (s : State) (st : Seat) (r L : Nat) (v : W32) : readV s (writeV st r L v) r L = v := by
  simp [readV, writeV]

theorem readV_writeV_ne {r r' L L' : Nat} (other : r' * 32 + L' ≠ r * 32 + L) (s : State) (st : Seat) (v : W32) :
    readV s (writeV st r L v) r' L' = readV s st r' L' := by
  have same : tabFind (writeV st r L v).vregs (r' * 32 + L') = tabFind st.vregs (r' * 32 + L') := tabFind_tabPut_ne _ other v
  rw [readV, readV, same]
  rfl

theorem readReg_writeReg_self (s : State) (st : Seat) (r ty L v : Nat) :
    readReg s (writeReg st r (regBits ty) L v) r (regBits ty) L = v % 2 ^ regBits ty := by
  have low : r * 32 + L ≠ (r + 1) * 32 + L := by omega
  have widths : regBits ty = 64 ∨ regBits ty = 32 := ite_eq_or_eq ..
  rcases widths with pair | single
  · simp only [pair, readReg, writeReg, if_true, readV_writeV_self, readV_writeV_ne low, BitVec.toNat_ofNat]
    omega
  · simp [single, readReg, writeReg, readV_writeV_self]

theorem readReg_writeReg_otherLane {L L' : Nat} (other : L' ≠ L) (hL : L < 32) (hL' : L' < 32) (s : State) (st : Seat)
    (r r' w w' v : Nat) : readReg s (writeReg st r w L v) r' w' L' = readReg s st r' w' L' := by
  have apart (k k' : Nat) : k' * 32 + L' ≠ k * 32 + L := by omega
  unfold writeReg
  dsimp only
  split <;> simp only [readReg, readV_writeV_ne (apart _ _)]

/-! ### Results of lanes come to their registers -/

/-- One lane's result comes to its register. -/
def takeLane (regs : List (Nat × Nat)) (ty : Nat) (st : Seat) (a : LaneAcc) : Seat :=
  match regs.find? fun r => r.1 == a.lane with
  | some r => writeReg st r.2 (regBits ty) a.lane (loadBits ty a.res.toNat)
  | none => st

theorem readReg_takeLane_self {regs : List (Nat × Nat)} {a : LaneAcc} {r : Nat}
    (reg : (regs.find? fun x => x.1 == a.lane) = some (a.lane, r)) (s : State) (ty : Nat) (st : Seat) :
    readReg s (takeLane regs ty st a) r (regBits ty) a.lane = loadBits ty a.res.toNat % 2 ^ regBits ty := by
  simp only [takeLane, reg, readReg_writeReg_self]

theorem readReg_takeLane_ne {a : LaneAcc} {L : Nat} (other : L ≠ a.lane) (ha : a.lane < 32) (hL : L < 32) (s : State)
    (regs : List (Nat × Nat)) (ty : Nat) (st : Seat) (r w : Nat) :
    readReg s (takeLane regs ty st a) r w L = readReg s st r w L := by
  unfold takeLane
  split
  · exact readReg_writeReg_otherLane other ha hL ..
  · rfl

theorem readReg_foldl_takeLane_ne {l : List LaneAcc} {L : Nat} (other : L ∉ l.map (·.lane)) (inRow : ∀ a ∈ l, a.lane < 32)
    (hL : L < 32) (s : State) (regs : List (Nat × Nat)) (ty : Nat) (st : Seat) (r w : Nat) :
    readReg s (l.foldl (takeLane regs ty) st) r w L = readReg s st r w L := by
  induction l generalizing st with
  | nil => rfl
  | cons b l ih =>
    obtain ⟨notB, notL⟩ := not_or.1 (mt List.mem_cons.2 other)
    obtain ⟨hb, hl⟩ := List.forall_mem_cons.1 inRow
    rw [List.foldl_cons, ih notL hl, readReg_takeLane_ne notB hb hL]

/-- No two lanes share a row of a register, so the result of each stands when all have come. -/
theorem readReg_foldl_takeLane {l : List LaneAcc} (lanes : (l.map (·.lane)).Nodup) (inRow : ∀ a ∈ l, a.lane < 32)
    {regs : List (Nat × Nat)} {a : LaneAcc} {r : Nat} (ha : a ∈ l)
    (reg : (regs.find? fun x => x.1 == a.lane) = some (a.lane, r)) (s : State) (ty : Nat) (st : Seat) :
    readReg s (l.foldl (takeLane regs ty) st) r (regBits ty) a.lane = loadBits ty a.res.toNat % 2 ^ regBits ty := by
  induction l generalizing st with
  | nil => exact absurd ha List.not_mem_nil
  | cons b l ih =>
    obtain ⟨once, lanes⟩ := List.nodup_cons.1 lanes
    obtain ⟨hb, hl⟩ := List.forall_mem_cons.1 inRow
    rw [List.foldl_cons]
    rcases List.mem_cons.1 ha with rfl | ha
    · rw [readReg_foldl_takeLane_ne once hl hb, readReg_takeLane_self reg]
    · exact ih lanes hl ha _

/-! ### Operations whose lanes have ended -/

theorem laneEnded_of_done {a : LaneAcc} (done : a.phase = .done) : laneEnded a = true := by
  simp [laneEnded, done]

theorem laneEnded_of_failed {a : LaneAcc} {cause sub w6 w7 : Nat} (failed : a.phase = .failed cause sub w6 w7) :
    laneEnded a = true := by
  simp [laneEnded, failed]

theorem laneFailed_of_done {a : LaneAcc} (done : a.phase = .done) (cause : Nat) : laneFailed cause a = false := by
  simp [laneFailed, done]

theorem laneFailed_of_failed {a : LaneAcc} {c sub w6 w7 : Nat} (failed : a.phase = .failed c sub w6 w7) (cause : Nat) :
    laneFailed cause a = (c == cause) := by
  simp [laneFailed, failed]

/-- The stop of an operation that a lane's failure ends (R252, R353). -/
def laneFault (s : State) (t : Thread) (o : Op) (a : LaneAcc) (cause sub w6 w7 : Nat) : Stop :=
  { mkStop s t .fault cause sub (if o.lpc.isSome then nextPc t else o.pc) with
    lpc := o.lpc, va := a.va, mask := maskOf fun L => o.lanes.any fun x => x.lane == L && laneFailed cause x
    w6 := BitVec.ofNat 64 w6, w7 := BitVec.ofNat 64 w7, write := kindWrites o.kind, seq := o.seq }

section Done

variable {o : Op}

theorem opPerformed_of_done (done : ∀ x ∈ o.lanes, x.phase = .done) : opPerformed o = true :=
  List.all_eq_true.2 fun x hx => laneEnded_of_done (done x hx)

theorem noneFailed_of_done (done : ∀ x ∈ o.lanes, x.phase = .done) (cause : Nat) :
    o.lanes.any (laneFailed cause) = false :=
  List.any_eq_false.2 fun x hx => by simp [laneFailed_of_done (done x hx)]

theorem opStop_of_done (done : ∀ x ∈ o.lanes, x.phase = .done) (s : State) (t : Thread) : opStop s t o = none := by
  unfold opStop
  rw [List.find?_eq_none.2 fun x hx => by simp [done x hx]]

theorem mayFault_of_done (done : ∀ x ∈ o.lanes, x.phase = .done) (s : State) : mayFault s o = true := by
  unfold mayFault
  split
  · simp [opStop_of_done done]
  · rfl

theorem opReturn_of_done {s : State} {t : Thread} (done : ∀ x ∈ o.lanes, x.phase = .done)
    (thread : tabFind s.threads o.thread = some t) (op : Nat) (fold : Bool) : opReturn s op o fold = opBack (deliver s o) op o fold := by
  simp only [opReturn, thread, opStop_of_done done]

theorem performed_eq_self (done : ∀ x ∈ o.lanes, x.phase = .done) : (o.lanes.filter fun a => a.phase == .done) = o.lanes :=
  List.filter_eq_self.2 fun x hx => by simp [done x hx]

end Done

section Failed

variable {s : State} {o : Op} {t : Thread} {pre post : List LaneAcc} {a : LaneAcc} {cause sub w6 w7 : Nat}
  (lanes : o.lanes = pre ++ a :: post) (before : ∀ x ∈ pre, x.phase = .done) (failed : a.phase = .failed cause sub w6 w7)

include lanes before failed

theorem opStop_of_failed (s : State) (t : Thread) : opStop s t o = some (laneFault s t o a cause sub w6 w7) := by
  have first : o.lanes.find? hasFailed = some a := by
    rw [lanes, List.find?_append, List.find?_eq_none.2 fun x hx => by simp [hasFailed, before x hx]]
    simp [hasFailed, failed]
  unfold opStop
  split
  next b found =>
    obtain rfl : b = a := Option.some.inj (found.symm.trans first)
    simp only [failed]
    rfl
  next none => exact absurd (none.symm.trans first) (Option.some_ne_none a).symm

theorem opReturn_of_failed {st : Seat} (thread : tabFind s.threads o.thread = some t) (strand : t.seat = some st)
    (seated : st.retired = false) (op : Nat) (fold : Bool) :
    opReturn s op o fold = takeStop (goBack s o t st) o.thread (laneFault s t o a cause sub w6 w7) := by
  simp [opReturn, thread, opStop_of_failed lanes before failed, strand, seated, opFault]

/-- A strand that has no stop may take the fault once nothing before the operation can fault (R181). -/
theorem mayFault_of_failed {st : Seat} (thread : tabFind s.threads o.thread = some t) (strand : t.seat = some st)
    (running : t.stop = none) (noMore : t.more = []) (sure : o.block = 0 ∨ sureTo s o.thread (o.seq - 1) = true) :
    mayFault s o = true := by
  simpa [mayFault, thread, opStop_of_failed lanes before failed, strand, running, noMore] using sure

variable (after : ∀ x ∈ post, x.phase = .done)

include after

theorem opPerformed_of_failed : opPerformed o = true := by
  rw [opPerformed, lanes, List.all_eq_true]
  simp only [List.forall_mem_append, List.forall_mem_cons]
  exact ⟨fun x hx => laneEnded_of_done (before x hx), laneEnded_of_failed failed, fun x hx => laneEnded_of_done (after x hx)⟩

theorem noneLocated_of_failed (notLocate : cause ≠ cLOCATE) : o.lanes.any (laneFailed cLOCATE) = false := by
  rw [lanes, List.any_eq_false]
  simp only [List.forall_mem_append, List.forall_mem_cons]
  exact ⟨fun x hx => by simp [laneFailed_of_done (before x hx)], by simp [laneFailed_of_failed failed, notLocate],
    fun x hx => by simp [laneFailed_of_done (after x hx)]⟩

end Failed

/-! ### The events of a return -/

section Returns

variable {s : State} {op : Nat} {o : Op} (listed : tabFind s.ops op = some o) (out : o.back = false)

include listed out

theorem exec_loadReturn_eq (path : o.path = .ld) (notKget : o.kind ≠ .kget) (notKgetSet : o.kind ≠ .kgetSet)
    (performed : opPerformed o = true) (mayStop : mayFault s o = true)
    (located : o.lanes.any (laneFailed cLOCATE) = false) :
    exec (.loadReturn op) s = .next (mergeAfter (opReturn (withOp s op o) op o false) o.thread) := by
  rw [exec_loadReturn, execLoadReturn, listed]
  simp [path, notKget, notKgetSet, out, performed, mayStop, located, withOp]

theorem exec_atomicReturn_eq (path : o.path = .atm) (performed : opPerformed o = true) (mayStop : mayFault s o = true) :
    exec (.atomicReturn op) s = .next (mergeAfter (opReturn s op o true) o.thread) := by
  rw [exec_atomicReturn, execAtomicReturn, listed]
  simp [path, out, performed, mayStop]

theorem exec_storeAck_eq (path : o.path = .st) (performed : performedAt o o.scope = true)
    (dropped : 3 ≤ o.scope → waitsTlb s o = false) : exec (.storeAck op) s = .next (opBack s op o true) := by
  rw [exec_storeAck, execStoreAck, listed]
  exact if_pos (by simpa [path, out, performed, or_iff_not_imp_left] using dropped)

end Returns

theorem opBack_thread {s : State} {o : Op} {t : Thread} (thread : tabFind s.threads o.thread = some t) (op : Nat) :
    tabFind (opBack s op o true).threads o.thread = some (foldWct (settleUndo t o) o.wct) := by
  simp [opBack, purgeOps, noteWct, tabFind_tabMod, thread]

/-! ### What a return delivers -/

theorem deliver_uniform {s : State} {o : Op} {t : Thread} (thread : tabFind s.threads o.thread = some t) {d : SReg} {sx : Bool}
    {n : Nat} (dst : o.dst = .sreg d false sx n) (done : ∀ x ∈ o.lanes, x.phase = .done) {a : LaneAcc} {rest : List LaneAcc}
    (lanes : o.lanes = a :: rest) :
    deliver s o = putThr s o.thread (setS t d (.u (if sx then BitVec.ofInt 64 (sext (8 * n) a.res.toNat) else a.res))) := by
  simp only [deliver, thread, dst, performed_eq_self done]
  simp only [lanes]
  rfl

/-- The seat to which an operation's lane results have come, and with it what the strand may go back to (R181). -/
def withResults (o : Op) (regs : List (Nat × Nat)) (ty : Nat) (st : Seat) : Seat :=
  { takeResults o regs ty st with undos := st.undos.map (takeUndo o regs ty st) }

theorem deliver_lanes {s : State} {o : Op} {t : Thread} (thread : tabFind s.threads o.thread = some t) {regs : List (Nat × Nat)}
    {ty : Nat} (dst : o.dst = .vreg regs ty) {st : Seat} (strand : t.seat = some st) (seated : st.retired = false) :
    deliver s o = putThr s o.thread { t with seat := some (withResults o regs ty st) } := by
  simp [deliver, thread, dst, strand, seated, withResults]

theorem readReg_withResults {o : Op} (done : ∀ x ∈ o.lanes, x.phase = .done) (s : State) (regs : List (Nat × Nat)) (ty : Nat)
    (st : Seat) (r w L : Nat) :
    readReg s (withResults o regs ty st) r w L = readReg s (o.lanes.foldl (takeLane regs ty) st) r w L := by
  conv_rhs => rw [← performed_eq_self done]
  rfl

/-! ### Going back (R181) -/

theorem goBack_eq {s : State} {o : Op} {st : Seat} {u : Undo} (kept : (st.undos.find? fun x => x.seq == o.seq) = some u)
    (t : Thread) :
    goBack s o t st = putThr { s with ops := s.ops.filter fun p => p.2.thread != o.thread || p.2.block == 0 || p.2.seq ≤ o.seq }
      o.thread (undoTo t st o.block u) := by
  simp only [goBack, kept]

theorem goBack_nothing {s : State} {o : Op} {st : Seat} (nothing : (st.undos.find? fun x => x.seq == o.seq) = none)
    (t : Thread) : goBack s o t st = s := by
  simp only [goBack, nothing]

theorem mem_goBack_ops {s : State} {o : Op} {st : Seat} {u : Undo}
    (kept : (st.undos.find? fun x => x.seq == o.seq) = some u) (t : Thread) (p : Nat × Op) :
    p ∈ (goBack s o t st).ops ↔ p ∈ s.ops ∧ (p.2.thread ≠ o.thread ∨ p.2.block = 0 ∨ p.2.seq ≤ o.seq) := by
  simp [goBack_eq kept, or_assoc]

/-! ### Write completion times (R101, R103) -/

/-- The greatest of the values of `f` on a list and a base that is the greatest of a set. -/
theorem isGreatest_foldl_max {α : Type} (f : α → Nat) (l : List α) {S : Set Nat} {b : Nat} (h : IsGreatest S b) :
    IsGreatest (S ∪ {e | ∃ x ∈ l, e = f x}) (l.foldl (fun m x => max m (f x)) b) := by
  induction l generalizing S b with
  | nil => simpa using h
  | cons x l ih =>
    have both : S ∪ {e | ∃ y ∈ x :: l, e = f y} = insert (f x) S ∪ {e | ∃ y ∈ l, e = f y} := by
      ext e
      simp only [Set.mem_union, Set.mem_insert_iff, Set.mem_ofPred_eq, List.mem_cons, exists_eq_or_imp]
      tauto
    rw [both, List.foldl_cons, max_comm b]
    exact ih (h.insert _)

/-- The ends, with a margin, of the leases on a line that stand at the places given. -/
def leaseEnds (s : State) (line margin : Nat) (at_ : Place → Prop) : Set Nat :=
  {e | ∃ c, (c ∈ s.coh.copies ∧ c.line = line ∧ c.parked = false ∧ at_ c.place) ∧ e = c.expiry + margin}

/-- The ends, with the margin between packages, of the leases on a line that other packages hold. -/
def remoteEnds (s : State) (line : Nat) : Set Nat :=
  {e | ∃ r, (r ∈ s.coh.remote ∧ r.line = line ∧ r.owned = false) ∧ e = r.expiry + 40}

theorem leases_isGreatest {s : State} {line b : Nat} {S : Set Nat} (h : IsGreatest S b) (margin : Nat) {p : Place → Bool}
    {at_ : Place → Prop} (same : ∀ x, p x = true ↔ at_ x) :
    IsGreatest (S ∪ leaseEnds s line margin at_) ((s.coh.copies.filter fun c => c.line == line && !c.parked && p c.place).foldl
      (fun m c => max m (c.expiry + margin)) b) := by
  convert isGreatest_foldl_max (fun c : Copy => c.expiry + margin) _ h using 2
  ext e
  simp [leaseEnds, same, and_assoc]

theorem horizon_isGreatest {s : State} {line b : Nat} {S : Set Nat} (h : IsGreatest S b) {p : Place → Bool} {at_ : Place → Prop}
    (same : ∀ x, p x = true ↔ at_ x) : IsGreatest (S ∪ leaseEnds s line 0 at_) (horizon s line b p) :=
  leases_isGreatest h 0 same

theorem remoteHorizon_isGreatest {s : State} {line b : Nat} {S : Set Nat} (h : IsGreatest S b) :
    IsGreatest (S ∪ remoteEnds s line) (remoteHorizon s line b) := by
  unfold remoteHorizon
  convert isGreatest_foldl_max (fun r : RemoteHold => r.expiry + 40) _ h using 2
  ext e
  simp [remoteEnds, and_assoc]

/-- The times that count for a write of `.die` scope and wider. -/
def wideEnds (s : State) (scope line die owner : Nat) : Set Nat :=
  {e | e = rtNs s ∨ scope = 2 ∧ e ∈ leaseEnds s line 0 (placeDie · = die) ∨
    3 ≤ scope ∧ e ∈ leaseEnds s line 0 (placeDie · = owner) ∨
    3 ≤ scope ∧ e ∈ leaseEnds s line 2 (placeDie · ≠ owner) ∨ 4 ≤ scope ∧ e ∈ remoteEnds s line}

theorem wctOf_isGreatest (s : State) {scope : Nat} (wide : 2 ≤ scope) (line die owner : Nat) (core : Option Nat) :
    IsGreatest (wideEnds s scope line die owner) (wctOf s scope line die owner core) := by
  have now : IsGreatest {rtNs s} (rtNs s) := isGreatest_singleton
  have onDie (d : Nat) := horizon_isGreatest (s := s) (line := line) now (p := fun p => placeDie p == d)
    (at_ := (placeDie · = d)) (by simp)
  have inPackage := leases_isGreatest (s := s) (line := line) (onDie owner) 2 (p := fun p => placeDie p != owner)
    (at_ := (placeDie · ≠ owner)) (by simp)
  match scope, wide with
  | 2, _ =>
    convert onDie die using 1
    · ext e
      simp [wideEnds]
    · rfl
  | 3, _ =>
    convert inPackage using 1
    · ext e
      simp [wideEnds, or_assoc]
    · rfl
  | n + 4, _ =>
    convert remoteHorizon_isGreatest (s := s) (line := line) inPackage using 1
    · ext e
      simp [wideEnds, or_assoc]
    · simp [wctOf]

/-- The times that count for a write of `.quad` scope. -/
def quadEnds (s : State) (line q : Nat) : Set Nat :=
  {e | e = rtNs s ∨ e ∈ leaseEnds s line 0 (fun p => placeQuad p = q ∧ p ≠ .quad q) ∨
    ∃ c, copyAt s (.quad q) line = some c ∧ e = c.granted}

theorem quadHorizon_isGreatest (s : State) (line q : Nat) : IsGreatest (quadEnds s line q) (quadHorizon s line (rtNs s) q) := by
  have now : IsGreatest {rtNs s} (rtNs s) := isGreatest_singleton
  unfold quadHorizon
  split
  next c granted =>
    have below := horizon_isGreatest (s := s) (line := line) now (p := fun p => placeQuad p == q && p != .quad q)
      (at_ := fun p => placeQuad p = q ∧ p ≠ .quad q) (by simp)
    have ends : quadEnds s line q =
        insert c.granted ({rtNs s} ∪ leaseEnds s line 0 fun p => placeQuad p = q ∧ p ≠ .quad q) := by
      ext e
      simp only [quadEnds, granted, Set.mem_ofPred_eq, Set.mem_insert_iff, Set.mem_union, Set.mem_singleton_iff, Option.some.injEq,
        exists_eq_left']
      tauto
    rw [ends]
    exact below.insert c.granted
  next none =>
    have inQuad := horizon_isGreatest (s := s) (line := line) now (p := fun p => placeQuad p == q)
      (at_ := (placeQuad · = q)) (by simp)
    have notThere (c : Copy) (hc : c ∈ s.coh.copies) (hl : c.line = line) : c.place ≠ .quad q := fun hp =>
      List.find?_eq_none.1 none c hc (by simp [hp, hl])
    have ends : quadEnds s line q = {rtNs s} ∪ leaseEnds s line 0 (placeQuad · = q) := by
      ext e
      simp only [quadEnds, none, leaseEnds, Set.mem_ofPred_eq, Set.mem_union, Set.mem_singleton_iff]
      grind
    rw [ends]
    exact inQuad

theorem now_le_wctOf (s : State) (scope line die owner : Nat) (core : Option Nat) :
    rtNs s ≤ wctOf s scope line die owner core := by
  match scope, core with
  | 0, _ => exact Nat.le_refl _
  | 1, none => exact Nat.le_refl _
  | 1, some k => exact (quadHorizon_isGreatest s line (k / 4)).2 (.inl rfl)
  | _ + 2, _ => exact (wctOf_isGreatest s (Nat.le_add_left ..) line die owner _).2 (.inl rfl)

end Sys2Proof.Machine

namespace Sys2Proof.Laws

open Sys2Proof Sys2Proof.Machine

/-- Settles O47: an operation returns by what `opStop` says of its lanes, and the completion times are the greatest elements
of the sets of times that count (`wctOf_isGreatest`, `quadHorizon_isGreatest`). -/
theorem accessesReturn : Obligations.AccessesReturn := by
  unfold Obligations.AccessesReturn
  refine ⟨?returns, ?completionTimes⟩
  case returns =>
    intro s op o t listed out thread
    have withThread : tabFind (withOp s op o).threads o.thread = some t := thread
    refine ⟨fun done => ⟨?load, ?atomic, ?scalar, ?lanes⟩, ?write, ?folds, ?fails, ?goesBack, ?stays⟩
    case load =>
      intro path notKget notKgetSet
      rw [exec_loadReturn_eq listed out path notKget notKgetSet (opPerformed_of_done done) (mayFault_of_done done s)
        (noneFailed_of_done done _), opReturn_of_done done withThread]
    case atomic =>
      intro path
      rw [exec_atomicReturn_eq listed out path (opPerformed_of_done done) (mayFault_of_done done s),
        opReturn_of_done done thread]
    case scalar =>
      intro d sx n a rest dst lanes notZero
      rw [deliver_uniform thread dst done lanes]
      exact ⟨_, find_putThr .., getS_setS_self t notZero _⟩
    case lanes =>
      intro regs ty st dst strand seated once inRow
      rw [deliver_lanes thread dst strand seated]
      refine ⟨_, _, find_putThr .., rfl, fun a ha r reg => ?_⟩
      rw [readReg_withResults done, readReg_foldl_takeLane once inRow ha reg]
    case write =>
      intro path performed dropped
      exact exec_storeAck_eq listed out path performed dropped
    case folds => exact ⟨_, opBack_thread thread op, rfl, rfl⟩
    case fails =>
      intro pre a post cause sub w6 w7 st path notKget notKgetSet lanes before failed after notLocate strand seated running
        noMore sure
      dsimp only
      rw [exec_loadReturn_eq listed out path notKget notKgetSet (opPerformed_of_failed lanes before failed after)
        (mayFault_of_failed lanes before failed thread strand running noMore sure)
        (noneLocated_of_failed lanes before failed after notLocate),
        opReturn_of_failed lanes before failed withThread strand seated]
      rfl
    case goesBack =>
      intro st u kept
      refine ⟨?_, mem_goBack_ops kept t, ?_⟩ <;> rw [goBack_eq kept]
      · exact ⟨_, _, find_putThr .., rfl, rfl, rfl, rfl, rfl, rfl, rfl, rfl, rfl, _, rfl⟩
      · exact ⟨rfl, rfl⟩
    case stays => exact fun st nothing => goBack_nothing nothing t
  case completionTimes =>
    intro s scope line die owner core
    have latest (wide : 2 ≤ scope) := wctOf_isGreatest s wide line die owner core
    have own (wide : 3 ≤ scope) (c : Copy) (lease : c ∈ s.coh.copies ∧ c.line = line ∧ c.parked = false ∧
        placeDie c.place = owner) : c.expiry ≤ wctOf s scope line die owner core :=
      (latest (by omega)).2 (.inr (.inr (.inl ⟨wide, c, lease, rfl⟩)))
    have other (wide : 3 ≤ scope) (c : Copy) (lease : c ∈ s.coh.copies ∧ c.line = line ∧ c.parked = false ∧
        placeDie c.place ≠ owner) : c.expiry + 2 ≤ wctOf s scope line die owner core :=
      (latest (by omega)).2 (.inr (.inr (.inr (.inl ⟨wide, c, lease, rfl⟩))))
    refine ⟨now_le_wctOf .., ?core, ?mine, own, other, ?remote, ?attained, ?quad⟩
    case core =>
      rintro rfl
      rfl
    case mine =>
      rintro wide c ⟨held, onLine, notParked, onDie⟩
      rcases Nat.eq_or_lt_of_le wide with die | package
      · exact (latest wide).2 (.inr (.inl ⟨die.symm, c, ⟨held, onLine, notParked, onDie⟩, rfl⟩))
      · by_cases atOwner : placeDie c.place = owner
        · exact own package c ⟨held, onLine, notParked, atOwner⟩
        · exact Nat.le_of_add_right_le (other package c ⟨held, onLine, notParked, atOwner⟩)
    case remote =>
      intro wide r lease
      exact (latest (by omega)).2 (.inr (.inr (.inr (.inr ⟨wide, r, lease, rfl⟩))))
    case attained => exact fun wide => (latest wide).1
    case quad =>
      rintro rfl k rfl
      obtain ⟨attained, bound⟩ := quadHorizon_isGreatest s line (k / 4)
      exact ⟨fun c below => bound (.inr (.inl ⟨c, below, rfl⟩)), fun c copy => bound (.inr (.inr ⟨c, copy, rfl⟩)), attained⟩

end Sys2Proof.Laws

end

section

/-! ## Fences (03_memory_order.md; O19)

A fence passes the accesses of other threads and, inside a region, those of the region itself (`fencePasses`). Where it passes
every access in flight, both of its parts are satisfied but for `rt`, so each kind completes alike. -/

namespace Sys2Proof.Machine

open Sys2Proof

/-! ### Where a fence passes every access -/

section Passes

variable {s : State} {id : Nat} {t : Thread} (passes : ∀ o ∈ s.ops, fencePasses id t o.2 = true)

include passes

theorem acquired_of_passes : acquired s id t = true :=
  List.all_eq_true.2 fun o ho => by simp [passes o ho]

theorem earlierDone_of_passes (scope upto : Nat) : earlierDone s id t scope upto = true :=
  List.all_eq_true.2 fun o ho => by simp [passes o ho]

theorem released_of_passes {scope : Nat} (reached : releaseAt t scope ≤ rtNs s) (upto : Nat) :
    released s id t scope upto = true := by
  simp [released, earlierDone_of_passes passes, reached]

end Passes

theorem passes_of_quiet {s : State} {id : Nat} {t : Thread} {scope : Nat} (quiet : Quiet s id t scope) :
    ∀ o ∈ s.ops, fencePasses id t o.2 = true := fun o ho => by
  simp [fencePasses, quiet.1 o ho]

theorem passes_of_inRegion {s : State} {id : Nat} {t : Thread} (region : inRegion t = true)
    (own : ∀ o ∈ s.ops, o.2.thread = id → o.2.region ≠ 0) : ∀ o ∈ s.ops, fencePasses id t o.2 = true := fun o ho => by
  simpa [fencePasses, region, ← imp_iff_not_or] using own o ho

/-- A thread's write completion times at a scope are no earlier than its own. -/
theorem wct_le_releaseAt (t : Thread) (scope : Nat) : t.wct.toNat ≤ releaseAt t scope := by
  unfold releaseAt
  split
  · exact Nat.le_refl _
  · exact Nat.le_max_left ..

/-! ### Issue -/

section Issue

variable {s : State} {t : Thread} {sc : BitVec 3} (acts : Acts s t) (scope : sc.toNat < 6)

include acts scope

theorem exec_fence_release :
    exec (.fence 1 sc) s = .next (afterNone s (if released s s.cur t sc.toNat t.seqNo
      then foldRelease { t with fencedAt := t.seqNo } sc.toNat
      else { t with fencedAt := t.seqNo, rel := some (sc.toNat, t.seqNo) })) :=
  scalar_run _ acts (by simp [illSub_fence, defect, scope])

theorem exec_fence_acquire {k : BitVec 2} (acquires : k ≠ 1) :
    exec (.fence k sc) s = .next (putThr s s.cur (if fenceDone s s.cur t k.toNat sc.toNat
      then afterFence s { t with fencedAt := t.seqNo } k.toNat sc.toNat
      else { t with fencedAt := t.seqNo, wait := .fence k.toNat sc.toNat })) := by
  rw [exec_fence, execFence, scalar_run _ acts (by simp [illSub_fence, defect, scope])]
  simp only [acquires, if_false, apply_ite (putThr s s.cur), apply_ite Host.Outcome.next]
  rfl

theorem exec_fence_completes (k : BitVec 2) (rel : released s s.cur t sc.toNat t.seqNo = true)
    (acq : acquired s s.cur t = true) :
    exec (.fence k sc) s = .next (afterNone s { t with
      fencedAt := t.seqNo
      wct := if k = 2 then t.wct else BitVec.ofNat 64 (releaseAt t sc.toNat)
      seqAt := if k = 3 then s.freeCtr else t.seqAt }) := by
  match k with
  | 0#2 | 2#2 | 3#2 => rw [exec_fence_acquire acts scope (by decide), fenceDone, rel, acq]; rfl
  | 1#2 => exact (exec_fence_release acts scope).trans (by rw [rel]; rfl)

end Issue

/-! ### The event that completes a fence -/

section Complete

variable {s : State} {id : Nat} {t : Thread} {scope : Nat} (waits : Waits s id t) (quiet : Quiet s id t scope)

include waits quiet

theorem exec_fenceComplete_release {upto : Nat} (pending : t.rel = some (scope, upto)) :
    exec (.fenceComplete id) s = .next (putThr s id { foldRelease t scope with rel := none }) := by
  rw [exec_fenceComplete, execFenceComplete, onThr_waits waits]
  simp [relDone, pending, released_of_passes (passes_of_quiet quiet) quiet.2]

theorem exec_fenceComplete_fence {k : Nat} (noRelease : t.rel = none) (stalled : t.wait = .fence k scope) :
    exec (.fenceComplete id) s = .next (putThr s id { afterFence s t k scope with wait := .none }) := by
  rw [exec_fenceComplete, execFenceComplete, onThr_waits waits]
  simp [relDone, noRelease, stalled, waits.2.2, fenceDone, acquired_of_passes (passes_of_quiet quiet),
    released_of_passes (passes_of_quiet quiet) quiet.2]

end Complete

end Sys2Proof.Machine

namespace Sys2Proof.Laws

open Sys2Proof Sys2Proof.Machine

/-- Settles O19: what a fence does is decided by its two parts, and it passes every access where the thread is quiet or the region's
own accesses alone are in flight (`exec_fence_completes`, `exec_fenceComplete_fence`). -/
theorem fences : Obligations.Fences := by
  unfold Obligations.Fences
  refine ⟨?issue, ?complete⟩
  case issue =>
    intro s t k sc acts scope
    refine ⟨fun rel => ?_, fun rel => ?_, fun acq => ?_, fun acq => ?_, fun both => ⟨fun waits => ?_, fun quiet => ?_⟩,
      fun region own reached => ?_⟩
    · rw [exec_fence_release acts scope, rel]; rfl
    · rw [exec_fence_release acts scope, rel]; rfl
    · rw [exec_fence_acquire acts scope (by decide), fenceDone, acq]; rfl
    · rw [exec_fence_acquire acts scope (by decide), fenceDone, acq]; rfl
    · rcases both with rfl | rfl <;> rw [exec_fence_acquire acts scope (by decide), fenceDone, waits] <;> rfl
    · have notAcquire : k ≠ 2 := by rcases both with rfl | rfl <;> decide
      rw [exec_fence_completes acts scope k (released_of_passes (passes_of_quiet quiet) quiet.2 _)
        (acquired_of_passes (passes_of_quiet quiet)), if_neg notAcquire]
    · exact exec_fence_completes acts scope k (released_of_passes (passes_of_inRegion region own) reached _)
        (acquired_of_passes (passes_of_inRegion region own))
  case complete =>
    intro s id t scope waits quiet
    refine ⟨wct_le_releaseAt t scope, fun upto pending => ?_, fun noRelease stalled => ?_, fun noRelease stalled => ?_,
      fun noRelease stalled => ?_⟩
    · exact exec_fenceComplete_release waits quiet pending
    all_goals exact exec_fenceComplete_fence waits quiet noRelease stalled

end Sys2Proof.Laws

end

section

/-! ## Engine operations (03_memory_order.md; O36)

A copy of one plain range does not always complete. `PlainWrite` asks that the slice can take the write now, by
`engBlocked s o (lineOf x.pa) …`; but `engBlocked` takes a physical address, of which it forms the line itself, so what is asked
is of another line, and the hub may hold every request for the line written (R375). Then the copy waits. -/

namespace Sys2Proof.Machine

open Sys2Proof

/-- A copy of four bytes from the placed workgroup's scratch to virtual address 0x100, which has begun. -/
def heldCopy : EngOp :=
  { queue := 1, core := 0, wg := 2, launch := 1, ctx := 1, members := [3], instr := .cpy 0 8 0 1, pc := 0,
    opnds := [0, 0x100, 4, 0], cond := false, rsd := 0, bar := none, batch := [], started := true, rows := [], progress := 0,
    partialSum := [], fetched := [], avals := [], status := 0, frow := 0, failVa := 0, failDst := 0, failWrite := false,
    failing := false, halted := false, finished := false, wct := Wct.flat 0, wrote := [], seq := 0 }

/-- The line it writes, in the L2 of die 0 alone. -/
def heldLine : L2Line := ⟨0, 162, 0, .m, 0, 0, none, false, none, none⟩

/-- The state with that copy at the head of its queue, its page writable, used and cached by core 0, and the directory's entry of the
line not known (R375). -/
def heldCopyState : State :=
  let s := State.reset.withFetchWord 32 0
  { s with
    engq := [(4, heldCopy)]
    mem := { s.mem with bytes := putBytes s.mem.bytes 0x4000 (leBytes 8 0x50DF) }
    coh := { s.coh with
      l2 := [heldLine]
      tlb := [⟨0, 1, 0, 0x50DF, 1, [32, 64, 96, 128], none, false⟩]
      ulines := [⟨162, false, 0⟩] } }

theorem heldCopy_turn : EngineTurn heldCopyState 4 heldCopy := by
  unfold EngineTurn
  decide +kernel

/-- What `PlainWrite` asks of the copy's line holds of line 1, the line of the number of line 162 taken as an address. -/
theorem heldCopy_plain : PlainWrite heldCopyState heldCopy 0x100 4 ⟨0x5100, 0x50DF, 0⟩ heldLine := by
  unfold PlainWrite SoleLine
  and_intros <;> decide +kernel

/-- The line written is another, and the slice cannot take the write. -/
theorem heldCopy_stop : (runCopy heldCopyState heldCopy 1 4).stop = some (.wait 162, true) := by decide +kernel

/-- A copy that is stopped at a line to wait there does not end. -/
theorem exec_copyComplete_waits {s : State} {id : Nat} {o : EngOp} (turn : EngineTurn s id o) (started : o.started = true)
    (whole : chunked s o = false) {n : BitVec 3} {a b : SReg} {f : BitVec 4} (copy : o.instr = .cpy n a b f) {line : Nat} {w : Bool}
    (stop : (runCopy s o f ((cpyShape f o.opnds).1 * (cpyShape f o.opnds).2.1)).stop = some (.wait line, w)) :
    exec (.copyComplete id) s = .refused (.notEnabled "COPY_COMPLETE") := by
  obtain ⟨listed, -, head, runs⟩ := turn
  rw [exec_copyComplete, execCopyComplete, onEng, listed]
  simp [copy, started, head, runs, whole, stop, notEnabled]

end Sys2Proof.Machine

namespace Sys2Proof.Laws

open Sys2Proof Sys2Proof.Machine

/-- Refutes O36: a copy of one plain range waits where the hub holds the requests for its line (`heldCopy_stop`), which
`PlainWrite` does not exclude (`heldCopy_plain`). -/
theorem not_engineOperations : ¬ Obligations.EngineOperations := by
  unfold Obligations.EngineOperations
  rintro ⟨-, -, -, writes, -⟩
  obtain ⟨copy, -⟩ := writes heldCopyState 4 heldCopy 0x100 4 ⟨0x5100, 0x50DF, 0⟩ heldLine heldCopy_turn rfl rfl rfl rfl
    ⟨3, List.mem_singleton.2 rfl, rfl⟩ heldCopy_plain
  obtain ⟨s', completes, -⟩ := copy 0 8 0 1 (placedWg 1) rfl rfl rfl rfl rfl
  rw [exec_copyComplete_waits heldCopy_turn rfl rfl rfl heldCopy_stop] at completes
  cases completes

end Sys2Proof.Laws

end

section

/-! ## Accesses are performed at their slices (03_memory_order.md; O46)

Of what an access does, some lies beside memory (threads, operations, launches) and some beside the L2s, the lockets and memory
(positions, copies, streams, stamps). Two views of a state, `besideMemory` and `atSlices`, say so once for each operation; what remains is
what a fill, a change of owner and a write do to the line itself. -/

namespace Sys2Proof.Machine

open Sys2Proof

/-- What every step of a fold keeps, the fold keeps. -/
theorem foldl_keeps {α β γ : Type} (view : β → γ) {f : β → α → β} (keeps : ∀ b a, view (f b a) = view b) (l : List α) (b : β) :
    view (l.foldl f b) = view b := by
  induction l generalizing b with
  | nil => rfl
  | cons a l ih => exact (ih _).trans (keeps b a)

/-- What both branches keep, a choice between them keeps. -/
theorem ite_keeps {β γ : Type} (view : β → γ) {p : Prop} [Decidable p] {a b : β} {c : γ} (ha : view a = c) (hb : view b = c) :
    view (if p then a else b) = c := by
  split <;> assumption

/-! ### What memory operations leave alone -/

/-- A state with what the memory system keeps taken out: memory, the lines and copies on chip, the slices' state for regions, and
the RAS counters. -/
def besideMemory (s : State) : State :=
  { s with mem := State.reset.mem, coh := State.reset.coh, reg := State.reset.reg, ras := State.reset.ras }

theorem threads_of_besideMemory {s s' : State} (same : besideMemory s' = besideMemory s) : s'.threads = s.threads :=
  show (besideMemory s').threads = (besideMemory s).threads from congrArg State.threads same

theorem ops_of_besideMemory {s s' : State} (same : besideMemory s' = besideMemory s) : s'.ops = s.ops :=
  show (besideMemory s').ops = (besideMemory s).ops from congrArg State.ops same

theorem besideMemory_writeBack (s : State) (l : L2Line) : besideMemory (writeBack s l) = besideMemory s := by
  obtain ⟨m, written⟩ := writeBack_eq s l
  rw [written]
  rfl

theorem besideMemory_landLine (s : State) (line : Nat) : besideMemory (landLine s line) = besideMemory s := by
  unfold landLine
  split
  · exact besideMemory_writeBack _ _
  · rfl

theorem besideMemory_evictLine (s : State) (die line : Nat) : besideMemory (evictLine s die line) = besideMemory s := by
  unfold evictLine
  split
  · rfl
  · dsimp only
    split
    · exact besideMemory_landLine (dropL2 s die line) line
    · rfl

theorem besideMemory_makeWay (s : State) (die line : Nat) : besideMemory (makeWay s die line) = besideMemory s := by
  unfold makeWay
  split
  · rfl
  · dsimp only
    split
    · exact besideMemory_evictLine _ _ _
    · rfl

theorem besideMemory_cleanFill (s : State) (die line key ctx : Nat) :
    besideMemory (cleanFill s die line key ctx).1 = besideMemory s := by
  unfold cleanFill
  repeat' split
  all_goals rfl

theorem besideMemory_fillLine (s : State) (die line key ctx : Nat) :
    besideMemory (fillLine s die line key ctx).1 = besideMemory s := by
  unfold fillLine
  split
  · rfl
  · split
    · rfl
    · split <;> rfl
    · split
      · exact (besideMemory_cleanFill _ _ _ _ _).trans (besideMemory_landLine s line)
      · rfl
    · exact besideMemory_cleanFill _ _ _ _ _

theorem besideMemory_of_fillLine {s s' : State} {die line key ctx : Nat} {r : LineRes} (filled : fillLine s die line key ctx = (s', r)) :
    besideMemory s' = besideMemory s := by
  have same := besideMemory_fillLine s die line key ctx
  rwa [filled] at same

theorem besideMemory_takeOwnership (s : State) (die line key ctx : Nat) :
    besideMemory (takeOwnership s die line key ctx).1 = besideMemory s := by
  have filled := (besideMemory_fillLine (landLine s line) die line key ctx).trans (besideMemory_landLine s line)
  unfold takeOwnership
  split
  next _ _ eq => rw [eq] at filled; exact filled
  next => exact filled

theorem besideMemory_of_takeOwnership {s s' : State} {die line key ctx : Nat} {r : LineRes}
    (taken : takeOwnership s die line key ctx = (s', r)) : besideMemory s' = besideMemory s := by
  have same := besideMemory_takeOwnership s die line key ctx
  rwa [taken] at same

theorem besideMemory_commitPos (s : State) (die line : Nat) (reads writes : Bool) :
    besideMemory (commitPos s die line reads writes) = besideMemory s := by
  obtain ⟨r, committed⟩ := commitPos_eq s die line reads writes
  rw [committed]
  rfl

theorem besideMemory_enterSlice (s : State) (die line : Nat) : besideMemory (enterSlice s die line) = besideMemory s := by
  unfold enterSlice
  split <;> rfl

theorem besideMemory_unpark (s : State) (line : Nat) : besideMemory (unpark s line) = besideMemory s := by
  unfold unpark
  split
  · rfl
  · dsimp only
    split
    · rfl
    · exact besideMemory_writeBack _ _

theorem besideMemory_combine (s : State) (line : Nat) : besideMemory (combine s line) = besideMemory s := by
  unfold combine
  split
  · rfl
  next p0 rest _ =>
    have taken := (besideMemory_takeOwnership (makeWay (recallExcl (unpark s line) line) (sliceOf s line) line) (sliceOf s line) line
      p0.key (launchOf s p0.launch).ctx).trans ((besideMemory_makeWay _ _ _).trans (besideMemory_unpark s line))
    dsimp only
    split
    · rfl
    · split
      next s1 d eq =>
        rw [eq] at taken
        refine (foldl_keeps besideMemory (fun _ _ => foldl_keeps besideMemory (fun _ _ => ?_) _ _) _ _).trans ?_
        · rfl
        · exact (besideMemory_commitPos _ _ _ _ _).trans taken
      next s1 sub eq => rw [eq] at taken; exact taken

theorem besideMemory_poisonLine (s : State) (line : Nat) : besideMemory (poisonLine s line) = besideMemory s := by
  unfold poisonLine
  split <;> rfl

theorem besideMemory_memPut (s : State) (key : Option Nat) (pa n v : Nat) : besideMemory (memPut s key pa n v) = besideMemory s := by
  unfold memPut
  repeat' split
  all_goals rfl

theorem besideMemory_hubPutAs (s : State) (reads : Bool) (key : Option Nat) (pa n v : Nat) :
    besideMemory (hubPutAs s reads key pa n v) = besideMemory s := by
  have landed := (besideMemory_landLine (stampWrite s (lineOf pa) (pa % 128) n) (lineOf pa)).trans rfl
  unfold hubPutAs
  dsimp only
  split
  · split
    · exact besideMemory_poisonLine _ _
    · rfl
  · split
    · exact landed
    · split
      · exact (besideMemory_commitPos _ _ _ _ _).trans landed
      · exact (besideMemory_memPut _ _ _ _ _).trans landed

theorem besideMemory_recallHome (s : State) (line : Nat) : besideMemory (recallHome s line) = besideMemory s := by
  unfold recallHome
  split
  · exact besideMemory_writeBack _ _
  · rfl

theorem besideMemory_setAD (s : State) (ctx va : Nat) (write : Bool) : besideMemory (setAD s ctx va write) = besideMemory s := by
  unfold setAD
  split
  · exact ite_keeps besideMemory rfl ((besideMemory_hubPutAs _ _ _ _ _ _).trans ((besideMemory_unpark _ _).trans
      ((besideMemory_combine _ _).trans (besideMemory_recallHome _ _))))
  · rfl

theorem besideMemory_commitRead (s : State) (line : Nat) : besideMemory (commitRead s line) = besideMemory s := by
  unfold commitRead
  split
  · rfl
  · exact (besideMemory_commitPos _ _ _ _ _).trans (besideMemory_enterSlice _ _ _)

theorem besideMemory_cacheXl (s : State) (unit ctx va : Nat) : besideMemory (cacheXl s unit ctx va) = besideMemory s := by
  have reads (lines : List Nat) : besideMemory (walkReads s lines) = besideMemory s :=
    foldl_keeps besideMemory besideMemory_commitRead _ _
  unfold cacheXl
  split
  · rfl
  · split
    · rfl
    · dsimp only
      split <;> exact reads _
    · rfl

/-- Marking a translation used changes nothing beside memory. -/
theorem besideMemory_noteAccess (s : State) (unit ctx va : Nat) (write : Bool) :
    besideMemory (noteAccess s unit ctx va write) = besideMemory s :=
  (besideMemory_cacheXl _ _ _ _).trans (besideMemory_setAD _ _ _ _)

theorem besideMemory_trimPlace (s : State) (p : Place) (line : Nat) : besideMemory (trimPlace s p line) = besideMemory s := by
  obtain ⟨c, trimmed⟩ := trimPlace_eq s p line
  rw [trimmed]
  rfl

theorem besideMemory_makeRoom (s : State) (lv : Level) (line : Nat) : besideMemory (makeRoom s lv line) = besideMemory s := by
  have ways : besideMemory ((levelDies lv).foldl (fun acc d => makeWay acc d line) s) = besideMemory s :=
    foldl_keeps besideMemory (fun b d => besideMemory_makeWay b d line) _ _
  unfold makeRoom
  split
  · exact besideMemory_trimPlace _ _ _
  · exact besideMemory_trimPlace _ _ _
  · exact ways

theorem besideMemory_parkedHome (s : State) (line : Nat) : besideMemory (parkedHome s line) = besideMemory s := by
  obtain ⟨m, c, home⟩ := parkedHome_eq s line
  rw [home]
  rfl

/-- Re-parking a line for a set with one more core changes nothing beside memory. -/
theorem besideMemory_locateResolve (s : State) (k : Locket) (core : Nat) : besideMemory (locateResolve s k core) = besideMemory s := by
  unfold locateResolve rePark
  dsimp only
  split
  · exact besideMemory_makeRoom (revokeParked s k.line) _ _
  · exact besideMemory_parkedHome _ _

/-! ### What an access does away from the L2s, the parking points and memory -/

/-- A state with what an access changes away from the L2s, the parking points and memory taken out: threads, positions, and the copies,
streams, floors, stamps and translations on chip. -/
def atSlices (s : State) : State :=
  { s with
    threads := [], reg := State.reset.reg
    coh := { s.coh with copies := [], streams := [], floors := [], wstamp := [], tlb := [] } }

theorem l2_of_atSlices {s s' : State} (same : atSlices s' = atSlices s) : s'.coh.l2 = s.coh.l2 :=
  show (atSlices s').coh.l2 = (atSlices s).coh.l2 from congrArg (fun x : State => x.coh.l2) same

theorem ops_of_atSlices {s s' : State} (same : atSlices s' = atSlices s) : s'.ops = s.ops :=
  show (atSlices s').ops = (atSlices s).ops from congrArg State.ops same

theorem mem_of_atSlices {s s' : State} (same : atSlices s' = atSlices s) : s'.mem = s.mem :=
  show (atSlices s').mem = (atSlices s).mem from congrArg State.mem same

/-- The value of a line is the same for two states alike at their slices. -/
theorem LineIs.of_atSlices {s s' : State} {line key : Nat} {d : LineData} (same : atSlices s' = atSlices s)
    (h : LineIs s line key d) : LineIs s' line key d := by
  have view (x : State) : LineIs x line key d ↔ LineIs (atSlices x) line key d := Iff.rfl
  rwa [view, same, ← view]

theorem atSlices_commitPos (s : State) (die line : Nat) (reads writes : Bool) :
    atSlices (commitPos s die line reads writes) = atSlices s := by
  obtain ⟨r, committed⟩ := commitPos_eq s die line reads writes
  rw [committed]
  rfl

theorem atSlices_enterSlice (s : State) (die line : Nat) : atSlices (enterSlice s die line) = atSlices s :=
  ite_keeps atSlices rfl rfl

theorem atSlices_noteMiss (s : State) (o : Op) (line : Nat) : atSlices (noteMiss s o line) = atSlices s := by
  unfold noteMiss
  split <;> rfl

theorem atSlices_trimPlace (s : State) (p : Place) (line : Nat) : atSlices (trimPlace s p line) = atSlices s := by
  refine ite_keeps atSlices rfl ?_
  dsimp only
  split <;> rfl

theorem atSlices_putCopy (s : State) (c : Copy) : atSlices (putCopy s c) = atSlices s := by
  have trimmed : atSlices (trimPlace (dropCopy s c.place c.line) c.place c.line) = atSlices s := atSlices_trimPlace _ _ _
  exact ite_keeps atSlices trimmed trimmed

theorem atSlices_refreshCopies (s : State) (o : Op) (a : LaneAcc) (die line : Nat) (d : LineData) (near : Place) :
    atSlices (refreshCopies s o a die line d near) = atSlices s := by
  unfold refreshCopies
  split
  · rfl
  · exact ite_keeps atSlices ((atSlices_putCopy ..).trans (ite_keeps atSlices (atSlices_putCopy ..) rfl))
      (ite_keeps atSlices (atSlices_putCopy ..) rfl)

/-- Noting what a thread has seen changes threads alone. -/
theorem noteSeen_eq (s : State) (id line off n : Nat) (stamps : Tab Nat) :
    ∃ threads, noteSeen s id line off n stamps = { s with threads := threads } := by
  unfold noteSeen
  split <;> exact ⟨_, rfl⟩

theorem atSlices_noteSeen (s : State) (id line off n : Nat) (stamps : Tab Nat) :
    atSlices (noteSeen s id line off n stamps) = atSlices s := by
  obtain ⟨threads, seen⟩ := noteSeen_eq s id line off n stamps
  rw [seen]
  rfl

theorem atSlices_patchCopies (s : State) (core : Option Nat) (l1 quad : Bool) (line off n v stamp : Nat) :
    atSlices (patchCopies s core l1 quad line off n v stamp) = atSlices s := by
  unfold patchCopies
  split <;> rfl

/-- What a store does nearer to its core as it reaches home changes the copies there, the floors, and stamps that threads have seen. -/
theorem arriveHome_eq (s : State) (o : Op) (a : LaneAcc) (v : Nat) : ∃ threads copies floors,
    arriveHome s o a v = { s with threads := threads, coh := { s.coh with copies := copies, floors := floors } } := by
  unfold arriveHome passThrough patchCopies
  dsimp only
  repeat' split
  all_goals exact ⟨_, _, _, rfl⟩

/-! ### A fill and a change of owner -/

theorem mem_putL2 {s : State} {l x : L2Line} :
    x ∈ (putL2 s l).coh.l2 ↔ x = l ∨ x ∈ s.coh.l2 ∧ ¬ (x.die = l.die ∧ x.line = l.line) := by
  simp [putL2, imp_iff_not_or]

theorem mem_setL2St {s : State} {die line : Nat} {st : LineSt} {x : L2Line} :
    x ∈ (setL2St s die line st).coh.l2 ↔ ∃ y ∈ s.coh.l2, (if y.die = die ∧ y.line = line then { y with st := st } else y) = x := by
  simp [setL2St]

theorem mem_of_l2At {s : State} {die line : Nat} {l : L2Line} (at_ : l2At s die line = some l) :
    l ∈ s.coh.l2 ∧ l.die = die ∧ l.line = line :=
  ⟨List.mem_of_find?_eq_some at_, by simpa using List.find?_some at_⟩

theorem notAt_of_l2At {s : State} {die line : Nat} (notAt : l2At s die line = none) {x : L2Line} (hx : x ∈ s.coh.l2)
    (onLine : x.line = line) : x.die ≠ die := fun same => by
  simpa [same, onLine] using List.find?_eq_none.1 notAt x hx

theorem mem_of_l2Owner {s : State} {line : Nat} {l : L2Line} (owner : l2Owner s line = some l) :
    l ∈ s.coh.l2 ∧ l.line = line :=
  ⟨List.mem_of_find?_eq_some owner, (by simpa using List.find?_some owner : l.line = line ∧ _).1⟩

theorem clean_of_l2Owner {s : State} {line : Nat} (noOwner : l2Owner s line = none) {x : L2Line} (hx : x ∈ s.coh.l2)
    (onLine : x.line = line) : x.st = .e ∨ x.st = .s := by
  have notDirty := List.find?_eq_none.1 noOwner x hx
  cases st : x.st <;> simp_all

theorem mem_of_l2Any {s : State} {line : Nat} {l : L2Line} (any : l2Any s line = some l) : l ∈ s.coh.l2 ∧ l.line = line :=
  ⟨List.mem_of_find?_eq_some any, by simpa using List.find?_some any⟩

/-- The value of a line stands when the L2s come to hold it otherwise, with that value, and memory has it where none is dirty. -/
theorem LineIs.of_l2 {s s' : State} {line key : Nat} {d : LineData} (is : LineIs s line key d)
    (rest : s' = { s with coh := { s.coh with l2 := s'.coh.l2 } }) (data : ∀ x ∈ s'.coh.l2, x.line = line → x.data = d)
    (clean : (∀ x ∈ s'.coh.l2, x.line = line → x.st = .e ∨ x.st = .s) → memLine s line key = .data d) : LineIs s' line key d := by
  obtain ⟨noLocket, notRemote, noWb, notPoisoned, -, -⟩ := is
  rw [rest]
  exact ⟨noLocket, notRemote, noWb, notPoisoned, data, clean⟩

/-- What a fill leaves: the line's value stands, and where no copy is read-only the die has come to hold it. -/
def Filled (s s' : State) (die line key : Nat) (d : LineData) : Prop :=
  LineIs s' line key d ∧ s'.reg = s.reg ∧
    ((∀ x ∈ s.coh.l2, x.line = line → x.ro = false) → ∃ x ∈ s'.coh.l2, x.line = line ∧ x.die = die)

/-- A line of the value that a die takes beside what the L2s hold, whose states may change. -/
theorem Filled.of_putL2 {s s1 : State} {die line key : Nat} {d : LineData} (is : LineIs s line key d)
    (rest : s1 = { s with coh := { s.coh with l2 := s1.coh.l2 } })
    (data : ∀ x ∈ s1.coh.l2, x.line = line → x.data = d) {l : L2Line} (onLine : l.line = line) (onDie : l.die = die)
    (value : l.data = d)
    (clean : (∀ x ∈ (putL2 s1 l).coh.l2, x.line = line → x.st = .e ∨ x.st = .s) → memLine s line key = .data d) :
    Filled s (putL2 s1 l) die line key d := by
  refine ⟨is.of_l2 (by rw [rest]; rfl) (fun x hx hl => ?_) clean, by rw [rest]; rfl, fun _ => ⟨l, List.mem_cons_self, onLine, onDie⟩⟩
  rcases mem_putL2.1 hx with rfl | ⟨hx, -⟩
  · exact value
  · exact data x hx hl

theorem data_setL2St {s : State} {line : Nat} {d : LineData} (data : ∀ x ∈ s.coh.l2, x.line = line → x.data = d) (die : Nat)
    (st : LineSt) : ∀ x ∈ (setL2St s die line st).coh.l2, x.line = line → x.data = d := by
  intro x hx hl
  obtain ⟨y, hy, rfl⟩ := mem_setL2St.1 hx
  split at hl <;> exact (by split <;> exact data y hy hl)

/-- From a line that no die holds dirty, memory or the die that holds it alone serves a read. -/
theorem cleanFill_lineIs {s : State} {line key : Nat} {d : LineData} (is : LineIs s line key d) (noOwner : l2Owner s line = none)
    (die ctx : Nat) : ∃ s', cleanFill s die line key ctx = (s', .data d) ∧ Filled s s' die line key d := by
  obtain ⟨-, -, -, -, data, clean⟩ := id is
  have mem : memLine s line key = .data d := clean fun x => clean_of_l2Owner noOwner
  unfold cleanFill
  split
  next h any =>
    obtain ⟨held, onLine⟩ := mem_of_l2Any any
    split
    · obtain rfl := data h held onLine
      exact ⟨_, rfl, .of_putL2 is rfl (data_setL2St data _ _) onLine rfl rfl fun _ => mem⟩
    · rw [mem]
      exact ⟨_, rfl, .of_putL2 is rfl data rfl rfl rfl fun _ => mem⟩
  next =>
    rw [mem]
    exact ⟨_, rfl, .of_putL2 is rfl data rfl rfl rfl fun _ => mem⟩

/-- A read of a line at a slice gives its value (R368). -/
theorem fillLine_lineIs {s : State} {line key : Nat} {d : LineData} (is : LineIs s line key d) (die ctx : Nat) :
    ∃ s', fillLine s die line key ctx = (s', .data d) ∧ Filled s s' die line key d := by
  obtain ⟨-, -, noWb, notPoisoned, data, -⟩ := id is
  rw [fillLine, if_neg (by simp [notPoisoned]), noWb]
  cases at_ : l2At s die line with
  | some l =>
    obtain ⟨held, onDie, onLine⟩ := mem_of_l2At at_
    obtain rfl := data l held onLine
    exact ⟨s, rfl, is, rfl, fun _ => ⟨l, held, onLine, onDie⟩⟩
  | none =>
    cases owner : l2Owner s line with
    | none => exact cleanFill_lineIs is owner die ctx
    | some l =>
      obtain ⟨held, onLine⟩ := mem_of_l2Owner owner
      obtain rfl := data l held onLine
      dsimp only
      split
      next readOnly => exact ⟨s, rfl, is, rfl, fun writable => absurd readOnly (by simp [writable l held onLine])⟩
      next =>
        refine ⟨_, rfl, .of_putL2 is rfl (data_setL2St data _ _) onLine rfl rfl fun clean => ?_⟩
        have stays : { l with st := LineSt.o } ∈ (putL2 (setL2St s l.die line .o)
            { l with die := die, st := .s, excl := none }).coh.l2 :=
          mem_putL2.2 (.inr ⟨mem_setL2St.2 ⟨l, held, by simp [onLine]⟩, fun same => notAt_of_l2At at_ held onLine same.1⟩)
        rcases clean _ stays onLine with st | st <;> cases st

/-- A die holds a line alone, dirty, with a value. -/
def HeldDirty (s : State) (die line : Nat) (d : LineData) : Prop :=
  (∃ x ∈ s.coh.l2, x.line = line ∧ x.die = die) ∧ ∀ x ∈ s.coh.l2, x.line = line → x.die = die ∧ x.st = .m ∧ x.data = d

theorem HeldDirty.of_l2 {s s' : State} {die line : Nat} {d : LineData} (held : HeldDirty s die line d)
    (same : s'.coh.l2 = s.coh.l2) : HeldDirty s' die line d := by
  rwa [HeldDirty, same]

/-- The L2 lines of a line changed alike, in their data or in the quad that holds them. -/
theorem HeldDirty.map {s s' : State} {die line : Nat} {d d' : LineData} (held : HeldDirty s die line d) {f : L2Line → L2Line}
    (mapped : s'.coh.l2 = s.coh.l2.map f) (lines : ∀ x, (f x).line = x.line ∧ (f x).die = x.die ∧ (f x).st = x.st)
    (data : ∀ x, x.line = line → x.die = die → x.data = d → (f x).data = d') : HeldDirty s' die line d' := by
  obtain ⟨⟨x, hx, onLine, onDie⟩, all⟩ := held
  rw [HeldDirty, mapped]
  refine ⟨⟨f x, List.mem_map_of_mem hx, by simp [lines, onLine], by simp [lines, onDie]⟩, List.forall_mem_map.2 fun y hy hl => ?_⟩
  rw [(lines y).1] at hl
  obtain ⟨yDie, ySt, yData⟩ := all y hy hl
  exact ⟨by simp [lines, yDie], by simp [lines, ySt], data y hl yDie yData⟩

theorem landLine_none {s : State} {line : Nat} (noWb : wbAt s line = none) : landLine s line = s := by
  rw [landLine, noWb]

/-- A die that takes ownership of a line holds it alone and dirty (R369). -/
theorem takeOwnership_lineIs {s : State} {line key : Nat} {d : LineData} (is : LineIs s line key d)
    (writable : ∀ x ∈ s.coh.l2, x.line = line → x.ro = false) (die ctx : Nat) :
    ∃ s', takeOwnership s die line key ctx = (s', .data d) ∧ HeldDirty s' die line d ∧ s'.reg = s.reg := by
  obtain ⟨s1, filled, ⟨-, -, -, -, data, -⟩, reg, holds⟩ := fillLine_lineIs is die ctx
  obtain ⟨x, hx, onLine, onDie⟩ := holds writable
  refine ⟨setL2St { s1 with coh := { s1.coh with l2 := s1.coh.l2.filter fun x => !(x.line == line && x.die != die) } } die line .m,
    by rw [takeOwnership, landLine_none is.2.2.1, filled], ⟨?_, ?_⟩, reg⟩
  · exact ⟨_, mem_setL2St.2 ⟨x, by simp [hx, onDie], rfl⟩, by simp [onLine, onDie], by simp [onLine, onDie]⟩
  · intro y hy hl
    obtain ⟨z, hz, rfl⟩ := mem_setL2St.1 hy
    have zLine : z.line = line := by split at hl <;> exact hl
    obtain ⟨zHeld, zDie⟩ : z ∈ s1.coh.l2 ∧ z.die = die := by simpa [zLine] using hz
    simp [zLine, zDie, data z zHeld zLine]

/-! ### Lines without live tags (R129) -/

theorem taggedDie_eq_none_iff {s : State} {line : Nat} :
    taggedDie s line = none ↔ ∀ l ∈ s.reg.tags, l.line = line → tagLive l = false := by
  simp [taggedDie]

theorem taggedDie_enterSlice {s : State} {line : Nat} (untagged : taggedDie s line = none) (die : Nat) :
    taggedDie (enterSlice s die line) line = none := by
  unfold enterSlice
  split
  · rw [taggedDie_eq_none_iff] at untagged ⊢
    exact fun l hl => untagged l (List.mem_filter.1 hl).1
  · exact untagged

/-- The tag a slice keeps for a line without live ones has neither readers nor a writer. -/
theorem lineTag_untagged {s : State} {line : Nat} (untagged : taggedDie s line = none) (die : Nat) :
    (lineTag s die line).line = line ∧ (lineTag s die line).readers = [] ∧ (lineTag s die line).writer = none := by
  unfold lineTag
  split
  next l found =>
    obtain ⟨-, onLine⟩ : l.die = die ∧ l.line = line := by simpa using List.find?_some found
    have dead := taggedDie_eq_none_iff.1 untagged l (List.mem_of_find?_eq_some found) onLine
    simpa [tagLive, onLine] using dead
  next => exact ⟨rfl, rfl, rfl⟩

theorem taggedDie_putTag {s : State} {line : Nat} (untagged : taggedDie s line = none) {l : LineTag} (readers : l.readers = [])
    (writer : l.writer = none) : taggedDie (putTag s l) line = none := by
  rw [taggedDie_eq_none_iff] at untagged ⊢
  refine List.forall_mem_cons.2 ⟨fun _ => by simp [tagLive, readers, writer], fun x hx => untagged x (List.mem_filter.1 hx).1⟩

/-- An access to a line without live tags gives it none. -/
theorem taggedDie_commitPos {s : State} {line : Nat} (untagged : taggedDie s line = none) (die : Nat) (reads writes : Bool) :
    taggedDie (commitPos s die line reads writes) line = none := by
  obtain ⟨-, readers, writer⟩ := lineTag_untagged untagged die
  simp only [commitPos, readers, writer, lowerTags, List.foldl_nil, sendTag, ite_self]
  exact taggedDie_putTag untagged rfl rfl

/-! ### A lane's access ends -/

/-- The lanes of an operation, those of a number changed. -/
def changeLanes (o : Op) (lane : Nat) (f : LaneAcc → LaneAcc) : List LaneAcc := o.lanes.map fun a => if a.lane = lane then f a else a

theorem forall_changeLanes {f : LaneAcc → LaneAcc} {P : LaneAcc → Prop} (changed : ∀ y, P (f y)) (o : Op) (lane : Nat) :
    ∀ x ∈ changeLanes o lane f, x.lane = lane → P x := by
  refine List.forall_mem_map.2 fun y _ same => ?_
  by_cases here : y.lane = lane
  · simpa [here] using changed y
  · simp [here] at same

theorem phase_changeLanes (o : Op) (lane : Nat) (phase : LanePhase) :
    ∀ x ∈ changeLanes o lane fun a => { a with phase := phase }, x.lane = lane → x.phase = phase :=
  forall_changeLanes (P := fun x => x.phase = phase) (fun _ => rfl) o lane

theorem find_modLane {s : State} {op : Nat} {o : Op} (listed : tabFind s.ops op = some o) (lane : Nat) (f : LaneAcc → LaneAcc) :
    tabFind (modLane s op lane f).ops op = some { o with lanes := changeLanes o lane f } := by
  simp [modLane, tabFind_tabMod, listed, changeLanes]

theorem find_laneDoneWith {s : State} {op : Nat} {o : Op} (listed : tabFind s.ops op = some o) (lane : Nat) (res : Word) (w : Wct) :
    tabFind (laneDoneWith s op lane res w).ops op =
      some { o with lanes := changeLanes o lane fun a => { a with phase := .done, res := res }, wct := o.wct.join w } := by
  simp [laneDoneWith, tabFind_tabMod, find_modLane listed]

theorem laneDone_laneDoneWith {s : State} {op : Nat} {o : Op} (listed : tabFind s.ops op = some o) (lane : Nat) (res : Word)
    (w : Wct) : LaneDone (laneDoneWith s op lane res w) op lane res :=
  ⟨_, find_laneDoneWith listed lane res w, forall_changeLanes (fun _ => ⟨rfl, rfl⟩) o lane⟩

/-- An operation that has not returned does not leave as a lane of it ends. -/
theorem settleOp_out {s : State} {op : Nat} {o : Op} (listed : tabFind s.ops op = some o) (out : o.back = false) : settleOp s op = s := by
  simp [settleOp, listed, out]

/-! ### A read at the slice (R368) -/

section Slice

variable {s : State} {op : Nat} {o : Op} {a : LaneAcc} {d : LineData} (listed : tabFind s.ops op = some o)
  (is : LineIs s (lineOf a.pa) a.key d)

/-- A quad that holds a line exclusively gives it back with its value. -/
theorem LineIs.recallExcl {s : State} {line key : Nat} {d : LineData} (is : LineIs s line key d) :
    LineIs (recallExcl s line) line key d := by
  obtain ⟨-, -, -, -, data, clean⟩ := id is
  refine is.of_l2 rfl ?_ fun dirty => clean fun x hx hl => ?_
  · refine List.forall_mem_map.2 fun x hx hl => ?_
    split at hl <;> split <;> exact data x hx hl
  · have := dirty _ (List.mem_map_of_mem hx)
    simpa [hl] using this

include listed is

theorem readLane_lineIs (die : Nat) :
    ∃ s1 w, readLane s op o a die = laneDoneWith s1 op a.lane (BitVec.ofNat 64 (lineGet d (a.pa % 128) a.n)) w ∧
      tabFind s1.ops op = some o ∧ LineIs s1 (lineOf a.pa) a.key d := by
  obtain ⟨s1, filled, lineIs, -⟩ := fillLine_lineIs is.recallExcl die o.ctx
  let s2 := noteStream (noteMiss (commitPos s1 die (lineOf a.pa) true false) o (lineOf a.pa)) o
  let s3 := refreshCopies s2 o a die (lineOf a.pa) d (nearPlace s o (o.core.getD 0))
  let s4 := noteSeen s3 o.thread (lineOf a.pa) (a.pa % 128) a.n (laneStamps s3 a)
  have slices : atSlices s4 = atSlices s1 := calc
    _ = atSlices s3 := atSlices_noteSeen ..
    _ = atSlices s2 := atSlices_refreshCopies ..
    _ = atSlices (commitPos s1 die (lineOf a.pa) true false) := atSlices_noteMiss ..
    _ = atSlices s1 := atSlices_commitPos ..
  have ops : s4.ops = s.ops := (ops_of_atSlices slices).trans (ops_of_besideMemory ((besideMemory_of_fillLine filled).trans rfl))
  exact ⟨s4, Wct.flat (rtNs s), by rw [readLane, filled], (congrArg (tabFind · op) ops).trans listed, lineIs.of_atSlices slices⟩

end Slice

/-! ### A write at the slice (R108, R369) -/

/-- A line after an access has been performed on it. -/
def lineAfter (o : Op) (a : LaneAcc) (d : LineData) : LineData :=
  match newValue o a (lineGet d (a.pa % 128) a.n) with
  | some v => linePut d (a.pa % 128) a.n v
  | none => d

theorem sliceWrite_heldDirty {s : State} {die line : Nat} {d : LineData} (held : HeldDirty s die line d) (off n v : Nat) :
    HeldDirty (sliceWrite s die line off n d v) die line (linePut d off n v) :=
  held.map rfl (fun x => by split <;> exact ⟨rfl, rfl, rfl⟩) fun x onLine onDie _ => by simp [onLine, onDie]

theorem putLane_heldDirty {s : State} {o : Op} {a : LaneAcc} {die : Nat} {d : LineData} (held : HeldDirty s die (lineOf a.pa) d) (v : Nat) :
    HeldDirty (putLane s o a die d v) die (lineOf a.pa) (linePut d (a.pa % 128) a.n v) := by
  obtain ⟨threads, copies, floors, home⟩ := arriveHome_eq (sliceWrite s die (lineOf a.pa) (a.pa % 128) a.n d v) o a v
  exact (sliceWrite_heldDirty held (a.pa % 128) a.n v).of_l2 (by rw [putLane, home]; rfl)

theorem putLane_rest (s : State) (o : Op) (a : LaneAcc) (die : Nat) (d : LineData) (v : Nat) :
    (putLane s o a die d v).ops = s.ops ∧ (putLane s o a die d v).reg.tags = s.reg.tags := by
  obtain ⟨threads, copies, floors, home⟩ := arriveHome_eq (sliceWrite s die (lineOf a.pa) (a.pa % 128) a.n d v) o a v
  rw [putLane, home]
  exact ⟨rfl, rfl⟩

/-- The state after the new value of an access, if it has one, has been written to the line that a die holds. -/
def putNew (s : State) (o : Op) (a : LaneAcc) (die : Nat) (d : LineData) : State :=
  match newValue o a (lineGet d (a.pa % 128) a.n) with
  | none => s
  | some v => putLane s o a die d v

theorem putNew_heldDirty {s : State} {a : LaneAcc} {die : Nat} {d : LineData} (held : HeldDirty s die (lineOf a.pa) d) (o : Op) :
    HeldDirty (putNew s o a die d) die (lineOf a.pa) (lineAfter o a d) := by
  rw [putNew, lineAfter]
  cases newValue o a (lineGet d (a.pa % 128) a.n) with
  | none => exact held
  | some v => exact putLane_heldDirty held v

theorem putNew_rest (s : State) (o : Op) (a : LaneAcc) (die : Nat) (d : LineData) :
    (putNew s o a die d).ops = s.ops ∧ (putNew s o a die d).reg.tags = s.reg.tags := by
  unfold putNew
  split
  · exact ⟨rfl, rfl⟩
  · exact putLane_rest ..

theorem holdExcl_heldDirty {s : State} {die line : Nat} {d : LineData} (held : HeldDirty s die line d) (o : Op) :
    HeldDirty (holdExcl s o die line) die line d := by
  unfold holdExcl
  split
  · exact held
  · exact held
  · split
    · exact held.map rfl (fun x => by split <;> exact ⟨rfl, rfl, rfl⟩) fun x _ _ data => by split <;> exact data
    · exact held
  · exact held

theorem holdExcl_rest (s : State) (o : Op) (die line : Nat) :
    (holdExcl s o die line).ops = s.ops ∧ (holdExcl s o die line).reg = s.reg := by
  unfold holdExcl
  repeat' split
  all_goals exact ⟨rfl, rfl⟩

/-- The state after an access that writes has been performed on a line that a die has just taken. -/
def wroteTaken (s : State) (o : Op) (a : LaneAcc) (die : Nat) (d : LineData) : State :=
  holdExcl (putNew (commitPos s die (lineOf a.pa) (kindReads o.kind) true) o a die d) o die (lineOf a.pa)

theorem wroteTaken_heldDirty {s : State} {a : LaneAcc} {die : Nat} {d : LineData} (held : HeldDirty s die (lineOf a.pa) d) (o : Op) :
    HeldDirty (wroteTaken s o a die d) die (lineOf a.pa) (lineAfter o a d) :=
  holdExcl_heldDirty (putNew_heldDirty (held.of_l2 (l2_of_atSlices (atSlices_commitPos ..))) o) o

theorem wroteTaken_ops (s : State) (o : Op) (a : LaneAcc) (die : Nat) (d : LineData) : (wroteTaken s o a die d).ops = s.ops :=
  calc
    _ = (commitPos s die (lineOf a.pa) (kindReads o.kind) true).ops := (holdExcl_rest ..).1.trans (putNew_rest ..).1
    _ = s.ops := ops_of_besideMemory (besideMemory_commitPos ..)

theorem wroteTaken_untagged {s : State} {a : LaneAcc} (untagged : taggedDie s (lineOf a.pa) = none) (o : Op) (die : Nat) (d : LineData) :
    taggedDie (wroteTaken s o a die d) (lineOf a.pa) = none := by
  rw [wroteTaken, taggedDie, (holdExcl_rest ..).2, (putNew_rest ..).2]
  exact taggedDie_commitPos untagged ..

theorem besideMemory_portRecall (s : State) (o : Op) (die line : Nat) : besideMemory (portRecall s o die line) = besideMemory s := by
  unfold portRecall
  split
  · rfl
  · rfl
  · exact ite_keeps besideMemory ((besideMemory_landLine _ _).trans (besideMemory_evictLine _ _ _)) rfl

theorem portRecall_stays {o : Op} (stays : o.kind = .store ∨ o.scope < 4) (s : State) (die line : Nat) : portRecall s o die line = s := by
  unfold portRecall
  split
  · rfl
  · rfl
  next store _ =>
    have narrow := stays.resolve_left store
    exact if_neg fun wide => absurd wide.1 (by omega)

theorem landLine_l2 (s : State) (line : Nat) : (landLine s line).coh.l2 = s.coh.l2 := by
  unfold landLine
  split
  next w _ =>
    obtain ⟨m, written⟩ := writeBack_eq (dropWb s line) w.held
    rw [written]
    rfl
  next => rfl

/-- An evicted line has left its die's L2. -/
theorem evictLine_l2 {s : State} {die line : Nat} (held : (l2At s die line).isSome = true) :
    (evictLine s die line).coh.l2 = (dropL2 s die line).coh.l2 := by
  obtain ⟨l, at_⟩ := Option.isSome_iff_exists.1 held
  rw [evictLine, at_]
  dsimp only
  split
  · exact landLine_l2 _ _
  · rfl

/-- A line that an atomic of `.pod` or `.sys` scope has had recalled is with no L2 (R108). -/
theorem portRecall_gone {s : State} {o : Op} {die line : Nat} {d : LineData} (held : HeldDirty s die line d) (notStore : o.kind ≠ .store)
    (notStk : o.kind ≠ .stk) (wide : 4 ≤ o.scope) (untagged : taggedDie s line = none) :
    ∀ x ∈ (portRecall s o die line).coh.l2, x.line ≠ line := by
  obtain ⟨⟨x, hx, onLine, onDie⟩, all⟩ := held
  have there : (l2At s die line).isSome = true := List.find?_isSome.2 ⟨x, hx, by simp [onLine, onDie]⟩
  have recalled : portRecall s o die line = landLine (evictLine s die line) line := by
    unfold portRecall
    split
    · contradiction
    · contradiction
    · exact if_pos ⟨wide, by rw [untagged]; rfl⟩
  rw [recalled, landLine_l2, evictLine_l2 there]
  intro y hy onLine
  obtain ⟨hy, gone⟩ := List.mem_filter.1 hy
  simp [onLine, (all y hy onLine).1] at gone

theorem writeLane_eq {s s1 : State} {o : Op} {a : LaneAcc} {die : Nat} {d : LineData} (writable : roLine s (lineOf a.pa) = false)
    (taken : takeOwnership (recallExcl s (lineOf a.pa)) die (lineOf a.pa) a.key o.ctx = (s1, .data d)) (op : Nat) :
    ∃ threads w, writeLane s op o a die = laneDoneWith { portRecall (wroteTaken s1 o a die d) o die (lineOf a.pa) with threads := threads }
      op a.lane (BitVec.ofNat 64 (lineGet d (a.pa % 128) a.n)) w := by
  let s2 := portRecall (wroteTaken s1 o a die d) o die (lineOf a.pa)
  obtain ⟨threads, seen⟩ := noteSeen_eq s2 o.thread (lineOf a.pa) (a.pa % 128) a.n (laneStamps s2 a)
  refine ⟨threads, homeWct s o a (lineOf a.pa) die, ?_⟩
  rw [← seen, writeLane, if_neg (by simp [writable]), taken]
  rfl

/-- A write of a lane: the die comes to hold the line alone, dirty, as it is after the access; the hub may then recall it. -/
theorem writeLane_lineIs {s : State} {op : Nat} {o : Op} {a : LaneAcc} {d : LineData} (listed : tabFind s.ops op = some o)
    (is : LineIs s (lineOf a.pa) a.key d) (writable : ∀ x ∈ s.coh.l2, x.line = lineOf a.pa → x.ro = false) (die : Nat) :
    ∃ s1 s2 w, writeLane s op o a die = laneDoneWith s2 op a.lane (BitVec.ofNat 64 (lineGet d (a.pa % 128) a.n)) w ∧
      tabFind s2.ops op = some o ∧ s2.coh.l2 = (portRecall s1 o die (lineOf a.pa)).coh.l2 ∧
      HeldDirty s1 die (lineOf a.pa) (lineAfter o a d) ∧ (taggedDie s (lineOf a.pa) = none → taggedDie s1 (lineOf a.pa) = none) := by
  have notRo : roLine s (lineOf a.pa) = false := List.any_eq_false.2 fun x hx => by simpa using writable x hx
  have writableNow : ∀ x ∈ (recallExcl s (lineOf a.pa)).coh.l2, x.line = lineOf a.pa → x.ro = false :=
    List.forall_mem_map.2 fun x hx => by split <;> exact writable x hx
  obtain ⟨s1, taken, held, reg⟩ := takeOwnership_lineIs is.recallExcl writableNow die o.ctx
  obtain ⟨threads, w, written⟩ := writeLane_eq notRo taken op
  have ops : (portRecall (wroteTaken s1 o a die d) o die (lineOf a.pa)).ops = s.ops := calc
    _ = (wroteTaken s1 o a die d).ops := ops_of_besideMemory (besideMemory_portRecall ..)
    _ = s1.ops := wroteTaken_ops ..
    _ = s.ops := ops_of_besideMemory ((besideMemory_of_takeOwnership taken).trans rfl)
  exact ⟨wroteTaken s1 o a die d, _, w, written, (congrArg (tabFind · op) ops).trans listed, rfl, wroteTaken_heldDirty held o,
    fun untagged => wroteTaken_untagged (by rwa [taggedDie, reg]) o die d⟩

/-! ### The event of an access at its slice (R131) -/

theorem lane_of_inFlight {s : State} {op lane : Nat} {o : Op} {a : LaneAcc} (inFlight : LaneInFlight s op lane o a) : a.lane = lane := by
  simpa using List.find?_some inFlight.2

theorem onLane_inFlight {s : State} {op lane : Nat} {o : Op} {a : LaneAcc} (inFlight : LaneInFlight s op lane o a) (name : String)
    (k : Op → LaneAcc → Out) : onLane s name op lane k = k o a := by
  rw [onLane, inFlight.1]
  dsimp only
  rw [inFlight.2]

theorem combine_noPartials {s : State} {line : Nat} (none : linePartials s line = []) : combine s line = s := by
  rw [combine, none]

theorem poisonLine_spec (s : State) (line : Nat) : ∃ lines, poisonLine s line = { s with mem := { s.mem with poison := lines } } ∧
    ∀ x, x ∈ lines ↔ x = line ∨ x ∈ s.mem.poison := by
  unfold poisonLine
  split
  next there =>
    have there : line ∈ s.mem.poison := by simpa [poisoned] using there
    exact ⟨_, rfl, fun x => ⟨.inr, by rintro (rfl | hx) <;> assumption⟩⟩
  next => exact ⟨_, rfl, fun x => List.mem_cons⟩

theorem settleOp_coh (s : State) (op : Nat) : (settleOp s op).coh = s.coh := by
  unfold settleOp
  split
  · split <;> rfl
  · rfl

section Event

variable {s : State} {op lane : Nat} {o : Op} {a : LaneAcc} (inFlight : LaneInFlight s op lane o a)

include inFlight

theorem exec_sliceAccess (ready : sliceReady s o a = true) (stays : (locketAt s (lineOf a.pa)).any (opLocates s o) = false) :
    exec (.nonregionSliceAccess op lane 0) s = .next (settleOp (performLane s op o a) op) := by
  rw [exec_nonregionSliceAccess, execNonregionSliceAccess, onLane_inFlight inFlight]
  simp [ready, stays]

/-- A load or a value-returning atomic that meets poison fails (R374). -/
theorem lanePoison_fails (path : o.path = .ld ∨ o.path = .atm) (sub : Nat) :
    (lanePoison s op o a sub).coh = s.coh ∧ (lanePoison s op o a sub).mem = s.mem ∧
      ∃ o', tabFind (lanePoison s op o a sub).ops op = some o' ∧ o'.back = o.back ∧
        ∀ x ∈ o'.lanes, x.lane = lane → x.phase = .failed 0x15 sub (lineOf a.pa * 128) 0 := by
  obtain rfl := lane_of_inFlight inFlight
  have failed := find_modLane inFlight.1 a.lane fun x => { x with phase := .failed cPOISON sub (lineOf a.pa * 128) 0 }
  rw [lanePoison, if_pos path]
  split <;> exact ⟨rfl, rfl, _, failed, rfl, phase_changeLanes o a.lane _⟩

/-- Another write that meets poison is acknowledged, and its line is poisoned (R374). -/
theorem lanePoison_lost (path : ¬ (o.path = .ld ∨ o.path = .atm)) :
    let t := lanePoison s op o a 0x01
    t.coh = s.coh ∧ t.mem = { s.mem with poison := t.mem.poison } ∧ (∀ x, x ∈ t.mem.poison ↔ x = lineOf a.pa ∨ x ∈ s.mem.poison) ∧
      LaneDone t op lane 0 ∧ ∃ o', tabFind t.ops op = some o' ∧ o'.back = o.back := by
  obtain rfl := lane_of_inFlight inFlight
  have performed := find_laneDoneWith inFlight.1 a.lane 0 (Wct.flat (rtNs s))
  have ends := laneDone_laneDoneWith inFlight.1 a.lane 0 (Wct.flat (rtNs s))
  obtain ⟨lines, marked, poison⟩ := poisonLine_spec { laneDoneWith s op a.lane 0 (Wct.flat (rtNs s)) with
    ras := { s.ras with lostSt := s.ras.lostSt + 1 } } (lineOf a.pa)
  have lost : lanePoison s op o a 0x01 = _ := (if_neg path).trans marked
  rw [lost]
  exact ⟨rfl, rfl, poison, ends, _, performed, rfl⟩

end Event

/-! ### Accesses served or performed nearer to the core (R95, R100, R105) -/

theorem serveCopy_slices (s : State) (o : Op) (a : LaneAcc) (c : Copy) : atSlices (serveCopy s o a c).1 = atSlices s := by
  have seen : atSlices (noteSeen (noteStream s o) o.thread c.line (a.pa % 128) a.n c.stamps) = atSlices s :=
    (atSlices_noteSeen ..).trans rfl
  have missed : atSlices (noteMiss (noteSeen (noteStream s o) o.thread c.line (a.pa % 128) a.n c.stamps) o c.line) = atSlices s :=
    (atSlices_noteMiss ..).trans seen
  unfold serveCopy
  dsimp only
  split
  · exact seen
  · split
    · exact seen
    · split
      · exact ite_keeps (fun r : State × Word => atSlices r.1) missed ((atSlices_putCopy ..).trans missed)
      · exact ite_keeps (fun r : State × Word => atSlices r.1) missed ((atSlices_putCopy ..).trans missed)

theorem serveCopy_value (s : State) (o : Op) (a : LaneAcc) (c : Copy) :
    (serveCopy s o a c).2 = BitVec.ofNat 64 (lineGet c.data (a.pa % 128) a.n) := by
  unfold serveCopy
  dsimp only
  repeat' split
  all_goals rfl

/-- A store of narrow scope at a level of its quad changes copies, stamps and its own operation. -/
theorem nearLane_eq (s : State) (op : Nat) (o : Op) (a : LaneAcc) (level : Nat) : ∃ s1 wct, atSlices s1 = atSlices s ∧
    nearLane s op o a level = { modLane s1 op a.lane fun x => { x with phase := .near level (s.freeCtr + 1) } with
      ops := tabMod (modLane s1 op a.lane fun x => { x with phase := .near level (s.freeCtr + 1) }).ops op fun x =>
        { x with wct := x.wct.join wct } } := by
  cases stamped : nearStamp a with
  | none =>
    rw [nearLane, stamped]
    exact ⟨_, _, (atSlices_noteSeen ..).trans (atSlices_patchCopies ..), rfl⟩
  | some stamp =>
    rw [nearLane, stamped]
    have settled : atSlices (settleStamp s (lineOf a.pa) stamp) = atSlices s := rfl
    exact ⟨_, _, (atSlices_noteSeen ..).trans ((atSlices_patchCopies ..).trans settled), rfl⟩

section Near

variable {s : State} {op lane : Nat} {o : Op} {a : LaneAcc} (inFlight : LaneInFlight s op lane o a)

include inFlight

/-- A load served by a leased copy that may serve it gets the copy's bytes. -/
theorem exec_copyAccess {k : Nat} {c : Copy} (copy : s.coh.copies[k]? = some c) (runs : laneEnded a = false)
    (free : blockedByEarlier s o a = false) (serves : mayServe s o a c = true) :
    exec (.nonregionSliceAccess op lane (k + 1)) s =
      .next (laneDoneWith (serveCopy s o a c).1 op lane (serveCopy s o a c).2 (Wct.flat (rtNs s))) := by
  have load : o.kind = .load ∧ o.acq = false ∧ o.region = 0 := by
    unfold mayServe at serves
    split at serves
    · simp only [Bool.and_eq_true, beq_iff_eq, Bool.not_eq_true'] at serves
      tauto
    · cases serves
  obtain ⟨kind, notAcq, region⟩ := load
  rw [exec_nonregionSliceAccess, execNonregionSliceAccess, onLane_inFlight inFlight]
  simp [kind, notAcq, region, copy, runs, free, serves]

/-- An acquiring load of narrow scope is served with the bytes of stores that have been performed at its coherence point. -/
theorem exec_nearLoad {stamps : Tab Nat} {v : Word} (serves : nearServes s o a = true) (bytes : nearBytes s o a = some (stamps, v)) :
    exec (.nonregionSliceAccess op lane (o.scope + 1)) s = .next (laneDoneWith
      (noteSeen s o.thread (lineOf a.pa) (a.pa % 128) a.n stamps) op lane v (Wct.flat (rtNs s))) := by
  have load : o.kind = .load ∧ o.acq = true := by
    simp only [nearServes, Bool.and_eq_true, beq_iff_eq] at serves
    tauto
  rw [exec_nonregionSliceAccess, execNonregionSliceAccess, onLane_inFlight inFlight]
  simp [load.1, load.2, bytes, serves]

/-- A store of narrow scope is performed at a level of its quad. -/
theorem exec_nearStore {level : Nat} (ready : nearReady s o a level = true) :
    exec (.nonregionSliceAccess op lane (level + 1)) s = .next (nearLane s op o a level) := by
  have store : o.kind = .store := by
    simp only [nearReady, Bool.and_eq_true, beq_iff_eq] at ready
    tauto
  rw [exec_nonregionSliceAccess, execNonregionSliceAccess, onLane_inFlight inFlight]
  simp [store, ready]

theorem nearLane_spec (level : Nat) :
    (∃ o', tabFind (nearLane s op o a level).ops op = some o' ∧
      ∀ x ∈ o'.lanes, x.lane = lane → x.phase = .near level (s.freeCtr + 1)) ∧
      (nearLane s op o a level).coh.l2 = s.coh.l2 ∧ (nearLane s op o a level).mem = s.mem := by
  obtain rfl := lane_of_inFlight inFlight
  obtain ⟨s1, wct, slices, near⟩ := nearLane_eq s op o a level
  have listed : tabFind s1.ops op = some o := (congrArg (tabFind · op) (ops_of_atSlices slices)).trans inFlight.1
  have there := find_modLane listed a.lane fun x => { x with phase := .near level (s.freeCtr + 1) }
  rw [near]
  refine ⟨⟨{ o with
      lanes := changeLanes o a.lane fun x => { x with phase := .near level (s.freeCtr + 1) }, wct := o.wct.join wct }, ?_,
      phase_changeLanes o a.lane _⟩, l2_of_atSlices (s' := s1) slices, mem_of_atSlices (s' := s1) slices⟩
  simp [tabFind_tabMod, there]

end Near

/-! ### Where an access is performed (R131, R392) -/

section Perform

variable {s : State} {op : Nat} {o : Op} {a : LaneAcc} {d : LineData}

theorem performLane_poison (meets : slotEmpty s a.pa a.key = true ∨ poisoned s (lineOf a.pa) = true) :
    performLane s op o a = lanePoison s op o a 0x01 :=
  if_pos meets

theorem unpark_none {line : Nat} (none : locketAt s line = none) : unpark s line = s := by
  rw [unpark, none]

/-- The state in which the die of a line's live tags, or else the access's own, performs an access to the line. -/
def atItsSlice (s : State) (o : Op) (a : LaneAcc) : State := enterSlice s ((taggedDie s (lineOf a.pa)).getD o.die) (lineOf a.pa)

theorem atSlices_atItsSlice (s : State) (o : Op) (a : LaneAcc) : atSlices (atItsSlice s o a) = atSlices s := atSlices_enterSlice ..

variable (keyed : slotEmpty s a.pa a.key = false) (is : LineIs s (lineOf a.pa) a.key d) (alone : linePartials s (lineOf a.pa) = [])

include keyed is alone

theorem performLane_load (load : o.kind = .load) :
    performLane s op o a = readLane (atItsSlice s o a) op o a ((taggedDie s (lineOf a.pa)).getD o.die) := by
  obtain ⟨noLocket, -⟩ := is.of_atSlices (atSlices_atItsSlice s o a)
  obtain ⟨-, -, -, notPoisoned, -⟩ := is
  rw [atItsSlice] at noLocket
  rw [performLane, if_neg (by simp [keyed, notPoisoned]), combine_noPartials alone]
  simp only [load, noLocket]
  rfl

theorem performLane_write (writes : o.kind = .store ∨ o.kind = .atomic ∨ o.kind = .cas) :
    performLane s op o a = writeLane (atItsSlice s o a) op o a ((taggedDie s (lineOf a.pa)).getD o.die) := by
  obtain ⟨noLocket, -⟩ := is.of_atSlices (atSlices_atItsSlice s o a)
  obtain ⟨-, -, -, notPoisoned, -⟩ := is
  have stays := unpark_none noLocket
  rw [atItsSlice] at noLocket stays
  rw [performLane, if_neg (by simp [keyed, notPoisoned]), combine_noPartials alone]
  rcases writes with kind | kind | kind <;> simp only [kind, noLocket, stays] <;> rfl

end Perform

/-! ### Accesses that fail with LOCATE (R71, R73) -/

/-- A load that reaches a line parked outside its set fails with the set and the line's place. -/
theorem exec_locateFault_parked {s : State} {op lane core : Nat} {o : Op} {a : LaneAcc} {k : Locket} (inFlight : LaneInFlight s op lane o a)
    (ready : sliceReady s o a = true) (parked : locketAt s (lineOf a.pa) = some k) (load : o.kind = .load) (notLx : o.lx = false)
    (onCore : o.core = some core) (outside : locates s k o.ctx core = true) :
    exec (.locateFault op lane) s = .next (modLane s op lane fun x => { x with
      phase := .failed 0x13 0 (rsdOf k.rset k.force).toNat (locationWord s o.launch (lineOf a.pa)).toNat }) := by
  have onLine : k.line = lineOf a.pa := by simpa using List.find?_some parked
  have refused : opLocates s o k = true := by simp [opLocates, onCore, load, notLx, outside]
  rw [exec_locateFault, execLocateFault, onLane_inFlight inFlight, parked]
  simp [ready, refused, onLine, cLOCATE]

/-- An operation of one lane that passes its checks is issued again. -/
theorem reissueOp_single {s : State} {op : Nat} {o : Op} {a : LaneAcc} {x : Xl} (noScratch : a.scr = none)
    (mapped : translate s (o.core.getD hubUnit) o.ctx a.va.toNat = .ok x)
    (allowed : protSub (ctxOf s o.ctx).priv x.pte (kindWrites o.kind) = none) (single : o.lanes = [a]) :
    reissueOp s op o (fun _ => true) =
      let s1 := noteAccess s (o.core.getD hubUnit) o.ctx a.va.toNat (kindWrites o.kind)
      { s1 with ops := tabPut s1.ops op { o with lanes := [{ a with
        pa := x.pa, mt := pteMt x.pte, np := pteNp x.pte, key := pteKey x.pte, phase := .todo, res := 0 }] } } := by
  have checked : recheckLane s o a = { a with
      pa := x.pa, mt := pteMt x.pte, np := pteNp x.pte, key := pteKey x.pte, phase := .todo, res := 0 } := by
    simp [recheckLane, noScratch, mapped, allowed]
  simp [reissueOp, single, checked, hasFailed, relaunchLane, noScratch]

/-- The locate unit re-parks the line for one core more, and the access of one lane starts again. -/
theorem exec_locateResolve_single {s : State} {op core w6 w7 : Nat} {o : Op} {a : LaneAcc} {k : Locket} {x : Xl}
    (listed : tabFind s.ops op = some o) (single : o.lanes = [a]) (failed : a.phase = .failed 0x13 0 w6 w7)
    (hardware : hostAssisted s o.launch 1 (some 1) = false) (noScratch : a.scr = none) (parked : locketAt s (lineOf a.pa) = some k)
    (onCore : o.core = some core) (outside : locates s k o.ctx core = true)
    (mapped : translate (locateResolve s k core) core o.ctx a.va.toNat = .ok x)
    (allowed : protSub (ctxOf (locateResolve s k core) o.ctx).priv x.pte (kindWrites o.kind) = none) :
    let s1 := noteAccess (locateResolve s k core) core o.ctx a.va.toNat (kindWrites o.kind)
    exec (.locateResolve op) s = .next { s1 with ops := tabPut s1.ops op { o with lanes := [{ a with
      pa := x.pa, mt := pteMt x.pte, np := pteNp x.pte, key := pteKey x.pte, phase := .todo, res := 0 }] } } := by
  have refused : laneFailed cLOCATE a = true := by simp [laneFailed, failed, cLOCATE]
  have again := reissueOp_single (s := locateResolve s k core) (op := op) (o := o) (x := x) noScratch
    (by simpa [onCore] using mapped) allowed single
  rw [exec_locateResolve, execLocateResolve, listed]
  simp only [onCore, Option.getD_some] at again
  simp [single, refused, hardware, parked, onCore, outside, again]

/-! ### What the event leaves -/

section Leaves

variable {s : State} {op lane : Nat} {o : Op} {a : LaneAcc} {d : LineData} (inFlight : LaneInFlight s op lane o a)
  (ready : sliceReady s o a = true)

include inFlight ready

theorem exec_sliceAccess_poison (meets : slotEmpty s a.pa a.key = true ∨ poisoned s (lineOf a.pa) = true)
    (stays : (locketAt s (lineOf a.pa)).any (opLocates s o) = false) (out : o.back = false) :
    exec (.nonregionSliceAccess op lane 0) s = .next (lanePoison s op o a 0x01) := by
  rw [exec_sliceAccess inFlight ready stays, performLane_poison meets]
  by_cases path : o.path = .ld ∨ o.path = .atm
  · obtain ⟨-, -, o', listed, back, -⟩ := lanePoison_fails inFlight path 0x01
    rw [settleOp_out listed (back.trans out)]
  · obtain ⟨-, -, -, -, o', listed, back⟩ := lanePoison_lost inFlight path
    rw [settleOp_out listed (back.trans out)]

variable (keyed : slotEmpty s a.pa a.key = false) (is : LineIs s (lineOf a.pa) a.key d) (alone : linePartials s (lineOf a.pa) = [])

include keyed is alone

theorem exec_sliceAccess_load (load : o.kind = .load) (out : o.back = false) :
    ∃ t, exec (.nonregionSliceAccess op lane 0) s = .next t ∧
      LaneDone t op lane (BitVec.ofNat 64 (lineGet d (a.pa % 128) a.n)) ∧ LineIs t (lineOf a.pa) a.key d := by
  obtain rfl := lane_of_inFlight inFlight
  have slices := atSlices_atItsSlice s o a
  obtain ⟨s1, w, read, listed, stands⟩ := readLane_lineIs (o := o)
    ((congrArg (tabFind · op) (ops_of_atSlices slices)).trans inFlight.1) (is.of_atSlices slices) ((taggedDie s (lineOf a.pa)).getD o.die)
  rw [exec_sliceAccess inFlight ready (by rw [is.1]; rfl), performLane_load keyed is alone load, read,
    settleOp_out (find_laneDoneWith listed ..) out]
  exact ⟨_, rfl, laneDone_laneDoneWith listed .., stands⟩

theorem exec_sliceAccess_write (writable : ∀ x ∈ s.coh.l2, x.line = lineOf a.pa → x.ro = false)
    (writes : o.kind = .store ∨ o.kind = .atomic ∨ o.kind = .cas) :
    ∃ t, exec (.nonregionSliceAccess op lane 0) s = .next t ∧
      (o.back = false → LaneDone t op lane (BitVec.ofNat 64 (lineGet d (a.pa % 128) a.n))) ∧
      (o.kind = .store ∨ o.scope < 4 → HeldDirty t ((taggedDie s (lineOf a.pa)).getD o.die) (lineOf a.pa) (lineAfter o a d)) ∧
      (o.kind ≠ .store → 4 ≤ o.scope → taggedDie s (lineOf a.pa) = none → ∀ x ∈ t.coh.l2, x.line ≠ lineOf a.pa) := by
  obtain rfl := lane_of_inFlight inFlight
  have slices := atSlices_atItsSlice s o a
  obtain ⟨s1, s2, w, written, listed, l2, held, untagged⟩ := writeLane_lineIs (o := o)
    ((congrArg (tabFind · op) (ops_of_atSlices slices)).trans inFlight.1) (is.of_atSlices slices)
    (by rwa [l2_of_atSlices slices]) ((taggedDie s (lineOf a.pa)).getD o.die)
  rw [exec_sliceAccess inFlight ready (by rw [is.1]; rfl), performLane_write keyed is alone writes, written]
  have lines : (settleOp (laneDoneWith s2 op a.lane (BitVec.ofNat 64 (lineGet d (a.pa % 128) a.n)) w) op).coh.l2 =
      (portRecall s1 o ((taggedDie s (lineOf a.pa)).getD o.die) (lineOf a.pa)).coh.l2 := by
    rw [settleOp_coh]
    exact l2
  refine ⟨_, rfl, fun out => ?_, fun narrow => ?_, fun notStore wide noTags => ?_⟩
  · rw [settleOp_out (find_laneDoneWith listed ..) out]
    exact laneDone_laneDoneWith listed ..
  · rw [portRecall_stays narrow] at lines
    exact held.of_l2 lines
  · rw [lines]
    have notStk : o.kind ≠ .stk := by rcases writes with kind | kind | kind <;> simp [kind]
    exact portRecall_gone held notStore notStk wide (untagged (taggedDie_enterSlice noTags _))

end Leaves

end Sys2Proof.Machine

namespace Sys2Proof.Laws

open Sys2Proof Sys2Proof.Machine

/-- Settles O46: a line's value is followed through the fill, the change of owner and the write at its slice (`readLane_lineIs`,
`writeLane_lineIs`); poison, leased copies, the levels near the core and the locate unit have an event lemma each. -/
theorem accessesPerformed : Obligations.AccessesPerformed := by
  refine ⟨fun s op lane o a inFlight ready => ⟨?_, ?_, ?_, ?_⟩, fun s op lane o a inFlight => ⟨?_, ?_, ?_⟩, ?_⟩
  · intro meets stays out
    have event := exec_sliceAccess_poison inFlight ready meets stays out
    by_cases path : o.path = .ld ∨ o.path = .atm
    · obtain ⟨coh, mem, o', listed, -, failed⟩ := lanePoison_fails inFlight path 0x01
      have notStore : o.path ≠ .st := by rcases path with path | path <;> simp [path]
      exact ⟨_, event, coh, by rw [mem], fun _ => mem, fun store => absurd store notStore, fun _ => ⟨o', listed, failed⟩,
        fun store => absurd store notStore⟩
    · obtain ⟨coh, mem, poison, done, -⟩ := lanePoison_lost inFlight path
      exact ⟨_, event, coh, mem, fun reads => absurd reads path, fun _ => poison, fun reads => absurd reads path, fun _ => done⟩
  · exact fun d keyed is alone load out => exec_sliceAccess_load inFlight ready keyed is alone load out
  · exact fun d keyed is alone writable writes => exec_sliceAccess_write inFlight ready keyed is alone writable (by simpa using writes)
  · intro k core parked load notLx onCore outside
    obtain rfl := lane_of_inFlight inFlight
    exact ⟨_, exec_locateFault_parked inFlight ready parked load notLx onCore outside,
      ⟨_, find_modLane inFlight.1 a.lane _, phase_changeLanes o a.lane _⟩, rfl, rfl⟩
  · intro k c copy runs free out serves
    obtain rfl := lane_of_inFlight inFlight
    have slices := serveCopy_slices s o a c
    have listed := (congrArg (tabFind · op) (ops_of_atSlices slices)).trans inFlight.1
    rw [exec_copyAccess inFlight copy runs free serves, serveCopy_value]
    exact ⟨_, rfl, laneDone_laneDoneWith listed .., l2_of_atSlices (s' := (serveCopy s o a c).1) slices,
      mem_of_atSlices (s' := (serveCopy s o a c).1) slices⟩
  · intro stamps v serves bytes
    obtain ⟨threads, seen⟩ := noteSeen_eq s o.thread (lineOf a.pa) (a.pa % 128) a.n stamps
    rw [exec_nearLoad inFlight serves bytes, seen]
    exact ⟨_, rfl, laneDone_laneDoneWith inFlight.1 .., rfl, rfl⟩
  · intro level ready
    exact ⟨_, exec_nearStore inFlight ready, nearLane_spec inFlight level⟩
  · intro s op o a k core w6 w7 x listed single failed hardware noScratch parked onCore outside s1 mapped allowed
    have threads : (noteAccess s1 core o.ctx a.va.toNat (kindWrites o.kind)).threads = s.threads :=
      threads_of_besideMemory ((besideMemory_noteAccess ..).trans (besideMemory_locateResolve ..))
    exact ⟨_, exec_locateResolve_single listed single failed hardware noScratch parked onCore outside mapped allowed,
      tabFind_tabPut_self .., rfl, threads⟩

end Sys2Proof.Laws
end

/-! ## Elastic regions (04_elastic_regions.md; O22, O24 to O27)

A region is a record, the tags its slices keep for it, its tentative copies and the messages on their way to it. Each of these is read
through one function (`tabFind`, `lineTag`, `tentOf`), and the first lemmas say what the updates make of it; then come the events in the
order of a region's life. -/

namespace Sys2Proof.Machine

open Sys2Proof

/-! ### Records, tags and tentative copies -/

theorem find_modRegion {s : State} {rg : Nat} {r : Region} (listed : tabFind s.reg.regions rg = some r) (f : Region → Region) :
    tabFind (modRegion s rg f).reg.regions rg = some (f r) := by
  simp [tabFind_tabMod, listed]

/-- The tag that a slice keeps for a line is one of that die and line, listed or not. -/
theorem lineTag_place (s : State) (die line : Nat) : (lineTag s die line).die = die ∧ (lineTag s die line).line = line := by
  unfold lineTag
  split
  next l found => simpa using List.find?_some found
  next => exact ⟨rfl, rfl⟩

theorem lineTag_congr {s s' : State} (same : s'.reg.tags = s.reg.tags) (die line : Nat) : lineTag s' die line = lineTag s die line := by
  rw [lineTag, same, lineTag]

theorem lineTag_putTag {s : State} {l : LineTag} {die line : Nat} (onDie : l.die = die) (onLine : l.line = line) :
    lineTag (putTag s l) die line = l := by
  simp [lineTag, putTag, onDie, onLine]

theorem tentOf_congr {s s' : State} (same : s'.reg.tent = s.reg.tent) (rg die line : Nat) :
    tentOf s' rg die line = tentOf s rg die line := by
  rw [tentOf, same, tentOf]

theorem tentOf_putTent (s : State) (t : Tentative) : tentOf (putTent s t) t.rg t.die t.line = t.bytes := by
  simp [tentOf, putTent]

/-- Once a region's tentative copies of a line have been discarded it has none. -/
theorem tentOf_discarded {s : State} {rg die line : Nat} {before : List Tentative}
    (discarded : s.reg.tent = before.filter fun t => !(t.rg == rg && t.die == die && t.line == line)) : tentOf s rg die line = [] := by
  have none : (s.reg.tent.find? fun t => t.rg == rg && t.die == die && t.line == line) = none :=
    List.find?_eq_none.2 fun t ht => by
      rw [discarded] at ht
      simpa only [Bool.not_eq_true, Bool.not_eq_true'] using (List.mem_filter.1 ht).2
  rw [tentOf, none]

/-- The die of a line of which a region waits for one acknowledgement. -/
theorem find_onlyLine {left : List (Nat × Nat)} {d line : Nat} (only : ∀ d', (d', line) ∈ left ↔ d' = d) :
    (left.find? fun x => x.2 == line) = some (d, line) := by
  cases found : left.find? fun x => x.2 == line with
  | none => simpa using List.find?_eq_none.1 found (d, line) ((only d).2 rfl)
  | some x =>
    obtain ⟨d', line'⟩ := x
    obtain rfl : line' = line := by simpa using List.find?_some found
    rw [(only d').1 (List.mem_of_find?_eq_some found)]

/-! ### Opening (R123, R124) -/

theorem openRegion_opensRegion (s : State) (id : Nat) (t : Thread) (st : Seat) (strict : Bool) (tgt : Word) :
    opensRegion s (openRegion s id t st strict tgt) id t st strict tgt := by
  refine ⟨?_, ⟨_, _, tabFind_tabPut_self .., rfl, rfl, rfl, rfl, rfl, rfl, rfl, rfl, rfl, rfl⟩,
    fun j other => tabFind_tabPut_ne _ other _, rfl, rfl, rfl⟩
  cases strict <;> exact tabFind_tabPut_self ..

theorem rbegWith_eq {i : Instr} {s : State} {t : Thread} {st : Seat} (acts : ActsSeated s t st) (sound : illSub i = none)
    (outside : inRegion t = false) (strict : Bool) (o : BitVec 18) :
    rbegWith i strict o s = if rbegReady s s.cur t st then .next (openRegion s s.cur t st strict (hop t o))
      else .next (putThr s s.cur { t with wait := .rbeg strict (hop t o) }) := by
  rw [rbegWith, scalarOutside_run _ acts.1 sound outside, inStrand_strand acts.2, target_eq_hop]

theorem exec_rbegOpen_ready {s : State} {id : Nat} {t : Thread} {st : Seat} {strict : Bool} {tgt : Word} (waits : Waits s id t)
    (strand : t.seat = some st) (wait : t.wait = .rbeg strict tgt) (ready : rbegReady s id t st = true) :
    exec (.rbegOpen id) s = .next (openRegion s id t st strict tgt) := by
  rw [exec_rbegOpen, execRbegOpen, onThr_waits waits]
  simp [wait, strand, waits.2.2, ready]

/-- A strand with no lane block and no access outstanding may open a region where its die has a record free. -/
theorem rbegReady_of_idle {s : State} {id : Nat} {st : Seat} (t : Thread) (noBlock : st.blocks = [])
    (noAccess : ∀ o ∈ s.ops, o.2.thread ≠ id) (room : dieRegions s (st.core / 128) < 4096) : rbegReady s id t st = true := by
  have returned : acquired s id t = true := acquired_of_passes fun o ho => by simp [fencePasses, noAccess o ho]
  have performed : (s.ops.all fun o => o.2.thread != id || performedAt o.2 2) = true :=
    List.all_eq_true.2 fun o ho => by simp [noAccess o ho]
  simp [rbegReady, noBlock, returned, performed, room, Config.regionsPerDie]

theorem rbegReady_false {s : State} {id : Nat} {st : Seat} (t : Thread)
    (busy : st.blocks ≠ [] ∨ 4096 ≤ dieRegions s (st.core / 128)) : rbegReady s id t st = false := by
  rcases busy with queued | full
  · simp [rbegReady, queued]
  · simp [rbegReady, Nat.not_lt.2 full, Config.regionsPerDie]

/-! ### Messages and the freeze (R133 to R135, R137) -/

/-- A region whose bounds may still change aborts when it is told to. -/
theorem startAbort_eq_abortBegun {s : State} {rg : Nat} {r : Region} (listed : tabFind s.reg.regions rg = some r)
    (movable : regionOpen r = true) (cause fcause ucode : Nat) (pend : Option Stop) :
    startAbort s rg cause fcause ucode pend = abortBegun s rg r cause fcause ucode pend := by
  unfold startAbort
  rw [listed]
  cases phase : r.phase with
  | live => simp only [phase]; rfl
  | freezing left => simp only [phase]; rfl
  | committing left => simp [regionOpen, phase] at movable
  | aborting c f u left => simp [regionOpen, phase] at movable

section Bounds

variable {s : State} {rg lo hi : Nat} {r : Region} (listed : tabFind s.reg.regions rg = some r) (movable : regionOpen r = true)

include listed movable

theorem moveBounds_stays (order : max r.lo lo ≤ min r.hi hi)
    (allowed : r.strict = false ∨ (max r.lo lo = r.lo ∧ min r.hi hi = r.hi)) :
    moveBounds s rg lo hi = modRegion s rg fun x => { x with lo := max r.lo lo, hi := min r.hi hi } := by
  simp only [moveBounds, listed, movable]
  rw [if_neg (by simp), if_neg]
  rcases allowed with loose | ⟨loStays, hiStays⟩
  · simp [loose, Nat.not_lt.2 order]
  · simp [loStays, hiStays, loStays ▸ hiStays ▸ Nat.not_lt.2 order]

theorem moveBounds_aborts (breaks : min r.hi hi < max r.lo lo ∨ (r.strict = true ∧ (max r.lo lo ≠ r.lo ∨ min r.hi hi ≠ r.hi))) :
    moveBounds s rg lo hi = abortBegun (modRegion s rg fun x => { x with lo := max r.lo lo, hi := min r.hi hi }) rg
      { r with lo := max r.lo lo, hi := min r.hi hi } 1 0 0 none := by
  simp only [moveBounds, listed, movable]
  rw [if_neg (by simp), if_pos (by simpa using breaks)]
  exact startAbort_eq_abortBegun (find_modRegion listed _) movable ..

end Bounds

/-- The state after a message has arrived and before its region's bounds move. -/
def received (s : State) (k : Nat) : State := { s with reg := { s.reg with msgs := s.reg.msgs.eraseIdx k } }

/-- The first message of its slice and line moves one of its region's bounds. -/
theorem msgArrives_first {s : State} {k : Nat} {m : RMsg} (sent : s.reg.msgs[k]? = some m) (first : msgFirst s k m = true) (name : String) :
    msgArrives k m.raise name s = .next (if m.raise then moveBounds (received s k) m.rg m.value (2 ^ 64)
      else moveBounds (received s k) m.rg 0 m.value) := by
  rw [msgArrives, sent]
  simp only [beq_self_eq_true, first, Bool.and_self, if_true]
  rfl

section Freeze

variable {s : State} {rg : Nat} {r : Region} (listed : tabFind s.reg.regions rg = some r)

include listed

theorem exec_regionFreeze_answers {left : List (Nat × Nat)} {d line : Nat} (phase : r.phase = .freezing left)
    (only : ∀ d', (d', line) ∈ left ↔ d' = d)
    (nothingOwed : ∀ m ∈ s.reg.msgs, m.rg = rg → m.die = d → sameSlice m.line line = false) :
    exec (.regionFreeze rg line) s = .next (modRegion (putTag s
      { lineTag s d line with answered := rg :: (lineTag s d line).answered }) rg fun x =>
        { x with phase := .freezing (left.filter fun y => y != (d, line)) }) := by
  have gone : (s.reg.msgs.any fun m => m.rg == rg && m.die == d && sameSlice m.line line) = false := by
    simpa [and_assoc] using nothingOwed
  rw [exec_regionFreeze, execRegionFreeze]
  simp only [listed, phase, find_onlyLine only, gone]
  rfl

theorem exec_regionFreezeDone_fixes (phase : r.phase = .freezing []) (noMessage : ∀ m ∈ s.reg.msgs, m.rg ≠ rg) :
    exec (.regionFreezeDone rg) s = .next (modSeat (modRegion s rg fun x =>
      { x with hi := x.lo, phase := .committing (regionLines s rg) }) r.thread fun st =>
        { st with rstat := st.rstat ||| 0x20 }) := by
  have gone : (s.reg.msgs.any fun m => m.rg == rg) = false := by simpa using noMessage
  rw [exec_regionFreezeDone, execRegionFreezeDone]
  simp only [listed, phase, gone]
  rfl

end Freeze

end Sys2Proof.Machine

namespace Sys2Proof.Laws

open Sys2Proof Sys2Proof.Machine

/-- Settles O22: `rbeg` and RBEG_OPEN open a region alike (`openRegion_opensRegion`), at once or when the strand's wait ends. -/
theorem regionsOpen : Obligations.RegionsOpen := by
  refine ⟨fun s t st o acts outside => ⟨fun ready => ?_, fun waits => ?_⟩, fun s id t st strict tgt waits strand wait ready => ?_,
    fun s id t st noBlock noAccess room => rbegReady_of_idle t noBlock noAccess room, fun s id t st busy => rbegReady_false t busy⟩
  · refine ⟨⟨_, ?_, openRegion_opensRegion ..⟩, ⟨_, ?_, openRegion_opensRegion ..⟩⟩
    · rw [exec_rbeg, execRbeg, rbegWith_eq acts (illSub_rbeg o) outside, if_pos ready]
    · rw [exec_rbegStrict, execRbegStrict, rbegWith_eq acts (illSub_rbegStrict o) outside, if_pos ready]
  · have notReady : ¬ rbegReady s s.cur t st = true := by simp [waits]
    constructor
    · rw [exec_rbeg, execRbeg, rbegWith_eq acts (illSub_rbeg o) outside, if_neg notReady]
    · rw [exec_rbegStrict, execRbegStrict, rbegWith_eq acts (illSub_rbegStrict o) outside, if_neg notReady]
  · exact ⟨_, exec_rbegOpen_ready waits strand wait ready, openRegion_opensRegion ..⟩

/-- Settles O24: an arriving message moves the bounds of its region (`moveBounds_stays`) or breaks them (`moveBounds_aborts`); the
answers to a freeze have an event lemma each. -/
theorem regionMessages : Obligations.RegionMessages := by
  refine ⟨?moves, fun s rg r left listed phase =>
    ⟨fun d line only nothingOwed => exec_regionFreeze_answers listed phase only nothingOwed, ?done⟩⟩
  case moves =>
    intro s k m r sent first listed live lo hi s1 fits goes
    have movable : regionOpen r = true := by simp [regionOpen, live]
    have moves {i : Instr} {lo' hi' : Nat} (arrives : exec i s = .next (moveBounds (received s k) m.rg lo' hi'))
        (loIs : lo = max r.lo lo') (hiIs : hi = min r.hi hi') : goes i := by
      simp only [goes, s1, arrives, loIs, hiIs]
      exact ⟨fun order allowed => congrArg _ (moveBounds_stays (s := received s k) listed movable order allowed),
        fun breaks => congrArg _ (moveBounds_aborts (s := received s k) listed movable breaks)⟩
    refine ⟨fun raises => moves (lo' := m.value) (hi' := 2 ^ 64) ?_ (if_pos raises)
        ((if_pos raises).trans (Nat.min_eq_left fits).symm), fun lowers => ?_⟩
    · rw [exec_regionRaiseLo, execRegionRaiseLo, ← raises, msgArrives_first sent first, if_pos raises]
    · have notRaise : ¬ m.raise = true := by simp [lowers]
      refine moves (lo' := 0) (hi' := m.value) ?_ ((if_neg notRaise).trans (Nat.max_zero _).symm) (if_neg notRaise)
      rw [exec_regionLowerHi, execRegionLowerHi, ← lowers, msgArrives_first sent first, if_neg notRaise]
  case done =>
    rintro rfl noMessage
    exact exec_regionFreezeDone_fixes listed phase noMessage

end Sys2Proof.Laws

/-! ## Elastic regions end (04_elastic_regions.md; O25, O26)

At the final position of a commit, and in an abort, each slice settles its line and lets go on what it held behind the region; the
hypothesis is that it held nothing, so that this step only changes messages and operations (`letGo_eq`). -/

namespace Sys2Proof.Machine

open Sys2Proof

/-! ### What a slice holds behind a region (R130, R136) -/

theorem heldBehind_eq_nil_iff {s : State} {rg die line : Nat} : heldBehind s rg die line = [] ↔
    ∀ p ∈ s.ops, p.2.die = die → ∀ a ∈ p.2.lanes, lineOf a.pa = line → ∀ stamp, a.phase ≠ .held rg stamp := by
  rw [heldBehind, ← List.length_eq_zero_iff, List.length_mergeSort, List.length_eq_zero_iff, List.flatMap_eq_nil_iff]
  refine forall₂_congr fun p _ => List.filterMap_eq_nil_iff.trans ⟨fun none onDie a ha onLine stamp held => ?_, fun free a ha => ?_⟩
  · simpa [held, onDie, onLine] using none a ha
  · split
    next w stamp held => exact if_neg (by rintro ⟨rfl, onDie, onLine⟩; exact free onDie a ha onLine stamp held)
    next => rfl

/-- Accesses of other dies that go on get messages, and their operations change; those of the slice's own die do not. -/
theorem releaseCross_eq (s : State) (rg : Nat) (final : Option Nat) (die line : Nat) : ∃ (msgs : List RMsg) (f : Op → Op),
    releaseCross s rg final die line =
      { s with reg := { s.reg with msgs := msgs }, ops := s.ops.map fun p => (p.1, f p.2) } ∧
    ∀ o, (f o).die = o.die ∧ (o.die = die → f o = o) := by
  unfold releaseCross
  extract_lets held s1
  have sent : ∃ msgs, s1 = { s with reg := { s.reg with msgs := msgs } } := by
    cases final with
    | none => exact ⟨s.reg.msgs, rfl⟩
    | some position =>
      refine List.foldlRecOn (motive := fun x : State => ∃ msgs, x = { s with reg := { s.reg with msgs := msgs } }) _ _
        ⟨s.reg.msgs, rfl⟩ ?_
      rintro _ ⟨msgs, rfl⟩ p _
      exact ⟨_, rfl⟩
  obtain ⟨msgs, sent⟩ := sent
  rw [sent]
  refine ⟨msgs, fun o => { o with lanes := o.lanes.map fun a => if held o a then { a with phase := .todo } else a }, rfl,
    fun o => ⟨rfl, fun onDie => ?_⟩⟩
  have notHeld (a : LaneAcc) : held o a = false := by simp [held, onDie]
  simp [notHeld]

/-- Where a slice holds nothing behind a region, what goes on there changes only messages and operations. -/
theorem letGo_eq {s : State} {rg die line : Nat} (nothing : heldBehind s rg die line = []) (final : Option Nat) : ∃ msgs ops,
    releaseHeld (releaseCross s rg final die line) rg die line = { s with reg := { s.reg with msgs := msgs }, ops := ops } := by
  obtain ⟨msgs, f, released, own⟩ := releaseCross_eq s rg final die line
  have nothingYet : heldBehind (releaseCross s rg final die line) rg die line = [] := by
    rw [heldBehind_eq_nil_iff] at nothing ⊢
    rw [released]
    refine List.forall_mem_map.2 fun p hp onDie => ?_
    have onDie : p.2.die = die := (own p.2).1.symm.trans onDie
    rw [(own p.2).2 onDie]
    exact nothing p hp onDie
  rw [releaseHeld, nothingYet, released]
  exact ⟨_, _, rfl⟩

/-! ### Commit (R135 steps 4 and 5, R137) -/

/-- Stamping the bytes that a commit writes changes threads and stamps. -/
theorem stampBytes_eq (s : State) (id line : Nat) (bytes : Tab Byte) : ∃ threads stamps,
    bytes.foldl (fun acc p => noteSeen (stampWrite acc line p.1 1) id line p.1 1 (stampsOf (stampWrite acc line p.1 1) line)) s =
      { s with threads := threads, coh := { s.coh with wstamp := stamps } } := by
  refine List.foldlRecOn (motive := fun x : State => ∃ threads stamps,
    x = { s with threads := threads, coh := { s.coh with wstamp := stamps } }) _ _ ⟨s.threads, s.coh.wstamp, rfl⟩ ?_
  rintro _ ⟨threads, stamps, rfl⟩ p _
  obtain ⟨threads', seen⟩ := noteSeen_eq (stampWrite { s with threads := threads, coh := { s.coh with wstamp := stamps } } line p.1 1)
    id line p.1 1 _
  exact ⟨threads', _, seen⟩

/-- What the final position does at a slice that holds nothing behind the region. -/
theorem finalLine_spec {s : State} {rg die line : Nat} (r : Region) (nothing : heldBehind s rg die line = []) :
    let bytes := tentOf s rg die line
    let l := lineTag s die line
    let s' := finalLine s rg r die line
    s'.mem = s.mem ∧
      s'.coh.l2 = s.coh.l2.map (fun x => if x.die = die ∧ x.line = line then
        { x with data := overlay x.data bytes, st := if bytes.isEmpty then x.st else .m } else x) ∧
      lineTag s' die line = { untag l rg with
        wpos := if l.writer.any (·.rg == rg) then max l.wpos r.lo else l.wpos
        rpos := if l.readers.any (·.rg == rg) then max l.rpos r.lo else l.rpos } ∧
      tentOf s' rg die line = [] ∧
      ∃ w, s'.reg.regions = tabMod s.reg.regions rg fun x => { x with wct := x.wct.join w } := by
  unfold finalLine
  extract_lets bytes l wrote read core w _ s1 _ s2 _ s3 note s4 s5 s'
  obtain ⟨threads, stamps, stamped⟩ := stampBytes_eq s3 r.thread line bytes
  have stamped : s4 = { s3 with threads := threads, coh := { s3.coh with wstamp := stamps } } := stamped
  obtain ⟨tlb, cached⟩ : ∃ tlb, (if bytes.isEmpty then s4 else staleTlb s4 line) =
      { s3 with threads := threads, coh := { s3.coh with wstamp := stamps, tlb := tlb } } := by
    rw [stamped]
    split <;> exact ⟨_, rfl⟩
  obtain ⟨msgs, ops, letGo⟩ := letGo_eq (s := { s3 with threads := threads, coh := { s3.coh with wstamp := stamps, tlb := tlb } })
    nothing (some r.lo)
  have goesOn : s5 = _ := (congrArg (fun x => releaseHeld (releaseCross x rg (some r.lo) die line) rg die line) cached).trans letGo
  have ends : s' = _ := congrArg (modRegion · rg fun x => { x with wct := x.wct.join w }) goesOn
  rw [ends]
  obtain ⟨onDie, onLine⟩ := lineTag_place s die line
  exact ⟨rfl, rfl, (lineTag_congr (s := s3) rfl ..).trans (lineTag_putTag onDie onLine),
    tentOf_discarded (before := s.reg.tent) rfl, w, rfl⟩

theorem exec_regionFinalPosition_eq {s : State} {rg : Nat} {r : Region} {left : List (Nat × Nat)} {d line : Nat}
    (listed : tabFind s.reg.regions rg = some r) (phase : r.phase = .committing left) (only : ∀ d', (d', line) ∈ left ↔ d' = d) :
    exec (.regionFinalPosition rg line) s = .next (modRegion (finalLine s rg r d line) rg fun x =>
      { x with phase := .committing (left.filter fun y => y != (d, line)) }) := by
  rw [exec_regionFinalPosition, execRegionFinalPosition]
  simp only [listed, phase, find_onlyLine only]

/-- The strand of a region after its commit: it has passed `rend`. -/
def committedThr (s : State) (r : Region) (t : Thread) : Thread :=
  let t1 := advance (foldWct { t with wait := .none } (r.wct.join (Wct.flat (rtNs s)))) 4
  { t1 with seat := t1.seat.map fun st => { st with
      region := 0
      blo := BitVec.ofNat 64 r.lo
      bhi := BitVec.ofNat 64 r.lo
      rstat := rstatWord 0 0 0 r.strict false false 0 } }

theorem exec_regionCommitDone_eq {s : State} {rg : Nat} {r : Region} (listed : tabFind s.reg.regions rg = some r)
    (phase : r.phase = .committing []) :
    exec (.regionCommitDone rg) s = .next (modThr (noteWct (dropRegion s rg)
      (((tabFind s.threads r.thread).map (·.launch)).getD 0) r.wct) r.thread (committedThr s r)) := by
  rw [exec_regionCommitDone, execRegionCommitDone]
  simp only [listed, phase]
  rfl

/-- A thread's write completion time with another one folded in is no earlier than either. -/
theorem le_foldWct (t : Thread) {w : Wct} (small : w.own < 2 ^ 64) :
    t.wct.toNat ≤ (foldWct t w).wct.toNat ∧ w.own ≤ (foldWct t w).wct.toNat := by
  unfold foldWct
  dsimp only
  split
  · rw [BitVec.toNat_ofNat, Nat.mod_eq_of_lt small]
    omega
  · omega

theorem rstatWord_committed (strict : Bool) : rstatWord 0 0 0 strict false false 0 = if strict then 0x40 else 0 := by
  cases strict <;> rfl

/-! ### Aborts (R139) -/

/-- The state after a slice has discarded a region's tentative bytes and tags of a line. -/
def discarded (s : State) (rg die line : Nat) : State :=
  putTag { s with reg := { s.reg with tent := s.reg.tent.filter fun t => !(t.rg == rg && t.die == die && t.line == line) } }
    (untag (lineTag s die line) rg)

theorem exec_regionAbortMessage_eq {s : State} {rg c f u : Nat} {r : Region} {left : List (Nat × Nat)} {d line : Nat}
    (listed : tabFind s.reg.regions rg = some r) (phase : r.phase = .aborting c f u left) (only : ∀ d', (d', line) ∈ left ↔ d' = d)
    (nothing : heldBehind s rg d line = []) : ∃ msgs ops,
    let s1 := discarded s rg d line
    exec (.regionAbortMessage rg line) s = .next (modRegion { s1 with reg := { s1.reg with msgs := msgs }, ops := ops } rg fun x =>
      { x with phase := .aborting c f u (left.filter fun y => y != (d, line)) }) := by
  obtain ⟨msgs, ops, letGo⟩ := letGo_eq (s := discarded s rg d line) nothing none
  refine ⟨msgs, ops, ?_⟩
  dsimp only
  rw [exec_regionAbortMessage, execRegionAbortMessage, ← letGo]
  simp only [listed, phase, find_onlyLine only]
  rfl

theorem exec_regionAbortDone_eq {s : State} {rg c f u : Nat} {r : Region} (listed : tabFind s.reg.regions rg = some r)
    (phase : r.phase = .aborting c f u []) (noFault : r.pend = none) :
    exec (.regionAbortDone rg) s = .next (modThr (dropRegion s rg) r.thread (abortedThr s.freeCtr r c f u)) := by
  rw [exec_regionAbortDone, execRegionAbortDone]
  simp [listed, phase, noFault]

/-- An abort leaves the scalar registers that the region did not write. -/
theorem getS_abortedThr {t : Thread} {n : SReg} (clean : t.dirtyS.getLsbD n.toNat = false) (ctr : Nat) (r : Region)
    (cause fcause ucode : Nat) : getS (abortedThr ctr r cause fcause ucode t) n = getS t n := by
  unfold getS
  split
  · rfl
  refine List.foldlRecOn (motive := fun regs : Tab SVal => tabGet (.u 0) regs n.toNat = tabGet (.u 0) t.sregs n.toNat) _ _ rfl ?_
  intro regs same k _
  split
  next dirty =>
    have other : n.toNat ≠ k := by rintro rfl; simp [clean] at dirty
    rwa [tabGet, tabFind_tabPut_ne _ other]
  next => exact same

/-- A filter leaves the numbers all of whose entries it keeps. -/
theorem tabFind_filter {α : Type} {q : Nat × α → Bool} {k : Nat} (keeps : ∀ v, q (k, v) = true) (t : Tab α) :
    tabFind (t.filter q) k = tabFind t k := by
  induction t with
  | nil => rfl
  | cons p t ih =>
    obtain ⟨k', v⟩ := p
    by_cases here : k' = k
    · subst here
      simp [keeps, tabFind]
    · cases kept : q (k', v) <;> simp [kept, tabFind, here, ih]

/-- The fields of `rstat`, where each fits (R125). -/
theorem rstatWord_fields {retry ucode fcause cause : Nat} (hr : retry < 2 ^ 16) (hu : ucode < 256) (hf : fcause < 256) (hc : cause < 8)
    (strict : Bool) :
    let w := (rstatWord retry ucode fcause strict false false cause).toNat
    bitsAt w 32 16 = retry ∧ bitsAt w 24 8 = ucode ∧ bitsAt w 16 8 = fcause ∧ bitsAt w 0 3 = cause := by
  have value : (rstatWord retry ucode fcause strict false false cause).toNat =
      cause + (if strict then 64 else 0) + fcause * 65536 + ucode * 16777216 + retry * 4294967296 := by
    rw [rstatWord, BitVec.toNat_ofNat]
    cases strict <;> simp <;> omega
  simp only [value, bitsAt]
  cases strict <;> simp <;> omega

end Sys2Proof.Machine

namespace Sys2Proof.Laws

open Sys2Proof Sys2Proof.Machine

/-- Settles O25: what the slice does at the final position is `finalLine_spec`; the strand that passes `rend` is `committedThr`. -/
theorem regionCommits : Obligations.RegionCommits := by
  refine ⟨fun s rg r left d line listed phase only nothing => ?_, fun s rg r t st listed phase thread strand => ?_⟩
  · obtain ⟨mem, l2, tag, tent, w, regions⟩ := finalLine_spec r nothing
    have there : tabFind (finalLine s rg r d line).reg.regions rg = some { r with wct := r.wct.join w } := by
      simp [regions, tabFind_tabMod, listed]
    exact ⟨_, exec_regionFinalPosition_eq listed phase only, mem, l2, tag, tent, _, find_modRegion there _, rfl, rfl⟩
  · let st' : Seat := { st with
      region := 0, blo := BitVec.ofNat 64 r.lo, bhi := BitVec.ofNat 64 r.lo, rstat := rstatWord 0 0 0 r.strict false false 0 }
    have passed : tabFind (tabMod s.threads r.thread (committedThr s r)) r.thread = some (committedThr s r t) := by
      simp [tabFind_tabMod, thread]
    have seat : (committedThr s r t).seat = some st' := by simp [committedThr, advance, foldWct, strand, st']
    refine ⟨_, _, st', exec_regionCommitDone_eq listed phase, tabFind_tabDel_self .., passed, seat, rfl, rfl, rfl, rfl, rfl, rfl,
      rstatWord_committed _, rfl, fun own now => ?_, rfl, rfl⟩
    have later := le_foldWct { t with wait := .none } (w := r.wct.join (Wct.flat (rtNs s))) (max_lt own now)
    exact ⟨later.1, (Nat.le_max_left ..).trans later.2, (Nat.le_max_right ..).trans later.2⟩

/-- Settles O26: each slice lets go of its line (`exec_regionAbortMessage_eq`), and the strand goes to the abort target with what the
region did not write (`getS_abortedThr`, `tabFind_filter`). -/
theorem regionAborts : Obligations.RegionAborts := by
  intro s rg r c f u left listed phase
  refine ⟨fun d line only nothing => ?_, fun t st done thread strand noFault => ?_⟩
  · obtain ⟨msgs, ops, event⟩ := exec_regionAbortMessage_eq listed phase only nothing
    obtain ⟨onDie, onLine⟩ := lineTag_place s d line
    exact ⟨_, event, tentOf_discarded (before := s.reg.tent) rfl, lineTag_putTag onDie onLine, rfl, rfl, _,
      find_modRegion (s := { s with ops := ops }) listed _, rfl⟩
  · subst done
    have back : tabFind (tabMod s.threads r.thread (abortedThr s.freeCtr r c f u)) r.thread =
        some (abortedThr s.freeCtr r c f u t) := by simp [tabFind_tabMod, thread]
    refine ⟨_, _, _, exec_regionAbortDone_eq listed phase noFault, tabFind_tabDel_self .., back,
      (congrArg (Option.map _) strand : (abortedThr s.freeCtr r c f u t).seat = _), rfl, rfl, rfl, rfl, rfl, rfl, rfl, rfl,
      fun n clean => getS_abortedThr clean .., fun n L clean inRow => ⟨tabFind_filter (fun v => ?_) _, ?_⟩, fun hc hf hu => ?_,
      rfl, rfl⟩
    · have register : (n * 32 + L) / 32 = n := by omega
      simp [register, clean]
    · cases zero : st.zeroV.getLsbD n with
      | false => simp [zero]
      | true => simpa [zero, clean] using BitVec.lt_of_getLsbD zero
    · exact rstatWord_fields (by omega) hu hf hc r.strict

end Sys2Proof.Laws

/-! ## Accesses of a live region at their slices (04_elastic_regions.md; O27)

For a line that one die holds alone and no region has tagged, every step on the way to the line leaves the state as it is, so that the
access comes down to two things: the region goes past the line's positions (`pastPositions`), and the value comes from the line and
goes to the tentative copy (`TentAccess`). -/

namespace Sys2Proof.Machine

open Sys2Proof

/-! ### A line that one die holds alone -/

theorem linePartials_none {s : State} {line : Nat} (none : ∀ p ∈ s.coh.partials, p.line ≠ line) : linePartials s line = [] := by
  have nothing : (s.coh.partials.filter fun p => p.line == line) = [] := List.filter_eq_nil_iff.2 fun p hp => by simpa using none p hp
  rw [linePartials, nothing]
  exact List.mergeSort_nil

section Sole

variable {s : State} {die line : Nat} {l : L2Line} (sole : SoleLine s die line l)

include sole

theorem SoleLine.eq_of_mem {x : L2Line} (hx : x ∈ s.coh.l2) (onLine : x.line = line) : x = l := by
  have listed : x ∈ s.coh.l2.filter fun x => x.line == line := by simp [hx, onLine]
  simpa [sole.1] using listed

theorem SoleLine.mem : l ∈ s.coh.l2 ∧ l.line = line := by
  have listed : l ∈ s.coh.l2.filter fun x => x.line == line := by simp [sole.1]
  simpa using listed

theorem SoleLine.l2At_eq : l2At s die line = some l := by
  obtain ⟨hl, onLine⟩ := sole.mem
  obtain ⟨-, onDie, -⟩ := id sole
  cases at_ : l2At s die line with
  | none => exact absurd onDie (notAt_of_l2At at_ hl onLine)
  | some x =>
    obtain ⟨hx, -, onLine⟩ := mem_of_l2At at_
    rw [sole.eq_of_mem hx onLine]

/-- A change of the L2 lines of the line, which leaves what its one line is, changes nothing. -/
theorem SoleLine.map_eq {f : L2Line → L2Line} (same : f l = l) (others : ∀ x, x.line ≠ line → f x = x) :
    s.coh.l2.map f = s.coh.l2 := by
  refine (List.map_congr_left fun x hx => ?_).trans (List.map_id _)
  by_cases onLine : x.line = line
  · rw [sole.eq_of_mem hx onLine, same, id]
  · exact others x onLine

theorem SoleLine.recallExcl_eq : recallExcl s line = s := by
  obtain ⟨-, -, -, -, shared, -⟩ := id sole
  rw [recallExcl, sole.map_eq (by simp [← shared]) fun x notOn => if_neg notOn]

/-- Nothing is parked, in part with a core or held exclusively, so an access comes to the slice with the state as it is. -/
theorem SoleLine.atSlice_eq : recallExcl (enterSlice (combine (unpark s line) line) die line) line = s := by
  obtain ⟨-, -, -, -, -, noLocket, -, -, noPartial⟩ := id sole
  rw [unpark_none noLocket, combine_noPartials (linePartials_none noPartial), enterSlice, sole.l2At_eq, if_neg (by simp),
    sole.recallExcl_eq]

theorem SoleLine.takeOwnership_eq (key ctx : Nat) : takeOwnership s die line key ctx = (s, .data l.data) := by
  obtain ⟨-, onDie, dirty, -, -, -, noWb, notPoisoned, -⟩ := id sole
  have alone : (s.coh.l2.filter fun x => !(x.line == line && x.die != die)) = s.coh.l2 :=
    List.filter_eq_self.2 fun x hx => by
      by_cases onLine : x.line = line
      · simp [sole.eq_of_mem hx onLine, onDie]
      · simp [onLine]
  rw [takeOwnership, landLine_none noWb, fillLine, if_neg (by simp [notPoisoned]), sole.l2At_eq]
  simp only [alone, setL2St]
  rw [sole.map_eq (by simp [← dirty]) fun x notOn => if_neg fun here => notOn here.2]

theorem SoleLine.roLine_eq : roLine s line = false := by
  obtain ⟨-, -, -, writable, -⟩ := id sole
  refine List.any_eq_false.2 fun x hx => ?_
  by_cases onLine : x.line = line
  · simp [sole.eq_of_mem hx onLine, writable]
  · simp [onLine]

end Sole

/-! ### Positions and tags (R129, R130) -/

/-- A raise sends a message where it moves the region. -/
theorem raiseX_eq (b : Bnd) (rg die line v : Nat) : raiseX b rg die line v =
    ⟨{ b.s with reg := { b.s.reg with msgs := b.s.reg.msgs ++ if b.lo < v then [⟨rg, true, v, die, line⟩] else [] } },
      max b.lo v, b.hi⟩ := by
  unfold raiseX
  split
  next below => simp [sendMsg, Nat.max_eq_right below.le]
  next atLeast => simp [Nat.max_eq_left (Nat.le_of_not_lt atLeast)]

theorem lineTag_raiseX (b : Bnd) (rg die line v : Nat) : lineTag (raiseX b rg die line v).s die line = lineTag b.s die line := by
  rw [raiseX_eq]
  rfl

/-- The bounds with which an access has gone past the positions of a line without tags. -/
def pastPositions (s : State) (o : Op) (r : Region) (line : Nat) : Bnd :=
  let l := lineTag s o.die line
  let b : Bnd := if kindReads o.kind then raiseX ⟨s, r.lo, r.hi⟩ o.region o.die line (l.wpos + 1) else ⟨s, r.lo, r.hi⟩
  if kindWrites o.kind then raiseX b o.region o.die line (max l.rpos l.wpos + 1) else b

theorem pastPositions_frame (s : State) (o : Op) (r : Region) (line : Nat) :
    ∃ msgs, (pastPositions s o r line).s = { s with reg := { s.reg with msgs := msgs } } := by
  simp only [pastPositions, raiseX_eq]
  repeat' split
  all_goals exact ⟨_, rfl⟩

/-- The tag of a line that had none, with the region as what the access makes it. -/
def taggedBy (s : State) (o : Op) (r : Region) (line : Nat) : LineTag :=
  let b := pastPositions s o r line
  { lineTag s o.die line with
    readers := if kindReads o.kind then [⟨o.region, b.lo, b.hi⟩] else []
    writer := if kindWrites o.kind then some ⟨o.region, b.lo, b.hi⟩ else none }

section Untagged

variable {s : State} {o : Op} {line : Nat} (noReader : (lineTag s o.die line).readers = [])
  (noWriter : (lineTag s o.die line).writer = none)

include noReader noWriter

theorem carried_untagged (r : Region) : carried s r o.region o.die line = ⟨s, r.lo, r.hi⟩ := by
  simp [carried, noReader, noWriter]

/-- Without tags to go ahead of, the read and write parts only go past the line's positions. -/
theorem parts_untagged (r : Region) :
    (let b := carried s r o.region o.die line
     let b1 := if kindReads o.kind then readPart b o.region o.die line else b
     if kindWrites o.kind then writePart b1 o.region o.die line else b1) = pastPositions s o r line := by
  simp only [carried_untagged noReader noWriter, pastPositions]
  cases reads : kindReads o.kind <;> cases writes : kindWrites o.kind <;>
    simp [readPart, writePart, lineTag_raiseX, otherWriter, noReader, noWriter]

theorem otherWriter_untagged (r : Region) :
    (let b := carried s r o.region o.die line
     let b1 := if kindReads o.kind then readPart b o.region o.die line else b
     if kindWrites o.kind then otherWriter (lineTag b1.s o.die line) o.region else none) = none := by
  simp only [carried_untagged noReader noWriter]
  cases reads : kindReads o.kind <;> simp [readPart, lineTag_raiseX, otherWriter, noWriter]

theorem tagX_untagged (r : Region) : tagX (pastPositions s o r line) o.region o.die line (kindReads o.kind) (kindWrites o.kind) =
    some (putTag (pastPositions s o r line).s (taggedBy s o r line)) := by
  obtain ⟨msgs, frame⟩ := pastPositions_frame s o r line
  have tag : lineTag (pastPositions s o r line).s o.die line = lineTag s o.die line := by rw [frame]; rfl
  simp [tagX, taggedBy, tag, noReader, noWriter]

end Untagged

/-! ### The access itself (R127) -/

/-- `n` bytes of a value from an offset on, lowest first. -/
def bytesFrom (off n v : Nat) : Tab Byte := (List.range n).foldl (fun b k => tabPut b (off + k) (BitVec.ofNat 8 (v / 2 ^ (8 * k)))) []

theorem bytesFrom_succ (off n v : Nat) :
    bytesFrom off (n + 1) v = tabPut (bytesFrom off n v) (off + n) (BitVec.ofNat 8 (v / 2 ^ (8 * n))) := by
  simp [bytesFrom, List.range_succ]

theorem tabFind_bytesFrom (off n v j : Nat) : tabFind (bytesFrom off n v) j =
    if off ≤ j ∧ j < off + n then some (BitVec.ofNat 8 (v / 2 ^ (8 * (j - off)))) else none := by
  induction n with
  | zero => rw [if_neg (by omega)]; rfl
  | succ n ih =>
    rw [bytesFrom_succ]
    by_cases last : j = off + n
    · subst last
      rw [tabFind_tabPut_self, if_pos (by omega), Nat.add_sub_cancel_left]
    · rw [tabFind_tabPut_ne _ last, ih]
      exact if_congr (by omega) rfl rfl

theorem tabFind_bytesFrom_in {n k : Nat} (off v : Nat) (inside : k < n) :
    tabFind (bytesFrom off n v) (off + k) = some (BitVec.ofNat 8 (v / 2 ^ (8 * k))) := by
  rw [tabFind_bytesFrom, if_pos (by omega), Nat.add_sub_cancel_left]

theorem tabFind_bytesFrom_out {off n k : Nat} (v : Nat) (outside : k < off ∨ off + n ≤ k) : tabFind (bytesFrom off n v) k = none := by
  rw [tabFind_bytesFrom, if_neg (by omega)]

/-- A byte of a value is that of the value cut to a width that holds it. -/
theorem byte_mod {n k : Nat} (v : Nat) (inside : k < n) :
    BitVec.ofNat 8 (v % 2 ^ (8 * n) / 2 ^ (8 * k)) = BitVec.ofNat 8 (v / 2 ^ (8 * k)) := by
  have width : 8 * n = 8 * k + 8 * (n - k) := by omega
  have byte : 2 ^ 8 ∣ 2 ^ (8 * (n - k)) := Nat.pow_dvd_pow 2 (by omega)
  refine BitVec.eq_of_toNat_eq ?_
  rw [width, Nat.pow_add, Nat.mod_mul_right_div_self, BitVec.toNat_ofNat, BitVec.toNat_ofNat, Nat.mod_mod_of_dvd _ byte]

theorem Wct.join_flat_zero (w : Wct) : w.join (Wct.flat 0) = w := by
  simp [Wct.join, Wct.flat]

/-- What an access of a live region makes of a line without tags whose bytes are `d`. -/
structure TentAccess (s s' : State) (op : Nat) (o : Op) (a : LaneAcc) (r : Region) (d : LineData) : Prop where
  ended : tabFind s'.ops op = some { o with lanes := changeLanes o a.lane fun x =>
    { x with phase := .done, res := BitVec.ofNat 64 (lineGet d (a.pa % 128) a.n) } }
  tag : lineTag s' o.die (lineOf a.pa) = taggedBy s o r (lineOf a.pa)
  msgs : s'.reg.msgs = (pastPositions s o r (lineOf a.pa)).s.reg.msgs
  regions : s'.reg.regions = s.reg.regions
  mem : s'.mem = s.mem
  coh : s'.coh = s.coh
  threads : kindReads o.kind = false → s'.threads = s.threads
  unwritten : newValue o a (lineGet d (a.pa % 128) a.n) = none → s'.reg.tent = s.reg.tent
  written : ∀ v, newValue o a (lineGet d (a.pa % 128) a.n) = some v →
    tentOf s' o.region o.die (lineOf a.pa) = bytesFrom (a.pa % 128) a.n v

/-- An access of a region that has not written the line yet ends with the line's value, and only its new value, if it has one, goes to
the tentative copies. -/
theorem tentLane_eq {s : State} {o : Op} {a : LaneAcc} (unwritten : tentOf s o.region o.die (lineOf a.pa) = []) (op : Nat) (d : LineData) :
    let m := lineGet d (a.pa % 128) a.n
    ∃ threads tent, tentLane s op o a d = laneDoneWith { s with threads := threads, reg := { s.reg with tent := tent } } op a.lane
        (BitVec.ofNat 64 m) (Wct.flat 0) ∧
      (kindReads o.kind = false → threads = s.threads) ∧ (newValue o a m = none → tent = s.reg.tent) ∧
      ∀ v, newValue o a m = some v → ∀ s' : State, s'.reg.tent = tent →
        tentOf s' o.region o.die (lineOf a.pa) = bytesFrom (a.pa % 128) a.n v := by
  intro m
  obtain ⟨threads, seen, kept⟩ : ∃ threads, (if kindReads o.kind then
      noteSeen s o.thread (lineOf a.pa) (a.pa % 128) a.n (laneStamps s a) else s) = { s with threads := threads } ∧
      (kindReads o.kind = false → threads = s.threads) := by
    split
    next reads =>
      obtain ⟨threads, seen⟩ := noteSeen_eq s o.thread (lineOf a.pa) (a.pa % 128) a.n (laneStamps s a)
      exact ⟨threads, seen, fun notReads => by simp [reads] at notReads⟩
    next => exact ⟨s.threads, rfl, fun _ => rfl⟩
  have value : lineGet (overlay d []) (a.pa % 128) a.n = m := rfl
  unfold tentLane
  simp only [unwritten, seen, value]
  cases new : newValue o a m with
  | none => exact ⟨threads, s.reg.tent, rfl, kept, fun _ => rfl, nofun⟩
  | some v =>
    refine ⟨threads, _, rfl, kept, nofun, ?_⟩
    rintro _ ⟨⟩ s' same
    exact (tentOf_congr same ..).trans (tentOf_putTent s ⟨o.region, o.die, lineOf a.pa, bytesFrom (a.pa % 128) a.n v⟩)

theorem tentAccess_tentLane {s : State} {op : Nat} {o : Op} {a : LaneAcc} {r : Region} (listed : tabFind s.ops op = some o)
    (unwritten : tentOf s o.region o.die (lineOf a.pa) = []) (d : LineData) :
    TentAccess s (tentLane (putTag (pastPositions s o r (lineOf a.pa)).s (taggedBy s o r (lineOf a.pa))) op o a d) op o a r d := by
  obtain ⟨msgs, frame⟩ := pastPositions_frame s o r (lineOf a.pa)
  obtain ⟨onDie, onLine⟩ := lineTag_place s o.die (lineOf a.pa)
  obtain ⟨threads, tent, performed, kept, same, written⟩ := tentLane_eq (a := a)
    (s := putTag (pastPositions s o r (lineOf a.pa)).s (taggedBy s o r (lineOf a.pa)))
    ((tentOf_congr (s := s) (congrArg (·.reg.tent) frame) ..).trans unwritten) op d
  have ends := find_laneDoneWith (s := { putTag (pastPositions s o r (lineOf a.pa)).s (taggedBy s o r (lineOf a.pa)) with
    threads := threads, reg := { (putTag (pastPositions s o r (lineOf a.pa)).s (taggedBy s o r (lineOf a.pa))).reg with tent := tent } })
    ((congrArg (fun x : State => tabFind x.ops op) frame).trans listed) a.lane (BitVec.ofNat 64 (lineGet d (a.pa % 128) a.n)) (Wct.flat 0)
  rw [Wct.join_flat_zero] at ends
  rw [performed]
  exact {
    ended := ends
    tag := (lineTag_congr rfl ..).trans
      (lineTag_putTag (s := (pastPositions s o r (lineOf a.pa)).s) (l := taggedBy s o r (lineOf a.pa)) onDie onLine)
    msgs := rfl
    regions := congrArg (·.reg.regions) frame
    mem := congrArg (·.mem) frame
    coh := congrArg (·.coh) frame
    threads := fun notReads => (kept notReads).trans (congrArg (·.threads) frame)
    unwritten := fun noNew => (same noNew).trans (congrArg (·.reg.tent) frame)
    written := fun v new => written v new _ rfl }

/-! ### The access at its slice (R130, R392) -/

theorem regionLane_emptySlot {s : State} {a : LaneAcc} (empty : slotEmpty s a.pa a.key = true) (op : Nat) (o : Op) (r : Region) :
    regionLane s op o a r = lanePoison s op o a 0x01 :=
  if_pos (.inl empty)

/-- Where no access of another die is held at a slice, no region goes ahead of one there. -/
theorem beforeHeld_none {s : State} {die line : Nat} (none : crossHeld s die line = []) (rg : Nat) : beforeHeld s die line rg = s := by
  rw [beforeHeld, none]
  rfl

theorem regionLane_sole {s : State} {o : Op} {a : LaneAcc} {l : L2Line} (keyed : slotEmpty s a.pa a.key = false)
    (sole : SoleLine s o.die (lineOf a.pa) l) (noReader : (lineTag s o.die (lineOf a.pa)).readers = [])
    (noWriter : (lineTag s o.die (lineOf a.pa)).writer = none) (noneCrosses : crossHeld s o.die (lineOf a.pa) = [])
    (op : Nat) (r : Region) : regionLane s op o a r =
      tentLane (putTag (pastPositions s o r (lineOf a.pa)).s (taggedBy s o r (lineOf a.pa))) op o a l.data := by
  obtain ⟨-, -, -, -, -, -, -, notPoisoned, -⟩ := id sole
  obtain ⟨msgs, frame⟩ := pastPositions_frame s o r (lineOf a.pa)
  have notPinned : setPinned s o.die (lineOf a.pa) = false := by simp [setPinned, sole.l2At_eq]
  have nobody : crossHeld (putTag (pastPositions s o r (lineOf a.pa)).s (taggedBy s o r (lineOf a.pa))) o.die (lineOf a.pa) = [] := by
    rw [frame]
    exact noneCrosses
  have parts := parts_untagged noReader noWriter r
  have ahead := otherWriter_untagged noReader noWriter r
  have known : ((lineTag s o.die (lineOf a.pa)).readers ++ (lineTag s o.die (lineOf a.pa)).writer.toList).any (·.rg == o.region) =
    false := by simp [noReader, noWriter]
  unfold regionLane
  simp only [sole.atSlice_eq, keyed, notPoisoned, sole.roLine_eq, notPinned, sole.takeOwnership_eq, Bool.false_and, if_false,
    Bool.false_eq_true, or_self] at parts ahead ⊢
  simp only [parts, ahead, known, Option.isNone_none, Bool.and_true, tagX_untagged noReader noWriter, beforeHeld_none nobody,
    Bool.false_eq_true, if_false]

/-! ### Poison (R374, R392) -/

theorem lanePoison_frame (s : State) (op : Nat) (o : Op) (a : LaneAcc) (sub : Nat) : (lanePoison s op o a sub).mem.bytes = s.mem.bytes ∧
    (lanePoison s op o a sub).coh = s.coh ∧ (lanePoison s op o a sub).reg = s.reg := by
  unfold lanePoison poisonLine
  dsimp only
  repeat' split
  all_goals exact ⟨rfl, rfl, rfl⟩

theorem find_lanePoison_fails {s : State} {op : Nat} {o : Op} {a : LaneAcc} (listed : tabFind s.ops op = some o)
    (path : o.path = .ld ∨ o.path = .atm) (sub : Nat) : tabFind (lanePoison s op o a sub).ops op = some { o with
      lanes := changeLanes o a.lane fun x => { x with phase := .failed 0x15 sub (lineOf a.pa * 128) 0 } } := by
  rw [lanePoison, if_pos path]
  split <;> exact find_modLane listed ..

theorem find_lanePoison_lost {s : State} {op : Nat} {o : Op} {a : LaneAcc} (listed : tabFind s.ops op = some o)
    (path : ¬ (o.path = .ld ∨ o.path = .atm)) (sub : Nat) : tabFind (lanePoison s op o a sub).ops op = some { o with
      lanes := changeLanes o a.lane fun x => { x with phase := .done, res := 0 }, wct := o.wct.join (Wct.flat (rtNs s)) } := by
  rw [lanePoison, if_neg path]
  unfold poisonLine
  dsimp only
  repeat' split
  all_goals exact find_laneDoneWith listed ..

/-! ### The holders of a line are lowered (R132) -/

/-- The tags that stand on a line. -/
def holders (s : State) (die line : Nat) : List Tag := (lineTag s die line).readers ++ (lineTag s die line).writer.toList

/-- The regions of some tags are told that their `hi` on a line is at most a value. -/
def lowerAll (s : State) (die line v : Nat) (l : List Tag) : State := l.foldl (fun acc x => sendBound acc die line x.rg false v) s

/-- A tag after its `hi`, if it is that region's, has been lowered. -/
def lowered (rg v : Nat) (t : Tag) : Tag := if t.rg = rg then { t with hi := min t.hi v } else t

theorem holders_of_tags {s s' : State} {die line : Nat} {f : Tag → Tag} (mapped : s'.reg.tags = (putTag s { lineTag s die line with
    readers := (lineTag s die line).readers.map f, writer := (lineTag s die line).writer.map f }).reg.tags) :
    holders s' die line = (holders s die line).map f := by
  obtain ⟨onDie, onLine⟩ := lineTag_place s die line
  have tag := (lineTag_congr mapped die line).trans (lineTag_putTag onDie onLine)
  rw [holders, tag, holders, List.map_append]
  cases (lineTag s die line).writer <;> rfl

theorem holders_sendBound (s : State) (die line rg v : Nat) :
    holders (sendBound s die line rg false v) die line = (holders s die line).map (lowered rg v) := by
  unfold sendBound
  simp only [Bool.false_eq_true, if_false]
  split
  next => exact holders_of_tags (f := lowered rg v) rfl
  next still =>
    have low : ∀ t ∈ holders s die line, t.rg = rg → t.hi ≤ v := by
      cases writer : (lineTag s die line).writer <;> simpa [holders, writer, or_imp, forall_and] using still
    refine (List.map_id' _).symm.trans (List.map_congr_left fun t ht => ?_)
    unfold lowered
    split
    next own => rw [Nat.min_eq_left (low t ht own)]
    next => rfl

/-- Each tag on a line stands for one that stood there with the same region and no lower `hi`; where its region is told, its `hi` is at
most the value. -/
theorem hi_of_holders_lowerAll {die line v : Nat} (l : List Tag) (s : State) : ∀ x ∈ holders (lowerAll s die line v l) die line,
    ∃ y ∈ holders s die line, x.rg = y.rg ∧ x.hi ≤ y.hi ∧ ((∃ z ∈ l, z.rg = x.rg) → x.hi ≤ v) := by
  induction l generalizing s with
  | nil => exact fun x hx => ⟨x, hx, rfl, le_rfl, by simp⟩
  | cons z l ih =>
    intro x hx
    obtain ⟨y, hy, rg, le, told⟩ := ih (sendBound s die line z.rg false v) x hx
    rw [holders_sendBound] at hy
    obtain ⟨y, stood, rfl⟩ := List.mem_map.1 hy
    have keepsRg : (lowered z.rg v y).rg = y.rg := by unfold lowered; split <;> rfl
    have lowers : (lowered z.rg v y).hi ≤ y.hi := by unfold lowered; split <;> simp
    refine ⟨y, stood, rg.trans keepsRg, le.trans lowers, ?_⟩
    rintro ⟨w, hw, same⟩
    rcases List.mem_cons.1 hw with rfl | hw
    · have own : y.rg = w.rg := keepsRg.symm.trans (rg.symm.trans same.symm)
      refine le.trans ?_
      simp [lowered, own]
    · exact told ⟨w, hw, same⟩

/-- A state with the line tags and the messages of regions taken out. -/
def besideMessages (s : State) : State := { s with reg := { s.reg with tags := [], msgs := [] } }

theorem besideMessages_lowerAll (s : State) (die line v : Nat) (l : List Tag) :
    besideMessages (lowerAll s die line v l) = besideMessages s :=
  foldl_keeps besideMessages (fun b x => by unfold sendBound; exact ite_keeps besideMessages rfl rfl) l s

section Event

variable {s : State} {op lane : Nat} {o : Op} {a : LaneAcc} {r : Region} (inFlight : LaneInFlight s op lane o a)
  (listed : tabFind s.reg.regions o.region = some r) (live : r.phase = .live)

include inFlight listed live

theorem exec_regionSliceAccess_runs (ready : regionReady s o a = true) (here : taggedElsewhere s o.die (lineOf a.pa) = false) :
    exec (.regionSliceAccess op lane) s = .next (regionLane s op o a r) := by
  rw [exec_regionSliceAccess, execRegionSliceAccess, onLane_inFlight inFlight]
  simp [listed, live, ready, here]

/-! ### An access whose line carries tags on another die (R132, R136) -/

section Cross

variable {d : Nat} (goes : regionGoes s o a = true) (todo : a.phase = .todo) (tagged : taggedDie s (lineOf a.pa) = some d)
  (far : d ≠ o.die)

include goes todo tagged far

theorem exec_crossDieRegionHold_frozen {f : Nat} (frozen : freezeHolder s d (lineOf a.pa) (kindWrites o.kind) = some f) :
    exec (.crossDieRegionHold op lane) s = .next (modLane s op lane fun x => { x with phase := .held f (stampNow s) }) := by
  rw [exec_crossDieRegionHold, execCrossDieRegionHold, onLane_inFlight inFlight]
  simp [listed, live, goes, todo, tagged, far, frozen]

theorem exec_crossDieRegionHold_behind (free : freezeHolder s d (lineOf a.pa) (kindWrites o.kind) = none) :
    exec (.crossDieRegionHold op lane) s = .next (modLane (sendMsg (lowerAll s d (lineOf a.pa) (rtNs s * 16 - 1)
      (holders s d (lineOf a.pa))) o.region true (rtNs s * 16) d (lineOf a.pa)) op lane fun x =>
        { x with phase := .held 0 (stampNow s) }) := by
  rw [exec_crossDieRegionHold, execCrossDieRegionHold, onLane_inFlight inFlight]
  simp [listed, live, goes, todo, tagged, far, free, lowerAll, holders]

end Cross

end Event

end Sys2Proof.Machine

namespace Sys2Proof.Laws

open Sys2Proof Sys2Proof.Machine

/-- Settles O27: an access to an untagged line comes down to `TentAccess`, whose tag and messages are those of `pastPositions`; poison
and the holds of another die's slice have an event lemma each. -/
theorem regionAccesses : Obligations.RegionAccesses := by
  intro s op lane o a r inFlight listed live
  obtain rfl := lane_of_inFlight inFlight
  refine ⟨?poison, ?untagged, ?cross⟩
  case poison =>
    intro empty ready here
    obtain ⟨bytes, coh, reg⟩ := lanePoison_frame s op o a 0x01
    refine ⟨_, (exec_regionSliceAccess_runs inFlight listed live ready here).trans (congrArg _ (regionLane_emptySlot empty op o r)),
      bytes, coh, reg, fun path => ?_, fun store => ?_⟩
    · exact ⟨(lanePoison_fails inFlight path 0x01).2.1, find_lanePoison_fails inFlight.1 path 0x01⟩
    · have path : ¬ (o.path = .ld ∨ o.path = .atm) := by simp [store]
      obtain ⟨-, -, poison, -⟩ := lanePoison_lost inFlight path
      exact ⟨find_lanePoison_lost inFlight.1 path 0x01, (poison _).2 (.inl rfl)⟩
  case untagged =>
    intro l keyed ready here sole noReader noWriter unwritten noneCrosses
    have event := (exec_regionSliceAccess_runs inFlight listed live ready here).trans
      (congrArg _ (regionLane_sole keyed sole noReader noWriter noneCrosses op r))
    have access := tentAccess_tentLane (r := r) inFlight.1 unwritten l.data
    refine ⟨fun load => ?_, fun store => ?_, fun both => ?_⟩
    · have new : newValue o a (lineGet l.data (a.pa % 128) a.n) = none := by simp [newValue, load]
      refine ⟨_, event, access.ended, access.tag.trans ?_, access.msgs.trans ?_, access.regions, access.unwritten new, access.mem,
        access.coh⟩
      · simp [taggedBy, pastPositions, raiseX_eq, load, kindReads, kindWrites, noWriter]
      · simp [pastPositions, raiseX_eq, load, kindReads, kindWrites]
    · have new : newValue o a (lineGet l.data (a.pa % 128) a.n) = some (a.val.toNat % 2 ^ (8 * a.n)) := by simp [newValue, store]
      refine ⟨_, event, access.ended, fun k inside => ?_, fun k outside => ?_, access.tag.trans ?_, access.msgs.trans ?_,
        access.regions, access.threads (by simp [store, kindReads]), access.mem, access.coh⟩
      · rw [access.written _ new, tabFind_bytesFrom_in _ _ inside, byte_mod _ inside]
      · rw [access.written _ new, tabFind_bytesFrom_out _ outside]
      · simp [taggedBy, pastPositions, raiseX_eq, store, kindReads, kindWrites, noReader]
      · simp [pastPositions, raiseX_eq, store, kindReads, kindWrites]
    · obtain ⟨reads, writes⟩ : kindReads o.kind = true ∧ kindWrites o.kind = true := by
        rcases both with kind | kind <;> simp [kind, kindReads, kindWrites]
      refine ⟨_, event, access.ended, fun v new k inside => ?_, fun new => ?_, access.tag.trans ?_, access.regions, access.mem,
        access.coh⟩
      · rw [access.written v new, tabFind_bytesFrom_in _ _ inside]
      · exact (tentOf_congr (access.unwritten new) ..).trans unwritten
      · have lo : max (max r.lo ((lineTag s o.die (lineOf a.pa)).wpos + 1))
            (max (lineTag s o.die (lineOf a.pa)).rpos (lineTag s o.die (lineOf a.pa)).wpos + 1) =
            max r.lo (max (lineTag s o.die (lineOf a.pa)).rpos (lineTag s o.die (lineOf a.pa)).wpos + 1) := by omega
        simp [taggedBy, pastPositions, raiseX_eq, reads, writes, lo]
  case cross =>
    intro d goes todo tagged far
    refine ⟨fun f frozen => ?_, fun free => ?_⟩
    · exact ⟨_, exec_crossDieRegionHold_frozen inFlight listed live goes todo tagged far frozen, find_modLane inFlight.1 a.lane _, rfl⟩
    · have frame := besideMessages_lowerAll s d (lineOf a.pa) (rtNs s * 16 - 1) (holders s d (lineOf a.pa))
      have sameOps : (lowerAll s d (lineOf a.pa) (rtNs s * 16 - 1) (holders s d (lineOf a.pa))).ops = s.ops :=
        congrArg (·.ops) frame
      refine ⟨_, exec_crossDieRegionHold_behind inFlight listed live goes todo tagged far free,
        find_modLane (s := sendMsg _ _ _ _ _ _) ((congrArg (tabFind · op) sameOps).trans inFlight.1) a.lane _, by simp [sendMsg, modLane],
        fun x hx => ?_, congrArg (·.reg.regions) frame, congrArg (·.threads) frame, congrArg (·.mem) frame, congrArg (·.coh) frame⟩
      obtain ⟨y, stood, rg, -, told⟩ := hi_of_holders_lowerAll _ _ x hx
      exact told ⟨y, stood, rg.symm⟩

end Sys2Proof.Laws

section

/-! ## Engine commands and their slots (06_assembly_and_formats.md; O31) -/

namespace Sys2Proof.Machine

open Sys2Proof

/-- R183: the slots are checked before the team rule and the operands. -/
theorem teamCmd_slotBad {i : Instr} {s : State} {t : Thread} {st : Seat} {slotBad : LaunchRec → Bool} {rs : List SReg}
    {k : Thread → Seat → List Word → Out} (seated : ActsSeated s t st) (sound : WellFormed i)
    (bad : slotBad (lrecOf s t) = true) : teamCmd i s slotBad rs k = fault s t 0x01 0x05 := by
  obtain ⟨acts, seat⟩ := seated
  rw [teamCmd, engIssue, scalar_run _ acts sound, inStrand, seat]
  exact if_pos bad

theorem mxSlotBad_acc {d : BitVec 6} {f : BitVec 7} {r : LaunchRec} (acc : d.getLsbD 5 = false)
    (high : r.acc ≤ d.toNat % 8 + (if f.toNat % 8 = 4 then 1 else 0)) : mxSlotBad d f r = true := by
  unfold mxSlotBad
  rw [acc, if_neg Bool.false_ne_true]
  split at high
  next f64 => simpa [f64] using high
  next single => simpa [single] using high

theorem mxSlotBad_shadow {d : BitVec 6} (shadow : d.getLsbD 5 = true) (f : BitVec 7) {r : LaunchRec}
    (high : r.shadow ≤ d.toNat % 2) : mxSlotBad d f r = true := by
  simpa [mxSlotBad, shadow] using high

theorem exec_mx_slotBad {s : State} {t : Thread} {st : Seat} {d : BitVec 6} {a b : SReg} {f : BitVec 7}
    (seated : ActsSeated s t st) (bad : mxSlotBad d f (lrecOf s t) = true) :
    ∀ i ∈ ([.mma d a b f, .mgath d a b f] : List Instr), WellFormed i → exec i s = fault s t 0x01 0x05 := by
  simp only [List.forall_mem_cons, List.not_mem_nil, false_imp_iff, implies_true, and_true, exec_mma, exec_mgath]
  exact ⟨fun sound => teamCmd_slotBad seated sound bad, fun sound => teamCmd_slotBad seated sound bad⟩

end Sys2Proof.Machine

namespace Sys2Proof.Laws

open Sys2Proof Sys2Proof.Machine

/-- Settles O31: each of the five is a team command whose slot check fails (`teamCmd_slotBad`). -/
theorem engineSlots : Obligations.EngineSlots := by
  intro s t st a b seated
  refine ⟨fun d f acc high => ?mxAcc, fun d f shadow high => ?mxShadow, fun d f high sound => ?mzero, fun d f high sound => ?mdrain,
    fun d n high => ?mcommit⟩
  case mxAcc => exact exec_mx_slotBad seated (mxSlotBad_acc acc high)
  case mxShadow => exact exec_mx_slotBad seated (mxSlotBad_shadow shadow f high)
  case mzero => exact teamCmd_slotBad (slotBad := fun r => r.acc ≤ d.toNat + f.toNat) seated sound (decide_eq_true high)
  case mdrain => exact teamCmd_slotBad (slotBad := fun r => r.acc ≤ d.toNat) seated sound (decide_eq_true high)
  case mcommit =>
    have bad : (decide ((lrecOf s t).acc ≤ d.toNat) || decide ((lrecOf s t).shadow ≤ n.toNat)) = true := by simpa using high
    exact teamCmd_slotBad (slotBad := fun r => r.acc ≤ d.toNat || r.shadow ≤ n.toNat) seated (illSub_mcommit d n) bad

end Sys2Proof.Laws
end

section

/-! ## Special registers (06_assembly_and_formats.md; O17)

`srd` and `swr` have one equation each for an acting thread; the tables of the statement are then read against `srdU` and
`swrEffect` row by row. -/

namespace Sys2Proof.Machine

open Sys2Proof

/-! ### `srd` (R184, R220) -/

theorem illSub_srd_none {d r : BitVec 6} (dst : d ≠ 0) (known : r.toNat < 29) : illSub (.srd d r) = none := by
  simp [illSub_srd, zeroDst_of_ne dst, leastDefect, defect, Nat.not_le.2 known]

theorem rtOf_strand {t : Thread} {st : Seat} (seat : t.seat = some st) (s : State) :
    rtOf s t = cycleStart (dieOf s (st.core / 128)) s.time / Config.ticksPerNs := by
  simp [rtOf, rtOn, physDie, seat]

theorem specialTable_srdU {t : Thread} {st : Seat} (seat : t.seat = some st) (s : State) :
    ∀ p ∈ specialTable s t st, (3 ≤ p.1.toNat ∧ p.1.toNat < 29 ∧ p.1 ∉ ([9, 10, 11, 12] : List (BitVec 6))) ∧
      srdU s s.cur t p.1.toNat = p.2 := by
  simp [specialTable, srdU, physDie, seat]

theorem timerTable_srdU {t : Thread} {st : Seat} (seat : t.seat = some st) (s : State) :
    ∀ p ∈ timerTable s st, p.1.toNat < 3 ∧ srdU s s.cur t p.1.toNat = p.2 := by
  simp [timerTable, srdU, rtOf_strand seat, physDie, seat]

section Srd

variable {s : State} {t : Thread} {st : Seat} {d : SReg} (seated : ActsSeated s t st) (dst : d ≠ 0)
include seated dst

theorem exec_srd_strand {r : BitVec 6} (known : r.toNat < 29) :
    exec (.srd d r) s =
      if r = 9 then done4 s (setS t d (coordReg .x))
      else if r = 10 then done4 s (setS t d (coordReg .y))
      else if r = 11 then done4 s (setS t d (coordReg .z))
      else if r = 12 then writeForm s t d 4 (ilinForm (lrecOf s t)) fun _ i => BitVec.ofNat 64 (ilin (lrecOf s t) i)
      else if r.toNat < 3 then done4 s (timerRead s t d (srdU s s.cur t r.toNat))
      else done4 s (setS t d (.u (srdU s s.cur t r.toNat))) := by
  obtain ⟨acts, seat⟩ := seated
  rw [exec_srd, execSrd, scalar_run _ acts (illSub_srd_none dst known), if_neg (by simp [seat])]

theorem exec_srd_uniform {r : BitVec 6} (known : 3 ≤ r.toNat ∧ r.toNat < 29 ∧ r ∉ ([9, 10, 11, 12] : List (BitVec 6))) :
    exec (.srd d r) s = .next (afterS s t d 4 (.u (srdU s s.cur t r.toNat))) := by
  obtain ⟨low, high, others⟩ := known
  simp only [List.mem_cons, List.not_mem_nil, or_false, not_or] at others
  obtain ⟨notX, notY, notZ, notLin⟩ := others
  rw [exec_srd_strand seated dst high, if_neg notX, if_neg notY, if_neg notZ, if_neg notLin, if_neg (Nat.not_lt.2 low)]
  rfl

/-- R195: the value of a timer is due twelve cycles of the strand's die later. -/
theorem exec_srd_timer {r : BitVec 6} (timer : r.toNat < 3) :
    exec (.srd d r) s = .next (putThr s s.cur { setS t d (.u (srdU s s.cur t r.toNat)) with
      pc := t.pc + 4, due := tabPut t.due d.toNat (coreCc s st.core + 12) }) := by
  have other (n : BitVec 6) (high : 3 ≤ n.toNat) : r ≠ n := fun same => absurd (same ▸ timer) (Nat.not_lt.2 high)
  have due : coreCc s st.core = dieCc (dieOf s (physDie s t)) s.time := by simp [coreCc, physDie, seated.2]
  rw [exec_srd_strand seated dst (by omega), if_neg (other 9 (by decide)), if_neg (other 10 (by decide)),
    if_neg (other 11 (by decide)), if_neg (other 12 (by decide)), if_pos timer, due]
  simp only [done4, done, advance, timerRead, if_neg dst, setS_pc]
  rfl

/-- R19: each coordinate register reads as its affine form. -/
theorem exec_srd_coord : ∀ p ∈ coordTable, exec (.srd d p.1) s = .next (afterS s t d 4 p.2) := by
  simp only [coordTable, List.forall_mem_cons, List.not_mem_nil, false_imp_iff, implies_true, and_true]
  refine ⟨?x, ?y, ?z⟩ <;> rw [exec_srd_strand seated dst (by decide)] <;> rfl

end Srd

/-! ### The linear index as an affine value (R18, R19) -/

theorem signExtend_ofInt_of_fits32 {x : Int} (fits : fits32 x = true) :
    (BitVec.ofInt 32 x).signExtend 64 = BitVec.ofInt 64 x := by
  simp only [fits32, Bool.and_eq_true, decide_eq_true_eq] at fits
  have back : (BitVec.ofInt 32 x).toInt = x := by
    rw [BitVec.toInt_ofInt]
    exact Int.bmod_eq_of_le (by omega) (by omega)
  rw [BitVec.signExtend, back]

theorem svalAt_mkA (b : Word) (x y z : W32) (L : Nat) (i : Item) : svalAt (mkA b x y z) L i = affAt b x y z i := by
  unfold mkA
  split
  next flat =>
    obtain ⟨rfl, rfl, rfl⟩ := flat
    simp [svalAt, affAt]
  next => rfl

theorem svalAt_ilinForm {r : LaunchRec} {v : SVal} (form : ilinForm r = some v) (L : Nat) (i : Item) :
    svalAt v L i = BitVec.ofNat 64 (ilin r i) := by
  unfold ilinForm affine at form
  split at form
  next fits =>
    simp only [Bool.and_eq_true] at fits
    obtain ⟨⟨one, row⟩, plane⟩ := fits
    cases form
    rw [svalAt_mkA, affAt, signExtend_ofInt_of_fits32 one, signExtend_ofInt_of_fits32 row, signExtend_ofInt_of_fits32 plane,
      BitVec.ofInt_natCast, BitVec.ofInt_natCast]
    simp [ilin, BitVec.ofNat_add, BitVec.ofNat_mul]
  next => cases form

/-- R19, R34: whichever form `ilin` takes, each lane in `am` reads its item's linear index. -/
theorem exec_srd_ilin {s : State} {t : Thread} {st : Seat} {d : SReg} (seated : ActsSeated s t st) (dst : d ≠ 0)
    (row : RowFree s t d) : ∃ v, exec (.srd d 12) s = .next (afterS s t d 4 v) ∧
      ∀ L, laneIn st.am L = true → L < 32 →
        svalAt v L (slotItem s t st L) = BitVec.ofNat 64 (ilin (lrecOf s t) (slotItem s t st L)) := by
  have run : exec (.srd d 12) s = writeForm s t d 4 (ilinForm (lrecOf s t)) fun _ i => BitVec.ofNat 64 (ilin (lrecOf s t) i) :=
    by rw [exec_srd_strand seated dst (by decide), if_neg (by decide), if_neg (by decide), if_neg (by decide), if_pos rfl]
  cases form : ilinForm (lrecOf s t) with
  | some v => exact ⟨v, by rw [run, form]; rfl, fun L _ _ => svalAt_ilinForm form L _⟩
  | none =>
    rw [form] at run
    refine ⟨_, run.trans (writeM_run 4 (fun _ i => BitVec.ofNat 64 (ilin (lrecOf s t) i)) seated.2 row), fun L lane inRow => ?_⟩
    simp only [svalAt, List.getD_eq_getElem?_getD, List.getElem?_map, List.getElem?_range inRow, Option.map_some, lane, if_true,
      Option.getD_some]

/-! ### `swr` (R184, R221) -/

theorem illSub_swr_none {r : BitVec 6} (known : r.toNat < 29) (b : SReg) : illSub (.swr r b) = none := by
  simp [illSub_swr, defect, Nat.not_le.2 known]

section Swr

variable {s : State} {t : Thread} {b : SReg} {r : BitVec 6} (acts : Acts s t) (known : r.toNat < 29)
include acts known

theorem exec_swr_allowed {v : Word} (may : userWrites r.toNat = true ∨ (ctxOf s t.ctx).priv = true) (val : getS t b = .u v) :
    exec (.swr r b) s = swrEffect s t r.toNat v := by
  have passes : ¬ (!(ctxOf s t.ctx).priv && !userWrites r.toNat) = true := by
    rcases may with user | priv <;> simp [*]
  rw [exec_swr, execSwr, scalar_run _ acts (illSub_swr_none known b), if_neg passes, val, needU_u]

/-- R221: the permission check comes first, so the operand's form does not matter. -/
theorem exec_swr_protected {st : Seat} (seat : t.seat = some st) (user : (ctxOf s t.ctx).priv = false)
    (guarded : userWrites r.toNat = false) :
    exec (.swr r b) s = .next (takeStop s s.cur (mkStop s t .fault 0x11 0x04 t.pc)) := by
  rw [exec_swr, execSwr, scalar_run _ acts (illSub_swr_none known b), if_pos (by simp [user, guarded]), fault, faultWith, seat]
  rfl

end Swr

theorem swrTable_swrEffect (s : State) (t : Thread) (v : Word) : ∀ p ∈ swrTable t v, p.1.toNat < 29 ∧
    (p.2.1 = false → userWrites p.1.toNat = true) ∧ swrEffect s t p.1.toNat v = .next (afterNone s p.2.2) := by
  simp [swrTable, userWrites, swrEffect, done4, done, afterNone]

theorem swrIgnored_swrEffect (s : State) (t : Thread) (v : Word) : ∀ p ∈ swrIgnored, p.1.toNat < 29 ∧
    (p.2 = false → userWrites p.1.toNat = true) ∧ swrEffect s t p.1.toNat v = .next (afterNone s t) := by
  simp [swrIgnored, userWrites, swrEffect, done4, done, afterNone]

end Sys2Proof.Machine

namespace Sys2Proof.Laws

open Sys2Proof Sys2Proof.Machine

/-- Settles O17: the tables are the rows of `srdU` and `swrEffect`; `ilin` keeps an affine form where its strides fit and is
written lane by lane where they do not (`exec_srd_ilin`). The statement's table has no row for `blo` and `bhi` (15 and 16); what `swr`
does to `ctxid` and `lease` is the model's reading (assumption 27). -/
theorem specialRegisters : Obligations.SpecialRegisters := by
  refine ⟨fun s t st d seated dst => ⟨fun p hp => ?uniform, fun p hp => ?timer, exec_srd_coord seated dst, exec_srd_ilin seated dst⟩,
    fun s t b acts => ⟨fun v val => ⟨fun p hp may => ?written, fun p hp may => ?ignored, fun priv => ?lease⟩,
      fun user st seat r guarded => ?guarded⟩⟩
  case uniform =>
    obtain ⟨known, value⟩ := specialTable_srdU seated.2 s p hp
    rw [exec_srd_uniform seated dst known, value]
  case timer =>
    obtain ⟨timer, value⟩ := timerTable_srdU seated.2 s p hp
    rw [exec_srd_timer seated dst timer, value]
  case written =>
    obtain ⟨known, anyone, effect⟩ := swrTable_swrEffect s t v p hp
    rw [exec_swr_allowed acts known (may.imp_left anyone) val, effect]
  case ignored =>
    obtain ⟨known, anyone, effect⟩ := swrIgnored_swrEffect s t v p hp
    rw [exec_swr_allowed acts known (may.imp_left anyone) val, effect]
  case lease => exact exec_swr_allowed acts (by decide) (.inr priv) val
  case guarded =>
    have closed : r.toNat < 29 ∧ userWrites r.toNat = false := by
      revert r
      decide
    exact exec_swr_protected acts closed.1 seat user closed.2

end Sys2Proof.Laws
end

section

/-! ## A step runs what the decoder reads (06_assembly_and_formats.md; O3)

A step is `carryOut` of the choice at the head of the agenda, settled (`step_of_agenda`). A thread that issues fetches, decodes
and executes (`issueScalar_runs`, `issueLane_runs`); what the fetch notes stays within the memory system. -/

namespace Sys2Proof.Machine

open Sys2Proof

/-! ### The step -/

theorem takeChoice_eq_settled (c : Choice) (s : State) : takeChoice c s = settled (carryOut c s) := by
  unfold takeChoice settled
  cases carryOut c s <;> rfl

theorem step_of_agenda {s : State} {c : Choice} {rest : List Choice} (next : s.agenda = c :: rest) :
    step s = settled (carryOut c s.stepping) := by
  rw [step, next]
  exact takeChoice_eq_settled c s.stepping

theorem carryOut_run (id : Nat) (s : State) : carryOut (.run id) s = issueScalar id s := by
  rw [carryOut]

theorem carryOut_lane (id : Nat) (s : State) : carryOut (.lane id) s = issueLane id s := by
  rw [carryOut]

theorem carryOut_event {i : Instr} (event : encode i = none) (s : State) : carryOut (.event i) s = exec i s := by
  rw [carryOut, event]
  rfl

theorem carryOut_umush (k : Nat) (i : Instr) (s : State) : carryOut (.umush k i) s = umushStep k i s := by
  rw [carryOut]

/-! ### The scalar stream (R168, R209) -/

theorem fetchScalar_reads {s : State} {t : Thread} {w0 w1 : W32} {i : Instr} (first : fetchWord s t t.pc.toNat = .ok w0)
    (second : if isSX w0 then fetchWord s t (t.pc + 4).toNat = .ok w1 else w1 = 0) (read : decodeScalar w0 w1 = .ok i) :
    fetchScalar s t = .instr i (if isSX w0 then 8 else 4) := by
  have fetched : scalarFetched w0 w1 = .instr i (if isSX w0 then 8 else 4) := by rw [scalarFetched, read]
  rw [fetchScalar, first]
  dsimp only
  cases sx : isSX w0 with
  | true =>
    rw [sx] at second fetched
    simp only [if_true] at second fetched ⊢
    rw [second]
    exact fetched
  | false =>
    rw [sx] at second fetched
    simp only [Bool.false_eq_true, if_false] at second fetched ⊢
    rwa [← second]

section Scalar

variable {s : State} {id : Nat} {t : Thread} (listed : tabFind s.threads id = some t)
include listed

theorem issueScalar_runs {i : Instr} {n : Nat} (may : mayIssue t = true) (ready : scalarReady s id t = true)
    (fetched : fetchScalar s t = .instr i n) : issueScalar id s = exec i (scalarIssued s id t n) := by
  simp only [issueScalar, listed, may, ready, Bool.and_self, if_true, fetched]

theorem issueScalar_stalls (waits : scalarReady s id t = false) : issueScalar id s = .next s := by
  simp only [issueScalar, listed, waits, Bool.and_false, Bool.false_eq_true, if_false]

end Scalar

/-! ### The lane stream (R179, R181) -/

theorem fetchLane_reads {s : State} {t : Thread} {lpc : Nat} {w0 w1 w2 : W32} {i : Instr} (inSection : lpc < (lrecOf s t).laneLen)
    (first : fetchWord s t (laneVa s t lpc) = .ok w0) (second : fetchWord s t (laneVa s t (lpc + 1)) = .ok w1)
    (third : fetchWord s t (laneVa s t (lpc + 2)) = .ok w2) (read : decodeLane (w2 ++ w1 ++ w0) = .ok i) :
    fetchLane s t lpc = .instr i 12 := by
  rw [fetchLane, if_neg (Nat.not_le.2 inSection), first, second, third]
  simp only [read]

section Lane

variable {s : State} {id : Nat} {t : Thread} (listed : tabFind s.threads id = some t)
include listed

theorem issueLane_runs {st : Seat} {b : Block} {bs : List Block} {i : Instr} {n : Nat} (seat : t.seat = some st)
    (blocks : st.blocks = b :: bs) (may : mayIssue t = true) (ready : laneReady s id t = true)
    (fetched : fetchLane s t (blockPc b) = .instr i n) :
    issueLane id s = laneEffect s id (exec i (laneIssued s id t (blockPc b))) := by
  simp only [issueLane, listed, seat, Option.map_some, Option.getD_some, blocks, may, ready, Bool.and_self, if_true, fetched]

theorem issueLane_stalls (waits : laneReady s id t = false) : issueLane id s = .next s := by
  simp only [issueLane, listed, waits, Bool.and_false, Bool.false_eq_true, if_false]
  split <;> rfl

end Lane

/-- R181: with nothing before it that may still fault, a lane instruction's effect is its own. -/
theorem laneEffect_of_sure {s : State} {id : Nat} (sure : lanesSure s id = true) (r : Out) : laneEffect s id r = r := by
  cases r <;> simp [laneEffect, sure]

/-! ### What a fetch leaves alone (R48, R345, R347) -/

theorem besideMemory_scalarIssued (s : State) (id : Nat) (t : Thread) (n : Nat) :
    besideMemory (scalarIssued s id t n) = besideMemory (issuing s id t) :=
  (besideMemory_noteAccess ..).trans (besideMemory_noteAccess ..)

theorem issuing_frame (s : State) (id : Nat) (t : Thread) : (issuing s id t).cur = id ∧ (issuing s id t).threads = s.threads ∧
    (issuing s id t).ops = s.ops ∧ (issuing s id t).agenda = s.agenda ∧ (issuing s id t).time = s.time ∧
    (t.seat = none → (issuing s id t).ctxs = s.ctxs) := by
  unfold issuing
  cases seat : t.seat <;> simp

theorem scalarIssued_frame (s : State) (id : Nat) (t : Thread) (n : Nat) :
    (scalarIssued s id t n).cur = id ∧ (scalarIssued s id t n).threads = s.threads ∧ (scalarIssued s id t n).ops = s.ops ∧
      (scalarIssued s id t n).agenda = s.agenda ∧ (scalarIssued s id t n).time = s.time ∧
      (t.seat = none → (scalarIssued s id t n).ctxs = s.ctxs) := by
  have beside := besideMemory_scalarIssued s id t n
  obtain ⟨cur, threads, ops, agenda, time, ctxs⟩ := issuing_frame s id t
  exact ⟨(congrArg State.cur beside).trans cur, (congrArg State.threads beside).trans threads,
    (congrArg State.ops beside).trans ops, (congrArg State.agenda beside).trans agenda, (congrArg State.time beside).trans time,
    fun span => (congrArg State.ctxs beside).trans (ctxs span)⟩

end Sys2Proof.Machine

namespace Sys2Proof.Laws

open Sys2Proof Sys2Proof.Machine

/-- Settles O3: each clause is `step_of_agenda` with what the choice carries out. -/
theorem stepRunsDecoded : Obligations.StepRunsDecoded := by
  intro s id t i rest u listed may
  have here : tabFind u.threads id = some t := listed
  have steps {c : Choice} (next : s.agenda = c :: rest) {r : Out} (does : carryOut c u = r) : step s = settled r :=
    (step_of_agenda next).trans (congrArg settled does)
  refine ⟨fun w0 w1 next ready first second read => ?scalar,
    fun st b bs w0 w1 w2 next seat blocks ready inSection first second third read => ?lane,
    fun next waits => steps next ((carryOut_run id u).trans (issueScalar_stalls here waits)),
    fun next waits => steps next ((carryOut_lane id u).trans (issueLane_stalls here waits)),
    fun next event => steps next (carryOut_event event u), fun k next => steps next (carryOut_umush k i u), fun n => ?frame⟩
  case scalar => exact steps next ((carryOut_run id u).trans (issueScalar_runs here may ready (fetchScalar_reads first second read)))
  case lane =>
    have runs : step s = settled (laneEffect u id (exec i (laneIssued u id t (blockPc b)))) :=
      steps next ((carryOut_lane id u).trans
        (issueLane_runs here seat blocks may ready (fetchLane_reads inSection first second third read)))
    exact ⟨runs, fun sure => runs.trans (congrArg settled (laneEffect_of_sure sure _))⟩
  case frame =>
    obtain ⟨cur, threads, ops, agenda, time, ctxs⟩ := scalarIssued_frame u id t n
    exact ⟨cur, threads, ops, agenda, time, fun span => by rw [ctxOf, ctxs span]; rfl⟩

end Sys2Proof.Laws
end

section

/-! ## Masks of lanes, and the defects of lane instructions (06_assembly_and_formats.md; O43)

Every instruction with a lane shape issues through `laneInstr` (`exec_issuesLane`), whose checks come in the order fields and
`.regs`, pairs through index registers, windows; each check that fails has one lemma. -/

namespace Sys2Proof

/-! ### Masks -/

theorem mem_lanesOf {m : W32} {L : Nat} : L ∈ lanesOf m ↔ L < 32 ∧ laneIn m L = true := by
  simp [lanesOf]

theorem nodup_lanesOf (m : W32) : (lanesOf m).Nodup := List.nodup_range.filter _

/-- The sum of powers that `maskOf` adds up has the bits of the lanes so far, and no others. -/
theorem testBit_maskSum (p : Nat → Bool) (n : Nat) :
    let sum := (List.range n).foldl (fun acc L => if p L then acc + 2 ^ L else acc) 0
    sum < 2 ^ n ∧ ∀ k, sum.testBit k = (decide (k < n) && p k) := by
  induction n with
  | zero => simp
  | succ n ih =>
    obtain ⟨below, bits⟩ := ih
    rw [List.range_succ, List.foldl_append, List.foldl_cons, List.foldl_nil]
    generalize (List.range n).foldl (fun acc L => if p L then acc + 2 ^ L else acc) 0 = sum at below bits
    cases pn : p n with
    | true =>
      simp only [if_true]
      refine ⟨by omega, fun k => ?_⟩
      have joined := Nat.two_pow_add_eq_or_of_lt below 1
      rw [Nat.mul_one] at joined
      rw [Nat.add_comm, joined, Nat.testBit_or, bits, Nat.testBit_two_pow]
      rcases Nat.lt_trichotomy k n with lt | rfl | gt
      · simp [lt, Nat.ne_of_gt lt, Nat.lt_succ_of_lt lt]
      · simp [pn]
      · simp [Nat.not_lt.2 gt.le, Nat.ne_of_lt gt, Nat.not_lt.2 (Nat.succ_le_of_lt gt)]
    | false =>
      simp only [Bool.false_eq_true, if_false]
      refine ⟨by omega, fun k => ?_⟩
      rcases Nat.lt_trichotomy k n with lt | rfl | gt
      · simp [bits, lt, Nat.lt_succ_of_lt lt]
      · simp [bits, pn]
      · simp [bits, Nat.not_lt.2 gt.le, Nat.not_lt.2 (Nat.succ_le_of_lt gt)]

theorem laneIn_maskOf (p : Nat → Bool) {L : Nat} (inRow : L < 32) : laneIn (maskOf p) L = p L := by
  rw [laneIn, maskOf, BitVec.getLsbD_ofNat, (testBit_maskSum p 32).2]
  simp [inRow]

theorem headD_lanesOf {m : W32} {L : Nat} (inRow : L < 32) (lane : laneIn m L = true) (first : ∀ k, k < L → laneIn m k = false) :
    (lanesOf m).headD 0 = L := by
  have found : (List.range 32).find? (laneIn m) = some L := by
    rw [List.find?_range_eq_some]
    exact ⟨lane, List.mem_range.2 inRow, fun k lt => by simp [first k lt]⟩
  rw [List.headD_eq_head?_getD, lanesOf, List.head?_filter, found, Option.getD_some]

/-! ### The least defect (R187) -/

theorem le_of_leastDefect {a b : Nat} : ∀ {l : List (Option Nat)}, (∀ d ∈ l, ∀ c ∈ d, a ≤ c) → leastDefect l = some b → a ≤ b
  | [], _, least => nomatch least
  | none :: _, all, least => le_of_leastDefect (List.forall_mem_cons.1 all).2 least
  | some c :: l, all, least => by
    obtain ⟨here, later⟩ := List.forall_mem_cons.1 all
    have first : a ≤ c := here c rfl
    cases rest : leastDefect l with
    | none =>
      simp only [leastDefect, rest, Option.some.injEq] at least
      exact least ▸ first
    | some d =>
      have others : a ≤ d := le_of_leastDefect later rest
      simp only [leastDefect, rest, Option.some.injEq] at least
      split at least <;> omega

theorem leastDefect_cons_of_le {a : Nat} {l : List (Option Nat)} (all : ∀ d ∈ l, ∀ c ∈ d, a ≤ c) :
    leastDefect (some a :: l) = some a := by
  cases rest : leastDefect l with
  | none => simp only [leastDefect, rest]
  | some b => simp only [leastDefect, rest, if_pos (le_of_leastDefect all rest)]

theorem leastDefect_cons_none (l : List (Option Nat)) : leastDefect (none :: l) = leastDefect l := rfl

theorem mem_defect {b : Bool} {sub c : Nat} : c ∈ defect b sub ↔ b = true ∧ sub = c := by
  cases b <;> simp [defect]

theorem defect_true (sub : Nat) : defect true sub = some sub := rfl

end Sys2Proof

namespace Sys2Proof.Machine

open Sys2Proof

/-! ### Issue of a lane instruction -/

/-- What an instruction makes of a state is what `laneInstr` makes of it with some effect (R224). -/
def IssuesLane (i : Instr) (s : State) (r : Out) : Prop := ∃ k, r = laneInstr i s k

theorem issuesLane_laneInstr (i : Instr) (s : State) (k : LaneEnv → Out) : IssuesLane i s (laneInstr i s k) := ⟨k, rfl⟩

theorem issuesLane_intExact (i : Instr) (s : State) (g : Int → Int → Int → Nat → Int) : IssuesLane i s (intExact i s g) := ⟨_, rfl⟩

theorem issuesLane_bitOp (i : Instr) (s : State) (g : Nat → Nat → Nat → Nat) : IssuesLane i s (bitOp i s g) := ⟨_, rfl⟩

theorem issuesLane_shiftOp (i : Instr) (s : State) (g : LaneEnv → Nat → Nat → Nat) : IssuesLane i s (shiftOp i s g) := ⟨_, rfl⟩

theorem issuesLane_floatOp (i : Instr) (s : State) (g : LaneFields → Fmt → Nat → Nat → Nat → Nat × AFlags) :
    IssuesLane i s (floatOp i s g) := ⟨_, rfl⟩

theorem exec_issuesLane {i : Instr} {x : LaneShape × Bool × LaneFields} (lane : laneShape i = some x) (s : State) :
    IssuesLane i s (exec i s) := by
  cases i
  case iadd | isub | imul | imulh | imad | iabs | ineg | imin | imax => rw [exec]; exact issuesLane_intExact ..
  case land | lor | lxor | lnot | andn | clz | popc | brev => rw [exec]; exact issuesLane_bitOp ..
  case shl | shr | sra | rotl | bfx => rw [exec]; exact issuesLane_shiftOp ..
  case fadd | fsub | fmul | ffma | fmin | fmax | fabs | fneg | fcpsgn | frcp | frsq | fsqrt | fdiv | fex2 | flg2 | fsin | fcos
    | ftrunc => rw [exec]; exact issuesLane_floatOp ..
  case bfi | icmp | sel | dot4 | fcmp | fclass | fldx | mov | movi | cvt | pack2 | unpk | tdec | tenc | lea | pset | pmov | shfl
    | bcast | vote | redx | scan | firstLane | perm | cmpx | ld | st | stk | prf | atom | red | cas | cacc | xset | xadd | xget =>
    rw [exec]; exact issuesLane_laneInstr ..
  all_goals cases lane

section Ill

variable {i : Instr} {s : State} {t : Thread} {b : Block} {sh : LaneShape} {f : LaneFields}

/-- The other two defects have sub-causes 5 and 6, so the fields' own is the least (R187). -/
theorem laneIll_of_fields {sub : Nat} (ill : illSub i = some sub) (low : sub ≤ 5) : laneIll i s t b sh f = some sub := by
  rw [laneIll, ill]
  refine leastDefect_cons_of_le (List.forall_mem_cons.2 ⟨fun c far => ?_, List.forall_mem_singleton.2 fun c last => ?_⟩)
  · exact (mem_defect.1 far).2 ▸ low
  · exact (mem_defect.1 last).2 ▸ low.trans (by decide)

theorem laneIll_of_beyondRegs (sound : WellFormed i) (far : beyondRegs (lrecOf s t).regs sh f = true) :
    laneIll i s t b sh f = some 0x05 := by
  rw [laneIll, sound, far, leastDefect_cons_none, defect_true]
  exact leastDefect_cons_of_le (List.forall_mem_singleton.2 fun c last => (mem_defect.1 last).2 ▸ by decide)

theorem ends_iff : (b.pos == 1023 && !bit f.t) = false ↔ b.pos ≠ 1023 ∨ f.t = 1 := by
  simp [bit]
  tauto

theorem laneIll_of_last (sound : WellFormed i) (near : beyondRegs (lrecOf s t).regs sh f = false)
    (last : ¬ (b.pos ≠ 1023 ∨ f.t = 1)) : laneIll i s t b sh f = some 0x06 := by
  rw [← ends_iff, Bool.not_eq_false] at last
  rw [laneIll, sound, near, last]
  rfl

theorem laneIll_none (sound : WellFormed i) (near : beyondRegs (lrecOf s t).regs sh f = false)
    (ends : b.pos ≠ 1023 ∨ f.t = 1) : laneIll i s t b sh f = none := by
  rw [laneIll, sound, near, ends_iff.2 ends]
  rfl

end Ill

section Issue

variable {i : Instr} {s : State} {t : Thread} {st : Seat} {b : Block} {rest : List Block} {sh : LaneShape} {m : Bool}
  {f : LaneFields} (seated : ActsSeated s t st) (blocks : st.blocks = b :: rest) (lane : laneShape i = some (sh, m, f))
include seated blocks lane

theorem exec_lane_ill {sub : Nat} (ill : laneIll i s t b sh f = some sub) :
    exec i s = laneStop s t b cILL sub b.am id := by
  obtain ⟨acts, seat⟩ := seated
  obtain ⟨k, issues⟩ := exec_issuesLane lane s
  simp only [issues, laneInstr, show tabFind s.threads s.cur = some t from acts, lane, seat, blocks, ill]

variable (sound : laneIll i s t b sh f = none)
include sound

theorem exec_lane_pairBeyond (beyond : pairBeyond s t st (execMask st b f) sh f = true) :
    exec i s = laneStop s t b cILL 0x05 b.am id := by
  obtain ⟨acts, seat⟩ := seated
  obtain ⟨k, issues⟩ := exec_issuesLane lane s
  simp only [issues, laneInstr, show tabFind s.threads s.cur = some t from acts, lane, seat, blocks, sound, beyond, if_true]

/-- R174: IDX names the one index register used, with the index of the first lane outside the window. -/
theorem exec_lane_idx (within : pairBeyond s t st (execMask st b f) sh f = false) {n w L : Nat} (uses : indexUses sh f = [(n, w)])
    (inRow : L < 32) (executes : laneIn (execMask st b f) L = true) (outside : indexBad s t st n w L = true)
    (first : ∀ k, k < L → laneIn (execMask st b f) k = true → indexBad s t st n w k = false) :
    exec i s = laneStop s t b cIDX n (maskOf fun k => laneIn (execMask st b f) k && indexBad s t st n w k) fun p =>
      { p with w6 := (xOf st n L).setWidth 64, w7 := BitVec.ofNat 64 (windowOf s t n).2 } := by
  obtain ⟨acts, seat⟩ := seated
  obtain ⟨k, issues⟩ := exec_issuesLane lane s
  have bad (k : Nat) (hk : k < 32) : laneIn (maskOf fun k => laneIn (execMask st b f) k && indexBad s t st n w k) k =
      (laneIn (execMask st b f) k && indexBad s t st n w k) := laneIn_maskOf _ hk
  have head : (lanesOf (maskOf fun k => laneIn (execMask st b f) k && indexBad s t st n w k)).headD 0 = L := by
    refine headD_lanesOf inRow (by rw [bad L inRow, executes, outside]; rfl) fun k lt => ?_
    rw [bad k (lt.trans inRow)]
    cases runs : laneIn (execMask st b f) k with
    | true => rw [first k lt runs]; rfl
    | false => rfl
  simp only [issues, laneInstr, show tabFind s.threads s.cur = some t from acts, lane, seat, blocks, sound, within,
    Bool.false_eq_true, if_false, uses, List.any_cons, List.any_nil, Bool.or_false, head, List.find?_cons, bad L inRow, executes,
    outside, Bool.and_self]

end Issue

end Sys2Proof.Machine

namespace Sys2Proof.Laws

open Sys2Proof Sys2Proof.Machine

/-- Settles O43: the checks of `laneInstr` in their order, each at the lane PC and with no effect but the stop. That an ILL record
has the block's `am` as its mask is the model's reading (assumption 24). -/
theorem laneFaults : Obligations.LaneFaults := by
  intro i s t st b rest sh m f seated blocks lane stop far ends ex
  refine ⟨fun sub ill low => ?fields, fun sound high => ?beyond, fun sound near last => ?last,
    fun sound near ends beyond => ?pair, fun sound near ends within n w uses L runs outside first => ?idx⟩
  case fields => exact exec_lane_ill seated blocks lane (laneIll_of_fields ill low)
  case beyond => exact exec_lane_ill seated blocks lane (laneIll_of_beyondRegs sound high)
  case last => exact exec_lane_ill seated blocks lane (laneIll_of_last sound near last)
  case pair => exact exec_lane_pairBeyond seated blocks lane (laneIll_none sound near ends) beyond
  case idx =>
    obtain ⟨inRow, executes⟩ := mem_lanesOf.1 runs
    exact exec_lane_idx seated blocks lane (laneIll_none sound near ends) within uses inRow executes outside first

end Sys2Proof.Laws
end

section

/-! ## The frame of a lane instruction (06_assembly_and_formats.md; O45)

`afterReads` frees the last uses, clears marks and moves the block on; a register result then writes one row per executing
lane (`tabFind_writeLanes`: no two lanes share a row) and pushes a latch. -/

namespace Sys2Proof

theorem tabFind_filter_key {α : Type} (q : Nat → Bool) (t : Tab α) (k : Nat) :
    tabFind (t.filter fun p => q p.1) k = if q k then tabFind t k else none := by
  induction t with
  | nil => simp [tabFind]
  | cons p t ih =>
    obtain ⟨j, v⟩ := p
    by_cases same : j = k
    · subst same
      cases keeps : q j <;> simp [keeps, tabFind, ih]
    · cases keeps : q j <;> simp [keeps, tabFind, same, ih]

theorem tabGet_foldl_tabSet {x : Tab W32} {ls : List Nat} {L d n : Nat} (inRow : ∀ l ∈ ls, l < 32) (hL : L < 32) (r : Nat → W32) :
    tabGet 0 (ls.foldl (fun x l => tabSet 0 x (d * 32 + l) (r l)) x) (n * 32 + L) =
      if n = d ∧ L ∈ ls then r L else tabGet 0 x (n * 32 + L) := by
  induction ls generalizing x with
  | nil => simp
  | cons l ls ih =>
    obtain ⟨hl, hls⟩ := List.forall_mem_cons.1 inRow
    rw [List.foldl_cons, ih hls]
    by_cases later : n = d ∧ L ∈ ls
    · rw [if_pos later, if_pos ⟨later.1, List.mem_cons_of_mem _ later.2⟩]
    rw [if_neg later]
    by_cases here : n = d ∧ L = l
    · obtain ⟨rfl, rfl⟩ := here
      rw [tabGet_tabSet_self, if_pos ⟨rfl, List.mem_cons_self⟩]
    · rw [tabGet_tabSet_ne 0 x (by omega), if_neg]
      rintro ⟨row, mem⟩
      rcases List.mem_cons.1 mem with eq | mem
      · exact here ⟨row, eq⟩
      · exact later ⟨row, mem⟩

theorem getLsbD_foldl_clear (rs : List Nat) (m : BitVec 248) (k : Nat) :
    (rs.foldl (fun m r => m &&& ~~~(1#248 <<< r)) m).getLsbD k = (m.getLsbD k && !rs.contains k) := by
  induction rs generalizing m with
  | nil => simp
  | cons r rs ih =>
    have cleared : (m &&& ~~~(1#248 <<< r)).getLsbD k = (m.getLsbD k && !(k == r)) := by
      by_cases inside : k < 248
      · by_cases same : k = r
        · simp [same]
        · have apart : ¬ k < r → k - r ≠ 0 := by omega
          by_cases below : k < r <;> simp [inside, same, below, apart]
      · rw [BitVec.getLsbD_of_ge _ _ (Nat.not_lt.1 inside), BitVec.getLsbD_of_ge _ _ (Nat.not_lt.1 inside), Bool.false_and]
    rw [List.foldl_cons, ih, cleared, List.contains_cons, Bool.not_or, Bool.and_assoc]

end Sys2Proof

namespace Sys2Proof.Machine

open Sys2Proof

/-! ### Seats alike but for what a lane instruction changes -/

theorem SameButLane.trans {a b c : Seat} (ab : SameButLane a b) (bc : SameButLane b c) : SameButLane a c := by
  unfold SameButLane at *
  calc c = { b with
          vregs := c.vregs, zeroV := c.zeroV, live := c.live, longRegs := c.longRegs, dirtyV := c.dirtyV,
          latches := c.latches, blocks := c.blocks, past := c.past } := bc
    _ = _ := by rw [ab]

/-! ### The reads of an instruction (R178, R179, R316) -/

section Reads

variable (i : Instr) (e : LaneEnv)

theorem afterReads_sameButLane : SameButLane e.st (afterReads i e) := by
  unfold SameButLane afterReads
  dsimp only
  split <;> rfl

theorem afterReads_latches : (afterReads i e).latches = latchesRead e := by
  unfold afterReads
  dsimp only
  split <;> rfl

theorem afterReads_preds : (afterReads i e).preds = e.st.preds := by rw [afterReads_sameButLane i e]

theorem afterReads_xregs : (afterReads i e).xregs = e.st.xregs := by rw [afterReads_sameButLane i e]

theorem afterReads_longRegs (k : Nat) :
    (afterReads i e).longRegs.getLsbD k = (e.st.longRegs.getLsbD k && !(readClears i e).contains k) := by
  rw [← getLsbD_foldl_clear]
  unfold afterReads
  dsimp only
  split <;> rfl

theorem afterReads_blocks {rest : List Block} (blocks : e.st.blocks = e.b :: rest) :
    (afterReads i e).blocks = if e.f.t = 1 then rest else { e.b with pos := e.b.pos + 1 } :: rest := by
  unfold afterReads
  dsimp only [freeRegs]
  by_cases ends : e.f.t = 1
  · rw [if_pos ends, if_pos (by simp [bit, ends])]
    simp [blockEnds, blocks]
  · rw [if_neg ends, if_neg (by simpa [bit] using ends), blocks]

variable {i e} {sh : LaneShape} {m : Bool} {f : LaneFields} (lane : laneShape i = some (sh, m, f))
include lane

theorem afterReads_vregs : (afterReads i e).vregs = e.st.vregs.filter fun p => !(lastUses sh f).contains (p.1 / 32) := by
  unfold afterReads
  rw [lane]
  dsimp only
  split <;> rfl

theorem tabFind_afterReads {k L : Nat} (inRow : L < 32) : tabFind (afterReads i e).vregs (k * 32 + L) =
    if k ∈ lastUses sh f then none else tabFind e.st.vregs (k * 32 + L) := by
  have row : (k * 32 + L) / 32 = k := by omega
  rw [afterReads_vregs lane, tabFind_filter_key (fun key => !(lastUses sh f).contains (key / 32)), row]
  by_cases freed : k ∈ lastUses sh f <;> simp [freed]

theorem afterReads_zeroV (k : Nat) :
    (afterReads i e).zeroV.getLsbD k = (e.st.zeroV.getLsbD k && !(lastUses sh f).contains k) := by
  rw [← getLsbD_foldl_clear]
  unfold afterReads
  rw [lane]
  dsimp only
  split <;> rfl

end Reads

/-! ### Rows of lane registers written (R142, R177) -/

/-- What a write of `w` bits to a register leaves in the row of a register `k`, where it reaches it. -/
def rowWritten (reg w v k : Nat) : Option W32 :=
  if k = reg then some (BitVec.ofNat 32 v) else if w = 64 ∧ k = reg + 1 then some (BitVec.ofNat 32 (v / 2 ^ 32)) else none

theorem tabFind_writeReg_self {L : Nat} (st : Seat) (reg w v k : Nat) : tabFind (writeReg st reg w L v).vregs (k * 32 + L) =
    (rowWritten reg w v k).or (tabFind st.vregs (k * 32 + L)) := by
  have other {k j : Nat} (ne : k ≠ j) : k * 32 + L ≠ j * 32 + L := by omega
  unfold writeReg rowWritten
  dsimp only
  by_cases low : k = reg
  · subst low
    rw [if_pos rfl]
    split
    · simp [writeV, tabFind_tabPut_ne _ (other (Nat.ne_of_lt (Nat.lt_succ_self k)))]
    · simp [writeV]
  · rw [if_neg low]
    by_cases pair : w = 64
    · rw [if_pos pair]
      by_cases high : k = reg + 1
      · simp [writeV, high, pair]
      · simp [writeV, high, tabFind_tabPut_ne _ (other high), tabFind_tabPut_ne _ (other low)]
    · simp [writeV, pair, tabFind_tabPut_ne _ (other low)]

theorem tabFind_writeReg_otherLane {L L' : Nat} (other : L' ≠ L) (hL : L < 32) (hL' : L' < 32) (st : Seat) (reg w v k : Nat) :
    tabFind (writeReg st reg w L v).vregs (k * 32 + L') = tabFind st.vregs (k * 32 + L') := by
  have apart (j : Nat) : k * 32 + L' ≠ j * 32 + L := by omega
  unfold writeReg
  dsimp only
  split <;> simp [writeV, tabFind_tabPut_ne _ (apart _)]

/-- The seat after a result of `w` bits has been written to a register of each of some lanes. -/
def writeLanes (st : Seat) (ls : List Nat) (reg : Nat → Nat) (w : Nat) (r : Nat → Nat) : Seat :=
  ls.foldl (fun st L => writeReg st (reg L) w L (r L)) st

theorem writeLanes_frame (st : Seat) (ls : List Nat) (reg : Nat → Nat) (w : Nat) (r : Nat → Nat) :
    ∃ v l d, writeLanes st ls reg w r = { st with vregs := v, live := l, dirtyV := d } := by
  induction ls generalizing st with
  | nil => exact ⟨st.vregs, st.live, st.dirtyV, rfl⟩
  | cons L ls ih =>
    obtain ⟨v, l, d, written⟩ := ih (writeReg st (reg L) w L (r L))
    refine ⟨v, l, d, written.trans ?_⟩
    unfold writeReg
    dsimp only
    split <;> rfl

/-- No two lanes share a row, so a lane's row holds what was written for that lane. -/
theorem tabFind_writeLanes {ls : List Nat} (once : ls.Nodup) (inRow : ∀ l ∈ ls, l < 32) (st : Seat) (reg : Nat → Nat) (w : Nat)
    (r : Nat → Nat) {L : Nat} (hL : L < 32) (k : Nat) : tabFind (writeLanes st ls reg w r).vregs (k * 32 + L) =
      if L ∈ ls then (rowWritten (reg L) w (r L) k).or (tabFind st.vregs (k * 32 + L)) else tabFind st.vregs (k * 32 + L) := by
  induction ls generalizing st with
  | nil => rfl
  | cons l ls ih =>
    obtain ⟨new, once⟩ := List.nodup_cons.1 once
    obtain ⟨hl, hls⟩ := List.forall_mem_cons.1 inRow
    rw [writeLanes, List.foldl_cons, ← writeLanes, ih once hls]
    by_cases here : L = l
    · subst here
      rw [if_neg new, if_pos List.mem_cons_self, tabFind_writeReg_self]
    · rw [tabFind_writeReg_otherLane here hl hL]
      simp only [List.mem_cons, here, false_or]

/-! ### A lane-register result (R173, R177, R224) -/

/-- The latch that a result is pushed into l0 as. -/
def resultLatch (e : LaneEnv) (w : Nat) (r : Nat → Nat) : Latch :=
  { vals := (lanesOf e.ex).map fun L => (L, BitVec.ofNat 64 (r L % 2 ^ w)), mask := e.ex, block := e.b.seq, pos := e.b.pos,
    broken := false, pend := none }

/-- The seat after a lane-register result. -/
def resultSeat (i : Instr) (e : LaneEnv) (w : Nat) (r : Nat → Nat) : Seat :=
  let st0 := afterReads i e
  let st1 := if e.f.dst = 255 then st0 else writeLanes st0 (lanesOf e.ex) (regOf e.s e.t e.st e.f.dst.toNat) w r
  { st1 with latches := resultLatch e w r :: st1.latches.take 3 }

theorem afterResult_eq (i : Instr) (e : LaneEnv) (w : Nat) (r : Nat → Nat) (fl : AFlags) :
    afterResult i e w r fl =
      putThr e.s e.s.cur { e.t with seat := some (resultSeat i e w r), aflags := e.t.aflags ||| fl } := rfl

theorem tabGet_resultLatch (e : LaneEnv) {w : Nat} (width : w ≤ 64) (r : Nat → Nat) :
    ∀ L ∈ lanesOf e.ex, (tabGet 0 (resultLatch e w r).vals L).toNat = r L % 2 ^ w := by
  have listed (ls : List Nat) (v : Nat → Word) : ∀ L ∈ ls, tabGet 0 (ls.map fun L => (L, v L)) L = v L := by
    induction ls with
    | nil => exact fun _ mem => absurd mem List.not_mem_nil
    | cons l ls ih =>
      intro L mem
      by_cases here : l = L
      · simp [tabGet, tabFind, here]
      · have later := ih L ((List.mem_cons.1 mem).resolve_left (Ne.symm here))
        simpa [tabGet, tabFind, here] using later
  intro L mem
  have fits : r L % 2 ^ w < 2 ^ 64 :=
    (Nat.mod_lt _ (Nat.two_pow_pos w)).trans_le (Nat.pow_le_pow_right (by decide) width)
  rw [resultLatch, listed _ (fun L => BitVec.ofNat 64 (r L % 2 ^ w)) L mem, BitVec.toNat_ofNat, Nat.mod_eq_of_lt fits]

section Result

variable (i : Instr) (e : LaneEnv) (w : Nat) (r : Nat → Nat)

theorem resultSeat_frame : ∃ v l d, resultSeat i e w r =
    { afterReads i e with vregs := v, live := l, dirtyV := d, latches := resultLatch e w r :: (latchesRead e).take 3 } := by
  unfold resultSeat
  dsimp only
  rw [← afterReads_latches i e]
  split
  · exact ⟨_, _, _, rfl⟩
  · obtain ⟨v, l, d, written⟩ := writeLanes_frame (afterReads i e) (lanesOf e.ex) (regOf e.s e.t e.st e.f.dst.toNat) w r
    exact ⟨v, l, d, by rw [written]⟩

theorem resultSeat_sameButLane : SameButLane e.st (resultSeat i e w r) := by
  obtain ⟨v, l, d, frame⟩ := resultSeat_frame i e w r
  exact (afterReads_sameButLane i e).trans (by rw [SameButLane, frame])

variable {i e} {sh : LaneShape} {m : Bool} {f : LaneFields} (lane : laneShape i = some (sh, m, f)) {L : Nat} (hL : L < 32)
  (k : Nat)
include lane hL

theorem tabFind_resultSeat_written (dst : e.f.dst ≠ 255) (executes : laneIn e.ex L = true) :
    tabFind (resultSeat i e w r).vregs (k * 32 + L) = (rowWritten (regOf e.s e.t e.st e.f.dst.toNat L) w (r L) k).or
      (if k ∈ lastUses sh f then none else tabFind e.st.vregs (k * 32 + L)) := by
  unfold resultSeat
  dsimp only
  rw [if_neg dst, tabFind_writeLanes (nodup_lanesOf _) (fun l mem => (mem_lanesOf.1 mem).1) _ _ _ _ hL,
    if_pos (mem_lanesOf.2 ⟨hL, executes⟩), tabFind_afterReads lane hL]

theorem tabFind_resultSeat_kept (unwritten : e.f.dst = 255 ∨ laneIn e.ex L = false) :
    tabFind (resultSeat i e w r).vregs (k * 32 + L) =
      if k ∈ lastUses sh f then none else tabFind e.st.vregs (k * 32 + L) := by
  unfold resultSeat
  dsimp only
  rw [← tabFind_afterReads lane hL]
  split
  · rfl
  · next dst =>
    have idle : laneIn e.ex L = false := unwritten.resolve_left dst
    rw [tabFind_writeLanes (nodup_lanesOf _) (fun l mem => (mem_lanesOf.1 mem).1) _ _ _ _ hL,
      if_neg (by simp [mem_lanesOf, idle])]

/-- The rows outside the destination in the executing lanes stand as the reads left them. -/
theorem tabFind_resultSeat_other (unwritten : e.f.dst = 255 ∨ laneIn e.ex L = false ∨
      (k ≠ regOf e.s e.t e.st e.f.dst.toNat L ∧ ¬ (w = 64 ∧ k = regOf e.s e.t e.st e.f.dst.toNat L + 1))) :
    tabFind (resultSeat i e w r).vregs (k * 32 + L) =
      if k ∈ lastUses sh f then none else tabFind e.st.vregs (k * 32 + L) := by
  by_cases kept : e.f.dst = 255 ∨ laneIn e.ex L = false
  · exact tabFind_resultSeat_kept w r lane hL k kept
  · obtain ⟨dst, executes⟩ := not_or.1 kept
    obtain ⟨low, high⟩ := (unwritten.resolve_left dst).resolve_left executes
    rw [tabFind_resultSeat_written w r lane hL k dst (Bool.eq_true_of_not_eq_false executes), rowWritten, if_neg low, if_neg high,
      Option.none_or]

end Result

/-! ### Predicates and index registers (R226, R248) -/

theorem predOf_tabSet {st : Seat} {d k : Nat} (writable : d ≠ 7) (new : W32) :
    predOf { st with preds := tabSet 0 st.preds d new } k = if k = d then new else predOf st k := by
  unfold predOf
  by_cases here : k = d
  · subst here
    rw [if_neg writable, if_pos rfl]
    exact tabGet_tabSet_self ..
  · rw [if_neg here, tabGet_tabSet_ne 0 st.preds here]

/-- The seat after a predicate result. -/
def predSeat (i : Instr) (e : LaneEnv) (r : Nat → Bool) : Seat :=
  let st := afterReads i e
  let d := e.f.dst.toNat % 8
  { st with preds := tabSet 0 st.preds d (maskOf fun L => if laneIn e.ex L then r L else laneIn (predOf st d) L) }

theorem afterPred_eq (i : Instr) (e : LaneEnv) (r : Nat → Bool) (fl : AFlags) :
    afterPred i e r fl = putThr e.s e.s.cur { e.t with seat := some (predSeat i e r), aflags := e.t.aflags ||| fl } := rfl

theorem laneIn_predSeat {e : LaneEnv} (i : Instr) (writable : e.f.dst.toNat % 8 ≠ 7) (r : Nat → Bool) (k : Nat) {L : Nat} (hL : L < 32) :
    laneIn (predOf (predSeat i e r) k) L =
      if k = e.f.dst.toNat % 8 ∧ laneIn e.ex L then r L else laneIn (predOf e.st k) L := by
  have read (d : Nat) : predOf (afterReads i e) d = predOf e.st d := by rw [predOf, afterReads_preds]; rfl
  unfold predSeat
  dsimp only
  rw [predOf_tabSet writable]
  by_cases here : k = e.f.dst.toNat % 8
  · subst here
    rw [if_pos rfl, laneIn_maskOf _ hL, read]
    simp only [true_and]
  · rw [if_neg here, read, if_neg fun both => here both.1]

/-- The seat after an index-register result. -/
def indexSeat (i : Instr) (e : LaneEnv) (r : Nat → W32) : Seat :=
  let st := afterReads i e
  { st with xregs := (lanesOf e.ex).foldl (fun x L => tabSet 0 x (e.f.dst.toNat % 4 * 32 + L) (r L)) st.xregs }

theorem afterIndex_eq (i : Instr) (e : LaneEnv) (r : Nat → W32) :
    afterIndex i e r = putThr e.s e.s.cur { e.t with seat := some (indexSeat i e r) } := by
  have flags : e.t.aflags ||| 0 = e.t.aflags := BitVec.or_zero
  rw [afterIndex, afterLane, flags]
  rfl

theorem xOf_indexSeat (i : Instr) (e : LaneEnv) (r : Nat → W32) (n : Nat) {L : Nat} (hL : L < 32) :
    xOf (indexSeat i e r) n L = if n = e.f.dst.toNat % 4 ∧ laneIn e.ex L then r L else xOf e.st n L := by
  rw [xOf, indexSeat, tabGet_foldl_tabSet (fun l mem => (mem_lanesOf.1 mem).1) hL, afterReads_xregs]
  simp only [mem_lanesOf, hL, true_and]
  rfl

end Sys2Proof.Machine

namespace Sys2Proof.Laws

open Sys2Proof Sys2Proof.Machine

/-- Settles O45: rows of registers by `tabFind_resultSeat_written` and `tabFind_resultSeat_other`, the rest of the seat by the frames
of `afterReads` and `resultSeat`. -/
theorem laneResultsWrite : Obligations.LaneResultsWrite := by
  refine ⟨fun i s e w r fl runs width => ?register, fun i s e fl runs => ⟨fun r writable => ?pred, fun v writable => ?scalar,
    fun r => ?index, ?reads⟩⟩ <;> obtain rfl := runs.same
  case register =>
    obtain ⟨v, l, d, frame⟩ := resultSeat_frame i e w r
    refine ⟨resultSeat i e w r, afterResult_eq i e w r fl, fun sh m f lane k L hL => ⟨?low, ?high, ?kept, ?freed⟩,
      ⟨resultLatch e w r, by rw [frame], rfl, rfl, rfl, rfl, rfl, tabGet_resultLatch e (by omega) r⟩, by rw [frame], by rw [frame],
      fun rest blocks => ?blocks, resultSeat_sameButLane i e w r⟩
    case low =>
      rintro dst executes rfl
      rw [readV, tabFind_resultSeat_written w r lane hL _ dst executes, rowWritten, if_pos rfl]
      rfl
    case high =>
      rintro dst executes pair rfl
      rw [readV, tabFind_resultSeat_written w r lane hL _ dst executes, rowWritten, if_neg (Nat.succ_ne_self _), if_pos ⟨pair, rfl⟩]
      rfl
    case kept =>
      intro unwritten stays
      rw [tabFind_resultSeat_other w r lane hL k unwritten, if_neg stays]
    case freed =>
      intro unwritten used
      rw [tabFind_resultSeat_other w r lane hL k unwritten, if_pos used]
    case blocks =>
      rw [frame]
      exact afterReads_blocks i e blocks
  case pred =>
    exact ⟨predSeat i e r, afterPred_eq i e r fl, fun k L _ hL => laneIn_predSeat i writable r k hL, rfl⟩
  case scalar => rfl
  case index => exact ⟨indexSeat i e r, afterIndex_eq i e r, fun n L _ hL => xOf_indexSeat i e r n hL, rfl⟩
  case reads =>
    exact ⟨afterReads_sameButLane i e, afterReads_latches i e, afterReads_longRegs i e, fun rest blocks => afterReads_blocks i e blocks,
      fun sh m f lane => ⟨afterReads_zeroV lane, fun k L hL => tabFind_afterReads lane hL⟩⟩

end Sys2Proof.Laws
end

section

namespace Sys2Proof.Machine

open Sys2Proof

/-! ### Issue of a scalar instruction -/

/-- `alu`, `cop`, `hbarOn`, `engIssue` and the other operations that instructions share all come down to `scalar`; a constructor
that is not named has no defect. -/
theorem exec_eq_scalar_of_scalarDefect {i : Instr} {sub : Nat} (ill : scalarDefect i = some sub) (s : State) :
    illSub i = some sub ∧ ∃ k, exec i s = scalar i s k := by
  cases i
  case sadd | ssub | smul | smulh | smulhn | sand | sor | sxor | sshl | sshr | ssra | smin | smax | sminn | smaxn | sdiv | sdivn
    | srem | sremn | sclz | spop | saffx | saffy | saffz | saddi | sandi | sori | sxori | sshli | sshri | ssrai | smuli | sli
    | sliHi | scmp | scmpi | ssel | copAnd | copOr | copXor | copAndn | copNot | copSet | copClr | copMov | sform | sld | satom
    | cmo | kget | kgetSet | barArv | barArw | barInit | hbarArv | hbarWt | hbarArw | fence | lx | qfence | mma | mgath | mzero
    | mdrain | mwait | cpy | coll | rnarLo | rnarHi | srd | swr | dlaunch => exact ⟨ill, _, rfl⟩
  all_goals cases ill

end Sys2Proof.Machine

namespace Sys2Proof.Laws

open Sys2Proof Sys2Proof.Machine

/-- Settles O9: an instruction with a defect is issued by `scalar` (`exec_eq_scalar_of_scalarDefect`), which raises ILL before it
runs any effect (`scalar_ill`). -/
theorem scalarIllegal : Obligations.ScalarIllegal := by
  intro s t i sub acts defective
  obtain ⟨ill, k, issued⟩ := exec_eq_scalar_of_scalarDefect defective s
  calc exec i s = scalar i s k := issued
    _ = fault s t 0x01 sub := scalar_ill k acts ill

end Sys2Proof.Laws
end

section

/-! ## The scalar ALU (08_scalar_stream.md; O6, O7)

Each form function of R20 is sound: where it names a form, that form has the operation's result at every item. Each row of
the tables is an `alu` with a sound form function, so what `alu` does to U operands and to operands of any form is said once for all
of them. -/

namespace Sys2Proof.Machine

open Sys2Proof

/-! ### Values at an item (R19, R34) -/

theorem svalAt_u (w : Word) (L : Nat) (i : Item) : svalAt (.u w) L i = w := rfl

theorem svalAt_a (b : Word) (x y z : W32) (L : Nat) (i : Item) : svalAt (.a b x y z) L i = affAt b x y z i := rfl

theorem svalAt_affine {b : Word} {x y z : Int} {v : SVal} (form : affine b x y z = some v) (L : Nat) (i : Item) :
    svalAt v L i = b + BitVec.ofInt 64 x * BitVec.ofNat 64 i.x + BitVec.ofInt 64 y * BitVec.ofNat 64 i.y
      + BitVec.ofInt 64 z * BitVec.ofNat 64 i.z := by
  unfold affine at form
  split at form
  next fits =>
    simp only [Bool.and_eq_true] at fits
    obtain ⟨⟨fitsX, fitsY⟩, fitsZ⟩ := fits
    cases form
    rw [svalAt_mkA, affAt, signExtend_ofInt_of_fits32 fitsX, signExtend_ofInt_of_fits32 fitsY, signExtend_ofInt_of_fits32 fitsZ]
  next => cases form

/-- Values of 32 lanes read back at each of them. -/
theorem svalAt_lanes (f : Nat → Word) {L : Nat} (inRow : L < 32) (i : Item) : svalAt (.m ((List.range 32).map f)) L i = f L := by
  simp [svalAt, List.getElem?_range inRow]

/-! ### Forms of results (R20) -/

/-- Where a form function names a form, the form has the result of `f` at every slot. -/
def FormSound (form : SVal → SVal → Option SVal) (f : Word → Word → Item → Word) : Prop :=
  ∀ p q v, form p q = some v → ∀ L i, svalAt v L i = f (svalAt p L i) (svalAt q L i) i

/-- The form function of an operation on words: sound, U on U operands, and M where the first or the second operand is M. -/
structure WordForm (form : SVal → SVal → Option SVal) (f : Word → Word → Word) : Prop where
  sound : FormSound form fun v w _ => f v w
  uniform : ∀ v w, form (.u v) (.u w) = some (.u (f v w))
  materialised : ∀ l q, form (.m l) q = none

theorem formAdd_sound : FormSound formAdd fun v w _ => v + w := by
  intro p q v form L i
  unfold formAdd at form
  split at form
  · cases form; rfl
  · cases form
    rw [svalAt_mkA, svalAt_u, svalAt_a, affAt, affAt]
    ring
  · cases form
    rw [svalAt_mkA, svalAt_u, svalAt_a, affAt, affAt]
    ring
  · rw [svalAt_affine form, svalAt_a, svalAt_a, affAt, affAt]
    simp only [BitVec.signExtend, BitVec.ofInt_add]
    ring
  · cases form

theorem ofInt_sub_word (x y : Int) : BitVec.ofInt 64 (x - y) = BitVec.ofInt 64 x - BitVec.ofInt 64 y := by
  rw [Int.sub_eq_add_neg, BitVec.ofInt_add, BitVec.ofInt_neg, BitVec.sub_eq_add_neg]

theorem formSub_sound : FormSound formSub fun v w _ => v - w := by
  intro p q v form L i
  unfold formSub at form
  split at form
  · cases form; rfl
  · rw [svalAt_affine form, svalAt_u, svalAt_a, affAt]
    simp only [BitVec.signExtend, BitVec.ofInt_neg]
    ring
  · cases form
    rw [svalAt_mkA, svalAt_u, svalAt_a, affAt, affAt]
    ring
  · rw [svalAt_affine form, svalAt_a, svalAt_a, affAt, affAt]
    simp only [BitVec.signExtend, ofInt_sub_word]
    ring
  · cases form

theorem formMul_sound : FormSound formMul fun v w _ => v * w := by
  intro p q v form L i
  unfold formMul at form
  split at form
  · cases form; rfl
  · rw [svalAt_affine form, svalAt_u, svalAt_a, affAt]
    simp only [BitVec.signExtend, BitVec.ofInt_mul, BitVec.ofInt_toInt]
    ring
  · rw [svalAt_affine form, svalAt_u, svalAt_a, affAt]
    simp only [BitVec.signExtend, BitVec.ofInt_mul, BitVec.ofInt_toInt]
    ring
  · cases form

theorem twoPow_eq_ofNat (n : Nat) : BitVec.twoPow 64 n = BitVec.ofNat 64 (2 ^ n) :=
  BitVec.eq_of_toNat_eq (by rw [BitVec.toNat_twoPow, BitVec.toNat_ofNat])

theorem formShl_sound : FormSound formShl fun v w _ => v <<< (w.toNat % 64) := by
  intro p q v form L i
  unfold formShl at form
  split at form
  · cases form; rfl
  · rw [svalAt_affine form, svalAt_u, svalAt_a, affAt]
    simp only [BitVec.signExtend, BitVec.ofInt_mul, BitVec.ofInt_natCast, BitVec.shiftLeft_eq_mul_twoPow, twoPow_eq_ofNat]
    ring
  · cases form

theorem formU_sound (f : Word → Word → Word) : FormSound (formU f) fun v w _ => f v w := by
  intro p q v form L i
  unfold formU at form
  split at form
  · cases form; rfl
  · cases form

/-- R20: `saffx`, `saffy` and `saffz` add the factor to the stride of their axis. -/
theorem formAff_sound (ax : Axis) : FormSound (formAff ax) fun v w i => v + w * BitVec.ofNat 64 (coordOf ax i) := by
  intro p q v form L i
  unfold formAff at form
  split at form
  · cases ax <;> simp [svalAt_affine form, svalAt_u, coordOf]
  · cases ax <;>
    · rw [svalAt_affine form, svalAt_u, svalAt_a, affAt]
      simp only [coordOf, BitVec.signExtend, BitVec.ofInt_add, BitVec.ofInt_toInt]
      ring
  · cases form

theorem formAdd_words : WordForm formAdd (· + ·) := ⟨formAdd_sound, fun _ _ => rfl, fun _ _ => rfl⟩

theorem formSub_words : WordForm formSub (· - ·) := ⟨formSub_sound, fun _ _ => rfl, fun _ _ => rfl⟩

theorem formMul_words : WordForm formMul (· * ·) := ⟨formMul_sound, fun _ _ => rfl, fun _ _ => rfl⟩

theorem formShl_words : WordForm formShl fun v w => v <<< (w.toNat % 64) := ⟨formShl_sound, fun _ _ => rfl, fun _ _ => rfl⟩

theorem formU_words (f : Word → Word → Word) : WordForm (formU f) f := ⟨formU_sound f, fun _ _ => rfl, fun _ _ => rfl⟩

/-! ### `alu` (R34, R194, R196) -/

section Alu

variable {i : Instr} {s : State} {t : Thread} {d : SReg} (acts : Acts s t) (fine : illSub i = none)
include acts fine

theorem alu_eq_scalarOp (form : SVal → SVal → Option SVal) (p q : Thread → SVal) (f : Word → Word → Item → Word) :
    alu i s d form p q f = scalarOp s t d 4 form (p t) (q t) f := scalar_run _ acts fine

theorem alu_form {form : SVal → SVal → Option SVal} {p q : Thread → SVal} {v : SVal} (named : form (p t) (q t) = some v)
    (f : Word → Word → Item → Word) : alu i s d form p q f = .next (afterS s t d 4 v) := by
  rw [alu_eq_scalarOp acts fine, scalarOp, named, writeForm_some]
  rfl

theorem alu_materialised {form : SVal → SVal → Option SVal} {p q : Thread → SVal} (none : form (p t) (q t) = none)
    (f : Word → Word → Item → Word) :
    alu i s d form p q f = writeM s t d 4 fun L it => f (svalAt (p t) L it) (svalAt (q t) L it) it := by
  rw [alu_eq_scalarOp acts fine, scalarOp, none, writeForm]

end Alu

/-- R34: in a strand with a row for an M result an operation completes, and each lane in `am` has its own result. -/
theorem writeForm_perItem {s : State} {t : Thread} {st : Seat} {d : SReg} (seat : t.seat = some st) (row : RowFree s t d)
    {form : Option SVal} {f : Nat → Item → Word} (sound : ∀ v, form = some v → ∀ L i, svalAt v L i = f L i) (n : Nat) :
    ∃ v, writeForm s t d n form f = .next (afterS s t d n v) ∧ (form = none → isM v = true) ∧
      ∀ L, laneIn st.am L = true → L < 32 → svalAt v L (slotItem s t st L) = f L (slotItem s t st L) := by
  cases form with
  | some v => exact ⟨v, rfl, nofun, fun L _ _ => sound v rfl L _⟩
  | none => exact ⟨_, writeM_run n f seat row, fun _ => rfl, fun L lane inRow => by rw [svalAt_lanes _ inRow, if_pos lane]⟩

theorem alu_perItem {i : Instr} {s : State} {t : Thread} {st : Seat} {d : SReg} (seated : ActsSeated s t st)
    (fine : illSub i = none) (row : RowFree s t d) {form : SVal → SVal → Option SVal} {f : Word → Word → Item → Word}
    (sound : FormSound form f) (p q : Thread → SVal) :
    ∃ v, alu i s d form p q f = .next (afterS s t d 4 v) ∧ ∀ L, laneIn st.am L = true → L < 32 →
      svalAt v L (slotItem s t st L) =
        f (svalAt (p t) L (slotItem s t st L)) (svalAt (q t) L (slotItem s t st L)) (slotItem s t st L) := by
  obtain ⟨v, run, -, values⟩ := writeForm_perItem seated.2 row (fun v named => sound (p t) (q t) v named) 4
  exact ⟨v, (alu_eq_scalarOp seated.1 fine form p q f).trans run, values⟩

/-! ### Results in M form (R25, R33) -/

theorem writeM_span {s : State} {t : Thread} (span : t.seat = none) (d : SReg) (n : Nat) (f : Nat → Item → Word) :
    writeM s t d n f = .next (seatSpan s s.cur t none) := inStrand_span span _

/-- R33: without a free fall row an M result raises FALL. -/
theorem writeM_noRow {s : State} {t : Thread} {st : Seat} {d : SReg} (seat : t.seat = some st) (noRow : ¬ RowFree s t d) (n : Nat)
    (f : Nat → Item → Word) : writeM s t d n f = .next (takeStop s s.cur (mkStop s t .fault 0x05 0 t.pc)) := by
  simp only [RowFree, not_or, Bool.not_eq_true, Nat.not_lt] at noRow
  rw [writeM, inStrand_strand seat, if_pos (by simp [noRow]), fault_strand seat]
  rfl

/-! ### The tables -/

/-- A row of the ALU table is an `alu` with a form function for its operation, and an instruction a core of Umush may execute. -/
theorem aluTable_rows : ∀ p ∈ aluTable, ∃ form, WordForm form p.2 ∧ ∀ d a b,
    illSub (p.1 d a b) = zeroDst d ∧ umushOwn (p.1 d a b) = true ∧
      ∀ s, exec (p.1 d a b) s = alu (p.1 d a b) s d form (getS · a) (getS · b) fun v w _ => p.2 v w := by
  simp only [aluTable, List.forall_mem_cons, List.not_mem_nil, false_imp_iff, implies_true, and_true]
  refine ⟨⟨_, formAdd_words, ?_⟩, ⟨_, formSub_words, ?_⟩, ⟨_, formMul_words, ?_⟩, ⟨_, formU_words _, ?_⟩, ⟨_, formU_words _, ?_⟩,
    ⟨_, formU_words _, ?_⟩, ⟨_, formU_words _, ?_⟩, ⟨_, formU_words _, ?_⟩, ⟨_, formShl_words, ?_⟩, ⟨_, formU_words _, ?_⟩,
    ⟨_, formU_words _, ?_⟩, ⟨_, formU_words _, ?_⟩, ⟨_, formU_words _, ?_⟩, ⟨_, formU_words _, ?_⟩, ⟨_, formU_words _, ?_⟩,
    ⟨_, formU_words _, ?_⟩, ⟨_, formU_words _, ?_⟩, ⟨_, formU_words _, ?_⟩, ⟨_, formU_words _, ?_⟩⟩
  all_goals exact fun d a b => ⟨rfl, rfl, fun s => rfl⟩

theorem affTable_rows : ∀ p ∈ affTable, ∃ form, FormSound form (fun v w i => v + w * BitVec.ofNat 64 (p.2 i)) ∧
    ∀ d a b, illSub (p.1 d a b) = zeroDst d ∧ ∀ s, exec (p.1 d a b) s =
      alu (p.1 d a b) s d form (getS · a) (getS · b) fun v w i => v + w * BitVec.ofNat 64 (p.2 i) := by
  simp only [affTable, List.forall_mem_cons, List.not_mem_nil, false_imp_iff, implies_true, and_true]
  refine ⟨⟨_, formAff_sound .x, ?_⟩, ⟨_, formAff_sound .y, ?_⟩, ⟨_, formAff_sound .z, ?_⟩⟩
  all_goals exact fun d a b => ⟨rfl, fun s => rfl⟩

theorem popN_eq_bits (a : Word) : popN 64 a.toNat = ((List.range 64).filter fun k => a.getLsbD k).length := rfl

theorem clzN_eq_zeros (a : Word) : clzN 64 a.toNat = if a = 0 then 64 else 63 - Nat.log2 a.toNat := by
  have zero : a.toNat = 0 ↔ a = 0 := BitVec.toNat_inj (y := 0)
  simp only [clzN, zero]

theorem aluOneTable_rows : ∀ p ∈ aluOneTable, ∀ d a, illSub (p.1 d a) = zeroDst d ∧
    ∀ s, exec (p.1 d a) s =
      alu (p.1 d a) s d (formU fun v _ => p.2 v) (getS · a) (getS · a) fun v _ _ => p.2 v := by
  simp only [aluOneTable, List.forall_mem_cons, List.not_mem_nil, false_imp_iff, implies_true, and_true, ← clzN_eq_zeros,
    ← popN_eq_bits]
  exact ⟨fun d a => ⟨rfl, fun s => rfl⟩, fun d a => ⟨rfl, fun s => rfl⟩⟩

theorem immTable_rows : ∀ p ∈ immTable, ∃ form, WordForm form p.2 ∧ ∀ d a i, illSub (p.1 d a i) = zeroDst d ∧
    ∀ s, exec (p.1 d a i) s =
      alu (p.1 d a i) s d form (getS · a) (fun _ => .u (i.signExtend 64)) fun v w _ => p.2 v w := by
  simp only [immTable, List.forall_mem_cons, List.not_mem_nil, false_imp_iff, implies_true, and_true]
  refine ⟨⟨_, formAdd_words, ?_⟩, ⟨_, formU_words _, ?_⟩, ⟨_, formU_words _, ?_⟩, ⟨_, formU_words _, ?_⟩, ⟨_, formMul_words, ?_⟩⟩
  all_goals exact fun d a i => ⟨rfl, fun s => rfl⟩

/-- The distance of an immediate shift, as `sshl` and its like read it from a register. -/
theorem shAmt_immediate (i : BitVec 6) : (i.setWidth 64).toNat % 64 = i.toNat := by
  have below : i.toNat < 64 := i.isLt
  rw [BitVec.toNat_setWidth]
  omega

theorem immShiftTable_rows : ∀ p ∈ immShiftTable, ∃ form f, WordForm form f ∧
    (∀ v (i : BitVec 6), f v (i.setWidth 64) = p.2 v i.toNat) ∧ ∀ d a i, illSub (p.1 d a i) = zeroDst d ∧
    ∀ s, exec (p.1 d a i) s =
      alu (p.1 d a i) s d form (getS · a) (fun _ => .u (i.setWidth 64)) fun v w _ => f v w := by
  simp only [immShiftTable, List.forall_mem_cons, List.not_mem_nil, false_imp_iff, implies_true, and_true]
  refine ⟨⟨_, _, formShl_words, fun v i => ?_, ?_⟩, ⟨_, _, formU_words shrW, fun v i => ?_, ?_⟩,
    ⟨_, _, formU_words sraW, fun v i => ?_, ?_⟩⟩
  case refine_1 => rw [shAmt_immediate]
  case refine_3 => rw [shrW, shAmt, shAmt_immediate]
  case refine_5 => rw [sraW, shAmt, shAmt_immediate]
  all_goals exact fun d a i => ⟨rfl, fun s => rfl⟩

/-! ### A core of Umush (R2) -/

/-- An instruction that stays within a core of Umush and leaves it a thread that does not wait changes that core alone. -/
theorem umushStep_own {s : State} {k : Nat} {i : Instr} {u u' : Thread} (powered : s.boot.powered = true)
    (core : s.boot.cores[k]? = some u) (awake : u.wait = .none) (runs : u.stop = none) (own : umushOwn i = true)
    (effect : exec i (umushAlone s u) = .next (putThr (umushAlone s u) 0 u')) (awake' : u'.wait = .none) :
    umushStep k i s = .next (modBoot s fun x => { x with cores := x.cores.set k u' }) := by
  have woken : umushWoken s u = u := by simp only [umushWoken, awake]
  have alone : (putThr (umushAlone s u) 0 u').threads = [(0, u')] := rfl
  simp only [umushStep, powered, core, woken, awake, runs, own, effect, alone]
  simp [putThr, umushAlone, awake', tabPut, modBoot, powered]

end Sys2Proof.Machine

namespace Sys2Proof.Laws

open Sys2Proof Sys2Proof.Machine

/-- Settles O6: a row of a table is an `alu` whose form function keeps U operands U (`aluTable_rows` and its like, `alu_form`). -/
theorem aluUniform : Obligations.AluUniform := by
  refine ⟨fun s t d a b v w acts dst valA => ⟨fun valB p row => ?three, fun p row => ?one⟩,
    fun s t d a v acts dst => ⟨fun valA i p row => ?imm, fun valA i p row => ?shift, fun w => ?sli, fun valD w => ?sliHi⟩,
    fun s k u d a b v w powered core awake runs dst valA valB p row => ?umush⟩
  case three =>
    obtain ⟨form, words, instr⟩ := aluTable_rows p row
    obtain ⟨ill, -, run⟩ := instr d a b
    rw [run]
    exact alu_form acts (ill.trans (zeroDst_of_ne dst)) (by simp only [valA, valB, words.uniform]) _
  case one =>
    obtain ⟨ill, run⟩ := aluOneTable_rows p row d a
    rw [run]
    exact alu_form acts (ill.trans (zeroDst_of_ne dst)) (by simp only [valA, formU]) _
  case imm =>
    obtain ⟨form, words, instr⟩ := immTable_rows p row
    obtain ⟨ill, run⟩ := instr d a i
    rw [run]
    exact alu_form acts (ill.trans (zeroDst_of_ne dst)) (by simp only [valA, words.uniform]) _
  case shift =>
    obtain ⟨form, f, words, result, instr⟩ := immShiftTable_rows p row
    obtain ⟨ill, run⟩ := instr d a i
    rw [run, ← result]
    exact alu_form acts (ill.trans (zeroDst_of_ne dst)) (by simp only [valA, words.uniform]) _
  case sli =>
    rw [exec_sli, execSli, scalar_run _ acts ((illSub_sli d w).trans (zeroDst_of_ne dst))]
    rfl
  case sliHi =>
    rw [exec_sliHi, execSliHi, scalar_run _ acts ((illSub_sliHi d w).trans (zeroDst_of_ne dst)), valD]
    rfl
  case umush =>
    obtain ⟨form, words, instr⟩ := aluTable_rows p row
    obtain ⟨ill, own, run⟩ := instr d a b
    have effect := alu_form (s := umushAlone s u) (t := u) (d := d) rfl (ill.trans (zeroDst_of_ne dst))
      (form := form) (p := (getS · a)) (q := (getS · b)) (v := .u (p.2 v w)) (by simp only [valA, valB, words.uniform])
      fun v w _ => p.2 v w
    exact umushStep_own powered core awake runs own ((run _).trans effect) (by simp [awake])

/-- Settles O7: the form functions are sound (`aluTable_rows`, `affTable_rows`), and a result without a form is written lane by
lane (`alu_perItem`) or, without a row or a seat, not at all (`writeM_noRow`, `writeM_span`). -/
theorem aluPerItem : Obligations.AluPerItem := by
  refine ⟨fun s t st d a b seated dst row => ⟨fun p entry => ?words, fun p entry => ?strides⟩,
    fun s t d a b acts dst isMat => ⟨fun st seat noRow p entry => ?noRow, fun span p entry => ?span⟩⟩
  case words =>
    obtain ⟨form, words, instr⟩ := aluTable_rows p entry
    obtain ⟨ill, -, run⟩ := instr d a b
    rw [run]
    exact alu_perItem seated (ill.trans (zeroDst_of_ne dst)) row words.sound _ _
  case strides =>
    obtain ⟨form, sound, instr⟩ := affTable_rows p entry
    obtain ⟨ill, run⟩ := instr d a b
    rw [run]
    exact alu_perItem seated (ill.trans (zeroDst_of_ne dst)) row sound _ _
  case' noRow => obtain ⟨form, words, instr⟩ := aluTable_rows p entry
  case' span => obtain ⟨form, words, instr⟩ := aluTable_rows p entry
  all_goals
    obtain ⟨ill, -, run⟩ := instr d a b
    obtain ⟨l, valA⟩ : ∃ l, getS t a = .m l := by
      cases value : getS t a with
      | m l => exact ⟨l, rfl⟩
      | u | a => rw [value] at isMat; cases isMat
    rw [run, alu_materialised acts (ill.trans (zeroDst_of_ne dst)) (by simp only [valA, words.materialised])]
  case noRow => exact writeM_noRow seat noRow _ _
  case span => exact writeM_span span _ _ _

end Sys2Proof.Laws
end

section

/-! ## Branches and token instructions in a strand (08_scalar_stream.md; O10, O11, O12, O14)

A branch is one function of the thread that takes it and of whether it is taken, whether the whole context, or each part of a
split span, takes it. In a strand each token instruction is an equation that ends in `withMask`, so what remains is to say what
`withMask` does where the new mask has a lane (`withMask_lanes`) and where it has none (`withMask_empty`). -/

namespace Sys2Proof.Machine

open Sys2Proof

/-! ### `jmp` (R208) -/

theorem decodeScalar_jmp_illegal {w0 : W32} (op : fld w0 26 6 = 0x1A#6) (others : w0 &&& 0x03F03FFF#32 ≠ 0#32) (w1 : W32) :
    decodeScalar w0 w1 = .error 0x03 := by
  delta decodeScalar
  rw [op]
  exact if_neg others

theorem word_mod_four (v : Word) : v.toNat % 4 = 0 ↔ v.getLsbD 0 = false ∧ v.getLsbD 1 = false := by
  simp only [BitVec.getLsbD, Nat.testBit_eq_decide_div_mod_eq, decide_eq_false_iff_not]
  omega

section Jmp

variable {s : State} {t : Thread} (acts : Acts s t) {a : SReg}
include acts

theorem exec_jmp_form (form : ∀ v, getS t a ≠ .u v) : exec (.jmp a) s = fault s t 0x02 0x01 := by
  rw [exec_jmp, execJmp, scalar_run _ acts (illSub_jmp a)]
  cases value : getS t a with
  | u v => exact absurd value (form v)
  | a | m => rfl

theorem exec_jmp_u {v : Word} (value : getS t a = .u v) :
    exec (.jmp a) s = if v.toNat % 4 ≠ 0 then fault s t 0x12 0 else .next (goPc s t v t.toks) := by
  rw [exec_jmp, execJmp, scalar_run _ acts (illSub_jmp a), value]
  rfl

end Jmp

/-! ### `br` and `call` (R205, R206) -/

/-- The thread after `br`. -/
def brGoes (o : BitVec 22) (t : Thread) (taken : Bool) : Thread := { t with pc := if taken then hop t o else t.pc + 4 }

/-- The thread after `call` with room on its stack. -/
def callGoes (o : BitVec 22) (t : Thread) (taken : Bool) : Thread :=
  if taken then { t with pc := hop t o, toks := ⟨.call, t.pc + 4, amOf t, 0⟩ :: t.toks } else { t with pc := t.pc + 4 }

section Branch

variable {s : State} {t : Thread} (acts : Acts s t)
include acts

theorem exec_br_eq (c : BitVec 3) (n : BitVec 1) (o : BitVec 22) :
    exec (.br c n o) s = branchOn s t c (n == 1) fun s1 id u taken => putThr s1 id (brGoes o u taken) := by
  rw [exec_br, execBr, scalar_run _ acts (illSub_br c n o)]
  simp only [target_eq_hop]
  rfl

/-- What a branch does to the context `u` of number `id` when it calls. -/
theorem exec_call_eq (c : BitVec 3) (n : BitVec 1) (o : BitVec 22) :
    exec (.call c n o) s = branchOn s t c (n == 1) fun s1 id u taken =>
      if taken = true ∧ 32 ≤ u.toks.length then stopThr s1 id u (tokStop s1 u 0x01) else putThr s1 id (callGoes o u taken) := by
  rw [exec_call, execCall, scalar_run _ acts (illSub_call c n o)]
  simp only [target_eq_hop]
  congr 1
  funext s1 id u taken
  cases taken
  · rfl
  · simp only [Bool.not_true, Bool.false_eq_true, if_false, true_and, callGoes, if_true]

end Branch

/-- On a U condition a branch acts for the whole context. -/
theorem branchOn_u {s : State} {t : Thread} {c : BitVec 3} {x : Bool} (value : getC t c = .u x) (neg : Bool)
    (act : State → Nat → Thread → Bool → State) : branchOn s t c neg act = .next (act s s.cur t (x != neg)) := by
  unfold branchOn
  rw [value]
  cases t.seat <;> rfl

theorem branchOn_span {s : State} {t : Thread} (span : t.seat = none) (c : BitVec 3) (neg : Bool)
    (act : State → Nat → Thread → Bool → State) : branchOn s t c neg act = .next (onSpan s t (getC t c) neg act) := by
  rw [branchOn, span]

/-- R205: in a strand a condition that is not U raises CONV. -/
theorem branchOn_conv {s : State} {t : Thread} {st : Seat} {c : BitVec 3} (seat : t.seat = some st) (form : ∀ x, getC t c ≠ .u x)
    (neg : Bool) (act : State → Nat → Thread → Bool → State) :
    branchOn s t c neg act = .next (takeStop s s.cur (mkStop s t .fault 0x02 0x01 t.pc)) := by
  rw [← fault_strand seat, branchOn, seat]
  cases value : getC t c with
  | u x => exact absurd value (form x)
  | t | m => rfl

/-- The two parts of a box that a boundary cuts have its items between them (R23). -/
theorem boxVolume_cutBox {b : Box} {ax : Axis} {n : Nat} (cuts : cutsBox b ax n = true) :
    boxVolume (cutBox b ax n).1 + boxVolume (cutBox b ax n).2 = boxVolume b := by
  cases ax <;>
  · simp only [cutsBox, Bool.and_eq_true, decide_eq_true_eq] at cuts
    simp only [cutBox, boxVolume]
    rw [range_split (Nat.le_of_lt cuts.1) (Nat.le_of_lt cuts.2)]
    ring

/-- What is done to a span, whole or in parts, may be replaced by what does the same to every thread with its tokens. -/
theorem onSpan_congr {s : State} {t : Thread} {f g : State → Nat → Thread → Bool → State}
    (same : ∀ u : Thread, u.toks = t.toks → ∀ s1 id taken, f s1 id u taken = g s1 id u taken) (v : CVal) (neg : Bool) :
    onSpan s t v neg f = onSpan s t v neg g := by
  cases v with
  | u b => exact same t rfl _ _ _
  | m mask => exact same t rfl _ _ _
  | t ax b below =>
    simp only [onSpan]
    rw [same { t with box := (cutBox t.box ax b).1 } rfl, same { t with box := (cutBox t.box ax b).2 } rfl, same t rfl]

/-! ### The stack and the mask (R42, R43) -/

theorem tabPut_tabPut_self {α : Type} (t : Tab α) (k : Nat) (v w : α) : tabPut (tabPut t k v) k w = tabPut t k w := by
  induction t with
  | nil => simp [tabPut]
  | cons p t ih =>
    obtain ⟨k', v'⟩ := p
    simp only [tabPut]
    split
    next => simp [tabPut]
    next =>
      split
      next => simp [tabPut]
      next above other => simp [tabPut, above, other, ih]

theorem putThr_putThr_self (s : State) (id : Nat) (t u : Thread) : putThr (putThr s id t) id u = putThr s id u := by
  simp [putThr, tabPut_tabPut_self]

/-- Tokens without a mask are discarded. -/
theorem resumeToks_append {zs : List Token} (empty : ∀ z ∈ zs, z.mask = 0) {x : Token} (lanes : x.mask ≠ 0) (rest : List Token) :
    resumeToks (zs ++ x :: rest) = some (x, rest) := by
  induction zs with
  | nil => rw [List.nil_append, resumeToks, if_neg lanes]
  | cons z zs ih =>
    obtain ⟨first, others⟩ := List.forall_mem_cons.1 empty
    simp [resumeToks, first, ih others]

theorem mask_zero_without {zs : List Token} {am : W32} (within : ∀ z ∈ zs, z.mask &&& ~~~am = 0) :
    ∀ z ∈ zs.map fun z => { z with mask := z.mask &&& ~~~am }, z.mask = 0 := by
  simpa using within

theorem withMask_lanes {am : W32} (lanes : am ≠ 0) (s : State) (t : Thread) (st : Seat) (pc : Word) (toks : List Token) :
    withMask s t st am pc toks = .next (goMask s t st am pc toks) := by
  rw [withMask, if_neg lanes]
  rfl

/-- R43: a strand left without a lane goes on at its first token with a mask, whatever PC it was to have. -/
theorem withMask_empty {x : Token} {rest toks : List Token} (resumes : resumeToks toks = some (x, rest)) (s : State) (t : Thread)
    (st : Seat) (pc : Word) : withMask s t st 0 pc toks = .next (goMask s t st x.mask x.pc rest) := by
  simp only [withMask, if_true, resumeStrand, find_putThr, resumes, putThr_putThr_self]
  rfl

/-- The lanes of a mask that are not in another and those that are. -/
theorem and_not_of_and_zero {a m : W32} (none : a &&& m = 0) : a &&& ~~~m = a := by
  ext k hk
  have bit : (a &&& m)[k] = false := by rw [none]; simp
  simp only [BitVec.getElem_and, BitVec.getElem_not] at bit ⊢
  revert bit
  cases a[k] <;> cases m[k] <;> decide

theorem and_of_and_not_zero {a m : W32} (none : a &&& ~~~m = 0) : a &&& m = a := by
  have same := and_not_of_and_zero none
  rwa [BitVec.not_not] at same

theorem and_not_and (a m : W32) : a &&& ~~~(a &&& m) = a &&& ~~~m := by
  ext k hk
  simp only [BitVec.getElem_and, BitVec.getElem_not]
  cases a[k] <;> simp

/-! ### Token instructions in a strand (R212) -/

theorem tokOn_strand {s : State} {t : Thread} {st : Seat} (seat : t.seat = some st) (ks : BitVec 1) (span : Out) (strand : Seat → Out) :
    tokOn s t ks span strand = strand st := by
  rw [tokOn, seat]

theorem tokFault_strand {s : State} {t : Thread} {st : Seat} (seat : t.seat = some st) (sub : Nat) :
    tokFault s t sub = .next (takeStop s s.cur (tokRec s t sub)) := by
  rw [tokFault, stopThr, seat]
  rfl

theorem pushTok_full {s : State} {t : Thread} {st : Seat} (seat : t.seat = some st) (full : 32 ≤ t.toks.length) (k : TokKind)
    (o : BitVec 21) : pushTok s t k o = .next (takeStop s s.cur (tokRec s t 0x01)) := by
  rw [pushTok, if_pos full, tokFault_strand seat]

theorem amOf_strand {t : Thread} {st : Seat} (seat : t.seat = some st) : amOf t = st.am := by
  simp [amOf, seat]

theorem findLoop_none {l : List Token} (none : ∀ x ∈ l, x.kind ≠ .loop) : findLoop l = .error 0x03 := by
  induction l with
  | nil => rfl
  | cons x l ih =>
    obtain ⟨first, others⟩ := List.forall_mem_cons.1 none
    simp only [findLoop, if_neg first, ih others]

theorem findLoop_behindCall {above below : List Token} {l : Token} (loop : l.kind = .loop) (first : ∀ x ∈ above, x.kind ≠ .loop) :
    (∃ x ∈ above, x.kind = .call) → findLoop (above ++ l :: below) = .error 0x06 := by
  induction above with
  | nil => simp
  | cons x above ih =>
    rintro ⟨y, mem, call⟩
    obtain ⟨notLoop, others⟩ := List.forall_mem_cons.1 first
    by_cases deeper : ∃ z ∈ above, z.kind = .call
    · simp only [List.cons_append, findLoop, if_neg notLoop, ih others deeper]
    · have here : x.kind = .call := by
        rcases List.mem_cons.1 mem with rfl | mem
        · exact call
        · exact absurd ⟨y, mem, call⟩ deeper
      have branches : ∀ z ∈ above, z.kind = .join ∨ z.kind = .els := fun z inside => by
        cases kind : z.kind with
        | join => exact .inl rfl
        | els => exact .inr rfl
        | loop => exact absurd kind (others z inside)
        | call => exact absurd ⟨z, inside, kind⟩ deeper
      simp only [List.cons_append, findLoop, if_neg notLoop, findLoop_append loop branches, if_pos here]

section Strand

variable {s : State} {t : Thread} {st : Seat} (seated : ActsSeated s t st)
include seated

theorem exec_dvg_strand (k : BitVec 3) (ks neg : BitVec 1) (o : BitVec 21) :
    exec (.dvg k ks neg o) s =
      if st.am &&& ~~~condMask s t st k ks neg ≠ 0 ∧ 32 ≤ t.toks.length then .next (takeStop s s.cur (tokRec s t 0x01))
      else withMask s t st (st.am &&& condMask s t st k ks neg) (t.pc + 4)
        (if st.am &&& ~~~condMask s t st k ks neg = 0 then t.toks
        else ⟨.els, hop t o, st.am &&& ~~~condMask s t st k ks neg, 0⟩ :: t.toks) := by
  obtain ⟨acts, seat⟩ := seated
  rw [exec_dvg, execDvg, scalar_run _ acts (illSub_dvg ..), tokOn_strand seat]
  simp only [tokFault_strand seat, target_eq_hop]

theorem exec_brk_strand {e : Nat} (none : findLoop t.toks = .error e) (k : BitVec 3) (ks neg : BitVec 1) :
    exec (.brk k ks neg) s = .next (takeStop s s.cur (tokRec s t e)) := by
  obtain ⟨acts, seat⟩ := seated
  rw [exec_brk, execBrk, scalar_run _ acts (illSub_brk ..), tokOn_strand seat]
  simp only [none, tokFault_strand seat]

theorem exec_lpe_strand (notLoop : ∀ l ∈ t.toks.head?, l.kind ≠ .loop) (k : BitVec 3) (ks neg : BitVec 1) (o : BitVec 21) :
    exec (.lpe k ks neg o) s = .next (takeStop s s.cur (tokRec s t 0x03)) := by
  obtain ⟨acts, seat⟩ := seated
  rw [exec_lpe, execLpe, scalar_run _ acts (illSub_lpe ..), tokOn_strand seat]
  cases toks : t.toks with
  | nil => simp only [tokFault_strand seat]
  | cons l below =>
    rw [toks] at notLoop
    simp only [tokFault_strand seat, if_pos (notLoop l rfl)]

theorem exec_ret_call {k : Token} {rest : List Token} (toks : t.toks = k :: rest) (call : k.kind = .call) :
    exec .ret s = withMask s t st k.mask k.pc rest := by
  obtain ⟨acts, seat⟩ := seated
  rw [exec_ret, execRet, scalar_run _ acts illSub_ret]
  simp only [toks, if_pos call, seat]

theorem exec_ret_notCall (notCall : ∀ k ∈ t.toks.head?, k.kind ≠ .call) :
    exec .ret s = .next (takeStop s s.cur (tokRec s t 0x07)) := by
  obtain ⟨acts, seat⟩ := seated
  rw [exec_ret, execRet, scalar_run _ acts illSub_ret]
  cases toks : t.toks with
  | nil => simp only [tokFault_strand seat]
  | cons k rest =>
    rw [toks] at notCall
    simp only [tokFault_strand seat, if_neg (notCall k rfl)]

theorem exec_nxt_empty (toks : t.toks = []) : exec .nxt s = .next (takeStop s s.cur (tokRec s t 0x02)) := by
  obtain ⟨acts, seat⟩ := seated
  rw [exec_nxt, execNxt, scalar_run _ acts illSub_nxt]
  simp only [toks, tokFault_strand seat]

theorem exec_nxt_loop {k : Token} {rest : List Token} (toks : t.toks = k :: rest) (loop : k.kind = .loop) :
    exec .nxt s = .next (takeStop s s.cur (tokRec s t 0x04)) := by
  obtain ⟨acts, seat⟩ := seated
  rw [exec_nxt, execNxt, scalar_run _ acts illSub_nxt]
  simp only [toks, if_pos loop, tokFault_strand seat]

theorem exec_nxt_call {k : Token} {rest : List Token} (toks : t.toks = k :: rest) (call : k.kind = .call) :
    exec .nxt s = .next (takeStop s s.cur (tokRec s t 0x05)) := by
  obtain ⟨acts, seat⟩ := seated
  have notLoop : k.kind ≠ .loop := by simp [call]
  rw [exec_nxt, execNxt, scalar_run _ acts illSub_nxt]
  simp only [toks, if_neg notLoop, if_pos call, tokFault_strand seat]

variable (outside : st.region = 0)
include outside

theorem exec_nxt_branch {x : Token} {rest : List Token} (toks : t.toks = x :: rest) (branch : x.kind = .join ∨ x.kind = .els) :
    exec .nxt s = withMask s t st x.mask x.pc rest := by
  obtain ⟨acts, seat⟩ := seated
  obtain ⟨notLoop, notCall⟩ := branch_kind branch
  rw [exec_nxt, execNxt, scalar_run _ acts illSub_nxt]
  simp only [toks, if_neg notLoop, if_neg notCall, seat, outside, ne_eq, not_true_eq_false, false_and, if_false]

/-- R212: the lanes that break leave the tokens above the LOOP token and enter its exit mask. -/
theorem exec_brk_found {above below : List Token} {l : Token} (toks : t.toks = above ++ l :: below) (loop : l.kind = .loop)
    (branches : ∀ x ∈ above, x.kind = .join ∨ x.kind = .els) (k : BitVec 3) (ks neg : BitVec 1) :
    exec (.brk k ks neg) s = withMask s t st (st.am &&& ~~~condMask s t st k ks neg) (t.pc + 4)
      (above.map (fun x => { x with mask := x.mask &&& ~~~(st.am &&& condMask s t st k ks neg) }) ++
        { l with exit := l.exit ||| (st.am &&& condMask s t st k ks neg) } :: below) := by
  obtain ⟨acts, seat⟩ := seated
  rw [exec_brk, execBrk, scalar_run _ acts (illSub_brk ..), tokOn_strand seat, toks]
  simp only [findLoop_append loop branches, outside, ne_eq, not_true_eq_false, false_and, if_false, and_not_and]

theorem exec_lpe_loop {l : Token} {below : List Token} (toks : t.toks = l :: below) (loop : l.kind = .loop) (k : BitVec 3)
    (ks neg : BitVec 1) (o : BitVec 21) :
    exec (.lpe k ks neg o) s =
      if st.am &&& condMask s t st k ks neg ≠ 0 then
        withMask s t st (st.am &&& condMask s t st k ks neg) (hop t o)
          ({ l with exit := l.exit ||| (st.am &&& ~~~condMask s t st k ks neg) } :: below)
      else withMask s t st l.mask l.pc below := by
  obtain ⟨acts, seat⟩ := seated
  rw [exec_lpe, execLpe, scalar_run _ acts (illSub_lpe ..), tokOn_strand seat]
  simp only [toks, loop, outside, ne_eq, not_true_eq_false, false_and, if_false, target_eq_hop]

end Strand

end Sys2Proof.Machine

namespace Sys2Proof.Laws

open Sys2Proof Sys2Proof.Machine

/-- Settles O10: the decoder's row for OP 0x1A, and the two equations of `jmp`. -/
theorem jump : Obligations.Jump := by
  refine ⟨fun a w1 => (read_jmp a w1).2, fun w0 w1 op others => decodeScalar_jmp_illegal op others w1,
    fun s t a acts => ⟨exec_jmp_form acts, fun v value => ⟨fun odd => ?misaligned, fun bit0 bit1 => ?aligned⟩⟩⟩
  case misaligned =>
    rw [exec_jmp_u acts value, if_pos]
    rw [ne_eq, word_mod_four]
    rintro ⟨bit0, bit1⟩
    rw [bit0, bit1] at odd
    exact odd.elim nofun nofun
  case aligned =>
    rw [exec_jmp_u acts value, if_neg (not_not.2 ((word_mod_four v).2 ⟨bit0, bit1⟩))]
    rfl

/-- Settles O11: a branch is one function of the thread (`brGoes`, `callGoes`), taken by the whole context on a U condition
(`branchOn_u`) and by each part of a span that splits (`onSpan_splitAt`). -/
theorem branches : Obligations.Branches := by
  refine ⟨fun s t c n o x acts value => ⟨?br, fun stays => ?passes, fun goes room => ?calls⟩, fun s t a v acts value aligned => ?jmp,
    fun s t acts => ⟨?nop, fun k rest toks call => ⟨fun span => ?retSpan, fun st seat lanes => ?retStrand⟩⟩,
    fun s t c n o ax b below acts span value cuts fresh => ?brSplit,
    fun s t c n o ax b below acts span value cuts fresh room => ?callSplit⟩
  case br =>
    rw [exec_br_eq acts, branchOn_u value]
    rfl
  case passes =>
    rw [exec_call_eq acts, branchOn_u value, stays, bne_self_eq_false]
    rfl
  case calls =>
    rw [exec_call_eq acts, branchOn_u value, if_neg (by omega), bne_iff_ne.2 goes]
    rfl
  case jmp =>
    rw [exec_jmp_u acts value, if_neg (not_not.2 aligned)]
  case nop =>
    rw [exec_nop, execNop, scalar_run _ acts illSub_nop]
    rfl
  case retSpan =>
    rw [exec_ret, execRet, scalar_run _ acts illSub_ret]
    simp only [toks, if_pos call, span, done, goPc]
  case retStrand => rw [exec_ret_call ⟨acts, seat⟩ toks call, withMask_lanes lanes]
  case brSplit =>
    rw [exec_br_eq acts, branchOn_span span, value]
    obtain ⟨lower, upper, others, mem, -⟩ := onSpan_splitAt below (n == 1) (brGoes o) cuts fresh
    refine ⟨_, rfl, lower, upper.trans ?_, others, mem, boxVolume_cutBox cuts⟩
    cases below <;> cases (n == 1) <;> rfl
  case callSplit =>
    have calls (u : Thread) (same : u.toks = t.toks) (s1 : State) (id : Nat) (taken : Bool) :
        (if taken = true ∧ 32 ≤ u.toks.length then stopThr s1 id u (tokStop s1 u 0x01) else putThr s1 id (callGoes o u taken)) =
          putThr s1 id (callGoes o u taken) :=
      if_neg fun full => by rw [same] at full; omega
    rw [exec_call_eq acts, branchOn_span span, value, onSpan_congr calls]
    have part (bx : Box) (taken : Bool) : callGoes o { t with box := bx } taken =
        if taken then { t with box := bx, pc := hop t o, toks := ⟨.call, t.pc + 4, 0, 0⟩ :: t.toks }
        else { t with box := bx, pc := t.pc + 4 } := by
      rw [callGoes, amOf_span (t := { t with box := bx }) span]
      rfl
    obtain ⟨lower, upper, frame⟩ := onSpan_splitAt below (n == 1) (callGoes o) cuts fresh
    exact ⟨_, rfl, lower.trans (congrArg some (part _ _)), upper.trans (congrArg some (part _ _)), frame⟩

/-- Settles O12: every equation ends in `withMask`, which keeps the mask (`withMask_lanes`) or goes on at the first token that
has one (`withMask_empty`). -/
theorem tokensInStrand : Obligations.TokensInStrand := by
  refine ⟨fun s t st seated outside => ⟨fun room o => ?push, fun k ks neg o some => ⟨fun all => ?dvgAll, fun part room => ?dvgPart⟩,
      fun x rest toks branch lanes => ?nxt, fun k ks neg above l below toks loop branches stay => ?brk,
      fun k ks neg o l below toks loop => ⟨fun stay => ?lpeStay, fun out lanes => ?lpeOut⟩⟩,
    fun s t st zs x rest seated outside empty lanes => ⟨fun k ks neg o some none room => ?dvgNone, fun k call noMask toks => ?ret,
      fun k ks neg o l loop noMask toks none => ?lpe, fun k join noMask toks => ?nxtBelow⟩,
    fun s t st zs l below k ks neg seated outside loop all zsEmpty => ⟨fun toks lanes => ?past, fun x above toks branches lanes => ?above⟩⟩
  case push =>
    obtain ⟨acts, seat⟩ := seated
    rw [exec_jtok, execJtok, scalar_run _ acts (illSub_jtok o), pushTok_room room, exec_lpb, execLpb,
      scalar_run _ acts (illSub_lpb o), pushTok_room room, amOf_strand seat]
    exact ⟨rfl, rfl⟩
  case dvgAll => rw [exec_dvg_strand seated, if_neg (fun full => full.1 all), if_pos all, withMask_lanes some]
  case dvgPart => rw [exec_dvg_strand seated, if_neg (by omega), if_neg part, withMask_lanes some]
  case nxt => rw [exec_nxt_branch seated outside toks branch, withMask_lanes lanes]
  case brk => rw [exec_brk_found seated outside toks loop branches, withMask_lanes stay]
  case lpeStay => rw [exec_lpe_loop seated outside toks loop, if_pos stay, withMask_lanes stay]
  case lpeOut => rw [exec_lpe_loop seated outside toks loop, if_neg (not_not.2 out), withMask_lanes lanes]
  case dvgNone =>
    have others := and_not_of_and_zero none
    have pops : resumeToks (⟨.els, hop t o, st.am, 0⟩ :: t.toks) = _ := resumeToks_append (zs := []) (by simp) some t.toks
    rw [exec_dvg_strand seated, if_neg (by omega), others, if_neg some, none, withMask_empty pops]
  case ret =>
    rw [exec_ret_call seated toks call, noMask, withMask_empty (resumeToks_append empty lanes rest)]
  case lpe =>
    rw [exec_lpe_loop seated outside toks loop, if_neg (not_not.2 none), noMask,
      withMask_empty (resumeToks_append empty lanes rest)]
  case nxtBelow =>
    rw [exec_nxt_branch seated outside toks (.inl join), noMask, withMask_empty (resumeToks_append empty lanes rest)]
  case past =>
    have left := mask_zero_without fun z mem => (zsEmpty z mem).2
    rw [exec_brk_found seated outside toks loop (fun z mem => (zsEmpty z mem).1), all, and_of_and_not_zero all]
    exact withMask_empty (resumeToks_append left (x := { l with exit := l.exit ||| st.am }) lanes below) ..
  case above =>
    have left := mask_zero_without fun z mem => (zsEmpty z mem).2
    have found : ∀ z ∈ zs ++ x :: above, z.kind = .join ∨ z.kind = .els := fun z mem =>
      (List.mem_append.1 mem).elim (fun mem => (zsEmpty z mem).1) (branches z)
    rw [exec_brk_found seated outside toks loop found, all, and_of_and_not_zero all, List.map_append, List.map_cons,
      List.append_assoc, List.cons_append]
    exact withMask_empty (resumeToks_append left (x := { x with mask := x.mask &&& ~~~st.am }) lanes _) ..

/-- Settles O14: each check of the equations in a strand, with `branchOn_conv` for the condition and `findLoop` for the LOOP
token. That `brk` and `lpe` raise TOK whatever their condition is the model's reading (assumption 25). -/
theorem controlFaults : Obligations.ControlFaults := by
  intro s t st seated
  have ⟨acts, seat⟩ := seated
  refine ⟨fun c n o form => ⟨?brConv, ?callConv⟩, fun full => ⟨fun c n o x value goes => ?callFull, fun o => ?jtok, fun o => ?lpb⟩,
    exec_ret_notCall seated, exec_nxt_empty seated, fun k rest toks loop => exec_nxt_loop seated toks loop,
    fun k rest toks call => exec_nxt_call seated toks call, fun k ks neg none => exec_brk_strand seated (findLoop_none none) k ks neg,
    fun k ks neg above l below toks loop first call => ?behindCall, fun k ks neg o notLoop => exec_lpe_strand seated notLoop k ks neg o⟩
  case brConv => rw [exec_br_eq acts, branchOn_conv seat form]
  case callConv => rw [exec_call_eq acts, branchOn_conv seat form]
  case callFull =>
    rw [exec_call_eq acts, branchOn_u value, if_pos ⟨bne_iff_ne.2 goes, full⟩, stopThr, seat]
    rfl
  case jtok => rw [exec_jtok, execJtok, scalar_run _ acts (illSub_jtok o), pushTok_full seat full]
  case lpb => rw [exec_lpb, execLpb, scalar_run _ acts (illSub_lpb o), pushTok_full seat full]
  case behindCall =>
    exact exec_brk_strand seated (by rw [toks, findLoop_behindCall loop first call]) k ks neg

end Sys2Proof.Laws
end

section

/-! ## Comparisons and conditions (08_scalar_stream.md; O8)

Where `formCmp` or `formCop` names a form, that form has the result at every item of the launch range. For `formCmp` both operands
stay in the range of their signedness over the index space, so their difference at an item is the exact integer `d0 + st·c`, with
`c` the coordinate on the one axis along which it changes; a comparison of it with zero changes value once along the axis. -/

namespace Sys2Proof.Machine

open Sys2Proof

/-! ### Exact values of affine operands (R22) -/

theorem ofInt_readAs (signed : Bool) (b : Word) : BitVec.ofInt 64 (readAs signed b) = b := by
  cases signed
  · simp [readAs]
  · simp [readAs]

theorem readAs_ofInt {signed : Bool} {n : Int}
    (fits : if signed then -(2 ^ 63 : Int) ≤ n ∧ n < 2 ^ 63 else 0 ≤ n ∧ n < 2 ^ 64) : readAs signed (BitVec.ofInt 64 n) = n := by
  cases signed with
  | true =>
    obtain ⟨low, high⟩ := fits
    simp only [readAs, if_true, BitVec.toInt_ofInt]
    exact Int.bmod_eq_of_le (by omega) (by omega)
  | false =>
    obtain ⟨low, high⟩ := fits
    simp only [readAs, Bool.false_eq_true, if_false, BitVec.toNat_ofInt]
    omega

theorem stride_up {st : Int} (up : 0 ≤ st) {c e : Nat} (within : c < e) : 0 ≤ st * c ∧ st * c ≤ st * ((e : Int) - 1) :=
  ⟨Int.mul_nonneg up (by omega), Int.mul_le_mul_of_nonneg_left (by omega) up⟩

theorem stride_down {st : Int} (down : st ≤ 0) {c e : Nat} (within : c < e) : st * ((e : Int) - 1) ≤ st * c ∧ st * c ≤ 0 :=
  ⟨Int.mul_le_mul_of_nonpos_left down (by omega), Int.mul_nonpos_of_nonpos_of_nonneg down (by omega)⟩

/-- Along an axis of a launch a stride adds no less than its least and no more than its greatest multiple. -/
theorem stride_bounds (st : Int) {c e : Nat} (within : c < e) :
    min 0 (st * ((e : Int) - 1)) ≤ st * c ∧ st * c ≤ max 0 (st * ((e : Int) - 1)) := by
  rcases Int.le_total 0 st with up | down
  · obtain ⟨bottom, top⟩ := stride_up up within
    omega
  · obtain ⟨bottom, top⟩ := stride_down down within
    omega

theorem inRange_iff {r : LaunchRec} {i : Item} : inRange r i = true ↔ i.x < r.ex ∧ i.y < r.ey ∧ i.z < r.ez := by
  simp [inRange, and_assoc]

theorem svalAt_affParts {p : SVal} {b : Word} {x y z : Int} (parts : affParts p = some (b, x, y, z)) (L : Nat) (i : Item)
    (signed : Bool) : svalAt p L i = BitVec.ofInt 64 (readAs signed b + x * i.x + y * i.y + z * i.z) := by
  have sum : BitVec.ofInt 64 (readAs signed b + x * i.x + y * i.y + z * i.z) =
      b + BitVec.ofInt 64 x * BitVec.ofNat 64 i.x + BitVec.ofInt 64 y * BitVec.ofNat 64 i.y
        + BitVec.ofInt 64 z * BitVec.ofNat 64 i.z := by
    simp only [BitVec.ofInt_add, BitVec.ofInt_mul, ofInt_readAs, BitVec.ofInt_natCast]
  rw [sum]
  cases p with
  | u v => cases parts; simp [svalAt]
  | a b x y z => cases parts; rfl
  | m l => cases parts

/-- R22: an operand that stays in range has its exact value at every item of the launch. -/
theorem readAs_svalAt {p : SVal} {b : Word} {x y z : Int} (parts : affParts p = some (b, x, y, z)) {r : LaunchRec} {signed : Bool}
    (stays : staysInRange r signed b x y z = true) {i : Item} (within : inRange r i = true) (L : Nat) :
    readAs signed (svalAt p L i) = readAs signed b + x * i.x + y * i.y + z * i.z := by
  obtain ⟨inX, inY, inZ⟩ := inRange_iff.1 within
  obtain ⟨lowX, highX⟩ := stride_bounds x inX
  obtain ⟨lowY, highY⟩ := stride_bounds y inY
  obtain ⟨lowZ, highZ⟩ := stride_bounds z inZ
  rw [svalAt_affParts parts L i signed]
  refine readAs_ofInt ?_
  unfold staysInRange at stays
  cases signed
  all_goals
    simp only [Bool.false_eq_true, if_false, if_true, Bool.and_eq_true, decide_eq_true_eq] at stays ⊢
    omega

theorem mkA_strides {b c : Word} {x y z dx dy dz : W32} (form : mkA b x y z = .a c dx dy dz) : dx = x ∧ dy = y ∧ dz = z := by
  unfold mkA at form
  split at form
  · cases form
  · cases form
    exact ⟨rfl, rfl, rfl⟩

theorem toInt_ofInt_of_fits32 {x : Int} (fits : fits32 x = true) : (BitVec.ofInt 32 x).toInt = x := by
  simp only [fits32, Bool.and_eq_true, decide_eq_true_eq] at fits
  rw [BitVec.toInt_ofInt]
  exact Int.bmod_eq_of_le (by omega) (by omega)

theorem affine_strides {b c : Word} {x y z : Int} {dx dy dz : W32} (form : affine b x y z = some (.a c dx dy dz)) :
    dx.toInt = x ∧ dy.toInt = y ∧ dz.toInt = z := by
  unfold affine at form
  split at form
  next fits =>
    simp only [Bool.and_eq_true] at fits
    obtain ⟨⟨fitsX, fitsY⟩, fitsZ⟩ := fits
    obtain ⟨rfl, rfl, rfl⟩ := mkA_strides (Option.some.inj form)
    exact ⟨toInt_ofInt_of_fits32 fitsX, toInt_ofInt_of_fits32 fitsY, toInt_ofInt_of_fits32 fitsZ⟩
  next => cases form

/-- The strides of a difference are the differences of the strides. -/
theorem formSub_strides {p q : SVal} {b bp bq : Word} {dx dy dz : W32} {px py pz qx qy qz : Int}
    (diff : formSub p q = some (.a b dx dy dz)) (partsP : affParts p = some (bp, px, py, pz))
    (partsQ : affParts q = some (bq, qx, qy, qz)) : dx.toInt = px - qx ∧ dy.toInt = py - qy ∧ dz.toInt = pz - qz := by
  cases p with
  | m l => cases partsP
  | u v =>
    cases partsP
    cases q with
    | m l => cases partsQ
    | u w => cases diff
    | a c x y z =>
      cases partsQ
      simpa using affine_strides diff
  | a c x y z =>
    cases partsP
    cases q with
    | m l => cases partsQ
    | u w =>
      cases partsQ
      obtain ⟨rfl, rfl, rfl⟩ := mkA_strides (Option.some.inj diff)
      simp
    | a c' x' y' z' =>
      cases partsQ
      exact affine_strides diff

/-! ### A comparison along an axis (R22) -/

/-- The least difference on the upper side of a comparison with zero by a code of R199. -/
def upperFrom (cc : Nat) : Int := if cc = 2 ∨ cc = 6 ∨ cc = 5 ∨ cc = 9 then 0 else 1

/-- Whether a comparison by a code of R199 holds on the lower side. -/
def holdsBelow (cc : Nat) : Bool := cc = 2 || cc = 3 || cc = 6 || cc = 7

theorem cmpInts_eq {cc : Nat} (ordered : 2 ≤ cc) (known : cc < 10) (d : Int) :
    cmpInts cc d = (decide (upperFrom cc ≤ d) != holdsBelow cc) := by
  rw [Bool.eq_iff_iff]
  interval_cases cc <;> simp [cmpInts, upperFrom, holdsBelow] <;> omega

theorem cmpWords_eq {cc : Nat} (ordered : 2 ≤ cc) (known : cc < 10) (v w : Word) :
    cmpWords cc v w = cmpInts cc (readAs (decide (cc ≤ 5)) v - readAs (decide (cc ≤ 5)) w) := by
  interval_cases cc <;> simp [cmpWords, cmpInts, readAs]

/-- The least multiple of a positive step that reaches a length. -/
theorem ceil_le_iff {need step : Int} (pos : 0 < step) (c : Nat) : ((need + step - 1) / step).toNat ≤ c ↔ need ≤ step * c := by
  rw [Int.toNat_le, ← Int.lt_add_one_iff, Int.ediv_lt_iff_lt_mul pos, Int.add_mul, Int.one_mul, Int.mul_comm]
  omega

theorem firstChange_le_iff {cc : Nat} {d0 st : Int} (moves : st ≠ 0) (c : Nat) :
    firstChange cc d0 st ≤ c ↔ (upperFrom cc ≤ d0 + st * c ↔ 0 < st) := by
  have side : (cc == 2 || cc == 6 || cc == 5 || cc == 9) = decide (cc = 2 ∨ cc = 6 ∨ cc = 5 ∨ cc = 9) := by
    rw [Bool.eq_iff_iff]
    simp [or_assoc]
  simp only [firstChange, upperFrom, side, decide_eq_true_eq]
  rcases Int.lt_or_gt_of_ne moves with down | up
  · have not : ¬ 0 < st := by omega
    have turned : (-st) * (c : Int) = -(st * c) := Int.neg_mul ..
    simp only [not, if_false, ceil_le_iff (step := -st) (by omega), turned, iff_false]
    split <;> omega
  · simp only [up, if_true, ceil_le_iff up, iff_true]
    split <;> omega

/-- A comparison that is the same at both ends of an axis is the same all along it, and one that is not changes at `firstChange`. -/
theorem cmpInts_along {cc : Nat} (ordered : 2 ≤ cc) (known : cc < 10) (d0 st : Int) {c e : Nat} (within : c < e) :
    cmpInts cc (d0 + st * c) =
      if cmpInts cc (d0 + st * ((e : Int) - 1)) = cmpInts cc d0 then cmpInts cc d0
      else if c < firstChange cc d0 st then cmpInts cc d0 else !cmpInts cc d0 := by
  simp only [cmpInts_eq ordered known]
  by_cases moves : st = 0
  · simp [moves]
  have change := firstChange_le_iff (cc := cc) (d0 := d0) moves c
  rcases Int.lt_or_gt_of_ne moves with down | up
  · obtain ⟨bottom, top⟩ := stride_down (Int.le_of_lt down) within
    grind
  · obtain ⟨bottom, top⟩ := stride_up (Int.le_of_lt up) within
    grind

/-! ### Forms of comparisons (R22) -/

/-- The stride that alone is not zero, with its axis. -/
def soleStride (dx dy dz : W32) : Option (Axis × Int) :=
  if dy = 0 ∧ dz = 0 then some (.x, dx.toInt)
  else if dx = 0 ∧ dz = 0 then some (.y, dy.toInt)
  else if dx = 0 ∧ dy = 0 then some (.z, dz.toInt)
  else none

theorem soleStride_adds {dx dy dz : W32} {ax : Axis} {st : Int} (sole : soleStride dx dy dz = some (ax, st)) (i : Item) :
    dx.toInt * i.x + dy.toInt * i.y + dz.toInt * i.z = st * coordOf ax i := by
  unfold soleStride at sole
  split at sole
  next flat =>
    obtain ⟨rfl, rfl⟩ := flat
    cases sole
    simp [coordOf]
  next =>
    split at sole
    next flat =>
      obtain ⟨rfl, rfl⟩ := flat
      cases sole
      simp [coordOf]
    next =>
      split at sole
      next flat =>
        obtain ⟨rfl, rfl⟩ := flat
        cases sole
        simp [coordOf]
      next => cases sole

theorem coordOf_lt_extOf {r : LaunchRec} {i : Item} (within : inRange r i = true) (ax : Axis) : coordOf ax i < extOf r ax := by
  obtain ⟨inX, inY, inZ⟩ := inRange_iff.1 within
  cases ax
  · exact inX
  · exact inY
  · exact inZ

/-- What `formCmp` has found where it names a form for operands that are not both U. -/
structure CmpForm (r : LaunchRec) (cc : Nat) (p q : SVal) (v : CVal) (bp bq : Word) (ax : Axis) (st : Int) : Prop where
  ordered : 2 ≤ cc
  difference : cc < 10 → ∀ L i, inRange r i = true → readAs (decide (cc ≤ 5)) (svalAt p L i) - readAs (decide (cc ≤ 5)) (svalAt q L i) =
    readAs (decide (cc ≤ 5)) bp - readAs (decide (cc ≤ 5)) bq + st * coordOf ax i
  form : v = let d0 := readAs (decide (cc ≤ 5)) bp - readAs (decide (cc ≤ 5)) bq
    if cmpInts cc (d0 + st * ((extOf r ax : Int) - 1)) = cmpInts cc d0 then .u (cmpInts cc d0)
    else .t ax (firstChange cc d0 st) (cmpInts cc d0)

theorem formCmp_form {r : LaunchRec} {cc : Nat} {p q : SVal} {v : CVal} (form : formCmp r cc p q = some v) :
    (∃ a b, p = .u a ∧ q = .u b ∧ v = .u (cmpWords cc a b)) ∨ ∃ bp bq ax st, CmpForm r cc p q v bp bq ax st := by
  unfold formCmp at form
  split at form
  next a b => exact .inl ⟨a, b, rfl, rfl, (Option.some.inj form).symm⟩
  next =>
    split at form
    next bp px py pz bq qx qy qz b dx dy dz partsP partsQ diff =>
      dsimp only at form
      split at form
      · cases form
      · split at form
        · cases form
        · next equality stays =>
          change (match soleStride dx dy dz with
            | none => none
            | some (ax, st) => _) = _ at form
          split at form
          · cases form
          · next ax st sole =>
            simp only [Bool.not_eq_true, Bool.not_eq_false', Bool.and_eq_true] at stays
            obtain ⟨staysP, staysQ⟩ := stays
            obtain ⟨strideX, strideY, strideZ⟩ := formSub_strides diff partsP partsQ
            refine .inr ⟨bp, bq, ax, st, by omega, fun known L i within => ?_, ?_⟩
            · rw [readAs_svalAt partsP staysP within, readAs_svalAt partsQ staysQ within, ← soleStride_adds sole, strideX, strideY,
                strideZ]
              ring
            · split at form
              next same => rw [if_pos same, ← Option.some.inj form]
              next differs => rw [if_neg differs, ← Option.some.inj form]
    next => cases form

theorem cvalAt_u (b : Bool) (L : Nat) (i : Item) : cvalAt (.u b) L i = b := rfl

/-- A threshold that is `v` below its boundary. -/
theorem cvalAt_t (ax : Axis) (n : Nat) (v : Bool) (L : Nat) (i : Item) :
    cvalAt (.t ax n v) L i = if coordOf ax i < n then v else !v := by
  by_cases below : coordOf ax i < n
  · cases v <;> simp [cvalAt, below, Nat.not_le.2 below]
  · cases v <;> simp [cvalAt, below, Nat.not_lt.1 below]

/-- R22: where a comparison has a form, the form is the comparison at every item of the launch range. -/
theorem formCmp_sound {r : LaunchRec} {cc : Nat} (known : cc < 10) {p q : SVal} {v : CVal} (form : formCmp r cc p q = some v) {i : Item}
    (within : inRange r i = true) (L : Nat) : cvalAt v L i = cmpWords cc (svalAt p L i) (svalAt q L i) := by
  rcases formCmp_form form with ⟨a, b, rfl, rfl, rfl⟩ | ⟨bp, bq, ax, st, ordered, difference, rfl⟩
  · rfl
  · rw [cmpWords_eq ordered known, difference known L i within,
      cmpInts_along ordered known _ st (coordOf_lt_extOf within ax)]
    dsimp only
    split
    · rw [cvalAt_u]
    · rw [cvalAt_t]

/-! ### Forms of condition functions (R22, R202) -/

/-- A threshold whose boundary lies outside the index space, like a U condition, is the same at every item of the launch. -/
theorem cvalAt_of_innerThreshold_none {r : LaunchRec} {p : CVal} (notM : ∀ m, p ≠ .m m) (outer : innerThreshold r p = none) {i j : Item}
    (here : ∀ ax, coordOf ax i < extOf r ax) (there : ∀ ax, coordOf ax j < extOf r ax) (L K : Nat) : cvalAt p L i = cvalAt p K j := by
  cases p with
  | u b => rfl
  | m m => exact absurd rfl (notM m)
  | t ax n v =>
    simp only [innerThreshold, ite_eq_right_iff, reduceCtorEq, imp_false, not_and, Nat.not_lt] at outer
    have hereIn := here ax
    have thereIn := there ax
    rw [cvalAt_t, cvalAt_t]
    by_cases zero : n = 0
    · simp [zero]
    · have far := outer (by omega)
      rw [if_pos (by omega), if_pos (by omega)]

theorem innerThreshold_some {r : LaunchRec} {p : CVal} {ax : Axis} {n : Nat} (inner : innerThreshold r p = some (ax, n)) :
    (∃ v, p = .t ax n v) ∧ 0 < n ∧ n < extOf r ax := by
  cases p with
  | u b => cases inner
  | m m => cases inner
  | t ax' n' v =>
    simp only [innerThreshold, Option.ite_none_right_eq_some, Option.some.injEq, Prod.mk.injEq] at inner
    obtain ⟨bounds, rfl, rfl⟩ := inner
    exact ⟨⟨v, rfl⟩, bounds⟩

/-- The form of a result that has the values `g` along an axis and may change at the points only (R22). -/
def copAlong (g : Nat → Bool) (ax : Axis) (pts : List Nat) : Option CVal :=
  match (pts.zip (pts.map g)).filter (fun x => x.2 != g 0), pts with
  | [], _ => some (.u (g 0))
  | (b, _) :: _, _ =>
    if (pts.zip (pts.map g)).all (fun x => (x.2 == g 0) == decide (x.1 < b)) then some (.t ax b (g 0)) else none

/-- A condition function's value at a coordinate of an axis. -/
def copAt (f : Bool → Bool → Bool) (p q : CVal) (ax : Axis) (x : Nat) : Bool :=
  f (cvalAt p 0 (axisItem ax x)) (cvalAt q 0 (axisItem ax x))

/-- A condition that changes inside the index space at most along an axis, and there at one of the points. -/
def ChangesAt (r : LaunchRec) (ax : Axis) (pts : List Nat) (p : CVal) : Prop :=
  (∀ m, p ≠ .m m) ∧ ∀ x, innerThreshold r p = some x → x.1 = ax ∧ x.2 ∈ pts

theorem ChangesAt.of_none {r : LaunchRec} {p : CVal} (notM : ∀ m, p ≠ .m m) (outer : innerThreshold r p = none) (ax : Axis)
    (pts : List Nat) : ChangesAt r ax pts p :=
  ⟨notM, fun x inner => by rw [outer] at inner; cases inner⟩

theorem ChangesAt.of_some {r : LaunchRec} {p : CVal} {ax : Axis} {n : Nat} (notM : ∀ m, p ≠ .m m)
    (inner : innerThreshold r p = some (ax, n)) {pts : List Nat} (listed : n ∈ pts) : ChangesAt r ax pts p :=
  ⟨notM, fun x inner' => by rw [inner] at inner'; cases inner'; exact ⟨rfl, listed⟩⟩

theorem coordOf_axisItem (ax ax' : Axis) (x : Nat) : coordOf ax (axisItem ax' x) = if ax = ax' then x else 0 := by
  cases ax <;> cases ax' <;> rfl

/-- Such a condition has one value at items of the launch that lie on the same side of every point. -/
theorem ChangesAt.same {r : LaunchRec} {ax : Axis} {pts : List Nat} {p : CVal} (changes : ChangesAt r ax pts p) {i j : Item}
    (here : ∀ ax, coordOf ax i < extOf r ax) (there : ∀ ax, coordOf ax j < extOf r ax)
    (sides : ∀ n ∈ pts, coordOf ax i < n ↔ coordOf ax j < n) (L K : Nat) : cvalAt p L i = cvalAt p K j := by
  obtain ⟨notM, points⟩ := changes
  cases inner : innerThreshold r p with
  | none => exact cvalAt_of_innerThreshold_none notM inner here there L K
  | some x =>
    obtain ⟨ax', n⟩ := x
    obtain ⟨⟨v, rfl⟩, -, -⟩ := innerThreshold_some inner
    obtain ⟨rfl, listed⟩ := points _ inner
    simp only [cvalAt_t, sides n listed]

/-- R22, R202: what `formCop` has found where it names a form. -/
theorem formCop_form {r : LaunchRec} {f : Bool → Bool → Bool} {p q : CVal} {v : CVal} (form : formCop r f p q = some v) :
    ∃ ax pts, copAlong (copAt f p q ax) ax pts = some v ∧ (∀ n ∈ pts, 0 < n) ∧ ChangesAt r ax pts p ∧ ChangesAt r ax pts q := by
  unfold formCop at form
  split at form
  · cases form
  · cases form
  next notP notQ =>
    dsimp only at form
    split at form
    next outP outQ => exact ⟨.x, [], form, by simp, .of_none notP outP _ _, .of_none notQ outQ _ _⟩
    next ax b inP outQ =>
      exact ⟨ax, [b], form, by simpa using (innerThreshold_some inP).2.1, .of_some notP inP (by simp), .of_none notQ outQ _ _⟩
    next ax b outP inQ =>
      exact ⟨ax, [b], form, by simpa using (innerThreshold_some inQ).2.1, .of_none notP outP _ _, .of_some notQ inQ (by simp)⟩
    next ax b ax' b' inP inQ =>
      split at form
      next same =>
        subst same
        refine ⟨ax, _, form, ?_, .of_some notP inP ?_, .of_some notQ inQ ?_⟩
        · have posP := (innerThreshold_some inP).2.1
          have posQ := (innerThreshold_some inQ).2.1
          split
          · simp [posP, posQ]
          · split <;> simp [posP, posQ]
        · split
          · simp
          · split <;> simp
        · split
          · simp
          · split
            · simp
            · simp; omega
      next => cases form

/-- The greatest of zero and some points up to a number. -/
theorem exists_lastPoint (pts : List Nat) (c : Nat) : ∃ x, (x = 0 ∨ x ∈ pts) ∧ x ≤ c ∧ ∀ n ∈ pts, c < n ↔ x < n := by
  induction pts with
  | nil => exact ⟨0, .inl rfl, Nat.zero_le c, by simp⟩
  | cons p pts ih =>
    obtain ⟨x, listed, below, last⟩ := ih
    by_cases later : x < p ∧ p ≤ c
    · refine ⟨p, .inr (by simp), later.2, List.forall_mem_cons.2 ⟨by omega, fun n mem => ?_⟩⟩
      have side := last n mem
      omega
    · refine ⟨x, listed.imp_right (List.mem_cons_of_mem p), below, List.forall_mem_cons.2 ⟨by omega, last⟩⟩

theorem zip_map_self {α β : Type} (l : List α) (g : α → β) : l.zip (l.map g) = l.map fun n => (n, g n) := by
  induction l with
  | nil => rfl
  | cons a l ih => simp [ih]

theorem copAlong_sound {g : Nat → Bool} {ax : Axis} {pts : List Nat} {v : CVal} (form : copAlong g ax pts = some v)
    (pos : ∀ n ∈ pts, 0 < n) {i : Item} (steps : ∀ x, x ≤ coordOf ax i → (∀ n ∈ pts, coordOf ax i < n ↔ x < n) → g (coordOf ax i) = g x)
    (L : Nat) : cvalAt v L i = g (coordOf ax i) := by
  obtain ⟨x, listed, below, last⟩ := exists_lastPoint pts (coordOf ax i)
  have value := steps x below last
  unfold copAlong at form
  rw [zip_map_self] at form
  cases changes : (pts.map fun n => (n, g n)).filter fun y => y.2 != g 0 with
  | nil =>
    have flat : ∀ n ∈ pts, g n = g 0 := by simpa [List.filter_eq_nil_iff] using changes
    rw [changes] at form
    cases form
    rw [cvalAt_u, value]
    rcases listed with rfl | mem
    · rfl
    · exact (flat x mem).symm
  | cons first rest =>
    obtain ⟨b, w⟩ := first
    rw [changes] at form
    dsimp only at form
    split at form
    next sides =>
      cases form
      have change : (b, w) ∈ (pts.map fun n => (n, g n)).filter fun y => y.2 != g 0 := by rw [changes]; simp
      have listedB : b ∈ pts := by
        obtain ⟨n, mem, same⟩ := List.mem_map.1 (List.mem_filter.1 change).1
        cases same
        exact mem
      have sides : ∀ n ∈ pts, (g n == g 0) = decide (n < b) := by simpa using sides
      rw [cvalAt_t, value]
      simp only [last b listedB]
      rcases listed with rfl | mem
      · rw [if_pos (pos b listedB)]
      · have side := sides x mem
        split
        next lower => exact (beq_iff_eq.1 (side.trans (decide_eq_true lower))).symm
        next upper => exact (Bool.eq_not.2 (beq_eq_false_iff_ne.1 (side.trans (decide_eq_false upper)))).symm
    next => cases form

/-- R22: where a condition function has a form, the form is its result at every item of the launch range. -/
theorem formCop_sound {r : LaunchRec} {f : Bool → Bool → Bool} {p q : CVal} {v : CVal} (form : formCop r f p q = some v) {i : Item}
    (within : inRange r i = true) (L : Nat) : cvalAt v L i = f (cvalAt p L i) (cvalAt q L i) := by
  obtain ⟨ax, pts, along, pos, changesP, changesQ⟩ := formCop_form form
  have here := coordOf_lt_extOf within
  have onAxis {x : Nat} (below : x ≤ coordOf ax i) (ax' : Axis) : coordOf ax' (axisItem ax x) < extOf r ax' := by
    rw [coordOf_axisItem]
    split
    next same => exact same ▸ Nat.lt_of_le_of_lt below (here ax)
    next => exact Nat.lt_of_le_of_lt (Nat.zero_le _) (here ax')
  have coord (x : Nat) : coordOf ax (axisItem ax x) = x := by rw [coordOf_axisItem, if_pos rfl]
  have steps {x : Nat} (below : x ≤ coordOf ax i) (sides : ∀ n ∈ pts, coordOf ax i < n ↔ x < n) :
      f (cvalAt p L i) (cvalAt q L i) = copAt f p q ax x := by
    rw [← coord x] at sides
    rw [copAt, changesP.same here (onAxis below) sides L 0, changesQ.same here (onAxis below) sides L 0]
  have self := steps (Nat.le_refl _) fun _ _ => Iff.rfl
  rw [self]
  exact copAlong_sound along pos (fun x below sides => self.symm.trans (steps below sides)) L

/-! ### Results in a condition (R203) -/

theorem illSub_writable {d : BitVec 3} (writable : d ≠ 7) : defect (d == 7) 0x02 = none :=
  if_neg (by simpa using writable)

theorem writeCond_form {s : State} {t : Thread} {d : BitVec 3} {form : Option CVal} {v : CVal} (named : form = some v)
    (f : Nat → Item → Bool) : writeCond s t d form f = .next (afterC s t d v) := by
  rw [named]
  rfl

/-- R203: in a strand a condition without a form is written lane by lane. -/
theorem writeCond_perItem {s : State} {t : Thread} {st : Seat} (seat : t.seat = some st) {form : Option CVal} {f : Nat → Item → Bool}
    (sound : ∀ v, form = some v → ∀ L i, inRange (lrecOf s t) i = true → cvalAt v L i = f L i) (d : BitVec 3) :
    ∃ r, writeCond s t d form f = .next (afterC s t d r) ∧ ∀ L, laneIn st.am L = true → L < 32 →
      inRange (lrecOf s t) (slotItem s t st L) = true → cvalAt r L (slotItem s t st L) = f L (slotItem s t st L) := by
  cases form with
  | some v => exact ⟨v, rfl, fun L _ _ within => sound v rfl L _ within⟩
  | none =>
    refine ⟨_, inStrand_strand seat _, fun L lane inRow _ => ?_⟩
    rw [cvalAt, laneIn_maskOf _ inRow, if_pos lane]

/-! ### The instructions -/

theorem cmpTable_rows : ∀ p ∈ cmpTable, p.1.toNat < 10 ∧ ∀ v w, cmpWords p.1.toNat v w = p.2 v w := by
  simp [cmpTable, cmpWords]

theorem cmpImmTable_rows : ∀ p ∈ cmpImmTable, ∀ v w, cmpWords (scmpiCc p.1) v w = p.2 v w := by
  simp [cmpImmTable, cmpWords, scmpiCc]

theorem copTable_rows : ∀ p ∈ copTable, ∀ c m n, illSub (p.1 c m n) = defect (c == 7) 0x02 ∧
    ∀ s, exec (p.1 c m n) s = cop (p.1 c m n) s c m n p.2 := by
  simp only [copTable, List.forall_mem_cons, List.not_mem_nil, false_imp_iff, implies_true, and_true]
  exact ⟨fun c m n => ⟨rfl, fun s => rfl⟩, fun c m n => ⟨rfl, fun s => rfl⟩, fun c m n => ⟨rfl, fun s => rfl⟩,
    fun c m n => ⟨rfl, fun s => rfl⟩⟩

theorem copOneTable_rows : ∀ p ∈ copOneTable, ∀ c m, illSub (p.1 c m) = defect (c == 7) 0x02 ∧
    ∀ s, exec (p.1 c m) s = cop (p.1 c m) s c m m fun x _ => p.2 x := by
  simp only [copOneTable, List.forall_mem_cons, List.not_mem_nil, false_imp_iff, implies_true, and_true]
  exact ⟨fun c m => ⟨rfl, fun s => rfl⟩, fun c m => ⟨rfl, fun s => rfl⟩⟩

theorem formCop_u (r : LaunchRec) (f : Bool → Bool → Bool) (x y : Bool) : formCop r f (.u x) (.u y) = some (.u (f x y)) := rfl

section Conditions

variable {s : State} {t : Thread} (acts : Acts s t)
include acts

section Writable

variable {c : BitVec 3} (writable : c ≠ 7)
include writable

theorem exec_scmp_eq {cc : BitVec 4} (known : cc.toNat < 10) (a b : SReg) :
    exec (.scmp c a b cc) s = compare s t c cc.toNat (getS t a) (getS t b) := by
  have fine : illSub (.scmp c a b cc) = none := by
    rw [illSub_scmp, illSub_writable writable]
    simp [leastDefect, defect, Nat.not_le.2 known]
  rw [exec_scmp, execScmp, scalar_run _ acts fine]

theorem exec_scmpi_eq (cc : BitVec 3) (a : SReg) (i : BitVec 14) :
    exec (.scmpi cc c a i) s = compare s t c (scmpiCc cc) (getS t a) (.u (i.signExtend 64)) := by
  rw [exec_scmpi, execScmpi, scalar_run _ acts ((illSub_scmpi cc c a i).trans (illSub_writable writable))]
  rfl

theorem cop_eq {i : Instr} (ill : illSub i = defect (c == 7) 0x02) (m n : BitVec 3) (f : Bool → Bool → Bool) :
    cop i s c m n f = writeCond s t c (formCop (lrecOf s t) f (getC t m) (getC t n)) fun L it =>
      f (cvalAt (getC t m) L it) (cvalAt (getC t n) L it) :=
  scalar_run _ acts (ill.trans (illSub_writable writable))

theorem cop_u {i : Instr} (ill : illSub i = defect (c == 7) 0x02) {m n : BitVec 3} {x y : Bool} (valM : getC t m = .u x)
    (valN : getC t n = .u y) (f : Bool → Bool → Bool) : cop i s c m n f = .next (afterC s t c (.u (f x y))) := by
  rw [cop_eq acts writable ill, valM, valN]
  exact writeCond_form (formCop_u ..) _

end Writable

variable {d : SReg} (dst : d ≠ 0)
include dst

theorem exec_ssel_eq (a b : SReg) (n : BitVec 3) :
    exec (.ssel d a b n) s = writeForm s t d 4 (formSel (getC t n) (getS t a) (getS t b)) fun L i =>
      if cvalAt (getC t n) L i then svalAt (getS t a) L i else svalAt (getS t b) L i := by
  rw [exec_ssel, execSsel, scalar_run _ acts ((illSub_ssel d a b n).trans (zeroDst_of_ne dst))]

theorem exec_sform_eq {f : BitVec 8} (known : f.toNat < 5) (a : SReg) :
    exec (.sform d a f) s = if isM (getS t a) && f.toNat == 4 then writeM s t d 4 fun L i => svalAt (getS t a) L i
      else .next (afterS s t d 4 (.u (formField f.toNat (getS t a)))) := by
  have fine : illSub (.sform d a f) = none := by
    rw [illSub_sform, zeroDst_of_ne dst]
    simp [leastDefect, defect, Nat.not_le.2 known]
  rw [exec_sform, execSform, scalar_run _ acts fine]
  rfl

/-- R204: a field of `sform` but the base of an M operand reads U. -/
theorem exec_sform_field {f : BitVec 8} (known : f.toNat < 5) {a : SReg} (field : isM (getS t a) = false ∨ f.toNat ≠ 4) :
    exec (.sform d a f) s = .next (afterS s t d 4 (.u (formField f.toNat (getS t a)))) := by
  rw [exec_sform_eq acts dst known, if_neg]
  rcases field with form | other
  · simp [form]
  · simp [other]

end Conditions

/-- Where `ssel` has a form its condition and both operands are U (R20, R201). -/
theorem formSel_some {c : CVal} {p q v : SVal} (form : formSel c p q = some v) :
    ∃ x y z, c = .u x ∧ p = .u y ∧ q = .u z ∧ v = .u (if x then y else z) := by
  unfold formSel at form
  split at form
  next x y z => exact ⟨x, y, z, rfl, rfl, rfl, (Option.some.inj form).symm⟩
  next => cases form

end Sys2Proof.Machine

namespace Sys2Proof.Laws

open Sys2Proof Sys2Proof.Machine

/-- Settles O8: a result with a form is that form, which is sound (`formCmp_sound`, `formCop_sound`), and one without is written
lane by lane (`writeCond_perItem`, `writeForm_perItem`). -/
theorem conditions : Obligations.Conditions := by
  refine ⟨fun s t d a b c m n v w x y acts dst writable valA valB valM valN =>
      ⟨fun p row => ?cmp, fun i p row => ?cmpImm, fun p row => ?cop, fun p row => ?copOne, ?copSet, ?copClr, ?ssel, fun f known => ?sformU⟩,
    fun s t d a acts dst => ⟨fun b x y z val p row => ?sformA, fun l val p row => ?sformM, fun l st val seat row => ?baseM⟩,
    fun s t st d a b n seated dst row => ?sselItems,
    fun s t st c m n a b seated writable => ⟨fun p row => ?cmpItems, fun p row => ?copItems⟩⟩
  case cmp =>
    obtain ⟨known, result⟩ := cmpTable_rows p row
    rw [exec_scmp_eq acts writable known, valA, valB, ← result]
    rfl
  case cmpImm =>
    rw [exec_scmpi_eq acts writable, valA, ← cmpImmTable_rows p row]
    rfl
  case cop =>
    obtain ⟨ill, run⟩ := copTable_rows p row c m n
    exact (run s).trans (cop_u acts writable ill valM valN _)
  case copOne =>
    obtain ⟨ill, run⟩ := copOneTable_rows p row c m
    exact (run s).trans (cop_u acts writable ill valM valM _)
  case copSet =>
    rw [exec_copSet, execCopSet, scalar_run _ acts ((illSub_copSet c).trans (illSub_writable writable))]
    rfl
  case copClr =>
    rw [exec_copClr, execCopClr, scalar_run _ acts ((illSub_copClr c).trans (illSub_writable writable))]
    rfl
  case ssel =>
    rw [exec_ssel_eq acts dst, valM, valA, valB]
    rfl
  case sformU =>
    have base : f = 4 ↔ f.toNat = 4 := BitVec.toNat_inj.symm
    rw [exec_sform_field acts dst known (.inl (by rw [valA]; rfl)), valA]
    simp only [formField, base]
  case sformA =>
    have run {f : BitVec 8} (known : f.toNat < 5) := exec_sform_field acts dst (a := a) known (.inl (by rw [val]; rfl))
    revert p
    simp only [List.forall_mem_cons, List.not_mem_nil, false_imp_iff, implies_true, and_true]
    refine ⟨?_, ?_, ?_, ?_, ?_⟩ <;> rw [run (by decide), val] <;> rfl
  case sformM =>
    have run {f : BitVec 8} (known : f.toNat < 5) (field : f.toNat ≠ 4) := exec_sform_field acts dst (a := a) known (.inr field)
    revert p
    simp only [List.forall_mem_cons, List.not_mem_nil, false_imp_iff, implies_true, and_true]
    refine ⟨?_, ?_, ?_, ?_⟩ <;> rw [run (by decide) (by decide), val] <;> rfl
  case baseM =>
    have run : exec (.sform d a 4) s = writeM s t d 4 fun L i => svalAt (getS t a) L i := by
      rw [exec_sform_eq acts dst (by decide), val]
      rfl
    refine ⟨_, run.trans (writeM_run 4 _ seat row), fun L lane inRow => ?_⟩
    calc _ = svalAt (getS t a) L (slotItem s t st L) := (svalAt_lanes _ inRow (slotItem s t st L)).trans (if_pos lane)
      _ = l.getD L 0 := by rw [val]; rfl
  case sselItems =>
    have sound : ∀ v, formSel (getC t n) (getS t a) (getS t b) = some v → ∀ L i,
        svalAt v L i = if cvalAt (getC t n) L i then svalAt (getS t a) L i else svalAt (getS t b) L i := by
      rintro v form L i
      obtain ⟨x, y, z, cond, valA, valB, rfl⟩ := formSel_some form
      rw [cond, valA, valB]
      rfl
    obtain ⟨v, run, lanes, values⟩ := writeForm_perItem seated.2 row sound 4
    refine ⟨v, (exec_ssel_eq seated.1 dst a b n).trans run, fun mixed => lanes ?_, values⟩
    cases form : formSel (getC t n) (getS t a) (getS t b) with
    | none => rfl
    | some v =>
      obtain ⟨x, y, z, cond, valA, valB, -⟩ := formSel_some form
      exact absurd ⟨cond, valA, valB⟩ (mixed x y z)
  case cmpItems =>
    obtain ⟨known, result⟩ := cmpTable_rows p row
    simp only [exec_scmp_eq seated.1 writable known, ← result]
    exact writeCond_perItem seated.2 (fun v form L i within => formCmp_sound known form within L) c
  case copItems =>
    obtain ⟨ill, run⟩ := copTable_rows p row c m n
    simp only [run, cop_eq seated.1 writable ill]
    exact writeCond_perItem seated.2 (fun v form L i within => formCop_sound form within L) c

end Sys2Proof.Laws
end

section

/-! ## Retirement and swaps (08_scalar_stream.md; O16)

Retiring boxes of items changes launches and workgroups only, and of them neither a launch record nor a workgroup's tile, so the
slots of every strand keep their items. `exit` in a strand then resumes at a token that has lanes left, or retires the rest. -/

namespace Sys2Proof

/-- A table whose values are mapped. -/
theorem tabFind_map {α β : Type} (f : α → β) (t : Tab α) (k : Nat) :
    tabFind (t.map fun p => (p.1, f p.2)) k = (tabFind t k).map f := by
  induction t with
  | nil => rfl
  | cons p t ih =>
    obtain ⟨k', v⟩ := p
    simp only [List.map_cons, tabFind]
    split
    · rfl
    · exact ih

end Sys2Proof

namespace Sys2Proof.Machine

open Sys2Proof

/-! ### Items retire (R37, R270, R272) -/

@[simp] theorem retireBoxes_threads (s : State) (l : Nat) (bs : List Box) : (retireBoxes s l bs).threads = s.threads := rfl

theorem launchOf_hbarAdvance (s : State) (l k : Nat) :
    (launchOf (hbarAdvance s l) k).lrec = (launchOf s k).lrec ∧ (launchOf (hbarAdvance s l) k).retired = (launchOf s k).retired := by
  simp only [launchOf, hbarAdvance, modLaunch_launches, tabFind_tabMod]
  split
  · cases tabFind s.launches k <;> exact ⟨rfl, rfl⟩
  · exact ⟨rfl, rfl⟩

theorem lrec_retireBoxes (s : State) (l : Nat) (bs : List Box) (k : Nat) :
    (launchOf (retireBoxes s l bs) k).lrec = (launchOf s k).lrec := by
  rw [retireBoxes, (launchOf_hbarAdvance _ l k).1]
  simp only [launchOf, modLaunch_launches, tabFind_tabMod]
  split
  · cases tabFind s.launches k <;> rfl
  · rfl

theorem retired_retireBoxes {s : State} {l : Nat} (listed : (tabFind s.launches l).isSome = true) (bs : List Box) :
    (launchOf (retireBoxes s l bs) l).retired = bs ++ (launchOf s l).retired := by
  obtain ⟨x, found⟩ := Option.isSome_iff_exists.1 listed
  rw [retireBoxes, (launchOf_hbarAdvance _ l l).2]
  simp only [launchOf, modLaunch_launches, tabFind_tabMod, if_true, found]
  rfl

theorem launches_retireBoxes_isSome (s : State) (l : Nat) (bs : List Box) (k : Nat) :
    (tabFind (retireBoxes s l bs).launches k).isSome = (tabFind s.launches k).isSome := by
  simp only [retireBoxes, hbarAdvance, modLaunch_launches, tabFind_tabMod]
  split <;> simp

theorem barRetire_tile (w : Wg) (ps : List Nat) : (barRetire w ps).tile = w.tile := by
  unfold barRetire
  dsimp only
  split <;> rfl

/-- What retiring boxes of a launch makes of a workgroup. -/
def retireWg (r : LaunchRec) (l : Nat) (bs : List Box) (w : Wg) : Wg :=
  if w.launch = l then
    match bs.flatMap (fun b => tilePositions r w.tile b) with
    | [] => w
    | ps => barRetire w ps
  else w

theorem retireBoxes_wgs (s : State) (l : Nat) (bs : List Box) :
    (retireBoxes s l bs).wgs = s.wgs.map fun p => (p.1, retireWg (launchOf s l).lrec l bs p.2) := rfl

theorem retireWg_tile (r : LaunchRec) (l : Nat) (bs : List Box) (w : Wg) : (retireWg r l bs w).tile = w.tile := by
  unfold retireWg
  split
  · split
    · rfl
    · exact barRetire_tile w _
  · rfl

theorem tileOf_retireBoxes (s : State) (l : Nat) (bs : List Box) (st : Seat) : tileOf (retireBoxes s l bs) st = tileOf s st := by
  have tile : (fun w : Wg => w.tile) ∘ retireWg (launchOf s l).lrec l bs = fun w => w.tile := funext (retireWg_tile _ l bs)
  rw [tileOf, retireBoxes_wgs, tabFind_map, Option.map_map, tile, tileOf]

/-- The slots of a strand keep their items. -/
theorem slotItem_retireBoxes (s : State) (l : Nat) (bs : List Box) (t : Thread) (st : Seat) (L : Nat) :
    slotItem (retireBoxes s l bs) t st L = slotItem s t st L := by
  rw [slotItem, slotItem, lrecOf, lrecOf, lrec_retireBoxes, tileOf_retireBoxes]

theorem launchOf_modThr (s : State) (id : Nat) (f : Thread → Thread) (k : Nat) : launchOf (modThr s id f) k = launchOf s k := rfl

/-! ### `exit` (R42, R43, R210) -/

/-- A token that lanes in a mask have left (R42). -/
def tokenWithout (m : W32) (k : Token) : Token := { k with mask := k.mask &&& ~~~m, exit := k.exit &&& ~~~m }

theorem mask_zero_left {zs : List Token} {m : W32} (within : ∀ z ∈ zs, z.mask &&& ~~~m = 0) :
    ∀ z ∈ zs.map (tokenWithout m), z.mask = 0 := by
  simpa [tokenWithout] using within

/-- A seat whose slots in a mask have retired (R42). -/
def seatWithout (m : W32) (st : Seat) : Seat := { st with am := st.am &&& ~~~m, seated := st.seated &&& ~~~m }

/-- A strand whose slots in a mask have retired: they have left `am` and every token. -/
def slotsLeave (t : Thread) (st : Seat) (m : W32) : Thread :=
  { t with
    seat := some (seatWithout m st)
    toks := t.toks.map (tokenWithout m) }

theorem retireSlots_eq (s : State) (id : Nat) (t : Thread) (st : Seat) (m : W32) :
    retireSlots s id t st m = retireBoxes (putThr s id (slotsLeave t st m)) t.launch
      ((lanesOf (m &&& st.seated)).map fun L => itemBox (slotItem s t st L)) := rfl

section Exit

variable {s : State} {t : Thread} (acts : Acts s t) (outside : inRegion t = false)
include acts outside

theorem exec_exit_span (span : t.seat = none) :
    exec .exit s = .next (retireBoxes { s with threads := tabDel s.threads s.cur } t.launch (threadBoxes s t)) := by
  rw [exec_exit, execExit, scalarOutside_run _ acts illSub_exit outside]
  simp only [span]

theorem exec_exit_strand {st : Seat} (seat : t.seat = some st) :
    exec .exit s = .next (resumeStrand (retireSlots s s.cur t st st.am) s.cur) := by
  rw [exec_exit, execExit, scalarOutside_run _ acts illSub_exit outside]
  simp only [seat]

end Exit

theorem resumeStrand_token {s : State} {id : Nat} {t : Thread} {st : Seat} {x : Token} {rest : List Token}
    (listed : tabFind s.threads id = some t) (seat : t.seat = some st) (resumes : resumeToks t.toks = some (x, rest)) :
    resumeStrand s id = putThr s id { t with toks := rest, pc := x.pc, seat := some { st with am := x.mask } } := by
  simp only [resumeStrand, listed, resumes, seat]

theorem resumeStrand_retires {s : State} {id : Nat} {t : Thread} {st : Seat} (listed : tabFind s.threads id = some t)
    (seat : t.seat = some st) (empty : resumeToks t.toks = none) : resumeStrand s id = strandRetire s id := by
  simp only [resumeStrand, listed, empty, seat]

theorem resumeToks_none {l : List Token} (empty : ∀ z ∈ l, z.mask = 0) : resumeToks l = none := by
  induction l with
  | nil => rfl
  | cons z l ih =>
    obtain ⟨first, others⟩ := List.forall_mem_cons.1 empty
    rw [resumeToks, if_pos first, ih others]

/-- A team whose members have no command held has none to fail. -/
theorem vacateTeams_none {s : State} {wg team : Nat} (none : ∀ h ∈ s.teams, ¬ (h.wg = wg ∧ h.team = team)) :
    vacateTeams s wg team = s := by
  have gone : (s.teams.filter fun h => h.wg == wg && h.team == team) = [] := by
    simpa [List.filter_eq_nil_iff] using none
  have kept : (s.teams.filter fun h => !(h.wg == wg && h.team == team)) = s.teams :=
    List.filter_eq_self.2 fun h mem => by simpa [-not_and, not_and_or] using none h mem
  simp only [vacateTeams, gone, kept, List.flatMap_nil, List.foldl_nil]

theorem strandRetire_alone {s : State} {id : Nat} {t : Thread} {st : Seat} (listed : tabFind s.threads id = some t)
    (seat : t.seat = some st) (none : ∀ h ∈ s.teams, ¬ (h.wg = st.wg ∧ h.team = teamOf s t st)) :
    strandRetire s id = modThr (retireSlots s id t st st.seated) id fun u =>
      { u with toks := [], seat := u.seat.map fun st1 => { st1 with am := 0, retired := true } } := by
  simp only [strandRetire, listed, seat]
  exact vacateTeams_none none

theorem launches_retireSlots_isSome (s : State) (id : Nat) (t : Thread) (st : Seat) (m : W32) (k : Nat) :
    (tabFind (retireSlots s id t st m).launches k).isSome = (tabFind s.launches k).isSome := launches_retireBoxes_isSome ..

section Retired

variable {s : State} {t : Thread} {l : Nat} (launched : (tabFind s.launches l).isSome = true) (launch : t.launch = l)
include launched launch

theorem retired_retireSlots (id : Nat) (st : Seat) (m : W32) : (launchOf (retireSlots s id t st m) l).retired =
    (lanesOf (m &&& st.seated)).map (fun L => itemBox (slotItem s t st L)) ++ (launchOf s l).retired := by
  subst launch
  exact retired_retireBoxes (s := putThr s id (slotsLeave t st m)) launched _

theorem retired_of_leaves {st : Seat} {m : W32} {L : Nat} (id : Nat) (inRow : L < 32) (leaves : laneIn (m &&& st.seated) L = true) :
    itemBox (slotItem s t st L) ∈ (launchOf (retireSlots s id t st m) l).retired := by
  rw [retired_retireSlots launched launch]
  exact List.mem_append_left _ (List.mem_map_of_mem (mem_lanesOf.2 ⟨inRow, leaves⟩))

theorem retired_of_retired {b : Box} (id : Nat) (st : Seat) (m : W32) (before : b ∈ (launchOf s l).retired) :
    b ∈ (launchOf (retireSlots s id t st m) l).retired := by
  rw [retired_retireSlots launched launch]
  exact List.mem_append_right _ before

end Retired

theorem slotItem_retireSlots (s : State) (id : Nat) (t : Thread) (st : Seat) (m : W32) (L : Nat) :
    slotItem (retireSlots s id t st m) (slotsLeave t st m) (seatWithout m st) L = slotItem s t st L := slotItem_retireBoxes ..

theorem teamOf_retireSlots (s : State) (id : Nat) (t : Thread) (st : Seat) (m : W32) :
    teamOf (retireSlots s id t st m) (slotsLeave t st m) (seatWithout m st) = teamOf s t st := by
  rw [teamOf, lrecOf, retireSlots_eq, lrec_retireBoxes]
  rfl

theorem and_not_self_mask (m : W32) : m &&& ~~~m = 0 := by
  ext k hk
  simp

theorem laneIn_and_not {a m : W32} {L : Nat} (inRow : L < 32) : laneIn (a &&& ~~~m) L = (laneIn a L && !laneIn m L) := by
  simp [laneIn, inRow]

theorem laneIn_and (a b : W32) (L : Nat) : laneIn (a &&& b) L = (laneIn a L && laneIn b L) := by simp [laneIn]

/-- Retiring some slots of a strand and then the rest retires all its items. -/
theorem retired_rest {s : State} {t : Thread} {st : Seat} {m : W32} {L : Nat}
    (launched : (tabFind s.launches t.launch).isSome = true) (id : Nat) (inRow : L < 32) (seated : laneIn st.seated L = true) :
    itemBox (slotItem s t st L) ∈ (launchOf (retireSlots (retireSlots s id t st m) id (slotsLeave t st m) (seatWithout m st)
      (seatWithout m st).seated) t.launch).retired := by
  have launched' := (launches_retireSlots_isSome s id t st m t.launch).trans launched
  cases leaves : laneIn m L with
  | true =>
    have first := retired_of_leaves launched rfl id inRow (m := m) (by rw [laneIn_and, leaves, seated]; rfl)
    exact retired_of_retired (t := slotsLeave t st m) launched' rfl id _ _ first
  | false =>
    have stays : laneIn ((seatWithout m st).seated &&& (seatWithout m st).seated) L = true := by
      rw [BitVec.and_self, seatWithout, laneIn_and_not inRow, leaves, seated]
      rfl
    have left := retired_of_leaves (t := slotsLeave t st m) launched' rfl id inRow stays
    rw [slotItem_retireSlots] at left
    exact left

/-- R42, R43: after `exit` of a strand whose tokens have no other lanes it retires with the slots that are left. -/
theorem exec_exit_retires {s : State} {t : Thread} {st : Seat} (acts : Acts s t) (outside : inRegion t = false)
    (seat : t.seat = some st) (gone : ∀ z ∈ t.toks, z.mask &&& ~~~st.am = 0)
    (alone : ∀ h ∈ s.teams, ¬ (h.wg = st.wg ∧ h.team = teamOf s t st)) :
    exec .exit s = .next (modThr (retireSlots (retireSlots s s.cur t st st.am) s.cur (slotsLeave t st st.am) (seatWithout st.am st)
      (seatWithout st.am st).seated) s.cur fun u =>
        { u with toks := [], seat := u.seat.map fun st1 => { st1 with am := 0, retired := true } }) := by
  have listed : tabFind (retireSlots s s.cur t st st.am).threads s.cur = some (slotsLeave t st st.am) := by simp [retireSlots_eq]
  rw [exec_exit_strand acts outside seat, resumeStrand_retires listed rfl (resumeToks_none (mask_zero_left gone)),
    strandRetire_alone listed rfl (by rw [teamOf_retireSlots]; exact alone)]

/-! ### Ends (R28, R210) -/

theorem onThr_runs {s : State} {id : Nat} {t : Thread} (listed : tabFind s.threads id = some t) (runs : (ctxOf s t.ctx).frozen = false)
    (name : String) (k : Thread → Out) : onThr s name id k = k t := by
  simp [onThr, listed, runs]

theorem exec_workgroupEnd_ends {s : State} {wg : Nat} {w : Wg} (listed : tabFind s.wgs wg = some w)
    (ops : ∀ o ∈ s.engq, o.2.wg = wg → o.2.finished = true) (batches : ∀ b ∈ s.batches, b.wg = wg → b.complete = true)
    (items : ∀ p ∈ tilePositions (wgRec s w) w.tile (wholeBox (wgRec s w)), p ∈ w.retired) :
    exec (.workgroupEnd wg) s = .next { s with
      wgs := tabDel s.wgs wg, aholds := s.aholds.filter fun h => h.wg != wg } := by
  have opsDone : (s.engq.any fun o => o.2.wg == wg && !o.2.finished) = false := by simpa using ops
  have batchesDone : (s.batches.any fun b => b.wg == wg && !b.complete) = false := by simpa using batches
  have all : (tilePositions (wgRec s w) w.tile (wholeBox (wgRec s w))).all w.retired.contains = true := by simpa using items
  rw [exec_workgroupEnd, execWorkgroupEnd, listed]
  dsimp only
  rw [if_pos (by rw [opsDone, batchesDone, all]; rfl)]

theorem exec_strandSlotFree_frees {s : State} {id : Nat} {t : Thread} {st : Seat} (listed : tabFind s.threads id = some t)
    (runs : (ctxOf s t.ctx).frozen = false) (seat : t.seat = some st) (retired : st.retired = true) (blocks : st.blocks = [])
    (stores : ∀ o ∈ s.ops, o.2.thread = id → o.2.back = false → o.2.path = .st) :
    exec (.strandSlotFree id) s = .next (forget (leaveRows { s with threads := tabDel s.threads id } t.ctx st.core st.part)) := by
  have quiet : awaitsLoads s id = false := by
    rw [awaitsLoads, List.any_eq_false]
    rintro ⟨n, o⟩ mem awaits
    simp only [Bool.and_eq_true, beq_iff_eq, Bool.not_eq_true'] at awaits
    obtain ⟨⟨mine, out⟩, path⟩ := awaits
    rw [stores _ mem mine out] at path
    simp at path
  rw [exec_strandSlotFree, execStrandSlotFree, onThr_runs listed runs]
  simp only [seat]
  rw [if_pos (by rw [retired, blocks, quiet]; rfl)]

/-! ### Swaps (R44, R45) -/

/-- The strand that leaves the active set: it loses its latches unless it stands on a stop (R318). -/
def leavesActive (t : Thread) : Thread :=
  { t with seat := t.seat.map fun st => { st with
    active := false, latches := if t.stop.isSome then st.latches else [], readyAt := none } }

/-- The strand that enters the active set at a time. -/
def entersActive (now : Nat) (t : Thread) : Thread :=
  { t with seat := t.seat.map fun st => { st with active := true, since := now, readyAt := none, aged := none } }

theorem swapStrands_eq (s : State) (out inn : Nat) :
    swapStrands s out inn = { s with threads := tabMod (tabMod s.threads out leavesActive) inn (entersActive s.time) } := rfl

theorem find_swapStrands {s : State} {out inn : Nat} {t u : Thread} (left : tabFind s.threads out = some t)
    (entered : tabFind s.threads inn = some u) (other : out ≠ inn) :
    tabFind (swapStrands s out inn).threads out = some (leavesActive t) ∧
      tabFind (swapStrands s out inn).threads inn = some (entersActive s.time u) ∧
      ∀ j, j ≠ out → j ≠ inn → tabFind (swapStrands s out inn).threads j = tabFind s.threads j := by
  rw [swapStrands_eq]
  refine ⟨?_, ?_, fun j notOut notInn => ?_⟩
  · simp [tabFind_tabMod, other, left]
  · simp [tabFind_tabMod, Ne.symm other, entered]
  · simp [tabFind_tabMod, notOut, notInn]

theorem exec_stallSwap_swaps {s : State} {out inn at0 : Nat} {t : Thread} {sa : Seat} (listed : tabFind s.threads out = some t)
    (runs : (ctxOf s t.ctx).frozen = false) (seat : t.seat = some sa) (pending : pendingReady s sa.core sa.part = some (inn, at0))
    (active : sa.active = true) (stalls : stallsLong s out t = true) :
    exec (.stallSwap out) s = .next (swapStrands s out inn) := by
  rw [exec_stallSwap, execStallSwap, onThr_runs listed runs]
  simp only [seat, pending, active, stalls, Bool.and_self, if_true]

theorem exec_agingSwap_swaps {s : State} {out inn at0 core part : Nat} {t : Thread} {sa : Seat}
    (pending : pendingReady s core part = some (inn, at0)) (longest : longestActive s core part = some (out, t, sa))
    (boundary : atBoundary s out t sa = true) (first : agedNow s core part = false) (waited : at0 + 4096 ≤ coreCc s core) :
    exec (.agingSwap core part) s =
      .next (modSeat (swapStrands s out inn) out fun st => { st with aged := some (coreCc s core) }) := by
  rw [exec_agingSwap, execAgingSwap]
  simp only [pending, longest, boundary, first, waited, decide_true, Bool.not_false, Bool.and_self, if_true]

end Sys2Proof.Machine

namespace Sys2Proof.Laws

open Sys2Proof Sys2Proof.Machine

/-- Settles O16: `exit` retires the slots in `am` and resumes (`resumeStrand_token`) or retires the rest (`strandRetire_alone`); each
event has one equation. -/
theorem retirement : Obligations.Retirement := by
  refine ⟨fun s t acts outside => ⟨exec_exit_span acts outside, fun st zs x rest seat toks gone left => ?resumes,
      fun st seat gone launched alone => ?retires⟩,
    fun s => ⟨fun wg w listed ops batches items => exec_workgroupEnd_ends listed ops batches items,
      fun id t st listed runs seat retired blocks stores => exec_strandSlotFree_frees listed runs seat retired blocks stores,
      fun out inn t u sa sb at0 listed entered other seat seatB pending => ?swaps⟩⟩
  case resumes =>
    have empty := mask_zero_left gone
    have listed : tabFind (retireSlots s s.cur t st st.am).threads s.cur = some (slotsLeave t st st.am) := by simp [retireSlots_eq]
    have pops : resumeToks (slotsLeave t st st.am).toks =
        some (tokenWithout st.am x, rest.map (tokenWithout st.am)) := by
      rw [slotsLeave, toks, List.map_append, List.map_cons]
      exact resumeToks_append empty left _
    refine ⟨_, (exec_exit_strand acts outside seat).trans (congrArg _ (resumeStrand_token listed rfl pops)), ?_, ?_, rfl, rfl⟩
    · exact find_putThr ..
    · intro j other
      simp [retireSlots_eq, tabFind_tabPut_ne _ other]
  case retires =>
    refine ⟨_, exec_exit_retires acts outside seat gone alone, ?thread, fun L seated inRow => ?items, fun j other => ?others, rfl, rfl⟩
    case thread =>
      simp only [retireSlots_eq, modThr_threads, retireBoxes_threads, putThr_threads, tabFind_tabMod, if_true,
        tabFind_tabPut_self, Option.map_some, slotsLeave, seatWithout, and_not_self_mask]
    case items =>
      rw [launchOf_modThr]
      exact retired_rest launched s.cur inRow seated
    case others => simp [retireSlots_eq, tabFind_tabMod, tabFind_tabPut_ne _ other, other]
  case swaps =>
    obtain ⟨left, entering, others⟩ := find_swapStrands listed entered other
    refine ⟨fun active stalls runs => ⟨_, exec_stallSwap_swaps listed runs seat pending active stalls, ?_, ?_, others, rfl⟩,
      fun longest boundary first waited => ⟨_, exec_agingSwap_swaps pending longest boundary first waited, ?_, ?_, ?_, rfl⟩⟩
    · rw [left, leavesActive, seat]; rfl
    · rw [entering, entersActive, seatB]; rfl
    · simp only [modSeat, modThr_threads, tabFind_tabMod, if_true, left, leavesActive, seat]
      rfl
    · simp only [modSeat, modThr_threads, tabFind_tabMod, if_neg (Ne.symm other), entering, entersActive, seatB]
      rfl
    · intro j notOut notInn
      simp only [modSeat, modThr_threads, tabFind_tabMod, if_neg notOut, others j notOut notInn]

end Sys2Proof.Laws
end

section

/-! ## Launches by a device (08_scalar_stream.md; O18)

The hub's reads and writes change nothing beside memory, so a submission leaves the waiting thread as it was until its status comes,
and lists nothing but the launch it makes. -/

namespace Sys2Proof.Machine

open Sys2Proof

/-- In a sorted table a change of the entry found is a put. -/
theorem tabMod_eq_tabPut {α : Type} {t : Tab α} {k : Nat} {v : α} (sorted : tabSorted t = true) (found : tabFind t k = some v)
    (f : α → α) : tabMod t k f = tabPut t k (f v) := by
  induction t with
  | nil => cases found
  | cons p t ih =>
    obtain ⟨k', v'⟩ := p
    obtain ⟨above, sorted⟩ := (tabSorted_cons k' v' t).1 sorted
    simp only [tabFind] at found
    by_cases here : k' = k
    · subst here
      obtain rfl : v' = v := by simpa using found
      have rest : tabMod t k' f = t := (List.map_congr_left fun p mem => if_neg (above p mem).ne').trans (List.map_id t)
      simp only [tabMod, tabPut, List.map_cons, if_true, Nat.lt_irrefl, if_false] at rest ⊢
      rw [rest]
    · rw [if_neg here] at found
      obtain ⟨p, mem, key⟩ : ∃ p ∈ t, p.1 = k := ⟨(k, v), mem_of_tabFind found, rfl⟩
      have later : ¬ k < k' := Nat.lt_asymm (key ▸ above p mem)
      simp only [tabPut, if_neg later, if_neg here, ← ih sorted found, tabMod, List.map_cons]

/-! ### The hub's accesses leave what is not memory alone -/

theorem launches_of_besideMemory {s s' : State} (same : besideMemory s' = besideMemory s) : s'.launches = s.launches :=
  show (besideMemory s').launches = (besideMemory s).launches from congrArg State.launches same

theorem besideMemory_hubReady (s : State) (line : Nat) : besideMemory (hubReady s line) = besideMemory s :=
  (besideMemory_combine _ _).trans (besideMemory_recallHome _ _)

theorem besideMemory_hubWrite (s : State) (pa n v : Nat) : besideMemory (hubWrite s pa n v) = besideMemory s :=
  (besideMemory_hubPutAs _ _ _ _ _ _).trans (besideMemory_hubReady _ _)

theorem besideMemory_hubWriteWords (s : State) (pa : Nat) (ws : List Word) :
    besideMemory (hubWriteWords s pa ws) = besideMemory s := by
  induction ws generalizing s pa with
  | nil => rfl
  | cons w ws ih => exact (ih _ _).trans (besideMemory_hubWrite s pa 8 w.toNat)

theorem besideMemory_hubTouch (s : State) (c va n : Nat) : besideMemory (hubTouch s c va n) = besideMemory s :=
  ite_keeps besideMemory rfl (foldl_keeps besideMemory (fun _ _ => besideMemory_setAD _ _ _ _) _ _)

theorem besideMemory_hubAcquire (s : State) (c va n : Nat) : besideMemory (hubAcquire s c va n) = besideMemory s :=
  (foldl_keeps besideMemory (fun _ _ => (besideMemory_commitRead _ _).trans (besideMemory_hubReady _ _)) _ _).trans
    (besideMemory_hubTouch s c va n)

theorem besideMemory_acquireTables (s : State) (c : Nat) (r : LaunchRec) : besideMemory (acquireTables s c r) = besideMemory s :=
  (besideMemory_hubAcquire _ _ _ _).trans (besideMemory_hubAcquire _ _ _ _)

/-! ### Submission (R337, R342) -/

/-- The state in which a submission's record and its tables have been read. -/
def recordRead (s : State) (c : Nat) (rec : Word) : State :=
  let read := hubAcquire s c rec.toNat 256
  acquireTables read c (parseRec (hubReadVa read c rec.toNat 256))

/-- The record of a submission. -/
def recordWords (s : State) (c : Nat) (rec : Word) : List Byte := hubReadVa (hubAcquire s c rec.toNat 256) c rec.toNat 256

theorem threads_recordRead (s : State) (c : Nat) (rec : Word) : (recordRead s c rec).threads = s.threads :=
  threads_of_besideMemory ((besideMemory_acquireTables _ _ _).trans (besideMemory_hubAcquire _ _ _ _))

section Submit

variable {s : State} {c q : Nat} {rec : Word}

theorem submit_closed (closed : ¬ (qDev s c q = true ∧ qEn s c q = true)) : submit s c q rec = (s, 3) :=
  if_pos (by simpa [imp_iff_not_or] using closed)

variable (isOpen : qDev s c q = true ∧ qEn s c q = true)
include isOpen

theorem submit_full (full : qFull s c q = true) : submit s c q rec = (s, 1) := by
  simp [submit, isOpen, full]

variable (room : qFull s c q = false)
include room

theorem submit_unreadable (unread : rangeOk s c rec.toNat 256 false = false) : submit s c q rec = (s, 2) := by
  simp [submit, isOpen, room, unread]

variable (readable : rangeOk s c rec.toNat 256 false = true)
include readable

theorem submit_fails (fails : launchFails (recordRead s c rec) c (recordWords s c rec) ≠ 0) :
    submit s c q rec = (recordRead s c rec, 2) := by
  unfold recordRead recordWords at *
  simp [submit, isOpen, room, readable, fails]

/-- A submission that passes its checks answers 0; the launch is listed and the threads are as they were. -/
theorem submit_launches (passes : launchFails (recordRead s c rec) c (recordWords s c rec) = 0) :
    (submit s c q rec).2 = 0 ∧ (submit s c q rec).1.threads = s.threads ∧
    tabFind (submit s c q rec).1.launches (recordRead s c rec).nextId =
      some (newLaunch (recordRead s c rec) c (recordWords s c rec) (some (q, qTail (recordRead s c rec) c q))) := by
  have same := threads_recordRead s c rec
  unfold recordRead recordWords at *
  simp only [submit, isOpen, room, readable, passes, Bool.not_true, Bool.or_self, Bool.false_eq_true, if_false, ne_eq, not_true]
  have written (s1 : State) (pa pb n v : Nat) (ws : List Word) :
      besideMemory (hubWrite (hubWriteWords s1 pa ws) pb n v) = besideMemory s1 :=
    (besideMemory_hubWrite _ _ _ _).trans (besideMemory_hubWriteWords _ _ _)
  refine ⟨trivial, (threads_of_besideMemory (written ..)).trans same, ?_⟩
  rw [modCtx_launches, launches_of_besideMemory (written ..)]
  exact tabFind_tabPut_self _ _ _

end Submit

/-! ### `dlaunch` and its status (R119, R223) -/

/-- A thread with the status of its launch, past the instruction. -/
def withStatus (t : Thread) (d : SReg) (k : Nat) : Thread :=
  { foldRelease (setS t d (.u (BitVec.ofNat 64 k))) 3 with wait := .none, pc := t.pc + 4 }

theorem withStatus_eq (t : Thread) (d : SReg) (k : Nat) :
    advance { foldRelease (setS t d (.u (BitVec.ofNat 64 k))) 3 with wait := .none } 4 = withStatus t d k := by
  simp [withStatus, advance, foldRelease]

theorem exec_dlaunch_issues {s : State} {t : Thread} {d a b : SReg} {rec q : Word} (acts : Acts s t) (outside : inRegion t = false)
    (dst : d ≠ 0) (record : getS t a = .u rec) (queue : getS t b = .u q) (one : threadCount t ≤ 1) (aligned : rec.toNat % 256 = 0) :
    exec (.dlaunch d a b) s = if q.toNat < 64 then .next (putThr s s.cur { t with wait := .dlaunch d rec q })
      else .next (afterS s t d 4 (.u 3)) := by
  have range : q.toNat / 64 ≠ 0 ↔ ¬ q.toNat < 64 := by omega
  rw [exec_dlaunch, execDlaunch, scalarOutside_run _ acts ((illSub_dlaunch d a b).trans (zeroDst_of_ne dst)) outside]
  simp only [record, queue, needU, one.not_gt, aligned, ne_eq, not_true, if_false, range, ite_not]
  rfl

section Status

variable {s : State} {id : Nat} {t : Thread} {d : SReg} {rec q : Word} (waits : Waits s id t) (stalled : t.wait = .dlaunch d rec q)
  (quiet : Quiet s id t 3) (table : backed s (qAddr s t.ctx q.toNat) = true) (free : submitWaits s t.ctx q.toNat rec = false)
include waits stalled quiet table free

theorem exec_dlaunchStatus_submits : exec (.dlaunchStatus id) s =
    .next (modThr (submit s t.ctx q.toNat rec).1 id fun t1 => withStatus t1 d (submit s t.ctx q.toNat rec).2) := by
  have passes := passes_of_quiet quiet
  rw [exec_dlaunchStatus, execDlaunchStatus, onThr_waits waits]
  simp only [stalled, waits.2.2, Option.isNone_none, released_of_passes passes quiet.2, acquired_of_passes passes, free,
    Bool.not_false, Bool.and_self, if_true, needBacked, table, withStatus_eq]

/-- The status comes to the thread as it waits, in the state the submission leaves, where that has the threads as they were. -/
theorem exec_dlaunchStatus_status (sorted : tabSorted s.threads = true) {s1 : State} {k : Nat}
    (submitted : submit s t.ctx q.toNat rec = (s1, k)) (same : s1.threads = s.threads) :
    exec (.dlaunchStatus id) s = .next (putThr s1 id (withStatus t d k)) := by
  rw [exec_dlaunchStatus_submits waits stalled quiet table free, submitted, modThr,
    tabMod_eq_tabPut (same ▸ sorted) (same ▸ waits.1), putThr]

end Status

end Sys2Proof.Machine

namespace Sys2Proof.Laws

open Sys2Proof Sys2Proof.Machine

/-- Settles O18: what the submission answers in each case (`submit_closed`, `submit_full`, `submit_unreadable`, `submit_fails`,
`submit_launches`) comes to the thread, which no access of the hub has changed. -/
theorem deviceLaunch : Obligations.DeviceLaunch := by
  unfold Obligations.DeviceLaunch
  refine ⟨?issue, ?status⟩
  case issue =>
    intro s t d a b rec q acts outside dst record queue one aligned
    have issues := exec_dlaunch_issues acts outside dst record queue one aligned
    exact ⟨fun inRange => issues.trans (if_pos inRange), fun beyond => issues.trans (if_neg (by omega))⟩
  case status =>
    intro s id t d rec q waits stalled quiet dst table free
    refine ⟨fun sorted => ?failed, fun isOpen room readable passes => ?made⟩
    case failed =>
      have status {s1 : State} {k : Nat} := exec_dlaunchStatus_status (s1 := s1) (k := k) waits stalled quiet table free sorted
      refine ⟨fun closed => ?_, fun isOpen full => ?_, fun isOpen room unread => ?_, fun isOpen room readable fails => ?_⟩
      · exact status (submit_closed closed) rfl
      · exact status (submit_full isOpen full) rfl
      · exact status (submit_unreadable isOpen room unread) rfl
      · exact status (submit_fails isOpen room readable fails) (threads_recordRead s t.ctx rec)
    case made =>
      obtain ⟨zero, threads, launched⟩ := submit_launches isOpen room readable passes
      refine ⟨_, withStatus t d 0, exec_dlaunchStatus_submits waits stalled quiet table free, ?_, getS_setS_self t dst _, rfl, rfl, launched⟩
      rw [modThr_threads, tabFind_tabMod, if_pos rfl, threads, waits.1, zero]; rfl

end Sys2Proof.Laws

end

section

/-! ## Lane instructions that run (09_lane_compute.md; O38 to O42)

Where nothing stops an instruction, `laneInstr` gives its effect in the environment that `LaneRuns` describes (`laneInstr_runs`), and
its operands fit their positions (`srcA_lt`, `srcB_lt`). -/

namespace Sys2Proof

/-! ### Defects that a sound instruction does not have (R187) -/

theorem leastDefect_eq_none {l : List (Option Nat)} : leastDefect l = none ↔ ∀ d ∈ l, d = none := by
  induction l with
  | nil => simp [leastDefect]
  | cons d l ih =>
    cases d with
    | none => simp [leastDefect, ih]
    | some a =>
      cases rest : leastDefect l <;> simp [leastDefect, rest]

theorem defect_eq_none {b : Bool} {sub : Nat} : defect b sub = none ↔ b = false := by
  cases b <;> simp [defect]

/-! ### Bits of a number -/

theorem lt_of_laneIn {m : W32} {L : Nat} (lane : laneIn m L = true) : L < 32 := BitVec.lt_of_getLsbD lane

theorem bitsAt_zero (x n : Nat) : bitsAt x 0 n = x % 2 ^ n := by rw [bitsAt, Nat.pow_zero, Nat.div_one]

/-- The low bits of a number read signed are those of a bit vector. -/
theorem sext_eq_toInt {n : Nat} (positive : 0 < n) (x : Nat) : sext n x = (BitVec.ofNat n x).toInt := by
  have double : 2 ^ n = 2 * 2 ^ (n - 1) := by rw [← Nat.pow_succ', Nat.succ_eq_add_one, Nat.sub_add_cancel positive]
  rw [sext, BitVec.toInt_eq_toNat_cond, BitVec.toNat_ofNat]
  refine if_congr ?_ rfl rfl
  omega

end Sys2Proof

namespace Sys2Proof.Machine

open Sys2Proof

/-! ### Widths (R142) -/

theorem regBits_cases (ty : Nat) : regBits ty = 32 ∨ regBits ty = 64 := by
  unfold regBits
  split <;> simp

theorem rb_cases (e : LaneEnv) : e.rb = 32 ∨ e.rb = 64 := regBits_cases e.ty

theorem two_pow_32_le_rb (e : LaneEnv) : 2 ^ 32 ≤ 2 ^ e.rb :=
  Nat.pow_le_pow_right (by decide) (by rcases rb_cases e with w | w <;> omega)

/-! ### Operands fit their positions (R171, R175 to R177) -/

theorem readReg_lt (s : State) (st : Seat) (r L : Nat) {w : Nat} (width : w = 32 ∨ w = 64) : readReg s st r w L < 2 ^ w := by
  have low := (readV s st r L).isLt
  have high := (readV s st (r + 1) L).isLt
  rcases width with rfl | rfl
  · simpa [readReg] using low
  · simp only [readReg, if_true]
    omega

theorem word_of_width_lt (v : Word) {w : Nat} (width : w = 32 ∨ w = 64) :
    (if w = 64 then v.toNat else v.toNat % 2 ^ 32) < 2 ^ w := by
  rcases width with rfl | rfl
  · exact Nat.mod_lt _ (by decide)
  · exact v.isLt

theorem readSrc_lt (e : LaneEnv) (fld : BitVec 10) {w L : Nat} (width : w = 32 ∨ w = 64) (inRow : L < 32) :
    readSrc e fld w L < 2 ^ w := by
  have wide : 2 ^ 32 ≤ 2 ^ w := Nat.pow_le_pow_right (by decide) (by omega)
  unfold readSrc
  dsimp only
  split
  · exact word_of_width_lt _ width
  split
  · exact readReg_lt _ _ _ _ width
  split
  · exact Nat.two_pow_pos w
  split
  · exact (inRow.trans (by decide)).trans_le wide
  split
  · exact (Nat.mod_lt _ (by decide)).trans_le wide
  · exact word_of_width_lt _ width

theorem srcA_lt (e : LaneEnv) {L : Nat} (inRow : L < 32) : srcA e e.rb L < 2 ^ e.rb := readSrc_lt e _ (rb_cases e) inRow

/-- R176: with a bit type, IMM is zero-extended. -/
theorem srcB_lt (e : LaneEnv) {L : Nat} (inRow : L < 32) (bits : e.ty ∈ tyBit) : srcB e e.rb L < 2 ^ e.rb := by
  have imm : immVal e.f.ty.toNat e.f.imm = e.f.imm.toNat := by
    have ty : e.f.ty.toNat = 0 ∨ e.f.ty.toNat = 15 := by simpa [tyBit, LaneEnv.ty] using bits
    rcases ty with ty | ty <;> simp [immVal, tyBits, ty]
  rw [srcB, imm]
  split
  · exact e.f.imm.isLt.trans_le (two_pow_32_le_rb e)
  · exact readSrc_lt e _ (rb_cases e) inRow

/-! ### Issue (R172 to R174, R179) -/

section Runs

variable {i : Instr} {s : State} {e : LaneEnv} (runs : LaneRuns i s e)
include runs

theorem fields_of_runs {sh : LaneShape} {m : Bool} {f : LaneFields} (lane : laneShape i = some (sh, m, f)) : e.f = f := by
  obtain ⟨_, _, shape, _⟩ := runs.fields
  simpa using congrArg (fun x => x.map (·.2.2)) (shape.symm.trans lane)

/-- The type is one that the instruction accepts (R191), and its modifiers are free of defects. -/
theorem sound_of_runs {sh : LaneShape} {m : Bool} {f : LaneFields} (lane : laneShape i = some (sh, m, f)) :
    e.ty ∈ sh.tys ∧ ∀ d ∈ sh.extra, d = none := by
  have sound := runs.sound
  rw [WellFormed, illSub, lane] at sound
  have every := leastDefect_eq_none.1 sound
  refine ⟨?_, fun d mem => every d (List.mem_append_right _ mem)⟩
  have listed := defect_eq_none.1 (every _ (List.mem_append_left _ List.mem_cons_self))
  rw [LaneEnv.ty, fields_of_runs runs lane]
  simpa using listed

theorem laneEnv_of_runs {sh : LaneShape} {m : Bool} (lane : laneShape i = some (sh, m, e.f)) :
    laneEnv s e.t e.st e.b sh e.f = e := by
  obtain ⟨_, same, _, _, _, _, lanes, long⟩ := runs
  subst same
  simp only [readClears, lane] at long
  cases e
  simp only [laneEnv, LaneEnv.mk.injEq, true_and]
  simp only at lanes long
  exact ⟨lanes.symm, lanes ▸ long.symm⟩

theorem laneInstr_runs (k : LaneEnv → Out) : laneInstr i s k = k e := by
  obtain ⟨⟨acts, seat⟩, _, ⟨rest, blocks⟩, ⟨sh, m, lane, near, within, inside⟩, sound, goesOn, lanes, _⟩ := id runs
  have legal : laneIll i s e.t e.b sh e.f = none := laneIll_none sound near goesOn
  rw [lanes] at within inside
  have windows : (indexUses sh e.f).find? (fun u =>
      let bad := maskOf fun L => laneIn (execMask e.st e.b e.f) L && (indexUses sh e.f).any fun u => indexBad s e.t e.st u.1 u.2 L
      laneIn bad ((lanesOf bad).headD 0) && indexBad s e.t e.st u.1 u.2 ((lanesOf bad).headD 0)) = none := by
    rw [List.find?_eq_none]
    intro u mem
    dsimp only
    generalize (lanesOf (maskOf _)).headD 0 = L
    rw [Bool.and_eq_true, not_and, Bool.not_eq_true]
    intro bad
    have inRow : L < 32 := lt_of_laneIn bad
    rw [laneIn_maskOf _ inRow, Bool.and_eq_true] at bad
    exact inside u mem L (mem_lanesOf.2 ⟨inRow, bad.1⟩)
  simp only [laneInstr, show tabFind s.threads s.cur = some e.t from acts, lane, seat, blocks, legal, within, Bool.false_eq_true,
    if_false, windows, laneEnv_of_runs runs lane]

end Runs

end Sys2Proof.Machine
end

section

/-! ## Integer lane instructions (09_lane_compute.md; O38)

A value of a type is the one number of its range that agrees with the bits modulo 2 to the width (`rdInt_range`, `rdInt_emod`,
`eq_of_range_of_emod`); what wrapping does follows from that. -/

namespace Sys2Proof.Machine

open Sys2Proof

/-! ### Numbers of a type (R143, R144) -/

theorem tyBits_pos (ty : Nat) : 0 < tyBits ty := by
  unfold tyBits
  split_ifs <;> decide

theorem tyBits_le_regBits (ty : Nat) : tyBits ty ≤ regBits ty := by
  unfold regBits
  split
  next pair => exact pair.le
  next single =>
    unfold tyBits at *
    split_ifs at * <;> simp_all

/-- The least number of a type. -/
def tyMin (ty : Nat) : Int := intMin (tyBits ty) (isSignedTy ty)

/-- The greatest number of a type. -/
def tyMax (ty : Nat) : Int := intMax (tyBits ty) (isSignedTy ty)

theorem tyMin_eq (ty : Nat) : tyMin ty = if isSignedTy ty then -2 ^ (tyBits ty - 1) else 0 := by
  simp [tyMin, intMin]

theorem tyMax_eq (ty : Nat) : tyMax ty = if isSignedTy ty then 2 ^ (tyBits ty - 1) - 1 else 2 ^ tyBits ty - 1 := by
  simp [tyMax, intMax]

theorem two_pow_tyBits (ty : Nat) : (2 : Int) ^ tyBits ty = 2 * 2 ^ (tyBits ty - 1) := by
  rw [← Int.pow_succ', Nat.sub_add_cancel (tyBits_pos ty)]

theorem rdInt_emod (ty x : Nat) : rdInt ty x % 2 ^ tyBits ty = (x : Int) % 2 ^ tyBits ty := by
  unfold rdInt sext
  split
  · split
    · push_cast
      exact Int.emod_emod_of_dvd _ dvd_rfl
    · push_cast
      rw [Int.sub_emod_right]
      exact Int.emod_emod_of_dvd _ dvd_rfl
  · push_cast
    exact Int.emod_emod_of_dvd _ dvd_rfl

theorem rdInt_range (ty x : Nat) : tyMin ty ≤ rdInt ty x ∧ rdInt ty x ≤ tyMax ty := by
  have double := two_pow_tyBits ty
  have low : (0 : Int) ≤ (x : Int) % 2 ^ tyBits ty := Int.emod_nonneg _ (by positivity)
  have high : (x : Int) % 2 ^ tyBits ty < 2 ^ tyBits ty := Int.emod_lt_of_pos _ (by positivity)
  rw [tyMin_eq, tyMax_eq]
  unfold rdInt sext
  zify
  generalize (x : Int) % 2 ^ tyBits ty = r at *
  split
  · split <;> omega
  · omega

/-- A type has no two numbers that agree modulo 2 to its width. -/
theorem eq_of_range_of_emod {ty : Nat} {a b : Int} (ha : tyMin ty ≤ a ∧ a ≤ tyMax ty) (hb : tyMin ty ≤ b ∧ b ≤ tyMax ty)
    (same : a % 2 ^ tyBits ty = b % 2 ^ tyBits ty) : a = b := by
  have double := two_pow_tyBits ty
  have span : tyMax ty - tyMin ty = 2 ^ tyBits ty - 1 := by
    rw [tyMin_eq, tyMax_eq]
    split <;> omega
  obtain ⟨k, apart⟩ : (2 : Int) ^ tyBits ty ∣ a - b := Int.dvd_of_emod_eq_zero (Int.emod_eq_emod_iff_emod_sub_eq_zero.1 same)
  have close : |a - b| < 2 ^ tyBits ty := abs_lt.2 (by omega)
  have : a - b = 0 := Int.eq_zero_of_abs_lt_dvd ⟨k, apart⟩ close
  omega

theorem lowBits_cast (n : Nat) (v : Int) : (lowBits n v : Int) = v % 2 ^ n := by
  rw [lowBits, BitVec.toNat_ofInt, Int.toNat_of_nonneg (Int.emod_nonneg _ (by positivity))]
  push_cast
  rfl

theorem wrInt_lt (ty : Nat) (v : Int) : wrInt ty v < 2 ^ regBits ty := (BitVec.ofInt _ _).isLt

theorem wrInt_emod (ty : Nat) (v : Int) : (wrInt ty v : Int) % 2 ^ tyBits ty = v % 2 ^ tyBits ty := by
  have narrow : (2 : Int) ^ tyBits ty ∣ 2 ^ regBits ty := pow_dvd_pow 2 (tyBits_le_regBits ty)
  rw [wrInt, lowBits_cast, Int.emod_emod_of_dvd _ narrow, rdInt_emod, lowBits_cast, Int.emod_emod_of_dvd _ dvd_rfl]

/-- Reading back a wrapped number gives the number of the type that it agrees with. -/
theorem rdInt_wrInt {ty : Nat} {v w : Int} (inRange : tyMin ty ≤ w ∧ w ≤ tyMax ty)
    (same : v % 2 ^ tyBits ty = w % 2 ^ tyBits ty) :
    rdInt ty (wrInt ty v) = w :=
  eq_of_range_of_emod (rdInt_range ty _) inRange (by rw [rdInt_emod, wrInt_emod, same])

theorem rdInt_eq_of_emod {ty x y : Nat} (same : (x : Int) % 2 ^ tyBits ty = (y : Int) % 2 ^ tyBits ty) : rdInt ty x = rdInt ty y :=
  eq_of_range_of_emod (rdInt_range ty x) (rdInt_range ty y) (by rw [rdInt_emod, rdInt_emod, same])

/-- A number of the type is written as its two's complement in the whole register or pair. -/
theorem wrInt_cast_of_range {ty : Nat} {v : Int} (low : tyMin ty ≤ v) (high : v ≤ tyMax ty) :
    (wrInt ty v : Int) = if v < 0 then v + 2 ^ regBits ty else v := by
  have kept : rdInt ty (lowBits (tyBits ty) v) = v :=
    eq_of_range_of_emod (rdInt_range ty _) ⟨low, high⟩ (by rw [rdInt_emod, lowBits_cast, Int.emod_emod_of_dvd _ dvd_rfl])
  have double := two_pow_tyBits ty
  have half : (0 : Int) < 2 ^ (tyBits ty - 1) := by positivity
  have narrow : (2 : Int) ^ tyBits ty ≤ 2 ^ regBits ty := pow_le_pow_right₀ (by decide) (tyBits_le_regBits ty)
  rw [tyMin_eq] at low
  rw [tyMax_eq] at high
  rw [wrInt, kept, lowBits_cast]
  split
  next neg =>
    rw [← Int.add_emod_right, Int.emod_eq_of_lt] <;> split at low <;> omega
  next pos => exact Int.emod_eq_of_lt (by omega) (by split at high <;> omega)

/-! ### The fitted result (R144) -/

theorem fitInt_of_range (f : LaneFields) {ty : Nat} {v : Int} (low : tyMin ty ≤ v) (high : v ≤ tyMax ty) :
    fitInt f ty v = (wrInt ty v, 0) := by
  unfold tyMin tyMax at *
  simp [fitInt, low, high, low.not_gt, high.not_gt, flagIf]

theorem fitInt_flag_of_outside (f : LaneFields) {ty : Nat} {v : Int} (outside : v < tyMin ty ∨ tyMax ty < v) :
    (fitInt f ty v).2 = if f.fam.getLsbD 0 then 0x20 else 0 := by
  have misses : (decide (tyMin ty ≤ v) && decide (v ≤ tyMax ty)) = false := by
    simpa [imp_iff_not_or] using outside
  unfold tyMin tyMax at misses
  simp [fitInt, misses, flagIf, fIOV]

theorem fitInt_sat_low {f : LaneFields} {ty : Nat} {v : Int} (sat : f.rnd.getLsbD 1 = true) (below : v < tyMin ty) :
    (fitInt f ty v).1 = wrInt ty (tyMin ty) := by
  unfold tyMin at *
  simp [fitInt, sat, below]

theorem fitInt_sat_high {f : LaneFields} {ty : Nat} {v : Int} (sat : f.rnd.getLsbD 1 = true) (above : tyMax ty < v) :
    (fitInt f ty v).1 = wrInt ty (tyMax ty) := by
  have least : tyMin ty ≤ tyMax ty := (rdInt_range ty 0).1.trans (rdInt_range ty 0).2
  have notBelow : ¬ v < tyMin ty := by omega
  unfold tyMin tyMax at *
  simp [fitInt, sat, notBelow, above]

theorem fitInt_wraps {f : LaneFields} (plain : f.rnd.getLsbD 1 = false) (ty : Nat) (v : Int) :
    (fitInt f ty v).1 = wrInt ty v := by
  simp only [fitInt, plain, Bool.false_eq_true, if_false]

/-! ### The instructions (R228, R231) -/

theorem intExact_runs {i : Instr} {s : State} {e : LaneEnv} (runs : LaneRuns i s e) (g : Int → Int → Int → Nat → Int) :
    intExact i s g = .next (afterEach i e e.rb fun L => fitInt e.f e.ty
      (g (rdInt e.ty (srcA e e.rb L)) (rdInt e.ty (srcB e e.rb L)) (rdInt e.ty (srcC e e.rb L)) (tyBits e.ty))) :=
  laneInstr_runs runs _

theorem laneIntTable_rows (f : LaneFields) : ∀ p ∈ laneIntTable, (∃ sh, laneShape (p.1 f) = some (sh, false, f)) ∧
    ∀ s, exec (p.1 f) s = intExact (p.1 f) s fun a b c w => p.2 w a b c := by
  simp only [laneIntTable, List.forall_mem_cons, List.not_mem_nil, false_implies, implies_true, and_true]
  refine ⟨?_, ?_, ?_, ?_, ?_, ⟨⟨_, rfl⟩, fun s => ?abs⟩, ?_, ?_, ?_⟩
  case abs =>
    simp only [Int.abs_eq_natAbs]
    rfl
  all_goals exact ⟨⟨_, rfl⟩, fun _ => rfl⟩

theorem exec_dot4_runs {f : LaneFields} {s : State} {e : LaneEnv} (runs : LaneRuns (.dot4 f) s e) :
    exec (.dot4 f) s = .next (afterEach (.dot4 f) e 32 fun L => fitInt f e.ty
      (rdInt e.ty (srcC e 32 L) + ((List.range 4).map fun k =>
        byteOf (isSignedTy e.ty) (srcA e 32 L) k * byteOf (isSignedTy e.ty) (srcB e 32 L) k).sum)) := by
  rw [exec_dot4, execDot4, laneInstr_runs runs]
  simp only [List.range, List.range.loop, List.map_cons, List.map_nil, List.sum_cons, List.sum_nil, Int.add_zero, ← Int.add_assoc]
  rfl

end Sys2Proof.Machine

namespace Sys2Proof.Laws

open Sys2Proof Sys2Proof.Machine

/-- Settles O38: the table's rows are `intExact` of their exact results (`laneIntTable_rows`), and what the fitted result is in and
outside the type's range follows from `rdInt_wrInt`. -/
theorem laneIntegerResults : Obligations.LaneIntegerResults := by
  refine ⟨fun s f e p row runs => ?exact, fun s f e runs => exec_dot4_runs runs, fun f ty v _ => ?fit⟩
  case exact =>
    obtain ⟨⟨sh, lane⟩, meaning⟩ := laneIntTable_rows f p row
    rw [meaning, intExact_runs runs, fields_of_runs runs lane]
  case fit =>
    rw [← tyMin_eq, ← tyMax_eq]
    exact ⟨fitInt_of_range f, fitInt_flag_of_outside f, fun below sat => fitInt_sat_low sat below,
      fun above sat => fitInt_sat_high sat above, fun plain => fitInt_wraps plain ty v,
      fun k => rdInt_wrInt (rdInt_range ty _) (by rw [rdInt_emod, wrInt_emod, Int.add_mul_emod_self_right]),
      fun low high => ⟨rdInt_wrInt ⟨low, high⟩ rfl, wrInt_cast_of_range low high⟩⟩

end Sys2Proof.Laws

end

section

/-! ## Bit, shift and field lane instructions (09_lane_compute.md; O39)

The model computes on numbers, the statement on bit vectors: each operation is compared once, at every width, and `bit_result` and
`shift_result` carry that to the executing lanes. -/

namespace Sys2Proof.Machine

open Sys2Proof

/-! ### Operations on bits (R228) -/

theorem and_complement_mod {w b : Nat} (fits : b < 2 ^ w) (a : Nat) :
    (a &&& (2 ^ w - 1 - b)) % 2 ^ w = (BitVec.ofNat w a &&& ~~~BitVec.ofNat w b).toNat := by
  rw [BitVec.toNat_and, BitVec.toNat_not, BitVec.toNat_ofNat, BitVec.toNat_ofNat, Nat.mod_eq_of_lt fits, Nat.and_mod_two_pow,
    Nat.mod_eq_of_lt (a := 2 ^ w - 1 - b) (by have := Nat.two_pow_pos w; omega)]

theorem complement_mod {w a : Nat} (fits : a < 2 ^ w) : (2 ^ w - 1 - a) % 2 ^ w = (~~~BitVec.ofNat w a).toNat := by
  rw [BitVec.toNat_not, BitVec.toNat_ofNat, Nat.mod_eq_of_lt fits, Nat.mod_eq_of_lt (by have := Nat.two_pow_pos w; omega)]

theorem clzN_mod {w a : Nat} (fits : a < 2 ^ w) : clzN w a % 2 ^ w =
    (BitVec.ofNat w (if BitVec.ofNat w a = 0 then w else w - 1 - Nat.log2 (BitVec.ofNat w a).toNat)).toNat := by
  have zero : BitVec.ofNat w a = 0 ↔ a = 0 := by simp [← BitVec.toNat_inj, Nat.mod_eq_of_lt fits]
  simp only [clzN, zero, BitVec.toNat_ofNat, Nat.mod_eq_of_lt fits]

theorem popN_mod (w a : Nat) : popN w a % 2 ^ w =
    (BitVec.ofNat w ((List.range w).filter fun k => (BitVec.ofNat w a).getLsbD k).length).toNat := by
  have bits : ∀ k ∈ List.range w, (BitVec.ofNat w a).getLsbD k = a.testBit k := fun k mem => by
    rw [BitVec.getLsbD_ofNat, decide_eq_true (List.mem_range.1 mem), Bool.true_and]
  rw [BitVec.toNat_ofNat, popN, List.filter_congr bits]

theorem reverseBits_mod (w a : Nat) : reverseBits w a % 2 ^ w = (BitVec.ofNat w a).reverse.toNat := by
  obtain ⟨below, bits⟩ : reverseBits w a < 2 ^ w ∧
      ∀ k, (reverseBits w a).testBit k = (decide (k < w) && a.testBit (w - 1 - k)) :=
    testBit_maskSum (fun k => a.testBit (w - 1 - k)) w
  rw [Nat.mod_eq_of_lt below]
  refine Nat.eq_of_testBit_eq fun k => ?_
  rw [bits, BitVec.testBit_toNat, BitVec.getLsbD_reverse, BitVec.getMsbD_eq_getLsbD, BitVec.getLsbD_ofNat]
  by_cases inside : k < w
  · rw [decide_eq_true (show w - 1 - k < w by omega), Bool.true_and]
  · simp [inside]

/-! ### Shifts (R228) -/

theorem mul_two_pow_mod (w a n : Nat) : a * 2 ^ n % 2 ^ w = (BitVec.ofNat w a <<< n).toNat := by
  rw [BitVec.toNat_shiftLeft, BitVec.toNat_ofNat, Nat.shiftLeft_eq, Nat.mod_mul_mod]

theorem div_two_pow_mod {w a : Nat} (fits : a < 2 ^ w) (n : Nat) : a / 2 ^ n % 2 ^ w = (BitVec.ofNat w a >>> n).toNat := by
  rw [BitVec.toNat_ushiftRight, BitVec.toNat_ofNat, Nat.mod_eq_of_lt fits, Nat.shiftRight_eq_div_pow,
    Nat.mod_eq_of_lt ((Nat.div_le_self _ _).trans_lt fits)]

theorem lowBits_mod (w : Nat) (v : Int) : lowBits w v % 2 ^ w = (BitVec.ofInt w v).toNat := Nat.mod_eq_of_lt (BitVec.isLt _)

theorem lowBits_sext_div_mod {w : Nat} (positive : 0 < w) (a n : Nat) :
    lowBits w (sext w a / 2 ^ n) % 2 ^ w = ((BitVec.ofNat w a).sshiftRight n).toNat := by
  rw [lowBits_mod, BitVec.sshiftRight, sext_eq_toInt positive, Int.shiftRight_eq_div_pow, Nat.cast_pow, Nat.cast_ofNat]

/-- The bits that leave a rotation at the top come in below those that stay. -/
theorem rotate_mod {w a n : Nat} (fits : a < 2 ^ w) (short : n < w) :
    (a * 2 ^ n + a / 2 ^ (w - n)) % 2 ^ w = ((BitVec.ofNat w a).rotateLeft n).toNat := by
  have split : 2 ^ w = 2 ^ n * 2 ^ (w - n) := by rw [← Nat.pow_add, Nat.add_sub_cancel' short.le]
  have enter : a / 2 ^ (w - n) < 2 ^ n := Nat.div_lt_of_lt_mul (by rwa [Nat.mul_comm, ← split])
  have stay : a * 2 ^ n % 2 ^ w = 2 ^ n * (a % 2 ^ (w - n)) := by rw [Nat.mul_comm, split, Nat.mul_mod_mul_left]
  have kept : a % 2 ^ (w - n) + 1 ≤ 2 ^ (w - n) := Nat.mod_lt _ (Nat.two_pow_pos _)
  have whole : 2 ^ n * (a % 2 ^ (w - n)) + a / 2 ^ (w - n) < 2 ^ w := by
    have := Nat.mul_le_mul_left (2 ^ n) kept
    rw [Nat.mul_succ, ← split] at this
    omega
  rw [BitVec.toNat_rotateLeft, BitVec.toNat_ofNat, Nat.mod_eq_of_lt fits, Nat.mod_eq_of_lt short, Nat.shiftLeft_eq,
    Nat.shiftRight_eq_div_pow, stay, ← Nat.two_pow_add_eq_or_of_lt enter, Nat.add_mod, stay,
    Nat.mod_eq_of_lt (enter.trans (Nat.pow_lt_pow_right (by decide) short)), Nat.mod_eq_of_lt whole]

/-! ### Fields (R229) -/

theorem bitsAt_eq_extract {w x : Nat} (fits : x < 2 ^ w) (lo n : Nat) :
    bitsAt x lo n = ((BitVec.ofNat w x).extractLsb' lo n).toNat := by
  rw [BitVec.extractLsb'_toNat, BitVec.toNat_ofNat, Nat.mod_eq_of_lt fits, Nat.shiftRight_eq_div_pow, bitsAt]

/-- The field that `bfx` reads, in the words of R229. -/
def bfxField (signed : Bool) (w a b : Nat) : Nat :=
  let pos := b % 256
  let len := b / 256 % 256
  let field := (BitVec.ofNat w a).extractLsb' pos (min (pos + len) w - pos)
  if len = 0 ∨ w ≤ pos then 0 else if signed then (field.signExtend w).toNat else field.toNat

theorem bfxN_mod (signed : Bool) {w a : Nat} (fits : a < 2 ^ w) (b : Nat) :
    bfxN signed w a b % 2 ^ w = bfxField signed w a b := by
  unfold bfxN bfxField fieldPos
  dsimp only
  split
  · exact Nat.zero_mod _
  next field =>
    have width : 0 < min (b % 256 + b / 256 % 256) w - b % 256 := by omega
    have within : min (b % 256 + b / 256 % 256) w - b % 256 ≤ w := by omega
    generalize min (b % 256 + b / 256 % 256) w - b % 256 = n at *
    rw [bitsAt_eq_extract fits]
    split
    · rw [lowBits_mod, sext_eq_toInt width, BitVec.ofNat_toNat, BitVec.setWidth_eq, BitVec.signExtend]
    · exact Nat.mod_eq_of_lt ((BitVec.isLt _).trans_le (Nat.pow_le_pow_right (by decide) within))

/-- A number put together from the bits of `c` below a place, `n` bits of `a` at it, and the bits of `c` above those. -/
theorem testBit_insert (a c pos n k : Nat) :
    (c % 2 ^ pos + bitsAt a 0 n * 2 ^ pos + c / 2 ^ (pos + n) * 2 ^ (pos + n)).testBit k =
      if pos ≤ k ∧ k < pos + n then a.testBit (k - pos) else c.testBit k := by
  have below : c % 2 ^ pos < 2 ^ pos := Nat.mod_lt _ (Nat.two_pow_pos _)
  have inner : 2 ^ pos * (a % 2 ^ n) + c % 2 ^ pos < 2 ^ (pos + n) := by
    have := Nat.mul_le_mul_left (2 ^ pos) (Nat.mod_lt a (Nat.two_pow_pos n))
    rw [Nat.mul_succ] at this
    rw [Nat.pow_add]
    omega
  have order : c % 2 ^ pos + bitsAt a 0 n * 2 ^ pos + c / 2 ^ (pos + n) * 2 ^ (pos + n) =
      2 ^ (pos + n) * (c / 2 ^ (pos + n)) + (2 ^ pos * (a % 2 ^ n) + c % 2 ^ pos) := by
    rw [bitsAt_zero]
    ring
  rw [order, Nat.testBit_two_pow_mul_add _ inner, Nat.testBit_two_pow_mul_add _ below]
  simp only [Nat.testBit_mod_two_pow, Nat.testBit_div_two_pow]
  by_cases low : k < pos
  · simp [low, low.trans_le (Nat.le_add_right pos n), low.not_ge]
  · by_cases mid : k < pos + n
    · simp [low, mid, Nat.not_lt.1 low, Nat.sub_lt_left_of_lt_add (Nat.not_lt.1 low) mid]
    · simp [mid, Nat.sub_add_cancel (Nat.not_lt.1 mid)]

theorem testBit_bfiN {w k : Nat} (inside : k < w) (a b c : Nat) : (bfiN w a b c).testBit k =
    if b / 256 % 256 ≠ 0 ∧ b % 256 ≤ k ∧ k < min (b % 256 + b / 256 % 256) w then a.testBit (k - b % 256)
    else c.testBit k := by
  unfold bfiN fieldPos
  dsimp only
  split
  next empty => rw [if_neg (by omega)]
  next field =>
    have top : b % 256 + (min (b % 256 + b / 256 % 256) w - b % 256) = min (b % 256 + b / 256 % 256) w := by omega
    have inserted := testBit_insert a c (b % 256) (min (b % 256 + b / 256 % 256) w - b % 256) k
    rw [top] at inserted
    rw [inserted]
    exact if_congr (by omega) rfl rfl

/-! ### From the operations to the instructions -/

/-- Results that agree in the executing lanes leave the same state. -/
theorem afterResult_congr {i : Instr} {e : LaneEnv} {w : Nat} {r r' : Nat → Nat} (same : ∀ L ∈ lanesOf e.ex, r L = r' L)
    (fl : AFlags) : afterResult i e w r fl = afterResult i e w r' fl := by
  have latch : resultLatch e w r = resultLatch e w r' := by
    unfold resultLatch
    rw [List.map_congr_left fun L mem => by rw [same L mem]]
  have rows (st : Seat) (reg : Nat → Nat) : writeLanes st (lanesOf e.ex) reg w r = writeLanes st (lanesOf e.ex) reg w r' :=
    List.foldl_ext _ _ _ fun st L mem => by rw [same L mem]
  simp only [afterResult_eq, resultSeat, latch, rows]

section Results

variable {i : Instr} {s : State} {e : LaneEnv} (runs : LaneRuns i s e)
include runs

theorem bit_result {g : Nat → Nat → Nat → Nat} (meaning : exec i s = bitOp i s g) {v : Nat → BitVec e.rb}
    (value : ∀ L, L < 32 → g e.rb (srcA e e.rb L) (srcB e e.rb L) % 2 ^ e.rb = (v L).toNat) :
    exec i s = .next (afterResult i e e.rb (fun L => (v L).toNat) 0) := by
  rw [meaning, bitOp, laneInstr_runs runs]
  exact congrArg Host.Outcome.next (afterResult_congr (fun L mem => value L (mem_lanesOf.1 mem).1) 0)

theorem shift_result {g : LaneEnv → Nat → Nat → Nat} (meaning : exec i s = shiftOp i s g) {v : Nat → Nat}
    (value : ∀ L, L < 32 → g e (srcA e e.rb L) (srcB32 e L) % 2 ^ e.rb = v L) :
    exec i s = .next (afterResult i e e.rb v 0) := by
  rw [meaning, shiftOp, laneInstr_runs runs]
  exact congrArg Host.Outcome.next (afterResult_congr (fun L mem => value L (mem_lanesOf.1 mem).1) 0)

end Results

theorem laneBitTable_rows (f : LaneFields) : ∀ p ∈ laneBitTable,
    (∃ sh, laneShape (p.1 f) = some (sh, false, f) ∧ sh.tys = tyBit) ∧
    ∃ g, (∀ s, exec (p.1 f) s = bitOp (p.1 f) s g) ∧
      ∀ w a b, b < 2 ^ w → g w a b % 2 ^ w = (p.2 w (BitVec.ofNat w a) (BitVec.ofNat w b)).toNat := by
  simp only [laneBitTable, List.forall_mem_cons, List.not_mem_nil, false_implies, implies_true, and_true]
  refine ⟨⟨⟨_, rfl, rfl⟩, fun _ a b => a &&& b, fun _ => rfl, fun w a b _ => ?and⟩,
    ⟨⟨_, rfl, rfl⟩, fun _ a b => a ||| b, fun _ => rfl, fun w a b _ => ?or⟩,
    ⟨⟨_, rfl, rfl⟩, fun _ a b => a ^^^ b, fun _ => rfl, fun w a b _ => ?xor⟩,
    ⟨⟨_, rfl, rfl⟩, fun w a b => a &&& (2 ^ w - 1 - b), fun _ => rfl, fun w a b fits => and_complement_mod fits a⟩⟩
  case and => simp [Nat.and_mod_two_pow]
  case or => simp [Nat.or_mod_two_pow]
  case xor => simp [Nat.xor_mod_two_pow]

theorem laneBitOneTable_rows (f : LaneFields) : ∀ p ∈ laneBitOneTable, ∃ g, (∀ s, exec (p.1 f) s = bitOp (p.1 f) s g) ∧
    ∀ w a b, a < 2 ^ w → g w a b % 2 ^ w = (p.2 w (BitVec.ofNat w a)).toNat := by
  simp only [laneBitOneTable, List.forall_mem_cons, List.not_mem_nil, false_implies, implies_true, and_true]
  exact ⟨⟨fun w a _ => 2 ^ w - 1 - a, fun _ => rfl, fun _ _ _ fits => complement_mod fits⟩,
    ⟨fun w a _ => clzN w a, fun _ => rfl, fun _ _ _ fits => clzN_mod fits⟩,
    ⟨fun w a _ => popN w a, fun _ => rfl, fun w a _ _ => popN_mod w a⟩,
    ⟨fun w a _ => reverseBits w a, fun _ => rfl, fun w a _ _ => reverseBits_mod w a⟩⟩

theorem laneShiftTable_rows (f : LaneFields) : ∀ p ∈ laneShiftTable, ∃ g, (∀ s, exec (p.1 f) s = shiftOp (p.1 f) s g) ∧
    ∀ e a b, 0 < e.rb → a < 2 ^ e.rb → g e a b % 2 ^ e.rb = (p.2 e.rb (BitVec.ofNat e.rb a) (b % e.rb)).toNat := by
  simp only [laneShiftTable, List.forall_mem_cons, List.not_mem_nil, false_implies, implies_true, and_true]
  exact ⟨⟨fun e a b => a * 2 ^ (b % e.rb), fun _ => rfl, fun _ _ _ _ _ => mul_two_pow_mod ..⟩,
    ⟨fun e a b => a / 2 ^ (b % e.rb), fun _ => rfl, fun _ _ _ _ fits => div_two_pow_mod fits _⟩,
    ⟨fun e a b => lowBits e.rb (sext e.rb a / 2 ^ (b % e.rb)), fun _ => rfl,
      fun _ _ _ positive _ => lowBits_sext_div_mod positive _ _⟩,
    ⟨fun e a b => a * 2 ^ (b % e.rb) + a / 2 ^ (e.rb - b % e.rb), fun _ => rfl,
      fun _ _ _ positive fits => rotate_mod fits (Nat.mod_lt _ positive)⟩⟩

theorem laneCmpTable_rows (f : LaneFields) : ∀ p ∈ laneCmpTable, f.fam = p.1 → icmpOp (famOf f) = p.2 := by
  simp only [laneCmpTable, List.forall_mem_cons, List.not_mem_nil, false_implies, implies_true, and_true, famOf]
  refine ⟨?_, ?_, ?_, ?_, ?_, ?_⟩ <;>
  · intro fam
    rw [fam]
    rfl

theorem rb_pos (e : LaneEnv) : 0 < e.rb := by rcases rb_cases e with w | w <;> omega

end Sys2Proof.Machine

namespace Sys2Proof.Laws

open Sys2Proof Sys2Proof.Machine

/-- Settles O39: each row of the tables is a bit or shift operation with the row's value at every width (`laneBitTable_rows`,
`laneBitOneTable_rows`, `laneShiftTable_rows`); the fields are `bfxN_mod` and `testBit_bfiN`. -/
theorem laneBitResults : Obligations.LaneBitResults := by
  intro s f e a b n pos len top
  refine ⟨fun p row runs => ?two, fun p row runs => ?one, fun p row runs => ?shift, fun runs => ?bfx, fun runs => ?bfi,
    fun runs => ?sel, fun p row fam runs => ?icmp⟩
  case two =>
    obtain ⟨⟨sh, lane, tys⟩, g, meaning, value⟩ := laneBitTable_rows f p row
    exact bit_result runs (meaning s) fun L inRow => value _ _ _ (srcB_lt e inRow (tys ▸ (sound_of_runs runs lane).1))
  case one =>
    obtain ⟨g, meaning, value⟩ := laneBitOneTable_rows f p row
    exact bit_result runs (meaning s) fun L inRow => value _ _ _ (srcA_lt e inRow)
  case shift =>
    obtain ⟨g, meaning, value⟩ := laneShiftTable_rows f p row
    exact shift_result runs (meaning s) fun L inRow => value _ _ _ (rb_pos e) (srcA_lt e inRow)
  case bfx => exact shift_result (g := fun e => bfxN (isSignedTy e.ty) e.rb) runs rfl fun L inRow => bfxN_mod _ (srcA_lt e inRow) _
  case bfi =>
    rw [exec_bfi, execBfi, laneInstr_runs runs]
    exact ⟨_, rfl, fun L k inside => testBit_bfiN inside _ _ _⟩
  case sel =>
    rw [exec_sel, execSel, laneInstr_runs runs]
    rfl
  case icmp =>
    rw [← laneCmpTable_rows f p row fam, exec_icmp, execIcmp, laneInstr_runs runs]
    rfl

end Sys2Proof.Laws

end

section

/-! ## Float lane instructions (09_lane_compute.md; O40)

The instructions of the table compute with `perElem`; a NaN operand is read as a NaN (`isNaN_fread`), which each operation hands on
with its own signal alone. -/

namespace Sys2Proof

/-! ### Reading a NaN (R145, R146) -/

/-- The bits of a NaN: all ones in the exponent, and a fraction. -/
def nanBits (f : Fmt) (x : Nat) : Bool := decide (x / 2 ^ f.m % 2 ^ f.e = 2 ^ f.e - 1 ∧ x % 2 ^ f.m ≠ 0)

/-- The bits of a signalling NaN: the first bit of its fraction is 0. -/
def snanBits (f : Fmt) (x : Nat) : Bool := nanBits f x && x % 2 ^ f.m < 2 ^ (f.m - 1)

theorem fraction_pos : ∀ f ∈ [F16, BF16, F32, F64], 0 < f.m := by decide

theorem fread_of_nanBits {f : Fmt} (fraction : 0 < f.m) {x : Nat} (nan : nanBits f x = true) (ftz : Bool) :
    fread f ftz x = .nan (decide (x % 2 ^ f.m < 2 ^ (f.m - 1))) := by
  obtain ⟨ones, some⟩ := of_decide_eq_true nan
  have first : x / 2 ^ (f.m - 1) % 2 = 0 ↔ x % 2 ^ f.m < 2 ^ (f.m - 1) := by
    have width : 2 ^ f.m = 2 ^ (f.m - 1) * 2 := by rw [← Nat.pow_succ, Nat.succ_eq_add_one, Nat.sub_add_cancel fraction]
    have place := Nat.two_pow_pos (f.m - 1)
    have parts : x % 2 ^ f.m = x % 2 ^ (f.m - 1) + 2 ^ (f.m - 1) * (x / 2 ^ (f.m - 1) % 2) := by rw [width, Nat.mod_mul]
    have low := Nat.mod_lt x place
    rw [parts]
    rcases Nat.mod_two_eq_zero_or_one (x / 2 ^ (f.m - 1)) with b | b <;> rw [b] <;> omega
  simp [fread, fdecode, bitsAt, ones, some, first]

theorem isNaN_fread {f : Fmt} (fraction : 0 < f.m) (ftz : Bool) (x : Nat) : isNaN (fread f ftz x) = nanBits f x := by
  cases nan : nanBits f x with
  | true => rw [fread_of_nanBits fraction nan]; rfl
  | false =>
    have other := of_decide_eq_false nan
    rw [← bitsAt_zero x f.m] at other
    unfold fread fdecode
    dsimp only
    split_ifs with ones zero
    · rfl
    · exact absurd ⟨ones, zero⟩ other
    · dsimp only; split <;> rfl
    · dsimp only; split <;> rfl

theorem isSNaN_fread {f : Fmt} (fraction : 0 < f.m) (ftz : Bool) (x : Nat) : isSNaN (fread f ftz x) = snanBits f x := by
  cases nan : nanBits f x with
  | true => rw [fread_of_nanBits fraction nan, snanBits, nan]; rfl
  | false =>
    have other := isNaN_fread fraction ftz x
    rw [nan] at other
    rw [snanBits, nan]
    cases read : fread f ftz x <;> simp_all [isNaN, isSNaN]

/-- NV, when one of some operands is a signalling NaN. -/
def nvOf (f : Fmt) (l : List Nat) : AFlags := if l.any (snanBits f) then 1 else 0

theorem snanFlag_fread {f : Fmt} (fraction : 0 < f.m) (ftz : Bool) (l : List Nat) :
    snanFlag (l.map (fread f ftz)) = nvOf f l := by
  have signals : isSNaN ∘ fread f ftz = snanBits f := funext (isSNaN_fread fraction ftz)
  rw [snanFlag, nvOf, List.any_map, signals]
  rfl

/-! ### Operations on a NaN (R146, R233) -/

theorem finishOp_nan (f : Fmt) (mode : RMode) (ftz : Bool) (ops : List FVal) :
    finishOp f mode ftz ops (.nan false, 0) = (canonNaN f, snanFlag ops) := by
  simp [finishOp, roundVal]

theorem nan_cases {x y : FVal} (nan : (isNaN x || isNaN y) = true) : (∃ k, x = .nan k) ∨ ∃ k, y = .nan k := by
  cases x with
  | nan k => exact .inl ⟨k, rfl⟩
  | inf _ | fin _ _ _ =>
    cases y with
    | nan k => exact .inr ⟨k, rfl⟩
    | inf _ | fin _ _ _ => cases nan

theorem addExact_nan {x y : FVal} (nan : (isNaN x || isNaN y) = true) (mode : RMode) : addExact mode x y = (.nan false, 0) := by
  obtain ⟨k, rfl⟩ | ⟨k, rfl⟩ := nan_cases nan
  · rfl
  · cases x <;> rfl

theorem mulExact_nan {x y : FVal} (nan : (isNaN x || isNaN y) = true) : mulExact x y = (.nan false, 0) := by
  obtain ⟨k, rfl⟩ | ⟨k, rfl⟩ := nan_cases nan
  · rfl
  · cases x <;> rfl

theorem isNaN_negVal (x : FVal) : isNaN (negVal x) = isNaN x := by cases x <;> rfl

section Nan

variable {f : Fmt} (fraction : 0 < f.m) (mode : RMode) (ftz : Bool) {a b : Nat}
include fraction

theorem opAdd_nan (nan : (nanBits f a || nanBits f b) = true) : opAdd f mode ftz a b = (canonNaN f, nvOf f [a, b]) := by
  rw [← isNaN_fread fraction ftz, ← isNaN_fread fraction ftz] at nan
  rw [opAdd, addExact_nan nan, finishOp_nan]
  exact congrArg _ (snanFlag_fread fraction ftz [a, b])

theorem opSub_nan (nan : (nanBits f a || nanBits f b) = true) : opSub f mode ftz a b = (canonNaN f, nvOf f [a, b]) := by
  rw [← isNaN_fread fraction ftz, ← isNaN_fread fraction ftz, ← isNaN_negVal (fread f ftz b)] at nan
  rw [opSub, addExact_nan nan, finishOp_nan]
  exact congrArg _ (snanFlag_fread fraction ftz [a, b])

theorem opMul_nan (nan : (nanBits f a || nanBits f b) = true) : opMul f mode ftz a b = (canonNaN f, nvOf f [a, b]) := by
  rw [← isNaN_fread fraction ftz, ← isNaN_fread fraction ftz] at nan
  rw [opMul, mulExact_nan nan, finishOp_nan]
  exact congrArg _ (snanFlag_fread fraction ftz [a, b])

theorem opDiv_nan (nan : (nanBits f a || nanBits f b) = true) : opDiv f mode ftz a b = (canonNaN f, nvOf f [a, b]) := by
  rw [← isNaN_fread fraction ftz, ← isNaN_fread fraction ftz] at nan
  rw [← snanFlag_fread fraction ftz]
  unfold opDiv
  simp only [List.map_cons, List.map_nil]
  generalize fread f ftz a = x at *
  generalize fread f ftz b = y at *
  obtain ⟨k, rfl⟩ | ⟨k, rfl⟩ := nan_cases nan
  · exact finishOp_nan ..
  · cases x <;> exact finishOp_nan ..

theorem opSqrt_nan (nan : nanBits f a = true) : opSqrt f mode ftz a = (canonNaN f, nvOf f [a]) := by
  have flag : noNX (nvOf f [a]) = nvOf f [a] := by
    unfold nvOf
    split <;> rfl
  rw [← flag, ← snanFlag_fread fraction ftz]
  simp only [opSqrt, List.map_cons, List.map_nil, fread_of_nanBits fraction nan, finishOp_nan]

theorem opTrunc_nan (nan : nanBits f a = true) : opTrunc f mode ftz a = (canonNaN f, nvOf f [a]) := by
  rw [← snanFlag_fread fraction ftz]
  simp [opTrunc, fread_of_nanBits fraction nan, snanFlag, isSNaN]

theorem opMinMax_nan (nan : (nanBits f a && nanBits f b) = true) (mx nf : Bool) :
    opMinMax f ftz mx nf a b = (canonNaN f, nvOf f [a, b]) := by
  rw [← isNaN_fread fraction ftz, ← isNaN_fread fraction ftz, Bool.and_eq_true] at nan
  rw [opMinMax, if_pos nan]
  exact congrArg _ (snanFlag_fread fraction ftz [a, b])

/-- R233: a comparison with a NaN holds for `ne` and `uno` alone; the ordering ones signal for any NaN. -/
theorem opCmp_nan (nan : (nanBits f a || nanBits f b) = true) {k : Nat} (code : k < 8) : opCmp f ftz k a b =
    (k == 1 || k == 7, if (decide (2 ≤ k) && decide (k ≤ 5)) || snanBits f a || snanBits f b then 1 else 0) := by
  have flag : flagIf (snanBits f a || snanBits f b || (true && decide (2 ≤ k) && decide (k ≤ 5))) fNV =
      if (decide (2 ≤ k) && decide (k ≤ 5)) || snanBits f a || snanBits f b then 1 else 0 := by
    rw [Bool.true_and, Bool.or_comm, ← Bool.or_assoc]
    rfl
  simp only [opCmp, isNaN_fread fraction, nan, isSNaN_fread fraction, flag, Bool.not_true, Bool.false_and, Bool.true_or]
  refine Prod.ext ?_ rfl
  interval_cases k <;> rfl

end Nan

end Sys2Proof

namespace Sys2Proof.Machine

open Sys2Proof

/-! ### Elements (R145) -/

theorem isPackedTy_iff (ty : Nat) : isPackedTy ty = true ↔ ty = 9 ∨ ty = 10 := by simp [isPackedTy]

theorem regBits_of_packed {ty : Nat} (packed : ty = 9 ∨ ty = 10) : regBits ty = 32 := by
  rcases packed with rfl | rfl <;> rfl

theorem rb_of_packed {e : LaneEnv} (packed : e.ty = 9 ∨ e.ty = 10) : e.rb = 32 := regBits_of_packed packed

theorem perElem_packed {ty : Nat} (packed : ty = 9 ∨ ty = 10) (g : Fmt → Nat → Nat → Nat → Nat × AFlags) (a b c : Nat) :
    perElem ty g a b c =
      let el (k : Nat) := g (fmtOfTy ty) (a / 2 ^ (16 * k) % 2 ^ 16) (b / 2 ^ (16 * k) % 2 ^ 16) (c / 2 ^ (16 * k) % 2 ^ 16)
      ((el 0).1 + (el 1).1 * 2 ^ 16, (el 0).2 ||| (el 1).2) := by
  rw [perElem, if_pos ((isPackedTy_iff ty).2 packed)]
  rfl

theorem perElem_single {ty : Nat} (single : ¬ (ty = 9 ∨ ty = 10)) (g : Fmt → Nat → Nat → Nat → Nat × AFlags) (a b c : Nat) :
    perElem ty g a b c = g (fmtOfTy ty) (a % 2 ^ (fmtOfTy ty).bits) (b % 2 ^ (fmtOfTy ty).bits) (c % 2 ^ (fmtOfTy ty).bits) := by
  rw [perElem, if_neg (mt (isPackedTy_iff ty).1 single)]

/-! ### The instructions (R232 to R235) -/

theorem laneFloatTable_rows (f : LaneFields) : ∀ p ∈ laneFloatTable, (∃ sh, laneShape (p.1 f) = some (sh, false, f)) ∧
    ∀ s, exec (p.1 f) s = floatOp (p.1 f) s p.2 := by
  simp only [laneFloatTable, List.forall_mem_cons, List.not_mem_nil, false_implies, implies_true, and_true]
  refine ⟨?_, ?_, ?_, ?_, ?_, ?_, ⟨⟨_, rfl⟩, fun s => ?abs⟩, ?_, ?_, ?_, ?_, ?_, ?_, ?_, ?_, ?_, ?_, ?_⟩
  case abs => simp only [exec_fabs, execFabs, withSign, Nat.zero_mul, Nat.add_zero]
  all_goals exact ⟨⟨_, rfl⟩, fun _ => rfl⟩

section Runs

variable {f : LaneFields} {s : State} {e : LaneEnv}

theorem floatOp_runs {i : Instr} (runs : LaneRuns i s e) (fields : e.f = f)
    (g : LaneFields → Fmt → Nat → Nat → Nat → Nat × AFlags) : floatOp i s g = .next (afterEach i e e.rb fun L =>
      if e.ty = 9 ∨ e.ty = 10 then
        let el (k : Nat) := g f (fmtOfTy e.ty) (srcA e 32 L / 2 ^ (16 * k) % 2 ^ 16) (srcB e 32 L / 2 ^ (16 * k) % 2 ^ 16)
          (srcC e 32 L / 2 ^ (16 * k) % 2 ^ 16)
        ((el 0).1 + (el 1).1 * 2 ^ 16, (el 0).2 ||| (el 1).2)
      else g f (fmtOfTy e.ty) (srcA e e.rb L % 2 ^ (fmtOfTy e.ty).bits) (srcB e e.rb L % 2 ^ (fmtOfTy e.ty).bits)
        (srcC e e.rb L % 2 ^ (fmtOfTy e.ty).bits)) := by
  rw [floatOp, laneInstr_runs runs, fields]
  by_cases packed : e.ty = 9 ∨ e.ty = 10
  · simp only [if_pos packed, perElem_packed packed, rb_of_packed packed]
    rfl
  · simp only [if_neg packed, perElem_single packed]
    rfl

theorem exec_fldx_runs (runs : LaneRuns (.fldx f) s e) : exec (.fldx f) s = .next (afterEach (.fldx f) e e.rb fun L =>
    opLdx (fmtOfTy e.ty) (rndOf f) (ftzOf f) (srcA e e.rb L) (BitVec.ofNat 32 (srcB32 e L)).toInt) := by
  rw [exec_fldx, execFldx, laneInstr_runs runs]
  simp only [sext_eq_toInt (by decide : 0 < 32)]
  rfl

theorem exec_fclass_runs (runs : LaneRuns (.fclass f) s e) : exec (.fclass f) s = .next (afterResult (.fclass f) e 32
    (fun L => opClass (fmtOfTy e.ty) (ftzOf f) (srcA e e.rb L % 2 ^ (fmtOfTy e.ty).bits)) 0) := by
  rw [exec_fclass, execFclass, laneInstr_runs runs]
  rfl

theorem exec_fcmp_runs (runs : LaneRuns (.fcmp f) s e) : ∃ fl, exec (.fcmp f) s = .next (afterPred (.fcmp f) e (fun L =>
    if e.ty = 9 ∨ e.ty = 10 then
      (opCmp (fmtOfTy e.ty) (ftzOf f) f.fam.toNat (srcA e 32 L % 2 ^ 16) (srcB e 32 L % 2 ^ 16)).1 &&
        (opCmp (fmtOfTy e.ty) (ftzOf f) f.fam.toNat (srcA e 32 L / 2 ^ 16 % 2 ^ 16) (srcB e 32 L / 2 ^ 16 % 2 ^ 16)).1
    else (opCmp (fmtOfTy e.ty) (ftzOf f) f.fam.toNat (srcA e e.rb L % 2 ^ (fmtOfTy e.ty).bits)
      (srcB e e.rb L % 2 ^ (fmtOfTy e.ty).bits)).1) fl) := by
  rw [exec_fcmp, execFcmp, laneInstr_runs runs]
  by_cases packed : e.ty = 9 ∨ e.ty = 10
  · simp only [if_pos packed, if_pos ((isPackedTy_iff e.ty).2 packed), rb_of_packed packed, bitsAt_zero]
    exact ⟨_, rfl⟩
  · simp only [if_neg packed, if_neg (mt (isPackedTy_iff e.ty).1 packed)]
    exact ⟨_, rfl⟩

end Runs

end Sys2Proof.Machine

namespace Sys2Proof.Laws

open Sys2Proof Sys2Proof.Machine

/-- Settles O40: the table's rows are `floatOp` of their operations (`laneFloatTable_rows`), and an operand with the bits of a NaN is
read as one, quiet or signalling (`fread_of_nanBits`), whatever FTZ says. -/
theorem laneFloatResults : Obligations.LaneFloatResults := by
  refine ⟨fun s f e => ⟨fun p row runs => ?table, exec_fldx_runs, exec_fclass_runs, exec_fcmp_runs⟩,
    fun m format r ftz a b c _ _ _ => ?nan⟩
  case table =>
    obtain ⟨⟨sh, lane⟩, meaning⟩ := laneFloatTable_rows f p row
    exact (meaning s).trans (floatOp_runs runs (fields_of_runs runs lane) p.2)
  case nan =>
    have fraction : 0 < m.m := fraction_pos m format
    refine ⟨fun nan g listed => ?arith, fun nan => ⟨opSqrt_nan fraction r ftz nan, opTrunc_nan fraction r ftz nan⟩,
      fun nan mx nf => opMinMax_nan fraction ftz nan mx nf, fun nan k code => opCmp_nan fraction ftz nan code⟩
    revert g
    simp only [List.forall_mem_cons, List.not_mem_nil, false_implies, implies_true, and_true]
    exact ⟨opAdd_nan fraction r ftz nan, opSub_nan fraction r ftz nan, opMul_nan fraction r ftz nan, opDiv_nan fraction r ftz nan⟩

end Sys2Proof.Laws

end

section

/-! ## Moves, conversions, the tapered formats and `lea` (09_lane_compute.md; O41)

What the encoding excludes (`movi.sx` on b32, a packed type on one side of a `cvt`) comes from `sound_of_runs`; `lea` needs every
executing lane's address to be the one that `leaOf` answers (`leaOf_eq`). -/

namespace Sys2Proof.Machine

open Sys2Proof

section Runs

variable {f : LaneFields} {s : State} {e : LaneEnv}

/-! ### Moves and conversions (R236, R237) -/

theorem exec_movi_runs (runs : LaneRuns (.movi f) s e) : exec (.movi f) s = .next (afterResult (.movi f) e e.rb (fun _ =>
    if f.ty = 15 ∧ f.fam = 1 then (f.imm.signExtend 64).toNat else f.imm.toNat) 0) := by
  have ty : e.f.ty = f.ty := by rw [fields_of_runs runs rfl]
  obtain ⟨tys, md⟩ := sound_of_runs runs rfl
  have wide : f.ty = 0 ∨ f.ty = 15 := by simpa [tyBit, LaneEnv.ty, ty, ← BitVec.toNat_inj] using tys
  have modifier : (decide (2 ≤ famOf f) || (famOf f == 1 && f.ty == 0)) = false :=
    defect_eq_none.1 (md _ (List.mem_cons_of_mem _ (List.mem_cons_of_mem _ List.mem_cons_self)))
  obtain ⟨known, narrow⟩ := Bool.or_eq_false_iff.1 modifier
  rw [exec_movi, execMovi, laneInstr_runs runs]
  refine congrArg Host.Outcome.next (congrArg (afterResult _ e e.rb · 0) (funext fun _ => ?_))
  have code : f.fam = 0 ∨ f.fam = 1 := by
    have small : ¬ 2 ≤ f.fam.toNat := of_decide_eq_false known
    rcases (by omega : f.fam.toNat = 0 ∨ f.fam.toNat = 1) with code | code
    · exact .inl (BitVec.eq_of_toNat_eq code)
    · exact .inr (BitVec.eq_of_toNat_eq code)
  rcases code with fam | fam
  · simp [fam]
  · have long : f.ty = 15 := wide.resolve_left fun zero => by simp [famOf, fam, zero] at narrow
    have pair : e.rb = 64 := by rw [LaneEnv.rb, LaneEnv.ty, ty, long]; rfl
    simp only [fam, long, pair]
    rfl

/-! ### Conversions (R237) -/

theorem cvtElem_float {f : LaneFields} {dst src : Nat} (toFloat : isFloatTy dst = true) (fromFloat : isFloatTy src = true) (a : Nat) :
    cvtElem f dst src a = cvtFF (fmtOfTy src) (fmtOfTy dst) (rndOf f) (ftzOf f) a := by
  rw [cvtElem, toFloat, fromFloat]

theorem cvtElem_low (f : LaneFields) (dst src a : Nat) : cvtElem f dst src (a % 2 ^ tyBits src) =
    if isFloatTy src then
      if isFloatTy dst then cvtFF (fmtOfTy src) (fmtOfTy dst) (rndOf f) (ftzOf f) (a % 2 ^ tyBits src)
      else
        let r := cvtFI (fmtOfTy src) (rndOf f) (ftzOf f) (tyBits dst) (isSignedTy dst) (a % 2 ^ tyBits src)
        (wrInt dst r.1, r.2)
    else if isFloatTy dst then cvtIF (fmtOfTy dst) (rndOf f) (ftzOf f) (rdInt src a)
    else fitInt f dst (rdInt src a) := by
  have value : rdInt src (a % 2 ^ tyBits src) = rdInt src a := rdInt_eq_of_emod (by
    push_cast
    exact Int.emod_emod_of_dvd _ dvd_rfl)
  rw [cvtElem, value]
  cases isFloatTy dst <;> cases isFloatTy src <;> rfl

theorem isFloatTy_of_packed {ty : Nat} (packed : isPackedTy ty = true) : isFloatTy ty = true := by
  rcases (isPackedTy_iff ty).1 packed with rfl | rfl <;> rfl

theorem exec_cvt_runs (runs : LaneRuns (.cvt f) s e) {src : Nat} (source : cvtSrcTy f = src) :
    exec (.cvt f) s = .next (afterEach (.cvt f) e e.rb fun L =>
        let a := srcA e (regBits src) L
        if src = 9 ∨ src = 10 then
          let el (k : Nat) := cvtFF (fmtOfTy src) (fmtOfTy e.ty) (rndOf f) (ftzOf f) (a / 2 ^ (16 * k) % 2 ^ 16)
          ((el 0).1 + (el 1).1 * 2 ^ 16, (el 0).2 ||| (el 1).2)
        else if isFloatTy src then
          if isFloatTy e.ty then cvtFF (fmtOfTy src) (fmtOfTy e.ty) (rndOf f) (ftzOf f) (a % 2 ^ tyBits src)
          else
            let r := cvtFI (fmtOfTy src) (rndOf f) (ftzOf f) (tyBits e.ty) (isSignedTy e.ty) (a % 2 ^ tyBits src)
            (wrInt e.ty r.1, r.2)
        else if isFloatTy e.ty then cvtIF (fmtOfTy e.ty) (rndOf f) (ftzOf f) (rdInt src a)
        else fitInt f e.ty (rdInt src a)) := by
  have packs : (isPackedTy f.ty.toNat != isPackedTy src) = false :=
    source ▸ defect_eq_none.1 ((sound_of_runs runs rfl).2 _ (List.mem_cons_of_mem _ List.mem_cons_self))
  have ty : f.ty.toNat = e.ty := by rw [LaneEnv.ty, fields_of_runs runs rfl]
  rw [ty, bne_eq_false_iff_eq] at packs
  rw [exec_cvt, execCvt, laneInstr_runs runs, source]
  refine congrArg Host.Outcome.next (congrArg (afterEach _ e e.rb) (funext fun L => ?_))
  change (if isPackedTy src = true then _ else _) = _
  by_cases packed : isPackedTy src = true
  · have both := cvtElem_float (f := f) (isFloatTy_of_packed (packs.trans packed)) (isFloatTy_of_packed packed)
    rw [if_pos packed, if_pos ((isPackedTy_iff src).1 packed)]
    simp only [both]
    rfl
  · rw [if_neg packed, if_neg (mt (isPackedTy_iff src).2 packed)]
    exact cvtElem_low f e.ty src _

theorem exec_pack2_runs (runs : LaneRuns (.pack2 f) s e) : exec (.pack2 f) s = .next (afterEach (.pack2 f) e 32 fun L =>
    let x := cvtFF F32 (fmtOfTy e.ty) (rndOf f) (ftzOf f) (srcA e 32 L)
    let y := cvtFF F32 (fmtOfTy e.ty) (rndOf f) (ftzOf f) (srcB32 e L)
    (x.1 + y.1 * 2 ^ 16, x.2 ||| y.2)) := by
  rw [exec_pack2, execPack2, laneInstr_runs runs]
  rfl

theorem exec_unpk_runs (runs : LaneRuns (.unpk f) s e) : exec (.unpk f) s = .next (afterEach (.unpk f) e 64 fun L =>
    let x := cvtFF (fmtOfTy e.ty) F32 0 (ftzOf f) (srcA e 32 L % 2 ^ 16)
    let y := cvtFF (fmtOfTy e.ty) F32 0 (ftzOf f) (srcA e 32 L / 2 ^ 16 % 2 ^ 16)
    (x.1 + y.1 * 2 ^ 32, x.2 ||| y.2)) := by
  rw [exec_unpk, execUnpk, laneInstr_runs runs]
  simp only [bitsAt_zero]
  rfl

/-! ### Tapered formats (R239) -/

theorem tapOf_eq (f : LaneFields) : tapOf f = (if f.fam.getLsbD 0 then 6 else 8, if f.fam.getLsbD 0 then 0 else 1) := by
  unfold tapOf
  cases f.fam.getLsbD 0 <;> rfl

theorem exec_tdec_runs (runs : LaneRuns (.tdec f) s e) :
    let w : Nat := if f.fam.getLsbD 0 then 6 else 8
    exec (.tdec f) s = .next (afterResult (.tdec f) e 32 (fun L => (roundVal F32 0 false
      (tapVal (tapDecode w (if f.fam.getLsbD 0 then 0 else 1) (srcA e 32 L / 2 ^ (w * (f.imm.toNat % 4)) % 2 ^ w)) 0)).1) 0) := by
  rw [exec_tdec, execTdec, laneInstr_runs runs, tapOf_eq]
  rfl

theorem exec_tenc_runs (runs : LaneRuns (.tenc f) s e) :
    let w : Nat := if f.fam.getLsbD 0 then 6 else 8
    let lo := w * (f.imm.toNat % 4)
    exec (.tenc f) s = .next (afterEach (.tenc f) e 32 fun L =>
      let r := tapEncode w (if f.fam.getLsbD 0 then 0 else 1) (fread F32 (ftzOf f) (srcA e 32 L))
      (srcC e 32 L % 2 ^ lo + r.1 % 2 ^ w * 2 ^ lo + srcC e 32 L / 2 ^ (lo + w) * 2 ^ (lo + w), r.2)) := by
  rw [exec_tenc, execTenc, laneInstr_runs runs, tapOf_eq]
  rfl

/-! ### `lea` (R240) -/

/-- The address that `lea` answers where the lane's operand lies where its form allows. -/
def LeaAddress (s : State) (f : LaneFields) (e : LaneEnv) (L v : Nat) : Prop :=
  let r := lrecOf s e.t
  let a := srcA e 64 L
  let scr (o : Nat) := o ≤ r.scratch ∧ v = (r.sbase.toNat + tileOf s e.st * 524288 + o) % 2 ^ 64
  let prv (o : Nat) := o ≤ r.ps ∧ v = privVa r (slotItem s e.t e.st L) o
  (f.fam = 2 → scr a) ∧ (f.fam = 3 → prv a) ∧
  (f.fam = 0 → (a / 2 ^ 56 % 256 = 0xFF → scr (a % 2 ^ 56)) ∧ (a / 2 ^ 56 % 256 = 0xFE → prv (a % 2 ^ 56)) ∧
    (a / 2 ^ 56 % 256 < 0xFE → v = a))

theorem leaOf_eq (runs : LaneRuns (.lea f) s e) {L v : Nat} (address : LeaAddress s f e L v) : leaOf e L = .ok v := by
  obtain ⟨scratch, priv, global⟩ := address
  have space : (famOf f == 1 || decide (4 ≤ famOf f)) = false :=
    defect_eq_none.1 ((sound_of_runs runs rfl).2 _ (List.mem_cons_of_mem _ (List.mem_cons_of_mem _ List.mem_cons_self)))
  have spaces : f.fam = 0 ∨ f.fam = 2 ∨ f.fam = 3 := by
    simp only [famOf, Bool.or_eq_false_iff, beq_eq_false_iff_ne] at space
    have known : ¬ 4 ≤ f.fam.toNat := of_decide_eq_false space.2
    rcases (by omega : f.fam.toNat = 0 ∨ f.fam.toNat = 2 ∨ f.fam.toNat = 3) with code | code | code
    · exact .inl (BitVec.eq_of_toNat_eq code)
    · exact .inr (.inl (BitVec.eq_of_toNat_eq code))
    · exact .inr (.inr (BitVec.eq_of_toNat_eq code))
  obtain rfl := runs.same
  unfold leaOf
  rw [fields_of_runs runs rfl]
  dsimp only
  rw [bitsAt_zero, show bitsAt (srcA e 64 L) 56 8 = srcA e 64 L / 2 ^ 56 % 256 from rfl]
  rcases spaces with fam | fam | fam <;> rw [famOf, fam]
  · obtain ⟨inScratch, inPrivate, elsewhere⟩ := global fam
    have byte : srcA e 64 L / 2 ^ 56 % 256 < 256 := Nat.mod_lt _ (by decide)
    rw [if_neg (by decide), if_neg (by decide)]
    generalize srcA e 64 L / 2 ^ 56 % 256 = top at *
    rcases (by omega : top = 0xFF ∨ top = 0xFE ∨ top < 0xFE) with form | form | form
    · obtain ⟨fits, value⟩ := inScratch form
      rw [if_pos form, if_neg fits.not_gt, value]
    · obtain ⟨fits, value⟩ := inPrivate form
      rw [if_neg (by omega), if_pos form, if_neg fits.not_gt, value]
    · rw [if_neg (by omega), if_neg (by omega), elsewhere form]
  · obtain ⟨fits, value⟩ := scratch fam
    rw [if_pos (by decide), if_neg fits.not_gt, value]
  · obtain ⟨fits, value⟩ := priv fam
    rw [if_neg (by decide), if_pos (by decide), if_neg fits.not_gt, value]

theorem exec_lea_runs (runs : LaneRuns (.lea f) s e) {g : Nat → Nat} (address : ∀ L ∈ lanesOf e.ex, LeaAddress s f e L (g L)) :
    exec (.lea f) s = .next (afterResult (.lea f) e 64 g 0) := by
  have answers : ∀ L ∈ lanesOf e.ex, leaOf e L = .ok (g L) := fun L mem => leaOf_eq runs (address L mem)
  rw [exec_lea, execLea, laneInstr_runs runs]
  dsimp only
  split
  next k x rest fails =>
    obtain ⟨L, mem, failed⟩ := List.mem_filterMap.1 (fails ▸ List.mem_cons_self : (k, x) ∈ _)
    rw [answers L mem] at failed
    cases failed
  next => exact congrArg Host.Outcome.next (afterResult_congr (fun L mem => by rw [answers L mem]; rfl) 0)

end Runs

end Sys2Proof.Machine

namespace Sys2Proof.Laws

open Sys2Proof Sys2Proof.Machine

/-- Settles O41: each instruction by the lemma that says what it does; the address that `lea` answers is `leaOf_eq`. -/
theorem laneMoveResults : Obligations.LaneMoveResults := by
  intro s f e
  refine ⟨fun runs => ?mov, exec_movi_runs, fun runs => exec_cvt_runs runs rfl, exec_pack2_runs, exec_unpk_runs, exec_tdec_runs,
    exec_tenc_runs, fun g runs address => exec_lea_runs runs address⟩
  case mov =>
    rw [exec_mov, execMov, laneInstr_runs runs]
    rfl

end Sys2Proof.Laws

end

section

/-! ## Reductions of integers across lanes (09_lane_compute.md; O42)

`Reduces` says what a relation between a value and the operands it stands for needs, for the operation of a `redx` or `scan` to keep
it. The tree of R245 and the running values of R246 keep every such relation (`redTree_stands`, `scanGo_stands`), so each operation needs
one relation: the wrapped sum (`reduces_sum`), an extreme (`reduces_least`, `reduces_greatest`), and a fold of bits
(`reduces_and`, `reduces_or`, `reduces_xor`). -/

namespace Sys2Proof.Machine

open Sys2Proof

/-! ### What an operation keeps (R245) -/

/-- A relation between a value and the operands it stands for, kept by an operation: one operand stands for itself, the result on two
values stands for the operands of both, and the identity for none. -/
structure Reduces (f : LaneFields) (ty op : Nat) (R : Nat → List Nat → Prop) : Prop where
  fits : ∀ {v xs}, R v xs → v < 2 ^ regBits ty
  one : ∀ {v}, v < 2 ^ regBits ty → R v [v]
  join : ∀ {v w xs ys}, R v xs → R w ys → R (redOp f ty op v w).1 (xs ++ ys)
  none : R (redId ty op) []

/-- An operation on integers or bits raises no flag. -/
theorem redOp_flags {ty : Nat} (integer : isFloatTy ty = false) (f : LaneFields) (op x y : Nat) : (redOp f ty op x y).2 = 0 := by
  simp [redOp, integer]

theorem redLone_integer {ty : Nat} (integer : isFloatTy ty = false) (f : LaneFields) (x : Nat) : redLone f ty x = (x, 0) := by
  simp [redLone, integer]

/-- A place of the tree stands for some operands: an empty one for none. -/
def Stands (R : Nat → List Nat → Prop) : Option Nat → List Nat → Prop
  | none, xs => xs = []
  | some v, xs => R v xs

/-- The places of a level of the tree stand, in order, for parts of the operands. -/
inductive LevelStands (R : Nat → List Nat → Prop) : List (Option Nat) → List Nat → Prop
  | nil : LevelStands R [] []
  | cons {o l xs ys} : Stands R o xs → LevelStands R l ys → LevelStands R (o :: l) (xs ++ ys)

section Tree

variable {f : LaneFields} {ty op : Nat} {R : Nat → List Nat → Prop}

theorem levelStands_leaves {p : Nat → Bool} {a : Nat → Nat} {ls : List Nat} (leaf : ∀ L ∈ ls, R (a L) [a L]) :
    LevelStands R (ls.map fun L => if p L then some (a L) else none) ((ls.filter p).map a) := by
  induction ls with
  | nil => exact .nil
  | cons L ls ih =>
    obtain ⟨here, later⟩ := List.forall_mem_cons.1 leaf
    cases executes : p L with
    | true =>
      rw [List.filter_cons_of_pos executes, List.map_cons, List.map_cons, if_pos executes]
      exact .cons (xs := [a L]) here (ih later)
    | false =>
      rw [List.filter_cons_of_neg (by simp [executes]), List.map_cons, if_neg (by simp [executes])]
      exact .cons (xs := []) rfl (ih later)

theorem redLevel_length : ∀ l : List (Option Nat), (redLevel f ty op l).1.length = (l.length + 1) / 2
  | [] => rfl
  | [_] => by simp [redLevel]
  | x :: y :: rest => by
    have ih := redLevel_length rest
    cases x <;> cases y <;> simp only [redLevel, List.length_cons, ih] <;> omega

theorem redLevel_flags (integer : isFloatTy ty = false) : ∀ l : List (Option Nat), (redLevel f ty op l).2 = 0
  | [] => rfl
  | [_] => rfl
  | x :: y :: rest => by
    have ih := redLevel_flags integer rest
    cases x <;> cases y <;> simp [redLevel, ih, redOp_flags integer]

theorem redTree_flags (integer : isFloatTy ty = false) (n : Nat) (l : List (Option Nat)) (fl : AFlags) :
    (redTree f ty op n l fl).2 = fl := by
  induction n generalizing l fl with
  | zero => rfl
  | succ n ih => rw [redTree, ih, redLevel_flags integer]; exact BitVec.or_zero

/-- The running value after one more operand. -/
def scanNext (f : LaneFields) (ty op : Nat) (acc : Option Nat) (a : Nat) : Nat :=
  match acc with
  | none => a
  | some x => (redOp f ty op x a).1

theorem scanGo_cons (integer : isFloatTy ty = false) (excl : Bool) (acc : Option Nat) (L a : Nat)
    (rest : List (Nat × Nat × AFlags)) : scanGo f ty op excl acc ((L, a, 0) :: rest) =
      (L, if excl then acc.getD (redId ty op) else scanNext f ty op acc a, 0) ::
        scanGo f ty op excl (some (scanNext f ty op acc a)) rest := by
  cases acc with
  | none => rfl
  | some x => simp only [scanGo, redOp_flags integer, BitVec.or_self]; rfl

variable (keeps : Reduces f ty op R)
include keeps

theorem redLevel_stands : ∀ {l : List (Option Nat)} {xs : List Nat}, LevelStands R l xs → LevelStands R (redLevel f ty op l).1 xs
  | [], _, level => level
  | [_], _, level => level
  | x :: y :: rest, _, .cons (xs := xs) first (.cons (xs := ys) (ys := zs) second level) => by
    have ih := redLevel_stands level
    rw [← List.append_assoc]
    cases x with
    | none =>
      obtain rfl : xs = [] := first
      exact .cons second ih
    | some v =>
      cases y with
      | none =>
        obtain rfl : ys = [] := second
        rw [List.append_nil]
        exact .cons first ih
      | some w => exact .cons (keeps.join first second) ih

theorem redTree_stands {n : Nat} {l : List (Option Nat)} {xs : List Nat} (level : LevelStands R l xs) (room : l.length ≤ 2 ^ n)
    (fl : AFlags) : Stands R (redTree f ty op n l fl).1 xs := by
  induction n generalizing l fl with
  | zero =>
    cases level with
    | nil => rfl
    | cons place rest =>
      cases rest with
      | nil => rwa [List.append_nil]
      | cons _ _ => simp at room
  | succ n ih =>
    refine ih (redLevel_stands keeps level) ?_ _
    rw [redLevel_length]
    rw [Nat.pow_succ] at room
    omega

/-- An empty tree gives the identity. -/
theorem getD_of_stands {o : Option Nat} {xs : List Nat} (stands : Stands R o xs) : R (o.getD (redId ty op)) xs := by
  cases o with
  | none =>
    obtain rfl : xs = [] := stands
    exact keeps.none
  | some v => exact stands

/-! ### Running values (R246) -/

theorem stands_next {acc : Option Nat} {xs : List Nat} (stands : Stands R acc xs) {a : Nat} (fits : a < 2 ^ regBits ty) :
    R (scanNext f ty op acc a) (xs ++ [a]) := by
  cases acc with
  | none =>
    obtain rfl : xs = [] := stands
    exact keeps.one fits
  | some x => exact keeps.join stands (keeps.one fits)

/-- The entry that `scan` makes for a lane stands for the operands before it, and in the inclusive form for its own as well. -/
theorem scanGo_stands (integer : isFloatTy ty = false) {a : Nat → Nat} {excl : Bool} {L : Nat} (post : List Nat) {pre : List Nat}
    {acc : Option Nat} {xs : List Nat} (stands : Stands R acc xs) (fits : ∀ k ∈ pre ++ [L], a k < 2 ^ regBits ty)
    (new : L ∉ pre) :
    ∃ r, (scanGo f ty op excl acc ((pre ++ L :: post).map fun k => (k, a k, 0))).find? (·.1 == L) = some (L, r, 0) ∧
      R r (xs ++ (pre ++ if excl then [] else [L]).map a) := by
  induction pre generalizing acc xs with
  | nil =>
    have next := stands_next keeps stands (fits L List.mem_cons_self)
    rw [List.nil_append, List.map_cons, scanGo_cons integer, List.find?_cons_of_pos (by simp)]
    refine ⟨_, rfl, ?_⟩
    cases excl with
    | true => simpa using getD_of_stands keeps stands
    | false => simpa using next
  | cons k pre ih =>
    obtain ⟨here, later⟩ := List.forall_mem_cons.1 fits
    obtain ⟨other, new⟩ := not_or.1 (mt List.mem_cons.2 new)
    rw [List.cons_append, List.map_cons, scanGo_cons integer, List.find?_cons_of_neg (by simpa using Ne.symm other)]
    obtain ⟨r, found, value⟩ := ih (acc := some (scanNext f ty op acc (a k))) (stands_next keeps stands here) later new
    exact ⟨r, found, by simpa using value⟩

end Tree

/-! ### The operations on integers and bits -/

section Integers

variable {f : LaneFields} {ty : Nat} (integer : isFloatTy ty = false) (whole : tyBits ty = regBits ty)

include whole

theorem wrInt_cast_of_whole (v : Int) : (wrInt ty v : Int) = v % 2 ^ regBits ty := by
  rw [← whole, ← wrInt_emod ty v, Int.emod_eq_of_lt (Int.natCast_nonneg _)]
  rw [whole]
  exact_mod_cast wrInt_lt ty v

/-- Numbers that agree modulo 2 to the width are written alike. -/
theorem wrInt_congr {v w : Int} (same : v % 2 ^ regBits ty = w % 2 ^ regBits ty) : wrInt ty v = wrInt ty w := by
  rw [← Int.natCast_inj, wrInt_cast_of_whole whole, wrInt_cast_of_whole whole, same]

theorem wrInt_of_fits {v : Nat} (fits : v < 2 ^ regBits ty) : wrInt ty v = v := by
  rw [← Int.natCast_inj, wrInt_cast_of_whole whole]
  exact Int.emod_eq_of_lt (Int.natCast_nonneg _) (by exact_mod_cast fits)

theorem wrInt_rdInt {v : Nat} (fits : v < 2 ^ regBits ty) : wrInt ty (rdInt ty v) = v := by
  rw [wrInt_congr whole (w := v) (by rw [← whole, rdInt_emod]), wrInt_of_fits whole fits]

/-- The wrapped sum of the operands. -/
def IsSum (ty v : Nat) (xs : List Nat) : Prop := v = wrInt ty (xs.map (rdInt ty)).sum

include integer

theorem reduces_sum : Reduces f ty 0 (IsSum ty) where
  fits sum := sum ▸ wrInt_lt ty _
  one fits := by simp [IsSum, wrInt_rdInt whole fits]
  join {v w xs ys} left right := by
    have value : (redOp f ty 0 v w).1 = wrInt ty (rdInt ty v + rdInt ty w) := by simp [redOp, integer]
    unfold IsSum at *
    rw [value, left, right, List.map_append, List.sum_append]
    refine wrInt_congr whole ?_
    rw [← whole, Int.add_emod, rdInt_emod, rdInt_emod, wrInt_emod, wrInt_emod, ← Int.add_emod]
  none := by
    have id : redId ty 0 = 0 := by simp [redId, integer]
    rw [id]
    exact (wrInt_of_fits whole (Nat.two_pow_pos _)).symm

omit whole integer

/-- A value before every operand in an order, and one of them unless it is the last number of the order. -/
def IsExtreme (before : Int → Int → Prop) (last : Int) (ty v : Nat) (xs : List Nat) : Prop :=
  v < 2 ^ regBits ty ∧ (∀ x ∈ xs, before (rdInt ty v) (rdInt ty x)) ∧ (rdInt ty v = last ∨ ∃ x ∈ xs, rdInt ty x = rdInt ty v)

theorem isExtreme_one {before : Int → Int → Prop} (refl : ∀ a, before a a) (last : Int) {v : Nat} (fits : v < 2 ^ regBits ty) :
    IsExtreme before last ty v [v] :=
  ⟨fits, List.forall_mem_singleton.2 (refl _), .inr ⟨v, List.mem_cons_self, rfl⟩⟩

/-- One of two extremes that is before both is the extreme of all the operands. -/
theorem isExtreme_join {before : Int → Int → Prop} (trans : ∀ a b c, before a b → before b c → before a c) {last : Int}
    {r v w : Nat} {xs ys : List Nat} (left : IsExtreme before last ty v xs) (right : IsExtreme before last ty w ys)
    (fits : r < 2 ^ regBits ty) (beforeLeft : before (rdInt ty r) (rdInt ty v)) (beforeRight : before (rdInt ty r) (rdInt ty w))
    (one : rdInt ty r = rdInt ty v ∨ rdInt ty r = rdInt ty w) : IsExtreme before last ty r (xs ++ ys) := by
  obtain ⟨_, firstLeft, amongLeft⟩ := left
  obtain ⟨_, firstRight, amongRight⟩ := right
  refine ⟨fits, List.forall_mem_append.2 ⟨fun x mem => trans _ _ _ beforeLeft (firstLeft x mem),
    fun x mem => trans _ _ _ beforeRight (firstRight x mem)⟩, ?_⟩
  rcases one with same | same <;> rw [same]
  · exact amongLeft.imp_right fun ⟨x, mem, eq⟩ => ⟨x, List.mem_append_left _ mem, eq⟩
  · exact amongRight.imp_right fun ⟨x, mem, eq⟩ => ⟨x, List.mem_append_right _ mem, eq⟩

/-- The extreme in the words of R245: over no operand the identity, and otherwise one of the operands. -/
theorem isExtreme_form {before : Int → Int → Prop} (antisymm : ∀ {a b}, before a b → before b a → a = b) {last : Int}
    (bound : ∀ x, before (rdInt ty x) last) {v : Nat} {xs : List Nat} (extreme : IsExtreme before last ty v xs) :
    if xs = [] then ∀ x, before (rdInt ty x) (rdInt ty v)
    else (∃ x ∈ xs, rdInt ty x = rdInt ty v) ∧ ∀ x ∈ xs, before (rdInt ty v) (rdInt ty x) := by
  obtain ⟨_, first, among⟩ := extreme
  split
  next empty =>
    subst empty
    have identity : rdInt ty v = last := among.resolve_right (by simp)
    exact fun x => identity ▸ bound x
  next some =>
    refine ⟨among.elim (fun identity => ?_) id, first⟩
    obtain ⟨x, mem⟩ := List.exists_mem_of_ne_nil xs some
    exact ⟨x, mem, antisymm (identity ▸ bound x) (first x mem)⟩

theorem redOp_min (integer : isFloatTy ty = false) (v w : Nat) :
    rdInt ty (redOp f ty 1 v w).1 = min (rdInt ty v) (rdInt ty w) := by
  have value : (redOp f ty 1 v w).1 = wrInt ty (min (rdInt ty v) (rdInt ty w)) := by simp [redOp, integer]
  rw [value, rdInt_wrInt _ rfl]
  rcases min_choice (rdInt ty v) (rdInt ty w) with same | same <;> rw [same] <;> exact rdInt_range ty _

theorem redOp_max (integer : isFloatTy ty = false) (v w : Nat) :
    rdInt ty (redOp f ty 2 v w).1 = max (rdInt ty v) (rdInt ty w) := by
  have value : (redOp f ty 2 v w).1 = wrInt ty (max (rdInt ty v) (rdInt ty w)) := by simp [redOp, integer]
  rw [value, rdInt_wrInt _ rfl]
  rcases max_choice (rdInt ty v) (rdInt ty w) with same | same <;> rw [same] <;> exact rdInt_range ty _

theorem redOp_fits (integer : isFloatTy ty = false) (op v w : Nat) : (redOp f ty op v w).1 < 2 ^ regBits ty := by
  rw [redOp, if_neg (by simp [integer])]
  exact wrInt_lt ty _

theorem tyMin_le_tyMax (ty : Nat) : tyMin ty ≤ tyMax ty := (rdInt_range ty 0).1.trans (rdInt_range ty 0).2

theorem reduces_least (integer : isFloatTy ty = false) : Reduces f ty 1 (IsExtreme (· ≤ ·) (tyMax ty) ty) where
  fits extreme := extreme.1
  one := isExtreme_one Int.le_refl _
  join {v w xs ys} left right := by
    refine isExtreme_join (before := (· ≤ ·)) (fun _ _ _ => Int.le_trans) left right
      (redOp_fits integer 1 v w) ?_ ?_ ?_ <;> rw [redOp_min integer]
    · exact min_le_left _ _
    · exact min_le_right _ _
    · exact min_choice _ _
  none := by
    have id : redId ty 1 = wrInt ty (tyMax ty) := by simp [redId, integer, tyMax]
    rw [id]
    exact ⟨wrInt_lt ty _, by simp, .inl (rdInt_wrInt ⟨tyMin_le_tyMax ty, Int.le_refl _⟩ rfl)⟩

theorem reduces_greatest (integer : isFloatTy ty = false) : Reduces f ty 2 (IsExtreme (· ≥ ·) (tyMin ty) ty) where
  fits extreme := extreme.1
  one := isExtreme_one (before := (· ≥ ·)) Int.le_refl _
  join {v w xs ys} left right := by
    refine isExtreme_join (before := (· ≥ ·)) (fun _ _ _ ab bc => Int.le_trans bc ab) left right
      (redOp_fits integer 2 v w) ?_ ?_ ?_ <;> rw [redOp_max integer]
    · exact le_max_left _ _
    · exact le_max_right _ _
    · exact max_choice _ _
  none := by
    have id : redId ty 2 = wrInt ty (tyMin ty) := by simp [redId, integer, tyMin]
    rw [id]
    exact ⟨wrInt_lt ty _, by simp, .inl (rdInt_wrInt ⟨Int.le_refl _, tyMin_le_tyMax ty⟩ rfl)⟩

theorem isExtreme_least {v : Nat} {xs : List Nat} (extreme : IsExtreme (· ≤ ·) (tyMax ty) ty v xs) :
    if xs = [] then ∀ x, rdInt ty x ≤ rdInt ty v
    else (∃ x ∈ xs, rdInt ty x = rdInt ty v) ∧ ∀ x ∈ xs, rdInt ty v ≤ rdInt ty x :=
  isExtreme_form Int.le_antisymm (fun x => (rdInt_range ty x).2) extreme

theorem isExtreme_greatest {v : Nat} {xs : List Nat} (extreme : IsExtreme (· ≥ ·) (tyMin ty) ty v xs) :
    if xs = [] then ∀ x, rdInt ty v ≤ rdInt ty x
    else (∃ x ∈ xs, rdInt ty x = rdInt ty v) ∧ ∀ x ∈ xs, rdInt ty x ≤ rdInt ty v :=
  isExtreme_form (fun ab ba => Int.le_antisymm ba ab) (fun x => (rdInt_range ty x).1) extreme

/-- A fold of the operands with an operation on bits. -/
def IsFold (g : Nat → Nat → Nat) (unit ty v : Nat) (xs : List Nat) : Prop := v < 2 ^ regBits ty ∧ v = xs.foldl g unit

/-- An associative operation on bits that keeps the width and has its identity as unit there is reduced to its fold. -/
theorem reduces_fold {op : Nat} {g : Nat → Nat → Nat} {unit : Nat} (whole : tyBits ty = regBits ty)
    (value : ∀ v w, (redOp f ty op v w).1 = wrInt ty (g v w : Nat)) (identity : redId ty op = unit)
    (assoc : ∀ a b c, g (g a b) c = g a (g b c))
    (closed : ∀ {a b}, a < 2 ^ regBits ty → b < 2 ^ regBits ty → g a b < 2 ^ regBits ty)
    (left : ∀ {a}, a < 2 ^ regBits ty → g unit a = a) (right : ∀ {a}, a < 2 ^ regBits ty → g a unit = a)
    (fits : unit < 2 ^ regBits ty) : Reduces f ty op (IsFold g unit ty) where
  fits fold := fold.1
  one small := ⟨small, (left small).symm⟩
  join {v w xs ys} first second := by
    obtain ⟨smallV, foldV⟩ := first
    obtain ⟨smallW, foldW⟩ := second
    have from_v : ∀ (l : List Nat) (b : Nat), l.foldl g (g v b) = g v (l.foldl g b) := by
      intro l
      induction l with
      | nil => exact fun _ => rfl
      | cons x l ih => exact fun b => by rw [List.foldl_cons, List.foldl_cons, assoc, ih]
    rw [value, wrInt_of_fits whole (closed smallV smallW)]
    refine ⟨closed smallV smallW, ?_⟩
    rw [List.foldl_append, ← foldV, ← right smallV, from_v, ← foldW, right smallV]
  none := ⟨identity ▸ fits, identity⟩

theorem reduces_and (integer : isFloatTy ty = false) (whole : tyBits ty = regBits ty) :
    Reduces f ty 3 (IsFold (· &&& ·) (2 ^ regBits ty - 1) ty) := by
  have width := Nat.two_pow_pos (regBits ty)
  refine reduces_fold whole (fun v w => by simp [redOp, integer]) (by simp [redId, integer, whole]) Nat.and_assoc
    (fun small _ => Nat.and_le_left.trans_lt small) (fun small => ?_) (fun small => ?_) (by omega)
  · rw [Nat.and_comm, Nat.and_two_pow_sub_one_eq_mod, Nat.mod_eq_of_lt small]
  · rw [Nat.and_two_pow_sub_one_eq_mod, Nat.mod_eq_of_lt small]

theorem reduces_or (integer : isFloatTy ty = false) (whole : tyBits ty = regBits ty) :
    Reduces f ty 4 (IsFold (· ||| ·) 0 ty) :=
  reduces_fold whole (fun v w => by simp [redOp, integer]) (by simp [redId, integer]) Nat.or_assoc Nat.or_lt_two_pow
    (fun _ => Nat.zero_or _) (fun _ => Nat.or_zero _) (Nat.two_pow_pos _)

theorem reduces_xor (integer : isFloatTy ty = false) (whole : tyBits ty = regBits ty) :
    Reduces f ty 5 (IsFold (· ^^^ ·) 0 ty) :=
  reduces_fold whole (fun v w => by simp [redOp, integer]) (by simp [redId, integer]) Nat.xor_assoc Nat.xor_lt_two_pow
    (fun _ => Nat.zero_xor _) (fun _ => Nat.xor_zero _) (Nat.two_pow_pos _)

end Integers

end Sys2Proof.Machine

end

section

/-! ## Predicates, cross-lane instructions and index registers (09_lane_compute.md; O42)

A reduction or a running value stands for its operands (`redx_stands`, `scan_stands`) in every relation that its operation keeps. -/

namespace Sys2Proof.Machine

open Sys2Proof

/-! ### Lanes -/

theorem inRow_and_laneIn (m : W32) (L : Nat) : (decide (L < 32) && m.getLsbD L) = laneIn m L := by
  by_cases inRow : L < 32
  · simp [inRow, laneIn]
  · rw [decide_eq_false inRow, Bool.false_and, laneIn, BitVec.getLsbD_of_ge _ _ (Nat.not_lt.1 inRow)]

theorem head?_lanesOf {m : W32} {L : Nat} (lane : laneIn m L = true) (first : ∀ k, k < L → laneIn m k = false) :
    (lanesOf m).head? = some L := by
  rw [lanesOf, List.head?_filter, List.find?_range_eq_some]
  exact ⟨lane, List.mem_range.2 (lt_of_laneIn lane), fun k lt => by simp [first k lt]⟩

theorem lanesOf_zero : lanesOf 0 = [] := by decide

theorem sorted_lanesOf (m : W32) : (lanesOf m).Pairwise (· < ·) := List.pairwise_lt_range.filter _

theorem famOf_eq {f : LaneFields} {k : BitVec 3} (fam : f.fam = k) : famOf f = k.toNat := congrArg BitVec.toNat fam

/-- R243: the lane a source number names, where it is a lane at all. -/
theorem pick_source {m : W32} {L n : Nat} {i : Int} (names : (n : Int) = i ∨ 32 ≤ n ∧ (i < 0 ∨ 32 ≤ i)) :
    (if n < 32 && laneIn m n then n else L) = if 0 ≤ i ∧ laneIn m i.toNat = true then i.toNat else L := by
  rcases names with same | ⟨far, outside⟩
  · subst same
    have row : (n < 32 && laneIn m n) = laneIn m n := inRow_and_laneIn m n
    simp [row]
  · have noLane : ¬ (0 ≤ i ∧ laneIn m i.toNat = true) := by
      rintro ⟨low, lane⟩
      have := lt_of_laneIn lane
      omega
    rw [if_neg noLane, if_neg (by simp [far.not_gt])]

section Runs

variable {f : LaneFields} {s : State} {e : LaneEnv}

/-! ### Predicates and moves between lanes (R242 to R244) -/

theorem exec_pset_runs (runs : LaneRuns (.pset f) s e) : exec (.pset f) s = .next (afterPred (.pset f) e
    (fun L => if f.i = 1 then f.imm.getLsbD L else decide (srcB32 e L ≠ 0)) 0) := by
  have operand (L : Nat) : (if bit f.i then f.imm.getLsbD L else srcB32 e L != 0) =
      if f.i = 1 then f.imm.getLsbD L else decide (srcB32 e L ≠ 0) :=
    if_congr beq_iff_eq rfl (Bool.eq_iff_iff.2 (by simp))
  rw [exec_pset, execPset, laneInstr_runs runs]
  simp only [operand]
  rfl

theorem exec_pmov_runs (runs : LaneRuns (.pmov f) s e) {k : BitVec 3} (fam : f.fam = k) {op : Bool → Bool → Bool}
    (listed : (k, op) ∈ ([(0, and), (1, or), (2, xor), (3, fun a b => a && !b), (4, fun a _ => a)] :
      List (BitVec 3 × (Bool → Bool → Bool)))) :
    exec (.pmov f) s = .next (afterPred (.pmov f) e (fun L => op (predSrc e f.sa L) (predSrc e f.sb L)) 0) := by
  rw [exec_pmov, execPmov, laneInstr_runs runs, famOf_eq fam]
  simp only [List.mem_cons, List.not_mem_nil, Prod.mk.injEq, or_false] at listed
  rcases listed with ⟨rfl, rfl⟩ | ⟨rfl, rfl⟩ | ⟨rfl, rfl⟩ | ⟨rfl, rfl⟩ | ⟨rfl, rfl⟩ <;> rfl

theorem exec_shfl_runs (runs : LaneRuns (.shfl f) s e) : exec (.shfl f) s = .next (afterResult (.shfl f) e e.rb (fun L =>
    let k := srcB32 e L
    let src : Int := if f.fam = 0 then (k % 32 : Nat) else if f.fam = 1 then (L : Int) - k
      else if f.fam = 2 then (L : Int) + k else ((L ^^^ (k % 32) : Nat) : Int)
    srcA e e.rb (if 0 ≤ src ∧ laneIn e.ex src.toNat = true then src.toNat else L)) 0) := by
  rw [exec_shfl, execShfl, laneInstr_runs runs]
  refine congrArg Host.Outcome.next (afterResult_congr (fun L mem => congrArg (srcA e e.rb) (pick_source ?_)) 0)
  have inRow := (mem_lanesOf.1 mem).1
  have idx : f.fam = 0 ↔ famOf f = 0 := BitVec.toNat_inj.symm
  have up : f.fam = 1 ↔ famOf f = 1 := BitVec.toNat_inj.symm
  have down : f.fam = 2 ↔ famOf f = 2 := BitVec.toNat_inj.symm
  simp only [shflSrc, idx, up, down]
  generalize L ^^^ srcB32 e L % 32 = butterfly
  split_ifs <;> omega

theorem exec_bcast_runs (runs : LaneRuns (.bcast f) s e) : exec (.bcast f) s = .next (afterResult (.bcast f) e e.rb (fun _ =>
    srcA e e.rb (if laneIn e.ex (srcB32 e ((lanesOf e.ex).headD 0) % 32) then srcB32 e ((lanesOf e.ex).headD 0) % 32
      else (lanesOf e.ex).headD 0)) 0) := by
  rw [exec_bcast, execBcast, laneInstr_runs runs]
  rfl

theorem exec_perm_runs (runs : LaneRuns (.perm f) s e) : exec (.perm f) s = .next (afterResult (.perm f) e e.rb (fun L =>
    let c := srcC e 32 L
    if laneIn e.ex (c % 32) = false then 0
    else if c / 32 % 2 = 0 then srcA e e.rb (c % 32) else srcB e e.rb (c % 32)) 0) := by
  have selects (c : Nat) : c.testBit 5 = true ↔ ¬ c / 32 % 2 = 0 := by
    rw [Nat.testBit_eq_decide_div_mod_eq, decide_eq_true_iff]
    omega
  rw [exec_perm, execPerm, laneInstr_runs runs]
  simp only [selects, ite_not, Bool.not_eq_eq_eq_not, Bool.not_true]
  rfl

theorem exec_vote_runs (runs : LaneRuns (.vote f) s e) {k : BitVec 3} (fam : f.fam = k) {v : Word}
    (listed : (k, v) ∈ ([(0, (trueLanes e).setWidth 64), (1, if trueLanes e = e.ex then 1 else 0),
      (2, if trueLanes e = 0 then 0 else 1), (3, if trueLanes e = e.ex ∨ trueLanes e = 0 then 1 else 0)] :
        List (BitVec 3 × Word))) : exec (.vote f) s = .next (afterScalar (.vote f) e v 0) := by
  rw [exec_vote, execVote, laneInstr_runs runs, famOf_eq fam]
  simp only [List.mem_cons, List.not_mem_nil, Prod.mk.injEq, or_false] at listed
  rcases listed with ⟨rfl, rfl⟩ | ⟨rfl, rfl⟩ | ⟨rfl, rfl⟩ | ⟨rfl, rfl⟩ <;> rfl

theorem exec_firstLane_runs (runs : LaneRuns (.firstLane f) s e) {k : Nat} (first : k = 32 ∧ trueLanes e = 0 ∨
      k < 32 ∧ (trueLanes e).getLsbD k = true ∧ ∀ j, j < k → (trueLanes e).getLsbD j = false) :
    exec (.firstLane f) s = .next (afterScalar (.firstLane f) e (BitVec.ofNat 64 k) 0) := by
  have found : (lanesOf (trueLanes e)).headD 32 = k := by
    rw [List.headD_eq_head?_getD]
    rcases first with ⟨rfl, none⟩ | ⟨_, lane, least⟩
    · rw [none, lanesOf_zero]
      rfl
    · rw [head?_lanesOf lane least, Option.getD_some]
  rw [exec_firstLane, execFirstLane, laneInstr_runs runs, found]
  rfl

/-! ### `redx` (R245) -/

/-- What a lane brings to the tree. -/
def redLeaf (f : LaneFields) (e : LaneEnv) (L : Nat) : Option (Nat × AFlags) :=
  if laneIn e.ex L then some (redLone f e.ty (srcA e e.rb L)) else none

/-- What the tree gives, and the flags raised. -/
def redTotal (f : LaneFields) (e : LaneEnv) : Option Nat × AFlags :=
  let leaves := (List.range 32).map (redLeaf f e)
  redTree f e.ty (famOf f) 5 (leaves.map (·.map (·.1))) (orFlags (leaves.map fun x => (x.map (·.2)).getD 0))

/-- A reduced value as a scalar register holds it. -/
def redWord (ty v : Nat) : Word := if ty = 1 then toWord (sext 32 v) else BitVec.ofNat 64 v

theorem exec_redx_runs (runs : LaneRuns (.redx f) s e) : exec (.redx f) s = .next (afterScalar (.redx f) e
    (redWord e.ty ((redTotal f e).1.getD (redId e.ty (famOf f)))) (redTotal f e).2) := by
  rw [exec_redx, execRedx, laneInstr_runs runs]
  rfl

theorem orFlags_zero {l : List AFlags} (none : ∀ x ∈ l, x = 0) : orFlags l = 0 := by
  rw [List.eq_replicate_of_mem none]
  generalize l.length = n
  induction n with
  | zero => rfl
  | succ n ih => exact ih

theorem redTotal_flags (integer : isFloatTy e.ty = false) : (redTotal f e).2 = 0 := by
  rw [redTotal, redTree_flags integer, orFlags_zero]
  simp only [List.map_map, List.forall_mem_map, Function.comp_apply]
  intro L _
  rw [redLeaf, redLone_integer integer]
  split <;> rfl

theorem whole_of_tyRed : ∀ ty ∈ tyRed, tyBits ty = regBits ty := by decide

theorem redx_stands (integer : isFloatTy e.ty = false) {op : Nat} (code : famOf f = op) {R : Nat → List Nat → Prop}
    (keeps : Reduces f e.ty op R) :
    R ((redTotal f e).1.getD (redId e.ty (famOf f))) ((lanesOf e.ex).map (srcA e e.rb)) := by
  subst code
  refine getD_of_stands keeps ?_
  have leaf : ∀ L ∈ List.range 32, R (srcA e e.rb L) [srcA e e.rb L] := fun L mem => keeps.one (srcA_lt e (List.mem_range.1 mem))
  have values : ((List.range 32).map (redLeaf f e)).map (·.map (·.1)) =
      (List.range 32).map fun L => if laneIn e.ex L then some (srcA e e.rb L) else none := by
    rw [List.map_map]
    refine List.map_congr_left fun L _ => ?_
    rw [Function.comp_apply, redLeaf, redLone_integer integer]
    split <;> rfl
  rw [redTotal, values]
  exact redTree_stands keeps (levelStands_leaves leaf) (by simp) _

theorem redWord_eq (ty v : Nat) : redWord ty v = if ty = 1 then (BitVec.ofNat 32 v).signExtend 64 else BitVec.ofNat 64 v := by
  rw [redWord, toWord, sext_eq_toInt (by decide)]
  rfl

theorem redWord_low {ty v : Nat} (fits : v < 2 ^ regBits ty) : (redWord ty v).toNat % 2 ^ regBits ty = v := by
  rw [redWord_eq]
  split
  next signed =>
    subst signed
    have low : ((BitVec.ofNat 32 v).signExtend 64).setWidth 32 = BitVec.ofNat 32 v :=
      BitVec.eq_of_getLsbD_eq fun k inside => by
        rw [BitVec.getLsbD_setWidth, BitVec.getLsbD_signExtend]
        simp [inside, inside.trans (by decide : 32 < 64)]
    have small : v < 2 ^ 32 := fits
    calc ((BitVec.ofNat 32 v).signExtend 64).toNat % 2 ^ 32
        = (((BitVec.ofNat 32 v).signExtend 64).setWidth 32).toNat := (BitVec.toNat_setWidth _ _).symm
      _ = v := by rw [low, BitVec.toNat_ofNat, Nat.mod_eq_of_lt small]
  next =>
    have word : 2 ^ regBits ty ≤ 2 ^ 64 := Nat.pow_le_pow_right (by decide) (by rcases regBits_cases ty with w | w <;> omega)
    rw [BitVec.toNat_ofNat, Nat.mod_eq_of_lt (fits.trans_le word), Nat.mod_eq_of_lt fits]

theorem rdInt_redWord {ty v : Nat} (whole : tyBits ty = regBits ty) (fits : v < 2 ^ regBits ty) :
    rdInt ty (redWord ty v).toNat = rdInt ty v := by
  refine rdInt_eq_of_emod ?_
  rw [whole]
  exact_mod_cast (redWord_low fits).trans (Nat.mod_eq_of_lt fits).symm

theorem redLevel_none (ty op : Nat) : ∀ n, redLevel f ty op (List.replicate n none) = (List.replicate ((n + 1) / 2) none, 0)
  | 0 => rfl
  | 1 => by simp [redLevel]
  | n + 2 => by
    have half : (n + 2 + 1) / 2 = (n + 1) / 2 + 1 := by omega
    simp only [List.replicate_succ, redLevel, redLevel_none ty op n, half]

theorem redTree_none (ty op k n : Nat) (fl : AFlags) : redTree f ty op k (List.replicate n none) fl = (none, fl) := by
  induction k generalizing n fl with
  | zero => cases n <;> rfl
  | succ k ih =>
    rw [redTree, redLevel_none, ih]
    exact congrArg _ BitVec.or_zero

theorem redx_over_none (empty : e.ex = 0) : redTotal f e = (none, 0) := by
  have leaf : redLeaf f e = fun _ => none := funext fun L => by simp [redLeaf, empty, laneIn]
  have leaves : ((List.range 32).map (redLeaf f e)).map (·.map (·.1)) = List.replicate 32 none := by rw [leaf]; rfl
  have flags : orFlags (((List.range 32).map (redLeaf f e)).map fun x => (x.map (·.2)).getD 0) = 0 := by rw [leaf]; rfl
  rw [redTotal, leaves, flags, redTree_none]

/-- R245: the identities of the float operations. -/
theorem redId_float : ∀ p ∈ ([(3, 0, 0), (3, 1, 0x7F800000), (3, 2, 0xFF800000), (6, 0, 0), (6, 1, 0x7FF0000000000000),
    (6, 2, 0xFFF0000000000000)] : List (Nat × BitVec 3 × Word)), redWord p.1 (redId p.1 p.2.1.toNat) = p.2.2 := by decide

/-! ### `scan` (R246) -/

/-- The running value that `scan` gives a lane, and the flags. -/
def scanAt (f : LaneFields) (e : LaneEnv) (L : Nat) : Nat × AFlags :=
  let entries := scanGo f e.ty (famOf f % 4) (f.fam.getLsbD 2) none
    ((lanesOf e.ex).map fun L => (L, redLone f e.ty (srcA e e.rb L)))
  match entries.find? (·.1 == L) with
  | some r => r.2
  | none => (0, 0)

theorem exec_scan_runs (runs : LaneRuns (.scan f) s e) :
    exec (.scan f) s = .next (afterEach (.scan f) e e.rb (scanAt f e)) := by
  rw [exec_scan, execScan, laneInstr_runs runs]
  rfl

/-- In an ascending list the numbers below one of them are those that stand before it. -/
theorem filter_upTo {pre post : List Nat} {L : Nat} (sorted : (pre ++ L :: post).Pairwise (· < ·)) (excl : Bool) :
    (pre ++ L :: post).filter (fun k => if excl then k < L else k ≤ L) = pre ++ if excl then [] else [L] := by
  obtain ⟨_, tail, before⟩ := List.pairwise_append.1 sorted
  have after := (List.pairwise_cons.1 tail).1
  have kept : ∀ k ∈ pre, (if excl then decide (k < L) else decide (k ≤ L)) = true := fun k mem => by
    have := before k mem L List.mem_cons_self
    cases excl <;> simp [this, this.le]
  have dropped : ∀ k ∈ post, ¬ (if excl then decide (k < L) else decide (k ≤ L)) = true := fun k mem => by
    have := after k mem
    cases excl <;> simp [this, this.le]
  rw [List.filter_append, List.filter_eq_self.2 kept, List.filter_cons, List.filter_eq_nil_iff.2 dropped]
  cases excl <;> simp

/-- R246: `scan` has the operations sum, least and greatest. -/
theorem scan_codes (runs : LaneRuns (.scan f) s e) : famOf f % 4 = 0 ∨ famOf f % 4 = 1 ∨ famOf f % 4 = 2 := by
  have known : (famOf f % 4 == 3) = false :=
    defect_eq_none.1 ((sound_of_runs runs rfl).2 _ (List.mem_append_right _ List.mem_cons_self))
  rw [beq_eq_false_iff_ne] at known
  omega

theorem scan_stands (integer : isFloatTy e.ty = false) {op : Nat} (code : famOf f % 4 = op) {R : Nat → List Nat → Prop}
    (keeps : Reduces f e.ty op R) {L : Nat} (mem : L ∈ lanesOf e.ex) : (scanAt f e L).2 = 0 ∧ R (scanAt f e L).1
      (((lanesOf e.ex).filter fun k => if f.fam.getLsbD 2 then k < L else k ≤ L).map (srcA e e.rb)) := by
  subst code
  have sorted := sorted_lanesOf e.ex
  have fits : ∀ k ∈ lanesOf e.ex, srcA e e.rb k < 2 ^ regBits e.ty := fun k mem => srcA_lt e (mem_lanesOf.1 mem).1
  unfold scanAt
  simp only [redLone_integer integer]
  obtain ⟨pre, post, lanes⟩ := List.append_of_mem mem
  rw [lanes] at sorted fits ⊢
  have new : L ∉ pre := fun old => (List.pairwise_append.1 sorted).2.2 L old L List.mem_cons_self |>.ne rfl
  obtain ⟨r, found, stands⟩ := scanGo_stands keeps integer (excl := f.fam.getLsbD 2) post (acc := none) (xs := []) rfl
    (fun k mem => fits k (by simp at mem ⊢; tauto)) new
  rw [found, filter_upTo sorted]
  exact ⟨rfl, stands⟩

/-! ### `cmpx` (R247) -/

/-- What `cmpx` gives a lane, and the flags. -/
def exchangeAt (f : LaneFields) (e : LaneEnv) (L : Nat) : Nat × AFlags :=
  let q := L ^^^ (srcB32 e L % 32)
  let a := redLone f e.ty (srcA e e.rb L)
  if q = L ∨ laneIn e.ex q = false then a
  else
    let b := redLone f e.ty (srcA e e.rb q)
    let lo := if cmpxLe e.ty a.1 b.1 then a.1 else b.1
    let hi := if cmpxLe e.ty a.1 b.1 then b.1 else a.1
    (if decide (L < q) != f.fam.getLsbD 0 then lo else hi, a.2 ||| b.2)

theorem exec_cmpx_runs (runs : LaneRuns (.cmpx f) s e) :
    exec (.cmpx f) s = .next (afterEach (.cmpx f) e e.rb (exchangeAt f e)) := by
  rw [exec_cmpx, execCmpx, laneInstr_runs runs]
  rfl

theorem exchangeAt_integer (integer : isFloatTy e.ty = false) (whole : tyBits e.ty = regBits e.ty) {L : Nat}
    (inRow : L < 32) {q : Nat} (partner : q = L ^^^ (srcB32 e L % 32)) :
    exchangeAt f e L =
      (if q = L ∨ laneIn e.ex q = false ∨ rdInt e.ty (srcA e e.rb L) = rdInt e.ty (srcA e e.rb q) then srcA e e.rb L
      else if (decide (L < q) != f.fam.getLsbD 0) = decide (rdInt e.ty (srcA e e.rb L) < rdInt e.ty (srcA e e.rb q))
        then srcA e e.rb L else srcA e e.rb q, 0) := by
  subst partner
  have otherRow : L ^^^ (srcB32 e L % 32) < 32 := Nat.xor_lt_two_pow (n := 5) inRow (Nat.mod_lt _ (by decide))
  have fitsA : srcA e e.rb L < 2 ^ regBits e.ty := srcA_lt e inRow
  have fitsB : srcA e e.rb (L ^^^ (srcB32 e L % 32)) < 2 ^ regBits e.ty := srcA_lt e otherRow
  unfold exchangeAt cmpxLe
  simp only [redLone_integer integer, integer]
  generalize L ^^^ (srcB32 e L % 32) = q at *
  generalize srcA e e.rb L = a at *
  generalize srcA e e.rb q = b at *
  by_cases alone : q = L ∨ laneIn e.ex q = false
  · rw [if_pos alone, if_pos (by tauto)]
  rw [if_neg alone]
  have same : rdInt e.ty a = rdInt e.ty b → a = b := fun eq => by
    rw [← wrInt_rdInt whole fitsA, eq, wrInt_rdInt whole fitsB]
  simp only [Bool.false_eq_true, if_false, decide_eq_true_iff]
  generalize (decide (L < q) != f.fam.getLsbD 0) = lower
  rcases lt_trichotomy (rdInt e.ty a) (rdInt e.ty b) with less | equal | more
  · cases lower <;> simp [alone, less, less.le, less.ne]
  · simp [same equal]
  · cases lower <;> simp [alone, more.le, more.not_ge, more.ne']

/-! ### Index registers (R248) -/

theorem exec_xset_runs (runs : LaneRuns (.xset f) s e) :
    exec (.xset f) s = .next (afterIndex (.xset f) e fun L => BitVec.ofNat 32 (srcB32 e L)) := by
  rw [exec_xset, execXset, laneInstr_runs runs]
  rfl

theorem exec_xadd_runs (runs : LaneRuns (.xadd f) s e) : exec (.xadd f) s = .next (afterIndex (.xadd f) e fun L =>
    xOf e.st (f.dst.toNat % 4) L + BitVec.ofNat 32 (srcB32 e L)) := by
  rw [exec_xadd, execXadd, laneInstr_runs runs]
  rfl

theorem exec_xget_runs (runs : LaneRuns (.xget f) s e) : exec (.xget f) s = .next (afterResult (.xget f) e 32
    (fun L => (xOf e.st (srcCode f.sa % 4) L).toNat) 0) := by
  rw [exec_xget, execXget, laneInstr_runs runs]
  rfl

end Runs

end Sys2Proof.Machine

namespace Sys2Proof.Laws

open Sys2Proof Sys2Proof.Machine

/-- Settles O42: the instructions by the lemmas that say what they do; a `redx` or `scan` stands for its operands in the relation of
its operation (`redx_stands`, `scan_stands`). -/
theorem laneCrossResults : Obligations.LaneCrossResults := by
  unfold Obligations.LaneCrossResults
  intro s f e
  simp only [inRow_and_laneIn]
  refine ⟨exec_pset_runs, fun p listed fam runs => exec_pmov_runs runs fam listed, exec_shfl_runs, exec_bcast_runs, exec_perm_runs,
    fun p listed fam runs => exec_vote_runs runs fam listed, fun runs k first => exec_firstLane_runs runs first,
    fun runs integer => ?redx, fun p listed ty fam empty runs => ?empty, fun runs => ⟨_, _, exec_redx_runs runs⟩,
    fun runs => ⟨scanAt f e, exec_scan_runs runs, fun integer L mem => ?scan⟩,
    fun runs => ⟨exchangeAt f e, exec_cmpx_runs runs, fun integer L mem q partner => ?cmpx⟩,
    exec_xset_runs, exec_xadd_runs, exec_xget_runs⟩
  case redx =>
    have whole := whole_of_tyRed _ (sound_of_runs runs rfl).1
    have does := exec_redx_runs runs
    rw [redTotal_flags integer] at does
    simp only [← redWord_eq]
    refine ⟨_, does, fun fam => ?sum, fun fam => ?least, fun fam => ?greatest, fun fam => ?and, fun fam => ?or, fun fam => ?xor⟩
    case sum =>
      have stands := redx_stands integer (famOf_eq fam) (reduces_sum integer whole)
      rw [IsSum, List.map_map] at stands
      exact congrArg _ stands
    case least =>
      have stands := redx_stands integer (famOf_eq fam) (reduces_least integer)
      rw [rdInt_redWord whole stands.1]
      exact ⟨isExtreme_least stands, congrArg _ (redWord_low stands.1).symm⟩
    case greatest =>
      have stands := redx_stands integer (famOf_eq fam) (reduces_greatest integer)
      rw [rdInt_redWord whole stands.1]
      exact ⟨isExtreme_greatest stands, congrArg _ (redWord_low stands.1).symm⟩
    case and => exact congrArg _ (redx_stands integer (famOf_eq fam) (reduces_and integer whole)).2
    case or => exact congrArg _ (redx_stands integer (famOf_eq fam) (reduces_or integer whole)).2
    case xor => exact congrArg _ (redx_stands integer (famOf_eq fam) (reduces_xor integer whole)).2
  case empty =>
    rw [exec_redx_runs runs, redx_over_none empty, famOf_eq fam, ty, Option.getD_none, redId_float p listed]
  case scan =>
    have whole := whole_of_tyRed _ (sound_of_runs runs rfl).1
    have kept {op : Nat} (code : famOf f % 4 = op) {R : Nat → List Nat → Prop} (keeps : Reduces f e.ty op R) :=
      scan_stands integer code keeps mem
    obtain ⟨flags, fits⟩ : (scanAt f e L).2 = 0 ∧ (scanAt f e L).1 < 2 ^ regBits e.ty := by
      rcases scan_codes runs with code | code | code
      · exact (kept code (reduces_sum integer whole)).imp_right (reduces_sum (f := f) integer whole).fits
      · exact (kept code (reduces_least integer)).imp_right And.left
      · exact (kept code (reduces_greatest integer)).imp_right And.left
    refine ⟨flags, fits, fun fam => (kept ?_ (reduces_sum integer whole)).2,
      fun fam => isExtreme_least (kept ?_ (reduces_least integer)).2,
      fun fam => isExtreme_greatest (kept ?_ (reduces_greatest integer)).2⟩
    all_goals rcases fam with fam | fam <;> rw [famOf_eq fam] <;> rfl
  case cmpx =>
    exact exchangeAt_integer integer (whole_of_tyRed _ (sound_of_runs runs rfl).1) (mem_lanesOf.1 mem).1 partner

end Sys2Proof.Laws

end

section

/-! ## Waits (10_memory_sync_instructions.md; O20)

A `wait` passes on what it counts, and each event that ends a wait asks its own condition of the thread that waits. -/

namespace Sys2Proof.Machine

open Sys2Proof

/-! ### `wait` and `trapf` (R274, R275) -/

theorem pathOf_ne_cp {p : BitVec 2} (other : p ≠ 3) : pathOf p ≠ .cp := by
  revert p
  decide

theorem waitCount_outside {t : Thread} (outside : inRegion t = false) (s : State) (id : Nat) (p : Path) :
    waitCount s id t p = inFlight s id p := by
  simp [waitCount, outside]

theorem waitCount_cp (s : State) (id : Nat) (t : Thread) : waitCount s id t .cp = inFlight s id .cp := by
  simp [waitCount]

/-- In a region a wait on a path of accesses does not count the region's own (R128). -/
theorem waitCount_ownRegion {s : State} {id : Nat} {t : Thread} {p : Path} (region : inRegion t = true) (notCp : p ≠ .cp)
    (own : ∀ o ∈ s.ops, o.2.thread = id → o.2.region ≠ 0) : waitCount s id t p = 0 := by
  have counted : (inRegion t && p != .cp) = true := by simp [region, notCp]
  rw [waitCount, if_pos counted, List.length_eq_zero_iff, List.filter_eq_nil_iff]
  intro o ho
  obtain ⟨listed, ofThread⟩ := List.mem_filter.1 ho
  have mine : o.2.thread = id := by simp_all
  simp [own o listed mine]

/-- A wait on any path but CP ends with no effect but on the thread's wait and PC. -/
theorem endWait_other {p : Path} (notCp : p ≠ .cp) (s : State) (id : Nat) (t : Thread) : endWait s id t p = woken s id t :=
  if_neg notCp

theorem endWait_cp (s : State) (id : Nat) (t : Thread) : endWait s id t .cp = endCpWait s id (waited t) := rfl

section Issue

variable {s : State} {t : Thread} (acts : Acts s t)

include acts

theorem exec_wait_u {a : SReg} {v : Word} (reg : getS t a = .u v) (p : BitVec 2) :
    exec (.wait a p) s = .next (if waitCount s s.cur t (pathOf p) ≤ v.toNat then endWait s s.cur t (pathOf p)
      else putThr s s.cur { t with wait := .path (pathOf p) v.toNat }) := by
  rw [exec_wait, execWait, scalar_run _ acts (illSub_wait a p), reg, needU_u]
  split <;> rfl

theorem exec_trapf_none (clear : t.aflags &&& t.aenable = 0) : exec .trapf s = .next (afterNone s t) := by
  rw [exec_trapf, execTrapf, scalar_run _ acts illSub_trapf]
  exact if_pos clear

theorem exec_trapf_raised {st : Seat} (strand : t.seat = some st) (raised : t.aflags &&& t.aenable ≠ 0) :
    exec .trapf s = .next (takeStop (afterNone s t) s.cur
      { mkStop s { t with pc := t.pc + 4 } .trap 0x20 (t.aflags &&& t.aenable).toNat (t.pc + 4) with
        w6 := t.aflags.setWidth 64, w7 := t.aenable.setWidth 64 }) := by
  rw [exec_trapf, execTrapf, scalar_run _ acts illSub_trapf]
  simp only [if_neg raised, inStrand_strand strand]
  rfl

end Issue

/-! ### The events that end waits -/

section Events

variable {s : State} {id : Nat} {t : Thread} (waits : Waits s id t)

include waits

theorem exec_waitComplete_ends {p : Path} {n : Nat} (wait : t.wait = .path p n) (reached : waitCount s id t p ≤ n) :
    exec (.waitComplete id) s = .next (endWait s id t p) := by
  rw [exec_waitComplete, execWaitComplete, onThr_waits waits]
  simp [wait, waits.2.2, reached]

theorem exec_barReleaseWake_ends {st : Seat} {off : Option Nat} {g : BitVec 8} (wait : t.wait = .bar off g) (strand : t.seat = some st)
    (moved : barGen (waitedWord s st off) ≠ g) : exec (.barReleaseWake id) s = .next (woken s id (passBar s st off t)) := by
  have may : (t.stop.isNone && barGen (waitedWord s st off) != g) = true := by simpa [waits.2.2] using moved
  rw [exec_barReleaseWake, execBarReleaseWake, onThr_waits waits]
  simp only [wait, strand, may, if_true]
  rw [← strand]
  rfl

theorem exec_hbarRelease_ends {lev inst : Nat} {g : BitVec 8} (wait : t.wait = .hbar lev g) (member : hbarInst s t lev = some inst)
    (moved : (hbarAt (launchOf s t.launch) lev inst).gen ≠ g) : exec (.hbarRelease id) s = .next (woken s id t) := by
  have may : (t.stop.isNone && (hbarAt (launchOf s t.launch) lev inst).gen != g) = true := by simpa [waits.2.2] using moved
  rw [exec_hbarRelease, execHbarRelease, onThr_waits waits]
  simp only [wait, member, may, if_true]
  rfl

theorem exec_snoozeExpiry_ends {d : Nat} (wait : t.wait = .snooze d) (late : d ≤ rtOf s t) :
    exec (.snoozeExpiry id) s = .next (woken s id t) := by
  have may : (t.stop.isNone && decide (d ≤ rtOf s t)) = true := by simpa [waits.2.2] using late
  rw [exec_snoozeExpiry, execSnoozeExpiry, onThr_waits waits]
  simp only [wait, may, if_true]
  rfl

theorem exec_sjoinWindowExpiry_ends {e : Nat} (wait : t.wait = .sjoin e)
    (ends : e ≤ dieCc (dieOf s (physDie s t)) s.time ∨ boxVolume t.box = liveItems s t.launch) :
    exec (.sjoinWindowExpiry id) s = .next (woken s id t) := by
  have may : (t.stop.isNone && (decide (e ≤ homeCc s t) || boxVolume t.box == liveItems s t.launch)) = true := by
    simpa [waits.2.2] using (show e ≤ homeCc s t ∨ boxVolume t.box = liveItems s t.launch from ends)
  rw [exec_sjoinWindowExpiry, execSjoinWindowExpiry, onThr_waits waits]
  simp only [wait, may, if_true]
  rfl

end Events

end Sys2Proof.Machine

namespace Sys2Proof.Laws

open Sys2Proof Sys2Proof.Machine

/-- Settles O20: a `wait` by what it counts (`exec_wait_u`), and each event by the lemma that says when it ends its wait. -/
theorem waitInstructions : Obligations.WaitInstructions := by
  unfold Obligations.WaitInstructions
  refine ⟨fun s t a v acts reg => ⟨fun p passes notCp => ?_, fun p waits => ?_,
    fun p => ⟨fun outside => waitCount_outside outside .., fun region notCp own => waitCount_ownRegion region (pathOf_ne_cp notCp) own⟩,
    fun passes => ?_, exec_trapf_none acts, fun st strand raised => exec_trapf_raised acts strand raised⟩,
    fun s id t waits => ⟨fun p n wait notCp reached => ?_, fun n wait reached => ?_,
      fun st off g wait strand moved => exec_barReleaseWake_ends waits wait strand moved,
      fun lev g inst wait member moved => exec_hbarRelease_ends waits wait member moved,
      fun d wait late => exec_snoozeExpiry_ends waits wait late, fun e wait ends => exec_sjoinWindowExpiry_ends waits wait ends⟩⟩
  · rw [exec_wait_u acts reg, if_pos passes, endWait_other (pathOf_ne_cp notCp)]
  · rw [exec_wait_u acts reg, if_neg (Nat.not_le.2 waits)]
  · have counted : waitCount s s.cur t (pathOf 3) ≤ v.toNat := (waitCount_cp s s.cur t).trans_le passes
    rw [exec_wait_u acts reg, if_pos counted]
    rfl
  · rw [exec_waitComplete_ends waits wait reached, endWait_other notCp]
  · rw [exec_waitComplete_ends waits wait ((waitCount_cp s id t).trans_le reached), endWait_cp]

end Sys2Proof.Laws

end

section

/-! ## Barriers (10_memory_sync_instructions.md; O21)

A barrier word is five fields, of which an arrival replaces three, so what it leaves follows from the fields of `barSet`. The
instructions on a word differ in the word alone: the workgroup's own for s0, one of scratch otherwise (`barWord`). -/

namespace Sys2Proof.Machine

open Sys2Proof

/-! ### Barrier words (R269) -/

theorem toNat_append {a b : Nat} (x : BitVec a) (y : BitVec b) : (x ++ y).toNat = x.toNat * 2 ^ b + y.toNat := by
  rw [BitVec.toNat_append, ← Nat.shiftLeft_add_eq_or_of_lt y.isLt, Nat.shiftLeft_eq]

theorem bitsAt_toNat (w : Word) (lo n : Nat) : bitsAt w.toNat lo n = (w.extractLsb' lo n).toNat := by
  rw [bitsAt_eq_extract w.isLt, BitVec.ofNat_toNat, BitVec.setWidth_eq]

section Word

variable (w : Word) (gen : BitVec 8) {exp pend : Nat} (ovf : Bool) (fitsE : exp < 2 ^ 20) (fitsP : pend < 2 ^ 20)
include fitsE fitsP

theorem toNat_barSet : (barSet w gen exp pend ovf).toNat =
    (((bitsAt w.toNat 58 6 * 2 ^ 1 + if ovf then 1 else bitsAt w.toNat 57 1) * 2 ^ 9 + bitsAt w.toNat 48 9) * 2 ^ 8 + gen.toNat) * 2 ^ 40
      + exp * 2 ^ 20 + pend := by
  have pieces : (barSet w gen exp pend ovf).toNat = _ :=
    (toNat_append (a := 44) (b := 20) _ _).trans (congrArg (· * 2 ^ 20 + _) ((toNat_append (a := 24) (b := 20) _ _).trans
      (congrArg (· * 2 ^ 20 + _) ((toNat_append (a := 16) (b := 8) _ _).trans
        (congrArg (· * 2 ^ 8 + _) ((toNat_append (a := 7) (b := 9) _ _).trans
          (congrArg (· * 2 ^ 9 + _) (toNat_append (a := 6) (b := 1) _ _))))))))
  rw [pieces]
  cases ovf <;> simp [bitsAt_toNat] <;> omega

theorem barPend_barSet : barPend (barSet w gen exp pend ovf) = pend := by
  rw [barPend, toNat_barSet w gen ovf fitsE fitsP, bitsAt]
  omega

theorem barExp_barSet : barExp (barSet w gen exp pend ovf) = exp := by
  rw [barExp, toNat_barSet w gen ovf fitsE fitsP, bitsAt]
  omega

theorem barGen_barSet : barGen (barSet w gen exp pend ovf) = gen := by
  apply BitVec.eq_of_toNat_eq
  rw [barGen, ← bitsAt_toNat, toNat_barSet w gen ovf fitsE fitsP, bitsAt]
  omega

theorem barMagic_barSet : barMagic (barSet w gen exp pend ovf) = barMagic w := by
  simp only [barMagic, toNat_barSet w gen ovf fitsE fitsP, bitsAt]
  omega

theorem bit56_barSet : (barSet w gen exp pend ovf).getLsbD 56 = w.getLsbD 56 := by
  simp only [BitVec.getLsbD, Nat.testBit_eq_decide_div_mod_eq, toNat_barSet w gen ovf fitsE fitsP, bitsAt, decide_eq_decide]
  omega

theorem bit57_barSet : (barSet w gen exp pend ovf).getLsbD 57 = (w.getLsbD 57 || ovf) := by
  cases ovf <;> simp only [BitVec.getLsbD, Nat.testBit_eq_decide_div_mod_eq, toNat_barSet w gen _ fitsE fitsP, bitsAt,
    Bool.or_false, Bool.or_true, decide_eq_decide, decide_eq_true_eq, if_true, Bool.false_eq_true, if_false] <;> omega

end Word

theorem barExp_lt (w : Word) : barExp w < 2 ^ 20 := Nat.mod_lt _ (by decide)

theorem barPend_lt (w : Word) : barPend w < 2 ^ 20 := Nat.mod_lt _ (by decide)

/-- An arrival below what is pending lowers it. -/
theorem barArrive_below {w : Word} {k : Nat} (below : k < barPend w) :
    barArrive w k = (barSet w (barGen w) (barExp w) (barPend w - k) false, false) := if_neg (Nat.not_le.2 below)

/-- An arrival of all that is pending, or of more, releases. -/
theorem barArrive_releases {w : Word} {k : Nat} (all : barPend w ≤ k) :
    barArrive w k = (barSet w (barGen w + 1) (barExp w) (barExp w) (barPend w < k), true) := if_pos all

theorem barArrive_releases_iff (w : Word) (k : Nat) : (barArrive w k).2 = decide (barPend w ≤ k) := by
  rcases Nat.lt_or_ge k (barPend w) with below | all
  · rw [barArrive_below below, decide_eq_false (Nat.not_le.2 below)]
  · rw [barArrive_releases all, decide_eq_true all]

/-! ### What a strand acquires at a word (R118) -/

theorem tabGet_tabPut {α : Type} (d : α) (t : Tab α) (k : Nat) (v : α) (j : Nat) :
    tabGet d (tabPut t k v) j = if j = k then v else tabGet d t j := by
  by_cases same : j = k
  · simp [tabGet, same]
  · simp [tabGet, same, tabFind_tabPut_ne t same v]

theorem le_maxTab_left (a b : Tab Nat) (j : Nat) : tabGet 0 a j ≤ tabGet 0 (maxTab a b) j := by
  induction b generalizing a with
  | nil => exact Nat.le_refl _
  | cons p b ih =>
    refine Nat.le_trans ?_ (ih _)
    rw [tabGet_tabPut]
    split
    next same => exact same ▸ Nat.le_max_right ..
    next => exact Nat.le_refl _

theorem le_maxTab_right (a b : Tab Nat) (j : Nat) : tabGet 0 b j ≤ tabGet 0 (maxTab a b) j := by
  induction b generalizing a with
  | nil => exact Nat.zero_le _
  | cons p b ih =>
    obtain ⟨k, v⟩ := p
    by_cases same : k = j
    · subst same
      have listed : tabGet 0 ((k, v) :: b) k = v := by simp [tabGet, tabFind]
      have first := le_maxTab_left (tabPut a k (max v (tabGet 0 a k))) b k
      rw [tabGet_tabPut, if_pos rfl] at first
      exact listed.trans_le ((Nat.le_max_left ..).trans first)
    · have later : tabGet 0 ((k, v) :: b) j = tabGet 0 b j := by simp [tabGet, tabFind, same]
      exact later.trans_le (ih _)

theorem le_maxTab2_left (a b : Tab (Tab Nat)) (line k : Nat) :
    tabGet 0 (tabGet [] a line) k ≤ tabGet 0 (tabGet [] (maxTab2 a b) line) k := by
  induction b generalizing a with
  | nil => exact Nat.le_refl _
  | cons p b ih =>
    refine Nat.le_trans ?_ (ih _)
    rw [tabGet_tabPut]
    split
    next same => exact same ▸ le_maxTab_left ..
    next => exact Nat.le_refl _

theorem le_maxTab2_right (a b : Tab (Tab Nat)) (line k : Nat) :
    tabGet 0 (tabGet [] b line) k ≤ tabGet 0 (tabGet [] (maxTab2 a b) line) k := by
  induction b generalizing a with
  | nil => exact Nat.zero_le _
  | cons p b ih =>
    obtain ⟨l, m⟩ := p
    by_cases same : l = line
    · subst same
      have listed : tabGet [] ((l, m) :: b) l = m := by simp [tabGet, tabFind]
      have first := le_maxTab2_left (tabPut a l (maxTab (tabGet [] a l) m)) b l k
      rw [tabGet_tabPut, if_pos rfl] at first
      rw [listed]
      exact (le_maxTab_right ..).trans first
    · have later : tabGet [] ((l, m) :: b) line = tabGet [] b line := by simp [tabGet, tabFind, same]
      rw [later]
      exact ih _

theorem passBar_seen {s : State} {st : Seat} {w : Wg} (listed : tabFind s.wgs st.wg = some w) (off : Option Nat) (t : Thread) :
    (passBar s st off t).seen = maxTab2 t.seen (tabGet [] w.barAcq (off.elim 0 (· + 1))) := by
  simp [passBar, listed, acquireThr]

/-- An arrival on a word leaves what engines that arrived on words had written. -/
theorem passBar_putBar (s : State) (st : Seat) (off off' : Option Nat) (r : Word × Bool) (l : List Nat) (t : Thread) :
    passBar (putBar s st.wg off' r l) st off t = passBar s st off t := by
  unfold passBar putBar
  simp only [modWg_wgs, tabFind_tabMod, if_true]
  cases tabFind s.wgs st.wg with
  | none => rfl
  | some w => cases off' <;> rfl

/-! ### A word and an arrival on it (R271) -/

/-- The positions in a workgroup of the items that a strand holds. -/
def seatedAt (st : Seat) : List Nat := (lanesOf st.seated).map fun L => 32 * st.six + L

/-- The state after a strand's arrival of count `n` on a word. -/
def arrivedOn (s : State) (st : Seat) (off : Option Nat) (w : Word) (n : Nat) : State :=
  putBar s st.wg off (barArrive w n) (seatedAt st)

/-- The count that a register names: one for s0. -/
def CountOf (t : Thread) (b : SReg) (n : Nat) : Prop := (b = 0 ∧ n = 1) ∨ (b ≠ 0 ∧ ∃ v, getS t b = .u v ∧ v.toNat = n)

/-- The word of a workgroup's own barrier. -/
def ownWord (s : State) (st : Seat) : Word := ((tabFind s.wgs st.wg).getD Wg.blank).word

section BarWord

variable {s : State} {t : Thread} {st : Seat} {a : SReg} {off : Word} (k : Option Nat → Wg → Word → Out)

theorem barWord_own (init : Bool) : barWord s t st 0 init k = k none ((tabFind s.wgs st.wg).getD Wg.blank) (ownWord s st) := rfl

variable (named : a ≠ 0) (reg : getS t a = .u off)

include named reg

theorem barWord_scratch {w : Word} (at_ : BarAt s t st off.toNat w) (init : Bool) :
    barWord s t st a init k = k (some off.toNat) ((tabFind s.wgs st.wg).getD Wg.blank) w := by
  obtain ⟨aligned, inside, magic, rfl⟩ := at_
  simp only [barWord, if_neg named, reg, needU_u, aligned, ne_eq, not_true_eq_false, if_false, Nat.not_lt.2 inside, magic,
    bne_self_eq_false, Bool.and_false, Bool.false_eq_true]

/-- A word that is being made need hold nothing. -/
theorem barWord_init (aligned : off.toNat % 8 = 0) (inside : off.toNat + 8 ≤ (lrecOf s t).scratch) :
    barWord s t st a true k = k (some off.toNat) ((tabFind s.wgs st.wg).getD Wg.blank)
      (BitVec.ofNat 64 (scrGet ((tabFind s.wgs st.wg).getD Wg.blank) off.toNat 8)) := by
  simp only [barWord, if_neg named, reg, needU_u, aligned, ne_eq, not_true_eq_false, if_false, Nat.not_lt.2 inside,
    Bool.not_true, Bool.false_and, Bool.false_eq_true]

end BarWord

section Arrival

variable {s : State} {t : Thread} {st : Seat} (strand : t.seat = some st) (k : State → Option Nat → Word → Bool → Out)

include strand

theorem barArrival_scratch {a b : SReg} {off w : Word} {n : Nat} (named : a ≠ 0) (reg : getS t a = .u off)
    (at_ : BarAt s t st off.toNat w) (count : CountOf t b n) :
    barArrival s t a b k = k (arrivedOn s st (some off.toNat) w n) (some off.toNat) w (barArrive w n).2 := by
  rw [barArrival, inStrand_strand strand, barWord_scratch _ named reg at_]
  simp only [if_neg named]
  rcases count with ⟨rfl, rfl⟩ | ⟨counted, v, value, rfl⟩
  · rfl
  · simp only [if_neg counted, value, needU_u]
    rfl

theorem barArrival_own (full : st.am = st.seated) :
    barArrival s t 0 0 k = k (arrivedOn s st none (ownWord s st) (popMask st.seated)) none (ownWord s st)
      (barArrive (ownWord s st) (popMask st.seated)).2 := by
  rw [barArrival, inStrand_strand strand, barWord_own]
  simp only [full, ne_eq, not_true_eq_false, if_false, if_true]
  rfl

theorem barArrival_partial (part : st.am ≠ st.seated) :
    barArrival s t 0 0 k = .next (takeStop s s.cur (mkStop s t .fault 0x02 0x05 t.pc)) := by
  rw [barArrival, inStrand_strand strand, barWord_own]
  simp only [if_pos part, if_true]
  exact fault_strand strand ..

end Arrival

/-! ### The instructions on a word -/

section Instructions

variable {s : State} {t : Thread} {st : Seat} (acts : ActsSeated s t st) (outside : inRegion t = false)

include acts outside

theorem exec_barArv_eq {d a b : SReg} (dst : d ≠ 0) (sound : a = 0 → b = 0) :
    exec (.barArv d a b) s = barArrival s t a b fun s1 _ w _ => .next (afterS s1 t d 4 (.u ((barGen w).setWidth 64))) := by
  have fine : illSub (.barArv d a b) = none := by
    have apart : (a == 0 && b != 0) = false := by simpa using sound
    rw [illSub_barArv, zeroDst_of_ne dst, apart]
    rfl
  rw [exec_barArv, execBarArv, scalarOutside_run _ acts.1 fine outside]
  rfl

/-- A strand that arrives and waits passes where its arrival releases the word. -/
theorem exec_barArw_on {a : SReg} {off : Option Nat} {w : Word} {n : Nat}
    (arrival : ∀ k, barArrival s t a 0 k = k (arrivedOn s st off w n) off w (barArrive w n).2) :
    exec (.barArw a 0) s = .next (if barPend w ≤ n then afterNone (arrivedOn s st off w n) (passBar s st off t)
      else putThr (arrivedOn s st off w n) s.cur { t with wait := .bar off (barGen w) }) := by
  have fine : illSub (.barArw a 0) = none := by simp [illSub_barArw, defect]
  have passes : (t.seat.elim t fun x => passBar (arrivedOn s st off w n) x off t) = passBar s st off t := by
    rw [acts.2]
    exact passBar_putBar ..
  rw [exec_barArw, execBarArw, scalarOutside_run _ acts.1 fine outside, arrival, passes, barArrive_releases_iff,
    apply_ite Host.Outcome.next]
  simp only [decide_eq_true_eq]
  rfl

theorem exec_barArw_partial (part : st.am ≠ st.seated) :
    exec (.barArw 0 0) s = .next (takeStop s s.cur (mkStop s t .fault 0x02 0x05 t.pc)) := by
  rw [exec_barArw, execBarArw, scalarOutside_run _ acts.1 rfl outside, barArrival_partial acts.2 _ part]

/-- A strand that waits passes where the generation of its word has moved on. -/
theorem exec_barWt_on {a b : SReg} {g w : Word} {wg : Wg} {off : Option Nat} (value : getS t b = .u g)
    (word : ∀ k, barWord s t st a false k = k off wg w) :
    exec (.barWt a b) s = .next (if barGen w = g.setWidth 8 then putThr s s.cur { t with wait := .bar off (g.setWidth 8) }
      else afterNone s (passBar s st off t)) := by
  rw [exec_barWt, execBarWt, scalarOutside_run _ acts.1 (illSub_barWt a b) outside, inStrand_strand acts.2, value, needU_u, word,
    ite_not]
  split <;> rfl

theorem exec_barInit_makes {a b : SReg} {off n : Word} (named : a ≠ 0) (reg : getS t a = .u off) (aligned : off.toNat % 8 = 0)
    (inside : off.toNat + 8 ≤ (lrecOf s t).scratch) (count : getS t b = .u n) (some_ : n ≠ 0) (fits : n.toNat < 2 ^ 20) :
    exec (.barInit a b) s = .next (afterNone (modWg (modWg s st.wg fun w => scrPut w off.toNat 8
      (0xB7 * 2 ^ 48 + n.toNat * 2 ^ 20 + n.toNat)) st.wg fun w => { w with barAcq := tabDel w.barAcq (off.toNat + 1) }) t) := by
  have fine : illSub (.barInit a b) = none := by simpa [illSub_barInit, defect] using named
  have made : (barInitWord false n.toNat).toNat = 0xB7 * 2 ^ 48 + n.toNat * 2 ^ 20 + n.toNat := by
    simp only [barInitWord, Bool.false_eq_true, if_false, Nat.mod_eq_of_lt fits, BitVec.toNat_ofNat]
    omega
  have counts : ¬ (n = 0 ∨ 2 ^ 20 ≤ n.toNat) := not_or.2 ⟨some_, Nat.not_le.2 fits⟩
  rw [exec_barInit, execBarInit, scalarOutside_run _ acts.1 fine outside, inStrand_strand acts.2, count, needU_u,
    barWord_init _ named reg aligned inside, if_neg counts, ← made]
  rfl

end Instructions

/-! ### Hierarchical barriers (R272) -/

section Hierarchical

variable {s : State} {t : Thread} {st : Seat} {l : BitVec 3} (acts : ActsSeated s t st) (outside : inRegion t = false)

include acts outside

theorem hbarOn_noGrid {i : Instr} (fine : illSub i = none) {lev : Nat} (wide : 2 ≤ lev) (noGrid : (lrecOf s t).grid = false)
    (arrives : Bool) (k : Thread → Nat → Out) :
    hbarOn i s lev arrives k = .next (takeStop s s.cur (mkStop s t .fault 0x02 0x07 t.pc)) := by
  rw [hbarOn, scalarOutside_run _ acts.1 fine outside]
  simp only [wide, noGrid, decide_true, Bool.not_false, Bool.and_self, if_true]
  exact fault_strand acts.2 ..

variable {lev inst : Nat} (may : lev < 2 ∨ (lrecOf s t).grid = true) (member : hbarInst s t lev = some inst)

include may member

theorem hbarOn_runs {i : Instr} (fine : illSub i = none) {arrives : Bool} (full : arrives = true → st.am = st.seated)
    (k : Thread → Nat → Out) : hbarOn i s lev arrives k = k (if arrives then foldRelease t lev else t) inst := by
  have granted : (decide (2 ≤ lev) && !(lrecOf s t).grid) = false := by
    rcases may with near | grid
    · simp [Nat.not_le.2 near]
    · simp [grid]
  have whole : (arrives && t.seat.any fun st => st.am != st.seated) = false := by
    cases arrives <;> simp_all [acts.2]
  rw [hbarOn, scalarOutside_run _ acts.1 fine outside]
  simp only [granted, member, whole, Bool.false_eq_true, if_false]

end Hierarchical

section HierarchicalInstructions

variable {l : BitVec 3} (level : 1 ≤ l.toNat) (known : l.toNat < 5)

include level known

theorem defect_level : defect (l == 0 || decide (5 ≤ l.toNat)) 0x02 = none := by
  have notZero : (l == 0) = false := by
    rw [beq_eq_false_iff_ne]
    rintro rfl
    exact absurd level (by decide)
  rw [notZero, decide_eq_false (Nat.not_le.2 known)]
  rfl

variable {s : State} {t : Thread} {st : Seat} {inst : Nat} (acts : ActsSeated s t st) (outside : inRegion t = false)

include acts outside

theorem exec_hbarArw_noGrid (wide : 2 ≤ l.toNat) (noGrid : (lrecOf s t).grid = false) :
    exec (.hbarArw l) s = .next (takeStop s s.cur (mkStop s t .fault 0x02 0x07 t.pc)) := by
  rw [exec_hbarArw, execHbarArw, hbarOn_noGrid acts outside ((illSub_hbarArw l).trans (defect_level level known)) wide noGrid]

variable (may : l.toNat < 2 ∨ (lrecOf s t).grid = true) (member : hbarInst s t l.toNat = some inst)

include may member

theorem exec_hbarArv_arrives (full : st.am = st.seated) {d : SReg} (dst : d ≠ 0) :
    exec (.hbarArv d l) s = .next (putThr (hbarArrive s (foldRelease t l.toNat) l.toNat inst) s.cur
      (advance (setS (foldRelease t l.toNat) d (.u ((hbarAt (launchOf s t.launch) l.toNat inst).gen.setWidth 64))) 4)) := by
  have fine : illSub (.hbarArv d l) = none := by
    rw [illSub_hbarArv, zeroDst_of_ne dst, defect_level level known]
    rfl
  rw [exec_hbarArv, execHbarArv, hbarOn_runs acts outside may member fine fun _ => full]
  rfl

theorem exec_hbarArw_arrives (full : st.am = st.seated) :
    exec (.hbarArw l) s = .next (putThr (hbarArrive s (foldRelease t l.toNat) l.toNat inst) s.cur
      { foldRelease t l.toNat with wait := .hbar l.toNat (hbarAt (launchOf s t.launch) l.toNat inst).gen }) := by
  rw [exec_hbarArw, execHbarArw,
    hbarOn_runs acts outside may member ((illSub_hbarArw l).trans (defect_level level known)) fun _ => full]
  rfl

theorem exec_hbarWt_eq {a : SReg} {v : Word} (value : getS t a = .u v) :
    exec (.hbarWt a l) s = if (hbarAt (launchOf s t.launch) l.toNat inst).gen ≠ v.setWidth 8 then .next (afterNone s t)
      else .next (putThr s s.cur { t with wait := .hbar l.toNat (v.setWidth 8) }) := by
  rw [exec_hbarWt, execHbarWt, 
    hbarOn_runs acts outside may member ((illSub_hbarWt a l).trans (defect_level level known)) fun arrives => absurd arrives Bool.false_ne_true]
  simp only [Bool.false_eq_true, if_false, value, needU_u]
  rfl

end HierarchicalInstructions

end Sys2Proof.Machine

namespace Sys2Proof.Laws

open Sys2Proof Sys2Proof.Machine

/-- Settles O21: an arrival by the fields of `barSet`, the instructions on a word by `barWord` and `barArrival`, and those of a level
by `hbarOn_runs`. -/
theorem barriers : Obligations.Barriers := by
  unfold Obligations.Barriers
  refine ⟨?word, ?instructions, ?levels⟩
  case word =>
    intro w k
    have expFits := barExp_lt w
    have leftFits : barPend w - k < 2 ^ 20 := (Nat.sub_le ..).trans_lt (barPend_lt w)
    rcases Nat.lt_or_ge k (barPend w) with below | all
    · rw [barArrive_below below]
      refine ⟨fun _ => ⟨rfl, barPend_barSet _ _ _ expFits leftFits, barGen_barSet _ _ _ expFits leftFits, ?_⟩,
        fun all => absurd below (Nat.not_lt.2 all), barExp_barSet _ _ _ expFits leftFits, barMagic_barSet _ _ _ expFits leftFits,
        bit56_barSet _ _ _ expFits leftFits⟩
      rw [bit57_barSet _ _ _ expFits leftFits, Bool.or_false]
    · rw [barArrive_releases all]
      exact ⟨fun below => absurd below (Nat.not_lt.2 all), fun _ => ⟨rfl, barPend_barSet _ _ _ expFits expFits,
        barGen_barSet _ _ _ expFits expFits, bit57_barSet _ _ _ expFits expFits⟩, barExp_barSet _ _ _ expFits expFits,
        barMagic_barSet _ _ _ expFits expFits, bit56_barSet _ _ _ expFits expFits⟩
  case instructions =>
    intro s t st acts outside
    refine ⟨fun a off w named reg at_ => ⟨fun d dst => ?_, fun d b n dst counted count => ?_, fun all => ?_, fun below => ?_,
        fun b g value => ⟨fun moved => ?_, fun same => ?_⟩⟩,
      fun a b off n named reg aligned inside count some_ fits =>
        exec_barInit_makes acts outside named reg aligned inside count some_ fits,
      fun full => ⟨?_, fun d dst => ?_⟩, fun b g value => ?_,
      fun t' st' s' w off line k listed => ?_, fun part => ⟨?_, fun d dst => ?_⟩⟩
    · rw [exec_barArv_eq acts outside dst fun _ => rfl, barArrival_scratch acts.2 _ named reg at_ (.inl ⟨rfl, rfl⟩)]
      rfl
    · rw [exec_barArv_eq acts outside dst fun none => absurd none named,
        barArrival_scratch acts.2 _ named reg at_ (.inr ⟨counted, n, count, rfl⟩)]
      rfl
    · exact (exec_barArw_on acts outside fun k => barArrival_scratch acts.2 k named reg at_ (.inl ⟨rfl, rfl⟩)).trans
        (congrArg _ (if_pos all))
    · exact (exec_barArw_on acts outside fun k => barArrival_scratch acts.2 k named reg at_ (.inl ⟨rfl, rfl⟩)).trans
        (congrArg _ (if_neg (Nat.not_le.2 below)))
    · rw [exec_barWt_on acts outside value fun k => barWord_scratch k named reg at_ false, if_neg moved]
    · rw [exec_barWt_on acts outside value fun k => barWord_scratch k named reg at_ false, if_pos same, same]
    · exact exec_barArw_on acts outside fun k => barArrival_own acts.2 k full
    · rw [exec_barArv_eq acts outside dst fun _ => rfl, barArrival_own acts.2 _ full]
      rfl
    · exact exec_barWt_on acts outside value fun k => barWord_own k false
    · rw [passBar_seen listed]
      exact le_maxTab2_right ..
    · exact exec_barArw_partial acts outside part
    · rw [exec_barArv_eq acts outside dst fun _ => rfl, barArrival_partial acts.2 _ part]
  case levels =>
    intro s t st l inst acts outside level known
    refine ⟨fun may member => ⟨fun full => ⟨fun d dst => exec_hbarArv_arrives level known acts outside may member full dst,
        exec_hbarArw_arrives level known acts outside may member full⟩,
      fun a v value => ⟨fun moved => ?_, fun same => ?_⟩⟩,
      fun wide noGrid => exec_hbarArw_noGrid level known acts outside wide noGrid⟩
    · rw [exec_hbarWt_eq level known acts outside may member value, if_pos moved]
    · rw [exec_hbarWt_eq level known acts outside may member value, if_neg (not_not.2 same)]

end Sys2Proof.Laws

end

section

/-! ## Region instructions (10_memory_sync_instructions.md; O23)

In a live region an instruction either acts on the region's record or ends the region: whatever R128 forbids there is a fault of the
strand, which begins the abort of its region (`takeStop_inLive`). -/

namespace Sys2Proof.Machine

open Sys2Proof

/-! ### In a live region (R277, R278) -/

section Live

variable {s : State} {t : Thread} {st : Seat} {r : Region} (live : InLive s t st r)

include live

theorem InLive.movable : regionOpen r = true := by simp [regionOpen, live.2.2.2]

/-- A fault in a live region begins its abort, and is taken when the abort is done (R139). -/
theorem takeStop_inLive (p : Stop) :
    takeStop s s.cur p = abortBegun s st.region r 3 p.cause 0 (some { p with region := true }) := by
  obtain ⟨⟨acts, strand⟩, inside, listed, phase⟩ := live
  have open_ : regionOpen r = true := by simp [regionOpen, phase]
  have notCommitting : committing s st.region = false := by simp [committing, listed, phase]
  have notAborting : aborting s st.region = false := by simp [aborting, listed, phase]
  unfold takeStop
  rw [acts]
  simp only [strand, inside, notCommitting, notAborting, Bool.false_eq_true, or_self, if_false]
  exact startAbort_eq_abortBegun listed open_ ..

theorem fault_inLive (cause sub : Nat) : fault s t cause sub =
    .next (abortBegun s st.region r 3 cause 0 (some { mkStop s t .fault cause sub t.pc with region := true })) := by
  rw [fault_strand live.1.2, takeStop_inLive live]
  rfl

theorem inLive_runs {i : Instr} (fine : illSub i = none) (k : Thread → Seat → Region → Out) : inLive i s k = k t st r := by
  obtain ⟨⟨acts, strand⟩, inside, listed, _⟩ := live
  rw [inLive, scalar_run _ acts fine]
  simp only [strand, listed, if_neg inside]

theorem rnarRead_inLive {i : Instr} (fine : illSub i = none) (d : SReg) (bound : Region → Nat) (past : Seat → Word) :
    rnarRead i d bound past s = .next (afterS s t d 4 (.u (BitVec.ofNat 64 (bound r)))) := by
  obtain ⟨⟨acts, strand⟩, inside, listed, _⟩ := live
  rw [rnarRead, scalar_run _ acts fine]
  simp only [strand, listed, if_neg inside]
  rfl

theorem exec_rend_freezes (full : st.am = r.mask) :
    exec .rend s = .next (modRegion (putThr s s.cur { t with wait := .rend }) st.region fun x =>
      { x with phase := .freezing (regionLines s st.region) }) := by
  rw [exec_rend, execRend, inLive_runs live illSub_rend, if_neg (not_not.2 full)]

theorem exec_rend_partial (part : st.am ≠ r.mask) : exec .rend s = fault s t 0x02 0x06 := by
  rw [exec_rend, execRend, inLive_runs live illSub_rend, if_pos part]
  rfl

theorem exec_rabt_aborts (u : BitVec 8) : exec (.rabt u) s = .next (abortBegun s st.region r 6 0 u.toNat none) := by
  rw [exec_rabt, execRabt, inLive_runs live (illSub_rabt u),
    startAbort_eq_abortBegun live.2.2.1 live.movable]
  rfl

theorem exec_rnarNarrow_moves {a b : SReg} {lo hi : Word} (low : getS t a = .u lo) (high : getS t b = .u hi) :
    exec (.rnarNarrow a b) s = .next (moveBounds (afterNone s t) st.region lo.toNat hi.toNat) := by
  rw [exec_rnarNarrow, execRnarNarrow, inLive_runs live (illSub_rnarNarrow a b), low, needU_u, high, needU_u]
  rfl

/-! ### What a live region does not allow (R128) -/

theorem inRegion_inLive : inRegion t = true := by simp [inRegion, live.1.2, live.2.1]

theorem scalarOutside_inLive {i : Instr} (fine : illSub i = none) (k : Thread → Out) :
    scalarOutside i s k = fault s t 0x02 0x06 := by
  rw [scalarOutside, scalar_run _ live.1.1, if_pos (inRegion_inLive live)]
  · rfl
  · exact fine

end Live

/-- The instructions that begin by asking whether they stand in a live region. -/
def StandsOutside (i : Instr) : Prop := illSub i = none ∧ ∀ s, ∃ k, exec i s = scalarOutside i s k

theorem standsOutside_endsRegion {d a b : SReg} {o : BitVec 18} {w : BitVec 11} {l : BitVec 3} (dst : d ≠ 0) (level : 1 ≤ l.toNat)
    (known : l.toNat < 5) (k : BitVec 2) : ∀ i ∈ Instr.cmo a b l k :: endsRegion d a b o w l, StandsOutside i := by
  have named : (d == 0) = false := beq_eq_false_iff_ne.2 dst
  have levelFine := defect_level level known
  simp only [endsRegion, List.forall_mem_cons, List.not_mem_nil, false_imp_iff, implies_true, and_true]
  refine ⟨⟨?cmo, fun s => ⟨_, rfl⟩⟩, ⟨rfl, fun s => ⟨_, rfl⟩⟩, ⟨rfl, fun s => ⟨_, rfl⟩⟩, ⟨rfl, fun s => ⟨_, rfl⟩⟩, ⟨rfl, fun s => ⟨_, rfl⟩⟩,
    ⟨rfl, fun s => ⟨_, rfl⟩⟩, ⟨rfl, fun s => ⟨_, rfl⟩⟩, ⟨zeroDst_of_ne dst, fun s => ⟨_, rfl⟩⟩, ⟨?arv, fun s => ⟨_, rfl⟩⟩,
    ⟨?arw, fun s => ⟨_, rfl⟩⟩, ⟨rfl, fun s => ⟨_, rfl⟩⟩, ⟨?init, fun s => ⟨_, rfl⟩⟩, ⟨?harv, fun s => ⟨_, rfl⟩⟩,
    ⟨levelFine, fun s => ⟨_, rfl⟩⟩, ⟨levelFine, fun s => ⟨_, rfl⟩⟩⟩
  case cmo => rw [illSub_cmo, decide_eq_false (Nat.not_le.2 known)]; rfl
  case arv => rw [illSub_barArv, zeroDst_of_ne dst, named]; rfl
  case arw => rw [illSub_barArw, named]; rfl
  case init => rw [illSub_barInit, named]; rfl
  case harv => rw [illSub_hbarArv, zeroDst_of_ne dst, levelFine]; rfl

/-! ### Outside a region -/

section Outside

variable {s : State} {t : Thread} {st : Seat} (acts : ActsSeated s t st) (outside : st.region = 0)

include acts outside

theorem inLive_outside {i : Instr} (fine : illSub i = none) (k : Thread → Seat → Region → Out) :
    inLive i s k = .next (takeStop s s.cur (mkStop s t .fault 0x02 0x06 t.pc)) := by
  rw [inLive, scalar_run _ acts.1 fine, ← fault_strand acts.2]
  simp only [acts.2, if_pos outside]
  split <;> rfl

theorem rnarRead_outside {i : Instr} (fine : illSub i = none) (d : SReg) (bound : Region → Nat) (past : Seat → Word) :
    rnarRead i d bound past s = .next (afterS s t d 4 (.u (past st))) := by
  rw [rnarRead, scalar_run _ acts.1 fine]
  simp only [acts.2, if_pos outside]
  split <;> rfl

end Outside

end Sys2Proof.Machine

namespace Sys2Proof.Laws

open Sys2Proof Sys2Proof.Machine

/-- Settles O23: the region instructions run on the record (`inLive_runs`, `moveBounds_stays`, `moveBounds_aborts`) or find none, and what
a region does not allow is a fault in it (`fault_inLive`). -/
theorem regionInstructions : Obligations.RegionInstructions := by
  unfold Obligations.RegionInstructions
  refine ⟨fun s t st r live => ⟨exec_rend_freezes live, exec_rabt_aborts live, fun d dst =>
      ⟨rnarRead_inLive (i := .rnarLo d) live (zeroDst_of_ne dst) .., rnarRead_inLive (i := .rnarHi d) live (zeroDst_of_ne dst) ..⟩,
      ?narrow⟩,
    fun s t st acts outside => ⟨fun d dst => ⟨rnarRead_outside (i := .rnarLo d) acts outside (zeroDst_of_ne dst) ..,
      rnarRead_outside (i := .rnarHi d) acts outside (zeroDst_of_ne dst) ..⟩, ?others⟩,
    fun s t st r d a b o w l live dst level known => ⟨fun k i ends => ?_, fun part => ?_⟩⟩
  case narrow =>
    intro a b lo hi low high
    rw [exec_rnarNarrow_moves live low high]
    have listed : tabFind (afterNone s t).reg.regions st.region = some r := live.2.2.1
    refine ⟨fun stays => congrArg _ ?_, fun breaks => congrArg _ (moveBounds_aborts listed live.movable (.inl breaks))⟩
    rcases stays with ⟨loose, order⟩ | ⟨loStays, hiStays, order⟩
    · exact moveBounds_stays listed live.movable order (.inl loose)
    · exact moveBounds_stays listed live.movable (by omega) (.inr ⟨Nat.max_eq_left loStays, Nat.min_eq_left hiStays⟩)
  case others =>
    simp only [List.forall_mem_cons, List.not_mem_nil, false_imp_iff, implies_true, and_true]
    exact ⟨inLive_outside acts outside illSub_rend _, inLive_outside acts outside (illSub_rabt 0) _,
      inLive_outside acts outside (illSub_rnarNarrow 1 2) _⟩
  · obtain ⟨fine, asks⟩ := standsOutside_endsRegion dst level known k i ends
    obtain ⟨body, runs⟩ := asks s
    rw [runs, scalarOutside_inLive live fine, fault_inLive live]
  · rw [exec_rend_partial live part, fault_inLive live]

end Sys2Proof.Laws

end

section

/-! ## The checks of an access and its issue (10_memory_sync_instructions.md; O28)

The checks are made lane by lane and their results gathered (`checkEach`). Marking a translation used reaches the memory system alone:
beside memory and the records of regions nothing changes, and where nothing holds the entry's line on chip only the entry is written. -/

namespace Sys2Proof.Machine

open Sys2Proof

/-! ### The checks of all lanes (R252) -/

section CheckEach

variable {chk : Req → Except Fail (LaneAcc × Option (Nat × Nat))}

/-- The failed checks of some lanes, with their lanes. -/
def failures (chk : Req → Except Fail (LaneAcc × Option (Nat × Nat))) (qs : List Req) : List (Nat × Fail) :=
  qs.filterMap fun q => match chk q with
    | .error f => some (q.lane, f)
    | .ok _ => none

theorem mem_failures {qs : List Req} {L : Nat} {f : Fail} :
    (L, f) ∈ failures chk qs ↔ ∃ q ∈ qs, q.lane = L ∧ chk q = .error f := by
  simp only [failures, List.mem_filterMap]
  refine exists_congr fun q => and_congr_right fun _ => ?_
  cases chk q <;> simp

theorem failures_passing {pre : List Req} (pass : ∀ p ∈ pre, ∃ r, chk p = .ok r) (post : List Req) :
    failures chk (pre ++ post) = failures chk post := by
  have none : failures chk pre = [] := List.filterMap_eq_nil_iff.2 fun p hp => by
    obtain ⟨r, ok⟩ := pass p hp
    simp [ok]
  rw [failures, List.filterMap_append, ← failures, ← failures, none, List.nil_append]

theorem checkEach_eq (qs : List Req) : checkEach chk qs = match failures chk qs with
    | (_, f) :: _ => .error (f, maskOf fun L => (failures chk qs).any fun x => x.1 == L && x.2.cause == f.cause)
    | [] => .ok (qs.filterMap fun q => (chk q).toOption) := by
  simp only [checkEach, List.filterMap_map]
  rfl

/-- Where every check passes, so do all together. -/
theorem checkEach_passes {qs : List Req} {accs : List (LaneAcc × Option (Nat × Nat))} (pass : qs.map chk = accs.map Except.ok) :
    checkEach chk qs = .ok accs := by
  have each : ∀ q ∈ qs, ∃ r, chk q = .ok r := fun q hq => by
    obtain ⟨r, _, ok⟩ := List.mem_map.1 (pass ▸ List.mem_map_of_mem (f := chk) hq)
    exact ⟨r, ok.symm⟩
  have none : failures chk qs = [] := by
    rw [← List.append_nil qs, failures_passing each]
    rfl
  have gathered : (qs.filterMap fun q => (chk q).toOption) = accs := by
    have mapped : (qs.map chk).filterMap Except.toOption = accs := by
      rw [pass, List.filterMap_map]
      exact List.filterMap_some
    rw [← mapped, List.filterMap_map]
    rfl
  rw [checkEach_eq, none, gathered]

theorem exists_passes {qs : List Req} (pass : ∀ q ∈ qs, ∃ r, chk q = .ok r) :
    ∃ accs : List (LaneAcc × Option (Nat × Nat)), qs.map chk = accs.map Except.ok := by
  induction qs with
  | nil => exact ⟨[], rfl⟩
  | cons q qs ih =>
    obtain ⟨r, ok⟩ := pass q (List.mem_cons_self ..)
    obtain ⟨accs, rest⟩ := ih fun p hp => pass p (List.mem_cons_of_mem _ hp)
    exact ⟨r :: accs, by rw [List.map_cons, List.map_cons, ok, rest]⟩

/-- The first lane that fails gives the fault, and the lanes that fail for its cause the mask. -/
theorem checkEach_fails {pre post : List Req} {q : Req} {f : Fail} (pass : ∀ p ∈ pre, ∃ r, chk p = .ok r) (fails : chk q = .error f) :
    checkEach chk (pre ++ q :: post) =
      .error (f, maskOf fun L => (failures chk (pre ++ q :: post)).any fun x => x.1 == L && x.2.cause == f.cause) := by
  have first : failures chk (pre ++ q :: post) = (q.lane, f) :: failures chk post := by
    rw [failures_passing pass, failures, List.filterMap_cons, fails]
    rfl
  rw [checkEach_eq]
  simp only [first]

end CheckEach

/-! ### The check of one lane -/

section CheckLane

variable {s : State} {t : Thread} {space n : Nat} {write : Bool} {q : Req}

theorem resolve_misaligned (misaligned : q.addr % (n : Int) ≠ 0) (i : Item) :
    resolve s t space i q.addr n = .error ⟨cALIGN, 0, BitVec.ofInt 64 q.addr, 0, 0⟩ := if_pos misaligned

theorem resolve_global {va : Nat} (global : space ≤ 1) (addr : q.addr = va) (aligned : va % n = 0) (wide : va < 2 ^ 64)
    (outside : bitsAt va 56 8 < 0xFE) (noAlias : isAlias (lrecOf s t) va = false) (i : Item) :
    resolve s t space i q.addr n = .ok (.mem va) := by
  have whole : ¬ q.addr % (n : Int) ≠ 0 := by
    rw [addr, not_not]
    exact_mod_cast aligned
  have word : (toWord q.addr).toNat = va := by
    rw [addr, toWord, BitVec.ofInt_natCast, BitVec.toNat_ofNat, Nat.mod_eq_of_lt wide]
  have notScratch : ¬ (space = 0 ∧ bitsAt va 56 8 = 0xFF) := by omega
  have notPrivate : ¬ (space = 0 ∧ bitsAt va 56 8 = 0xFE) := by omega
  simp only [resolve, if_neg whole, if_neg (show space ≠ 2 by omega), if_neg (show space ≠ 3 by omega), word, if_neg notScratch,
    if_neg notPrivate, noAlias, Bool.false_eq_true, if_false]

theorem checkLane_misaligned (misaligned : q.addr % (n : Int) ≠ 0) :
    checkLane s t space n write q = .error ⟨0x12, 0, BitVec.ofInt 64 q.addr, 0, 0⟩ := by
  rw [checkLane, resolve_misaligned misaligned]
  rfl

theorem checkLane_nonCanonical {va : Nat} (resolves : resolve s t space q.item q.addr n = .ok (.mem va)) (high : 2 ^ 57 ≤ va) :
    checkLane s t space n write q = .error ⟨0x10, 0x02, BitVec.ofNat 64 va, 0, 0⟩ := by
  have noEntry : va / 2 ^ 57 ≠ 0 := Nat.ne_of_gt (Nat.div_pos high (by decide))
  have fails : translate s (xlUnit t) t.ctx va = .error (0x02, 0, 0) := if_pos noEntry
  rw [checkLane, resolves]
  simp only [fails]
  rfl

theorem checkLane_plain (global : space ≤ 1) {va : Nat} {x : Xl} (addr : q.addr = va) (plain : PlainAccess s t n write va x) :
    checkLane s t space n write q = .ok (plainLane s t n va x q, none) := by
  obtain ⟨aligned, wide, outside, noAlias, mapped, allowed, notDevice⟩ := plain
  have notConstant : ¬ (decide (space = 4) && write) = true := by
    have : space ≠ 4 := by omega
    simp [this]
  have noDevice : ¬ (inRegion t && pteMt x.pte == 2) = true := by simpa using notDevice
  rw [checkLane, resolve_global global addr aligned wide outside noAlias]
  simp only [mapped, allowed, if_neg notConstant, if_neg noDevice]
  rfl

end CheckLane

/-! ### Marking a translation used (R345, R347) -/

/-- The records of regions are no part of what the memory system does to the slices. -/
def regionsOf (s : State) : Tab Region := s.reg.regions

theorem regions_sendBound (s : State) (die line rg : Nat) (raise : Bool) (v : Nat) :
    regionsOf (sendBound s die line rg raise v) = regionsOf s := ite_keeps regionsOf rfl rfl

theorem regions_sendTag (s : State) (die line : Nat) (t : Option Tag) (raise : Bool) (v : Nat) :
    regionsOf (sendTag s die line t raise v) = regionsOf s := by
  cases t with
  | none => rfl
  | some w => exact regions_sendBound ..

theorem regions_commitPos (s : State) (die line : Nat) (reads writes : Bool) :
    regionsOf (commitPos s die line reads writes) = regionsOf s := by
  have asReader (p : Nat) : regionsOf (if reads then sendTag s die line (lineTag s die line).writer true p else s) = regionsOf s :=
    ite_keeps regionsOf (regions_sendTag ..) rfl
  refine (ite_keeps regionsOf ?_ rfl : regionsOf (if writes then _ else _) = _).trans (asReader _)
  exact (regions_sendTag ..).trans (foldl_keeps regionsOf (fun _ _ => regions_sendBound ..) _ _)

theorem regions_writeBack (s : State) (l : L2Line) : regionsOf (writeBack s l) = regionsOf s := by
  obtain ⟨m, written⟩ := writeBack_eq s l
  rw [written]
  rfl

theorem regions_landLine (s : State) (line : Nat) : regionsOf (landLine s line) = regionsOf s := by
  unfold landLine
  split
  · exact regions_writeBack ..
  · rfl

theorem regions_evictLine (s : State) (die line : Nat) : regionsOf (evictLine s die line) = regionsOf s := by
  unfold evictLine
  split
  · rfl
  · exact ite_keeps regionsOf (regions_landLine (dropL2 s die line) line) rfl

theorem regions_makeWay (s : State) (die line : Nat) : regionsOf (makeWay s die line) = regionsOf s := by
  unfold makeWay
  split
  · rfl
  · dsimp only
    split
    · exact regions_evictLine ..
    · rfl

theorem regions_cleanFill (s : State) (die line key ctx : Nat) : regionsOf (cleanFill s die line key ctx).1 = regionsOf s := by
  unfold cleanFill
  repeat' split
  all_goals rfl

theorem regions_fillLine (s : State) (die line key ctx : Nat) : regionsOf (fillLine s die line key ctx).1 = regionsOf s := by
  unfold fillLine
  split
  · rfl
  · split
    · rfl
    · exact ite_keeps (fun x : State × LineRes => regionsOf x.1) rfl rfl
    · exact ite_keeps (fun x : State × LineRes => regionsOf x.1) ((regions_cleanFill ..).trans (regions_landLine s line)) rfl
    · exact regions_cleanFill ..

theorem regions_takeOwnership (s : State) (die line key ctx : Nat) :
    regionsOf (takeOwnership s die line key ctx).1 = regionsOf s := by
  have filled := (regions_fillLine (landLine s line) die line key ctx).trans (regions_landLine s line)
  unfold takeOwnership
  split
  next _ _ eq => exact (congrArg (fun x : State × LineRes => regionsOf x.1) eq).symm.trans filled
  next => exact filled

theorem regions_unpark (s : State) (line : Nat) : regionsOf (unpark s line) = regionsOf s := by
  unfold unpark
  split
  · rfl
  · exact ite_keeps regionsOf rfl (regions_writeBack ..)

theorem regions_combine (s : State) (line : Nat) : regionsOf (combine s line) = regionsOf s := by
  unfold combine
  split
  · rfl
  next p0 rest _ =>
    have taken := (regions_takeOwnership (makeWay (recallExcl (unpark s line) line) (sliceOf s line) line) (sliceOf s line) line
      p0.key (launchOf s p0.launch).ctx).trans ((regions_makeWay ..).trans (regions_unpark s line))
    refine ite_keeps regionsOf rfl ?_
    split
    next s1 d eq =>
      have atSlice : regionsOf s1 = regionsOf s := (congrArg (fun x : State × LineRes => regionsOf x.1) eq).symm.trans taken
      refine (foldl_keeps regionsOf (fun _ _ => foldl_keeps regionsOf (fun _ _ => ?_) _ _) _ _).trans ?_
      · rfl
      · exact (regions_commitPos ..).trans atSlice
    next s1 sub eq => exact (congrArg (fun x : State × LineRes => regionsOf x.1) eq).symm.trans taken

theorem regions_hubPutAs (s : State) (reads : Bool) (key : Option Nat) (pa n v : Nat) :
    regionsOf (hubPutAs s reads key pa n v) = regionsOf s := by
  have landed := (regions_landLine (stampWrite s (lineOf pa) (pa % 128) n) (lineOf pa)).trans rfl
  have put (x : State) : regionsOf (memPut x key pa n v) = regionsOf x := by
    unfold memPut
    repeat' split
    all_goals rfl
  have lost (x : State) : regionsOf (poisonLine x (lineOf pa)) = regionsOf x := ite_keeps regionsOf rfl rfl
  unfold hubPutAs
  refine ite_keeps regionsOf (ite_keeps regionsOf (lost _) rfl) ?_
  split
  · exact landed
  · split
    · exact (regions_commitPos ..).trans landed
    · exact (put _).trans landed

theorem regions_setAD (s : State) (ctx va : Nat) (write : Bool) : regionsOf (setAD s ctx va write) = regionsOf s := by
  have home (line : Nat) : regionsOf (recallHome s line) = regionsOf s := by
    unfold recallHome
    split
    · exact regions_writeBack ..
    · rfl
  unfold setAD
  split
  · exact ite_keeps regionsOf rfl ((regions_hubPutAs ..).trans ((regions_unpark ..).trans ((regions_combine ..).trans (home _))))
  · rfl

/-- The positions of a read change nothing but the slices' state for regions, and none of the regions' records. -/
theorem commitRead_eq (s : State) (line : Nat) : ∃ r, commitRead s line = { s with reg := r } ∧ r.regions = s.reg.regions := by
  unfold commitRead
  split
  · exact ⟨s.reg, rfl, rfl⟩
  · have entered (die : Nat) : ∃ r, enterSlice s die line = { s with reg := r } ∧ r.regions = s.reg.regions := by
      unfold enterSlice
      split
      · exact ⟨_, rfl, rfl⟩
      · exact ⟨s.reg, rfl, rfl⟩
    obtain ⟨r0, enters, same0⟩ := entered (sliceOf s line)
    obtain ⟨r, commits⟩ := commitPos_eq (enterSlice s (sliceOf s line) line) (sliceOf s line) line true false
    have same : r.regions = (enterSlice s (sliceOf s line) line).reg.regions :=
      (congrArg regionsOf commits).symm.trans (regions_commitPos ..)
    rw [enters] at same
    refine ⟨r, ?_, same.trans same0⟩
    rw [commits, enters]

theorem walkReads_eq (s : State) (lines : List Nat) :
    ∃ r, walkReads s lines = { s with reg := r } ∧ r.regions = s.reg.regions := by
  suffices h : ∀ (l : List Nat) (s : State), ∃ r, l.foldl commitRead s = { s with reg := r } ∧ r.regions = s.reg.regions from
    h lines.reverse s
  intro l
  induction l with
  | nil => exact fun s => ⟨s.reg, rfl, rfl⟩
  | cons line l ih =>
    intro s
    obtain ⟨r0, reads, same0⟩ := commitRead_eq s line
    obtain ⟨r, rest, same⟩ := ih (commitRead s line)
    refine ⟨r, ?_, ?_⟩
    · rw [List.foldl_cons, rest, reads]
    · rw [same, reads]
      exact same0

/-- Caching a translation changes the caches and the positions of the lines that the walk read. -/
theorem cacheXl_eq (s : State) (unit ctx va : Nat) :
    ∃ r tlb, cacheXl s unit ctx va = { s with reg := r, coh := { s.coh with tlb := tlb } } ∧ r.regions = s.reg.regions := by
  unfold cacheXl
  split
  · exact ⟨s.reg, s.coh.tlb, rfl, rfl⟩
  · split
    · exact ⟨s.reg, _, rfl, rfl⟩
    next e lv addr lines _ _ =>
      obtain ⟨r, reads, same⟩ := walkReads_eq s lines
      dsimp only
      rw [reads]
      split
      · exact ⟨r, _, rfl, same⟩
      · exact ⟨r, _, rfl, same⟩
    · exact ⟨s.reg, s.coh.tlb, rfl, rfl⟩

theorem regions_noteAccess (s : State) (unit ctx va : Nat) (write : Bool) :
    (noteAccess s unit ctx va write).reg.regions = s.reg.regions := by
  obtain ⟨r, tlb, caches, same⟩ := cacheXl_eq (setAD s ctx va write) unit ctx va
  rw [noteAccess, caches]
  exact same.trans (regions_setAD ..)

theorem noteAccess_marked {s : State} {unit ctx va : Nat} {write : Bool} {e lv addr : Nat} {ls : List Nat} {tl : Tlb}
    (leaf : walk s ctx va = .leaf e lv addr ls) (set : e ||| 0x40 ||| (if write then 0x80 else 0) = e)
    (cached : tlbIn s unit ctx (va / 4096) = some tl) : noteAccess s unit ctx va write = s := by
  have marked : setAD s ctx va write = s := by
    simp only [setAD, leaf]
    exact if_pos set
  rw [noteAccess, marked, cacheXl, cached]

theorem length_leBytes (n x : Nat) : (leBytes n x).length = n := by
  induction n generalizing x with
  | zero => rfl
  | succ n ih => rw [leBytes, List.length_cons, ih]

theorem hubReady_eq {s : State} (noPartial : s.coh.partials = []) (home : ∀ r ∈ s.coh.remote, r.owned = false)
    (line : Nat) : hubReady s line = s := by
  have notAway : (s.coh.remote.find? fun r => r.line == line && r.owned) = none :=
    List.find?_eq_none.2 fun r hr => by simp [home r hr]
  have here : recallHome s line = s := by rw [recallHome, notAway]
  rw [hubReady, here, combine_noPartials (linePartials_none (by simp [noPartial]))]

section NothingOnChip

variable {s : State} (noLocket : s.coh.lockets = []) (noL2 : s.coh.l2 = []) (noWback : s.coh.wbacks = [])

include noLocket noL2 noWback

/-- A write of the hub to its own tables, of a line that nothing on chip holds, writes memory or is lost. -/
theorem memByte_hubPutAs (reads : Bool) {pa n v a : Nat} (other : a < pa ∨ pa + n ≤ a) :
    memByte (hubPutAs s reads none pa n v) a = memByte s a := by
  have landed : landLine (stampWrite s (lineOf pa) (pa % 128) n) (lineOf pa) = stampWrite s (lineOf pa) (pa % 128) n :=
    landLine_none (by simp [wbAt, stampWrite, noWback])
  have notParked : locketAt (stampWrite s (lineOf pa) (pa % 128) n) (lineOf pa) = none := by
    simp [locketAt, stampWrite, noLocket]
  have notHeld : l2Any (stampWrite s (lineOf pa) (pa % 128) n) (lineOf pa) = none := by
    simp [l2Any, stampWrite, noL2]
  unfold hubPutAs
  simp only [landed, notParked, notHeld]
  split
  · rfl
  · exact tabGet_putBytes_out _ _ _ _ (by rwa [length_leBytes])

variable (noPartial : s.coh.partials = []) (home : ∀ r ∈ s.coh.remote, r.owned = false)

include noPartial home

theorem memByte_noteAccess {unit ctx va : Nat} {write : Bool} {e lv addr : Nat} {ls : List Nat}
    (leaf : walk s ctx va = .leaf e lv addr ls) {a : Nat} (other : a < addr ∨ addr + 8 ≤ a) :
    memByte (noteAccess s unit ctx va write) a = memByte s a := by
  obtain ⟨r, tlb, caches, _⟩ := cacheXl_eq (setAD s ctx va write) unit ctx va
  have marked : memByte (setAD s ctx va write) a = memByte s a := by
    have unparked : unpark s (lineOf addr) = s := unpark_none (by simp [locketAt, noLocket])
    simp only [setAD, leaf, hubReady_eq noPartial home, unparked]
    exact ite_keeps (fun x => memByte x a) rfl (memByte_hubPutAs noLocket noL2 noWback true other)
  rw [noteAccess, caches]
  exact marked

end NothingOnChip

/-! ### Issue (R79) -/

/-- An access whose one lane goes to memory is put in flight. -/
theorem launchOp_single (s : State) (t : Thread) (o : Op) {a : LaneAcc} (todo : a.phase = .todo) (goes : aborting s o.region = false) :
    launchOp s t o [(a, none)] =
      let s1 := noteAccess s (xlUnit t) t.ctx a.va.toNat (kindWrites o.kind)
      { s1 with
        threads := tabPut s1.threads s.cur { t with seqNo := o.seq }
        ops := tabPut s1.ops s1.nextId { o with lanes := [a] }
        nextId := s1.nextId + 1 } := by
  have running : (a.phase == .done) = false := by rw [todo]; rfl
  simp only [launchOp, goes, List.foldl_cons, List.foldl_nil, List.map_cons, List.map_nil, List.nil_append, List.any_cons,
    List.any_nil, Nat.lt_irrefl, decide_false, Bool.and_false, Bool.or_false, Bool.false_eq_true, if_false, List.all_cons,
    List.all_nil, running, Bool.false_and]
  rfl

end Sys2Proof.Machine

namespace Sys2Proof.Laws

open Sys2Proof Sys2Proof.Machine

/-- Settles O28: the checks by what `checkEach` makes of each lane's, the issue by `launchOp_single`, and the marking by what
`noteAccess` leaves alone (`besideMemory_noteAccess`, `regions_noteAccess`, `memByte_noteAccess`). -/
theorem accessChecks : Obligations.AccessChecks := by
  unfold Obligations.AccessChecks
  refine ⟨fun s t space n write qs => ⟨fun pass => ?_, fun pre q post f lanes pass fails => ?_, fun q x global _ positive plain => ?_,
      fun q _ misaligned => checkLane_misaligned misaligned, fun q va _ global addr aligned high outside wide noAlias =>
        checkLane_nonCanonical (resolve_global global addr aligned wide outside noAlias _) high⟩,
    fun s t o a todo goes => launchOp_single s t o todo goes,
    fun s unit ctx va write => ⟨?_, fun e lv addr ls tl leaf set cached => noteAccess_marked leaf set cached,
      fun e lv addr ls leaf noLocket noL2 noWback noPartial home a other =>
        memByte_noteAccess noLocket noL2 noWback noPartial home leaf other⟩⟩
  · obtain ⟨accs, passes⟩ := exists_passes pass
    refine ⟨accs, checkEach_passes passes, by simpa using (congrArg List.length passes).symm, fun k q at_ => ?_⟩
    have result := congrArg (fun l => l[k]?) passes
    simp only [List.getElem?_map, at_, Option.map_some] at result
    obtain ⟨r, found, ok⟩ := Option.map_eq_some_iff.1 result.symm
    exact ⟨r, found, ok.symm⟩
  · subst lanes
    refine ⟨_, checkEach_fails pass fails, fun L inRow => ?_⟩
    rw [laneIn_maskOf _ inRow, List.any_eq_true]
    constructor
    · rintro ⟨⟨L', g⟩, failed, same⟩
      obtain ⟨p, listed, lane, fault⟩ := mem_failures.1 failed
      obtain ⟨rfl, cause⟩ : L' = L ∧ g.cause = f.cause := by simpa using same
      exact ⟨p, g, listed, lane, fault, cause⟩
    · rintro ⟨p, g, listed, lane, fault, cause⟩
      exact ⟨(L, g), mem_failures.2 ⟨p, listed, lane, fault⟩, by simpa using cause⟩
  · exact checkLane_plain global (Int.toNat_of_nonneg positive).symm plain
  · have beside {α : Type} (field : State → α) :
        field (besideMemory (noteAccess s unit ctx va write)) = field (besideMemory s) :=
      congrArg field (besideMemory_noteAccess s unit ctx va write)
    exact ⟨beside State.threads, beside State.ops, beside State.wgs, beside State.launches, beside State.ctxs, beside State.engq,
      beside State.hub, regions_noteAccess s unit ctx va write, beside State.nextId, beside State.time⟩

end Sys2Proof.Laws

end

section

/-! ## Scalar accesses (10_memory_sync_instructions.md; O29)

A scalar access runs its checks for every item of its context; it then goes in flight, or a span is seated first. What decides between
them is the form of the address and the windows that it names. -/

namespace Sys2Proof.Machine

open Sys2Proof

/-! ### Access by the checks, and materialised destinations (R33, R34, R257) -/

/-- Checked accesses, as `checkAll` gives them: each with the scratch place that it goes to. -/
abbrev Checked := List (LaneAcc × Option (Nat × Nat))

theorem scalarAccess_passes (s : State) (t t' : Thread) (a : AccSpec) (accs : Checked) (keep : Checked → Checked) :
    scalarAccess s t t' a (.ok accs) keep = .next (launchOp s t' (mkOp s s.cur t 0 none a []) (keep accs)) := rfl

theorem scalarAccess_spanFails {s : State} {t : Thread} (span : t.seat = none) (t' : Thread) (a : AccSpec) (f : Fail × W32)
    (keep : Checked → Checked) : scalarAccess s t t' a (.error f) keep = .next (seatSpan s s.cur t none) := by
  simp only [scalarAccess, span]

theorem mDest_strand {s : State} {t : Thread} {st : Seat} (strand : t.seat = some st) {d : SReg} (row : RowFree s t d)
    (k : Thread → Out) : mDest s t d k = k (materialised s t st d) := by
  have room : (!isM (getS t d) && decide ((lrecOf s t).fall ≤ fallRowsUsed t d)) = false := by
    rcases row with held | free
    · simp [held]
    · simp [Nat.not_le.2 free]
  rw [mDest, inStrand_strand strand, room]
  rfl

theorem mDest_span {s : State} {t : Thread} (span : t.seat = none) (d : SReg) (k : Thread → Out) :
    mDest s t d k = .next (seatSpan s s.cur t none) := inStrand_span span _

/-! ### Loads and stores (R257, R258) -/

theorem illSub_sld_none {d : SReg} (dst : d ≠ 0) {z : BitVec 2} {g : BitVec 1} (size : z ≠ 3 ∨ g ≠ 1) (a : SReg) (p : BitVec 2)
    (o : BitVec 9) : illSub (.sld d a z g p o) = none := by
  have fits : (z == 3 && g == 1) = false := by
    simpa [imp_iff_not_or] using size
  rw [illSub_sld, zeroDst_of_ne dst, fits]
  rfl

theorem illSub_satom_none {d : SReg} (dst : d ≠ 0) {sc : BitVec 3} {o : BitVec 4} (scope : sc.toNat < 6) (known : o.toNat < 10)
    (a b : SReg) (w : BitVec 1) : illSub (.satom d a b w sc o) = none := by
  rw [illSub_satom, zeroDst_of_ne dst, decide_eq_false (Nat.not_le.2 scope), decide_eq_false (Nat.not_le.2 known)]
  rfl

/-- Whether a register's value is the same for every item, as an address of one access is. -/
def isUniform : SVal → Bool
  | .u _ => true
  | _ => false

theorem isUniform_iff {v : SVal} : isUniform v = true ↔ ∃ w, v = .u w := by
  cases v <;> simp [isUniform]

theorem isUniform_false_iff {v : SVal} : isUniform v = false ↔ ∀ w, v ≠ .u w := by
  rw [← Bool.not_eq_true, isUniform_iff, not_exists]

/-- The byte offset of a scalar access: its immediate in units of the bytes it moves (R257). -/
abbrev byteOff (z : BitVec 2) (o : BitVec 9) : Int := sext 9 o.toNat * ((2 ^ z.toNat : Nat) : Int)

section Issue

variable {s : State} {t : Thread} (acts : Acts s t)

include acts

theorem exec_sld_run {d : SReg} {z : BitVec 2} {g : BitVec 1} (dst : d ≠ 0) (size : z ≠ 3 ∨ g ≠ 1) (a : SReg) (p : BitVec 2)
    (o : BitVec 9) : exec (.sld d a z g p o) s =
      let wide := !isUniform (getS t a) || namesWindow s t (getS t a) (spaceOf p) (byteOff z o) 3 0xFE
      let access (t1 : Thread) (keep : Checked → Checked) : Out := scalarAccess s t (advance t1 4)
        ⟨.ld, .load, 0, 0, 2, false, t.seat.isNone, false, 0, .sreg d wide (g == 1) (2 ^ z.toNat)⟩
        (checkAll s t (spaceOf p) (2 ^ z.toNat) false
          (itemReqs s t (getS t a) (spaceOf p) (byteOff z o) (fun _ _ => 0) fun _ _ => 0)) keep
      if t.seat.isNone && (wide || namesWindow s t (getS t a) (spaceOf p) (byteOff z o) 2 0xFF) then .next (seatSpan s s.cur t none)
      else if wide then mDest s t d fun t1 => access t1 id
      else access t (·.take 1) := by
  rw [exec_sld, execSld, scalar_run _ acts (illSub_sld_none dst size ..)]
  rfl

theorem exec_sst_run (d a : SReg) (z p : BitVec 2) (o : BitVec 9) : exec (.sst d a z p o) s =
      let prv := namesWindow s t (getS t a) (spaceOf p) (byteOff z o) 3 0xFE
      if t.seat.isNone && (prv || namesWindow s t (getS t a) (spaceOf p) (byteOff z o) 2 0xFF) then
        .next (seatSpan s s.cur t none)
      else scalarAccess s t (advance t 4) ⟨.st, .store, 0, 0, 2, false, false, false, 0, .none⟩
        (checkAll s t (spaceOf p) (2 ^ z.toNat) true
          (itemReqs s t (getS t a) (spaceOf p) (byteOff z o) (fun L i => svalAt (getS t d) L i) fun _ _ => 0))
        fun accs => if isUniform (getS t a) && !prv then accs.drop (accs.length - 1) else accs := by
  rw [exec_sst, execSst, scalar_run _ acts (illSub_sst ..)]
  rfl

theorem exec_satom_run {d : SReg} {sc : BitVec 3} {o : BitVec 4} (dst : d ≠ 0) (scope : sc.toNat < 6) (known : o.toNat < 10)
    (a b : SReg) (w : BitVec 1) : exec (.satom d a b w sc o) s =
      let n : Nat := if w == 1 then 8 else 4
      let kind : AccKind := if o = 9 then .cas else .atomic
      let access (t1 : Thread) : Out := scalarAccess s t (advance t1 4)
        ⟨.atm, kind, o.toNat, 0, sc.toNat, false, false, false, 0, .sreg d (!isUniform (getS t a)) false n⟩
        (checkAll s t 0 n true
          (itemReqs s t (getS t a) 0 0 (fun L i => svalAt (getS t b) L i) fun L i => svalAt (getS t d) L i)) id
      if isUniform (getS t a) then
        if 1 < threadCount t then fault s t 0x02 0x08
        else if t.seat.isNone && namesWindow s t (getS t a) 0 0 2 0xFF then .next (seatSpan s s.cur t none)
        else access t
      else mDest s t d access := by
  have writes : kindWrites (if o = 9 then .cas else .atomic) = true := by split <;> rfl
  rw [exec_satom, execSatom, scalar_run _ acts (illSub_satom_none dst scope known ..)]
  simp only [itemsAccess, writes]
  rfl

theorem kgetWith_run {i : Instr} (fine : illSub i = none) (kind : AccKind) (d a : SReg) : kgetWith i kind d a s =
      let access (t1 : Thread) (keep : Checked → Checked) : Out := scalarAccess s t (advance t1 4)
        ⟨.ld, kind, 0, 0, 2, false, true, false, 0, .sreg d (!isUniform (getS t a)) false 8⟩
        (checkEach (outsideWindows (checkLane s t 0 1 false)) (itemReqs s t (getS t a) 0 0 (fun _ _ => 0) fun _ _ => 0)) keep
      if isUniform (getS t a) then access t (·.take 1) else mDest s t d fun t1 => access t1 id := by
  rw [kgetWith, scalar_run _ acts fine]
  rfl

end Issue

/-! ### Strands (R257, R258, R263, R267) -/

theorem toWord_natCast (w : Word) : toWord (w.toNat : Int) = w := by
  simp [toWord]

/-- No item's address in a window leaves the checks of a `kget` those of R252. -/
theorem checkEach_outsideWindows {s : State} {t : Thread} {v : SVal} {off : Int} {val val2 : Nat → Item → Word}
    (outside : ∀ q ∈ itemReqs s t v 0 off val val2, inWindow q.addr.toNat = false)
    (chk : Req → Except Fail (LaneAcc × Option (Nat × Nat))) :
    checkEach (outsideWindows chk) (itemReqs s t v 0 off val val2) = checkEach chk (itemReqs s t v 0 off val val2) := by
  have same : ∀ q ∈ itemReqs s t v 0 off val val2, outsideWindows chk q = chk q := by
    intro q listed
    have clear := outside q listed
    obtain ⟨x, -, rfl⟩ := List.mem_map.1 listed
    simp only [itemAddr, Nat.reduceEqDiff, or_self, if_false, Int.toNat_natCast] at clear ⊢
    rw [outsideWindows, if_neg]
    simpa [itemAddr, toWord_natCast] using clear
  unfold checkEach
  rw [List.map_congr_left fun q listed => congrArg (Prod.mk q.lane) (same q listed)]

section Strand

variable {s : State} {t : Thread} {st : Seat} (acts : ActsSeated s t st) {accs : Checked}

include acts

theorem exec_sld_strand {d a : SReg} {z p : BitVec 2} {g : BitVec 1} {o : BitVec 9} (dst : d ≠ 0) (size : z ≠ 3 ∨ g ≠ 1)
    (checks : checkAll s t (spaceOf p) (2 ^ z.toNat) false
      (itemReqs s t (getS t a) (spaceOf p) (byteOff z o) (fun _ _ => 0) fun _ _ => 0) = .ok accs) :
    let one := (∃ w, getS t a = .u w) ∧ namesWindow s t (getS t a) (spaceOf p) (byteOff z o) 3 0xFE = false
    (one → exec (.sld d a z g p o) s = .next (launchOp s (advance t 4)
      (scalarOpOf s t .ld .load 0 2 (.sreg d false (g == 1) (2 ^ z.toNat))) (accs.take 1))) ∧
    (¬ one → RowFree s t d → exec (.sld d a z g p o) s = .next (launchOp s (advance (materialised s t st d) 4)
      (scalarOpOf s t .ld .load 0 2 (.sreg d true (g == 1) (2 ^ z.toNat))) accs)) := by
  have seated : t.seat.isNone = false := by simp [acts.2]
  rw [exec_sld_run acts.1 dst size, checks]
  simp only [seated, Bool.false_and, Bool.false_eq_true, if_false, scalarAccess_passes]
  refine ⟨fun ⟨addr, shared⟩ => ?_, fun several row => ?_⟩
  · simp [isUniform_iff.2 addr, shared, scalarOpOf, seated]
  · have wide : (!isUniform (getS t a) || namesWindow s t (getS t a) (spaceOf p) (byteOff z o) 3 0xFE) = true := by
      rw [← isUniform_iff] at several
      simpa [imp_iff_not_or] using several
    simp only [wide, if_true, mDest_strand acts.2 row, id_eq, scalarOpOf, seated]
    rfl

theorem exec_sst_strand {d a : SReg} {z p : BitVec 2} {o : BitVec 9}
    (checks : checkAll s t (spaceOf p) (2 ^ z.toNat) true
      (itemReqs s t (getS t a) (spaceOf p) (byteOff z o) (fun L i => svalAt (getS t d) L i) fun _ _ => 0) = .ok accs) :
    let one := (∃ w, getS t a = .u w) ∧ namesWindow s t (getS t a) (spaceOf p) (byteOff z o) 3 0xFE = false
    (one → exec (.sst d a z p o) s = .next (launchOp s (advance t 4) (scalarOpOf s t .st .store 0 2 .none)
      (accs.drop (accs.length - 1)))) ∧
    (¬ one → exec (.sst d a z p o) s = .next (launchOp s (advance t 4) (scalarOpOf s t .st .store 0 2 .none) accs)) := by
  have seated : t.seat.isNone = false := by simp [acts.2]
  rw [exec_sst_run acts.1, checks]
  simp only [seated, Bool.false_and, Bool.false_eq_true, if_false, scalarAccess_passes]
  refine ⟨fun ⟨addr, shared⟩ => ?_, fun several => ?_⟩
  · simp only [isUniform_iff.2 addr, shared]
    rfl
  · rw [if_neg]
    · rfl
    · rw [← isUniform_iff] at several
      simpa using several

theorem exec_satom_strand {d a b : SReg} {w : BitVec 1} {sc : BitVec 3} {o : BitVec 4} (dst : d ≠ 0) (scope : sc.toNat < 6)
    (known : o.toNat < 10) :
    let n : Nat := if w == 1 then 8 else 4
    let kind : AccKind := if o = 9 then .cas else .atomic
    (checkAll s t 0 n true
        (itemReqs s t (getS t a) 0 0 (fun L i => svalAt (getS t b) L i) fun L i => svalAt (getS t d) L i) = .ok accs →
      ((∃ v, getS t a = .u v) → threadCount t ≤ 1 → exec (.satom d a b w sc o) s = .next (launchOp s (advance t 4)
        (scalarOpOf s t .atm kind o.toNat sc.toNat (.sreg d false false n)) accs)) ∧
      ((∀ v, getS t a ≠ .u v) → RowFree s t d → exec (.satom d a b w sc o) s =
        .next (launchOp s (advance (materialised s t st d) 4)
          (scalarOpOf s t .atm kind o.toNat sc.toNat (.sreg d true false n)) accs))) ∧
    ((∃ v, getS t a = .u v) → 1 < threadCount t →
      exec (.satom d a b w sc o) s = .next (takeStop s s.cur (mkStop s t .fault 0x02 0x08 t.pc))) := by
  have seated : t.seat.isNone = false := by simp [acts.2]
  rw [exec_satom_run acts.1 dst scope known]
  refine ⟨fun checks => ⟨fun addr single => ?_, fun addr row => ?_⟩, fun addr several => ?_⟩
  · simp only [isUniform_iff.2 addr, checks, Nat.not_lt.2 single, seated]
    rfl
  · simp only [isUniform_false_iff.2 addr, checks, mDest_strand acts.2 row]
    rfl
  · simp only [isUniform_iff.2 addr, several, if_true, fault_strand acts.2]

theorem kgetWith_strand {i : Instr} {kind : AccKind} {d a : SReg} (fine : illSub i = none)
    (outside : ∀ x ∈ itemReqs s t (getS t a) 0 0 (fun _ _ => 0) (fun _ _ => 0), inWindow x.addr.toNat = false)
    (checks : checkAll s t 0 1 false (itemReqs s t (getS t a) 0 0 (fun _ _ => 0) fun _ _ => 0) = .ok accs) :
    ((∃ v, getS t a = .u v) → kgetWith i kind d a s = .next (launchOp s (advance t 4)
      (mkOp s s.cur t 0 none ⟨.ld, kind, 0, 0, 2, false, true, false, 0, .sreg d false false 8⟩ []) (accs.take 1))) ∧
    ((∀ v, getS t a ≠ .u v) → RowFree s t d → kgetWith i kind d a s =
      .next (launchOp s (advance (materialised s t st d) 4)
        (mkOp s s.cur t 0 none ⟨.ld, kind, 0, 0, 2, false, true, false, 0, .sreg d true false 8⟩ []) accs)) := by
  have passes := (checkEach_outsideWindows outside _).trans checks
  rw [kgetWith_run acts.1 fine, passes]
  refine ⟨fun addr => ?_, fun addr row => ?_⟩
  · simp only [isUniform_iff.2 addr]
    rfl
  · simp only [isUniform_false_iff.2 addr, mDest_strand acts.2 row]
    rfl

end Strand

/-! ### Spans (R58, R257, R263) -/

section Span

variable {s : State} {t : Thread} (acts : Acts s t) (span : t.seat = none)

include acts span

theorem exec_sld_span {d a : SReg} {z p : BitVec 2} {g : BitVec 1} {o : BitVec 9} (dst : d ≠ 0) (size : z ≠ 3 ∨ g ≠ 1) :
    let windows := namesWindow s t (getS t a) (spaceOf p) (byteOff z o) 3 0xFE ||
      namesWindow s t (getS t a) (spaceOf p) (byteOff z o) 2 0xFF
    let r := checkAll s t (spaceOf p) (2 ^ z.toNat) false
      (itemReqs s t (getS t a) (spaceOf p) (byteOff z o) (fun _ _ => 0) fun _ _ => 0)
    ((∃ w, getS t a = .u w) → windows = false →
      (∀ accs, r = .ok accs → exec (.sld d a z g p o) s = .next (launchOp s (advance t 4)
        (scalarOpOf s t .ld .load 0 2 (.sreg d false (g == 1) (2 ^ z.toNat))) (accs.take 1))) ∧
      (∀ f, r = .error f → exec (.sld d a z g p o) s = .next (seatSpan s s.cur t none))) ∧
    ((∀ w, getS t a ≠ .u w) ∨ windows = true → exec (.sld d a z g p o) s = .next (seatSpan s s.cur t none)) := by
  have unseated : t.seat.isNone = true := by simp [span]
  rw [exec_sld_run acts dst size]
  refine ⟨fun addr clear => ?_, fun first => ?_⟩
  · obtain ⟨noPrivate, noScratch⟩ := Bool.or_eq_false_iff.1 clear
    simp only [isUniform_iff.2 addr, noPrivate, noScratch, unseated]
    refine ⟨fun accs checks => ?_, fun f checks => ?_⟩
    · rw [checks, scalarOpOf, unseated]
      rfl
    · simp only [checks, scalarAccess_spanFails span]
      rfl
  · refine if_pos ?_
    rw [← isUniform_false_iff] at first
    simpa [unseated, or_assoc] using first

theorem exec_sst_span {d a : SReg} {z p : BitVec 2} {o : BitVec 9} :
    let windows := namesWindow s t (getS t a) (spaceOf p) (byteOff z o) 3 0xFE ||
      namesWindow s t (getS t a) (spaceOf p) (byteOff z o) 2 0xFF
    let r := checkAll s t (spaceOf p) (2 ^ z.toNat) true
      (itemReqs s t (getS t a) (spaceOf p) (byteOff z o) (fun L i => svalAt (getS t d) L i) fun _ _ => 0)
    (windows = false →
      (∀ accs, r = .ok accs →
        ((∃ w, getS t a = .u w) → exec (.sst d a z p o) s = .next (launchOp s (advance t 4)
          (scalarOpOf s t .st .store 0 2 .none) (accs.drop (accs.length - 1)))) ∧
        ((∀ w, getS t a ≠ .u w) → exec (.sst d a z p o) s =
          .next (launchOp s (advance t 4) (scalarOpOf s t .st .store 0 2 .none) accs))) ∧
      (∀ f, r = .error f → exec (.sst d a z p o) s = .next (seatSpan s s.cur t none))) ∧
    (windows = true → exec (.sst d a z p o) s = .next (seatSpan s s.cur t none)) := by
  have unseated : t.seat.isNone = true := by simp [span]
  rw [exec_sst_run acts]
  refine ⟨fun clear => ?_, fun first => if_pos (by simpa [unseated] using first)⟩
  obtain ⟨noPrivate, noScratch⟩ := Bool.or_eq_false_iff.1 clear
  simp only [noPrivate, noScratch, unseated]
  refine ⟨fun accs checks => ⟨fun addr => ?_, fun addr => ?_⟩, fun f checks => ?_⟩
  · rw [checks, isUniform_iff.2 addr]
    rfl
  · rw [checks, isUniform_false_iff.2 addr]
    rfl
  · simp only [checks, scalarAccess_spanFails span]
    rfl

theorem exec_satom_span {d a b : SReg} {w : BitVec 1} {sc : BitVec 3} {o : BitVec 4} (dst : d ≠ 0) (scope : sc.toNat < 6)
    (known : o.toNat < 10) :
    let n : Nat := if w == 1 then 8 else 4
    let kind : AccKind := if o = 9 then .cas else .atomic
    let r := checkAll s t 0 n true
      (itemReqs s t (getS t a) 0 0 (fun L i => svalAt (getS t b) L i) fun L i => svalAt (getS t d) L i)
    let seats : Prop := exec (.satom d a b w sc o) s = .next (seatSpan s s.cur t none)
    ((∃ v, getS t a = .u v) → threadCount t ≤ 1 → namesWindow s t (getS t a) 0 0 2 0xFF = false →
      (∀ accs, r = .ok accs → exec (.satom d a b w sc o) s = .next (launchOp s (advance t 4)
        (scalarOpOf s t .atm kind o.toNat sc.toNat (.sreg d false false n)) accs)) ∧
      (∀ f, r = .error f → seats)) ∧
    ((∃ v, getS t a = .u v) → threadCount t ≤ 1 → namesWindow s t (getS t a) 0 0 2 0xFF = true → seats) ∧
    ((∀ v, getS t a ≠ .u v) → seats) := by
  have unseated : t.seat.isNone = true := by simp [span]
  rw [exec_satom_run acts dst scope known]
  refine ⟨fun addr single clear => ⟨fun accs checks => ?_, fun f checks => ?_⟩, fun addr single scratch => ?_, fun addr => ?_⟩
  · simp only [isUniform_iff.2 addr, Nat.not_lt.2 single, clear, unseated, checks]
    rfl
  · simp only [isUniform_iff.2 addr, Nat.not_lt.2 single, clear, unseated, checks, scalarAccess_spanFails span]
    rfl
  · simp only [isUniform_iff.2 addr, Nat.not_lt.2 single, scratch, unseated]
    rfl
  · simp only [isUniform_false_iff.2 addr, mDest_span span]
    rfl

end Span

end Sys2Proof.Machine

namespace Sys2Proof.Laws

open Sys2Proof Sys2Proof.Machine

/-- Settles O29: each instruction by its run (`exec_sld_run` and its kin), in a strand and in a span. -/
theorem scalarAccesses : Obligations.ScalarAccesses := by
  unfold Obligations.ScalarAccesses
  refine ⟨fun s t st d a z p o accs acts => ⟨fun g dst size => exec_sld_strand acts dst size, exec_sst_strand acts⟩,
    fun s t st d a b w sc o accs acts dst scope known => ?_,
    fun s t d a z p o acts span => ⟨fun g dst size => exec_sld_span acts span dst size, exec_sst_span acts span⟩,
    fun s t d a b w sc o acts span dst scope known => exec_satom_span acts span dst scope known⟩
  obtain ⟨passes, several⟩ := exec_satom_strand (a := a) (b := b) (w := w) (accs := accs) acts dst scope known
  refine ⟨passes, several, fun q form outside checks => ?_⟩
  rcases List.mem_pair.1 form with rfl | rfl
  · exact kgetWith_strand acts ((illSub_kget d a).trans (zeroDst_of_ne dst)) outside checks
  · exact kgetWith_strand acts ((illSub_kgetSet d a).trans (zeroDst_of_ne dst)) outside checks

end Sys2Proof.Laws

end

section

/-! ## Maintenance of lines and of reader sets (10_memory_sync_instructions.md; O30)

A range instruction acts on the lines of its range one after another; what it comes to is the state after the last of them, or the line
that stopped it. -/

namespace Sys2Proof.Machine

open Sys2Proof

/-! ### Ranges and their lines (R264, R268) -/

/-- The number of lines a range acts on: none when it is empty. -/
abbrev rangeLines (base len : Nat) : Nat := if len = 0 then 0 else lineSpan (base / 128 * 128) (base + len)

theorem rangeLines_within {base len : Nat} (nonempty : 0 < len) (within : base + len ≤ base / 128 * 128 + 128) :
    rangeLines base len = 1 := by
  rw [rangeLines, if_neg (by omega), lineSpan]
  omega

/-- A range covers its last byte by whole lines. -/
theorem lt_rangeLines {base len : Nat} (nonempty : 0 < len) : base + len ≤ base / 128 * 128 + rangeLines base len * 128 := by
  rw [rangeLines, if_neg (by omega), lineSpan]
  omega

/-- A range within a line covers the line just where it is the line. -/
theorem covers_line_iff {base first last : Nat} (from_ : first ≤ base) (within : last ≤ first + 128) :
    (base ≤ first ∧ first + 128 ≤ last) ↔ (base = first ∧ last = first + 128) := by
  omega

section Operands

variable {s : State} {t : Thread} {a b : SReg} {base len : Word} (low : getS t a = .u base) (size : getS t b = .u len)

include low size

theorem rangeOperands_run {wraps : Bool} (clear : inWindow base.toNat = false)
    (fits : wraps = true → base.toNat + len.toNat ≤ 2 ^ 64) (k : Nat → Nat → Out) :
    rangeOperands s t a b wraps k = k base.toNat len.toNat := by
  rw [rangeOperands, low, needU_u, size, needU_u, if_neg]
  simpa [clear] using fits

theorem rangeOperands_fails {wraps : Bool}
    (bad : inWindow base.toNat = true ∨ (wraps = true ∧ 2 ^ 64 < base.toNat + len.toNat)) (k : Nat → Nat → Out) :
    rangeOperands s t a b wraps k = faultWith s t 0x16 0x04 fun p => { p with va := base } := by
  rw [rangeOperands, low, needU_u, size, needU_u, if_pos bad]
  rfl

end Operands

theorem faultWith_strand {s : State} {t : Thread} {st : Seat} (strand : t.seat = some st) (cause sub : Nat) (f : Stop → Stop) :
    faultWith s t cause sub f = .next (takeStop s s.cur (f (mkStop s t .fault cause sub t.pc))) := by
  simp only [faultWith, strand]

/-! ### Range walks -/

theorem resumeAt_none {t : Thread} (fresh : t.resumeAt = none) : { t with resumeAt := none } = t := by
  rw [← fresh]

/-- A range within a line is that line's `cmo`. -/
theorem cmoRange_line {kind level base last va : Nat} {s : State} {t : Thread} {x : Xl} (plain : isAlias (lrecOf s t) va = false)
    (translates : translate s (xlUnit t) t.ctx va = .ok x) : cmoRange kind level base last t 1 va s =
      (cmoLine (noteAccess s (xlUnit t) t.ctx va false) (if kind = 3 ∧ ¬ (base ≤ va ∧ va + 128 ≤ last) then 2 else kind) level
        (t.seat.map (·.core)) (physDie s t) (lineOf x.pa), none) := by
  simp [cmoRange, plain, translates, imp_iff_not_or]

/-- A walk over lockets ends at the first line that is not canonical. -/
theorem lockRange_nonCanonical (unit ctx : Nat) (f : State → Locket → State × Nat) {n va : Nat} (aligned : va % 128 = 0)
    (past : 2 ^ 57 < va + n * 128) (lines : n ≠ 0) (s : State) (moved : Nat) :
    ∃ s1 m, lockRange unit ctx f n va s moved = (s1, m, some (max va (2 ^ 57))) := by
  induction n generalizing va s moved with
  | zero => exact absurd rfl lines
  | succ n ih =>
    rw [lockRange]
    by_cases canonical : va / 2 ^ 57 = 0
    · have below : va < 2 ^ 57 := by omega
      have next : max (va + 128) (2 ^ 57) = max va (2 ^ 57) := by omega
      have rest := ih (va := va + 128) (by omega) (by omega) (by omega)
      rw [next] at rest
      rw [if_neg (not_not.2 canonical)]
      split
      · exact rest ..
      · dsimp only
        split
        · exact rest ..
        · exact rest ..
    · have above : max va (2 ^ 57) = va := by omega
      rw [if_pos canonical, above]
      exact ⟨s, moved, rfl⟩

/-! ### `krev` and `kdrop` after their operands (R268) -/

/-- An empty range is a walk over no lines. -/
theorem lockInstr_run (s : State) (t : Thread) (kind : AccKind) (base len : Nat) (f : State → Locket → State × Nat) :
    lockInstr s t kind base len f =
      let r := lockRange (xlUnit t) t.ctx f (rangeLines base len) (base / 128 * 128) s 0
      let t1 := { t with pkdem := t.pkdem + BitVec.ofNat 64 r.2.1 }
      match r.2.2 with
      | none => .next (pathOp r.1 s.cur t (advance t1 4) kind)
      | some va => faultWith (putThr r.1 s.cur t1) t1 0x10 0x02 fun p => { p with va := BitVec.ofNat 64 va } := by
  by_cases empty : len = 0
  · simp only [lockInstr, rangeLines, empty, if_true]
    rfl
  · simp only [lockInstr, rangeLines, empty, if_false]
    rfl

theorem lockInstr_completes {s : State} {t : Thread} {base len m : Nat} {f : State → Locket → State × Nat} {s1 : State}
    (walk : lockRange (xlUnit t) t.ctx f (rangeLines base len) (base / 128 * 128) s 0 = (s1, m, none)) (kind : AccKind) :
    lockInstr s t kind base len f =
      .next (pathOp s1 s.cur t (advance { t with pkdem := t.pkdem + BitVec.ofNat 64 m } 4) kind) := by
  rw [lockInstr_run, walk]

theorem lockInstr_empty (s : State) (t : Thread) (kind : AccKind) (base : Nat) (f : State → Locket → State × Nat) :
    lockInstr s t kind base 0 f = .next (pathOp s s.cur t (advance t 4) kind) := by
  have none_ : t.pkdem + BitVec.ofNat 64 0 = t.pkdem := by simp
  rw [lockInstr_completes rfl, none_]

/-- A range past 2^57 stops at the first line that is not canonical. -/
theorem lockInstr_stops {s : State} {t : Thread} {base len : Nat} (nonempty : 0 < len) (past : 2 ^ 57 < base + len)
    (f : State → Locket → State × Nat) (kind : AccKind) : ∃ s1 m,
      lockRange (xlUnit t) t.ctx f (rangeLines base len) (base / 128 * 128) s 0 =
        (s1, m, some (max (base / 128 * 128) (2 ^ 57))) ∧
      lockInstr s t kind base len f =
        let t1 := { t with pkdem := t.pkdem + BitVec.ofNat 64 m }
        faultWith (putThr s1 s.cur t1) t1 0x10 0x02 fun p =>
          { p with va := BitVec.ofNat 64 (max (base / 128 * 128) (2 ^ 57)) } := by
  have covered := lt_rangeLines (base := base) nonempty
  obtain ⟨s1, m, walk⟩ := lockRange_nonCanonical (xlUnit t) t.ctx f (n := rangeLines base len) (va := base / 128 * 128)
    (by omega) (by omega) (by omega) s 0
  refine ⟨s1, m, walk, ?_⟩
  rw [lockInstr_run, walk]

section Strand

variable {s : State} {t : Thread} {st : Seat} (acts : ActsSeated s t st)

include acts

theorem physDie_strand : physDie s t = st.core / 128 := by
  simp only [physDie, acts.2]

/-! ### `kset` (R266) -/

theorem exec_kset_run {a : SReg} {v : Word} (operand : getS t a = .u v) (k : BitVec 3) : exec (.kset k a) s =
    match rsdFault (launchOf s t.launch) v st.core with
    | some sub => faultWith s t 0x14 sub fun p => { p with w6 := v }
    | none => .next (afterNone s { t with seat := some { st with kregs := tabSet 0 st.kregs k.toNat v } }) := by
  rw [exec_kset, execKset, scalar_run _ acts.1 (illSub_kset k a), inStrand_strand acts.2, operand, needU_u]
  rfl

theorem exec_kset_writes {a : SReg} {v : Word} (operand : getS t a = .u v) (k : BitVec 3)
    (fine : rsdFault (launchOf s t.launch) v st.core = none) : exec (.kset k a) s =
      .next (afterNone s { t with seat := some { st with kregs := tabSet 0 st.kregs k.toNat v } }) := by
  rw [exec_kset_run acts operand, fine]

theorem exec_kset_fails {a : SReg} {v : Word} (operand : getS t a = .u v) (k : BitVec 3) {sub : Nat}
    (bad : rsdFault (launchOf s t.launch) v st.core = some sub) : exec (.kset k a) s =
      .next (takeStop s s.cur { mkStop s t .fault 0x14 sub t.pc with w6 := v }) := by
  rw [exec_kset_run acts operand, bad]
  exact faultWith_strand acts.2 ..

section Range

variable {a b : SReg} {base len : Word} (low : getS t a = .u base) (size : getS t b = .u len)

include low size

theorem exec_krev_run (clear : inWindow base.toNat = false) (k : BitVec 3) : exec (.krev k a b) s =
    lockInstr s t .krev base.toNat len.toNat (revise t.launch st.core (tabGet 0 st.kregs k.toNat)) := by
  rw [exec_krev, execKrev, scalar_run _ acts.1 (illSub_krev k a b), inStrand_strand acts.2,
    rangeOperands_run low size clear (fun wraps => absurd wraps Bool.false_ne_true)]

theorem exec_kdrop_run (clear : inWindow base.toNat = false) : exec (.kdrop a b) s =
    lockInstr s t .kdrop base.toNat len.toNat (fun s2 k => (unpark s2 k.line, 0)) := by
  rw [exec_kdrop, execKdrop, scalar_run _ acts.1 (illSub_kdrop a b),
    rangeOperands_run low size clear (fun wraps => absurd wraps Bool.false_ne_true)]

theorem exec_krev_window (bad : inWindow base.toNat = true) (k : BitVec 3) : exec (.krev k a b) s =
    .next (takeStop s s.cur { mkStop s t .fault 0x16 0x04 t.pc with va := base }) := by
  rw [exec_krev, execKrev, scalar_run _ acts.1 (illSub_krev k a b), inStrand_strand acts.2,
    rangeOperands_fails low size (.inl bad), faultWith_strand acts.2]

theorem exec_kdrop_window (bad : inWindow base.toNat = true) : exec (.kdrop a b) s =
    .next (takeStop s s.cur { mkStop s t .fault 0x16 0x04 t.pc with va := base }) := by
  rw [exec_kdrop, execKdrop, scalar_run _ acts.1 (illSub_kdrop a b), rangeOperands_fails low size (.inl bad),
    faultWith_strand acts.2]

/-! ### `cmo` (R264, R265) -/

section Cmo

variable {l : BitVec 3} (known : l.toNat < 5) (k : BitVec 2) (outside : inRegion t = false)

include known outside

omit low size in
theorem cmo_operands : exec (.cmo a b l k) s = rangeOperands s t a b true fun base len =>
    let start := match t.resumeAt with
      | some r => r.toNat
      | none => base / 128 * 128
    let r := if len = 0 then (s, none) else cmoRange k.toNat l.toNat base (base + len) t (lineSpan start (base + len)) start s
    match r.2 with
    | none => .next (pathOp r.1 s.cur t (advance { t with resumeAt := none } 4) .cmo)
    | some (va, sub, e, lv) =>
      let t1 := { t with resumeAt := some (BitVec.ofNat 64 va) }
      faultWith (putThr r.1 s.cur t1) t1 0x10 sub fun p =>
        { p with va := BitVec.ofNat 64 va, w6 := BitVec.ofNat 64 e, w7 := BitVec.ofNat 64 lv } := by
  have fine : illSub (.cmo a b l k) = none := by
    rw [illSub_cmo, decide_eq_false (Nat.not_le.2 known)]
    rfl
  rw [exec_cmo, execCmo, scalarOutside_run _ acts.1 fine outside]
  rfl

theorem exec_cmo_window (bad : inWindow base.toNat = true ∨ 2 ^ 64 < base.toNat + len.toNat) : exec (.cmo a b l k) s =
    .next (takeStop s s.cur { mkStop s t .fault 0x16 0x04 t.pc with va := base }) := by
  rw [cmo_operands acts known k outside, rangeOperands_fails low size (by simpa using bad), faultWith_strand acts.2]

variable (clear : inWindow base.toNat = false) (fits : base.toNat + len.toNat ≤ 2 ^ 64)

include clear fits

theorem exec_cmo_fresh (fresh : t.resumeAt = none) : exec (.cmo a b l k) s =
    let r := cmoRange k.toNat l.toNat base.toNat (base.toNat + len.toNat) t (rangeLines base.toNat len.toNat)
      (base.toNat / 128 * 128) s
    match r.2 with
    | none => .next (pathOp r.1 s.cur t (advance t 4) .cmo)
    | some (va, sub, e, lv) =>
      let t1 := { t with resumeAt := some (BitVec.ofNat 64 va) }
      faultWith (putThr r.1 s.cur t1) t1 0x10 sub fun p =>
        { p with va := BitVec.ofNat 64 va, w6 := BitVec.ofNat 64 e, w7 := BitVec.ofNat 64 lv } := by
  rw [cmo_operands acts known k outside, rangeOperands_run low size clear fun _ => fits]
  simp only [resumeAt_none fresh, fresh]
  by_cases empty : len.toNat = 0
  · simp only [rangeLines, empty, if_true]
    rfl
  · simp only [rangeLines, empty, if_false]

theorem exec_cmo_resumes {r : Word} {s1 : State} (stopped : t.resumeAt = some r) (nonempty : 0 < len.toNat)
    (walk : cmoRange k.toNat l.toNat base.toNat (base.toNat + len.toNat) t (lineSpan r.toNat (base.toNat + len.toNat)) r.toNat s =
      (s1, none)) :
    exec (.cmo a b l k) s = .next (pathOp s1 s.cur t (advance { t with resumeAt := none } 4) .cmo) := by
  rw [cmo_operands acts known k outside, rangeOperands_run low size clear fun _ => fits]
  simp only [stopped, Nat.ne_of_gt nonempty, if_false, walk]

theorem exec_cmo_completes (fresh : t.resumeAt = none) {s1 : State}
    (walk : cmoRange k.toNat l.toNat base.toNat (base.toNat + len.toNat) t (rangeLines base.toNat len.toNat)
      (base.toNat / 128 * 128) s = (s1, none)) :
    exec (.cmo a b l k) s = .next (pathOp s1 s.cur t (advance t 4) .cmo) := by
  rw [exec_cmo_fresh acts low size known k outside clear fits fresh, walk]

theorem exec_cmo_stops (fresh : t.resumeAt = none) {s1 : State} {va sub e lv : Nat}
    (walk : cmoRange k.toNat l.toNat base.toNat (base.toNat + len.toNat) t (rangeLines base.toNat len.toNat)
      (base.toNat / 128 * 128) s = (s1, some (va, sub, e, lv))) :
    let t1 := { t with resumeAt := some (BitVec.ofNat 64 va) }
    exec (.cmo a b l k) s = faultWith (putThr s1 s.cur t1) t1 0x10 sub fun p =>
      { p with va := BitVec.ofNat 64 va, w6 := BitVec.ofNat 64 e, w7 := BitVec.ofNat 64 lv } := by
  rw [exec_cmo_fresh acts low size known k outside clear fits fresh, walk]

/-- A range within a line acts on that line alone, which a discard keeps only where the range is not all of it. -/
theorem exec_cmo_line (fresh : t.resumeAt = none) {x : Xl} (nonempty : 0 < len.toNat)
    (within : base.toNat + len.toNat ≤ base.toNat / 128 * 128 + 128)
    (plain : isAlias (lrecOf s t) (base.toNat / 128 * 128) = false)
    (translates : translate s (xlUnit t) t.ctx (base.toNat / 128 * 128) = .ok x) :
    let first := base.toNat / 128 * 128
    let whole := base.toNat = first ∧ base.toNat + len.toNat = first + 128
    exec (.cmo a b l k) s = .next (pathOp (cmoLine (noteAccess s (xlUnit t) t.ctx first false)
      (if k = 3 ∧ ¬ whole then 2 else k.toNat) l.toNat (some st.core) (st.core / 128) (lineOf x.pa)) s.cur t
      (advance t 4) .cmo) := by
  have discard : k.toNat = 3 ↔ k = 3 := BitVec.toNat_inj (x := k) (y := 3)
  have covers := covers_line_iff (Nat.div_mul_le_self base.toNat 128) within
  refine exec_cmo_completes acts low size known k outside clear fits fresh ?_
  rw [rangeLines_within nonempty within, cmoRange_line plain translates]
  simp only [discard, covers, acts.2, physDie_strand acts, Option.map_some]

end Cmo

end Range

end Strand

end Sys2Proof.Machine

namespace Sys2Proof.Laws

open Sys2Proof Sys2Proof.Machine

/-- Settles O30: the operands by `rangeOperands_run` and `rangeOperands_fails`, a `cmo` by its walk (`exec_cmo_fresh`), `krev` and
`kdrop` by theirs (`lockInstr_run`). -/
theorem maintenance : Obligations.Maintenance := by
  unfold Obligations.Maintenance
  refine fun s t st acts => ⟨fun k a v operand => ⟨exec_kset_writes acts operand k, fun sub => exec_kset_fails acts operand k⟩,
    fun a b base len low size clear => ⟨fun l k known outside fits => ⟨?_, ?_, ?_, ?_, ?_⟩, ?_, ?_, ?_, ?_⟩,
    fun a b base len low size outside => ⟨fun bad l k known => exec_cmo_window acts low size known k outside bad,
      fun bad => ⟨exec_krev_window acts low size bad, exec_kdrop_window acts low size bad⟩⟩⟩
  · exact fun s1 fresh walk => exec_cmo_completes acts low size known k outside clear fits fresh walk
  · exact fun s1 r stopped nonempty walk => exec_cmo_resumes acts low size known k outside clear fits stopped nonempty walk
  · exact fun s1 va sub e lv fresh walk => exec_cmo_stops acts low size known k outside clear fits fresh walk
  · rintro rfl fresh
    exact exec_cmo_completes acts low size known k outside clear fits fresh rfl
  · exact fun x nonempty within fresh plain translates =>
      exec_cmo_line acts low size known k outside clear fits fresh nonempty within plain translates
  · intro k s1 m walk
    rw [exec_krev_run acts low size clear, lockInstr_completes walk]
  · intro s1 m walk
    rw [exec_kdrop_run acts low size clear, lockInstr_completes walk]
  · rintro rfl
    refine ⟨fun k => ?_, ?_⟩
    · rw [exec_krev_run acts low size clear]
      exact lockInstr_empty ..
    · rw [exec_kdrop_run acts low size clear]
      exact lockInstr_empty ..
  · intro nonempty past
    simp only [exec_krev_run acts low size clear, exec_kdrop_run acts low size clear]
    exact ⟨fun k => lockInstr_stops nonempty past _ _, lockInstr_stops nonempty past _ _⟩

end Sys2Proof.Laws

end

section

/-! ## Lane accesses (10_memory_sync_instructions.md; O44)

A lane access makes one request for each executing lane (`laneReqs_eq`) and runs its checks; each row of `laneAccTable` is the access that
its instruction makes (`exec_laneAcc_runs`). A `prf` changes only what memory keeps, and the copy it leaves in the quad store stays as
the one below it is put (`mem_putCopy_of_ne`). -/

namespace Sys2Proof.Machine

open Sys2Proof

/-! ### Requests (R251, R252) -/

/-- The offset of a lane access is a field of 25 bits, read signed. -/
theorem sext_imm (imm : BitVec 32) : sext 25 imm.toNat = (imm.extractLsb' 0 25).toInt := by
  rw [sext_eq_toInt (by decide)]
  refine congrArg BitVec.toInt (BitVec.eq_of_toNat_eq ?_)
  simp

theorem toNat_toWord (x : Int) : ((toWord x).toNat : Int) = x % 2 ^ 64 := by
  rw [toWord, BitVec.toNat_ofInt, Int.toNat_of_nonneg (Int.emod_nonneg _ (by decide))]
  rfl

theorem laneAddr_eq {f : LaneFields} {e : LaneEnv} (fields : e.f = f) (sp L : Nat) : laneAddr e sp L =
    if sp = 2 ∨ sp = 3 then (srcA e 32 L : Int) + (f.imm.extractLsb' 0 25).toInt
    else ((srcA e 64 L : Int) + (f.imm.extractLsb' 0 25).toInt) % 2 ^ 64 := by
  rw [laneAddr, fields, sext_imm, toNat_toWord]

theorem laneReqs_eq {s : State} {f : LaneFields} {e : LaneEnv} (same : e.s = s) (fields : e.f = f) (sp : Nat) (v v2 : Nat → Nat) :
    laneReqs e sp v v2 = (lanesOf e.ex).map fun L =>
      ⟨L, slotItem s e.t e.st L, if sp = 2 ∨ sp = 3 then (srcA e 32 L : Int) + (f.imm.extractLsb' 0 25).toInt
        else ((srcA e 64 L : Int) + (f.imm.extractLsb' 0 25).toInt) % 2 ^ 64, BitVec.ofNat 64 (v L), BitVec.ofNat 64 (v2 L)⟩ := by
  subst same
  simp only [laneReqs, laneAddr_eq fields]

/-! ### Issue (R177, R181, R252) -/

/-- The thread after a lane access has issued: one with a result awaits it in its latch. -/
abbrev laneGoes (i : Instr) (e : LaneEnv) (sp : Nat) (a : AccSpec) : Thread :=
  if a.dst = .none then { e.t with seat := some (afterReads i e) }
  else { e.t with seat := some (awaitsLatch e sp a (afterReads i e)) }

/-- A lane access that goes into the latch is a long-latency producer, but for a load of scratch (R316). -/
def LongUnlessScratch (a : AccSpec) (sp : Nat) : Prop :=
  a.dst = .none ∨ longProducer a.kind sp = !decide (a.kind = .load ∧ sp = 2)

theorem laneAccess_passes {e : LaneEnv} {sp n : Nat} {a : AccSpec} {reqs : List Req} {accs : List (LaneAcc × Option (Nat × Nat))}
    (checks : checkAll e.s e.t sp n (kindWrites a.kind) reqs = .ok accs) (long : LongUnlessScratch a sp) (i : Instr) :
    laneAccess i e sp n a reqs = .next (launchOp e.s (laneGoes i e sp a)
      (mkOp e.s e.s.cur e.t e.b.seq (some (e.b.lpc + 3 * e.b.pos)) a []) accs) := by
  rw [laneAccess, checks]
  by_cases silent : a.dst = .none
  · simp only [laneGoes, silent, if_true]
    rfl
  · have marks : longProducer a.kind sp = !decide (a.kind = .load ∧ sp = 2) := long.resolve_left silent
    have marked (m n : BitVec 248) : (if longProducer a.kind sp = true then m ||| n else m) =
        if a.kind = .load ∧ sp = 2 then m else m ||| n := by
      rw [marks]
      by_cases scratchLoad : a.kind = .load ∧ sp = 2 <;> simp [scratchLoad]
    rw [laneGoes, if_neg silent]
    cases dst : a.dst with
    | none => exact absurd dst silent
    | sreg => simp only [awaitsLatch, dst, ← marked]; rfl
    | vreg => simp only [awaitsLatch, dst, ← marked]; rfl

theorem laneAccess_fails {e : LaneEnv} {sp n : Nat} {a : AccSpec} {reqs : List Req} {g : Fail} {m : W32}
    (checks : checkAll e.s e.t sp n (kindWrites a.kind) reqs = .error (g, m)) (i : Instr) :
    laneAccess i e sp n a reqs = .next (takeStop e.s e.s.cur { mkStop e.s e.t .fault g.cause g.sub (nextPc e.t) with
      lpc := some (e.b.lpc + 3 * e.b.pos), mask := m, va := g.va, w6 := BitVec.ofNat 64 g.w6, w7 := BitVec.ofNat 64 g.w7,
      write := kindWrites a.kind }) := by
  rw [laneAccess, checks]
  rfl

/-- What a row of the table of lane accesses says of its instruction. -/
def AccessRow (s : State) (f : LaneFields) (e : LaneEnv) (i : Instr) (sp : Nat) (a : AccSpec) (v v2 : Nat → Nat) : Prop :=
  LaneRuns i s e → e.f = f ∧ exec i s = laneAccess i e sp (accessBytes e.ty) a (laneReqs e sp v v2) ∧
    kindWrites a.kind = (a.kind != .load) ∧ LongUnlessScratch a sp

theorem exec_laneAcc_runs (s : State) (f : LaneFields) (e : LaneEnv) : ∀ q ∈ laneAccTable e f,
    AccessRow s f e q.1 q.2.1 q.2.2.1 q.2.2.2.1 q.2.2.2.2 := by
  simp only [laneAccTable, List.forall_mem_cons, List.not_mem_nil, false_imp_iff, implies_true, and_true]
  refine ⟨fun runs => ⟨fields_of_runs runs rfl, ?ld, rfl, .inr ?loadMarks⟩, fun runs => ⟨fields_of_runs runs rfl, ?st, rfl, .inl rfl⟩,
    fun runs => ⟨fields_of_runs runs rfl, ?stk, rfl, .inl rfl⟩, fun runs => ⟨fields_of_runs runs rfl, ?atom, rfl, .inr ?atomMarks⟩,
    fun runs => ⟨fields_of_runs runs rfl, ?red, rfl, .inl rfl⟩, fun runs => ⟨fields_of_runs runs rfl, ?cas, rfl, .inr ?casMarks⟩⟩
  case ld => rw [exec_ld, execLd, laneInstr_runs runs]; rfl
  case st => rw [exec_st, execSt, laneInstr_runs runs]; rfl
  case stk => rw [exec_stk, execStk, laneInstr_runs runs]; rfl
  case atom => rw [exec_atom, execAtom, laneInstr_runs runs]; rfl
  case red => rw [exec_red, execRed, laneInstr_runs runs]; rfl
  case cas => rw [exec_cas, execCas, laneInstr_runs runs]; rfl
  case loadMarks => simp only [longProducer, true_and]; rfl
  case atomMarks => simp [longProducer]
  case casMarks => simp [longProducer]

/-- A request of a lane by its generic address, as the atomics, `prf` and `cacc` make it. -/
abbrev genericReq (s : State) (f : LaneFields) (e : LaneEnv) (L : Nat) (v v2 : Word) : Req :=
  ⟨L, slotItem s e.t e.st L, ((srcA e 64 L : Int) + (f.imm.extractLsb' 0 25).toInt) % 2 ^ 64, v, v2⟩

theorem laneReqs_generic {s : State} {f : LaneFields} {e : LaneEnv} (same : e.s = s) (fields : e.f = f) (v v2 : Nat → Nat) :
    laneReqs e 0 v v2 = (lanesOf e.ex).map fun L => genericReq s f e L (BitVec.ofNat 64 (v L)) (BitVec.ofNat 64 (v2 L)) :=
  laneReqs_eq same fields 0 v v2

/-! ### `cacc` (R128, R262) -/

section Runs

variable {s : State} {f : LaneFields} {e : LaneEnv}

theorem exec_cacc_inRegion (runs : LaneRuns (.cacc f) s e) (inside : inRegion e.t = true) : exec (.cacc f) s =
    .next (takeStop s s.cur { mkStop s e.t .fault 0x02 0x06 (nextPc e.t) with
      lpc := some (e.b.lpc + 3 * e.b.pos), mask := e.ex }) := by
  rw [exec_cacc, execCacc, laneInstr_runs runs, if_pos inside]
  rfl

theorem exec_cacc_outside {accs : List (LaneAcc × Option (Nat × Nat))} (runs : LaneRuns (.cacc f) s e)
    (outside : inRegion e.t = false)
    (checks : (lanesOf e.ex).map (fun L => caccCheck s e.t e.ty (accessBytes e.ty)
      (genericReq s f e L (BitVec.ofNat 64 (srcB e e.rb L)) 0)) = accs.map Except.ok) :
    exec (.cacc f) s = .next (launchOp s { e.t with seat := some (afterReads (.cacc f) e) }
      (mkOp s s.cur e.t e.b.seq (some (e.b.lpc + 3 * e.b.pos)) ⟨.st, .cacc, 0, e.ty, 2, false, false, false, 0, .none⟩ []) accs) := by
  have passes : checkEach (caccCheck s e.t e.ty (accessBytes e.ty)) (laneReqs e 0 (srcB e e.rb) fun _ => 0) = .ok accs := by
    rw [laneReqs_generic runs.same (fields_of_runs runs rfl)]
    exact checkEach_passes ((List.map_map ..).trans checks)
  rw [exec_cacc, execCacc, laneInstr_runs runs, if_neg (by simp [outside]), passes]
  rfl

end Runs

/-! ### Copies (R3, R93, R256) -/

theorem mem_trimPlace_of_ne {s : State} {x : Copy} {p : Place} (listed : x ∈ s.coh.copies) (elsewhere : x.place ≠ p) (line : Nat) :
    x ∈ (trimPlace s p line).coh.copies := by
  unfold trimPlace
  dsimp only
  split
  · exact listed
  · split
    next v chosen =>
      have rival : v.place = p := by
        have := (List.mem_filter.1 (List.mem_of_getElem? chosen)).2
        simp only [Bool.and_eq_true, beq_iff_eq] at this
        exact this.1.1
      exact List.mem_filter.2 ⟨listed, by simp [rival, elsewhere]⟩
    next => exact listed

/-- A copy put at one place leaves those at other places. -/
theorem mem_putCopy_of_ne {s : State} {x c : Copy} (listed : x ∈ s.coh.copies) (elsewhere : x.place ≠ c.place) :
    x ∈ (putCopy s c).coh.copies := by
  have kept : x ∈ (trimPlace (dropCopy s c.place c.line) c.place c.line).coh.copies :=
    mem_trimPlace_of_ne (List.mem_filter.2 ⟨listed, by simp [elsewhere]⟩) elsewhere _
  unfold putCopy
  dsimp only
  split
  · exact kept
  · exact List.mem_cons_of_mem _ kept

theorem mem_putCopy_self {s : State} {c : Copy} (room : 0 < placeRoom s c.place c.line) : c ∈ (putCopy s c).coh.copies := by
  rw [putCopy, if_neg (Nat.ne_of_gt room)]
  exact List.mem_cons_self

theorem nearPlace_ne_quad (s : State) (o : Op) (c q : Nat) : nearPlace s o c ≠ .quad q := by
  unfold nearPlace
  split <;> exact Place.noConfusion

/-! ### A quad store keeps its room while its slice is read -/

theorem lockets_landLine (s : State) (line : Nat) : (landLine s line).coh.lockets = s.coh.lockets := by
  unfold landLine
  split
  next w _ =>
    obtain ⟨m, written⟩ := writeBack_eq (dropWb s line) w.held
    rw [written]
    rfl
  next => rfl

theorem lockets_cleanFill (s : State) (die line key ctx : Nat) : (cleanFill s die line key ctx).1.coh.lockets = s.coh.lockets := by
  unfold cleanFill
  repeat' split
  all_goals rfl

theorem lockets_fillLine (s : State) (die line key ctx : Nat) : (fillLine s die line key ctx).1.coh.lockets = s.coh.lockets := by
  unfold fillLine
  split
  · rfl
  · split
    · rfl
    · split <;> rfl
    · split
      · exact (lockets_cleanFill ..).trans (lockets_landLine s line)
      · rfl
    · exact lockets_cleanFill ..

theorem lockets_of_atSlices {s s' : State} (same : atSlices s' = atSlices s) : s'.coh.lockets = s.coh.lockets :=
  show (atSlices s').coh.lockets = (atSlices s).coh.lockets from congrArg (fun x : State => x.coh.lockets) same

theorem placeRoom_quad {s s' : State} (same : s'.coh.lockets = s.coh.lockets) (q line : Nat) :
    placeRoom s' (.quad q) line = placeRoom s (.quad q) line := by
  simp only [placeRoom, same]

/-! ### `prf` (R256) -/

theorem besideMemory_putCopy (s : State) (c : Copy) : besideMemory (putCopy s c) = besideMemory s := by
  have trimmed : besideMemory (trimPlace (dropCopy s c.place c.line) c.place c.line) = besideMemory s :=
    besideMemory_trimPlace (dropCopy s c.place c.line) ..
  exact ite_keeps besideMemory trimmed trimmed

/-- Requesting a copy changes nothing beside memory. -/
theorem besideMemory_prefetchLine (s : State) (o : Op) (a : LaneAcc) (level : Nat) :
    besideMemory (prefetchLine s o a level) = besideMemory s := by
  unfold prefetchLine
  dsimp only
  refine ite_keeps besideMemory rfl ?_
  split
  next s1 d c filled _ =>
    have read : besideMemory (commitPos s1 ((taggedDie s (lineOf a.pa)).getD o.die) (lineOf a.pa) true false) = besideMemory s :=
      (besideMemory_commitPos ..).trans ((besideMemory_of_fillLine filled).trans (besideMemory_enterSlice s ..))
    refine ite_keeps besideMemory ?_ (ite_keeps besideMemory ?_ read)
    · exact (besideMemory_putCopy ..).trans ((besideMemory_putCopy ..).trans read)
    · exact (besideMemory_putCopy ..).trans read
  next => rfl

theorem besideMemory_prefetchLane (e : LaneEnv) (s : State) (q : Req) : besideMemory (prefetchLane e s q) = besideMemory s := by
  unfold prefetchLane
  split
  · exact (besideMemory_prefetchLine ..).trans (besideMemory_noteAccess ..)
  · rfl

/-- At the L1 or the quad level, a line of normal memory that its slice can serve leaves a copy in the quad store. -/
theorem prefetchLine_leavesCopy {s : State} {o : Op} {a : LaneAcc} {level c : Nat} {d : LineData} (core : o.core = some c)
    (near : level ≤ 1) (ready : sliceReady s o a = true) (slot : slotEmpty s a.pa a.key = false) (normal : leasable s o a = true)
    (is : LineIs s (lineOf a.pa) a.key d) (noPartials : linePartials s (lineOf a.pa) = [])
    (room : 0 < placeRoom s (.quad (c / 4)) (lineOf a.pa)) :
    ∃ x ∈ (prefetchLine s o a level).coh.copies, x.place = .quad (c / 4) ∧ x.line = lineOf a.pa ∧ x.data = d := by
  let die := (taggedDie s (lineOf a.pa)).getD o.die
  have entered : LineIs (recallExcl (enterSlice s die (lineOf a.pa)) (lineOf a.pa)) (lineOf a.pa) a.key d :=
    (is.of_atSlices (atSlices_enterSlice s die (lineOf a.pa))).recallExcl
  obtain ⟨s1, filled, -⟩ := fillLine_lineIs entered die o.ctx
  let s2 := commitPos s1 die (lineOf a.pa) true false
  let x := leaseCopy s2 o.ctx die (lineOf a.pa) d (.quad (c / 4))
  have lockets : s2.coh.lockets = s.coh.lockets := calc
    _ = s1.coh.lockets := lockets_of_atSlices (atSlices_commitPos ..)
    _ = (recallExcl (enterSlice s die (lineOf a.pa)) (lineOf a.pa)).coh.lockets := by
      have kept := lockets_fillLine (recallExcl (enterSlice s die (lineOf a.pa)) (lineOf a.pa)) die (lineOf a.pa) a.key o.ctx
      rwa [filled] at kept
    _ = s.coh.lockets := lockets_of_atSlices (s' := enterSlice s die (lineOf a.pa)) (atSlices_enterSlice ..)
  have inQuad : x ∈ (putCopy s2 x).coh.copies := mem_putCopy_self (by rwa [← placeRoom_quad lockets] at room)
  have run : prefetchLine s o a level = if level = 0 then
      putCopy (putCopy s2 x) (leaseCopy s2 o.ctx die (lineOf a.pa) d (nearPlace s2 o c)) else putCopy s2 x := by
    rw [prefetchLine, if_neg (by simp [is.1, noPartials, ready, normal, slot]), filled, core]
    dsimp only
    split
    · rfl
    · exact if_pos (by omega)
  refine ⟨x, ?_, rfl, rfl, rfl⟩
  rw [run]
  split
  · exact mem_putCopy_of_ne inQuad (nearPlace_ne_quad s2 o c (c / 4)).symm
  · exact inQuad

section Prefetch

variable {s : State} {f : LaneFields} {e : LaneEnv} (runs : LaneRuns (.prf f) s e)

include runs

theorem exec_prf_run : exec (.prf f) s =
    .next (putThr ((laneReqs e 0 (fun _ => 0) fun _ => 0).foldl (prefetchLane e) s) s.cur
      { e.t with seat := some (afterReads (.prf f) e) }) := by
  rw [exec_prf, execPrf, laneInstr_runs runs, runs.same]

theorem prefetchLane_passes {q : Req} {a : LaneAcc} (checks : checkLane s e.t 0 4 false q = .ok (a, none)) :
    prefetchLane e s q = prefetchLine (noteAccess s (xlUnit e.t) e.t.ctx a.va.toNat false)
      { mkOp s s.cur e.t e.b.seq none ⟨.ld, .load, 0, e.ty, 2, false, false, false, 0, .none⟩ [a] with region := 0 } a
      (f.imm.extractLsb' 25 3).toNat := by
  rw [prefetchLane, runs.same, fields_of_runs runs rfl, show accessBytes 0 = 4 from rfl, checks]
  rfl

/-- A `prf` of one lane whose access passes its checks requests the line that the lane names. -/
theorem prf_single {L : Nat} {a : LaneAcc} (single : lanesOf e.ex = [L])
    (checks : checkLane s e.t 0 4 false (genericReq s f e L 0 0) = .ok (a, none)) :
    (laneReqs e 0 (fun _ => 0) fun _ => 0).foldl (prefetchLane e) s =
      prefetchLine (noteAccess s (xlUnit e.t) e.t.ctx a.va.toNat false)
        { mkOp s s.cur e.t e.b.seq none ⟨.ld, .load, 0, e.ty, 2, false, false, false, 0, .none⟩ [a] with region := 0 } a
        (f.imm.extractLsb' 25 3).toNat := by
  rw [laneReqs_generic runs.same (fields_of_runs runs rfl), single]
  exact prefetchLane_passes runs checks

end Prefetch

end Sys2Proof.Machine

namespace Sys2Proof.Laws

open Sys2Proof Sys2Proof.Machine

/-- Settles O44: a row of the table by `exec_laneAcc_runs` with `laneAccess_passes` and `laneAccess_fails`, `prf` by
`besideMemory_prefetchLane` and `prefetchLine_leavesCopy`, `cacc` by its run. -/
theorem laneAccesses : Obligations.LaneAccesses := by
  unfold Obligations.LaneAccesses
  refine fun s f e => ⟨fun i sp a v v2 row runs => ?access, fun runs => ?prf, exec_cacc_inRegion, fun accs => exec_cacc_outside⟩
  case access =>
    obtain ⟨fields, run, writes, long⟩ := exec_laneAcc_runs s f e _ row runs
    obtain rfl := runs.same
    dsimp only
    rw [run, laneReqs_eq rfl fields, ← writes]
    exact ⟨fun accs checks => laneAccess_passes checks long i, fun g m checks => laneAccess_fails checks i⟩
  case prf =>
    have beside {α : Type} (field : State → α) :
        field (besideMemory ((laneReqs e 0 (fun _ => 0) fun _ => 0).foldl (prefetchLane e) s)) = field (besideMemory s) :=
      congrArg field (foldl_keeps besideMemory (besideMemory_prefetchLane e) ..)
    refine ⟨_, exec_prf_run runs, find_putThr .., beside State.ops, beside State.wgs, beside State.launches, ?_⟩
    intro L a d single near checks marked o ready slot normal is noPartials room
    rw [prf_single runs single checks, marked]
    exact prefetchLine_leavesCopy (by simp [mkOp, runs.acts.2]) near ready slot normal is noPartials room

end Sys2Proof.Laws

end
section

/-! ## Team-issued commands (11_engine_commands.md; O32, O33)

The five commands of a team pass the same checks in the same order (`teamCmd`), so what each check comes to is said once. They differ
in what they ask of their operands; a command that passes is then held for its team or enters its queue (`teamIssue`). -/

namespace Sys2Proof.Machine

open Sys2Proof

/-! ### Operands (R281) -/

/-- The word of a value in form U. -/
def uWord : SVal → Option Word
  | .u w => some w
  | _ => none

theorem engOperands_eq (s : State) (t : Thread) (rs : List SReg) (k : List Word → Out) : engOperands s t rs k =
    if ((rs.map (getS t)).filterMap uWord).length = rs.length then k ((rs.map (getS t)).filterMap uWord)
    else fault s t 0x02 0x04 := rfl

theorem engOperands_run {t : Thread} {rs : List SReg} {vs : List Word} (ops : Operands t rs vs) (s : State) (k : List Word → Out) :
    engOperands s t rs k = k vs := by
  have words : (rs.map (getS t)).filterMap uWord = vs := by
    rw [show rs.map (getS t) = vs.map SVal.u from ops, List.filterMap_map]
    exact List.filterMap_some
  have size : vs.length = rs.length := by simpa using (congrArg List.length ops).symm
  rw [engOperands_eq, words, if_pos size]

/-- A register in another form leaves fewer words than registers. -/
theorem engOperands_notU {s : State} {t : Thread} {st : Seat} {rs : List SReg} (strand : t.seat = some st)
    (other : ∃ r ∈ rs, ∀ v, getS t r ≠ .u v) (k : List Word → Out) :
    engOperands s t rs k = .next (takeStop s s.cur (mkStop s t .fault 0x02 0x04 t.pc)) := by
  obtain ⟨r, named, form⟩ := other
  have wordless : uWord (getS t r) = none := by
    cases value : getS t r with
    | u w => exact absurd value (form w)
    | a b x y z => rfl
    | m l => rfl
  have fewer : ((rs.map (getS t)).filterMap uWord).length < (rs.map (getS t)).length :=
    List.length_filterMap_lt_length_iff_exists.2 ⟨getS t r, List.mem_map_of_mem named, wordless⟩
  rw [List.length_map] at fewer
  rw [engOperands_eq, if_neg fewer.ne, fault_strand strand]

/-! ### The order of the checks (R281, R282, R128) -/

section Checks

variable {i : Instr} {s : State} {t : Thread} {st : Seat} {slotBad : LaunchRec → Bool} (seated : ActsSeated s t st)
  (sound : WellFormed i) (slots : slotBad (lrecOf s t) = false)

include seated sound slots

theorem engIssue_outside (outside : st.region = 0) (k : Thread → Seat → Out) : engIssue i s slotBad k = k t st := by
  rw [engIssue, scalar_run _ seated.1 sound, inStrand_strand seated.2]
  simp [slots, outside]

theorem engIssue_inLive {r : Region} (live : InLive s t st r) (k : Thread → Seat → Out) :
    engIssue i s slotBad k = .next (abortBegun s st.region r 5 0 0 none) := by
  rw [engIssue, scalar_run _ seated.1 sound, inStrand_strand seated.2, ← startAbort_eq_abortBegun live.2.2.1 live.movable]
  simp [slots, live.2.1, causeEngine]

variable {rs : List SReg} {vs : List Word} (k : Thread → Seat → List Word → Out)

theorem teamCmd_inLive {r : Region} (live : InLive s t st r) :
    teamCmd i s slotBad rs k = .next (abortBegun s st.region r 5 0 0 none) := engIssue_inLive seated sound slots live _

variable (outside : st.region = 0)

include outside

theorem teamCmd_partMask (part : fullMask s t st = false) :
    teamCmd i s slotBad rs k = .next (takeStop s s.cur (mkStop s t .fault 0x02 0x03 t.pc)) := by
  rw [teamCmd, engIssue_outside seated sound slots outside, part]
  exact fault_strand seated.2 ..

variable (full : fullMask s t st = true)

include full

theorem teamCmd_notU (other : ∃ r ∈ rs, ∀ v, getS t r ≠ .u v) :
    teamCmd i s slotBad rs k = .next (takeStop s s.cur (mkStop s t .fault 0x02 0x04 t.pc)) := by
  rw [teamCmd, engIssue_outside seated sound slots outside, if_pos full, engOperands_notU seated.2 other]

theorem teamCmd_run (ops : Operands t rs vs) : teamCmd i s slotBad rs k = k t st vs := by
  rw [teamCmd, engIssue_outside seated sound slots outside, if_pos full, engOperands_run ops]

end Checks

theorem descFault_strand {s : State} {t : Thread} {st : Seat} (strand : t.seat = some st) (i : Instr) :
    descFault s t i 0 = .next (takeStop s s.cur { mkStop s t .fault 0x31 0x06 t.pc with w6 := cmdWord i }) := by
  rw [descFault, faultWith_strand strand]
  simp only [Nat.zero_mul, BitVec.add_zero]
  rfl

/-! ### The checks of `mma` and `mgath` (R286, R288, R298) -/

section Mx

variable (i : Instr) {s : State} {t : Thread} {st : Seat} {d : BitVec 6} {f : BitVec 7} {vs : List Word} {list : Option Word}

theorem mxChecks_badDesc (bad : mxDescOk (vs.getD 1 0) (vs.getD 3 0) f = false) :
    mxChecks i s t st d f vs list = descFault s t i 0 := by
  simp only [mxChecks]
  rw [bad]
  rfl

theorem mxChecks_pass (desc : mxDescOk (vs.getD 1 0) (vs.getD 3 0) f = true) (tie : tieBad s st d = false)
    (alignA : (vs.getD 0 0).toNat % mxAlign (f.toNat % 8) = 0) (alignB : (vs.getD 2 0).toNat % mxAlign (f.toNat % 8) = 0)
    (fits : ∀ off, list = some off →
      off.toNat % 4 = 0 ∧ off.toNat + 4 * (bitsAt (vs.getD 1 0).toNat 16 7 + 1) ≤ (lrecOf s t).scratch) :
    mxChecks i s t st d f vs list = teamIssue s t st ⟨i, 0, vs, false, 0, none⟩ := by
  simp only [mxChecks]
  rw [desc, tie, if_neg (by decide), if_neg (not_not.2 alignA), if_neg (not_not.2 alignB)]
  cases list with
  | none => rfl
  | some off =>
    obtain ⟨aligned, inside⟩ := fits off rfl
    simp only [aligned, ne_eq, not_true_eq_false, if_false, Nat.not_lt.2 inside]

end Mx

/-! ### Teams (R282) -/

section Teams

variable {s : State} {t : Thread} {st : Seat} (c : Cmd)

/-- No command of the strand's team is held. -/
abbrev NoneHeld (s : State) (t : Thread) (st : Seat) : Prop := ∀ h ∈ s.teams, ¬ (h.wg = st.wg ∧ h.team = teamOf s t st)

theorem find?_noneHeld (free : NoneHeld s t st) : s.teams.find? (fun h => h.wg == st.wg && h.team == teamOf s t st) = none :=
  List.find?_eq_none.2 fun h listed => by simpa using free h listed

theorem filter_noneHeld (free : NoneHeld s t st) : s.teams.filter (fun h => !(h.wg == st.wg && h.team == teamOf s t st)) = s.teams :=
  List.filter_eq_self.2 fun h listed => by simpa [imp_iff_not_or] using free h listed

theorem teamIssue_first (free : NoneHeld s t st) (larger : (lrecOf s t).team ≠ 1) : teamIssue s t st c =
    .next (putThr { s with teams := ⟨st.wg, teamOf s t st, c.instr, c.opnds, c.cond, [s.cur]⟩ :: s.teams } s.cur
      { t with wait := .team }) := by
  simp only [teamIssue, find?_noneHeld free, filter_noneHeld free, if_neg larger]

/-- R282: a strand alone in its team goes on at once. -/
theorem teamIssue_sole (sole : SoleMember s t st) : teamIssue s t st c = .next (queued s t st c) := by
  obtain ⟨-, -, alone, -, free⟩ := sole
  simp only [teamIssue, find?_noneHeld free, filter_noneHeld free, if_pos alone]
  rfl

variable {h : TeamHold} (held : s.teams.find? (fun h => h.wg == st.wg && h.team == teamOf s t st) = some h)

include held

theorem teamIssue_differs (differs : h.instr ≠ c.instr ∨ h.opnds ≠ c.opnds ∨ h.cond ≠ c.cond) :
    teamIssue s t st c = .next (h.waiting.foldl (fun acc m => teamStop acc h.instr h.instr m)
      (teamStop { s with teams := s.teams.filter fun h => !(h.wg == st.wg && h.team == teamOf s t st) } h.instr c.instr s.cur)) := by
  have unequal : ¬ (h.instr = c.instr ∧ h.opnds = c.opnds ∧ h.cond = c.cond) := by tauto
  simp only [teamIssue, held, if_neg unequal]

variable (sameInstr : h.instr = c.instr) (sameOpnds : h.opnds = c.opnds) (sameCond : h.cond = c.cond)

include sameInstr sameOpnds sameCond

theorem teamIssue_last (last : h.waiting.length + 1 = (lrecOf s t).team) :
    teamIssue s t st c = .next ((h.waiting ++ [s.cur]).foldl memberGoes
      (enqueue { s with teams := s.teams.filter fun h => !(h.wg == st.wg && h.team == teamOf s t st) }
        (mkEng t st c (h.waiting ++ [s.cur])))) := by
  simp only [teamIssue, held, if_pos (And.intro sameInstr (And.intro sameOpnds sameCond)), if_pos last]

theorem teamIssue_between (more : h.waiting.length + 1 ≠ (lrecOf s t).team) :
    teamIssue s t st c = .next (putThr { s with
      teams := { h with waiting := h.waiting ++ [s.cur] } :: s.teams.filter fun h => !(h.wg == st.wg && h.team == teamOf s t st) }
        s.cur { t with wait := .team }) := by
  simp only [teamIssue, held, if_pos (And.intro sameInstr (And.intro sameOpnds sameCond)), if_neg more]

end Teams

/-! ### A strand alone in its team (R288, R295, R296, R299) -/

section Sole

variable {s : State} {t : Thread} {st : Seat} {vs : List Word} (sole : SoleMember s t st)

include sole

theorem teamCmd_sole {i : Instr} {slotBad : LaunchRec → Bool} {rs : List SReg} (sound : WellFormed i)
    (slots : slotBad (lrecOf s t) = false) (ops : Operands t rs vs) (k : Thread → Seat → List Word → Out) :
    teamCmd i s slotBad rs k = k t st vs := by
  obtain ⟨seated, outside, -, full, -⟩ := sole
  exact teamCmd_run seated sound slots k outside full ops

theorem exec_mma_sole {d : BitVec 6} {a b : SReg} {f : BitVec 7} (sound : WellFormed (.mma d a b f))
    (slots : mxSlotBad d f (lrecOf s t) = false) (ops : Operands t [a, a + 1, b, b + 1] vs)
    (desc : mxDescOk (vs.getD 1 0) (vs.getD 3 0) f = true) (tie : tieBad s st d = false)
    (alignA : (vs.getD 0 0).toNat % mxAlign (f.toNat % 8) = 0) (alignB : (vs.getD 2 0).toNat % mxAlign (f.toNat % 8) = 0) :
    exec (.mma d a b f) s = .next (queued s t st ⟨.mma d a b f, 0, vs, false, 0, none⟩) := by
  rw [exec_mma, execMma, teamCmd_sole sole sound slots ops, mxChecks_pass _ desc tie alignA alignB (by simp), teamIssue_sole _ sole]

theorem exec_mgath_sole {d : BitVec 6} {a b : SReg} {f : BitVec 7} (sound : WellFormed (.mgath d a b f))
    (slots : mxSlotBad d f (lrecOf s t) = false) (ops : Operands t [a, a + 1, b, b + 1, a + 2] vs)
    (desc : mxDescOk (vs.getD 1 0) (vs.getD 3 0) f = true) (tie : tieBad s st d = false)
    (alignA : (vs.getD 0 0).toNat % mxAlign (f.toNat % 8) = 0) (alignB : (vs.getD 2 0).toNat % mxAlign (f.toNat % 8) = 0)
    (alignList : (vs.getD 4 0).toNat % 4 = 0)
    (inside : (vs.getD 4 0).toNat + 4 * (bitsAt (vs.getD 1 0).toNat 16 7 + 1) ≤ (lrecOf s t).scratch) :
    exec (.mgath d a b f) s = .next (queued s t st ⟨.mgath d a b f, 0, vs, false, 0, none⟩) := by
  have list : ∀ off, vs[4]? = some off → off.toNat % 4 = 0 ∧
      off.toNat + 4 * (bitsAt (vs.getD 1 0).toNat 16 7 + 1) ≤ (lrecOf s t).scratch := by
    intro off fifth
    have named : vs.getD 4 0 = off := by rw [List.getD_eq_getElem?_getD, fifth, Option.getD_some]
    exact named ▸ ⟨alignList, inside⟩
  rw [exec_mgath, execMgath, teamCmd_sole sole sound slots ops, mxChecks_pass _ desc tie alignA alignB list, teamIssue_sole _ sole]

theorem exec_mzero_sole {d : BitVec 3} {f : BitVec 1} (sound : WellFormed (.mzero d f)) (slots : d.toNat + f.toNat < (lrecOf s t).acc) :
    exec (.mzero d f) s = .next (queued s t st ⟨.mzero d f, 0, [], false, 0, none⟩) := by
  rw [exec_mzero, execMzero, teamCmd_sole (rs := []) (vs := []) sole sound (decide_eq_false (Nat.not_le.2 slots)) rfl,
    teamIssue_sole _ sole]

theorem exec_mdrain_sole {d : BitVec 3} {a : SReg} {f : BitVec 6} (sound : WellFormed (.mdrain d a f)) (slots : d.toNat < (lrecOf s t).acc)
    (ops : Operands t (if f.getLsbD 3 then [a, a + 1, a + 2] else [a, a + 1]) vs)
    (desc : drainDescOk (vs.getD 1 0) (f.toNat % 8) = true)
    (rows : f.getLsbD 4 = true → f.getLsbD 3 = false → (vs.getD 0 0).toNat + drainRowEnd (vs.getD 1 0)
      (drainWidth (f.toNat % 8) (tagAhead s st.core st.wg d.toNat)) (bitsAt (vs.getD 1 0).toNat 16 7) ≤ (lrecOf s t).scratch)
    (align : let width := drainWidth (f.toNat % 8) (tagAhead s st.core st.wg d.toNat)
      (vs.getD 0 0).toNat % (if width = 6 then 1 else width / 8) = 0)
    (list : f.getLsbD 3 = true → (vs.getD 2 0).toNat % 4 = 0 ∧
      (vs.getD 2 0).toNat + 4 * (bitsAt (vs.getD 1 0).toNat 16 7 + 1) ≤ (lrecOf s t).scratch) :
    exec (.mdrain d a f) s = .next (queued s t st ⟨.mdrain d a f, 0, vs, false, 0, none⟩) := by
  have aligned : ¬ (f.getLsbD 3 && (vs.getD 2 0).toNat % 4 != 0) = true := by
    simp only [Bool.and_eq_true, bne_iff_ne]
    exact fun odd => odd.2 (list odd.1).1
  have inside : ¬ (f.getLsbD 3 && decide ((lrecOf s t).scratch <
      (vs.getD 2 0).toNat + 4 * (bitsAt (vs.getD 1 0).toNat 16 7 + 1))) = true := by
    simp only [Bool.and_eq_true, decide_eq_true_eq]
    exact fun past => Nat.not_lt.2 (list past.1).2 past.2
  have fits : ¬ (f.getLsbD 4 && !f.getLsbD 3 && decide ((lrecOf s t).scratch < (vs.getD 0 0).toNat + drainRowEnd (vs.getD 1 0)
      (drainWidth (f.toNat % 8) (tagAhead s st.core st.wg d.toNat)) (bitsAt (vs.getD 1 0).toNat 16 7 + 1 - 1))) = true := by
    simp only [Bool.and_eq_true, Bool.not_eq_true', decide_eq_true_eq]
    exact fun past => Nat.not_lt.2 (rows past.1.1 past.1.2) past.2
  rw [exec_mdrain, execMdrain, teamCmd_sole sole sound (decide_eq_false (Nat.not_le.2 slots)) ops]
  dsimp only
  rw [desc, if_neg (by decide), if_neg (not_not.2 align), if_neg aligned, if_neg inside, if_neg fits, teamIssue_sole _ sole]

/-- `mcommit` with the value that its condition gives: false where the shadow is tied to none. -/
theorem exec_mcommit_sole {d : BitVec 3} {n : BitVec 1} (slot : d.toNat < (lrecOf s t).acc) (shadow : n.toNat < (lrecOf s t).shadow) :
    (tieAhead s st.core st.wg n.toNat = none →
      exec (.mcommit d n) s = .next (queued s t st ⟨.mcommit d n, 0, [], false, 0, none⟩)) ∧
    (∀ c x, tieAhead s st.core st.wg n.toNat = some c → getC t (BitVec.ofNat 3 c) = .u x →
      exec (.mcommit d n) s = .next (queued s t st ⟨.mcommit d n, 0, [], x, 0, none⟩)) := by
  have slots : (decide ((lrecOf s t).acc ≤ d.toNat) || decide ((lrecOf s t).shadow ≤ n.toNat)) = false := by
    rw [decide_eq_false (Nat.not_le.2 slot), decide_eq_false (Nat.not_le.2 shadow), Bool.or_self]
  rw [exec_mcommit, execMcommit, teamCmd_sole (rs := []) (vs := []) sole (illSub_mcommit d n) slots rfl]
  refine ⟨fun empty => ?_, fun c x tied value => ?_⟩
  · simp only [empty, teamIssue_sole _ sole]
  · simp only [tied, value, teamIssue_sole _ sole]

end Sole

end Sys2Proof.Machine

namespace Sys2Proof.Laws

open Sys2Proof Sys2Proof.Machine

/-- Settles O32: each of the five passes the shared checks (`teamCmd_sole`) and its own, and enters its queue (`teamIssue_sole`). -/
theorem matrixCommands : Obligations.MatrixCommands := by
  unfold Obligations.MatrixCommands
  intro s t st vs sole
  exact ⟨fun d a b f sound slots => exec_mma_sole sole sound slots, fun d a b f sound slots => exec_mgath_sole sole sound slots,
    fun d f => exec_mzero_sole sole, fun d a f => exec_mdrain_sole sole, fun d n => exec_mcommit_sole sole⟩

/-- Settles O33: a command at its team by `teamIssue_first`, `teamIssue_last`, `teamIssue_between` and `teamIssue_differs`, the
checks by the lemmas of `teamCmd`, in their order. -/
theorem teamsAndChecks : Obligations.TeamsAndChecks := by
  unfold Obligations.TeamsAndChecks
  refine ⟨fun s t st c => ⟨fun free larger => teamIssue_first c free larger, fun h held => ⟨?last, ?between, ?differs⟩⟩,
    fun s t st d a b f seated sound slots => ⟨fun r live => ?live, fun outside part => ?mask, fun outside full other => ?form,
      fun vs outside full ops bad => ?desc⟩⟩
  case last => exact fun instr opnds cond => teamIssue_last c held instr opnds cond
  case between => exact fun instr opnds cond => teamIssue_between c held instr opnds cond
  case differs => exact teamIssue_differs c held
  case live => exact teamCmd_inLive seated sound slots _ live
  case mask => exact teamCmd_partMask seated sound slots _ outside part
  case form => exact teamCmd_notU seated sound slots _ outside full other
  case desc =>
    rw [exec_mma, execMma, teamCmd_run seated sound slots _ outside full ops, mxChecks_badDesc _ bad, descFault_strand seated.2]

end Sys2Proof.Laws

end
section

/-! ## Commands of one strand (11_engine_commands.md; O34)

The commands that no team issues pass the checks of `engIssue` alone. A completion barrier that passes its checks is captured with the
generation that its word has now (`withBar`). -/

namespace Sys2Proof.Machine

open Sys2Proof

theorem withBar_run {s : State} {t : Thread} {st : Seat} {b : SReg} {bar : Option (Nat × BitVec 8)} (named : BarOf s t st b bar)
    (k : Option (Nat × BitVec 8) → Out) : withBar s t st b k = k bar := by
  rcases named with ⟨rfl, rfl⟩ | ⟨named, off, value, aligned, inside, rfl⟩
  · exact if_pos rfl
  · rw [withBar, if_neg named, value, needU_u, if_neg (not_not.2 aligned), if_neg (Nat.not_lt.2 inside)]

/-- The word captured of a register that is named. -/
theorem Operands.getD_eq {t : Thread} {rs : List SReg} {vs : List Word} (ops : Operands t rs vs) {k : Nat} {r : SReg} {w : Word}
    (named : rs[k]? = some r) (value : getS t r = .u w) : vs.getD k 0 = w := by
  have read : (vs.map SVal.u)[k]? = some (.u w) := by
    rw [← show rs.map (getS t) = vs.map SVal.u from ops, List.getElem?_map, named, Option.map_some, value]
  obtain ⟨v, listed, same⟩ := Option.map_eq_some_iff.1 (List.getElem?_map .. ▸ read)
  cases same
  rw [List.getD_eq_getElem?_getD, listed, Option.getD_some]

/-- An operation with the number of the batch that its strand closes, unless it is a copy, another's, or in a batch already (R300). -/
def inBatch (id num : Nat) (o : EngOp) : EngOp :=
  if o.queue != 1 && o.members.contains id && tabGet 0 o.batch id == 0 then { o with batch := tabPut o.batch id num } else o

theorem map_inBatch (id num : Nat) (q : Tab EngOp) :
    (q.map fun p => if p.2.queue != 1 && p.2.members.contains id && tabGet 0 p.2.batch id == 0
      then (p.1, { p.2 with batch := tabPut p.2.batch id num }) else p) = q.map fun p => (p.1, inBatch id num p.2) := by
  refine List.map_congr_left fun p _ => ?_
  unfold inBatch
  split <;> rfl

theorem cur_foldl_enqueue (entry : Nat → EngOp) (ks : List Nat) (s : State) :
    (ks.foldl (fun acc k => enqueue acc (entry k)) s).cur = s.cur := 
  foldl_keeps State.cur (f := fun acc k => enqueue acc (entry k)) (fun _ _ => rfl) ks s

section Strand

variable {s : State} {t : Thread} {st : Seat} {vs : List Word} (seated : ActsSeated s t st) (outside : st.region = 0)

include seated outside

theorem exec_mfence_run {a : SReg} {bar : Option (Nat × BitVec 8)} (named : BarOf s t st a bar) : exec (.mfence a) s =
    .next (putThr { s with
      engq := s.engq.map fun p => (p.1, inBatch s.cur (t.batch.toNat + 1) p.2)
      batches := s.batches ++ [⟨s.cur, st.wg, t.batch.toNat + 1, bar, false, false⟩] } s.cur
        (advance { t with batch := BitVec.ofNat 64 (t.batch.toNat + 1) } 4)) := by
  rw [exec_mfence, execMfence, engIssue_outside seated (illSub_mfence a) rfl outside, withBar_run named, ← map_inBatch]
  rfl

theorem exec_cpy_eq {n : BitVec 3} {a b : SReg} {f : BitVec 4} (sound : WellFormed (.cpy n a b f))
    (ops : Operands t (if b = 0 then [a, a + 1, a + 2, a + 3] else [a, a + 1, a + 2, a + 3, b]) vs) : exec (.cpy n a b f) s =
      let shape := cpyShape f vs
      if !cpyDescOk f vs then descFault s t (.cpy n a b f) 1
      else if b ≠ 0 ∧ (vs.getD 4 0).toNat % 8 ≠ 0 then alignFault s t (vs.getD 4 0)
      else if f.toNat % 4 = 1 ∧ (lrecOf s t).scratch < (vs.getD 0 0).toNat + cpyExtent shape.1 shape.2.1 shape.2.2.1 then
        windowFault s t (vs.getD 0 0)
      else if f.toNat % 4 = 0 ∧ (lrecOf s t).scratch < (vs.getD 1 0).toNat + cpyExtent shape.1 shape.2.1 shape.2.2.2 then
        windowFault s t (vs.getD 1 0)
      else withBar s t st b fun bar => .next (afterNone (enqueue s
        (mkEng t st ⟨.cpy n a b f, 1, vs.take 4, false, if f.getLsbD 3 then tabGet 0 st.kregs n.toNat else 0, bar⟩ [s.cur])) t) := by
  rw [exec_cpy, execCpy, engIssue_outside seated sound rfl outside, engOperands_run ops]
  rfl

theorem exec_cpy_run {n : BitVec 3} {a b : SReg} {f : BitVec 4} {bar : Option (Nat × BitVec 8)} (sound : WellFormed (.cpy n a b f))
    (named : BarOf s t st b bar)
    (ops : Operands t (if b = 0 then [a, a + 1, a + 2, a + 3] else [a, a + 1, a + 2, a + 3, b]) vs) (desc : cpyDescOk f vs = true)
    (source : f.toNat % 4 = 1 → (vs.getD 0 0).toNat + cpyExtent (cpyShape f vs).1 (cpyShape f vs).2.1 (cpyShape f vs).2.2.1
      ≤ (lrecOf s t).scratch)
    (dest : f.toNat % 4 = 0 → (vs.getD 1 0).toNat + cpyExtent (cpyShape f vs).1 (cpyShape f vs).2.1 (cpyShape f vs).2.2.2
      ≤ (lrecOf s t).scratch) :
    exec (.cpy n a b f) s = .next (afterNone (enqueue s
      (mkEng t st ⟨.cpy n a b f, 1, vs.take 4, false, if f.getLsbD 3 then tabGet 0 st.kregs n.toNat else 0, bar⟩ [s.cur])) t) := by
  have aligned : ¬ (b ≠ 0 ∧ (vs.getD 4 0).toNat % 8 ≠ 0) := by
    rintro ⟨barrier, odd⟩
    rcases named with ⟨none, -⟩ | ⟨-, off, value, aligned, -⟩
    · exact barrier none
    · rw [if_neg barrier] at ops
      exact odd (ops.getD_eq (k := 4) rfl value ▸ aligned)
  rw [exec_cpy_eq seated outside sound ops]
  dsimp only
  rw [desc, if_neg (by decide), if_neg aligned, if_neg fun past => Nat.not_lt.2 (source past.1) past.2,
    if_neg fun past => Nat.not_lt.2 (dest past.1) past.2, withBar_run named]

theorem exec_coll_run {a : SReg} {sc : BitVec 2} {ty : BitVec 3} {o : BitVec 2} (sound : WellFormed (.coll a sc ty o))
    (ops : Operands t [a, a + 1, a + 2] vs)
    (desc : let w := (vs.getD 2 0).toNat
      0 < bitsAt w 0 32 ∧ bitsAt w 0 32 ≤ 16777216 ∧ (o ≠ 2 → bitsAt w 48 16 = 0) ∧
        (roleIn (launchOf s t.launch) (bitsAt w 32 16) st.core).isSome = true)
    (alignSrc : (vs.getD 0 0).toNat % collBytes ty.toNat = 0) (alignDst : (vs.getD 1 0).toNat % collBytes ty.toNat = 0) :
    exec (.coll a sc ty o) s = .next (afterNone (enqueue s (mkEng t st ⟨.coll a sc ty o, 2, vs, false, 0, none⟩ [s.cur])) t) := by
  obtain ⟨some, few, root, role⟩ := desc
  rw [exec_coll, execColl, engIssue_outside seated sound rfl outside, engOperands_run ops]
  dsimp only
  rw [if_neg, if_neg (not_not.2 alignSrc), if_neg (not_not.2 alignDst)]
  · rfl
  · rintro (empty | large | ⟨sum, rooted⟩ | absent)
    · exact some.ne' empty
    · exact Nat.not_lt.2 few large
    · exact rooted (root sum)
    · rw [Option.isNone_iff_eq_none.1 absent] at role
      cases role

omit outside in
theorem exec_qfence_run {q : BitVec 3} (names : q ≠ 0) : exec (.qfence q) s =
    .next (putThr ((setBits 3 q.toNat).foldl (fun acc k => enqueue acc
      { mkEng t st ⟨.qfence q, k, [], false, 0, none⟩ [] with seq := s.freeCtr }) s) s.cur (advance t 4)) := by
  have sound : illSub (.qfence q) = none := by
    rw [illSub_qfence, beq_eq_false_iff_ne.2 names]
    rfl
  rw [exec_qfence, execQfence, scalar_run _ seated.1 sound, inStrand_strand seated.2]
  simp only [done4, done]
  rw [cur_foldl_enqueue]

end Strand

end Sys2Proof.Machine

namespace Sys2Proof.Laws

open Sys2Proof Sys2Proof.Machine

/-- Settles O34: each of the four by its run, `mfence` with what its batch makes of every operation listed. -/
theorem strandCommands : Obligations.StrandCommands := by
  unfold Obligations.StrandCommands
  refine fun s t st vs seated outside => ⟨fun a bar named => ?mfence, fun n a b f bar => exec_cpy_run seated outside,
    fun a sc ty o => exec_coll_run seated outside, fun q => exec_qfence_run seated⟩
  case mfence =>
    refine ⟨_, exec_mfence_run seated outside named, find_putThr .., rfl, fun id o listed => ?_, rfl⟩
    rw [putThr_engq, tabFind_map, listed]
    rfl

end Sys2Proof.Laws

end
section

/-! ## Batches (11_engine_commands.md; O35)

`mwait` ends by acquiring what the operations it covers wrote, which changes neither registers nor the mark of its strand; with no
failure among them its status is 0. A batch that is ready completes, and its barrier, if it has one, is arrived on by the engine. -/

namespace Sys2Proof.Machine

open Sys2Proof

/-! ### What `mwait` writes and acquires (R116, R301, R302) -/

/-- R302: a status of 0 where no operation and no barrier has failed. -/
theorem mwaitStatus_zero {s : State} (operations : ∀ o ∈ s.engq, o.2.status = 0) {bs : List Batch}
    (barriers : ∀ b ∈ bs, b.barFailed = false) (id : Nat) : mwaitStatus s id bs = 0 := by
  have noFailed (covers : Nat × EngOp → Bool) : (s.engq.filter covers).filter (fun p => p.2.status != 0) = [] :=
    List.filter_eq_nil_iff.2 fun p listed => by simp [operations p (List.mem_filter.1 listed).1]
  have noBars : bs.filter (·.barFailed) = [] := List.filter_eq_nil_iff.2 fun b listed => by simp [barriers b listed]
  have noFirst : bs.find? (·.barFailed) = none := List.find?_eq_none.2 fun b listed => by simp [barriers b listed]
  simp [mwaitStatus, noFailed, noBars, noFirst]

/-- A strand that acquires what operations wrote, with their write completion times. -/
def acquireOps (ops : List (Nat × EngOp)) (t : Thread) : Thread :=
  ops.foldl (fun acc p => acquireThr (foldWct acc p.2.wct) p.2.wrote) t

theorem acquireOps_keeps {α : Type} (view : Thread → α) (keeps : ∀ t w l, view (acquireThr (foldWct t w) l) = view t)
    (ops : List (Nat × EngOp)) (t : Thread) : view (acquireOps ops t) = view t :=
  foldl_keeps view (f := fun acc (p : Nat × EngOp) => acquireThr (foldWct acc p.2.wct) p.2.wrote) (fun t _ => keeps t _ _) ops t

theorem le_acquireOps {ops : List (Nat × EngOp)} (small : ∀ p ∈ ops, p.2.wct.own < 2 ^ 64) (t : Thread) :
    t.wct.toNat ≤ (acquireOps ops t).wct.toNat := by
  induction ops generalizing t with
  | nil => exact Nat.le_refl _
  | cons p ops ih =>
    obtain ⟨first, rest⟩ := List.forall_mem_cons.1 small
    exact (le_foldWct t first).1.trans (ih rest (acquireThr (foldWct t p.2.wct) p.2.wrote))

/-! ### The end of `mwait` (R301) -/

/-- The batches of a strand up to a number. -/
def batchesTo (s : State) (id upto : Nat) : List Batch := s.batches.filter fun b => b.thread == id && b.num ≤ upto

/-- Whether an operation belongs to one of them. -/
def coveredTo (s : State) (id upto : Nat) (o : EngOp) : Bool :=
  o.members.contains id && (batchesTo s id upto).any fun b => b.num == tabGet 0 o.batch id

/-- The strand after its `mwait`. -/
def mwaited (s : State) (id : Nat) (t : Thread) (d : SReg) (upto : Nat) : Thread :=
  advance (acquireOps (s.engq.filter fun p => coveredTo s id upto p.2)
    (setS { t with wait := .none } d (.u (mwaitStatus s id (batchesTo s id upto))))) 4

theorem trapMark_unmarked {t : Thread} (unmarked : t.mark = none) (s : State) (id : Nat) : trapMark s id t = putThr s id t := by
  rw [trapMark, unmarked]

theorem endMwait_eq {t : Thread} (unmarked : t.mark = none) (s : State) (id : Nat) (d : SReg) (upto : Nat) :
    endMwait s id t d upto = putThr (unmember { s with batches := s.batches.filter fun b => !(b.thread == id && b.num ≤ upto) } id
      (coveredTo s id upto)) id (mwaited s id t d upto) := by
  have mark : (mwaited s id t d upto).mark = none := by
    rw [mwaited, advance_mark, acquireOps_keeps Thread.mark fun _ _ _ => rfl, setS_mark, unmarked]
  exact trapMark_unmarked mark _ id

/-- The registers of a strand after `mwait` are those that its write of the status leaves. -/
theorem getS_mwaited (s : State) (id : Nat) (t : Thread) (d : SReg) (upto : Nat) (r : SReg) : getS (mwaited s id t d upto) r =
    getS (setS { t with wait := .none } d (.u (mwaitStatus s id (batchesTo s id upto)))) r :=
  acquireOps_keeps (getS · r) (fun _ _ _ => rfl) ..

theorem mwaited_frame (s : State) (id : Nat) (t : Thread) (d : SReg) (upto : Nat) :
    (mwaited s id t d upto).pc = t.pc + 4 ∧ (mwaited s id t d upto).wait = .none ∧ (mwaited s id t d upto).conds = t.conds := by
  simp only [mwaited, advance_pc, advance_wait, advance_conds]
  rw [acquireOps_keeps Thread.pc fun _ _ _ => rfl, acquireOps_keeps Thread.wait fun _ _ _ => rfl,
    acquireOps_keeps Thread.conds fun _ _ _ => rfl, setS_pc, setS_wait, setS_conds]
  exact ⟨rfl, rfl, rfl⟩

theorem le_mwaited {s : State} (small : ∀ o ∈ s.engq, o.2.wct.own < 2 ^ 64) (id : Nat) (t : Thread) (d : SReg) (upto : Nat) :
    t.wct.toNat ≤ (mwaited s id t d upto).wct.toNat := by
  refine le_trans (le_of_eq ?_) (le_acquireOps (fun _ covered => small _ (List.mem_filter.1 covered).1) _)
  rw [setS_wct]

section Mwait

variable {s : State} {t : Thread} {st : Seat} {d a : SReg} {v : Word} (seated : ActsSeated s t st) (outside : st.region = 0)
  (dst : d ≠ 0) (operand : getS t a = .u v)

include seated outside dst operand

theorem exec_mwait_eq : exec (.mwait d a) s =
    if batchesDone s s.cur (min v.toNat t.batch.toNat) = true then .next (endMwait s s.cur t d (min v.toNat t.batch.toNat))
    else .next (putThr s s.cur { t with wait := .mwait d (min v.toNat t.batch.toNat) }) := by
  have sound : illSub (.mwait d a) = none := (illSub_mwait d a).trans (zeroDst_of_ne dst)
  rw [exec_mwait, execMwait, engIssue_outside seated sound rfl outside, operand, needU_u]

theorem exec_mwait_waits (left : batchesDone s s.cur (min v.toNat t.batch.toNat) = false) :
    exec (.mwait d a) s = .next (putThr s s.cur { t with wait := .mwait d (min v.toNat t.batch.toNat) }) := by
  rw [exec_mwait_eq seated outside dst operand, left, if_neg Bool.false_ne_true]

theorem exec_mwait_ends (all : batchesDone s s.cur (min v.toNat t.batch.toNat) = true) :
    exec (.mwait d a) s = .next (endMwait s s.cur t d (min v.toNat t.batch.toNat)) := by
  rw [exec_mwait_eq seated outside dst operand, if_pos all]

end Mwait

/-- MWAIT_COMPLETE ends a waiting `mwait` as its issue would have (R301). -/
theorem exec_mwaitComplete_ends {s : State} {id : Nat} {t : Thread} {d : SReg} {upto : Nat} (waits : Waits s id t)
    (wait : t.wait = .mwait d upto) (all : batchesDone s id upto = true) :
    exec (.mwaitComplete id) s = .next (endMwait s id t d upto) := by
  rw [exec_mwaitComplete, execMwaitComplete, onThr_waits waits]
  simp only [wait, waits.2.2, Option.isNone_none, all, Bool.and_self, if_true]

/-- The end of an `mwait` does not depend on which strand is acting. -/
theorem endMwait_cur {t : Thread} (unmarked : t.mark = none) (s : State) (id : Nat) (d : SReg) (upto c : Nat) :
    endMwait { s with cur := c } id t d upto = { endMwait s id t d upto with cur := c } := by
  rw [endMwait_eq unmarked, endMwait_eq unmarked]
  rfl

/-! ### A batch completes (R300, R303) -/

/-- The state with a strand's batch complete, its barrier failed or not. -/
def batchEnded (s : State) (id num : Nat) (bad : Bool) : State := { s with
  batches := s.batches.map fun x => if x.thread = id ∧ x.num = num then { x with complete := true, barFailed := bad } else x }

section Complete

variable {s : State} {id num : Nat} {b : Batch}
  (found : s.batches.find? (fun b => b.thread == id && b.num == num && !b.complete) = some b)
  (earlier : ∀ x ∈ s.batches, x.thread = id → x.num < num → x.complete = true)
  (finished : ∀ p ∈ s.engq, p.2.members.contains id = true → p.2.queue ≠ 1 → tabGet 0 p.2.batch id = num → p.2.finished = true)

include earlier in
theorem earlierBatches_all : (s.batches.all fun b => b.thread != id || num ≤ b.num || b.complete) = true := by
  refine List.all_eq_true.2 fun x listed => ?_
  have done := earlier x listed
  simp only [Bool.or_eq_true, bne_iff_ne, decide_eq_true_eq]
  by_cases own : x.thread = id
  · rcases Nat.lt_or_ge x.num num with before | after
    · exact .inr (done own before)
    · exact .inl (.inr after)
  · exact .inl (.inl own)

include finished in
theorem operations_all : (s.engq.all fun p => !p.2.members.contains id || p.2.queue == 1 || tabGet 0 p.2.batch id != num ||
    p.2.finished) = true := by
  refine List.all_eq_true.2 fun p listed => ?_
  have done := finished p listed
  simp only [Bool.or_eq_true, Bool.not_eq_true', bne_iff_ne, beq_iff_eq]
  by_cases ours : p.2.members.contains id = true ∧ p.2.queue ≠ 1 ∧ tabGet 0 p.2.batch id = num
  · exact .inr (done ours.1 ours.2.1 ours.2.2)
  · rw [← Bool.not_eq_true]
    tauto

include found earlier finished

theorem exec_batchComplete_noBar (noBar : b.bar = none) :
    exec (.batchComplete id num) s = .next (forget (batchEnded s id num false)) := by
  rw [exec_batchComplete, execBatchComplete]
  simp only [found, earlierBatches_all earlier, operations_all finished, noBar]
  rfl

variable {bar : Nat × BitVec 8} (named : b.bar = some bar)

include named

theorem exec_batchComplete_arrives {s1 : State} (arrives : engArrive s b.wg bar (batchWrote s id num) = (s1, none)) :
    exec (.batchComplete id num) s = .next (forget (batchEnded s1 id num false)) := by
  rw [exec_batchComplete, execBatchComplete]
  simp only [found, earlierBatches_all earlier, operations_all finished, named, arrives]
  rfl

theorem exec_batchComplete_marks {s1 : State} {w : Word} (fails : engArrive s b.wg bar (batchWrote s id num) = (s1, some w)) :
    exec (.batchComplete id num) s = .next (forget (batchEnded (modThr s1 id fun t => { t with mark := some w }) id num true)) := by
  rw [exec_batchComplete, execBatchComplete]
  simp only [found, earlierBatches_all earlier, operations_all finished, named, fails]
  rfl

end Complete

section Arrive

variable {s : State} {wg off : Nat} {g : BitVec 8} {w : Word}
  (word : w = BitVec.ofNat 64 (((tabFind s.wgs wg).map fun x => scrGet x off 8).getD 0)) (wrote : Tab (Tab Nat))

include word

theorem engArrive_arrives (magic : barMagic w = 0xB7) (gen : barGen w = g) : engArrive s wg (off, g) wrote =
    (modWg (putBar s wg (some off) (barArrive w 1) []) wg fun x =>
      { x with barAcq := tabPut x.barAcq (1 + off) (maxTab2 (tabGet [] x.barAcq (1 + off)) wrote) }, none) := by
  subst word
  exact if_pos ⟨magic, gen⟩

theorem engArrive_fails (moved : barMagic w ≠ 0xB7 ∨ barGen w ≠ g) : engArrive s wg (off, g) wrote = (s, some w) := by
  subst word
  exact if_neg fun both => moved.elim (· both.1) (· both.2)

end Arrive

end Sys2Proof.Machine

namespace Sys2Proof.Laws

open Sys2Proof Sys2Proof.Machine

/-- Settles O35: `mwait` by `endMwait_eq`, with the status of `mwaitStatus_zero`; the completion of a batch by the arrival on its barrier
(`engArrive_arrives`, `engArrive_fails`). -/
theorem batches : Obligations.Batches := by
  unfold Obligations.Batches
  refine ⟨fun s t st d a v seated outside dst operand unmarked => ⟨exec_mwait_waits seated outside dst operand, ?ends, ?event⟩,
    fun s id num b found earlier finished =>
      ⟨exec_batchComplete_noBar found earlier finished, fun off g w named word => ⟨?arrives, ?fails⟩⟩⟩
  case ends =>
    intro all operations barriers
    have status := mwaitStatus_zero operations (fun b covered => barriers b (List.mem_filter.1 covered).1) s.cur
      (bs := batchesTo s s.cur (min v.toNat t.batch.toNat))
    obtain ⟨pc, wait, conds⟩ := mwaited_frame s s.cur t d (min v.toNat t.batch.toNat)
    refine ⟨_, (exec_mwait_ends seated outside dst operand all).trans (congrArg _ (endMwait_eq unmarked ..)), rfl, fun b => ?left,
      _, find_putThr .., ?status, pc, wait, fun r other => ?regs, conds, fun small => le_mwaited small ..⟩
    case left =>
      simp only [unmember, putThr_batches, List.mem_filter, Bool.not_eq_true', ← Bool.not_eq_true, Bool.and_eq_true, beq_iff_eq,
        decide_eq_true_eq]
    case status => rw [getS_mwaited, getS_setS_self _ dst, status]
    case regs =>
      rw [getS_mwaited, getS_setS_ne _ other]
      rfl
  case event =>
    intro wait running notFrozen all
    refine ⟨_, exec_mwait_ends seated outside dst operand all, fun c => ?_⟩
    rw [← endMwait_cur unmarked]
    exact exec_mwaitComplete_ends ⟨seated.1, notFrozen, running⟩ wait all
  case arrives =>
    exact fun magic gen => exec_batchComplete_arrives found earlier finished named (engArrive_arrives word _ magic gen)
  case fails =>
    exact fun moved => exec_batchComplete_marks found earlier finished named (engArrive_fails word _ moved)

end Sys2Proof.Laws

end
section

/-! ## Accumulator slots (11_engine_commands.md; O37)

`mcommit` writes the elements of a slot one after the other, so each holds the sum of what the slot and the shadow held in it. -/

namespace Sys2Proof

/-- A table made by setting `f k` under each `k` below `n` reads `f k` there. -/
theorem tabGet_foldl_range {α : Type} [DecidableEq α] (d : α) (f : Nat → α) {n k : Nat} (below : k < n) :
    tabGet d ((List.range n).foldl (fun t j => tabSet d t j (f j)) []) k = f k := by
  induction n with
  | zero => exact absurd below (Nat.not_lt_zero k)
  | succ n ih =>
    rw [List.range_succ, List.foldl_append, List.foldl_cons, List.foldl_nil]
    by_cases last : k = n
    · rw [last, tabGet_tabSet_self]
    · rw [tabGet_tabSet_ne d _ last, ih (by omega)]

end Sys2Proof

namespace Sys2Proof.Machine

open Sys2Proof

theorem accSlot_eq (g : Wg) (d : Nat) : accSlot g d = tabGet ⟨false, []⟩ g.acc d := rfl

theorem accSlot_tabPut {g : Wg} {a : Tab Slot} {d : Nat} {x : Slot} (stored : g.acc = tabPut a d x) (e : Nat) :
    accSlot g e = if e = d then x else tabGet ⟨false, []⟩ a e := by
  rw [accSlot_eq, stored, tabGet_tabPut]

/-- Either slot of a pair that an f64 operation has cleared, and a slot that an f32 one has, holds +0 with the tag (R295). -/
theorem accSlot_putSlot_zero (g : Wg) (d : Nat) (f64 : Bool) : accSlot (putSlot g d f64 []) d = ⟨f64, []⟩ := by
  cases f64 with
  | false => exact (accSlot_tabPut rfl d).trans (if_pos rfl)
  | true =>
    refine (accSlot_tabPut rfl d).trans ?_
    split
    next => rfl
    next notUpper => rw [tabGet_tabPut, if_pos (by omega)]

theorem mcommitWg_empty {g : Wg} {n : Nat} (empty : tabFind g.shadow n = none) (c : Bool) (d : Nat) : mcommitWg g c d n = (0, g) := by
  rw [mcommitWg, empty]

section Tied

variable {g : Wg} {n : Nat} {h : Shadow} (tied : tabFind g.shadow n = some h) (d : Nat)

include tied

theorem mcommitWg_false : mcommitWg g false d n = (0, { g with shadow := tabDel g.shadow n }) := by
  rw [mcommitWg, tied]
  rfl

theorem mcommitWg_f64 (wide : (accSlot g d).f64 = true) : mcommitWg g true d n = (0x07, g) := by
  rw [mcommitWg, tied]
  exact if_pos wide

/-- The values of a slot with a shadow's added to them (R299). -/
def summed (old shadow : Tab Word) : Tab Word :=
  (List.range (128 * 128)).foldl (fun acc k =>
    tabSet 0 acc k (BitVec.ofNat 64 (opAdd F32 0 false (tabGet 0 old k).toNat (tabGet 0 shadow k).toNat).1)) []

theorem mcommitWg_true (single : (accSlot g d).f64 = false) : mcommitWg g true d n =
    (0, { g with shadow := tabDel g.shadow n, acc := tabPut g.acc d ⟨false, summed (accSlot g d).vals h.vals⟩ }) := by
  rw [mcommitWg, tied]
  exact if_neg (c := (accSlot g d).f64 = true) (by simp [single])

end Tied

theorem tabGet_summed (old shadow : Tab Word) {k : Nat} (inSlot : k < 16384) : tabGet 0 (summed old shadow) k =
    BitVec.ofNat 64 (opAdd F32 0 false (tabGet 0 old k).toNat (tabGet 0 shadow k).toNat).1 :=
  tabGet_foldl_range 0 (fun k => BitVec.ofNat 64 (opAdd F32 0 false (tabGet 0 old k).toNat (tabGet 0 shadow k).toNat).1) inSlot

end Sys2Proof.Machine

namespace Sys2Proof.Laws

open Sys2Proof Sys2Proof.Machine

/-- Settles O37: `mcommit` by its four cases, of which the sum reads back element by element (`tabGet_summed`). -/
theorem accumulatorsChange : Obligations.AccumulatorsChange := by
  unfold Obligations.AccumulatorsChange
  intro g d n h
  refine ⟨accSlot_putSlot_zero g d, fun empty c => mcommitWg_empty empty c d,
    fun tied => ⟨mcommitWg_false tied d, mcommitWg_f64 tied d, fun single => ?_⟩⟩
  rw [mcommitWg_true tied d single]
  have slots := accSlot_tabPut (g := { g with
    shadow := tabDel g.shadow n, acc := tabPut g.acc d ⟨false, summed (accSlot g d).vals h.vals⟩ }) rfl
  have here := (slots d).trans (if_pos rfl)
  refine ⟨rfl, rfl, congrArg Slot.f64 here, fun k inSlot => ?sum, fun e other => (slots e).trans (if_neg other)⟩
  case sum =>
    rw [here]
    dsimp only
    exact tabGet_summed _ _ inSlot

end Sys2Proof.Laws

end

section

/-! ## Printed words (00_scope.md, 06_assembly_and_formats.md, 07_opcode_map.md; O1) -/

namespace Sys2Proof.Laws

open Sys2Proof Sys2Proof.Machine

/-- Settles O1: each word is closed, and the decoder computes on it. -/
theorem encodingWords : Obligations.EncodingWords := by
  unfold Obligations.EncodingWords
  refine ⟨?scalar, ?oneWord, ?zero, ?unassigned, ?iadd, ?fadd, ?cvt, ?shfl, ?ld, ?cas, ?unassignedLane⟩
  case scalar => decide
  case oneWord => decide
  all_goals rfl

end Sys2Proof.Laws

end

section

/-! ## Stops, fault records and the end of a context (18_faults_preemption.md; O51, O52, O53)

A stop lists the strand's thread again and queues a record; a record enters the ring by a write of the hub, which leaves what is not
memory alone (`besideMemory`); and a context that ends loses its threads and what is parked for it. -/

namespace Sys2Proof.Machine

open Sys2Proof

/-! ### What is not memory -/

theorem ctxs_of_besideMemory {s s' : State} (same : besideMemory s' = besideMemory s) : s'.ctxs = s.ctxs :=
  show (besideMemory s').ctxs = (besideMemory s).ctxs from congrArg State.ctxs same

theorem engq_of_besideMemory {s s' : State} (same : besideMemory s' = besideMemory s) : s'.engq = s.engq :=
  show (besideMemory s').engq = (besideMemory s).engq from congrArg State.engq same

theorem wgs_of_besideMemory {s s' : State} (same : besideMemory s' = besideMemory s) : s'.wgs = s.wgs :=
  show (besideMemory s').wgs = (besideMemory s).wgs from congrArg State.wgs same

theorem hub_of_besideMemory {s s' : State} (same : besideMemory s' = besideMemory s) : s'.hub = s.hub :=
  show (besideMemory s').hub = (besideMemory s).hub from congrArg State.hub same

theorem besideMemory_homeParked (s : State) (c : Nat) : besideMemory (homeParked s c) = besideMemory s :=
  foldl_keeps besideMemory (fun _ _ => besideMemory_parkedHome _ _) _ _

/-! ### Stops (R353, R357) -/

/-- A sum of fields gives each one back, cut to its width, with its flags as bits (R353). -/
theorem recWord0_fields (ctxid : Word) (slot core quad die : Nat) (eng region host write replay : Bool) (sub cause : Nat) :
    let w := recWord0 ctxid slot core quad die eng region host write replay sub cause
    w.toNat % 256 = cause % 256 ∧ w.toNat / 2 ^ 8 % 256 = sub % 256 ∧ w.getLsbD 16 = replay ∧ w.getLsbD 17 = write ∧
      w.getLsbD 18 = host ∧ w.getLsbD 19 = region ∧ w.getLsbD 20 = eng ∧ w.toNat / 2 ^ 24 % 256 = die % 256 ∧
      w.toNat / 2 ^ 32 % 256 = quad % 256 ∧ w.toNat / 2 ^ 40 % 4 = core % 4 ∧ w.toNat / 2 ^ 42 % 64 = slot % 64 ∧
      w.toNat / 2 ^ 48 = ctxid.toNat % 65536 := by
  have flag (b : Bool) (k : Nat) : (if b then 2 ^ k else 0) = b.toNat * 2 ^ k := by cases b <;> simp
  have bit1 (b : Bool) : b.toNat < 2 := by cases b <;> decide
  have isBit (n : Nat) (b : Bool) : n % 2 = b.toNat → decide (n % 2 = 1) = b := by cases b <;> simp +contextual
  intro w
  have value : w.toNat = cause % 256 + sub % 256 * 2 ^ 8 + replay.toNat * 2 ^ 16 + write.toNat * 2 ^ 17 + host.toNat * 2 ^ 18
      + region.toNat * 2 ^ 19 + eng.toNat * 2 ^ 20 + die % 256 * 2 ^ 24 + quad % 256 * 2 ^ 32 + core % 4 * 2 ^ 40
      + slot % 64 * 2 ^ 42 + ctxid.toNat % 65536 * 2 ^ 48 := by
    have := bit1 replay; have := bit1 write; have := bit1 host; have := bit1 region; have := bit1 eng
    simp only [w, recWord0, flag, BitVec.toNat_ofNat]
    omega
  have := bit1 replay; have := bit1 write; have := bit1 host; have := bit1 region; have := bit1 eng
  simp only [BitVec.getLsbD, Nat.testBit_eq_decide_div_mod_eq, value]
  refine ⟨?_, ?_, isBit _ _ ?_, isBit _ _ ?_, isBit _ _ ?_, isBit _ _ ?_, isBit _ _ ?_, ?_, ?_, ?_, ?_, ?_⟩ <;> omega

/-- A thread with a stop more, behind those not yet resolved. -/
def withStop (t : Thread) (p : Stop) : Thread :=
  match t.stop with
  | none => { t with stop := some p }
  | some _ => { t with more := t.more ++ [p] }

/-- A stop of a strand outside a region, or in one that commits, halts the strand. -/
theorem takeStop_halts {s : State} {id : Nat} {t : Thread} {st : Seat} (listed : tabFind s.threads id = some t)
    (seated : t.seat = some st) (outside : st.region = 0 ∨ committing s st.region = true) (p : Stop) :
    takeStop s id p =
      queueRec (putThr s id (withStop t p)) t.ctx t.launch { words := stopWords s t p, thread := some id, eng := none } := by
  have halts : takeStop s id p = haltThr s id p := by simp [takeStop, listed, seated, outside]
  rw [halts, haltThr, withStop]
  cases stops : t.stop <;> simp [listed, stops]

/-- A region that is being aborted does not commit. -/
theorem not_committing_of_aborting {s : State} {rg : Nat} (aborts : aborting s rg = true) : committing s rg = false := by
  unfold aborting at aborts
  unfold committing
  cases found : tabFind s.reg.regions rg with
  | none => rfl
  | some r =>
    rw [found, Option.any_some] at aborts
    rw [Option.any_some]
    cases phase : r.phase <;> simp_all

/-- A record queued stands behind those of its context. -/
theorem find_queueRec {s : State} {c : Nat} {x : Ctx} (listed : tabFind s.ctxs c = some x) (launch : Nat) (r : Rec) :
    tabFind (queueRec s c launch r).ctxs c = some { x with recs := x.recs ++ [r] } := by
  simp [queueRec, tabFind_tabMod, listed]

/-! ### The ring (R356, R357) -/

section Records

variable {s : State} {c : Nat} {x : Ctx} (listed : tabFind s.ctxs c = some x)

include listed

theorem ctxOf_listed : ctxOf s c = x := by rw [ctxOf, listed, Option.getD_some]

theorem onCtx_listed (name : String) (k : Ctx → Out) : onCtx s name c k = k x := by rw [onCtx, listed]

theorem withFcb_listed : withFcb s c = s := by simp [withFcb, listed]

theorem find_modCtx (f : Ctx → Ctx) : tabFind (modCtx s c f).ctxs c = some (f x) := by simp [tabFind_tabMod, listed]

theorem ctxOf_modCtx (f : Ctx → Ctx) : ctxOf (modCtx s c f) c = f x := ctxOf_listed (find_modCtx listed f)

/-- The oldest record enters the ring where it is not full and its line can be reached. -/
theorem exec_faultRecordWrite_enters {r : Rec} {rest : List Rec} (oldest : x.recs = r :: rest)
    (room : (x.fcb.fqTail - x.fcb.fqHead).toNat ≠ 2 ^ x.fcb.fqLog2) :
    let pa := x.fcb.fqBase.toNat + 64 * (x.fcb.fqTail.toNat % 2 ^ x.fcb.fqLog2)
    backed s pa = true → physWaits s pa 64 true = false →
      exec (.faultRecordWrite c) s = .next (recordWritten (signalMsix (modCtx (hubWriteWords s pa r.words) c fun y =>
        { y with recs := rest, fcb := { y.fcb with fqTail := y.fcb.fqTail + 1 } }) c) r) := by
  intro pa reached free
  rw [exec_faultRecordWrite, execFaultRecordWrite, onCtx_listed listed, oldest]
  dsimp only
  rw [if_neg (not_or.2 ⟨room, Bool.eq_false_iff.1 free⟩), needBacked, if_pos reached]

/-- The fields of a fault control block are written for an id that has one. -/
theorem exec_fqhead_listed (v : BitVec 64) :
    exec (.fqhead c v) s = .next (modCtx s c fun y => { y with fcb := { y.fcb with fqHead := v } }) := by
  rw [exec_fqhead, execFqhead, withFcb_listed listed, onCtx_listed listed]
  rfl

theorem find_setErr (bits : BitVec 8) :
    tabFind (setErr s c bits).ctxs c = some { x with fcb := { x.fcb with err := x.fcb.err ||| bits } } :=
  find_modCtx listed fun y => { y with fcb := { y.fcb with err := y.fcb.err ||| bits } }

/-! ### RESUME (R357) -/

/-- An action and a name without a reserved bit act on the strand named, or set ERR bit 0 where they name none. -/
theorem resume_acts {v : BitVec 64} {action : Nat} (clean : v.toNat / 4 % 2 ^ 22 = 0) (high : v.toNat / 2 ^ 48 = 0)
    (act : v.toNat % 4 = action) (stated : action ≠ 3) (name : String) (k : State → Nat → Thread → Stop → Out) :
    resume name action c v s k =
      (namedStrand s c (v.toNat / 2 ^ 24)).elim (.next (setErr s c 0x01)) fun w => k s w.1 w.2.1 w.2.2 := by
  have strand : bitsAt v.toNat 24 24 = v.toNat / 2 ^ 24 := by unfold bitsAt; omega
  have action_ : bitsAt v.toNat 0 2 = action := by rwa [bitsAt_zero]
  have field : bitsAt v.toNat 2 22 = 0 := clean
  rw [resume, withFcb_listed listed, onCtx_listed listed]
  dsimp only
  rw [action_, field, strand, if_neg (not_or.2 ⟨stated, not_or.2 ⟨not_not.2 rfl, not_not.2 high⟩⟩), if_neg (not_not.2 rfl)]
  cases namedStrand s c (v.toNat / 2 ^ 24) <;> rfl

/-- A reserved action or a bit that must be zero sets ERR bit 4. -/
theorem resume_reserved {v : BitVec 64} (reserved : v.toNat % 4 = 3 ∨ v.toNat / 4 % 2 ^ 22 ≠ 0 ∨ v.toNat / 2 ^ 48 ≠ 0) (name : String)
    (action : Nat) (k : State → Nat → Thread → Stop → Out) : resume name action c v s k = .next (setErr s c 0x10) := by
  rw [resume, withFcb_listed listed, onCtx_listed listed]
  exact if_pos (by rwa [bitsAt_zero])

end Records

/-- An operation that issues again changes no thread. -/
theorem threads_reissueOp (s : State) (op : Nat) (o : Op) (which : LaneAcc → Bool) : (reissueOp s op o which).threads = s.threads := by
  have scratch (s : State) (a : LaneAcc) (w off : Nat) : (scratchLane s o a w off).1.threads = s.threads := by
    unfold scratchLane
    split
    · rfl
    · dsimp only
      split <;> rfl
  have relaunch (s : State) (a : LaneAcc) : (relaunchLane s o a).1.threads = s.threads := by
    unfold relaunchLane
    split
    · exact scratch ..
    · exact threads_of_besideMemory (besideMemory_noteAccess ..)
    · rfl
  refine foldl_keeps (fun acc : State × List LaneAcc => acc.1.threads) (fun acc p => ?_) _ (s, [])
  dsimp only
  split
  · rfl
  · split
    · exact relaunch ..
    · split <;> rfl

theorem threads_replayOp (s : State) (id : Nat) (p : Stop) : (replayOp s id p).threads = s.threads :=
  foldl_keeps State.threads (fun _ _ => threads_reissueOp ..) _ _

/-- A strand whose oldest stop is replayed has its next one. -/
theorem find_replayStrand {s : State} {id : Nat} {u : Thread} (listed : tabFind s.threads id = some u) (p : Stop) :
    tabFind (replayStrand s id p).threads id = some (clearStop u) := by
  rw [replayStrand, threads_replayOp, modThr_threads, tabFind_tabMod, if_pos rfl, listed, Option.map_some]

/-! ### The end of a context (R76, R341, R357) -/

/-- A line written home has no locket left. -/
theorem lockets_parkedHome (s : State) (line : Nat) :
    (parkedHome s line).coh.lockets = s.coh.lockets.filter fun k => k.line != line := by
  unfold parkedHome
  split
  next notParked =>
    exact (List.filter_eq_self.2 fun k hk => by simpa using List.find?_eq_none.1 notParked k hk).symm
  next k _ =>
    obtain ⟨m, written⟩ := writeBack_eq (dropLocket s line) (unparked k)
    rw [written]
    rfl

theorem mem_lockets_foldl_parkedHome {s : State} {ks : List Locket} {k : Locket}
    (left : k ∈ (ks.foldl (fun acc k => parkedHome acc k.line) s).coh.lockets) :
    k ∈ s.coh.lockets ∧ ∀ k' ∈ ks, k.line ≠ k'.line := by
  induction ks generalizing s with
  | nil => exact ⟨left, by simp⟩
  | cons k' ks ih =>
    obtain ⟨kept, others⟩ := ih left
    rw [lockets_parkedHome, List.mem_filter, bne_iff_ne] at kept
    exact ⟨kept.1, List.forall_mem_cons.2 ⟨kept.2, others⟩⟩

/-- Nothing stays parked for a context whose parked lines have been written home. -/
theorem ctx_of_mem_homeParked {s : State} {c : Nat} {k : Locket} (left : k ∈ (homeParked s c).coh.lockets) : k.ctx ≠ c := by
  obtain ⟨parked, others⟩ := mem_lockets_foldl_parkedHome left
  exact fun own => others k (List.mem_filter.2 ⟨parked, by simpa using own⟩) rfl

/-- A launch of a context that ends is to complete with a status and, unless an earlier one stands, a cause (R341). -/
def endedLaunch (c status cause : Nat) (l : Launch) : Launch :=
  if l.ctx = c ∧ l.finished = false then
    { l with status := status, firstFault := if l.firstFault = 0 then cause else l.firstFault, slot := none }
  else l

/-- A state without the threads and teams of a context, whose open launches are to complete. -/
def threadsGone (s : State) (c status cause : Nat) : State :=
  { s with
    threads := s.threads.filter fun t => t.2.ctx != c
    teams := s.teams.filter fun h => (launchOf s (((tabFind s.wgs h.wg).map (·.launch)).getD 0)).ctx != c
    launches := s.launches.map fun p => (p.1, endedLaunch c status cause p.2) }

theorem endThreads_eq {s : State} (noRegion : s.reg.regions = []) (c status cause : Nat) :
    endThreads s c status cause = forget (homeParked (threadsGone s c status cause) c) := by
  have noAbort : abortRegions s c causeFault (fun _ => false) = s := by rw [abortRegions, noRegion]; rfl
  unfold endThreads
  rw [noAbort]
  refine congrArg (fun launches => forget (homeParked { threadsGone s c status cause with launches := launches } c)) ?_
  refine List.map_congr_left fun p _ => ?_
  rw [endedLaunch]
  split <;> rfl

/-- What the end of a context's threads leaves, where no region is open. -/
theorem endThreads_frame {s : State} (noRegion : s.reg.regions = []) (c status cause : Nat) :
    let s' := endThreads s c status cause
    s'.threads = s.threads.filter (fun p => p.2.ctx != c) ∧ s'.ctxs = s.ctxs ∧ s'.wgs = s.wgs ∧ s'.hub = s.hub ∧
      s'.launches = s.launches.map (fun p => (p.1, endedLaunch c status cause p.2)) ∧ (∀ e ∈ s'.engq, e ∈ s.engq) ∧
      ∀ k ∈ s'.coh.lockets, k.ctx ≠ c := by
  have same := besideMemory_homeParked (threadsGone s c status cause) c
  rw [endThreads_eq noRegion]
  refine ⟨threads_of_besideMemory same, (ctxs_of_besideMemory same :), (wgs_of_besideMemory same :), (hub_of_besideMemory same :),
    launches_of_besideMemory same, fun e he => ?_, fun k => ctx_of_mem_homeParked⟩
  have queued : e ∈ (homeParked (threadsGone s c status cause) c).engq := (List.mem_filter.1 he).1
  rwa [engq_of_besideMemory same] at queued

/-- A context that is moved to a state stands in it, with its other fields as they were. -/
theorem ctxOf_setCtxState {s : State} {c : Nat} {x : Ctx} (listed : tabFind s.ctxs c = some x) (st : Nat) :
    ctxOf (setCtxState s c st) c = { x with fcb := { x.fcb with state := st } } :=
  ctxOf_modCtx listed fun y => { y with fcb := { y.fcb with state := st } }

/-- What is left of a context's operations in the queues as it ends: none that was saved, and none halted. -/
theorem engq_endContext {s : State} {c cause : Nat} {e : Nat × EngOp} (left : e ∈ (endContext s c cause).engq) (own : e.2.ctx = c) :
    e.2.halted = false ∧ e.2.core < 1024 := by
  obtain ⟨o, kept, rfl⟩ := List.mem_map.1 left
  obtain ⟨-, notSaved⟩ := List.mem_filter.1 kept
  dsimp only at own ⊢
  split at own
  next mine => rw [if_pos mine]; simpa [mine] using notSaved
  next other => exact absurd own other

/-- Writing a record and starting the count again, as a HANG is reported (R360). -/
def hangReported (s : State) (c : Nat) (x : Ctx) (es out : List (List Word)) (w : Word) : State :=
  modCtx (queueRec (if out = [] then s else hubWriteWords s x.fcb.hangBuf.toNat out.flatten) c x.latest
    ⟨[w, 0, 0, 0, 0, BitVec.ofNat 64 (rtNs s), BitVec.ofNat 64 out.length, BitVec.ofNat 64 es.length], none, none⟩) c
    (fun y => { y with hang := 0 })

/-- A context whose count has reached the threshold is reported, and ends unless a hang of it is host-assisted (R48, R354). -/
theorem exec_hangDetected_reports {s : State} {c : Nat} {x : Ctx} (listed : tabFind s.ctxs c = some x) (on : s.hub.hangThr ≠ 0)
    (reached : s.hub.hangThr.toNat ≤ x.hang / Config.cycleTicks 3) (running : x.fcb.state = 0)
    (fits : (graph s c).take x.fcb.hangLen = [] ∨ backed s x.fcb.hangBuf.toNat = true)
    (free : physWaits s x.fcb.hangBuf.toNat (16 * ((graph s c).take x.fcb.hangLen).length) true = false) :
    exec (.hangDetected c) s =
      let s1 := hangReported s c x (graph s c) ((graph s c).take x.fcb.hangLen)
        (recWord0 (BitVec.ofNat 64 x.ctxid) 0 0 0 0 false false false false false 0 cHANG)
      .next (if s.hub.fmode.getLsbD 2 || (openLaunches s c).any (fun l => l.2.lrec.hostFor.getLsbD 2) then s1
        else endContext s1 c cHANG) := by
  have threshold : s.hub.hangThr.toNat ≠ 0 := fun zero => on (BitVec.eq_of_toNat_eq zero)
  have enabled : ¬ (s.hub.hangThr.toNat = 0 ∨ x.hang / Config.cycleTicks 3 < s.hub.hangThr.toNat ∨ x.fcb.state ≠ 0) :=
    not_or.2 ⟨threshold, not_or.2 ⟨Nat.not_lt.2 reached, not_not.2 running⟩⟩
  have reachable : ¬ ((!((graph s c).take x.fcb.hangLen).isEmpty && !backed s x.fcb.hangBuf.toNat) = true) := by
    rcases fits with none | backed <;> simp [*]
  rw [exec_hangDetected, execHangDetected, onCtx_listed listed]
  dsimp only
  rw [if_neg enabled, if_neg (Bool.eq_false_iff.1 free), if_neg reachable]
  simp only [hangReported, List.isEmpty_iff, List.flatMap_id]

end Sys2Proof.Machine

namespace Sys2Proof.Laws

open Sys2Proof Sys2Proof.Machine

/-- Settles O51: the fields of word 0 are `recWord0_fields`. -/
theorem stopsAreRecorded : Obligations.StopsAreRecorded := by
  unfold Obligations.StopsAreRecorded
  intro s id t st p listed seated
  refine ⟨fun outside => ?_, fun inside noCommit noAbort => ?_, fun inside aborts => ?_⟩
  · obtain ⟨hCause, hSub, hReplay, hWrite, hHost, hRegion, hEng, hDie, hQuad, hCore, hSlot, hCtx⟩ :=
      recWord0_fields t.ctxid st.slot (virtCore (launchOf s t.launch) (st.core % 1024)) (virtQuad (launchOf s t.launch) (st.core % 1024 / 4))
        (virtDie (launchOf s t.launch) (st.core % 1024 / 128)) (p.kind == .trap && p.cause == 0x31) p.region p.host p.write p.replay
        p.sub p.cause
    refine ⟨_, _, rfl, ?_, fun x hx => ?_, hCause, hSub, hReplay, hWrite, hHost, hRegion, hEng, hDie, hQuad, hCore, hSlot, hCtx, ?_⟩
    all_goals rw [takeStop_halts listed seated outside p]
    · cases stops : t.stop <;> simp [withStop, stops, queueRec]
    · refine (find_queueRec (s := putThr s id _) hx _ _).trans ?_
      cases lanePc : p.lpc <;> simp [stopWords, seated, lanePc, cENGINE, savedCore]
    · exact ⟨rfl, rfl, fun j other => by simp [queueRec, tabFind_tabPut_ne _ other]⟩
  · simp [takeStop, listed, seated, inside, noCommit, noAbort]
  · simp [takeStop, listed, seated, inside, not_committing_of_aborting aborts, aborts]

/-- Settles O52: a record enters the ring by `exec_faultRecordWrite_enters`; RESUME acts by `resume_acts` and `resume_reserved`. -/
theorem recordsAndResume : Obligations.RecordsAndResume := by
  unfold Obligations.RecordsAndResume
  refine ⟨fun s c v unlisted inFile => ?_, fun s c x listed => ⟨fun r rest oldest room => ?_, exec_fqhead_listed listed,
    fun v clean high => ?_, fun v reserved => ?_, fun bits => ?_, fun id u p found _ => ⟨_, find_replayStrand found p, rfl⟩⟩⟩
  · have made : tabFind (withFcb s c).ctxs c = some { Ctx.blank with fcbOnly := true } := by
      simp [withFcb, unlisted, Nat.not_le.2 inFile]
    rw [exec_fqhead, execFqhead, onCtx_listed made]
    exact ⟨_, rfl, congrArg (·.fcb.fqHead) (ctxOf_modCtx made _)⟩
  · intro pa s1 reached free
    have enters := exec_faultRecordWrite_enters listed oldest room reached free
    refine ⟨fun plain => ?_, fun e o waits queued failing => ?_⟩
    · rw [enters, recordWritten, plain]
    · have still : tabFind s1.engq e = some o := (congrArg (tabFind · e) (engq_of_besideMemory (besideMemory_hubWriteWords ..))).trans queued
      rw [enters, recordWritten, waits]
      simp only
      rw [still]
      simp [failing, s1, pa]
  · have acts (action : Nat) (act : v.toNat % 4 = action) (stated : action ≠ 3) (name : String)
        (k : State → Nat → Thread → Stop → Out) := resume_acts listed clean high act stated name k
    refine ⟨fun id t p named => ⟨fun act => ?_, fun act => ?_, fun act => ?_⟩, fun unnamed => ⟨fun act => ?_, fun act => ?_, fun act => ?_⟩⟩
    · rw [exec_resumeReplay, execResumeReplay, acts 0 act (by decide), named]
      exact (apply_ite Host.Outcome.next _ _ _).symm
    · rw [exec_resumeContinue, execResumeContinue, acts 1 act (by decide), named]
      exact (apply_ite Host.Outcome.next _ _ _).symm
    · rw [exec_resumeEnd, execResumeEnd, acts 2 act (by decide), named]
      rfl
    · rw [exec_resumeReplay, execResumeReplay, acts 0 act (by decide), unnamed]
      rfl
    · rw [exec_resumeContinue, execResumeContinue, acts 1 act (by decide), unnamed]
      rfl
    · rw [exec_resumeEnd, execResumeEnd, acts 2 act (by decide), unnamed]
      rfl
  · rw [exec_resumeReplay]
    exact resume_reserved listed reserved _ _ _
  · exact ⟨congrArg (fun m => s.hub.msix ++ [m]) (congrArg (·.fcb.msix) (ctxOf_modCtx listed _)), rfl, find_setErr listed bits⟩

/-- Settles O53: what goes with a context's threads is `endThreads_frame`; a hang is reported by `exec_hangDetected_reports`. -/
theorem contextsEnd : Obligations.ContextsEnd := by
  unfold Obligations.ContextsEnd
  refine ⟨fun s c cause x listed noRegion => ?_, fun s c x listed on reached running => ?_⟩
  · obtain ⟨threads, ctxs, -, -, launches, -, lockets⟩ := endThreads_frame noRegion c 2 cause
    have found (la : Nat) : tabFind (endContext s c cause).launches la = (tabFind s.launches la).map (endedLaunch c 2 cause) :=
      (congrArg (tabFind · la) launches).trans (tabFind_map ..)
    have still : tabFind (endThreads s c 2 cause).ctxs c = some x := by rw [ctxs, listed]
    have ends : ctxOf (endContext s c cause) c =
        { x with frozen := false, preAt := none, claims := [], fcb := { x.fcb with state := 5 } } :=
      ctxOf_setCtxState (find_modCtx still fun y => { y with frozen := false, preAt := none, claims := [] }) 5
    refine ⟨fun p hp => ?_, congrArg (·.fcb.state) ends, congrArg Ctx.frozen ends, fun e => engq_endContext,
      fun la l hl own open_ => ⟨_, by rw [found, hl, Option.map_some], ?_, ?_⟩, fun la l hl other => ?_, lockets⟩
    · have kept : p ∈ (endThreads s c 2 cause).threads := hp
      rw [threads] at kept
      simpa using (List.mem_filter.1 kept).2
    · simp [endedLaunch, own, open_]
    · simp [endedLaunch, own, open_]
    · rw [found, hl, Option.map_some, endedLaunch, if_neg (fun h => other h.1)]
  · intro es out fits free
    have reports := exec_hangDetected_reports listed on reached running fits free
    obtain ⟨hCause, -, -, -, -, -, -, -, -, -, -, hCtx⟩ :=
      recWord0_fields (BitVec.ofNat 64 x.ctxid) 0 0 0 0 false false false false false 0 cHANG
    refine ⟨_, _, hCause, hCtx.trans ?_, rfl, fun host => ?_, fun hardware noHost => ?_⟩
    · rw [BitVec.toNat_ofNat]
      omega
    · rw [reports]
      simp only [host, Bool.true_or, if_true]
      rfl
    · have none : ((openLaunches s c).any fun l => l.2.lrec.hostFor.getLsbD 2) = false :=
        List.any_eq_false.2 fun l hl => by simp [noHost l (List.mem_filter.1 hl).1]
      rw [reports]
      simp only [hardware, none, Bool.or_false, Bool.false_eq_true, if_false]
      rfl

end Sys2Proof.Laws

end

section

/-! ## The pre-emption ladder (18_faults_preemption.md; O54) -/

namespace Sys2Proof.Machine

open Sys2Proof

/-! ### Freezing and resetting (R361, R362) -/

theorem freezeCtx_eq {s : State} (noRegion : s.reg.regions = []) (c : Nat) :
    freezeCtx s c = setCtxState (modCtx s c fun x => { x with frozen := true, preAt := some (x.preAt.getD (rtNs s)) }) c 2 := by
  have noAbort : abortRegions s c causePreempt regionCommits = s := by rw [abortRegions, noRegion]; rfl
  rw [freezeCtx, noAbort]

/-- A context that is resetting stays so, or has ended. -/
theorem settleReset_state {s : State} {c : Nat} {x : Ctx} (listed : tabFind s.ctxs c = some x) (resetting : x.fcb.state = 4) :
    (ctxOf (settleReset s c) c).fcb.state ∈ [4, 5] := by
  unfold settleReset
  split
  · simp [ctxOf_setCtxState listed]
  · simp [ctxOf_listed listed, resetting]

theorem settleReset_frame (s : State) (c : Nat) : (settleReset s c).threads = s.threads ∧ (settleReset s c).engq = s.engq := by
  unfold settleReset
  split <;> exact ⟨rfl, rfl⟩

/-- A forced reset leaves no thread and no engine operation of the context, which is resetting or has ended (R362). -/
theorem forceReset_frame {s : State} {c : Nat} {x : Ctx} (listed : tabFind s.ctxs c = some x) (noRegion : s.reg.regions = []) :
    (∀ p ∈ (forceReset s c).threads, p.2.ctx ≠ c) ∧ (∀ e ∈ (forceReset s c).engq, e.2.ctx ≠ c) ∧
      (ctxOf (forceReset s c) c).fcb.state ∈ [4, 5] := by
  unfold forceReset
  extract_lets _ s1 s2 s3
  obtain ⟨threads, ctxs, -, -, -, engq, -⟩ := endThreads_frame (s := s1) noRegion c 3 0
  have still : tabFind s3.ctxs c = some x := (congrArg (tabFind · c) ctxs).trans listed
  obtain ⟨sameThreads, sameEngq⟩ := settleReset_frame
    (setCtxState (modCtx s3 c fun x => { x with frozen := false, preAt := none, claims := [] }) c 4) c
  refine ⟨fun p hp => ?_, fun e he => ?_, settleReset_state (x := { x with
    frozen := false, preAt := none, claims := [], fcb := { x.fcb with state := 4 } }) ?_ rfl⟩
  · rw [sameThreads] at hp
    have kept : p ∈ s2.threads := hp
    rw [threads] at kept
    simpa using (List.mem_filter.1 kept).2
  · rw [sameEngq] at he
    simpa using (List.mem_filter.1 (engq e he)).2
  · exact find_modCtx (find_modCtx still fun y => { y with frozen := false, preAt := none, claims := [] })
      fun y => { y with fcb := { y.fcb with state := 4 } }

/-! ### The rungs (R361) -/

section Rungs

variable {s : State} {c : Nat} {x : Ctx} (listed : tabFind s.ctxs c = some x)

include listed

theorem exec_preqDrain_eq : exec (.preqDrain c) s = if x.fcb.state = 0 then
    .next (setCtxState (modCtx s c fun y => { y with preAt := some (rtNs s) }) c 1) else .next s := by
  rw [exec_preqDrain, execPreqDrain, withFcb_listed listed, onCtx_listed listed]

theorem exec_preqFreeze_eq : exec (.preqFreeze c) s = if x.fcb.state ≤ 1 then .next (freezeCtx s c) else .next s := by
  rw [exec_preqFreeze, execPreqFreeze, withFcb_listed listed, onCtx_listed listed]

theorem exec_preqReset_eq : exec (.preqReset c) s = if x.fcb.state ≤ 3 then .next (forceReset s c) else .next s := by
  rw [exec_preqReset, execPreqReset, withFcb_listed listed, onCtx_listed listed]

theorem exec_preemptStart_drains (running : x.fcb.state = 0) {k : Nat} (core : k ∈ ctxCores s c)
    (need : wanted s k (ctxPrio s c) = true) :
    exec (.preemptStart c) s = .next (setCtxState (modCtx s c fun y => { y with preAt := some (rtNs s) }) c 1) := by
  rw [exec_preemptStart, execPreemptStart, onCtx_listed listed]
  exact if_pos ⟨running, List.any_eq_true.2 ⟨k, core, need⟩⟩

theorem exec_drainComplete_saves (draining : x.fcb.state = 1) (none : ∀ w ∈ s.wgs, (launchOf s w.2.launch).ctx ≠ c) :
    exec (.drainComplete c) s = .next (setCtxState (modCtx s c fun y => { y with frozen := true }) c 3) := by
  rw [exec_drainComplete, execDrainComplete, onCtx_listed listed]
  exact if_pos ⟨draining, List.all_eq_true.2 fun w hw => by simpa using none w hw⟩

/-- A drain that has outlasted its deadline freezes, or is signalled once. -/
theorem exec_drainDeadline_passed (draining : x.fcb.state = 1) (passed : deadlinePassed s x s.hub.drainDl.toNat = true)
    (before : s.hub.drainDl < s.hub.resetDl) :
    (s.hub.fmode.getLsbD 5 = false → exec (.drainDeadline c) s = .next (freezeCtx s c)) ∧
      (s.hub.fmode.getLsbD 5 = true → x.told = 0 →
        exec (.drainDeadline c) s = .next (signalMsix (modCtx s c fun y => { y with told := 1 }) c)) := by
  have enabled : ¬ (x.fcb.state ≠ 1 ∨ deadlinePassed s x s.hub.drainDl.toNat = false ∨ s.hub.resetDl ≤ s.hub.drainDl) :=
    not_or.2 ⟨not_not.2 draining, not_or.2 ⟨by simp [passed], BitVec.not_le.2 before⟩⟩
  rw [exec_drainDeadline, execDrainDeadline, onCtx_listed listed]
  rw [if_neg enabled]
  exact ⟨fun hardware => if_neg (Bool.eq_false_iff.1 hardware), fun host first => (if_pos host).trans (if_pos first)⟩

/-- A drain or a freeze that has outlasted the reset's deadline is reset, or is signalled once. -/
theorem exec_resetDeadline_passed (unsaved : x.fcb.state = 1 ∨ x.fcb.state = 2)
    (passed : deadlinePassed s x s.hub.resetDl.toNat = true) :
    (s.hub.fmode.getLsbD 5 = false → exec (.resetDeadline c) s = .next (forceReset s c)) ∧
      (s.hub.fmode.getLsbD 5 = true → x.told ≤ 1 →
        exec (.resetDeadline c) s = .next (signalMsix (modCtx s c fun y => { y with told := 2 }) c)) := by
  have enabled : ¬ ((x.fcb.state ≠ 1 ∧ x.fcb.state ≠ 2) ∨ deadlinePassed s x s.hub.resetDl.toNat = false) :=
    not_or.2 ⟨by omega, by simp [passed]⟩
  rw [exec_resetDeadline, execResetDeadline, onCtx_listed listed]
  rw [if_neg enabled]
  exact ⟨fun hardware => if_neg (Bool.eq_false_iff.1 hardware), fun host first => (if_pos host).trans (if_pos first)⟩

end Rungs

theorem deadlinePassed_of_since {s : State} {x : Ctx} {us : Nat} (since : ∃ at0, x.preAt = some at0 ∧ at0 + us * 1000 ≤ rtNs s) :
    deadlinePassed s x us = true := by
  obtain ⟨at0, started, passed⟩ := since
  simpa [deadlinePassed, started] using passed

end Sys2Proof.Machine

namespace Sys2Proof.Laws

open Sys2Proof Sys2Proof.Machine

/-- Settles O54: each rung by its event, and what a reset leaves by `forceReset_frame`. -/
theorem preemptionLadder : Obligations.PreemptionLadder := by
  unfold Obligations.PreemptionLadder
  intro s c x listed drain since
  refine ⟨fun running => (exec_preqDrain_eq listed).trans (if_pos running),
    fun running k core need => exec_preemptStart_drains listed running core need,
    fun notRunning => (exec_preqDrain_eq listed).trans (if_neg notRunning),
    fun draining none => exec_drainComplete_saves listed draining none,
    fun above => (exec_preqFreeze_eq listed).trans (if_pos above),
    fun below => (exec_preqFreeze_eq listed).trans (if_neg (Nat.not_le.2 below)),
    fun above => (exec_preqReset_eq listed).trans (if_pos above),
    fun below => (exec_preqReset_eq listed).trans (if_neg (Nat.not_le.2 below)),
    fun draining passed => exec_drainDeadline_passed listed draining (deadlinePassed_of_since passed),
    fun unsaved passed => exec_resetDeadline_passed listed unsaved (deadlinePassed_of_since passed),
    fun noRegion => ?_, fun noRegion => forceReset_frame listed noRegion⟩
  have frozen : ctxOf (freezeCtx s c) c = { x with
      frozen := true, preAt := some (x.preAt.getD (rtNs s)), fcb := { x.fcb with state := 2 } } := by
    rw [freezeCtx_eq noRegion]
    exact ctxOf_setCtxState (find_modCtx listed fun y => { y with frozen := true, preAt := some (y.preAt.getD (rtNs s)) }) 2
  exact ⟨congrArg Ctx.frozen frozen, congrArg (·.fcb.state) frozen, by rw [freezeCtx_eq noRegion]; rfl⟩

end Sys2Proof.Laws

end

section

/-! ## Partition reset, keys, evidence and registers (21_bringup_reset.md, 22_fleet_operation.md; O60) -/

namespace Sys2Proof.Machine

open Sys2Proof

/-- What one step of a fold brings about and every step keeps, the fold brings about. -/
theorem foldl_establishes {α β : Type} {P : β → Prop} {f : β → α → β} (keeps : ∀ b a, P b → P (f b a)) {l : List α} {a : α}
    (mem : a ∈ l) (brings : ∀ b, P (f b a)) (b : β) : P (l.foldl f b) := by
  induction l generalizing b with
  | nil => exact absurd mem List.not_mem_nil
  | cons a' l ih =>
    rcases List.mem_cons.1 mem with rfl | later
    · exact List.foldlRecOn l f (brings b) fun b held a _ => keeps b a held
    · exact ih later _

/-! ### Partition reset (R386) -/

/-- A line is evicted from its die alone. -/
theorem mem_l2_evictLine {s : State} {die line : Nat} {x : L2Line} (left : x ∈ (evictLine s die line).coh.l2) :
    x ∈ s.coh.l2 ∧ ¬ (x.die = die ∧ x.line = line) := by
  cases at_ : l2At s die line with
  | none =>
    rw [evictLine, at_] at left
    exact ⟨left, fun same => notAt_of_l2At at_ left same.2 same.1⟩
  | some l =>
    rw [evictLine_l2 (by simp [at_])] at left
    simpa [dropL2, imp_iff_not_or] using left

theorem mem_l2_foldl_evictLine {s : State} {ls : List L2Line} {x : L2Line}
    (left : x ∈ (ls.foldl (fun acc l => evictLine acc l.die l.line) s).coh.l2) :
    x ∈ s.coh.l2 ∧ ∀ l ∈ ls, ¬ (x.die = l.die ∧ x.line = l.line) := by
  induction ls generalizing s with
  | nil => exact ⟨left, by simp⟩
  | cons l ls ih =>
    obtain ⟨kept, others⟩ := ih left
    obtain ⟨kept, this⟩ := mem_l2_evictLine kept
    exact ⟨kept, List.forall_mem_cons.2 ⟨this, others⟩⟩

/-- A die whose clock is not stopped is as it was last written. -/
theorem dieOf_running {s : State} {d : Nat} (running : (dieRaw s d).stopped = none) : dieOf s d = dieRaw s d :=
  dieAt_running running 2 s.time

/-- A die of a mask goes into reset with its pair. -/
def dieReset (mask : BitVec 8) (s : State) (d : Nat) : State :=
  if mask.getLsbD d then
    { s with
      dies := tabSet Die.atReset s.dies d { Die.atReset with relocks := (dieOf s d).relocks }
      mdies := tabSet MDie.atReset s.mdies d { mdieOf s d with windows := [], keysIn := false } }
  else s

theorem coh_foldl_dieReset (mask : BitVec 8) (l : List Nat) (s : State) : (l.foldl (dieReset mask) s).coh = s.coh :=
  foldl_keeps State.coh (fun s d => by unfold dieReset; split <;> rfl) l s

/-- Every die of the mask is in reset when its pairs have been. -/
theorem dieRaw_foldl_dieReset {mask : BitVec 8} {l : List Nat} {d : Nat} (mem : d ∈ l) (named : mask.getLsbD d = true) (s : State) :
    (dieRaw (l.foldl (dieReset mask) s) d).stopped = none ∧ (dieRaw (l.foldl (dieReset mask) s) d).resetting = true := by
  have brings (s : State) : (dieRaw (dieReset mask s d) d).stopped = none ∧ (dieRaw (dieReset mask s d) d).resetting = true := by
    rw [dieReset, if_pos named, dieRaw, tabGet_tabSet_self]
    exact ⟨rfl, rfl⟩
  refine foldl_establishes (P := fun s => (dieRaw s d).stopped = none ∧ (dieRaw s d).resetting = true) (fun s d' held => ?_) mem brings s
  by_cases same : d = d'
  · exact same ▸ brings s
  · unfold dieReset
    split
    · rwa [dieRaw, tabGet_tabSet_ne _ _ same]
    · exact held

/-- Resetting the dies of a mask leaves no line in their L2s, no copy on them, and them in reset (R386 steps 2 to 4). -/
theorem resetDies_frame (s : State) (mask : BitVec 8) :
    (∀ x ∈ (resetDies s mask).coh.l2, mask.getLsbD x.die = false) ∧
      (∀ c ∈ (resetDies s mask).coh.copies, mask.getLsbD (placeDie c.place) = false) ∧
      ∀ d, d < 8 → mask.getLsbD d = true → (dieOf (resetDies s mask) d).resetting = true := by
  unfold resetDies
  extract_lets on s1 s2 s2' _ _ s3
  have resets : ((List.range 8).foldl (dieReset mask) s3).coh = s3.coh := coh_foldl_dieReset ..
  refine ⟨fun x hx => ?_, fun c hc => ?_, fun d inPackage named => ?_⟩
  · have left : x ∈ s2'.coh.l2 := (congrArg (x ∈ ·.l2) resets).mp hx
    rw [show s2'.coh.l2 = s2.coh.l2 from foldl_keeps (fun s : State => s.coh.l2) (fun s _ => landLine_l2 s _) _ _] at left
    obtain ⟨held, others⟩ := mem_l2_foldl_evictLine left
    exact Bool.eq_false_iff.2 fun named => others x (List.mem_filter.2 ⟨held, named⟩) ⟨rfl, rfl⟩
  · have left : c ∈ s3.coh.copies := (congrArg (c ∈ ·.copies) resets).mp hc
    simpa [on] using (List.mem_filter.1 left).2
  · obtain ⟨running, resetting⟩ := dieRaw_foldl_dieReset (List.mem_range.2 inPackage) named s3
    exact (congrArg Die.resetting (dieOf_running running)).trans resetting

/-- A die that the low byte does not name is not named, or is none of the package's. -/
theorem getLsbD_setWidth_eight {w d : Nat} {v : BitVec w} (clear : (v.setWidth 8).getLsbD d = false) : v.getLsbD d = false ∨ 8 ≤ d := by
  rcases Nat.lt_or_ge d 8 with low | high
  · exact .inl (by simpa [low] using clear)
  · exact .inr high

/-- A mask that is written while no reset runs resets its dies. -/
theorem exec_partrst_resets {s : State} {v : BitVec 64} (idle : s.hub.partBusy = false) (some : v.setWidth 8 ≠ (0 : BitVec 8)) :
    ∃ s0, exec (.partrst v) s = .next { resetDies s0 (v.setWidth 8) with
      hub := { (resetDies s0 (v.setWidth 8)).hub with partBusy := true, partMask := v.setWidth 8 } } := by
  rw [exec_partrst, execPartrst, if_neg (Bool.eq_false_iff.1 idle)]
  exact ⟨_, if_neg some⟩

/-! ### Keys (R392, R393) -/

theorem keyGenOf_loadKey_self (s : State) (k : Nat) : keyGenOf (loadKey s k) k = s.keyGen + 1 := by
  simp [keyGenOf, loadKey, tabGet]

theorem keyGenOf_loadKey_ne (s : State) {k j : Nat} (other : j ≠ k) : keyGenOf (loadKey s k) j = keyGenOf s j := by
  simp [keyGenOf, loadKey, tabGet, tabFind_tabPut_ne _ other]

/-! ### Evidence (R398) -/

theorem length_flatMap_leBytes {α : Type} (l : List α) (n : Nat) (f : α → Nat) :
    (l.flatMap fun a => leBytes n (f a)).length = l.length * n := by
  induction l with
  | nil => simp
  | cons a l ih => rw [List.flatMap_cons, List.length_append, ih, length_leBytes, List.length_cons]; ring

theorem getElem?_leBytes {n k : Nat} (inside : k < n) (x : Nat) : (leBytes n x)[k]? = some (BitVec.ofNat 8 (x / 2 ^ (8 * k))) := by
  induction n generalizing k x with
  | zero => omega
  | succ n ih =>
    cases k with
    | zero => simp [leBytes]
    | succ k =>
      rw [leBytes, List.getElem?_cons_succ, ih (by omega), Nat.div_div_eq_div_mul, show 256 = 2 ^ 8 from rfl, ← Nat.pow_add]
      congr 4
      omega

/-- The evidence before the rollback counter: the nonce, and the measurement and version of each image. -/
def evidenceHead (s : State) (nonce : BitVec 256) : List Byte :=
  leBytes 32 nonce.toNat
    ++ evidenceUnits.flatMap (fun u => leBytes 32 (((imageOf s.boot u).map fun i => (Config.sha256 i.bytes).toNat).getD 0))
    ++ evidenceUnits.flatMap (fun u => leBytes 4 (((imageOf s.boot u).map fun i => i.version.toNat).getD 0))

theorem length_evidenceHead (s : State) (nonce : BitVec 256) : (evidenceHead s nonce).length = 680 := by
  rw [evidenceHead, List.length_append, List.length_append, length_flatMap_leBytes, length_flatMap_leBytes, length_leBytes]
  rfl

/-- The four bytes of state that follow, and what stands behind them. -/
theorem evidenceBody_eq (s : State) (nonce : BitVec 256) : ∃ rest : List Byte, rest.length = 101 ∧
    evidenceBody s nonce = evidenceHead s nonce
      ++ (s.boot.rollback :: clinkNow s :: s.boot.mTrain :: BitVec.ofNat 8 s.boot.failCode :: rest) := by
  refine ⟨leBytes 5 0 ++ leBytes 32 (Config.sha256 (ctxPartTable s)).toNat
    ++ leBytes 64 ((List.range 512).foldl (fun m k => if keyGenOf s k = 0 then m else m + 2 ^ k) 0), ?_, ?_⟩
  · simp [length_leBytes]
  · simp only [evidenceBody, evidenceHead, List.append_assoc, List.cons_append, List.nil_append]

theorem getElem?_evidenceHead (s : State) (nonce : BitVec 256) {k : Nat} (inNonce : k < 32) :
    (evidenceHead s nonce)[k]? = some (nonce.extractLsb' (8 * k) 8) := by
  have short : k < (leBytes 32 nonce.toNat).length := by rwa [length_leBytes]
  rw [evidenceHead, List.append_assoc, List.getElem?_append_left short, getElem?_leBytes inNonce]
  congr 1
  exact BitVec.eq_of_toNat_eq (by rw [BitVec.toNat_ofNat, BitVec.extractLsb'_toNat, Nat.shiftRight_eq_div_pow])

theorem getLsbD_clinkNow (s : State) {d : Nat} (inPackage : d < 8) : (clinkNow s).getLsbD d = linkUp s d := by
  rw [clinkNow, BitVec.getLsbD_ofNat, (testBit_maskSum (linkUp s) 8).2]
  simp [inPackage]

/-! ### Register writes (R11, R336, R354 to R356) -/

/-- The kind and the index of a register's number. -/
theorem register_number (kind : Nat) {k : Nat} (inFile : k < 65536) : (kind * 65536 + k) / 65536 = kind ∧ (kind * 65536 + k) % 65536 = k := by
  omega

/-- The hub keeps a fault control block for every context id. -/
theorem withFcb_lists (s : State) {c : Nat} (inFile : c < 65536) : ∃ x, tabFind (withFcb s c).ctxs c = some x := by
  cases listed : tabFind s.ctxs c with
  | some x => exact ⟨x, by rw [withFcb_listed listed, listed]⟩
  | none => exact ⟨{ Ctx.blank with fcbOnly := true }, by simp [withFcb, listed, Nat.not_le.2 inFile]⟩

/-- PARTRST reads zero in MASK, which is write-only. -/
theorem readRegister_partrst_low (s : State) : readRegister s 5 % 2 ^ 8 = 0 := by
  change (s.hub.partDone.toNat * 2 ^ 8 + (if s.hub.partBusy then 2 ^ 16 else 0) + (if s.hub.partErr then 2 ^ 17 else 0)) % 2 ^ 8 = 0
  split <;> split <;> omega

/-- The registers above those of the dies are read from the fault control block. -/
theorem readRegister_fcb (s : State) {kind c : Nat} (inFile : c < 65536) (block : kind ∈ [11, 15, 16, 17, 18]) :
    readRegister s (kind * 65536 + c) = readFcb (ctxOf s c).fcb kind := by
  obtain ⟨number, index⟩ := register_number kind inFile
  rw [readRegister, number, index]
  simp only [List.mem_cons, List.not_mem_nil, or_false] at block
  rcases block with rfl | rfl | rfl | rfl | rfl <;> simp

/-- FQHEAD, SAVELEN and SAVEBASE read back as they were written. -/
theorem readRegister_written (s : State) (v : BitVec 256) {c : Nat} (inFile : c < 65536) {kind : Nat} (field : kind ∈ [15, 16, 17]) :
    ∃ t, exec (.registerWrite (kind * 65536 + c) v) s = .next t ∧ readRegister t (kind * 65536 + c) = v.toNat % 2 ^ 64 := by
  obtain ⟨x, listed⟩ := withFcb_lists s inFile
  have low : (v.setWidth 64).toNat = v.toNat % 2 ^ 64 := BitVec.toNat_setWidth 64 v
  obtain ⟨number, index⟩ := register_number kind inFile
  have reads (t : State) := readRegister_fcb t (kind := kind) inFile (by simp only [List.mem_cons] at field ⊢; tauto)
  rw [exec_registerWrite, execRegisterWrite, number, index]
  simp only [reads]
  simp only [List.mem_cons, List.not_mem_nil, or_false] at field
  rcases field with rfl | rfl | rfl
  · refine ⟨_, onCtx_listed listed _ _, ?_⟩
    exact (congrArg (fun y : Ctx => y.fcb.fqHead.toNat) (ctxOf_modCtx listed _)).trans low
  · refine ⟨_, rfl, ?_⟩
    exact (congrArg (fun y : Ctx => y.fcb.saveLen.toNat) (ctxOf_modCtx listed _)).trans low
  · refine ⟨_, rfl, ?_⟩
    exact (congrArg (fun y : Ctx => y.fcb.saveBase.toNat) (ctxOf_modCtx listed _)).trans low

/-- A write to RESUME by its number is that of the action in its low bits. -/
theorem exec_registerWrite_resume (s : State) (v : BitVec 256) {c : Nat} (inFile : c < 65536) :
    exec (.registerWrite (18 * 65536 + c) v) s = writeResume s c (v.setWidth 64) := by
  obtain ⟨number, index⟩ := register_number 18 inFile
  rw [exec_registerWrite, execRegisterWrite, number, index]
  rfl

/-- A descriptor that is written gives its ROOT at once. -/
theorem root_writeDesc (s : State) (c : Nat) (v : BitVec 256) : (ctxOf (writeDesc s c v) c).root = v.extractLsb' 0 64 := by
  have put (s0 : State) (x : Ctx) : tabFind ({ s0 with ctxs := tabPut s0.ctxs c x } : State).ctxs c = some x := tabFind_tabPut_self ..
  have stale : (staleCtx s c).ctxs = s.ctxs := rfl
  unfold writeDesc
  dsimp only
  split
  next x listed =>
    have still : tabFind (if x.root = v.extractLsb' 0 64 then s else staleCtx s c).ctxs c = some x := by split <;> exact listed
    split
    · split
      · exact congrArg Ctx.root (ctxOf_setCtxState (put _ _) 0)
      · exact congrArg Ctx.root (ctxOf_listed (put _ _))
    · exact congrArg Ctx.root (ctxOf_modCtx still _)
  next => exact congrArg Ctx.root (ctxOf_listed (put _ _))

end Sys2Proof.Machine

namespace Sys2Proof.Laws

open Sys2Proof Sys2Proof.Machine

/-- Settles O60. -/
theorem packageRegisters : Obligations.PackageRegisters := by
  unfold Obligations.PackageRegisters
  intro s
  refine ⟨fun v busy => ?_, fun v idle none => ?_, fun v idle some => ?_, fun k low high => ?_, fun nonce on images => ?_,
    fun nonce => ?_, fun v => ?_, fun v => ?_⟩
  · rw [exec_partrst, execPartrst, if_pos busy]
  · rw [exec_partrst, execPartrst, if_neg (Bool.eq_false_iff.1 idle), if_pos none]
  · obtain ⟨s0, begun⟩ := exec_partrst_resets idle some
    obtain ⟨lines, copies, dies⟩ := resetDies_frame s0 (v.setWidth 8)
    refine ⟨_, begun, rfl, rfl, fun x hx => getLsbD_setWidth_eight (lines x hx),
      fun c hc => getLsbD_setWidth_eight (copies c hc), fun d inPackage named => dies d inPackage ?_⟩
    simpa [inPackage] using named
  · have slot : ¬ (k = 0 ∨ 512 ≤ k) := by omega
    refine ⟨⟨_, by rw [exec_keySlotLoad, execKeySlotLoad, if_neg slot], keyGenOf_loadKey_self s k, rfl,
      fun j other => keyGenOf_loadKey_ne s other, rfl⟩, ⟨_, (exec_keySlotErase k s).trans (if_neg slot), ?_, fun j other => ?_, rfl⟩⟩
    · simp [keyGenOf, tabGet]
    · simp [keyGenOf, tabGet, tabFind_tabDel_ne _ other]
  · rw [exec_attestationRequest, execAttestationRequest, if_neg (by simp [on, images])]
    rfl
  · obtain ⟨rest, length, body⟩ := evidenceBody_eq s nonce
    have head := length_evidenceHead s nonce
    rw [body]
    refine ⟨?_, ?_, ?_, fun d inPackage => getLsbD_clinkNow s inPackage, ?_, fun k inNonce => ?_⟩
    · simp [head, length]
    · rw [List.getElem?_append_right (by omega), head]; rfl
    · rw [List.getElem?_append_right (by omega), head]; rfl
    · rw [List.getElem?_append_right (by omega), head]; rfl
    · rw [List.getElem?_append_left (by omega), getElem?_evidenceHead s nonce inNonce]
  · refine ⟨rfl, rfl, rfl, rfl, fun c inFile => ⟨?_, ?_, fun x listed => ?_⟩⟩
    · obtain ⟨kind, index⟩ := register_number 2 inFile
      rw [exec_registerWrite, execRegisterWrite, kind, index]
      exact ⟨_, rfl, tabGet_tabSet_self .., fun j other => tabGet_tabSet_ne _ _ other _⟩
    · obtain ⟨kind, index⟩ := register_number 1 inFile
      rw [exec_registerWrite, execRegisterWrite, kind, index]
      exact ⟨_, rfl, root_writeDesc s c v⟩
    · obtain ⟨kind, index⟩ := register_number 8 inFile
      rw [exec_registerWrite, execRegisterWrite, kind, index]
      exact congrArg Host.Outcome.next (by rw [writeFcb, withFcb_listed listed]; rfl)
  · refine ⟨rfl, rfl, rfl, rfl, fun reg readOnly => ?_, fun d inPackage => ?_, fun t written => ?_, fun t written => ?_, ?_, ?_, fun c inFile => ?_⟩
    · rcases List.mem_cons.1 readOnly with rfl | readOnly
      · rfl
      · rcases List.mem_cons.1 readOnly with rfl | readOnly
        · rfl
        · rw [List.mem_singleton.1 readOnly]; rfl
    · obtain ⟨kind, index⟩ := register_number 12 (k := d) (by omega)
      rw [exec_registerWrite, execRegisterWrite, kind, index]
      rfl
    · obtain rfl := Host.Outcome.next.inj written
      exact BitVec.toNat_setWidth 7 v
    · obtain rfl := Host.Outcome.next.inj written
      exact BitVec.toNat_setWidth 48 v
    · exact readRegister_partrst_low s
    · exact Nat.mul_mod_left _ _
    · have action : (v.setWidth 64).toNat % 4 = v.toNat % 4 := by rw [BitVec.toNat_setWidth]; omega
      refine ⟨readRegister_fcb s inFile (by decide), readRegister_fcb s inFile (by decide),
        fun k field => readRegister_written s v inFile field, fun low => ?_, fun low => ?_, fun low => ?_⟩
      all_goals rw [exec_registerWrite_resume s v inFile, writeResume, action, low]; rfl

end Sys2Proof.Laws

end

section

/-! ## The boot chain (21_bringup_reset.md; O59) -/

namespace Sys2Proof.Machine

open Sys2Proof

/-! ### Images (R380, R381) -/

/-- The image that is there for a unit is one of that unit. -/
theorem unit_of_imageFor {b : Boot} {u : Nat} {i : Image} (there : imageFor b u = some i) : i.unit = u := by
  unfold imageFor at there
  split at there
  next offered => simpa [there] using List.find?_some (offered.trans (there ▸ rfl))
  next => simpa using List.find?_some there

/-- Accepting a unit's image puts it before those accepted for other units. -/
def acceptImage (b : Boot) (u : Nat) (i : Image) : Boot := { b with accepted := i :: b.accepted.filter fun x => x.unit != u }

/-- The image of every unit is still there when one has been accepted. -/
theorem imageFor_acceptImage {b : Boot} {u : Nat} {i : Image} (there : imageFor b u = some i) (w : Nat) :
    imageFor (acceptImage b u i) w = imageFor b w := by
  have unit := unit_of_imageFor there
  unfold imageFor acceptImage at *
  dsimp only
  split
  · rfl
  next noOffer =>
    by_cases same : i.unit = w
    · rw [List.find?_cons_of_pos (by simpa using same)]
      rw [← unit, same, noOffer] at there
      exact there.symm
    · rw [List.find?_cons_of_neg (by simpa using same), List.find?_filter]
      congr 1
      funext x
      by_cases is_ : x.unit = w
      · simpa [is_] using fun was : w = u => same (unit.trans was.symm)
      · simp [is_]

/-- What holds of the boot state's images when those of some units have been accepted: each is there as before, and only the list of
those accepted has changed. -/
structure Accepts (b b1 : Boot) : Prop where
  changed : b1 = { b with accepted := b1.accepted }
  there : ∀ w, imageFor b1 w = imageFor b w

/-- When every unit's image is there and passes, all are accepted. -/
theorem acceptUnits_passes {us : List Nat} {b : Boot} (pass : ∀ u ∈ us, ∃ i, imageFor b u = some i ∧ imageFails b u i = 0) :
    ∃ b1, acceptUnits us b = (b1, true) ∧ Accepts b b1 := by
  induction us generalizing b with
  | nil => exact ⟨b, rfl, rfl, fun _ => rfl⟩
  | cons u us ih =>
    obtain ⟨⟨i, there, passes⟩, rest⟩ := List.forall_mem_cons.1 pass
    have still := imageFor_acceptImage there
    obtain ⟨b1, accepted, changed, same⟩ := ih (b := acceptImage b u i) fun w hw => by rw [still w]; exact rest w hw
    refine ⟨b1, ?_, changed, fun w => (same w).trans (still w)⟩
    rw [acceptUnits, there]
    exact (if_neg (not_not_intro passes)).trans accepted

theorem imageFails_eq_zero_iff (b : Boot) (u : Nat) (i : Image) : imageFails b u i = 0 ↔
    (∃ f ∈ b.fuses, f.1 = i.keyHash ∧ f.2 = false) ∧ Config.signatureVerifies i.bytes i.sig i.keyHash = true ∧
      b.rollback.toNat ≤ i.version.toNat ∧ i.target = u := by
  have fused : (b.fuses.any fun f => f.1 == i.keyHash && !f.2) = true ↔ ∃ f ∈ b.fuses, f.1 = i.keyHash ∧ f.2 = false := by
    simp
  rw [← fused, imageFails, unitTarget]
  split
  next refused => simp only [Bool.or_eq_true, Bool.not_eq_true'] at refused; simp; grind
  next signed =>
    simp only [Bool.or_eq_true, Bool.not_eq_true', not_or, Bool.not_eq_false] at signed
    split
    · simp; omega
    · split
      · simp [*]
      · simp_all

/-! ### Links (R383) -/

/-- The highest of the first `n` revisions of both ends, plus one. -/
def commonBelow (m : BitVec 16 × BitVec 16) (n : Nat) : Nat :=
  (List.range n).foldl (fun acc k => if m.1.getLsbD k && m.2.getLsbD k then k + 1 else acc) 0

/-- It is 0 when there is none, and names one with none above. -/
theorem commonBelow_spec (m : BitVec 16 × BitVec 16) (n : Nat) :
    (commonBelow m n = 0 → ∀ k, k < n → (m.1 &&& m.2).getLsbD k = false) ∧
      (commonBelow m n ≠ 0 → (m.1 &&& m.2).getLsbD (commonBelow m n - 1) = true ∧
        ∀ k, commonBelow m n ≤ k → k < n → (m.1 &&& m.2).getLsbD k = false) := by
  induction n with
  | zero => exact ⟨fun _ k below => absurd below (Nat.not_lt_zero k), fun some => absurd rfl some⟩
  | succ n ih =>
    have next : commonBelow m (n + 1) = if (m.1 &&& m.2).getLsbD n = true then n + 1 else commonBelow m n := by
      simp [commonBelow, List.range_succ]
    rw [next]
    split
    next both => exact ⟨fun none => absurd none (Nat.succ_ne_zero n), fun _ => ⟨both, fun k above below => by omega⟩⟩
    next notBoth =>
      obtain ⟨none, highest⟩ := ih
      have top {k : Nat} (below : k < n + 1) (others : k < n → (m.1 &&& m.2).getLsbD k = false) : (m.1 &&& m.2).getLsbD k = false := by
        rcases Nat.lt_succ_iff_lt_or_eq.1 below with low | rfl
        · exact others low
        · exact Bool.eq_false_iff.2 notBoth
      exact ⟨fun zero k below => top below (none zero k), fun some => ⟨(highest some).1, fun k above below => top below ((highest some).2 k above)⟩⟩

/-! ### What training keeps (R378, R383, R384) -/

/-- What the training of links and stacks leaves alone: the dies, the reset that runs, the boot stage and the unit boot waits for. -/
def upkeep (s : State) : List (Nat × Die) × Nat × BitVec 8 × BitVec 8 × Nat × Option Nat :=
  (s.dies, s.time, s.hub.partDone, s.hub.partMask, s.boot.stage, s.boot.waiting)

theorem upkeep_of_besideMemory {s s' : State} (same : besideMemory s' = besideMemory s) : upkeep s' = upkeep s :=
  show upkeep (besideMemory s') = upkeep (besideMemory s) from congrArg upkeep same

theorem besideMemory_hubStore (s : State) (key : Option Nat) (pa n v : Nat) : besideMemory (hubStore s key pa n v) = besideMemory s :=
  (besideMemory_hubPutAs ..).trans (besideMemory_hubReady s _)

theorem besideMemory_hubWriteBytes (s : State) (pa : Nat) (bs : List Byte) : besideMemory (hubWriteBytes s pa bs) = besideMemory s := by
  induction bs generalizing s pa with
  | nil => rfl
  | cons b bs ih => exact (ih _ _).trans (besideMemory_hubWrite ..)

theorem upkeep_salvage (s : State) (l : L2Line) (parked : Bool) : upkeep (salvage s l parked) = upkeep s := by
  unfold salvage
  split
  · rfl
  · split
    · rfl
    · extract_lets base s1
      have stored : besideMemory s1 = besideMemory s := (besideMemory_hubWriteBytes ..).trans (besideMemory_hubStore ..)
      have same : upkeep s1 = upkeep s := upkeep_of_besideMemory stored
      exact same

theorem upkeep_failRange (s : State) (inRange : L2Line → Bool) : upkeep (failRange s inRange) = upkeep s := by
  have salvaged := foldl_keeps upkeep
    (f := fun acc (x : L2Line × Bool) => salvage (rasReport acc (.held x.1.line x.1.die)) x.1 x.2)
    (fun acc x => upkeep_salvage (rasReport acc _) x.1 x.2) (rangeHeld s inRange) s
  unfold failRange
  dsimp only
  split <;> exact salvaged

theorem upkeep_failMemory (s : State) (m : Nat) : upkeep (failMemory s m) = upkeep s := upkeep_failRange s _

theorem noteFailure_keeps (b : Boot) (code unit : Nat) :
    (noteFailure b code unit).stage = b.stage ∧ (noteFailure b code unit).waiting = b.waiting := by
  unfold noteFailure
  split <;> exact ⟨rfl, rfl⟩

theorem upkeep_noteFailure (s : State) (code unit : Nat) : upkeep (modBoot s fun b => noteFailure b code unit) = upkeep s := by
  obtain ⟨stage, waiting⟩ := noteFailure_keeps s.boot code unit
  simp [upkeep, modBoot, stage, waiting]

theorem upkeep_trainLink (s : State) (link : Nat) : upkeep (trainLink s link) = upkeep s := by
  unfold trainLink
  dsimp only
  split
  · rfl
  · split
    · exact upkeep_noteFailure (modLink s link _) ..
    · split
      · exact upkeep_noteFailure (modLink s link _) ..
      · rfl

theorem upkeep_trainStacks (s : State) (m : Nat) : upkeep (trainStacks s m) = upkeep s := by
  unfold trainStacks
  extract_lets ok s0 md s1
  have reached : upkeep s1 = upkeep s := by
    change upkeep (if ok = true then s else failMemory s m) = upkeep s
    split
    · rfl
    · exact upkeep_failMemory s m
  obtain ⟨stage, waiting⟩ := noteFailure_keeps s1.boot 6 (8 + m)
  refine Eq.trans ?_ reached
  cases ok <;> simp [upkeep, modBoot, stage, waiting]

theorem upkeep_keysToDies (s : State) : upkeep (keysToDies s) = upkeep s := rfl

theorem upkeep_loadKey (s : State) (k : Nat) : upkeep (loadKey s k) = upkeep s := rfl

theorem upkeep_zeroStores (s : State) : upkeep (zeroStores s) = upkeep s := rfl

/-- What keeps this keeps a die that has started. -/
theorem dieOf_of_upkeep {s s' : State} (same : upkeep s' = upkeep s) (d : Nat) : dieOf s' d = dieOf s d := by
  simp only [upkeep, Prod.mk.injEq] at same
  rw [dieOf, dieOf, dieRaw, dieRaw, same.1, same.2.1]

/-! ### Dies that start (R49, R380) -/

/-- A die that has left reset at a state's time, with its counter at 0. -/
structure Started (s : State) (d : Nat) : Prop where
  running : (dieRaw s d).stopped = none
  out : (dieRaw s d).resetting = false
  zero : (dieRaw s d).ccStep = 0
  since : (dieRaw s d).stepAt = s.time

theorem started_startDie (s : State) (d : Nat) : Started (startDie s d) d := by
  have up : dieRaw (startDie s d) d = { Die.atReset with resetting := false, stepAt := s.time, relocks := (dieOf s d).relocks } :=
    tabGet_tabSet_self ..
  exact ⟨by rw [up]; rfl, by rw [up], by rw [up]; rfl, by rw [up]; rfl⟩

theorem hub_foldl_startDie (ds : List Nat) (s : State) : (ds.foldl startDie s).hub = s.hub :=
  foldl_keeps State.hub (f := startDie) (fun _ _ => rfl) ds s

theorem boot_foldl_startDie (ds : List Nat) (s : State) : (ds.foldl startDie s).boot = s.boot :=
  foldl_keeps State.boot (f := startDie) (fun _ _ => rfl) ds s

/-- Every die of a list has started when each has been. -/
theorem started_foldl_startDie {ds : List Nat} {d : Nat} (mem : d ∈ ds) (s : State) : Started (ds.foldl startDie s) d := by
  refine foldl_establishes (P := (Started · d)) (fun s d' held => ?_) mem (fun s => started_startDie s d) s
  by_cases same : d = d'
  · exact same ▸ started_startDie s d
  · have raw : dieRaw (startDie s d') d = dieRaw s d := tabGet_tabSet_ne _ _ same _
    obtain ⟨running, out, zero, since⟩ := held
    exact ⟨raw ▸ running, raw ▸ out, raw ▸ zero, raw ▸ since⟩

/-- What is noted of the boot chain leaves a die that has started as it is. -/
theorem Started.modBoot {s : State} {d : Nat} (started : Started s d) (f : Boot → Boot) : Started (Machine.modBoot s f) d :=
  ⟨started.running, started.out, started.zero, started.since⟩

theorem Started.resetting {s : State} {d : Nat} (started : Started s d) : (dieOf s d).resetting = false :=
  dieOf_running started.running ▸ started.out

theorem Started.cc {s : State} {d : Nat} (started : Started s d) : dieCc (dieOf s d) s.time = 0 := by
  obtain ⟨running, out, zero, since⟩ := started
  simp [dieOf_running running, dieCc, running, out, zero, since]

/-! ### The stages (R380, R381) -/

theorem exec_bootStage_runs {s : State} (powered : s.boot.powered = true) (goes : s.boot.waiting = none) (low : 1 ≤ s.boot.stage)
    (high : s.boot.stage ≤ 6) : exec .bootStage s = .next (bootAct s) := by
  rw [exec_bootStage, execBootStage, if_neg]
  simp [powered, goes]
  omega

/-- From stage 4 on the next stage begins. -/
theorem bootAct_late {s : State} (late : 4 ≤ s.boot.stage) :
    (bootAct s).boot.stage = s.boot.stage + 1 ∧ (bootAct s).boot.waiting = s.boot.waiting := by
  have links (l : List Nat) (s : State) := foldl_keeps upkeep upkeep_trainLink l s
  have memories (s : State) := foldl_keeps upkeep upkeep_trainStacks (List.range 8) s
  have goes {s1 : State} (same : upkeep s1 = upkeep s) :
      (modBoot s1 fun x => { x with stage := x.stage + 1 }).boot.stage = s.boot.stage + 1 ∧
        (modBoot s1 fun x => { x with stage := x.stage + 1 }).boot.waiting = s.boot.waiting := by
    simp only [upkeep, Prod.mk.injEq] at same
    obtain ⟨-, -, -, -, stage, waiting⟩ := same
    exact ⟨congrArg (· + 1) stage, waiting⟩
  unfold bootAct
  dsimp only
  rw [if_neg (by omega), if_neg (by omega), if_neg (by omega)]
  split
  · exact goes (links _ s)
  · split
    · exact goes ((memories _).trans (upkeep_loadKey s 0))
    · exact goes ((upkeep_zeroStores _).trans ((links _ _).trans (upkeep_keysToDies s)))

/-- Stage 1 waits for Umush's own image where the path does not train or the image is missing. -/
theorem bootAct_one {s : State} (one : s.boot.stage = 1) : bootAct s =
    if (if s.boot.viaCxl then 49 else 48) ∈ s.boot.badLinks ∨ imageFor s.boot 17 = none then { s with boot := bootStops s.boot 7 17 }
    else { s with boot := { s.boot with stage := 2 } } := by
  unfold bootAct
  simp only [one, if_true, List.contains_iff_mem, Option.isNone_iff_eq_none, modBoot]

/-- Stage 2 with an image that passes. -/
theorem bootAct_two {s : State} {i : Image} (two : s.boot.stage = 2) (there : imageFor s.boot 17 = some i)
    (passes : imageFails s.boot 17 i = 0) : bootAct s = { s with boot := { acceptImage s.boot 17 i with
      stage := 3
      rollback := if (i.commit && s.boot.rollback.toNat < i.version.toNat) = true then BitVec.ofNat 8 (min 255 i.version.toNat)
        else s.boot.rollback } } := by
  have accepts : acceptUnits [17] s.boot = (acceptImage s.boot 17 i, true) := by simp [acceptUnits, there, passes, acceptImage]
  unfold bootAct
  dsimp only
  rw [if_neg (by omega), if_pos two, accepts]
  simp only [there, Option.any_some, Option.map_some, Option.getD_some]
  split
  next raises =>
    have raises : (i.commit && s.boot.rollback.toNat < i.version.toNat) = true := raises
    rw [if_pos raises]
    simp [modBoot, acceptImage, two]
  next stays =>
    have stays : ¬ (i.commit && s.boot.rollback.toNat < i.version.toNat) = true := stays
    rw [if_neg stays]
    simp [modBoot, acceptImage, two]

/-- Stage 2 with an image that is missing or fails. -/
theorem bootAct_two_stops {s : State} {b1 : Boot} (two : s.boot.stage = 2) (stops : acceptUnits [17] s.boot = (b1, false)) :
    bootAct s = { s with boot := b1 } := by
  unfold bootAct
  simp [two, stops]

/-- Stage 3 with every image accepted. -/
theorem bootAct_three {s : State} {b1 : Boot} (three : s.boot.stage = 3) (accepts : acceptUnits (16 :: List.range 16) s.boot = (b1, true)) :
    bootAct s = modBoot ((List.range 8).foldl startDie { s with boot := b1 }) fun x => { x with stage := x.stage + 1 } := by
  unfold bootAct
  simp [three, accepts]

/-- A committed version raises the rollback counter, up to 255. -/
theorem raised_rollback (commit : Bool) (r : BitVec 8) (v : Nat) :
    (if (commit && r.toNat < v) = true then BitVec.ofNat 8 (min 255 v) else r) =
      if commit ∧ r.toNat < v ∧ v < 256 then BitVec.ofNat 8 v else if commit ∧ 256 ≤ v then 255 else r := by
  have := r.isLt
  cases commit
  · simp
  · rcases Nat.lt_or_ge v 256 with small | big
    · simp [small, Nat.not_le.2 small, Nat.min_eq_right (Nat.le_of_lt_succ small)]
    · have raises : r.toNat < v := by omega
      simp [big, raises, Nat.not_lt.2 big, Nat.min_eq_left (show 255 ≤ v by omega)]

/-! ### The end of a pair reset (R386) -/

theorem mem_setBits {n m d : Nat} : d ∈ setBits n m ↔ d < n ∧ m.testBit d = true := by
  simp [setBits]

/-- A pair reset whose images are all accepted ends with its dies started. -/
theorem exec_pairResetDone_ends {s : State} {b1 : Boot} (busy : s.hub.partBusy = true) (goes : s.boot.waiting = none)
    (accepts : acceptUnits (setBits 8 s.hub.partMask.toNat ++ (setBits 8 s.hub.partMask.toNat).map (8 + ·)) s.boot = (b1, true)) :
    ∃ t, exec .pairResetDone s = .next t ∧ t.hub.partBusy = false ∧ t.hub.partDone = s.hub.partDone ||| s.hub.partMask ∧
      ∀ d ∈ setBits 8 s.hub.partMask.toNat, (dieOf t d).resetting = false := by
  have links (ds : List Nat) (s : State) :
      upkeep (ds.foldl (fun acc d => trainLink (trainLink (trainLink acc d) (8 + d)) (16 + d)) s) = upkeep s :=
    foldl_keeps upkeep (fun acc d => by rw [upkeep_trainLink, upkeep_trainLink, upkeep_trainLink]) ds s
  have memories (ds : List Nat) (s : State) := foldl_keeps upkeep upkeep_trainStacks ds s
  rw [exec_pairResetDone, execPairResetDone, if_neg (by simp [busy, goes])]
  extract_lets ds
  rw [accepts]
  dsimp only
  set s1 := ds.foldl startDie { s with boot := b1 } with started
  set s2 := ds.foldl (fun acc d => trainLink (trainLink (trainLink acc d) (8 + d)) (16 + d)) s1 with linked
  set s3 := keysToDies (ds.foldl trainStacks s2) with trained
  have trains : upkeep s3 = upkeep s1 := (memories ds s2).trans (links ds s1)
  have hub : s1.hub = s.hub := hub_foldl_startDie ds _
  refine ⟨_, rfl, rfl, ?_, fun d named => ?_⟩
  · have same := trains
    simp only [upkeep, Prod.mk.injEq, hub] at same
    obtain ⟨-, -, partDone, partMask, -⟩ := same
    exact congrArg₂ (· ||| ·) partDone partMask
  · exact (congrArg Die.resetting (dieOf_of_upkeep trains d)).trans (started_foldl_startDie named _).resetting

end Sys2Proof.Machine

namespace Sys2Proof.Laws

open Sys2Proof Sys2Proof.Machine

/-- Settles O59. -/
theorem bootStages : Obligations.BootStages := by
  unfold Obligations.BootStages
  intro s
  refine ⟨fun off => ?_, fun powered goes low high => ?_, fun code unit => ?_, imageFails_eq_zero_iff, fun k i offered waits => ?_,
    fun m => ?_, fun busy goes pass => ?_⟩
  · exact (exec_powerOn s).trans (if_neg (Bool.eq_false_iff.1 off))
  · refine ⟨_, exec_bootStage_runs powered goes low high, fun late => ?_, fun one path there => ?_, fun one lacks => ?_,
      fun two missing => ?_, fun i two there passes => ?_, fun i two there fails => ?_, fun three pass => ?_⟩
    · exact goes ▸ bootAct_late late
    · rw [bootAct_one one, if_neg (not_or.2 ⟨path, there⟩)]
    · rw [bootAct_one one, if_pos lacks]
    · exact bootAct_two_stops two (by simp [acceptUnits, missing])
    · rw [bootAct_two two there passes]
      exact ⟨rfl, goes, List.mem_cons_self, raised_rollback ..⟩
    · exact bootAct_two_stops two (by simp [acceptUnits, there, fails])
    · obtain ⟨b1, accepts, changed, -⟩ := acceptUnits_passes (us := 16 :: List.range 16) (b := s.boot)
        fun u hu => pass u (by simp at hu; omega)
      rw [bootAct_three three accepts]
      refine ⟨?_, ?_, fun d inPackage => ?_⟩
      · rw [modBoot, boot_foldl_startDie]
        exact congrArg (· + 1) ((congrArg Boot.stage changed).trans three)
      · rw [modBoot, boot_foldl_startDie]
        exact (congrArg Boot.waiting changed).trans goes
      · have started := (started_foldl_startDie (List.mem_range.2 inPackage) { s with boot := b1 }).modBoot
          fun x => { x with stage := x.stage + 1 }
        exact ⟨started.resetting, started.cc⟩
  · unfold bootStops noteFailure
    split <;> rfl
  · have named : ¬ (s.boot.waiting != some i.unit) = true := by simp [waits]
    rw [exec_recoveryImage, execRecoveryImage, offered]
    refine ⟨fun fails => ?_, fun passes => ?_⟩
    · exact (if_neg named).trans (if_pos fails)
    · refine ⟨_, (if_neg named).trans (if_neg (not_not_intro passes)), rfl, ?_, rfl⟩
      simp [imageFor, modBoot]
  · obtain ⟨none, highest⟩ := commonBelow_spec m 16
    have all : commonRev m = commonBelow m 16 := rfl
    have beyond (k : Nat) (above : 16 ≤ k) : (m.1 &&& m.2).getLsbD k = false := BitVec.getLsbD_of_ge _ k above
    rw [all]
    refine ⟨⟨fun zero => BitVec.eq_of_getLsbD_eq fun k below => ?_, fun zero => ?_⟩, fun some => ?_⟩
    · exact (none zero k below).trans BitVec.getLsbD_zero.symm
    · by_contra some
      simpa [zero] using (highest some).1
    · obtain ⟨both, top⟩ := highest some
      rw [BitVec.getLsbD_and, Bool.and_eq_true] at both
      exact ⟨both.1, both.2, fun k above => (Nat.lt_or_ge k 16).elim (top k above) (beyond k)⟩
  · obtain ⟨b1, accepts, -⟩ := acceptUnits_passes
      (us := setBits 8 s.hub.partMask.toNat ++ (setBits 8 s.hub.partMask.toNat).map (8 + ·)) (b := s.boot) fun u hu => by
        rcases List.mem_append.1 hu with compute | memory
        · obtain ⟨inPackage, named⟩ := mem_setBits.1 compute
          exact pass u inPackage named u (by simp)
        · obtain ⟨d, mem, rfl⟩ := List.mem_map.1 memory
          obtain ⟨inPackage, named⟩ := mem_setBits.1 mem
          exact pass d inPackage named (8 + d) (by simp)
    obtain ⟨t, ends, idle, done, dies⟩ := exec_pairResetDone_ends busy goes accepts
    exact ⟨t, ends, idle, done, fun d inPackage named => dies d (mem_setBits.2 ⟨inPackage, named⟩)⟩

end Sys2Proof.Laws

end

section

/-! ## Links and recovery (20_dies_coherence_recovery.md; O57) -/

namespace Sys2Proof.Machine

open Sys2Proof

/-! ### Links (R372 to R374) -/

theorem linkOf_modLink_self (s : State) (l : Nat) (f : Link → Link) : linkOf (modLink s l f) l = f (linkOf s l) := tabGet_tabSet_self ..

theorem linkUp_eq_true {s : State} {l : Nat} (up : (linkOf s l).down = false) (trained : (linkOf s l).rev ≠ 0) : linkUp s l = true := by
  simp [linkUp, up, trained]

theorem linkUp_eq_false {s : State} {l : Nat} (off : (linkOf s l).down = true ∨ (linkOf s l).rev = 0) : linkUp s l = false := by
  rcases off with down | untrained
  · simp [linkUp, down]
  · simp [linkUp, untrained]

/-- With no access in flight, a message can only be for a line that a die holds, has parked or has on the way home, or that another
package holds. -/
theorem mem_messageLines {s : State} {l line : Nat} (idle : s.ops = []) (may : line ∈ messageLines s l) :
    (∃ x ∈ s.coh.l2, x.line = line) ∨ (∃ x ∈ s.coh.wbacks, x.held.line = line) ∨ (∃ k ∈ s.coh.lockets, k.line = line) ∨
      24 ≤ l ∧ ∃ r ∈ s.coh.remote, r.line = line := by
  simp only [messageLines, idle, List.flatMap_nil, List.append_nil, List.mem_eraseDups, List.mem_append, List.mem_map,
    List.mem_filter] at may
  rcases may with ((⟨x, ⟨held, -⟩, rfl⟩ | ⟨w, ⟨held, -⟩, rfl⟩) | ⟨k, ⟨held, -⟩, rfl⟩) | remote
  · exact .inl ⟨x, held, rfl⟩
  · exact .inr (.inl ⟨w, held, rfl⟩)
  · exact .inr (.inr (.inl ⟨k, held, rfl⟩))
  · split at remote
    next port => exact .inr (.inr (.inr ⟨port, List.mem_map.1 remote⟩))
    next => exact absurd remote List.not_mem_nil

/-- Lines of this package alone go to U. -/
theorem loseLines_spec (s : State) (l : Nat) : ∃ us, loseLines s l = { s with coh := { s.coh with
      ulines := s.coh.ulines ++ us } } ∧ ∀ u ∈ us, u.line < 2 ^ 41 ∧ u.line ∈ messageLines s l := by
  refine ⟨_, rfl, fun u hu => ?_⟩
  obtain ⟨line, mem, rfl⟩ := List.mem_map.1 hu
  obtain ⟨may, hit⟩ := List.mem_filter.1 mem
  simp only [Bool.and_eq_true, beq_iff_eq, lineHome] at hit
  exact ⟨by have := hit.2; dsimp only; omega, may⟩

theorem noteSilent_keeps (s : State) :
    (noteSilent s).links = s.links ∧ (noteSilent s).coh = s.coh ∧ (noteSilent s).mem = s.mem := by
  unfold noteSilent
  split <;> exact ⟨rfl, rfl, rfl⟩

/-- A link whose flit has failed nine times goes down; with nothing in flight only lines go to U. -/
theorem exec_linkDown_idle {s : State} {l : Nat} (port : l < 48) (up : linkUp s l = true) (ninth : 9 ≤ (linkOf s l).fails)
    (noOps : s.ops = []) (noEngines : s.engq = []) :
    ∃ t, exec (.linkDown l) s = .next t ∧ linkOf t l = { linkOf s l with down := true, fails := 0, downs := (linkOf s l).downs + 1 } ∧
      t.coh = (loseLines s l).coh ∧ t.mem = s.mem := by
  have ops : loseOps s l = s := by rw [loseOps, noOps]; rfl
  have engines : loseEngines s l = s := by rw [loseEngines, noEngines]; rfl
  have goes : ¬ (linkCount ≤ l ∨ linkUp s l = false ∨ (linkOf s l).fails < 9) := by simp [up, linkCount]; omega
  have down := (exec_linkDown l s).trans (if_neg goes)
  rw [ops, engines] at down
  refine ⟨_, down, ?_⟩
  obtain ⟨links, coh, mem⟩ := noteSilent_keeps
    (modLink (loseLines s l) l fun x => { x with down := true, fails := 0, downs := x.downs + 1 })
  exact ⟨(congrArg (tabGet Link.atReset · l) links).trans (linkOf_modLink_self ..), coh, mem⟩

/-- A failed flit counts, and replays unless it is the ninth failure in a row. -/
theorem exec_flitCrcFail_counts {s : State} {l : Nat} (port : l < 48) (up : linkUp s l = true) (fewer : (linkOf s l).fails < 9) :
    ∃ t k, exec (.flitCrcFail l) s = .next t ∧ t = modLink s l (fun x => { x with fails := k, replays := (linkOf t l).replays }) ∧
      (k = 1 ∨ k = (linkOf s l).fails + 1) ∧ (k < 9 → (linkOf t l).replays = (linkOf s l).replays + 1) := by
  have goes : ¬ (linkCount ≤ l ∨ linkUp s l = false ∨ 9 ≤ (linkOf s l).fails) := by simp [up, linkCount]; omega
  have counts := (exec_flitCrcFail l s).trans (if_neg goes)
  refine ⟨_, if (Config.freeBits s.freeCtr 0).getLsbD 0 then (linkOf s l).fails + 1 else 1, counts, ?_, ?_, fun below => ?_⟩
  · rw [linkOf_modLink_self]
    rfl
  · split
    · exact .inr rfl
    · exact .inl rfl
  · rw [linkOf_modLink_self]
    split at below
    next again => exact if_neg (by simp; omega)
    next => simp_all

/-! ### Recovery of lost lines (R375) -/

theorem failed_restart (d : Die) : (restart d).failed = d.failed := by
  unfold restart
  split
  · dsimp only
    split <;> rfl
  · rfl

theorem failed_dieAt (d : Die) (n now : Nat) : (dieAt n d now).failed = d.failed := by
  induction n generalizing d with
  | zero => rfl
  | succ n ih =>
    unfold dieAt
    split
    · split
      · exact (ih (restart d)).trans (failed_restart d)
      · rfl
    · rfl

theorem foldl_poisonLine_spec (s : State) (ls : List Nat) : ∃ lines, ls.foldl poisonLine s = { s with mem := { s.mem with poison := lines } } ∧
    ∀ x, x ∈ lines ↔ x ∈ ls ∨ x ∈ s.mem.poison := by
  induction ls generalizing s with
  | nil => exact ⟨s.mem.poison, rfl, fun x => by simp⟩
  | cons l ls ih =>
    obtain ⟨first, poisons, has⟩ := poisonLine_spec s l
    obtain ⟨lines, rest, all⟩ := ih { s with mem := { s.mem with poison := first } }
    refine ⟨lines, by rw [List.foldl_cons, poisons, rest], fun x => ?_⟩
    rw [all, List.mem_cons]
    simp only [has]
    tauto

/-- A die that fails takes its lines with it: those it may have held dirty, or had on the way home, are poisoned. -/
theorem failDie_spec (s : State) (die : Nat) : ∃ t, failDie s die = t ∧ (dieOf t die).failed = true ∧
    (∀ x, x ∈ t.mem.poison ↔ ((∃ l ∈ s.coh.l2, l.die = die ∧ l.st ≠ .s ∧ l.line = x) ∨ (∃ w ∈ s.coh.wbacks, w.held.die = die ∧
      w.held.line = x) ∨ ∃ k ∈ s.coh.lockets, locketWithout die k = none ∧ k.line = x) ∨ x ∈ s.mem.poison) ∧
    t.mem.bytes = s.mem.bytes ∧ t.coh.l2 = (s.coh.l2.filter fun l => l.die != die) ∧
    t.coh.wbacks = s.coh.wbacks.filter fun w => w.held.die != die := by
  refine ⟨_, rfl, ?_⟩
  unfold failDie
  extract_lets gone s1
  obtain ⟨lines, poisons, has⟩ := foldl_poisonLine_spec s gone
  have poisons : s1 = { s with mem := { s.mem with poison := lines } } := poisons
  rw [poisons]
  refine ⟨?_, fun x => ?_, rfl, rfl, rfl⟩
  · rw [dieOf, failed_dieAt, dieRaw, tabGet_tabSet_self]
  · rw [has]
    simp [gone, and_assoc]

/-! ### Failed homes (R378, R379) -/

theorem mem_insertNat (l : List Nat) (x : Nat) : x ∈ insertNat l x := by
  unfold insertNat
  split
  next there => exact List.contains_iff_mem.1 there
  next => exact List.mem_append_right _ List.mem_cons_self

/-- Without salvage the held lines of a range are only reported. -/
theorem foldl_salvage_off {s : State} (off : s.hub.salvEn = false) (held : List (L2Line × Bool)) :
    ∃ r, held.foldl (fun acc x => salvage (rasReport acc (.held x.1.line x.1.die)) x.1 x.2) s = { s with ras := r } := by
  induction held generalizing s with
  | nil => exact ⟨s.ras, rfl⟩
  | cons x held ih =>
    obtain ⟨r, rest⟩ := ih (s := rasReport s (.held x.1.line x.1.die)) off
    refine ⟨r, ?_⟩
    have skips : salvage (rasReport s (.held x.1.line x.1.die)) x.1 x.2 = rasReport s (.held x.1.line x.1.die) := by
      simp [salvage, rasReport, off]
    rw [List.foldl_cons, skips, rest]
    rfl

/-- The lines of a failed range that go, by number and home. -/
def rangeGone (inRange : L2Line → Bool) (line home : Nat) : Bool := inRange { L2Line.mk0 0 line .s 0 0 none with home := home }

/-- The lines of a failed range that stay: those that no eviction had on the way. -/
def rangeKept (s : State) (inRange : L2Line → Bool) : List (L2Line × Bool) :=
  (rangeHeld s inRange).filter fun x => !(s.coh.wbacks.any fun w => w.held == x.1)

theorem failRange_salvage_off {s : State} (off : s.hub.salvEn = false) (inRange : L2Line → Bool) :
    (failRange s inRange).coh = { s.coh with
      lockets := s.coh.lockets.filter fun k => !rangeGone inRange k.line 0
      copies := s.coh.copies.filter fun c => !rangeGone inRange c.line (lineHome c.line)
      wbacks := s.coh.wbacks.filter fun w => !inRange w.held
      l2 := (rangeKept s inRange).map (fun x => { x.1 with ro := true, excl := none }) ++ s.coh.l2.filter fun l => !inRange l } := by
  obtain ⟨r, reports⟩ := foldl_salvage_off off (rangeHeld s inRange)
  unfold failRange
  simp only [off, reports]
  rfl

/-- The lines of a memory die. -/
theorem inMemory_iff (line m : Nat) : (isHbm (128 * line) && homeDie (128 * line) == m) = true ↔
    128 * line < 0xC000000000 ∧ 128 * line / 0x1800000000 = m := by
  rw [Bool.and_eq_true, isHbm, decide_eq_true_iff, beq_iff_eq]
  refine and_congr_right fun inside => ?_
  rw [homeDie, if_pos inside]
  rfl

end Sys2Proof.Machine

namespace Sys2Proof.Laws

open Sys2Proof Sys2Proof.Machine

/-- Settles O57. -/
theorem linksAndRecovery : Obligations.LinksAndRecovery := by
  unfold Obligations.LinksAndRecovery
  intro s
  refine ⟨fun l port down trained => ?_, fun l off t => ?_, fun l inner down trained noU => ?_, rfl, ?_, fun line u mem at_ probing all => ?_,
    fun die u inPackage silent mem probing late => ?_, fun m inPackage works => ?_, fun v high => ?_, fun pkg at0 since late alive => ?_,
    fun v => rfl, fun m inPackage off works => ?_⟩
  · have up := linkUp_eq_true down trained
    refine ⟨exec_flitCrcFail_counts port up, fun runs => ?_, fun ninth noOps noEngines => ?_⟩
    · refine (exec_replayTimerExpiry l s).trans (if_neg ?_)
      rcases runs with high | runs
      · simp [up, linkCount]; omega
      · simp [up, linkCount, runs]; omega
    · obtain ⟨t, goesDown, link, coh, mem⟩ := exec_linkDown_idle port up ninth noOps noEngines
      obtain ⟨us, lost, lines⟩ := loseLines_spec s l
      exact ⟨t, us, goesDown, by rw [link], by rw [link], by rw [coh, lost], mem,
        fun u hu => ⟨(lines u hu).1, mem_messageLines noOps (lines u hu).2⟩⟩
  · have down := linkUp_eq_false off
    rw [exec_flitCrcFail, exec_linkDown, execFlitCrcFail, execLinkDown, if_pos (.inr (.inl down)), if_pos (.inr (.inl down))]
    exact ⟨nofun, nofun⟩
  · have goes : ¬ (linkCount ≤ l ∨ (linkOf s l).down = false ∨ (linkOf s l).rev = 0 ∨ (s.hub.fmode.getLsbD 4 = false ∧ s.coh.ulines ≠ [])) := by
      simp [linkCount, down, trained, noU]; omega
    refine ((exec_linkRetrain l s).trans (if_neg goes)).trans ?_
    exact congrArg Host.Outcome.next (if_neg (by omega))
  · refine ⟨_, rfl, ?_, ?_, rfl⟩
    · intro u hu
      obtain ⟨x, -, rfl⟩ := List.mem_map.1 hu
      split <;> simp_all
    · simp only [List.map_map]
      refine List.map_congr_left fun x _ => ?_
      simp only [Function.comp]
      split <;> rfl
  · refine (exec_dirRebuild line s).trans (if_pos ?_)
    simp only [Bool.and_eq_true, List.any_eq_true, List.all_eq_true, List.mem_range, beq_iff_eq]
    exact ⟨⟨u, mem, at_, probing⟩, all⟩
  · have timesOut : ¬ (8 ≤ die ∨ dieAnswers s die = true ∨
        (s.coh.ulines.any fun u => u.probing && decide (u.since + 100000 ≤ rtNs s)) = false) := by
      have lateOne : (s.coh.ulines.any fun u => u.probing && decide (u.since + 100000 ≤ rtNs s)) = true :=
        List.any_eq_true.2 ⟨u, mem, by simp [probing, late]⟩
      simp [silent, lateOne]; omega
    obtain ⟨t, fails, failed, poison, bytes, l2, wbacks⟩ := failDie_spec s die
    refine ⟨t, ((exec_dieProbeTimeout die s).trans (if_neg timesOut)).trans (congrArg _ fails), failed, fun l held at_ dirty => ?_,
      fun l held => ?_, fun w held at_ => ?_, fun w held => ?_, fun l held other => ?_, bytes⟩
    · exact (poison _).2 (.inl (.inl ⟨l, held, at_, dirty, rfl⟩))
    · rw [l2] at held
      simpa using (List.mem_filter.1 held).2
    · exact (poison _).2 (.inl (.inr (.inl ⟨w, held, at_, rfl⟩)))
    · rw [wbacks] at held
      simpa using (List.mem_filter.1 held).2
    · rw [l2]
      exact List.mem_filter.2 ⟨held, by simpa using other⟩
  · have number : (BitVec.ofNat 64 m).toNat = m := by rw [BitVec.toNat_ofNat]; omega
    have goes : ¬ (8 ≤ m ∨ (mdieOf s m).failed = true) := by simp [works]; omega
    refine ⟨(exec_memoryDieFailed m s).trans (if_neg goes), ?_⟩
    rw [exec_rasfail, execRasfail, number, if_neg goes]
  · exact (exec_rasfail v s).trans (if_pos (.inl high))
  · have dead : (decide (at0 + 1000000 ≤ rtNs s) && !(s.hub.deadPkgs.contains pkg)) = true := by simp [late, alive]
    rw [exec_remotePackageTimeout, execRemotePackageTimeout, since]
    exact ⟨_, if_pos dead, mem_insertNat _ pkg⟩
  · extract_lets t gone
    set inRange : L2Line → Bool := fun l => l.home == 0 && isHbm (128 * l.line) && homeDie (128 * l.line) == m
    have coh : t.coh = _ := failRange_salvage_off off inRange
    have in_ (l : L2Line) : inRange l = true ↔ l.home = 0 ∧ gone l.line := by
      change (l.home == 0 && isHbm (128 * l.line) && homeDie (128 * l.line) == m) = true ↔ _
      rw [Bool.and_assoc, Bool.and_eq_true, inMemory_iff, beq_iff_eq]
    have gone_home {line : Nat} (goes : gone line) : lineHome line = 0 := Nat.div_eq_of_lt (by have := goes.1; omega)
    refine ⟨congrArg MDie.failed (tabGet_tabSet_self ..), fun k held goes => ?_, fun l held home goes => ?_, fun c held goes => ?_,
      fun l held home goes dirty landed => ?_, fun l held stays => ?_⟩
    · rw [coh] at held
      have stays := (List.mem_filter.1 held).2
      rw [rangeGone, (in_ _).2 ⟨rfl, goes⟩] at stays
      exact absurd stays nofun
    · rw [coh] at held
      rcases List.mem_append.1 held with kept | other
      · obtain ⟨x, -, rfl⟩ := List.mem_map.1 kept
        rfl
      · have stays := (List.mem_filter.1 other).2
        rw [(in_ l).2 ⟨home, goes⟩] at stays
        exact absurd stays nofun
    · rw [coh] at held
      have stays := (List.mem_filter.1 held).2
      rw [rangeGone, (in_ _).2 ⟨gone_home goes, goes⟩] at stays
      exact absurd stays nofun
    · rw [coh]
      refine List.mem_append_left _ (List.mem_map.2 ⟨(l, false), List.mem_filter.2 ⟨?_, ?_⟩, rfl⟩)
      · refine List.mem_append_left _ (List.mem_append_left _ (List.mem_map.2 ⟨l, List.mem_filter.2 ⟨held, ?_⟩, rfl⟩))
        rw [(in_ l).2 ⟨home, goes⟩]
        rcases dirty with m | o
        · simp [m]
        · simp [o]
      · simp only [Bool.not_eq_true', List.any_eq_false, beq_iff_eq]
        exact fun w hw same => landed w hw (congrArg L2Line.line same)
    · rw [coh]
      refine List.mem_append_right _ (List.mem_filter.2 ⟨held, ?_⟩)
      rw [Bool.not_eq_true', Bool.eq_false_iff]
      exact fun is_ => stays ((in_ l).1 is_).2

end Sys2Proof.Laws

end

section

/-! ## Accesses from outside the package, and held accesses (03_memory_order.md, 20_dies_coherence_recovery.md; O58) -/

namespace Sys2Proof.Machine

open Sys2Proof

/-- A line's value is what a read that goes through the whole order yields. -/
theorem coherentLine_lineIs {s : State} {line key : Nat} {d : LineData} (is : LineIs s line key d) : coherentLine s line key = .data d := by
  obtain ⟨noLocket, -, noWb, notPoisoned, data, clean⟩ := is
  rw [coherentLine, if_neg (by simp [notPoisoned]), chipLine, noLocket, noWb]
  cases owner : l2Owner s line with
  | some o =>
    obtain ⟨held, onLine⟩ := mem_of_l2Owner owner
    exact congrArg LineRes.data (data o held onLine)
  | none =>
    cases any : l2Any s line with
    | some h =>
      obtain ⟨held, onLine⟩ := mem_of_l2Any any
      exact congrArg LineRes.data (data h held onLine)
    | none => exact clean fun x => clean_of_l2Owner owner

/-- A line that no other package owns is ready for the hub once it has no partials. -/
theorem hubReady_here {s : State} {line : Nat} (here : remoteOwned s line = false) (none : linePartials s line = []) :
    hubReady s line = s := by
  have notAway : (s.coh.remote.find? fun r => r.line == line && r.owned) = Option.none :=
    List.find?_eq_none.2 fun r hr => by simpa using List.any_eq_false.1 here r hr
  rw [hubReady, recallHome, notAway]
  exact combine_noPartials none

theorem roLine_uncached {s : State} {line : Nat} (noL2 : l2Any s line = none) : roLine s line = false :=
  List.any_eq_false.2 fun l hl => by
    have other := List.find?_eq_none.1 noL2 l hl
    simp only [Bool.not_eq_true] at other
    simp [other]

/-- An access to a line without live tags changes the slices' state alone, and leaves the line without. -/
theorem commitPos_enterSlice_untagged {s : State} {line : Nat} (untagged : taggedDie s line = none) (die : Nat) (reads writes : Bool) :
    ∃ r, commitPos (enterSlice s die line) die line reads writes = { s with reg := r } ∧
      tagLive (lineTag (commitPos (enterSlice s die line) die line reads writes) die line) = false := by
  obtain ⟨-, readers, writer⟩ := lineTag_untagged
    (taggedDie_commitPos (taggedDie_enterSlice untagged die) die reads writes) die
  obtain ⟨r, commits⟩ := commitPos_eq (enterSlice s die line) die line reads writes
  refine ⟨r, ?_, by simp [tagLive, readers, writer]⟩
  rw [commits, enterSlice]
  split <;> rfl

/-- A store without a key to a line that nothing on chip holds changes its bytes in memory. -/
theorem mem_hubPutAs_uncached {s : State} {pa : Nat} (noLocket : locketAt s (lineOf pa) = none) (noL2 : l2Any s (lineOf pa) = none)
    (noWb : wbAt s (lineOf pa) = none) (clean : poisoned s (lineOf pa) = false) (reads : Bool) (n v : Nat) :
    (hubPutAs s reads none pa n v).mem = { s.mem with bytes := putBytes s.mem.bytes pa (leBytes n v) } := by
  have writable := roLine_uncached noL2
  have landed : landLine (stampWrite s (lineOf pa) (pa % 128) n) (lineOf pa) = stampWrite s (lineOf pa) (pa % 128) n := landLine_none noWb
  have notParked : locketAt (stampWrite s (lineOf pa) (pa % 128) n) (lineOf pa) = none := noLocket
  have notHeld : l2Any (stampWrite s (lineOf pa) (pa % 128) n) (lineOf pa) = none := noL2
  have kept : hubLost s none pa = false := by simp [hubLost, clean, writable]
  unfold hubPutAs
  simp only [landed, notParked, notHeld, kept, Bool.false_eq_true, if_false]
  rfl

/-- The bytes of a store, and what stands around them. -/
theorem memByte_putBytes_le {s t : State} {pa n v : Nat} (stored : t.mem.bytes = putBytes s.mem.bytes pa (leBytes n v)) :
    (∀ k, k < n → memByte t (pa + k) = BitVec.ofNat 8 (v / 2 ^ (8 * k))) ∧ ∀ a, a < pa ∨ pa + n ≤ a → memByte t a = memByte s a := by
  refine ⟨fun k inside => ?_, fun a outside => ?_⟩
  · have short : k < (leBytes n v).length := by rwa [length_leBytes]
    rw [memByte, stored, tabGet_putBytes_in _ _ _ _ short]
    exact Option.some_inj.1 ((List.getElem?_eq_getElem short).symm.trans (getElem?_leBytes inside v))
  · rw [memByte, stored, tabGet_putBytes_out _ _ _ _ (by rwa [length_leBytes])]
    rfl

/-! ### The host (R111) -/

section Host

variable {s : State} {addr n : Nat} {v : BitVec 64} {write : Bool}

/-- What an access that may be served has of its line. -/
theorem outsideServed_parts (served : outsideServed s addr n write = true) :
    outsideOk s addr n = true ∧ lineHeld s (addr / 128) = false ∧ remoteOwned s (addr / 128) = false := by
  simp only [outsideServed, lineOf, Bool.and_eq_true, Bool.not_eq_true'] at served
  exact ⟨served.1.1.1, served.1.1.2, served.2⟩

/-- An access of the host is served at once where the hub holds nothing of its line. -/
theorem exec_hostAccess_served {wr : BitVec 1} (is : bit wr = write) (served : outsideServed s addr n write = true)
    (none : linePartials s (addr / 128) = []) (others : ∀ h ∈ s.hub.held, h.line ≠ addr / 128 ∧ h.who ≠ .host write addr n v) :
    exec (.hostAccess wr addr n v) s = .next (if write then outsideWrite s addr n v.toNat else commitRead s (addr / 128)) := by
  obtain ⟨ok, free, -⟩ := outsideServed_parts served
  have noMe : (s.hub.held.find? fun h => h.who == .host write addr n v) = Option.none :=
    List.find?_eq_none.2 fun h hh => by simpa using (others h hh).2
  have live {h : HeldAcc} (hh : h ∈ s.hub.held.filter (heldLive s)) : h.line ≠ addr / 128 := (others h (List.mem_filter.1 hh).1).1
  have turn : heldTurn s (.host write addr n v) (addr / 128) = true := by
    have noTurn : ((s.hub.held.filter (heldLive s)).find? fun h => h.who == .host write addr n v && h.line == addr / 128) = Option.none :=
      List.find?_eq_none.2 fun h hh => by simp [live hh]
    simp only [heldTurn, noTurn]
    exact List.all_eq_true.2 fun h hh => by simp [live hh]
  rw [exec_hostAccess, execHostAccess]
  simp only [is, lineOf, ok, free, turn, served, noMe, Option.elim_none]
  exact congrArg Host.Outcome.next (by rw [combine_noPartials (s := s) none])

/-- An access of the host whose line the hub holds joins those that wait. -/
theorem exec_hostAccess_waits (wr : BitVec 1) (ok : outsideOk s addr n = true) (held : lineHeld s (addr / 128) = true)
    (fresh : ∀ h ∈ s.hub.held, h.who ≠ .host (wr == 1) addr n v) : exec (.hostAccess wr addr n v) s = .next { s with
      hub := { s.hub with held := s.hub.held ++ [⟨.host (wr == 1) addr n v, addr / 128, heldAtHub s addr, rtNs s, false⟩] } } := by
  have noMe : (s.hub.held.find? fun h => h.who == .host (bit wr) addr n v) = none :=
    List.find?_eq_none.2 fun h hh => by simpa [bit] using fresh h hh
  rw [exec_hostAccess, execHostAccess]
  simp only [lineOf, ok, held, noMe, Bool.not_true, Bool.true_or, Bool.false_eq_true, if_false, if_true]
  rfl

/-- A state with a line's poison taken away. -/
def repaired (s : State) (line : Nat) : State := { s with mem := { s.mem with poison := s.mem.poison.filter (· != line) } }

/-- A store from outside to a line that nothing on chip holds repairs the line and changes the bytes in memory. -/
theorem outsideWrite_uncached (noLocket : locketAt s (addr / 128) = none) (noL2 : l2Any s (addr / 128) = none)
    (noWb : wbAt s (addr / 128) = none) (works : inFailedRange s addr = false) (here : remoteOwned s (addr / 128) = false)
    (none : linePartials s (addr / 128) = []) (x : Nat) :
    (outsideWrite s addr n x).threads = s.threads ∧ (outsideWrite s addr n x).mem = { s.mem with
      poison := s.mem.poison.filter (· != addr / 128), bytes := putBytes s.mem.bytes addr (leBytes n x) } := by
  have writable : roLine s (addr / 128) = false := roLine_uncached noL2
  have stores : outsideWrite s addr n x = staleTlb (hubWrite (repaired s (addr / 128)) addr n x) (addr / 128) := by
    rw [outsideWrite]
    exact if_neg (by simp [lineOf, writable, works])
  rw [stores]
  refine ⟨threads_of_besideMemory (besideMemory_hubWrite (repaired s (addr / 128)) addr n x), ?_⟩
  change (hubPutAs (hubReady (repaired s (addr / 128)) (addr / 128)) false Option.none addr n x).mem = _
  rw [hubReady_here (s := repaired s (addr / 128)) here none]
  exact mem_hubPutAs_uncached (s := repaired s (addr / 128)) noLocket noL2 noWb (by simp [poisoned, repaired, lineOf]) false n x

end Host

end Sys2Proof.Machine

namespace Sys2Proof.Laws

open Sys2Proof Sys2Proof.Machine

/-- Settles O58. -/
theorem outsideAccesses : Obligations.OutsideAccesses := by
  unfold Obligations.OutsideAccesses
  intro s
  refine ⟨fun addr n v served none others => ?_, fun addr n v served none noLocket noL2 noWb works others => ?_,
    fun wr addr n v ok held fresh => exec_hostAccess_waits wr ok held fresh, fun pkg line alive inner served none noLocket => ?_,
    fun pkg line d alive inner served none noTags is => ?_, fun k h found pair atHub long early => ?_,
    fun op lane o a h inFlight named held who onLine pair long todo atHub => ?_⟩
  · obtain ⟨r, reads, -⟩ := commitRead_eq s (addr / 128)
    rw [exec_hostAccess_served (wr := 0) (write := false) rfl served none others]
    exact ⟨_, rfl, by rw [if_neg (by decide), reads]; exact ⟨rfl, rfl, rfl⟩⟩
  · rw [exec_hostAccess_served (wr := 1) (write := true) rfl served none others]
    obtain ⟨threads, mem⟩ := outsideWrite_uncached noLocket noL2 noWb works (outsideServed_parts served).2.2 none v.toNat
    obtain ⟨inside, around⟩ := memByte_putBytes_le (congrArg Mem.bytes mem)
    exact ⟨_, rfl, threads, by rw [if_pos rfl, mem]; simp, inside, around⟩
  · obtain ⟨r, reads, -⟩ := commitRead_eq s line
    have home : lineHome line = 0 := Nat.div_eq_of_lt inner
    have goes : ¬ (pkgAlive s pkg = false ∨ lineHome line ≠ 0 ∨ outsideServed s (128 * line) 8 false = false) := by
      simp [alive, home, served]
    have remoteRead := (exec_remotePackageRequest pkg line 0 s).trans (if_neg goes)
    simp only [combine_noPartials none, noLocket, reads] at remoteRead
    refine ⟨_, 64 + (Config.freeBits s.freeCtr 0).toNat % 4033, remoteRead, ?_, by omega, by omega, rfl, rfl⟩
    rw [← Nat.add_assoc]
    exact List.mem_cons_self
  · have untagged : taggedDie s line = Option.none := taggedDie_eq_none_iff.2 (by simp [noTags])
    have home : lineHome line = 0 := Nat.div_eq_of_lt inner
    have goes : ¬ (pkgAlive s pkg = false ∨ lineHome line ≠ 0 ∨ outsideServed s (128 * line) 8 true = false) := by
      simp [alive, home, served]
    have owns := (exec_remotePackageRequest pkg line 1 s).trans (if_neg goes)
    simp only [combine_noPartials none, bit] at owns
    obtain ⟨r, commits, dead⟩ := commitPos_enterSlice_untagged untagged (sliceOf s line) false true
    have value : coherentLine (commitPos (enterSlice s (sliceOf s line) line) (sliceOf s line) line false true) line (lineKey s line) = .data d :=
      commits ▸ coherentLine_lineIs is
    rw [value, dead, is.1, commits] at owns
    have stays : landLine { s with reg := r } line = { s with reg := r } := landLine_none is.2.2.1
    simp only [Option.isSome_none, Bool.or_self, stays] at owns
    exact ⟨_, owns, List.mem_cons_self, fun x hx => by simpa using (List.mem_filter.1 hx).2, rfl⟩
  · have expires : heldLong s h = true := by simp [heldLong, pair, atHub, long]
    rw [exec_heldAccessTimeout, execHeldAccessTimeout, if_pos (show 2 ^ 48 = heldWhole from rfl), found]
    simp only [expires, early, Bool.not_true, Bool.or_self, Bool.false_eq_true, if_false]
    refine ⟨fun c q n p who => ?_, fun addr n v who => ?_, fun addr n v who => ?_⟩
    all_goals simp only [who, if_true, Bool.false_eq_true, if_false]
  · have expires : heldLong s h = true := by
      simp [heldLong, pair, onLine, atHub, long]
    have times : ((s.hub.held.any fun h => h.who == .lane o.thread o.seq lane && h.line == lineOf a.pa && heldLong s h) && !laneEnded a) = true := by
      rw [Bool.and_eq_true, List.any_eq_true]
      exact ⟨⟨h, held, by simp [who, onLine, lineOf, expires]⟩, by simp [laneEnded, todo]⟩
    refine ⟨?_, fun path => ⟨_, find_lanePoison_fails inFlight.1 path 0x03, ?_⟩⟩
    · rw [exec_heldAccessTimeout, execHeldAccessTimeout, if_neg (show ¬ lane = heldWhole from named), onLane_inFlight inFlight]
      exact if_pos times
    · exact lane_of_inFlight inFlight ▸ phase_changeLanes o a.lane (.failed 0x15 0x03 (a.pa / 128 * 128) 0)

end Sys2Proof.Laws

end

section

/-! ## The directory, and what ends or moves copies (20_dies_coherence_recovery.md, 03_memory_order.md; O48) -/

namespace Sys2Proof.Machine

open Sys2Proof

/-! ### Fills and ownership (R368, R369) -/

/-- A state that differs in the L2s' hold of one line alone. -/
def OnlyLine (s s' : State) (line : Nat) : Prop :=
  ∃ l2, s' = { s with coh := { s.coh with l2 := l2 } } ∧ ∀ x : L2Line, x.line ≠ line → (x ∈ l2 ↔ x ∈ s.coh.l2)

theorem OnlyLine.refl (s : State) (line : Nat) : OnlyLine s s line := ⟨s.coh.l2, rfl, fun _ _ => Iff.rfl⟩

theorem OnlyLine.trans {s s' s'' : State} {line : Nat} (first : OnlyLine s s' line) (second : OnlyLine s' s'' line) :
    OnlyLine s s'' line := by
  obtain ⟨l2, rfl, same⟩ := first
  obtain ⟨l2', rfl, same'⟩ := second
  exact ⟨l2', rfl, fun x other => (same' x other).trans (same x other)⟩

theorem OnlyLine.setL2St (s : State) (die line : Nat) (st : LineSt) : OnlyLine s (Machine.setL2St s die line st) line := by
  refine ⟨_, rfl, fun x other => ?_⟩
  change x ∈ (Machine.setL2St s die line st).coh.l2 ↔ _
  rw [mem_setL2St]
  constructor
  · rintro ⟨y, hy, rfl⟩
    split at other
    next there => exact absurd there.2 other
    next => rwa [if_neg ‹_›]
  · exact fun hx => ⟨x, hx, if_neg fun there => other there.2⟩

theorem OnlyLine.putL2 (s : State) (l : L2Line) : OnlyLine s (Machine.putL2 s l) l.line := by
  refine ⟨_, rfl, fun x other => ?_⟩
  change x ∈ (Machine.putL2 s l).coh.l2 ↔ _
  rw [mem_putL2]
  exact ⟨fun there => there.elim (fun same => absurd (same ▸ rfl) other) And.left, fun hx => .inr ⟨hx, fun same => other same.2⟩⟩

theorem onlyLine_cleanFill (s : State) (die line key ctx : Nat) : OnlyLine s (cleanFill s die line key ctx).1 line := by
  unfold cleanFill
  split
  next h any =>
    obtain ⟨-, onLine⟩ := mem_of_l2Any any
    split
    · exact (OnlyLine.setL2St s h.die line .s).trans (onLine ▸ OnlyLine.putL2 _ { h with die := die, st := .s, excl := none })
    · split
      · exact OnlyLine.putL2 s (L2Line.mk0 die line .s _ key _)
      · exact .refl s line
  next =>
    split
    · exact OnlyLine.putL2 s (L2Line.mk0 die line .e _ key _)
    · exact .refl s line

/-- A fill with no write-back under way changes the hold of its line alone. -/
theorem onlyLine_fillLine {s : State} {line : Nat} (noWb : wbAt s line = none) (die key ctx : Nat) :
    OnlyLine s (fillLine s die line key ctx).1 line := by
  rw [fillLine, noWb]
  split
  · exact .refl s line
  · cases at_ : l2At s die line with
    | some l => exact .refl s line
    | none =>
      cases owner : l2Owner s line with
      | none => exact onlyLine_cleanFill s die line key ctx
      | some o =>
        obtain ⟨-, onLine⟩ := mem_of_l2Owner owner
        dsimp only
        split
        · exact .refl s line
        · exact (OnlyLine.setL2St s o.die line .o).trans (onLine ▸ OnlyLine.putL2 _ { o with die := die, st := .s, excl := none })

theorem onlyLine_takeOwnership {s : State} {line : Nat} (noWb : wbAt s line = none) (die key ctx : Nat) :
    OnlyLine s (takeOwnership s die line key ctx).1 line := by
  have filled := onlyLine_fillLine noWb die key ctx
  rw [takeOwnership, landLine_none noWb]
  split
  next s1 d fill =>
    rw [fill] at filled
    refine filled.trans (OnlyLine.trans ⟨_, rfl, fun x other => ?_⟩ (OnlyLine.setL2St _ die line .m))
    simp [other]
  next => exact filled

/-- A die that holds a line has it. -/
theorem l2At_of_mem {s : State} {die line : Nat} {x : L2Line} (hx : x ∈ s.coh.l2) (onDie : x.die = die) (onLine : x.line = line) :
    ∃ y, l2At s die line = some y :=
  Option.isSome_iff_exists.1 (List.find?_isSome.2 ⟨x, hx, by simp [onDie, onLine]⟩)

theorem l2At_putL2 (s : State) (l : L2Line) : l2At (putL2 s l) l.die l.line = some l :=
  List.find?_cons_of_pos (by simp)

/-- A read while the write-back buffer waits is forwarded from it. -/
theorem fillLine_forwards {s : State} {die line : Nat} {w : WBack} (clean : poisoned s line = false) (notAt : l2At s die line = none)
    (noOwner : l2Owner s line = none) (back : wbAt s line = some w) (fresh : w.fwd = false) (key ctx : Nat) :
    fillLine s die line key ctx = (putL2 { s with coh := { s.coh with
      wbacks := s.coh.wbacks.map fun x => if x.held.line = line then { x with fwd := true } else x } }
        { w.held with die := die, st := .s, excl := none }, .data w.held.data) := by
  rw [fillLine, if_neg (by simp [clean]), notAt, noOwner, back]
  exact if_neg (by simp [fresh])

/-- The write-back that a read was forwarded from is noted to have forwarded. -/
theorem find_forwarded {l : List WBack} {line : Nat} {w : WBack} (back : (l.find? fun x => x.held.line == line) = some w) :
    ((l.map fun x => if x.held.line = line then { x with fwd := true } else x).find? fun x => x.held.line == line) =
      some { w with fwd := true } := by
  induction l with
  | nil => cases back
  | cons x l ih =>
    rw [List.map_cons]
    by_cases there : x.held.line = line
    · rw [List.find?_cons_of_pos (by simpa using there)] at back
      obtain rfl := Option.some_inj.1 back
      rw [if_pos there, List.find?_cons_of_pos (by simpa using there)]
    · rw [List.find?_cons_of_neg (by simpa using there)] at back
      rw [if_neg there, List.find?_cons_of_neg (by simpa using there)]
      exact ih back

theorem wayFree_of_room {s : State} {die line : Nat} (room : (setLines s die line).length + (setParked s die line).length < 16) :
    wayFree s die line = true := by
  simp [wayFree, room]

/-- A state with other lines in the L2s. -/
def withL2 (s : State) (l2 : List L2Line) : State := { s with coh := { s.coh with l2 := l2 } }

/-- A line of another package that no die has on lease leaves the other lines of its set as they are when the dies give it up. -/
theorem remoteOwnership_ready {s : State} {die line : Nat} (room : (setLines s die line).length + (setParked s die line).length < 16)
    (noLease : ∀ x ∈ s.coh.l2, x.line = line → x.lease = none) :
    wayFree (withL2 s (s.coh.l2.filter fun x => x.line != line)) die line = true ∧
      (s.coh.l2.filter fun x => !(x.line == line && x.lease.isSome)) = s.coh.l2 := by
  constructor
  · have lines : setLines (withL2 s (s.coh.l2.filter fun x => x.line != line)) die line = setLines s die line := by
      rw [setLines, setLines, withL2, List.filter_filter]
      exact List.filter_congr fun x _ => by cases x.line != line <;> simp
    exact wayFree_of_room (lines ▸ room)
  · refine List.filter_eq_self.2 fun x hx => ?_
    by_cases onLine : x.line = line
    · simp [noLease x hx onLine]
    · simp [onLine]

/-- A way that is free is not made. -/
theorem makeWay_free {s : State} {die line : Nat} (free : wayFree s die line = true) : makeWay s die line = s := if_pos free

theorem mayTake_free {s : State} {die line : Nat} (untagged : taggedDie s line = none) (free : wayFree s die line = true) :
    mayTake s die line = true := by
  simp [mayTake, untagged, wayMade, free]

/-! ### Translations that go (R347) -/

/-- An invalidation that no other to its cache precedes. -/
theorem earlierStale_eq_false {s : State} {x : Tlb} {n : Nat} (sent : x.stale = some n)
    (first : ∀ y ∈ s.coh.tlb, y.unit = x.unit → y.dropped = false → ∀ m, y.stale = some m → n ≤ m) : earlierStale s x = false := by
  refine List.any_eq_false.2 fun y hy => ?_
  by_cases mine : y.unit = x.unit ∧ y.dropped = false
  · cases stale : y.stale with
    | none => simp
    | some m => simpa [sent, mine] using first y hy mine.1 mine.2 m stale
  · simp only [Bool.and_eq_true, beq_iff_eq, Bool.not_eq_true', mine, false_and, not_false_eq_true]

/-- What a filter keeps of the entry that is found stays found. -/
theorem tabFind_filter_kept {α : Type} {q : Nat × α → Bool} {t : Tab α} {k : Nat} {v : α} (found : tabFind t k = some v)
    (kept : q (k, v) = true) : tabFind (t.filter q) k = some v := by
  induction t with
  | nil => cases found
  | cons p t ih =>
    obtain ⟨j, w⟩ := p
    rw [tabFind] at found
    split at found
    next same =>
      obtain rfl := Option.some_inj.1 found
      subst same
      rw [List.filter_cons_of_pos kept, tabFind, if_pos rfl]
    next other =>
      by_cases stays : q (j, w) = true
      · rw [List.filter_cons_of_pos stays, tabFind, if_neg other]
        exact ih found
      · rw [List.filter_cons_of_neg stays]
        exact ih found

/-- An operation that has not returned is not purged: it is outstanding itself. -/
theorem find_purgeOps {s : State} {k : Nat} {o : Op} (listed : tabFind s.ops k = some o) (out : o.back = false) (id : Nat) (p : Path) :
    tabFind (purgeOps s id p).ops k = some o := by
  refine tabFind_filter_kept listed ?_
  by_cases mine : o.thread = id ∧ o.path = p
  · have older : olderOut (pathOps s id p) o.seq = true :=
      List.any_eq_true.2 ⟨(k, o), List.mem_filter.2 ⟨mem_of_tabFind listed, by simp [mine]⟩, by simp [out]⟩
    simp [older]
  · rw [not_and_or] at mine
    rcases mine with other | other <;> simp [other]

/-- Settling leaves operations that have not returned as they are. -/
theorem find_settleOp {s : State} {k : Nat} {o : Op} (listed : tabFind s.ops k = some o) (out : o.back = false) (op : Nat) :
    tabFind (settleOp s op).ops k = some o := by
  unfold settleOp
  split
  · split
    · exact find_purgeOps (s := modThr s _ _) listed out ..
    · exact listed
  · exact listed

theorem mem_settleOp (s : State) (op : Nat) : (settleOp s op).mem = s.mem := by
  unfold settleOp
  split
  · split <;> rfl
  · rfl

/-- Whether an operation wrote a line that a translation was made from. -/
def wroteOf (t : Tlb) (o : Op) : Bool := o.lanes.any fun a => kindWrites o.kind && t.lines.contains (lineOf a.pa)

/-- The completion times of an operation when the drop of a translation is acknowledged. -/
def ackedWct (s : State) (o : Op) : Wct := o.wct.join ⟨(if 3 ≤ o.scope then rtNs s else 0), 0, 0, rtNs s, rtNs s⟩

theorem ackTlb_frame (s : State) (t : Tlb) : (ackTlb s t).mem = s.mem ∧ (ackTlb s t).coh = s.coh := by
  unfold ackTlb
  exact ⟨foldl_keeps State.mem (fun acc (p : Nat × Op) => mem_settleOp acc p.1) _ _,
    foldl_keeps State.coh (fun acc (p : Nat × Op) => settleOp_coh acc p.1) _ _⟩

/-- An operation that has not returned waits for the drop of a translation made from a line it wrote. -/
theorem find_ackTlb {s : State} {k : Nat} {o : Op} (listed : tabFind s.ops k = some o) (out : o.back = false) (t : Tlb) :
    tabFind (ackTlb s t).ops k = some (if wroteOf t o then { o with wct := ackedWct s o } else o) := by
  unfold ackTlb
  extract_lets mine now more s1
  have counted : tabFind s1.ops k = some (if wroteOf t o then { o with wct := ackedWct s o } else o) := by
    change tabFind (s.ops.map fun p => (p.1, if mine p.2 then more p.2 else p.2)) k = _
    rw [tabFind_map (fun o => if mine o then more o else o), listed]
    rfl
  have out' : (if wroteOf t o then { o with wct := ackedWct s o } else o).back = false := by split <;> exact out
  exact List.foldlRecOn (motive := fun acc : State => tabFind acc.ops k = some _) _ _ counted
    fun acc held (p : Nat × Op) _ => find_settleOp held out' p.1

/-! ### Write-backs that land, and recalls (R369, R370, R377) -/

theorem writeBack_stores {s : State} {l : L2Line} (here : l.home = 0) (works : inFailedRange s (128 * l.line) = false)
    (inner : isHostWin (128 * l.line) = false) (keyed : keyGenOf s l.key ≠ 0) :
    writeBack s l = memPutLine s l.line l.data (keyGenOf s l.key) := by
  rw [writeBack, if_neg (not_not_intro here), if_neg (by simp [works]), if_neg (by simp [inner]), if_neg keyed]

end Sys2Proof.Machine

namespace Sys2Proof.Laws

open Sys2Proof Sys2Proof.Machine

/-- Settles O48. -/
theorem directoryAndCaches : Obligations.DirectoryAndCaches := by
  unfold Obligations.DirectoryAndCaches
  refine ⟨fun s die line key ctx d is writable => ?_, fun s die line key ctx w clean notAt noOwner back fresh => ?_, fun s => ⟨?_, ?_, ?_, ?_,
    ?_, ?_, ?_, ?_, ?_, ?_, ?_, ?_, ?_⟩⟩
  · have noWb := is.2.2.1
    obtain ⟨s1, fill, ⟨still, -, holds⟩⟩ := fillLine_lineIs is die ctx
    obtain ⟨s2, take, dirty, -⟩ := takeOwnership_lineIs is writable die ctx
    obtain ⟨l2, only, same⟩ := onlyLine_fillLine noWb die key ctx
    obtain ⟨l2', only', same'⟩ := onlyLine_takeOwnership noWb die key ctx
    simp only [fill, take] at only only' ⊢
    obtain ⟨x, hx, onLine, onDie⟩ := holds writable
    obtain ⟨y, at_⟩ := l2At_of_mem hx onDie onLine
    obtain ⟨held, -, yLine⟩ := mem_of_l2At at_
    obtain ⟨⟨z, hz, zLine, -⟩, all⟩ := dirty
    have s2Is : LineIs s2 line key d := is.of_l2 (by rw [only']) (fun x hx onLine => (all x hx onLine).2.2) fun noDirty =>
      absurd (noDirty z hz zLine) (by simp [(all z hz zLine).2.1])
    refine ⟨⟨trivial, still, y, at_, still.2.2.2.2.1 y held yLine⟩, ⟨trivial, s2Is, ⟨z, hz, zLine⟩, fun x hx onLine => ?_⟩,
      fun x other => ⟨?_, ?_⟩, ?_, ?_, ?_, ?_⟩
    · exact ⟨(all x hx onLine).1, (all x hx onLine).2.1⟩
    · rw [only]; exact same x other
    · rw [only']; exact same' x other
    · rw [only]
    · rw [only']
    · rw [only]
    · rw [only']
  · have onLine : w.held.line = line := by simpa using List.find?_some back
    rw [fillLine_forwards clean notAt noOwner back fresh]
    refine ⟨rfl, ⟨{ w.held with die := die, st := .s, excl := none }, ?_, rfl, rfl⟩, rfl, { w with fwd := true }, ?_, rfl, rfl⟩
    · subst onLine
      exact l2At_putL2 _ { w.held with die := die, st := .s, excl := none }
    · exact find_forwarded back
  · intro k c found own past
    rw [exec_leaseExpiry, execLeaseExpiry, found]
    exact if_pos (by simp [own, past])
  · intro k x found idle
    rw [exec_streamTimeout, execStreamTimeout, found]
    exact if_pos idle
  · intro k x n found sent fresh inUse first
    have noEarlier := earlierStale_eq_false sent first
    rw [exec_translationInvalidation, execTranslationInvalidation, found]
    simp [sent, fresh, inUse, noEarlier]
  · intro k x n found sent idle first
    have goes : ¬ (x.stale.isNone || (!x.dropped && earlierStale s x)) = true := by
      rcases first with dropped | first
      · simp [sent, dropped]
      · simp [sent, earlierStale_eq_false sent first]
    let dropped : State := { s with coh := { s.coh with tlb := s.coh.tlb.eraseIdx k } }
    obtain ⟨mem, coh⟩ := ackTlb_frame dropped x
    refine ⟨ackTlb dropped x, ?_, by rw [coh], mem, fun id o listed out => ?_⟩
    · rw [exec_translationInvalidation, execTranslationInvalidation, found]
      exact (if_neg goes).trans (if_pos (by simp [idle]))
    · refine ⟨_, find_ackTlb (s := dropped) listed out x, ?_, fun none => ?_, fun writes some => ?_⟩
      · split <;> rfl
      · exact if_neg (by simpa [wroteOf] using fun a ha _ => none a ha)
      · have wrote : wroteOf x o = true := by simpa [wroteOf, writes] using some
        rw [if_pos wrote]
        refine ⟨Nat.le_max_right .., Nat.le_max_right .., fun wide => ?_⟩
        exact (if_pos wide).symm.le.trans (Nat.le_max_right ..)
  · intro k p found here
    rw [exec_partialHandover, execPartialHandover, found]
    exact if_neg (by simp [here])
  · intro die line l at_ noTags noPins known noWb
    have evicts : exec (.dirEviction die line) s = .next (dropTag (evictLine s die line) die line) := by
      rw [exec_dirEviction, execDirEviction, if_neg (by simp [known]), if_neg (by simp [noWb])]
      exact if_pos (by simp [at_, pinned, noTags, noPins])
    have stays : landLine (dropL2 s die line) line = dropL2 s die line := landLine_none noWb
    refine ⟨_, evicts, ?_⟩
    rw [evictLine, at_]
    simp only [stays]
    split <;> exact ⟨rfl, rfl, rfl⟩
  · intro die line w back onDie onLine here known free inner links works noHost keyed
    have lands : exec (.dirEviction die line) s = .next (landLine s line) := by
      rw [exec_dirEviction, execDirEviction, if_neg (by simp [known]), if_pos (by simp [back, onDie])]
      exact if_neg (by simpa [free, inner] using links)
    refine ⟨_, lands, ?_⟩
    subst onLine
    rw [landLine, back]
    dsimp only
    rw [writeBack_stores (s := dropWb s w.held.line) here works noHost keyed]
    exact ⟨List.find?_eq_none.2 fun x hx => by simpa using (List.mem_filter.1 hx).2, rfl, rfl⟩
  · intro line r owned here free alive works inner keyed
    obtain ⟨mem, own⟩ : r ∈ s.coh.remote ∧ r.line = line ∧ r.owned = true :=
      ⟨List.mem_of_find?_eq_some owned, by simpa using List.find?_some owned⟩
    have recalls : exec (.homeRecall line) s = .next (recallHome s line) := by
      rw [exec_homeRecall, execHomeRecall, if_neg (not_not_intro here), if_pos, if_neg (by simp [free])]
      exact List.any_eq_true.2 ⟨r, mem, by simp [own, alive]⟩
    refine ⟨_, recalls, ?_⟩
    rw [recallHome, owned]
    dsimp only
    rw [writeBack_stores rfl works inner keyed]
    exact ⟨rfl, fun x hx onLine => by simpa [onLine] using (List.mem_filter.1 hx).2⟩
  · intro line away owned alive
    refine (exec_homeRecall line s).trans ((if_pos away).trans (if_pos ⟨owned, alive⟩))
  · intro die line o a inner pending notAt serves untagged free
    have home : lineHome line = 0 := Nat.div_eq_of_lt inner
    have enters : enterSlice s die line = dropTag s die line := if_pos (by simp [notAt])
    have stays : makeWay (dropTag s die line) die line = dropTag s die line := makeWay_free free
    rw [exec_dirReadRequest, execDirReadRequest, if_neg (not_not_intro home), pending, enters, stays]
    exact if_pos (by simp [notAt, serves, mayTake_free untagged free])
  · intro die line outer inPackage alive notAt noOwner untagged free
    have away : lineHome line ≠ 0 := by rw [lineHome]; omega
    have notHeld : holdsNow s die line = false := by simp [holdsNow, notAt]
    have reads := (exec_dirReadRequest die line s).trans ((if_pos away).trans
      (if_pos ⟨inPackage, alive, notHeld, mayTake_free untagged free⟩))
    rw [makeWay_free free, readRemote, noOwner] at reads
    refine ⟨_, _, rtNs s + 24 + (Config.freeBits s.freeCtr 128).toNat % 4033, reads, l2At_putL2 _ _, rfl, rfl, ?_, by omega, by omega,
      fun l any => ?_⟩
    · dsimp only
      congr 1
      omega
    · rw [remoteData, any]
  · intro die line o a x pending serves untagged at_
    have free : wayFree s die line = true := by simp [wayFree, at_]
    have enters : enterSlice s die line = s := if_neg (by simp [at_])
    rw [exec_dirOwnershipRequest, execDirOwnershipRequest, pending, enters, makeWay_free free]
    exact if_pos (by simp [serves, mayTake_free untagged free])
  · intro die line l outer inPackage alive untagged room any noLease
    obtain ⟨free, leased⟩ := remoteOwnership_ready room noLease
    have away : line / 2 ^ 41 ≠ 0 := by omega
    have goes : ¬ (lineHome line = 0 ∨ 8 ≤ die ∨ pkgAlive s (lineHome line - 1) = false ∨ mayTake s die line = false) := by
      have takes := mayTake_free untagged (wayFree_of_room room)
      simp only [away, lineHome, alive, takes, Nat.not_le.2 inPackage, or_false, Bool.true_eq_false, not_false_eq_true]
    have owns : exec (.remoteOwnership die line) s = .next (putL2 (makeWay (withL2 s (s.coh.l2.filter fun x => x.line != line)) die line)
        ⟨die, line, line / 2 ^ 41, .m,
          remoteData (withL2 s (s.coh.l2.filter fun x => !(x.line == line && x.lease.isSome))) line, 0, none, false, none, none⟩) :=
      (exec_remoteOwnership die line s).trans (if_neg goes)
    have data : remoteData (withL2 s s.coh.l2) line = l.data := by
      rw [remoteData, show l2Any (withL2 s s.coh.l2) line = some l from any]
    have others : ((s.coh.l2.filter fun x => x.line != line).filter fun x => !(x.die == die && x.line == line)) =
        s.coh.l2.filter fun x => x.line != line :=
      List.filter_eq_self.2 fun x hx => by simp [show x.line ≠ line from by simpa using (List.mem_filter.1 hx).2]
    rw [owns, makeWay_free free, leased, data, putL2, withL2]
    simp only [others]

end Sys2Proof.Laws

end

section

/-! ## What the hub writes where nothing is on chip, and fields of records (R9, R337, R364; for O50 and O55) -/

namespace Sys2Proof.Machine

open Sys2Proof

/-! ### Numbers as bytes (R9) -/

theorem ofLeBytes_leBytes (n x : Nat) : ofLeBytes (leBytes n x) = x % 2 ^ (8 * n) := by
  induction n generalizing x with
  | zero => simp [leBytes, ofLeBytes, Nat.mod_one]
  | succ n ih =>
    rw [leBytes, ofLeBytes, ih, BitVec.toNat_ofNat, show 8 * (n + 1) = 8 + 8 * n from by ring, Nat.pow_add, Nat.mod_mul]

/-- A field that stands first. -/
theorem recAt_first (n x : Nat) (rest : List Byte) : recAt (leBytes n x ++ rest) 0 n = x % 2 ^ (8 * n) := by
  rw [recAt, List.drop_zero, List.take_append_of_le_length (by rw [length_leBytes]), List.take_of_length_le (by rw [length_leBytes]),
    ofLeBytes_leBytes]

/-- A field behind another. -/
theorem recAt_behind {n off : Nat} (behind : n ≤ off) (x m : Nat) (rest : List Byte) :
    recAt (leBytes n x ++ rest) off m = recAt rest (off - n) m := by
  rw [recAt, recAt, List.drop_append, length_leBytes, List.drop_of_length_le (by rwa [length_leBytes]), List.nil_append]

/-! ### Writes of the hub (R337) -/

/-- A state with no parked, cached, remote or poisoned line, and none on its way home or in part with a core. -/
structure NothingOut (s : State) : Prop where
  lockets : s.coh.lockets = []
  l2 : s.coh.l2 = []
  wbacks : s.coh.wbacks = []
  partials : s.coh.partials = []
  remote : s.coh.remote = []
  poison : s.mem.poison = []

section NothingOut

variable {s : State} (out : NothingOut s)

include out

/-- The hub's write to its own tables changes bytes of memory, and the notes of what was written when. -/
theorem hubWrite_nothingOut (pa n v : Nat) : hubWrite s pa n v = { stampWrite s (lineOf pa) (pa % 128) n with
    mem := { s.mem with bytes := putBytes s.mem.bytes pa (leBytes n v) } } := by
  obtain ⟨lockets, l2, wbacks, partials, remote, poison⟩ := out
  have ready : hubReady s (lineOf pa) = s := hubReady_eq partials (by simp [remote]) _
  have landed : landLine (stampWrite s (lineOf pa) (pa % 128) n) (lineOf pa) = stampWrite s (lineOf pa) (pa % 128) n :=
    landLine_none (by simp [wbAt, stampWrite, wbacks])
  have notParked : locketAt (stampWrite s (lineOf pa) (pa % 128) n) (lineOf pa) = none := by simp [locketAt, stampWrite, lockets]
  have notHeld : l2Any (stampWrite s (lineOf pa) (pa % 128) n) (lineOf pa) = none := by simp [l2Any, stampWrite, l2]
  have kept : hubLost s none pa = false := by simp [hubLost, poisoned, poison, roLine, l2]
  rw [hubWrite, hubStore, ready, hubPut]
  unfold hubPutAs
  simp only [landed, notParked, notHeld, kept, Bool.false_eq_true, if_false]
  rfl

theorem NothingOut.hubWrite (pa n v : Nat) : NothingOut (Machine.hubWrite s pa n v) := by
  rw [hubWrite_nothingOut out]
  exact ⟨out.lockets, out.l2, out.wbacks, out.partials, out.remote, out.poison⟩

theorem memByte_hubWrite (pa n v : Nat) : (∀ k, k < n → memByte (Machine.hubWrite s pa n v) (pa + k) = BitVec.ofNat 8 (v / 2 ^ (8 * k))) ∧
    ∀ a, a < pa ∨ pa + n ≤ a → memByte (Machine.hubWrite s pa n v) a = memByte s a :=
  memByte_putBytes_le (by rw [hubWrite_nothingOut out])

/-- The hub reads its own tables from memory. -/
theorem hubRead_nothingOut (pa n : Nat) : hubRead s pa n = ofLeBytes ((List.range n).map fun k => memByte s (pa + k)) := by
  have none : chipLine s (lineOf pa) = Option.none := by
    simp [chipLine, locketAt, l2Owner, wbAt, l2Any, out.lockets, out.l2, out.wbacks]
  rw [hubRead, none]

/-- A word that the hub has written reads back, and another word reads as before. -/
theorem hubRead_hubWrite_self (pa n v : Nat) : hubRead (Machine.hubWrite s pa n v) pa n = v % 2 ^ (8 * n) := by
  rw [hubRead_nothingOut (out.hubWrite pa n v), ← ofLeBytes_leBytes]
  congr 1
  refine List.ext_getElem (by simp [length_leBytes]) fun k inside short => ?_
  have below : k < n := by simpa using inside
  rw [List.getElem_map, List.getElem_range, (memByte_hubWrite out pa n v).1 k below]
  exact Option.some_inj.1 ((getElem?_leBytes below v).symm.trans (List.getElem?_eq_getElem short))

theorem hubRead_hubWrite_other {pa n : Nat} (v : Nat) {pa' n' : Nat} (apart : pa' + n' ≤ pa ∨ pa + n ≤ pa') :
    hubRead (Machine.hubWrite s pa n v) pa' n' = hubRead s pa' n' := by
  rw [hubRead_nothingOut (out.hubWrite pa n v), hubRead_nothingOut out]
  congr 1
  refine List.map_congr_left fun k below => (memByte_hubWrite out pa n v).2 _ ?_
  have := List.mem_range.1 below
  omega

/-- Bytes that the hub writes at ascending addresses stand there. -/
theorem memByte_hubWriteBytes (pa : Nat) (bs : List Byte) : (∀ i b, bs[i]? = some b → memByte (hubWriteBytes s pa bs) (pa + i) = b) ∧
    ∀ a, a < pa → memByte (hubWriteBytes s pa bs) a = memByte s a := by
  induction bs generalizing s pa with
  | nil => exact ⟨fun i b none => by simp at none, fun _ _ => rfl⟩
  | cons b bs ih =>
    obtain ⟨rest, before⟩ := ih (out.hubWrite pa 1 b.toNat) (pa + 1)
    obtain ⟨here, others⟩ := memByte_hubWrite out pa 1 b.toNat
    refine ⟨fun i b' at_ => ?_, fun a below => (before a (by omega)).trans (others a (.inl below))⟩
    cases i with
    | zero =>
      obtain rfl := Option.some_inj.1 at_
      refine (before pa (by omega)).trans ((here 0 (by omega)).trans ?_)
      simp
    | succ i =>
      rw [List.getElem?_cons_succ] at at_
      rw [show pa + (i + 1) = pa + 1 + i from by omega]
      exact rest i b' at_

end NothingOut

/-! ### Writes through a context's translations -/

theorem besideMemory_hubWriteGo (ctx fuel : Nat) (s : State) (va : Nat) (bs : List Byte) :
    besideMemory (hubWriteGo s ctx fuel va bs) = besideMemory s := by
  induction fuel generalizing s va bs with
  | zero => rfl
  | succ fuel ih =>
    rw [hubWriteGo]
    split
    · rfl
    · refine (ih _ _ _).trans ?_
      split
      · exact (besideMemory_hubStore ..).trans (besideMemory_setAD ..)
      · rfl

theorem besideMemory_hubWriteVa (s : State) (ctx va : Nat) (bs : List Byte) : besideMemory (hubWriteVa s ctx va bs) = besideMemory s :=
  besideMemory_hubWriteGo ..

end Sys2Proof.Machine

end

section

/-! ## Scan-out and resumption (18_faults_preemption.md; O55) -/

namespace Sys2Proof.Machine

open Sys2Proof

/-! ### The image of a strand (R364) -/

theorem fieldOf_short {n : Nat} {b : List Byte} (fits : b.length ≤ n) : ∃ pad, fieldOf n b = b ++ pad :=
  ⟨_, by rw [fieldOf, List.take_append, List.take_of_length_le fits]⟩

theorem imgHead_eq (t : Thread) (st : Seat) : ∃ lpc flags : Nat, imgHead t st = fieldOf 64 (imgWord t.pc ++ leBytes 8 lpc
    ++ leBytes 4 st.am.toNat ++ leBytes 4 st.seated.toNat ++ leBytes 2 t.toks.length ++ leBytes 1 t.aflags.toNat
    ++ leBytes 1 t.aenable.toNat ++ leBytes 4 flags ++ imgWord t.wct ++ imgWord t.pkdem ++ imgWord t.batch) :=
  ⟨_, _, rfl⟩

theorem strandImage_begins (s : State) (t : Thread) (st : Seat) : ∃ rest, strandImage s t st = imgHead t st ++ rest := by
  unfold strandImage
  simp only [List.append_assoc]
  exact ⟨_, rfl⟩

/-- A strand's image begins with its counters, masks and flags at fixed places. -/
theorem strandImage_head (s : State) (t : Thread) (st : Seat) : ∃ (lpc flags : Nat) (rest : List Byte), strandImage s t st =
    leBytes 8 t.pc.toNat ++ (leBytes 8 lpc ++ (leBytes 4 st.am.toNat ++ (leBytes 4 st.seated.toNat ++ (leBytes 2 t.toks.length
      ++ (leBytes 1 t.aflags.toNat ++ (leBytes 1 t.aenable.toNat ++ (leBytes 4 flags ++ (leBytes 8 t.wct.toNat
        ++ (leBytes 8 t.pkdem.toNat ++ (leBytes 8 t.batch.toNat ++ rest)))))))))) := by
  obtain ⟨lpc, flags, head⟩ := imgHead_eq t st
  obtain ⟨rest, image⟩ := strandImage_begins s t st
  obtain ⟨pad, padded⟩ := fieldOf_short (n := 64) (b := imgWord t.pc ++ leBytes 8 lpc ++ leBytes 4 st.am.toNat ++ leBytes 4 st.seated.toNat
    ++ leBytes 2 t.toks.length ++ leBytes 1 t.aflags.toNat ++ leBytes 1 t.aenable.toNat ++ leBytes 4 flags ++ imgWord t.wct
    ++ imgWord t.pkdem ++ imgWord t.batch) (by simp [length_leBytes, imgWord])
  refine ⟨lpc, flags, pad ++ rest, ?_⟩
  rw [image, head, padded]
  simp only [imgWord, List.append_assoc]

/-- A bit vector read from a field that is wide enough. -/
theorem ofNat_recAt_first {w n : Nat} (fits : w ≤ 8 * n) (x : BitVec w) (rest : List Byte) :
    BitVec.ofNat w (recAt (leBytes n x.toNat ++ rest) 0 n) = x := by
  rw [recAt_first, Nat.mod_eq_of_lt (x.isLt.trans_le (Nat.pow_le_pow_right (by decide) fits)), BitVec.ofNat_toNat, BitVec.setWidth_eq]

/-- What an image gives back of the head of a strand. -/
theorem readStrand_strandImage (s : State) (t : Thread) (st : Seat) :
    let u := readStrand (strandImage s t st) t st
    u.pc = t.pc ∧ u.wct = t.wct ∧ u.aflags = t.aflags ∧ u.aenable = t.aenable ∧ u.pkdem = t.pkdem ∧ u.batch = t.batch ∧
      ∃ st', u.seat = some st' ∧ st'.am = st.am ∧ st'.seated = st.seated := by
  obtain ⟨lpc, flags, rest, image⟩ := strandImage_head s t st
  intro u
  simp only [u, readStrand, readSeat, wordAt, halfAt, image]
  refine ⟨?_, ?_, ?_, ?_, ?_, ?_, _, rfl, ?_, ?_⟩
  all_goals simp [ofNat_recAt_first, recAt_behind]

/-! ### Resumption without a unit away (R365) -/

section Resume

variable {s : State} {c : Nat} (seated : ∀ p ∈ s.threads, ∀ st, p.2.seat = some st → st.core < 1024)
  (here : ∀ w ∈ s.wgs, (launchOf s w.2.launch).ctx = c → w.2.core < 1024 ∧ w.2.sramOut = false ∧ w.2.engOut = false)

include seated in
theorem savedStrands_none : savedStrands s c = [] := by
  refine List.filterMap_eq_nil_iff.2 fun p hp => ?_
  cases seat : p.2.seat with
  | none => rfl
  | some st => exact if_neg fun away => absurd away.2 (Nat.not_le.2 (seated p hp st seat))

include here in
theorem savedWgs_none : savedWgs s c = [] := by
  refine List.filter_eq_nil_iff.2 fun w hw => ?_
  by_cases own : (launchOf s w.2.launch).ctx = c
  · obtain ⟨-, sram, eng⟩ := here w hw own
    simp [sram, eng]
  · simp [own]

include seated in
theorem strandsOut_none (wg : Nat) : strandsOut s wg = [] := by
  have nobody : (s.threads.filter fun p => p.2.seat.any fun st => st.wg == wg && decide (savedCore ≤ st.core)) = [] :=
    List.filter_eq_nil_iff.2 fun p hp => by
      cases seat : p.2.seat with
      | none => simp
      | some st => simp [Nat.not_le.2 (show st.core < savedCore from seated p hp st seat)]
  rw [strandsOut, nobody]
  rfl

include seated here

theorem restoreImages_none : restoreImages s c = s := by
  unfold restoreImages
  simp only [savedStrands_none seated, restoreStrands, savedWgs_none here, restoreWgs]

/-- A context with no unit away runs again as it stands, its engine operations no longer halted. -/
theorem exec_contextResume_whole {x : Ctx} (listed : tabFind s.ctxs c = some x) (off : x.fcb.state = 2 ∨ x.fcb.state = 3)
    (reached : physWaits s x.fcb.saveBase.toNat x.saveUsed false = false)
    (free : ∀ k ∈ ctxCores s c, wanted s k (ctxPrio s c) = false) :
    ∃ f g : Ctx → Ctx, (∀ y, (g y).frozen = false ∧ (g y).preAt = none) ∧ exec (.contextResume c) s =
      .next (setCtxState (modCtx { modCtx s c f with
        engq := s.engq.map fun o => (o.1, if o.2.ctx = c then { o.2 with halted := false } else o.2) } c g) c 0) := by
  let lent (y : Ctx) : Ctx := { y with claims := [], saved := [], saveUsed := 0 }
  let runs (y : Ctx) : Ctx := { y with frozen := false, preAt := none, told := 0, saveShort := false }
  refine ⟨lent, runs, fun y => ⟨rfl, rfl⟩, ?_⟩
  have goes : ¬ ((x.fcb.state ≠ 2 ∧ x.fcb.state ≠ 3) ∨ physWaits s x.fcb.saveBase.toNat x.saveUsed false = true) := by
    simp only [reached, Bool.false_eq_true, or_false]
    omega
  have whole : ((modCtx s c lent).wgs.filter fun w => (launchOf s w.2.launch).ctx == c &&
      (decide (savedCore ≤ w.2.core) || w.2.sramOut || w.2.engOut || !(strandsOut (modCtx s c lent) w.1).isEmpty)) = [] := by
    refine List.filter_eq_nil_iff.2 fun w hw => ?_
    by_cases own : (launchOf s w.2.launch).ctx = c
    · obtain ⟨core, sram, eng⟩ := here w hw own
      simp [sram, eng, strandsOut_none (s := modCtx s c lent) seated, Nat.not_le.2 (show w.2.core < savedCore from core)]
    · simp [own]
  have spare : ((ctxCores (modCtx s c lent) c).any fun k => wanted s k (ctxPrio s c)) = false :=
    List.any_eq_false.2 fun k hk => Bool.eq_false_iff.1 (free k hk)
  rw [exec_contextResume, execContextResume, onCtx_listed listed, if_neg goes]
  simp only [restoreImages_none seated here, savedStrands_none seated, List.map_nil, List.foldl_nil]
  rw [show (fun y : Ctx => { y with claims := [], saved := [], saveUsed := 0 }) = lent from rfl, whole]
  simp only [reseatAll, spare, Bool.false_eq_true, if_false]
  rfl

end Resume

end Sys2Proof.Machine

end

section

/-! ## Engine operations that run on to a cursor keep the contexts registered (R310, R363; O55) -/

namespace Sys2Proof.Machine

open Sys2Proof

/-! ### What engines read and write leaves the contexts alone -/

/-- What an engine's access leaves when it is made keeps the table of contexts. -/
def KeepsCtxs {α : Type} (s : State) (r : Eng α) : Prop := ∀ s' a, r = .ok (s', a) → s'.ctxs = s.ctxs

theorem KeepsCtxs.error {α : Type} {s : State} (m : Meet) : KeepsCtxs s (.error m : Eng α) := fun _ _ => nofun

theorem KeepsCtxs.ok {α : Type} {s s' : State} {a : α} (same : s'.ctxs = s.ctxs) : KeepsCtxs s (.ok (s', a) : Eng α) :=
  fun _ _ made => by cases made; exact same

theorem ctxs_combine (s : State) (line : Nat) : (combine s line).ctxs = s.ctxs := ctxs_of_besideMemory (besideMemory_combine s line)

theorem ctxs_enterSlice (s : State) (die line : Nat) : (enterSlice s die line).ctxs = s.ctxs :=
  ctxs_of_besideMemory (besideMemory_enterSlice s die line)

theorem ctxs_commitPos (s : State) (die line : Nat) (reads writes : Bool) : (commitPos s die line reads writes).ctxs = s.ctxs :=
  ctxs_of_besideMemory (besideMemory_commitPos s die line reads writes)

theorem ctxs_makeWay_recallExcl (s : State) (die line : Nat) : (makeWay (recallExcl s line) die line).ctxs = s.ctxs :=
  ctxs_of_besideMemory ((besideMemory_makeWay (recallExcl s line) die line).trans rfl)

theorem ctxs_engLost (s : State) (pa : Nat) : (engLost s pa).ctxs = s.ctxs := by
  unfold engLost
  dsimp only
  split
  · rfl
  · exact ctxs_of_besideMemory ((besideMemory_poisonLine _ _).trans rfl)

theorem keepsCtxs_engXl (s : State) (o : EngOp) (va : Nat) (write : Bool) : KeepsCtxs s (engXl s o va write) := by
  unfold engXl
  split
  · exact .error _
  · split
    · exact .error _
    · split
      · exact .error _
      · exact .ok (ctxs_of_besideMemory (besideMemory_noteAccess ..))

theorem keepsCtxs_engLine (s : State) (o : EngOp) (va n : Nat) : KeepsCtxs s (engLine s o va n) := by
  unfold engLine
  split
  · exact .error _
  · exact .ok rfl
  · split
    · exact .error _
    next s0 x translated =>
      have seen := keepsCtxs_engXl s o va false _ _ translated
      extract_lets +onlyGivenNames line die
      split
      · exact .error _
      · split
        · exact .error _
        · extract_lets +onlyGivenNames s1 away
          have entered : s1.ctxs = s.ctxs := ((ctxs_enterSlice ..).trans (ctxs_combine ..)).trans seen
          split
          · exact .error _
          · extract_lets +onlyGivenNames s2
            have located : s2.ctxs = s.ctxs := by
              unfold s2
              split
              · exact (ctxs_of_besideMemory (besideMemory_locateResolve ..)).trans entered
              · exact entered
            split
            · exact .ok located
            · split
              · exact .error _
              next s3 d filled =>
                have fills := ctxs_of_besideMemory (besideMemory_of_fillLine filled)
                exact .ok ((ctxs_commitPos ..).trans (fills.trans ((ctxs_makeWay_recallExcl ..).trans located)))

theorem keepsCtxs_engFetch (o : EngOp) (ps : List (Nat × Nat)) (s : State) (f : Fetched) : KeepsCtxs s (engFetch s o ps f) := by
  induction ps generalizing s f with
  | nil => exact .ok rfl
  | cons p ps ih =>
    obtain ⟨va, n⟩ := p
    rw [engFetch]
    split
    · exact ih s f
    · split
      · exact .error _
      next s1 e read => exact fun s' a made => (ih s1 _ s' a made).trans (keepsCtxs_engLine s o va n _ _ read)

theorem keepsCtxs_engWrite (s : State) (o : EngOp) (va : Nat) (bytes : List Byte) : KeepsCtxs s (engWrite s o va bytes) := by
  unfold engWrite
  extract_lets +onlyGivenNames n v
  split
  · exact .error _
  · exact .ok rfl
  · split
    · exact .error _
    next s0 x translated =>
      have seen := keepsCtxs_engXl s o va true _ _ translated
      extract_lets +onlyGivenNames line off die lost
      split
      · exact .error _
      · split
        · exact .ok ((ctxs_engLost ..).trans seen)
        · extract_lets +onlyGivenNames s1
          have entered : s1.ctxs = s.ctxs := ((ctxs_enterSlice ..).trans (ctxs_combine ..)).trans seen
          split
          · exact .ok entered
          · split
            next s2 sub taken =>
              have takes := ctxs_of_besideMemory (besideMemory_of_takeOwnership taken)
              exact .ok ((ctxs_engLost ..).trans (takes.trans ((ctxs_makeWay_recallExcl ..).trans entered)))
            next s2 d taken =>
              have takes := ctxs_of_besideMemory (besideMemory_of_takeOwnership taken)
              have commits : (commitPos s2 die line false true).ctxs = s.ctxs :=
                (ctxs_commitPos ..).trans (takes.trans ((ctxs_makeWay_recallExcl ..).trans entered))
              exact .ok commits

theorem ctxs_makeLocket (s : State) (line : Nat) (set : RSet) (force : Nat) (lv : Level) (data : LineData) (key ctx launch : Nat) :
    (makeLocket s line set force lv data key ctx launch).ctxs = s.ctxs := by
  unfold makeLocket
  extract_lets +onlyGivenNames tag s0 _ s1
  have made : s1.ctxs = s0.ctxs := (ctxs_of_besideMemory (besideMemory_makeRoom _ lv line)).trans rfl
  exact made.trans (ctxs_of_besideMemory (besideMemory_landLine s line))

theorem ctxs_foldl_addPkdem (ms : List Nat) (n : Nat) (s : State) : (ms.foldl (fun acc m => addPkdem acc m n) s).ctxs = s.ctxs :=
  foldl_keeps State.ctxs (f := fun acc m => addPkdem acc m n) (fun _ _ => rfl) ms s

theorem keepsCtxs_engStk (s : State) (o : EngOp) (va : Nat) (bytes : List Byte) : KeepsCtxs s (engStk s o va bytes) := by
  have write {s' : State} (same : s'.ctxs = s.ctxs) : KeepsCtxs s (engWrite s' o va bytes) :=
    fun s'' a made => (keepsCtxs_engWrite s' o va bytes s'' a made).trans same
  unfold engStk
  split
  · exact write rfl
  · split
    · exact .error _
    next s0 x translated =>
      have seen := keepsCtxs_engXl s o va true _ _ translated
      extract_lets +onlyGivenNames line l plain
      split
      · exact write rfl
      · split
        · exact .error _
        · extract_lets +onlyGivenNames force place s1
          have combined : s1.ctxs = s.ctxs := (ctxs_foldl_addPkdem ..).trans ((ctxs_combine ..).trans seen)
          split
          · exact write ((ctxs_of_besideMemory (besideMemory_unpark ..)).trans combined)
          · exact write combined
          · extract_lets +onlyGivenNames off n d' w s2
            have parked : s2.ctxs = s.ctxs := by
              unfold s2
              split
              · exact (ctxs_of_besideMemory (besideMemory_makeRoom (revokeParked s1 line) _ line)).trans combined
              · exact (ctxs_makeLocket ..).trans combined
            exact .ok parked

theorem ctxs_engWriteRun (o : EngOp) (fuel : Nat) (s : State) (va : Nat) (bytes : List Byte) (n : Nat) (w : Wrote) :
    (engWriteRun o fuel s va bytes n w).1.ctxs = s.ctxs := by
  induction fuel generalizing s va bytes n w with
  | zero => rfl
  | succ fuel ih =>
    unfold engWriteRun
    split
    · rfl
    · dsimp only
      split
      · rfl
      next s1 w1 written => exact (ih ..).trans (keepsCtxs_engWrite _ _ _ _ _ _ written)

theorem ctxs_collWrite (s : State) (o : EngOp) (c : Coll) (a b : Nat) : (collWrite s o c a b).1.ctxs = s.ctxs := ctxs_engWriteRun ..

theorem keepsCtxs_mxRun (s : State) (o : EngOp) (m : Mx) (k0 k1 : Nat) : KeepsCtxs s (mxRun s o m k0 k1) := by
  unfold mxRun
  extract_lets +onlyGivenNames s0 rows held
  split
  · exact .error _
  next s1 fa fetched =>
    have first : s1.ctxs = s.ctxs := keepsCtxs_engFetch _ _ s0 _ _ _ fetched
    split
    · exact .error _
    · split
      · exact .error _
      next s2 fb fetched' =>
        have second : s2.ctxs = s.ctxs := (keepsCtxs_engFetch _ _ s1 _ _ _ fetched').trans first
        exact .ok second

theorem ctxs_readRun (o : EngOp) (scr : Bool) (n a : Nat) (s : State) (acc : List Byte) : (readRun s o scr n a acc).1.ctxs = s.ctxs := by
  induction n generalizing s a acc with
  | zero => rfl
  | succ n ih =>
    unfold readRun
    split
    · exact ih ..
    · split
      · rfl
      · rfl
      next s1 e read => exact (ih ..).trans (keepsCtxs_engLine _ _ _ _ _ _ read)

theorem ctxs_copyRun (o : EngOp) (f : BitVec 4) (fuel : Nat) (c : Copied) (limit : Nat) : (copyRun o f fuel c limit).s.ctxs = c.s.ctxs := by
  induction fuel generalizing c with
  | zero => rfl
  | succ fuel ih =>
    unfold copyRun
    split
    split
    · rfl
    · extract_lets +onlyGivenNames r off src dst k rd wr
      have reads : rd.1.ctxs = c.s.ctxs := ctxs_readRun ..
      have writes : KeepsCtxs c.s wr := by
        unfold wr
        split
        · exact .ok reads
        · split
          · exact .ok reads
          · split
            · exact fun s' a made => (keepsCtxs_engStk _ _ _ _ s' a made).trans reads
            · exact fun s' a made => (keepsCtxs_engWrite _ _ _ _ s' a made).trans reads
      clear_value wr
      split
      · rfl
      next s1 w =>
        have wrote : s1.ctxs = c.s.ctxs := writes s1 w rfl
        dsimp only
        split
        · exact wrote
        · exact (ih _).trans wrote

theorem ctxs_runCopy (s : State) (o : EngOp) (f : BitVec 4) (limit : Nat) : (runCopy s o f limit).s.ctxs = s.ctxs := ctxs_copyRun ..

/-! ### The end of an operation and of a chunk -/

/-- A context id that has an entry. -/
def Registered (c : Nat) (s : State) : Prop := ∃ x, tabFind s.ctxs c = some x

theorem Registered.keep {c : Nat} {s s' : State} (there : Registered c s) (same : s'.ctxs = s.ctxs) : Registered c s' := by
  rwa [Registered, same]

theorem Registered.modCtx {c : Nat} {s : State} (there : Registered c s) (k : Nat) (f : Ctx → Ctx) : Registered c (Machine.modCtx s k f) := by
  obtain ⟨x, listed⟩ := there
  refine ⟨if c = k then f x else x, ?_⟩
  rw [Machine.modCtx, tabFind_tabMod, listed]
  split <;> rfl

theorem Registered.queueRec {c : Nat} {s : State} (there : Registered c s) (ctx launch : Nat) (r : Rec) :
    Registered c (Machine.queueRec s ctx launch r) :=
  (there.modCtx ctx fun x => { x with recs := x.recs ++ [r] }).keep rfl

theorem ctxs_leaveQueue (s : State) (id : Nat) (o : EngOp) : (leaveQueue s id o).ctxs = s.ctxs := by
  have arrives (b : Nat × BitVec 8) : (engArrive s o.wg b o.wrote).1.ctxs = s.ctxs := by
    unfold engArrive
    dsimp only
    split <;> rfl
  unfold leaveQueue
  extract_lets +onlyGivenNames r s1
  have first : r.1.ctxs = s.ctxs := by
    unfold r
    split
    · exact arrives _
    · rfl
  have second : s1.ctxs = s.ctxs := by
    unfold s1
    split
    next w _ => exact (foldl_keeps State.ctxs (f := fun acc m => modThr acc m fun t => { t with mark := some w }) (fun _ _ => rfl) ..).trans first
    next => exact first
  exact second

theorem Registered.finish {c : Nat} {s : State} (there : Registered c s) (id : Nat) (o : EngOp) (e : Ending) :
    Registered c (Machine.finish s id o e) := by
  unfold Machine.finish
  extract_lets +onlyGivenNames o1 s0 s1
  have noted : s1.ctxs = s.ctxs := by
    have counted : s0.ctxs = s.ctxs := by
      unfold s0
      split <;> rfl
    unfold s1
    split <;> exact counted
  have still := there.keep noted
  split
  · exact still.queueRec ..
  · exact still.keep (ctxs_leaveQueue ..)

theorem ctxs_fetchAhead (s : State) (o : EngOp) (m : Mx) (k0 k1 : Nat) : (fetchAhead s o m k0 k1).1.ctxs = s.ctxs := by
  unfold fetchAhead
  extract_lets +onlyGivenNames want n
  refine foldl_keeps (fun acc : State × Fetched => acc.1.ctxs) (fun acc p => ?_) _ _
  split
  · rfl
  next s1 f fetched =>
    have same := keepsCtxs_engFetch _ _ _ _ _ _ fetched
    dsimp only
    split
    · exact same
    · exact same

theorem ctxs_chunkDone (s : State) (id : Nat) (o : EngOp) (done : Nat) (f : EngOp → EngOp) : (chunkDone s id o done f).ctxs = s.ctxs := by
  have begins (s1 : State) (o1 : EngOp) : (beginOp s1 id o1).ctxs = s1.ctxs := by
    unfold beginOp
    split
    · exact ctxs_fetchAhead ..
    · rfl
  unfold chunkDone
  extract_lets +onlyGivenNames _ o1 s1
  have written : s1.ctxs = s.ctxs := ctxs_of_besideMemory (besideMemory_hubWriteVa ..)
  split
  · exact written
  · exact (begins _ _).trans written

theorem Registered.chunkDone {c : Nat} {s : State} (there : Registered c s) (id : Nat) (o : EngOp) (done : Nat) (f : EngOp → EngOp) :
    Registered c (Machine.chunkDone s id o done f) :=
  there.keep (ctxs_chunkDone ..)

/-- An operation that comes to a cursor leaves the contexts registered. -/
theorem Registered.runOut {c : Nat} {s : State} (there : Registered c s) (id : Nat) (o : EngOp) {s' : State}
    (ran : Machine.runOut s id o = some s') : Registered c s' := by
  unfold Machine.runOut at ran
  extract_lets +onlyGivenNames free at ran
  split at ran
  · cases ran; exact there
  · split at ran
    · extract_lets +onlyGivenNames k1 at ran
      split at ran
      · cases ran; exact there.chunkDone ..
      · split at ran
        · cases ran
        · cases ran; exact (there.keep (s' := dropHold s o.core) rfl).finish ..
        next s1 sums a runs =>
          cases ran
          exact (there.keep (keepsCtxs_mxRun _ _ _ _ _ _ _ runs)).chunkDone ..
    · split at ran
      extract_lets +onlyGivenNames cp at ran
      have copied : Registered c cp.s := there.keep (ctxs_runCopy ..)
      split at ran
      · cases ran; exact copied.finish ..
      · cases ran; exact copied.chunkDone ..
    · split at ran
      · cases ran; exact there
      · split at ran
        next s1 n w st va wrote =>
          cases ran
          exact (there.keep ((congrArg (·.1.ctxs) wrote).symm.trans (ctxs_collWrite ..)) : Registered c s1).finish ..
        next s1 n w m _ wrote =>
          cases ran
          exact (there.keep ((congrArg (·.1.ctxs) wrote).symm.trans (ctxs_collWrite ..)) : Registered c s1).chunkDone ..
    · cases ran; exact there.chunkDone ..

theorem Registered.runOutAll {c : Nat} {s : State} (there : Registered c s) (core : Nat) {s' : State}
    (ran : Machine.runOutAll s c core = some s') : Registered c s' := by
  have all (l : List (Nat × EngOp)) (acc : Option State) (held : ∀ s1, acc = some s1 → Registered c s1) (s1 : State)
      (ran : (l.foldl (fun acc o => acc.bind fun s1 => Machine.runOut s1 o.1 o.2) acc) = some s1) : Registered c s1 := by
    induction l generalizing acc with
    | nil => exact held s1 ran
    | cons o l ih =>
      refine ih _ (fun s2 runs => ?_) ran
      obtain ⟨s0, was, runs⟩ := Option.bind_eq_some_iff.1 runs
      exact (held s0 was).runOut _ _ runs
  exact all _ (some s) (fun s1 is_ => by cases is_; exact there) s' ran

end Sys2Proof.Machine

end

section

/-! ## Units that are saved (R363, R364; O55) -/

namespace Sys2Proof.Machine

open Sys2Proof

/-! ### A unit that is vacated (R363) -/

theorem foldl_quadOrHome_frame (ks : List Locket) (core : Nat) (s : State) :
    ∃ m co, ks.foldl (fun acc x => quadOrHome acc x core) s = { s with mem := m, coh := co } := by
  induction ks generalizing s with
  | nil => exact ⟨s.mem, s.coh, rfl⟩
  | cons k ks ih =>
    obtain ⟨m, co, first⟩ := quadOrHome_eq s k core
    obtain ⟨m', co', rest⟩ := ih { s with mem := m, coh := co }
    exact ⟨m', co', by rw [List.foldl_cons, first, rest]⟩

section Vacate

variable (s : State) (c core : Nat)

/-- The workgroups of a core that are the context's, changed. -/
def mineOut (s1 : State) (f : Wg → Wg) : State :=
  { s1 with wgs := s1.wgs.map fun w => (w.1, if w.2.core = core ∧ (launchOf s w.2.launch).ctx == c then f w.2 else w.2) }

/-- A workgroup of the context all of whose parts on the core have been saved leaves it. -/
def wholeLeaves (s1 : State) : State :=
  { s1 with wgs := s1.wgs.map fun w => (w.1, if w.2.core = core ∧ (launchOf s w.2.launch).ctx == c ∧ wgSaved s1 w.1 w.2 then
      { w.2 with core := savedCore + core, sramOut := true, engOut := true } else w.2) }

/-- A strand of the partition that is saved leaves the core. -/
def seatLeaves (k : Nat) (st : Seat) : Seat :=
  if st.core = core ∧ st.part = k then { st with core := savedCore + core, active := false } else st

/-- The state in which a partition's strands have left. -/
def partVacated (k : Nat) : State :=
  { s with
    ctxs := (leaveRows s c core k).ctxs
    threads := s.threads.map fun p => (p.1, if p.2.ctx = c then { p.2 with seat := p.2.seat.map (seatLeaves core k) } else p.2) }

/-- The state in which the parked lines of the context's L1 have moved. -/
def parkedMoved : State :=
  (s.coh.lockets.filter fun x => x.level == .l1 core && x.ctx == c).foldl (fun acc x => quadOrHome acc x core) s

theorem vacateUnit_part {k : Nat} (part : k < 4) : vacateUnit s c core k = wholeLeaves s c core (partVacated s c core k) := by
  unfold vacateUnit
  simp only [if_pos part]
  rfl

theorem vacateUnit_sram : ∃ co, vacateUnit s c core 4 =
    wholeLeaves s c core (mineOut s c core { parkedMoved s c core with coh := co } fun w => { w with sramOut := true }) ∧
      (NothingOut s → co.lockets = [] ∧ co.l2 = [] ∧ co.wbacks = [] ∧ co.partials = [] ∧ co.remote = []) := by
  refine ⟨_, rfl, fun out => ?_⟩
  simp only [out.lockets, List.filter_nil, List.foldl_nil, out.l2, out.wbacks, out.partials, out.remote, List.map_nil, and_self]

theorem vacateUnit_eng : ∃ e a, vacateUnit s c core 5 =
    wholeLeaves s c core (mineOut s c core { dropPins s core with engq := e, aholds := a } fun w => { w with engOut := true }) :=
  ⟨_, _, rfl⟩

theorem parkedMoved_eq : ∃ m co, parkedMoved s c core = { s with mem := m, coh := co } := foldl_quadOrHome_frame _ core s

/-- The unit is one of a partition, the SRAM or the matrix engine. -/
theorem launches_vacateUnit {k : Nat} (unit : k < 6) : (vacateUnit s c core k).launches = s.launches := by
  rcases Nat.lt_or_ge k 4 with part | other
  · rw [vacateUnit_part s c core part]; rfl
  · obtain rfl | rfl : k = 4 ∨ k = 5 := by omega
    · obtain ⟨m, co, moved⟩ := parkedMoved_eq s c core
      obtain ⟨co', vacated, -⟩ := vacateUnit_sram s c core
      rw [vacated, moved]
      rfl
    · obtain ⟨e, a, vacated⟩ := vacateUnit_eng s c core
      rw [vacated]
      rfl

variable {s c} in
theorem Registered.vacateUnit (there : Registered c s) {k : Nat} (unit : k < 6) : Registered c (Machine.vacateUnit s c core k) := by
  rcases Nat.lt_or_ge k 4 with part | other
  · rw [vacateUnit_part s c core part]
    exact (there.modCtx c fun y => { y with rows := insertNat y.rows (core * 4 + k) }).keep rfl
  · obtain rfl | rfl : k = 4 ∨ k = 5 := by omega
    · obtain ⟨m, co, moved⟩ := parkedMoved_eq s c core
      obtain ⟨co', vacated, -⟩ := vacateUnit_sram s c core
      rw [vacated, moved]
      exact there.keep rfl
    · obtain ⟨e, a, vacated⟩ := vacateUnit_eng s c core
      rw [vacated]
      exact there.keep rfl

/-- Vacating a partition or the SRAM leaves nothing on chip that was not there. -/
theorem NothingOut.vacateUnit {s : State} (out : NothingOut s) {k : Nat} (noEngine : k < 5) :
    NothingOut (Machine.vacateUnit s c core k) := by
  rcases Nat.lt_or_ge k 4 with part | other
  · rw [vacateUnit_part s c core part]
    exact ⟨out.lockets, out.l2, out.wbacks, out.partials, out.remote, out.poison⟩
  · obtain rfl : k = 4 := by omega
    obtain ⟨co, vacated, none⟩ := vacateUnit_sram s c core
    have stays : parkedMoved s c core = s := by rw [parkedMoved, out.lockets]; rfl
    rw [vacated, stays]
    obtain ⟨lockets, l2, wbacks, partials, remote⟩ := none out
    exact ⟨lockets, l2, wbacks, partials, remote, out.poison⟩

theorem core_saved_ne (core : Nat) : savedCore + core ≠ core := by unfold savedCore; omega

/-- The strands of a partition that is vacated have left the core. -/
theorem coreThreads_vacateUnit {k : Nat} (part : k < 4) : ∀ p ∈ coreThreads (vacateUnit s c core k) c core, p.2.2.part ≠ k := by
  intro p hp
  rw [vacateUnit_part s c core part] at hp
  obtain ⟨q, hq, at_⟩ := List.mem_filterMap.1 hp
  obtain ⟨r, -, rfl⟩ := List.mem_map.1 hq
  by_cases own : r.2.ctx = c
  · cases seat : r.2.seat with
    | none => simp [own, seat] at at_
    | some st =>
      by_cases there : st.core = core ∧ st.part = k
      · simp [own, seat, seatLeaves, there] at at_
        exact absurd at_.1 (by decide)
      · simp only [own, seat, seatLeaves, there, if_true, if_false, Option.map_some, true_and, Option.ite_none_right_eq_some,
          Option.some.injEq] at at_
        obtain ⟨here, rfl⟩ := at_
        exact fun same => there ⟨here, same⟩
  · cases seat : r.2.seat with
    | none => simp [own, seat] at at_
    | some st => simp [own, seat] at at_

/-- A workgroup of the context that is still on the core has been changed as the others there. -/
theorem wgs_wholeLeaves_mineOut {s1 : State} {f : Wg → Wg} {w : Nat × Wg}
    (left : w ∈ (wholeLeaves s c core (mineOut s c core s1 f)).wgs) (here : w.2.core = core) (own : (launchOf s w.2.launch).ctx = c) :
    ∃ g, w.2 = f g := by
  obtain ⟨v, hv, rfl⟩ := List.mem_map.1 left
  dsimp only at here own ⊢
  split at here
  next => exact absurd here (core_saved_ne core)
  next stays =>
    rw [if_neg stays] at own ⊢
    obtain ⟨u, -, rfl⟩ := List.mem_map.1 hv
    dsimp only at here own ⊢
    split at here
    next mine => exact ⟨u.2, if_pos mine⟩
    next other =>
      rw [if_neg other] at own
      exact absurd ⟨here, by simpa using own⟩ other

/-- A unit that is vacated is free of the context. -/
theorem unitHeld_vacateUnit {k : Nat} (unit : k < 6) : unitHeld (vacateUnit s c core k) c core k = false := by
  have launch (l : Nat) : launchOf (vacateUnit s c core k) l = launchOf s l := by
    unfold launchOf
    rw [launches_vacateUnit s c core unit]
  unfold unitHeld
  rcases Nat.lt_or_ge k 4 with part | other
  · rw [if_pos part]
    exact List.any_eq_false.2 fun p hp => by simpa using coreThreads_vacateUnit s c core part p hp
  · rw [if_neg (Nat.not_lt.2 other)]
    refine List.any_eq_false.2 fun w hw => ?_
    rw [launch]
    by_cases mine : w.2.core = core ∧ (launchOf s w.2.launch).ctx = c
    · obtain rfl | rfl : k = 4 ∨ k = 5 := by omega
      · obtain ⟨co, vacated, -⟩ := vacateUnit_sram s c core
        rw [vacated] at hw
        obtain ⟨g, changed⟩ := wgs_wholeLeaves_mineOut s c core hw mine.1 mine.2
        simp [changed]
      · obtain ⟨e, a, vacated⟩ := vacateUnit_eng s c core
        rw [vacated] at hw
        obtain ⟨g, changed⟩ := wgs_wholeLeaves_mineOut s c core hw mine.1 mine.2
        simp [changed]
    · simp only [Bool.and_eq_true, beq_iff_eq, mine, false_and, not_false_eq_true]

end Vacate

theorem unitHeld_congr {s s' : State} (threads : s'.threads = s.threads) (wgs : s'.wgs = s.wgs) (launches : s'.launches = s.launches)
    (c core k : Nat) : unitHeld s' c core k = unitHeld s c core k := by
  unfold unitHeld coreThreads launchOf
  rw [threads, wgs, launches]

theorem ctxCores_congr {s s' : State} (wgs : s'.wgs = s.wgs) (launches : s'.launches = s.launches) (c : Nat) :
    ctxCores s' c = ctxCores s c := by
  unfold ctxCores launchOf
  rw [wgs, launches]

theorem find_setCtxState {s : State} {c : Nat} {x : Ctx} (listed : tabFind s.ctxs c = some x) (st : Nat) :
    tabFind (setCtxState s c st).ctxs c = some { x with fcb := { x.fcb with state := st } } :=
  find_modCtx listed fun y => { y with fcb := { y.fcb with state := st } }

/-- The state in which a unit counts as saved, with the length of what the save area then holds. -/
def unitSaved (s : State) (c unit n : Nat) : State :=
  modCtx s c fun y => { y with claims := unit :: y.claims, saved := unit :: y.saved, saveUsed := n }

/-- The state in which a scan-out ends: a frozen context of which nothing is claimed any more is saved. -/
def scanOutEnds (s : State) (c unit n : Nat) (frozen : Prop) [Decidable frozen] : State :=
  if frozen ∧ stillClaimed (unitSaved s c unit n) c = false then setCtxState (unitSaved s c unit n) c 3 else unitSaved s c unit n

theorem scanOutEnds_frame (s : State) (c unit n : Nat) (frozen : Prop) [Decidable frozen] :
    (scanOutEnds s c unit n frozen).threads = s.threads ∧ (scanOutEnds s c unit n frozen).wgs = s.wgs ∧
      (scanOutEnds s c unit n frozen).launches = s.launches ∧ (scanOutEnds s c unit n frozen).mem = s.mem := by
  unfold scanOutEnds
  split <;> exact ⟨rfl, rfl, rfl, rfl⟩

/-- What the context's entry is then; with no core left to the context nothing of it is claimed. -/
theorem find_scanOutEnds {s : State} {c : Nat} {y : Ctx} (listed : tabFind s.ctxs c = some y) (unit n : Nat) (frozen : Prop)
    [Decidable frozen] : ∃ st, tabFind (scanOutEnds s c unit n frozen).ctxs c = some { y with
      claims := unit :: y.claims, saved := unit :: y.saved, saveUsed := n, fcb := { y.fcb with state := st } } ∧
        (frozen → ctxCores s c = [] → st = 3) := by
  have saved : tabFind (unitSaved s c unit n).ctxs c = _ := find_modCtx listed _
  unfold scanOutEnds
  split
  next => exact ⟨3, find_setCtxState saved 3, fun _ _ => rfl⟩
  next stays =>
    refine ⟨y.fcb.state, saved, fun isFrozen none => absurd ⟨isFrozen, ?_⟩ stays⟩
    rw [stillClaimed, ctxCores_congr (s := s) (s' := unitSaved s c unit n) rfl rfl, none]
    rfl

section ScanOut

variable {s s0 : State} {c core k : Nat} {x : Ctx}

/-- A claimed and quiet unit of a frozen context is written to the save area where that has room. -/
theorem scanOut_writes (unit : k < 6) (listed : tabFind s.ctxs c = some x) (off : x.fcb.state = 2 ∨ x.fcb.state = 3)
    (room : x.saveShort = false) (inPackage : core < 1024) (claim : claimed s c core k = true) (quiet : unitQuiet s c core k = true)
    (ran : if k = 5 then runOutAll s c core = some s0 else s0 = s) :
    exec (.scanOut c (6 * core + k)) s =
      (let image := ctxImages (vacateUnit s0 c core k) c
      if physWaits s x.fcb.saveBase.toNat image.length true then notEnabled "SCAN_OUT"
      else if x.fcb.saveLen.toNat < image.length then .next (setErr (modCtx s c fun y => { y with saveShort := true }) c 0x08)
      else
        needBacked s x.fcb.saveBase.toNat <| .next (scanOutEnds (hubWriteBytes (vacateUnit s0 c core k) x.fcb.saveBase.toNat image) c
          (6 * core + k) image.length (x.fcb.state = 2))) := by
  have number : (6 * core + k) / 6 = core := by omega
  have index : (6 * core + k) % 6 = k := by omega
  have goes : ¬ ((x.fcb.state ≠ 2 ∧ x.fcb.state ≠ 3) ∨ x.saveShort = true ∨ 1024 ≤ core ∨ claimed s c core k = false ∨
      unitQuiet s c core k = false) := by
    simp only [room, claim, quiet, Bool.false_eq_true, Bool.true_eq_false, or_false, false_or]
    omega
  have runs : (if k = 5 then runOutAll s c core else some s) = some s0 := by
    split at ran
    next engine => rw [if_pos engine, ran]
    next other => rw [if_neg other, ran]
  rw [exec_scanOut, execScanOut]
  dsimp only
  rw [number, index, onCtx_listed listed, if_neg goes, runs]
  rfl

end ScanOut

end Sys2Proof.Machine

namespace Sys2Proof.Laws

open Sys2Proof Sys2Proof.Machine

/-- Settles O55. -/
theorem savesAndResumes : Obligations.SavesAndResumes := by
  unfold Obligations.SavesAndResumes
  refine ⟨fun s c x listed => ⟨fun base len => ?_, fun core k s0 unit off room inPackage claim quiet ran => ?_,
    fun off here seated reached free => ?_⟩, fun s t st _ => readStrand_strandImage s t st⟩
  · have acts : execSaveArea c base len s = .next (writeSave s c fun f => { f with saveBase := base, saveLen := len }) := by
      rw [execSaveArea, withFcb_listed listed]
      exact onCtx_listed listed _ _
    rw [exec_saveArea, acts, writeSave, withFcb_listed listed]
  · intro image reached
    have scans := scanOut_writes unit listed off room inPackage claim quiet ran
    dsimp only at scans
    rw [show ctxImages (vacateUnit s0 c core k) c = image from rfl, if_neg (by simp [reached])] at scans
    refine ⟨fun short => scans.trans (if_pos short), fun fits backs => ?_⟩
    rw [if_neg (Nat.not_lt.2 fits), needBacked, if_pos backs] at scans
    have there : Registered c (vacateUnit s0 c core k) := by
      refine Registered.vacateUnit core ?_ unit
      split at ran
      next => exact Registered.runOutAll ⟨x, listed⟩ core ran
      next => exact ran ▸ ⟨x, listed⟩
    have written := besideMemory_hubWriteBytes (vacateUnit s0 c core k) x.fcb.saveBase.toNat image
    obtain ⟨y, still⟩ := there.keep (ctxs_of_besideMemory written)
    obtain ⟨threads, wgs, launches, mem⟩ := scanOutEnds_frame (hubWriteBytes (vacateUnit s0 c core k) x.fcb.saveBase.toNat image) c
      (6 * core + k) image.length (x.fcb.state = 2)
    obtain ⟨state, lists, saves⟩ := find_scanOutEnds still (6 * core + k) image.length (x.fcb.state = 2)
    refine ⟨_, _, scans, ?_, lists, rfl, List.mem_cons_self, fun two none => saves two ?_,
      fun noEngine lockets l2 wbacks partials remote poison i b at_ => ?_⟩
    · rw [unitHeld_congr threads wgs launches, unitHeld_congr (threads_of_besideMemory written) (wgs_of_besideMemory written)
        (launches_of_besideMemory written)]
      exact unitHeld_vacateUnit s0 c core unit
    · rwa [ctxCores_congr wgs launches] at none
    · rw [if_neg noEngine] at ran
      have out : NothingOut (vacateUnit s0 c core k) :=
        NothingOut.vacateUnit c core (ran ▸ ⟨lockets, l2, wbacks, partials, remote, poison⟩) (by omega)
      rw [memByte, mem]
      exact (memByte_hubWriteBytes out _ image).1 i b at_
  · obtain ⟨f, g, made, runs⟩ := exec_contextResume_whole seated here listed off reached free
    refine ⟨_, _, runs, find_setCtxState (find_modCtx (s := { modCtx s c f with engq := _ }) (find_modCtx listed f) g) 0, (made _).1, rfl,
      (made _).2, rfl, rfl, fun e he own => ?_⟩
    obtain ⟨o, -, rfl⟩ := List.mem_map.1 he
    dsimp only at own ⊢
    split at own <;> simp_all

end Sys2Proof.Laws

end

section

/-! ## The sets that lines are parked for, through the hub's writes (R70, R75, R268, R339; for O50) -/

namespace Sys2Proof.Machine

open Sys2Proof

/-! ### Operations that leave the lockets as they are -/

theorem lockets_writeBack (s : State) (l : L2Line) : (writeBack s l).coh.lockets = s.coh.lockets := by
  obtain ⟨m, written⟩ := writeBack_eq s l
  rw [written]

theorem lockets_evictLine (s : State) (die line : Nat) : (evictLine s die line).coh.lockets = s.coh.lockets := by
  unfold evictLine
  split
  · rfl
  · exact ite_keeps (fun x : State => x.coh.lockets) (lockets_landLine (dropL2 s die line) line) rfl

theorem lockets_makeWay (s : State) (die line : Nat) : (makeWay s die line).coh.lockets = s.coh.lockets := by
  unfold makeWay
  split
  · rfl
  · dsimp only
    split
    · exact lockets_evictLine ..
    · rfl

theorem lockets_takeOwnership (s : State) (die line key ctx : Nat) :
    (takeOwnership s die line key ctx).1.coh.lockets = s.coh.lockets := by
  have filled := (lockets_fillLine (landLine s line) die line key ctx).trans (lockets_landLine s line)
  unfold takeOwnership
  split
  next eq => rw [eq] at filled; exact filled
  next => exact filled

theorem lockets_commitPos (s : State) (die line : Nat) (reads writes : Bool) :
    (commitPos s die line reads writes).coh.lockets = s.coh.lockets := by
  obtain ⟨r, eq⟩ := commitPos_eq s die line reads writes
  rw [eq]

theorem lockets_memPut (s : State) (key : Option Nat) (pa n v : Nat) : (memPut s key pa n v).coh.lockets = s.coh.lockets := by
  unfold memPut
  split
  · rfl
  · split <;> rfl

theorem lockets_poisonLine (s : State) (line : Nat) : (poisonLine s line).coh.lockets = s.coh.lockets :=
  ite_keeps (fun x : State => x.coh.lockets) rfl rfl

theorem lockets_recallHome (s : State) (line : Nat) : (recallHome s line).coh.lockets = s.coh.lockets := by
  unfold recallHome
  split
  · exact lockets_writeBack ..
  · rfl

/-! ### Operations after which no line is parked for another set -/

/-- Every line that is parked after was parked before, for the same set. -/
def ParkedFrom (s s' : State) : Prop := ∀ k' ∈ s'.coh.lockets, ∃ k ∈ s.coh.lockets, k.line = k'.line ∧ k.rset = k'.rset

/-- A line is parked for no set but one; for none, it is not parked. -/
def ParkedAs (s : State) (line : Nat) (set : Option RSet) : Prop := ∀ k ∈ s.coh.lockets, k.line = line → set = some k.rset

theorem ParkedFrom.of_subset {s s' : State} (fewer : ∀ k ∈ s'.coh.lockets, k ∈ s.coh.lockets) : ParkedFrom s s' :=
  fun k' listed => ⟨k', fewer k' listed, rfl, rfl⟩

theorem ParkedFrom.of_eq {s s' : State} (same : s'.coh.lockets = s.coh.lockets) : ParkedFrom s s' :=
  .of_subset fun _ listed => same ▸ listed

theorem ParkedFrom.trans {a b c : State} (first : ParkedFrom a b) (second : ParkedFrom b c) : ParkedFrom a c := fun k'' listed =>
  have ⟨k', listed', line', set'⟩ := second k'' listed
  have ⟨k, listed, line, set⟩ := first k' listed'
  ⟨k, listed, line.trans line', set.trans set'⟩

theorem ParkedAs.keep {s s' : State} {line : Nat} {set : Option RSet} (before : ParkedAs s line set) (kept : ParkedFrom s s') :
    ParkedAs s' line set := fun k' listed here =>
  have ⟨k, listed, line, same⟩ := kept k' listed
  same ▸ before k listed (line.trans here)

theorem ParkedAs.rset {s : State} {line : Nat} {set : Option RSet} (parked : ParkedAs s line set) {k : Locket}
    (here : locketAt s line = some k) : set = some k.rset :=
  parked k (List.mem_of_find?_eq_some here) (by simpa using List.find?_some here)

theorem ParkedAs.not_parked {s : State} {line : Nat} (parked : ParkedAs s line none) : locketAt s line = none :=
  List.find?_eq_none.2 fun k listed here => nomatch parked k listed (by simpa using here)

theorem parkedAs_of_not_parked {s : State} {line : Nat} (none : locketAt s line = none) (set : Option RSet) : ParkedAs s line set :=
  fun k listed here => absurd here (by simpa using List.find?_eq_none.1 none k listed)

theorem lockets_unpark (s : State) (line : Nat) : (unpark s line).coh.lockets = s.coh.lockets.filter fun k => k.line != line := by
  unfold unpark
  split
  next notParked =>
    exact (List.filter_eq_self.2 fun k hk => by simpa using List.find?_eq_none.1 notParked k hk).symm
  next => exact ite_keeps (fun x : State => x.coh.lockets) rfl (lockets_writeBack ..)

theorem parkedFrom_unpark (s : State) (line : Nat) : ParkedFrom s (unpark s line) :=
  .of_subset fun _ left => (List.mem_filter.1 (lockets_unpark s line ▸ left)).1

theorem parkedFrom_combine (s : State) (line : Nat) : ParkedFrom s (combine s line) := by
  unfold combine
  split
  · exact .of_eq rfl
  next p0 rest _ =>
    have taken := (lockets_takeOwnership (makeWay (recallExcl (unpark s line) line) (sliceOf s line) line) (sliceOf s line) line
      p0.key (launchOf s p0.launch).ctx).trans (lockets_makeWay _ _ _)
    dsimp only
    split
    · exact .of_eq rfl
    · refine (parkedFrom_unpark s line).trans ?_
      split
      next s1 d eq =>
        rw [eq] at taken
        refine .of_eq ((foldl_keeps (fun x : State => x.coh.lockets) (fun _ _ => foldl_keeps (fun x : State => x.coh.lockets)
          (fun _ _ => ?_) _ _) _ _).trans ?_)
        · rfl
        · exact (lockets_commitPos _ _ _ _ _).trans taken
      next s1 sub eq => rw [eq] at taken; exact .of_eq taken

theorem parkedFrom_hubPutAs (s : State) (reads : Bool) (key : Option Nat) (pa n v : Nat) :
    ParkedFrom s (hubPutAs s reads key pa n v) := by
  have landed : (landLine (stampWrite s (lineOf pa) (pa % 128) n) (lineOf pa)).coh.lockets = s.coh.lockets := lockets_landLine ..
  unfold hubPutAs
  dsimp only
  split
  · exact .of_eq (ite_keeps (fun x : State => x.coh.lockets) (lockets_poisonLine ..) rfl)
  · split
    · rintro k' listed
      obtain ⟨k, before, rfl⟩ := List.mem_map.1 listed
      exact ⟨k, landed ▸ before, by split <;> rfl, by split <;> rfl⟩
    · split
      · exact .of_eq ((lockets_commitPos _ _ _ _ _).trans landed)
      · exact .of_eq ((lockets_memPut _ _ _ _ _).trans landed)

theorem parkedFrom_hubWrite (s : State) (pa n v : Nat) : ParkedFrom s (hubWrite s pa n v) :=
  ((ParkedFrom.of_eq (lockets_recallHome s (lineOf pa))).trans (parkedFrom_combine _ _)).trans (parkedFrom_hubPutAs _ _ _ _ _ _)

/-- Two reads of the hub at their slices change only what the slices keep for regions. -/
theorem commitReads_eq (s : State) (a b : Nat) : ∃ r, commitRead (commitRead s a) b = { s with reg := r } := by
  obtain ⟨r, first, _⟩ := commitRead_eq s a
  obtain ⟨r', second, _⟩ := commitRead_eq (commitRead s a) b
  refine ⟨r', second.trans ?_⟩
  rw [first]

/-- A state whose entries gain the head of a queue, before HEAD moves on. -/
def headListed (s : State) (c q launch : Nat) (ready : Bool) (wct : Nat) (r : Reg) : State :=
  { s with reg := r, entries := tabPut s.entries s.nextId (headEntry s c q launch ready wct), nextId := s.nextId + 1 }

/-- The entry is listed as it stands, since the reads of the descriptor and of the entry change neither. -/
theorem takeEntry_eq (s : State) (c q launch : Nat) (ready : Bool) (wct : Nat) :
    ∃ r, takeEntry s c q launch ready wct = takeHead (headListed s c q launch ready wct r) c q := by
  obtain ⟨r, read⟩ := commitReads_eq s (lineOf (qAddr s c q)) (lineOf (qSlot s c q (qHead s c q)))
  refine ⟨r, ?_⟩
  unfold takeEntry
  rw [read]
  rfl

theorem parkedFrom_takeHead (s : State) (c q : Nat) : ParkedFrom s (takeHead s c q) := by
  unfold takeHead
  extract_lets s1 s2
  have written : ParkedFrom s s2 := (ParkedFrom.of_eq (s := s) (s' := s1) rfl).trans (parkedFrom_hubWrite _ _ _ _)
  split
  · exact written
  · exact written.trans (.of_eq rfl)

/-- Taking the entry at the head of a queue parks no line for another set. -/
theorem parkedFrom_takeEntry (s : State) (c q launch : Nat) (ready : Bool) (wct : Nat) :
    ParkedFrom s (takeEntry s c q launch ready wct) := by
  obtain ⟨r, eq⟩ := takeEntry_eq s c q launch ready wct
  rw [eq]
  exact (ParkedFrom.of_eq rfl).trans (parkedFrom_takeHead _ c q)

/-! ### A walk over one line (R268) -/

/-- What re-parking a line for a set leaves parked is parked for that set. -/
theorem parkedAs_rePark (s : State) (k : Locket) (set : RSet) (force launch : Nat) :
    ParkedAs (rePark s k set force launch).1 k.line (some set) := by
  unfold rePark
  dsimp only
  split
  next lv _ =>
    refine List.forall_mem_cons.2 ⟨fun _ => rfl, fun x listed here => absurd here ?_⟩
    simpa using (List.mem_filter.1 listed).2
  next =>
    intro x left here
    rw [lockets_parkedHome, List.mem_filter] at left
    exact absurd here (by simpa using left.2)

theorem parkedAs_unpark (s : State) (line : Nat) : ParkedAs (unpark s line) line none := by
  intro x left here
  rw [lockets_unpark, List.mem_filter] at left
  exact absurd here (by simpa using left.2)

theorem parkedAs_revise (s : State) (launch core : Nat) (rsd : Word) (k : Locket) :
    ParkedAs (revise launch core rsd s k).1 k.line (resolveRsd (launchOf s launch) rsd core) := by
  unfold revise
  split
  next set resolved => rw [resolved]; exact parkedAs_rePark _ _ _ _ _
  next resolved => rw [resolved]; exact parkedAs_unpark _ _

/-- A walk over one line that translates acts on its locket, if it has one. -/
theorem parkedAs_lockRange_line {unit c va : Nat} {f : State → Locket → State × Nat} {s : State} {x : Xl} {set : Option RSet}
    (canonical : va / 2 ^ 57 = 0) (translates : translate s unit c va = .ok x)
    (acts : ∀ k, ParkedAs (f (noteAccess s unit c va false) k).1 k.line set) :
    ParkedAs (lockRange unit c f 1 va s 0).1 (lineOf x.pa) set := by
  rw [lockRange, if_neg (not_not.2 canonical), translates]
  dsimp only
  split
  next k parked =>
    have here : k.line = lineOf x.pa := by simpa using List.find?_some parked
    exact here ▸ acts k
  next notParked => exact parkedAs_of_not_parked notParked _

/-- A walk over lines that are all canonical comes to its end. -/
theorem lockRange_canonical (unit c : Nat) (f : State → Locket → State × Nat) {n va : Nat} (below : va + n * 128 ≤ 2 ^ 57) (s : State)
    (moved : Nat) : (lockRange unit c f n va s moved).2.2 = none := by
  induction n generalizing va s moved with
  | zero => rfl
  | succ n ih =>
    have next := fun s m => ih (va := va + 128) (by omega) s m
    rw [lockRange, if_neg (not_not.2 (Nat.div_eq_of_lt (by omega)))]
    split
    · exact next ..
    · dsimp only
      split <;> exact next ..

end Sys2Proof.Machine

end

section

/-! ## Taking the head of a queue, and starting a launch (R17, R338, R340; for O50) -/

namespace Sys2Proof.Machine

open Sys2Proof

/-! ### What the command processor leaves alone beside memory and the contexts -/

/-- A state with what the memory system keeps and the table of contexts taken out. -/
def besideContexts (s : State) : State := { besideMemory s with ctxs := [] }

theorem besideContexts_of_besideMemory {s s' : State} (same : besideMemory s' = besideMemory s) : besideContexts s' = besideContexts s := by
  rw [besideContexts, besideContexts, same]

theorem besideContexts_modCtx (s : State) (c : Nat) (f : Ctx → Ctx) : besideContexts (modCtx s c f) = besideContexts s := rfl

section

variable {s s' : State} (same : besideContexts s' = besideContexts s)

include same

theorem threads_of_besideContexts : s'.threads = s.threads :=
  show (besideContexts s').threads = (besideContexts s).threads from congrArg State.threads same

theorem launches_of_besideContexts : s'.launches = s.launches :=
  show (besideContexts s').launches = (besideContexts s).launches from congrArg State.launches same

theorem entries_of_besideContexts : s'.entries = s.entries :=
  show (besideContexts s').entries = (besideContexts s).entries from congrArg State.entries same

theorem nextId_of_besideContexts : s'.nextId = s.nextId :=
  show (besideContexts s').nextId = (besideContexts s).nextId from congrArg State.nextId same

end

/-! ### Taking the head (R338) -/

theorem besideContexts_takeHead (s : State) (c q : Nat) : besideContexts (takeHead s c q) = besideContexts s := by
  unfold takeHead
  extract_lets s1 s2
  have written : besideContexts s2 = besideContexts s :=
    (besideContexts_of_besideMemory (besideMemory_hubWrite ..)).trans (besideContexts_modCtx ..)
  exact ite_keeps besideContexts written ((besideContexts_modCtx ..).trans written)

theorem besideContexts_takeEntry (s : State) (c q launch : Nat) (ready : Bool) (wct : Nat) :
    besideContexts (takeEntry s c q launch ready wct) =
      besideContexts { s with entries := tabPut s.entries s.nextId (headEntry s c q launch ready wct), nextId := s.nextId + 1 } := by
  obtain ⟨r, eq⟩ := takeEntry_eq s c q launch ready wct
  rw [eq, besideContexts_takeHead]
  rfl

/-- The entry taken is listed under the next number. -/
theorem find_takeEntry (s : State) (c q launch : Nat) (ready : Bool) (wct : Nat) :
    tabFind (takeEntry s c q launch ready wct).entries s.nextId = some (headEntry s c q launch ready wct) := by
  rw [entries_of_besideContexts (besideContexts_takeEntry ..)]
  exact tabFind_tabPut_self ..

/-! ### Starting a launch (R17, R340) -/

theorem besideMemory_trimQuota (c n : Nat) (s : State) : besideMemory (trimQuota c n s) = besideMemory s := by
  induction n generalizing s with
  | zero => rfl
  | succ n ih =>
    unfold trimQuota
    split
    · exact (ih _).trans (besideMemory_parkedHome ..)
    · rfl

theorem besideContexts_applyDesc (s : State) (c : Nat) : besideContexts (applyDesc s c) = besideContexts s := by
  unfold applyDesc
  split
  · exact (besideContexts_of_besideMemory (besideMemory_trimQuota ..)).trans (besideContexts_modCtx ..)
  · rfl

/-- A launch once it has started: no queue place is kept for it, and a grid-barrier launch has its places reserved. -/
def launchStarted (startAt : Nat) (l : Launch) : Launch := { l with slot := none, reserved := l.lrec.grid, startAt := startAt }

/-- A launch that starts changes its own record and adds one thread. -/
theorem besideContexts_startLaunch (s : State) (c la : Nat) : ∃ v startAt,
    besideContexts (startLaunch s c la) = besideContexts { s with
      launches := v.launches, threads := tabPut s.threads s.nextId (rootThread v c la), nextId := s.nextId + 1 } ∧
    ∀ l, tabFind s.launches la = some l → tabFind v.launches la = some (launchStarted startAt l) := by
  unfold startLaunch
  extract_lets s0 r s1 s2 s3
  have applied : besideContexts s0 = besideContexts s := besideContexts_applyDesc ..
  have stored : besideContexts s3 = besideContexts s1 :=
    (besideContexts_modCtx ..).trans (besideContexts_of_besideMemory (besideMemory_hubWriteVa ..))
  refine ⟨s3, hubWct s0 c r.pdest.toNat r.plen 3, ?_, fun l listed => ?_⟩
  · have started : besideContexts s3 = besideContexts { s with launches := s3.launches } := by
      rw [stored, launches_of_besideContexts stored]
      exact congrArg (fun x : State => { x with launches := s1.launches }) applied
    have number : s3.nextId = s.nextId := (nextId_of_besideContexts started :)
    have threads : s3.threads = s.threads := (threads_of_besideContexts started :)
    rw [← number, ← threads]
    exact congrArg (fun x : State => { x with threads := tabPut s3.threads s3.nextId (rootThread s3 c la), nextId := s3.nextId + 1 }) started
  · have before : tabFind s0.launches la = some l := launches_of_besideContexts applied ▸ listed
    rw [launches_of_besideContexts stored, modLaunch_launches, tabFind_tabMod, if_pos rfl, before, Option.map_some]
    simp [r, launchStarted, launchOf, before]

/-- The span a launch starts as: its whole index space at ENTRY, with no register set, and its record kept but for what the start
sets. -/
theorem startLaunch_starts {s : State} {c la : Nat} {l : Launch} (listed : tabFind s.launches la = some l) :
    ∃ n u startAt, tabFind (startLaunch s c la).threads n = some u ∧ u.ctx = c ∧ u.launch = la ∧ u.pc = l.lrec.ent ∧
      u.box = wholeBox l.lrec ∧ u.seat = none ∧ u.sregs = [] ∧ u.toks = [] ∧ u.wct = 0 ∧ u.wait = .none ∧
      tabFind (startLaunch s c la).launches la = some (launchStarted startAt l) ∧ (startLaunch s c la).entries = s.entries := by
  obtain ⟨v, startAt, same, kept⟩ := besideContexts_startLaunch s c la
  have known : launchOf v la = launchStarted startAt l := by rw [launchOf, kept l listed, Option.getD_some]
  refine ⟨s.nextId, rootThread v c la, startAt, ?_, rfl, rfl, ?_, ?_, rfl, rfl, rfl, rfl, rfl, ?_, (entries_of_besideContexts same :)⟩
  · rw [threads_of_besideContexts same]
    exact tabFind_tabPut_self ..
  · exact (congrArg (fun l : Launch => l.lrec.ent) known :)
  · exact (congrArg (fun l : Launch => wholeBox l.lrec) known :)
  · rw [launches_of_besideContexts same]
    exact kept l listed

/-! ### The descriptor after the head is taken or failed (R337 to R339) -/

theorem qAddr_modCtx (s : State) (c q : Nat) {f : Ctx → Ctx} (keeps : ∀ x, (f x).qtable = x.qtable) :
    qAddr (modCtx s c f) c q = qAddr s c q := by
  unfold qAddr ctxOf
  rw [modCtx_ctxs, tabFind_tabMod, if_pos rfl]
  cases tabFind s.ctxs c with
  | none => rfl
  | some x => simp [keeps]

theorem qAddr_hubWrite (s : State) (pa n v c q : Nat) : qAddr (hubWrite s pa n v) c q = qAddr s c q := by
  rw [qAddr, qAddr, ctxOf, ctxOf, ctxs_of_besideMemory (besideMemory_hubWrite ..)]

section

variable {s : State} (out : NothingOut s)

include out

theorem qHead_takeHead (c q : Nat) : qHead (takeHead s c q) c q = (qHead s c q + 1) % 2 ^ 64 := by
  have noted : NothingOut (noteServed s c q) := ⟨out.lockets, out.l2, out.wbacks, out.partials, out.remote, out.poison⟩
  have same : qAddr (noteServed s c q) c q = qAddr s c q := qAddr_modCtx _ _ _ fun _ => rfl
  unfold takeHead
  extract_lets s1 s2
  have addr : qAddr s2 c q = qAddr s c q := (qAddr_hubWrite ..).trans same
  have moved : hubRead s2 (qAddr s c q + 8 * 2) 8 = (qHead s c q + 1) % 2 ^ 64 :=
    (hubRead_hubWrite_self noted ..).trans (Nat.mod_mod _ _)
  split
  · rw [qHead, qWord, addr, moved]
  · rw [qHead, qWord, qAddr_modCtx, addr]
    · exact moved
    · exact fun _ => rfl

theorem qHead_takeEntry (c q launch : Nat) (ready : Bool) (wct : Nat) :
    qHead (takeEntry s c q launch ready wct) c q = (qHead s c q + 1) % 2 ^ 64 := by
  obtain ⟨r, eq⟩ := takeEntry_eq s c q launch ready wct
  rw [eq]
  exact qHead_takeHead (s := headListed s c q launch ready wct r)
    ⟨out.lockets, out.l2, out.wbacks, out.partials, out.remote, out.poison⟩ c q

/-- An error changes only the descriptor's flags word, in which EN is clear and ERR set if it was not. -/
theorem qWord_qError (c q code : Nat) : qWord (qError s c q code) c q 1 = (bitsAt (qWord s c q 1) 0 16 + bitsAt (qWord s c q 1) 17 7 * 2 ^ 17
      + (if bitsAt (qWord s c q 1) 24 8 = 0 then code % 256 else bitsAt (qWord s c q 1) 24 8) * 2 ^ 24
      + bitsAt (qWord s c q 1) 32 32 * 2 ^ 32) % 2 ^ 64 := by
  rw [qWord, qError, qAddr_hubWrite]
  exact hubRead_hubWrite_self out _ 8 _

theorem qHead_qError (c q code : Nat) : qHead (qError s c q code) c q = qHead s c q := by
  rw [qHead, qWord, qError, qAddr_hubWrite]
  exact hubRead_hubWrite_other out _ (.inr (by omega))

theorem qEn_qError (c q code : Nat) : qEn (qError s c q code) c q = false := by
  rw [qEn, qWord_qError out, Nat.testBit_eq_decide_div_mod_eq]
  unfold bitsAt
  simp only [decide_eq_false_iff_not]
  split <;> omega

theorem err_qError (c q : Nat) {code : Nat} (byte : code < 256) : bitsAt (qWord (qError s c q code) c q 1) 24 8 =
    if bitsAt (qWord s c q 1) 24 8 = 0 then code else bitsAt (qWord s c q 1) 24 8 := by
  rw [qWord_qError out]
  unfold bitsAt
  split <;> omega

end

end Sys2Proof.Machine

end

section

/-! ## The command processor's entries, and the end of a launch (R337 to R342; O50) -/

namespace Sys2Proof.Machine

open Sys2Proof

/-! ### The head of the queue whose turn it is (R338, R339) -/

theorem inTable_listed {s : State} {c : Nat} {x : Ctx} (listed : tabFind s.ctxs c = some x) (registered : x.fcbOnly = false) :
    inTable s c = true := by
  simp [inTable, listed, registered]

/-- What a LAUNCH entry does with a record of its own. -/
def launchRead (s : State) (c q : Nat) (b : List Byte) : Out :=
  let s1 := acquireTables (hubAcquire s c (headWord s c q 1) 256) c (parseRec b)
  if launchFails s1 c b ≠ 0 then
    .next (writeCompl (takeEntry s1 c q 0 true (complWct s1 c (parseRec b).compl)) c 0 (parseRec b).compl 1 0 (launchFails s1 c b) 0 0)
  else .next (startLaunch (takeEntry (addLaunch s1 (newLaunch s1 c b none)) c q s1.nextId false (rtNs s)) c s1.nextId)

/-! ### The range of a KREV or KDROP entry (R268, R339) -/

/-- The walk over the lockets of the range that the entry at the head names. -/
def headWalk (s : State) (c q : Nat) (f : State → Locket → State × Nat) : State × Nat × Option Nat :=
  lockRange hubUnit c f (rangeLines (headWord s c q 1) (headWord s c q 2)) (headWord s c q 1 / 128 * 128) s 0

/-- Whether the range of the entry at the head is empty or reaches no address that is not canonical. -/
def HeadCanonical (s : State) (c q : Nat) : Prop := headWord s c q 2 = 0 ∨ headWord s c q 1 + headWord s c q 2 ≤ 2 ^ 57

theorem entryRange_eq (s : State) (c q : Nat) (f : State → Locket → State × Nat) :
    entryRange s c q f = ((headWalk s c q f).1, (headWalk s c q f).2.2.isSome) := by
  unfold entryRange headWalk rangeLines
  dsimp only
  split <;> rfl

theorem headWalk_canonical {s : State} {c q : Nat} (canonical : HeadCanonical s c q) (f : State → Locket → State × Nat) :
    (headWalk s c q f).2.2 = none := by
  unfold headWalk rangeLines
  split
  · rfl
  next nonempty =>
    have fits := canonical.resolve_left nonempty
    refine lockRange_canonical _ _ _ ?_ _ _
    unfold lineSpan
    omega

theorem headWalk_past {s : State} {c q : Nat} (past : ¬ HeadCanonical s c q) (f : State → Locket → State × Nat) :
    (headWalk s c q f).2.2.isSome = true := by
  obtain ⟨nonempty, beyond⟩ := not_or.1 past
  obtain ⟨s1, m, walk⟩ := lockRange_nonCanonical hubUnit c f (n := rangeLines (headWord s c q 1) (headWord s c q 2))
    (va := headWord s c q 1 / 128 * 128) (by omega) (by rw [rangeLines, if_neg nonempty, lineSpan]; omega)
    (by rw [rangeLines, if_neg nonempty, lineSpan]; omega) s 0
  rw [headWalk, walk]
  rfl

/-- The walk of a range within one line that translates. -/
theorem parkedAs_headWalk_line {s : State} {c q : Nat} {f : State → Locket → State × Nat} {x : Xl} {set : Option RSet}
    (canonical : HeadCanonical s c q) (nonempty : headWord s c q 2 ≠ 0)
    (line : headWord s c q 1 / 128 = (headWord s c q 1 + headWord s c q 2 - 1) / 128)
    (translates : translate s hubUnit c (headWord s c q 1 / 128 * 128) = .ok x)
    (acts : ∀ k, ParkedAs (f (noteAccess s hubUnit c (headWord s c q 1 / 128 * 128) false) k).1 k.line set) :
    ParkedAs (headWalk s c q f).1 (lineOf x.pa) set := by
  have fits := canonical.resolve_left nonempty
  rw [headWalk, rangeLines_within (by omega) (by omega)]
  exact parkedAs_lockRange_line (by omega) translates acts

/-- Whether the descriptor of a KREV entry at the head is sound for the context's latest launch (R339). -/
def HeadSound (s : State) (c q : Nat) : Prop :=
  let rsd : Word := BitVec.ofNat 64 (headWord s c q 3)
  let la := (ctxOf s c).latest
  (rsdKind rsd = 0 ∨ (la ≠ 0 ∧ 2 ≤ rsdKind rsd ∧ rsdKind rsd ≤ 4)) ∧ rsdFault (launchOf s la) rsd 0 = none

/-- What a KREV entry at the head does to a locket of its range. -/
def headRevise (s : State) (c q : Nat) : State → Locket → State × Nat :=
  revise (ctxOf s c).latest 0 (BitVec.ofNat 64 (headWord s c q 3))

/-- What a KDROP entry at the head does to a locket of its range. -/
def headDrop (s2 : State) (k : Locket) : State × Nat := (unpark s2 k.line, 0)

section

variable {s : State} {c q : Nat} {x : Ctx} (listed : tabFind s.ctxs c = some x) (registered : x.fcbOnly = false) (below : q < 64)
  (table : backed s (qAddr s c q) = true) (ring : backed s (qSlot s c q (qHead s c q)) = true) (turn : qTurn s c q = true)

include listed registered below table ring turn

/-- The head is acted on unless a field of it is bad. -/
theorem onHead_turn {kind : Nat} (isKind : headKind s c q = kind) (name : String) (k : Out) :
    onHead s name c q kind k = if headBad s c q then .next (qError s c q (kind ||| 128)) else k := by
  simp [onHead, needBacked, inTable_listed listed registered, Nat.not_le.2 below, table, ring, turn, isKind]

theorem exec_launchEntry_reserved (reserved : headKind s c q = 0 ∨ 4 < headKind s c q) :
    exec (.launchEntry c q) s = .next (qError s c q (headKind s c q ||| 128)) := by
  show execLaunchEntry c q s = _
  unfold execLaunchEntry
  dsimp only
  rw [if_pos reserved, onHead_turn listed registered below table ring turn rfl, ite_self]

/-- A head with a bad field fails. -/
theorem exec_bad (bad : headBad s c q = true) :
    (headKind s c q = 1 → exec (.launchEntry c q) s = .next (qError s c q 0x81)) ∧
    (headKind s c q = 2 → exec (.krevEntry c q) s = .next (qError s c q 0x82)) ∧
    (headKind s c q = 3 → exec (.kdropEntry c q) s = .next (qError s c q 0x83)) ∧
    (headKind s c q = 4 → exec (.waitEntry c q) s = .next (qError s c q 0x84)) := by
  have fails {kind : Nat} (isKind : headKind s c q = kind) (name : String) (k : Out) :
      onHead s name c q kind k = .next (qError s c q (kind ||| 128)) := by
    rw [onHead_turn listed registered below table ring turn isKind, if_pos bad]
  refine ⟨fun isKind => ?_, fun isKind => fails isKind .., fun isKind => fails isKind .., fun isKind => fails isKind ..⟩
  show execLaunchEntry c q s = _
  unfold execLaunchEntry
  dsimp only
  rw [if_neg (by omega)]
  exact fails isKind ..

section

variable (good : headBad s c q = false)

include good

theorem onHead_good {kind : Nat} (isKind : headKind s c q = kind) (name : String) (k : Out) : onHead s name c q kind k = k := by
  rw [onHead_turn listed registered below table ring turn isKind, good, if_neg Bool.false_ne_true]

/-- A LAUNCH entry starts the launch that `dlaunch` submitted, or reads its record, and fails where it cannot. -/
theorem launchEntry_acts (isKind : headKind s c q = 1) :
    (headChild s c q = none → headRec s c q = none → exec (.launchEntry c q) s = .next (qError s c q 0x81)) ∧
    (headChild s c q = none → ∀ b, headRec s c q = some b → exec (.launchEntry c q) s = launchRead s c q b) ∧
    (∀ la, headChild s c q = some la →
      exec (.launchEntry c q) s = .next (startLaunch (takeEntry s c q la false (rtNs s)) c la)) := by
  have run : exec (.launchEntry c q) s = execLaunchEntry c q s := rfl
  unfold execLaunchEntry at run
  dsimp only at run
  rw [if_neg (by omega), onHead_good listed registered below table ring turn good isKind] at run
  refine ⟨fun child record => ?_, fun child b record => ?_, fun la child => ?_⟩
  · rw [run, child, record]
  · rw [run, child, record]
    rfl
  · rw [run, child]

/-- A KREV entry with an unsound set fails; one with a sound set revises its range, and fails where that is not canonical. -/
theorem krevEntry_acts (isKind : headKind s c q = 2) :
    (¬ HeadSound s c q → exec (.krevEntry c q) s = .next (qError s c q 0x82)) ∧
    (HeadSound s c q → HeadCanonical s c q →
      exec (.krevEntry c q) s = .next (takeEntry (headWalk s c q (headRevise s c q)).1 c q 0 true (rtNs s))) ∧
    (HeadSound s c q → ¬ HeadCanonical s c q →
      exec (.krevEntry c q) s = .next (qError (headWalk s c q (headRevise s c q)).1 c q 0x82)) := by
  have run : exec (.krevEntry c q) s = execKrevEntry c q s := rfl
  unfold execKrevEntry at run
  rw [onHead_good listed registered below table ring turn good isKind] at run
  extract_lets rsd la k ok r at run
  have checked : ok = true ↔ HeadSound s c q := by simp [ok, k, HeadSound, rsd, la, and_assoc]
  have walked : r = ((headWalk s c q (headRevise s c q)).1, (headWalk s c q (headRevise s c q)).2.2.isSome) := entryRange_eq ..
  refine ⟨fun unsound => ?_, fun sound canonical => ?_, fun sound past => ?_⟩
  · rw [run, if_pos (by simpa using mt checked.1 unsound)]
  · rw [run, if_neg (by simpa using checked.2 sound), walked, headWalk_canonical canonical]
    rfl
  · rw [run, if_neg (by simpa using checked.2 sound), walked, headWalk_past past, if_pos rfl]

theorem kdropEntry_acts (isKind : headKind s c q = 3) :
    (HeadCanonical s c q → exec (.kdropEntry c q) s = .next (takeEntry (headWalk s c q headDrop).1 c q 0 true (rtNs s))) ∧
    (¬ HeadCanonical s c q → exec (.kdropEntry c q) s = .next (qError (headWalk s c q headDrop).1 c q 0x83)) := by
  have run : exec (.kdropEntry c q) s = execKdropEntry c q s := rfl
  unfold execKdropEntry at run
  rw [onHead_good listed registered below table ring turn good isKind] at run
  extract_lets r at run
  have walked : r = ((headWalk s c q headDrop).1, (headWalk s c q headDrop).2.2.isSome) := entryRange_eq ..
  refine ⟨fun canonical => ?_, fun past => ?_⟩
  · rw [run, walked, headWalk_canonical canonical]
    rfl
  · rw [run, walked, headWalk_past past, if_pos rfl]

theorem waitEntry_acts (isKind : headKind s c q = 4) :
    (∀ v, waitWord s c q = some v →
      exec (.waitEntry c q) s = .next (takeEntry (hubAcquire s c (headWord s c q 1) 8) c q 0 true (rtNs s))) ∧
    (waitWord s c q = none → exec (.waitEntry c q) s = .next (qError s c q 0x84)) := by
  have run : exec (.waitEntry c q) s = execWaitEntry c q s := rfl
  unfold execWaitEntry at run
  rw [onHead_good listed registered below table ring turn good isKind] at run
  exact ⟨fun v read => by rw [run, read], fun unread => by rw [run, unread]⟩

end

end

/-- After a walk over one line and the taking of the entry the line is parked for the new set or not parked. -/
theorem parkedAs_taken {s : State} {c q : Nat} {f : State → Locket → State × Nat} {x : Xl} {set : Option RSet}
    (canonical : HeadCanonical s c q) (nonempty : headWord s c q 2 ≠ 0)
    (line : headWord s c q 1 / 128 = (headWord s c q 1 + headWord s c q 2 - 1) / 128)
    (translates : translate s hubUnit c (headWord s c q 1 / 128 * 128) = .ok x)
    (acts : ∀ k, ParkedAs (f (noteAccess s hubUnit c (headWord s c q 1 / 128 * 128) false) k).1 k.line set) :
    ParkedAs (takeEntry (headWalk s c q f).1 c q 0 true (rtNs s)) (lineOf x.pa) set :=
  (parkedAs_headWalk_line canonical nonempty line translates acts).keep (parkedFrom_takeEntry _ _ _ _ _ _)

theorem parkedAs_headRevise {s s' : State} (same : s'.launches = s.launches) (c q : Nat) (k : Locket) :
    ParkedAs (headRevise s c q s' k).1 k.line
      (resolveRsd (launchOf s (ctxOf s c).latest) (BitVec.ofNat 64 (headWord s c q 3)) 0) := by
  have known : launchOf s' (ctxOf s c).latest = launchOf s (ctxOf s c).latest := by rw [launchOf, launchOf, same]
  exact known ▸ parkedAs_revise s' (ctxOf s c).latest 0 _ k

/-- A launch whose record passes its checks is listed, its entry is, and its first span stands at ENTRY (R17, R340). -/
theorem launchTaken_starts (s1 : State) (c q now : Nat) (b : List Byte) : ∃ n u l e,
    let t := startLaunch (takeEntry (addLaunch s1 (newLaunch s1 c b none)) c q s1.nextId false now) c s1.nextId
    tabFind t.threads n = some u ∧ u.ctx = c ∧ u.launch = s1.nextId ∧ u.pc = (parseRec b).ent ∧
      u.box = wholeBox (parseRec b) ∧ u.seat = none ∧ u.wait = .none ∧
      tabFind t.launches s1.nextId = some l ∧ l.lrec = parseRec b ∧ l.ctx = c ∧ l.finished = false ∧
      tabFind t.entries (s1.nextId + 1) = some e ∧ e.ctx = c ∧ e.queue = q ∧ e.launch = s1.nextId ∧ e.ready = false := by
  have listed : tabFind (takeEntry (addLaunch s1 (newLaunch s1 c b none)) c q s1.nextId false now).launches s1.nextId =
      some (newLaunch s1 c b none) := by
    rw [launches_of_besideContexts (besideContexts_takeEntry ..)]
    exact tabFind_tabPut_self ..
  obtain ⟨n, u, startAt, found, ctx, launch, pc, box, seat, _, _, _, wait, kept, entries⟩ := startLaunch_starts (c := c) listed
  exact ⟨n, u, _, _, found, ctx, launch, pc, box, seat, wait, kept, rfl, rfl, rfl,
    entries ▸ find_takeEntry (addLaunch s1 (newLaunch s1 c b none)) c q s1.nextId false now, rfl, rfl, rfl, rfl⟩

/-! ### Completed entries, doorbells and completed launches (R337, R338, R341) -/

section

variable {s : State} {n : Nat} {e : Entry} (listed : tabFind s.entries n = some e) (ready : e.ready = true) (come : e.wct ≤ rtNs s)
  (table : physWaits s (qAddr s e.ctx e.queue) 32 true = false)
  (signal : e.sigAddr ≠ 0 → rangeWaits s e.ctx e.sigAddr.toNat 8 true = false)

include listed ready come table signal

/-- An entry that is ready and whose writes go now signals its completion, where it names a place that can be written. -/
theorem exec_queueEntryComplete_ready : exec (.queueEntryComplete n) s =
    let s1 : State := { s with entries := tabDel s.entries n }
    if e.sigAddr = 0 then .next s1
    else if e.sigAddr.toNat % 8 = 0 ∧ rangeOk s e.ctx e.sigAddr.toNat 8 true then
      .next (hubWriteVa s1 e.ctx e.sigAddr.toNat (leBytes 8 e.sigVal.toNat))
    else .next (qError s1 e.ctx e.queue (e.kind ||| 0xC0)) := by
  have goes : (!e.ready || rtNs s < e.wct || (e.sigAddr != 0 && rangeWaits s e.ctx e.sigAddr.toNat 8 true)
      || physWaits s (qAddr s e.ctx e.queue) 32 true) = false := by
    by_cases unnamed : e.sigAddr = 0
    · simp [ready, Nat.not_lt.2 come, table, unnamed]
    · simp [ready, Nat.not_lt.2 come, table, signal unnamed]
  show execQueueEntryComplete n s = _
  unfold execQueueEntryComplete
  rw [listed]
  dsimp only
  rw [goes, if_neg Bool.false_ne_true]

end

theorem subset_insertNat (l : List Nat) (x : Nat) {k : Nat} (before : k ∈ l) : k ∈ insertNat l x := by
  unfold insertNat
  split
  · exact before
  · exact List.mem_append_left _ before

/-- A doorbell wakes a queue of a registered context, and no queue beyond the last. -/
theorem exec_doorbell_registered {s : State} {c : Nat} {x : Ctx} (listed : tabFind s.ctxs c = some x) (registered : x.fcbOnly = false)
    (v : BitVec 64) : (64 ≤ v.toNat → exec (.doorbell c v) s = .next s) ∧
    (v.toNat < 64 → exec (.doorbell c v) s = .next (modCtx s c fun y => { y with woken := insertNat y.woken v.toNat })) := by
  have run : exec (.doorbell c v) s = if 64 ≤ v.toNat then .next s else
      .next (modCtx s c fun y => { y with woken := insertNat y.woken v.toNat }) := by
    show execDoorbell c v s = _
    rw [execDoorbell, inTable_listed listed registered]
    rfl
  exact ⟨fun beyond => by rw [run, if_pos beyond], fun below => by rw [run, if_neg (Nat.not_le.2 below)]⟩

/-- A line's write completion time is no later than that of the range of which it is a line. -/
theorem wctOf_le_hubWct {s : State} {c va n scope : Nat} {x : Nat × Nat} (line : x ∈ hubLines s c va n) :
    wctOf s scope x.1 (sliceOf s x.1) (sliceOf s x.1) none ≤ hubWct s c va n scope :=
  (isGreatest_foldl_max (fun l : Nat × Nat => wctOf s scope l.1 (sliceOf s l.1) (sliceOf s l.1) none) (hubLines s c va n)
    isGreatest_singleton).2 (.inr ⟨x, line, rfl⟩)

/-- The entry of a launch that has completed is ready once its completion record is written. -/
def entryDone (la wct : Nat) (e : Nat × Entry) : Nat × Entry :=
  if e.2.launch = la then (e.1, { e.2 with ready := true, wct := wct }) else e

theorem entryDone_ready {la wct : Nat} {e : Nat × Entry} (own : (entryDone la wct e).2.launch = la) :
    (entryDone la wct e).2.ready = true ∧ (entryDone la wct e).2.wct = wct := by
  unfold entryDone at own ⊢
  split
  · exact ⟨rfl, rfl⟩
  next other => rw [if_neg other] at own; exact absurd own other

section

variable {s : State} {la : Nat} {l : Launch} (listed : tabFind s.launches la = some l) (opened : l.finished = false) (placed : l.slot = none)
  (ended : l.status = 0) (quiet : launchQuiet s la l = true) (items : liveItems s la = 0) (threads : ∀ t ∈ s.threads, t.2.launch ≠ la)
  (record : l.lrec.compl ≠ 0 → rangeWaits s l.ctx l.lrec.compl.toNat 32 true = false)

include listed opened placed ended quiet items threads record

/-- A launch of which no item and no work is left completes: its completion record is written and its entry is ready. -/
theorem exec_launchComplete_done : exec (.launchComplete la) s =
    let s1 := writeCompl s l.ctx la l.lrec.compl 0 l.firstFault 0 (l.retired.map boxVolume).sum l.records
    .next { s1 with
      launches := tabMod s1.launches la fun x => { x with finished := true, reserved := false }
      entries := s1.entries.map (entryDone la (complWct s l.ctx l.lrec.compl)) } := by
  have noThread : (s.threads.any fun t => t.2.launch == la && !(t.2.seat.any (·.retired))) = false :=
    List.any_eq_false.2 fun t ht => by simp [threads t ht]
  have goes : (l.finished || l.slot.isSome || !launchQuiet s la l
      || (l.lrec.compl != 0 && rangeWaits s l.ctx l.lrec.compl.toNat 32 true) || (l.status == 0 && liveItems s la != 0)
      || (s.threads.any fun t => t.2.launch == la && !(t.2.seat.any (·.retired)))) = false := by
    by_cases unnamed : l.lrec.compl = 0
    · simp [opened, placed, quiet, ended, items, noThread, unnamed]
    · simp [opened, placed, quiet, ended, items, noThread, record unnamed]
  show execLaunchComplete la s = _
  unfold execLaunchComplete
  rw [listed]
  dsimp only
  rw [goes, if_neg Bool.false_ne_true, if_pos ended, ended, List.sum_eq_foldl]
  rfl

end

end Sys2Proof.Machine

namespace Sys2Proof.Laws

open Sys2Proof Sys2Proof.Machine

/-- Settles O50: the head of the queue whose turn it is acts as its kind says, what taking or failing it leaves of the descriptor is
what the hub has written there, and launches start and complete. -/
theorem queuesAndLaunches : Obligations.QueuesAndLaunches := by
  unfold Obligations.QueuesAndLaunches
  refine ⟨fun s c q x listed registered below table ring turn => ?_, fun s c q launch code wct ready => ?_, fun s => ⟨?_, ?_, ?_, ?_⟩⟩
  · extract_lets kind fails bad base len canonical ranged rsd la sound drop
    have failsAs {k : Nat} (isKind : kind = k) : fails = .next (qError s c q (k ||| 128)) := by rw [← isKind]
    refine ⟨exec_launchEntry_reserved listed registered below table ring turn, fun isBad => ?_, fun good isKind child => ?_,
      fun good isKind => (launchEntry_acts listed registered below table ring turn good isKind).2.2, fun good isKind => ?_,
      fun good isKind => ?_, fun good isKind => ?_⟩
    · obtain ⟨onLaunch, onRev, onDrop, onWord⟩ := exec_bad listed registered below table ring turn isBad
      exact ⟨fun isKind => (onLaunch isKind).trans (failsAs isKind).symm, fun isKind => (onRev isKind).trans (failsAs isKind).symm,
        fun isKind => (onDrop isKind).trans (failsAs isKind).symm, fun isKind => (onWord isKind).trans (failsAs isKind).symm⟩
    · obtain ⟨unread, read, -⟩ := launchEntry_acts listed registered below table ring turn good isKind
      refine ⟨fun record => (unread child record).trans (failsAs isKind).symm, fun b record => ?_⟩
      extract_lets s1
      have run : exec (.launchEntry c q) s = launchRead s c q b := read child b record
      refine ⟨fun failed => run.trans (if_pos failed), fun passed => ?_⟩
      obtain ⟨n, u, l, e, starts⟩ := launchTaken_starts s1 c q (rtNs s) b
      exact ⟨_, n, u, l, e, run.trans (if_neg (not_not.2 passed)), rfl, starts⟩
    · obtain ⟨unsound, within, past⟩ := krevEntry_acts listed registered below table ring turn good isKind
      refine ⟨fun h => (unsound h).trans (failsAs isKind).symm, within, fun h fits nonempty line y translates => ?_, past⟩
      refine ⟨_, within h fits, fun k parked => ?_⟩
      exact (parkedAs_taken fits nonempty line translates fun k =>
        parkedAs_headRevise (launches_of_besideMemory (besideMemory_noteAccess ..)) c q k).rset parked
    · obtain ⟨within, past⟩ := kdropEntry_acts listed registered below table ring turn good isKind
      refine ⟨within, fun fits nonempty line y translates => ⟨_, within fits, ?_⟩, past⟩
      exact (parkedAs_taken fits nonempty line translates fun k => parkedAs_unpark _ _).not_parked
    · obtain ⟨read, unread⟩ := waitEntry_acts listed registered below table ring turn good isKind
      exact ⟨read, fun h => (unread h).trans (failsAs isKind).symm⟩
  · have kept := besideContexts_takeEntry s c q launch ready wct
    refine ⟨⟨_, find_takeEntry .., rfl, rfl, rfl, rfl, rfl, rfl, BitVec.toNat_ofNat .., BitVec.toNat_ofNat ..⟩,
      (threads_of_besideContexts kept :), (launches_of_besideContexts kept :),
      fun lockets l2 wbacks partials remote poison byte => ?_⟩
    have out : NothingOut s := ⟨lockets, l2, wbacks, partials, remote, poison⟩
    exact ⟨qHead_takeEntry out .., qEn_qError out .., err_qError out c q byte, qHead_qError out ..⟩
  · intro n e listed ready come table signal
    have run := exec_queueEntryComplete_ready listed ready come table signal
    extract_lets s1 writable
    exact ⟨fun unnamed => run.trans (if_pos unnamed), fun named ok => run.trans ((if_neg named).trans (if_pos ok)),
      fun named bad => run.trans ((if_neg named).trans (if_neg bad))⟩
  · intro c x v listed registered
    obtain ⟨beyond, wakes⟩ := exec_doorbell_registered listed registered v
    have woken := ctxOf_modCtx listed fun y => { y with woken := insertNat y.woken v.toNat }
    refine ⟨beyond, fun below => ⟨_, wakes below, ?_, fun k before => ?_, rfl⟩⟩
    · rw [woken]
      exact mem_insertNat ..
    · rw [woken]
      exact subset_insertNat _ _ (ctxOf_listed listed ▸ before)
  · intro c la l listed
    obtain ⟨n, u, _, found, ctx, launch, pc, box, seat, sregs, toks, wct, wait, _⟩ := startLaunch_starts (c := c) listed
    exact ⟨n, u, found, ctx, launch, pc, box, seat, sregs, toks, wct, wait⟩
  · intro la l listed opened placed ended quiet items threads record s1
    refine ⟨_, exec_launchComplete_done listed opened placed ended quiet items threads record, rfl, fun e done own => ?_,
      fun y line named => ?_, fun l' found => ?_⟩
    · obtain ⟨e0, _, rfl⟩ := List.mem_map.1 done
      exact entryDone_ready own
    · rw [complWct, if_neg named]
      exact wctOf_le_hubWct line
    · dsimp only
      rw [tabFind_tabMod, if_pos rfl, found, Option.map_some]

end Sys2Proof.Laws

end
